-- ==== Sys2Proof/Word.lean ====
section
/-!
DEFINITION. Words, bytes, and the two plain containers of the model.

* `Word`, `Byte`: what the manual treats as bits.
* `Tab α`: a finite table by index, for the register files and sparse stores of the module. An index
  that the table does not list holds the table's default, which the reader passes.
-/

namespace Sys2Proof

/-- A 32-bit register or memory word. -/
abbrev Word := BitVec 32

/-- A byte of host memory. -/
abbrev Byte := BitVec 8

/-- The word that holds the low 32 bits of a count. -/
def wordOf (n : Nat) : Word := BitVec.ofNat 32 n

/-- The word that holds a signed number in two's complement. -/
def wordOfInt (i : Int) : Word := BitVec.ofInt 32 i

/-- Bits `hi` down to `lo` of a word, as a number. -/
def bitsOf (w : Word) (hi lo : Nat) : Nat := (w.toNat >>> lo) % 2 ^ (hi + 1 - lo)

/-- Bit `i` of a word. -/
def bitOf (w : Word) (i : Nat) : Bool := w.getLsbD i

/-- A condition as the number 1 or 0. -/
def oneIf (b : Bool) : Nat := if b then 1 else 0

/-- A table by index: pairs of an index and its entry. -/
abbrev Tab (α : Type) := List (Nat × α)

/-- The entry of `k`, or `d` where the table lists none. -/
def Tab.get {α : Type} (d : α) : Tab α → Nat → α
  | [], _ => d
  | (j, v) :: r, k => if k = j then v else Tab.get d r k

/-- The table with entry `v` at `k`, kept in rising order of index. -/
def Tab.put {α : Type} : Tab α → Nat → α → Tab α
  | [], k, v => [(k, v)]
  | (j, w) :: r, k, v =>
    if k = j then (k, v) :: r
    else if k < j then (k, v) :: (j, w) :: r
    else (j, w) :: Tab.put r k v

/-- The table without an entry at `k`. -/
def Tab.del {α : Type} (t : Tab α) (k : Nat) : Tab α := t.filter (fun e => e.1 != k)

/-- The entry of `k`, if the table lists one. -/
def Tab.find {α : Type} : Tab α → Nat → Option α
  | [], _ => none
  | (j, v) :: r, k => if k = j then some v else Tab.find r k

/-- `n` little-endian bytes of a number. -/
def leBytes : Nat → Nat → List Byte
  | 0, _ => []
  | n + 1, v => BitVec.ofNat 8 v :: leBytes n (v / 256)

/-- The number that little-endian bytes spell. -/
def leNat : List Byte → Nat
  | [] => 0
  | b :: r => b.toNat + 256 * leNat r

/-- The little-endian words of a byte string whose length is `4 * n`. -/
def leWords : Nat → List Byte → List Word
  | 0, _ => []
  | n + 1, bs => wordOf (leNat (bs.take 4)) :: leWords n (bs.drop 4)

/-- The bytes of words, little-endian. -/
def wordBytes (ws : List Word) : List Byte := ws.flatMap (fun w => leBytes 4 w.toNat)

/-- A number held at a largest value. -/
def satTo (n m : Nat) : Nat := min n m

/-- The largest 32-bit count. -/
def max32 : Nat := 0xFFFF_FFFF

/-- A word as a signed number. -/
def sint (w : Word) : Int := w.toInt

/-- Bits `hi` down to `lo` of a word as a signed number. -/
def sbitsOf (w : Word) (hi lo : Nat) : Int :=
  let n := bitsOf w hi lo
  if n < 2 ^ (hi - lo) then (n : Int) else (n : Int) - 2 ^ (hi + 1 - lo)

end Sys2Proof
end

