-- ==== Sys2Proof/Syntax.lean ====
section
/-!
DEFINITION. The commands of the block: one constructor of `Instr` for each row of
spec/opcode_table.json, and the kinds of data they carry.

The table gives no operands. Each constructor has the operands its rule needs:
* a register access carries the initiator that makes it and whether it asks to be secure (R10, R466);
* a ring operation carries the ring whose oldest waiting descriptor the service takes (R470);
* a happening of the machine around the module carries what the module measures of it.
An operand `at'` is the GTS of the happening, where the rule needs one that is not a boundary; `edge` is one in
1/64 GTS count (R374).
-/

namespace Sys2Proof

/-- The fabric initiators of R10. -/
inductive Ini where
  | svc (k : Fin 8)
  | host (k : Fin 6)
  | bce | ipl | enc | lko | col | gnb | lsw | can | pnl | pwr | rtl | upd | dsc | recorder | fin | hri
  | dbg
deriving DecidableEq, Repr

/-- The fixed 8-bit initiator ID (R10). -/
def Ini.id : Ini → Nat
  | .svc k => 0x01 + k.val
  | .host k => 0x10 + k.val
  | .bce => 0x20 | .ipl => 0x21 | .enc => 0x22 | .lko => 0x23 | .col => 0x24 | .gnb => 0x25
  | .lsw => 0x26 | .can => 0x27 | .pnl => 0x28 | .pwr => 0x29 | .rtl => 0x2A | .upd => 0x2B
  | .dsc => 0x2C | .recorder => 0x2D | .fin => 0x2E | .hri => 0x2F
  | .dbg => 0x3E

/-- Who makes an access, and whether it runs at the secure-monitor level (R466). -/
structure Access where
  ini : Ini
  sec : Bool
deriving DecidableEq, Repr

/-- A transaction to host memory: a read of some bytes, or a write of these. -/
inductive MemOp where
  | read (len : Nat)
  | write (bytes : List Byte)
deriving DecidableEq, Repr

/-- What a reset reaches: one core, or the whole host complex (R72, R468). -/
inductive ResetTarget where
  | svc (k : Fin 8)
  | host (k : Fin 6)
  | hostComplex
deriving DecidableEq, Repr

/-- The blocks whose tick work can overrun (R467). -/
inductive TickWork where
  | yieldService | lookout | gnss
deriving DecidableEq, Repr

/-- The blocks whose sub-tick work R28 lets overrun: the BCE's never does (R106). -/
inductive SlotWork where
  | fin | lsw
deriving DecidableEq, Repr

/-- The discipline sources of R30. -/
inductive DiscSource where
  | gnss | twin
deriving DecidableEq, Repr

/-- A load bank (R148). -/
inductive Bank where
  | a | b
deriving DecidableEq, Repr

/-- What the analog side shows of one load channel over the tick just ended. -/
structure ChanTick where
  /-- junction temperature, 0.1 degree -/
  tj : Int
  /-- counts in which the channel conducted -/
  cond : Nat
  /-- mean current during conduction, mA -/
  mean : Nat
  /-- output voltage, mV -/
  vout : Nat
  /-- its current limit is engaged -/
  limit : Bool
deriving DecidableEq, Repr

/-- What the correlators of one channel give over a tick (R248, R249). -/
structure CorrOut where
  chan : Fin 256
  /-- VE, E, P, L, VL, M1 and M2: in phase and in quadrature -/
  iq : List (Int × Int)
  /-- C/N0 measured, 0.01 dB-Hz -/
  cn0 : Nat
  /-- phase lock is indicated -/
  lock : Bool
  /-- the half cycle is resolved -/
  halfCycle : Bool
deriving DecidableEq, Repr

/-- What the module measures at a tick boundary, about the tick just ended. -/
structure TickInputs where
  /-- the six IMU values before clamping (R143) -/
  imu : List Int
  /-- the panel thermistor in 0.1 degree; none: open or shorted (R331) -/
  ntc : Option Int
  /-- current in µA and voltage in mV of VLCD -/
  vlcd : Nat × Nat
  /-- bank feeds of the last tick: minimum and mean, mV -/
  feedA : Nat × Nat
  feedB : Nat × Nat
  /-- bank currents, last tick mean, 10 mA -/
  bankA : Nat
  bankB : Nat
  /-- the load channels measured -/
  chans : Tab ChanTick
  /-- samples at full scale of each loss pad in the tick (R141) -/
  clip : Tab Nat
  /-- levels of WK0 to WK3 (R144) -/
  wk : BitVec 4
  /-- current in mA and voltage in mV of each sensor supply that conducts (R146) -/
  sup : Tab (Nat × Nat)
  /-- housing and plate sensors, 0.1 degree; none: open or shorted (R455) -/
  house : Option Int
  plate : Option Int
  /-- measured electronics power, 0.1 W -/
  pmeas : Nat
  /-- BAT_E, 10 mV -/
  batE : Nat
  /-- the rate trim the discipline has come to, 0.001 ppm (R21, R25) -/
  trim : Int
  /-- the rate error against the source over the tick, 10^-12 (R25) -/
  rateErr : Int
  /-- by controller, the SOF of its own frame that is on the wire -/
  canWire : Tab Nat
  /-- the works of the tick that now begins that will not have ended at its end (R28, R467) -/
  overrun : List TickWork
  /-- the samples of the running loss capture in the tick, 2 bytes each (R142) -/
  capture : List Byte
  /-- what the correlators of the GNSS channels gave over the tick that ends (R248) -/
  corr : List CorrOut
  /-- link speed of each J3 port in Mbit/s, port 0 first; 0 down (R365) -/
  ports : List Nat
deriving DecidableEq, Repr

/-- One line packet at an image context (R194). -/
structure LineIn where
  pixels : Nat
  crcError : Bool
  headerError : Bool
  /-- a packet of a data type that the module does not accept (R179) -/
  otherType : Bool
  /-- its pixels as they go to the ingress FIFO, 2 bytes each -/
  bytes : List Byte
deriving DecidableEq, Repr

/-- The start of an access unit, or its end with the bytes that the codec has made (R197, R199). -/
inductive AuStep where
  | starts
  | ends (unit : List Byte)
deriving DecidableEq, Repr

/-- One cell of a grid (R228). -/
structure Cell where
  height : Nat
  density : Nat
  lodging : Nat
  obstacle : Nat
  conf : Nat
  noData : Bool
  cut : Bool
  carried : Bool
  single : Bool
deriving DecidableEq, Repr

/-- What an encoder puts out for a sample (R220). -/
structure Encoding where
  /-- channel 0: crop height in mm by cell; a cell it does not list has no data -/
  heights : Tab Nat
  /-- the 16 channels on the grid -/
  features : List Byte
deriving DecidableEq, Repr

/-- An invocation of a model on Col that has ended, with what the software's model puts out (R220). Whether it failed
follows from the weights in host memory and the fences (R221). -/
inductive ColEnd where
  /-- CAM_ENC of the frame of this camera input and capture GTS -/
  | camEnc (input : Fin 12) (cap : Nat) (enc : Encoding)
  | lidarEnc (input : Fin 2) (enc : Encoding)
  /-- FUSE, with the bytes that a FEAT_BUF buffer takes -/
  | fuse (features : List Byte)
  /-- HEAD: the per-cell products -/
  | head (cells : Tab Cell)
deriving DecidableEq, Repr

/-- A camera of a remote encoding: capture GTS, and crop height by cell in 20 mm steps (R235). -/
structure RemoteCam where
  cap : Nat
  heights : Tab Nat
deriving DecidableEq, Repr

/-- A remote encoding (R235): the weighted sum of the cameras' features as int8, and the cameras. -/
structure RemoteEnc where
  epoch : Nat
  sum : List Byte
  cams : Tab RemoteCam
deriving DecidableEq, Repr

/-- One candidate satellite signal with its predicted elevation in 0.1 degree (R247). -/
structure Cand where
  sig : Fin 11
  sv : Nat
  ant2 : Bool
  elev : Int
deriving DecidableEq, Repr

/-- What the measurements of an instant support (R252 to R261). -/
structure MeasIn where
  /-- solution type 2 to 5 that the data support, and the type without corrections (R256); below 2: none -/
  sol : Fin 6
  noCorr : Fin 4
  /-- the position is known within 100 m -/
  posKnown : Bool
  /-- ANT1 latitude and longitude in 10^-10 degree, height above the ellipsoid in µm -/
  lat : Int
  lon : Int
  hgt : Int
  /-- velocity east, north, up, mm/s -/
  vel : Int × Int × Int
  /-- heading, 0 to 2π, and pitch of the baseline, µrad -/
  heading : Nat
  pitch : Int
  /-- the figures of entries 0x20E to 0x210, 0x216, 0x21A and 0x21C, by entry index -/
  figures : Tab Word
  /-- the baseline ambiguities are fixed -/
  baseFixed : Bool
  /-- baseline length measured, mm -/
  baseline : Nat
  sats : Nat
  /-- the week as the message of signal `weekSig` carries it (R258), and the GPS time of week in ns at the instant -/
  weekSig : Fin 11
  week : Nat
  tow : Nat
  /-- the solution's time uncertainty, ns -/
  tunc : Nat
  /-- rate deviation found, in 10^-12 -/
  rate : Int
deriving DecidableEq, Repr

/-- A decoded navigation message (R254). -/
structure NavIn where
  gts : Nat
  chan : Fin 256
  /-- payload bits, 1 to 768; a subframe of ten words has 300 -/
  bits : Nat
  /-- of a subframe of ten words: those that pass, and those corrected -/
  wordsOk : Nat
  wordsFix : Nat
  payload : List Byte
  /-- the words that carry what follows -/
  words : Nat
  /-- the part of its satellite's ephemeris that it carries, and whether the ephemeris is whole with it -/
  ephemeris : Option (Nat × Bool)
  /-- a leap-second count decoded from it (R301) -/
  leap : Option Nat
deriving DecidableEq, Repr

/-- A received CAN frame (R311, R312). -/
structure CanFrame where
  /-- 0 CC, 1 FD, 2 XL -/
  fmt : Fin 3
  ide : Bool
  brs : Bool
  id : Nat
  data : List Byte
  sof : Nat
  remote : Bool
  sdt : Nat
  vcid : Nat
  secBit : Bool
  af : Word
deriving DecidableEq, Repr

/-- A word on the tick line (R374). -/
structure TickWord where
  serial : Nat
  tick : Nat
  state : Nat
  pos : Nat
  tb : Bool
  ready : Bool
deriving DecidableEq, Repr

/-- The state words of one BCE context that a replica carries (R116). -/
structure BceReplica where
  tick : Nat
  crc : Word
  words : List Word
  rprev : Word
deriving DecidableEq, Repr

/-- The replica of one ganged channel (R165). -/
structure ChanReplica where
  tick : Nat
  state : Nat
  duty : Nat
  kFactor : Nat
  window : Nat
  count : Nat
  crc : Word
  /-- a CH_PROFILE runs on the driver (R167) -/
  profile : Bool
deriving DecidableEq, Repr

/-- The release replica of Lookout (R235). -/
structure RelReplica where
  epoch : Nat
  traj : List Word
  block : List Byte
  contrib : Nat
  weights : Tab Nat
  excluded : Nat
deriving DecidableEq, Repr

/-- What the yield service keeps of a step of cutting (R293), and the mass attributed to it (R295). -/
structure YldStep where
  /-- mass per metre at the cutter bar, g/m, and mass entering, g/s -/
  m : Rat
  c : Rat
  hdrUp : Bool
  gap : Bool
  /-- cut width, distance travelled, mm; ego speed, mm/s -/
  width : Rat
  dist : Rat
  speed : Nat
  /-- cutter-bar position and solution type -/
  lat : Word
  lon : Word
  hgt : Word
  sol : Nat
  /-- g attributed; sum of moisture shares and of the g that carry one -/
  attr : Rat := 0
  moist : Rat := 0
  moistMass : Rat := 0
deriving DecidableEq, Repr

/-- Marks of an open second (R298, R303). -/
structure YldSec where
  slow : Bool := false
  held : Bool := false
  takeover : Bool := false
deriving DecidableEq, Repr

/-- The yield replica of a tick (R303). -/
structure YldReplica where
  tick : Nat
  hist : Tab YldStep
  secs : Tab YldSec
  startStep : Nat
  nextStep : Nat
  nextSec : Nat
  delay : Nat
  rho : Option Rat
  held : Bool
  /-- SENSED, ATTRIB, UNATTRIB, TANK in g -/
  sensed : Rat
  attrib : Rat
  unattrib : Rat
  tank : Rat
  seq : Nat
  /-- g unattributed in the running second, if any -/
  unattSec : Option Rat
deriving DecidableEq, Repr

/-- The lead's update state in a tick frame (R406 to R408). -/
structure UpdFrame where
  state : Nat
  step : Nat
  team : Bool
  deadline : Nat
  /-- the instant, GPS ns (R401) -/
  instant : Nat
  /-- announced: 0 nothing, 1 to 4 the cause of a reversion, 5 a commit -/
  notice : Nat
  /-- the lead has written CONFIG_DONE -/
  done : Bool
  /-- it still runs images that the sequence leaves -/
  old : Bool
deriving DecidableEq, Repr

/-- The second's update state in a heartbeat (R401, R406 to R408). -/
structure UpdBeat where
  pkg : Nat
  staged : Bool
  state : Nat
  /-- the trial deadline it holds (R405) -/
  deadline : Nat
  done : Bool
  /-- a cause of reversion seen, 0 none -/
  cause : Nat
  old : Bool
deriving DecidableEq, Repr

/-- How a checkpoint that was sent ends (R392). -/
inductive CkptEnd where
  /-- no free buffer on the twin -/
  | noBuffer
  | delivered
  /-- the link was lost after so many bytes -/
  | lost (xfer : Nat)
deriving DecidableEq, Repr

/-- A copy of a frame on one pair of the twin link: missing, with a failed check, or good (R373). -/
inductive Copy where
  | missing | bad | good
deriving DecidableEq, Repr

/-- The mapping set that a lead replicates (R260, R265). -/
structure LeadMap where
  g0 : Nat
  week : Nat
  tow : Nat
  rate : Int
  /-- a step is to come: no further pulse is emitted on this mapping (R263) -/
  quiet : Bool
deriving DecidableEq, Repr

/-- What a tick frame from the lead carries (R373). -/
structure TickFrame where
  tick : Nat
  /-- complete after phase 40 -/
  late : Bool
  bce : Tab BceReplica
  chans : Tab ChanReplica
  /-- state code, SQ_HEAD and CQ_TAIL of each enabled ring -/
  rings : Tab (Nat × Nat × Nat)
  /-- GNSS entries with their stamps -/
  solution : Tab (Word × Nat)
  /-- its mapping set (R265) -/
  map : Option LeadMap
  yld : Option YldReplica
  /-- the hand-over pending, and COMMIT (R384) -/
  hoT : Option Nat
  commit : Bool
  /-- the lead's stamp b of this module's word of the tick, in 1/64 count (R377) -/
  stampB : Option Int
  upd : UpdFrame
deriving DecidableEq, Repr

/-- What a heartbeat from the second carries (R373). -/
structure Heartbeat where
  tick : Nat
  state : Nat
  aligned : Bool
  confirm : Bool
  upd : UpdBeat
deriving DecidableEq, Repr

/-- A witness frame (R380). -/
structure Witness where
  state : Nat
  pos : Nat
  link : Bool
  heard : Bool
  tick : Nat
deriving DecidableEq, Repr

/-- A wake source (R347), with its WAKE value in the manual's order. -/
inductive WakeSource where
  | ignition | wkInput (k : Fin 4) | can (k : Fin 8) | movement | latched | watchdog
deriving DecidableEq, Repr

/-- What a Run entry finds (R348, R357, R376, R423, R454): whether PD0 has lost its contents, the seconds that the PD0
count has gone on since the last command, the position straps, at step 4 the last word heard on the tick line with the
counts since its edge, and the word that came within the 200 ms in which the module waited for its twin's tick-0
word. -/
structure Entry where
  pd0Lost : Bool
  slept : Nat
  pos : Fin 4
  heard : Option (BitVec 128 × Nat)
  tick0 : Option (BitVec 128)
deriving DecidableEq, Repr

/-- A trip cause (R178). -/
inductive TripCause where
  | short | thermal
deriving DecidableEq, Repr

/-- A pitch's test outcome: each count complete, each signature matching (R422). -/
structure PitchOutcome where
  counts : Bool
  signatures : Bool
deriving DecidableEq, Repr

/- CAN frames on the wire: `onWire` says that the buffer's earlier frame is on the wire, `wire` which
buffer's frame is (by controller where a row reaches all eight). -/

/-- A CAN protocol error (R327). -/
inductive CanError where
  | bit | stuff | crc | form | ack
deriving DecidableEq, Repr

/-- A command of the block: one constructor per row of the table, in the table's order. -/
inductive Instr where
  -- the fabric, time and events (01)
  | registerWrite (a : Access) (addr : Nat) (wide : Bool) (v : BitVec 64)
  | memoryTransaction (a : Access) (addr : Nat) (op : MemOp)
  | lowWordReadLatch (a : Access) (addr : Nat) (wide : Bool)
  | coreReset (t : ResetTarget)
  | tickBoundary (inp : TickInputs)
  | subtickSlotBoundary (current : Tab Nat) (overrun : List SlotWork)
  | tickOverrun (w : TickWork)
  | subtickOverrun (w : SlotWork)
  | tickDiscWrite (a : Access) (v : Word)
  | disciplineAcquire (src : DiscSource)
  | disciplineLocked (trim : Int)
  | disciplineSourceLost
  | evqCtlWrite (a : Access) (v : Word)
  | evqConsWrite (a : Access) (v : Word)
  | swevt (a : Access) (v : Word)
  | eventQueueWrite
  | pdReqWrite (a : Access) (v : Word)
  | domainSwitch (n : Fin 13)
  -- rings and fences (02)
  | sqDoorbell (a : Access) (n : Fin 32) (v : Word)
  | cqDoorbell (a : Access) (n : Fin 32) (v : Word)
  | descriptorFetch (n : Fin 32)
  | completionPost (n : Fin 32)
  | ringEnable (a : Access) (n : Fin 32) (v : Word)
  | ringInitComplete (n : Fin 32)
  | ringDisable (a : Access) (n : Fin 32) (v : Word)
  | ringFlush (a : Access) (n : Fin 32) (v : Word)
  | ringAbandon (a : Access) (n : Fin 32) (v : Word)
  | ringResync (a : Access) (n : Fin 32) (v : Word)
  | drainComplete (n : Fin 32)
  | drainBoundaryStop (n : Fin 32)
  | fenceApply (a : Access) (wide : Bool) (v : BitVec 64)
  | fenceApplyLowLatch (a : Access) (v : Word)
  -- mailboxes and pitons (03)
  | mbxGo (a : Access) (m : Fin 64)
  | mbxRel (a : Access) (m : Fin 64)
  | mbxCfgWrite (a : Access) (m : Fin 64) (v : Word)
  | mbxDataAccess (a : Access) (m : Fin 64) (word : Fin 13) (wr : Option Word)
  | pitonAcquire (k : Fin 64) (readers : List Access) (wide : Bool)
  | pitonRelease (a : Access) (k : Fin 64) (v : Word)
  -- BCE (04)
  | bceCtxLoad (n : Fin 32)
  | bceCtxStart (n : Fin 32)
  | bceCtxStop (n : Fin 32)
  | bceStopEffect
  | bceCtxRead (n : Fin 32)
  | bceCtxTrace (n : Fin 32)
  | bceCtxClear (n : Fin 32)
  | bceCtxPatch (n : Fin 32)
  | bcePatchEffect
  | sigWrite (n : Fin 32)
  | sigRead (n : Fin 32)
  | bceCtlWrite (a : Access) (v : Word)
  | bceLatch (p : Fin 100)
  | bceOutputRelease (p : Fin 100)
  -- FIN (05)
  | finCfgWrite (a : Access) (off : Nat) (v : Word)
  | ainConversion (n : Fin 64) (at' : Nat) (input : Nat) (vref : Nat)
  | ainShuntOpen (n : Fin 64)
  | ainShuntRetry (n : Fin 64)
  | freqEdge (n : Fin 24) (at' : Nat) (falling : Bool) (pulse : Nat)
  | freqGateEnd (n : Fin 24)
  | losImpact (n : Fin 8) (run : List Int)
  | losCapture (n : Fin 32)
  | imuSelfCheck (pass : Bool)
  | lhInputChange (k : Fin 8) (active : Bool)
  | supEnWrite (a : Access) (k : Fin 6) (v : Word)
  | supClr (a : Access) (k : Fin 6) (v : Word)
  | supLimit (k : Fin 6) (engaged : Bool) (mA mV : Nat)
  | supLimitTimeout (k : Fin 6)
  | supOvervoltageTrip (k : Fin 6) (mV : Nat)
  -- LSW (06)
  | chSet (n : Fin 32)
  | chSetApply
  | chProfile (n : Fin 32)
  | chProfileStep (c : Fin 48)
  | chClear (n : Fin 32)
  | chRead (n : Fin 32)
  | chReadSnapshot
  | lswOutEnWrite (a : Access) (v : Word)
  | lswChCfgWrite (a : Access) (c : Fin 48) (reg : Fin 5) (v : Word)
  | lhMapWrite (a : Access) (reg : Fin 14) (v : Word)
  | lhMapLock (a : Access) (v : Word)
  | inrushWindowEnd (c : Fin 48)
  | shortTrip (c : Fin 48) (at' : Nat) (mV : Nat) (thermalToo : Bool)
  | thermalTrip (c : Fin 48) (at' : Nat) (tj : Int)
  | restart (c : Fin 48) (cooled : Bool)
  | restartCountReset (c : Fin 48)
  | openLoad (c : Fin 48) (onState : Bool)
  | bceTimeout (c : Fin 48)
  | gangMismatch (c : Fin 48)
  | driveWithdraw
  | driveGrant
  | bankFeedLow (bank : Bank) (at' : Nat) (mV : Nat)
  | bankFeedReturn (bank : Bank) (at' : Nat) (mV : Nat)
  | crankHoldExpiry (bank : Bank) (at' : Nat) (mV : Nat)
  | fixropeTrip (c : Fin 48) (cause : TripCause) (age : Nat) (mA mV : Nat)
  -- IPL (07)
  | iplLinkCfgWrite (a : Access) (k : Fin 4) (v : Word)
  | linkUp (k : Fin 4) (latency : Nat)
  | linkTrainingRetry (k : Fin 4)
  | linkDown (k : Fin 4)
  | cameraTrigger (c : Fin 16)
  | frameStart (k : Fin 5) (vc : Fin 16) (at' : Nat)
  | lineArrival (k : Fin 5) (vc : Fin 16) (l : LineIn)
  | frameEnd (k : Fin 5) (vc : Fin 16)
  | unitStart
  | frameClose (c : Fin 16)
  | encoderAccessUnit (st : Fin 4) (u : AuStep)
  | settingsWrite (c : Fin 16) (sensorOk : Bool)
  | iplCtxLoad (n : Fin 32)
  | iplCtxStart (n : Fin 32)
  | iplCtxStop (n : Fin 32)
  | iplStopEffect
  | exposure (n : Fin 32)
  | tuneLoad (n : Fin 32)
  | iplCtxRead (n : Fin 32)
  | encCfg (n : Fin 32)
  | encIdr (n : Fin 32)
  | dispBuf (n : Fin 32)
  | statBuf (n : Fin 32)
  | codeBuf (n : Fin 32)
  | iplCtlWrite (a : Access) (v : Word)
  | pcamSyncLost (lost : Bool)
  | camPowerLimit (k : Fin 4)
  | camPowerRetry (k : Fin 4)
  -- LKO and Col (08)
  | epochClose
  | epochRelease
  | colInvocationEnd (r : ColEnd)
  | remoteEncodingArrival (r : RemoteEnc) (at' : Nat)
  | releaseReplicaArrival (r : RelReplica)
  | lkoCfgLoad (n : Fin 32)
  | sensorCfg (n : Fin 32)
  | modelLoad (n : Fin 32)
  | modelDrop (n : Fin 32)
  | lkoStart (n : Fin 32)
  | lkoStop (n : Fin 32)
  | healthRead (n : Fin 32)
  | lidarPut (n : Fin 32)
  | outBuf (n : Fin 32)
  | featBuf (n : Fin 32)
  | lkoCtlWrite (a : Access) (v : Word)
  -- GNB (09)
  | antennaStateChange (ant2 : Bool) (mA : Nat) (short : Bool)
  | antennaRetry (ant2 : Bool)
  | channelReexamine (cands : List Cand)
  | channelDetection (c : Fin 256) (code : Nat) (dop : Int)
  | searchTimeout (c : Fin 256)
  | pullInLock (c : Fin 256)
  | pullInTimeout (c : Fin 256)
  | trackSignalLoss (c : Fin 256)
  | coastReacquire (c : Fin 256) (phase : Int)
  | coastTimeout (c : Fin 256)
  | corrSpacingWrite (a : Access) (k : Fin 11) (v : Word)
  | measurementInstant (m : MeasIn)
  | navMessage (m : NavIn)
  | ppsEdge
  | slewComplete
  | timeStep
  | gnbCfgLoad (n : Fin 32)
  | gnbStart (n : Fin 32)
  | gnbStop (n : Fin 32)
  | assistPut (n : Fin 32)
  | snapList (n : Fin 32)
  | snapRead (n : Fin 32)
  | corrPut (n : Fin 32)
  | measBuf (n : Fin 32)
  | navBuf (n : Fin 32)
  | gnbCtlWrite (a : Access) (v : Word)
  | burstInstant
  | bivouacBurst (sats distance gpsNs : Nat)
  | snapshot (gpsNs tunc : Nat) (temp : Int) (samples : List Byte)
  -- yield (11)
  | yieldSense
  | yieldStepEnd
  | delayEstimate
  | yieldRecord
  | yieldFlashWrite
  | yldCfg (n : Fin 32)
  | yldStart (n : Fin 32)
  | yldStop (n : Fin 32)
  | yldStatus (n : Fin 32)
  | tankSet (n : Fin 32)
  | taskOpen (n : Fin 32)
  | taskClose (n : Fin 32)
  | taskList (n : Fin 32)
  | taskExport (n : Fin 32)
  | yldBuf (n : Fin 32)
  -- CAN (12)
  | canEnable (a : Access) (k : Fin 8) (v : Word)
  | canModeChange (a : Access) (k : Fin 8) (v : Word) (idle : Bool)
  | recGo (a : Access) (k : Fin 8) (v : Word)
  | canIntegrated (k : Fin 8)
  | busOffRecovered (k : Fin 8)
  | canProtocolError (k : Fin 8) (e : CanError) (tec rec' : Nat) (sof : Option Nat)
  | canFrameReceive (k : Fin 8) (f : CanFrame)
  | referenceMessage (k : Fin 8) (sof : Nat) (own : Bool) (cycle prev prevTime : Nat)
  | canTxreq (a : Access) (k : Fin 8) (word : Fin 4) (v : Word)
  | canTxabt (a : Access) (k : Fin 8) (word : Fin 4) (v : Word) (sof : Option Nat)
  | canCyclicAssembly (k : Fin 8) (b : Fin 128) (sof : Option Nat)
  | canFrameSent (k : Fin 8) (sof : Nat)
  | canArbitrationLost (k : Fin 8) (sof : Nat)
  | referenceAssembly (k : Fin 8) (sof : Option Nat)
  | timeModelLost (k : Fin 8)
  | canTmCfgWrite (a : Access) (k : Fin 8) (v : Word)
  | mapLoad (n : Fin 32)
  | txmapLoad (n : Fin 32)
  | slotWrite (n : Fin 32)
  | frameTx (n : Fin 32)
  | frameTxTimeout (k : Fin 8)
  | rxBuf (n : Fin 32)
  -- PNL (13)
  | panelFrameStart
  | panelFallback
  | pnlKick (a : Access) (v : Word)
  | vlcdFault
  | pnlCtlWrite (a : Access) (v : Word)
  | pnlCfgLoad (n : Fin 32)
  | pnlStart (n : Fin 32)
  | pnlStop (n : Fin 32)
  | stressLoad (n : Fin 32)
  | stressRead (n : Fin 32)
  | regionWrite (n : Fin 32)
  -- PWR (14)
  | wake (src : WakeSource) (e : Entry)
  | ctrlReady (postFail : Tab Bool) (startTicks : Nat)
  | descend (a : Access) (v : Word)
  | ignitionOff
  | holdExpiry
  | hostDone (a : Access) (v : Word)
  | descGraceExpiry
  | descentLimit
  | descentComplete
  | watchdogHeartbeat
  | watchdogExpiry
  | fixropeRequest (active : Bool)
  | brownout (mV : Nat)
  | overvoltage (mV : Nat)
  | overvoltageEnd (peak : Nat)
  | reverseBattery
  | groundOpen (contacts : Fin 16) (offset : Nat)
  | groundHealed
  | governorPeriod
  | bankBudgetExceeded (bank : Bank)
  | bankBudgetRestore (j : Fin 16)
  | govDeclare (n : Fin 32)
  | govRelease (n : Fin 32)
  | govRead (n : Fin 32)
  | bivouacSecond (spent : Nat)
  | allowanceSpent
  | presenceBeacon (linkUp : Bool)
  -- RTL (15)
  | tickLineWord (v : BitVec 128) (edge : Nat) (wing : Option Int)
  | tickFrame (a b : Copy) (f : TickFrame)
  | heartbeat (a b : Copy) (h : Heartbeat)
  | witnessFrame (w : Witness) (k : Fin 8)
  | witnessAssembly
  | leadLost
  | leadWithdraw (wire : Tab Nat)
  | alignedSet
  | alignedClear
  | twinUpChange
  | pairLinkChange (pair : Fin 3) (up : Bool)
  | handover (n : Fin 32)
  | handoverCommit
  | handoverExecute (wire : Tab Nat)
  | ckptPut (n : Fin 32) (e : CkptEnd)
  | ckptBuf (n : Fin 32)
  | rtlEnable (a : Access) (v : Word)
  -- UPD (16)
  | stage (n : Fin 32)
  | schedule (n : Fin 32)
  | cancel (n : Fin 32)
  | scheduleInstantReached
  | activation
  | configDone (a : Access) (v : Word)
  | commit (a : Access) (v : Word)
  | commitEffect
  | reject (a : Access) (v : Word)
  | trialDeadline
  | reversion
  -- DSC (17)
  | keyZeroise (verified : Bool)
  | pitchStart (p : Fin 12)
  | pitchEnd (o : PitchOutcome)
  | pitchBudgetExpiry
  -- REC (18)
  | recFlush (writeOk : Bool)
  | rateWindowEnd
  | hoursAdvance
  | recWindowLatch (a : Access)
  | recCursorAdvance (a : Access)
  | recClear (a : Access) (v : Word)
  | recCopy (n : Fin 32)
  -- electrical (19) and the completions that stand as rows of their own
  | debugEnableChange (active : Bool)
  | stageComplete
  | losCaptureComplete (samples : List Byte)
  | recCopyComplete
  | checkpointArrival (tag : Nat) (tick gts : Nat) (payload : List Byte)
  | handoverFrame (bce : Tab BceReplica) (chans : Tab ChanReplica)
  | fixropeThermalRestart (c : Fin 48)
  | restartAfterBrownout (mV : Nat) (src : WakeSource) (e : Entry)
deriving DecidableEq, Repr

end Sys2Proof
end

