-- ==== Sys2Proof/Decode.lean ====
section
/-!
DEFINITION. The command a word spells by the table's bits. No row of spec/opcode_table.json gives bits:
the commands are accesses and happenings, not encodings, so no word spells one (log 7).
-/

namespace Sys2Proof

/-- The command whose table bits are these: none has any. -/
def decodeTableWord (_nbits _w : Nat) : Option Instr := none

end Sys2Proof
end

