-- ==== Sys2Proof/Config.lean ====
section
/-!
DEFINITION. What an implementation fixes, and the values the manual leaves open.

A constant here that has no body is a free value: nothing can be proved of it, and a statement that
mentions it holds for every value. A constant with a body is a choice of the model, and its docstring
names the log entry.
-/

namespace Sys2Proof.Config

/-- DESIGN CHOICE (log 1): the variant code of this module, 0x0C or 0x18 (R1). Which of the two a module
has is its order code's, so it stays open. -/
opaque is24V : Bool

/-- The variant field of SYS_ID (R1, R2). -/
def variant : Nat := if is24V then 0x18 else 0x0C

/-- DESIGN CHOICE (log 1): the firmware words of SYS_ID, bits 31:0 ("Firmware" in R2's table). -/
opaque firmware : Word

/-- DESIGN CHOICE (log 1): SYS_SERIAL ("Factory value"). -/
opaque serial : BitVec 64

/-- DESIGN CHOICE (log 12): TICK_UNCERT so many ticks after the discipline lost its source: it grows
"from the holdover drift figure", whose exact growth the manual does not state (R25). -/
opaque holdoverUncert : Nat → Nat

/-- DESIGN CHOICE (log 21): what a BCE context uses for a setpoint (false) or feed-forward (true) that is
stale and has never been fresh since its start: R102 has it use "the last fresh value". By context. -/
opaque neverFresh : Nat → Bool → BitVec 32

/-- DESIGN CHOICE (log 22): where the manual gives a quotient and not how it is rounded to a whole number,
`roundsUp n d` says whether n/d is rounded up when it is not whole, and which way a tie goes where the
nearest is asked for. -/
opaque roundsUp : Nat → Nat → Bool

/-- DESIGN CHOICE (log 22): the code of a ratiometric input whose reference measures 0 V (R134). By input. -/
opaque noReferenceCode : Nat → Nat

/-- DESIGN CHOICE (log 22): the code of a 4 to 20 mA input whose shunt is open: "about 0", and below the open
limit of R135. By input and conversion instant. -/
opaque openShuntCode : Nat → Nat → Nat

/-- DESIGN CHOICE (log 179): a channel's current limit in mA above the lowest that R150 gives for its type, inside the
inrush window (true) or outside; R150 gives the range. -/
opaque limitOver : Nat → Bool → Nat

/-- DESIGN CHOICE (log 195): the VLCD current limit in µA above 8 mA, the least that R328 gives for it. -/
opaque vlcdLimitOver : Nat

/-- DESIGN CHOICE (log 23): the fractional bits of K beyond the 16 that R155 asks for. -/
opaque kBits : Nat

/-- DESIGN CHOICE (log 23): K of a compensated lamp while LSW_FEED reads 0 mV, where R155's quotient has
no value. By channel. -/
opaque kNoFeed : Nat → Nat

/-- DESIGN CHOICE (log 24): REC after a good reception that finds it above 127, less 119: the CAN standard
asks for a value from 119 to 127. By controller and GTS. -/
opaque recAfter : Nat → Nat → Fin 9

/-- DESIGN CHOICE (log 25): ρ of a time model whose two first pairs name one master time, where R320's
quotient has no value; and the change of ρ where Δm is 0. By the numerator, in counts. -/
opaque rhoNoSpan : Int → Rat

/-- DESIGN CHOICE (log 26): the lowest model SCHEMA accepted ("Firmware"), and how many more are. -/
opaque modelSchemaLow : Nat
opaque modelSchemaMore : Nat

/-- LKO_MODEL_SCHEMA: highest and lowest SCHEMA accepted. -/
def modelSchema : Word :=
  let low := modelSchemaLow % 65536
  BitVec.ofNat 32 (min 65535 (low + modelSchemaMore) * 65536 + low)

/-- DESIGN CHOICE (log 27): what ego-motion makes of the motion inputs, where R217 says that LKO "fuses" them
and not how: speed, lateral velocity, yaw rate, pitch and roll (0 to 4), by full tick count and the values
of the inputs that contribute. -/
opaque ego : Nat → Fin 5 → List Int → Int

/-- DESIGN CHOICE (log 28): the signed speed in mm/s of the GNSS solution as a motion input, from its velocity
east and north and its course. -/
opaque gnssSpeed : Word → Word → Word → Int

/-- DESIGN CHOICE (log 28): its yaw rate in µrad/s, by full tick count. -/
opaque gnssYaw : Nat → Int

/-- DESIGN CHOICE (log 30): the input that a speed conflict names in its event (R244), by whether the GNSS speed
is used. -/
opaque motionConflict : Bool → Fin 32

/-- DESIGN CHOICE (log 31): EDGE_HDG (false) and EDGE_CURV (true) from the slope and the second-order coefficient of
the fitted quadratic, in m: R229 has them "come from that fit" and does not say how; and what they are where the fit
has no solution. -/
opaque edgeWord : Bool → Rat → Rat → Word
opaque noEdgeFit : Bool → Word

/-- DESIGN CHOICE (log 181): the weighted sum of features as int8 in a remote encoding, from the weights and features of
the second's cameras: R235 gives no scale. -/
opaque remoteSum : List (Nat × List (BitVec 8)) → List (BitVec 8)

/-- DESIGN CHOICE (log 181): the input that a LATE or CARRIED event names for a remote encoding, by epoch. -/
opaque remoteInput : Nat → Fin 12

/-- DESIGN CHOICE (log 32): entries 0x253 to 0x255 where the header path has no cell with data, by entry. -/
opaque noCells : Nat → Word

/-- DESIGN CHOICE (log 33): the point of an obstacle cell that entries 0x256 and 0x257 name: mm ahead of its near
edge, and cm left of its right edge. -/
opaque obstacleX : Fin 101
opaque obstacleY : Fin 11

/-- DESIGN CHOICE (log 34): the 64 bytes that CTX_READ of IPL writes, which the manual does not list. By GTS,
context and place. -/
opaque ctxReadByte : Nat → Nat → Nat → BitVec 8

/-- DESIGN CHOICE (log 180): what the stages of R190 leave to the implementation. A raw code of a data type on the
16-bit linear scale; where the median of an even number of codes lies between the two in the middle; the pixel that
spatial noise reduction gives, by strength, plane, row and column; where the blend of a pixel with its history lies
between the least and the greatest of them, by pixel and history; the colour `i` that demosaic gives, by CFA, plane,
row and column; the value of a scaled plane, by plane, size, row and column; where the chroma of two rows and two
columns lies between the least and the greatest; the luminance bin of a pixel; the zone mean where no line is valid. -/
opaque linearCode : Nat → Nat → Nat
opaque medianPick : Nat → Nat → Nat
opaque snrPixel : Nat → List (List Nat) → Nat → Nat → Nat
opaque tnrBlend : Nat → List Nat → Nat
opaque demosaic : Nat → List (List Nat) → Nat → Nat → Fin 3 → Nat
opaque scaled : List (List Nat) → Nat → Nat → Nat → Nat → Nat
opaque chromaMean : List Nat → Nat
opaque lumBin : List Nat → Fin 256
opaque emptyZone : Nat → Nat

/-- DESIGN CHOICE (log 180): a byte of the TUNE_LOAD block in force while a context has had none. -/
opaque noTune : Nat → BitVec 8

/-- DESIGN CHOICE (log 180): the codes of a FIFO line whose read is refused, by context, frame and line; R188 tells
nothing of such a read. -/
opaque unreadLine : Nat → Nat → Nat → List Nat

/-- DESIGN CHOICE (log 35): the open threshold of an antenna port in mA, less 2: R246 gives 2 to 4. -/
opaque antOpen : Bool → Fin 3

/-- DESIGN CHOICE (log 36): GNB_WEEK_FLOOR ("Firmware"). -/
opaque weekFloor : Word

/-- DESIGN CHOICE (log 184): what R248 to R251 leave to the receiver: the delay estimate from places and outputs of VE,
VL, M1 and M2; the discriminators of phase (cycles), frequency (Hz) and code (chips) from correlator outputs, the code's
with the places of E and L; the gains that a bandwidth in 0.1 Hz or 0.001 Hz stands for; the direction of a satellite by
signal, satellite and tick (east, north, up) and the share of its own motion in the line-of-sight rate; the change of
velocity that the IMU's six values give over a tick. -/
opaque multipath : List (Int × Int × Int) → Int
opaque phaseError : List (Int × Int) → Rat
opaque freqError : List (Int × Int) → Rat
opaque codeError : List (Int × Int × Int) → Rat
opaque pllGain : Nat → Fin 3 → Rat
opaque fllGain : Fin 2 → Rat
opaque dllGain : Nat → Rat
opaque losDir : Nat → Nat → Nat → Fin 3 → Rat
opaque satRate : Nat → Nat → Nat → Rat
opaque imuDelta : Nat → List Int → Fin 3 → Rat

/-- DESIGN CHOICE (log 185): the course over ground of a solution whose velocity is 0, where R257 gives none. By GTS. -/
opaque noCourse : Nat → Nat

/-- DESIGN CHOICE (log 188): code phase and Doppler that a burst starts from, by the parts of the ephemeris, position
and time of the prediction store, signal and satellite: R266 gives no orbit computation. -/
opaque predicted : List (Nat × List (BitVec 8)) → List Word → Nat → Nat → Nat → Int × Int

/-- DESIGN CHOICE (log 37): counts from a measurement instant to the end of the solution's work, less 1, by
tick (R256 publishes "when the work ends"). -/
opaque solWork : Nat → Fin 399999

/-- DESIGN CHOICE (log 38): RESULT1 of SNAP_LIST while no snapshot is held. -/
opaque noSnapshot : BitVec 32

/-- DESIGN CHOICE (log 39): GPS time in ns that a measurement block and entries 0x213 and 0x214 give while there
is no mapping, by GTS. -/
opaque noTime : Nat → Nat

/-- DESIGN CHOICE (log 40): data of BIVOUAC code 0x04, which R272 does not state; by bursts counted. -/
opaque failedBurstData : Nat → Word

/-- DESIGN CHOICE (log 40): IF_HZ of a snapshot, "nominally 4,092,000" (R267). By SERIAL. -/
opaque ifHz : Nat → Word

/-- DESIGN CHOICE (log 40): the parked position of a snapshot while the prediction store is empty: LAT, LON, HGT. -/
opaque noParked : Fin 3 → Word

/-- DESIGN CHOICE (log 42): the normalised correlation of the sensed masses with the cut masses at one lag (R294),
whose normalisation the manual does not give. -/
opaque normCorr : List Rat → List Rat → Rat

/-- DESIGN CHOICE (log 42): ρ_pk while no delay estimate has been made. -/
opaque noRho : Rat

/-- DESIGN CHOICE (log 43): "SEQ of last record" while there is none. -/
opaque noSeq : Word

/-- DESIGN CHOICE (log 44): the TLG XML header of TASK_EXPORT by the six DDIs: R301 gives no text. -/
opaque exportHeader : List Nat → List (BitVec 8)

/-- DESIGN CHOICE (log 44): PositionStatus of an exported entry, by its SEQ: a record does not hold it. -/
opaque posStatus : Nat → BitVec 8

/-- DESIGN CHOICE (log 45): the byte of a dot of the status line, by its fifteen characters, column and row: R335
gives neither the font nor the level. -/
opaque statusDot : List Char → Nat → Nat → BitVec 8

/-- DESIGN CHOICE (log 49): the four public keys fused at manufacture (R398), as points. -/
opaque fusedKey : Fin 4 → Nat × Nat

/-- DESIGN CHOICE (log 50): bytes that a STAGE has read when it is cut (R399), by the GTS of its check and of the
cut. -/
opaque stageRead : Nat → Nat → Nat

/-- DESIGN CHOICE (log 51): DSC_AGE while no pitch end is recorded (R428). -/
opaque noAge : BitVec 32

/-- DESIGN CHOICE (log 52): the records lost with PD0 that source 480 code 0x02 tells, by power-cycle count (R441). -/
opaque pd0Records : Nat → Nat

/-- DESIGN CHOICE (log 53): the cause that MODE tells for a Fixed-rope entry by FIXROPE_n (R355, R371). -/
opaque fixropeCause : Fin 256

/-- DESIGN CHOICE (log 54): the octet order of SYS_SERIAL in a beacon's source address (R365): true, the high octet
first. -/
opaque beaconHighFirst : Bool

end Sys2Proof.Config
end

