-- ==== Sys2Proof/Machine/State.lean ====
section
/-!
DEFINITION. The state of the module: plain data, one structure per block, each field with its width
and the rule that names it. A default value is the value at reset; where the manual gives none, the
docstring says DESIGN CHOICE and names the log entry.

Counters and hardware-internal numbers are `Nat` or `Int` with their wrap or saturation stated where
they are written; what software reads as a word of bits is a `Word`.
-/

namespace Sys2Proof.Machine

/-- No command of the manual ends in a fault: error responses, refusals and error events are effects
on the state. The type is closed and empty (safe: nothing stops a run). -/
inductive Fault where
deriving DecidableEq, Repr

/-- Refusals. `notModelled`: raised by the dispatcher alone, for a command whose meaning is not
written yet (safe: the run stops). -/
inductive Refusal where
  | notModelled (mnemonic : String)
deriving DecidableEq, Repr

/-- The operating modes (00 "Operating modes", R345). -/
inductive Mode where
  | cold | bivouac | run | descent | fixedRope
deriving DecidableEq, Repr

/-- PWR_STATUS.MODE (R370). -/
def Mode.code : Mode → Nat
  | .cold => 0 | .bivouac => 1 | .run => 2 | .descent => 3 | .fixedRope => 4

/-- What an access is answered with (R6, R13, R16, R64). -/
inductive Resp where
  | ok
  | error
  | data (v : BitVec 64)
  /-- the bytes of a memory read -/
  | bytes (b : List Byte)
deriving DecidableEq, Repr

/-- An event on its way to the queue and the recorder (R33, R34). -/
structure Ev where
  /-- GTS of the cause -/
  gts : Nat
  src : Nat
  code : Nat
  data : Word
  /-- raised by an event-queue write: if its own entry is refused, nothing further is raised (R20) -/
  fromEvq : Bool := false
  /-- already recorded by the recorder itself (R436, R440) -/
  noRec : Bool := false
deriving DecidableEq, Repr

/-- The discipline states of TICK_DISC (R25). -/
inductive Disc where
  | free | acquire | locked | holdover
deriving DecidableEq, Repr

/-- TICK_DISC.STATE. -/
def Disc.code : Disc → Nat
  | .free => 0 | .acquire => 1 | .locked => 2 | .holdover => 3

/-- SYS registers, the event queue and the merger (01 "SYS registers", R18 to R20, R34). -/
structure Sys where
  /-- SYS_STATUS.CTRL_READY (R348) -/
  ctrlReady : Bool := false
  /-- SYS_STATUS.POST_RAN -/
  postRan : Bool := false
  /-- SYS_STATUS.TB_LOADED (R22) -/
  tbLoaded : Bool := false
  /-- SYS_EVQ_BASE, 64 bits -/
  evqBase : BitVec 64 := 0
  /-- SYS_EVQ_CTL.EN -/
  evqEn : Bool := false
  /-- SYS_EVQ_CTL.LOG2, 5 bits -/
  evqLog2 : Nat := 0
  /-- SYS_EVQ_PROD, 32 bits, wraps -/
  prod : Nat := 0
  /-- SYS_EVQ_CONS, 32 bits, wraps -/
  cons : Nat := 0
  /-- SYS_EVQ_LOST, RCL, saturates at 32 bits -/
  evqLost : Nat := 0
  /-- entries lost to a full queue since the last EVQ_OVERFLOW entry (R19) -/
  ovfCount : Nat := 0
  /-- cause GTS of the earliest of them (R19) -/
  ovfFirst : Nat := 0
  /-- the EVQ_OVERFLOW entry that waits has been refused, dropped and counted once (R20) -/
  ovfTried : Bool := false
  /-- SYS_SWEVT_DATA -/
  swevtData : Word := 0
  /-- SYS_EVT_EN0 to 15 that differ from their reset value 0xFFFF_FFFF -/
  evtEn : Tab Word := []
  /-- events waiting in the merger, in the order of R33 -/
  merger : List Ev := []
  /-- GTS and source of the latest-ordered event that has left the merger to the recorder (R435) -/
  lastPos : Option (Nat × Nat) := none
  /-- GTS and source of the latest-ordered entry written to the queue (R34) -/
  lastPut : Option (Nat × Nat) := none
deriving DecidableEq, Repr

/-- The time base and the TICK registers (R21 to R29). -/
structure Tick where
  /-- the time base has started (R22) -/
  running : Bool := false
  /-- power-cycle counter, 32 bits, PD0; DESIGN CHOICE 0 (log 2) -/
  pcc : Nat := 0
  /-- its copy in flash (R357); DESIGN CHOICE 0 (log 2) -/
  pccFlash : Nat := 0
  /-- TICK_DISC.EN, reset 1 -/
  discEn : Bool := true
  /-- TICK_DISC.SRC -/
  discSrc : Option DiscSource := none
  /-- TICK_DISC.STATE -/
  disc : Disc := .free
  /-- TICK_TRIM, signed, 0.001 ppm -/
  trim : Int := 0
  /-- TICK_UNCERT -/
  uncert : Nat := 0xFFFF_FFFF
  /-- successive ticks in ACQUIRE whose rate error was below 0.01 ppm (R25) -/
  rateRun : Nat := 0
  /-- ticks since the discipline left LOCKED, while it stands at HOLDOVER or ACQUIRE after it -/
  sinceLocked : Option Nat := none
  /-- TICK_OVR_LAST -/
  ovrLast : Word := 0
  /-- TICK_OVR_CNT0 to 17, RCL, 16 bits, saturating -/
  ovrCnt : Tab Nat := []
  /-- SLEW_LIMIT begun and not ended (source 7) -/
  slewing : Bool := false
  /-- GTS of the last slot boundary whose work has started (R26) -/
  slotG : Nat := 0
  /-- the works of the present tick that do not end within it, and those of them that TICK_OVERRUN has told (R28) -/
  late : List TickWork := []
  told : List TickWork := []
  /-- the works of the present slot that do not end within it (R28) -/
  slotLate : List SlotWork := []
deriving DecidableEq, Repr

/-- Ring states (R52). -/
inductive RingState where
  | disabled | init | active | stalled | haltedSeq | haltedFence | draining
deriving DecidableEq, Repr

/-- The state code of R52. -/
def RingState.code : RingState → Nat
  | .disabled => 0 | .init => 1 | .active => 2 | .stalled => 3 | .haltedSeq => 4
  | .haltedFence => 5 | .draining => 6

/-- How far a fetched descriptor has come (R470). -/
inductive OpStage where
  /-- fetched and checked by HRI, its service has not begun -/
  | fetched
  /-- its service has begun its checks, the operation runs -/
  | started
  /-- finished or refused; its completion entry is not posted yet -/
  | done
deriving DecidableEq, Repr

/-- A fetched descriptor and its outcome so far (R39 to R41). An `orphan` is one of an abandoned ring: it runs on to
the next tick boundary and has no completion (R57). -/
structure Op where
  /-- the sixteen words as fetched -/
  words : List Word
  stage : OpStage := .fetched
  /-- STATUS (R46) -/
  status : Nat := 0
  /-- XFER: bytes of buffer moved so far -/
  xfer : Nat := 0
  r0 : Word := 0
  r1 : Word := 0
  /-- completion GTS -/
  doneAt : Nat := 0
  /-- what the running operation has fixed at its check (start ticks, counts), by its service -/
  aux : List Nat := []
  orphan : Bool := false
deriving DecidableEq, Repr

/-- The operation a ring in HALTED_FENCE keeps (R56). -/
inductive Held where
  | fetch
  /-- the completion entry of the oldest finished descriptor -/
  | entry
  | publish
  /-- the zeroing of INIT, from this 64-byte block of the completion region on -/
  | zero (blk : Nat)
deriving DecidableEq, Repr

/-- The placement and binding registers of a ring pair as software writes them; the ring uses the values they had at
its enable (02 "HRI registers", R54). -/
structure RingRegs where
  /-- HRI_RQ_SBASE -/
  sbase : BitVec 64 := 0
  /-- HRI_RQ_CBASE -/
  cbase : BitVec 64 := 0
  /-- HRI_RQ_WBASE -/
  wbase : BitVec 64 := 0
  /-- HRI_RQ_WSIZE -/
  wsize : BitVec 64 := 0
  /-- HRI_RQ_CFG.SERVICE, 8 bits -/
  svc : Nat := 0
  /-- HRI_RQ_CFG.QUEUE, 3 bits -/
  queue : Nat := 0
  /-- HRI_RQ_CFG.LOG2SIZE, 4 bits -/
  log2 : Nat := 0
deriving DecidableEq, Repr

/-- A ring pair (R36 to R57). Indices are 16-bit free-running counts. -/
structure Ring where
  regs : RingRegs := {}
  /-- HRI_RQ_SBASE, and the six that follow, as in use since the enable -/
  sbase : BitVec 64 := 0
  /-- HRI_RQ_CBASE -/
  cbase : BitVec 64 := 0
  /-- HRI_RQ_WBASE -/
  wbase : BitVec 64 := 0
  /-- HRI_RQ_WSIZE -/
  wsize : BitVec 64 := 0
  /-- HRI_RQ_CFG.EN -/
  en : Bool := false
  /-- HRI_RQ_CFG.SERVICE, 8 bits -/
  svc : Nat := 0
  /-- HRI_RQ_CFG.QUEUE, 3 bits -/
  queue : Nat := 0
  /-- HRI_RQ_CFG.LOG2SIZE, 4 bits -/
  log2 : Nat := 0
  /-- HRI_RQ_SEQ as the next enable loads it, 16 bits -/
  seqReg : Nat := 0
  /-- EXP_SEQ, 16 bits -/
  expSeq : Nat := 0
  /-- HRI_RQ_STATE.STATE -/
  state : RingState := .disabled
  /-- HRI_RQ_STATE.ERR -/
  err : Nat := 0
  /-- HRI_RQ_STATE.DRAIN_PEND -/
  drainPend : Bool := false
  sqTail : Nat := 0
  sqHead : Nat := 0
  cqTail : Nat := 0
  cqHead : Nat := 0
  /-- fetched descriptors without a posted completion, oldest first -/
  ops : List Op := []
  /-- the operation held in HALTED_FENCE -/
  held : Option Held := none
  /-- the state HALTED_FENCE was entered from -/
  haltFrom : RingState := .active
  /-- the SQ_TAIL that held when the drain began or was requested (R55, R57) -/
  drainTail : Nat := 0
  /-- GTS at which the drain began -/
  drainAt : Nat := 0
  /-- the state held before the flush -/
  preDrain : RingState := .active
  /-- completions posted as FLUSHED in this drain -/
  flushed : Nat := 0
  /-- GTS of the earliest doorbell in ACTIVE not yet answered by a fetch -/
  dbAt : Option Nat := none
  /-- SEQ of the descriptor that brought the ring into HALTED_SEQ (R50, R53) -/
  gapSeq : Nat := 0
  /-- GTS of the last ABANDON -/
  abandonAt : Nat := 0
deriving DecidableEq, Repr

/-- HRI (02). -/
structure Hri where
  /-- the 32 ring pairs -/
  rings : Tab Ring := []
  /-- HRI_FETCH_MAX, RCL -/
  fetchMax : Nat := 0
deriving DecidableEq, Repr

/-- One fence: BASE, LIMIT, INIT, ATTR (R63). -/
structure Fence where
  base : Nat := 0
  limit : Nat := 0xFFF
  init : BitVec 64 := 0
  en : Bool := false
  sec : Bool := false
  w : Bool := false
  r : Bool := false
deriving DecidableEq, Repr

/-- FENCE0 at reset (R69). -/
def Fence.zeroReset : Fence :=
  { base := 0x1_0000_0000, limit := 0x4_FFFF_FFFF, init := 0x3F_0000, en := true, w := true, r := true }

/-- FEN (02 "Fences"). -/
structure Fen where
  /-- staged fences that differ from all-disabled -/
  staged : Tab Fence := [(0, Fence.zeroReset)]
  /-- live fences that differ from all-disabled -/
  live : Tab Fence := [(0, Fence.zeroReset)]
  /-- FEN_VIOL_ADDR -/
  violAddr : Nat := 0
  /-- FEN_VIOL_INFO -/
  violInfo : Word := 0
  /-- FEN_VIOL_CNT, RCL -/
  violCnt : Nat := 0
  /-- FEN_APPLY low half latched, by initiator ID (R68) -/
  low : Tab Word := []
deriving DecidableEq, Repr

/-- How far a Run entry has come (R348). -/
inductive Start where
  /-- in progress, PD0 and PD1 on: before step 2 -/
  | entry
  /-- steps 2 to 4 done: firmware running, time base started -/
  | timeBase
  /-- CTRL_READY set -/
  | ready
deriving DecidableEq, Repr

/-- REC (18). A record is eight words. -/
structure Rec where
  /-- records waiting in the staging SRAM, oldest first, at most 256 (PD0) -/
  staging : List (List Word) := []
  /-- records overwritten in staging since the last flush (R436) -/
  overwritten : Nat := 0
  /-- records at the front of staging whose flash write failed once (R437) -/
  failed : Nat := 0
  /-- REC_LOST, RCL, saturating -/
  lost : Nat := 0
  /-- Cairn, oldest first, at most 256; DESIGN CHOICE empty (log 3) -/
  cairn : List (List Word) := []
  /-- Scree records by serial, at most 8,192; DESIGN CHOICE none (log 3) -/
  scree : Tab (List Word) := []
  /-- REC_SCREE_FIRST, 32 bits; DESIGN CHOICE 0 (log 3) -/
  first : Nat := 0
  /-- REC_SCREE_NEXT, 32 bits; DESIGN CHOICE 0 (log 3) -/
  next : Nat := 0
  /-- source 484 has been raised (R432); DESIGN CHOICE false (log 3) -/
  cairnFull : Bool := false
  /-- HOURS in PD0, saturating; DESIGN CHOICE 0 (log 3) -/
  hours : Nat := 0
  /-- its copy in flash (R431); DESIGN CHOICE 0 (log 3) -/
  hoursFlash : Nat := 0
  /-- REC_RATE.MAX -/
  rate : Nat := 0x10
  /-- REC_EN words that differ from their reset value -/
  en : Tab Word := []
  /-- records of the present 1,000-tick window, by source (R434) -/
  inWindow : Tab Nat := []
  /-- records not made in it, by source -/
  suppressed : Tab Nat := []
  /-- per initiator ID: REC_CURSOR -/
  cursor : Tab Nat := []
  /-- per initiator ID: REC_CSEL bit 0 -/
  csel : Tab Bool := []
  /-- per initiator ID: the latched window words and REC_WSTAT -/
  window : Tab (List Word × Nat) := []
  /-- clears of Scree so far, so that a running copy sees one (R439) -/
  clears : Nat := 0
deriving DecidableEq, Repr

/-- One mailbox (R73 to R79). -/
structure MBox where
  /-- POSTED, else FREE (R75) -/
  posted : Bool := false
  /-- MODE: POINTER, else DIRECT -/
  pointer : Bool := false
  /-- LEN, 6 bits -/
  len : Nat := 0
  /-- SEP, sender epoch latched at GO, 8 bits -/
  sep : Nat := 0
  /-- REP, receiver epoch latched at GO, 8 bits -/
  rep : Nat := 0
  /-- FLUSHED_LAST -/
  flushedLast : Bool := false
  /-- MBX_DATA0 to 11 that are not 0 -/
  data : Tab Word := []
  /-- MBX_CFG -/
  cfg : Word := 0
deriving DecidableEq, Repr

/-- MBX: mailboxes and pitons (03). -/
structure Mbx where
  /-- MB0 to MB63 -/
  boxes : Tab MBox := []
  /-- owner ID of each piton, 0 free (R87) -/
  pitons : Tab Nat := []
  /-- MBX_EPOCH by endpoint ID, 8 bits (R72) -/
  epochs : Tab Nat := []
  /-- MBX_TXDONE_S (bits 31:0) and _NS (bits 63:32) -/
  txdone : BitVec 64 := 0
  /-- MBX_PITON_FREED (R90) -/
  freed : BitVec 64 := 0
  /-- MBX_VIOL_CNT, RCL, saturating -/
  viol : Nat := 0
deriving DecidableEq, Repr

/-- Context states (R92). -/
inductive CtxState where
  | empty | loaded | armed | run | posture | shadow
deriving DecidableEq, Repr

/-- The state code of R92. -/
def CtxState.code : CtxState → Nat
  | .empty => 0 | .loaded => 1 | .armed => 2 | .run => 3 | .posture => 4 | .shadow => 5

/-- A loop context of the BCE: its configuration, the 16 state words of R127 as the engine keeps them,
and what the rules make it remember between evaluations. -/
structure BCtx where
  state : CtxState := .empty
  /-- configuration, 48 words (R127) -/
  cfg : List Word := []
  /-- STATUS.CAUSE -/
  cause : Nat := 0
  lost : Bool := false
  frozen : Bool := false
  feActive : Bool := false
  spStale : Bool := false
  ffStale : Bool := false
  sat : Bool := false
  iFrozen : Bool := false
  destOff : Bool := false
  destRefused : Bool := false
  replOk : Bool := false
  /-- the next evaluation initialises as in R97 -/
  first : Bool := false
  /-- the next evaluation takes X_PREV from its own x (R97, R117) -/
  seedX : Bool := false
  r : Int := 0
  y : Int := 0
  u : Int := 0
  v : Int := 0
  i : Int := 0
  df : Int := 0
  xPrev : Int := 0
  rPrev : Int := 0
  rampFrom : Int := 0
  rampTo : Int := 0
  /-- RAMP_J, 10 bits -/
  rampJ : Nat := 0
  /-- following-error count, 16 bits -/
  feCount : Nat := 0
  /-- frozen run count, 8 bits -/
  frzRun : Nat := 0
  /-- resume count, 8 bits -/
  resumeCnt : Nat := 0
  frzU0 : Int := 0
  /-- last raw feedback value -/
  lastFb : Word := 0
  /-- feedback stamp, 64 bits -/
  fbStamp : Nat := 0
  /-- last fresh setpoint and feed-forward (R102) -/
  lastSp : Option Int := none
  lastFf : Option Int := none
  /-- stamp of the outer output handed over last (R110) -/
  handed : Nat := 0
  /-- a CTX_CLEAR asks for resumption at the next latch (R124) -/
  clearReq : Bool := false
  /-- result held until its output instant: u, instant, and whether it is a posture output (R104) -/
  out : Option (Int × Nat × Bool) := none
  /-- last released u (BCE_CTX_OUT) -/
  outLast : Int := 0
  /-- start tick T0 (R121) -/
  t0 : Nat := 0
  /-- tick and mode SAFE of a stop to come (R122) -/
  stopAt : Option (Nat × Bool) := none
  /-- SAFE still to be written once, at the first due output instant at or after this tick (R122) -/
  safeAt : Option Nat := none
  /-- first output instant without a law output of this context (R111) -/
  badAt : Option Nat := none
  /-- patches accepted and not in effect: tick, first word, words (R125) -/
  patches : List (Nat × Nat × List Word) := []
  /-- the configuration before the last patch, in force before this tick (R116, R125) -/
  oldCfg : Option (Nat × List Word) := none
  /-- newest valid replica held (R116) -/
  replica : Option BceReplica := none
  /-- a replica of another configuration has cleared REPL_OK (R116) -/
  replBad : Bool := false
  /-- trace, oldest first, at most 240 entries of 4 words -/
  trace : List (List Word) := []
deriving DecidableEq, Repr

/-- BCE (04). -/
structure Bce where
  /-- the 128 contexts -/
  ctx : Tab BCtx := []
  /-- signal table: value and stamp by entry (R99) -/
  sig : Tab (Word × Nat) := []
  /-- entries published but not yet visible to a latch: visible from, entry, value, stamp (R133) -/
  late : List (Nat × Nat × Word × Nat) := []
  /-- installed trajectory: 400 points and stamp (R100) -/
  traj : Option (List Word × Nat) := none
  /-- a trajectory released but not yet visible to a latch: visible from, points, stamp (R209) -/
  trajLate : Option (Nat × List Word × Nat) := none
  /-- BCE_CTL.EN -/
  en : Bool := false
  /-- BCE_CTL.REPL_EN -/
  replEn : Bool := false
  /-- BCE_ERR_LAST -/
  errLast : Word := 0
  /-- BCE_SAT_CNT, RCL, saturating -/
  satCnt : Nat := 0
  /-- BCE_CTX_SEL -/
  ctxSel : Nat := 0
  /-- BCE_PHASE_SEL -/
  phaseSel : Nat := 0
  /-- BCE_REPL_T -/
  replT : Nat := 0
  /-- BCE_REPL_MISS, RCL, saturating -/
  replMiss : Nat := 0
deriving DecidableEq, Repr

/-- An analog input (R130 to R136). -/
structure Ain where
  /-- FIN_AIN_CFG -/
  cfg : Word := 0
  /-- FIN_AIN_LIM, reset 0xFFFF_0000 -/
  lim : Word := 0xFFFF_0000
  /-- FIN_AIN_CFG as in effect since the last tick boundary; EN has been written 0 since -/
  act : Word := 0
  again : Bool := false
  fault : Bool := false
  /-- INPUT_FAULT code it entered with -/
  why : Nat := 0
  /-- run of bad and of good conversions -/
  bad : Nat := 0
  good : Nat := 0
  /-- GTS at which the shunt opened (R134) -/
  shunt : Option Nat := none
deriving DecidableEq, Repr

/-- A frequency input (R137 to R139). -/
structure Frq where
  /-- FIN_FRQ_CFG -/
  cfg : Word := 0
  /-- FIN_FRQ_CNT, wraps -/
  cnt : Nat := 0
  /-- FIN_FRQ_CFG as in effect since the last tick boundary; EN has been written 0 since -/
  act : Word := 0
  again : Bool := false
  /-- GTS of the boundary that enabled it -/
  enAt : Nat := 0
  /-- edges in the running gate -/
  gate : Nat := 0
  /-- last edge -/
  last : Option Nat := none
  /-- last edge before the running gate -/
  prev : Option Nat := none
  /-- end of the last gate -/
  gateAt : Option Nat := none
deriving DecidableEq, Repr

/-- A loss pad (R140, R141). -/
structure Los where
  /-- FIN_LOS_CFG -/
  cfg : Word := 0
  /-- FIN_LOS_THR -/
  thr : Word := 0
  /-- FIN_LOS_TOTAL, wraps -/
  total : Nat := 0
  /-- FIN_LOS_CFG as in effect since the last tick boundary; EN has been written 0 since -/
  act : Word := 0
  again : Bool := false
  /-- impacts of the running tick -/
  count : Nat := 0
  /-- GTS of the first sample since the last impact, or since enable -/
  fromG : Nat := 0
  /-- an impact has been counted since enable -/
  struck : Bool := false
deriving DecidableEq, Repr

/-- States of a sensor supply (R146). -/
inductive SupState where
  | off | on | limit | tripped
deriving DecidableEq, Repr

/-- FIN_SUP_STAT.state. -/
def SupState.code : SupState → Nat
  | .off => 0 | .on => 1 | .limit => 2 | .tripped => 3

/-- A sensor supply (R145, R146). -/
structure Sup where
  en : Bool := false
  st : SupState := .off
  /-- current mA and voltage mV as last measured -/
  mA : Nat := 0
  mV : Nat := 0
  /-- GTS of the entry to LIMIT -/
  limitAt : Nat := 0
deriving DecidableEq, Repr

/-- FIN (05). -/
structure FinBlk where
  /-- FIN_CFG_ERR -/
  cfgErr : Word := 0
  /-- FIN_AIN_FLT0 and 1 -/
  ainFlt : BitVec 64 := 0
  /-- FIN_LOS_FLT -/
  losFlt : Word := 0
  /-- FIN_IMU_CFG -/
  imuCfg : Word := 0
  /-- FIN_IMU_STATUS.FAIL -/
  imuFail : Bool := false
  /-- the last sample of the IMU with its stamp, as GNB and LKO receive it (R143) -/
  imu : Option (Nat × List Int) := none
  ain : Tab Ain := []
  frq : Tab Frq := []
  los : Tab Los := []
  sup : Tab Sup := []
deriving DecidableEq, Repr

/-- The states of a load channel under its bank control (R151). FIXROPE shows only in LSW_FR_ACT. -/
inductive ChState where
  | off | on | cool | latched | standby | feedLow
deriving DecidableEq, Repr

/-- LSW_CH_STAT.STATE. -/
def ChState.code : ChState → Nat
  | .off => 0 | .on => 1 | .cool => 2 | .latched => 3 | .standby => 4 | .feedLow => 6

/-- A step of a profile (R175). -/
structure ProfStep where
  duty : Nat
  hold : Nat
  on : Bool
deriving DecidableEq, Repr

/-- A running profile (R175). -/
structure Prof where
  steps : List ProfStep
  /-- the step that applies next -/
  idx : Nat
  /-- the tick at whose boundary it applies -/
  nextT : Nat
  /-- further passes; none: without end -/
  left : Option Nat
  applied : Nat := 0
  missed : Nat := 0
deriving DecidableEq, Repr

/-- A load channel (R148 to R168). All of it lives in its bank's domain. -/
structure Ch where
  /-- LSW_CH_CFG -/
  cfg : Word := 0x0030_0000
  /-- LSW_CH_TIME -/
  time : Word := 0x000A_0A28
  /-- LSW_CH_PWM -/
  pwm : Word := 0x1000_0000
  /-- LSW_CH_DITHER -/
  dither : Word := 0
  /-- LSW_CH_OLTH -/
  olth : Word := 0
  st : ChState := .off
  /-- commanded duty, 16 bits -/
  cmd : Nat := 0
  /-- applied duty, 16 bits -/
  applied : Nat := 0
  /-- K in force; none: exactly 1 (R155) -/
  k : Option Nat := none
  /-- start of the PWM period whose duty was taken last -/
  period : Nat := 0
  /-- start of the inrush window (R156) -/
  win : Option Nat := none
  /-- end of the last window since the entry to ON; 0: none (R163) -/
  winEnd : Nat := 0
  /-- K is a replica's, kept for the window to come (R167) -/
  kHeld : Bool := false
  /-- the window opens at the first conduction -/
  winDue : Bool := false
  /-- the next period start at or after this GTS returns the channel from FEED_LOW (R172) -/
  wait : Option Nat := none
  /-- begin of the motor soft-start (R158) -/
  soft : Option Nat := none
  limit : Bool := false
  olOn : Bool := false
  olOff : Bool := false
  /-- GANG_MISMATCH by output and by configuration CRC -/
  gangOut : Bool := false
  gangCrc : Bool := false
  /-- the output disagreed with the replica at the last tick -/
  gangNow : Bool := false
  /-- matching ticks in a row, of each -/
  gangOutOk : Nat := 0
  gangCrcOk : Nat := 0
  bceLate : Bool := false
  /-- restart count -/
  count : Nat := 0
  /-- CAUSE: 0 none, 1 short, 2 thermal -/
  cause : Nat := 0
  /-- the cause of the trip whose restart is pending (R162) -/
  tripBy : Nat := 0
  /-- LSW_CH_TRIPS, 16 bits each, RCL, saturating -/
  shortTrips : Nat := 0
  thermTrips : Nat := 0
  /-- GTS of the last trip -/
  tripAt : Nat := 0
  /-- GTS of the last entry to ON, and at which it was left last -/
  onSince : Nat := 0
  onEnd : Nat := 0
  /-- the state before STANDBY and the end of the window then, for the replica (R164, R165) -/
  was : ChState := .off
  wasWin : Nat := 0
  /-- GTS of the last BCE duty -/
  bceAt : Nat := 0
  /-- open-load runs (R163): on-state below and not below OLTH, off-state above and below the threshold -/
  onBelow : Nat := 0
  onAbove : Nat := 0
  offAbove : Nat := 0
  offBelow : Nat := 0
  /-- newest valid replica (R165) -/
  repl : Option ChanReplica := none
  replOk : Bool := false
  /-- slot-mean current, µA -/
  current : Nat := 0
  /-- junction, 0.1 degree -/
  tj : Int := 0
  prof : Option Prof := none
deriving DecidableEq, Repr

/-- The registers and feed state of a load bank (R172, R177). -/
structure LoadBank where
  /-- LSW_FEED: minimum and mean of the last tick, mV -/
  feedMin : Nat := 0
  feedMean : Nat := 0
  /-- LSW_BANK_I, 10 mA -/
  current : Nat := 0
  /-- feed-low (R172) -/
  low : Bool := false
  /-- begin of a running crank-hold -/
  hold : Option Nat := none
  /-- LSW_FAULT: bit n of channel n -/
  fault : BitVec 64 := 0
deriving DecidableEq, Repr

/-- A channel under the PD1 path (R170, R171). -/
structure FrCh where
  /-- turned off by a short -/
  short : Bool := false
  /-- LH inputs that have read inactive since -/
  seen : Word := 0
  /-- turned off by the thermal trip -/
  therm : Bool := false
deriving DecidableEq, Repr

/-- LSW (06). -/
structure Lsw where
  /-- the 48 channels -/
  ch : Tab Ch := []
  bankA : LoadBank := {}
  bankB : LoadBank := {}
  /-- LSW_CTL.OUT_EN -/
  outEn : Bool := false
  /-- LSW_CTL.CRANK_HOLD -/
  crankHold : Bool := false
  /-- LSW_CFG_ERR -/
  cfgErr : Word := 0
  /-- LSW_LH_LOCK -/
  lock : Bool := false
  /-- LSW_LH_MAP0 to 7 -/
  lhMap : Tab Word := []
  /-- LSW_FR_DUTY0 to 5 -/
  frDuty : Tab Word := []
  /-- LSW_STATUS.DRIVE (R165) -/
  drive : Bool := false
  /-- channels under the PD1 path that have tripped -/
  fr : Tab FrCh := []
deriving DecidableEq, Repr

/-- Controller states (R309). -/
inductive CanState where
  | off | integrating | active | passive | busOff
deriving DecidableEq, Repr

/-- CAN_STATUS.STATE. -/
def CanState.code : CanState → Nat
  | .off => 0 | .integrating => 1 | .active => 2 | .passive => 3 | .busOff => 4

/-- A message buffer (R311 to R313, R326). -/
structure CanBuf where
  /-- BUF_CFG -/
  cfg : Word := 0
  /-- BUF_ID -/
  id : Word := 0
  /-- BUF_MASK -/
  mask : Word := 0
  ndat : Bool := false
  ovr : Bool := false
  late : Bool := false
  na : Bool := false
  /-- SEQ, 8 bits, wraps -/
  seq : Nat := 0
  /-- LEN of the stored frame -/
  len : Nat := 0
  /-- BUF_GTS -/
  gts : Nat := 0
  /-- BUF_CNT, wraps -/
  cnt : Nat := 0
  /-- data area, by word -/
  data : Tab Word := []
  /-- the pending frame's data, and the GTS from which it is pending -/
  pend : Option (List Byte) := none
  pendAt : Nat := 0
  /-- the data of the frame on the wire, or come back from it, behind which a pending one waits -/
  wire : Option (List Byte) := none
  /-- abort request (CAN_TXABT) -/
  abort : Bool := false
  /-- tick of the last cyclic assembly -/
  asmT : Option Nat := none
deriving DecidableEq, Repr

/-- States of a FOLLOW model (R320). -/
inductive TmState where
  | off | acquiring | locked | lost
deriving DecidableEq, Repr

/-- CAN_TM_STATE bits 31:30. -/
def TmState.code : TmState → Nat
  | .off => 0 | .acquiring => 1 | .locked => 2 | .lost => 3

/-- A time model (R319, R320). -/
structure TimeModel where
  st : TmState := .off
  /-- pairs since the seed: 0 none, 1 seed, 2 rate known -/
  pairs : Nat := 0
  count : Nat := 0
  /-- O -/
  o : Int := 0
  /-- M0, 100 ns -/
  m0 : Int := 0
  /-- ρ -/
  rho : Rat := 0
  /-- m of the last pair -/
  lastM : Int := 0
  /-- last residual, counts -/
  res : Int := 0
  /-- CYCLE and SOF of the last reference received -/
  last : Option (Nat × Nat) := none
  /-- GTS from which the loss of references counts -/
  since : Nat := 0
deriving DecidableEq, Repr

/-- Whose frame a controller has on the wire: a buffer's or FRAME_TX's. -/
inductive CanWho where
  | buf (b : Nat)
  | frameTx
deriving DecidableEq, Repr

/-- A frame as it was sent (R307). -/
structure CanSent where
  frame : CanFrame
  /-- error signalling in the XL data phase -/
  errSig : Bool
deriving DecidableEq, Repr

/-- A CAN controller (R307 to R327). -/
structure CanCtl where
  /-- CAN_CTL -/
  ctl : Word := 0
  state : CanState := .off
  /-- CAN_STATUS.MODE, in effect -/
  mode : Nat := 0
  /-- CAN_NBT -/
  nbt : Word := 0
  /-- CAN_DBT -/
  dbt : Word := 0
  tec : Nat := 0
  /-- REC -/
  recCnt : Nat := 0
  /-- CAN_FLAGS -/
  flags : Word := 0
  /-- flag counters, 16 bits, wrapping -/
  fcnt : Tab Nat := []
  /-- CAN_PROT_CNT, RCL, saturating -/
  protCnt : Nat := 0
  /-- CAN_FIFO_ID -/
  fifoId : Word := 0
  /-- CAN_FIFO_MASK -/
  fifoMask : Word := 0
  /-- CAN_TM_CFG -/
  tmCfg : Word := 0
  tm : TimeModel := {}
  /-- CAN_TM_REFSOF -/
  refSof : Nat := 0
  /-- REC_GO has been written since BUS_OFF was entered -/
  recGo : Bool := false
  /-- a MASTER that has met a conflict sends no reference (R318) -/
  conflict : Bool := false
  /-- CYCLE and SOF of the last reference sent, or on a second received (R317, R321) -/
  refLast : Option (Nat × Nat) := none
  /-- tick of the last reference assembly -/
  refT : Option Nat := none
  /-- pool frames, wrapping -/
  poolCnt : Nat := 0
  bufs : Tab CanBuf := []
  /-- lost frames of the running tick by RX_LOST code: first SOF, its buffer, count (R327) -/
  lost : Tab (Nat × Nat × Nat) := []
  /-- protocol errors of the running tick by code: first GTS, CAN_ERRC, count (R327) -/
  prot : Tab (Nat × Nat × Nat) := []
  /-- the frame that this controller has on the wire, and its SOF (R313) -/
  bus : Option (CanWho × Nat) := none
  /-- the last frame sent -/
  txLast : Option CanSent := none
deriving DecidableEq, Repr

/-- CAN (12). -/
structure Can where
  /-- CAN0 to CAN7 -/
  ctl : Tab CanCtl := []
  /-- receive map, 4 words an entry -/
  rxMap : Tab (List Word) := []
  /-- transmit map, 4 words a slot -/
  txMap : Tab (List Word) := []
  /-- slot values with the GTS of their write -/
  slots : Tab (Word × Option Nat) := []
  /-- loads to come: effect tick, transmit map, first entry, entries -/
  loads : List (Nat × Bool × Nat × List (List Word)) := []
deriving DecidableEq, Repr

/-- A model slot of Col (R220, R221). -/
structure ColModel where
  /-- image address in host memory -/
  addr : Nat
  /-- the 256-byte header, as words -/
  header : List Word
  /-- CORRUPT -/
  corrupt : Bool := false
  /-- runs its int8 variant -/
  int8 : Bool := false
deriving DecidableEq, Repr

/-- States of a clock model (R215). -/
inductive ClockState where
  | acquiring | aligned | unaligned
deriving DecidableEq, Repr

/-- The clock model of an input (R214, R215). -/
structure ClockModel where
  st : ClockState := .acquiring
  /-- a pair has seeded it -/
  seeded : Bool := false
  /-- O, GTS counts -/
  o : Int := 0
  /-- S0, ns -/
  s0 : Rat := 0
  /-- ρ -/
  rho : Rat := 0
  /-- sensor time of the last pair -/
  lastS : Rat := 0
  /-- alignment count -/
  count : Nat := 0
  /-- last residual, counts -/
  res : Int := 0
  /-- unwrapped frame number (FRAME) -/
  frame : Option Nat := none
deriving DecidableEq, Repr

/-- A Lookout input 0 to 16 (R211): configuration, model, health and counts. -/
structure LkoInput where
  /-- SENSOR_CFG, 32 words; empty: none loaded -/
  cfg : List Word := []
  clock : ClockModel := {}
  /-- SCORE (R224) -/
  score : Nat := 255
  unscored : Bool := false
  excluded : Bool := false
  /-- successive scored epochs with H < 32 (or failed), and with H ≥ 128 (or not failed) -/
  low : Nat := 0
  high : Nat := 0
  /-- weight in 1/32,768 -/
  weight : Nat := 32768
  /-- LATE, CARRIED and superseded, wrapping -/
  late : Nat := 0
  carried : Nat := 0
  superseded : Nat := 0
deriving DecidableEq, Repr

/-- How far an accepted camera frame has come (R220). -/
inductive EncStage where
  | waiting
  /-- encoded, with this precision -/
  | done (int8 : Bool) (enc : Encoding)
deriving DecidableEq, Repr

/-- A camera frame accepted for an epoch (R218, R219). -/
structure LkoSample where
  cam : Nat
  cap : Nat
  /-- GTS of its arrival -/
  at' : Nat
  /-- slot buffer 0 to 3 while Col has not read it -/
  buf : Nat
  carried : Bool
  stage : EncStage := .waiting
deriving DecidableEq, Repr

/-- A lidar point in an epoch's bin (R240). -/
structure LidarPoint where
  x : Word
  y : Word
  z : Word
  cap : Nat
  intensity : Nat
deriving DecidableEq, Repr

/-- A lidar point warped into the grid frame of its epoch, mm (R206, R217). -/
structure GridPoint where
  x : Int
  y : Int
  z : Int
  intensity : Nat
deriving DecidableEq, Repr

/-- A pose of the machine frame (R217): place in nm, heading in nrad, pitch and roll in µrad. -/
structure Pose where
  x : Int := 0
  y : Int := 0
  yaw : Int := 0
  pitch : Int := 0
  roll : Int := 0
deriving DecidableEq, Repr

/-- What HEAD derives for an epoch (R224, R229, R230). -/
structure LkoProducts where
  cells : Tab Cell
  /-- sum of height differences in mm and count, by input -/
  dist : Tab (Nat × Nat)
  /-- P -/
  traj : List Word
  trajGap : Nat
  /-- E -/
  edge : List Word
  heading : Word
  curvature : Word
  edgeConf : Nat
  /-- mass per metre of each row -/
  mass : List Word
  /-- speed used, mm/s -/
  speed : Nat
deriving DecidableEq, Repr

/-- An open epoch (R208 to R210). -/
structure LkoEpoch where
  num : Nat
  samples : List LkoSample := []
  /-- frames accepted for encoding, by camera -/
  accepted : Tab Nat := []
  /-- the lidar bins -/
  bins : Tab (List LidarPoint) := []
  /-- inputs with carried samples -/
  carried : Nat := 0
  closed : Bool := false
  /-- enabled inputs that were not ALIGNED at the close -/
  unaligned : Nat := 0
  /-- the remote encoding (R235) -/
  remote : Option RemoteEnc := none
  remoteMissing : Bool := false
  /-- lidars whose LIDAR_ENC has run, the bins it read warped to the epoch's instant, and what it put out -/
  lidarDone : Nat := 0
  gridPoints : Tab (List GridPoint) := []
  lidarEnc : Tab Encoding := []
  /-- the pose at the instant relative to the pose at the capture, by camera, as FUSE warps with it -/
  warps : Tab Pose := []
  /-- the fused features of FUSE -/
  fused : Option (List Byte) := none
  products : Option LkoProducts := none
  /-- FUSE or HEAD failed -/
  failed : Bool := false
  /-- PD6 was off between close and release -/
  colOff : Bool := false
  /-- closed at a takeover (R236) -/
  takeover : Bool := false
  /-- motion inputs that contributed over the window -/
  motion : Nat := 0
  /-- encodes of either precision: fp16, int8; the precision changed between an encode and the fusion (R233) -/
  fp16 : Bool := false
  int8 : Bool := false
  changed : Bool := false
deriving DecidableEq, Repr

/-- The per-tick ego-motion of Lookout and what it keeps of it (R217, R226, R230). -/
structure LkoMotion where
  /-- the integrated pose at each boundary, newest first, at most 256 -/
  poses : List (Nat × Pose) := []
  /-- the newest ego-motion with its boundary: speed, lateral velocity, yaw rate, pitch, roll -/
  ego : Option (Nat × List Int) := none
  /-- ego speed in mm/s and travel in µm at each boundary, newest first, at most 5,056 -/
  travel : List (Nat × Int × Int) := []
  /-- ticks of the running epoch in which an input disagreed -/
  disagree : Tab Nat := []
  /-- motion inputs that have contributed since the last epoch instant -/
  window : Nat := 0
  /-- mask of entry 0x25D at the last tick -/
  mask : Nat := 0
deriving DecidableEq, Repr

/-- Block states of LKO (R232). -/
inductive LkoState where
  | empty | loaded | armed | run | shadow
deriving DecidableEq, Repr

/-- LKO_STATUS.STATE. -/
def LkoState.code : LkoState → Nat
  | .empty => 0 | .loaded => 1 | .armed => 2 | .run => 3 | .shadow => 4

/-- The invocation that Col runs, by epoch (R220). -/
inductive ColJob where
  | cam (e c cap : Nat)
  | lidar (e i : Nat)
  | fuse (e : Nat)
  | head (e : Nat)
deriving DecidableEq, Repr

/-- LKO and Col (08). -/
structure Lko where
  /-- LKO_CTL.EN -/
  en : Bool := false
  state : LkoState := .empty
  /-- LKO_ERR_LAST -/
  errLast : Word := 0
  /-- CFG_LOAD, 32 words; empty: none loaded -/
  cfg : List Word := []
  /-- inputs 0 to 16 -/
  inputs : Tab LkoInput := []
  /-- model slots 0 to 3 -/
  models : Tab ColModel := []
  /-- LKO_SLOT_BASE -/
  slotBase : BitVec 64 := 0
  /-- LKO_SLOT_STRIDE -/
  slotStride : Word := 0
  /-- slot buffers in use, by 4 × slot + buffer -/
  bufs : Tab Bool := []
  /-- start boundary T (ARMED) -/
  startT : Nat := 0
  /-- epoch of the first instant t_s in RUN; collection begins after it -/
  fromE : Nat := 0
  /-- last epoch of a stop to come or made -/
  lastE : Option Nat := none
  /-- the open epochs by number -/
  epochs : List LkoEpoch := []
  /-- next epoch to close, and to release -/
  nextClose : Nat := 0
  nextRel : Nat := 0
  motion : LkoMotion := {}
  /-- what Col runs, with the precision it started with (R222) -/
  col : Option (ColJob × Bool) := none
  /-- last epoch of a stop that a START has followed before its release -/
  tailE : Option Nat := none
  /-- mass per metre by strip of 0.1 m of travel, for the last 64 m and the grid ahead (R230) -/
  strips : List (Int × Rat) := []
  /-- the governor asks for int8 (R222) -/
  int8Ask : Bool := false
  /-- LKO_EPOCH, LKO_EPOCH_GTS, LKO_CONTRIB, DEGRADED of the last release -/
  lastEpoch : Nat := 0
  lastGts : Nat := 0
  contrib : Nat := 0
  degraded : Bool := false
  /-- LKO_LATE_CNT, LKO_CARRY_CNT, LKO_SKIP_CNT, LKO_VIS_REFUSED: RCL, saturating -/
  lateCnt : Nat := 0
  carryCnt : Nat := 0
  skipCnt : Nat := 0
  visRefused : Nat := 0
  /-- mm of the header path that are not CUT in row 0 of the last release (R293) -/
  cutWidth : Rat := 0
  /-- LKO_COL_LOAD -/
  colLoad : Word := 0
  /-- LKO_CLK_SEL -/
  clkSel : Nat := 0
  /-- the last release replica stored on a second (R235) -/
  replica : Option RelReplica := none
  /-- cameras of the twin module known to take part -/
  teamCams : Nat := 0
  /-- the last remote encoding closed by a second (R235) -/
  remoteOut : Option RemoteEnc := none
  /-- the last release replica handed to the twin link (R209) -/
  releaseOut : Option RelReplica := none
deriving DecidableEq, Repr

/-- Link states (R181). -/
inductive LinkState where
  | down | training | up
deriving DecidableEq, Repr

/-- IPL_LINK_STAT.state. -/
def LinkState.code : LinkState → Nat
  | .down => 0 | .training => 1 | .up => 2

/-- An A-PHY link (R179 to R181, R448). -/
structure IplLink where
  /-- IPL_LINK_CFG -/
  cfg : Word := 0
  st : LinkState := .down
  /-- measured uplink latency, 16 bits -/
  latency : Nat := 0
  /-- CRC and ECC errors, discarded packets: RCL, 16 bits each, saturating -/
  crc : Nat := 0
  discarded : Nat := 0
  /-- tick at which the next training attempt starts -/
  retryT : Nat := 0
  /-- GTS at which the port was turned off by its current limit -/
  powerOff : Option Nat := none
  /-- GTS at which the last trigger left over the uplink, early by the latency (R182) -/
  sentAt : Option Nat := none
deriving DecidableEq, Repr

/-- Context states of IPL (R186). -/
inductive IplState where
  | empty | loaded | armed | run | linkWait
deriving DecidableEq, Repr

/-- The state code of R186. -/
def IplState.code : IplState → Nat
  | .empty => 0 | .loaded => 1 | .armed => 2 | .run => 3 | .linkWait => 4

/-- Exposure settings (R192). -/
structure IplSet where
  id : Nat
  exp : Nat
  dgain : Nat
  again : Nat
deriving DecidableEq, Repr

/-- An accepted EXPOSURE that no frame has taken yet (R193). -/
structure IplPend where
  set : IplSet
  /-- the tick of B -/
  boundary : Nat
  /-- GTS at which its sensor write completed -/
  wrote : Option Nat := none
  /-- tick from which a refused write is retried -/
  retryT : Nat := 0
  /-- place in the order of acceptance -/
  order : Nat
deriving DecidableEq, Repr

/-- An accepted TUNE_LOAD that no frame has taken yet. -/
structure IplTune where
  id : Nat
  boundary : Nat
  bytes : List Byte
  order : Nat
deriving DecidableEq, Repr

/-- A line of a frame as the pipeline has read it from the FIFO: valid or not (R194), and its 16-bit codes. -/
structure IplLine where
  ok : Bool := false
  px : List Nat := []
deriving DecidableEq, Repr

/-- A frame that has started and is not closed (R184 to R197). -/
structure IplFrame where
  num : Nat
  /-- CAP_GTS -/
  cap : Nat
  /-- T of its trigger; 0 for FREE -/
  trigT : Nat
  setId : Nat
  exp : Nat
  /-- exposure × gain, for the history (R191) -/
  gain : Nat
  /-- FLAGS, bits 7:0 -/
  flags : Nat := 0
  /-- lines that have arrived, and lines stored in the FIFO -/
  arrived : Nat := 0
  stored : Nat := 0
  /-- valid lines -/
  valid : Nat := 0
  /-- which of the stored lines are valid, and the lines that the pipeline has read -/
  oks : List Bool := []
  lines : List IplLine := []
  /-- TUNE_LOAD block in force for it -/
  tune : List Byte := []
  /-- the history as read at its begin, plane by plane (R191) -/
  hist : List Byte := []
  /-- lines made up into units -/
  queued : Nat := 0
  /-- lines that have passed every stage, and when the last did -/
  passed : Nat := 0
  passedAt : Nat := 0
  /-- its end, or the happening that closed it -/
  endAt : Option Nat := none
  /-- a unit of it has started -/
  begun : Bool := false
  /-- taken LKO slot buffer -/
  visBuf : Option Nat := none
  /-- its VISION output was refused -/
  visDrop : Bool := false
deriving DecidableEq, Repr

/-- An image context (R186 to R204). -/
structure IplCtx where
  state : IplState := .empty
  /-- configuration, 32 words -/
  cfg : List Word := []
  /-- start tick T0 -/
  t0 : Nat := 0
  /-- tick T_s of a stop to come -/
  stopT : Option Nat := none
  /-- RATE_F in effect, and a change to come with its tick -/
  rateF : Nat := 0
  rateNext : Option (Nat × Nat) := none
  /-- next frame number, 16 bits -/
  next : Nat := 0
  /-- T of the trigger that no frame has matched -/
  trig : Option Nat := none
  /-- T of the last trigger -/
  lastTrig : Option Nat := none
  /-- last accepted frame start -/
  lastStart : Option Nat := none
  /-- last frame start on its source -/
  lastSync : Option Nat := none
  /-- the lines that arrive belong to a frame dropped whole -/
  dropping : Bool := false
  /-- open frames, oldest first -/
  frames : List IplFrame := []
  /-- lines in the ingress FIFO, and the place of the next -/
  fifo : Nat := 0
  writeAt : Nat := 0
  /-- settings in force -/
  set : IplSet := { id := 0, exp := 0, dgain := 0, again := 0 }
  exps : List IplPend := []
  tunes : List IplTune := []
  /-- TUNE_LOAD block in force -/
  tune : List Byte := []
  /-- accepted settings so far -/
  orders : Nat := 0
  /-- defect list -/
  defects : List Word := []
  /-- exposure × gain of the frames in the history, newest first, and the last number through stage 3 -/
  history : List Nat := []
  histNum : Option Nat := none
  /-- exposure × gain of the history lines, by line, newest first -/
  lineGains : List (List Nat) := []
  /-- last closed FRAME_NO and FLAGS -/
  lastNo : Nat := 0
  lastFlags : Nat := 0
  /-- frames delivered to VISION -/
  delivered : Nat := 0
deriving DecidableEq, Repr

/-- A unit of work that is ready (R188). -/
structure IplUnit where
  readyAt : Nat
  ctx : Nat
  frame : Nat
  lines : Nat
deriving DecidableEq, Repr

/-- The unit the pipeline runs. -/
structure IplRun where
  ctx : Nat
  frame : Nat
  lines : Nat
  beginAt : Nat
  endAt : Nat
deriving DecidableEq, Repr

/-- Encoder stream states. -/
inductive EncState where
  | off | run | deferred
deriving DecidableEq, Repr

/-- IPL_ENC_STAT.state. -/
def EncState.code : EncState → Nat
  | .off => 0 | .run => 1 | .deferred => 2

/-- A frame that a stream is to code (R197, R199). -/
structure EncDue where
  num : Nat
  cap : Nat
  /-- GTS at which its access unit started, and whether it is an IDR frame -/
  at' : Nat := 0
  idr : Bool := false
  /-- its frame has closed: the header, and the rows of the picture at the stream's size, none where invalid -/
  closed : Bool := false
  header : List Byte := []
  rows : List (Option (List Byte)) := []
deriving DecidableEq, Repr

/-- An encoder stream (R199). -/
structure EncStream where
  st : EncState := .off
  /-- ENC_CFG words 7 to 10 -/
  cfg : List Word := []
  /-- the next frame is an IDR frame -/
  idrNext : Bool := false
  /-- frames since the last IDR frame -/
  gop : Nat := 0
  /-- frames whose access unit is to start, oldest first, and the one under way -/
  due : List EncDue := []
  unit : Option EncDue := none
  /-- the rows of the last coded picture, invalid lines made up (R194) -/
  picture : List (List Byte) := []
  /-- GTS and bytes of the access units of the last second -/
  sent : List (Nat × Nat) := []
deriving DecidableEq, Repr

/-- IPL (07). -/
structure Ipl where
  /-- IPL_CTL.EN -/
  en : Bool := false
  /-- IPL_ERR_LAST -/
  errLast : Word := 0
  links : Tab IplLink := []
  /-- IPL_PCAM_CFG -/
  pcam : Word := 0
  ctx : Tab IplCtx := []
  enc : Tab EncStream := []
  /-- ready units in the order of R188 -/
  ready : List IplUnit := []
  running : Option IplRun := none
  /-- GTS at which PCAM_TRIG last asserted, for 4,000 counts (R182) -/
  pcamTrig : Option Nat := none
  /-- context of the last unit, and its end -/
  lastCtx : Option Nat := none
  freeAt : Nat := 0
  /-- IPL_CTX_SEL -/
  ctxSel : Nat := 0
  /-- IPL_OVF_CNT, IPL_DISP_DROP, IPL_STAT_DROP, IPL_VIS_DROP: RCL, saturating -/
  ovf : Nat := 0
  dispDrop : Nat := 0
  statDrop : Nat := 0
  visDrop : Nat := 0
deriving DecidableEq, Repr

/-- Channel states of GNB (R249). -/
inductive GnbChState where
  | idle | search | pullIn | track | coast
deriving DecidableEq, Repr

/-- GNB_CH_STATE bits 31:28. -/
def GnbChState.code : GnbChState → Nat
  | .idle => 0 | .search => 1 | .pullIn => 2 | .track => 3 | .coast => 4

/-- A receiver channel (R247 to R249). -/
structure GnbCh where
  st : GnbChState := .idle
  /-- signal index, satellite, port -/
  sig : Nat := 0
  sv : Nat := 0
  ant2 : Bool := false
  /-- C/N0, 0.01 dB-Hz -/
  cn0 : Nat := 0
  /-- tick of entry into the state -/
  since : Nat := 0
  /-- tick from which the lock time counts -/
  lockT : Nat := 0
  /-- SLIP since the previous record -/
  slip : Bool := false
  /-- the half cycle is resolved -/
  half : Bool := false
  /-- successive ticks of phase lock in PULL_IN, of C/N0 below CN0_LOSS in TRACK, of C/N0 above it in COAST (R249) -/
  run : Nat := 0
  /-- the seven correlators' last outputs (R248) -/
  iq : List (Int × Int) := []
  /-- code NCO: the transmission time it shows at the last boundary, ns since 6 January 1980, and its rate correction in
  chips per s -/
  codeT : Rat := 0
  codeRate : Rat := 0
  /-- carrier NCO: its phase at the last boundary in cycles, less the nominal carrier -/
  phase : Rat := 0
  /-- PLL and FLL: their rate, and their integrators for rate and acceleration, Hz and Hz per tick (R250) -/
  loop : Rat := 0
  rate : Rat := 0
  accel : Rat := 0
  /-- the line-of-sight rate that aids: to the steering phase of the running tick, from it on, and its change to the end
  of the tick, Hz (R251) -/
  aidWas : Rat := 0
  aidNow : Rat := 0
  aidSlope : Rat := 0
deriving DecidableEq, Repr

/-- An antenna port (R246). -/
structure GnbAnt where
  /-- state 0 OFF, 1 OK, 2 OPEN, 3 SHORT -/
  st : Nat := 0
  mA : Nat := 0
  /-- tick of the last turn-off by the limit -/
  shortT : Nat := 0
  /-- the bias is on at the port -/
  bias : Bool := false
deriving DecidableEq, Repr

/-- Block states of GNB (R268). -/
inductive GnbState where
  | empty | loaded | run
deriving DecidableEq, Repr

/-- GNB_STATUS.STATE. -/
def GnbState.code : GnbState → Nat
  | .empty => 0 | .loaded => 1 | .run => 2

/-- States of the time mapping (R261). -/
inductive TmapState where
  | none' | locked | holdover | slew
deriving DecidableEq, Repr

/-- GNB_TMAP_STAT.STATE. -/
def TmapState.code : TmapState → Nat
  | .none' => 0 | .locked => 1 | .holdover => 2 | .slew => 3

/-- A step of the mapping to come (R263). -/
structure TmapStep where
  /-- the returning solution's instant and true GPS time there in ns -/
  at' : Nat
  trueNs : Nat
  /-- Δ, ns, and the time uncertainty -/
  delta : Int
  unc : Nat
  /-- the mapping stays held after the step -/
  hold : Bool := false
deriving DecidableEq, Repr

/-- The mapping from GTS to GPS time (R260 to R263). -/
structure Tmap where
  st : TmapState := .none'
  /-- a GTS, and the GPS time there in ns since 6 January 1980 -/
  g0 : Nat := 0
  t0 : Rat := 0
  /-- G0 and the GPS time it is assigned, as the registers hold them since the last PPS edge -/
  pubG : Nat := 0
  pubT : Nat := 0
  /-- and RATE, UNC and RESID -/
  pubRate : Int := 0
  pubUnc : Nat := 0xFFFF_FFFF
  pubResid : Int := 0
  /-- ρ, 10^-12 -/
  rate : Int := 0
  /-- UNC at `uncAt`, without RESID: the solution's time uncertainty, or what it grows from -/
  unc : Nat := 0xFFFF_FFFF
  uncAt : Nat := 0
  /-- RESID at `resAt`, ns -/
  resid : Int := 0
  resAt : Nat := 0
  /-- correction that a LOCKED mapping takes at its next PPS, ns -/
  steer : Int := 0
  /-- last rising edge of PPS -/
  edge : Option Nat := none
  /-- PPS_CNT, 16 bits -/
  count : Nat := 0
  /-- a step to come -/
  step : Option TmapStep := none
  /-- the mapping of the lead in use on a second (SOURCE) -/
  lead : Option LeadMap := none
deriving DecidableEq, Repr

/-- The newest solution (R256, R257). -/
structure GnbSol where
  type : Nat := 0
  heading : Bool := false
  /-- tick of the last solution of type SPS to RTK_FIXED -/
  goodT : Option Nat := none
  baseline : Nat := 0
  /-- its velocity east, north, up, mm/s, and the way the machine faces, east and north of unit length (R251) -/
  vel : Int × Int × Int := (0, 0, 0)
  face : Rat × Rat := (0, 1)
deriving DecidableEq, Repr

/-- A burst or snapshot that Bivouac has under way (R266, R267). -/
inductive BivPhase where
  | idle | burst | snapshot
deriving DecidableEq, Repr

/-- A snapshot in the snapshot area (R267). -/
structure Snap where
  serial : Nat
  pcc : Nat
  bytes : List Byte
deriving DecidableEq, Repr

/-- The prediction store (R266): what Descent entry writes from the last Run solution. -/
structure Predict where
  /-- GPS time in ns -/
  time : Nat
  lat : Word
  lon : Word
  hgt : Word
  /-- satellites with ephemeris: system, satellite; and the ephemeris, as `Gnb.parts` -/
  ephem : List (Nat × Nat)
  parts : Tab (List Byte)
deriving DecidableEq, Repr

/-- A signal that a burst looks for, with the code phase and Doppler it starts from (R266). -/
structure BurstStart where
  sig : Nat
  sv : Nat
  code : Int
  dop : Int
deriving DecidableEq, Repr

/-- The part of GNB in PD1 and flash: prediction store and Bivouac (R266, R267). -/
structure GnbBiv where
  /-- the prediction store; DESIGN CHOICE none (log 2) -/
  predict : Option Predict := none
  /-- BIV_RADIUS and BIV_PERIOD as the prediction store keeps them; DESIGN CHOICE 0 (log 2) -/
  radius : Nat := 0
  period : Nat := 0
  phase : BivPhase := .idle
  /-- what the burst in progress starts from -/
  starts : List BurstStart := []
  /-- seconds to the next burst -/
  wait : Nat := 0
  /-- failed bursts in a row, fixes beyond the radius in a row -/
  failed : Nat := 0
  far : Nat := 0
  /-- GNB_BIV_STAT: bursts and snapshots since the last Run, 16 bits each, saturating -/
  bursts : Nat := 0
  snaps : Nat := 0
  /-- next snapshot SERIAL, 32 bits; DESIGN CHOICE 0 (log 3) -/
  serial : Nat := 0
  /-- the snapshot area, oldest first, at most 128; DESIGN CHOICE empty (log 3) -/
  area : List Snap := []
deriving DecidableEq, Repr

/-- GNB (09), the part in PD7. -/
structure Gnb where
  /-- GNB_CTL.EN -/
  en : Bool := false
  state : GnbState := .empty
  /-- GNB_ERR_LAST -/
  errLast : Word := 0
  /-- CFG_LOAD, 32 words -/
  cfg : List Word := []
  /-- ticks of a start and a stop to come -/
  startT : Option Nat := none
  stopT : Option Nat := none
  /-- GNB_ANT_CTL bits of ANT1 and ANT2 and the ports -/
  antCtl : Word := 0
  ant1 : GnbAnt := {}
  ant2 : GnbAnt := {}
  /-- the 256 channels -/
  ch : Tab GnbCh := []
  /-- tick of the last re-examination -/
  examT : Option Nat := none
  /-- GNB_CORR_SPACING that differ from 0x2010_F006, and as in effect -/
  spacing : Tab Word := []
  spacingNow : Tab Word := []
  /-- BAND_LEVEL, and a change to come -/
  band : Nat := 0
  bandNext : Option Nat := none
  /-- aiding state 0 to 3 (R251) -/
  aid : Nat := 0
  sol : GnbSol := {}
  /-- tick of the last measurement instant -/
  measT : Option Nat := none
  /-- GNB_SOL_SKIP, GNB_NAV_FAIL: RCL, saturating -/
  solSkip : Nat := 0
  navFail : Nat := 0
  /-- epoch of the newest MSM set in use as a GTS, and whether corrections are in use (R259) -/
  corrAt : Option Nat := none
  corrUse : Bool := false
  /-- GNB_CORR_CNT: accepted, rejected; RCL, 16 bits each, saturating -/
  corrOk : Nat := 0
  corrBad : Nat := 0
  /-- last frame of each RTCM message in use, by number -/
  corr : Tab (List Byte) := []
  /-- assistance records by kind, signal and satellite: content (R270) -/
  assist : Tab (List Byte) := []
  /-- satellites whose ephemeris is whole: system, satellite; and its parts, by system, satellite and part -/
  ephem : List (Nat × Nat) := []
  parts : Tab (List Byte) := []
  /-- the velocity of the IMU propagated from the last solution, east, north and up, mm/s (R251) -/
  imuVel : Rat × Rat × Rat := (0, 0, 0)
  /-- leap seconds decoded (R301) -/
  leap : Option Nat := none
  /-- navigation records dropped in the running interval -/
  navDrop : Nat := 0
  /-- STEP since the previous block -/
  stepped : Bool := false
  tmap : Tmap := {}
  /-- GNB_CH_SEL -/
  chSel : Nat := 0
deriving DecidableEq, Repr

/-- States of the yield service (R302). -/
inductive YldState where
  | empty | loaded | run
deriving DecidableEq, Repr

/-- The state in YLD_STATUS: in the order of R302. -/
def YldState.code : YldState → Nat
  | .empty => 0 | .loaded => 1 | .run => 2

/-- What the running step has sensed (R290, R291). -/
structure YldAcc where
  /-- sum of F_T, g/s; F of the last tick -/
  f : Rat := 0
  last : Rat := 0
  /-- sum of flow times moisture, and of the flow that carries moisture -/
  moist : Rat := 0
  moistF : Rat := 0
  slow : Bool := false
  hdrUp : Bool := false
deriving DecidableEq, Repr

/-- A step as the sensors of this module show it. -/
structure YldSensed where
  q : Rat
  moist : Option Rat
  slow : Bool
  cut : YldStep
deriving DecidableEq, Repr

/-- The yield service (11), in PD2. -/
structure Yld where
  state : YldState := .empty
  /-- YLD_CFG, 32 words -/
  cfg : List Word := []
  /-- ticks of a start and a stop to come -/
  startT : Option Nat := none
  stopT : Option Nat := none
  /-- first step since YLD_START, next step to divide, next second to record -/
  startStep : Nat := 0
  nextStep : Nat := 0
  nextSec : Nat := 0
  /-- the cut history by step, at most 10,240 steps -/
  hist : Tab YldStep := []
  /-- sensed masses by step, g, the last 6,000 -/
  qs : Tab Rat := []
  /-- marks of open seconds -/
  secs : Tab YldSec := []
  /-- D; ρ_pk of the last estimate; it was below 0.5; an estimate is due -/
  delay : Nat := 0
  rho : Option Rat := none
  held : Bool := false
  estDue : Bool := false
  acc : YldAcc := {}
  /-- tick and mass of the last step divided -/
  lastQ : Option (Nat × Rat) := none
  /-- tick of the last sensing -/
  sensedT : Option Nat := none
  /-- SENSED, ATTRIB, UNATTRIB, TANK, g -/
  sensed : Rat := 0
  attrib : Rat := 0
  unattrib : Rat := 0
  tank : Rat := 0
  /-- SEQ of the next record, 32 bits -/
  seq : Nat := 0
  /-- g unattributed in the running second, if any -/
  unattSec : Option Rat := none
  /-- records of tasks not yet in flash: task and record -/
  pend : List (Nat × List Byte) := []
  /-- the newest replica (R303), and the steps sensed here, on a second -/
  replica : Option YldReplica := none
  own : Tab YldSensed := []
deriving DecidableEq, Repr

/-- A task in the yield area (R300). -/
structure YldTask where
  id : Nat
  recs : List (List Byte) := []
deriving DecidableEq, Repr

/-- The yield area of flash (R300). -/
structure YldArea where
  /-- oldest first; DESIGN CHOICE empty (log 3) -/
  tasks : List YldTask := []
  /-- the open task; DESIGN CHOICE none (log 3) -/
  openTask : Option Nat := none
deriving DecidableEq, Repr

/-- States of PNL (R340). -/
inductive PnlState where
  | empty | loaded | run | fault
deriving DecidableEq, Repr

/-- PNL_STATUS.STATE. -/
def PnlState.code : PnlState → Nat
  | .empty => 0 | .loaded => 1 | .run => 2 | .fault => 3

/-- PNL (13), in PD12. -/
structure Pnl where
  /-- PNL_CTL: EN, PAGE, FB_TMO -/
  en : Bool := false
  page : Bool := false
  fbTmo : Nat := 0
  state : PnlState := .empty
  /-- PNL_ERR_LAST -/
  errLast : Word := 0
  /-- PNL_TEMP: 0.1 degree, and FAIL -/
  temp : Int := 0
  fail : Bool := false
  /-- PNL_VLCD: µA and mV -/
  vlcd : Nat × Nat := (0, 0)
  /-- PNL_BAND0 to 7 -/
  bands : Tab Word := []
  /-- CFG_LOAD, 32 words -/
  cfg : List Word := []
  /-- first frame tick of the run to come; none once it has started -/
  first : Option Nat := none
  /-- a stop waits for the end of the inversion pair -/
  stopping : Bool := false
  /-- tick of the last frame start -/
  frameT : Option Nat := none
  /-- the frame is positive -/
  pos : Bool := false
  /-- band applied; band pending and the tick of its latch -/
  band : Nat := 0
  pend : Option (Nat × Nat) := none
  /-- page shown, fallback in force -/
  shown : Bool := false
  fallback : Bool := false
  /-- tick in which the fallback timer expired -/
  expired : Option Nat := none
  /-- tick of the last kick or accepted REGION_WRITE -/
  kickT : Nat := 0
  /-- frame store: bytes by 16,384 × page + dot -/
  store : Tab Byte := []
  /-- shadows of running updates by 2 × region + page -/
  shadow : Tab (List Byte) := []
  /-- a status line that waits (R337) -/
  statWait : Option (List Byte) := none
  /-- successive tick boundaries at which VLCD was in current limit (R340) -/
  limitTicks : Nat := 0
  /-- VLCD driven in the frame, mV; 0 off -/
  volt : Nat := 0
  /-- levels shown in the frame -/
  picture : List Nat := []
  /-- drive of each dot in the frame (R329, R333, R338): LCD, mV with its sign; OLED, 1/983,040 µA -/
  glass : List Int := []
  /-- drive of each stress region in the frame, 1/65,536 -/
  drive : List Nat := []
  /-- stress counters 0 to 63 (R338), the levels summed and the frames of the minute, tick of the last minute -/
  stress : Tab Nat := []
  levels : Tab Nat := []
  frames : Nat := 0
  minuteT : Nat := 0
deriving DecidableEq, Repr

/-- Team roles (R375). -/
inductive Role where
  | lone | lead | second
deriving DecidableEq, Repr

/-- The role codes of REC word 6 and RTL_STATUS. -/
def Role.code : Role → Nat
  | .lone => 0 | .lead => 1 | .second => 2

/-- Team states (R379). -/
inductive TeamState where
  | off | seeking | second | lead | split | alone
deriving DecidableEq, Repr

/-- RTL_STATUS.STATE. -/
def TeamState.code : TeamState → Nat
  | .off => 0 | .seeking => 1 | .second => 2 | .lead => 3 | .split => 4 | .alone => 5

/-- What a tick has brought from the twin (R379 to R382). -/
structure TeamFacts where
  /-- a valid tick frame, a valid heartbeat -/
  frame : Bool := false
  beat : Bool := false
  /-- the twin's witness of the tick, and the controllers that received it -/
  wit : Option Witness := none
  ctrls : List Nat := []
deriving DecidableEq, Repr

/-- A checkpoint handed to the twin link (R392). -/
structure Ckpt where
  tag : Nat
  tick : Nat
  gts : Nat
  payload : List Byte
deriving DecidableEq, Repr

/-- RTL (15): registers in PD11, team logic in PD1. -/
structure Rtl where
  /-- RTL_STATUS.ROLE -/
  role : Role := .lone
  /-- RTL_STATUS.STATE -/
  state : TeamState := .off
  /-- RTL_CTL: EN, WING_EN -/
  en : Bool := false
  wingEn : Bool := false
  /-- RTL_STATUS.ERR -/
  err : Nat := 0
  /-- RTL_WIT -/
  wit : Word := 0
  /-- RTL_THETA, RTL_DELAY, 1/64 count -/
  theta : Int := 0
  delay : Int := 0
  /-- RTL_TK -/
  tk : Nat := 0
  /-- the hand-over pending (RTL_HO_T), confirmed, and committed -/
  hoT : Option Nat := none
  confirmed : Bool := false
  commit : Bool := false
  /-- RTL_PEER_BASE -/
  peerBase : BitVec 64 := 0
  /-- RTL_MISS: pairs A and B, 16 bits each, RCL, saturating -/
  missA : Nat := 0
  missB : Nat := 0
  /-- pairs A, B and wing up (R372) -/
  upA : Bool := false
  upB : Bool := false
  upWing : Bool := false
  /-- RTL_STATUS.TWIN_UP and ALIGNED -/
  twinUp : Bool := false
  aligned : Bool := false
  /-- the start beacon is sent every 1 ms of the TCXO: no time base yet, from step 1 of Run entry (R374) -/
  beacon : Bool := true
  /-- tick of the last wing word of a pair lead of higher rank (R389) -/
  wingT : Option Nat := none
  /-- stamp b of the last wing word of a pair lead of lower rank, and its tick (R389) -/
  wingB : Option (Nat × Nat) := none
  /-- last word sent on the wing pair: the GTS of its first edge, the word, and the stamp b returned with it (R389) -/
  wingOut : Option (Nat × BitVec 128 × Option (Nat × Nat)) := none
  /-- last valid word of the twin, and the last four ticks that brought one -/
  twin : Option TickWord := none
  wordT : List Nat := []
  /-- stamps a of the lead's words by tick; on a lead the stamp b of the second's word and its tick (R377) -/
  stampA : Tab Nat := []
  stampB : Option (Nat × Nat) := none
  /-- θ was measured in this tick -/
  measured : Bool := false
  /-- successive ticks with θ within bounds, out of bounds, and not measured -/
  inBound : Nat := 0
  outBound : Nat := 0
  unmeasured : Nat := 0
  /-- what this tick has brought, and the tick just ended -/
  cur : TeamFacts := {}
  last : TeamFacts := {}
  /-- tick of the newest replica -/
  replT : Option Nat := none
  /-- tick whose phase 1 grants DRIVE -/
  grantT : Option Nat := none
  /-- tick from which both modules ALONE have had a link -/
  dualT : Option Nat := none
  /-- tick of the last witness assembly -/
  witT : Option Nat := none
  /-- tick of the last change of state -/
  since : Nat := 0
  /-- the module has left the team in Descent (R386) -/
  left : Bool := false
  /-- last tick frame and heartbeat received -/
  frameIn : Option TickFrame := none
  beatIn : Option Heartbeat := none
  /-- last tick frame, heartbeat, tick-line word with the GTS of its first edge, and checkpoint sent -/
  frameOut : Option TickFrame := none
  beatOut : Option Heartbeat := none
  wordOut : Option (Nat × BitVec 128) := none
  ckptOut : Option Ckpt := none
deriving DecidableEq, Repr

/-- Update states (R411). -/
inductive UpdState where
  | idle | staging | staged | scheduled | waiting | activating | trial | reverting
deriving DecidableEq, Repr

/-- UPD_STATUS.STATE. -/
def UpdState.code : UpdState → Nat
  | .idle => 0 | .staging => 1 | .staged => 2 | .scheduled => 3 | .waiting => 4 | .activating => 5
  | .trial => 6 | .reverting => 7

/-- The boot record in flash (R396). -/
structure Boot where
  /-- the live letter: B; DESIGN CHOICE A (log 47) -/
  liveB : Bool := false
  /-- the other set is bootable; DESIGN CHOICE not (log 47) -/
  otherOk : Bool := false
  /-- UPD_STATUS.STATE; DESIGN CHOICE IDLE (log 47) -/
  state : UpdState := .idle
  /-- package IDs and configuration schemas of the live and the other set; DESIGN CHOICE 0 (log 47) -/
  pkgLive : Nat := 0
  pkgOther : Nat := 0
  schemaLive : Nat := 0
  schemaOther : Nat := 0
  /-- the images of the live and the other set by part kind (R395); DESIGN CHOICE none listed (log 47) -/
  partsLive : Tab (List Byte) := []
  partsOther : Tab (List Byte) := []
  /-- the trial deadline as a GTS (UPD_DEADLINE) -/
  deadline : Nat := 0
  /-- UPD_LAST: cause and tick of the last reversion; DESIGN CHOICE 0 (log 47) -/
  lastCause : Nat := 0
  lastT : Nat := 0
  /-- the sequence of R406 is in force, and its step -/
  team : Bool := false
  step : Nat := 0
  /-- the instant, GPS time in ns -/
  instant : Nat := 0
  /-- this module's live letter has gone to the new set in the running sequence -/
  moved : Bool := false
  /-- the next start is an activation start (R404) -/
  act : Bool := false
  /-- the next start ends the reversion (R409) -/
  final : Bool := false
deriving DecidableEq, Repr

/-- UPD (16), in PD2. -/
structure Upd where
  /-- UPD_CTL.QUIET_MIN -/
  quietMin : Nat := 0x7D0
  /-- UPD_QUIET -/
  quiet : BitVec 64 := 0
  /-- UPD_WHEN -/
  when' : Nat := 0
  /-- ticks in which every named channel has read OFF -/
  quietRun : Nat := 0
  /-- the images running are those of set B -/
  runB : Bool := false
  /-- CFG_DONE, TWIN_DONE -/
  done : Bool := false
  twinDone : Bool := false
  /-- the twin still runs images that the sequence leaves -/
  twinOld : Bool := false
  /-- a ring completion with SCHEMA in an unconfigured trial; REJECT written -/
  schemaSeen : Bool := false
  reject : Bool := false
  /-- the deadline has passed (TRIAL_DEADLINE) -/
  late : Bool := false
  /-- tick of the boundary after which an accepted COMMIT is announced, and T_c -/
  commitT : Option Nat := none
  /-- cause judged, and T_r -/
  judged : Option (Nat × Nat) := none
  /-- the cause that a second reports in its heartbeat -/
  report : Nat := 0
  /-- the cause whose restart is to come (R409) -/
  restart : Option Nat := none
  /-- this Descent carries out the activation (R403) -/
  byDescent : Bool := false
deriving DecidableEq, Repr

/-- Result codes of a pitch (R422). -/
inductive PitchResult where
  | notRun | pass | fail | incomplete
deriving DecidableEq, Repr

/-- R422 code. -/
def PitchResult.code : PitchResult → Nat
  | .notRun => 0 | .pass => 1 | .fail => 2 | .incomplete => 3

/-- A pitch's entry in the PD0 record (R423). -/
structure PitchEntry where
  result : PitchResult := .notRun
  running : Bool := false
  ticks : Nat := 0
  seconds : Nat := 0
deriving DecidableEq, Repr

/-- DSC (17). -/
structure Dsc where
  /-- DSC_CTL.EN_MASK -/
  mask : Word := 0xFFF
  /-- the PD0 record: entries by pitch, power-cycle count, KEY_FAIL; DESIGN CHOICE empty (log 48) -/
  entries : Tab PitchEntry := []
  pcc : Nat := 0
  keyFail : Bool := false
  /-- the PD0 seconds count (R423); DESIGN CHOICE 0 (log 48) -/
  seconds : Nat := 0
  /-- EN_MASK as read at T_d, and T_d -/
  maskD : Word := 0
  td : Nat := 0
  /-- tick at which step 5 began -/
  step5 : Option Nat := none
  /-- the key store has been zeroised and verified -/
  keysClear : Bool := false
  /-- next pitch to consider, the pitch that runs with its start tick, tick from which the next may start -/
  next : Nat := 0
  runs : Option (Nat × Nat) := none
  freeT : Nat := 0
  /-- the domain the running pitch isolates was on -/
  wasOn : Bool := false
  /-- DSC_STATUS, DSC_AGE, DSC_PCC, DSC_RESULT0 to 11 and DSC_FAIL as loaded at Run entry -/
  status : Word := 0
  age : Nat := 0
  pccLoaded : Nat := 0
  results : Tab Word := []
  fail : Word := 0
deriving DecidableEq, Repr

/-- A host job (R362). -/
structure GovJob where
  cls : Nat
  /-- bank B; none: no bank cost -/
  bank : Option Bool
  cost : Nat
  feed : Nat
  /-- deferred by the ladder or at the declaration; deferred for its bank -/
  ladder : Bool := false
  bankDef : Bool := false
  /-- successive ticks in which its bank has had room -/
  room : Nat := 0
  /-- tick of its deferral for its bank while admitted (R367) -/
  bankT : Option Nat := none
deriving DecidableEq, Repr

/-- A deferred item of the ladder (R360). -/
inductive Ladder where
  | job (j : Nat)
  | stream (i : Nat)
  | precision
  | camera (f : Nat)
  | band (l : Nat)
deriving DecidableEq, Repr

/-- The energy governor in Run (R358 to R362). -/
structure Gov where
  jobs : Tab GovJob := []
  /-- items deferred, the last first, with their declared savings in 0.1 W -/
  ladder : List (Ladder × Rat) := []
  /-- a decision that takes effect at the next boundary -/
  pending : Option (Bool × Ladder) := none
  /-- qualifying periods in a row, periods with nothing left to defer -/
  qual : Nat := 0
  spent : Nat := 0
  /-- highest temperature of the running period, 0.1 degree; power summed and ticks of it -/
  temp : Option Int := none
  sum : Nat := 0
  ticks : Nat := 0
  /-- the last period: end tick, P_allow and P_meas in 0.1 W, housing, plate -/
  endT : Nat := 0
  pAllow : Rat := 0
  pMeas : Rat := 0
  house : Int := 0
  plate : Int := 0
  /-- successive ticks of each bank over its budget -/
  overA : Nat := 0
  overB : Nat := 0
  /-- the 256 bytes of GOV_READ as taken at the period end -/
  snap : List Byte := []
deriving DecidableEq, Repr

/-- How a Bivouac ended (R369). -/
inductive BivEnd where
  | none' | wake | spent | brownout
deriving DecidableEq, Repr

/-- Byte 204 of GOV_READ. -/
def BivEnd.code : BivEnd → Nat
  | .none' => 0 | .wake => 1 | .spent => 2 | .brownout => 3

/-- The books of Bivouac (R363), in PD1. -/
structure BivBooks where
  allow : Nat := 0
  /-- PWR_BIV_SPENT; DESIGN CHOICE 0 (log 2) -/
  spent : Nat := 0
  seconds : Nat := 0
  how : BivEnd := .none'
  /-- pace account A, rations -/
  account : Rat := 0
  /-- seconds since the last snapshot; none: none taken -/
  sinceSnap : Option Nat := none
  /-- seconds to the next beacon; one is due -/
  beacon : Nat := 0
  beaconDue : Bool := false
  /-- a movement has been seen (MOVED) -/
  moved : Bool := false
  /-- the allowance ran out while a burst or snapshot was in progress -/
  ending : Bool := false
  /-- the last beacon sent: port, the speed its PHY was trained at, and the frame without its check sequence (R365) -/
  frame : Option (Nat × Nat × List Byte) := none
deriving DecidableEq, Repr

/-- PWR (14), in PD1, with what the warden keeps in PD0. -/
structure Pwr where
  /-- PWR_CTL -/
  ctl : Word := 0x0000_000A
  /-- PWR_STATUS: WAKE, PD0_LOST, REV, GND_OPEN, OVERVOLT, DSTEP -/
  wake : Nat := 0
  pd0Lost : Bool := false
  rev : Bool := false
  gndOpen : Bool := false
  overvolt : Bool := false
  dstep : Nat := 0
  /-- PWR_PD_REQ, and the tick of its last change -/
  pdReq : Word := 0
  pdReqT : Nat := 0
  /-- PWR_WDOG -/
  wdog : Nat := 0x14
  /-- PWR_DESC -/
  desc : Nat := 0x1F4
  /-- PWR_BAT and PWR_TEMP -/
  batE : Nat := 0
  pMeas : Nat := 0
  house : Int := 0
  plate : Int := 0
  /-- PWR_BIV_ALLOW, PWR_BIV_CFG -/
  bivAllow : Nat := 0
  bivCfg : Word := 0x1801_3C01
  /-- PWR_BANK_BUDGET -/
  budget : Word := 0
  /-- PWR_GOV_CAM -/
  govCam : Word := 0x0000_FFFF
  gov : Gov := {}
  books : BivBooks := {}
  /-- arming in PD0 as copied at the end of the last Descent: PWR_CTL; DESIGN CHOICE WK0 alone (log 2) -/
  armed : Word := 0
  /-- WAKE value of the Run entry in progress where it is not a source's own (latched, watchdog) -/
  entryCause : Option Nat := none
  /-- a reverse supply has been seen since the last Run (PD0); DESIGN CHOICE false (log 2) -/
  revLatch : Bool := false
  /-- tick of the last heartbeat -/
  beatT : Nat := 0
  /-- FIXROPE_n active; it has read inactive since Run entry -/
  frope : Bool := false
  fropeArmed : Bool := false
  /-- HOLD was set by a CAN or movement wake and the host has not written PWR_CTL; tick of the time base start -/
  wakeHold : Bool := false
  holdT : Nat := 0
  /-- ticks in which the ignition and armed inputs have read inactive -/
  idleTicks : Nat := 0
  /-- speed of each J3 port in Run, kept from Descent entry on (R365) -/
  ports : List Nat := []
  /-- a Descent is to begin at the boundary of this tick -/
  descT : Option Nat := none
  /-- a wake has been latched during Descent -/
  latched : Bool := false
  /-- HOST_DONE written in step 4, or the grace expired, with the tick -/
  graceEnd : Option (Bool × Nat) := none
  /-- peak of an overvoltage, mV -/
  peak : Nat := 0
  /-- open ground contacts and offset -/
  ground : Nat := 0
deriving DecidableEq, Repr

/-- The state of the module. -/
structure State where
  /-- GTS, 64 bits (R21) -/
  gts : Nat := 0
  /-- operating mode (R345); SYS_STATUS.MODE and PWR_STATUS.MODE read Run at reset -/
  mode : Mode := .run
  /-- progress of the Run entry; SYS_PD_STATUS 0x3 at reset places it before step 2 (log 4) -/
  start : Start := .entry
  /-- SYS_PD_STATUS: bit n is 1 while PDn is on (R12) -/
  pd : Word := 3
  /-- the answers to the accesses of the last command -/
  resp : List (Nat × Resp) := []
  /-- high-word shadows by initiator and register address (R17) -/
  shadows : Tab Word := []
  /-- LPDDR5 host memory: bytes that are not 0, by address (R16) -/
  mem : List Host.Cell := []
  sys : Sys := {}
  tick : Tick := {}
  hri : Hri := {}
  fen : Fen := {}
  recorder : Rec := {}
  mbx : Mbx := {}
  bce : Bce := {}
  fin : FinBlk := {}
  lsw : Lsw := {}
  can : Can := {}
  lko : Lko := {}
  ipl : Ipl := {}
  gnb : Gnb := {}
  biv : GnbBiv := {}
  yld : Yld := {}
  yarea : YldArea := {}
  pnl : Pnl := {}
  /-- LH0 to LH7 levels, in PD1 (R144); reset inactive: DESIGN CHOICE (log 2) -/
  lh : Word := 0
  /-- WK0 to WK3 levels, in PD0 (R144); reset inactive: DESIGN CHOICE (log 2) -/
  wk : Word := 0
  /-- RTL_RANK.POS: the straps as read at step 1 of this Run entry (R374, R454); DESIGN CHOICE 0 (log 46) -/
  ropePos : Nat := 0
  rtl : Rtl := {}
  boot : Boot := {}
  upd : Upd := {}
  dsc : Dsc := {}
  pwr : Pwr := {}
  /-- level of DBG_EN on J2 (R454) -/
  dbgEn : Bool := false
  /-- commands waiting, first in, first out -/
  pending : List Instr := []
deriving DecidableEq, Repr

/-- The module right after reset. -/
def State.reset : State := {}

end Sys2Proof.Machine
end

