-- ==== Sys2Proof/Machine/Ops.lean ====
section
/-!
DEFINITION. The named operations every command shares: time, events on their way to the queue,
staging by the warden, host memory, the fences, the fabric's error responses, and buffer transfers.
-/

namespace Sys2Proof.Machine

/-! ### Time (R21, R26) -/

/-- GTS counts in a tick, a sub-tick slot and a phase (R26). -/
def tickLen : Nat := 400000
def slotLen : Nat := 40000
def phaseLen : Nat := 4000

/-- The full tick count T (R26). -/
def State.t (s : State) : Nat := s.gts / tickLen

/-- The GTS of the boundary of tick `t`. -/
def boundaryOf (t : Nat) : Nat := t * tickLen

/-- Time passes up to `g`: GTS counts only while the time base runs, and never goes back (R21, R22). -/
def State.advance (s : State) (g : Nat) : State :=
  if s.tick.running then { s with gts := max s.gts g } else s

/-- Something that falls due at `g` comes about: now where `g` has passed, at `g` where that lies in the
present tick; else not yet. -/
def State.reach (s : State) (g : Nat) (k : State → State) : State :=
  if g < boundaryOf (s.t + 1) then k (s.advance g) else s

/-- `g` lies in the present tick and has not passed. -/
def State.within (s : State) (g : Nat) : Bool := decide (s.gts ≤ g) && decide (g < boundaryOf (s.t + 1))

/-- Tick work `w` of the present tick does not end within it: it commits nothing (R28). Which works these are is known
from the tick's begin on (DEDUCED, log 18). -/
def State.overruns (s : State) (w : TickWork) : Bool := s.tick.late.contains w

/-- The start of the first phase at or after `g`. -/
def phaseCeil (g : Nat) : Nat := (g + phaseLen - 1) / phaseLen * phaseLen

/-- PDn counts as on (R12). -/
def State.pdOn (s : State) (n : Nat) : Bool := bitOf s.pd n

/-- Domain `n` switched on or off. -/
def State.setPd (s : State) (n : Nat) (on : Bool) : State :=
  { s with pd := if on then s.pd ||| wordOf (2 ^ n) else s.pd &&& ~~~ wordOf (2 ^ n) }

/-! ### Words with some bits replaced -/

/-- `old` with the bits of `mask` taken from `v`: a write to a register whose other bits are not
writable (R8). -/
def maskWrite (mask old v : Word) : Word := (v &&& mask) ||| (old &&& ~~~ mask)

/-- `w` with bit `i` set to `b`. -/
def setBit (w : Word) (i : Nat) (b : Bool) : Word :=
  if b then w ||| wordOf (2 ^ i) else w &&& ~~~ wordOf (2 ^ i)

/-- The low half of a 64-bit register. -/
def lo32 (v : BitVec 64) : Word := v.setWidth 32

/-- The high half of a 64-bit register. -/
def hi32 (v : BitVec 64) : Word := (v >>> 32).setWidth 32

/-- A 64-bit register with its low half replaced. -/
def setLo (v : BitVec 64) (w : Word) : BitVec 64 := hi32 v ++ w

/-- A 64-bit register with its high half replaced. -/
def setHi (v : BitVec 64) (w : Word) : BitVec 64 := w ++ lo32 v

/-- A 64-bit register with the half at byte offset `h` (0 or 4) replaced. -/
def setHalf (v : BitVec 64) (h : Nat) (w : Word) : BitVec 64 := if h = 0 then setLo v w else setHi v w

/-- The half at byte offset `h` (0 or 4). -/
def half (v : BitVec 64) (h : Nat) : Word := if h = 0 then lo32 v else hi32 v

/-- A count as a 64-bit word. -/
def word64 (n : Nat) : BitVec 64 := BitVec.ofNat 64 n

/-! ### CRC-32 (IEEE 802.3), used by records, contexts and packages -/

/-- One bit of the reflected CRC-32. -/
def crcBit (c : Word) : Word :=
  if bitOf c 0 then (c >>> 1) ^^^ (0xEDB8_8320 : Word) else c >>> 1

/-- One byte of the CRC-32. -/
def crcByte (c : Word) (b : Byte) : Word :=
  crcBit (crcBit (crcBit (crcBit (crcBit (crcBit (crcBit (crcBit (c ^^^ b.setWidth 32))))))))

/-- CRC-32 of a byte string (R430, R104). -/
def crc32 (bs : List Byte) : Word := ~~~ (bs.foldl crcByte (0xFFFF_FFFF : Word))

/-- CRC-32 of words, each little-endian. -/
def crcWords (ws : List Word) : Word := crc32 (wordBytes ws)

/-! ### Events (R31 to R34) -/

/-- The order of one source's events at one GTS: the context number for the BCE's sources (R129); of any other source
they keep the order in which it raised them (R33). -/
def Ev.sub (e : Ev) : Nat := if 192 ≤ e.src ∧ e.src ≤ 199 then bitsOf e.data 30 24 else 0

/-- `a` comes before `b`: by GTS, then by source (R33), then by the order within the source. -/
def Ev.before (a b : Ev) : Bool :=
  a.gts < b.gts || (a.gts == b.gts && (a.src < b.src || (a.src == b.src && a.sub < b.sub)))

/-- An event placed in the order of R33, behind events of equal GTS and source. -/
def insertEv (e : Ev) : List Ev → List Ev
  | [] => [e]
  | x :: r => if e.before x then e :: x :: r else x :: insertEv e r

/-- The merger and the recorder run: Run or Descent with PD2 on (R435, R436). -/
def State.mergerOn (s : State) : Bool :=
  (s.mode = .run || s.mode = .descent) && s.pdOn 2

/-- A record without its CRC word (R430). -/
def recordBody (s : State) (gts src code : Nat) (data : Word) (ooo staged : Bool) : List Word :=
  [ wordOf ((code % 256) * 0x1_0000 + oneIf ooo * 0x8000 + oneIf staged * 0x4000 + src % 512),
    wordOf gts, wordOf s.recorder.hours, wordOf s.tick.pcc, data, wordOf (gts / 2 ^ 32),
    wordOf (s.mode.code * 2 ^ 29 + s.rtl.role.code * 2 ^ 27 + bitsOf s.pd 12 0) ]

/-- A record with its CRC (R430). -/
def mkRecord (s : State) (gts src code : Nat) (data : Word) (ooo staged : Bool) : List Word :=
  let b := recordBody s gts src code data ooo staged
  b ++ [crcWords b]

/-- A record staged by the warden: when the staging SRAM is full, the oldest behind the first 32 is
overwritten and counted (R436). -/
def stageRecord (s : State) (r : List Word) : State :=
  let q := s.recorder.staging
  if q.length < 256 then { s with recorder.staging := q ++ [r] }
  else { s with recorder.staging := q.take 32 ++ q.drop 33 ++ [r],
                recorder.overwritten := s.recorder.overwritten + 1 }

/-- The warden stages an event with STAGED = 1 and GTS 0 (R436). -/
def stageEvent (src code : Nat) (data : Word) (s : State) : State :=
  stageRecord s (mkRecord s 0 src code data false true)

/-- An event is raised: it goes to the merger in the order of R33, or where no merger runs the warden
stages it (R34, R436). -/
def raiseEv (e : Ev) (s : State) : State :=
  if s.mergerOn then { s with sys.merger := insertEv e s.sys.merger }
  else stageEvent e.src e.code e.data s

/-- An event whose cause lies at `g`. -/
def raiseAt (g src code data : Nat) (s : State) : State :=
  raiseEv { gts := g, src := src, code := code, data := wordOf data } s

/-- An event whose cause is now. -/
def raise (src code data : Nat) (s : State) : State := raiseAt s.gts src code data s

/-! ### Answers and shadows (R6, R17) -/

/-- The answer to an access of this initiator. -/
def State.reply (s : State) (a : Access) (r : Resp) : State := { s with resp := [(a.ini.id, r)] }

/-- A read is answered with a word. -/
def State.replyWord (s : State) (a : Access) (w : Word) : State :=
  s.reply a (.data (w.setWidth 64))

/-- The key of a shadow: initiator and register address. -/
def shadowKey (a : Access) (addr : Nat) : Nat := a.ini.id * 2 ^ 32 + addr % 2 ^ 32

/-- The high word latched for this initiator (R17). -/
def State.latch (s : State) (a : Access) (addr : Nat) (w : Word) : State :=
  { s with shadows := Tab.put s.shadows (shadowKey a addr) w }

/-! ### Who may act (R9, R466, R469) -/

/-- The power domain an initiator itself belongs to (R9). The load switches count as on with either
bank. -/
def iniAlive (i : Ini) (s : State) : Bool :=
  s.pdOn 2 &&
  match i with
  | .svc k => if k.val = 7 then s.pdOn 1 else s.pdOn 2
  | .host _ => s.pdOn 3
  | .bce | .lko | .upd | .dsc | .recorder | .fin | .hri => s.pdOn 2
  | .ipl | .enc => s.pdOn 5
  | .col => s.pdOn 6
  | .gnb => s.pdOn 7
  | .lsw => s.pdOn 8 || s.pdOn 9
  | .can => s.pdOn 10
  | .pnl => s.pdOn 12
  | .pwr => s.pdOn 1
  | .rtl => s.pdOn 11
  | .dbg => s.dbgEn

/-- The transaction is secure: service cores always, host cores at the secure-monitor level, engines
and the debug port never (R466). -/
def secureOf (a : Access) : Bool :=
  match a.ini with
  | .svc _ => true
  | .host _ => a.sec
  | _ => false

/-- The base address of a setup window (R15). -/
def windowBase (blk : Nat) : Nat := 0x0800_0000 + blk * 0x1_0000

/-- The blocks of PD2 that a pitch isolates from the fabric (R416, R421); a pitch on other domains isolates those. -/
def pitchBlocks (p : Nat) : List Nat :=
  match p with
  | 0 => [2, 3]
  | 3 => [4]
  | 7 => [7]
  | 11 => [17]
  | _ => []

/-- Block `blk` is isolated by the pitch that runs (R421). -/
def State.isolates (s : State) (blk : Nat) : Bool :=
  match s.dsc.runs with
  | some (p, _) => (pitchBlocks p).contains blk
  | none => false

/-- An access to a register of block `blk` in domain `dom`: no transaction from an initiator that is
off (R469), an error response and source 1 where the domain is off (R13) or a pitch isolates the block (R421; DEDUCED,
log 173), else the access. -/
def gate (a : Access) (blk dom : Nat) (s : State) (k : State → State) : State :=
  if !iniAlive a.ini s then { s with resp := [] }
  else if !s.pdOn dom || s.isolates blk then
    (raise 1 dom (a.ini.id * 256 + blk) s).reply a .error
  else k s

/-- A write through the gate: answered normally (R6). -/
def gateWrite (a : Access) (blk dom : Nat) (s : State) (k : State → State) : State :=
  gate a blk dom s fun s => k (s.reply a .ok)

/-! ### Host memory -/

/-- The LPDDR5 range (R16). -/
def memBase : Nat := 0x1_0000_0000
def memLast : Nat := 0x4_FFFF_FFFF

/-- The byte at an address; a byte that nothing has written reads 0 (DESIGN CHOICE, log 5). -/
def Memory.get : List Host.Cell → Nat → Byte
  | [], _ => 0
  | (b, v) :: r, a => if a = b then v else Memory.get r a

/-- A byte written, in the canonical form: rising addresses, no entry 0. -/
def Memory.set : List Host.Cell → Nat → Byte → List Host.Cell
  | [], a, v => if v = 0 then [] else [(a, v)]
  | (b, w) :: r, a, v =>
    if a = b then (if v = 0 then r else (a, v) :: r)
    else if a < b then (if v = 0 then (b, w) :: r else (a, v) :: (b, w) :: r)
    else (b, w) :: Memory.set r a v

/-- Every address listed lies above `a`. -/
def Memory.above (a : Nat) : List Host.Cell → Bool
  | [] => true
  | (b, _) :: r => a < b && Memory.above a r

/-- The canonical form of memory. -/
def Memory.wf : List Host.Cell → Bool
  | [] => true
  | (b, v) :: r => v != 0 && Memory.above b r && Memory.wf r

/-- Bytes written from an address on. -/
def Memory.setMany (m : List Host.Cell) : Nat → List Byte → List Host.Cell
  | _, [] => m
  | a, b :: r => Memory.setMany (Memory.set m a b) (a + 1) r

/-- Host memory replaced. -/
def State.setMem (s : State) (m : List Host.Cell) : State := { s with mem := m }

/-- `n` bytes from an address on. -/
def Memory.getMany (m : List Host.Cell) : Nat → Nat → List Byte
  | _, 0 => []
  | a, n + 1 => Memory.get m a :: Memory.getMany m (a + 1) n

/-! ### Fences (R63 to R65) and the fabric's checks -/

/-- A fence allows a transaction (R63). -/
def Fence.allows (f : Fence) (ini : Nat) (sec write : Bool) (addr len : Nat) : Bool :=
  f.en && decide (f.base ≤ addr) && decide (addr + len ≤ f.limit + 1) && f.init.getLsbD ini &&
    (if write then f.w else f.r) && (!f.sec || sec)

/-- At least one enabled fence allows it (R63). -/
def State.fenced (s : State) (ini : Nat) (sec write : Bool) (addr len : Nat) : Bool :=
  s.fen.live.any fun e => e.2.allows ini sec write addr len

/-- How a transaction to host memory ends. -/
inductive Bus where
  | ok | refused | off | unmapped
deriving DecidableEq, Repr

/-- The address range lies in host memory (R16). -/
def inHostMem (addr len : Nat) : Bool := decide (memBase ≤ addr) && decide (addr + len ≤ memLast + 1)

/-- A refused transaction is captured and counted (R64). -/
def refuse (ini : Nat) (sec write : Bool) (addr : Nat) (s : State) : State :=
  { s with
    fen.violAddr := addr
    fen.violInfo := wordOf (ini * 256 + oneIf sec * 2 + oneIf write)
    fen.violCnt := satTo (s.fen.violCnt + 1) max32 }

/-- The event of a transaction that did not reach memory (`kind`: 1 core or engine, 2 ring buffer
transfer, 3 ring fetch or write, 4 event-queue write): sources 488 and 489 (R70), 2 (R16), 1 (R13). -/
def busEvent (b : Bus) (kind ini : Nat) (sec write : Bool) (addr : Nat) : Option (Nat × Nat × Nat) :=
  match b with
  | .ok => none
  | .refused => some (if write then 489 else 488, kind,
      ini * 2 ^ 24 + oneIf sec * 2 ^ 23 + addr / 4096 % 2 ^ 23)
  | .unmapped => some (2, if write then 2 else 1, ini)
  | .off => some (1, 4, ini * 256 + 0xFF)

/-- The fabric's verdict on a transaction: the address map, then the fences, then PD4 (R13, R16). -/
def State.busVerdict (s : State) (ini : Nat) (sec write : Bool) (addr len : Nat) : Bus :=
  if !inHostMem addr len then .unmapped
  else if !s.fenced ini sec write addr len then .refused
  else if !s.pdOn 4 then .off
  else .ok

/-- The verdict with its effects: the capture of a refusal and the event. With `quiet` no event is
raised (R20). -/
def busCheck (kind ini : Nat) (sec write quiet : Bool) (addr len : Nat) (s : State) : State × Bus :=
  let b := s.busVerdict ini sec write addr len
  let s := if b = .refused then refuse ini sec write addr s else s
  match busEvent b kind ini sec write addr with
  | none => (s, b)
  | some (src, code, data) =>
    (if quiet then s
     else raiseEv { gts := s.gts, src := src, code := code, data := wordOf data, fromEvq := kind == 4 } s,
     b)

/-- One read transaction. -/
def busRead (kind ini : Nat) (sec : Bool) (addr len : Nat) (s : State) : State × Bus × List Byte :=
  let (s, b) := busCheck kind ini sec false false addr len s
  (s, b, if b = .ok then Memory.getMany s.mem addr len else [])

/-- One write transaction. -/
def busWrite (kind ini : Nat) (sec quiet : Bool) (addr : Nat) (bs : List Byte) (s : State) :
    State × Bus :=
  let (s, b) := busCheck kind ini sec true quiet addr bs.length s
  (if b = .ok then s.setMem (Memory.setMany s.mem addr bs) else s, b)

/-! ### Buffer transfers in 64-byte blocks (R465) -/

/-- The pieces of a transfer: each the part of the buffer in one 64-byte block. The fuel is the
length: every piece moves at least one byte. -/
def pieces : Nat → Nat → Nat → List (Nat × Nat)
  | 0, _, _ => []
  | fuel + 1, addr, len =>
    if len = 0 then []
    else
      let n := min len (64 - addr % 64)
      (addr, n) :: pieces fuel (addr + n) (len - n)

/-- The status a transfer ends with where a transaction did not go through (R13, R16, R65). -/
def busStatus : Bus → Nat
  | .ok => 0x00
  | .refused => 0x02
  | .unmapped => 0x02
  | .off => 0x08

/-- What a transfer came to: bytes moved, the status (0: whole), the bytes read. -/
structure Xfer where
  moved : Nat
  status : Nat
  bytes : List Byte
deriving DecidableEq, Repr

/-- The pieces read in order, ending at the first that does not go through. -/
def readPieces (kind ini : Nat) : List (Nat × Nat) → Xfer → State → State × Xfer
  | [], x, s => (s, x)
  | (a, n) :: r, x, s =>
    let (s, b, bs) := busRead kind ini false a n s
    if b = .ok then readPieces kind ini r { x with moved := x.moved + n, bytes := x.bytes ++ bs } s
    else (s, { x with status := busStatus b })

/-- The pieces written in order, ending at the first that does not go through. -/
def writePieces (kind ini : Nat) : List (Nat × Nat) → List Byte → Xfer → State → State × Xfer
  | [], _, x, s => (s, x)
  | (a, n) :: r, bs, x, s =>
    let (s, b) := busWrite kind ini false false a (bs.take n) s
    if b = .ok then writePieces kind ini r (bs.drop n) { x with moved := x.moved + n } s
    else (s, { x with status := busStatus b })

/-- A buffer of a ring operation read by an engine (R465). -/
def readBuffer (ini addr len : Nat) (s : State) : State × Xfer :=
  readPieces 2 ini (pieces len addr len) { moved := 0, status := 0, bytes := [] } s

/-- A buffer of a ring operation written by an engine (R465). -/
def writeBuffer (ini addr : Nat) (bs : List Byte) (s : State) : State × Xfer :=
  writePieces 2 ini (pieces bs.length addr bs.length) bs { moved := 0, status := 0, bytes := [] } s

/-- Memory read by an engine on its own account (R70 code 0x01). -/
def readEngine (ini addr len : Nat) (s : State) : State × Xfer :=
  readPieces 1 ini (pieces len addr len) { moved := 0, status := 0, bytes := [] } s

/-- Memory written by an engine on its own account (R70 code 0x01). -/
def writeEngine (ini addr : Nat) (bs : List Byte) (s : State) : State × Xfer :=
  writePieces 1 ini (pieces bs.length addr bs.length) bs { moved := 0, status := 0, bytes := [] } s

/-! ### Rings -/

/-- Ring pair `n`. -/
def State.ring (s : State) (n : Nat) : Ring := Tab.get {} s.hri.rings n

/-- Ring pair `n` replaced. -/
def State.setRing (s : State) (n : Nat) (r : Ring) : State :=
  { s with hri.rings := Tab.put s.hri.rings n r }

/-- Ring pair `n` changed. -/
def State.modRing (s : State) (n : Nat) (f : Ring → Ring) : State := s.setRing n (f (s.ring n))

end Sys2Proof.Machine
end

