-- ==== Sys2Proof/Machine/Operands.lean ====
section
/-!
DEFINITION. The operands of ring descriptors (R39), the service queues and their opcodes (R36), and
the running of an operation by its service (R40, R470): which descriptor a service takes, and how it
finishes one.
-/

namespace Sys2Proof.Machine

/-- What a meaning is. -/
abbrev Out := Host.Outcome State Fault Refusal

/-! ### Fields of a descriptor (R39) -/

/-- Word `i` of a descriptor. -/
def Op.word (o : Op) (i : Nat) : Word := o.words.getD i 0

/-- OPCODE -/
def Op.opcode (o : Op) : Nat := bitsOf (o.word 0) 31 24

/-- ORDER -/
def Op.order (o : Op) : Bool := bitOf (o.word 0) 17

/-- EVT -/
def Op.evt (o : Op) : Bool := bitOf (o.word 0) 16

/-- SEQ -/
def Op.seq (o : Op) : Nat := bitsOf (o.word 0) 15 0

/-- LENGTH -/
def Op.len (o : Op) : Nat := (o.word 1).toNat

/-- Buffer address, 64 bits. -/
def Op.addr (o : Op) : Nat := (o.word 2).toNat + (o.word 3).toNat * 2 ^ 32

/-- Two words as one 64-bit number. -/
def Op.word64 (o : Op) (i : Nat) : Nat := (o.word i).toNat + (o.word (i + 1)).toNat * 2 ^ 32

/-! ### Status codes (R46) -/

def stOk : Nat := 0x00
def stLen : Nat := 0x01
def stFence : Nat := 0x02
def stBusy : Nat := 0x03
def stOpcode : Nat := 0x04
def stStale : Nat := 0x05
def stFlushed : Nat := 0x06
def stSchema : Nat := 0x07
def stDomainOff : Nat := 0x08
def stTimeout : Nat := 0x09
def stLate : Nat := 0x0A
def stSeqGap : Nat := 0x0B
def stIncomplete : Nat := 0x0C

/-! ### Service queues -/

/-- The opcodes each service queue carries; none: the block offers no such queue (R119, R142, R173,
R200, R238, R269, R304, R324, R342, R368, R391, R413, R439). -/
def queueOps (blk q : Nat) : Option (List Nat) :=
  match blk, q with
  | 0, 0 => some [1, 2, 3, 4, 5, 6, 7, 8, 9]
  | 0, 1 => some [0x10]
  | 4, 0 => some [1, 2, 3, 4, 5, 6, 7]
  | 4, 1 => some [0x10, 0x11]
  | 5, 0 => some [1, 2]
  | 5, 1 => some [0x10, 0x11]
  | 6, 0 => some [1, 2, 3, 4, 5, 6, 8, 9]
  | 6, 1 => some [0x10]
  | 6, 2 => some [0x11]
  | 6, 3 => some [0x12]
  | 7, 0 => some [1, 2, 3, 4, 5, 6, 7]
  | 7, 1 => some [0x10]
  | 7, 2 => some [0x20]
  | 7, 3 => some [0x21]
  | 8, 0 => some [1, 2, 3, 4, 5, 6]
  | 8, 1 => some [0x10]
  | 8, 2 => some [0x20]
  | 8, 3 => some [0x21]
  | 9, 0 => some [1, 2, 0x10]
  | 9, 1 => some [0x20]
  | 9, 2 => some [0x30]
  | 10, 0 => some [1, 2, 3, 4, 5]
  | 10, 1 => some [0x10]
  | 11, 0 => some [1, 2, 3]
  | 12, 0 => some [1]
  | 12, 1 => some [0x10]
  | 12, 2 => some [0x20]
  | 13, 0 => some [1, 2, 3]
  | 15, 0 => some [1]
  | 17, 0 => some [1]
  | _, _ => none

/-- The domain HRI checks for a service (R47, R9), but for the load switches. -/
def serviceDomain (blk : Nat) : Nat :=
  match blk with
  | 6 => 5 | 8 => 7 | 9 => 10 | 10 => 12 | 11 => 1 | 12 => 11
  | _ => 2

/-- HRI counts a service as on (R47): its domain, and for the load switches either bank (R149). -/
def serviceOn (s : State) (blk : Nat) : Bool :=
  if blk = 5 then s.pdOn 8 || s.pdOn 9 else s.pdOn (serviceDomain blk)

/-! ### Taking and finishing an operation -/

/-- An operation in the hands of its service: ring, place among its outstanding ones, descriptor. -/
structure OpRef where
  ring : Nat
  idx : Nat
  op : Op
deriving DecidableEq, Repr

/-- How a queue takes its descriptors (R470). -/
inductive Taking where
  /-- one at a time, in fetch order -/
  | serial
  /-- each at its fetch -/
  | parallel
  /-- one at a time for each value of W6 bits 2:0 (R324) -/
  | perController
deriving DecidableEq, Repr

/-- With these earlier descriptors of the ring not posted, the queue may take `o` (R39 ORDER, R470). -/
def mayTake (tk : Taking) (earlier : List Op) (o : Op) : Bool :=
  (!o.order || earlier.all fun e => e.stage == .done) &&
  match tk with
  | .serial => earlier.all fun e => e.stage == .done
  | .parallel => true
  | .perController =>
    earlier.all fun e => e.stage == .done || bitsOf (e.word 6) 2 0 != bitsOf (o.word 6) 2 0

/-- The oldest descriptor of this opcode that the queue may take. -/
def findOp (tk : Taking) (opc : Nat) : List Op → List Op → Nat → Option (Nat × Op)
  | _, [], _ => none
  | before, o :: r, i =>
    if o.stage = .fetched && o.opcode == opc && mayTake tk before o then some (i, o)
    else findOp tk opc (before ++ [o]) r (i + 1)

/-- An outstanding operation replaced. -/
def State.setOp (s : State) (c : OpRef) (o : Op) : State :=
  s.modRing c.ring fun r => { r with ops := r.ops.set c.idx o }

/-- A status of R46 that goes with no buffer transfer. -/
def noTransfer (st : Nat) : Bool :=
  st == stLen || st == stBusy || st == stOpcode || st == stStale || st == stLate || st == stSeqGap

/-- An operation finishes: status, bytes moved, results (0 unless OK, R41), completion GTS now. -/
def finishOp (c : OpRef) (status xfer : Nat) (r0 r1 : Word) (s : State) : State :=
  s.setOp c { c.op with
    stage := .done, status := status, xfer := if noTransfer status then 0 else xfer,
    r0 := if status = stOk then r0 else 0, r1 := if status = stOk then r1 else 0, doneAt := s.gts }

/-- An operation finishes with the completion GTS `g`. -/
def finishAt (g : Nat) (c : OpRef) (status xfer : Nat) (r0 r1 : Word) (s : State) : State :=
  s.setOp c { c.op with
    stage := .done, status := status, xfer := if noTransfer status then 0 else xfer,
    r0 := if status = stOk then r0 else 0, r1 := if status = stOk then r1 else 0, doneAt := g }

/-- An operation finishes without a result. -/
def failOp (c : OpRef) (status xfer : Nat) (s : State) : State := finishOp c status xfer 0 0 s

/-- An operation has passed its checks and runs on, with what it fixed. -/
def startOp (c : OpRef) (aux : List Nat) (s : State) : State :=
  s.setOp c { c.op with stage := .started, aux := aux }

/-- As `startOp`, its whole buffer already read. -/
def startRead (c : OpRef) (aux : List Nat) (s : State) : State :=
  s.setOp c { c.op with stage := .started, aux := aux, xfer := c.op.len }

/-- The ring is bound to this queue and enabled, or abandoned with descriptors that still run (R57). -/
def Ring.serves (r : Ring) (blk q : Nat) : Bool :=
  (r.state != .disabled || r.ops.any Op.orphan) && r.svc == blk && r.queue == q

/-- A service of block `blk` takes the next descriptor of opcode `opc` from ring `n`, bound to its
queue `q`, and runs `f` on it; where the ring holds none that the queue may take, nothing happens. A
domain that has gone off since the fetch ends it (R46 DOMAIN_OFF). -/
def takeOp (blk q opc : Nat) (tk : Taking) (n : Nat) (f : OpRef → State → State) (s : State) : State :=
  let r := s.ring n
  if !r.serves blk q then s
  else match findOp tk opc [] r.ops 0 with
    | none => s
    | some (i, o) =>
      let c : OpRef := { ring := n, idx := i, op := o }
      if !serviceOn s blk then failOp c stDomainOff 0 s else f c s

/-- An opcode that needs a buffer and has LENGTH 0 ends with LEN_RANGE before any other check (R48). -/
def needBuffer (c : OpRef) (s : State) (k : State → State) : State :=
  if c.op.len = 0 then failOp c stLen 0 s else k s

/-- The operation reads its whole buffer as initiator `ini`, then goes on with the bytes. -/
def readWhole (ini : Nat) (c : OpRef) (s : State) (k : List Byte → State → State) : State :=
  let (s, x) := readBuffer ini c.op.addr c.op.len s
  if x.status = 0 then k x.bytes s else failOp c x.status x.moved s

/-- The operation writes bytes to its buffer and completes OK with these results. -/
def writeOut (ini : Nat) (c : OpRef) (bs : List Byte) (r0 r1 : Word) (s : State) : State :=
  let (s, x) := writeBuffer ini c.op.addr bs s
  if x.status = 0 then finishOp c stOk x.moved r0 r1 s else failOp c x.status x.moved s

/-- The first outstanding operation of ring `n` that satisfies `p`. -/
def findFrom (p : Op → Bool) : List Op → Nat → Option (Nat × Op)
  | [], _ => none
  | o :: r, i => if p o then some (i, o) else findFrom p r (i + 1)

/-- Rings 0 to 31. -/
def ringNumbers : List Nat := List.range 32

/-- The ring enabled for a queue: at most one is (R54). -/
def State.ringOf (s : State) (blk q : Nat) : Option Nat :=
  ringNumbers.find? fun n => (s.ring n).serves blk q

/-- The oldest operation of a queue that satisfies `p`. -/
def State.opOf (s : State) (blk q : Nat) (p : Op → Bool) : Option OpRef :=
  match s.ringOf blk q with
  | none => none
  | some n =>
    match findFrom p (s.ring n).ops 0 with
    | none => none
    | some (i, o) => some { ring := n, idx := i, op := o }

/-- Every operation of a queue that satisfies `p`, in fetch order. -/
def State.opsOf (s : State) (blk q : Nat) (p : Op → Bool) : List OpRef :=
  match s.ringOf blk q with
  | none => []
  | some n => (s.ring n).ops.zipIdx.filterMap fun e =>
      if p e.1 then some { ring := n, idx := e.2, op := e.1 } else none

/-- A started operation of this opcode. -/
def isStarted (opc : Nat) (o : Op) : Bool := o.stage == .started && o.opcode == opc

/-- A pooled buffer waiting to be taken: fetched, and with ORDER set only behind finished ones. -/
def State.poolBuffer (s : State) (blk q opc : Nat) : Option OpRef :=
  s.opOf blk q fun o => o.stage == .started && o.opcode == opc && o.aux.isEmpty

/-- Every started operation of a service ends with DOMAIN_OFF as its domain goes off (R13, R46). -/
def domainOffOps (p : Nat → Nat → Op → Bool) (s : State) : State :=
  { s with hri.rings := s.hri.rings.map fun e =>
      let r := e.2
      (e.1, { r with ops := r.ops.map fun o =>
        if o.stage == .started && p r.svc r.queue o then
          { o with stage := .done, status := stDomainOff, r0 := 0, r1 := 0, doneAt := s.gts }
        else o }) }

/-- START_T of a descriptor: 0 means the next boundary (R121, R174 and the like). -/
def startTick (s : State) (v : Nat) : Nat := if v = 0 then s.t + 1 else v

end Sys2Proof.Machine
end

