-- ==== Sys2Proof/Machine/Flags.lean ====
section
/-!
DEFINITION. Saturating and rounding arithmetic, and the access codes of R6 and R7.
-/

namespace Sys2Proof.Machine

/-- Held within `lo` and `hi`. -/
def clampInt (lo hi v : Int) : Int := max lo (min hi v)

/-- Held within a signed 32-bit word (R94). -/
def sat32 (v : Int) : Int := clampInt (-2147483648) 2147483647 v

/-- The saturation changed the value. -/
def saturates (v : Int) : Bool := sat32 v != v

/-- A right shift of a signed number rounds towards minus infinity. -/
def asr (v : Int) (n : Nat) : Int := v / (2 ^ n : Int)

/-- A counter that counts one more and stays at `m` (R461 "Saturates"). -/
def countUp (n m : Nat) : Nat := satTo (n + 1) m

/-- W1C: the bits written 1 are cleared (R6). -/
def w1c (old v : Word) : Word := old &&& ~~~ v

/-- RCL: what a read returns is the value, and 0 is left (R6). -/
def rclRead (n : Nat) : Word := wordOf n

/-- A quotient whose rounding the manual leaves open (log 22). -/
def openDiv (n d : Nat) : Nat := n / d + oneIf (n % d != 0 && Config.roundsUp n d)

/-- A quantity as a whole number, rounded in a way the manual leaves open (log 22). -/
def openRat (q : Rat) : Nat := openDiv q.num.toNat q.den

/-- As `openRat`, of either sign. -/
def openInt (q : Rat) : Int := if q < 0 then -(openRat (-q) : Int) else openRat q

/-- A quotient rounded to the nearest; which way a tie goes is left open (log 22). -/
def nearDiv (n d : Nat) : Nat :=
  if 2 * (n % d) < d then n / d
  else if d < 2 * (n % d) then n / d + 1
  else n / d + oneIf (Config.roundsUp n d)

/-- A quotient rounded to the nearest. -/
def roundRat (q : Rat) : Int :=
  let n : Int := nearDiv q.num.natAbs q.den
  if q.num < 0 then -n else n

/-- Difference of two 16-bit free-running indices (R44). -/
def sub16 (a b : Nat) : Nat := (a + 65536 - b % 65536) % 65536

/-- Difference of two 32-bit free-running indices (R19). -/
def sub32 (a b : Nat) : Nat := (a + 2 ^ 32 - b % 2 ^ 32) % 2 ^ 32

/-- A 16-bit index moved on by one. -/
def inc16 (a : Nat) : Nat := (a + 1) % 65536

/-- A 32-bit index moved on by one. -/
def inc32 (a : Nat) : Nat := (a + 1) % 2 ^ 32

end Sys2Proof.Machine
end

