-- ==== Sys2Proof/Machine/Signals.lean ====
section
/-!
DEFINITION. The BCE's signal table (R99): one publisher per range, value and stamp in one cycle.
-/

namespace Sys2Proof.Machine

/-- Entry `i`: value and stamp. -/
def State.signal (s : State) (i : Nat) : Word × Nat := Tab.get (0, 0) s.bce.sig i

/-- An entry is published. -/
def publishSig (i : Nat) (v : Word) (stamp : Nat) (s : State) : State :=
  { s with bce.sig := Tab.put s.bce.sig i (v, stamp) }

/-- An entry is published with a signed value. -/
def publishInt (i : Nat) (v : Int) (stamp : Nat) (s : State) : State :=
  publishSig i (wordOfInt (sat32 v)) stamp s

/-- An entry is published so that a latch sees it from `vis` on (R133). -/
def publishLate (vis i : Nat) (v : Word) (stamp : Nat) (s : State) : State :=
  { s with bce.late := s.bce.late ++ [(vis, i, v, stamp)] }

/-- A trajectory released and visible at `g` is installed (R100, R209). -/
def settleTraj (g : Nat) (s : State) : State :=
  match s.bce.trajLate with
  | some (vis, ps, stamp) =>
    if vis ≤ g then { s with bce.traj := some (ps, stamp), bce.trajLate := none } else s
  | none => s

/-- The publishes visible at `g` reach the table, in their order. -/
def settleSignals (g : Nat) (s : State) : State :=
  let now := s.bce.late.filter fun e => decide (e.1 ≤ g)
  settleTraj g { s with
    bce.sig := now.foldl (fun t e => Tab.put t e.2.1 e.2.2) s.bce.sig
    bce.late := s.bce.late.filter fun e => decide (g < e.1) }

/-- Context `c` of the BCE. -/
def State.bctx (s : State) (c : Nat) : BCtx := Tab.get {} s.bce.ctx c

/-- Context `c` replaced. -/
def State.setBctx (s : State) (c : Nat) (x : BCtx) : State :=
  { s with bce.ctx := Tab.put s.bce.ctx c x }

/-- Contexts 0 to 127. -/
def bceNumbers : List Nat := List.range 128

end Sys2Proof.Machine
end

