-- ==== Sys2Proof/Machine/BceLaw.lean ====
section
/-!
DEFINITION. One evaluation of a BCE context (R94 to R97, R100 to R102, R109 to R115, R474).
-/

namespace Sys2Proof.Machine

/-! ### Configuration fields (R127) -/

/-- Configuration word `i`. -/
def BCtx.w (x : BCtx) (i : Nat) : Word := x.cfg.getD i 0

/-- A field of the configuration. -/
def BCtx.f (x : BCtx) (i hi lo : Nat) : Nat := bitsOf (x.w i) hi lo

/-- A signed word of the configuration. -/
def BCtx.si (x : BCtx) (i : Nat) : Int := sint (x.w i)

/-- An unsigned word of the configuration. -/
def BCtx.un (x : BCtx) (i : Nat) : Nat := (x.w i).toNat

/-- RATE: sub-tick. -/
def BCtx.subtick (x : BCtx) : Bool := bitOf (x.w 0) 31

/-- PERIOD in ticks. -/
def BCtx.period (x : BCtx) : Nat := x.f 0 9 0

/-- OUT_PHASE. -/
def BCtx.outPhase (x : BCtx) : Nat := x.f 1 6 0

/-- A source: type and index. -/
def BCtx.src (x : BCtx) (i : Nat) : Nat × Nat := (x.f i 31 28, x.f i 9 0)

/-- CASC_N. -/
def BCtx.cascN (x : BCtx) : Nat := x.f 5 25 16

/-- The context is the inner of a cascade (R109); then its outer is SP index − 0x280. -/
def BCtx.isInner (x : BCtx) : Bool :=
  (x.src 2).1 == 1 && decide (0x280 ≤ (x.src 2).2) && decide ((x.src 2).2 ≤ 0x2FF) && x.cascN != 0

/-- The outer of an inner. -/
def BCtx.outer (x : BCtx) : Nat := (x.src 2).2 - 0x280

/-- SAFE. -/
def BCtx.safe (x : BCtx) : Int := x.si 28

/-! ### Arithmetic (R94) -/

/-- sh(p, s): a scaling shift that rounds half upward. -/
def sh (p : Int) (n : Nat) : Int := if n = 0 then p else asr (p + 2 ^ (n - 1)) n

/-- The 64-bit accumulator's limit. -/
def accMax : Int := 2 ^ 63 - 1

/-- Terms summed in the accumulator, saturating at each addition: sum and saturations. -/
def accumulate (ts : List Int) : Int × Nat :=
  ts.foldl (fun a t =>
    let n := a.1 + t
    let c := clampInt (-accMax) accMax n
    (c, a.2 + oneIf (c != n))) (0, 0)

/-- What an evaluation reports: source, code, data bits 23:0. -/
abbrev Report := Nat × Nat × Nat

/-- The SAT report of a value, if it saturates (R94, R129). -/
def satReport (code : Nat) (v : Int) : List Report := if saturates v then [(194, code, 0)] else []

/-- Bits 23:0 of a signed value. -/
def low24 (v : Int) : Nat := (v % 2 ^ 24).toNat

/-! ### Inputs (R98 to R102) -/

/-- What a latch reads of one source: its value, its age (none: no value yet), and whether the point
lies beyond the trajectory's horizon. -/
structure Sample where
  val : Int
  age : Option Nat
  horizon : Bool
deriving DecidableEq, Repr

/-- The trajectory at a lead time (R100). -/
def trajSample (traj : Option (List Word × Nat)) (lead tL : Nat) : Sample :=
  match traj with
  | none => { val := 0, age := none, horizon := false }
  | some (p, stamp) =>
    let step := 4000000
    let off := tL + lead * step - stamp
    let i := off / step
    let f : Int := off % step * 65536 / step
    let a := sint (p.getD i 0)
    let b := sint (p.getD (i + 1) 0)
    { val := a + sh ((b - a) * f) 16, age := some (tL - stamp), horizon := decide (399 ≤ i) }

/-- A source read at a latch. -/
def readSource (s : State) (src : Nat × Nat) (lead tL : Nat) : Sample :=
  match src.1 with
  | 1 =>
    let e := s.signal src.2
    { val := sint e.1, age := some (tL - e.2), horizon := false }
  | 2 => trajSample s.bce.traj lead tL
  | _ => { val := 0, age := some 0, horizon := false }

/-- A setpoint or feed-forward is stale (R100, R102); source NONE never is. -/
def isStale (src : Nat × Nat) (tmo : Nat) (p : Sample) : Bool :=
  src.1 != 0 &&
  (p.horizon ||
    match p.age with
    | none => true
    | some a => tmo != 0 && decide (tmo * 4000 < a))

/-- Age in 10 us steps, saturating (R129). -/
def ageSteps (p : Sample) : Nat :=
  match p.age with
  | none => 0xFFFF
  | some a => satTo (a / 4000) 0xFFFF

/-! ### The latch's view of everything outside the context -/

/-- What one evaluation sees. -/
structure Latch where
  /-- context number -/
  num : Nat
  tL : Nat
  sp : Sample
  spStamp : Nat
  fbVal : Word
  fbStamp : Nat
  ff : Sample
  /-- the outer has released a posture output or missed one (R111) -/
  outerBad : Bool
  /-- the outer is in RUN -/
  outerRun : Bool
deriving DecidableEq, Repr

/-- The latch of context `num` at instant `tL`. -/
def latchOf (s : State) (num : Nat) (x : BCtx) (tL : Nat) : Latch :=
  let fb := x.src 3
  let e := if fb.1 = 1 then s.signal fb.2 else (0, tL)
  let o := s.bctx x.outer
  { num := num, tL := tL
    sp := readSource s (x.src 2) 0 tL
    spStamp := (s.signal (x.src 2).2).2
    fbVal := e.1, fbStamp := e.2
    ff := readSource s (x.src 4) (x.f 5 8 0) tL
    outerBad := x.isInner && (match o.badAt with
      | none => false
      | some g => decide (g ≤ tL))
    outerRun := x.isInner && o.state == .run }

/-! ### The steps of an evaluation -/

/-- Freshness of the setpoint: the value used, and the flag with its report (R102). -/
def takeSp (x : BCtx) (l : Latch) : Int × BCtx × List Report :=
  let stale := isStale (x.src 2) (x.f 26 31 16) l.sp
  if stale then
    (x.lastSp.getD (sint (Config.neverFresh l.num false)), { x with spStale := true },
      if x.spStale then [] else [(195, 1, ageSteps l.sp)])
  else (l.sp.val, { x with spStale := false, lastSp := some l.sp.val }, [])

/-- Freshness of the feed-forward (R100, R102): 0 while no trajectory has been installed. -/
def takeFf (x : BCtx) (l : Latch) : Int × BCtx × List Report :=
  let stale := isStale (x.src 4) (x.f 27 15 0) l.ff
  if stale then
    let held := if l.ff.age.isNone then 0 else x.lastFf.getD (sint (Config.neverFresh l.num true))
    (held, { x with ffStale := true },
      if x.ffStale then [] else [(195, if l.ff.horizon then 3 else 2, ageSteps l.ff)])
  else (l.ff.val, { x with ffStale := false, lastFf := some l.ff.val }, [])

/-- The cascade's hand-over and ramp (R97, R110): the setpoint in use. -/
def cascade (x : BCtx) (l : Latch) (sp : Int) : Int × BCtx :=
  if x.isInner then
    let last := x.cascN - 1
    let ramps := bitOf (x.w 0) 24
    let fresh := x.first && ramps
    let newOut := l.spStamp != x.handed
    let x' :=
      if fresh then { x with rampFrom := l.sp.val, rampTo := l.sp.val, rampJ := last }
      else if newOut then
        if ramps then { x with rampFrom := x.rampTo, rampTo := l.sp.val, rampJ := 0 } else { x with rampJ := 0 }
      else { x with rampJ := min (x.rampJ + 1) last }
    let x' := { x' with handed := l.spStamp }
    if ramps then
      (x'.rampFrom + Int.tdiv ((x'.rampTo - x'.rampFrom) * (x'.rampJ + 1)) x.cascN, x')
    else (sp, x')
  else (sp, x)

/-- The law's values before supervision (R95). -/
structure Law where
  r : Int
  y : Int
  kterm : Int
  icand : Int
  x : Int
  df : Int
  /-- P, DF and F summed -/
  pdf : Int
  v : Int
  u : Int
  reports : List Report
deriving DecidableEq, Repr

/-- The control law of R95, from the setpoint and feed-forward in use. The context is initialised already where this is
its first evaluation. R95 gives x = −y no sat32: for y = −2^31 it is kept as 2^31, and shows wrapped in state word 7
(DESIGN CHOICE, log 174). -/
def controlLaw (x : BCtx) (sp ff : Int) (open' : Bool) (y : Int) (yRep : List Report) : Law :=
  let rRaw := sh (x.si 10 * sp) (x.f 9 9 5)
  let rs := sat32 rRaw
  let rate : Int := x.un 22
  let rPrev := if x.first then y else x.rPrev
  let r := if rate = 0 then rs else rPrev + clampInt (-rate) rate (rs - rPrev)
  let e0 := r - y
  let e := sat32 e0
  let p := sh (x.si 11 * e) (x.f 8 9 5)
  let kterm := sh (x.si 12 * e) (x.f 8 14 10)
  let i0 := (if x.first then x.si 31 else x.i) + kterm
  let icand := sat32 i0
  let xin := if bitOf (x.w 0) 28 then -y else e
  let xp := if x.first || x.seedX then xin else x.xPrev
  let dk0 := sh (x.si 13 * (xin - xp)) (x.f 8 19 15)
  let dk := sat32 dk0
  let dfPrev := if x.first then 0 else x.df
  let df0 := dfPrev + sh (x.si 14 * (dk - dfPrev)) (x.f 8 24 20)
  let df := sat32 df0
  let fterm := sh (x.si 16 * ff) (x.f 9 4 0)
  let sum := accumulate [p, icand, df, fterm, x.si 17]
  let v := sat32 sum.1
  { r := r, y := y, kterm := kterm, icand := icand, x := xin, df := df
    pdf := (accumulate [p, df, fterm, x.si 17]).1, v := v, u := max (x.si 18) (min (x.si 19) v)
    reports := satReport 5 rRaw ++ (if open' then [] else yRep) ++ satReport 5 e0 ++ satReport 2 i0 ++
      satReport 5 dk0 ++ satReport 5 df0 ++ List.replicate sum.2 (194, 3, 0) ++ satReport 1 sum.1 }

/-- The scaled feedback y with its reports (R95); 0 with FB_SRC NONE (R98). -/
def feedbackOf (x : BCtx) (fb : Int) : Int × List Report :=
  if (x.src 3).1 = 1 then
    let d0 := fb - x.si 6
    let y0 := sh (sat32 d0 * x.si 7) (x.f 8 4 0)
    (sat32 y0, satReport 5 d0 ++ satReport 5 y0)
  else (0, [])

/-- The conditions of R112 at one evaluation. -/
structure Conds where
  lost : Bool
  frozen : Bool
  fe : Bool
  inherit : Bool
deriving DecidableEq, Repr

/-- Any condition holds. -/
def Conds.any (c : Conds) : Bool := c.lost || c.frozen || c.fe || c.inherit

/-- The cause taken: lost, frozen, following error, inherited, in this order (R474). -/
def Conds.cause (c : Conds) : Nat :=
  if c.lost then 2 else if c.frozen then 3 else if c.fe then 1 else if c.inherit then 4 else 0

/-- The latch takes a new sample of the feedback. -/
def newSample (x : BCtx) (l : Latch) : Bool := (x.src 3).1 == 1 && (x.first || l.fbStamp != x.fbStamp)

/-- The sample is the first of an identical run (R112). -/
def startsRun (x : BCtx) (l : Latch) : Bool :=
  newSample x l && (x.first || x.frzRun == 0 || l.fbVal != x.lastFb)

/-- The frozen run is updated at a new sample (R112). FRZ_U0 is set by `evaluate`, once the output is known. -/
def updateFrozen (x : BCtx) (l : Latch) : BCtx :=
  { x with
    frzRun := if startsRun x l then 1 else if newSample x l then satTo (x.frzRun + 1) 255 else x.frzRun
    lastFb := l.fbVal, fbStamp := l.fbStamp }

/-- The following-error count (R112, R114): in a posture of cause 1 or 5 it does not count on; an evaluation within the
limit always returns it to 0. -/
def updateFe (x : BCtx) (r y : Int) : BCtx :=
  let counts := x.state != .posture || !(x.cause == 1 || x.cause == 5)
  if x.f 24 15 0 = 0 then x
  else if (x.un 23 : Int) < (r - y).natAbs then
    { x with feCount := if counts then satTo (x.feCount + 1) 0xFFFF else x.feCount }
  else { x with feCount := 0 }

/-- The conditions, from the updated counts; `u` is the law's output in RUN and the posture output in POSTURE. -/
def condsOf (x : BCtx) (l : Latch) (u : Int) : Conds :=
  let signal := (x.src 3).1 == 1
  { lost := signal && decide (x.f 26 15 0 * 4000 < l.tL - l.fbStamp)
    frozen := signal && x.f 24 23 16 != 0 && decide (x.f 24 23 16 ≤ x.frzRun)
      && decide (x.un 25 < (u - x.frzU0).natAbs)
    fe := x.f 24 15 0 != 0 && decide (x.f 24 15 0 ≤ x.feCount)
    inherit := bitOf (x.w 0) 25 && l.outerBad }

/-- The posture output (R113); `prev` is the previous output. -/
def postureOut (x : BCtx) (cause : Nat) (prev : Int) : Int :=
  let mode := x.f 0 27 26
  let ramp : Int := x.un 29
  if cause = 5 ∨ mode = 1 then x.safe
  else if mode = 2 ∧ ramp ≠ 0 then prev + clampInt (-ramp) ramp (x.safe - prev)
  else prev

/-- How the evaluation is supervised: the state it ends in. -/
inductive Verdict where
  /-- the law output, in RUN -/
  | law
  /-- posture entered with this cause -/
  | enter (cause : Nat)
  /-- posture goes on -/
  | stay
  /-- resumption, 1 automatic, 2 after CTX_CLEAR -/
  | resume (code : Nat)
deriving DecidableEq, Repr

/-- The automatic resume count after this evaluation (R115, R474). -/
def nextResume (x : BCtx) (l : Latch) (c : Conds) : Nat :=
  let may := (x.cause == 2 || x.cause == 4) && x.f 0 23 16 != 0 && !x.feActive
  if may && !c.any && (x.cause != 4 || l.outerRun) then satTo (x.resumeCnt + 1) 255 else 0

/-- Supervision (R112 to R115, R124, R474). The evaluation that completes RESUME_N good ones itself resumes (DEDUCED,
log 175). -/
def supervise (x : BCtx) (l : Latch) (c : Conds) : Verdict :=
  if x.state = .posture then
    if x.clearReq then (if c.any then .enter c.cause else .resume 2)
    else if x.f 0 23 16 ≠ 0 ∧ x.f 0 23 16 ≤ nextResume x l c then .resume 1
    else .stay
  else if c.any then .enter c.cause else .law

/-- The integrator commit in RUN (R96), with its reports. -/
def commitI (x : BCtx) (w : Law) : Int × List Report :=
  let lim (i : Int) : Int := max (x.si 20) (min (x.si 21) i)
  match x.f 0 30 29 with
  | 1 =>
    if (x.si 19 < w.v ∧ 0 < w.kterm) ∨ (w.v < x.si 18 ∧ w.kterm < 0) then (x.i, [])
    else (lim w.icand, [])
  | 2 =>
    let d0 := w.u - w.v
    let i0 := w.icand + sh (x.si 15 * sat32 d0) (x.f 8 29 25)
    (lim (sat32 i0), satReport 2 d0 ++ satReport 2 i0)
  | _ => (lim w.icand, [])

/-- The STATUS word (R127). -/
def BCtx.status (x : BCtx) : Word :=
  wordOf (x.state.code * 2 ^ 28 + x.cause * 2 ^ 24 + oneIf x.lost * 2 ^ 23 + oneIf x.frozen * 2 ^ 22
    + oneIf x.feActive * 2 ^ 21 + oneIf x.spStale * 2 ^ 20 + oneIf x.ffStale * 2 ^ 19
    + oneIf x.sat * 2 ^ 18 + oneIf x.iFrozen * 2 ^ 17 + oneIf x.destOff * 2 ^ 16
    + oneIf x.destRefused * 2 ^ 15 + oneIf x.replOk * 2 ^ 14 + oneIf (x.first || x.seedX) * 2 ^ 13)

/-- A trace entry (R127), whose table has no place for the RAMP_J that R110 has reported: state word 11 shows it
(DEDUCED, log 176). -/
def traceEntry (x : BCtx) (due slot : Nat) : List Word :=
  [ wordOf (due % 65536 * 65536 + slot * 4096 + bitsOf x.status 27 16), wordOfInt x.r, wordOfInt x.y,
    wordOfInt x.u ]

/-- The trace with one more evaluation, at most 240. -/
def addTrace (t : List (List Word)) (e : List Word) : List (List Word) :=
  if t.length < 240 then t ++ [e] else t.drop 1 ++ [e]

/-- The end of an evaluation: state, integrator and output for a verdict (R96, R113, R115). `prev` is
the previous output. -/
def conclude (x : BCtx) (w : Law) (c : Conds) (vd : Verdict) (prev : Int) (resumeCnt : Nat) :
    BCtx × List Report :=
  match vd with
  | .law =>
    if x.destOff || x.destRefused then ({ x with u := w.u, iFrozen := true }, [])
    else
      let (i, rep) := commitI x w
      ({ x with u := w.u, i := i, iFrozen := false }, rep)
  | .enter cause =>
    let out := postureOut x cause prev
    ({ x with
        state := .posture, cause := cause, u := out, iFrozen := true, resumeCnt := 0
        feActive := x.feActive || c.fe },
      [(192, cause, low24 out)])
  | .stay =>
    let out := postureOut x x.cause prev
    let newFe := c.fe && !x.feActive && !(x.cause == 1 || x.cause == 5)
    ({ x with u := out, iFrozen := true, resumeCnt := resumeCnt, feActive := x.feActive || newFe },
      if newFe then [(199, 1, satTo (w.r - w.y).natAbs 0xFF_FFFF)] else [])
  | .resume code =>
    let i := max (x.si 20) (min (x.si 21) (prev - w.pdf))
    let sum := w.pdf + i
    let v := sat32 sum
    let u := max (x.si 18) (min (x.si 19) v)
    ({ x with
        state := .run, cause := 0, u := u, v := v, i := i, iFrozen := false, resumeCnt := 0
        seedX := code == 1 },
      satReport 1 sum ++ [(193, code, low24 u)])

/-- The state of R97 taken at the first evaluation. -/
def initialise (x : BCtx) : BCtx :=
  if x.first then { x with i := x.si 31, df := 0, u := x.safe } else x

/-- One evaluation (R95): the context after it, its reports in order. `due` and `slot` name the output
instant for the trace. -/
def evaluate (x0 : BCtx) (l : Latch) (due slot : Nat) : BCtx × List Report :=
  let (sp0, x1, rep1) := takeSp x0 l
  let (ff, x2, rep2) := takeFf x1 l
  let (sp, x3) := cascade x2 l sp0
  let x3 := initialise x3
  let fb := sint l.fbVal
  let (y, yRep) := feedbackOf x3 fb
  let w := controlLaw x3 sp ff ((x3.src 3).1 != 1) y yRep
  let x4 := if x3.clearReq then { x3 with frzRun := 0 } else x3
  let x5 := updateFe (updateFrozen x4 l) w.r w.y
  let prev := x5.u
  let c := condsOf x5 l (if x5.state = .posture then postureOut x5 x5.cause prev else w.u)
  let vd := supervise x5 l c
  let x6 := { x5 with
    r := w.r, y := w.y, v := w.v, df := w.df, xPrev := w.x, rPrev := w.r
    lost := c.lost, frozen := c.frozen, first := false, seedX := false, clearReq := false }
  let (x7, rep3) := conclude x6 w c vd prev (nextResume x5 l c)
  let reports := rep1 ++ rep2 ++ w.reports ++ rep3
  let sats := (reports.filter fun q => q.1 == 194).length
  let x8 := { x7 with
    sat := x7.sat || sats != 0, frzU0 := if startsRun x4 l then x7.u else x7.frzU0 }
  ({ x8 with trace := addTrace x8.trace (traceEntry x8 due slot) }, reports)

end Sys2Proof.Machine
end

