-- ==== Sys2Proof/Machine/Can.lean ====
section
/-!
DEFINITION. The CAN controllers (spec/12_can_controllers.md).
-/

namespace Sys2Proof.Machine

/-! ### Accessors -/

/-- Controller `k`. -/
def State.canCtl (s : State) (k : Nat) : CanCtl := Tab.get {} s.can.ctl k

/-- Controller `k` replaced. -/
def State.setCan (s : State) (k : Nat) (x : CanCtl) : State := { s with can.ctl := Tab.put s.can.ctl k x }

/-- Buffer `b` of controller `k`. -/
def State.canBuf (s : State) (k b : Nat) : CanBuf := Tab.get {} (s.canCtl k).bufs b

/-- Buffer `b` of controller `k` replaced. -/
def State.setBuf (s : State) (k b : Nat) (x : CanBuf) : State :=
  s.setCan k { s.canCtl k with bufs := Tab.put (s.canCtl k).bufs b x }

/-- Buffers 0 to 127 and controllers 0 to 7. -/
def bufNumbers : List Nat := List.range 128
def canNumbers : List Nat := List.range 8

/-- CAN_CTL fields. -/
def CanCtl.en (x : CanCtl) : Bool := bitOf x.ctl 31
def CanCtl.modeReq (x : CanCtl) : Nat := bitsOf x.ctl 29 28
def CanCtl.fdEn (x : CanCtl) : Bool := bitOf x.ctl 27
def CanCtl.xlEn (x : CanCtl) : Bool := bitOf x.ctl 26
def CanCtl.xlErrSig (x : CanCtl) : Bool := bitOf x.ctl 25
def CanCtl.autoRec (x : CanCtl) : Bool := bitOf x.ctl 24

/-- CAN_TM_CFG fields. -/
def CanCtl.tmRole (x : CanCtl) : Nat := bitsOf x.tmCfg 31 30
def CanCtl.refBuf (x : CanCtl) : Nat := bitsOf x.tmCfg 29 23
def CanCtl.refPhase (x : CanCtl) : Nat := bitsOf x.tmCfg 22 16
def CanCtl.refDiv (x : CanCtl) : Nat := bitsOf x.tmCfg 9 0

/-- The controller takes part in traffic. -/
def CanCtl.live (x : CanCtl) : Bool := x.state == .active || x.state == .passive

/-- BUF_CFG and BUF_MASK fields. -/
def CanBuf.en (x : CanBuf) : Bool := bitOf x.cfg 31
def CanBuf.tx (x : CanBuf) : Bool := bitOf x.cfg 30
def CanBuf.cyclic (x : CanBuf) : Bool := bitOf x.cfg 29
def CanBuf.team (x : CanBuf) : Bool := bitOf x.cfg 28
def CanBuf.ide (x : CanBuf) : Bool := bitOf x.cfg 27
def CanBuf.fdf (x : CanBuf) : Bool := bitOf x.cfg 26
def CanBuf.brs (x : CanBuf) : Bool := bitOf x.cfg 25
def CanBuf.txLen (x : CanBuf) : Nat := bitsOf x.cfg 22 16
def CanBuf.phase (x : CanBuf) : Nat := bitsOf x.cfg 6 0
def CanBuf.txOfs (x : CanBuf) : Nat := bitsOf x.mask 25 16
def CanBuf.txDiv (x : CanBuf) : Nat := bitsOf x.mask 9 0

/-- Data capacity of buffer `b` in bytes. -/
def bufCap (b : Nat) : Nat := if b < 32 then 64 else 8

/-- The data area of a buffer as bytes. -/
def CanBuf.bytes (x : CanBuf) (b : Nat) : List Byte :=
  wordBytes ((List.range (bufCap b / 4)).map fun i => Tab.get 0 x.data i)

/-- A data area that holds these bytes, the rest 0. -/
def dataWords (bs : List Byte) (b : Nat) : Tab Word :=
  ((leWords (bufCap b / 4) bs).zipIdx.map fun e => (e.2, e.1)).filter fun e => e.2 != 0

/-! ### Events and flags (R322, R327) -/

/-- Event `j` of controller `k`. -/
def canEvent (k j code : Nat) (data : Word) (g : Nat) (s : State) : State :=
  raiseEv { gts := g, src := 384 + 8 * k + j, code := code, data := data } s

/-- CAN_ERRC. -/
def CanCtl.errc (x : CanCtl) : Nat := x.tec % 512 * 65536 + x.recCnt % 512

/-- BUS. -/
def busEventOf (k code : Nat) (s : State) : State :=
  canEvent k 0 code (wordOf (s.canCtl k).errc) s.gts s

/-- MODE: a change of STATE or of the mode in effect. -/
def modeEvent (k : Nat) (s : State) : State :=
  let x := s.canCtl k
  canEvent k 1 x.state.code (wordOf x.mode) s.gts s

/-- Hardware sets a flag, and its counter counts (R322). -/
def setFlag (k i : Nat) (s : State) : State :=
  let x := s.canCtl k
  s.setCan k { x with
    flags := setBit x.flags i true
    fcnt := Tab.put x.fcnt i ((Tab.get 0 x.fcnt i + 1) % 65536) }

/-- A frame lost in this tick, for RX_LOST at its end (R327). -/
def noteLost (k code sof b : Nat) (s : State) : State :=
  let x := s.canCtl k
  let e := match Tab.find x.lost code with
    | some (g, b0, n) => (g, b0, satTo (n + 1) 0xFFFF)
    | none => (sof, b, 1)
  s.setCan k { x with lost := Tab.put x.lost code e }

/-! ### States (R309, R310) -/

/-- A change of STATE. -/
def setState (k : Nat) (st : CanState) (s : State) : State :=
  if (s.canCtl k).state = st then s
  else modeEvent k (s.setCan k { s.canCtl k with state := st })

/-- The mode asked for takes effect at a bus idle (R310). -/
def modeAtIdle (k : Nat) (s : State) : State :=
  let x := s.canCtl k
  if x.en ∧ x.mode ≠ x.modeReq then modeEvent k (s.setCan k { x with mode := x.modeReq }) else s

/-- The state the error counters ask for (R309). -/
def errorState (k : Nat) (s : State) : State :=
  let x := s.canCtl k
  if x.live ∧ 255 < x.tec then
    setState k .busOff (busEventOf k 3 (setFlag k 3 (s.setCan k { x with recGo := false })))
  else if x.state = .active ∧ (127 < x.tec ∨ 127 < x.recCnt) then
    setState k .passive (busEventOf k 1 (setFlag k 4 s))
  else if x.state = .passive ∧ x.tec ≤ 127 ∧ x.recCnt ≤ 127 then
    setState k .active (busEventOf k 2 s)
  else s

/-- EN is written 0: a frame on the wire is cut at once (R309), and is not sent again (DEDUCED, log 194). -/
def cutFrame (k : Nat) (s : State) : State :=
  let x := s.canCtl k
  let s := s.setCan k { x with bus := none }
  match x.bus with
  | some (.buf b, _) => s.setBuf k b { s.canBuf k b with wire := none, abort := false }
  | _ => s

/-- CAN_CTL written. `idle`: the bus is idle, so that a change of MODE acts at once. -/
def canCtlWrite (k : Nat) (v : Word) (idle : Bool) (s : State) : State :=
  let x := s.canCtl k
  let mode := if bitsOf v 29 28 = 3 then x.modeReq else bitsOf v 29 28
  let withMode (w : Word) : Word := maskWrite 0x3000_0000 w (wordOf (mode * 2 ^ 28))
  if !x.en then
    let ctl := withMode (v &&& (0x8F00_0000 : Word))
    let s := s.setCan k { x with ctl := ctl, mode := mode }
    if bitOf v 31 then setState k .integrating s
    else if x.mode ≠ mode then modeEvent k s else s
  else if !bitOf v 31 then
    setState k .off (cutFrame k (s.setCan k { x with ctl := setBit (withMode x.ctl) 31 false, mode := mode }))
  else
    let s := s.setCan k { x with
      ctl := withMode x.ctl, recGo := x.recGo || (bitOf v 23 && x.state == .busOff) }
    if idle then modeAtIdle k s else s

/-- CAN_INTEGRATED: 11 recessive bits. The bus is idle; where the error counters ask for PASSIVE, it follows. -/
def canIntegrated (k : Nat) (s : State) : State :=
  if (s.canCtl k).state = .integrating then errorState k (modeAtIdle k (setState k .active s)) else s

/-- BUS_OFF_RECOVERED: 128 occurrences of 11 recessive bits, after REC_GO or with AUTO_REC. -/
def busOffRecovered (k : Nat) (s : State) : State :=
  let x := s.canCtl k
  if x.state = .busOff ∧ (x.recGo ∨ x.autoRec) then
    setState k .integrating (busEventOf k 4 (s.setCan k { x with tec := 0, recCnt := 0, recGo := false }))
  else s

/-- The code of a protocol error (R327). -/
def errorCode : CanError → Nat
  | .bit => 1 | .stuff => 2 | .crc => 3 | .form => 4 | .ack => 5

/-! ### Fields of a frame (R314, R315, R325) -/

/-- The bit positions of a field from its least significant bit up. MOTOROLA: START names the most
significant bit, and the field runs on from bit 0 of a byte to bit 7 of the next. -/
def fieldBits (moto : Bool) (start len : Nat) : List Nat :=
  if moto then
    let l := start / 8 * 8 + (7 - start % 8)
    (List.range len).reverse.map fun j => (l + j) / 8 * 8 + (7 - (l + j) % 8)
  else (List.range len).map fun j => start + j

/-- The raw field, unsigned. -/
def getField (ps : List Nat) (d : Nat) : Nat :=
  (ps.zipIdx.map fun e => if d.testBit e.1 then 2 ^ e.2 else 0).sum

/-- The data with a field replaced. -/
def putField (ps : List Nat) (raw d : Nat) : Nat :=
  ps.zipIdx.foldl (fun d e =>
    let cleared := if d.testBit e.1 then d - 2 ^ e.1 else d
    if raw.testBit e.2 then cleared + 2 ^ e.1 else cleared) d

/-- Word `i` of a map entry. -/
def mapW (e : List Word) (i : Nat) : Word := e.getD i 0

def mapEn (e : List Word) : Bool := bitOf (mapW e 0) 31
def mapCtrl (e : List Word) : Nat := bitsOf (mapW e 0) 30 28
def mapSigned (e : List Word) : Bool := bitOf (mapW e 0) 27
def mapNaSkip (e : List Word) : Bool := bitOf (mapW e 0) 25
def mapBce (e : List Word) : Bool := bitOf (mapW e 0) 24
def mapBuf (e : List Word) : Nat := bitsOf (mapW e 0) 6 0
def mapSh (e : List Word) : Nat := bitsOf (mapW e 1) 12 8
def mapLen (e : List Word) : Nat := bitsOf (mapW e 1) 5 0
def mapBits (e : List Word) : List Nat :=
  fieldBits (bitOf (mapW e 0) 26) (bitsOf (mapW e 1) 24 16) (mapLen e)

/-- A raw field as a signed number where SIGNED is set. -/
def signField (e : List Word) (raw : Nat) : Int :=
  if mapSigned e ∧ 2 ^ (mapLen e - 1) ≤ raw then (raw : Int) - 2 ^ mapLen e else raw

/-- The value an entry publishes, if it does (R314). -/
def rxValue (e : List Word) (d : Nat) : Option Int :=
  let raw := getField (mapBits e) d
  if mapNaSkip e ∧ 2 ≤ mapLen e ∧ 2 ^ mapLen e ≤ raw + 2 then none
  else some (sat32 (sh ((signField e raw - sint (mapW e 2)) * sint (mapW e 3)) (mapSh e)))

/-- The raw value of a slot, clamped to its field (R315). -/
def txRaw (e : List Word) (v : Int) : Nat :=
  let n := mapLen e
  let x := sh (v * sint (mapW e 3)) (mapSh e) + sbitsOf (mapW e 2) 31 8
  let c := if mapSigned e then clampInt (-(2 ^ (n - 1))) (2 ^ (n - 1) - 1) x
    else clampInt 0 (2 ^ n - 1) x
  (c % (2 ^ n : Int)).toNat

/-! ### Reception (R311, R312, R314) -/

/-- The identifier as the filters see it: 11-bit IDs in bits 28:18. -/
def idWord (f : CanFrame) : Nat := if f.ide then f.id % 2 ^ 29 else f.id % 2 ^ 11 * 2 ^ 18

/-- An identifier passes a filter. -/
def passes (id : Nat) (want mask : Word) : Bool := (wordOf id ^^^ want) &&& mask == 0

/-- The buffer that takes a CC or FD frame (R311). -/
def takerOf (x : CanCtl) (f : CanFrame) : Option Nat :=
  bufNumbers.find? fun b =>
    let q : CanBuf := Tab.get {} x.bufs b
    q.en && !q.tx && passes (idWord f) q.id (q.mask &&& (0x1FFF_FFFF : Word)) && q.ide == f.ide
      && decide (f.data.length ≤ bufCap b)

/-- A frame passes the pool's filter. -/
def poolPasses (x : CanCtl) (f : CanFrame) : Bool :=
  if f.fmt.val = 2 then
    passes (f.id % 2 ^ 11 * 2 ^ 18) (x.fifoId &&& (0x1FFC_0000 : Word)) (x.fifoMask &&& (0x1FFC_0000 : Word))
  else passes (idWord f) x.fifoId x.fifoMask

/-- The 32-byte header of a pool buffer (R324). -/
def poolHeader (k : Nat) (f : CanFrame) (cnt : Nat) : List Byte :=
  leBytes 8 f.sof ++ leBytes 4 (oneIf f.ide * 2 ^ 31 + f.id % 2 ^ 29) ++ leBytes 2 f.data.length ++
    leBytes 1 (k + f.fmt.val * 16 + oneIf f.brs * 64) ++ leBytes 1 f.sdt ++ leBytes 1 f.vcid ++
    leBytes 1 (oneIf f.secBit) ++ leBytes 2 0 ++ leBytes 4 f.af.toNat ++ leBytes 4 cnt ++ leBytes 4 0

/-- A frame goes to the receive pool (R311, R324). -/
def toPool (k : Nat) (f : CanFrame) (s : State) : State :=
  let x := s.canCtl k
  if !poolPasses x f then s
  else
    let cnt := inc32 x.poolCnt
    let s := s.setCan k { x with poolCnt := cnt }
    match s.poolBuffer 9 2 0x30 with
    | none => noteLost k 2 f.sof 0 (setFlag k 6 s)
    | some c =>
      writeOut 0x27 c (poolHeader k f cnt ++ f.data) (wordOf (k * 2 ^ 29 + f.data.length)) (wordOf f.sof) s

/-- The signals mapped to buffer `b` are published with the frame's SOF (R314), while PD2 is on (R309). -/
def publishRx (k b sof : Nat) (bs : List Byte) (s : State) : State :=
  if !s.pdOn 2 then s
  else s.can.rxMap.foldl (fun s e =>
    if mapEn e.2 && mapCtrl e.2 == k && mapBuf e.2 == b then
      match rxValue e.2 (leNat bs) with
      | some v => publishLate (s.gts + 400) (0x100 + e.1) (wordOfInt v) sof s
      | none => s
    else s) s

/-- Buffer `b` takes a frame (R312). -/
def storeFrame (k b : Nat) (f : CanFrame) (s : State) : State :=
  let q := s.canBuf k b
  let s := if q.ndat then noteLost k 1 f.sof b (setFlag k 7 s) else s
  let s := s.setBuf k b { q with
    data := dataWords f.data b, len := f.data.length, gts := f.sof, seq := (q.seq + 1) % 256
    ovr := q.ovr || q.ndat, ndat := true, cnt := inc32 q.cnt }
  publishRx k b f.sof f.data s

/-- The receive error counter after a good reception, by ISO 11898-1. -/
def recAfterGood (k g n : Nat) : Nat := if 127 < n then 119 + (Config.recAfter k g).val else n - 1

/-- CAN_FRAME_RECEIVE: a frame at its validation point. -/
def canFrameReceive (k : Nat) (f : CanFrame) (s : State) : State :=
  let x := s.canCtl k
  if !x.live || (f.fmt.val == 1 && !x.fdEn) || (f.fmt.val == 2 && !x.xlEn) then s
  else
    let s := s.advance f.sof
    let s := if x.mode = 0 then
        errorState k (s.setCan k { x with recCnt := recAfterGood k s.gts x.recCnt })
      else s
    let s :=
      if f.remote then s
      else if f.fmt.val = 2 then toPool k f s
      else match takerOf x f with
        | some b => storeFrame k b f s
        | none => toPool k f s
    modeAtIdle k s

/-! ### Assembly and transmission (R313, R315, R321) -/

/-- Only a lone module or the lead sends TEAM buffers (R321). -/
def maySend (q : CanBuf) (s : State) : Bool := !q.team || s.rtl.role != .second

/-- Slot `i` is older than its TMO (R315). -/
def slotStale (e : List Word) (stamp : Option Nat) (g : Nat) : Bool :=
  let tmo := bitsOf (mapW e 2) 7 0
  tmo != 0 && (match stamp with
    | none => true
    | some t => decide (t + tmo * tickLen < g))

/-- The data a buffer takes at an assembly at `g`, and whether a slot was not available (R315). -/
def assemble (k b g : Nat) (s : State) : List Byte × Bool :=
  let q := s.canBuf k b
  let slots := s.can.txMap.filter fun e => mapEn e.2 && mapCtrl e.2 == k && mapBuf e.2 == b
  let r := slots.foldl (fun (a : Nat × Bool) e =>
    let v : Word × Option Nat := Tab.get (0, none) s.can.slots e.1
    if slotStale e.2 v.2 g then (putField (mapBits e.2) (2 ^ mapLen e.2 - 1) a.1, true)
    else (putField (mapBits e.2) (txRaw e.2 (sint v.1)) a.1, a.2)) (leNat (q.bytes b), false)
  ((leBytes (bufCap b) r.1).take q.txLen, r.2)

/-- An assembly with its flags; the frame becomes pending where the module may send it. -/
def assembleBuf (k b g : Nat) (s : State) : State :=
  let (bs, na) := assemble k b g s
  let q := s.canBuf k b
  let s := s.setBuf k b (if maySend q s then { q with na := na, pend := some bs, pendAt := g } else { q with na := na })
  if na then canEvent k 3 2 (wordOf b) g s else s

/-! ### The wire (R313) -/

/-- The FRAME_TX that controller `k` has in arbitration. -/
def State.frameTxOp (s : State) (k : Nat) : Option OpRef :=
  s.opOf 9 1 fun o => isStarted 0x20 o && bitsOf (o.word 6) 2 0 == k && o.aux.getD 1 0 == 1

/-- The place of an identifier in arbitration: 11 bits, then IDE, then the other 18. -/
def arbKey (id : Word) (ide : Bool) : Nat :=
  bitsOf id 28 18 * 2 ^ 19 + oneIf ide * 2 ^ 18 + (if ide then bitsOf id 17 0 else 0)

/-- The frame that a buffer brings to an arbitration at `sof`: one that has come back from the wire, or the pending one.
-/
def CanBuf.ready (q : CanBuf) (sof : Nat) : Option (List Byte) :=
  if q.wire.isSome then q.wire else if q.pendAt ≤ sof then q.pend else none

/-- Buffers 126 and 127 of a witness controller: RTL's from EN = 1 on, and writes to them are ignored (R380). -/
def State.reserved (s : State) (k b : Nat) : Bool :=
  s.rtl.en && decide (126 ≤ b) &&
    (bitsOf s.rtl.wit 2 0 == k || (bitOf s.rtl.wit 7 && bitsOf s.rtl.wit 6 4 == k))

/-- Buffer `b` as a sender: a reserved one sends classical frames for RTL, whatever its header holds (R380). -/
def State.sender (s : State) (k b : Nat) : CanBuf :=
  let q := s.canBuf k b
  if s.reserved k b then { q with cfg := 0x4000_0000 } else q

/-- The controller's own contenders at `sof`, buffers in rising number and then FRAME_TX (DESIGN CHOICE, log 194). -/
def contenders (k sof : Nat) (s : State) : List (Nat × CanWho) :=
  let x := s.canCtl k
  let bufs := bufNumbers.filterMap fun b =>
    let q := s.sender k b
    if q.tx && (q.ready sof).isSome && (!q.fdf || x.fdEn) then some (arbKey q.id q.ide, CanWho.buf b) else none
  bufs ++ match s.frameTxOp k with
    | some c =>
      if boundaryOf (c.op.aux.getD 0 0) ≤ sof then
        let w := c.op.word 6
        [(arbKey (c.op.word 7) (bitOf w 11 && !bitOf w 8), CanWho.frameTx)]
      else []
    | none => []

/-- The contender that goes first: the lowest identifier, and among equal ones the first. -/
def arbFirst : List (Nat × CanWho) → Option CanWho
  | [] => none
  | e :: r => some (r.foldl (fun m e => if e.1 < m.1 then e else m) e).2

/-- A frame of this controller's begins on the wire at `sof`: the one that arbitration puts first. Where one is on the
wire already, it is that one. -/
def takeBus (k : Nat) (sof : Option Nat) (s : State) : State :=
  match sof, (s.canCtl k).bus with
  | some g, none =>
    match arbFirst (contenders k g s) with
    | none => s
    | some who =>
      let s := s.setCan k { s.canCtl k with bus := some (who, g) }
      match who with
      | .frameTx => s
      | .buf b =>
        let q := s.canBuf k b
        if q.wire.isSome then s else s.setBuf k b { q with wire := q.pend, pend := none }
  | _, _ => s

/-- Buffer `b` has a frame on the wire. -/
def onBus (k b : Nat) (s : State) : Bool :=
  match (s.canCtl k).bus with
  | some (.buf c, _) => c == b
  | _ => false

/-- The frame on the wire comes back after a lost arbitration or an error, to be retried, or is dropped where its abort
has been asked for; of FRAME_TX an attempt is over. -/
def returnFrame (k : Nat) (s : State) : State :=
  let x := s.canCtl k
  let s := s.setCan k { x with bus := none }
  match x.bus with
  | none => s
  | some (.frameTx, _) =>
    match s.frameTxOp k with
    | some c => s.setOp c { c.op with aux := c.op.aux.set 2 (c.op.aux.getD 2 0 + 1) }
    | none => s
  | some (.buf b, _) =>
    let q := s.canBuf k b
    if q.abort then s.setBuf k b { q with wire := none, abort := false } else s

/-- CAN_PROTOCOL_ERROR: the counters come to `tec` and `rec'` by ISO 11898-1; in RESTRICTED they do not
change (R310). An error in a frame of this controller's, with that SOF, sends it back (R313). -/
def canProtocolError (k : Nat) (e : CanError) (tec rec' : Nat) (sof : Option Nat) (s : State) : State :=
  if !(s.canCtl k).live then s
  else
    let s := returnFrame k (takeBus k sof s)
    let x := s.canCtl k
    let x := { x with
      protCnt := countUp x.protCnt max32
      tec := if x.mode = 1 then x.tec else tec, recCnt := if x.mode = 1 then x.recCnt else rec' }
    let c := errorCode e
    let entry := match Tab.find x.prot c with
      | some (g, d, n) => (g, d, satTo (n + 1) 0xFFFF)
      | none => (s.gts, x.errc % 65536, 1)
    errorState k (setFlag k 0 (s.setCan k { x with prot := Tab.put x.prot c entry }))

/-! ### Cyclic assembly, requests and aborts (R313) -/

/-- A cyclic buffer is due at tick `t` (R313). -/
def cyclicDue (q : CanBuf) (t : Nat) : Bool :=
  q.en && q.tx && q.cyclic && q.txDiv != 0 && t % q.txDiv == q.txOfs && q.asmT != some t

/-- CAN_CYCLIC_ASSEMBLY: at the start of TXPHASE of a due tick. A frame still pending is replaced; one on the wire,
whose SOF is `sof`, stays, and the new one waits behind it. -/
def canCyclicAssembly (k b : Nat) (sof : Option Nat) (s : State) : State :=
  let x := s.canCtl k
  let q := s.canBuf k b
  let t := s.t
  let g := boundaryOf t + q.phase * phaseLen
  let isRef := x.tmRole == 1 && x.refBuf == b
  if !x.en || isRef || !cyclicDue q t then s
  else
    let s := takeBus k sof (s.advance g)
    let q := s.canBuf k b
    let on := onBus k b s
    let replaced := q.pend.isSome || (q.wire.isSome && !on)
    let s := s.setBuf k b { q with
      wire := if on then q.wire else none, pend := none, late := replaced, asmT := some t }
    let s := if replaced then canEvent k 3 1 (wordOf b) g (setFlag k 5 s) else s
    assembleBuf k b g s

/-- CAN_TXREQ word written: ONCE buffers that are not pending (R313). -/
def canTxreq (k word : Nat) (v : Word) (s : State) : State :=
  (List.range 32).foldl (fun s i =>
    let b := 32 * word + i
    let q := s.canBuf k b
    if bitOf v i && !s.reserved k b && q.en && q.tx && !q.cyclic && q.pend.isNone && q.wire.isNone then
      assembleBuf k b s.gts s
    else s) s

/-- CAN_TXABT word written: a pending frame that is not on the wire is removed; for one on the wire the
request stays until it is sent or comes back (R313). -/
def canTxabt (k word : Nat) (v : Word) (sof : Option Nat) (s : State) : State :=
  (List.range 32).foldl (fun s i =>
    let b := 32 * word + i
    let q := s.canBuf k b
    if bitOf v i && !s.reserved k b && (q.pend.isSome || q.wire.isSome) then
      if onBus k b s then s.setBuf k b { q with pend := none, abort := true }
      else s.setBuf k b { q with pend := none, wire := none, abort := false }
    else s) (takeBus k sof s)

/-- The frame that a buffer sends (R307, R326). -/
def bufFrame (q : CanBuf) (bs : List Byte) (sof : Nat) : CanFrame :=
  { fmt := if q.fdf then 1 else 0, ide := q.ide, brs := q.fdf && q.brs
    id := if q.ide then bitsOf q.id 28 0 else bitsOf q.id 28 18
    data := bs, sof := sof, remote := false, sdt := 0, vcid := 0, secBit := false, af := 0 }

/-- The frame that FRAME_TX sends (R324). -/
def opFrame (o : Op) (bs : List Byte) (sof : Nat) : CanFrame :=
  let w := o.word 6
  let xl := bitOf w 8
  let ide := bitOf w 11 && !xl
  { fmt := if xl then 2 else if bitOf w 9 then 1 else 0, ide := ide, brs := bitOf w 10 && bitOf w 9 && !xl
    id := if ide then bitsOf (o.word 7) 28 0 else bitsOf (o.word 7) 28 18
    data := bs, sof := sof, remote := false
    sdt := if xl then bitsOf (o.word 8) 31 24 else 0, vcid := if xl then bitsOf (o.word 8) 23 16 else 0
    secBit := xl && bitOf (o.word 8) 0, af := if xl then o.word 9 else 0 }

/-- A good transmission: TEC, the state, and a bus idle. -/
def goodSent (k : Nat) (f : CanFrame) (s : State) : State :=
  let x := s.canCtl k
  modeAtIdle k (errorState k (s.setCan k { x with
    tec := x.tec - 1, bus := none, txLast := some { frame := f, errSig := f.fmt.val == 2 && x.xlErrSig } }))

/-- CAN_FRAME_SENT: this controller's frame whose SOF was `sof` completes at its EOF. -/
def canFrameSent (k sof : Nat) (s : State) : State :=
  let x := s.canCtl k
  if !x.live || x.mode != 0 then s
  else
    let s := takeBus k (some sof) (s.advance sof)
    match (s.canCtl k).bus with
    | none => s
    | some (.frameTx, _) =>
      match s.frameTxOp k with
      | none => s.setCan k { s.canCtl k with bus := none }
      | some c =>
        let bs := (c.op.aux.drop 3).map fun n => BitVec.ofNat 8 n
        goodSent k (opFrame c.op bs sof)
          (finishOp c stOk c.op.len (wordOf sof) (wordOf (c.op.aux.getD 2 0 + 1)) s)
    | some (.buf b, _) =>
      let q := s.canBuf k b
      let bs := q.wire.getD []
      let s := s.setBuf k b { q with wire := none, abort := false, gts := sof, cnt := inc32 q.cnt }
      let x := s.canCtl k
      let isRef := x.tmRole == 1 && x.refBuf == b
      let x := if isRef then { x with refSof := sof, refLast := some (leNat (bs.take 2), sof) } else x
      goodSent k (bufFrame (s.sender k b) bs sof) (s.setCan k x)

/-- CAN_ARBITRATION_LOST: this controller's frame whose SOF was `sof` comes back, and the bus carries the winner's. -/
def canArbitrationLost (k sof : Nat) (s : State) : State :=
  if !(s.canCtl k).live then s else returnFrame k (takeBus k (some sof) (s.advance sof))

/-! ### The network's time (R317 to R321) -/

/-- A TIME event; its data is the residual in 10 ns units (R327). -/
def timeEvent (k code g : Nat) (s : State) : State :=
  let r := (s.canCtl k).tm.res
  let q : Int := openDiv r.natAbs 4
  canEvent k 4 code (wordOfInt (sat32 (if r < 0 then -q else q))) g s

/-- GTS that the model gives for master time `m` (R319). -/
def TimeModel.mapped (x : TimeModel) (m : Int) : Int :=
  x.o + roundRat (((m - x.m0) * 40 : Int) * (1 + x.rho))

/-- PREV_TIME unwrapped against the model's prediction at stamp `a` (R319); a first pair has none. -/
def TimeModel.unwrap (x : TimeModel) (prevTime a : Nat) : Int :=
  if x.pairs = 0 then prevTime
  else
    let guess : Int := x.m0 + roundRat (((a : Int) - x.o : Rat) / (40 * (1 + x.rho)))
    let d := ((prevTime : Int) - guess) % 2 ^ 32
    guess + (if d < 2 ^ 31 then d else d - 2 ^ 32)

/-- ρ held within ±1,000 ppm. -/
def clampRho (r : Rat) : Rat := max (-(1 / 1000)) (min (1 / 1000) r)

/-- A pair seeds the model. -/
def seed (m : Int) (a : Nat) (x : TimeModel) : TimeModel :=
  { x with st := .acquiring, pairs := 1, count := 0, o := a, m0 := m, rho := 0, lastM := m }

/-- A change over `span` units of master time, as a part of the rate. -/
def rateOf (counts : Int) (div span : Int) : Rat :=
  if span = 0 then Config.rhoNoSpan counts else (counts : Rat) / (div * span : Int)

/-- The model after a pair it follows (R320). -/
def follow (m : Int) (r : Int) (x : TimeModel) : TimeModel :=
  { x with
    o := x.o + roundRat ((r : Rat) / 16)
    rho := clampRho (x.rho + rateOf r (256 * 40) (m - x.lastM)), lastM := m, res := r }

/-- The model and the TIME code, if any, after a pair (m, a) (R320). -/
def TimeModel.pair (x : TimeModel) (m : Int) (a : Nat) : TimeModel × Option Nat :=
  let r : Int := a - x.mapped m
  let x' := { x with res := r }
  if x.pairs = 0 then (seed m a x, if x.st = .acquiring then none else some 4)
  else match x.st with
    | .off => (x, none)
    | .acquiring =>
      if x.pairs = 1 then
        ({ x with pairs := 2, rho := rateOf (a - x.o) 40 (m - x.m0) - 1, o := a, m0 := m, lastM := m }, none)
      else if 400 < r.natAbs then (seed m a x', some 4)
      else
        let y := { follow m r x with count := x.count + 1 }
        if 8 ≤ y.count then ({ y with st := .locked }, some 2) else (y, none)
    | .locked => if 4000 < r.natAbs then (seed m a x', some 4) else (follow m r x, none)
    | .lost =>
      if 4000 < r.natAbs then (seed m a x', some 4)
      else ({ follow m r x with st := .locked }, some 2)

/-- REFERENCE_MESSAGE: a time reference is received with its SOF. `own`: the twin sent it. -/
def referenceMessage (k sof : Nat) (own : Bool) (cycle prev prevTime : Nat) (s : State) : State :=
  let x := s.canCtl k
  if !x.live then s
  else
    let s := s.advance sof
    if x.tmRole = 1 then
      if own then s.setCan k { x with refSof := sof, refLast := some (cycle % 65536, sof) }
      else if x.conflict then s
      else
        let s := s.setCan k { x with conflict := true }
        let q := s.canBuf k x.refBuf
        let on := onBus k x.refBuf s
        timeEvent k 5 sof (s.setBuf k x.refBuf { q with pend := none, wire := if on then q.wire else none })
    else if x.tmRole = 2 then
      let none' := prev == 0xFFFF && prevTime == 0xFFFF_FFFF
      let t := x.tm
      let (t1, code) := match t.last with
        | some (c, a) =>
          if c == prev && !none' then t.pair (t.unwrap prevTime a) a else (t, none)
        | none => (t, none)
      let s := s.setCan k { x with
        refSof := sof, tm := { t1 with last := some (cycle % 65536, sof), since := sof } }
      match code with
      | none => s
      | some c =>
        let s := if c = 4 then setFlag k 1 s else s
        timeEvent k c sof s
    else s

/-- TIME_MODEL_LOST: no reference for 3 × REF_DIV ticks. -/
def timeModelLost (k : Nat) (s : State) : State :=
  let x := s.canCtl k
  if x.tmRole = 2 ∧ (x.tm.st = .acquiring ∨ x.tm.st = .locked) then
    let due := x.tm.since + 3 * x.refDiv * tickLen
    s.reach due fun s =>
      let x := s.canCtl k
      timeEvent k 3 due (setFlag k 1 (s.setCan k { x with tm := { x.tm with st := .lost } }))
  else s

/-- A slot is mapped to this buffer. -/
def slotMapped (k b : Nat) (s : State) : Bool :=
  s.can.txMap.any fun e => mapEn e.2 && mapCtrl e.2 == k && mapBuf e.2 == b

/-- CAN_TM_CFG written: a write that R318 or its ranges do not allow is ignored. -/
def canTmCfgWrite (k : Nat) (w : Word) (s : State) : State :=
  let v := w &&& (0xFFFF_03FF : Word)
  let x := s.canCtl k
  let role := bitsOf v 31 30
  let b := bitsOf v 29 23
  let q := s.canBuf k b
  let ok := role != 3 && bitsOf v 9 0 != 0 && decide (bitsOf v 9 0 ≤ 1000) && decide (bitsOf v 22 16 ≤ 99)
    && (role != 1 || (q.tx && q.cyclic && !slotMapped k b s))
  if !ok then s
  else
    let follows := role == 2
    let s := s.setCan k { x with
      tmCfg := v, conflict := false
      tm := { st := if follows then .acquiring else .off, since := s.gts } }
    if follows && x.tm.st != .acquiring then timeEvent k 1 s.gts s else s

/-- The 8 bytes of a reference (R317). -/
def referenceBytes (x : CanCtl) (t : Nat) : List Byte :=
  leBytes 2 (t / max 1 x.refDiv) ++
    match x.refLast with
    | some (c, g) => leBytes 2 c ++ leBytes 4 (g / 40)
    | none => leBytes 2 0xFFFF ++ leBytes 4 0xFFFF_FFFF

/-- REFERENCE_ASSEMBLY: at REF_PHASE of a due tick on a lone module or the lead. A reference whose SOF has not come is
abandoned, and in NORMAL mode a MASTER assembles the next (R318, R321). -/
def referenceAssembly (k : Nat) (sof : Option Nat) (s : State) : State :=
  let x := s.canCtl k
  let t := s.t
  let b := x.refBuf
  if x.en && x.tmRole == 1 && !x.conflict && t % max 1 x.refDiv == 0 && x.refT != some t
      && s.rtl.role != .second then
    let g := boundaryOf t + x.refPhase * phaseLen
    let s := takeBus k sof (s.advance g)
    let q := s.canBuf k b
    let on := onBus k b s
    let unsent := q.pend.isSome || (q.wire.isSome && !on)
    let s := if unsent then canEvent k 5 1 (wordOf (t % 2 ^ 24)) g (setFlag k 2 s) else s
    let s := s.setBuf k b { q with
      wire := if on then q.wire else none, pend := if x.mode = 0 then some (referenceBytes x t) else none, pendAt := g }
    s.setCan k { s.canCtl k with refT := some t }
  else s

/-- The module takes the lead role (R321): a MASTER sends the next reference. -/
def canRoleTaken (s : State) : State :=
  canNumbers.foldl (fun s k =>
    if (s.canCtl k).tmRole = 1 then canEvent k 5 2 (wordOf (s.t % 2 ^ 24)) s.gts s else s) s

/-- Pending frames of buffer `b` are aborted unless on the wire. -/
def abortPending (k b : Nat) (s : State) : State :=
  let q := s.canBuf k b
  if q.pend.isSome || q.wire.isSome then
    s.setBuf k b { q with pend := none, wire := if onBus k b s then q.wire else none }
  else s

/-- The lead role is withdrawn (R321): pending TEAM frames not on the wire are aborted; `wire` names the SOFs of frames
that are. -/
def canRoleWithdrawn (wire : Tab Nat) (s : State) : State :=
  canNumbers.foldl (fun s k =>
    let s := takeBus k (Tab.find wire k) s
    let s := bufNumbers.foldl (fun s b => if (s.canBuf k b).team then abortPending k b s else s) s
    if (s.canCtl k).tmRole = 1 then
      canEvent k 5 3 (wordOf (s.t % 2 ^ 24)) s.gts (abortPending k (s.canCtl k).refBuf s)
    else s) s

/-! ### Ring operations (R324, R325) -/

/-- A map entry with every field in range, within its buffer (R324, R325). -/
def entryFits (tx : Bool) (s : State) (e : List Word) : Bool :=
  !mapEn e ||
    (decide (1 ≤ mapLen e) && decide (mapLen e ≤ 32)
      && (mapBits e).all (fun p => decide (p < 8 * bufCap (mapBuf e)))
      && (s.canBuf (mapCtrl e) (mapBuf e)).tx == tx
      && (!tx || (s.canCtl (mapCtrl e)).tmRole == 0 || (s.canCtl (mapCtrl e)).refBuf != mapBuf e))

/-- No two enabled slots of one buffer share a bit. -/
def slotsDisjoint (m : Tab (List Word)) : Bool :=
  let on := (m.filter fun e => mapEn e.2).map fun e => e.2
  decide (on.Pairwise fun a b =>
    ¬ (mapCtrl a = mapCtrl b ∧ mapBuf a = mapBuf b ∧ ∃ p ∈ mapBits a, p ∈ mapBits b))

/-- The entries of a load: 4 words each. -/
def loadEntries (n : Nat) (bs : List Byte) : List (List Word) :=
  (List.range n).map fun i => leWords 4 (bs.drop (16 * i))

/-- MAP_LOAD and TXMAP_LOAD (R324). -/
def mapLoad (tx : Bool) (c : OpRef) (s : State) : State :=
  needBuffer c s fun s =>
    let first := bitsOf (c.op.word 6) 7 0
    let n := bitsOf (c.op.word 7) 8 0
    if n = 0 ∨ 256 < n ∨ 256 < first + n then failOp c stSchema 0 s
    else if c.op.len ≠ 16 * n then failOp c stLen 0 s
    else readWhole 0x27 c s fun bs s =>
      let es := loadEntries n bs
      let after := es.zipIdx.foldl (fun m e => Tab.put m (first + e.2) e.1) s.can.txMap
      if !es.all (entryFits tx s) || (tx && !slotsDisjoint after) then failOp c stSchema c.op.len s
      else startRead c [s.t + 1] { s with can.loads := s.can.loads ++ [(s.t + 1, tx, first, es)] }

/-- A valid pair of SLOT_WRITE: slot field and value. -/
def slotPair (o : Op) (i : Nat) : Option (Nat × Word) :=
  let w := o.word (6 + 2 * i)
  if bitOf w 31 then some (bitsOf w 30 0, o.word (7 + 2 * i)) else none

/-- The configuration of slot `i`. -/
def State.slotCfg (s : State) (i : Nat) : List Word := Tab.get [] s.can.txMap i

/-- SLOT_WRITE: its valid pairs in one fabric cycle; a slot whose SRC is BCE is not written (R316). -/
def slotWrite (c : OpRef) (s : State) : State :=
  let pairs := (List.range 5).filterMap fun i => (slotPair c.op i).map fun p => (i, p)
  if pairs.any fun p => decide (255 < p.2.1) then failOp c stSchema 0 s
  else
    let ok := pairs.filter fun p => !mapBce (s.slotCfg p.2.1)
    let bad := pairs.filter fun p => mapBce (s.slotCfg p.2.1)
    let s := ok.foldl (fun s p =>
      { s with can.slots := Tab.put s.can.slots p.2.1 (p.2.2, some s.gts) }) s
    finishOp c stOk 0 (wordOf ok.length) (wordOf (bad.foldl (fun m p => m + 2 ^ p.1) 0)) s

/-- A BCE output for slot `i` released at `g`: whether it was refused (R316). -/
def slotBce (i : Nat) (v : Word) (g : Nat) (s : State) : State × Bool :=
  let e := s.slotCfg i
  if mapEn e && mapBce e then ({ s with can.slots := Tab.put s.can.slots i (v, some g) }, false)
  else (s, true)

/-- A payload length the format allows. -/
def lengthFits (xl fdf : Bool) (n : Nat) : Bool :=
  if xl then decide (1 ≤ n) && decide (n ≤ 2048)
  else if fdf then decide (n ≤ 8) || [12, 16, 20, 24, 32, 48, 64].contains n
  else decide (n ≤ 8)

/-- FRAME_TX at its fetch (R324): LATE, then SCHEMA, then the payload. -/
def frameTx (c : OpRef) (s : State) : State :=
  let w := c.op.word 6
  let k := bitsOf w 2 0
  let t := c.op.word64 10
  let xl := bitOf w 8
  let fdf := bitOf w 9
  if t ≠ 0 ∧ t ≤ s.t then failOp c stLate 0 s
  else if !lengthFits xl fdf c.op.len || (xl && !(s.canCtl k).xlEn) || (fdf && !(s.canCtl k).fdEn)
      || bitsOf (c.op.word 12) 15 0 == 0 then
    failOp c stSchema 0 s
  else if c.op.len = 0 then startOp c [startTick s t, 0, 0] s
  else readWhole 0x27 c s fun bs s =>
    startRead c ([startTick s t, 0, 0] ++ bs.map fun b => b.toNat) s

/-- A FRAME_TX whose start boundary has come: BUSY, or into arbitration (R324). -/
def frameTxStart (c : OpRef) (s : State) : State :=
  let t := c.op.aux.getD 0 0
  if c.op.aux.getD 1 0 ≠ 0 ∨ s.t < t then s
  else
    let x := s.canCtl (bitsOf (c.op.word 6) 2 0)
    if x.live && x.mode == 0 then s.setOp c { c.op with aux := c.op.aux.set 1 1 }
    else finishAt (boundaryOf t) c stBusy 0 0 0 s

/-- FRAME_TX_TIMEOUT: not sent within TMO ticks, withdrawn at a bus idle. -/
def frameTxTimeout (k : Nat) (s : State) : State :=
  match s.frameTxOp k with
  | none => s
  | some c =>
    let due := boundaryOf (c.op.aux.getD 0 0 + bitsOf (c.op.word 12) 15 0)
    if (s.canCtl k).bus.any fun e => e.1 == .frameTx then s
    else s.reach due fun s => canEvent k 3 3 0 s.gts (failOp c stTimeout 0 s)

/-- RX_BUF: a pool buffer (R324). -/
def rxBuf (c : OpRef) (s : State) : State :=
  if c.op.len < 2080 then failOp c stLen 0 s else startOp c [] s

/-! ### The tick -/

/-- A load whose operation still runs and whose boundary has come applies whole, and completes (R324). -/
def applyLoads (s : State) : State :=
  let due := s.can.loads.filter fun l => decide (l.1 ≤ s.t)
  let s := { s with can.loads := s.can.loads.filter fun l => decide (s.t < l.1) }
  match s.opOf 9 0 (fun o => o.stage == .started && (o.opcode == 1 || o.opcode == 2)) with
  | none => s
  | some c =>
    let t := c.op.aux.getD 0 0
    match due.find? fun l => l.1 == t with
    | none => s
    | some l =>
      let put (m : Tab (List Word)) : Tab (List Word) :=
        l.2.2.2.zipIdx.foldl (fun m e => Tab.put m (l.2.2.1 + e.2) e.1) m
      let s := if l.2.1 then { s with can.txMap := put s.can.txMap } else { s with can.rxMap := put s.can.rxMap }
      finishAt (boundaryOf t) c stOk c.op.len (wordOf t) 0 s

/-- The RX_LOST and PROT events of the tick just ended (R327). -/
def canReports (k : Nat) (s : State) : State :=
  let x := s.canCtl k
  let s := s.setCan k { x with lost := [], prot := [] }
  let s := x.lost.foldl (fun s e => canEvent k 2 e.1 (wordOf (e.2.2.2 * 65536 + e.2.2.1)) e.2.1 s) s
  x.prot.foldl (fun s e => canEvent k 6 e.1 (wordOf (e.2.2.2 * 65536 + e.2.2.1)) e.2.1 s) s

/-- The tick work of CAN. -/
def canTick (s : State) : State :=
  let s := canNumbers.foldl (fun s k => canReports k s) s
  let s := applyLoads s
  (s.opsOf 9 1 (isStarted 0x20)).foldl (fun s c => frameTxStart c s) s

/-- PD10 off, or a time base start: every controller is OFF, everything at reset (R309). -/
def canReset (s : State) : State := { s with can := {} }

/-! ### Registers (R326) -/

/-- A mask word over 32 buffers. -/
def bufMask (x : CanCtl) (word : Nat) (p : CanBuf → Bool) : Word :=
  wordOf (((List.range 32).filter fun i => p (Tab.get {} x.bufs (32 * word + i))).foldl (fun m i => m + 2 ^ i) 0)

/-- BUF_STAT. -/
def CanBuf.stat (q : CanBuf) : Word :=
  wordOf (oneIf q.ndat * 2 ^ 31 + oneIf (q.pend.isSome || q.wire.isSome) * 2 ^ 30 + oneIf q.ovr * 2 ^ 29
    + oneIf q.late * 2 ^ 28 + oneIf q.na * 2 ^ 27 + q.seq * 65536 + q.len)

/-- CAN_TM_STATE. -/
def tmState (x : TimeModel) : Word := wordOf (x.st.code * 2 ^ 30 + satTo x.count 15)

/-- CAN_TM_RATE: ρ in 0.001 ppm. -/
def tmRate (x : TimeModel) : Word := wordOfInt (roundRat (x.rho * 1000000000))

/-- The word a shadow holds for this initiator, once, or the live one (R17, R320). -/
def shadowed (a : Access) (addr : Nat) (live : Word) (s : State) : Word × State :=
  match Tab.find s.shadows (shadowKey a addr) with
  | some w => (w, { s with shadows := Tab.del s.shadows (shadowKey a addr) })
  | none => (live, s)

/-- A 64-bit word of a count that may be negative. -/
def word64OfInt (i : Int) : BitVec 64 := BitVec.ofInt 64 i

/-- A read of buffer `b`'s header. -/
def bufRead (a : Access) (base : Nat) (q : CanBuf) (w : Nat) (s : State) : Word × State :=
  match w with
  | 0 => (q.cfg, s)
  | 1 => (q.id, s)
  | 2 => (q.mask, s)
  | 3 => (q.stat, s)
  | 4 => (wordOf q.gts, s.latch a (base + 20) (wordOf (q.gts / 2 ^ 32)))
  | 5 => shadowed a (base + 20) (wordOf (q.gts / 2 ^ 32)) s
  | 6 => (wordOf q.cnt, s)
  | _ => (0, s)

/-- A read of controller `k`, at offset `o` of its own base. -/
def canRead1 (a : Access) (k o : Nat) (s : State) : Word × State :=
  let x := s.canCtl k
  let base := 0x0809_0000 + 0x2000 * k
  let t := x.tm
  if o = 0x00 then (x.ctl, s)
  else if o = 0x04 then (wordOf (x.state.code * 2 ^ 28 + x.mode * 2 ^ 26 + s.rtl.role.code * 2 ^ 24), s)
  else if o = 0x08 then (x.nbt, s)
  else if o = 0x0C then (x.dbt, s)
  else if o = 0x10 then (wordOf x.errc, s)
  else if o = 0x14 then (x.flags, s)
  else if 0x18 ≤ o ∧ o < 0x28 then
    let i := (o - 0x18) / 4
    (wordOf (Tab.get 0 x.fcnt (2 * i + 1) * 65536 + Tab.get 0 x.fcnt (2 * i)), s)
  else if o = 0x28 then (rclRead x.protCnt, s.setCan k { x with protCnt := 0 })
  else if o = 0x2C then (x.fifoId, s)
  else if o = 0x30 then (x.fifoMask, s)
  else if o = 0x40 then (x.tmCfg, s)
  else if o = 0x44 then shadowed a (base + 0x44) (tmState t) s
  else if o = 0x48 then
    (lo32 (word64OfInt t.o),
      ((((s.latch a (base + 0x4C) (hi32 (word64OfInt t.o))).latch a (base + 0x50) (lo32 (word64OfInt t.m0))).latch
        a (base + 0x54) (hi32 (word64OfInt t.m0))).latch a (base + 0x58) (tmRate t)).latch a (base + 0x44)
          (tmState t))
  else if o = 0x4C then shadowed a (base + 0x4C) (hi32 (word64OfInt t.o)) s
  else if o = 0x50 then shadowed a (base + 0x50) (lo32 (word64OfInt t.m0)) s
  else if o = 0x54 then shadowed a (base + 0x54) (hi32 (word64OfInt t.m0)) s
  else if o = 0x58 then shadowed a (base + 0x58) (tmRate t) s
  else if o = 0x5C then (wordOfInt (sat32 t.res), s)
  else if o = 0x60 then (wordOf x.refSof, s.latch a (base + 0x64) (wordOf (x.refSof / 2 ^ 32)))
  else if o = 0x64 then shadowed a (base + 0x64) (wordOf (x.refSof / 2 ^ 32)) s
  else if 0x70 ≤ o ∧ o < 0x80 then
    (bufMask x ((o - 0x70) / 4) fun q => !q.cyclic && (q.pend.isSome || q.wire.isSome), s)
  else if 0x80 ≤ o ∧ o < 0x90 then (bufMask x ((o - 0x80) / 4) fun q => q.abort, s)
  else if 0x90 ≤ o ∧ o < 0xA0 then (bufMask x ((o - 0x90) / 4) fun q => q.ndat, s)
  else if 0x400 ≤ o ∧ o < 0x1400 then
    let b := (o - 0x400) / 0x20
    bufRead a (base + 0x400 + 0x20 * b) (s.canBuf k b) ((o - 0x400) % 0x20 / 4) s
  else if 0x1400 ≤ o ∧ o < 0x1C00 then
    (Tab.get 0 (s.canBuf k ((o - 0x1400) / 0x40)).data ((o - 0x1400) % 0x40 / 4), s)
  else if 0x1C00 ≤ o ∧ o < 0x1F00 then
    (Tab.get 0 (s.canBuf k (32 + (o - 0x1C00) / 8)).data ((o - 0x1C00) % 8 / 4), s)
  else (0, s)

/-- CAN_NBT or CAN_DBT in range (R326). -/
def timingOk (data : Bool) (v : Word) : Bool :=
  let brp := bitsOf v 31 24
  let t1 := bitsOf v 23 16
  let t2 := bitsOf v 15 8
  let sjw := bitsOf v 7 0
  decide (1 ≤ brp) && decide (brp ≤ 32) && decide (1 ≤ sjw) && decide (sjw ≤ t2) && decide (1 ≤ t2) &&
    (if data then decide (1 ≤ t1) && decide (t1 ≤ 31) && decide (t2 ≤ 15) else decide (2 ≤ t1) && decide (t2 ≤ 127))

/-- A write to buffer `b`'s header. Words 0 to 2 only while EN is 0; clearing NDAT clears OVR with it. -/
def bufWrite (k b w : Nat) (v : Word) (s : State) : State :=
  let q := s.canBuf k b
  if s.reserved k b then s
  else match w with
  | 0 => if q.en then s else s.setBuf k b { q with cfg := v &&& (0xFE7F_007F : Word) }
  | 1 => if q.en then s else s.setBuf k b { q with id := v &&& (0x1FFF_FFFF : Word) }
  | 2 => if q.en then s else s.setBuf k b { q with mask := v &&& (0x1FFF_FFFF : Word) }
  | 3 => if bitOf v 31 then s.setBuf k b { q with ndat := false, ovr := false } else s
  | _ => s

/-- A write to controller `k`. -/
def canWrite1 (k o : Nat) (v : Word) (s : State) : State :=
  let x := s.canCtl k
  let put (b i : Nat) : State :=
    let q := s.canBuf k b
    if s.reserved k b then s else s.setBuf k b { q with data := Tab.put q.data i v }
  if o = 0x00 then canCtlWrite k v false s
  else if o = 0x08 then if !x.en && timingOk false v then s.setCan k { x with nbt := v } else s
  else if o = 0x0C then if !x.en && timingOk true v then s.setCan k { x with dbt := v } else s
  else if o = 0x14 then s.setCan k { x with flags := w1c x.flags v }
  else if o = 0x2C then s.setCan k { x with fifoId := v &&& (0x1FFF_FFFF : Word) }
  else if o = 0x30 then s.setCan k { x with fifoMask := v &&& (0x1FFF_FFFF : Word) }
  else if o = 0x40 then canTmCfgWrite k v s
  else if 0x70 ≤ o ∧ o < 0x80 then canTxreq k ((o - 0x70) / 4) v s
  else if 0x80 ≤ o ∧ o < 0x90 then canTxabt k ((o - 0x80) / 4) v none s
  else if 0x400 ≤ o ∧ o < 0x1400 then bufWrite k ((o - 0x400) / 0x20) ((o - 0x400) % 0x20 / 4) v s
  else if 0x1400 ≤ o ∧ o < 0x1C00 then put ((o - 0x1400) / 0x40) ((o - 0x1400) % 0x40 / 4)
  else if 0x1C00 ≤ o ∧ o < 0x1F00 then put (32 + (o - 0x1C00) / 8) ((o - 0x1C00) % 8 / 4)
  else s

/-- A read of the CAN window. -/
def canRead (a : Access) (off : Nat) (s : State) : Word × State :=
  canRead1 a (off / 0x2000 % 8) (off % 0x2000) s

/-- A write to the CAN window. -/
def canWrite (off : Nat) (v : Word) (s : State) : State :=
  canWrite1 (off / 0x2000 % 8) (off % 0x2000) v s

/-! ### Commands -/

/-- CAN_ENABLE: CAN_CTL written. -/
def execCanEnable (a : Access) (k : Fin 8) (v : Word) (s : State) : Out :=
  .next (gateWrite a 9 10 s (canCtlWrite k.val v false))

/-- CAN_MODE_CHANGE: CAN_CTL written, with the bus idle or not. -/
def execCanModeChange (a : Access) (k : Fin 8) (v : Word) (idle : Bool) (s : State) : Out :=
  .next (gateWrite a 9 10 s (canCtlWrite k.val v idle))

/-- REC_GO: CAN_CTL written with REC_GO. -/
def execRecGo (a : Access) (k : Fin 8) (v : Word) (s : State) : Out :=
  .next (gateWrite a 9 10 s (canCtlWrite k.val (setBit v 23 true) false))

/-- CAN_INTEGRATED. -/
def execCanIntegrated (k : Fin 8) (s : State) : Out := .next (canIntegrated k.val s)

/-- BUS_OFF_RECOVERED. -/
def execBusOffRecovered (k : Fin 8) (s : State) : Out := .next (busOffRecovered k.val s)

/-- CAN_PROTOCOL_ERROR. -/
def execCanProtocolError (k : Fin 8) (e : CanError) (tec rec' : Nat) (sof : Option Nat) (s : State) : Out :=
  .next (canProtocolError k.val e tec rec' sof s)

/-- CAN_FRAME_RECEIVE. -/
def execCanFrameReceive (k : Fin 8) (f : CanFrame) (s : State) : Out := .next (canFrameReceive k.val f s)

/-- REFERENCE_MESSAGE. -/
def execReferenceMessage (k : Fin 8) (sof : Nat) (own : Bool) (cycle prev prevTime : Nat) (s : State) : Out :=
  .next (referenceMessage k.val sof own cycle prev prevTime s)

/-- CAN_TXREQ. -/
def execCanTxreq (a : Access) (k : Fin 8) (word : Fin 4) (v : Word) (s : State) : Out :=
  .next (gateWrite a 9 10 s (canTxreq k.val word.val v))

/-- CAN_TXABT. -/
def execCanTxabt (a : Access) (k : Fin 8) (word : Fin 4) (v : Word) (sof : Option Nat) (s : State) : Out :=
  .next (gateWrite a 9 10 s (canTxabt k.val word.val v sof))

/-- CAN_CYCLIC_ASSEMBLY. -/
def execCanCyclicAssembly (k : Fin 8) (b : Fin 128) (sof : Option Nat) (s : State) : Out :=
  .next (canCyclicAssembly k.val b.val sof s)

/-- CAN_FRAME_SENT. -/
def execCanFrameSent (k : Fin 8) (sof : Nat) (s : State) : Out := .next (canFrameSent k.val sof s)

/-- CAN_ARBITRATION_LOST. -/
def execCanArbitrationLost (k : Fin 8) (sof : Nat) (s : State) : Out := .next (canArbitrationLost k.val sof s)

/-- REFERENCE_ASSEMBLY. -/
def execReferenceAssembly (k : Fin 8) (sof : Option Nat) (s : State) : Out :=
  .next (referenceAssembly k.val sof s)

/-- TIME_MODEL_LOST. -/
def execTimeModelLost (k : Fin 8) (s : State) : Out := .next (timeModelLost k.val s)

/-- CAN_TM_CFG_WRITE. -/
def execCanTmCfgWrite (a : Access) (k : Fin 8) (v : Word) (s : State) : Out :=
  .next (gateWrite a 9 10 s (canTmCfgWrite k.val v))

/-- MAP_LOAD. -/
def execMapLoad (n : Fin 32) (s : State) : Out := .next (takeOp 9 0 1 .serial n.val (mapLoad false) s)

/-- TXMAP_LOAD. -/
def execTxmapLoad (n : Fin 32) (s : State) : Out := .next (takeOp 9 0 2 .serial n.val (mapLoad true) s)

/-- SLOT_WRITE. -/
def execSlotWrite (n : Fin 32) (s : State) : Out := .next (takeOp 9 0 0x10 .serial n.val slotWrite s)

/-- FRAME_TX. -/
def execFrameTx (n : Fin 32) (s : State) : Out := .next (takeOp 9 1 0x20 .perController n.val frameTx s)

/-- FRAME_TX_TIMEOUT. -/
def execFrameTxTimeout (k : Fin 8) (s : State) : Out := .next (frameTxTimeout k.val s)

/-- RX_BUF. -/
def execRxBuf (n : Fin 32) (s : State) : Out := .next (takeOp 9 2 0x30 .parallel n.val rxBuf s)

end Sys2Proof.Machine
end

