-- ==== Sys2Proof/Machine/Load.lean ====
section
/-!
DEFINITION. A load channel: its duty, its periods, its states (spec/06_load_switch_channels.md, R148 to
R158, R162, R473). What the commands do with channels is in `LoadOps`.
-/

namespace Sys2Proof.Machine

/-! ### Channels and banks (R148) -/

/-- Types of channels. -/
inductive ChKind where
  | lamp | valve | motor | heater
deriving DecidableEq, Repr

/-- The type of channel `n`. -/
def chKind (n : Nat) : ChKind :=
  if n < 20 then .lamp else if n < 36 then .valve else if n < 42 then .motor else .heater

/-- The bank of channel `n`. -/
def chBank (n : Nat) : Bank :=
  if n < 10 ∨ (20 ≤ n ∧ n < 28) ∨ (36 ≤ n ∧ n < 39) ∨ (42 ≤ n ∧ n < 45) then .a else .b

/-- The domain of a bank (R149). -/
def bankDomain : Bank → Nat
  | .a => 8 | .b => 9

/-- Channels 0 to 47. -/
def chNumbers : List Nat := List.range 48

/-- The channel has a PWM. -/
def hasPwm (n : Nat) : Bool := chKind n == .lamp || chKind n == .valve

/-- Channel `n`. -/
def State.ch (s : State) (n : Nat) : Ch := Tab.get {} s.lsw.ch n

/-- Channel `n` replaced. -/
def State.setCh (s : State) (n : Nat) (x : Ch) : State := { s with lsw.ch := Tab.put s.lsw.ch n x }

/-- A bank. -/
def State.bank (s : State) (bk : Bank) : LoadBank :=
  match bk with
  | .a => s.lsw.bankA
  | .b => s.lsw.bankB

/-- A bank replaced. -/
def State.setBank (s : State) (bk : Bank) (x : LoadBank) : State :=
  match bk with
  | .a => { s with lsw.bankA := x }
  | .b => { s with lsw.bankB := x }

/-- The domain of channel `n` is on. -/
def State.chOn (s : State) (n : Nat) : Bool := s.pdOn (bankDomain (chBank n))

/-! ### Configuration fields -/

def Ch.bce (x : Ch) : Bool := bitOf x.cfg 31
def Ch.gang (x : Ch) : Bool := bitOf x.cfg 30
def Ch.comp (x : Ch) : Nat := bitsOf x.cfg 29 28
def Ch.latchMode (x : Ch) : Bool := bitOf x.cfg 27
def Ch.olOffEn (x : Ch) : Bool := bitOf x.cfg 26
def Ch.tries (x : Ch) : Nat := bitsOf x.cfg 23 20
def Ch.vref (x : Ch) : Nat := bitsOf x.cfg 15 0
def Ch.bceTmo (x : Ch) : Nat := bitsOf x.time 31 24
def Ch.retry (x : Ch) : Nat := bitsOf x.time 23 16
def Ch.inrush (x : Ch) : Nat := bitsOf x.time 7 0
def Ch.khz (x : Ch) : Nat := bitsOf x.pwm 31 27

/-- CRC-32 of the five configuration registers (R165). -/
def Ch.crc (x : Ch) : Word := crcWords [x.cfg, x.time, x.pwm, x.dither, x.olth]

/-! ### Periods and duty (R154 to R157) -/

/-- The PWM period P in GTS counts. -/
def pwmPeriod (n : Nat) (x : Ch) : Nat := if chKind n = .lamp then 2000000 else 400000 / max 1 x.khz

/-- The offset of the period starts. -/
def pwmOffset (n : Nat) (x : Ch) : Nat :=
  if chKind n = .lamp then bitsOf x.pwm 8 0 * 4000 else bitsOf x.pwm 23 16 * 1000

/-- The last period start at or before `g`. -/
def periodAt (n : Nat) (x : Ch) (g : Nat) : Option Nat :=
  let o := pwmOffset n x
  if g < o then none else some ((g - o) / pwmPeriod n x * pwmPeriod n x + o)

/-- The first period start at or after `g`. -/
def periodFrom (n : Nat) (x : Ch) (g : Nat) : Nat :=
  let o := pwmOffset n x
  let p := pwmPeriod n x
  (g - o + p - 1) / p * p + o

/-- The counts a period of length `p` conducts at applied duty `d`. -/
def spanOf (d p : Nat) : Nat := nearDiv (d * p) 65535

/-- K as one, with its fractional bits (R155). -/
def kOne : Nat := 2 ^ (16 + Config.kBits)

/-- K computed live from the bank feed mean of the last tick (R155); none: exactly 1. -/
def liveK (n : Nat) (x : Ch) (feed : Nat) : Option Nat :=
  if chKind n ≠ .lamp then none
  else match x.comp with
    | 1 => some (if feed = 0 then Config.kNoFeed n else openDiv (x.vref * kOne) feed)
    | 2 => some (if feed = 0 then Config.kNoFeed n else openDiv (x.vref ^ 2 * kOne) (feed ^ 2))
    | _ => none

/-- The commanded duty compensated: min(65535, round(D × K)) (R155). -/
def compensate (d : Nat) (k : Option Nat) : Nat :=
  match k with
  | none => min 65535 d
  | some k => min 65535 (nearDiv (d * k) kOne)

/-- The dither in force at `g` (R157). -/
def ditherAt (n : Nat) (x : Ch) (g : Nat) : Int :=
  let dper := bitsOf x.dither 31 24
  let damp : Int := bitsOf x.dither 12 0
  if chKind n ≠ .valve ∨ dper = 0 then 0
  else if g / slotLen % dper < dper / 2 then damp else -damp

/-- The duty a period that starts at `p` takes, with this K; 0 while BCE_LATE is set (R153). -/
def dutyAt (n : Nat) (x : Ch) (p : Nat) (k : Option Nat) : Nat :=
  if x.bceLate then 0 else (clampInt 0 65535 (compensate x.cmd k + ditherAt n x p)).toNat

/-- The inrush window is open at `g` (R156). -/
def Ch.winOpen (x : Ch) (g : Nat) : Bool :=
  match x.win with
  | some w => decide (g < w + x.inrush * tickLen)
  | none => false

/-- What a channel sees of its bank: the feed mean, and whether crank-hold freezes K (R172). -/
structure FeedView where
  mean : Nat
  held : Bool
deriving DecidableEq, Repr

/-- The view of channel `n`. -/
def State.feedView (s : State) (n : Nat) : FeedView :=
  let b := s.bank (chBank n)
  { mean := b.feedMean, held := b.hold.isSome }

/-- K in force at `g`: frozen in the window, before a window that takes a replica's, and in crank-hold; live otherwise.
-/
def kAt (n : Nat) (x : Ch) (v : FeedView) (g : Nat) : Option Nat :=
  if x.winOpen g || v.held || x.kHeld then x.k else liveK n x v.mean

/-- First conduction at `g` after an entry to ON opens a lamp's window (R156). -/
def openWindow (n : Nat) (x : Ch) (g : Nat) : Ch :=
  if x.winDue then
    if chKind n = .lamp ∧ 0 < x.inrush then
      { x with winDue := false, kHeld := false, win := some g, winEnd := g + x.inrush * tickLen }
    else { x with winDue := false, kHeld := false, win := none }
  else x

/-- A PWM period that starts at `p` in ON takes its duty. -/
def takePeriod (n : Nat) (x : Ch) (v : FeedView) (p : Nat) : Ch :=
  let k := kAt n x v p
  let d := dutyAt n x p k
  let x := { x with k := k, applied := d, period := p }
  if 0 < d then openWindow n x p else x

/-! ### State changes (R151, R152) -/

/-- OPEN_LOAD, and any other event of channel `n` (R178). -/
def chEvent (n code data g : Nat) (s : State) : State := raiseAt g (256 + n) code data s

/-- A channel that leaves OFF loses OL_OFF, which is a change of that flag (R163). -/
def leaveOff (n g : Nat) (s : State) : State :=
  let x := s.ch n
  let s := s.setCh n { x with olOff := false, offAbove := 0, offBelow := 0 }
  if x.st = .off ∧ x.olOff then chEvent n 5 1 g s else s

/-- Entry to ON at `g`, inside a PWM period where the channel has one (R473). `k` is a K taken over
from a replica (R167); `soft`: a motor soft-starts (R158). -/
def enterOn (n g : Nat) (k : Option (Option Nat)) (soft : Bool) (s : State) : State :=
  let s := leaveOff n g s
  let x := { s.ch n with
    st := .on, onSince := g, win := none, winDue := true, winEnd := 0, wait := none, limit := false
    kHeld := k.isSome && chKind n == .lamp
    onBelow := 0, onAbove := 0, soft := if soft && chKind n == .motor then some g else none }
  if hasPwm n then
    let v := s.feedView n
    let kNow := k.getD (liveK n x v.mean)
    let p := (periodAt n x g).getD g
    let d := dutyAt n x p kNow
    let x := { x with k := kNow, applied := d, period := p }
    let conducts := (periodAt n x g).isSome && decide (g < p + spanOf d (pwmPeriod n x))
    s.setCh n (if conducts then openWindow n x g else x)
  else s.setCh n { x with cmd := 65535, applied := 65535, winDue := false }

/-- Up to `g`, the period starts of channel `n` are taken: the first since the last one taken, and the
latest. Between two commands nothing they depend on changes. -/
def chAdvance (n g : Nat) (s : State) : State :=
  let x := s.ch n
  if x.st = .on ∧ hasPwm n then
    let v := s.feedView n
    match periodAt n x g with
    | none => s
    | some p =>
      let first := periodFrom n x (x.period + 1)
      if first ≤ p then
        let x := takePeriod n x v first
        s.setCh n (if first < p then takePeriod n x v p else x)
      else if p = g ∧ x.period = g then s.setCh n (takePeriod n x v p)
      else s
  else if x.st = .feedLow then
    match x.wait with
    | some w =>
      let p := periodFrom n x w
      if hasPwm n && decide (p ≤ g) then enterOn n p none true s else s
    | none => s
  else s

/-- Every channel brought up to `g`. -/
def lswAdvance (g : Nat) (s : State) : State := chNumbers.foldl (fun s n => chAdvance n g s) s

/-- Channel `n` stops conducting, in this state. -/
def stopCh (n : Nat) (st : ChState) (s : State) : State :=
  let x := s.ch n
  s.setCh n { x with
    st := st, applied := 0, onEnd := if x.st = .on then s.gts else x.onEnd, kHeld := false, win := none
    winDue := false, wait := none, soft := none, limit := false }

/-- OFF takes effect: restart count 0 (R152, R162). -/
def chOff (n : Nat) (s : State) : State :=
  let s := stopCh n .off s
  let x := s.ch n
  s.setCh n { x with count := 0, cmd := if hasPwm n then x.cmd else 0 }

/-- The output conducts at `g`, as the state stands. -/
def Ch.conducts (n : Nat) (x : Ch) (g : Nat) : Bool :=
  x.st == .on &&
    (!hasPwm n || (decide (x.period ≤ g) && decide (g < x.period + spanOf x.applied (pwmPeriod n x))))

/-- The part of the feed a soft-starting motor puts out at `g`, in 65,535ths (R158). -/
def motorPart (x : Ch) (g : Nat) : Nat :=
  match x.soft with
  | some f => satTo ((g - f) * 65535 / (max 1 (bitsOf x.time 15 8) * 10 * tickLen)) 65535
  | none => x.applied

/-! ### Duty from the BCE (R153) -/

/-- How a channel answers a BCE duty write. -/
inductive DutyEnd where
  | taken | off | refused
deriving DecidableEq, Repr

/-- A BCE duty released at `g` to channel `n`. -/
def bceDuty (n duty g : Nat) (s : State) : State × DutyEnd :=
  if !s.chOn n then (s, .off)
  else
    let s := chAdvance n (g - 1) s
    let x := s.ch n
    if !x.bce || x.st != .on then (s, .refused)
    else
      let s := s.setCh n { x with cmd := duty % 65536, bceAt := g, bceLate := false }
      let s := if x.bceLate then chEvent n 10 0 g s else s
      (chAdvance n g s, .taken)

/-- BCE_TIMEOUT: the channel has had no BCE duty for BCE_TMO × 10 ticks in ON (R153). -/
def bceTimeout (n : Nat) (s : State) : State :=
  let x := s.ch n
  if x.st = .on ∧ x.bce ∧ x.bceTmo ≠ 0 ∧ ¬ x.bceLate then
    let due := max x.bceAt x.onSince + x.bceTmo * 10 * tickLen
    s.reach due fun s =>
      let s := chAdvance n (due - 1) s
      let s := s.setCh n { s.ch n with bceLate := true }
      chAdvance n s.gts (chEvent n 10 (2 ^ 31) due s)
  else s

end Sys2Proof.Machine
end

