-- ==== Sys2Proof/Machine/LoadOps.lean ====
section
/-!
DEFINITION. The commands of the load switches: trips and restarts, CH_SET and profiles, CH_CLEAR and
CH_READ, ganging, feed events, the fixed-rope path, registers (spec/06_load_switch_channels.md).
-/

namespace Sys2Proof.Machine

/-! ### Trips and restarts (R160 to R164) -/

/-- The off-state open-load threshold and V_SC of this variant, mV (R150). -/
def openLoadLevel : Nat := if Config.is24V then 6000 else 3000
def shortLevel : Nat := if Config.is24V then 4000 else 2000

/-- The current limit of channel `n` in mA, inside its inrush window or outside (R150). -/
def limitOf (n : Nat) (window : Bool) : Nat :=
  let beyond := Config.limitOver n window
  match chKind n, window with
  | .lamp, true => 70000 + beyond % 20001
  | .lamp, false => 12000 + beyond % 4001
  | .valve, _ => 6000 + beyond % 2501
  | .motor, _ => 30000 + beyond % 10001
  | .heater, _ => 16000 + beyond % 5001

/-- A trip of channel `n` at `g`. `cause` 1 short, 2 thermal; with `both` each is counted (R164). -/
def trip (n g cause data : Nat) (both : Bool) (s : State) : State :=
  let s := chAdvance n g (s.advance g)
  let x := s.ch n
  let byCount := !x.latchMode && decide (x.tries ≤ x.count)
  let latches := x.latchMode || byCount
  let s := stopCh n (if latches then .latched else .cool) s
  let s := s.setCh n { s.ch n with
    cause := cause, tripBy := cause, tripAt := g
    shortTrips := if cause = 1 ∨ both then countUp x.shortTrips 0xFFFF else x.shortTrips
    thermTrips := if cause = 2 ∨ both then countUp x.thermTrips 0xFFFF else x.thermTrips }
  let b := chBank n
  let s := s.setBank b { s.bank b with fault := (s.bank b).fault ||| BitVec.ofNat 64 (2 ^ n) }
  let s := chEvent n cause (x.count * 65536 + data % 65536) g s
  if latches then chEvent n 4 (oneIf byCount * 256 + cause) g s else s

/-- SHORT_TRIP: the limit is engaged; below V_SC the output is shorted, else the channel is overloaded and keeps
limiting (R160). -/
def shortTrip (n g mV : Nat) (thermalToo : Bool) (s : State) : State :=
  if (s.ch n).st = .on && s.within g then
    if mV < shortLevel then trip n g 1 mV thermalToo s
    else
      let s := chAdvance n g (s.advance g)
      s.setCh n { s.ch n with limit := true }
  else s

/-- THERMAL_TRIP: the junction crosses its trip point. -/
def thermalTrip (n g : Nat) (tj : Int) (s : State) : State :=
  if (s.ch n).st = .on && s.within g then trip n g 2 (tj % 65536).toNat false s else s

/-- RESTART: due at the start of the first phase at which both conditions of R162 hold. `cooled` says
that the cooling time has passed where it is asked for and that the junction has come to the hysteresis. -/
def restart (n : Nat) (cooled : Bool) (s : State) : State :=
  let x := s.ch n
  if x.st = .cool ∧ cooled then
    let after := if x.tripBy = 1 then x.tripAt + x.retry * 10 * tickLen else x.tripAt
    let due := phaseCeil (max after s.gts)
    s.reach due fun s =>
      let s := s.setCh n { s.ch n with count := x.count + 1 }
      let s := if (s.bank (chBank n)).low then stopCh n .feedLow s else enterOn n due none true s
      chEvent n 3 ((x.count + 1) * 65536) due s
  else s

/-- RESTART_COUNT_RESET: 60,000 ticks in ON without a trip (R162). -/
def restartCountReset (n : Nat) (s : State) : State :=
  let x := s.ch n
  if x.st = .on then s.reach (x.onSince + 60000 * tickLen) fun s => s.setCh n { s.ch n with count := 0 }
  else s

/-- INRUSH_WINDOW_END: the window closes exactly INRUSH ticks after it opened (R156). -/
def inrushWindowEnd (n : Nat) (s : State) : State :=
  match (s.ch n).win with
  | none => s
  | some w =>
    s.reach (w + (s.ch n).inrush * tickLen) fun s =>
      let s := chAdvance n s.gts s
      s.setCh n { s.ch n with win := none }

/-! ### Open load and gang mismatch at the tick (R163, R168) -/

/-- A run of ticks counted up to 20. -/
def runUp (n : Nat) : Nat := satTo (n + 1) 20

/-- The on-state test of the tick that ended at `b` (R163). -/
def onTest (b : Nat) (m : ChanTick) (x : Ch) : Ch :=
  let follows := !x.winDue && decide (x.winEnd ≤ b - tickLen)
  let olth := bitsOf x.olth 15 0
  if x.st = .on ∧ follows ∧ olth ≠ 0 ∧ 40000 ≤ m.cond then
    if m.mean < olth then { x with onBelow := runUp x.onBelow, onAbove := 0 }
    else { x with onBelow := 0, onAbove := runUp x.onAbove }
  else x

/-- The off-state test of the tick (R163). -/
def offTest (m : ChanTick) (x : Ch) : Ch :=
  if x.st = .off ∧ x.olOffEn then
    { x with
      offAbove := if openLoadLevel < m.vout then runUp x.offAbove else 0
      offBelow := if m.vout < openLoadLevel then runUp x.offBelow else 0 }
  else x

/-- The output of a STANDBY channel disagrees with its replica (R168). -/
def gangDiffers (m : ChanTick) (r : ChanReplica) : Bool :=
  (r.state == ChState.on.code && r.duty == 65535 && decide (m.vout < shortLevel)) ||
  (r.state == ChState.off.code && decide (openLoadLevel < m.vout))

/-- The gang test of the tick (R168). -/
def gangTest (m : ChanTick) (x : Ch) : Ch :=
  match x.st, x.repl with
  | .standby, some r =>
    let d := gangDiffers m r
    { x with gangNow := d, gangOutOk := if d then 0 else satTo (x.gangOutOk + 1) 5 }
  | _, _ => { x with gangNow := false }

/-- OPEN_LOAD: a count has come to 20 (R163). -/
def openLoad (n : Nat) (onState : Bool) (s : State) : State :=
  let x := s.ch n
  let b := boundaryOf s.t
  let bk := chBank n
  let entered (s : State) : State :=
    chEvent n 5 (2 ^ 31 + oneIf (!onState)) b
      (s.setBank bk { s.bank bk with fault := (s.bank bk).fault ||| BitVec.ofNat 64 (2 ^ n) })
  if onState then
    if !x.olOn && x.onBelow == 20 then entered (s.setCh n { x with olOn := true })
    else if x.olOn && x.onAbove == 20 then chEvent n 5 0 b (s.setCh n { x with olOn := false })
    else s
  else
    if !x.olOff && x.offAbove == 20 then entered (s.setCh n { x with olOff := true })
    else if x.olOff && x.offBelow == 20 then chEvent n 5 1 b (s.setCh n { x with olOff := false })
    else s

/-- GANG_MISMATCH: the output differs, or 5 ticks in a row have matched (R168); the configuration CRC
likewise (R165). -/
def gangMismatch (n : Nat) (s : State) : State :=
  let b := boundaryOf s.t
  let x := s.ch n
  let s :=
    if !x.gangOut && x.gangNow then
      chEvent n 9 (2 ^ 31 + 1) b (s.setCh n { x with gangOut := true, gangOutOk := 0 })
    else if x.gangOut && x.gangOutOk == 5 then chEvent n 9 1 b (s.setCh n { x with gangOut := false })
    else s
  let x := s.ch n
  if x.gangCrc && x.gangCrcOk == 5 then chEvent n 9 2 b (s.setCh n { x with gangCrc := false }) else s

/-! ### Tick and slot work (R159) -/

/-- The tick's measurements of one channel. -/
def chTick (b : Nat) (m : Option ChanTick) (n : Nat) (s : State) : State :=
  if !s.chOn n then s
  else
    let s := match m with
      | none => s
      | some m =>
        let x := { s.ch n with tj := m.tj, limit := m.limit && (s.ch n).st == .on }
        s.setCh n (gangTest m (offTest m (onTest b m x)))
    publishLate (b + 400) (0x0B0 + n) (wordOfInt (s.ch n).tj) b s

/-- The feed figures of the last tick reach a bank whose domain is on. -/
def bankTick (bk : Bank) (feed : Nat × Nat) (cur : Nat) (s : State) : State :=
  if s.pdOn (bankDomain bk) then
    s.setBank bk { s.bank bk with
      feedMin := satTo feed.1 0xFFFF, feedMean := satTo feed.2 0xFFFF, current := satTo cur 0xFFFF }
  else s

/-- The tick work of LSW at the boundary `b`: the periods before it, then what was measured. -/
def lswTick (b : Nat) (i : TickInputs) (s : State) : State :=
  let s := lswAdvance (b - 1) s
  let s := bankTick .b i.feedB i.bankB (bankTick .a i.feedA i.bankA s)
  chNumbers.foldl (fun s n => chTick b (Tab.find i.chans n) n s) s

/-- The slot work at the slot boundary `g`: the mean current of the slot just ended, 0 where the channel was not ON in
it (R159). -/
def lswSlot (g : Nat) (current : Tab Nat) (s : State) : State :=
  let s := lswAdvance (g - 1) s
  if s.tick.slotLate.contains .lsw then s
  else chNumbers.foldl (fun s n =>
    if !s.chOn n then s
    else
      let x := s.ch n
      let c := if x.st = .on ∨ g - slotLen < x.onEnd then Tab.get 0 current n else 0
      publishLate (g + 400) (0x080 + n) (wordOf c) g (s.setCh n { s.ch n with current := c })) s

/-! ### Commands to channels (R173 to R175) -/

/-- An ON or OFF with a duty takes effect at `g` on channel `n`; the answer says whether it was
applied (R152, R164, R173, R174). -/
def command (n g : Nat) (on : Bool) (duty : Nat) (s : State) : State × Bool :=
  let s := chAdvance n (g - 1) s
  let x := s.ch n
  if !s.chOn n || x.st == .latched || x.st == .standby || (on && !s.lsw.outEn) then (s, false)
  else if on && x.st == .cool then (s, true)
  else
    let s := if hasPwm n && !x.bce then s.setCh n { x with cmd := duty } else s
    if !on then (chOff n s, true)
    else if x.st = .off then (enterOn n g none true s, true)
    else (chAdvance n g s, true)

/-- The CH_PROFILE operation of channel `n` that runs. -/
def State.profOp (s : State) (n : Nat) : Option OpRef :=
  s.opOf 5 0 fun o => isStarted 2 o && bitsOf (o.word 6) 5 0 == n

/-- A profile runs on channel `n`, with its operation. -/
def profRunning (s : State) (n : Nat) : Bool := (s.ch n).prof.isSome && (s.profOp n).isSome

/-- LSW_CH_STAT.PROFILE: the running profile has reached its first step. -/
def profShown (s : State) (n : Nat) : Bool :=
  profRunning s n && match (s.ch n).prof with
    | some p => decide (0 < p.idx)
    | none => false

/-- The profile of channel `n` ends with this status at the tick boundary `t` (R175). -/
def endProfile (n t status : Nat) (s : State) : State :=
  match (s.ch n).prof, s.profOp n with
  | some p, some c =>
    let x := if status = stOk then c.op.len else 8 * p.applied
    let s := finishAt (boundaryOf t) c status x (wordOf p.applied) (wordOf (satTo p.missed max32)) s
    s.setCh n { s.ch n with prof := none }
  | _, _ => s.setCh n { s.ch n with prof := none }

/-- The step of channel `n`'s profile that is due applies, or the profile ends with its last hold. -/
def profileStep (n : Nat) (s : State) : State :=
  match (s.ch n).prof with
  | none => s
  | some p =>
    if !profRunning s n then s.setCh n { s.ch n with prof := none }
    else if s.t < p.nextT then s
    else
      let again := p.idx == p.steps.length
      if again && p.left == some 0 then endProfile n p.nextT stOk s
      else
        let idx := if again then 0 else p.idx
        let left := if again then p.left.map (· - 1) else p.left
        let st := p.steps.getD idx { duty := 0, hold := 1, on := false }
        let (s, done) := command n (max s.gts (boundaryOf p.nextT)) st.on st.duty s
        let applied := p.applied + oneIf done
        let s := s.setCh n { s.ch n with prof := some { p with
          idx := idx + 1, left := left, nextT := p.nextT + st.hold
          applied := applied, missed := p.missed + oneIf (!done) } }
        match s.profOp n with
        | some c => s.setOp c { c.op with xfer := 8 * applied }
        | none => s

/-- Entry `i` of a CH_SET, if valid: channel, ON, duty. -/
def setEntry (o : Op) (i : Nat) : Option (Nat × Bool × Nat) :=
  let w := o.word (8 + i)
  if bitOf w 31 then some (bitsOf w 29 24, bitOf w 30, bitsOf w 15 0) else none

/-- The channels of the valid entries. -/
def setChannels (o : Op) : List Nat := ((List.range 8).filterMap (setEntry o)).map fun e => e.1

/-- CH_SET: the checks of R174. -/
def chSet (c : OpRef) (s : State) : State :=
  let t := c.op.word64 6
  let chans := setChannels c.op
  if t ≠ 0 ∧ t ≤ s.t then failOp c stLate 0 s
  else if chans.any (fun n => decide (47 < n)) || !decide chans.Nodup then failOp c stSchema 0 s
  else if chans.any (fun n => !s.chOn n) then failOp c stDomainOff 0 s
  else startOp c [startTick s t] s

/-- One entry applied, behind the profile step that falls on the same boundary, whose profile it ends
(R164, R175). -/
def applyEntry (t : Nat) (e : Nat × Bool × Nat) (s : State) : State × Bool :=
  let s := profileStep e.1 s
  let s := if profRunning s e.1 then endProfile e.1 t stIncomplete s else s
  command e.1 (max s.gts (boundaryOf t)) e.2.1 e.2.2 s

/-- The entries of a CH_SET in order: applied, and the mask of those not applied. -/
def applyEntries (t : Nat) (o : Op) : List Nat → Nat → Nat → State → State × Nat × Nat
  | [], done, mask, s => (s, done, mask)
  | i :: r, done, mask, s =>
    match setEntry o i with
    | none => applyEntries t o r done mask s
    | some e =>
      let (s, ok) := applyEntry t e s
      applyEntries t o r (done + oneIf ok) (mask + oneIf (!ok) * 2 ^ i) s

/-- A CH_SET whose boundary has come is applied and completes with the boundary's GTS. -/
def chSetApplyOne (c : OpRef) (s : State) : State :=
  let t := c.op.aux.getD 0 0
  if s.t < t then s
  else
    let (s, done, mask) := applyEntries t c.op (List.range 8) 0 0 s
    finishAt (boundaryOf t) c stOk 0 (wordOf done) (wordOf mask) s

/-- CH_SET_APPLY: every CH_SET due, in fetch order (R164, R174). -/
def chSetApply (s : State) : State := (s.opsOf 5 0 (isStarted 1)).foldl (fun s c => chSetApplyOne c s) s

/-- The steps of a profile, or none where one breaks R175. -/
def readSteps : Nat → List Byte → Option (List ProfStep)
  | 0, _ => some []
  | n + 1, bs =>
    let hold := leNat ((bs.drop 2).take 2)
    if hold = 0 ∨ leNat ((bs.drop 5).take 3) ≠ 0 then none
    else (readSteps n (bs.drop 8)).map fun r =>
      { duty := leNat (bs.take 2), hold := hold, on := (bs.getD 4 0).getLsbD 0 } :: r

/-- CH_PROFILE: the checks of R175, then the copy of its steps. -/
def chProfile (c : OpRef) (s : State) : State :=
  needBuffer c s fun s =>
    let n := bitsOf (c.op.word 6) 5 0
    let t := c.op.word64 7
    let rep := bitsOf (c.op.word 9) 15 0
    if t ≠ 0 ∧ t ≤ s.t then failOp c stLate 0 s
    else if c.op.len % 8 ≠ 0 ∨ 4096 < c.op.len ∨ 47 < n ∨ (s.ch n).bce then failOp c stSchema 0 s
    else readWhole 0x26 c s fun bs s =>
      match readSteps (c.op.len / 8) bs with
      | none => failOp c stSchema c.op.len s
      | some steps =>
        if profRunning s n then failOp c stBusy c.op.len s
        else if !s.chOn n then failOp c stDomainOff c.op.len s
        else
          let s := s.setCh n { s.ch n with prof := some {
            steps := steps, idx := 0, nextT := startTick s t
            left := if rep = 0xFFFF then none else some rep } }
          startOp c [startTick s t, n] s

/-! ### CH_CLEAR and CH_READ (R176) -/

/-- LSW_CH_STAT. -/
def chStat (n : Nat) (x : Ch) (running : Bool) (g : Nat) : Word :=
  let win := oneIf (x.winOpen g)
  wordOf (x.st.code * 2 ^ 28 + win * 2 ^ 27 + oneIf x.limit * 2 ^ 26 + oneIf x.olOn * 2 ^ 25
    + oneIf x.olOff * 2 ^ 24 + oneIf x.replOk * 2 ^ 23 + oneIf (x.gangOut || x.gangCrc) * 2 ^ 22
    + oneIf (chKind n == .lamp) * win * 2 ^ 21 + oneIf running * 2 ^ 20 + x.count % 16 * 65536
    + x.cause * 4096 + oneIf x.bceLate * 2048)

/-- LSW_CH_DUTY. -/
def chDuty (x : Ch) : Word := wordOf (x.cmd * 65536 + x.applied)

/-- One masked channel whose bank is on is cleared (R176). -/
def clearOne (n : Nat) (s : State) : State :=
  let x := s.ch n
  let g := s.gts
  let s := if x.st = .latched then chOff n s else s
  let s := s.setCh n { s.ch n with
    count := 0, cause := 0, olOn := false, olOff := false
    onBelow := 0, onAbove := 0, offAbove := 0, offBelow := 0 }
  let s := chEvent n 6 (oneIf (x.st == .latched)) g s
  let s := if x.olOn then chEvent n 5 0 g s else s
  if x.olOff then chEvent n 5 1 g s else s

/-- CH_CLEAR acts at the check. -/
def chClear (c : OpRef) (s : State) : State :=
  let mask := c.op.word64 6
  if 2 ^ 48 ≤ mask then failOp c stSchema 0 s
  else
    let chosen := chNumbers.filter fun n => mask.testBit n
    let on := chosen.filter fun n => s.chOn n
    let left := (on.filter fun n => (s.ch n).st == .latched).length
    let s := on.foldl (fun s n => clearOne n s) s
    finishOp c stOk 0 (wordOf left) (wordOf (chosen.length - on.length)) s

/-- CH_READ asks for a snapshot at the next boundary. -/
def chRead (c : OpRef) (s : State) : State :=
  if c.op.len ≠ 768 then failOp c stLen 0 s else startOp c [s.t + 1] s

/-- The 16 bytes of a channel; a bank that is off reads all zero. -/
def snapBytes (s : State) (n : Nat) : List Byte :=
  if s.chOn n then
    let x := s.ch n
    wordBytes [chStat n x (profShown s n) s.gts, chDuty x, wordOf x.current,
      wordOf (x.tj % 65536).toNat]
  else List.replicate 16 0

/-- CH_READ_SNAPSHOT: at its boundary the snapshot is taken and written. -/
def chReadSnapshot (s : State) : State :=
  match s.opOf 5 1 (isStarted 0x11) with
  | none => s
  | some c =>
    let t := c.op.aux.getD 0 0
    if s.t < t then s
    else
      let s := lswAdvance s.gts s
      let off := oneIf (!s.pdOn 8) + 2 * oneIf (!s.pdOn 9)
      writeOut 0x26 c (chNumbers.flatMap (snapBytes s)) (wordOf t) (wordOf off) s

/-! ### Ganging (R165 to R167) -/

/-- DRIVE is withdrawn: every ganged channel goes to STANDBY (R152, R166). -/
def driveWithdraw (planned : Bool) (s : State) : State :=
  let s := lswAdvance s.gts { s with lsw.drive := false }
  chNumbers.foldl (fun s n =>
    let x := s.ch n
    if s.chOn n && x.gang && x.st != .standby then
      let s := stopCh n .standby (leaveOff n s.gts s)
      let s := s.setCh n { s.ch n with
        was := x.st, wasWin := if x.win.isSome then x.winEnd else 0
        repl := none, replOk := false, gangNow := false, gangOutOk := 0 }
      chEvent n 7 (oneIf planned * 2 ^ 30 + s.t % 2 ^ 24) s.gts s
    else s) s

/-- A ganged channel leaves STANDBY from its replica `r` (R167). A BCE channel uses the replica's duty, so that BCE_LATE
falls. -/
def fromReplica (n : Nat) (r : ChanReplica) (s : State) : State :=
  let late := (s.ch n).bceLate
  let s := s.setCh n { s.ch n with
    cmd := r.duty % 65536, count := r.count, k := some r.kFactor, bceLate := false }
  let s := if late then chEvent n 10 0 s.gts s else s
  let conducts := [ChState.on.code, ChState.cool.code, ChState.feedLow.code].contains r.state
  let s :=
    if r.state = ChState.latched.code then s.setCh n { s.ch n with st := .latched }
    else if !conducts then s.setCh n { s.ch n with st := .off }
    else if (s.bank (chBank n)).low then s.setCh n { s.ch n with st := .feedLow }
    else enterOn n s.gts (some (some r.kFactor)) false s
  if r.profile then chEvent n 11 (s.t % 2 ^ 24) s.gts s else s

/-- DRIVE is granted (R167). -/
def driveGrant (planned : Bool) (s : State) : State :=
  let s := { s with lsw.drive := true }
  chNumbers.foldl (fun s n =>
    let x := s.ch n
    if s.chOn n && x.gang && x.st == .standby then
      let s := chEvent n 7 (2 ^ 31 + oneIf planned * 2 ^ 30 + s.t % 2 ^ 24) s.gts s
      match x.repl with
      | some r =>
        if s.t ≤ r.tick + 4 then fromReplica n r s
        else chEvent n 8 (s.t % 2 ^ 24) s.gts (s.setCh n { s.ch n with st := .off, count := 0 })
      | none => chEvent n 8 (s.t % 2 ^ 24) s.gts (s.setCh n { s.ch n with st := .off, count := 0 })
    else s) s

/-- A replica arrives for channel `n` (R165): valid where its CRC matches the channel's own
configuration. -/
def storeReplica (n : Nat) (r : ChanReplica) (s : State) : State :=
  let x := s.ch n
  if !s.chOn n || !x.gang || x.st != .standby then s
  else if r.crc = x.crc then
    s.setCh n { x with repl := some r, replOk := true, gangCrcOk := satTo (x.gangCrcOk + 1) 5 }
  else
    let s' := s.setCh n { x with replOk := false, gangCrc := true, gangCrcOk := 0 }
    if x.gangCrc then s' else chEvent n 9 (2 ^ 31 + 2) (boundaryOf s.t) s'

/-- The replica of a ganged channel at the boundary of `t + 1` (R165). Of a channel from which DRIVE has just been
withdrawn it tells the state before (R164, R166). -/
def takeReplica (s : State) (t n : Nat) : ChanReplica :=
  let x := s.ch n
  let stood := x.st == .standby
  { tick := t, state := (if stood then x.was else x.st).code, duty := x.cmd, kFactor := x.k.getD kOne
    window := (if stood then x.wasWin else if x.win.isSome then x.winEnd else 0) - s.gts
    count := x.count, crc := x.crc, profile := profRunning s n }

/-! ### Feed events (R172) -/

/-- The bank index of an event. -/
def bankBit : Bank → Nat
  | .a => 0 | .b => 1

/-- PWR source 30, with the lowest feed in mV since the feed fell, as the command gives it. -/
def feedEvent (bk : Bank) (code mV g : Nat) (s : State) : State :=
  raiseAt g 30 code (satTo mV 0xFFFF * 65536 + bankBit bk) s

/-- The channels of a bank. -/
def bankChannels (bk : Bank) : List Nat := chNumbers.filter fun n => chBank n == bk

/-- The bank becomes feed-low at `g`: its ON channels go to FEED_LOW. -/
def enterFeedLow (bk : Bank) (g mV : Nat) (s : State) : State :=
  let s := s.setBank bk { s.bank bk with low := true, hold := none }
  let s := (bankChannels bk).foldl (fun s n =>
    if (s.ch n).st = .on then stopCh n .feedLow s
    else if (s.ch n).st = .feedLow then s.setCh n { s.ch n with wait := none } else s) s
  feedEvent bk 1 mV g s

/-- BANK_FEED_LOW: the feed falls below 4.5 V. -/
def bankFeedLow (bk : Bank) (g mV : Nat) (s : State) : State :=
  let b := s.bank bk
  if b.low ∨ b.hold.isSome ∨ g < s.gts then s
  else
    let s := lswAdvance g (s.advance g)
    if s.lsw.crankHold && decide (3200 ≤ mV) then
      feedEvent bk 3 mV g (s.setBank bk { s.bank bk with hold := some g })
    else enterFeedLow bk g mV s

/-- FEED_LOW channels return to ON: at their next period start, or at once without PWM. -/
def returnOn (bk : Bank) (g : Nat) (s : State) : State :=
  (bankChannels bk).foldl (fun s n =>
    if (s.ch n).st = .feedLow then
      if hasPwm n then chAdvance n g (s.setCh n { s.ch n with wait := some g })
      else enterOn n g none true s
    else s) s

/-- BANK_FEED_RETURN: the feed is back at 5.0 V. -/
def bankFeedReturn (bk : Bank) (g mV : Nat) (s : State) : State :=
  let b := s.bank bk
  if g < s.gts then s
  else if b.low then
    let s := lswAdvance g (s.advance g)
    feedEvent bk 2 mV g (returnOn bk g (s.setBank bk { s.bank bk with low := false }))
  else if b.hold.isSome then
    let s := lswAdvance (g - 1) (s.advance g)
    feedEvent bk 6 mV g (s.setBank bk { s.bank bk with hold := none })
  else s

/-- CRANK_HOLD_EXPIRY: 50 ticks of crank-hold have passed, or the feed falls below 3.2 V. -/
def crankHoldExpiry (bk : Bank) (g mV : Nat) (s : State) : State :=
  match (s.bank bk).hold with
  | none => s
  | some h =>
    if g < s.gts ∨ (3200 ≤ mV ∧ g < h + 50 * tickLen) then s
    else
      let s := lswAdvance (g - 1) (s.advance g)
      enterFeedLow bk g mV (feedEvent bk (if mV < 3200 then 5 else 4) mV g s)

/-! ### The fixed-rope path (R169 to R171) -/

/-- Channel of entry `j` of LSW_LH_MAP `k`, where valid and in range. -/
def mapEntry (s : State) (k j : Nat) : Option Nat :=
  let w := Tab.get 0 s.lsw.lhMap k
  let n := bitsOf w (8 * j + 5) (8 * j)
  if bitOf w (8 * j + 7) && decide (n < 48) then some n else none

/-- The LH inputs mapped to channel `n`, as a mask; none where the map is not locked (R169). -/
def inputsOf (s : State) (n : Nat) : Nat :=
  if s.lsw.lock then
    ((List.range 8).filter fun k => (List.range 4).any fun j => mapEntry s k j == some n).foldl
      (fun m k => m + 2 ^ k) 0
  else 0

/-- The state of channel `n` under the PD1 path. -/
def State.frCh (s : State) (n : Nat) : FrCh := Tab.get {} s.lsw.fr n

/-- Channel `n` conducts under the PD1 path (R170, R171). -/
def frActive (s : State) (n : Nat) : Bool :=
  s.mode == .fixedRope && (s.lh.toNat &&& inputsOf s n) != 0 && !(s.frCh n).short && !(s.frCh n).therm

/-- FR_DUTY of channel `n`: 0 conducts all of a period, `f` conducts `f` of its 16 cycles of 32.768 kHz, at 2,048 Hz
(R169). -/
def frSixteenths (s : State) (n : Nat) : Nat :=
  let w := Tab.get 0 s.lsw.frDuty (n / 8)
  let f := bitsOf w (4 * (n % 8) + 3) (4 * (n % 8))
  if f = 0 then 16 else f

/-- Cycles of 32.768 kHz for which a lamp's inrush window lasts after a turn-on, 40 ms, and a motor's soft-start, 100 ms
(R171). -/
def frWindow (n age : Nat) : Bool := chKind n == .lamp && decide (age * 1000 < 40 * 32768)

/-- What channel `n` puts out under the PD1 path `age` cycles after its turn-on, in 65,535ths of the feed (R169 to
R171). -/
def frOutput (s : State) (n age : Nat) : Nat :=
  if !frActive s n || decide (frSixteenths s n ≤ age % 16) then 0
  else if chKind n = .motor then satTo (age * 65535 * 10 / 32768) 65535 else 65535

/-- LSW_FR_ACT. -/
def frAct (s : State) : BitVec 64 :=
  BitVec.ofNat 64 ((chNumbers.filter (frActive s)).foldl (fun m n => m + 2 ^ n) 0)

/-- A short under the PD1 path waits: every input mapped to the channel reads inactive, then one rises
(R171). `k` changes. -/
def frInput (k : Nat) (active : Bool) (n : Nat) (s : State) : State :=
  let f := s.frCh n
  let ins := inputsOf s n
  if f.short ∧ ins.testBit k then
    if active then
      if ins &&& f.seen.toNat = ins then
        { s with lsw.fr := Tab.put s.lsw.fr n { f with short := false, seen := 0 } }
      else s
    else { s with lsw.fr := Tab.put s.lsw.fr n { f with seen := setBit f.seen k true } }
  else s

/-- LH_INPUT_CHANGE (R144): the level, and in Fixed-rope mode the channels that wait on it. -/
def lhInputChange (k : Nat) (active : Bool) (s : State) : State :=
  if s.pdOn 1 then
    let rose := active && !bitOf s.lh k
    let s := { s with lh := setBit s.lh k active }
    if s.mode = .fixedRope ∧ (rose ∨ ¬ active) then
      chNumbers.foldl (fun s n => frInput k active n s) s
    else s
  else s

/-- FIXROPE_TRIP: a channel under the PD1 path trips, `age` cycles of 32.768 kHz after its turn-on; a short is told by
its current at the limit in force and its output below V_SC (R160, R171). -/
def fixropeTrip (n : Nat) (cause : TripCause) (age mA mV : Nat) (s : State) : State :=
  let shorted := decide (limitOf n (frWindow n age) ≤ mA) && decide (mV < shortLevel)
  if frActive s n && (cause == .thermal || shorted) then
    let f := s.frCh n
    let s := { s with lsw.fr := Tab.put s.lsw.fr n (match cause with
      | .short => { f with short := true, seen := ~~~ s.lh &&& (0xFF : Word) }
      | .thermal => { f with therm := true }) }
    raise (256 + n) 12 (match cause with
      | .short => 1
      | .thermal => 2) s
  else s

/-- FIXROPE_THERMAL_RESTART: it has cooled to its hysteresis. -/
def fixropeThermalRestart (n : Nat) (s : State) : State :=
  if s.mode = .fixedRope ∧ (s.frCh n).therm then
    { s with lsw.fr := Tab.put s.lsw.fr n { s.frCh n with therm := false } }
  else s

/-- A bank's domain goes off: all state of its channels is lost (R152), running profiles end with
DOMAIN_OFF (R175). -/
def bankOff (bk : Bank) (s : State) : State :=
  let s := (bankChannels bk).foldl (fun s n =>
    if profRunning s n then endProfile n s.t stDomainOff s else s) s
  let b := s.bank bk
  let s := s.setBank bk { low := b.low }
  { s with lsw.ch := s.lsw.ch.filter fun e => chBank e.1 != bk }

/-- What a time base start does to LSW (R169): the map, its lock, LSW_CTL and LSW_CFG_ERR. A lone
module holds DRIVE (R165). -/
def lswTimeBase (s : State) : State :=
  { s with
    lsw.outEn := false, lsw.crankHold := false, lsw.cfgErr := 0, lsw.lock := false
    lsw.lhMap := [], lsw.frDuty := [], lsw.fr := [], lsw.drive := s.rtl.role == .lone }

/-! ### Registers (R177) -/

/-- A refused write. -/
def lswErr (off reason : Nat) (s : State) : State := { s with lsw.cfgErr := wordOf (off * 65536 + reason) }

/-- LSW_CTL written: OUT_EN and CRANK_HOLD. OUT_EN written 0 turns every channel OFF (R152). -/
def lswCtlWrite (v : Word) (s : State) : State :=
  let s := { s with lsw.outEn := bitOf v 31, lsw.crankHold := bitOf v 30 }
  if bitOf v 31 then s
  else chNumbers.foldl (fun s n =>
    match (s.ch n).st with
    | .off | .standby => s
    | _ => chOff n s) (lswAdvance s.gts s)

/-- The writable bits of a channel register. -/
def chMask : Nat → Word
  | 0 => 0xFCF0_FFFF
  | 1 => 0xFFFF_FFFF
  | 2 => 0xF8FF_01FF
  | 3 => 0xFF00_1FFF
  | _ => 0x0000_FFFF

/-- Every field of a channel register that applies to the type is in range. -/
def chInRange (n reg : Nat) (v : Word) : Bool :=
  let lamp := chKind n == .lamp
  let valve := chKind n == .valve
  match reg with
  | 0 => bitsOf v 23 20 != 0 && (!lamp || bitsOf v 29 28 == 0 ||
      (bitsOf v 29 28 != 3 && decide (6000 ≤ bitsOf v 15 0) && decide (bitsOf v 15 0 ≤ 32000)))
  | 1 => bitsOf v 23 16 != 0 &&
      (chKind n != .motor || (decide (1 ≤ bitsOf v 15 8) && decide (bitsOf v 15 8 ≤ 50))) &&
      (!lamp || decide (bitsOf v 7 0 ≤ 40))
  | 2 =>
    let khz := bitsOf v 31 27
    (!valve || ([2, 4, 5, 8, 10, 16, 20].contains khz && decide (bitsOf v 23 16 < 400 / khz))) &&
      (!lamp || decide (bitsOf v 8 0 ≤ 499))
  | 3 =>
    let dper := bitsOf v 31 24
    !valve || dper == 0 || (dper % 2 == 0 && decide (dper ≤ 200))
  | _ => true

/-- A channel register with a new value. -/
def setChReg (reg : Nat) (v : Word) (x : Ch) : Ch :=
  match reg with
  | 0 => { x with cfg := v }
  | 1 => { x with time := v }
  | 2 => { x with pwm := v }
  | 3 => { x with dither := v }
  | _ => { x with olth := v }

/-- A channel configuration register written: reason 3, 2, 1 (R177). A channel that becomes ganged on a module without
DRIVE is in STANDBY (R165). -/
def chRegWrite (n reg : Nat) (w : Word) (s : State) : State :=
  let off := 0x1000 + 0x20 * n + 4 * reg
  let v := w &&& chMask reg
  if (s.ch n).st ≠ .off then lswErr off 3 s
  else if reg = 0 ∧ bitOf v 31 ∧ ¬ hasPwm n then lswErr off 2 s
  else if !chInRange n reg v then lswErr off 1 s
  else
    let s := s.setCh n (setChReg reg v (s.ch n))
    if (s.ch n).gang && !s.lsw.drive then s.setCh n { s.ch n with st := .standby } else s

/-- A map word written: valid entries must name a channel (R169). -/
def mapInRange (v : Word) : Bool :=
  (List.range 4).all fun j => !bitOf v (8 * j + 7) || decide (bitsOf v (8 * j + 5) (8 * j) < 48)

/-- LSW_LH_MAP0 to 7 (0 to 7) or LSW_FR_DUTY0 to 5 (8 to 13) written: reason 4, 2, 1 (R169). -/
def lhMapWrite (reg : Nat) (w : Word) (s : State) : State :=
  let off := 0x10 + 4 * reg
  if s.lsw.lock then lswErr off 4 s
  else if reg < 8 then
    let v := w &&& (0xBFBF_BFBF : Word)
    if mapInRange v then { s with lsw.lhMap := Tab.put s.lsw.lhMap reg v } else lswErr off 1 s
  else
    let k := reg - 8
    if (List.range 8).any fun j => !hasPwm (8 * k + j) && bitsOf w (4 * j + 3) (4 * j) != 0 then
      lswErr off 2 s
    else { s with lsw.frDuty := Tab.put s.lsw.frDuty k w }

/-- LSW_LH_LOCK: bit 0 is W1S. -/
def lhMapLock (v : Word) (s : State) : State := if bitOf v 0 then { s with lsw.lock := true } else s

/-- LSW_STATUS. -/
def lswStatus (s : State) : Word :=
  let l := s.lsw
  wordOf (oneIf l.lock * 2 ^ 31 + oneIf l.drive * 2 ^ 30 + s.rtl.role.code * 2 ^ 28
    + oneIf l.bankB.hold.isSome * 2 ^ 27 + oneIf l.bankA.hold.isSome * 2 ^ 26
    + oneIf l.bankB.low * 2 ^ 25 + oneIf l.bankA.low * 2 ^ 24)

/-- The domain of an LSW offset (R149). -/
def lswDomain (off : Nat) : Nat :=
  if 0x100 ≤ off ∧ off < 0x180 then 8
  else if 0x180 ≤ off ∧ off < 0x200 then 9
  else if 0x1000 ≤ off ∧ off < 0x1600 then bankDomain (chBank ((off - 0x1000) / 0x20))
  else 1

/-- The mask of LATCHED channels of a bank. -/
def latchMask (bk : Bank) (s : State) : BitVec 64 :=
  BitVec.ofNat 64 (((bankChannels bk).filter fun n => (s.ch n).st == .latched).foldl (fun m n => m + 2 ^ n) 0)

/-- A read of a bank's registers. -/
def bankRead (bk : Bank) (off : Nat) (s : State) : Word :=
  let b := s.bank bk
  if off = 0x00 then wordOf (b.feedMin * 65536 + b.feedMean)
  else if off = 0x04 then wordOf b.current
  else if off = 0x08 then lo32 b.fault
  else if off = 0x0C then hi32 b.fault
  else if off = 0x10 then lo32 (latchMask bk s)
  else if off = 0x14 then hi32 (latchMask bk s)
  else 0

/-- A read of channel `n`'s registers; LSW_CH_TRIPS is cleared by it. -/
def chRegRead (n off : Nat) (s : State) : Word × State :=
  let x := s.ch n
  if off = 0x00 then (x.cfg, s)
  else if off = 0x04 then (x.time, s)
  else if off = 0x08 then (x.pwm, s)
  else if off = 0x0C then (x.dither, s)
  else if off = 0x10 then (x.olth, s)
  else if off = 0x14 then (chStat n x (profShown s n) s.gts, s)
  else if off = 0x18 then (chDuty x, s)
  else if off = 0x1C then
    (rclRead (x.shortTrips * 65536 + x.thermTrips), s.setCh n { x with shortTrips := 0, thermTrips := 0 })
  else (0, s)

/-- A read of the LSW window. LSW_FR_ACT is a 64-bit register (R17). -/
def lswRead (a : Access) (off : Nat) (s0 : State) : Word × State :=
  let s := lswAdvance s0.gts s0
  let hiAddr (o : Nat) : Nat := 0x0805_0000 + o
  if off = 0x0000 then (wordOf (oneIf s.lsw.outEn * 2 ^ 31 + oneIf s.lsw.crankHold * 2 ^ 30), s)
  else if off = 0x0004 then (lswStatus s, s)
  else if off = 0x0008 then (s.lsw.cfgErr, s)
  else if off = 0x000C then (wordOf (oneIf s.lsw.lock), s)
  else if 0x10 ≤ off ∧ off < 0x30 then (Tab.get 0 s.lsw.lhMap ((off - 0x10) / 4), s)
  else if 0x30 ≤ off ∧ off < 0x48 then (Tab.get 0 s.lsw.frDuty ((off - 0x30) / 4), s)
  else if off = 0x48 then (lo32 (frAct s), s.latch a (hiAddr 0x4C) (hi32 (frAct s)))
  else if off = 0x4C then
    ((Tab.find s.shadows (shadowKey a (hiAddr 0x4C))).getD (hi32 (frAct s)),
      { s with shadows := Tab.del s.shadows (shadowKey a (hiAddr 0x4C)) })
  else if 0x100 ≤ off ∧ off < 0x180 then (bankRead .a (off - 0x100) s, s)
  else if 0x180 ≤ off ∧ off < 0x200 then (bankRead .b (off - 0x180) s, s)
  else if 0x1000 ≤ off ∧ off < 0x1600 then chRegRead ((off - 0x1000) / 0x20) ((off - 0x1000) % 0x20) s
  else (0, s)

/-- A half of a bank's fault mask cleared (W1C, halves independent). -/
def faultWrite (bk : Bank) (half' : Nat) (v : Word) (s : State) : State :=
  let b := s.bank bk
  s.setBank bk { b with fault := setHalf b.fault half' (w1c (half b.fault half') v) }

/-- A write to the LSW window. -/
def lswWrite (off : Nat) (v : Word) (s : State) : State :=
  if off = 0x0000 then lswCtlWrite v s
  else if off = 0x000C then lhMapLock v s
  else if 0x10 ≤ off ∧ off < 0x48 then lhMapWrite ((off - 0x10) / 4) v s
  else if off = 0x108 then faultWrite .a 0 v s
  else if off = 0x10C then faultWrite .a 4 v s
  else if off = 0x188 then faultWrite .b 0 v s
  else if off = 0x18C then faultWrite .b 4 v s
  else if 0x1000 ≤ off ∧ off < 0x1600 ∧ (off - 0x1000) % 0x20 < 0x14 then
    chRegWrite ((off - 0x1000) / 0x20) ((off - 0x1000) % 0x20 / 4) v s
  else s

/-! ### Commands -/

/-- CH_SET. -/
def execChSet (n : Fin 32) (s : State) : Out := .next (takeOp 5 0 1 .parallel n.val chSet s)

/-- CH_SET_APPLY. -/
def execChSetApply (s : State) : Out := .next (chSetApply s)

/-- CH_PROFILE. -/
def execChProfile (n : Fin 32) (s : State) : Out := .next (takeOp 5 0 2 .parallel n.val chProfile s)

/-- CH_PROFILE_STEP. -/
def execChProfileStep (c : Fin 48) (s : State) : Out := .next (profileStep c.val s)

/-- CH_CLEAR. -/
def execChClear (n : Fin 32) (s : State) : Out := .next (takeOp 5 1 0x10 .serial n.val chClear s)

/-- CH_READ. -/
def execChRead (n : Fin 32) (s : State) : Out := .next (takeOp 5 1 0x11 .serial n.val chRead s)

/-- CH_READ_SNAPSHOT. -/
def execChReadSnapshot (s : State) : Out := .next (chReadSnapshot s)

/-- LSW_OUT_EN_WRITE: LSW_CTL written. -/
def execLswOutEnWrite (a : Access) (v : Word) (s : State) : Out := .next (gateWrite a 5 1 s (lswCtlWrite v))

/-- LSW_CH_CFG_WRITE: register 0 to 4 of a channel. -/
def execLswChCfgWrite (a : Access) (c : Fin 48) (reg : Fin 5) (v : Word) (s : State) : Out :=
  .next (gateWrite a 5 (bankDomain (chBank c.val)) s (chRegWrite c.val reg.val v))

/-- LH_MAP_WRITE: LSW_LH_MAP0 to 7, LSW_FR_DUTY0 to 5. -/
def execLhMapWrite (a : Access) (reg : Fin 14) (v : Word) (s : State) : Out :=
  .next (gateWrite a 5 1 s (lhMapWrite reg.val v))

/-- LH_MAP_LOCK. -/
def execLhMapLock (a : Access) (v : Word) (s : State) : Out := .next (gateWrite a 5 1 s (lhMapLock v))

/-- INRUSH_WINDOW_END. -/
def execInrushWindowEnd (c : Fin 48) (s : State) : Out := .next (inrushWindowEnd c.val s)

/-- SHORT_TRIP. -/
def execShortTrip (c : Fin 48) (at' mV : Nat) (thermalToo : Bool) (s : State) : Out :=
  .next (shortTrip c.val at' mV thermalToo s)

/-- THERMAL_TRIP. -/
def execThermalTrip (c : Fin 48) (at' : Nat) (tj : Int) (s : State) : Out :=
  .next (thermalTrip c.val at' tj s)

/-- RESTART. -/
def execRestart (c : Fin 48) (cooled : Bool) (s : State) : Out := .next (restart c.val cooled s)

/-- RESTART_COUNT_RESET. -/
def execRestartCountReset (c : Fin 48) (s : State) : Out := .next (restartCountReset c.val s)

/-- OPEN_LOAD. -/
def execOpenLoad (c : Fin 48) (onState : Bool) (s : State) : Out := .next (openLoad c.val onState s)

/-- BCE_TIMEOUT. -/
def execBceTimeout (c : Fin 48) (s : State) : Out := .next (bceTimeout c.val s)

/-- GANG_MISMATCH. -/
def execGangMismatch (c : Fin 48) (s : State) : Out := .next (gangMismatch c.val s)

/-- BANK_FEED_LOW. -/
def execBankFeedLow (bank : Bank) (at' mV : Nat) (s : State) : Out := .next (bankFeedLow bank at' mV s)

/-- BANK_FEED_RETURN. -/
def execBankFeedReturn (bank : Bank) (at' mV : Nat) (s : State) : Out :=
  .next (bankFeedReturn bank at' mV s)

/-- CRANK_HOLD_EXPIRY. -/
def execCrankHoldExpiry (bank : Bank) (at' mV : Nat) (s : State) : Out :=
  .next (crankHoldExpiry bank at' mV s)

/-- FIXROPE_TRIP. -/
def execFixropeTrip (c : Fin 48) (cause : TripCause) (age mA mV : Nat) (s : State) : Out :=
  .next (fixropeTrip c.val cause age mA mV s)

/-- LH_INPUT_CHANGE. -/
def execLhInputChange (k : Fin 8) (active : Bool) (s : State) : Out := .next (lhInputChange k.val active s)

/-- FIXROPE_THERMAL_RESTART. -/
def execFixropeThermalRestart (c : Fin 48) (s : State) : Out := .next (fixropeThermalRestart c.val s)

end Sys2Proof.Machine
end

