-- ==== Sys2Proof/Machine/Bce.lean ====
section
/-!
DEFINITION. The Belay control engine: schedule, latches, releases, destinations, replication, ring
operations, registers (spec/04_belay_control_engine.md). The law itself is in `BceLaw`.
-/

namespace Sys2Proof.Machine

/-! ### Events (R129) -/

/-- A BCE event of context `c`. -/
def bceEvent (src code c data g : Nat) (s : State) : State :=
  raiseAt g src code (c * 2 ^ 24 + data % 2 ^ 24) s

/-- The contexts that R93 calls running: beyond LOADED. -/
def CtxState.beyondLoaded : CtxState → Bool
  | .empty | .loaded => false
  | _ => true

/-! ### Schedule (R103 to R105) -/

/-- Context `x` has an output instant at phase `q` of tick `t`. -/
def dueAt (x : BCtx) (t q : Nat) : Bool :=
  if x.subtick then q % 10 == x.outPhase
  else q == x.outPhase && t % x.period == x.f 1 25 16

/-- The first output instant at or after `g`. -/
def nextDue (x : BCtx) (g : Nat) : Nat :=
  if x.subtick then
    let o := x.outPhase * phaseLen
    (g - o + slotLen - 1) / slotLen * slotLen + o
  else
    let p := x.period
    let t := g / tickLen
    let t1 := t + (x.f 1 25 16 + p - t % p) % p
    let i := boundaryOf t1 + x.outPhase * phaseLen
    if i < g then i + p * tickLen else i

/-- A context uses a lane in latch phase `p`. -/
def usesLane (x : BCtx) (p : Nat) : Bool :=
  if x.subtick then (p + 1) % 10 == x.outPhase else (p + 1) % 100 == x.outPhase

/-- Lanes in use in latch phase `p` (R105). -/
def lanesIn (s : State) (p : Nat) : Nat :=
  (bceNumbers.filter fun c => (s.bctx c).state.beyondLoaded && usesLane (s.bctx c) p).length

/-! ### Stops and patches that have come into effect (R122, R125) -/

/-- A configuration with words replaced from `first` on. -/
def patchCfg (cfg : List Word) (first : Nat) (ws : List Word) : List Word :=
  cfg.take first ++ ws ++ cfg.drop (first + ws.length)

/-- The patches of a context due by tick `t` take effect in order. -/
def patchDue (t : Nat) (x : BCtx) : BCtx :=
  let due := x.patches.filter fun p => decide (p.1 ≤ t)
  due.foldl (fun x p => { x with oldCfg := some (p.1, x.cfg), cfg := patchCfg x.cfg p.2.1 p.2.2 })
    { x with patches := x.patches.filter fun p => decide (t < p.1) }

/-- The configuration in force in tick `t` (R116). -/
def cfgIn (t : Nat) (x : BCtx) : List Word :=
  match x.oldCfg with
  | some (eff, cfg) => if t < eff then cfg else x.cfg
  | none => x.cfg

/-- A stop of context `c` takes effect at the boundary of `t` (R93, R122). -/
def stopContext (c t : Nat) (safe : Bool) (s : State) : State :=
  let x := s.bctx c
  let ran := x.state == .run || x.state == .posture
  let from' := match x.out with
    | some (_, g, _) => if g = boundaryOf t then g + 1 else boundaryOf t
    | none => boundaryOf t
  let s := s.setBctx c { x with
    state := .loaded, cause := 0, stopAt := none, clearReq := false
    safeAt := if safe then some t else none
    badAt := if ran then some (x.badAt.getD (nextDue x from')) else x.badAt }
  bceEvent 197 2 c t (boundaryOf t) s

/-- Stops and patches due by now are in effect. -/
def bceSettle (s : State) : State :=
  s.bce.ctx.foldl (fun s e =>
    let s := s.setBctx e.1 (patchDue s.t (s.bctx e.1))
    match (s.bctx e.1).stopAt with
    | some (t, safe) => if t ≤ s.t then stopContext e.1 t safe s else s
    | none => s) s

/-- BCE_CTL.EN written 0, and the entry to Descent: every running context stops with mode SAFE at the
next boundary (R93). -/
def bceStopAll (s : State) : State :=
  bceNumbers.foldl (fun s c =>
    let x := s.bctx c
    match x.state with
    | .armed | .run | .posture => s.setBctx c { x with stopAt := some (s.t + 1, true) }
    | _ => s) s

/-! ### Destinations and releases (R104, R107, R108, R122) -/

/-- How a destination took a value. -/
structure DestEnd where
  off : Bool
  refused : Bool
deriving DecidableEq, Repr

/-- The external destination written at `g`; a duty is clamped with SAT code 4 (R107). -/
def writeDest (c : Nat) (u : Int) (g latch : Nat) (s : State) : State × DestEnd :=
  let x := s.bctx c
  let i := x.f 30 9 0
  match x.f 30 31 28 with
  | 1 =>
    let d := clampInt 0 65535 u
    let s := if d = u then s
      else bceEvent 194 4 c 0 latch { s.setBctx c { x with sat := true } with
        bce.satCnt := countUp s.bce.satCnt max32 }
    match bceDuty i d.toNat g s with
    | (s, .taken) => (s, { off := false, refused := false })
    | (s, .off) => (s, { off := true, refused := false })
    | (s, .refused) => (s, { off := false, refused := true })
  | 2 =>
    if !s.pdOn 10 then (s, { off := true, refused := false })
    else
      let r := slotBce i (wordOfInt u) g s
      (r.1, { off := false, refused := r.2 })
  | _ => (s, { off := false, refused := false })

/-- A flag of the destination changes: source 196 (R108). -/
def destFlag (c code : Nat) (was now : Bool) (latch : Nat) (s : State) : State :=
  if was = now then s
  else bceEvent 196 (if now then code else code + 1) c ((s.bctx c).f 30 9 0) latch s

/-- A value goes to the signal table and the destination of context `c` at `g` (R107, R108). -/
def putOut (c : Nat) (u : Int) (g : Nat) (s : State) : State :=
  let latch := g - phaseLen
  let s := publishSig (0x280 + c) (wordOfInt u) g s
  let (s, e) := writeDest c u g latch s
  let x := s.bctx c
  let s := s.setBctx c { x with outLast := u, destOff := e.off, destRefused := e.refused }
  destFlag c 3 x.destRefused e.refused latch (destFlag c 1 x.destOff e.off latch s)

/-- The output of context `c` held for `g` is released (R104). -/
def releaseOne (g c : Nat) (s : State) : State :=
  match (s.bctx c).out with
  | some (u, i, post) =>
    if i = g then
      let s := putOut c u g s
      let x := s.bctx c
      let bad := if post then some (x.badAt.getD g) else if x.state = .loaded then x.badAt else none
      s.setBctx c { x with out := none, badAt := bad }
    else s
  | none => s

/-- SAFE of a stop is written once, at the first due output instant at or after T_s (R122). -/
def safeOne (g c : Nat) (s : State) : State :=
  let x := s.bctx c
  match x.safeAt with
  | some t =>
    if boundaryOf t ≤ g ∧ dueAt x (g / tickLen) (g % tickLen / phaseLen) then
      putOut c x.safe g (s.setBctx c { x with safeAt := none })
    else s
  | none => s

/-- All outputs of the instant `g`, then the SAFE writes of it. -/
def releaseAll (g : Nat) (s : State) : State :=
  let s := bceSettle s
  let s := bceNumbers.foldl (fun s c => releaseOne g c s) s
  bceNumbers.foldl (fun s c => safeOne g c s) s

/-- BCE_OUTPUT_RELEASE at the start of phase `p` of the present tick. -/
def bceOutputRelease (p : Nat) (s : State) : State :=
  let g := boundaryOf s.t + p * phaseLen
  if s.tick.running && decide (s.gts < g + phaseLen) then releaseAll g (s.advance g) else s

/-! ### Latches (R95, R103, R104) -/

/-- A report of an evaluation becomes an event; saturations are counted (R94). -/
def bceReport (c latch : Nat) (r : Report) (s : State) : State :=
  let s := if r.1 = 194 then { s with bce.satCnt := countUp s.bce.satCnt max32 } else s
  bceEvent r.1 r.2.1 c r.2.2 latch s

/-- Context `c` evaluates at the latch instant `g` for its output at phase `q` of tick `due`. `s0` is the
state at the latch. -/
def latchOne (s0 : State) (g due q c : Nat) (s : State) : State :=
  let x := s.bctx c
  let arms := x.state == .armed
  let x1 := if arms then { x with state := .run } else x
  let lost := x.state == .posture && x.cause == 5 && x.first
  let (y, reports) := evaluate x1 (latchOf s0 c x1 g) due (q / 10)
  let s := s.setBctx c { y with out := some (y.u, g + phaseLen, y.state == .posture) }
  let s := if arms then bceEvent 197 1 c due g s else s
  let s := if lost then bceEvent 192 5 c (low24 y.u) g s else s
  reports.foldl (fun s r => bceReport c g r s) s

/-- Context `x` latches at `g` (tick `t`) for phase `q` of tick `due`. -/
def latches (x : BCtx) (g t due q : Nat) : Bool :=
  (match x.state with
    | .run | .posture => true
    | .armed => decide (x.t0 ≤ t)
    | _ => false) &&
  dueAt x due q && (match x.out with
    | some (_, i, _) => i != g + phaseLen
    | none => true)

/-- BCE_LATCH at the start of phase `p` of the present tick: the outputs of that instant are released
first, then every due context evaluates on what is visible. -/
def bceLatch (p : Nat) (s : State) : State :=
  let t := s.t
  let g := boundaryOf t + p * phaseLen
  if s.tick.running && decide (s.gts < g + phaseLen) then
    let s := settleSignals g (releaseAll g (s.advance g))
    let q := (p + 1) % 100
    let due := if p = 99 then t + 1 else t
    (bceNumbers.filter fun c => latches (s.bctx c) g t due q).foldl (fun s' c => latchOne s g due q c s') s
  else s

/-! ### Configuration checks (R98, R101, R103, R107, R109, R112, R127) -/

/-- The bits of configuration word `i` that R127 lists. -/
def cfgMask (i : Nat) : Word :=
  match i with
  | 0 => 0xFFFF_03FF
  | 1 => 0x03FF_007F
  | 2 | 3 | 4 | 30 => 0xF000_03FF
  | 5 => 0x03FF_01FF
  | 8 => 0x3FFF_FFFF
  | 9 => 0x0000_03FF
  | 24 => 0x00FF_FFFF
  | 27 => 0x0000_FFFF
  | _ => if i < 32 then 0xFFFF_FFFF else 0

/-- A configuration as stored: every field not listed is 0 (R8, R127). -/
def maskCfg (ws : List Word) : List Word := ws.zipIdx.map fun e => e.1 &&& cfgMask e.2

/-- The period of a configuration in tenths of a tick (R109). -/
def tenths (x : BCtx) : Nat := if x.subtick then 1 else 10 * x.period

/-- CASC_N fits the outer (R109). -/
def ratioFits (inner outer : BCtx) : Bool := inner.cascN * tenths inner == tenths outer

/-- The first condition that holds. -/
def firstOf : List (Bool × Nat × Nat) → Option (Nat × Nat)
  | [] => none
  | (bad, r) :: rest => if bad then some r else firstOf rest

/-- The first check of a configuration that fails, by word: reason and word (R127, R128). -/
def cfgCheck (x : BCtx) : Option (Nat × Nat) :=
  let tickBased := !x.subtick
  let dest := x.f 30 31 28
  firstOf
    [ (x.f 0 30 29 == 3, 1, 0), (x.f 0 27 26 == 3, 1, 0),
      (tickBased && (x.period == 0 || decide (1000 < x.period)), 1, 0),
      (tickBased && decide (x.period ≤ x.f 1 25 16), 1, 1),
      (decide ((if x.subtick then 9 else 99) < x.outPhase), 1, 1),
      (decide (1 < (x.src 2).1), 2, 2), (decide (1 < (x.src 3).1), 2, 3), (decide (2 < (x.src 4).1), 2, 4),
      (decide (1000 < x.cascN), 1, 5), (decide (390 < x.f 5 8 0), 1, 5),
      (x.un 13 != 0 && (decide (x.si 14 < 1) || decide ((2 : Int) ^ x.f 8 24 20 < x.si 14)), 5, 14),
      (decide (x.si 19 < x.si 18), 4, 18), (decide (x.si 21 < x.si 20), 4, 20),
      (x.f 24 23 16 == 1, 1, 24),
      ((x.src 3).1 == 1 && x.f 26 15 0 == 0, 1, 26),
      (decide (2 < dest) || (dest == 1 && decide (47 < x.f 30 9 0)) ||
        (dest == 2 && decide (255 < x.f 30 9 0)), 1, 30) ]

/-! ### Ring operations (R119 to R126) -/

/-- A SCHEMA refusal: its reason goes to BCE_ERR_LAST. -/
def bceSchema (c : OpRef) (xfer reason ctx word : Nat) (s : State) : State :=
  failOp c stSchema xfer { s with
    bce.errLast := wordOf (c.op.opcode * 2 ^ 24 + reason * 65536 + ctx % 128 * 256 + word) }

/-- The context mask in words 6 to 9. -/
def ctxMask (o : Op) : List Nat :=
  let m := o.word64 6 + o.word64 8 * 2 ^ 64
  bceNumbers.filter fun c => m.testBit c

/-- The outer of an inner as CTX_LOAD sees it: in the batch, else as loaded; none where it is EMPTY. -/
def outerIn (batch : Tab BCtx) (s : State) (c : Nat) : Option BCtx :=
  match Tab.find batch c with
  | some x => some x
  | none => if (s.bctx c).state = .empty then none else some (s.bctx c)

/-- The first failing configuration of a batch: context, reason, word. -/
def batchCheck (batch : Tab BCtx) (s : State) : List (Nat × BCtx) → Option (Nat × Nat × Nat)
  | [] => none
  | (n, x) :: r =>
    match cfgCheck x with
    | some e => some (n, e)
    | none =>
      if x.isInner then
        match outerIn batch s x.outer with
        | some o => if ratioFits x o then batchCheck batch s r else some (n, 3, 5)
        | none => batchCheck batch s r
      else batchCheck batch s r

/-- CTX_LOAD (R120). -/
def bceCtxLoad (c : OpRef) (s : State) : State :=
  needBuffer c s fun s =>
    let first := bitsOf (c.op.word 6) 6 0
    let n := bitsOf (c.op.word 7) 7 0
    let s := bceSettle s
    let targets := (List.range n).map fun i => first + i
    if c.op.len ≠ 192 * n then failOp c stLen 0 s
    else if 128 < first + n then bceSchema c 0 1 first 0 s
    else if targets.any fun t => (s.bctx t).state.beyondLoaded then failOp c stBusy 0 s
    else readWhole 0x20 c s fun bs s =>
      let batch : Tab BCtx := (List.range n).map fun i =>
        (first + i, { state := .loaded, cfg := maskCfg (leWords 48 (bs.drop (192 * i))) })
      match batchCheck batch s batch with
      | some e => bceSchema c c.op.len e.2.1 e.1 e.2.2 s
      | none =>
        finishOp c stOk c.op.len (wordOf n) 0 (batch.foldl (fun s e => s.setBctx e.1 e.2) s)

/-- The lane check of R105 for these contexts: the first that would exceed 64 lanes. -/
def laneFault (s : State) (cs : List Nat) : Option Nat :=
  cs.find? fun c => (List.range 100).any fun p =>
    usesLane (s.bctx c) p &&
      decide (64 < lanesIn s p + (cs.filter fun d => decide (d ≤ c) && usesLane (s.bctx d) p).length)

/-- An external destination. -/
def destOf (x : BCtx) : Option (Nat × Nat) :=
  if x.f 30 31 28 = 0 then none else some (x.f 30 31 28, x.f 30 9 0)

/-- The first of these contexts whose destination is shared (R107). -/
def destFault (s : State) (cs : List Nat) : Option Nat :=
  cs.find? fun c => (destOf (s.bctx c)).isSome && bceNumbers.any fun d =>
    d != c && destOf (s.bctx d) == destOf (s.bctx c) &&
      ((s.bctx d).state.beyondLoaded || (cs.contains d && decide (d < c)))

/-- The first of these contexts whose cascade fails as it now stands (R109). -/
def cascadeFault (s : State) (cs : List Nat) : Option Nat :=
  cs.find? fun c =>
    let x := s.bctx c
    x.isInner && ((s.bctx x.outer).state == .empty || !ratioFits x (s.bctx x.outer))

/-- A context starts: ARMED, or SHADOW on a second; SAT, the trace and a SAFE still to be written stay (R93, R97, R122).
-/
def startContext (t0 : Nat) (shadow : Bool) (c : Nat) (s : State) : State :=
  let x := s.bctx c
  s.setBctx c {
    state := if shadow then .shadow else .armed, cfg := x.cfg, sat := x.sat, trace := x.trace
    outLast := x.outLast, badAt := x.badAt, safeAt := x.safeAt, patches := x.patches, oldCfg := x.oldCfg
    first := true, t0 := t0 }

/-- CTX_START (R121). -/
def bceCtxStart (c : OpRef) (s : State) : State :=
  let s := bceSettle s
  let t := c.op.word64 10
  let cs := ctxMask c.op
  let shadow := s.rtl.role == .second
  let t0 := max t (s.t + 1)
  if t ≠ 0 ∧ t ≤ s.t then failOp c stLate 0 s
  else if !s.bce.en || (shadow && !s.bce.replEn) || cs.any (fun n => (s.bctx n).state != .loaded) then
    failOp c stBusy 0 s
  else match laneFault s cs, destFault s cs, cascadeFault s cs with
    | some n, _, _ => bceSchema c 0 6 n 0 s
    | none, some n, _ => bceSchema c 0 7 n 0 s
    | none, none, some n => bceSchema c 0 3 n 5 s
    | none, none, none =>
      finishOp c stOk 0 (wordOf t0) (wordOf cs.length) (cs.foldl (fun s n => startContext t0 shadow n s) s)

/-- CTX_STOP (R122): committed at its check (R471). -/
def bceCtxStop (c : OpRef) (s : State) : State :=
  let s := bceSettle s
  let cs := ctxMask c.op
  if cs.any fun n => !(s.bctx n).state.beyondLoaded then failOp c stBusy 0 s
  else
    let safe := bitOf (c.op.word 10) 0
    let s := cs.foldl (fun s n =>
      let x := s.bctx n
      s.setBctx n { x with stopAt := some (s.t + 1, safe || (x.stopAt.map (·.2)).getD false) }) s
    startOp c [s.t + 1, cs.length] s

/-- The operation of this opcode, started and due by now, completes with the GTS of its boundary. -/
def finishDue (opc : Nat) (s : State) : State :=
  match s.opOf 4 0 (isStarted opc) with
  | some c =>
    let t := c.op.aux.getD 0 0
    if t ≤ s.t then
      finishAt (boundaryOf t) c stOk c.op.xfer (wordOf t) (wordOf (c.op.aux.getD 1 0)) s
    else s
  | none => s

/-- BCE_STOP_EFFECT. -/
def bceStopEffect (s : State) : State := finishDue 3 (bceSettle s)

/-- BCE_PATCH_EFFECT. -/
def bcePatchEffect (s : State) : State := finishDue 7 (bceSettle s)

/-- The 16 state words (R127). -/
def BCtx.stateWords (x : BCtx) : List Word :=
  [ x.status, wordOfInt x.r, wordOfInt x.y, wordOfInt x.u, wordOfInt x.v, wordOfInt x.i, wordOfInt x.df,
    wordOfInt x.xPrev, wordOfInt x.rampFrom, wordOfInt x.rampTo,
    wordOf (x.feCount * 65536 + x.frzRun * 256 + x.resumeCnt), wordOf (x.rampJ * 65536),
    wordOfInt x.frzU0, x.lastFb, wordOf x.fbStamp, wordOf (x.fbStamp / 2 ^ 32) ]

/-- The configuration as 48 words. -/
def BCtx.cfgWords (x : BCtx) : List Word := (List.range 48).map x.w

/-- CTX_READ (R123). -/
def bceCtxRead (c : OpRef) (s : State) : State :=
  let s := bceSettle s
  let x := s.bctx (bitsOf (c.op.word 6) 6 0)
  if c.op.len = 64 then writeOut 0x20 c (wordBytes x.stateWords) x.status (wordOfInt x.u) s
  else if c.op.len = 256 then
    writeOut 0x20 c (wordBytes (x.cfgWords ++ x.stateWords)) x.status (wordOfInt x.u) s
  else failOp c stLen 0 s

/-- CTX_TRACE (R123): oldest entry first. -/
def bceCtxTrace (c : OpRef) (s : State) : State :=
  let x := s.bctx (bitsOf (c.op.word 6) 6 0)
  if c.op.len = 3840 then
    let bs := wordBytes x.trace.flatten
    writeOut 0x20 c (bs ++ List.replicate (3840 - bs.length) 0) (wordOf x.trace.length) 0 s
  else failOp c stLen 0 s

/-- CTX_CLEAR (R124). -/
def bceCtxClear (c : OpRef) (s : State) : State :=
  let s := bceSettle s
  let n := bitsOf (c.op.word 6) 6 0
  let x := s.bctx n
  let fb := x.src 3
  let old := fb.1 == 1 && decide (x.f 26 15 0 * 4000 < s.gts - (settleSignals s.gts s |>.signal fb.2).2)
  let outerOff := x.cause == 4 && (s.bctx x.outer).state != .run
  match x.state with
  | .run =>
    let y := { x with sat := false, feActive := false, cause := 0 }
    finishOp c stOk 0 y.status 0 (s.setBctx n y)
  | .posture =>
    if old || outerOff then failOp c stStale 0 s
    else
      let y := { x with sat := false, feActive := false, cause := 0, clearReq := true }
      finishOp c stOk 0 y.status 0 (s.setBctx n y)
  | _ => failOp c stBusy 0 s

/-- CTX_PATCH (R125): committed at its check (R471). -/
def bceCtxPatch (c : OpRef) (s : State) : State :=
  needBuffer c s fun s =>
    let s := bceSettle s
    let n := bitsOf (c.op.word 6) 6 0
    let first := bitsOf (c.op.word 7) 5 0
    let count := bitsOf (c.op.word 8) 5 0
    let t := c.op.word64 9
    let x := s.bctx n
    if c.op.len ≠ 4 * count then failOp c stLen 0 s
    else if t ≠ 0 ∧ t ≤ s.t then failOp c stLate 0 s
    else if x.state = .empty then failOp c stBusy 0 s
    else if first < 10 ∨ 30 < first + count then
      bceSchema c 0 8 n (if first < 10 ∨ 29 < first then first else 30) s
    else readWhole 0x20 c s fun bs s =>
      let ws := (leWords count bs).zipIdx.map fun e => e.1 &&& cfgMask (first + e.2)
      let eff := startTick s t
      let after := patchDue eff { x with patches := x.patches ++ [(eff, first, ws)] }
      match cfgCheck after with
      | some e => bceSchema c c.op.len e.1 n e.2 s
      | none =>
        startRead c [eff] (s.setBctx n { x with patches := x.patches ++ [(eff, first, ws)] })

/-- A valid pair of SIG_WRITE. -/
def sigPair (o : Op) (i : Nat) : Option (Nat × Word) :=
  let w := o.word (6 + 2 * i)
  if bitOf w 31 then some (bitsOf w 9 0, o.word (7 + 2 * i)) else none

/-- SIG_WRITE (R126): visible to every latch after this cycle (R99). -/
def sigWrite (c : OpRef) (s : State) : State :=
  let pairs := (List.range 5).filterMap (sigPair c.op)
  match pairs.find? fun p => decide (p.1 < 0x300) with
  | some _ => bceSchema c 0 9 0 0 s
  | none =>
    finishOp c stOk 0 (wordOf pairs.length) 0
      (pairs.foldl (fun s p => publishLate (s.gts + 1) p.1 p.2 s.gts s) s)

/-- The 16 bytes of a signal table entry. -/
def sigBytes (e : Word × Nat) : List Byte := leBytes 4 e.1.toNat ++ leBytes 4 0 ++ leBytes 8 e.2

/-- SIG_READ (R126). -/
def sigRead (c : OpRef) (s : State) : State :=
  needBuffer c s fun s =>
    let first := bitsOf (c.op.word 6) 9 0
    let n := bitsOf (c.op.word 7) 10 0
    if n = 0 ∨ 1024 < first + n then bceSchema c 0 9 0 0 s
    else if c.op.len < 16 * n then failOp c stLen 0 s
    else
      let v := settleSignals (s.gts + 1) s
      let bs := (List.range n).flatMap fun i => sigBytes (v.signal (first + i))
      writeOut 0x20 c bs (wordOf n) 0 s

/-! ### Replication (R116 to R118) -/

/-- The replica of context `x` for tick `t`. -/
def bceReplicaOf (t : Nat) (x : BCtx) : BceReplica :=
  { tick := t, crc := crcWords x.cfgWords, words := x.stateWords, rprev := wordOfInt x.rPrev }

/-- The replicas the lead takes at the boundary of `t + 1`. -/
def bceReplicas (t : Nat) (s : State) : Tab BceReplica :=
  (s.bce.ctx.filter fun e => e.2.state == .run || e.2.state == .posture).map fun e =>
    (e.1, bceReplicaOf t e.2)

/-- BCE_REPLICA_TAKE at the boundary of tick `t + 1` on a lead: REPL_T (R116). -/
def bceTickLead (t : Nat) (s : State) : State :=
  if s.bce.replEn && s.rtl.role == .lead then { s with bce.replT := t % 2 ^ 32 } else s

/-- BCE_REPLICA_STORE: a replica arrives for context `c` (R116). With `again` a replica of the tick already held is
newer: the states of one tick come after each latch before a hand-over (R385). -/
def bceStore (again : Bool) (c : Nat) (r : BceReplica) (s : State) : State :=
  let x := patchDue s.t (s.bctx c)
  let s := s.setBctx c x
  let newer := match x.replica with
    | some q => decide (q.tick < r.tick) || (again && q.tick == r.tick)
    | none => true
  if x.state ≠ .shadow then s
  else if r.crc ≠ crcWords ((List.range 48).map fun i => (cfgIn r.tick x).getD i 0) then
    bceEvent 198 1 c r.tick s.gts (s.setBctx c { x with replOk := false, replBad := true })
  else if newer then
    let s := { s.setBctx c { x with replica := some r, replOk := true, replBad := false } with
      bce.replT := max s.bce.replT r.tick % 2 ^ 32 }
    if x.replBad then bceEvent 198 3 c r.tick s.gts s else s
  else s

/-- The state words of a replica taken over (R117). A setpoint that is stale from then on is the one the replica carries
(R288). -/
def takeState (r : BceReplica) (x : BCtx) : BCtx :=
  let w (i : Nat) : Word := r.words.getD i 0
  { x with
    state := .run, cause := 0, first := false, seedX := true, clearReq := false
    r := sint (w 1), y := sint (w 2), u := sint (w 3), v := sint (w 4), i := sint (w 5), df := sint (w 6)
    xPrev := sint (w 7), rampFrom := sint (w 8), rampTo := sint (w 9)
    feCount := bitsOf (w 10) 31 16, frzRun := bitsOf (w 10) 15 8, resumeCnt := 0
    rampJ := bitsOf (w 11) 25 16, frzU0 := sint (w 12), lastFb := w 13
    lastSp := some (if x.isInner && bitOf (x.w 0) 24 then sint (w 9) else sint (w 1))
    fbStamp := (w 14).toNat + (w 15).toNat * 2 ^ 32, rPrev := sint r.rprev, replica := none, replOk := false }

/-- A SHADOW context at takeover at the boundary of `tk` (R117). -/
def takeOne (tk c : Nat) (s : State) : State :=
  let x := s.bctx c
  if x.state ≠ .shadow then s
  else
    let bad (t : Nat) : State :=
      bceEvent 198 2 c t (boundaryOf tk)
        (s.setBctx c { x with state := .posture, cause := 5, first := true, u := x.safe })
    match x.replica with
    | some r =>
      if tk ≤ r.tick + 4 then
        bceEvent 197 3 c tk (boundaryOf tk) (s.setBctx c { takeState r x with handed := (s.signal (x.src 2).2).2 })
      else bad r.tick
    | none => bad 0

/-- Every SHADOW context takes over at the boundary of `tk` (R117). -/
def bceTakeover (tk : Nat) (s : State) : State :=
  bceNumbers.foldl (fun s c => takeOne tk c s) (bceSettle s)

/-- The old lead's contexts go to SHADOW at the boundary of `th` (R93, R118). -/
def bceToShadow (th : Nat) (s : State) : State :=
  bceNumbers.foldl (fun s c =>
    let x := s.bctx c
    match x.state with
    | .run | .posture =>
      bceEvent 197 4 c th (boundaryOf th) (s.setBctx c { x with state := .shadow, cause := 0, replica := none })
    | _ => s) (bceSettle s)

/-- A new look-ahead trajectory is installed (R100). -/
def installTraj (ps : List Word) (stamp : Nat) (s : State) : State :=
  { settleTraj s.gts s with bce.trajLate := some (s.gts + 1, ps, stamp) }

/-- PD2 off, or a time base start: every context EMPTY (R93). -/
def bceReset (s : State) : State := { s with bce := {} }

/-! ### Registers (R128) -/

/-- BCE_CTL written. REPL_EN only while no context is beyond LOADED. -/
def bceCtlWrite (v : Word) (s : State) : State :=
  let s := bceSettle s
  let beyond := s.bce.ctx.any fun e => e.2.state.beyondLoaded
  let en := bitOf v 31
  let s := { s with bce.en := en, bce.replEn := if beyond then s.bce.replEn else bitOf v 30 }
  if en then s else bceStopAll s

/-- The contexts in a state, as a count and as 32 bits of a mask. -/
def bceCount (s : State) (st : CtxState) : Nat := (s.bce.ctx.filter fun e => e.2.state == st).length

def bceMask (s : State) (st : CtxState) (k : Nat) : Word :=
  wordOf (((List.range 32).filter fun i => (s.bctx (32 * k + i)).state == st).foldl (fun m i => m + 2 ^ i) 0)

/-- A read of the BCE window. -/
def bceRead (a : Access) (off : Nat) (s0 : State) : Word × State :=
  let s := bceSettle s0
  let b := s.bce
  let stamp := word64 ((b.traj.map (·.2)).getD 0)
  let hiAddr := 0x0804_004C
  if off = 0x00 then
    (wordOf (oneIf b.en * 2 ^ 31 + oneIf b.replEn * 2 ^ 30 + s.rtl.role.code * 2 ^ 28), s)
  else if off = 0x04 then
    (wordOf (bceCount s .run * 2 ^ 24 + bceCount s .posture * 65536 + bceCount s .shadow * 256
      + bceCount s .armed), s)
  else if off = 0x08 then (b.errLast, s)
  else if off = 0x0C then (rclRead b.satCnt, { s with bce.satCnt := 0 })
  else if 0x10 ≤ off ∧ off < 0x20 then (bceMask s .run ((off - 0x10) / 4), s)
  else if 0x20 ≤ off ∧ off < 0x30 then (bceMask s .posture ((off - 0x20) / 4), s)
  else if off = 0x30 then (wordOf b.ctxSel, s)
  else if off = 0x34 then ((s.bctx b.ctxSel).status, s)
  else if off = 0x38 then (wordOfInt (s.bctx b.ctxSel).outLast, s)
  else if off = 0x40 then (wordOf b.phaseSel, s)
  else if off = 0x44 then (wordOf (if b.phaseSel < 100 then lanesIn s b.phaseSel else 0), s)
  else if off = 0x48 then (lo32 stamp, s.latch a hiAddr (hi32 stamp))
  else if off = 0x4C then shadowed a hiAddr (hi32 stamp) s
  else if off = 0x50 then (wordOf b.replT, s)
  else if off = 0x54 then (rclRead b.replMiss, { s with bce.replMiss := 0 })
  else (0, s)

/-- A write to the BCE window. -/
def bceWrite (off : Nat) (v : Word) (s : State) : State :=
  if off = 0x00 then bceCtlWrite v s
  else if off = 0x30 then { s with bce.ctxSel := bitsOf v 6 0 }
  else if off = 0x40 then { s with bce.phaseSel := bitsOf v 6 0 }
  else s

/-! ### Commands -/

/-- BCE_CTX_LOAD. -/
def execBceCtxLoad (n : Fin 32) (s : State) : Out := .next (takeOp 4 0 1 .serial n.val bceCtxLoad s)

/-- BCE_CTX_START. -/
def execBceCtxStart (n : Fin 32) (s : State) : Out := .next (takeOp 4 0 2 .serial n.val bceCtxStart s)

/-- BCE_CTX_STOP. -/
def execBceCtxStop (n : Fin 32) (s : State) : Out := .next (takeOp 4 0 3 .serial n.val bceCtxStop s)

/-- BCE_STOP_EFFECT. -/
def execBceStopEffect (s : State) : Out := .next (bceStopEffect s)

/-- BCE_CTX_READ. -/
def execBceCtxRead (n : Fin 32) (s : State) : Out := .next (takeOp 4 0 4 .serial n.val bceCtxRead s)

/-- BCE_CTX_TRACE. -/
def execBceCtxTrace (n : Fin 32) (s : State) : Out := .next (takeOp 4 0 5 .serial n.val bceCtxTrace s)

/-- BCE_CTX_CLEAR. -/
def execBceCtxClear (n : Fin 32) (s : State) : Out := .next (takeOp 4 0 6 .serial n.val bceCtxClear s)

/-- BCE_CTX_PATCH. -/
def execBceCtxPatch (n : Fin 32) (s : State) : Out := .next (takeOp 4 0 7 .serial n.val bceCtxPatch s)

/-- BCE_PATCH_EFFECT. -/
def execBcePatchEffect (s : State) : Out := .next (bcePatchEffect s)

/-- SIG_WRITE. -/
def execSigWrite (n : Fin 32) (s : State) : Out := .next (takeOp 4 1 0x10 .serial n.val sigWrite s)

/-- SIG_READ. -/
def execSigRead (n : Fin 32) (s : State) : Out := .next (takeOp 4 1 0x11 .serial n.val sigRead s)

/-- BCE_CTL_WRITE. -/
def execBceCtlWrite (a : Access) (v : Word) (s : State) : Out := .next (gateWrite a 4 2 s (bceCtlWrite v))

/-- BCE_LATCH. -/
def execBceLatch (p : Fin 100) (s : State) : Out := .next (bceLatch p.val s)

/-- BCE_OUTPUT_RELEASE. -/
def execBceOutputRelease (p : Fin 100) (s : State) : Out := .next (bceOutputRelease p.val s)

end Sys2Proof.Machine
end

