-- ==== Sys2Proof/Machine/Rings.lean ====
section
/-!
DEFINITION. HRI: the descriptor rings (spec/02_host_rings_and_fences.md).
-/

namespace Sys2Proof.Machine

/-! ### Sizes, addresses, events -/

/-- Entries of each ring of the pair (R36). -/
def Ring.size (r : Ring) : Nat := 2 ^ r.log2

/-- A base address without its ignored bits 5:0 (R37). -/
def base64 (v : BitVec 64) : Nat := v.toNat / 64 * 64

/-- An event of ring `n` (R62). -/
def ringEvent (n code data : Nat) (s : State) : State := raise (32 + n) code data s

/-- The publish block (R43). -/
def publishBytes (r : Ring) (gts : Nat) : List Byte :=
  leBytes 4 r.sqHead ++ leBytes 4 r.cqTail ++ leBytes 4 r.state.code ++ leBytes 4 r.expSeq ++
    leBytes 8 gts ++ List.replicate 40 0

/-- A refused ring transaction: the ring keeps the operation and enters HALTED_FENCE (R53, R56). -/
def haltFence (n : Nat) (h : Held) (kind : Nat) (s : State) : State :=
  let r := s.ring n
  ringEvent n 5 kind (s.setRing n { r with
    state := .haltedFence, held := some h, dbAt := none,
    haltFrom := if r.state = .haltedFence then r.haltFrom else r.state })

/-- The publish block written whole (R43); refused, it is held. It is written as indices move, and as a state is
entered that lets the host read on: ACTIVE, STALLED, HALTED_SEQ by RESYNC, DRAINING and DISABLED, not at HALTED_FENCE,
whose refused write waits, nor at ABANDON (DESIGN CHOICE, log 166). -/
def publish (n : Nat) (s : State) : State :=
  let r := s.ring n
  let (s, b) := busWrite 3 0x2F false false (base64 r.cbase) (publishBytes r s.gts) s
  if b = .ok then s else haltFence n .publish 2 s

/-- ACTIVE with no completion slot left and a descriptor waiting is STALLED (R53, R59). The doorbell time behind
HRI_FETCH_MAX is forgotten there, as at a halt (DESIGN CHOICE, log 168). -/
def settle (n : Nat) (s : State) : State :=
  let r := s.ring n
  if r.state = .active ∧ r.size ≤ sub16 r.sqHead r.cqHead ∧ r.sqTail ≠ r.sqHead then
    publish n (ringEvent n 4 r.sqHead (s.setRing n { r with state := .stalled, dbAt := none }))
  else s

/-! ### Fetch and checks (R47 to R50) -/

/-- Checks 4 and 5 of R47: LENGTH, then the buffer window (R48, R49). -/
def bufferCheck (r : Ring) (o : Op) : Option Nat :=
  let w := r.wbase.toNat
  let e := w + r.wsize.toNat
  if o.len = 0 then none
  else if o.len = 0xFFFF_FFFF then some stLen
  else if w ≤ o.addr ∧ o.addr < e then (if e < o.addr + o.len then some stLen else none)
  else some stFence

/-- Checks 2 to 5 of R47, in order; none: the descriptor passes. -/
def hriCheck (s : State) (r : Ring) (o : Op) : Option Nat :=
  if !serviceOn s r.svc then some stDomainOff
  else if !((queueOps r.svc r.queue).getD []).contains o.opcode then some stOpcode
  else bufferCheck r o

/-- A descriptor that ends at HRI's checks, or is flushed as it is fetched. -/
def endedOp (o : Op) (status gts : Nat) : Op := { o with stage := .done, status := status, doneAt := gts }

/-- A fetched descriptor is checked and joins the outstanding ones; a wrong SEQ halts the ring (R50). -/
def enlist (n : Nat) (o : Op) (s : State) : State :=
  let r := s.ring n
  if o.seq ≠ r.expSeq then
    ringEvent n 2 (r.expSeq * 65536 + o.seq)
      (s.setRing n { r with
        state := .haltedSeq, gapSeq := o.seq, dbAt := none, ops := r.ops ++ [endedOp o stSeqGap s.gts] })
  else
    let o := match hriCheck s r o with
      | none => o
      | some st => endedOp o st s.gts
    s.setRing n { r with expSeq := inc16 r.expSeq, ops := r.ops ++ [o] }

/-- The descriptor at SQ_HEAD is read; a refused fetch is held (R53). In a drain it is posted as
FLUSHED without a check (R55). HRI_FETCH_MAX counts from the oldest doorbell since the ring was last empty (DESIGN
CHOICE, log 168). -/
def fetchOne (n : Nat) (s : State) : State :=
  let r := s.ring n
  let (s, b, bs) := busRead 3 0x2F false (base64 r.sbase + 64 * (r.sqHead % r.size)) 64 s
  if b ≠ .ok then haltFence n .fetch 0 s
  else
    let o : Op := { words := leWords 16 bs }
    let waited := match r.dbAt with
      | some g => if r.state = .active then s.gts - g else 0
      | none => 0
    let head := inc16 r.sqHead
    let s := { s with hri.fetchMax := satTo (max s.hri.fetchMax waited) max32 }
    let s := s.setRing n { s.ring n with
      sqHead := head, dbAt := if head = r.sqTail then none else r.dbAt }
    let s := if r.state = .draining then
        s.modRing n fun r => { r with ops := r.ops ++ [endedOp o stFlushed s.gts] }
      else enlist n o s
    settle n (publish n s)

/-- The ring may fetch: a descriptor is there and a completion slot is free (R52, R55, R59). -/
def mayFetch (r : Ring) : Bool :=
  decide (sub16 r.sqHead r.cqHead < r.size) &&
  match r.state with
  | .active => r.sqHead != r.sqTail
  | .draining => r.sqHead != r.drainTail
  | _ => false

/-- DESCRIPTOR_FETCH. -/
def descriptorFetch (n : Nat) (s : State) : State := if mayFetch (s.ring n) then fetchOne n s else s

/-! ### Completions (R40 to R43) -/

/-- The PHASE of the entry at CQ_TAIL: 1 on the first pass, inverted on each later one (R42). -/
def Ring.phase (r : Ring) : Nat := if r.cqTail / r.size % 2 = 0 then 1 else 0

/-- A completion entry (R41). -/
def entryBytes (r : Ring) (o : Op) : List Byte :=
  leBytes 4 (r.phase * 2 ^ 31 + o.status * 65536 + o.seq) ++ leBytes 4 o.xfer ++ leBytes 8 o.doneAt ++
    leBytes 4 (o.word 4).toNat ++ leBytes 4 (o.word 5).toNat ++ leBytes 4 o.r0.toNat ++ leBytes 4 o.r1.toNat

/-- The module runs on trial and its host has not written CONFIG_DONE: a completion with SCHEMA rejects the trial
(R405). -/
def unconfigured (s : State) : Bool :=
  s.boot.state == .trial && s.boot.moved && s.upd.runB == s.boot.liveB && !s.upd.done

/-- The entry of the oldest finished descriptor is written, then the publish block; a refused entry is
held. The ring's COMPLETION event is raised where EVT asks for it (R62). -/
def postOne (n : Nat) (o : Op) (rest : List Op) (s : State) : State :=
  let r := s.ring n
  let at' := base64 r.cbase + 64 + 32 * (r.cqTail % r.size)
  let (s, b) := busWrite 3 0x2F false false at' (entryBytes r o) s
  if b ≠ .ok then haltFence n .entry 1 s
  else
    let s := s.setRing n { s.ring n with
      cqTail := inc16 r.cqTail, ops := rest,
      flushed := r.flushed + oneIf (r.state == .draining && o.status == stFlushed) }
    let s := if o.evt then raiseAt o.doneAt (32 + n) 1 (o.status * 65536 + o.seq) s else s
    let s := if o.status = stSchema && unconfigured s then { s with upd.schemaSeen := true } else s
    publish n s

/-- The states in which completions are posted (R52). -/
def RingState.posts : RingState → Bool
  | .active | .stalled | .haltedSeq | .draining => true
  | _ => false

/-- The oldest descriptor that has a completion to come, and the list without it: those of an abandoned ring have none
(R57). -/
def nextPost : List Op → Option (Op × List Op)
  | [] => none
  | o :: r =>
    if o.orphan then
      match nextPost r with
      | some (p, q) => some (p, o :: q)
      | none => none
    else some (o, r)

/-- COMPLETION_POST: completions leave in fetch order (R40). -/
def completionPost (n : Nat) (s : State) : State :=
  let r := s.ring n
  match nextPost r.ops with
  | some (o, rest) => if r.state.posts && o.stage == .done then postOne n o rest s else s
  | none => s

/-! ### Enable, drain, abandon, resync (R51 to R57) -/

/-- An enabled ring is bound to this queue. -/
def Ring.holds (r : Ring) (blk q : Nat) : Bool := r.state != .disabled && r.svc == blk && r.queue == q

/-- The checks of R54 on the registers, in order: the ERR code, or 0. -/
def enableCheck (n : Nat) (s : State) : Nat :=
  let g := (s.ring n).regs
  if g.log2 < 4 ∨ 12 < g.log2 then 1
  else if (queueOps g.svc g.queue).isNone then 2
  else if ringNumbers.any fun k => k != n && (s.ring k).holds g.svc g.queue then 3
  else if g.wsize = 0 then 4 else 0

/-- The register values come into use (02 "HRI registers"). -/
def Ring.place (r : Ring) : Ring :=
  { r with
    sbase := r.regs.sbase, cbase := r.regs.cbase, wbase := r.regs.wbase, wsize := r.regs.wsize
    svc := r.regs.svc, queue := r.regs.queue, log2 := r.regs.log2 }

/-- HRI_RQ_CFG.EN written 1: the checks of R54. In a state other than DISABLED, a ring whose checks pass goes on with
the values in use, and EN decides how its drain ends (R53, R57; DEDUCED, log 167). Descriptors that an ABANDON of this
tick has left running on the same queue run on. -/
def ringEnable (n : Nat) (s : State) : State :=
  let r := s.ring n
  let e := enableCheck n s
  if e ≠ 0 then s.setRing n { r with en := false, err := e }
  else if r.state ≠ .disabled then s.setRing n { r with en := true, err := 0 }
  else
    let same := r.svc == r.regs.svc && r.queue == r.regs.queue
    s.setRing n { r.place with
      en := true, err := 0, state := .init, expSeq := r.seqReg % 65536,
      sqHead := 0, sqTail := 0, cqHead := 0, cqTail := 0, ops := if same then r.ops.filter Op.orphan else [],
      held := none, drainPend := false, flushed := 0, dbAt := none }

/-- The completion region zeroed from 64-byte block `k` on, `left` blocks: the publish block first, then the entries, in
writes of 64 bytes (DESIGN CHOICE, log 169). A refused write is held with the rest (R53, R56). -/
def zeroFrom (n : Nat) : Nat → Nat → State → State
  | 0, _, s => s
  | left + 1, k, s =>
    let (s, b) := busWrite 3 0x2F false false (base64 (s.ring n).cbase + 64 * k) (List.replicate 64 0) s
    if b = .ok then zeroFrom n left (k + 1) s
    else haltFence n (.zero k) (if k = 0 then 2 else 1) s

/-- 64-byte blocks of the completion region: the publish block and the entries (R37). -/
def Ring.blocks (r : Ring) : Nat := 1 + r.size / 2

/-- The zeroing has run to its end: the ring becomes ACTIVE (R53). -/
def initDone (n : Nat) (s : State) : State :=
  let r := s.ring n
  if r.state = .init then
    let s := publish n (s.setRing n { r with state := .active })
    settle n s
  else s

/-- RING_INIT_COMPLETE. -/
def ringInitComplete (n : Nat) (s : State) : State :=
  let r := s.ring n
  if r.state = .init then initDone n (zeroFrom n r.blocks 0 s) else s

/-- A queue of pooled buffers: their descriptors wait, checked, to be taken (R197, R238, R269, R304, R391). -/
def isPool (blk q : Nat) : Bool :=
  (blk, q) ∈ [(0, 1), (6, 1), (6, 2), (6, 3), (7, 2), (7, 3), (8, 2), (8, 3), (9, 2), (12, 2)]

/-- A descriptor that no service has begun, or a pooled buffer not yet taken (R55, R200). -/
def Ring.waits (r : Ring) (o : Op) : Bool :=
  !o.orphan && (o.stage == .fetched || (isPool r.svc r.queue && o.stage == .started && o.aux.isEmpty))

/-- What waits never starts in a drain: FLUSHED, XFER 0, at its begin (R55). -/
def flushWaiting (r : Ring) (gts : Nat) : List Op :=
  r.ops.map fun o => if r.waits o then endedOp o stFlushed gts else o

/-- A drain begins, or in HALTED_FENCE is recorded as pending (R55, R57). -/
def beginDrain (n : Nat) (s : State) : State :=
  let r := s.ring n
  match r.state with
  | .disabled => s
  | .draining => s
  | .haltedFence =>
    s.setRing n { r with
      drainTail := if r.drainPend || r.haltFrom == .draining then r.drainTail else r.sqTail
      drainPend := true }
  | st =>
    publish n (s.setRing n { r with
      state := .draining, preDrain := st, drainTail := r.sqTail, drainAt := s.gts, flushed := 0,
      dbAt := none, ops := flushWaiting r s.gts })

/-- HRI_RQ_CFG.EN written 0 (R53, R55, R57). -/
def ringDisable (n : Nat) (s : State) : State := beginDrain n (s.modRing n fun r => { r with en := false })

/-- DB_RANGE (R62). -/
def dbRange (n kind v : Nat) (s : State) : State := ringEvent n 3 (kind * 65536 + v % 65536) s

/-- The ring goes DISABLED: HRI_RQ_SEQ takes EXP_SEQ (R50), and the event tells of the flushed ones. -/
def goDisabled (n data : Nat) (s : State) : State :=
  let r := s.ring n
  ringEvent n 6 data (s.setRing n { r with
    state := .disabled, en := false, seqReg := r.expSeq, drainPend := false, held := none })

/-- HRI_RQ_FLUSH bit 1 (R57): only in HALTED_FENCE. What a service has started runs on to the next tick boundary. -/
def ringAbandon (n : Nat) (v : Word) (s : State) : State :=
  let r := s.ring n
  if r.state = .haltedFence then
    goDisabled n 0xFFFF_FFFF (s.setRing n { r with
      ops := (r.ops.filter fun o => o.stage == .started && !r.waits o).map fun o => { o with orphan := true }
      abandonAt := s.gts })
  else dbRange n 3 v.toNat s

/-- A write to HRI_RQ_FLUSH (R57): in HALTED_FENCE bit 1 makes it an ABANDON; elsewhere bit 1 is
refused and bit 0 starts a flush on its own. -/
def ringFlushWrite (n : Nat) (v : Word) (s : State) : State :=
  let halted := (s.ring n).state == .haltedFence
  let s := if bitOf v 1 then ringAbandon n v s else s
  if bitOf v 0 && !(bitOf v 1 && halted) then beginDrain n s else s

/-- The held operation is issued again (R56). -/
def retry (n : Nat) (h : Option Held) (s : State) : State :=
  let r := s.ring n
  match h with
  | none => s
  | some .fetch => if mayFetch r then fetchOne n s else s
  | some .entry =>
    match nextPost r.ops with
    | some (o, rest) => postOne n o rest s
    | none => s
  | some .publish => publish n s
  | some (.zero k) => zeroFrom n (r.blocks - k) k s

/-- The end of a drain, not beyond the SQ_TAIL a RESYNC gives (log 8). -/
def shorten (r : Ring) (tail : Nat) : Nat :=
  if sub16 r.drainTail r.sqHead ≤ sub16 tail r.sqHead then r.drainTail else tail

/-- An accepted RESYNC of a ring in HALTED_FENCE (R53, R56, R57): the held operation is retried first;
refused again, the ring is back in HALTED_FENCE as it was. With a drain pending, a held fetch is retried as a fetch of
the drain: its descriptor is FLUSHED without a check (DESIGN CHOICE, log 170). -/
def resyncFence (n expSeq tail : Nat) (s : State) : State :=
  let r := s.ring n
  let drains := r.drainPend || r.haltFrom == .draining
  let s1 := retry n r.held (s.setRing n { r with
    expSeq := expSeq, sqTail := tail, held := none, drainPend := false,
    drainTail := if drains then shorten r tail else r.drainTail,
    state := if drains then .draining else .active,
    preDrain := if r.haltFrom = .draining then r.preDrain else .active })
  if (s1.ring n).state = .haltedFence then
    s1.modRing n fun q => { q with haltFrom := r.haltFrom, drainPend := r.drainPend }
  else
    let s2 := if r.drainPend && r.haltFrom != .draining then
        s1.modRing n fun q => { q with
          drainAt := s1.gts, flushed := 0, ops := flushWaiting q s1.gts }
      else s1
    settle n (publish n s2)

/-- A write to HRI_RQ_RESYNC (R51). -/
def ringResync (n : Nat) (v : Word) (s : State) : State :=
  let r := s.ring n
  let expSeq := bitsOf v 31 16
  let tail := bitsOf v 15 0
  if sub16 tail r.sqHead ≤ r.size then
    match r.state with
    | .haltedSeq =>
      settle n (publish n (s.setRing n { r with expSeq := expSeq, sqTail := tail, state := .active }))
    | .haltedFence => resyncFence n expSeq tail s
    | _ => dbRange n 2 tail s
  else dbRange n 2 tail s

/-- A flush ends with EN 1: the state held before it. The ring's event records an entry to HALTED_SEQ, with the SEQ of
the descriptor that made the gap (R53; DEDUCED, log 171). -/
def flushEnd (n : Nat) (s : State) : State :=
  let r := s.ring n
  let s := s.setRing n { r with state := if r.preDrain = .stalled then .active else r.preDrain }
  let s := if r.preDrain = .haltedSeq then ringEvent n 2 (r.expSeq * 65536 + r.gapSeq) s else s
  settle n (publish n s)

/-- DRAIN_COMPLETE (R53). The last publish block of a ring that goes DISABLED is not held where it is refused or meets
PD4 off: R53 lists no way from DISABLED to HALTED_FENCE (DESIGN CHOICE, log 166). -/
def drainComplete (n : Nat) (s : State) : State :=
  let r := s.ring n
  if r.state = .draining ∧ r.sqHead = r.drainTail ∧ r.ops.all Op.orphan then
    if r.en then flushEnd n s
    else
      let s := goDisabled n r.flushed s
      (busWrite 3 0x2F false false (base64 r.cbase) (publishBytes (s.ring n) s.gts) s).1
  else s

/-- Descriptors of ring `n` that a drain begun before the present tick, or an ABANDON, stops at the boundary (R55,
R57). -/
def stopsNow (s : State) (n : Nat) (o : Op) : Bool :=
  let r := s.ring n
  o.stage == .started &&
    if o.orphan then decide (r.abandonAt / tickLen < s.t)
    else r.state == .draining && decide (r.drainAt / tickLen < s.t)

/-- Started descriptors of a drain stop at the tick boundary after its begin, FLUSHED with the bytes moved (R55); those
of an abandoned ring stop without completions (R57). -/
def cutRing (n : Nat) (s : State) : State :=
  let r := s.ring n
  let at' := boundaryOf (r.drainAt / tickLen + 1)
  let ops := r.ops.map fun o =>
    if stopsNow s n o ∧ o.orphan = false then
      { o with stage := .done, status := stFlushed, r0 := 0, r1 := 0, doneAt := at' }
    else o
  s.setRing n { r with
    ops := if r.abandonAt / tickLen < s.t then ops.filter fun o => !o.orphan else ops }

/-! ### Doorbells (R45) -/

/-- A write to HRI_DBn. -/
def sqDoorbell (n : Nat) (v : Word) (s : State) : State :=
  let r := s.ring n
  let t := bitsOf v 15 0
  if r.state = .disabled ∨ (r.size + sub16 r.sqHead r.sqTail) % 65536 < sub16 t r.sqTail then
    dbRange n 0 t s
  else settle n (s.setRing n { r with
    sqTail := t,
    dbAt := if r.state = .active ∧ t ≠ r.sqTail then some (r.dbAt.getD s.gts) else r.dbAt })

/-- A write to HRI_CDBn; a slot freed ends STALLED (R53, R59). -/
def cqDoorbell (n : Nat) (v : Word) (s : State) : State :=
  let r := s.ring n
  let h := bitsOf v 15 0
  if r.state = .disabled ∨ sub16 r.cqTail r.cqHead < sub16 h r.cqHead then dbRange n 1 h s
  else
    let free := r.state == .stalled && h != r.cqHead
    let s := s.setRing n { r with cqHead := h, state := if free then .active else r.state }
    if free then publish n s else s

/-! ### Registers (02 "HRI registers") -/

/-- A mask of the rings that satisfy `p`. -/
def ringMask (p : Ring → Bool) (s : State) : Word :=
  wordOf ((ringNumbers.filter fun n => p (s.ring n)).foldl (fun m n => m + 2 ^ n) 0)

/-- HRI_RQ_CFG. -/
def Ring.cfgWord (r : Ring) : Word :=
  wordOf (oneIf r.en * 2 ^ 31 + r.regs.svc * 65536 + r.regs.queue * 256 + r.regs.log2)

/-- HRI_RQ_STATE. -/
def Ring.stateWord (r : Ring) : Word :=
  wordOf (r.state.code * 2 ^ 28 + r.err * 2 ^ 24 + oneIf r.drainPend * 65536 + r.sqTail)

/-- A read of ring `n`'s registers. -/
def ringRead (r : Ring) (off : Nat) : Word :=
  let g := r.regs
  if off = 0x00 then lo32 g.sbase &&& (0xFFFF_FFC0 : Word)
  else if off = 0x04 then hi32 g.sbase
  else if off = 0x08 then lo32 g.cbase &&& (0xFFFF_FFC0 : Word)
  else if off = 0x0C then hi32 g.cbase
  else if off = 0x10 then lo32 g.wbase
  else if off = 0x14 then hi32 g.wbase
  else if off = 0x18 then lo32 g.wsize
  else if off = 0x1C then hi32 g.wsize
  else if off = 0x20 then r.cfgWord
  else if off = 0x24 then wordOf (if r.state = .disabled then r.seqReg else r.expSeq)
  else if off = 0x28 then r.stateWord
  else if off = 0x2C then wordOf (r.sqHead * 65536 + r.cqTail)
  else if off = 0x30 then wordOf r.cqHead
  else 0

/-- A read of the HRI window. -/
def hriRead (off : Nat) (s : State) : Word × State :=
  if off = 0x00 then (ringMask (fun r => r.state != .disabled) s, s)
  else if off = 0x04 then (ringMask (fun r => r.state == .haltedSeq || r.state == .haltedFence) s, s)
  else if off = 0x08 then (ringMask (fun r => r.state == .stalled) s, s)
  else if off = 0x0C then (rclRead s.hri.fetchMax, { s with hri.fetchMax := 0 })
  else if 0x1000 ≤ off ∧ off < 0x1000 + 0x40 * 32 then
    (ringRead (s.ring ((off - 0x1000) / 0x40)) ((off - 0x1000) % 0x40), s)
  else (0, s)

/-- A write to HRI_RQ_CFG: the binding fields are taken only while EN is 0 (R54), then EN acts. -/
def ringCfgWrite (n : Nat) (v : Word) (s : State) : State :=
  let r := s.ring n
  let s := if r.en then s
    else s.setRing n { r with regs := { r.regs with
      svc := bitsOf v 23 16, queue := bitsOf v 10 8, log2 := bitsOf v 3 0 } }
  if bitOf v 31 then (if r.en then s else ringEnable n s)
  else if r.en then ringDisable n s else s

/-- A write to ring `n`'s registers: placement only while EN is 0 (R54). -/
def ringWrite (n off : Nat) (v : Word) (s : State) : State :=
  let r := s.ring n
  if off = 0x20 then ringCfgWrite n v s
  else if off = 0x34 then ringResync n v s
  else if off = 0x38 then ringFlushWrite n v s
  else if r.en then s
  else if off < 0x08 then s.setRing n { r with regs.sbase := setHalf r.regs.sbase off v }
  else if off < 0x10 then s.setRing n { r with regs.cbase := setHalf r.regs.cbase (off - 0x08) v }
  else if off < 0x18 then s.setRing n { r with regs.wbase := setHalf r.regs.wbase (off - 0x10) v }
  else if off < 0x20 then s.setRing n { r with regs.wsize := setHalf r.regs.wsize (off - 0x18) v }
  else if off = 0x24 then s.setRing n { r with seqReg := bitsOf v 15 0 }
  else s

/-- A write to the HRI window. -/
def hriWrite (off : Nat) (v : Word) (s : State) : State :=
  if 0x100 ≤ off ∧ off < 0x180 then sqDoorbell ((off - 0x100) / 4) v s
  else if 0x200 ≤ off ∧ off < 0x280 then cqDoorbell ((off - 0x200) / 4) v s
  else if 0x1000 ≤ off ∧ off < 0x1000 + 0x40 * 32 then
    ringWrite ((off - 0x1000) / 0x40) ((off - 0x1000) % 0x40) v s
  else s

/-! ### Commands -/

/-- SQ_DOORBELL. -/
def execSqDoorbell (a : Access) (n : Fin 32) (v : Word) (s : State) : Out :=
  .next (gateWrite a 2 2 s (sqDoorbell n.val v))

/-- CQ_DOORBELL. -/
def execCqDoorbell (a : Access) (n : Fin 32) (v : Word) (s : State) : Out :=
  .next (gateWrite a 2 2 s (cqDoorbell n.val v))

/-- DESCRIPTOR_FETCH. -/
def execDescriptorFetch (n : Fin 32) (s : State) : Out := .next (descriptorFetch n.val s)

/-- COMPLETION_POST. -/
def execCompletionPost (n : Fin 32) (s : State) : Out := .next (completionPost n.val s)

/-- RING_ENABLE: HRI_RQ_CFG written with this word; its EN bit is 1. -/
def execRingEnable (a : Access) (n : Fin 32) (v : Word) (s : State) : Out :=
  .next (gateWrite a 2 2 s (ringCfgWrite n.val (setBit v 31 true)))

/-- RING_INIT_COMPLETE. -/
def execRingInitComplete (n : Fin 32) (s : State) : Out := .next (ringInitComplete n.val s)

/-- RING_DISABLE: HRI_RQ_CFG written with this word; its EN bit is 0. -/
def execRingDisable (a : Access) (n : Fin 32) (v : Word) (s : State) : Out :=
  .next (gateWrite a 2 2 s (ringCfgWrite n.val (setBit v 31 false)))

/-- RING_FLUSH: HRI_RQ_FLUSH written with bit 0 set. -/
def execRingFlush (a : Access) (n : Fin 32) (v : Word) (s : State) : Out :=
  .next (gateWrite a 2 2 s (ringFlushWrite n.val (setBit v 0 true)))

/-- RING_ABANDON: HRI_RQ_FLUSH written with bit 1 set. -/
def execRingAbandon (a : Access) (n : Fin 32) (v : Word) (s : State) : Out :=
  .next (gateWrite a 2 2 s (ringFlushWrite n.val (setBit v 1 true)))

/-- RING_RESYNC. -/
def execRingResync (a : Access) (n : Fin 32) (v : Word) (s : State) : Out :=
  .next (gateWrite a 2 2 s (ringResync n.val v))

/-- DRAIN_COMPLETE. -/
def execDrainComplete (n : Fin 32) (s : State) : Out := .next (drainComplete n.val s)

end Sys2Proof.Machine
end

