-- ==== Sys2Proof/Machine/Crypto.lean ====
section
/-!
DEFINITION. SHA-256 (FIPS 180-4) and the verification of an ECDSA P-256 signature (FIPS 186), as the package checks
of R397 to R399 use them.
-/

namespace Sys2Proof.Machine

/-! ### SHA-256 -/

/-- The bits of the `k`-th root of `n` below bit `i`, under those found already. -/
def rootBits (k n : Nat) : Nat → Nat → Nat
  | 0, r => r
  | i + 1, r => rootBits k n i (if (r + 2 ^ i) ^ k ≤ n then r + 2 ^ i else r)

/-- The first 32 bits of the fraction of the `k`-th root of a prime below 512. -/
def rootFraction (k p : Nat) : Word := wordOf (rootBits k (p * 2 ^ (32 * k)) 37 0 % 2 ^ 32)

/-- The primes below 312, of which there are 64. -/
def shaPrimes : List Nat := (List.range 312).filter fun n =>
  decide (2 ≤ n) && (List.range 18).all fun d => decide (d < 2) || n == d || n % d != 0

/-- The constant of each round: FIPS 180-4 takes it from the cube root of the prime of its number. -/
def roundConstants : List Word := shaPrimes.map (rootFraction 3)

/-- The hash that a message begins with: from the square roots of the first eight primes. -/
def hashStart : List Word := (shaPrimes.take 8).map (rootFraction 2)

/-- Three rotations of a word added bit by bit. -/
def rotations (a b c : Nat) (x : Word) : Word := x.rotateRight a ^^^ x.rotateRight b ^^^ x.rotateRight c

/-- Two rotations and a shift. -/
def spread (a b c : Nat) (x : Word) : Word := x.rotateRight a ^^^ x.rotateRight b ^^^ (x >>> c)

/-- The bits of `y` where `x` is 1, of `z` where it is 0; the bits that two of three words have. -/
def pick (x y z : Word) : Word := z ^^^ (x &&& (y ^^^ z))
def majority (x y z : Word) : Word := (x &&& y) ||| (z &&& (x ||| y))

/-- A number from big-endian bytes. -/
def bytesBe (bs : List Byte) : Nat := bs.foldl (fun n b => n * 256 + b.toNat) 0

/-- `n` big-endian words. -/
def wordsBe : Nat → List Byte → List Word
  | 0, _ => []
  | n + 1, bs => wordOf (bytesBe (bs.take 4)) :: wordsBe n (bs.drop 4)

/-- The message schedule, the last word first, `n` words longer. -/
def shaExpand : Nat → List Word → List Word
  | 0, ws => ws
  | n + 1, ws =>
    shaExpand n ((spread 17 19 10 (ws.getD 1 0) + ws.getD 6 0 + spread 7 18 3 (ws.getD 14 0) + ws.getD 15 0) :: ws)

/-- One round on the eight working variables. -/
def shaRound (v : List Word) (kw : Word × Word) : List Word :=
  match v with
  | [a, b, c, d, e, f, g, h] =>
    let x := h + rotations 6 11 25 e + pick e f g + kw.1 + kw.2
    [x + rotations 2 13 22 a + majority a b c, a, b, c, d + x, e, f, g]
  | _ => v

/-- One block of 64 bytes. -/
def shaBlock (h : List Word) (bs : List Byte) : List Word :=
  let ws := (shaExpand 48 (wordsBe 16 bs).reverse).reverse
  h.zipWith (fun x y => x + y) ((roundConstants.zip ws).foldl shaRound h)

/-- `n` blocks. -/
def shaBlocks : Nat → List Word → List Byte → List Word
  | 0, h, _ => h
  | n + 1, h, bs => shaBlocks n (shaBlock h (bs.take 64)) (bs.drop 64)

/-- The padded message. -/
def shaPad (bs : List Byte) : List Byte :=
  bs ++ [0x80] ++ List.replicate ((119 - bs.length % 64) % 64) 0 ++ (leBytes 8 (8 * bs.length)).reverse

/-- The digest as a number, most significant byte first. -/
def sha256 (bs : List Byte) : Nat :=
  let p := shaPad bs
  (shaBlocks (p.length / 64) hashStart p).foldl (fun n w => n * 2 ^ 32 + w.toNat) 0

/-! ### ECDSA over P-256 -/

/-- The field prime, the order of the base point, the base point, and the curve's coefficient b. -/
def p256p : Nat := 0xffffffff00000001000000000000000000000000ffffffffffffffffffffffff
def p256n : Nat := 0xffffffff00000000ffffffffffffffffbce6faada7179e84f3b9cac2fc632551
def p256g : Nat × Nat :=
  (0x6b17d1f2e12c4247f8bce6e563a440f277037d812deb33a0f4a13945d898c296,
   0x4fe342e2fe1a7f9b8ee7eb4a7c0f9e162bce33576b315ececbb6406837bf51f5)

/-- `b ^ e` modulo `m`, the exponent below `2 ^ k`. -/
def powMod (m b : Nat) : Nat → Nat → Nat
  | 0, _ => 1 % m
  | k + 1, e =>
    let h := powMod m b k (e / 2)
    if e % 2 = 1 then h * h % m * b % m else h * h % m

/-- The inverse modulo a prime. -/
def invMod (m a : Nat) : Nat := powMod m a 256 (m - 2)

/-- The sum of two points; none is the point at infinity. -/
def ecAdd : Option (Nat × Nat) → Option (Nat × Nat) → Option (Nat × Nat)
  | none, q => q
  | p, none => p
  | some (x1, y1), some (x2, y2) =>
    let m := p256p
    if x1 = x2 ∧ (y1 + y2) % m = 0 then none
    else
      let l := if x1 = x2 then (3 * x1 * x1 + (m - 3)) % m * invMod m (2 * y1 % m) % m
        else (y2 + (m - y1)) % m * invMod m ((x2 + (m - x1)) % m) % m
      let x3 := (l * l + 2 * m - x1 - x2) % m
      some (x3, (l * ((x1 + (m - x3)) % m) + (m - y1)) % m)

/-- `k` times a point, `k` below `2 ^ n`. -/
def ecMul (p : Option (Nat × Nat)) : Nat → Nat → Option (Nat × Nat)
  | 0, _ => none
  | n + 1, k =>
    let h := ecMul p n (k / 2)
    let d := ecAdd h h
    if k % 2 = 1 then ecAdd d p else d

/-- The signature (r, s) fits the digest `e` under the public key `q`. -/
def ecdsaOk (q : Nat × Nat) (e r s : Nat) : Bool :=
  let n := p256n
  if r = 0 ∨ n ≤ r ∨ s = 0 ∨ n ≤ s then false
  else
    let w := invMod n s
    match ecAdd (ecMul (some p256g) 256 (e * w % n)) (ecMul (some q) 256 (r * w % n)) with
    | none => false
    | some (x, _) => x % n == r

end Sys2Proof.Machine
end

