-- ==== Sys2Proof/Machine/Recorder.lean ====
section
/-!
DEFINITION. The event recorder REC (spec/18_event_recorder.md).
-/

namespace Sys2Proof.Machine

/-! ### Recording (R433 to R435) -/

/-- REC_EN word `k` at reset (R433, R441 table). -/
def recEnReset (k : Nat) : Word :=
  if k = 1 then 0 else if k = 15 then (0x0000_FFFF : Word) else (0xFFFF_FFFF : Word)

/-- The bits of REC_EN word `k` that are always 1 (R433). -/
def recEnFixed (k : Nat) : Word :=
  if k = 0 then (0xFFFF_FFFF : Word)
  else if k = 14 then (0xFFFF_FF00 : Word)
  else if k = 15 then (0x0000_FFFF : Word) else 0

/-- REC_EN word `k`. -/
def Rec.enWord (r : Rec) (k : Nat) : Word := Tab.get (recEnReset k) r.en k

/-- The source's recording bit (R433). -/
def Rec.records (r : Rec) (src : Nat) : Bool := bitOf (r.enWord (src / 32)) (src % 32)

/-- The 1,000-tick window a cause lies in (R434). -/
def windowOf (gts : Nat) : Nat := gts / tickLen / 1000

/-- The key of a per-window count: window and source. -/
def windowKey (gts src : Nat) : Nat := windowOf gts * 512 + src

/-- Sources 480 to 487 are never limited (R434). -/
def unlimited (src : Nat) : Bool := decide (480 ≤ src) && decide (src ≤ 487)

/-- A record placed in staging in Run or Descent; with staging full it is lost (R435, R437). -/
def placeRecord (rec : List Word) (s : State) : State :=
  if s.recorder.staging.length < 256 then
    { s with recorder.staging := s.recorder.staging ++ [rec] }
  else { s with recorder.lost := countUp s.recorder.lost max32 }

/-- The recorder takes an event as it leaves the merger (R433 to R435). -/
def recordEvent (e : Ev) (ooo : Bool) (s : State) : State :=
  let r := s.recorder
  let key := windowKey e.gts e.src
  let n := Tab.get 0 r.inWindow key
  if e.noRec || !r.records e.src then s
  else if unlimited e.src then placeRecord (mkRecord s e.gts e.src e.code e.data ooo false) s
  else if r.rate ≤ n then
    { s with recorder.suppressed := Tab.put r.suppressed key (Tab.get 0 r.suppressed key + 1) }
  else
    placeRecord (mkRecord s e.gts e.src e.code e.data ooo false)
      { s with recorder.inWindow := Tab.put r.inWindow key (n + 1) }

/-- An event of the recorder that it records itself and that still goes to the queue (R436, R440). -/
def raiseNoRec (src code data : Nat) (s : State) : State :=
  if s.mergerOn then
    raiseEv { gts := s.gts, src := src, code := code, data := wordOf data, noRec := true } s
  else s

/-! ### Flash (R432, R436, R437) -/

/-- One record written to Scree, and to Cairn while it holds fewer than 256 (R432). -/
def writeFlash (rec : List Word) (s : State) : State :=
  let r := s.recorder
  let held := sub32 r.next r.first
  let s := { s with
    recorder.scree := Tab.put (if held < 8192 then r.scree else Tab.del r.scree r.first) r.next rec
    recorder.first := if held < 8192 then r.first else inc32 r.first
    recorder.next := inc32 r.next }
  if r.cairn.length < 256 then
    let s := { s with recorder.cairn := r.cairn ++ [rec] }
    if r.cairn.length + 1 = 256 && !r.cairnFull then
      raise 484 1 256 { s with recorder.cairnFull := true }
    else s
  else s

/-- A record the recorder makes itself and writes at once. -/
def writeOwn (src code data : Nat) (s : State) : State :=
  raiseNoRec src code data
    (writeFlash (mkRecord s (if s.mergerOn then s.gts else 0) src code (wordOf data) false (!s.mergerOn)) s)

/-- The staging SRAM written to flash (R435 to R437); records overwritten in it count in REC_LOST (R436). With `ok`
false the write fails: the records concerned are tried once more at the next flush and then dropped. -/
def flushRecorder (ok : Bool) (s : State) : State :=
  let r := s.recorder
  if r.staging.isEmpty && r.overwritten == 0 then s
  else if ok then
    let s := if r.overwritten = 0 then s
      else writeOwn 480 1 r.overwritten { s with
        recorder.overwritten := 0, recorder.lost := satTo (r.lost + r.overwritten) max32 }
    let s := { s with recorder.staging := [], recorder.failed := 0, recorder.hoursFlash := r.hours }
    r.staging.foldl (fun s rec => writeFlash rec s) s
  else if r.failed = 0 then { s with recorder.failed := r.staging.length }
  else
    raise 480 3 r.failed
      { s with
        recorder.staging := r.staging.drop r.failed
        recorder.failed := r.staging.length - r.failed
        recorder.lost := satTo (r.lost + r.failed) max32 }

/-- A flush is due: 64 records waiting or a tick with T mod 100 = 0 in Run and Descent (R435), 192 in
Bivouac (R436); Cold and Fixed-rope have no flash. -/
def flushDue (s : State) : Bool :=
  match s.mode with
  | .run | .descent =>
    s.pdOn 2 && (decide (64 ≤ s.recorder.staging.length) || s.t % 100 == 0)
  | .bivouac => decide (192 ≤ s.recorder.staging.length)
  | _ => false

/-- REC_FLUSH (R435 to R437). -/
def recFlush (ok : Bool) (s : State) : State := if flushDue s then flushRecorder ok s else s

/-- The SUPPRESSED events of the windows that have ended, in source order (R434). -/
def raiseSuppressed (b : Nat) (l : List (Nat × Nat)) (s : State) : State :=
  l.foldl (fun s e => raiseAt b 481 1 (satTo e.2 0xFFFF * 2 ^ 16 + e.1 % 512) s) s

/-- RATE_WINDOW_END (R434): the window before the present one is closed, once every event with its
cause in it has left the merger. -/
def rateWindowEnd (s : State) : State :=
  let w := windowOf s.gts
  let b := w * 1000 * tickLen
  if s.sys.merger.any fun e => e.gts < b then s
  else
    let r := s.recorder
    raiseSuppressed b (r.suppressed.filter fun e => e.1 / 512 < w)
      { s with
        recorder.suppressed := r.suppressed.filter fun e => w ≤ e.1 / 512
        recorder.inWindow := r.inWindow.filter fun e => w ≤ e.1 / 512 }

/-- HOURS_ADVANCE (R431): counted in Run, Descent and Fixed-rope; saturates. -/
def hoursAdvance (s : State) : State :=
  match s.mode with
  | .run | .descent | .fixedRope => { s with recorder.hours := countUp s.recorder.hours max32 }
  | _ => s

/-! ### Reading (R438) -/

/-- The record under a cursor and its REC_WSTAT (R438). -/
def Rec.look (r : Rec) (cairn : Bool) (c : Nat) : List Word × Nat :=
  let judge (rec : List Word) : List Word × Nat :=
    if crcWords (rec.take 7) = rec.getD 7 0 then (rec, 0) else (rec, 3)
  if cairn then
    if c < r.cairn.length then judge (r.cairn.getD c []) else ([], 2)
  else if sub32 c r.next < 2 ^ 31 then ([], 2)
  else if 2 ^ 31 ≤ sub32 c r.first then ([], 1)
  else match Tab.find r.scree c with
    | some rec => judge rec
    | none => ([], 1)

/-- A read of REC_WINDOW0 latches the record under the reader's cursor (R438). -/
def latchWindow (a : Access) (s : State) : State :=
  let r := s.recorder
  let k := a.ini.id
  { s with recorder.window :=
      Tab.put r.window k (r.look (Tab.get false r.csel k) (Tab.get 0 r.cursor k)) }

/-- REC_WINDOW word `i` and REC_WSTAT as latched for this initiator. -/
def windowOfIni (a : Access) (s : State) : List Word × Nat := Tab.get ([], 2) s.recorder.window a.ini.id

/-- The cursor moves on after REC_WINDOW7, unless REC_WSTAT reads EMPTY (R438). -/
def advanceCursor (a : Access) (s : State) : State :=
  let r := s.recorder
  if (windowOfIni a s).2 = 2 then s
  else { s with recorder.cursor := Tab.put r.cursor a.ini.id (inc32 (Tab.get 0 r.cursor a.ini.id)) }

/-! ### Clearing and copying (R439, R440) -/

/-- REC_CLEAR (R440). -/
def recClear (a : Access) (v : Word) (s : State) : State :=
  let r := s.recorder
  if secureOf a && bitsOf v 31 16 == 0x5C3E && bitOf v 0 then
    writeOwn 482 1 (sub32 r.next r.first % 2 ^ 24 * 256 + a.ini.id)
      { s with recorder.first := r.next, recorder.scree := [], recorder.clears := r.clears + 1 }
  else raise 483 1 a.ini.id s

/-- The records a copy takes: from a serial or index on, at most `n`, up to the newest. -/
def copyRecords (r : Rec) (cairn : Bool) (from' n : Nat) : List (List Word) :=
  if cairn then (r.cairn.drop from').take n
  else (List.range (min n (sub32 r.next from'))).map fun i =>
    Tab.get [] r.scree ((from' + i) % 2 ^ 32)

/-- The first serial or index a copy takes: the later of the one asked and REC_SCREE_FIRST. -/
def copyFrom (r : Rec) (cairn : Bool) (asked : Nat) : Nat :=
  if cairn then asked
  else if 2 ^ 31 ≤ sub32 asked r.first then r.first
  else if sub32 asked r.next < 2 ^ 31 then r.next else asked

/-- REC_COPY (R439): the checks, and the copy as far as records and fences go. The transactions are
made at the start and the completion is posted later (log 20). -/
def recCopy (c : OpRef) (s : State) : State :=
  needBuffer c s fun s =>
    if c.op.len % 32 ≠ 0 ∨ 32 * 8192 < c.op.len then failOp c stLen 0 s
    else
      let r := s.recorder
      let cairn := bitOf (c.op.word 6) 0
      let f := copyFrom r cairn (c.op.word 7).toNat
      let recs := copyRecords r cairn f (c.op.len / 32)
      let bs := recs.flatMap fun rec => wordBytes ((List.range 8).map fun i => rec.getD i 0)
      let (s, x) := writeBuffer 0x2D c.op.addr bs s
      if x.status = 0 then
        s.setOp c { c.op with stage := .started, xfer := x.moved, aux := [f, recs.length, r.clears] }
      else failOp c x.status x.moved s

/-- REC_COPY_COMPLETE (R439): OK with every record asked for, INCOMPLETE at the newest record or
after a clear. -/
def recCopyComplete (s : State) : State :=
  match s.opOf 15 0 (isStarted 1) with
  | none => s
  | some c =>
    let f := c.op.aux.getD 0 0
    let n := c.op.aux.getD 1 0
    let whole := n * 32 == c.op.len && s.recorder.clears == c.op.aux.getD 2 0
    finishOp c (if whole then stOk else stIncomplete) c.op.xfer (wordOf n) (wordOf f) s

/-! ### Registers (18 "REC registers") -/

/-- A read of the REC window. -/
def recRead (a : Access) (off : Nat) (s : State) : Word × State :=
  let r := s.recorder
  let k := a.ini.id
  if off = 0x00 then (wordOf (Tab.get 0 r.cursor k), s)
  else if off = 0x04 then (wordOf (oneIf (Tab.get false r.csel k)), s)
  else if off = 0x08 then (wordOf (windowOfIni a s).2, s)
  else if off = 0x20 then
    let s := latchWindow a s
    ((windowOfIni a s).1.getD 0 0, s)
  else if 0x24 ≤ off ∧ off ≤ 0x3C then
    let w := (windowOfIni a s).1.getD ((off - 0x20) / 4) 0
    (w, if off = 0x3C then advanceCursor a s else s)
  else if off = 0x40 then (wordOf r.first, s)
  else if off = 0x44 then (wordOf r.next, s)
  else if off = 0x48 then (wordOf r.cairn.length, s)
  else if off = 0x4C then (wordOf r.hours, s)
  else if off = 0x50 then (rclRead r.lost, { s with recorder.lost := 0 })
  else if off = 0x54 then (wordOf r.staging.length, s)
  else if off = 0x58 then (wordOf r.rate, s)
  else if 0x80 ≤ off ∧ off ≤ 0xBC then (r.enWord ((off - 0x80) / 4), s)
  else (0, s)

/-- A write to the REC window. -/
def recWrite (a : Access) (off : Nat) (v : Word) (s : State) : State :=
  let r := s.recorder
  let k := a.ini.id
  if off = 0x00 then { s with recorder.cursor := Tab.put r.cursor k v.toNat }
  else if off = 0x04 then { s with recorder.csel := Tab.put r.csel k (bitOf v 0) }
  else if off = 0x58 then
    if bitsOf v 7 0 = 0 then s else { s with recorder.rate := bitsOf v 7 0 }
  else if off = 0x5C then recClear a v s
  else if 0x80 ≤ off ∧ off ≤ 0xBC then
    let i := (off - 0x80) / 4
    { s with recorder.en := Tab.put r.en i (v ||| recEnFixed i) }
  else s

/-- The registers of REC at a Run entry; flash, staging and HOURS stay (R433, R436). -/
def Rec.runEntry (r : Rec) : Rec :=
  { r with lost := 0, rate := 0x10, en := [], inWindow := [], suppressed := [], cursor := [], csel := [],
           window := [] }

/-! ### Commands -/

/-- REC_FLUSH. -/
def execRecFlush (writeOk : Bool) (s : State) : Out := .next (recFlush writeOk s)

/-- RATE_WINDOW_END. -/
def execRateWindowEnd (s : State) : Out := .next (rateWindowEnd s)

/-- HOURS_ADVANCE. -/
def execHoursAdvance (s : State) : Out := .next (hoursAdvance s)

/-- REC_WINDOW_LATCH: a read of REC_WINDOW0. -/
def execRecWindowLatch (a : Access) (s : State) : Out :=
  .next (gate a 15 2 s fun s => let (w, s) := recRead a 0x20 s; s.replyWord a w)

/-- REC_CURSOR_ADVANCE: a read of REC_WINDOW7. -/
def execRecCursorAdvance (a : Access) (s : State) : Out :=
  .next (gate a 15 2 s fun s => let (w, s) := recRead a 0x3C s; s.replyWord a w)

/-- REC_CLEAR. -/
def execRecClear (a : Access) (v : Word) (s : State) : Out :=
  .next (gateWrite a 15 2 s (recClear a v))

/-- REC_COPY. -/
def execRecCopy (n : Fin 32) (s : State) : Out := .next (takeOp 15 0 1 .serial n.val recCopy s)

/-- REC_COPY_COMPLETE. -/
def execRecCopyComplete (s : State) : Out := .next (recCopyComplete s)

end Sys2Proof.Machine
end

