-- ==== Sys2Proof/Machine/Events.lean ====
section
/-!
DEFINITION. SYS, TICK and FEN: the event queue, the discipline of the time base, overruns, and the
fence registers (spec/01_architecture_and_tick.md, spec/02_host_rings_and_fences.md "Fences").
-/

namespace Sys2Proof.Machine

/-! ### The event queue (R18 to R20, R33, R34) -/

/-- Queue size in entries. -/
def Sys.evqSize (y : Sys) : Nat := 2 ^ y.evqLog2

/-- The queue runs: EN with a valid size (R18). -/
def Sys.evqOn (y : Sys) : Bool := y.evqEn && decide (6 ≤ y.evqLog2) && decide (y.evqLog2 ≤ 16)

/-- EVQ_ERR (R18). -/
def Sys.evqErr (y : Sys) : Bool := y.evqEn && !y.evqOn

/-- The queue is full (R19). -/
def Sys.evqFull (y : Sys) : Bool := sub32 y.prod y.cons == y.evqSize

/-- SYS_EVT_EN of a source. -/
def Sys.letsIn (y : Sys) (src : Nat) : Bool :=
  bitOf (Tab.get (0xFFFF_FFFF : Word) y.evtEn (src / 32)) (src % 32)

/-- The module's event interrupt to the host complex (R19). -/
def evqIrq (s : State) : Bool := s.sys.prod != s.sys.cons

/-- An event queue entry (R34 table). -/
def evqBytes (e : Ev) (ooo : Bool) : List Byte :=
  leBytes 8 e.gts ++ leBytes 4 (oneIf ooo * 2 ^ 31 + e.code % 256 * 65536 + e.src % 512) ++
    leBytes 4 e.data.toNat

/-- `e` comes before a position in the order of R33. -/
def Ev.precedes (e : Ev) (p : Option (Nat × Nat)) : Bool :=
  match p with
  | none => false
  | some (g, src) => decide (e.gts < g) || (e.gts == g && decide (e.src < src))

/-- An entry of later order has been written to the queue (R34). -/
def outOfOrder (s : State) (e : Ev) : Bool := e.precedes s.sys.lastPut

/-- The later of a position and an event's, in the order of R33. -/
def Ev.latest (e : Ev) (p : Option (Nat × Nat)) : Option (Nat × Nat) :=
  if e.precedes p then p else some (e.gts, e.src)

/-- One entry written as initiator 0x2D, and whether it was; refused, it is dropped and counted (R20, R13, R16). -/
def writeEntry (e : Ev) (ooo : Bool) (s : State) : State × Bool :=
  let y := s.sys
  let at' := y.evqBase.toNat / 16 * 16 + 16 * (y.prod % y.evqSize)
  let (s, b) := busWrite 4 0x2D false e.fromEvq at' (evqBytes e ooo) s
  if b = .ok then
    ({ s with sys.prod := inc32 s.sys.prod, sys.lastPut := e.latest s.sys.lastPut }, true)
  else ({ s with sys.evqLost := countUp s.sys.evqLost max32 }, false)

/-- The EVQ_OVERFLOW entry, once space has returned; the recorder receives it when it is written (R19). Refused, it is
dropped and counted with one event, and is formed again, quietly, before the next entry (DEDUCED, log 57). -/
def writeOverflow (s : State) : State :=
  let y := s.sys
  if y.ovfCount ≠ 0 ∧ y.evqOn ∧ ¬ y.evqFull ∧ y.letsIn 3 then
    let e : Ev :=
      { gts := y.ovfFirst, src := 3, code := 1, data := wordOf (satTo y.ovfCount max32), fromEvq := y.ovfTried }
    let ooo := e.precedes y.lastPut
    let (s, done) := writeEntry e ooo s
    if done then recordEvent e ooo { s with sys.ovfCount := 0, sys.ovfTried := false }
    else { s with sys.evqLost := if y.ovfTried then y.evqLost else s.sys.evqLost, sys.ovfTried := true }
  else s

/-- An event offered to the queue (R18, R19). The count that EVQ_OVERFLOW tells is of entries lost to a full queue;
those dropped by a refused write count in SYS_EVQ_LOST alone (DEDUCED, log 164). -/
def offer (e : Ev) (ooo : Bool) (s : State) : State :=
  let y := s.sys
  if !y.evqOn || !y.letsIn e.src then s
  else if y.evqFull then
    { s with
      sys.evqLost := countUp y.evqLost max32
      sys.ovfFirst := if y.ovfCount = 0 then e.gts else min y.ovfFirst e.gts
      sys.ovfCount := y.ovfCount + 1 }
  else (writeEntry e ooo s).1

/-- An event leaves the merger: to the recorder and to the queue, behind an EVQ_OVERFLOW entry that has found no
place yet (R19, R34, R435). -/
def release (e : Ev) (s : State) : State :=
  let late := e.precedes s.sys.lastPos
  let s := writeOverflow s
  let s := recordEvent e late s
  offer e (outOfOrder s e) { s with sys.lastPos := e.latest s.sys.lastPos }

/-- Counts an event waits in the merger (R34). -/
def mergerDelay : Nat := 40000

/-- EVENT_QUEUE_WRITE: the first event of the merger leaves it, once 100 us past its cause. -/
def eventQueueWrite (s : State) : State :=
  if !s.mergerOn then s
  else match s.sys.merger with
    | [] => s
    | e :: r => if s.gts < e.gts + mergerDelay then s else release e { s with sys.merger := r }

/-- SYS_EVQ_CTL written (R18). -/
def evqCtlWrite (v : Word) (s : State) : State :=
  let y := s.sys
  let en := bitOf v 31
  let s := if y.evqEn then s else { s with sys.evqLog2 := bitsOf v 4 0 }
  let s := if en && !y.evqEn then { s with sys.prod := 0, sys.cons := 0 } else s
  { s with sys.evqEn := en }

/-- SYS_EVQ_CONS written: not beyond PROD (R19). -/
def evqConsWrite (v : Word) (s : State) : State :=
  let y := s.sys
  if sub32 v.toNat y.cons ≤ sub32 y.prod y.cons then
    writeOverflow { s with sys.cons := v.toNat }
  else s

/-- SYS_SWEVT written (R35). -/
def swevt (v : Word) (s : State) : State :=
  if 496 ≤ bitsOf v 8 0 then
    raiseEv { gts := s.gts, src := bitsOf v 8 0, code := bitsOf v 23 16, data := s.sys.swevtData } s
  else s

/-! ### SYS registers -/

/-- SYS_ID, 64 bits (R2). -/
def sysId : BitVec 64 :=
  wordOf (0x4200 * 65536 + Config.variant * 256 + 0x43) ++ Config.firmware

/-- SYS_STATUS. -/
def sysStatus (s : State) : Word :=
  wordOf (oneIf s.sys.evqErr * 2 ^ 11 + oneIf s.sys.tbLoaded * 2 ^ 10 + oneIf s.sys.postRan * 2 ^ 9
    + oneIf s.sys.ctrlReady * 2 ^ 8 + s.mode.code)

/-- SYS_EVQ_CTL. -/
def evqCtl (y : Sys) : Word := wordOf (oneIf y.evqEn * 2 ^ 31 + y.evqLog2)

/-- A read of the low word of a 64-bit register latches its high word for this initiator (R17). -/
def readLow (a : Access) (hiAddr : Nat) (v : BitVec 64) (s : State) : Word × State :=
  (lo32 v, s.latch a hiAddr (hi32 v))

/-- A read of the high word: the shadow latched by this initiator's low read, once, else the live
word (R17). -/
def readHigh (a : Access) (hiAddr : Nat) (v : BitVec 64) (s : State) : Word × State :=
  match Tab.find s.shadows (shadowKey a hiAddr) with
  | some w => (w, { s with shadows := Tab.del s.shadows (shadowKey a hiAddr) })
  | none => (hi32 v, s)

/-- A read of the SYS window. -/
def sysRead (a : Access) (off : Nat) (s : State) : Word × State :=
  let y := s.sys
  let b := windowBase 0
  if off = 0x00 then readLow a (b + 0x04) sysId s
  else if off = 0x04 then readHigh a (b + 0x04) sysId s
  else if off = 0x08 then readLow a (b + 0x0C) Config.serial s
  else if off = 0x0C then readHigh a (b + 0x0C) Config.serial s
  else if off = 0x10 then (sysStatus s, s)
  else if off = 0x14 then (s.pd &&& (0x1FFF : Word), s)
  else if off = 0x18 then (wordOf a.ini.id, s)
  else if off = 0x20 then readLow a (b + 0x24) y.evqBase s
  else if off = 0x24 then readHigh a (b + 0x24) y.evqBase s
  else if off = 0x28 then (evqCtl y, s)
  else if off = 0x2C then (wordOf y.prod, s)
  else if off = 0x30 then (wordOf y.cons, s)
  else if off = 0x34 then (rclRead y.evqLost, { s with sys.evqLost := 0 })
  else if off = 0x38 then (y.swevtData, s)
  else if 0x40 ≤ off ∧ off ≤ 0x7C then (Tab.get (0xFFFF_FFFF : Word) y.evtEn ((off - 0x40) / 4), s)
  else (0, s)

/-- A write to the SYS window. SYS_EVQ_BASE is taken only while EN is 0 (R18); its bits 3:0 are
ignored. -/
def sysWrite (off : Nat) (v : Word) (s : State) : State :=
  let y := s.sys
  if off = 0x20 then
    if y.evqEn then s else { s with sys.evqBase := setLo y.evqBase (v &&& (0xFFFF_FFF0 : Word)) }
  else if off = 0x24 then if y.evqEn then s else { s with sys.evqBase := setHi y.evqBase v }
  else if off = 0x28 then evqCtlWrite v s
  else if off = 0x30 then evqConsWrite v s
  else if off = 0x38 then { s with sys.swevtData := v }
  else if off = 0x3C then swevt v s
  else if 0x40 ≤ off ∧ off ≤ 0x7C then
    { s with sys.evtEn := Tab.put y.evtEn ((off - 0x40) / 4) v }
  else s

/-! ### The discipline (R25, R30) -/

/-- A change of discipline state raises source 6 with TICK_TRIM (R25, R32). -/
def setDisc (d : Disc) (s : State) : State :=
  if s.tick.disc = d then s
  else
    let s := { s with tick.disc := d }
    raiseEv { gts := s.gts, src := 6, code := d.code, data := wordOfInt s.tick.trim } s

/-- The discipline holds its trim: HOLDOVER. From LOCKED the uncertainty begins to grow. -/
def toHoldover (s : State) : State :=
  let was := s.tick.disc
  let s := setDisc .holdover s
  { s with tick.discSrc := none, tick.sinceLocked := if was = .locked then some 0 else s.tick.sinceLocked }

/-- TICK_DISC written: only EN (R25). -/
def tickDiscWrite (v : Word) (s : State) : State :=
  let en := bitOf v 31
  let was := s.tick.discEn
  let s := { s with tick.discEn := en }
  if was && !en then toHoldover s else s

/-- The module aligns its GTS to another: a second to its lead, and the lead of a pair to a pair lead of higher rank
heard on the wing pair within 3 ticks (R378, R389). -/
def follows (s : State) : Bool :=
  s.rtl.role == .second || (s.rtl.role == .lead && s.rtl.wingT.any fun t => decide (s.t ≤ t + 3))

/-- The source the module may use: the twin link where the module follows another's GTS, GNSS otherwise (R30, R389).
GNSS is there while GNB is in RUN (R268) with a mapping that a solution carries (R261). -/
def sourceFits (s : State) (src : DiscSource) : Bool :=
  match src with
  | .twin => follows s
  | .gnss => !follows s && s.gnb.state == .run &&
      (s.gnb.tmap.st == .locked || s.gnb.tmap.st == .slew || s.gnb.tmap.step.isSome)

/-- DISCIPLINE_ACQUIRE: FREE or HOLDOVER to ACQUIRE with EN = 1 (R25). -/
def disciplineAcquire (src : DiscSource) (s : State) : State :=
  let k := s.tick
  if k.running && k.discEn && sourceFits s src && (k.disc == .free || k.disc == .holdover) then
    setDisc .acquire { s with tick.discSrc := some src, tick.rateRun := 0 }
  else s

/-- Ticks for which the rate error stays below 0.01 ppm before LOCKED, and that limit in 10^-12 (R25). -/
def lockTicks : Nat := 1000
def lockError : Nat := 10000

/-- DISCIPLINE_LOCKED: ACQUIRE to LOCKED after 1,000 ticks within 0.01 ppm (R25); TICK_TRIM is held within its range. -/
def disciplineLocked (trim : Int) (s : State) : State :=
  if s.tick.disc = .acquire ∧ s.tick.discSrc ≠ none ∧ lockTicks ≤ s.tick.rateRun then
    setDisc .locked { s with
      tick.trim := clampInt (-100000) 100000 trim, tick.uncert := 0, tick.sinceLocked := none }
  else s

/-- DISCIPLINE_SOURCE_LOST: LOCKED, and by R268 and R378 ACQUIRE as well, go to HOLDOVER (DEDUCED, log 165). -/
def disciplineSourceLost (s : State) : State :=
  if s.tick.disc = .locked ∨ s.tick.disc = .acquire then toHoldover s else { s with tick.discSrc := none }

/-- The tick's work of the discipline: the trim while it steers by a source, the run of small rate errors in ACQUIRE,
the uncertainty after LOCKED (R25). -/
def disciplineTick (trim err : Int) (s : State) : State :=
  let k := s.tick
  let s := if (k.disc = .acquire ∨ k.disc = .locked) ∧ k.discSrc ≠ none then
      { s with
        tick.trim := clampInt (-100000) 100000 trim
        tick.rateRun := if k.disc = .acquire ∧ err.natAbs < lockError then k.rateRun + 1 else 0 }
    else s
  match k.sinceLocked with
  | none => s
  | some n => { s with
      tick.sinceLocked := some (n + 1), tick.uncert := satTo (Config.holdoverUncert (n + 1)) max32 }

/-! ### Overruns (R28, R467) -/

/-- The block index of tick work that can overrun (R467). -/
def tickWorkBlock : TickWork → Nat
  | .yieldService => 0 | .lookout => 7 | .gnss => 8

/-- The block index of sub-tick work. -/
def slotWorkBlock : SlotWork → Nat
  | .fin => 17 | .lsw => 5

/-- An overrun is counted and reported: source 4 or 5 with the block and the affected T (R28). -/
def noteOverrun (src code blk t at' : Nat) (s : State) : State :=
  let d := blk * 2 ^ 24 + t % 2 ^ 24
  raiseAt at' src code d { s with
    tick.ovrLast := wordOf d
    tick.ovrCnt := Tab.put s.tick.ovrCnt blk (countUp (Tab.get 0 s.tick.ovrCnt blk) 0xFFFF) }

/-- TICK_OVERRUN, at the end of the tick whose work is abandoned: source 4 with the boundary (R28). -/
def tickOverrun (w : TickWork) (s : State) : State :=
  if s.tick.running && s.overruns w && !s.tick.told.contains w then
    noteOverrun 4 1 (tickWorkBlock w) s.t (boundaryOf (s.t + 1)) { s with tick.told := w :: s.tick.told }
  else s

/-- SUBTICK_OVERRUN, at the end of the slot whose work is abandoned: source 5 with the slot (R28). No configuration
brings it about (R467). -/
def subtickOverrun (w : SlotWork) (s : State) : State :=
  let slot := s.tick.slotG / slotLen
  if s.tick.running && s.tick.slotLate.contains w then
    noteOverrun 5 (slot % 10) (slotWorkBlock w) (slot / 10) ((slot + 1) * slotLen)
      { s with tick.slotLate := s.tick.slotLate.filter fun v => v != w }
  else s

/-! ### TICK registers -/

/-- TICK_PHASE. -/
def tickPhase (g : Nat) : Word :=
  wordOf (g % tickLen / phaseLen * 2 ^ 24 + g % tickLen / slotLen * 2 ^ 20 + g % tickLen)

/-- TICK_DISC. -/
def tickDisc (k : Tick) : Word :=
  let src := match k.discSrc with
    | none => 0
    | some .gnss => 1
    | some .twin => 2
  wordOf (oneIf k.discEn * 2 ^ 31 + src * 16 + k.disc.code)

/-- A read of the TICK window. TICK_NO latches bits 45:32 of the same T; TICK_NO_HI returns what this
initiator's last TICK_NO read latched (R17). -/
def tickRead (a : Access) (off : Nat) (s : State) : Word × State :=
  let k := s.tick
  let b := windowBase 1
  let hi := wordOf (s.t / 2 ^ 32 % 2 ^ 14)
  if off = 0x00 then readLow a (b + 0x04) (word64 s.gts) s
  else if off = 0x04 then readHigh a (b + 0x04) (word64 s.gts) s
  else if off = 0x08 then (wordOf s.t, s.latch a (b + 0x0C) hi)
  else if off = 0x0C then ((Tab.find s.shadows (shadowKey a (b + 0x0C))).getD hi, s)
  else if off = 0x10 then (tickPhase s.gts, s)
  else if off = 0x14 then (tickDisc k, s)
  else if off = 0x18 then (wordOfInt k.trim, s)
  else if off = 0x1C then (wordOf k.uncert, s)
  else if off = 0x20 then (k.ovrLast, s)
  else if 0x40 ≤ off ∧ off ≤ 0x84 then
    let i := (off - 0x40) / 4
    (rclRead (Tab.get 0 k.ovrCnt i), { s with tick.ovrCnt := Tab.put k.ovrCnt i 0 })
  else (0, s)

/-- A write to the TICK window. -/
def tickWrite (off : Nat) (v : Word) (s : State) : State := if off = 0x14 then tickDiscWrite v s else s

/-! ### Fence registers (R66 to R69) -/

/-- A staged fence. -/
def State.staged (s : State) (n : Nat) : Fence := Tab.get {} s.fen.staged n

/-- A live fence. -/
def State.liveFence (s : State) (n : Nat) : Fence := Tab.get {} s.fen.live n

/-- Fences 0 to 63. -/
def fenceNumbers : List Nat := List.range 64

/-- Only secure host cores write the fence registers (R66). -/
def mayWriteFences (a : Access) : Bool :=
  match a.ini with
  | .host _ => secureOf a
  | _ => false

/-- A write to the FEN window: passed on, or discarded with source 490 (R66). -/
def fenGate (a : Access) (off : Nat) (s : State) (k : State → State) : State :=
  if mayWriteFences a then k s else raise 490 1 (off * 65536 + a.ini.id) s

/-- The selected fences take their staged values together, and source 492 tells how many (R67). -/
def applyFences (mask : BitVec 64) (s : State) : State :=
  let sel := fenceNumbers.filter fun n => mask.getLsbD n
  raise 492 1 sel.length
    { s with fen.live := sel.foldl (fun t n => Tab.put t n (s.staged n)) s.fen.live }

/-- The low half latched by an initiator. -/
def State.lowLatch (s : State) (a : Access) : Word := Tab.get 0 s.fen.low a.ini.id

/-- The high half of FEN_APPLY written: with the low half this initiator latched (R68). -/
def applyHigh (a : Access) (v : Word) (s : State) : State :=
  applyFences (v ++ s.lowLatch a) { s with fen.low := Tab.del s.fen.low a.ini.id }

/-- The low half of FEN_APPLY written: latched, nothing applied (R68). -/
def latchLow (a : Access) (v : Word) (s : State) : State :=
  { s with fen.low := Tab.put s.fen.low a.ini.id v }

/-- FEN_ATTR. -/
def Fence.attr (f : Fence) : Word :=
  wordOf (oneIf f.en * 2 ^ 31 + oneIf f.sec * 4 + oneIf f.w * 2 + oneIf f.r)

/-- FEN_PEND: staged and live differ. -/
def fenPend (s : State) : BitVec 64 :=
  BitVec.ofNat 64 ((fenceNumbers.filter fun n => s.staged n != s.liveFence n).foldl (fun m n => m + 2 ^ n) 0)

/-- A read of the FEN window; staged values are returned (02 FEN table). -/
def fenRead (off : Nat) (s : State) : Word × State :=
  if off = 0x08 then (lo32 (fenPend s), s)
  else if off = 0x0C then (hi32 (fenPend s), s)
  else if off = 0x10 then (wordOf s.fen.violAddr, s)
  else if off = 0x14 then (wordOf (s.fen.violAddr / 2 ^ 32), s)
  else if off = 0x18 then (s.fen.violInfo, s)
  else if off = 0x1C then (rclRead s.fen.violCnt, { s with fen.violCnt := 0 })
  else if 0x100 ≤ off ∧ off < 0x100 + 0x20 * 64 then
    let f := s.staged ((off - 0x100) / 0x20)
    let o := (off - 0x100) % 0x20
    ((if o = 0x00 then wordOf f.base
      else if o = 0x04 then wordOf (f.base / 2 ^ 32)
      else if o = 0x08 then wordOf f.limit
      else if o = 0x0C then wordOf (f.limit / 2 ^ 32)
      else if o = 0x10 then lo32 f.init
      else if o = 0x14 then hi32 f.init
      else if o = 0x18 then f.attr else 0), s)
  else (0, s)

/-- A staged fence written. Bits 11:0 of BASE read 0 and of LIMIT 0xFFF; INIT bit 0 is ignored. -/
def stageFence (f : Fence) (o : Nat) (v : Word) : Fence :=
  if o < 0x08 then { f with base := (setHalf (word64 f.base) o v).toNat / 4096 * 4096 }
  else if o < 0x10 then { f with limit := (setHalf (word64 f.limit) (o - 0x08) v).toNat / 4096 * 4096 + 0xFFF }
  else if o = 0x10 then { f with init := setLo f.init (setBit v 0 false) }
  else if o = 0x14 then { f with init := setHi f.init v }
  else if o = 0x18 then { f with en := bitOf v 31, sec := bitOf v 2, w := bitOf v 1, r := bitOf v 0 }
  else f

/-- A 32-bit register of the FEN window written by one who may. -/
def fenStore (a : Access) (off : Nat) (v : Word) (s : State) : State :=
  if off = 0x00 then latchLow a v s
  else if off = 0x04 then applyHigh a v s
  else if 0x100 ≤ off ∧ off < 0x100 + 0x20 * 64 then
    let n := (off - 0x100) / 0x20
    { s with fen.staged := Tab.put s.fen.staged n (stageFence (s.staged n) ((off - 0x100) % 0x20) v) }
  else s

/-- A 32-bit write to the FEN window. -/
def fenWrite (a : Access) (off : Nat) (v : Word) (s : State) : State := fenGate a off s (fenStore a off v)

/-- A 64-bit write to the FEN window: to FEN_APPLY its whole mask at once (R68), elsewhere its two halves, low first;
one that is discarded is one write (R66). -/
def fenWriteWide (a : Access) (off : Nat) (v : BitVec 64) (s : State) : State :=
  fenGate a off s fun s =>
    if off = 0 then applyFences v s else fenStore a (off + 4) (hi32 v) (fenStore a off (lo32 v) s)

/-! ### Commands -/

/-- TICK_OVERRUN. -/
def execTickOverrun (w : TickWork) (s : State) : Out := .next (tickOverrun w s)

/-- SUBTICK_OVERRUN. -/
def execSubtickOverrun (w : SlotWork) (s : State) : Out := .next (subtickOverrun w s)

/-- TICK_DISC_WRITE. -/
def execTickDiscWrite (a : Access) (v : Word) (s : State) : Out :=
  .next (gateWrite a 1 2 s (tickDiscWrite v))

/-- DISCIPLINE_ACQUIRE. -/
def execDisciplineAcquire (src : DiscSource) (s : State) : Out := .next (disciplineAcquire src s)

/-- DISCIPLINE_LOCKED. -/
def execDisciplineLocked (trim : Int) (s : State) : Out := .next (disciplineLocked trim s)

/-- DISCIPLINE_SOURCE_LOST. -/
def execDisciplineSourceLost (s : State) : Out := .next (disciplineSourceLost s)

/-- EVQ_CTL_WRITE. -/
def execEvqCtlWrite (a : Access) (v : Word) (s : State) : Out := .next (gateWrite a 0 2 s (evqCtlWrite v))

/-- EVQ_CONS_WRITE. -/
def execEvqConsWrite (a : Access) (v : Word) (s : State) : Out := .next (gateWrite a 0 2 s (evqConsWrite v))

/-- SWEVT. -/
def execSwevt (a : Access) (v : Word) (s : State) : Out := .next (gateWrite a 0 2 s (swevt v))

/-- EVENT_QUEUE_WRITE. -/
def execEventQueueWrite (s : State) : Out := .next (eventQueueWrite s)

/-- FENCE_APPLY: a 64-bit write, or a write of the high half in bits 31:0 of the operand. -/
def execFenceApply (a : Access) (wide : Bool) (v : BitVec 64) (s : State) : Out :=
  .next (gateWrite a 16 2 s fun s =>
    if wide then fenWriteWide a 0 v s else fenWrite a 0x04 (lo32 v) s)

/-- FENCE_APPLY_LOW_LATCH. -/
def execFenceApplyLowLatch (a : Access) (v : Word) (s : State) : Out :=
  .next (gateWrite a 16 2 s (fenWrite a 0x00 v))

end Sys2Proof.Machine
end

