-- ==== Sys2Proof/Machine/Geometry.lean ====
section
/-!
DEFINITION. Angles and rigid motion in rational numbers, for the geometry of R206, R213, R217 and R293. Sine and cosine
are taken by their series to 20 terms after reduction to half a turn (DEDUCED, log 29).
-/

namespace Sys2Proof.Machine

/-- The partial sums of sin (odd `k`) or cos of `x` rad. -/
def trigSum (x : Rat) : Nat → Nat → Rat → Rat
  | 0, _, _ => 0
  | fuel + 1, k, term => term + trigSum x fuel (k + 2) (-(term * x * x) / ((k + 1) * (k + 2) : Nat))

/-- π to 30 places. -/
def piRat : Rat := 3141592653589793238462643383279 / 1000000000000000000000000000000

/-- An angle in rad with its whole turns taken off: within half a turn of 0. -/
def reduceAngle (x : Rat) : Rat := x - 2 * piRat * ((x / (2 * piRat) + 1 / 2).floor : Int)

/-- Sine and cosine of an angle in rad. -/
def sinRat (x : Rat) : Rat := trigSum (reduceAngle x) 20 1 (reduceAngle x)
def cosRat (x : Rat) : Rat := trigSum (reduceAngle x) 20 0 1

/-- tan of so many µrad. -/
def tanMicro (a : Int) : Rat := sinRat ((a : Rat) / 1000000) / cosRat ((a : Rat) / 1000000)

/-- A point or a displacement. -/
structure Vec where
  x : Rat
  y : Rat
  z : Rat
deriving DecidableEq, Repr

def Vec.add (a b : Vec) : Vec := { x := a.x + b.x, y := a.y + b.y, z := a.z + b.z }
def Vec.sub (a b : Vec) : Vec := { x := a.x - b.x, y := a.y - b.y, z := a.z - b.z }

/-- A turn by `a` rad about z, y and x: yaw, pitch and roll in the axes of ISO 8855. -/
def Vec.turnZ (v : Vec) (a : Rat) : Vec :=
  { v with x := cosRat a * v.x - sinRat a * v.y, y := sinRat a * v.x + cosRat a * v.y }
def Vec.turnY (v : Vec) (a : Rat) : Vec :=
  { v with x := cosRat a * v.x + sinRat a * v.z, z := cosRat a * v.z - sinRat a * v.x }
def Vec.turnX (v : Vec) (a : Rat) : Vec :=
  { v with y := cosRat a * v.y - sinRat a * v.z, z := sinRat a * v.y + cosRat a * v.z }

/-- A vector of a body with this roll, pitch and yaw in the frame the angles are measured in. -/
def Vec.outOf (v : Vec) (roll pitch yaw : Rat) : Vec := ((v.turnX roll).turnY pitch).turnZ yaw

/-- The inverse of `outOf`. -/
def Vec.into (v : Vec) (roll pitch yaw : Rat) : Vec := ((v.turnZ (-yaw)).turnY (-pitch)).turnX (-roll)

end Sys2Proof.Machine
end

