-- ==== Sys2Proof/Machine/Isp.lean ====
section
/-!
DEFINITION. The pixels of the image pipeline: the stages of R190 and R191, and the outputs that R194, R197 and R198
make of them (spec/07_image_pipeline.md). What the manual leaves to the implementation is a free value of Config
(log 180).
-/

namespace Sys2Proof.Machine

/-! ### Fields of a configuration (R204) -/

def IplCtx.word (x : IplCtx) (i : Nat) : Word := x.cfg.getD i 0
def IplCtx.src (x : IplCtx) : Nat := bitsOf (x.word 0) 31 28
def IplCtx.vc (x : IplCtx) : Nat := bitsOf (x.word 0) 27 24
def IplCtx.dt (x : IplCtx) : Nat := bitsOf (x.word 0) 21 16
def IplCtx.free (x : IplCtx) : Bool := bitOf (x.word 0) 15
def IplCtx.striped (x : IplCtx) : Bool := bitOf (x.word 0) 14
def IplCtx.stripe (x : IplCtx) : Nat := bitsOf (x.word 0) 9 0
def IplCtx.width (x : IplCtx) : Nat := bitsOf (x.word 1) 31 16
def IplCtx.height (x : IplCtx) : Nat := bitsOf (x.word 1) 15 0
def IplCtx.div (x : IplCtx) : Nat := bitsOf (x.word 2) 9 0
def IplCtx.trigDelay (x : IplCtx) : Nat := bitsOf (x.word 3) 23 0
def IplCtx.setLead (x : IplCtx) : Nat := (x.word 4).toNat
def IplCtx.lineTime (x : IplCtx) : Nat := (x.word 5).toNat
def IplCtx.fsLat (x : IplCtx) : Nat := (x.word 6).toNat
def IplCtx.tnrMotion (x : IplCtx) : Nat := bitsOf (x.word 7) 31 24
def IplCtx.tnrDepth (x : IplCtx) : Nat := bitsOf (x.word 7) 17 16
def IplCtx.fifoLines (x : IplCtx) : Nat := bitsOf (x.word 7) 12 0
def IplCtx.addr (x : IplCtx) (i : Nat) : Nat := (x.word i).toNat + (x.word (i + 1)).toNat * 2 ^ 32
def IplCtx.defectN (x : IplCtx) : Nat := bitsOf (x.word 14) 11 0
def IplCtx.cfa (x : IplCtx) : Nat := bitsOf (x.word 17) 9 8
def IplCtx.snr (x : IplCtx) : Nat := bitsOf (x.word 17) 7 0
def IplCtx.dispEn (x : IplCtx) : Bool := bitOf (x.word 18) 31
def IplCtx.dispDiv (x : IplCtx) : Nat := 2 ^ bitsOf (x.word 18) 30 28
def IplCtx.dispW (x : IplCtx) : Nat := bitsOf (x.word 18) 27 15
def IplCtx.dispH (x : IplCtx) : Nat := bitsOf (x.word 18) 12 0
def IplCtx.visEn (x : IplCtx) : Bool := bitOf (x.word 19) 31
def IplCtx.fp16 (x : IplCtx) : Bool := bitOf (x.word 19) 30
def IplCtx.visSlot (x : IplCtx) : Nat := bitsOf (x.word 19) 27 24
def IplCtx.visW (x : IplCtx) : Nat := bitsOf (x.word 20) 28 16
def IplCtx.visH (x : IplCtx) : Nat := bitsOf (x.word 20) 12 0
def IplCtx.statEn (x : IplCtx) : Bool := bitOf (x.word 21) 31
def IplCtx.statDiv (x : IplCtx) : Nat := 2 ^ bitsOf (x.word 21) 30 28

/-- The black level of a CFA position, 0 to 3 row by row. -/
def IplCtx.black (x : IplCtx) (i : Nat) : Nat :=
  if i % 2 = 0 then bitsOf (x.word (15 + i / 2)) 15 0 else bitsOf (x.word (15 + i / 2)) 31 16

/-! ### Planes -/

/-- Codes by row and column. -/
abbrev Plane := List (List Nat)

/-- The code of a row and column; 0 beyond the plane. -/
def Plane.px (p : Plane) (y x : Nat) : Nat := (p.getD y []).getD x 0

/-- A plane of `h` rows and `w` columns. -/
def mkPlane (h w : Nat) (f : Nat → Nat → Nat) : Plane :=
  (List.range h).map fun y => (List.range w).map fun x => f y x

/-- A plane scaled to `h` rows and `w` columns; as it is where that is its size. -/
def scalePlane (p : Plane) (h0 w0 h w : Nat) : Plane :=
  if h = h0 ∧ w = w0 then p else mkPlane h w fun y x => Config.scaled p h w y x

/-- A number placed in a rising list. -/
def insertNat (n : Nat) : List Nat → List Nat
  | [] => [n]
  | m :: r => if n ≤ m then n :: m :: r else m :: insertNat n r

/-- Between `lo` and `hi`, as a free value says. -/
def between (lo hi pick : Nat) : Nat := lo + pick % (hi - lo + 1)

/-- The median; of an even number, between the two in the middle. -/
def median (l : List Nat) : Nat :=
  let l := l.foldr insertNat []
  let lo := l.getD ((l.length - 1) / 2) 0
  let hi := l.getD (l.length / 2) 0
  if l.length % 2 = 1 then lo else between lo hi (Config.medianPick lo hi)

/-! ### Stages 1 to 3 (R190, R191) -/

/-- The place of a pixel in the CFA. -/
def cfaPlace (y x : Nat) : Nat := y % 2 * 2 + x % 2

/-- The pixel is a green one. -/
def isGreen (cfa y x : Nat) : Bool :=
  if cfa = 0 ∨ cfa = 3 then (y + x) % 2 == 1 else (y + x) % 2 == 0

/-- The nearest pixels of the same colour, within `h` rows and `w` columns: four but at the edges. -/
def neighbours (cfa h w y x : Nat) : List (Nat × Nat) :=
  let near := if isGreen cfa y x then [(0, 0), (0, 2), (2, 0), (2, 2)] else [(0, 2), (4, 2), (2, 0), (2, 4)]
  let o := if isGreen cfa y x then 1 else 2
  (near.filter fun d => decide (o ≤ y + d.1) && decide (o ≤ x + d.2) &&
    decide (y + d.1 < h + o) && decide (x + d.2 < w + o)).map fun d => (y + d.1 - o, x + d.2 - o)

/-- Stage 1: black level, held at 0, then the listed defects by the median of their neighbours. -/
def stage1 (c : IplCtx) (raw : Plane) : Plane :=
  let p := mkPlane c.height c.width fun y x => raw.px y x - c.black (cfaPlace y x)
  mkPlane c.height c.width fun y x =>
    if c.defects.contains (wordOf (y * 65536 + x)) then
      median ((neighbours c.cfa c.height c.width y x).map fun e => p.px e.1 e.2)
    else p.px y x

/-- Stage 2: spatial noise reduction; strength 0 is off. -/
def stage2 (c : IplCtx) (p : Plane) : Plane :=
  if c.snr = 0 then p else mkPlane c.height c.width fun y x => Config.snrPixel c.snr p y x

/-- The history as planes of 2 bytes a pixel, newest first. -/
def histPlanes (c : IplCtx) (bs : List Byte) (n : Nat) : List Plane :=
  (List.range n).map fun k => mkPlane c.height c.width fun y x =>
    leNat ((bs.drop (((k * c.height + y) * c.width + x) * 2)).take 2)

/-- A pixel blended with its history: none of it where a difference exceeds TNR_MOTION × 16 codes. -/
def blend (motion p : Nat) (hs : List Rat) : Nat :=
  let far (h : Rat) : Bool := decide ((motion * 16 : Nat) < h - p) || decide ((motion * 16 : Nat) < (p : Rat) - h)
  if hs.isEmpty || hs.any far then p
  else
    let ns := hs.map openRat
    between (ns.foldl min p) (ns.foldl max p) (Config.tnrBlend p ns)

/-- The history of a pixel on the scale of the frame: by exposure × gain (R191). -/
def scaledHist (gain : Nat) (gains : List Nat) (planes : List Plane) (y x : Nat) : List Rat :=
  (planes.zip gains).map fun e => (e.1.px y x * gain : Nat) / (e.2 : Rat)

/-- Stage 3: temporal noise reduction. -/
def stage3 (c : IplCtx) (f : IplFrame) (p : Plane) : Plane :=
  let planes := histPlanes c f.hist (c.lineGains.foldl (fun m l => max m l.length) 0)
  mkPlane c.height c.width fun y x =>
    blend c.tnrMotion (p.px y x) (scaledHist f.gain (c.lineGains.getD y []) planes y x)

/-- The lines of a frame that are valid. -/
def IplFrame.lineOk (f : IplFrame) (y : Nat) : Bool := (f.lines.getD y {}).ok

/-- The exposure × gain of the history lines after the frame. -/
def newGains (c : IplCtx) (f : IplFrame) : List (List Nat) :=
  (List.range c.height).map fun y =>
    let old := c.lineGains.getD y []
    if f.lineOk y then (f.gain :: old).take c.tnrDepth else old

/-- Codes as 2 bytes each. -/
def codeBytes (l : List Nat) : List Byte := l.flatMap fun v => leBytes 2 v

/-- A plane as 2 bytes a code. -/
def planeBytes (p : Plane) : List Byte := p.flatMap codeBytes

/-- The history lines that a frame writes, each with its place from HIST_ADDR: valid lines join as the newest of their
history, plane 0 (DESIGN CHOICE, log 180); invalid ones leave theirs unchanged. `p` is the frame after stage 2. -/
def historyWrites (c : IplCtx) (f : IplFrame) (p : Plane) : List (Nat × List Byte) :=
  let old := histPlanes c f.hist (c.tnrDepth - 1)
  let gains := newGains c f
  (List.range c.height).flatMap fun y =>
    if !f.lineOk y then []
    else (List.range (gains.getD y []).length).map fun k =>
      let line := if k = 0 then p.getD y [] else (old.getD (k - 1) []).getD y []
      ((k * c.height + y) * c.width * 2, codeBytes line)

/-! ### Stages 4 and 5 -/

/-- An entry of the TUNE_LOAD block: unsigned and signed 16 bits. -/
def tune16 (f : IplFrame) (at' : Nat) : Nat :=
  let bs := if f.tune.isEmpty then (List.range 2048).map Config.noTune else f.tune
  leNat ((bs.drop at').take 2)
def tuneInt (f : IplFrame) (at' : Nat) : Int :=
  let v := tune16 f at'
  if v < 32768 then v else (v : Int) - 65536

/-- A raw code on the 16-bit linear scale. -/
def linear16 (dt v : Nat) : Nat := if dt = 0x2E then v else Config.linearCode dt v % 65536

/-- Stage 4: white balance, demosaic and the colour matrix; the planes R, G, B. -/
def stage4 (c : IplCtx) (f : IplFrame) (p : Plane) : List Plane :=
  let wb := mkPlane c.height c.width fun y x =>
    satTo (openDiv (linear16 c.dt (p.px y x) * tune16 f (18 + 2 * cfaPlace y x)) 4096) 65535
  [0, 1, 2].map fun i => mkPlane c.height c.width fun y x =>
    let term (j : Fin 3) : Int := tuneInt f (6 * i + 2 * j.val) * (Config.demosaic c.cfa wb y x j % 65536 : Nat)
    (clampInt 0 65535 (openInt ((term 0 + term 1 + term 2 : Int) / (4096 : Rat)))).toNat

/-- The tone curve: 257 outputs, straight between them. -/
def tone (f : IplFrame) (v : Nat) : Rat :=
  let a : Nat := tune16 f (32 + 2 * (v / 256))
  let b : Nat := tune16 f (34 + 2 * (v / 256))
  (a : Rat) + ((b : Rat) - a) * (v % 256 : Nat) / 256

/-- Stage 5: BT.709 in 8 bits with Y from 16 to 235 (PRESUMED, log 180); the planes Y, U, V. -/
def stage5 (c : IplCtx) (f : IplFrame) (rgb : List Plane) : List Plane :=
  let at' (i y x : Nat) : Rat := tone f ((rgb.getD i []).px y x) / 65535
  let luma (y x : Nat) : Rat := 2126 / 10000 * at' 0 y x + 7152 / 10000 * at' 1 y x + 722 / 10000 * at' 2 y x
  let byte (q : Rat) : Nat := (clampInt 0 255 (openInt q)).toNat
  [ mkPlane c.height c.width fun y x => byte (16 + 219 * luma y x),
    mkPlane c.height c.width fun y x => byte (128 + 224 * (at' 2 y x - luma y x) / (18556 / 10000)),
    mkPlane c.height c.width fun y x => byte (128 + 224 * (at' 0 y x - luma y x) / (15748 / 10000)) ]

/-- The raw codes of a frame. -/
def rawPlane (f : IplFrame) : Plane := f.lines.map fun l => l.px

/-- What the stages make of a frame: after stage 2, and the colours after stage 4. -/
def stagedRaw (c : IplCtx) (f : IplFrame) : Plane := stage2 c (stage1 c (rawPlane f))
def stagedRgb (c : IplCtx) (f : IplFrame) : List Plane := stage4 c f (stage3 c f (stagedRaw c f))

/-! ### Outputs (R194, R197, R198) -/

/-- A row of a scaled picture comes from a valid line. -/
def rowOk (c : IplCtx) (f : IplFrame) (h y : Nat) : Bool := f.lineOk (y * c.height / h)

/-- The rows of an NV12 picture of `w` × `h`: the Y rows, then the interleaved UV rows; none for an invalid one. -/
def pictureRows (c : IplCtx) (f : IplFrame) (w h : Nat) : List (Option (List Byte)) :=
  let yuv := (stage5 c f (stagedRgb c f)).map fun p => scalePlane p c.height c.width h w
  let plane (i : Nat) : Plane := yuv.getD i []
  let chroma (i j k : Nat) : Nat :=
    let p := plane i
    let ns := [p.px (2 * j) (2 * k), p.px (2 * j) (2 * k + 1), p.px (2 * j + 1) (2 * k), p.px (2 * j + 1) (2 * k + 1)]
    between (ns.foldl min 255) (ns.foldl max 0) (Config.chromaMean ns)
  let ys := (List.range h).map fun y =>
    if rowOk c f h y then some ((List.range w).flatMap fun x => leBytes 1 ((plane 0).px y x)) else none
  let uvs := (List.range (h / 2)).map fun j =>
    if rowOk c f h (2 * j) && rowOk c f h (2 * j + 1) then
      some ((List.range (w / 2)).flatMap fun k => leBytes 1 (chroma 1 j k) ++ leBytes 1 (chroma 2 j k))
    else none
  ys ++ uvs

/-- The grey of an invalid row: Y = 16, U = V = 128; the first `h` rows are Y rows. -/
def greyRow (w h y : Nat) : List Byte := List.replicate w (if y < h then 16 else 128)

/-- Invalid rows made up from the rows of the previous picture, or grey where there is none (R194). -/
def fillInvalid (w h : Nat) (prev : List (List Byte)) (rows : List (Option (List Byte))) : List (List Byte) :=
  rows.zipIdx.map fun e => match e.1 with
    | some r => r
    | none => (prev[e.2]?).getD (greyRow w h e.2)

/-- The DISPLAY planes. -/
def displayBytes (c : IplCtx) (f : IplFrame) : List Byte :=
  (fillInvalid c.dispW c.dispH [] (pictureRows c f c.dispW c.dispH)).flatten

/-- An fp16 number from 0 to 1; rounding is left open. -/
def halfBits (q : Rat) : Nat :=
  match (List.range 15).find? fun k => decide (1 ≤ q * (2 ^ k : Nat)) with
  | some k => (15 - k) * 1024 + openRat (q * (2 ^ (10 + k) : Nat)) - 1024
  | none => openRat (q * (2 ^ 24 : Nat))

/-- The VISION planes R, G, B (R198): 16-bit integers, or fp16 with FMT 1. -/
def visionBytes (c : IplCtx) (f : IplFrame) : List Byte :=
  ((stagedRgb c f).map fun p => scalePlane p c.height c.width c.visH c.visW).flatMap fun p =>
    planeBytes (if c.fp16 then p.map fun l => l.map fun (v : Nat) => halfBits ((v : Rat) / 65535) else p)

/-- The statistics behind the header (R197), over valid lines: the histogram, the zone means, the clipped pixels. -/
def statBytes (c : IplCtx) (f : IplFrame) : List Byte :=
  let rgb := stagedRgb c f
  let ys := (List.range c.height).filter fun y => f.lineOk y
  let pixels : List (Nat × Nat × List Nat) := ys.flatMap fun y =>
    (List.range c.width).map fun x => (y, x, rgb.map fun p => p.px y x)
  let bins := (List.range 256).flatMap fun b =>
    leBytes 4 (pixels.filter fun e => (Config.lumBin e.2.2).val == b).length
  let zones := (List.range 256).flatMap fun z =>
    let inZone := pixels.filter fun e => e.1 * 16 / c.height * 16 + e.2.1 * 16 / c.width == z
    [0, 1, 2].flatMap fun i => leBytes 2 (if inZone.isEmpty then Config.emptyZone z
      else openDiv (inZone.map fun e => e.2.2.getD i 0).sum inZone.length)
  let clipped := (pixels.filter fun e => e.2.2.any fun v => v == 65535).length
  bins ++ zones ++ leBytes 4 clipped

end Sys2Proof.Machine
end

