-- ==== Sys2Proof/Machine/Lookout.lean ====
section
/-!
DEFINITION. Lookout's inputs: configuration, clock models, slot buffers, samples and their epochs, and
ego-motion (spec/08_lookout_fusion.md, R206 to R219, R224 to R226).
-/

namespace Sys2Proof.Machine

/-! ### Accessors -/

/-- Input `n`. -/
def State.lin (s : State) (n : Nat) : LkoInput := Tab.get {} s.lko.inputs n

/-- Input `n` replaced. -/
def State.setLin (s : State) (n : Nat) (x : LkoInput) : State :=
  { s with lko.inputs := Tab.put s.lko.inputs n x }

/-- Cameras 0 to 11, cameras and lidars 0 to 13, every input 0 to 16. -/
def camNumbers : List Nat := List.range 12
def sensorNumbers : List Nat := List.range 14
def inputNumbers : List Nat := List.range 17

/-- Fields of CFG_LOAD (R241). -/
def Lko.word (l : Lko) (i : Nat) : Word := l.cfg.getD i 0
def Lko.closeT (l : Lko) : Nat := bitsOf (l.word 0) 31 24
def Lko.relT (l : Lko) : Nat := bitsOf (l.word 0) 23 16
def Lko.edgeRight (l : Lko) : Bool := bitOf (l.word 0) 0
def Lko.hdrOffset (l : Lko) : Int := sbitsOf (l.word 1) 31 16
def Lko.hdrWidth (l : Lko) : Nat := bitsOf (l.word 1) 15 0
def Lko.hdrDelay (l : Lko) : Nat := bitsOf (l.word 2) 25 16
def Lko.edgeH (l : Lko) : Nat := bitsOf (l.word 2) 15 0
def Lko.massGain (l : Lko) : Nat := (l.word 3).toNat
def Lko.speedIdx (l : Lko) : Nat := bitsOf (l.word 4) 25 16
def Lko.angleIdx (l : Lko) : Nat := bitsOf (l.word 4) 9 0
def Lko.motionTmo (l : Lko) : Nat := bitsOf (l.word 5) 31 16
def Lko.wheelbase (l : Lko) : Nat := bitsOf (l.word 5) 15 0
def Lko.speedBound (l : Lko) : Nat := bitsOf (l.word 6) 31 16
def Lko.yawBound (l : Lko) : Nat := bitsOf (l.word 6) 15 0
def Lko.exclN (l : Lko) : Nat := bitsOf (l.word 7) 31 24
def Lko.readmitN (l : Lko) : Nat := bitsOf (l.word 7) 23 16

/-- Fields of SENSOR_CFG (R242). -/
def LkoInput.word (x : LkoInput) (i : Nat) : Word := x.cfg.getD i 0
def LkoInput.en (x : LkoInput) : Bool := bitOf (x.word 0) 31
def LkoInput.timebase (x : LkoInput) : Nat := bitsOf (x.word 0) 25 24
def LkoInput.encN (x : LkoInput) : Nat := bitsOf (x.word 0) 19 16
def LkoInput.lieBound (x : LkoInput) : Nat := bitsOf (x.word 0) 15 0
def LkoInput.period (x : LkoInput) : Nat := (x.word 1).toNat
def LkoInput.lat (x : LkoInput) : Nat := if x.timebase = 2 then (x.word 2).toNat else 0
def LkoInput.maxPoints (x : LkoInput) : Nat := (x.word 3).toNat

/-- ARMED, RUN or SHADOW. -/
def LkoState.running (st : LkoState) : Bool := st == .armed || st == .run || st == .shadow

/-- A mask of input numbers. -/
def maskOf (l : List Nat) : Nat := (l.map fun n => 2 ^ n).sum

/-- A mask with bit `n` set. -/
def withBit (m n : Nat) : Nat := if m.testBit n then m else m + 2 ^ n

/-- Two masks joined. -/
def orMask (a b : Nat) : Nat := a ||| b

/-! ### Events (R244) -/

/-- A sample event: number of samples, saturating, and input. -/
def sampleEvent (src n input g : Nat) (s : State) : State :=
  raiseAt g src 1 (satTo n 0xFFFFFF * 256 + input) s

/-- A change of the block state. -/
def setLkoState (st : LkoState) (s : State) : State :=
  if s.lko.state = st then s
  else raise 337 st.code (s.t % 2 ^ 32) { s with lko.state := st }

/-- LKO_ERR_LAST, with an operation's SCHEMA. -/
def lkoErr (opc reason input word : Nat) (s : State) : State :=
  { s with lko.errLast := wordOf (opc * 2 ^ 24 + reason * 65536 + input * 4096 + word) }

/-! ### Clock models (R214, R215) -/

/-- IDENTITY or ALIGNED (R216). -/
def LkoInput.aligned (x : LkoInput) : Bool := x.timebase == 0 || x.clock.st == .aligned

/-- Model state code: 0 IDENTITY, 1 ACQUIRING, 2 ALIGNED, 3 UNALIGNED. -/
def LkoInput.clockCode (x : LkoInput) : Nat :=
  if x.timebase = 0 then 0
  else match x.clock.st with
    | .acquiring => 1 | .aligned => 2 | .unaligned => 3

/-- GTS that a model gives for sensor time `t` in ns. -/
def ClockModel.mapped (m : ClockModel) (t : Rat) : Int :=
  m.o + roundRat ((t - m.s0) * (2 / 5) * (1 + m.rho))

/-- A pair seeds the model. -/
def ClockModel.seed (m : ClockModel) (t : Rat) (a lat : Nat) : ClockModel :=
  { m with seeded := true, o := (a : Int) - lat, s0 := t, rho := 0, lastS := t, count := 0 }

/-- O and ρ after a pair the model follows. -/
def ClockModel.follow (m : ClockModel) (t : Rat) (r : Int) : ClockModel :=
  { m with
    o := m.o + roundRat ((r : Rat) / 16)
    rho := clampRho (m.rho + (if t = m.lastS then Config.rhoNoSpan r
      else (r : Rat) / (256 * (2 / 5) * (t - m.lastS))))
    lastS := t }

/-- The count rule for a residual `r` of the pair (t, a), and the ALIGN code, if any (R215, R244). -/
def ClockModel.rule (m : ClockModel) (t : Rat) (a lat period : Nat) (r : Int) (upd : Bool) :
    ClockModel × Option Nat :=
  let m := { m with res := r }
  let followed := if upd then m.follow t r else m
  match m.st with
  | .aligned =>
    if period < 2 * r.natAbs then ({ m.seed t a lat with st := .unaligned }, some 2) else (followed, none)
  | st =>
    if 8 * r.natAbs ≤ period then
      let c := m.count + 1
      if 16 ≤ c then ({ followed with count := 16, st := .aligned }, some 1)
      else ({ followed with count := c }, none)
    else (m.seed t a lat, if st = .acquiring then some 3 else none)

/-- The model and the ALIGN code, if any, after a pair. -/
def ClockModel.pair (m : ClockModel) (t : Rat) (a lat period : Nat) : ClockModel × Option Nat :=
  if m.seeded then m.rule t a lat period ((a : Int) - (m.mapped t + lat)) true
  else (m.seed t a lat, none)

/-- ALIGN: |r| in 10 µs. -/
def alignEvent (n code g : Nat) (r : Int) (s : State) : State :=
  raiseAt g 340 code (satTo (openDiv r.natAbs 4000) 0xFFFFFF * 256 + n) s

/-- An input's model after a step of the rule. -/
def applyClock (n g : Nat) (r : ClockModel × Option Nat) (s : State) : State :=
  let s := s.setLin n { s.lin n with clock := r.1 }
  match r.2 with
  | none => s
  | some code => alignEvent n code g r.1.res s

/-- A pair feeds an input's model. -/
def feedPair (n g : Nat) (t : Rat) (a : Nat) (s : State) : State :=
  let x := s.lin n
  applyClock n g (x.clock.pair t a x.lat x.period) s

/-- A mapped capture later than the arrival counts as a residual of that difference (R215). -/
def feedEarly (n g : Nat) (t : Rat) (a : Nat) (r : Int) (s : State) : State :=
  let x := s.lin n
  if x.timebase = 0 then s else applyClock n g (x.clock.rule t a x.lat x.period r false) s

/-! ### Epochs and samples (R208, R218, R219) -/

/-- GTS counts of an epoch. -/
def epochLen : Nat := 16000000

/-- t_e -/
def instantOf (e : Nat) : Nat := e * epochLen

/-- The epoch of a capture: its window is (t_{e-1}, t_e]. -/
def epochOf (cap : Nat) : Nat := (cap + epochLen - 1) / epochLen

/-- C_e -/
def Lko.closeAt (l : Lko) (e : Nat) : Nat := instantOf e + l.closeT * tickLen

/-- R_e -/
def Lko.relAt (l : Lko) (e : Nat) : Nat := instantOf e + l.relT * tickLen

/-- The instant a sample is judged against: on a second its own cameras' against t_e (R235). -/
def Lko.judgeAt (l : Lko) (cam : Bool) (e : Nat) : Nat :=
  if l.state = .shadow ∧ cam then instantOf e else l.closeAt e

/-- Epoch `e` is one of this run, after the first instant in RUN and up to a stop's, or one that an earlier run has left
to be released. -/
def Lko.inRun (l : Lko) (e : Nat) : Bool :=
  (match l.tailE with
   | none => false
   | some z => decide (e ≤ z)) ||
  (l.state == .run || l.state == .shadow || l.lastE.isSome) && decide (l.fromE < e) &&
    (match l.lastE with
     | none => true
     | some z => decide (e ≤ z))

/-- Epoch `e` is collected: it is one of this run, and not released yet. -/
def Lko.collects (l : Lko) (e : Nat) : Bool := l.inRun e && decide (l.nextRel ≤ e)

/-- Epoch `e` as it stands. -/
def Lko.epoch (l : Lko) (e : Nat) : LkoEpoch := (l.epochs.find? fun x => x.num == e).getD { num := e }

/-- An epoch put into the list by number. -/
def putEpoch (x : LkoEpoch) : List LkoEpoch → List LkoEpoch
  | [] => [x]
  | y :: r => if x.num = y.num then x :: r else if x.num < y.num then x :: y :: r else y :: putEpoch x r

/-- An epoch replaced. -/
def State.setEpoch (s : State) (x : LkoEpoch) : State := { s with lko.epochs := putEpoch x s.lko.epochs }

/-- Where a sample of capture `cap` that arrives at `a` goes. -/
inductive Arrival where
  | merge (e : Nat)
  | carry (e : Nat)
  | late
deriving DecidableEq, Repr

/-- The judgement of R218; a sample more than 256 ticks before its epoch's instant cannot be warped (R217). -/
def Lko.judge (l : Lko) (cam : Bool) (cap a : Nat) : Arrival :=
  let e := epochOf cap
  let fits (k : Nat) := decide (instantOf k ≤ cap + 256 * tickLen)
  if a ≤ l.judgeAt cam e ∧ fits e then .merge e
  else if a ≤ l.judgeAt cam (e + 1) ∧ fits (e + 1) then .carry (e + 1)
  else .late

/-- A wrapping count of an input. -/
def countLate (n k : Nat) (s : State) : State :=
  s.setLin n { s.lin n with late := ((s.lin n).late + k) % 2 ^ 32 }
def countCarried (n k : Nat) (s : State) : State :=
  s.setLin n { s.lin n with carried := ((s.lin n).carried + k) % 2 ^ 32 }
def countSuperseded (n : Nat) (s : State) : State :=
  s.setLin n { s.lin n with superseded := ((s.lin n).superseded + 1) % 2 ^ 32 }

/-- `k` samples of input `n` dropped as late at `g`. -/
def dropLate (n k g : Nat) (s : State) : State :=
  if k = 0 then s
  else sampleEvent 338 k n g (countLate n k { s with lko.lateCnt := satTo (s.lko.lateCnt + k) max32 })

/-- `k` samples of input `n` carried at `g`. -/
def noteCarried (n k g : Nat) (s : State) : State :=
  if k = 0 then s
  else sampleEvent 339 k n g (countCarried n k { s with lko.carryCnt := satTo (s.lko.carryCnt + k) max32 })

/-! ### Slot buffers (R212) -/

/-- Buffer `b` of slot `c` is in use. -/
def Lko.taken (l : Lko) (c b : Nat) : Bool := Tab.get false l.bufs (4 * c + b)

/-- The first free buffer of a slot. -/
def Lko.freeBuf (l : Lko) (c : Nat) : Option Nat := (List.range 4).find? fun b => !l.taken c b

/-- A buffer taken or freed. -/
def markBuf (c b : Nat) (used : Bool) (s : State) : State :=
  { s with lko.bufs := Tab.put s.lko.bufs (4 * c + b) used }

/-- Address of a slot buffer. -/
def Lko.bufAddr (l : Lko) (c b : Nat) : Nat :=
  (l.slotBase.toNat / 64 * 64) + (4 * c + b) * l.slotStride.toNat

/-- Header fields of a model. -/
def ColModel.word (m : ColModel) (i : Nat) : Word := m.header.getD i 0
def ColModel.hasInt8 (m : ColModel) : Bool := bitOf (m.word 1) 25
def ColModel.cost (m : ColModel) (int8 : Bool) : Nat := (m.word (if int8 then 3 else 2)).toNat
def ColModel.size (m : ColModel) (int8 : Bool) : Nat := (m.word (if int8 then 5 else 4)).toNat
def ColModel.crc (m : ColModel) (int8 : Bool) : Word := m.word (if int8 then 7 else 6)
def ColModel.inW (m : ColModel) : Nat := bitsOf (m.word 8) 15 0
def ColModel.inH (m : ColModel) : Nat := bitsOf (m.word 8) 31 16

/-- Why a frame for slot `c` of this size would be refused at `s`: the code of VISION_REFUSED (R212, R244). -/
def Lko.refuses (l : Lko) (c w h : Nat) (x : LkoInput) : Option Nat :=
  if !l.state.running || !x.en then some 3
  else if l.slotStride.toNat < 64 + 6 * w * h ||
      (match Tab.find l.models 0 with
       | none => true
       | some m => m.inW != w || m.inH != h) then some 2
  else if (l.freeBuf c).isNone then some 1
  else none

/-- IPL asks for a buffer of slot `c` as the first unit of a frame starts: the buffer, or a refusal. LKO in a
domain that is off takes nothing and raises nothing. -/
def takeSlot (c w h frame : Nat) (s : State) : State × Option Nat :=
  if !s.pdOn 2 then (s, none)
  else match s.lko.refuses c w h (s.lin c) with
    | some code =>
      (raise 343 code (c * 65536 + frame)
        { s with lko.visRefused := countUp s.lko.visRefused max32 }, none)
    | none =>
      match s.lko.freeBuf c with
      | none => (s, none)
      | some b => (markBuf c b true s, some b)

/-- The buffer of a frame that is not committed becomes free. -/
def freeSlot (c b : Nat) (s : State) : State := markBuf c b false s

/-- The contributing frame of a camera in an epoch: the last accepted that is not superseded. -/
def LkoEpoch.frameOf (x : LkoEpoch) (c : Nat) : Option LkoSample := x.samples.find? fun q => q.cam == c

/-- A sample leaves an epoch; a buffer that Col has not read becomes free. -/
def dropSample (e : Nat) (q : LkoSample) (s : State) : State :=
  let x := s.lko.epoch e
  let s := s.setEpoch { x with samples := x.samples.filter fun r => r != q }
  if q.stage = .waiting then freeSlot q.cam q.buf s else s

/-- The slot that an invocation runs. -/
def ColJob.slot : ColJob → Nat
  | .cam .. => 0 | .lidar .. => 1 | .fuse _ => 2 | .head _ => 3

/-- The samples of an epoch that wait for CAM_ENC, by arrival. -/
def LkoEpoch.waiting (x : LkoEpoch) : List LkoSample := x.samples.filter fun q => q.stage == .waiting

/-- The sample that arrived first, with its epoch. -/
def firstWaiting (xs : List LkoEpoch) : Option (Nat × LkoSample) :=
  (xs.flatMap fun x => x.waiting.map fun q => (x.num, q)).foldl (fun m e => match m with
    | none => some e
    | some p => if e.2.at' < p.2.at' then some e else m) none

/-- The closed epoch that waits for its release. -/
def Lko.current (l : Lko) : Option LkoEpoch :=
  l.epochs.find? fun x => x.closed && x.num == l.nextRel

/-- The lidars whose bin the epoch still has to have encoded. -/
def LkoEpoch.lidarsDue (x : LkoEpoch) : List Nat :=
  [0, 1].filter fun i => !(Tab.get [] x.bins i).isEmpty && !x.lidarDone.testBit i

/-- What the closed epoch still has for Col (R220): its camera encodes, its lidars, FUSE, HEAD. -/
def closeWork (x : LkoEpoch) : Option ColJob :=
  match firstWaiting [x], x.lidarsDue with
  | some (e, q), _ => some (.cam e q.cam q.cap)
  | none, i :: _ => some (.lidar x.num i)
  | none, [] =>
    if x.failed then none
    else if x.fused.isNone then some (.fuse x.num)
    else if x.products.isNone then some (.head x.num)
    else none

/-- What Col runs next: the work after the close has priority over the encodes of later epochs, which run in arrival
order (R220). The order within the work after the close is a choice (log 182). -/
def Lko.nextJob (l : Lko) : Option ColJob :=
  match l.current.bind closeWork with
  | some j => some j
  | none => (firstWaiting l.epochs).map fun e => .cam e.1 e.2.cam e.2.cap

/-- Col takes up its next invocation, in the precision in force (R222). -/
def colStart (s : State) : State :=
  if s.lko.col.isSome || !s.pdOn 2 || !s.pdOn 6 then s
  else match s.lko.nextJob with
    | none => s
    | some j => { s with lko.col := some (j, match Tab.find s.lko.models j.slot with
        | none => false
        | some m => m.int8) }

/-- A frame enters epoch `e`: the latest capture counts, of equal ones the later arrival; a frame beyond
ENC_N is not encoded (R219, R233). -/
def enterFrame (e c b cap : Nat) (carried : Bool) (s : State) : State :=
  let x := s.lko.epoch e
  let n := Tab.get 0 x.accepted c
  if !s.lko.collects e || !s.pdOn 6 then freeSlot c b s
  else if (s.lin c).encN ≤ n then countSuperseded c (freeSlot c b s)
  else
    let s := s.setEpoch { x with accepted := Tab.put x.accepted c (n + 1) }
    match x.frameOf c with
    | none =>
      let x := s.lko.epoch e
      s.setEpoch { x with
        samples := x.samples ++ [{ cam := c, cap := cap, at' := s.gts, buf := b, carried := carried }] }
    | some q =>
      if cap < q.cap then countSuperseded c (freeSlot c b s)
      else
        let s := countSuperseded c (dropSample e q s)
        let x := s.lko.epoch e
        s.setEpoch { x with
          samples := x.samples ++ [{ cam := c, cap := cap, at' := s.gts, buf := b, carried := carried }] }

/-- Sensor time of a frame of a FREE camera: its unwrapped number times PERIOD, in ns (R214). -/
def frameTime (x : LkoInput) (no : Nat) : Nat × Rat :=
  let k := match x.clock.frame with
    | none => no
    | some p => p + sub16 no (p % 65536)
  (k, (k * x.period : Nat) * (5 / 2))

/-- The capture GTS of a frame through the time base of its input (R214); with FRAME the pair (s, CAP_GTS)
feeds the model first. -/
def frameCapture (c no cap : Nat) (s : State) : State × Int × Rat :=
  let x := s.lin c
  if x.timebase = 0 then (s, cap, 0)
  else
    let (k, t) := frameTime x no
    let s := s.setLin c { x with clock := { x.clock with frame := some k } }
    let s := feedPair c s.gts t cap s
    (s, (s.lin c).clock.mapped t, t)

/-- A frame is committed to buffer `b` of slot `c` (R212): its arrival. After a stop the epochs up to its instant still
take theirs (R232). -/
def arriveFrame (c b no cap : Nat) (s : State) : State :=
  if !(s.lko.state.running || s.lko.lastE.isSome) || !(s.lin c).en then freeSlot c b s
  else
    let (s, g, t) := frameCapture c no cap s
    if (s.gts : Int) < g then feedEarly c s.gts t cap (g - s.gts) (freeSlot c b s)
    else
      match s.lko.judge true g.toNat s.gts with
      | .late => if s.lko.inRun (epochOf g.toNat) then dropLate c 1 s.gts (freeSlot c b s) else freeSlot c b s
      | .merge e => enterFrame e c b g.toNat false s
      | .carry e =>
        if s.lko.collects e then enterFrame e c b g.toNat true (noteCarried c 1 s.gts s) else freeSlot c b s

/-- A frame arrives, and Col takes it up where it is idle. -/
def commitFrame (c b no cap : Nat) (s : State) : State := colStart (arriveFrame c b no cap s)

/-! ### Ego-motion (R213, R217, R226) -/

/-- Entry `i` as a reader sees it at `g`. -/
def State.signalAt (s : State) (g i : Nat) : Word × Nat :=
  s.bce.late.foldl (fun v e => if e.1 ≤ g ∧ e.2.1 = i then e.2.2 else v) (s.signal i)

/-- One motion input at a tick: what it has, speed in mm/s and yaw rate in µrad/s where it gives them, and all its
values. -/
structure MotionIn where
  ok : Bool
  speed : Option Int
  yaw : Int
  vals : List Int

/-- A stamp within MOTION_TMO of the boundary `b`; an entry that nothing has published is not. -/
def freshAt (l : Lko) (b stamp : Nat) : Bool := stamp != 0 && decide (b ≤ stamp + l.motionTmo * tickLen)

/-- 0.001 degree per second in µrad/s: 1/1,000 of π/180. -/
def milliDeg (v : Int) : Int := roundRat ((v : Rat) * piRat * 1000 / 180)

/-- The yaw rate of a wheeled machine: v × tan(angle) / WHEELBASE (R213). -/
def wheelYaw (l : Lko) (v angle : Int) : Int := roundRat ((v : Rat) * tanMicro angle * 1000000 / (l.wheelbase : Rat))

/-- The motion inputs 14 to 16 at boundary `b` (R211, R213): the IMU's six values over the internal path with the lever
arm, the machine's speed and wheel angle, and the solution's position, velocity and course with the antenna's lever arm.
Before a CFG_LOAD none contributes. -/
def motionInputs (b : Nat) (s : State) : List MotionIn :=
  let g := b + 2 * phaseLen
  let l := s.lko
  let set := !l.cfg.isEmpty
  let (at', imu) := s.fin.imu.getD (0, [])
  let v := s.signalAt g l.speedIdx
  let w := s.signalAt g l.angleIdx
  let e (i : Nat) := s.signalAt g i
  [ { ok := set && bitOf s.fin.imuCfg 31 && !s.fin.imuFail && freshAt l b at', speed := none
      yaw := milliDeg (imu.getD 2 0), vals := imu ++ [8, 9, 10].map fun i => sint (l.word i) },
    { ok := set && freshAt l b (max v.2 w.2), speed := some (sint v.1), yaw := wheelYaw l (sint v.1) (sint w.1)
      vals := [sint v.1, sint w.1] },
    { ok := set && freshAt l b (e 0x207).2, speed := some (Config.gnssSpeed (e 0x207).1 (e 0x208).1 (e 0x20A).1)
      yaw := Config.gnssYaw (b / tickLen)
      vals := ([0x201, 0x202, 0x203, 0x207, 0x208, 0x209, 0x20A].map fun i => sint (e i).1) ++
        [10, 11, 12].map fun i => sint (s.gnb.cfg.getD i 0) } ]

/-- The median of three. -/
def median3 (a b c : Int) : Int := max (min a b) (min (max a b) c)

/-- The motion inputs whose yaw rate disagrees with the median of the three by more than YAW_BOUND. -/
def yawOdd (l : Lko) (ms : List MotionIn) : List Nat :=
  match ms with
  | [a, b, c] =>
    if a.ok ∧ b.ok ∧ c.ok then
      let m := median3 a.yaw b.yaw c.yaw
      let odd (x : MotionIn) : Bool :=
        decide (((l.yawBound : Rat) * (174532925199432957 / 1000000000000000)) < ((x.yaw - m).natAbs : Rat))
      ([(14, a), (15, b), (16, c)].filter fun e => odd e.2).map fun e => e.1
    else []
  | _ => []

/-- The speeds of inputs 15 and 16 differ by more than SPEED_BOUND. -/
def speedConflict (l : Lko) (ms : List MotionIn) : Option (Int × Int) :=
  match ms with
  | [_, b, c] =>
    match b.speed, c.speed with
    | some v, some w => if b.ok ∧ c.ok ∧ l.speedBound < (v - w).natAbs then some (v, w) else none
    | _, _ => none
  | _ => none

/-- The solution is RTK fixed or float (R256 types 4 and 5 of entry 0x200). -/
def rtkSolution (s : State) (g : Nat) : Bool :=
  let t := bitsOf (s.signalAt g 0x200).1 3 0
  t == 4 || t == 5

/-- The ego-motion of the tick that begins at `b`: speed, lateral velocity, yaw rate, pitch, roll. -/
def egoOf (b : Nat) (ms : List MotionIn) (speed : Option Int) : List Int :=
  let vals := ms.flatMap fun m => if m.ok then m.vals else []
  let t := b / tickLen
  [speed.getD (Config.ego t 0 vals), Config.ego t 1 vals, Config.ego t 2 vals, Config.ego t 3 vals,
    Config.ego t 4 vals]

/-- The entries of ego-motion. -/
def egoEntries : List Nat := [0x258, 0x259, 0x25A, 0x25B, 0x25C, 0x25D]

/-- The order in which R231 lists them: speed, yaw rate, lateral velocity, pitch, roll. -/
def egoWords (e : List Int) (mask : Nat) : List Word :=
  [e.getD 0 0, e.getD 2 0, e.getD 1 0, e.getD 3 0, e.getD 4 0].map (fun v => wordOfInt (sat32 v)) ++ [wordOf mask]

/-- The pose a tick later, with the speed, lateral velocity and yaw rate of the tick (log 183). -/
def Pose.advance (p : Pose) (ego : List Int) : Pose :=
  let v : Vec := { x := (ego.getD 0 0 : Rat), y := (ego.getD 1 0 : Rat), z := 0 }
  let d := v.turnZ ((p.yaw : Rat) / 1000000000)
  { x := p.x + roundRat (d.x * 1000), y := p.y + roundRat (d.y * 1000), yaw := p.yaw + ego.getD 2 0
    pitch := ego.getD 3 0, roll := ego.getD 4 0 }

/-- The motion inputs that disagree in a tick: by yaw rate, and input 15 by speed (R226; DEDUCED, log 30). -/
def oddInputs (l : Lko) (ms : List MotionIn) : List Nat :=
  let odd := yawOdd l ms
  if (speedConflict l ms).isSome && !odd.contains 15 then odd ++ [15] else odd

/-- The per-tick work of Lookout at boundary `b` (R217, R226). -/
def egoTick (b : Nat) (s : State) : State :=
  let l := s.lko
  let all := motionInputs b s
  let odd := yawOdd l all
  let conflict := speedConflict l all
  let single := odd.contains 15 || odd.contains 16
  let ms := all.zipIdx.map fun e => { e.1 with ok := e.1.ok && !(s.lin (14 + e.2)).excluded }
  let rtk := rtkSolution s (b + 2 * phaseLen)
  let speed := match conflict with
    | some (v, w) => if single then none else some (if rtk then w else v)
    | none => none
  let s := if conflict.isSome && !single then
      raiseAt b 344 3 (Config.motionConflict rtk).val s
    else s
  let mask := maskOf ((ms.zipIdx.filter fun e => e.1.ok).map fun e => e.2)
  let ego := egoOf b ms speed
  let v := ego.getD 0 0
  let m := l.motion
  let dist := (match m.travel with
    | [] => 0
    | (_, _, d) :: _ => d) + v
  let s := { s with
    lko.motion := { m with
      poses := ((b, ((m.poses.head?.map fun (p : Nat × Pose) => p.2).getD {}).advance ego) :: m.poses).take 256
      ego := some (b, ego)
      travel := ((b, v, dist) :: m.travel).take 5056
      disagree := (oddInputs l all).foldl (fun d n => Tab.put d n (Tab.get 0 d n + 1)) m.disagree
      window := orMask m.window mask
      mask := mask } }
  (egoEntries.zip (egoWords ego mask)).foldl (fun s e => publishLate (b + 5 * phaseLen) e.1 e.2 b s) s

/-- The pose at `g`, between two boundaries in a straight line (R217). -/
def LkoMotion.poseAt (m : LkoMotion) (g : Nat) : Option Pose :=
  let b := g / tickLen * tickLen
  match m.poses.find? fun e => e.1 == b, m.poses.find? fun e => e.1 == b + tickLen with
  | some (_, p), some (_, q) =>
    let mid (u v : Int) : Int := u + roundRat (((v - u) * (g - b : Nat) : Int) / (tickLen : Rat))
    some { x := mid p.x q.x, y := mid p.y q.y, yaw := mid p.yaw q.yaw
           pitch := mid p.pitch q.pitch, roll := mid p.roll q.roll }
  | some (_, p), none => some p
  | none, _ => none

/-- A point of the machine frame at pose `p`, mm, in the frame at pose `q` (R217). -/
def warpPoint (p q : Pose) (v : Vec) : Vec :=
  let rad (a : Int) (unit : Nat) : Rat := (a : Rat) / (unit : Rat)
  let w := v.outOf (rad p.roll 1000000) (rad p.pitch 1000000) (rad p.yaw 1000000000)
  let d : Vec := { x := ((p.x - q.x : Int) : Rat) / 1000000, y := ((p.y - q.y : Int) : Rat) / 1000000, z := 0 }
  (w.add d).into (rad q.roll 1000000) (rad q.pitch 1000000) (rad q.yaw 1000000000)

/-- A point of a sensor, mm, in the machine frame: POS and ROLL, PITCH, YAW of SENSOR_CFG (R242). -/
def LkoInput.place (x : LkoInput) (v : Vec) : Vec :=
  let mm (i : Nat) : Rat := (sint (x.word i) : Rat)
  (v.outOf (mm 7 / 1000000) (mm 8 / 1000000) (mm 9 / 1000000)).add { x := mm 4, y := mm 5, z := mm 6 }

/-- A lidar point in the grid frame of the instant `te`; one whose pose is not kept cannot be warped. -/
def warpLidar (l : Lko) (x : LkoInput) (te : Nat) (p : LidarPoint) : Option GridPoint :=
  match l.motion.poseAt p.cap, l.motion.poseAt te with
  | some a, some b =>
    let v := warpPoint a b (x.place { x := (sint p.x : Rat), y := (sint p.y : Rat), z := (sint p.z : Rat) })
    some { x := roundRat v.x, y := roundRat v.y, z := roundRat v.z, intensity := p.intensity }
  | _, _ => none

/-- The pose difference that warps a camera's features from the capture to the instant. -/
def poseDiff (l : Lko) (cap te : Nat) : Pose :=
  match l.motion.poseAt cap, l.motion.poseAt te with
  | some a, some b =>
    let v := warpPoint a b { x := 0, y := 0, z := 0 }
    { x := roundRat (v.x * 1000000), y := roundRat (v.y * 1000000), yaw := a.yaw - b.yaw
      pitch := a.pitch - b.pitch, roll := a.roll - b.roll }
  | _, _ => {}

/-! ### Health (R225, R226) -/

/-- An input's runs after a scored epoch that was bad, good or neither, and the change of its exclusion. -/
def judgeRuns (l : Lko) (x : LkoInput) (bad good : Bool) : LkoInput × Option Bool :=
  let x := { x with low := if bad then x.low + 1 else 0, high := if good then x.high + 1 else 0 }
  if !x.excluded && l.exclN ≤ x.low then ({ x with excluded := true, high := 0 }, some true)
  else if x.excluded && l.readmitN ≤ x.high then ({ x with excluded := false, low := 0 }, some false)
  else (x, none)

/-- A motion input is judged at an epoch instant `b` (R226). -/
def judgeMotion (b : Nat) (s : State) (n : Nat) : State :=
  let failed := decide (20 < Tab.get 0 s.lko.motion.disagree n)
  let (x, change) := judgeRuns s.lko (s.lin n) failed (!failed)
  let s := s.setLin n x
  match change with
  | none => s
  | some out => raiseAt b 344 (if out then 1 else 2) n s

end Sys2Proof.Machine
end

