-- ==== Sys2Proof/Machine/LookoutMap.lean ====
section
/-!
DEFINITION. What Lookout derives from the grid, and the output block of an epoch
(spec/08_lookout_fusion.md, R206, R207, R224, R227 to R231).
-/

namespace Sys2Proof.Machine

/-- A cell without data: what a cell the table does not list reads as. -/
def noCell : Cell :=
  { height := 0xFFFF, density := 0xFFFF, lodging := 0, obstacle := 0, conf := 0, noData := true,
    cut := false, carried := false, single := false }

/-- Cell (i, j). -/
def cellAt (cells : Tab Cell) (i j : Nat) : Cell := Tab.get noCell cells (160 * i + j)

/-- Rows and columns of the grid (R206). -/
def gridRows : List Nat := List.range 512
def gridCols : List Nat := List.range 160

/-- Half millimetres of column `j` that lie in the header path; its width is 200 (R207). -/
def headerShare (l : Lko) (j : Nat) : Nat :=
  let lo : Int := 2 * l.hdrOffset - l.hdrWidth
  let hi : Int := 2 * l.hdrOffset + l.hdrWidth
  let left : Int := 16000 - 200 * j
  (min hi left - max lo (left - 200)).toNat

/-- The columns of the header path with their shares. -/
def headerCols (l : Lko) : List (Nat × Nat) :=
  (gridCols.map fun j => (j, headerShare l j)).filter fun e => e.2 != 0

/-- The cell has data. -/
def hasData (c : Cell) : Bool := !c.noData && c.density != 0xFFFF

/-- Mass per metre of a row in g/m and whether a cell of it was filled; none: no header-path cell with data
(R230 step 1). -/
def rowMass (l : Lko) (cells : Tab Cell) (i : Nat) : Option (Rat × Bool) :=
  let row := (headerCols l).map fun e => (cellAt cells i e.1, e.2)
  let good := row.filter fun e => hasData e.1
  if good.isEmpty then none
  else
    let mean : Rat := ((good.map fun e => e.1.density).sum : Rat) / (good.length : Rat)
    let sum : Rat := (row.map fun e =>
      (if hasData e.1 then (e.1.density : Rat) else mean) * (e.2 : Rat)).sum
    some ((l.massGain : Rat) / 65536 * sum / 2000, good.length != row.length)

/-- Rows without a value take the nearest valid row below, or 0. -/
def fillRows : List (Option (Rat × Bool)) → Rat → List (Rat × Bool)
  | [], _ => []
  | some m :: r, _ => m :: fillRows r m.1
  | none :: r, below => (below, true) :: fillRows r below

/-- Mass per metre of every row, with the marks of filled ones. -/
def rowMasses (l : Lko) (cells : Tab Cell) : List (Rat × Bool) :=
  fillRows (gridRows.map (rowMass l cells)) 0

/-- Ego speed in mm/s and travel in µm at boundary `b`; a tick whose work overran holds those of the tick before
(R28). -/
def LkoMotion.at' (m : LkoMotion) (b : Nat) : Option (Int × Int) :=
  (m.travel.find? fun e => decide (e.1 ≤ b)).map fun e => e.2

/-- The strip of 0.1 m under the cutter bar at travel `d`. -/
def stripOf (d : Int) : Int := d / 100000

/-- The look-ahead trajectory: point `k` after `prev`, and whether it counts in TRAJ_GAP (R230 step 3). -/
def trajPoint (l : Lko) (te : Nat) (v : Nat) (rows : List (Rat × Bool)) (prev : Int) (k : Nat) : Int × Bool :=
  if l.hdrDelay ≤ k then
    let i := v * ((k - l.hdrDelay) * 10) / 100000
    if 511 < i then (prev, true)
    else
      let m := rows.getD i (0, true)
      (sat32 (roundRat (m.1 * v / 1000)), m.2)
  else
    match l.motion.at' (te - (l.hdrDelay - k) * 10 * tickLen) with
    | none => (0, true)
    | some (u, d) =>
      match l.strips.find? fun e => e.1 == stripOf d with
      | none => (0, true)
      | some (_, m) => (sat32 (roundRat (m * u / 1000)), false)

/-- The points from `k` on: `fuel` of them. -/
def trajFrom (l : Lko) (te v : Nat) (rows : List (Rat × Bool)) : Nat → Nat → Int → List (Int × Bool)
  | 0, _, _ => []
  | fuel + 1, k, prev =>
    let p := trajPoint l te v rows prev k
    p :: trajFrom l te v rows fuel (k + 1) p.1

/-- A boundary between a CUT and a standing cell (R229). -/
def edgeBetween (l : Lko) (a c : Cell) : Bool :=
  let standing (x : Cell) : Bool := hasData x && !x.cut && decide (l.edgeH ≤ x.height)
  let cut (x : Cell) : Bool := !x.noData && x.cut
  (standing a && cut c) || (cut a && standing c)

/-- E[k]: the first boundary of row 8k from EDGE_SIDE, with the CONF of its two cells. -/
def edgePoint (l : Lko) (cells : Tab Cell) (k : Nat) : Option (Word × Nat × Nat) :=
  let i := 8 * k
  let pairs := List.range 159
  let found := (if l.edgeRight then pairs.reverse else pairs).find? fun j =>
    edgeBetween l (cellAt cells i j) (cellAt cells i (j + 1))
  found.map fun j =>
    (wordOfInt (8000 - 100 * ((j + 1 : Nat) : Int)), (cellAt cells i j).conf, (cellAt cells i (j + 1)).conf)

/-- No boundary found. -/
def noEdge : Word := 0x8000_0000

/-- A point of the fit of R229: x and y in m, and the weight. -/
structure FitPoint where
  x : Rat
  y : Rat
  w : Rat

/-- The weighted sum of xⁿ yᵐ. -/
def fitSum (ps : List FitPoint) (n m : Nat) : Rat := (ps.map fun p => p.w * p.x ^ n * p.y ^ m).sum

/-- A determinant of three rows. -/
def det3 (a b c d e f g h i : Rat) : Rat := a * (e * i - f * h) - b * (d * i - f * g) + c * (d * h - e * g)

/-- Slope and second-order coefficient of the weighted least-squares quadratic; none: it has no single solution. -/
def quadFit (ps : List FitPoint) : Option (Rat × Rat) :=
  let s (n : Nat) := fitSum ps n 0
  let t (n : Nat) := fitSum ps n 1
  let d := det3 (s 0) (s 1) (s 2) (s 1) (s 2) (s 3) (s 2) (s 3) (s 4)
  if d = 0 then none
  else some (det3 (s 0) (t 0) (s 2) (s 1) (t 1) (s 3) (s 2) (t 2) (s 4) / d,
    det3 (s 0) (s 1) (t 0) (s 1) (s 2) (t 1) (s 2) (s 3) (t 2) / d)

/-- The found points of E[0] to E[12], 0.8 m apart, each with the CONF of its two cells as its weight (DEDUCED,
log 31). -/
def fitPoints (edges : List (Option (Word × Nat × Nat))) : List FitPoint :=
  (edges.take 13).zipIdx.filterMap fun e => e.1.map fun p =>
    { x := (8 * e.2 : Nat) / (10 : Rat), y := (sint p.1 : Rat) / 1000, w := ((p.2.1 + p.2.2 : Nat) : Rat) }

/-- EDGE_HDG (false) or EDGE_CURV (true). -/
def edgeWord (which : Bool) (edges : List (Option (Word × Nat × Nat))) : Word :=
  match quadFit (fitPoints edges) with
  | some (b, c) => Config.edgeWord which b c
  | none => Config.noEdgeFit which

/-- The products of an epoch from the cells that HEAD puts out. -/
def productsOf (l : Lko) (e : Nat) (cells : Tab Cell) (dist : Tab (Nat × Nat)) : LkoProducts :=
  let te := instantOf e
  let v := ((l.motion.at' te).map fun p => p.1.toNat).getD 0
  let rows := rowMasses l cells
  let traj := trajFrom l te v rows 400 0 0
  let edges := (List.range 64).map (edgePoint l cells)
  let sum := (edges.map fun p => (p.map fun q => q.2.1 + q.2.2).getD 0).sum
  { cells := cells, dist := dist
    traj := traj.map fun p => wordOfInt p.1
    trajGap := (traj.filter fun p => p.2).length
    edge := edges.map fun p => (p.map fun q => q.1).getD noEdge
    heading := edgeWord false edges
    curvature := edgeWord true edges
    edgeConf := openDiv sum 128
    mass := rows.map fun m => wordOf (satTo (roundRat m.1).toNat max32)
    speed := v }

/-- The strips after a release: the rows ahead, and the last 64 m behind the bar (R230). -/
def newStrips (l : Lko) (e : Nat) (cells : Tab Cell) : List (Int × Rat) :=
  let here := stripOf (((l.motion.at' (instantOf e)).map fun p => p.2).getD 0)
  let rows := (rowMasses l cells).zipIdx.map fun m => (here + (m.2 : Int), m.1.1)
  rows ++ l.strips.filter fun x => decide (x.1 < here) && decide (here ≤ x.1 + 640)

/-- mm of the header path in row 0 that are not CUT (R293). -/
def uncutWidth (l : Lko) (cells : Tab Cell) : Rat :=
  (((headerCols l).map fun e => if (cellAt cells 0 e.1).cut then 0 else e.2).sum : Nat) / 2

/-- A cell record (R228). -/
def cellBytes (c : Cell) : List Byte :=
  leBytes 2 c.height ++ leBytes 2 c.density ++ leBytes 1 c.lodging ++ leBytes 1 c.obstacle ++
    leBytes 1 c.conf ++
    leBytes 1 (oneIf c.noData + oneIf c.cut * 2 + oneIf c.carried * 4 + oneIf c.single * 8)

/-- The cells that records hold, from cell number `k` on. -/
def cellsFrom : Nat → Nat → List Byte → Tab Cell
  | 0, _, _ => []
  | fuel + 1, k, bs =>
    let n (i len : Nat) : Nat := leNat ((bs.drop i).take len)
    let flags := n 7 1
    (k, { height := n 0 2, density := n 2 2, lodging := n 4 1, obstacle := n 5 1, conf := n 6 1
          noData := flags.testBit 0, cut := flags.testBit 1, carried := flags.testBit 2, single := flags.testBit 3 }) ::
      cellsFrom fuel (k + 1) (bs.drop 8)

/-- The cells of an output block (R227). -/
def blockCells (block : List Byte) : Tab Cell := cellsFrom 81920 0 (block.drop 8192)

/-- Zero bytes. -/
def zeros (n : Nat) : List Byte := List.replicate n 0

/-- The masks and flags of a header. -/
structure LkoHeader where
  contrib : Nat
  carried : Nat
  unaligned : Nat
  excluded : Nat
  scores : List Nat
  degraded : Bool
  remoteMissing : Bool
  mixed : Bool
  prec : Nat
deriving DecidableEq, Repr

/-- The header of the output block (R227). -/
def headerBytes (l : Lko) (e : Nat) (h : LkoHeader) (p : LkoProducts) : List Byte :=
  leBytes 8 e ++ leBytes 8 (instantOf e) ++ leBytes 8 (l.relAt e) ++ leBytes 4 h.contrib ++
    leBytes 4 h.carried ++ leBytes 4 h.unaligned ++ leBytes 4 h.excluded ++
    h.scores.map (fun n => BitVec.ofNat 8 n) ++
    leBytes 1 (oneIf h.degraded + oneIf h.remoteMissing * 2 + oneIf h.mixed * 4 + h.prec * 16) ++
    leBytes 2 p.trajGap ++ leBytes 4 p.speed ++ leBytes 4 p.heading.toNat ++ leBytes 4 p.curvature.toNat ++
    leBytes 1 p.edgeConf ++ zeros 183

/-- The output block (R227). -/
def blockBytes (l : Lko) (e : Nat) (h : LkoHeader) (p : LkoProducts) : List Byte :=
  headerBytes l e h p ++ wordBytes p.traj ++ zeros 192 ++ wordBytes p.edge ++ wordBytes p.mass ++
    zeros 3840 ++ gridRows.flatMap fun i => gridCols.flatMap fun j => cellBytes (cellAt p.cells i j)

/-- Size of the output block. -/
def blockSize : Nat := 663552

/-- The header-path cells with data of rows 0 to 99. -/
def nearCells (l : Lko) (p : LkoProducts) : List Cell :=
  ((List.range 100).flatMap fun i => (headerCols l).map fun e => cellAt p.cells i e.1).filter fun c =>
    hasData c && c.height != 0xFFFF

/-- The mean of a number over the near cells, as an entry. -/
def nearMean (l : Lko) (p : LkoProducts) (i : Nat) (f : Cell → Nat) : Word :=
  let cs := nearCells l p
  if cs.isEmpty then Config.noCells i
  else wordOf (openDiv ((cs.map f).sum) cs.length)

/-- The nearest obstacle cell in the header path: row, column, class. -/
def nearObstacle (l : Lko) (p : LkoProducts) : Option (Nat × Nat × Nat) :=
  gridRows.findSome? fun i => (headerCols l).findSome? fun e =>
    let c := cellAt p.cells i e.1
    if c.obstacle = 0 then none else some (i, e.1, c.obstacle)

/-- The per-epoch entries of R231 but those of the inputs. -/
def epochEntries (l : Lko) (e : Nat) (contrib : Nat) (p : LkoProducts) : List (Nat × Word) :=
  let rows := rowMasses l p.cells
  let m50 : Rat := ((rows.take 50).map fun m => m.1).sum / 50
  let edge (k : Nat) : Word := p.edge.getD k noEdge
  [ (0x240, wordOf e), (0x241, wordOf contrib) ] ++
  ((List.range 8).map fun i => (0x242 + i, p.traj.getD (50 * i) 0)) ++
  [ (0x24A, wordOf (roundRat m50).toNat), (0x24B, wordOf p.speed),
    (0x24C, edge 0), (0x24D, edge 6), (0x24E, edge 12), (0x24F, edge 25),
    (0x250, p.heading), (0x251, p.curvature), (0x252, wordOf p.edgeConf),
    (0x253, nearMean l p 0x253 fun c => c.height), (0x254, nearMean l p 0x254 fun c => c.density),
    (0x255, nearMean l p 0x255 fun c => 5 * c.lodging) ] ++
  match nearObstacle l p with
  | none => [(0x256, (0x7FFF_FFFF : Word)), (0x257, 0)]
  | some (i, j, cls) =>
    [ (0x256, wordOf (100 * i + Config.obstacleX.val)),
      (0x257, wordOfInt ((800 - 10 * ((j : Int) + 1) + Config.obstacleY.val) * 256 + cls)) ]

/-- The sum of |h_n − h| in mm over the co-observed cells of an input with heights `hs`, and their count: cells where
it, one of the others, and the fused crop have a height (R224). -/
def coObserved (cells : Tab Cell) (hs : Tab Nat) (others : List (Tab Nat)) : Nat × Nat :=
  hs.foldl (fun a e =>
    let h := (Tab.get noCell cells e.1).height
    if h ≠ 0xFFFF ∧ others.any fun o => (Tab.find o e.1).isSome then
      (a.1 + (max e.2 h - min e.2 h), a.2 + 1)
    else a) (0, 0)

/-- H of R224 from the sum of differences in mm and the count. -/
def scoreOf (bound sum n : Nat) : Nat := 255 * (n * bound - sum) / (n * bound)

end Sys2Proof.Machine
end

