-- ==== Sys2Proof/Machine/LookoutOps.lean ====
section
/-!
DEFINITION. Lookout's epochs, Col, roles, ring operations and registers
(spec/08_lookout_fusion.md, R208 to R210, R218 to R244).
-/

namespace Sys2Proof.Machine

/-! ### Closing an epoch (R209, R216) -/

/-- The enabled cameras and lidars whose model is neither IDENTITY nor ALIGNED. -/
def unalignedMask (s : State) : Nat :=
  maskOf (sensorNumbers.filter fun n => (s.lin n).en && !(s.lin n).aligned)

/-- The samples of inputs that are not aligned leave an epoch. -/
def dropUnaligned (e : Nat) (s : State) : State :=
  let x := s.lko.epoch e
  let s := (x.samples.filter fun q => !(s.lin q.cam).aligned).foldl (fun s q => dropSample e q s) s
  let x := s.lko.epoch e
  s.setEpoch { x with bins := x.bins.filter fun p => (s.lin (12 + p.1)).aligned }

/-- The input set of epoch `e` is fixed at `g`. -/
def closeEpoch (e g : Nat) (takeover : Bool) (s : State) : State :=
  let s := dropUnaligned e s
  let x := s.lko.epoch e
  let missing := s.rtl.role == .lead && x.remote.isNone
  let s := s.setEpoch { x with
    closed := true, unaligned := unalignedMask s, remoteMissing := missing, colOff := !s.pdOn 6,
    takeover := takeover }
  let s := { s with lko.nextClose := e + 1 }
  if missing then raiseAt g 346 1 (e % 2 ^ 32) s else s

/-- The encoding of a sample, where it has one. -/
def LkoSample.enc (q : LkoSample) : Option Encoding :=
  match q.stage with
  | .waiting => none
  | .done _ e => some e

/-- Crop heights in 20 mm steps of 8 bits (R235). -/
def heightSteps (h : Tab Nat) : Tab Nat := h.map fun e => (e.1, satTo (openDiv e.2 20) 255)

/-- The remote encoding of an epoch: its encoded cameras, the sum with the weights and without the excluded ones that
the lead has sent (R235). -/
def remoteOf (x : LkoEpoch) (s : State) : RemoteEnc :=
  let done := x.samples.filterMap fun q => q.enc.map fun e => (q, e)
  { epoch := x.num
    sum := Config.remoteSum ((done.filter fun p => !(s.lin p.1.cam).excluded).map fun p =>
      ((s.lin p.1.cam).weight, p.2.features))
    cams := done.foldl (fun t p => Tab.put t p.1.cam { cap := p.1.cap, heights := heightSteps p.2.heights }) [] }

/-- A second closes its remote encoding of epoch `e` and sends it (R235); epochs whose release has passed
are forgotten. -/
def closeRemote (e : Nat) (s : State) : State :=
  let s := dropUnaligned e s
  let x := s.lko.epoch e
  let s := { s with lko.nextClose := e + 1, lko.remoteOut := some (remoteOf x s) }
  let old := s.lko.epochs.filter fun y => decide (s.lko.relAt y.num < s.gts)
  let s := old.foldl (fun s y => y.samples.foldl (fun s q => dropSample y.num q s) s) s
  { s with lko.epochs := s.lko.epochs.filter fun y => !decide (s.lko.relAt y.num < s.gts) }

/-- Epoch `e` is within the run or the stop. -/
def Lko.upTo (l : Lko) (e : Nat) : Bool :=
  match l.tailE.or l.lastE with
  | none => true
  | some z => decide (e ≤ z)

/-- Epochs are closed and released: in RUN, or after a stop until its last epoch. -/
def Lko.fusing (l : Lko) : Bool := l.state == .run || l.tailE.isSome || (l.state == .loaded && l.lastE.isSome)

/-- EPOCH_CLOSE: the next close instant. -/
def epochClose (s : State) : State :=
  let l := s.lko
  let e := l.nextClose
  if !l.upTo e then s
  else if l.state = .shadow then s.reach (instantOf e) (closeRemote e)
  else if l.fusing then s.reach (l.closeAt e) fun s => colStart (closeEpoch e (l.closeAt e) false s)
  else s

/-! ### Col (R220 to R222) -/

/-- Slot `k` holds a model that is not CORRUPT. -/
def Lko.runs (l : Lko) (k : Nat) : Bool :=
  match Tab.find l.models k with
  | none => false
  | some m => !m.corrupt

/-- Col streams the weights of slot `k` and checks their CRC; a mismatch or a refused read makes the slot
CORRUPT and raises MODEL (R221). The answer: the invocation succeeds. -/
def streamWeights (k : Nat) (int8 : Bool) (s : State) : State × Bool :=
  match Tab.find s.lko.models k with
  | none => (s, false)
  | some m =>
    if m.corrupt then (s, false)
    else
      let base := m.addr + 256 + (if int8 then m.size false else 0)
      let (s, x) := readEngine 0x24 base (m.size int8) s
      if x.status = 0 ∧ crc32 x.bytes = m.crc int8 then (s, true)
      else
        (raise 342 1 k { s with lko.models := Tab.put s.lko.models k { m with corrupt := true } }, false)

/-- Bytes of a slot buffer that CAM_ENC reads. -/
def camSize (l : Lko) : Nat :=
  match Tab.find l.models 0 with
  | none => 0
  | some m => 64 + 6 * m.inW * m.inH

/-- An encode of a camera frame for epoch `e` ends. A refused read of the slot buffer leaves it without an encoding; a
frame that has been superseded meanwhile has its encoding discarded (R219). -/
def endCamera (e c cap : Nat) (int8 : Bool) (enc : Encoding) (s : State) : State :=
  match (s.lko.epoch e).samples.find? fun q => q.cam == c && q.cap == cap && q.stage == .waiting with
  | none => s
  | some q =>
    let (s, ok) := streamWeights 0 int8 s
    let (s, r) := if ok then readEngine 0x24 (s.lko.bufAddr c q.buf) (camSize s.lko) s
      else (s, { moved := 0, status := 1, bytes := [] })
    if r.status = 0 then
      let x := s.lko.epoch e
      freeSlot c q.buf (s.setEpoch { x with
        samples := x.samples.map fun p => if p = q then { q with stage := .done int8 enc } else p
        fp16 := x.fp16 || !int8, int8 := x.int8 || int8 })
    else dropSample e q s

/-- The invocation of LIDAR_ENC on the bin of epoch `e` ends: it has read the bin's points warped to the instant. -/
def endLidar (e i : Nat) (int8 : Bool) (enc : Encoding) (s : State) : State :=
  let x := s.lko.epoch e
  if !x.lidarsDue.contains i then s
  else
    let pts := (Tab.get [] x.bins i).filterMap (warpLidar s.lko (s.lin (12 + i)) (instantOf e))
    let (s, ok) := streamWeights 1 int8 s
    let x := s.lko.epoch e
    let x := { x with lidarDone := withBit x.lidarDone i, gridPoints := Tab.put x.gridPoints i pts }
    s.setEpoch (if ok then { x with
        lidarEnc := Tab.put x.lidarEnc i enc, fp16 := x.fp16 || !int8, int8 := x.int8 || int8 }
      else { x with bins := Tab.del x.bins i })

/-- An encode of the epoch ran in another precision than its slot has now (R233). -/
def precChanged (l : Lko) (x : LkoEpoch) : Bool :=
  let now (k : Nat) : Bool := match Tab.find l.models k with
    | none => false
    | some m => m.int8
  x.samples.any fun q => match q.stage with
    | .waiting => false
    | .done int8 _ => int8 != now 0

/-- FUSE ends for epoch `e`. -/
def endFuse (e : Nat) (int8 : Bool) (features : List Byte) (s : State) : State :=
  let x := s.lko.epoch e
  if x.fused.isSome || x.failed then s
  else
    let (s, ok) := streamWeights 2 int8 s
    let x := s.lko.epoch e
    s.setEpoch (if ok then { x with
        fused := some features, changed := precChanged s.lko x
        warps := x.samples.map fun q => (q.cam, poseDiff s.lko q.cap (instantOf e)) }
      else { x with failed := true })

/-- The cameras and lidars that have data in an epoch, with their crop heights (R224, R235). -/
def LkoEpoch.heights (x : LkoEpoch) : Tab (Tab Nat) :=
  (camNumbers.filterMap fun c =>
    match x.samples.findSome? fun q => if q.cam = c then q.enc else none with
    | some e => some (c, e.heights)
    | none => (x.remote.bind fun r => Tab.find r.cams c).map fun r => (c, r.heights.map fun h => (h.1, 20 * h.2))) ++
  ([0, 1].filterMap fun i => (Tab.find x.lidarEnc i).map fun e => (12 + i, e.heights))

/-- The inputs that have data in an epoch. -/
def LkoEpoch.withData (x : LkoEpoch) : List Nat := x.heights.map fun e => e.1

/-- For each input with data its difference from the fused crop, over the cells where another contributing input has
data too (R224). -/
def distances (x : LkoEpoch) (cells : Tab Cell) (s : State) : Tab (Nat × Nat) :=
  x.heights.map fun e =>
    (e.1, coObserved cells e.2 ((x.heights.filter fun o => o.1 != e.1 && !(s.lin o.1).excluded).map fun o => o.2))

/-- HEAD ends for epoch `e`: its products. -/
def endHead (e : Nat) (int8 : Bool) (cells : Tab Cell) (s : State) : State :=
  let x := s.lko.epoch e
  if x.fused.isNone || x.products.isSome || x.failed then s
  else
    let (s, ok) := streamWeights 3 int8 s
    let x := s.lko.epoch e
    s.setEpoch (if ok then { x with products := some (productsOf s.lko e cells (distances x cells s)) }
      else { x with failed := true })

/-- COL_INVOCATION_END: the invocation that Col runs ends, and the next starts. -/
def colEnd (r : ColEnd) (s : State) : State :=
  if !s.pdOn 2 || !s.pdOn 6 then s
  else
    let idle (s : State) : State := { s with lko.col := none }
    match s.lko.col, r with
    | some (.cam e c cap, p), .camEnc c' cap' enc =>
      if c = c'.val ∧ cap = cap' then colStart (endCamera e c cap p enc (idle s)) else s
    | some (.lidar e i, p), .lidarEnc i' enc => if i = i'.val then colStart (endLidar e i p enc (idle s)) else s
    | some (.fuse e, p), .fuse features => colStart (endFuse e p features (idle s))
    | some (.head e, p), .head cells => colStart (endHead e p cells (idle s))
    | _, _ => s

/-- PD6 off: pending encodes are lost, and the epochs between close and release are skipped (R210, R232). -/
def colOff (s : State) : State :=
  s.lko.epochs.foldl (fun (s : State) x =>
    let s := (x.samples.filter fun q => q.stage == .waiting).foldl (fun s q => dropSample x.num q s) s
    let y := s.lko.epoch x.num
    s.setEpoch { y with colOff := y.colOff || y.closed }) { s with lko.col := none }

/-! ### Release (R209, R210, R224 to R227) -/

/-- An input is scored (R224). -/
def scoreInput (p : LkoProducts) (s : State) (n : Nat) : State :=
  let x := s.lin n
  let (sum, cnt) := Tab.get (0, 0) p.dist n
  if cnt < 64 ∨ x.lieBound = 0 then s.setLin n { x with unscored := true }
  else s.setLin n { x with score := scoreOf x.lieBound sum cnt, unscored := false }

/-- The scores of epoch `e` act from here on: weights and exclusions (R225). -/
def applyScore (g : Nat) (s : State) (n : Nat) : State :=
  let x := s.lin n
  if x.unscored then s
  else
    let (x, change) := judgeRuns s.lko { x with weight := min 32768 (x.score * 256) }
      (decide (x.score < 32)) (decide (128 ≤ x.score))
    let s := s.setLin n x
    match change with
    | none => s
    | some out => raiseAt g 341 (if out then 1 else 2) (x.score * 256 + n) s

/-- The inputs excluded now. -/
def exclMask (s : State) : Nat := maskOf (inputNumbers.filter fun n => (s.lin n).excluded)

/-- Precision of slots 3 to 0. -/
def precMask (l : Lko) : Nat :=
  maskOf ((List.range 4).filter fun k =>
    match Tab.find l.models k with
    | none => false
    | some m => m.int8)

/-- The masks of the header of an epoch that is released. -/
def headerOf (x : LkoEpoch) (s : State) : LkoHeader :=
  let entered := maskOf (x.withData.filter fun n => !(s.lin n).excluded)
  let contrib := orMask entered (x.motion * 2 ^ 14)
  let wanted := orMask (maskOf (sensorNumbers.filter fun n => (s.lin n).en)) s.lko.teamCams
  let held := camNumbers.filter fun c => x.samples.any fun q => q.cam == c && q.carried
  { contrib := contrib, carried := orMask x.carried (maskOf held), unaligned := x.unaligned, excluded := exclMask s
    scores := inputNumbers.map fun n => (s.lin n).score
    degraded := sensorNumbers.any fun n => wanted.testBit n && !contrib.testBit n
    remoteMissing := x.remoteMissing, mixed := (x.fp16 && x.int8) || x.changed, prec := precMask s.lko }

/-- The health entry of an input (R231). -/
def healthEntry (s : State) (n : Nat) : Word :=
  let x := s.lin n
  wordOf (x.score + oneIf x.excluded * 256 + oneIf (decide (n < 14) && !x.aligned) * 512
    + oneIf x.unscored * 1024)

/-- A pooled buffer of queue `q` takes these bytes of epoch `e`; without one NO_BUFFER is raised. -/
def poolOut (q opc code e g : Nat) (bs : List Byte) (s : State) : State :=
  match s.poolBuffer 7 q opc with
  | none => raiseAt g 345 code (e % 2 ^ 32) s
  | some c => writeOut 0x23 c bs (wordOf e) (wordOf (instantOf e)) s

/-- The weights as a replica carries them. -/
def weightTab (s : State) : Tab Nat := (List.range 14).map fun n => (n, (s.lin n).weight)

/-- The release of an epoch with its products (R209). -/
def releaseWith (e g : Nat) (x : LkoEpoch) (p : LkoProducts) (s : State) : State :=
  let s := x.withData.foldl (scoreInput p) s
  let h := headerOf x s
  let te := instantOf e
  let s := (epochEntries s.lko e h.contrib p).foldl (fun s v => publishLate (g + 1) v.1 v.2 te s) s
  let s := inputNumbers.foldl (fun s n => publishLate (g + 1) (0x260 + n) (healthEntry s n) te s) s
  let s := installTraj p.traj te s
  let block := blockBytes s.lko e h p
  let s := if s.rtl.role = .lead then
      let r : RelReplica := {
        epoch := e, traj := p.traj, block := block, contrib := h.contrib, weights := weightTab s
        excluded := h.excluded }
      { s with lko.releaseOut := some r }
    else s
  let s := poolOut 2 0x20 1 e g block s
  let s := poolOut 3 0x21 2 e g (x.fused.getD []) s
  let s := { s with
    lko.lastEpoch := e, lko.lastGts := te, lko.contrib := h.contrib, lko.degraded := h.degraded
    lko.strips := newStrips s.lko e p.cells
    lko.cutWidth := uncutWidth s.lko p.cells }
  x.withData.foldl (applyScore g) s

/-- Why an epoch is skipped, if it is: the code of EPOCH_SKIPPED (R210). -/
def skipCause (x : LkoEpoch) (s : State) : Option Nat :=
  if x.takeover && x.products.isNone then some 5
  else if x.colOff || !s.pdOn 6 then some 2
  else if x.failed then some 3
  else if x.motion = 0 then some 4
  else if x.products.isNone then some 1
  else none

/-- The STOP that runs completes with the last release (R239). -/
def finishStop (s : State) : State :=
  let s := (s.lko.epochs).foldl (fun s y => y.samples.foldl (fun s q => dropSample y.num q s) s) s
  let s := { s with lko.epochs := [], lko.lastE := none, lko.col := none }
  match s.opOf 7 0 (isStarted 6) with
  | none => s
  | some c => finishOp c stOk 0 (wordOf s.lko.lastEpoch) 0 s

/-- A stop that a START has followed is over: the STOP completes, and the new run's epochs are next. -/
def finishTail (s : State) : State :=
  let s := { s with lko.tailE := none, lko.nextClose := s.lko.fromE + 1, lko.nextRel := s.lko.fromE + 1 }
  match s.opOf 7 0 (isStarted 6) with
  | none => s
  | some c => finishOp c stOk 0 (wordOf s.lko.lastEpoch) 0 s

/-- A stop is over: the block is LOADED and its last epoch released. -/
def stopIfDone (s : State) : State :=
  match s.lko.tailE, s.lko.lastE with
  | some z, _ => if z < s.lko.nextRel then finishTail s else s
  | none, some z => if s.lko.state = .loaded ∧ z < s.lko.nextRel then finishStop s else s
  | none, none => s

/-- R_e of epoch `e`: it is released or skipped. -/
def releaseEpoch (e : Nat) (s : State) : State :=
  let g := s.lko.relAt e
  let s := if (s.lko.epoch e).closed then s else closeEpoch e (s.lko.closeAt e) false s
  let x := s.lko.epoch e
  let s := match skipCause x s, x.products with
    | none, some p => releaseWith e g x p s
    | cause, some p =>
      let s := x.withData.foldl (applyScore g) (x.withData.foldl (scoreInput p) s)
      raiseAt g 336 (cause.getD 1) (e % 2 ^ 32) { s with lko.skipCnt := countUp s.lko.skipCnt max32 }
    | cause, none =>
      raiseAt g 336 (cause.getD 1) (e % 2 ^ 32) { s with lko.skipCnt := countUp s.lko.skipCnt max32 }
  let s := (s.lko.epoch e).samples.foldl (fun s q => dropSample e q s) s
  colStart (stopIfDone { s with
    lko.epochs := s.lko.epochs.filter fun y => decide (e < y.num), lko.nextRel := e + 1 })

/-- EPOCH_RELEASE: the next release instant. -/
def epochRelease (s : State) : State :=
  let l := s.lko
  let e := l.nextRel
  if l.fusing ∧ l.upTo e then s.reach (l.relAt e) (releaseEpoch e) else s

/-! ### The rope team (R235, R236) -/

/-- A remote encoding carried (source 339) or dropped late (338) counts as one sample (R218, R235). -/
def remoteSample (src e a : Nat) (s : State) : State := sampleEvent src 1 (Config.remoteInput e).val a s

/-- REMOTE_ENCODING_ARRIVAL: the second's encoding, one sample under R218. -/
def remoteArrival (r : RemoteEnc) (a : Nat) (s : State) : State :=
  let e := r.epoch
  let r := { r with cams := r.cams.filter fun p => decide (p.1 < 12) }
  if s.rtl.role ≠ .lead ∨ !s.lko.fusing then s
  else
    let s := s.advance a
    let l := s.lko
    let s := { s with lko.teamCams := orMask l.teamCams (maskOf (r.cams.map fun p => p.1)) }
    let put (k : Nat) (carried : Bool) (s : State) : State :=
      let x := s.lko.epoch k
      let newer := !carried || x.remote.isNone
      s.setEpoch { x with
        remote := if newer then some r else x.remote
        carried := if carried && newer then r.cams.foldl (fun m p => withBit m p.1) x.carried else x.carried }
    if a ≤ l.closeAt e then (if l.collects e then put e false s else s)
    else if a ≤ l.closeAt (e + 1) then
      if l.collects (e + 1) then
        raiseAt a 346 2 (e % 2 ^ 32) (remoteSample 339 e a (put (e + 1) true
          { s with lko.carryCnt := countUp s.lko.carryCnt max32 }))
      else s
    else raiseAt a 346 3 (e % 2 ^ 32) (remoteSample 338 e a { s with lko.lateCnt := countUp s.lko.lateCnt max32 })

/-- The FLAGS byte of a block with REPLICA set. -/
def asReplica (b : List Byte) : List Byte := b.set 57 ((b.getD 57 0) ||| 8)

/-- RELEASE_REPLICA_ARRIVAL: a second stores the release, installs its trajectory, writes its block and
takes over the lead's weights and exclusions (R235). The strips of ground and the cut width follow from its cells (R230,
R293). -/
def replicaArrival (r : RelReplica) (s : State) : State :=
  if s.lko.state ≠ .shadow then s
  else
    let te := instantOf r.epoch
    let cells := blockCells r.block
    let s := { s with
      lko.replica := some r
      lko.strips := newStrips s.lko r.epoch cells
      lko.cutWidth := uncutWidth s.lko cells
      lko.teamCams := orMask s.lko.teamCams
        (maskOf (camNumbers.filter fun c => r.contrib.testBit c && !(s.lin c).en)) }
    let s := sensorNumbers.foldl (fun s n =>
      s.setLin n { s.lin n with
        weight := Tab.get (s.lin n).weight r.weights n, excluded := r.excluded.testBit n }) s
    poolOut 2 0x20 1 r.epoch (s.lko.relAt r.epoch) (asReplica r.block) (installTraj r.traj te s)

/-- The takeover at boundary `tk`: SHADOW to RUN (R236). -/
def lkoTakeover (tk : Nat) (s : State) : State :=
  if s.lko.state ≠ .shadow then s
  else
    let g := boundaryOf tk
    let s := setLkoState .run s
    let l := s.lko
    let e := max (g / epochLen) (l.fromE + 1)
    if g < l.closeAt e then { s with lko.nextClose := e, lko.nextRel := e }
    else if g < l.relAt e then colStart (closeEpoch e g true { s with lko.nextRel := e })
    else { s with lko.nextClose := e + 1, lko.nextRel := e + 1 }

/-- Leadership handed over by plan at an epoch instant `th`: RUN to SHADOW (R232). -/
def lkoToShadow (th : Nat) (s : State) : State :=
  if s.lko.state ≠ .run then s
  else
    let e := boundaryOf th / epochLen
    let s := setLkoState .shadow { s with lko.nextClose := max e (s.lko.fromE + 1) }
    s

/-! ### Time (R222, R226, R232) -/

/-- The models take the precision asked for (R222). -/
def precisionTick (b : Nat) (s : State) : State :=
  (List.range 4).foldl (fun s k =>
    match Tab.find s.lko.models k with
    | none => s
    | some m =>
      let want := s.lko.int8Ask && m.hasInt8
      if m.int8 = want then s
      else raiseAt b 342 (if want then 2 else 3) k { s with
        lko.models := Tab.put s.lko.models k { m with int8 := want } }) s

/-- The work of an epoch instant `b`, that of epoch `e`. -/
def instantTick (b e : Nat) (s : State) : State :=
  let x := s.lko.epoch e
  let s := if s.lko.collects e then s.setEpoch { x with motion := s.lko.motion.window } else s
  let s := if s.lko.state.running then [14, 15, 16].foldl (judgeMotion b) s else s
  let s := { s with lko.motion := { s.lko.motion with disagree := [], window := 0 } }
  let s := precisionTick b s
  let s := if s.lko.state = .armed ∧ s.lko.fromE ≤ e then setLkoState .run s else s
  match s.lko.lastE with
  | none => s
  | some z =>
    if s.lko.state.running ∧ z ≤ e then
      let quiet := s.lko.state != .run
      let s := if s.lko.state = .shadow ∧ s.lko.nextClose ≤ z then closeRemote z s else s
      let s := setLkoState .loaded s
      if quiet then finishStop s else stopIfDone s
    else s

/-- Lookout at boundary `b`: ego-motion at every tick (R217), held where its work overruns (R28), then the work of an
epoch instant. -/
def lkoTick (b : Nat) (s : State) : State :=
  if !s.pdOn 2 then s
  else
    let s := if s.overruns .lookout then s else egoTick b s
    colStart (if b % epochLen = 0 then instantTick b (b / epochLen) s else s)

/-- PD2 off, or a time base start (R232). -/
def lkoReset (s : State) : State := { s with lko := {} }

/-- A stop at the next epoch instant (R232). -/
def lkoStopNow (s : State) : State :=
  if s.lko.state.running then { s with lko.lastE := some (s.lko.lastE.getD (s.gts / epochLen + 1)) } else s

/-! ### Ring operations (R238 to R242) -/

/-- A SCHEMA refusal. -/
def lkoSchema (c : OpRef) (xfer reason input word : Nat) (s : State) : State :=
  failOp c stSchema xfer (lkoErr c.op.opcode reason input word s)

/-- A signed number within bounds. -/
def within (lo hi v : Int) : Bool := decide (lo ≤ v) && decide (v ≤ hi)

/-- The first word of a CFG_LOAD block out of its range (R241). -/
def cfgFault (ws : List Word) : Option Nat :=
  let l : Lko := { cfg := ws }
  let idx (v : Nat) := decide (0x100 ≤ v) && decide (v ≤ 0x1FF)
  let bad : List (Nat × Bool) :=
    [ (0, within 1 20 l.closeT && within (l.closeT + 2) 39 l.relT),
      (1, within (-4000) 4000 l.hdrOffset && within 1000 16000 l.hdrWidth),
      (2, within 0 500 l.hdrDelay && within 50 2000 l.edgeH),
      (3, within 16384 262144 l.massGain),
      (4, idx l.speedIdx && idx l.angleIdx),
      (5, within 1 1000 l.motionTmo && within 1500 8000 l.wheelbase),
      (6, within 1 5000 l.speedBound && within 1 10000 l.yawBound),
      (7, within 1 255 l.exclN && within 1 255 l.readmitN) ]
  (bad.find? fun e => !e.2).map fun e => e.1

/-- The listed bits of CFG_LOAD words (R8, R241). -/
def lkoCfgMask (i : Nat) : Word :=
  match i with
  | 0 => 0xFFFF_0001 | 2 => 0x03FF_FFFF | 4 => 0x03FF_03FF | 7 => 0xFFFF_0000
  | _ => if i ≤ 10 then 0xFFFF_FFFF else 0

/-- The listed bits of SENSOR_CFG words (R8, R242). -/
def sensorMask (i : Nat) : Word := if i = 0 then 0x930F_FFFF else if i ≤ 15 then 0xFFFF_FFFF else 0

/-- A block of words with only its listed bits. -/
def maskWords (m : Nat → Word) (ws : List Word) : List Word := ws.zipIdx.map fun e => e.1 &&& m e.2

/-- CFG_LOAD. -/
def lkoCfgLoad (c : OpRef) (s : State) : State :=
  needBuffer c s fun s =>
    if c.op.len ≠ 128 then failOp c stLen 0 s
    else if s.lko.state ≠ .empty ∧ s.lko.state ≠ .loaded then failOp c stBusy 0 s
    else readWhole 0x23 c s fun bs s =>
      let ws := maskWords lkoCfgMask (leWords 32 bs)
      match cfgFault ws with
      | some w => lkoSchema c 128 1 0 w s
      | none => finishOp c stOk 128 0 0 (setLkoState .loaded { s with lko.cfg := ws })

/-- The first fault of a SENSOR_CFG block for input `n`: reason and word (R242). -/
def sensorFault (n : Nat) (ws : List Word) : Option (Nat × Nat) :=
  let x : LkoInput := { cfg := ws }
  let lidar := decide (12 ≤ n)
  let angle (w : Word) := within (-3141593) 3141593 (sint w)
  if bitOf (x.word 0) 28 != lidar then some (2, 0)
  else if (if lidar then x.timebase != 2 else decide (2 ≤ x.timebase)) then some (2, 0)
  else if !lidar && !within 1 4 x.encN then some (1, 0)
  else if !within 50 5000 x.lieBound then some (1, 0)
  else if !within 400000 400000000 x.period then some (1, 1)
  else if lidar && !within 1 400000 x.maxPoints then some (1, 3)
  else ([7, 8, 9].find? fun i => !angle (x.word i)).map fun i => (1, i)

/-- SENSOR_CFG. -/
def sensorCfg (c : OpRef) (s : State) : State :=
  needBuffer c s fun s =>
    let n := bitsOf (c.op.word 6) 3 0
    if c.op.len ≠ 128 then failOp c stLen 0 s
    else if s.lko.state ≠ .loaded then failOp c stBusy 0 s
    else if 14 ≤ n then lkoSchema c 0 1 n 0 s
    else readWhole 0x23 c s fun bs s =>
      let ws := maskWords sensorMask (leWords 32 bs)
      match sensorFault n ws with
      | some (reason, w) => lkoSchema c 128 reason n w s
      | none =>
        let old := s.lin n
        let y := { old with cfg := ws }
        let keep := old.clock.st == .aligned && old.timebase != 0 && old.timebase == y.timebase
          && old.period == y.period
        let y := if keep then y else { y with clock := {} }
        let y := if y.en && !old.en then { y with score := 255, unscored := false, weight := 32768 } else y
        finishOp c stOk 128 (wordOf y.clockCode) 0 (s.setLin n y)

/-- The header of a model image is sound, for an image of so many bytes (R221, R239). -/
def headerOk (ws : List Word) (len : Nat) : Bool :=
  let m : ColModel := { addr := 0, header := ws }
  let schema := bitsOf (m.word 1) 15 0
  let role := bitsOf (m.word 1) 23 16
  let sizes := m.size false + (if m.hasInt8 then m.size true else 0)
  m.word 0 == (0x4B43_4F4C : Word) &&
    decide (bitsOf Config.modelSchema 15 0 ≤ schema) && decide (schema ≤ bitsOf Config.modelSchema 31 16) &&
    decide (role ≤ 3) && bitOf (m.word 1) 24 && (role == 0 || m.word 8 == 0) && len == 256 + sizes

/-- MODEL_LOAD. -/
def modelLoad (c : OpRef) (s : State) : State :=
  needBuffer c s fun s =>
    if c.op.len < 256 then failOp c stLen 0 s
    else readWhole 0x23 c s fun bs s =>
      let ws := leWords 64 bs
      let m : ColModel := { addr := c.op.addr, header := ws }
      let k := bitsOf (m.word 1) 23 16
      let w16 := (bs.drop 256).take (m.size false)
      let w8 := (bs.drop (256 + m.size false)).take (m.size true)
      if !headerOk ws c.op.len then lkoSchema c c.op.len 3 (k % 16) 0 s
      else if (Tab.find s.lko.models k).isSome ∧ s.lko.state.running then failOp c stBusy c.op.len s
      else if crc32 w16 ≠ m.crc false ∨ (m.hasInt8 ∧ crc32 w8 ≠ m.crc true) then
        lkoSchema c c.op.len 3 k 0 s
      else
        finishOp c stOk c.op.len (wordOf k) (wordOf (oneIf m.hasInt8 * 2))
          { s with lko.models := Tab.put s.lko.models k m }

/-- MODEL_DROP. -/
def modelDrop (c : OpRef) (s : State) : State :=
  let k := bitsOf (c.op.word 6) 1 0
  if s.lko.state.running then failOp c stBusy 0 s
  else finishOp c stOk 0 (wordOf k) 0 { s with lko.models := Tab.del s.lko.models k }

/-- L_enc and L_close in cycles (R223). -/
def colBudget (s : State) : Nat × Nat :=
  let cost (k : Nat) : Nat := match Tab.find s.lko.models k with
    | none => 0
    | some m => m.cost false
  let cams := camNumbers.filter fun n => (s.lin n).en
  let lidars := ([12, 13].filter fun n => (s.lin n).en).length
  let tail := cost 1 * lidars + cost 2 + cost 3
  (cost 0 * (cams.map fun n => (s.lin n).encN).sum + tail, cost 0 * cams.length + tail)

/-- The first check of START that fails, by LKO_ERR_LAST reason (R239, R223, R234). -/
def startFault (s : State) : Option Nat :=
  let l := s.lko
  let has (k : Nat) := (Tab.find l.models k).isSome
  let cam := camNumbers.any fun n => (s.lin n).en
  let lidar := (s.lin 12).en || (s.lin 13).en
  let (enc, close) := colBudget s
  if !has 2 || !has 3 || (cam && !has 0) || (lidar && !has 1) then some 7
  else if cam && l.slotStride == 0 then some 1
  else if 36000000 < enc ∨ (l.relT - l.closeT - 1) * 1000000 < close then some 4
  else if s.rtl.role ≠ .lone ∧ l.closeT < (if s.rtl.upWing then 6 else 10) then some 5
  else none

/-- The block starts at boundary `t0`. Epochs that a stop has left to be released are released first. -/
def lkoBegin (t0 : Nat) (s : State) : State :=
  let e0 := (t0 + 39) / 40
  let (enc, close) := colBudget s
  let load := wordOf (satTo (openDiv enc 10000) 0xFFFF * 65536 + satTo (openDiv close 10000) 0xFFFF)
  let s : State := sensorNumbers.foldl (fun (s : State) n =>
    if (s.lin n).timebase = 0 then s else s.setLin n { s.lin n with clock := {} }) s
  let s : State := { s with lko := { s.lko with
    startT := t0, fromE := e0, colLoad := load, tailE := s.lko.lastE, lastE := none
    nextClose := if s.lko.lastE.isSome then s.lko.nextClose else e0 + 1
    nextRel := if s.lko.lastE.isSome then s.lko.nextRel else e0 + 1 } }
  setLkoState (if s.rtl.role = .second then .shadow else .armed) s

/-- START. -/
def lkoStart (c : OpRef) (s : State) : State :=
  let v := c.op.word64 6
  if v ≠ 0 ∧ v ≤ s.t then failOp c stLate 0 s
  else if s.lko.state ≠ .loaded ∨ !s.lko.en then failOp c stBusy 0 s
  else match startFault s with
    | some reason => lkoSchema c 0 reason 0 0 s
    | none =>
      let t0 := startTick s v
      finishOp c stOk 0 (wordOf ((t0 + 39) / 40 + 1)) (wordOf (openDiv (colBudget s).2 1000)) (lkoBegin t0 s)

/-- STOP. -/
def lkoStop (c : OpRef) (s : State) : State :=
  if !s.lko.state.running then failOp c stBusy 0 s else startOp c [] (lkoStopNow s)

/-- One record of HEALTH_READ (R239). -/
def healthRecord (x : LkoInput) : List Byte :=
  leBytes 1 x.score ++ leBytes 1 (oneIf x.excluded + oneIf x.unscored * 2 + x.clockCode * 4) ++
    leBytes 2 x.weight ++ leBytes 4 x.late ++ leBytes 4 x.carried ++ leBytes 4 x.superseded ++
    leBytes 8 (word64OfInt x.clock.o).toNat ++ leBytes 4 (wordOfInt (roundRat (x.clock.rho * 1000000000))).toNat ++
    leBytes 4 (wordOfInt (sat32 x.clock.res)).toNat

/-- HEALTH_READ. -/
def healthRead (c : OpRef) (s : State) : State :=
  needBuffer c s fun s =>
    if c.op.len ≠ 544 then failOp c stLen 0 s
    else writeOut 0x23 c (inputNumbers.flatMap fun n => healthRecord (s.lin n)) (wordOf s.lko.lastEpoch) 0 s

/-- The points of a batch: x, y, z, time offset in µs, intensity. -/
def lidarPoints : Nat → List Byte → List (Word × Word × Word × Nat × Nat)
  | 0, _ => []
  | n + 1, bs =>
    (wordOf (leNat (bs.take 4)), wordOf (leNat ((bs.drop 4).take 4)), wordOf (leNat ((bs.drop 8).take 4)),
      leNat ((bs.drop 12).take 3), leNat ((bs.drop 15).take 1)) :: lidarPoints n (bs.drop 16)

/-- Where the points of a batch have gone: binned, carried, late, and the largest lead of a point. -/
structure Binned where
  binned : Nat := 0
  carried : Nat := 0
  late : Nat := 0
  lead : Int := 0
deriving DecidableEq, Repr

/-- A point enters the bin of epoch `e`, which holds at most MAX_POINTS. -/
def binPoint (i e : Nat) (p : LidarPoint) (carried : Bool) (s : State) : State × Bool :=
  let x := s.lko.epoch e
  let bin := Tab.get [] x.bins i
  if !s.lko.collects e || decide ((s.lin (12 + i)).maxPoints ≤ bin.length) then (s, false)
  else (s.setEpoch { x with
    bins := Tab.put x.bins i (bin ++ [p])
    carried := if carried then withBit x.carried (12 + i) else x.carried }, true)

/-- One point is placed (R215, R218, R219). -/
def placePoint (i : Nat) (p : LidarPoint) (cap : Int) (r : State × Binned) : State × Binned :=
  let (s, n) := r
  if (s.gts : Int) < cap then (s, { n with lead := max n.lead (cap - s.gts) })
  else match s.lko.judge false p.cap s.gts with
    | .late => if s.lko.inRun (epochOf p.cap) then (s, { n with late := n.late + 1 }) else (s, n)
    | .merge e =>
      let (s, ok) := binPoint i e p false s
      (s, { n with binned := n.binned + oneIf ok })
    | .carry e =>
      let (s, ok) := binPoint i e p true s
      (s, { n with binned := n.binned + oneIf ok, carried := n.carried + oneIf ok })

/-- The points of an aligned lidar are binned. -/
def binBatch (i : Nat) (t : Rat) (pts : List (Word × Word × Word × Nat × Nat)) (s : State) : State × Binned :=
  pts.foldl (fun r p =>
    let cap := (r.1.lin (12 + i)).clock.mapped (t + (p.2.2.2.1 * 1000 : Nat))
    placePoint i { x := p.1, y := p.2.1, z := p.2.2.1, cap := cap.toNat, intensity := p.2.2.2.2 } cap r)
    (s, {})

/-- LIDAR_PUT (R240). -/
def lidarPut (c : OpRef) (s : State) : State :=
  needBuffer c s fun s =>
    if c.op.len < 32 then failOp c stLen 0 s
    else readWhole 0x23 c s fun bs s =>
      let byte (i n : Nat) := leNat ((bs.drop i).take n)
      let p := byte 10 2
      let i := byte 12 1
      if c.op.len ≠ 32 + 16 * p then failOp c stLen c.op.len s
      else if p = 0 ∨ 2 ≤ i ∨ !(s.lin (12 + i)).en ∨ byte 13 3 ≠ 0 ∨ byte 24 8 ≠ 0 then
        lkoSchema c c.op.len 1 ((12 + i) % 16) 0 s
      else if !s.lko.state.running then failOp c stBusy c.op.len s
      else
        let n := 12 + i
        let t : Rat := ((byte 0 6 * 1000000000 + byte 6 4 : Nat) : Rat)
        let before := (s.lin n).aligned
        let s := feedPair n s.gts t (byte 16 8) s
        let (s, r) := if before && (s.lin n).aligned then binBatch i t (lidarPoints p (bs.drop 32)) s else (s, {})
        let s := if 0 < r.lead then feedEarly n s.gts t (byte 16 8) r.lead s else s
        let s := noteCarried n r.carried s.gts (dropLate n r.late s.gts s)
        finishOp c stOk c.op.len (wordOf r.binned) (wordOf (p - r.binned)) s

/-- OUT_BUF and FEAT_BUF: the service check of a pooled buffer. -/
def poolCheck (least : Nat) (c : OpRef) (s : State) : State :=
  if c.op.len < least then failOp c stLen 0 s else startOp c [] s

/-! ### Registers (R243) -/

/-- LKO_CTL written. -/
def lkoCtlWrite (v : Word) (s : State) : State :=
  let s := { s with lko.en := bitOf v 31 }
  if bitOf v 31 then s else lkoStopNow s

/-- A write of a slot register: refused while EN is 1. -/
def slotWriteReg (f : Lko → Lko) (s : State) : State :=
  if s.lko.en then lkoErr 0 6 0 0 s else { s with lko := f s.lko }

/-- LKO_MODEL_STAT. -/
def modelStat (l : Lko) : Nat :=
  ((List.range 4).map fun k => match Tab.find l.models k with
    | none => 0
    | some m => ((if m.corrupt then 2 else 1) + oneIf m.int8 * 4) * 16 ^ k).sum

/-- A read of the LKO window. -/
def lkoRead (a : Access) (off : Nat) (s : State) : Word × State :=
  let l := s.lko
  let b := windowBase 7
  let x := if l.clkSel < 14 then s.lin l.clkSel else {}
  if off = 0x00 then (wordOf (oneIf l.en * 2 ^ 31 + s.rtl.role.code * 2 ^ 28), s)
  else if off = 0x04 then
    (wordOf (l.state.code * 2 ^ 28 + oneIf (s.pdOn 6) * 2 ^ 27 + oneIf l.degraded * 2 ^ 26), s)
  else if off = 0x08 then (l.errLast, s)
  else if off = 0x0C then (wordOf l.lastEpoch, s)
  else if off = 0x10 then (wordOf l.lastGts, s.latch a (b + 0x14) (hi32 (word64 l.lastGts)))
  else if off = 0x14 then shadowed a (b + 0x14) (hi32 (word64 l.lastGts)) s
  else if off = 0x18 then (wordOf l.contrib, s)
  else if off = 0x1C then (wordOf (exclMask s), s)
  else if off = 0x20 then (wordOf (maskOf (sensorNumbers.filter fun n => !(s.lin n).aligned)), s)
  else if off = 0x24 then (rclRead l.lateCnt, { s with lko.lateCnt := 0 })
  else if off = 0x28 then (rclRead l.carryCnt, { s with lko.carryCnt := 0 })
  else if off = 0x2C then (rclRead l.skipCnt, { s with lko.skipCnt := 0 })
  else if off = 0x30 then (l.colLoad, s)
  else if off = 0x34 then (Config.modelSchema, s)
  else if off = 0x38 then (wordOf (modelStat l), s)
  else if off = 0x40 then (lo32 l.slotBase, s.latch a (b + 0x44) (hi32 l.slotBase))
  else if off = 0x44 then shadowed a (b + 0x44) (hi32 l.slotBase) s
  else if off = 0x48 then (l.slotStride, s)
  else if off = 0x4C then (wordOf (maskOf (camNumbers.filter fun c => (l.freeBuf c).isNone)), s)
  else if off = 0x50 then (rclRead l.visRefused, { s with lko.visRefused := 0 })
  else if off = 0x60 then (wordOf l.clkSel, s)
  else if off = 0x64 then
    (if l.clkSel < 14 then wordOf (x.clockCode + x.clock.count * 16) else 0, s)
  else if off = 0x68 then
    (lo32 (word64OfInt x.clock.o), s.latch a (b + 0x6C) (hi32 (word64OfInt x.clock.o)))
  else if off = 0x6C then shadowed a (b + 0x6C) (hi32 (word64OfInt x.clock.o)) s
  else if off = 0x70 then (wordOfInt (roundRat (x.clock.rho * 1000000000)), s)
  else if off = 0x74 then (wordOfInt (sat32 x.clock.res), s)
  else if 0x80 ≤ off ∧ off ≤ 0x90 then
    let m := (off - 0x80) / 4
    (wordOf (leNat ((List.range 4).map fun k =>
      BitVec.ofNat 8 (if 4 * m + k < 17 then (s.lin (4 * m + k)).score else 0xFF))), s)
  else (0, s)

/-- A write to the LKO window. -/
def lkoWrite (off : Nat) (v : Word) (s : State) : State :=
  if off = 0x00 then lkoCtlWrite v s
  else if off = 0x40 ∨ off = 0x44 then
    slotWriteReg (fun l => { l with
      slotBase := setHalf l.slotBase (off - 0x40) (if off = 0x40 then v &&& (0xFFFF_FFC0 : Word) else v) }) s
  else if off = 0x48 then slotWriteReg (fun l => { l with slotStride := v &&& (0xFFFF_FFC0 : Word) }) s
  else if off = 0x60 then { s with lko.clkSel := bitsOf v 3 0 }
  else s

/-! ### Commands -/

/-- EPOCH_CLOSE. -/
def execEpochClose (s : State) : Out := .next (epochClose s)

/-- EPOCH_RELEASE. -/
def execEpochRelease (s : State) : Out := .next (epochRelease s)

/-- COL_INVOCATION_END. -/
def execColInvocationEnd (r : ColEnd) (s : State) : Out := .next (colEnd r s)

/-- REMOTE_ENCODING_ARRIVAL. -/
def execRemoteEncodingArrival (r : RemoteEnc) (at' : Nat) (s : State) : Out :=
  .next (remoteArrival r at' s)

/-- RELEASE_REPLICA_ARRIVAL. -/
def execReleaseReplicaArrival (r : RelReplica) (s : State) : Out := .next (replicaArrival r s)

/-- CFG_LOAD of LKO. -/
def execLkoCfgLoad (n : Fin 32) (s : State) : Out := .next (takeOp 7 0 1 .serial n.val lkoCfgLoad s)

/-- SENSOR_CFG. -/
def execSensorCfg (n : Fin 32) (s : State) : Out := .next (takeOp 7 0 2 .serial n.val sensorCfg s)

/-- MODEL_LOAD. -/
def execModelLoad (n : Fin 32) (s : State) : Out := .next (takeOp 7 0 3 .serial n.val modelLoad s)

/-- MODEL_DROP. -/
def execModelDrop (n : Fin 32) (s : State) : Out := .next (takeOp 7 0 4 .serial n.val modelDrop s)

/-- START of LKO. -/
def execLkoStart (n : Fin 32) (s : State) : Out := .next (takeOp 7 0 5 .serial n.val lkoStart s)

/-- STOP of LKO. -/
def execLkoStop (n : Fin 32) (s : State) : Out := .next (takeOp 7 0 6 .serial n.val lkoStop s)

/-- HEALTH_READ. -/
def execHealthRead (n : Fin 32) (s : State) : Out := .next (takeOp 7 0 7 .serial n.val healthRead s)

/-- LIDAR_PUT. -/
def execLidarPut (n : Fin 32) (s : State) : Out := .next (takeOp 7 1 0x10 .serial n.val lidarPut s)

/-- OUT_BUF. -/
def execOutBuf (n : Fin 32) (s : State) : Out :=
  .next (takeOp 7 2 0x20 .parallel n.val (poolCheck blockSize) s)

/-- FEAT_BUF. -/
def execFeatBuf (n : Fin 32) (s : State) : Out :=
  .next (takeOp 7 3 0x21 .parallel n.val (poolCheck 2621504) s)

/-- LKO_CTL written. -/
def execLkoCtlWrite (a : Access) (v : Word) (s : State) : Out := .next (gateWrite a 7 2 s (lkoCtlWrite v))

end Sys2Proof.Machine
end

