-- ==== Sys2Proof/Machine/Image.lean ====
section
/-!
DEFINITION. The camera inputs and the image pipeline: links, contexts, triggers, frames and units of
work (spec/07_image_pipeline.md, R179 to R198).
-/

namespace Sys2Proof.Machine

/-! ### Accessors -/

def State.link (s : State) (k : Nat) : IplLink := Tab.get {} s.ipl.links k
def State.setLink (s : State) (k : Nat) (x : IplLink) : State := { s with ipl.links := Tab.put s.ipl.links k x }
def State.ictx (s : State) (c : Nat) : IplCtx := Tab.get {} s.ipl.ctx c
def State.setIctx (s : State) (c : Nat) (x : IplCtx) : State := { s with ipl.ctx := Tab.put s.ipl.ctx c x }
def State.stream (s : State) (i : Nat) : EncStream := Tab.get {} s.ipl.enc i
def State.setStream (s : State) (i : Nat) (x : EncStream) : State := { s with ipl.enc := Tab.put s.ipl.enc i x }

/-- Contexts 0 to 15, streams 0 to 3. -/
def ictxNumbers : List Nat := List.range 16
def streamNumbers : List Nat := List.range 4

/-- The context's source is the parallel port. -/
def IplCtx.isPcam (x : IplCtx) : Bool := x.src == 4

/-- ARMED, RUN or LINK_WAIT. -/
def IplState.beyond (st : IplState) : Bool := st == .armed || st == .run || st == .linkWait

/-- ARMED or RUN. -/
def IplState.live (st : IplState) : Bool := st == .armed || st == .run

/-- DIV × F in ticks (R182). -/
def IplCtx.step (x : IplCtx) : Nat := x.div * 2 ^ x.rateF

/-- Bytes of a DISPLAY frame (R197). -/
def IplCtx.dispSize (x : IplCtx) : Nat := 64 + x.dispW * x.dispH * 3 / 2

/-- A byte string cut or filled with zeros to a length. -/
def fitBytes (n : Nat) (bs : List Byte) : List Byte := bs.take n ++ zeros (n - bs.length)

/-! ### Events and refusals -/

/-- IPL_ERR_LAST. -/
def iplErr (opc reason ctx word : Nat) (s : State) : State :=
  { s with ipl.errLast := wordOf (opc * 2 ^ 24 + reason * 65536 + ctx * 4096 + word) }

/-- A stream whose context leaves RUN starts again with an IDR frame (R199). -/
def idrOfContext (c : Nat) (s : State) : State :=
  streamNumbers.foldl (fun s i =>
    let x := s.stream i
    if bitsOf (x.cfg.getD 0 0) 3 0 = c then s.setStream i { x with idrNext := true, due := [] } else s) s

/-- The running contexts that name virtual channel `vc` of link `k`, or the parallel port (4) (R179). -/
def namers (k vc : Nat) (s : State) : List Nat :=
  ictxNumbers.filter fun c =>
    let x := s.ictx c
    (x.state == .armed || x.state == .run) && x.src == k && (k == 4 || x.vc == vc)

/-- An error or a discarded packet counted on link `k`; the parallel port has no such count (R179, R194). -/
def linkCount (k : Nat) (discarded : Bool) (s : State) : State :=
  if 3 < k then s
  else
    let x := s.link k
    s.setLink k (if discarded then { x with discarded := countUp x.discarded 0xFFFF }
      else { x with crc := countUp x.crc 0xFFFF })

/-- A packet goes to the running contexts that name its source; where none does, it is discarded and counted (R179). -/
def packet (k vc : Nat) (f : Nat → State → State) (s : State) : State :=
  if (namers k vc s).isEmpty then linkCount k true s
  else (namers k vc s).foldl (fun s c => f c s) s

/-- A context changes its state (R186, R205). -/
def setIplState (c : Nat) (st : IplState) (s : State) : State :=
  let x := s.ictx c
  if x.state = st then s
  else
    let s := if x.state = .run then idrOfContext c s else s
    raise (304 + c) 6 st.code (s.setIctx c { s.ictx c with state := st })

/-! ### Links (R179 to R181, R448) -/

/-- A context beyond LOADED is on this source. -/
def sourceBusy (k : Nat) (s : State) : Bool :=
  ictxNumbers.any fun c => (s.ictx c).state.beyond && (s.ictx c).src == k

/-- The last open frame of a context, while its end has not come. -/
def IplCtx.receiving (x : IplCtx) : Option IplFrame :=
  match x.frames.getLast? with
  | none => none
  | some f => if f.endAt.isNone then some f else none

/-- A frame of a context replaced. -/
def IplCtx.putFrame (x : IplCtx) (f : IplFrame) : IplCtx :=
  { x with frames := x.frames.map fun g => if g.num = f.num then f else g }

/-- A unit enters the ready queue: by the instant it became ready, then by context (R188). -/
def insertUnit (u : IplUnit) : List IplUnit → List IplUnit
  | [] => [u]
  | v :: r =>
    if u.readyAt < v.readyAt ∨ (u.readyAt = v.readyAt ∧ u.ctx < v.ctx) then u :: v :: r
    else v :: insertUnit u r

/-- The units of a frame that have all their lines become ready at `g`: whole stripes, and after the frame's
end the rest (R188). The fuel is the lines stored. -/
def makeUnits (c g : Nat) : Nat → IplFrame → List IplUnit → State → IplFrame × List IplUnit
  | 0, f, q, _ => (f, q)
  | fuel + 1, f, q, s =>
    let x := s.ictx c
    let whole := if x.striped then min x.stripe (x.height - f.queued) else x.height
    let left := f.stored - f.queued
    let n := if whole ≠ 0 ∧ whole ≤ left then whole else if f.endAt.isSome then left else 0
    if n = 0 then (f, q)
    else makeUnits c g fuel { f with queued := f.queued + n }
      (insertUnit { readyAt := g, ctx := c, frame := f.num, lines := n } q) s

/-- The units of frame `f` of context `c` as they stand at `g`. -/
def settleUnits (c g : Nat) (f : IplFrame) (s : State) : State :=
  let (f, q) := makeUnits c g f.stored f s.ipl.ready s
  let s := { s with ipl.ready := q }
  s.setIctx c ((s.ictx c).putFrame f)

/-- The frame that arrives is closed at `g` with these flags (R194). -/
def endFrame (c g flags : Nat) (s : State) : State :=
  match (s.ictx c).receiving with
  | none => s
  | some f => settleUnits c g { f with endAt := some g, flags := f.flags ||| flags } s

/-- The flags of R196. -/
def fOverflow : Nat := 1
def fShort : Nat := 2
def fLong : Nat := 4
def fCrc : Nat := 8
def fLineLen : Nat := 16
def fLink : Nat := 32
def fTnrReset : Nat := 64
def fSettingsLate : Nat := 128

/-- The contexts of a source lose it: frames close, contexts wait (R186). -/
def sourceLost (k : Nat) (s : State) : State :=
  ictxNumbers.foldl (fun s c =>
    let x := s.ictx c
    if x.state.live && x.src == k then
      let s := endFrame c s.gts (fShort + fLink) s
      setIplState c .linkWait (s.setIctx c { s.ictx c with trig := none, dropping := false })
    else s) s

/-- The contexts of a source that wait for it arm again. -/
def sourceBack (k : Nat) (s : State) : State :=
  ictxNumbers.foldl (fun s c =>
    let x := s.ictx c
    if x.state == .linkWait && x.src == k then
      setIplState c .armed (s.setIctx c { x with history := [], histNum := none, lineGains := [] })
    else s) s

/-- LINK. -/
def linkEvent (k code : Nat) (s : State) : State := raise (320 + k) code (s.link k).latency s

/-- IPL_LINK_CFG written (R181). -/
def linkCfgWrite (k : Nat) (v : Word) (s : State) : State :=
  let x := s.link k
  if sourceBusy k s || bitsOf v 1 0 == 0 then iplErr 0 1 0 0 s
  else
    let st := if !bitOf v 31 then .down else if x.st = .down then .training else x.st
    s.setLink k { x with
      cfg := v &&& (0x8000_0003 : Word), st := st, retryT := if x.st = .down then s.t else x.retryT
      powerOff := if bitOf v 31 then x.powerOff else none }

/-- LINK_UP: training succeeds. -/
def linkUp (k latency : Nat) (s : State) : State :=
  let x := s.link k
  if x.st ≠ .training ∨ s.t < x.retryT ∨ x.powerOff.isSome then s
  else sourceBack k (linkEvent k 1 (s.setLink k { x with st := .up, latency := latency % 65536 }))

/-- LINK_TRAINING_RETRY: training fails; a new attempt starts at the next tick boundary. -/
def linkRetry (k : Nat) (s : State) : State :=
  let x := s.link k
  if x.st = .training then s.setLink k { x with retryT := s.t + 1 } else s

/-- LINK_DOWN: loss declared. -/
def linkDown (k : Nat) (s : State) : State :=
  let x := s.link k
  if x.st ≠ .up then s
  else sourceLost k (linkEvent k 2 (s.setLink k { x with st := .training, retryT := s.t }))

/-- CAM_POWER_LIMIT: the port turns its power off, and the link is lost (R448). -/
def camPowerLimit (k : Nat) (s : State) : State :=
  let x := s.link k
  if !bitOf x.cfg 31 || x.powerOff.isSome then s
  else linkDown k (s.setLink k { x with powerOff := some s.gts })

/-- CAM_POWER_RETRY: 1,000 ticks later the power comes on again (R448). -/
def camPowerRetry (k : Nat) (s : State) : State :=
  let x := s.link k
  match x.powerOff with
  | none => s
  | some g => s.reach (g + 1000 * tickLen) fun s => s.setLink k { x with powerOff := none, retryT := s.t }

/-- The parallel port counts as UP. -/
def pcamUp (s : State) : Bool := bitOf s.ipl.pcam 31

/-- PCAM_SYNC_LOST: VSYNC missing for 2 × DIV × F ticks of a running context, or back (R205). A missing VSYNC is told
at the instant it was due, DIV × F ticks after the last. -/
def pcamSync (lost : Bool) (s : State) : State :=
  let cs := ictxNumbers.filter fun c => (s.ictx c).isPcam
  if lost then
    match cs.find? fun c => (s.ictx c).state == .run &&
        decide ((s.ictx c).lastSync.getD 0 + 2 * (s.ictx c).step * tickLen ≤ s.gts) with
    | none => s
    | some c =>
      sourceLost 4 (raiseAt ((s.ictx c).lastSync.getD 0 + (s.ictx c).step * tickLen) 327 1 0 s)
  else if cs.any fun c => (s.ictx c).state == .linkWait then
    if pcamUp s then sourceBack 4 (raise 327 2 0 s) else s
  else s

/-! ### Triggers and frame starts (R182 to R185) -/

/-- A stop of the context is in effect at tick `t`. -/
def IplCtx.stopped (x : IplCtx) (t : Nat) : Bool :=
  match x.stopT with
  | none => false
  | some ts => decide (ts ≤ t)

/-- The rate factor in effect at tick `t`. -/
def settleRate (c : Nat) (s : State) : State :=
  let x := s.ictx c
  match x.rateNext with
  | some (t, f) => if t ≤ s.t then s.setIctx c { x with rateF := f, rateNext := none } else s
  | none => s

/-- The trigger of tick `t` reaches the sensor: over the uplink, sent early by the latency, or by PCAM_TRIG (R182). -/
def sendTrigger (x : IplCtx) (t : Nat) (s : State) : State :=
  if x.isPcam then { s with ipl.pcamTrig := some (boundaryOf t) }
  else
    let l := s.link x.src
    s.setLink x.src { l with sentAt := some (boundaryOf t - l.latency) }

/-- The level of PCAM_TRIG on J2: asserted for 4,000 counts from the trigger instant (R182). -/
def pcamTrigPin (s : State) : Bool :=
  match s.ipl.pcamTrig with
  | none => false
  | some g => decide (g ≤ s.gts) && decide (s.gts < g + 4000)

/-- CAMERA_TRIGGER: context `c` triggers at the boundary of this tick. -/
def cameraTrigger (c : Nat) (s : State) : State :=
  let s := settleRate c s
  let x := s.ictx c
  let t := s.t
  if !x.state.live || x.free || t < x.t0 || x.stopped t || x.step == 0 || t % x.step != 0
      || x.lastTrig == some t then s
  else
    let s := match x.trig with
      | some old => raiseAt (boundaryOf old) (304 + c) 2 (old % 2 ^ 24) s
      | none => s
    sendTrigger x t (s.setIctx c { x with trig := some t, lastTrig := some t })

/-- The settings a frame with exposure start `g` takes (R192, R193): the context after it, and the pending
settings that came too late for it. -/
def takeSettings (x : IplCtx) (g : Nat) : IplCtx × Option Nat :=
  let due := x.exps.filter fun e => decide (boundaryOf e.boundary ≤ g)
  let ready (e : IplPend) : Bool := match e.wrote with
    | none => false
    | some w => decide (w + x.setLead ≤ g)
  let late := match due.getLast? with
    | none => none
    | some e => if ready e then none else some e.set.id
  let best := (due.filter ready).getLast?
  let x1 := match best with
    | none => x
    | some e => { x with set := e.set, exps := x.exps.filter fun p => decide (e.order < p.order) }
  if late.isSome then (x1, late)
  else
    match (x1.tunes.filter fun e => decide (boundaryOf e.boundary ≤ g)).getLast? with
    | none => (x1, none)
    | some e =>
      let newer := match best with
        | none => true
        | some b => decide (b.order < e.order)
      ({ x1 with
        set := if newer then { x1.set with id := e.id } else x1.set
        tune := e.bytes, tunes := x1.tunes.filter fun p => decide (e.order < p.order) }, none)

/-- A frame start is accepted: the frame is numbered and takes its settings (R184, R185). -/
def acceptFrame (c g : Nat) (trig : Option Nat) (s : State) : State :=
  let x := s.ictx c
  let begins := match trig with
    | some t => boundaryOf t + x.trigDelay
    | none => g - x.fsLat
  let (x, late) := takeSettings x begins
  let cap := match trig with
    | some t => boundaryOf t + x.trigDelay + x.set.exp / 2
    | none => g - x.fsLat
  let f : IplFrame := {
    num := x.next, cap := cap, trigT := trig.getD 0, setId := x.set.id, exp := x.set.exp, tune := x.tune
    gain := x.set.exp * x.set.dgain * x.set.again, flags := if late.isSome then fSettingsLate else 0 }
  let s := s.setIctx c { x with
    next := inc16 x.next, trig := if trig.isSome then none else x.trig, lastStart := some g
    dropping := false, frames := x.frames ++ [f] }
  let s := match late with
    | some id => raiseAt begins (304 + c) 5 id s
    | none => s
  setIplState c .run s

/-- A frame start that is dropped whole, with its event. -/
def dropFrame (c code : Nat) (s : State) : State :=
  raise (304 + c) code 0 (s.setIctx c { s.ictx c with dropping := true })

/-- A frame start after the context's stop T_s is refused (R202). -/
def IplCtx.refused (x : IplCtx) (g : Nat) : Bool :=
  match x.stopT with
  | none => false
  | some ts => decide (boundaryOf ts < g)

/-- A frame start arrives on the source of the running context `c`. -/
def startFrame (c : Nat) (s : State) : State :=
  let s := endFrame c s.gts fShort (settleRate c s)
  let s := s.setIctx c { s.ictx c with lastSync := some s.gts }
  let x := s.ictx c
  if x.refused s.gts || decide (x.free && s.t < x.t0) then s
  else if x.free then
    let early := match x.lastStart with
      | none => false
      | some p => decide (s.gts + 200000 < p + x.div * tickLen)
    if early then dropFrame c 4 s else acceptFrame c s.gts none s
  else
    match x.trig with
    | none => dropFrame c 3 s
    | some t => if s.gts ≤ boundaryOf (t + x.step) then acceptFrame c s.gts (some t) s else dropFrame c 3 s

/-- FRAME_START: at `g` a frame start packet arrives. -/
def frameStart (k vc g : Nat) (s : State) : State := packet k vc startFrame (s.advance g)

/-! ### Lines and units (R188, R194) -/

/-- Lines of the running unit that the pipeline has read by `g`: 4 pixels a count. -/
def IplRun.read (u : IplRun) (width g : Nat) : Nat :=
  if g < u.beginAt ∨ width = 0 then 0 else min u.lines ((g - u.beginAt) * 4 / width)

/-- Lines in the FIFO of a context at `g`. -/
def fifoLevel (c g : Nat) (s : State) : Nat :=
  let x := s.ictx c
  match s.ipl.running with
  | some u => if u.ctx = c then x.fifo - u.read x.width g else x.fifo
  | none => x.fifo

/-- A unit that has ended by `g` leaves the pipeline. -/
def retire (g : Nat) (s : State) : State :=
  match s.ipl.running with
  | none => s
  | some u =>
    if g < u.endAt then s
    else
      let x := s.ictx u.ctx
      let x := { x with
        fifo := x.fifo - u.lines
        frames := x.frames.map fun f =>
          if f.num = u.frame then { f with passed := f.passed + u.lines, passedAt := u.endAt } else f }
      { s.setIctx u.ctx x with
        ipl.running := none, ipl.lastCtx := some u.ctx, ipl.freeAt := u.endAt }

/-- A frame overflows: the rest of it is dropped (R194, R195). -/
def overflow (c : Nat) (f : IplFrame) (s : State) : State :=
  let s := { s with ipl.ovf := countUp s.ipl.ovf max32 }
  settleUnits c s.gts { f with endAt := some s.gts, flags := f.flags ||| fOverflow }
    (s.setIctx c { s.ictx c with dropping := true })

/-- A line of the frame that arrives goes to the FIFO (R188, R194). -/
def storeLine (c : Nat) (l : LineIn) (f : IplFrame) (s : State) : State :=
  let x := s.ictx c
  let bad := l.crcError || l.pixels != x.width
  let flags := f.flags ||| (if l.crcError then fCrc else 0) ||| (if l.pixels ≠ x.width then fLineLen else 0)
  let f := { f with arrived := f.arrived + 1, flags := flags }
  if x.fifoLines ≤ fifoLevel c s.gts s then overflow c f s
  else
    let at' := x.addr 8 + x.writeAt * (x.width * 2)
    let (s, w) := writeEngine 0x21 at' (fitBytes (x.width * 2) l.bytes) s
    if w.status ≠ 0 then overflow c f s
    else
      let s := s.setIctx c { s.ictx c with
        fifo := x.fifo + 1, writeAt := if x.writeAt + 1 < x.fifoLines then x.writeAt + 1 else 0 }
      settleUnits c s.gts { f with
        stored := f.stored + 1, valid := f.valid + oneIf !bad, oks := f.oks ++ [!bad] } s

/-- A line packet of an accepted type for the running context `c`. -/
def takeLine (l : LineIn) (c : Nat) (s : State) : State :=
  let x := s.ictx c
  if x.dropping then s
  else match x.receiving with
    | none => s
    | some f =>
      if l.headerError then s.setIctx c (x.putFrame { f with flags := f.flags ||| fCrc })
      else if x.height ≤ f.arrived then
        s.setIctx c (x.putFrame { f with arrived := f.arrived + 1, flags := f.flags ||| fLong })
      else storeLine c l f s

/-- LINE_ARRIVAL: a line packet. One of another data type is discarded and counted; a wrong check counts once. -/
def lineArrival (k vc : Nat) (l : LineIn) (s : State) : State :=
  let s := retire s.gts s
  if l.otherType then linkCount k true s
  else packet k vc (takeLine l) (if l.crcError || l.headerError then linkCount k false s else s)

/-- The frame end short packet for the running context `c`. -/
def closeArrival (c : Nat) (s : State) : State :=
  let x := s.ictx c
  let s := if x.dropping then s.setIctx c { x with dropping := false } else s
  match x.receiving with
  | none => s
  | some f => endFrame c s.gts (if f.arrived < x.height then fShort else 0) s

/-- FRAME_END: the frame end short packet. -/
def frameEnd (k vc : Nat) (s : State) : State := packet k vc closeArrival s

/-- A buffer of a pool for frame `f` of context `c`: a DISPLAY buffer that proves too small completes
LEN_RANGE, and the next is taken (R197, R203). The fuel is the number of buffers. -/
def takeBuffer (q opc size c : Nat) (num : Nat) : Nat → State → State × Bool
  | 0, s => (s, false)
  | fuel + 1, s =>
    match s.poolBuffer 6 q opc with
    | none => (s, false)
    | some r =>
      if r.op.len < size then takeBuffer q opc size c num fuel (failOp r stLen 0 s)
      else (s.setOp r { r.op with aux := [1, c, num] }, true)

/-- Buffers outstanding on a queue of IPL. -/
def buffersOf (q : Nat) (s : State) : Nat := (s.opsOf 6 q fun _ => true).length

/-- The DISPLAY and statistics outputs of a frame are taken as its first unit starts (R197). -/
def takeOutputs (c : Nat) (f : IplFrame) (s : State) : State :=
  let x := s.ictx c
  let s := if x.dispEn && f.num % x.dispDiv == 0 then
      let (s, ok) := takeBuffer 1 0x10 x.dispSize c f.num (buffersOf 1 s) s
      if ok then s
      else raise 324 1 (c * 65536 + f.num) { s with ipl.dispDrop := countUp s.ipl.dispDrop max32 }
    else s
  if x.statEn && f.num % x.statDiv == 0 then
    let (s, ok) := takeBuffer 2 0x11 4096 c f.num (buffersOf 2 s) s
    if ok then s
    else raise 324 2 (c * 65536 + f.num) { s with ipl.statDrop := countUp s.ipl.statDrop max32 }
  else s

/-- The streams of a context in RUN that code this frame wait for its access unit (R199). -/
def dueStreams (c : Nat) (f : IplFrame) (s : State) : State :=
  if (s.ictx c).state ≠ .run then s
  else streamNumbers.foldl (fun s i =>
    let x := s.stream i
    let w := x.cfg.getD 0 0
    if x.st == .run && bitsOf w 3 0 == c && f.num % 2 ^ bitsOf (x.cfg.getD 2 0) 2 0 == 0 then
      s.setStream i { x with due := x.due ++ [{ num := f.num, cap := f.cap }] }
    else s) s

/-- Exposure × gain ratio outside 0.5 to 2. -/
def ratioOff (a b : Nat) : Bool := decide (2 * a < b) || decide (2 * b < a)

/-- Stage 3 reads its history for this frame (R191); none: it restarts. -/
def tnrHistory (c : Nat) (f : IplFrame) (s : State) : State × Option (List Byte) :=
  let x := s.ictx c
  if x.tnrDepth = 0 then (s, some [])
  else
    let gap := match x.histNum with
      | none => true
      | some n => decide (1 < sub16 f.num n)
    if gap || x.history.any (ratioOff f.gain) then (s, none)
    else
      let (s, r) := readEngine 0x21 (x.addr 10) (x.history.length * x.width * x.height * 2) s
      (s, if r.status = 0 then some r.bytes else none)

/-- The first unit of a frame starts. -/
def beginFrame (c : Nat) (f : IplFrame) (s : State) : State :=
  let s := dueStreams c f (takeOutputs c f s)
  let x := s.ictx c
  let (s, hist) := tnrHistory c f s
  let reset := hist.isNone
  let s := s.setIctx c { s.ictx c with
    history := if x.tnrDepth = 0 then [] else (f.gain :: (if reset then [] else x.history)).take x.tnrDepth
    histNum := some f.num, lineGains := if reset then [] else x.lineGains }
  let (s, buf) := if x.visEn then takeSlot x.visSlot x.visW x.visH f.num s else (s, none)
  s.setIctx c ((s.ictx c).putFrame { f with
    begun := true, flags := f.flags ||| (if reset then fTnrReset else 0), hist := hist.getD []
    visBuf := buf, visDrop := x.visEn && buf.isNone })

/-- A line of the FIFO read: its 16-bit codes; a refused read leaves them open (log 180). -/
def readLine (c num slot y : Nat) (s : State) : State × List Nat :=
  let x := s.ictx c
  let (s, r) := readEngine 0x21 (x.addr 8 + slot * (x.width * 2)) (x.width * 2) s
  (s, if r.status = 0 then (List.range x.width).map fun i => leNat ((r.bytes.drop (2 * i)).take 2)
      else Config.unreadLine c num y)

/-- `n` lines of frame `f` of context `c` read from the FIFO, from place `slot` on; they join the frame's lines. -/
def readLines (c : Nat) : Nat → Nat → IplFrame → State → State
  | 0, _, f, s => s.setIctx c ((s.ictx c).putFrame f)
  | n + 1, slot, f, s =>
    let y := f.lines.length
    let (s, px) := readLine c f.num slot y s
    readLines c n (if slot + 1 < (s.ictx c).fifoLines then slot + 1 else 0)
      { f with lines := f.lines ++ [{ ok := f.oks.getD y false, px := px }] } s

/-- The place of the oldest line in the FIFO. -/
def IplCtx.readAt (x : IplCtx) : Nat := (x.writeAt + x.fifoLines - x.fifo) % x.fifoLines

/-- A ready unit starts at `g`: a change of context costs 480 counts (R187, R188). The pipeline reads its lines. -/
def startUnit (u : IplUnit) (g : Nat) (s : State) : State :=
  let s := retire g s
  let x := s.ictx u.ctx
  let b := g + (if s.ipl.lastCtx = some u.ctx then 0 else 480)
  let s := { s with
    ipl.ready := s.ipl.ready.tail
    ipl.running := some
      (IplRun.mk u.ctx u.frame u.lines b (b + (u.lines * x.width + 3) / 4)) }
  match x.frames.find? fun f => f.num == u.frame with
  | none => s
  | some f =>
    let s := if f.begun then s else beginFrame u.ctx f s
    match (s.ictx u.ctx).frames.find? fun f => f.num == u.frame with
    | none => s
    | some f => readLines u.ctx u.lines x.readAt f s

/-- UNIT_START: the next ready unit starts once the running one has finished. -/
def unitStart (s : State) : State :=
  match s.ipl.ready with
  | [] => s
  | u :: _ =>
    let free := match s.ipl.running with
      | some r => r.endAt
      | none => s.ipl.freeAt
    let g := max free u.readyAt
    s.reach g (startUnit u g)

/-! ### Closing a frame (R189, R194, R196 to R198) -/

/-- The 32-byte frame header (R196). -/
def frameHeader (c : Nat) (x : IplCtx) (f : IplFrame) : List Byte :=
  let source := if x.isPcam then 128 else x.src * 16 + x.vc
  leBytes 2 f.num ++ leBytes 1 c ++ leBytes 1 source ++ leBytes 2 f.setId ++ leBytes 2 f.flags ++
    leBytes 8 f.cap ++ leBytes 4 f.valid ++ leBytes 4 f.trigT ++ leBytes 4 x.lineTime ++ leBytes 4 f.exp

/-- The buffer that a frame has taken from a pool. -/
def takenBuffer (q opc c num : Nat) (s : State) : Option OpRef :=
  s.opOf 6 q fun o => o.stage == .started && o.opcode == opc && o.aux == [1, c, num]

/-- An output is written to the buffer its frame has taken, which completes. -/
def putOutput (q opc c : Nat) (f : IplFrame) (bs : List Byte) (s : State) : State :=
  match takenBuffer q opc c f.num s with
  | none => s
  | some r => writeOut 0x21 r bs (wordOf (c * 65536 + f.num)) (wordOf f.cap) s

/-- The frame's flags keep it from VISION (R194). -/
def visionBarred (f : IplFrame) : Bool := f.flags &&& (fOverflow + fShort + fCrc + fLineLen + fLink) != 0

/-- VISION discarded (R186). -/
def visionDrop (c : Nat) (f : IplFrame) (s : State) : State :=
  raise 326 1 (c * 65536 + f.num) { s with ipl.visDrop := countUp s.ipl.visDrop max32 }

/-- The VISION output at the close: committed to Lookout, barred or discarded (R186, R194, R198, R212). -/
def closeVision (c : Nat) (f : IplFrame) (s : State) : State :=
  let x := s.ictx c
  match f.visBuf with
  | none => if f.visDrop then visionDrop c f s else s
  | some b =>
    if visionBarred f then freeSlot x.visSlot b s
    else if !s.pdOn 6 || !s.pdOn 2 then visionDrop c f (freeSlot x.visSlot b s)
    else
      let bs := frameHeader c x f ++ zeros 32 ++ visionBytes x f
      let (s, w) := writeEngine 0x21 (s.lko.bufAddr x.visSlot b) bs s
      if w.status ≠ 0 then visionDrop c f (freeSlot x.visSlot b s)
      else
        commitFrame x.visSlot b f.num f.cap
          (s.setIctx c { s.ictx c with delivered := inc32 x.delivered })

/-- A stop of a context is complete: its last frame has closed (R202). -/
def iplStopped (c : Nat) (s : State) : State :=
  let x := s.ictx c
  if x.state.beyond && x.stopped s.t && x.frames.isEmpty then
    setIplState c .loaded (s.setIctx c { x with stopT := none, trig := none })
  else s

/-- The CTX_STOP that runs completes when every context of its mask has reached LOADED. -/
def finishStops (s : State) : State :=
  match s.opOf 6 0 (isStarted 3) with
  | none => s
  | some r =>
    let mask := r.op.word 6
    if ictxNumbers.any fun c => bitOf mask c && (s.ictx c).state.beyond then s
    else finishOp r stOk 0 (wordOf (r.op.aux.getD 0 0)) (wordOf (r.op.aux.getD 1 0)) s

/-- The streams that code this frame have its header and its picture at their size. -/
def closeStreams (c : Nat) (f : IplFrame) (s : State) : State :=
  let x := s.ictx c
  streamNumbers.foldl (fun s i =>
    let e := s.stream i
    let w := e.cfg.getD 1 0
    let fill (d : EncDue) : EncDue :=
      if bitsOf (e.cfg.getD 0 0) 3 0 = c ∧ d.num = f.num then
        { d with closed := true, header := frameHeader c x f, rows := pictureRows x f (bitsOf w 31 16) (bitsOf w 15 0) }
      else d
    s.setStream i { e with due := e.due.map fill, unit := e.unit.map fill }) s

/-- The history lines of a frame written (R191). -/
def writeHistory (c : Nat) (f : IplFrame) (s : State) : State :=
  let x := s.ictx c
  if x.tnrDepth = 0 then s
  else
    let s := (historyWrites x f (stagedRaw x f)).foldl (fun s e => (writeEngine 0x21 (x.addr 10 + e.1) e.2 s).1) s
    s.setIctx c { s.ictx c with lineGains := newGains x f }

/-- The close of the oldest frame of context `c`: its outputs are made of the lines that the pipeline has read. -/
def closeFrame (c : Nat) (f : IplFrame) (s : State) : State :=
  let x := s.ictx c
  let h := frameHeader c x f
  let s := if x.dispEn then putOutput 1 0x10 c f (h ++ zeros 32 ++ displayBytes x f) s else s
  let s := if x.statEn then putOutput 2 0x11 c f (h ++ statBytes x f ++ zeros 1500) s else s
  let s := writeHistory c f (closeStreams c f s)
  let s := closeVision c f s
  let s := if f.flags % 64 ≠ 0 then raise (304 + c) 1 (f.num * 65536 + f.flags % 256) s else s
  let x := s.ictx c
  finishStops (iplStopped c (s.setIctx c { x with
    frames := x.frames.filter fun g => g.num != f.num, lastNo := f.num, lastFlags := f.flags }))

/-- The close instant of a frame: its end and the passing of its last line (R189), where both are known. -/
def closeInstant (c : Nat) (f : IplFrame) (s : State) : Option Nat :=
  match f.endAt with
  | none => none
  | some e =>
    if f.passed = f.stored then some (max e f.passedAt)
    else match s.ipl.running with
      | some u => if u.ctx = c ∧ u.frame = f.num ∧ f.passed + u.lines = f.stored then some (max e u.endAt) else none
      | none => none

/-- FRAME_CLOSE: the last line of the oldest frame of context `c` has passed every stage. -/
def frameClose (c : Nat) (s : State) : State :=
  match (s.ictx c).frames with
  | [] => s
  | f :: _ =>
    match closeInstant c f s with
    | none => s
    | some g => s.reach g fun s =>
      let s := retire g s
      match (s.ictx c).frames with
      | [] => s
      | f :: _ => closeFrame c f s

/-- IPL_STOP_EFFECT: at T_s the contexts without an open frame are LOADED (R202). -/
def iplStopEffect (s : State) : State :=
  finishStops (ictxNumbers.foldl (fun s c => iplStopped c s) s)

end Sys2Proof.Machine
end

