-- ==== Sys2Proof/Machine/ImageOps.lean ====
section
/-!
DEFINITION. The encoder, the ring operations and the registers of IPL (spec/07_image_pipeline.md, R187,
R192, R193, R199 to R205).
-/

namespace Sys2Proof.Machine

/-! ### The encoder (R199) -/

/-- Fields of ENC_CFG (R200): words 7 to 10. -/
def EncStream.word (x : EncStream) (i : Nat) : Word := x.cfg.getD (i - 7) 0
def EncStream.ctx (x : EncStream) : Nat := bitsOf (x.word 7) 3 0
def EncStream.width (x : EncStream) : Nat := bitsOf (x.word 8) 31 16
def EncStream.height (x : EncStream) : Nat := bitsOf (x.word 8) 15 0
def EncStream.gopLen (x : EncStream) : Nat := bitsOf (x.word 9) 24 16
def EncStream.logDiv (x : EncStream) : Nat := bitsOf (x.word 9) 2 0
def EncStream.rate (x : EncStream) : Nat := bitsOf (x.word 10) 15 0

/-- ENCODER. -/
def encEvent (i code : Nat) (s : State) : State := raise 325 code i s

/-- The next frame of the stream is an IDR frame. -/
def EncStream.idr (x : EncStream) : Bool := x.idrNext || x.gop == 0 || decide (x.gopLen ≤ x.gop)

/-- The access unit of the stream's next frame starts: it takes a CODE buffer, or is dropped (R197). -/
def unitBegin (i : Nat) (s : State) : State :=
  let x := s.stream i
  match x.due with
  | [] => s
  | d :: rest =>
    if x.st ≠ .run ∨ x.unit.isSome then s
    else match s.poolBuffer 6 3 0x12 with
      | none => encEvent i 3 (s.setStream i { x with due := rest, idrNext := true })
      | some r =>
        (s.setOp r { r.op with aux := [1, i, d.num] }).setStream i { x with
          due := rest, unit := some { d with at' := s.gts, idr := x.idr }
          idrNext := false, gop := if x.idr then 1 else x.gop + 1 }

/-- The bytes of an access unit fill the buffer it has taken and those taken after it, with CONT set where it goes on;
the answer: all of it has found room. The fuel is the number of buffers. -/
def fillCode (i num cap : Nat) (idr : Bool) : Nat → OpRef → List Byte → State → State × Bool
  | 0, _, _, s => (s, false)
  | fuel + 1, r, bs, s =>
    let more := decide (r.op.len < bs.length)
    let r0 := wordOf (i * 2 ^ 30 + oneIf more * 2 ^ 29 + oneIf idr * 2 ^ 28 + num)
    let s := writeOut 0x22 r (bs.take r.op.len) r0 (wordOf cap) s
    if more then
      match s.poolBuffer 6 3 0x12 with
      | none => (s, false)
      | some q => fillCode i num cap idr fuel q (bs.drop r.op.len) s
    else (s, true)

/-- The access unit under way ends: `unit` is what the codec has made of the picture, which copies invalid rows from
the last coded one, or in an IDR frame has them grey (R194). The frame header goes before it (R196). -/
def unitEnd (i : Nat) (unit : List Byte) (s : State) : State :=
  let x := s.stream i
  match x.unit with
  | none => s
  | some d =>
    if !d.closed then s
    else match takenBuffer 3 0x12 i d.num s with
      | none => s.setStream i { x with unit := none }
      | some r =>
        let (s, ok) := fillCode i d.num d.cap d.idr (buffersOf 3 s) r (d.header ++ unit) s
        let x := { x with unit := none }
        if ok then
          let recent := x.sent.filter fun e => decide (s.gts < e.1 + 1000 * tickLen)
          s.setStream i { x with
            sent := recent ++ [(s.gts, unit.length)]
            picture := fillInvalid x.width x.height (if d.idr then [] else x.picture) d.rows }
        else
          raiseAt d.at' 325 3 i (s.setStream i { x with idrNext := true })

/-- ENCODER_ACCESS_UNIT (R197, R199). -/
def accessUnit (i : Nat) (u : AuStep) (s : State) : State :=
  match u with
  | .starts => unitBegin i s
  | .ends unit => unitEnd i unit s

/-- Bitrate over the last second, kbit/s. -/
def bitrate (x : EncStream) (g : Nat) : Nat :=
  openDiv (((x.sent.filter fun e => decide (g < e.1 + 1000 * tickLen)).map fun e => e.2).sum * 8) 1000

/-- The governor defers a stream, or lets it resume with an IDR frame. -/
def deferStream (i : Nat) (on : Bool) (s : State) : State :=
  let x := s.stream i
  if on then
    if x.st = .run then encEvent i 1 (s.setStream i { x with st := .deferred, due := [] }) else s
  else if x.st = .deferred then encEvent i 2 (s.setStream i { x with st := .run, idrNext := true })
  else s

/-- RATE_F of a rate factor: 0 ×1, 1 ×2, 2 ×4. -/
def rateCode (f : Nat) : Nat := if f = 4 then 2 else if f = 2 then 1 else 0

/-- The governor sets the rate factor of a context, 1, 2 or 4, from the next boundary on (R182). -/
def setRateFactor (c f : Nat) (s : State) : State :=
  let s := settleRate c s
  let x := s.ictx c
  if x.rateF = rateCode f ∧ x.rateNext.isNone then s
  else s.setIctx c { x with rateNext := some (s.t + 1, rateCode f) }

/-! ### Settings (R192, R193) -/

/-- A context's source is UP. -/
def sourceUp (x : IplCtx) (s : State) : Bool :=
  if x.isPcam then pcamUp s else (s.link x.src).st == .up

/-- SETTINGS_WRITE: the sensor write of the oldest pending exposure past its boundary ends. -/
def settingsWrite (c : Nat) (ok : Bool) (s : State) : State :=
  let x := s.ictx c
  match x.exps.find? fun e => e.wrote.isNone with
  | none => s
  | some e =>
    if s.t < e.boundary ∨ s.t < e.retryT ∨ !sourceUp x s then s
    else
      let e1 := if ok then { e with wrote := some s.gts } else { e with retryT := s.t + 1 }
      s.setIctx c { x with exps := x.exps.map fun p => if p.order = e.order then e1 else p }

/-- A SCHEMA refusal. -/
def iplSchema (c : OpRef) (xfer reason ctx word : Nat) (s : State) : State :=
  failOp c stSchema xfer (iplErr c.op.opcode reason ctx word s)

/-- AGAIN in its range: ×1 is 256, up to ×64. -/
def againOk (v : Nat) : Bool := decide (v ≤ 16384)

/-- EXPOSURE. -/
def exposure (c : OpRef) (s : State) : State :=
  let n := bitsOf (c.op.word 6) 3 0
  let x := s.ictx n
  let set : IplSet := {
    id := bitsOf (c.op.word 7) 15 0, exp := (c.op.word 8).toNat
    dgain := bitsOf (c.op.word 9) 31 16, again := bitsOf (c.op.word 9) 15 0 }
  if x.state = .empty then iplSchema c 0 8 n 0 s
  else if x.free then iplSchema c 0 7 n 0 s
  else if !againOk set.again then iplSchema c 0 1 n 9 s
  else if x.div * tickLen < x.trigDelay + set.exp then iplSchema c 0 2 n 8 s
  else
    let b := s.t + 1
    let s := s.setIctx n { x with
      exps := (x.exps.filter fun e => e.boundary != b) ++ [{ set := set, boundary := b, order := x.orders }]
      orders := x.orders + 1 }
    finishOp c stOk 0 (wordOf b) 0 s

/-- TUNE_LOAD. -/
def tuneLoad (c : OpRef) (s : State) : State :=
  needBuffer c s fun s =>
    let n := bitsOf (c.op.word 6) 3 0
    let x := s.ictx n
    if c.op.len ≠ 2048 then failOp c stLen 0 s
    else if x.state = .empty then iplSchema c 0 8 n 0 s
    else readWhole 0x21 c s fun bs s =>
      let clear (a k : Nat) : Bool := ((bs.drop a).take k).all fun b => b == 0
      if !clear 26 6 || !clear 546 1502 then iplSchema c 2048 1 n 0 s
      else
        let b := s.t + 1
        let x := s.ictx n
        let t : IplTune := {
          id := bitsOf (c.op.word 7) 15 0, boundary := b, bytes := bs, order := x.orders }
        finishOp c stOk 2048 (wordOf b) 0 (s.setIctx n { x with
          tunes := (x.tunes.filter fun e => e.boundary != b) ++ [t], orders := x.orders + 1 })

/-! ### CTX_LOAD (R201, R204) -/

/-- The listed bits of the configuration words (R8, R204). -/
def iplCfgMask (i : Nat) : Word :=
  match i with
  | 0 => 0xFF3F_C3FF | 2 => 0x0000_03FF | 3 => 0x00FF_FFFF | 7 => 0xFF03_1FFF | 14 => 0x0000_0FFF
  | 17 => 0x0000_03FF | 18 => 0xFFFF_9FFF | 19 => 0xCF00_0000 | 20 => 0x1FFF_1FFF | 21 => 0xF000_0000
  | 24 => 0x0000_FFFF
  | _ => if i ≤ 24 then 0xFFFF_FFFF else 0

/-- Bits per pixel of a data type (R187). -/
def bitsPer (dt : Nat) : Option Nat :=
  if dt = 0x2B then some 10 else if dt = 0x2C then some 12 else if dt = 0x2D then some 14
  else if dt = 0x2E then some 16 else if dt = 0x1E then some 16 else none

/-- An even size from 64 up to `most`. -/
def sizeOk (even : Bool) (v most : Nat) : Bool :=
  decide (64 ≤ v) && decide (v ≤ most) && (!even || v % 2 == 0)

/-- The first word of a configuration out of its range, reason 1 (R204). -/
def iplRangeFault (x : IplCtx) : Option Nat :=
  let exp := (x.word 22).toNat
  let checks : List (Nat × Bool) :=
    [ (0, decide (x.src ≤ 4) && (bitsPer x.dt).isSome && (!x.isPcam || x.dt == 0x2C) &&
        (!x.striped || (decide (64 ≤ x.stripe) && decide (x.stripe ≤ 512)))),
      (1, sizeOk true x.width 4096 && sizeOk false x.height 4096),
      (2, decide (1 ≤ x.div) && decide (x.div ≤ 1000)),
      (7, decide (16 ≤ x.fifoLines) && decide (x.fifoLines ≤ 4096)),
      (8, x.addr 8 % 64 == 0), (10, x.addr 10 % 64 == 0),
      (18, sizeOk true x.dispW (min x.width 4096) && sizeOk true x.dispH (min x.height 4096)),
      (19, decide (x.visSlot ≤ 11)),
      (20, sizeOk false x.visW (min x.width 4096) && sizeOk false x.visH (min x.height 4096)),
      (22, decide (exp < 2 ^ 32)), (23, againOk (bitsOf (x.word 23) 15 0)) ]
  (checks.find? fun e => !e.2).map fun e => e.1

/-- The first fault of a configuration: reason and word. -/
def iplFault (x : IplCtx) : Option (Nat × Nat) :=
  match iplRangeFault x with
  | some w => some (1, w)
  | none =>
    if !x.free && decide (x.trigDelay < x.setLead) then some (2, 3)
    else if x.div * tickLen < x.trigDelay + (x.word 22).toNat then some (2, 22)
    else if x.fifoLines < (if x.striped then x.stripe else x.height) then some (9, 7)
    else none

/-- CTX_LOAD. -/
def iplCtxLoad (c : OpRef) (s : State) : State :=
  needBuffer c s fun s =>
    let n := bitsOf (c.op.word 6) 3 0
    let old := s.ictx n
    if c.op.len ≠ 128 then failOp c stLen 0 s
    else if old.state.beyond then failOp c stBusy 0 s
    else readWhole 0x21 c s fun bs s =>
      let x : IplCtx := { cfg := maskWords iplCfgMask (leWords 32 bs) }
      match iplFault x with
      | some (reason, w) => iplSchema c 128 reason n w s
      | none =>
        let (s, r) := readEngine 0x21 (x.addr 12) (4 * x.defectN) s
        if r.status ≠ 0 then failOp c r.status 128 s
        else
          let set : IplSet := {
            id := bitsOf (x.word 24) 15 0, exp := (x.word 22).toNat
            dgain := bitsOf (x.word 23) 31 16, again := bitsOf (x.word 23) 15 0 }
          let s := s.setIctx n { x with
            state := old.state, set := set, defects := leWords x.defectN r.bytes
            rateF := old.rateF, rateNext := old.rateNext, lastNo := old.lastNo, lastFlags := old.lastFlags
            delivered := old.delivered, tune := old.tune }
          finishOp c stOk 128 (wordOf x.defectN) 0 (setIplState n .loaded s)

/-! ### Admission (R187) -/

/-- Pixels per tick that a context loads. -/
def pixelLoad (x : IplCtx) : Rat :=
  let k := if x.striped then (x.height + x.stripe - 1) / x.stripe else 1
  ((x.width * x.height + k * 1920 : Nat) : Rat) / (x.div : Rat)

/-- Payload in bit/s of a context. -/
def payload (x : IplCtx) : Rat :=
  ((x.width * x.height * (bitsPer x.dt).getD 0 * 1000 : Nat) : Rat) / (x.div : Rat)

/-- Bit rate of a link's gear. -/
def gearRate (cfg : Word) : Nat :=
  match bitsOf cfg 1 0 with
  | 0 => 0 | 1 => 2000000000 | 2 => 4000000000 | _ => 8000000000

/-- The contexts in ARMED, RUN and LINK_WAIT with those of a mask. -/
def admitted (mask : Word) (s : State) : List Nat :=
  ictxNumbers.filter fun c => (s.ictx c).state.beyond || bitOf mask c

/-- Two of these contexts share a VISION slot. -/
def slotsShared (s : State) (cs : List Nat) : Bool :=
  let vs := cs.filter fun c => (s.ictx c).visEn
  vs.any fun c => vs.any fun d => c != d && (s.ictx c).visSlot == (s.ictx d).visSlot

/-- The first limit of R187 that these contexts break, by reason. -/
def admitFault (cs : List Nat) (s : State) : Option Nat :=
  let on (k : Nat) := cs.filter fun c => (s.ictx c).src == k
  let rate (l : List Nat) : Rat := (l.map fun c => payload (s.ictx c)).sum
  if (1440000 : Rat) < (cs.map fun c => pixelLoad (s.ictx c)).sum then some 3
  else if [0, 1, 2, 3].any (fun k =>
      decide ((gearRate (s.link k).cfg : Rat) * 9 / 10 < rate (on k)) || decide (4 < (on k).length)) ||
      decide ((34000000000 : Rat) < rate cs) then some 4
  else if slotsShared s cs then some 5
  else none

/-- Context `c` starts (R186, R202). -/
def iplStartCtx (t0 c : Nat) (s : State) : State :=
  let x := s.ictx c
  setIplState c .armed (s.setIctx c { x with
    t0 := t0, stopT := none, next := 0, trig := none, lastTrig := none, lastStart := none, dropping := false
    lastSync := none
    frames := [], fifo := 0, writeAt := 0, history := [], histNum := none, lineGains := [] })

/-- The contexts of a mask. -/
def maskCtxs (m : Word) : List Nat := ictxNumbers.filter fun c => bitOf m c

/-- CTX_START. -/
def iplCtxStart (c : OpRef) (s : State) : State :=
  let m := c.op.word 6
  let v := c.op.word64 7
  let cs := maskCtxs m
  if v ≠ 0 ∧ v ≤ s.t then failOp c stLate 0 s
  else if !s.ipl.en || cs.any (fun n => (s.ictx n).state != .loaded) then failOp c stBusy 0 s
  else match admitFault (admitted m s) s with
    | some reason => iplSchema c 0 reason 0 0 s
    | none =>
      let t0 := max v (s.t + 1)
      finishOp c stOk 0 (wordOf t0) (wordOf cs.length) (cs.foldl (fun s n => iplStartCtx t0 n s) s)

/-- Context `c` stops at the next tick boundary. -/
def iplStopCtx (c : Nat) (s : State) : State :=
  let x := s.ictx c
  if x.state.beyond then s.setIctx c { x with stopT := some (min (x.stopT.getD (s.t + 1)) (s.t + 1)) } else s

/-- CTX_STOP. -/
def iplCtxStop (c : OpRef) (s : State) : State :=
  let cs := maskCtxs (c.op.word 6)
  if cs.any fun n => !(s.ictx n).state.beyond then failOp c stBusy 0 s
  else
    finishStops (startOp c [s.t + 1, cs.length] (cs.foldl (fun s n => iplStopCtx n s) s))

/-- IPL_CTX_STATE. -/
def ctxStateWord (x : IplCtx) : Word := wordOf (x.state.code * 2 ^ 28 + x.rateF * 2 ^ 26)

/-- CTX_READ. -/
def iplCtxRead (c : OpRef) (s : State) : State :=
  needBuffer c s fun s =>
    if c.op.len ≠ 64 then failOp c stLen 0 s
    else
      let n := bitsOf (c.op.word 6) 3 0
      writeOut 0x21 c ((List.range 64).map fun i => Config.ctxReadByte s.gts n i) (ctxStateWord (s.ictx n))
        (wordOf (s.ictx n).delivered) s

/-! ### Encoder operations (R203) -/

/-- Pixels per second of a stream. -/
def encLoad (s : State) (x : EncStream) : Rat :=
  ((x.width * x.height * 1000 : Nat) : Rat) / (((s.ictx x.ctx).div * 2 ^ x.logDiv : Nat) : Rat)

/-- The first fault of ENC_CFG for stream `i`: reason and word. A stream that is switched off adds nothing to the
capacity. -/
def encFault (i : Nat) (on : Bool) (x : EncStream) (s : State) : Option (Nat × Nat) :=
  let others := (streamNumbers.filter fun j => j != i && (s.stream j).st != .off).map fun j => encLoad s (s.stream j)
  if (s.ictx x.ctx).state = .empty then some (8, 7)
  else if !sizeOk true x.width 1920 || !sizeOk true x.height 1080 then some (1, 8)
  else if x.gopLen = 0 ∨ 300 < x.gopLen then some (1, 9)
  else if x.rate < 500 ∨ 20000 < x.rate then some (1, 10)
  else if on ∧ (248832000 : Rat) < others.sum + encLoad s x then some (6, 8)
  else none

/-- ENC_CFG. -/
def encCfg (c : OpRef) (s : State) : State :=
  let i := bitsOf (c.op.word 6) 1 0
  let old := s.stream i
  let x : EncStream := { old with
    cfg := [c.op.word 7 &&& (0x0000_010F : Word), c.op.word 8, c.op.word 9 &&& (0x01FF_0007 : Word),
      c.op.word 10 &&& (0x8000_FFFF : Word)] }
  let on := bitOf (c.op.word 6) 31
  match encFault i on x s with
  | some (reason, w) => iplSchema c 0 reason i w s
  | none =>
    if !on then finishOp c stOk 0 0 0 (s.setStream i { old with st := .off, due := [], gop := 0, idrNext := false })
    else
      let st := if old.st = .deferred then EncState.deferred else .run
      let s := s.setStream i { x with st := st, idrNext := true, due := if old.st = .off then [] else old.due }
      finishOp c stOk 0 (wordOf st.code) 0 s

/-- ENC_IDR. -/
def encIdr (c : OpRef) (s : State) : State :=
  let is := streamNumbers.filter fun i => bitOf (c.op.word 6) i
  finishOp c stOk 0 (wordOf is.length) 0
    (is.foldl (fun s i => s.setStream i { s.stream i with idrNext := true }) s)

/-- IPL_DISP_MAX (R203). -/
def dispMax (s : State) : Nat :=
  ictxNumbers.foldl (fun m c =>
    let x := s.ictx c
    if x.state != .empty && x.dispEn then max m x.dispSize else m) 0

/-! ### Registers -/

/-- IPL_CTL written: EN 0 stops every context as CTX_STOP does. -/
def iplCtlWrite (v : Word) (s : State) : State :=
  let s := { s with ipl.en := bitOf v 31 }
  if bitOf v 31 then s else ictxNumbers.foldl (fun s c => iplStopCtx c s) s

/-- IPL_PCAM_CFG written. -/
def pcamWrite (v : Word) (s : State) : State :=
  if sourceBusy 4 s then iplErr 0 1 0 0 s else { s with ipl.pcam := v &&& (0xF000_0000 : Word) }

/-- IPL_CTX_SETID: the newest pending ID and the ID in force. -/
def setIdWord (x : IplCtx) : Word :=
  let e := x.exps.getLast?.map fun e => (e.order, e.set.id)
  let t := x.tunes.getLast?.map fun e => (e.order, e.id)
  let pending := match e, t with
    | some (i, a), some (j, b) => if i < j then b else a
    | some (_, a), none => a
    | none, some (_, b) => b
    | none, none => 0
  wordOf (pending * 65536 + x.set.id)

/-- A read of a link's registers. -/
def linkRead (k o : Nat) (s : State) : Word × State :=
  let x := s.link k
  match o with
  | 0 => (x.cfg, s)
  | 4 => (wordOf (x.st.code * 2 ^ 30 + x.latency), s)
  | 8 => (wordOf (x.crc * 65536 + x.discarded), s.setLink k { x with crc := 0, discarded := 0 })
  | _ => (0, s)

/-- A read of the IPL window. -/
def iplRead (off : Nat) (s : State) : Word × State :=
  let p := s.ipl
  let x := s.ictx p.ctxSel
  let cs := admitted 0 s
  if off = 0x00 then (wordOf (oneIf p.en * 2 ^ 31), s)
  else if off = 0x04 then (wordOf (maskOf (ictxNumbers.filter fun c => (s.ictx c).state == .run)), s)
  else if off = 0x08 then (p.errLast, s)
  else if off = 0x0C then (wordOf (roundRat (cs.map fun c => pixelLoad (s.ictx c)).sum).toNat, s)
  else if off = 0x10 then
    (wordOf (roundRat ((cs.map fun c => payload (s.ictx c)).sum / 1000000)).toNat, s)
  else if off = 0x14 then (wordOf (dispMax s), s)
  else if off = 0x18 then (rclRead p.ovf, { s with ipl.ovf := 0 })
  else if off = 0x1C then (rclRead p.dispDrop, { s with ipl.dispDrop := 0 })
  else if off = 0x20 then (rclRead p.statDrop, { s with ipl.statDrop := 0 })
  else if off = 0x24 then (rclRead p.visDrop, { s with ipl.visDrop := 0 })
  else if off = 0x30 then (wordOf p.ctxSel, s)
  else if off = 0x34 then (ctxStateWord x, s)
  else if off = 0x38 then (wordOf (x.lastNo * 65536 + x.lastFlags), s)
  else if off = 0x3C then (setIdWord x, s)
  else if 0x100 ≤ off ∧ off < 0x140 then linkRead ((off - 0x100) / 16) (off % 16) s
  else if off = 0x140 then (p.pcam, s)
  else if 0x180 ≤ off ∧ off < 0x190 then
    let y := s.stream ((off - 0x180) / 4)
    (wordOf (y.st.code * 2 ^ 30 + bitrate y s.gts % 2 ^ 24), s)
  else (0, s)

/-- A write to the IPL window. -/
def iplWrite (off : Nat) (v : Word) (s : State) : State :=
  if off = 0x00 then iplCtlWrite v s
  else if off = 0x30 then { s with ipl.ctxSel := bitsOf v 3 0 }
  else if 0x100 ≤ off ∧ off < 0x140 ∧ off % 16 = 0 then linkCfgWrite ((off - 0x100) / 16) v s
  else if off = 0x140 then pcamWrite v s
  else s

/-- The work of a tick boundary: rate factors take effect (R182). -/
def iplTick (s : State) : State := ictxNumbers.foldl (fun s c => settleRate c s) s

/-- PD5 off: every context is EMPTY, every link and register at its reset (R186); the slot buffers that
frames held become free. -/
def iplReset (s : State) : State :=
  let s := ictxNumbers.foldl (fun s c => setIplState c .empty s) s
  let s := ictxNumbers.foldl (fun s c =>
    (s.ictx c).frames.foldl (fun s f =>
      match f.visBuf with
      | some b => freeSlot (s.ictx c).visSlot b s
      | none => s) s) s
  { s with ipl := {} }

/-! ### Commands -/

/-- IPL_LINK_CFG written. -/
def execIplLinkCfgWrite (a : Access) (k : Fin 4) (v : Word) (s : State) : Out :=
  .next (gateWrite a 6 5 s (linkCfgWrite k.val v))

/-- A command of the pipeline while PD5 is on. -/
def whileOn (d : Nat) (s : State) (k : State → State) : Out := .next (if s.pdOn d then k s else s)

/-- LINK_UP. -/
def execLinkUp (k : Fin 4) (latency : Nat) (s : State) : Out := whileOn 5 s (linkUp k.val latency)

/-- LINK_TRAINING_RETRY. -/
def execLinkTrainingRetry (k : Fin 4) (s : State) : Out := whileOn 5 s (linkRetry k.val)

/-- LINK_DOWN. -/
def execLinkDown (k : Fin 4) (s : State) : Out := whileOn 5 s (linkDown k.val)

/-- CAMERA_TRIGGER. -/
def execCameraTrigger (c : Fin 16) (s : State) : Out := whileOn 5 s (cameraTrigger c.val)

/-- FRAME_START. -/
def execFrameStart (k : Fin 5) (vc : Fin 16) (at' : Nat) (s : State) : Out :=
  whileOn 5 s (frameStart k.val vc.val at')

/-- LINE_ARRIVAL. -/
def execLineArrival (k : Fin 5) (vc : Fin 16) (l : LineIn) (s : State) : Out :=
  whileOn 5 s (lineArrival k.val vc.val l)

/-- FRAME_END. -/
def execFrameEnd (k : Fin 5) (vc : Fin 16) (s : State) : Out := whileOn 5 s (frameEnd k.val vc.val)

/-- UNIT_START. -/
def execUnitStart (s : State) : Out := whileOn 5 s unitStart

/-- FRAME_CLOSE. -/
def execFrameClose (c : Fin 16) (s : State) : Out := whileOn 5 s (frameClose c.val)

/-- ENCODER_ACCESS_UNIT. -/
def execEncoderAccessUnit (st : Fin 4) (u : AuStep) (s : State) : Out := whileOn 5 s (accessUnit st.val u)

/-- SETTINGS_WRITE. -/
def execSettingsWrite (c : Fin 16) (sensorOk : Bool) (s : State) : Out :=
  whileOn 5 s (settingsWrite c.val sensorOk)

/-- CTX_LOAD of IPL. -/
def execIplCtxLoad (n : Fin 32) (s : State) : Out := .next (takeOp 6 0 1 .serial n.val iplCtxLoad s)

/-- CTX_START of IPL. -/
def execIplCtxStart (n : Fin 32) (s : State) : Out := .next (takeOp 6 0 2 .serial n.val iplCtxStart s)

/-- CTX_STOP of IPL. -/
def execIplCtxStop (n : Fin 32) (s : State) : Out := .next (takeOp 6 0 3 .serial n.val iplCtxStop s)

/-- IPL_STOP_EFFECT. -/
def execIplStopEffect (s : State) : Out := whileOn 5 s iplStopEffect

/-- EXPOSURE. -/
def execExposure (n : Fin 32) (s : State) : Out := .next (takeOp 6 0 4 .serial n.val exposure s)

/-- TUNE_LOAD. -/
def execTuneLoad (n : Fin 32) (s : State) : Out := .next (takeOp 6 0 5 .serial n.val tuneLoad s)

/-- CTX_READ of IPL. -/
def execIplCtxRead (n : Fin 32) (s : State) : Out := .next (takeOp 6 0 6 .serial n.val iplCtxRead s)

/-- ENC_CFG. -/
def execEncCfg (n : Fin 32) (s : State) : Out := .next (takeOp 6 0 8 .serial n.val encCfg s)

/-- ENC_IDR. -/
def execEncIdr (n : Fin 32) (s : State) : Out := .next (takeOp 6 0 9 .serial n.val encIdr s)

/-- DISP_BUF. -/
def execDispBuf (n : Fin 32) (s : State) : Out :=
  .next (takeOp 6 1 0x10 .parallel n.val (fun c s => poolCheck (dispMax s) c s) s)

/-- STAT_BUF. -/
def execStatBuf (n : Fin 32) (s : State) : Out := .next (takeOp 6 2 0x11 .parallel n.val (poolCheck 4096) s)

/-- CODE_BUF. -/
def execCodeBuf (n : Fin 32) (s : State) : Out := .next (takeOp 6 3 0x12 .parallel n.val (poolCheck 4096) s)

/-- IPL_CTL written. -/
def execIplCtlWrite (a : Access) (v : Word) (s : State) : Out := .next (gateWrite a 6 5 s (iplCtlWrite v))

/-- PCAM_SYNC_LOST. -/
def execPcamSyncLost (lost : Bool) (s : State) : Out := whileOn 5 s (pcamSync lost)

/-- CAM_POWER_LIMIT. -/
def execCamPowerLimit (k : Fin 4) (s : State) : Out := whileOn 5 s (camPowerLimit k.val)

/-- CAM_POWER_RETRY. -/
def execCamPowerRetry (k : Fin 4) (s : State) : Out := whileOn 5 s (camPowerRetry k.val)

end Sys2Proof.Machine
end

