-- ==== Sys2Proof/Machine/Loops.lean ====
section
/-!
DEFINITION. GNB: the fields of its configuration, its signals, correlators, loops and NCOs, the aid that steers them,
and the places and directions of a solution (spec/09_gnss_baseband.md, R245, R248, R250 to R252, R257).
-/

namespace Sys2Proof.Machine

/-! ### Accessors -/

/-- Channel `c`. -/
def State.gch (s : State) (c : Nat) : GnbCh := Tab.get {} s.gnb.ch c

/-- Channel `c` replaced. -/
def State.setGch (s : State) (c : Nat) (x : GnbCh) : State := { s with gnb.ch := Tab.put s.gnb.ch c x }

/-- Channels 0 to 255, signals 0 to 10. -/
def gchNumbers : List Nat := List.range 256
def sigNumbers : List Nat := List.range 11

/-- Fields of CFG_LOAD (R271). -/
def Gnb.word (g : Gnb) (i : Nat) : Word := g.cfg.getD i 0
def Gnb.mpEn (g : Gnb) : Bool := bitOf (g.word 0) 31
def Gnb.sbasEn (g : Gnb) : Bool := bitOf (g.word 0) 30
def Gnb.ppsPol (g : Gnb) : Bool := bitOf (g.word 22) 15
def Gnb.sigEn (g : Gnb) (ant2 : Bool) (k : Nat) : Bool := bitOf (g.word (if ant2 then 1 else 0)) k
def Gnb.measDiv (g : Gnb) : Nat := bitsOf (g.word 2) 25 16
def Gnb.elevMask (g : Gnb) : Nat := bitsOf (g.word 2) 7 0
def Gnb.cn0Loss (g : Gnb) : Nat := bitsOf (g.word 3) 31 24
def Gnb.cn0Mask (g : Gnb) : Nat := bitsOf (g.word 3) 23 16
def Gnb.coastT (g : Gnb) : Nat := bitsOf (g.word 3) 15 0
def Gnb.aidMode (g : Gnb) : Nat := bitsOf (g.word 4) 25 24
def Gnb.aidTmo (g : Gnb) : Nat := bitsOf (g.word 4) 23 16
def Gnb.corrTmo (g : Gnb) : Nat := bitsOf (g.word 4) 15 0
def Gnb.ppsEn (g : Gnb) : Bool := bitOf (g.word 24) 30
def Gnb.ppsOfs (g : Gnb) : Int := sint (g.word 23)
def Gnb.ppsW (g : Gnb) : Nat := bitsOf (g.word 22) 31 16
def Gnb.tpEn (g : Gnb) : Bool := bitOf (g.word 24) 31
def Gnb.tpDiv (g : Gnb) : Nat := bitsOf (g.word 24) 25 16
def Gnb.tpW (g : Gnb) : Nat := bitsOf (g.word 24) 6 0
def Gnb.drT (g : Gnb) : Nat := bitsOf (g.word 25) 15 0
def Gnb.bivRadius (g : Gnb) : Nat := bitsOf (g.word 26) 31 16
def Gnb.bivPeriod (g : Gnb) : Nat := bitsOf (g.word 26) 7 0
def Gnb.pllBw (g : Gnb) : Nat := bitsOf (g.word 27) 31 24
def Gnb.pllBwDeep (g : Gnb) : Nat := bitsOf (g.word 27) 23 16
def Gnb.dllBw (g : Gnb) : Nat := bitsOf (g.word 27) 15 0

/-- Three words from `i` on as a displacement in mm: ANT1, ANT2 and the control point from the grid origin. -/
def Gnb.lever (g : Gnb) (i : Nat) : Vec :=
  { x := (sint (g.word i) : Rat), y := sint (g.word (i + 1)), z := sint (g.word (i + 2)) }
def Gnb.antLever (g : Gnb) (two : Bool) : Vec := g.lever (if two then 13 else 10)
def Gnb.cpLever (g : Gnb) : Vec := g.lever 16

/-- The system of a signal: 0 GPS, 1 Galileo, 2 BeiDou, 3 SBAS (R245). -/
def sysOf (sig : Nat) : Nat := if sig ≤ 2 then 0 else if sig ≤ 6 then 1 else if sig ≤ 9 then 2 else 3

/-! ### Signals (R245) -/

/-- The carrier of a signal, Hz. -/
def carrierHz (sig : Nat) : Nat :=
  ([1575420000, 1227600000, 1176450000, 1575420000, 1176450000, 1207140000, 1278750000, 1575420000, 1176450000,
    1268520000, 1575420000] : List Nat).getD sig 1

/-- Its chip rate, chips per s. -/
def chipHz (sig : Nat) : Nat :=
  ([1023000, 1023000, 10230000, 1023000, 10230000, 10230000, 5115000, 1023000, 10230000, 10230000,
    1023000] : List Nat).getD sig 1

/-- KIND of its messages: 1 parity per word (LNAV), 3 BCH per word (D1/D2), 2 CRC-24Q for every other. -/
def navKind (sig : Nat) : Nat := if sig = 0 then 1 else if sig = 9 then 3 else 2

/-- The speed of light, m/s. -/
def lightSpeed : Nat := 299792458

/-! ### Correlators (R248) -/

/-- GNB_CORR_SPACING of signal `k` as in effect. -/
def Gnb.spacingOf (g : Gnb) (k : Nat) : Word := Tab.get (0x2010_F006 : Word) g.spacingNow k

/-- A signed byte. -/
def sbyte (n : Nat) : Int := if n < 128 then (n : Int) else (n : Int) - 256

/-- The places of VE, E, P, L, VL, M1 and M2 from prompt, in 1/128 chip: E and L at ∓EL/2, VE and VL at ∓VEL/2, in
1/64 chip. -/
def corrPlaces (w : Word) : List Int :=
  let el : Int := bitsOf w 6 0
  let vel : Int := bitsOf w 31 24
  [-vel, -el, 0, el, vel, 2 * sbyte (bitsOf w 15 8), 2 * sbyte (bitsOf w 23 16)]

/-- The multipath delay estimate of a channel, 1/64 chip, from VE, VL, M1 and M2. -/
def multipath (g : Gnb) (x : GnbCh) : Int :=
  let at' := corrPlaces (g.spacingOf x.sig)
  Config.multipath ([0, 4, 5, 6].map fun i => (at'.getD i 0, x.iq.getD i (0, 0)))

/-! ### The way the machine faces, and places (R251, R257) -/

/-- A square root to 12 places. -/
def sqrtRat (q : Rat) : Rat := (Nat.sqrt (q * 10 ^ 24).floor.toNat : Rat) / 10 ^ 12

/-- The horizontal way the machine faces, east and north of unit length, from the heading of the baseline in rad: the
baseline lies in the machine as ANT1 and ANT2 are configured. -/
def faceOf (g : Gnb) (heading : Rat) : Rat × Rat :=
  let b := (g.antLever true).sub (g.antLever false)
  let len := sqrtRat (b.x * b.x + b.y * b.y)
  let e := sinRat heading
  let n := cosRat heading
  if len = 0 then (e, n) else ((e * b.x + n * b.y) / len, (n * b.x - e * b.y) / len)

/-- A displacement or a velocity in the machine's axes as east, north and up (DEDUCED, log 185). -/
def enuOf (face : Rat × Rat) (v : Vec) : Vec :=
  { x := face.1 * v.x - face.2 * v.y, y := face.2 * v.x + face.1 * v.y, z := v.z }

/-- The Earth-centred place of a geodetic one in rad and m, on the WGS 84 ellipsoid (PRESUMED, log 185). -/
def ecefOf (lat lon h : Rat) : Vec :=
  let f : Rat := 1 / (298257223563 / 1000000000)
  let e2 : Rat := f * (2 - f)
  let n : Rat := 6378137 / sqrtRat (1 - e2 * sinRat lat * sinRat lat)
  { x := (n + h) * cosRat lat * cosRat lon, y := (n + h) * cosRat lat * sinRat lon
    z := (n * (1 - e2) + h) * sinRat lat }

/-- Degrees to rad. -/
def degRat (d : Rat) : Rat := d * piRat / 180

/-- A place, in degrees and m, east, north and up of an origin, mm (R257). -/
def localOf (olat olon oh lat lon h : Rat) : Vec :=
  let p := degRat olat
  let l := degRat olon
  let d := (ecefOf (degRat lat) (degRat lon) h).sub (ecefOf p l oh)
  { x := (cosRat l * d.y - sinRat l * d.x) * 1000
    y := (cosRat p * d.z - sinRat p * (cosRat l * d.x + sinRat l * d.y)) * 1000
    z := (sinRat p * d.z + cosRat p * (cosRat l * d.x + sinRat l * d.y)) * 1000 }

/-- The place of a displacement east, north and up in mm from a place in degrees and m; to first order, as the levers of
a machine need it (DEDUCED, log 185). -/
def placeFrom (lat lon h : Rat) (d : Vec) : Rat × Rat × Rat :=
  let p := degRat lat
  let f : Rat := 1 / (298257223563 / 1000000000)
  let e2 : Rat := f * (2 - f)
  let w := sqrtRat (1 - e2 * sinRat p * sinRat p)
  let n : Rat := 6378137 / w
  let m : Rat := n * (1 - e2) / (w * w)
  (lat + d.y / 1000 / (m + h) * 180 / piRat, lon + d.x / 1000 / ((n + h) * cosRat p) * 180 / piRat, h + d.z / 1000)

/-- The largest angle of whole µrad below a quarter turn at or below the one whose tangent is e/n, by halving. -/
def angleBelow (e n : Rat) : Nat → Nat → Nat → Nat
  | 0, lo, _ => lo
  | fuel + 1, lo, hi =>
    let mid := (lo + hi) / 2
    let a : Rat := (mid : Rat) / 1000000
    if n * sinRat a ≤ e * cosRat a then angleBelow e n fuel mid hi else angleBelow e n fuel lo mid

/-- The direction of a horizontal vector, clockwise from north, 0 to 2π in µrad (log 22 for its rounding). -/
def courseOf (e n : Int) : Nat :=
  let (q, a, b) : Nat × Int × Int :=
    if 0 ≤ e ∧ 0 < n then (0, e, n) else if 0 < e then (1, -n, e) else if n < 0 then (2, -e, -n) else (3, n, -e)
  let k := angleBelow a b 22 0 1570797
  let rest : Rat := (q : Rat) * piRat * 500000 + k
  rest.floor.toNat + oneIf (a != 0 && Config.roundsUp k 1)

/-! ### The aid (R251) -/

/-- The velocity of an antenna in the machine's axes: a point of the machine with that velocity, turning at `w` rad/s,
and the arm from it to the antenna in mm. -/
def Vec.cross (a b : Vec) : Vec :=
  { x := a.y * b.z - a.z * b.y, y := a.z * b.x - a.x * b.z, z := a.x * b.y - a.y * b.x }
def Vec.dot (a b : Vec) : Rat := a.x * b.x + a.y * b.y + a.z * b.z

/-- The IMU's rates, rad/s, and its place from the grid origin (R213). -/
def imuRates (s : State) : Vec :=
  let v := (s.fin.imu.getD (0, [])).2
  let r (i : Nat) : Rat := (v.getD i 0 : Rat) / 1000 * piRat / 180
  { x := r 0, y := r 1, z := r 2 }
def imuLever (s : State) : Vec :=
  let w (i : Nat) : Rat := (sint (s.lko.cfg.getD i 0) : Rat)
  { x := w 8, y := w 9, z := w 10 }

/-- The phase from which a tick's aid steers: 5 for Lookout's ego-motion, 2 for the IMU, else the boundary. -/
def aidPhase (aid : Nat) : Nat := if aid = 3 then 5 else if aid = 2 then 2 else 0

/-- The velocity of an antenna east, north and up, mm/s, that the aiding state gives in the tick of boundary `b`, with
the lever arms; none where nothing aids, or where Lookout has no ego-motion for the tick. -/
def antVelocity (b : Nat) (two : Bool) (s : State) : Option Vec :=
  let g := s.gnb
  let arm := g.antLever two
  let ofVel (v : Int × Int × Int) : Vec := { x := v.1, y := v.2.1, z := v.2.2 }
  match g.aid with
  | 3 =>
    match s.lko.motion.ego with
    | some (at', e) =>
      if at' ≠ b then none
      else
        let v : Vec := { x := (e.getD 0 0 : Int), y := (e.getD 1 0 : Int), z := 0 }
        let w : Vec := { x := 0, y := 0, z := (e.getD 2 0 : Rat) / 1000000 }
        some (enuOf g.sol.face (v.add (w.cross arm)))
    | none => none
  | 2 =>
    let v : Vec := { x := g.imuVel.1, y := g.imuVel.2.1, z := g.imuVel.2.2 }
    some (v.add (enuOf g.sol.face ((imuRates s).cross (arm.sub (imuLever s)))))
  | 1 => some (ofVel g.sol.vel)
  | _ => none

/-- The IMU's velocity at boundary `b`: propagated by the boundary's sample (log 184), or from a new solution. -/
def imuPropagate (b : Nat) (s : State) : State :=
  match s.fin.imu with
  | none => s
  | some (at', v) =>
    if at' ≠ b then s
    else
      let d (i : Fin 3) : Rat := Config.imuDelta (b / tickLen) v i
      let u := s.gnb.imuVel
      { s with gnb.imuVel := (u.1 + d 0, u.2.1 + d 1, u.2.2 + d 2) }

/-- The velocity of the IMU where ANT1 has the velocity of the solution. -/
def imuFrom (vel : Int × Int × Int) (face : Rat × Rat) (s : State) : Rat × Rat × Rat :=
  let d := enuOf face ((imuRates s).cross ((s.gnb.antLever false).sub (imuLever s)))
  (vel.1 - d.x, vel.2.1 - d.y, vel.2.2 - d.z)

/-- The line-of-sight rate of a channel, Hz of its carrier: the antenna's velocity along the direction of the satellite,
and the satellite's own (log 184). -/
def losRate (t : Nat) (x : GnbCh) (v : Vec) : Rat :=
  let d (i : Fin 3) : Rat := Config.losDir x.sig x.sv t i
  let u : Vec := { x := d 0, y := d 1, z := d 2 }
  v.dot u / 1000 * carrierHz x.sig / lightSpeed + Config.satRate x.sig x.sv t

/-- The aid of the tick that begins at `b`: from the steering phase on the new rate, which the change from the last one
carries on toward the next tick (DEDUCED, log 184). Without a new one the rate stays. -/
def GnbCh.aided (x : GnbCh) (b : Nat) (s : State) : GnbCh :=
  let was := x.aidNow + x.aidSlope
  if s.gnb.aid = 0 ∨ x.st = .idle ∨ x.st = .search ∨ (s.gnb.aid = 1 ∧ x.st ≠ .pullIn) then
    { x with aidWas := 0, aidNow := 0, aidSlope := 0 }
  else match antVelocity b x.ant2 s with
    | none => { x with aidWas := was, aidNow := was, aidSlope := 0 }
    | some v =>
      let r := losRate (b / tickLen) x v
      { x with aidWas := was, aidNow := r, aidSlope := (r - x.aidNow) * (100 - aidPhase s.gnb.aid : Nat) / 100 }

/-! ### Loops and NCOs (R250, R252) -/

/-- Cycles that the carrier NCO gains on the nominal carrier over the tick, `p` the phase from which the aid steered. -/
def GnbCh.cycles (x : GnbCh) (p : Nat) : Rat :=
  (x.loop + x.aidWas * p / 100 + (x.aidNow + x.aidSlope / 2) * (100 - p : Nat) / 100) / 1000

/-- A tick passes: both NCOs run on at their rates. The code follows the carrier, at the ratio of chip rate to carrier.
-/
def GnbCh.pass (x : GnbCh) (p : Nat) : GnbCh :=
  let n := x.cycles p
  { x with
    phase := x.phase + n
    codeT := x.codeT + 1000000 + n / carrierHz x.sig * 1000000000 + x.codeRate / chipHz x.sig * 1000000 }

/-- The Doppler that the carrier NCO shows at the boundary, Hz. -/
def GnbCh.doppler (x : GnbCh) : Rat := x.loop + x.aidWas

/-- The loops close at a boundary with the tick's correlator outputs: the third-order PLL at bandwidth `bw`, in PULL_IN
with the second-order FLL, and the first-order DLL. In COAST no loop corrects. The discriminators and the gains that a
bandwidth stands for are the implementation's (log 184). -/
def GnbCh.close (x : GnbCh) (g : Gnb) (c : CorrOut) : GnbCh :=
  let bw := if 2 ≤ g.aid then g.pllBwDeep else g.pllBw
  let at' := corrPlaces (g.spacingOf x.sig)
  let x := { x with iq := c.iq, cn0 := satTo c.cn0 0x7FFF, half := c.halfCycle }
  if x.st = .pullIn ∨ x.st = .track then
    let p := Config.phaseError c.iq
    let f : Rat := if x.st = .pullIn then Config.freqError c.iq else 0
    let accel := x.accel + Config.pllGain bw 2 * p + Config.fllGain 1 * f
    let rate := x.rate + accel + Config.pllGain bw 1 * p + Config.fllGain 0 * f
    { x with
      accel := accel, rate := rate, loop := rate + Config.pllGain bw 0 * p
      codeRate := Config.dllGain g.dllBw * Config.codeError ([1, 3].map fun i => (at'.getD i 0, c.iq.getD i (0, 0))) }
  else x

/-- The run of ticks behind a change of state goes on or breaks (R249). -/
def GnbCh.counted (x : GnbCh) (g : Gnb) (c : CorrOut) : GnbCh :=
  let good : Bool := match x.st with
    | .pullIn => c.lock
    | .track => decide (c.cn0 < g.cn0Loss * 100)
    | .coast => decide ((g.cn0Loss + 3) * 100 ≤ c.cn0)
    | _ => false
  { x with run := if good then x.run + 1 else 0 }

/-- A channel at boundary `b`: the tick that ends, whose aid steered from phase `p`, has passed; where the tick's work
is done the loops close and the aid of the new tick is set, else the NCOs keep their rates (R250). A channel whose
correlators gave nothing breaks its run. -/
def GnbCh.tick (x : GnbCh) (b p : Nat) (held : Bool) (c : Option CorrOut) (s : State) : GnbCh :=
  let x := x.pass p
  let x := match c with
    | none => { x with run := 0 }
    | some c => x.counted s.gnb c
  if held then { x with aidWas := x.aidNow + x.aidSlope, aidNow := x.aidNow + x.aidSlope, aidSlope := 0 }
  else
    (match c with
      | none => x
      | some c => x.close s.gnb c).aided b s

/-- The pseudorange of a channel at an instant of GPS time `t` ns, 0.1 mm: the time the code has travelled, less the
reflected path where MP_EN removes it (R248, R252, R253). -/
def pseudorange (g : Gnb) (x : GnbCh) (t : Rat) : Nat :=
  let mp : Rat := if g.mpEn then (multipath g x : Rat) / 64 / chipHz x.sig * 1000000000 else 0
  (openInt ((t - x.codeT - mp) * lightSpeed / 100000)).toNat

end Sys2Proof.Machine
end

