-- ==== Sys2Proof/Machine/Gnss.lean ====
section
/-!
DEFINITION. GNB: antennas, channels, aiding, the time mapping and the measurement instant
(spec/09_gnss_baseband.md, R245 to R265).
-/

namespace Sys2Proof.Machine

/-- The signals that ANT2 can receive (R245). -/
def ant2Signals : List Nat := [0, 2, 3, 4, 7, 8]

/-- Signals tracked at a band level (R265). -/
def bandKeeps (level sig : Nat) : Bool :=
  match level with
  | 0 => true
  | 1 => sig != 6 && sig != 9
  | 2 => sig != 6 && sig != 9 && sig != 1 && sig != 5
  | _ => sig == 0 || sig == 3 || sig == 7 || sig == 10

/-- GNB_ERR_LAST. -/
def gnbErr (opc reason word : Nat) (s : State) : State :=
  { s with gnb.errLast := wordOf (opc * 2 ^ 24 + reason * 65536 + word) }

/-! ### Antennas (R246) -/

/-- The port. -/
def State.ant (s : State) (two : Bool) : GnbAnt := if two then s.gnb.ant2 else s.gnb.ant1

/-- The port replaced. -/
def State.setAnt (s : State) (two : Bool) (x : GnbAnt) : State :=
  if two then { s with gnb.ant2 := x } else { s with gnb.ant1 := x }

/-- A port's state changes. -/
def antState (two : Bool) (st : Nat) (s : State) : State :=
  let x := s.ant two
  if x.st = st then s else raise 358 st (oneIf two) (s.setAnt two { x with st := st })

/-- ANTENNA_STATE_CHANGE: the bias current of a port, or its limit reached. -/
def antennaChange (two : Bool) (mA : Nat) (short : Bool) (s : State) : State :=
  let x := s.ant two
  if !x.bias then s
  else if short then
    antState two 3 (s.setAnt two { x with mA := mA % 2 ^ 14, bias := false, shortT := s.t })
  else
    antState two (if mA < 2 + (Config.antOpen two).val then 2 else 1) (s.setAnt two { x with mA := mA % 2 ^ 14 })

/-- ANTENNA_RETRY: the bias comes on again 1,000 ticks after the limit turned it off. -/
def antennaRetry (two : Bool) (s : State) : State :=
  let x := s.ant two
  if x.st = 3 ∧ !x.bias ∧ x.shortT + 1000 ≤ s.t then s.setAnt two { x with bias := true } else s

/-- GNB_ANT_CTL written. -/
def antCtlWrite (v : Word) (s : State) : State :=
  let one (two : Bool) (s : State) : State :=
    let on := bitOf v (oneIf two)
    let was := bitOf s.gnb.antCtl (oneIf two)
    if on && !was then s.setAnt two { s.ant two with bias := true }
    else if !on && was then antState two 0 (s.setAnt two { s.ant two with bias := false, mA := 0 })
    else s
  let s := one true (one false s)
  { s with gnb.antCtl := v &&& (3 : Word) }

/-! ### Channels (R247, R249) -/

/-- Satellites in TRACK on either port. -/
def trackedSats (s : State) : Nat :=
  (((s.gnb.ch.filter fun e => e.2.st == .track).map fun e => (sysOf e.2.sig, e.2.sv)).eraseDups).length

/-- Channels in a state. -/
def countCh (s : State) (st : GnbChState) : Nat := (s.gnb.ch.filter fun e => e.2.st == st).length

/-- COAST: the first channel enters, or the last leaves. -/
def coastEvent (was : Nat) (s : State) : State :=
  let now := countCh s .coast
  if was = 0 ∧ now ≠ 0 then raiseAt (boundaryOf s.t) 357 1 now s
  else if was ≠ 0 ∧ now = 0 then raiseAt (boundaryOf s.t) 357 2 now s
  else s

/-- A channel goes to a state. -/
def setChState (c : Nat) (st : GnbChState) (s : State) : State :=
  let was := countCh s .coast
  coastEvent was (s.setGch c { s.gch c with st := st, since := s.t, run := 0 })

/-- Channels that satisfy `p` go to a state. -/
def sweepCh (p : GnbCh → Bool) (st : GnbChState) (s : State) : State :=
  let was := countCh s .coast
  coastEvent was { s with gnb.ch := s.gnb.ch.map fun e =>
    (e.1, if p e.2 then { e.2 with st := st, since := s.t, run := 0 } else e.2) }

/-- The configuration excludes a satellite (R271). -/
def excluded (g : Gnb) (sig sv : Nat) : Bool :=
  match sysOf sig with
  | 0 => bitOf (g.word 5) (sv - 1)
  | 1 => if sv ≤ 32 then bitOf (g.word 6) (sv - 1) else bitOf (g.word 7) (sv - 33)
  | 2 => if sv ≤ 32 then bitOf (g.word 8) (sv - 1) else bitOf (g.word 9) (sv - 33)
  | _ => false

/-- A candidate of R247. -/
def isCandidate (g : Gnb) (x : Cand) : Bool :=
  decide ((g.elevMask * 10 : Int) ≤ x.elev) && !excluded g x.sig.val x.sv && g.sigEn x.ant2 x.sig.val &&
    bandKeeps g.band x.sig.val

/-- `a` is allocated before `b`: ANT1, then higher elevation, then lower signal, then lower satellite. -/
def candBefore (a b : Cand) : Bool :=
  if a.ant2 != b.ant2 then !a.ant2
  else if a.elev ≠ b.elev then decide (b.elev < a.elev)
  else if a.sig ≠ b.sig then decide (a.sig < b.sig)
  else decide (a.sv < b.sv)

/-- A candidate put in the order of allocation. -/
def insertCand (a : Cand) : List Cand → List Cand
  | [] => [a]
  | b :: r => if candBefore b a then b :: insertCand a r else a :: b :: r

/-- The channel tracks the candidate's satellite, signal and port. -/
def GnbCh.holds (x : GnbCh) (q : Cand) : Bool :=
  x.st != .idle && x.sig == q.sig.val && x.sv == q.sv && x.ant2 == q.ant2

/-- A candidate without a channel takes the lowest idle one. -/
def allocate (s : State) (q : Cand) : State :=
  if gchNumbers.any fun c => (s.gch c).holds q then s
  else match gchNumbers.find? fun c => (s.gch c).st == .idle with
    | none => s
    | some c => s.setGch c { st := .search, sig := q.sig.val, sv := q.sv, ant2 := q.ant2, since := s.t }

/-- CHANNEL_REEXAMINE: every 1,000 ticks the candidates are examined. -/
def reexamine (cands : List Cand) (s : State) : State :=
  let g := s.gnb
  let due := match g.examT with
    | none => true
    | some t => decide (t + 1000 ≤ s.t)
  if g.state ≠ .run ∨ !due then s
  else
    let low (x : GnbCh) : Bool := cands.any fun q =>
      x.holds q && decide (q.elev < ((g.elevMask : Int) - 2) * 10)
    let s := sweepCh low .idle { s with gnb.examT := some s.t }
    ((cands.filter (isCandidate g)).foldr insertCand []).foldl allocate s

/-- The state of a channel is `st`, GNB runs, and at least `n` ticks have passed since the entry. -/
def chDue (c : Nat) (st : GnbChState) (n : Nat) (s : State) : Bool :=
  s.gnb.state == .run && (s.gch c).st == st && decide ((s.gch c).since + n ≤ s.t)

/-- Aiding is DEEP (R251). -/
def deep (s : State) : Bool := decide (2 ≤ s.gnb.aid)

/-- CHANNEL_DETECTION: the code is found at the transmission time `code`, in ps since 6 January 1980, and the carrier at
the Doppler `dop`, in mHz. The NCOs start there. -/
def channelDetection (c code : Nat) (dop : Int) (s : State) : State :=
  if chDue c .search 0 s then
    setChState c .pullIn (s.setGch c { s.gch c with
      codeT := (code : Rat) / 1000, codeRate := 0, phase := 0, accel := 0, rate := (dop : Rat) / 1000
      loop := (dop : Rat) / 1000, aidWas := 0, aidNow := 0, aidSlope := 0 })
  else s

/-- SEARCH_TIMEOUT. -/
def searchTimeout (c : Nat) (s : State) : State := if chDue c .search 4000 s then setChState c .idle s else s

/-- The channel's run of ticks (R249) has come to `n`. -/
def chRun (c : Nat) (st : GnbChState) (n : Nat) (s : State) : Bool :=
  s.gnb.state == .run && (s.gch c).st == st && decide (n ≤ (s.gch c).run)

/-- PULL_IN_LOCK: phase lock for 200 successive ticks. -/
def pullInLock (c : Nat) (s : State) : State :=
  if chRun c .pullIn 200 s then
    let s := setChState c .track s
    s.setGch c { s.gch c with lockT := s.t, slip := false }
  else s

/-- PULL_IN_TIMEOUT. -/
def pullInTimeout (c : Nat) (s : State) : State := if chDue c .pullIn 1000 s then setChState c .search s else s

/-- TRACK_SIGNAL_LOSS: C/N0 below CN0_LOSS for 20 successive ticks. -/
def trackLoss (c : Nat) (s : State) : State :=
  if chRun c .track 20 s then setChState c (if deep s then .coast else .search) s else s

/-- The carrier check (R249): the phase carried through COAST and the one measured after it, in 2^-16 cycle, agree
within 0.1 cycle; a measured phase tells the part of a cycle only (DEDUCED, log 184). -/
def carrierCheck (x : GnbCh) (phase : Int) : Bool :=
  let d : Rat := x.phase - (phase : Rat) / 65536
  let off : Rat := d - ((d + 1 / 2).floor : Int)
  decide (-(1 / 10) ≤ off) && decide (off ≤ 1 / 10)

/-- COAST_REACQUIRE: C/N0 is back for 20 successive ticks, and the carrier is measured with `phase`. -/
def coastReacquire (c : Nat) (phase : Int) (s : State) : State :=
  if chRun c .coast 20 s ∧ s.t ≤ (s.gch c).since + s.gnb.coastT then
    let ok := carrierCheck (s.gch c) phase
    let s := setChState c .track s
    if ok then s else s.setGch c { s.gch c with
      lockT := s.t, slip := true, phase := (phase : Rat) / 65536 + ((s.gch c).phase - (phase : Rat) / 65536).floor }
  else s

/-- COAST_TIMEOUT. -/
def coastTimeout (c : Nat) (s : State) : State :=
  if chDue c .coast s.gnb.coastT s then setChState c .search s else s

/-- GNB_CORR_SPACING of signal `k` written (R248). -/
def spacingWrite (k : Nat) (v : Word) (s : State) : State :=
  let el := bitsOf v 6 0
  let vel := bitsOf v 31 24
  if 1 ≤ el ∧ el ≤ 64 ∧ 2 ≤ vel ∧ vel ≤ 128 ∧ el < vel then
    { s with gnb.spacing := Tab.put s.gnb.spacing k (v &&& (0xFFFF_FF7F : Word)) }
  else gnbErr 0 1 k s

/-! ### Aiding (R251) -/

/-- The aiding state at the boundary of tick `t`. -/
def aidingAt (t : Nat) (s : State) : Nat :=
  let g := s.gnb
  let recent := match g.sol.goodT with
    | none => false
    | some u => decide (t ≤ u + g.drT)
  let e := s.signalAt (boundaryOf t) 0x25D
  let lko := e.1 != 0 && decide (boundaryOf t ≤ e.2 + g.aidTmo * tickLen)
  let imu := bitOf s.fin.imuCfg 31 && !s.fin.imuFail
  if g.state ≠ .run ∨ g.aidMode = 0 then 0
  else if g.aidMode = 1 then 1
  else if lko then 3
  else if imu && recent then 2
  else if recent then 1
  else 0

/-- Aiding is checked at a boundary; where it leaves DEEP, channels in COAST search (R249). -/
def aidTick (b : Nat) (s : State) : State :=
  let n := aidingAt (b / tickLen) s
  if n = s.gnb.aid then s
  else
    let s := raiseAt b 356 n (b / tickLen % 2 ^ 24) { s with gnb.aid := n }
    if n < 2 then sweepCh (fun x => x.st == .coast) .search s else s

/-! ### The time mapping (R260 to R263) -/

/-- ns in a week. -/
def weekNs : Nat := 604800000000000

/-- ns per count at a rate deviation in 10^-12 (R260). -/
def paceOf (rate : Int) : Rat := 5 / 2 * (1 + (rate : Rat) / 1000000000000)

/-- ns per count of the mapping: in SLEW its phase moves by 100 ns per second against RESID (R262). -/
def Tmap.pace (m : Tmap) : Rat :=
  paceOf m.rate -
    (if m.st = .slew then (if 0 < m.resid then 1 else if m.resid < 0 then -1 else 0) / 4000000 else 0)

/-- GPS time in ns that the mapping gives GTS `g`. -/
def Tmap.timeAt (m : Tmap) (g : Nat) : Rat := m.t0 + ((g : Rat) - m.g0) * m.pace

/-- The GPS time in ns of a mapping set's G0, and of GTS `g` (R260). -/
def leadT0 (q : LeadMap) : Rat := ((q.week * weekNs + q.tow : Nat) : Rat)
def leadTime (q : LeadMap) (g : Nat) : Rat := leadT0 q + ((g : Rat) - q.g0) * paceOf q.rate

/-- The GPS time the module works with at `g`: the lead's mapping where it is in use, else its own; none
without a mapping. -/
def State.gpsAt (s : State) (g : Nat) : Option Rat :=
  match s.gnb.tmap.lead with
  | some q => some (leadTime q g)
  | none => if s.gnb.tmap.st = .none' then none else some (s.gnb.tmap.timeAt g)

/-- The same as whole ns. -/
def State.gpsNs (s : State) (g : Nat) : Nat :=
  match s.gpsAt g with
  | none => Config.noTime g
  | some q => q.floor.toNat

/-- RESID at `g`. -/
def Tmap.residAt (m : Tmap) (g : Nat) : Int :=
  if m.st = .slew then
    let left : Int := m.resid.natAbs - (g - m.resAt) / 4000000
    if left ≤ 0 then 0 else if m.resid < 0 then -left else left
  else m.resid

/-- UNC at `g` (R261). -/
def Tmap.uncAtGts (m : Tmap) (g : Nat) : Nat :=
  match m.st with
  | .none' => max32
  | .holdover =>
    let d := g - m.uncAt
    let first := min d (3600 * 1000 * tickLen)
    satTo (m.unc + openDiv (first * 200) (1000 * tickLen) + openDiv ((d - first) * 1000) (1000 * tickLen)) max32
  | _ => satTo ((m.residAt g).natAbs + m.unc) max32

/-- TIME_MAP. -/
def tmapEvent (code g : Nat) (s : State) : State :=
  raiseEv { gts := g, src := 352, code := code, data := wordOfInt (sat32 (s.gnb.tmap.residAt g)) } s

/-- The discipline loses GNSS as its source. -/
def gnssLost (s : State) : State := if s.tick.discSrc = some .gnss then disciplineSourceLost s else s

/-- HOLDOVER begins at `g` (R261). -/
def tmapHold (g : Nat) (s : State) : State :=
  let m := s.gnb.tmap
  let s := { s with gnb.tmap := { m with
    st := .holdover, unc := m.uncAtGts g, uncAt := g, t0 := m.timeAt g, g0 := g, resid := m.residAt g, resAt := g } }
  tmapEvent 2 g s

/-- A TIME or better solution at `g`, with true time and its uncertainty (R261). -/
def tmapFix (g trueNs tunc : Nat) (rate : Int) (s : State) : State :=
  let m := s.gnb.tmap
  let d : Int := roundRat (m.timeAt g - trueNs)
  match m.st with
  | .none' =>
    tmapEvent 1 g { s with gnb.tmap := { m with
      st := .locked, g0 := g, t0 := trueNs, rate := rate, unc := tunc, uncAt := g, resid := 0 } }
  | .locked => { s with gnb.tmap := { m with
      g0 := g, t0 := m.timeAt g, rate := rate, unc := tunc, uncAt := g, steer := -d } }
  | .slew => { s with gnb.tmap := { m with unc := tunc, uncAt := g } }
  | .holdover =>
    if m.step.isSome then s
    else if d.natAbs < 1000000 then
      let s := { s with gnb.tmap := { m with
        st := .slew, g0 := g, t0 := m.timeAt g, unc := tunc, uncAt := g, resid := d, resAt := g } }
      tmapEvent 4 g (tmapEvent 3 g s)
    else tmapEvent 3 g { s with gnb.tmap := { m with
      step := some { at' := g, trueNs := trueNs, delta := d, unc := tunc } } }

/-- SLEW_COMPLETE: RESID reaches 0. -/
def slewComplete (s : State) : State :=
  let m := s.gnb.tmap
  if m.st ≠ .slew then s
  else s.reach (m.resAt + m.resid.natAbs * 4000000) fun s =>
    let g := m.resAt + m.resid.natAbs * 4000000
    tmapEvent 5 g { s with gnb.tmap := { m with st := .locked, g0 := g, t0 := m.timeAt g, resid := 0, steer := 0 } }

/-- The first count at or after `from'` at which a mapping of base (g0, t0) and pace reaches a second plus
PPS_OFS, with that GPS time. -/
def secondAfter (g0 : Nat) (t0 pace : Rat) (ofs : Int) (from' : Nat) : Nat × Int :=
  let k : Int := ((t0 + ((from' : Rat) - g0) * pace - ofs) / 1000000000).ceil
  let t : Int := k * 1000000000 + ofs
  ((g0 + roundRat (((t : Rat) - t0) / pace)).toNat, t)

/-- Half a second of counts. -/
def halfSecond : Nat := 200000000

/-- The earliest count of the next rising edge: the first one comes after the mapping, or from `now` on where it is the
lead's. -/
def Tmap.earliest (m : Tmap) (now : Nat) : Nat :=
  match m.edge with
  | none => if m.lead.isSome then now else m.g0
  | some p => p + halfSecond

/-- A rising edge at `g`: the pulse, and the set of R260 renewed with the mapping as it then is. -/
def ppsAt (g : Nat) (s : State) : State :=
  let m := s.gnb.tmap
  { s with gnb.tmap := { m with
    edge := some g, count := if s.gnb.ppsEn then (m.count + 1) % 65536 else m.count
    pubG := g, pubT := s.gpsNs g, pubUnc := m.uncAtGts g, pubResid := m.residAt g
    pubRate := match m.lead with
      | some q => q.rate
      | none => m.rate } }

/-- The mapping is carried on from `g`, with the correction a LOCKED mapping takes at its PPS. -/
def Tmap.renew (m : Tmap) (g : Nat) : Tmap :=
  { m with
    g0 := g, t0 := m.timeAt g + (if m.st = .locked then (m.steer : Rat) else 0), steer := 0
    resid := m.residAt g, resAt := if m.st = .slew then m.resAt + (g - m.resAt) / 4000000 * 4000000 else g }

/-- At a PPS edge a module that is no longer second adopts its own mapping: what is between the lead's time, with what
its own still has to slew, and true time is slewed below 1 ms, and stepped otherwise (R265; DEDUCED, log 187). A module
without a mapping of its own holds the lead's. -/
def adoptOwn (g : Nat) (s : State) : State :=
  match s.gnb.tmap.lead with
  | none => s
  | some q =>
    if s.rtl.role = .second then s
    else
      let m := s.gnb.tmap
      let at' := leadTime q g
      let s := raiseAt g 362 2 (g / tickLen % 2 ^ 24) s
      if m.st = .none' then
        { s with gnb.tmap := { m with
          lead := none, st := .holdover, g0 := g, t0 := at', rate := q.rate, unc := 0, uncAt := g } }
      else
        let own := m.timeAt g - m.residAt g
        let d : Int := roundRat (at' - own)
        if d = 0 then { s with gnb.tmap := { m with lead := none } }
        else if d.natAbs < 1000000 then
          tmapEvent 4 g { s with gnb.tmap := { m with
            lead := none, st := .slew, g0 := g, t0 := at', resid := d, resAt := g, uncAt := g
            unc := if m.st = .holdover then m.uncAtGts g else m.unc } }
        else
          { s with gnb.tmap := { m with
            lead := none, st := .holdover, g0 := g, t0 := at', uncAt := g, unc := m.uncAtGts g, resid := 0, resAt := g
            step := some {
              at' := g, trueNs := own.floor.toNat, delta := d, unc := m.unc, hold := m.st == .holdover } } }

/-- PPS_EDGE: the next second boundary of the mapping in use plus PPS_OFS (R263); none while a step is to come. -/
def ppsEdge (s : State) : State :=
  let m : Tmap := s.gnb.tmap
  let ofs := s.gnb.ppsOfs
  let next := match m.lead with
    | some q => if q.quiet then none else some (secondAfter q.g0 (leadT0 q) (paceOf q.rate) ofs (m.earliest s.gts))
    | none =>
      if m.st = TmapState.none' ∨ m.step.isSome then none
      else some (secondAfter m.g0 m.t0 m.pace ofs (m.earliest s.gts))
  match next with
  | none => s
  | some (g, _) => s.reach g fun s =>
    let was := s.gnb.tmap
    let s := adoptOwn g { s with gnb.tmap := was.renew g }
    ppsAt g s

/-- TIME_STEP: the step to come is made at t_s (R263). On a second that uses the lead's mapping its own changes alone:
its pulse follows the lead's (R265). -/
def timeStep (s : State) : State :=
  let m : Tmap := s.gnb.tmap
  match m.step with
  | none => s
  | some p =>
    let from' := match m.edge with
      | none => p.at'
      | some e => max p.at' (e + halfSecond)
    let (g, t) := secondAfter p.at' p.trueNs (paceOf m.rate) s.gnb.ppsOfs from'
    s.reach g fun s =>
      let s := { s with gnb.stepped := true, gnb.tmap := { m with
        st := if p.hold then .holdover else .locked
        g0 := g, t0 := t, resid := 0, resAt := g, unc := p.unc, uncAt := g, step := none, steer := 0 } }
      if m.lead.isSome then s
      else
        let data := wordOfInt (sat32 (roundRat (-(p.delta : Rat) / 100)))
        raiseEv { gts := g, src := 353, code := 1, data := data } (ppsAt g s)

/-- TP_TICK is asserted (R264). -/
def tpTick (s : State) : Bool :=
  s.pdOn 7 && s.gnb.tpEn && s.tick.running && s.t % s.gnb.tpDiv == 0 && decide (s.gts % tickLen < s.gnb.tpW * phaseLen)

/-- TP_PPS carries its pulse (R263). -/
def tpPps (s : State) : Bool :=
  s.pdOn 7 && s.gnb.ppsEn &&
  match s.gnb.tmap.edge with
  | none => false
  | some g => decide (s.gts < g + s.gnb.ppsW * tickLen)

/-- The level of pin TP_PPS: PPS_POL 1 is active low (R271). -/
def tpPpsLevel (s : State) : Bool := tpPps s != s.gnb.ppsPol

/-! ### Navigation messages (R254, R255) -/

/-- Set bits of a number below 2^16. -/
def popCount (n : Nat) : Nat := ((List.range 16).filter fun i => n.testBit i).length

/-- Mask of the ten words of a subframe. -/
def tenWords : Nat := 1023

/-- One bit of CRC-24Q. -/
def crc24Bit (c : Nat) : Nat := let d := c * 2; if 2 ^ 24 ≤ d then d ^^^ 0x1864CFB else d

/-- The first `n` bits of bytes, first bit in bit 7. -/
def bitStream (n : Nat) (bs : List Byte) : List Bool :=
  (bs.flatMap fun b => [7, 6, 5, 4, 3, 2, 1, 0].map fun i => b.toNat.testBit i).take n

/-- A message passes CRC-24Q: its bits, the check last, leave no remainder (DEDUCED, log 189). -/
def crcPasses (m : NavIn) : Bool :=
  (bitStream m.bits m.payload).foldl (fun c b => crc24Bit (c ^^^ (oneIf b * 2 ^ 23))) 0 == 0

/-- WORDS_OK and WORDS_FIX of a subframe of ten words (R254): a corrected word passes. -/
def navGood (m : NavIn) : Nat := m.wordsOk &&& tenWords
def navFixed (m : NavIn) : Nat := m.wordsFix &&& navGood m

/-- Words or messages of a record on signal `sig` that fail their check. -/
def navFailures (sig : Nat) (m : NavIn) : Nat :=
  if navKind sig = 2 then oneIf (!crcPasses m) else 10 - popCount (navGood m)

/-- What a message carries for the solution stands in a message or in words that pass (R254). -/
def navUsed (sig : Nat) (m : NavIn) : Bool :=
  if navKind sig = 2 then crcPasses m else m.words &&& navGood m == m.words && m.words != 0

/-- The 128-byte record (R254). -/
def navRecord (x : GnbCh) (m : NavIn) : List Byte :=
  let kind := navKind x.sig
  leBytes 8 m.gts ++ leBytes 2 m.chan.val ++ leBytes 1 x.sig ++ leBytes 1 x.sv ++
    leBytes 2 (if kind = 2 then m.bits else 300) ++ leBytes 1 kind ++
    leBytes 1 (if kind = 2 then (if crcPasses m then 1 else 2) else 10) ++
      leBytes 2 (if kind = 2 then 0 else navGood m) ++
    leBytes 2 (if kind = 3 then navFixed m else 0) ++ zeros 12 ++ fitBytes 96 m.payload

/-- The NAV_BUF buffer that is being filled. -/
def navFilling (s : State) : Option OpRef :=
  s.opOf 8 3 fun o => o.stage == .started && o.opcode == 0x21 && !o.aux.isEmpty

/-- The buffer the next record goes to: the one being filled, else the next free one. -/
def navTarget (s : State) : Option OpRef :=
  match navFilling s with
  | some c => some c
  | none => s.poolBuffer 8 3 0x21

/-- A record is written; the buffer completes when it is full, or where the write is refused. -/
def navWrite (c : OpRef) (bs : List Byte) (s : State) : State :=
  let n := c.op.aux.getD 0 0
  let (s, x) := writeBuffer 0x25 (c.op.addr + 128 * n) bs s
  if x.status ≠ 0 then failOp c x.status (128 * n + x.moved) s
  else if c.op.len < 128 * (n + 2) then finishOp c stOk (128 * (n + 1)) (wordOf (n + 1)) 0 s
  else s.setOp c { c.op with aux := [n + 1] }

/-- The ephemeris of a channel's satellite is whole. -/
def noteEphemeris (sig sv : Nat) (s : State) : State :=
  if s.gnb.ephem.contains (sysOf sig, sv) then s else { s with gnb.ephem := s.gnb.ephem ++ [(sysOf sig, sv)] }

/-- A part of a satellite's ephemeris is kept. -/
def keepPart (sig sv part : Nat) (bs : List Byte) (s : State) : State :=
  { s with gnb.parts := Tab.put s.gnb.parts ((sysOf sig * 256 + sv) * 256 + part) bs }

/-- What a message that is used gives: ephemeris, and the leap seconds. -/
def navTake (x : GnbCh) (m : NavIn) (s : State) : State :=
  let s := match m.ephemeris with
    | none => s
    | some (part, whole) =>
      let s := keepPart x.sig x.sv part m.payload s
      if whole then noteEphemeris x.sig x.sv s else s
  if m.leap.isSome then { s with gnb.leap := m.leap } else s

/-- NAV_MESSAGE: a message decoded on a channel in TRACK or COAST. -/
def navMessage (m : NavIn) (s : State) : State :=
  let x := s.gch m.chan.val
  if s.gnb.state ≠ .run ∨ (x.st ≠ .track ∧ x.st ≠ .coast) then s
  else
    let s := { s with gnb.navFail := satTo (s.gnb.navFail + navFailures x.sig m) max32 }
    let s := if navUsed x.sig m then navTake x m s else s
    match navTarget s with
    | none => { s with gnb.navDrop := s.gnb.navDrop + 1 }
    | some c => navWrite c (navRecord x m) s

/-! ### The measurement instant (R252 to R257) -/

/-- A TRACK channel has ephemeris. -/
def trackEphemeris (s : State) : Bool :=
  s.gnb.ch.any fun e => e.2.st == .track && s.gnb.ephem.contains (sysOf e.2.sig, e.2.sv)

/-- Satellites in TRACK whose C/N0 the solution admits: CN0_MASK (R256, R271). -/
def usableSats (s : State) : List (Nat × Nat) :=
  ((s.gnb.ch.filter fun e => e.2.st == .track && decide (s.gnb.cn0Mask * 100 ≤ e.2.cn0)).map fun e =>
    (sysOf e.2.sig, e.2.sv)).eraseDups

/-- Correction age in 10 ms at `g`. -/
def corrAge (s : State) (g : Nat) : Option Nat := s.gnb.corrAt.map fun a => (g - a) / 4000000

/-- One record (R253): the latches of channel `c`, with the pseudorange by the mapping. -/
def measRecord (s : State) (g c : Nat) : List Byte :=
  let x := s.gch c
  let t : Rat := (s.gpsAt g).getD (Config.noTime g)
  let flags := oneIf (x.st == .coast) + oneIf x.slip * 2 + oneIf x.half * 4 + oneIf s.gnb.mpEn * 8 + oneIf x.ant2 * 128
  leBytes 8 (pseudorange s.gnb x t) ++ leBytes 8 (word64OfInt (openInt (x.phase * 65536))).toNat ++
    leBytes 4 (wordOfInt (openInt (x.doppler * 1000))).toNat ++
    leBytes 2 (satTo x.cn0 0xFFFF) ++ leBytes 2 (satTo ((g - boundaryOf x.lockT) / 4000000) 0xFFFF) ++
    leBytes 1 x.sig ++ leBytes 1 x.sv ++ leBytes 1 flags ++ leBytes 1 0 ++ leBytes 2 c ++
    leBytes 2 (wordOfInt (multipath s.gnb x)).toNat

/-- The channels of the block: TRACK and COAST, in rising order. -/
def measured (s : State) : List Nat :=
  gchNumbers.filter fun c => (s.gch c).st == .track || (s.gch c).st == .coast

/-- The measurement block of instant `g` (R253). -/
def measBlock (s : State) (g : Nat) : List Byte :=
  let t := s.gpsNs g
  let m := s.gnb.tmap
  let rs := measured s
  let flags := oneIf (m.st == .holdover) + oneIf (m.st == .slew) * 2 + oneIf s.gnb.stepped * 4 +
    s.gnb.aid * 8 + s.gnb.band * 32
  leBytes 8 g ++ leBytes 4 (t / weekNs) ++ zeros 4 ++ leBytes 8 (t % weekNs) ++ leBytes 4 (m.uncAtGts g) ++
    leBytes 2 rs.length ++ leBytes 1 flags ++ zeros 33 ++ rs.flatMap (measRecord s g)

/-- The block goes to a MEAS_BUF buffer; without one it is dropped (R255). -/
def measOut (g : Nat) (s : State) : State :=
  let n := (measured s).length
  match s.poolBuffer 8 2 0x20 with
  | none => raiseAt g 360 1 n s
  | some c => writeOut 0x25 c (measBlock s g) (wordOf g) (wordOf n) s

/-- The navigation buffer with records completes, and drops are reported (R255). -/
def navInstant (g : Nat) (s : State) : State :=
  let s := match navFilling s with
    | none => s
    | some c =>
      let n := c.op.aux.getD 0 0
      finishOp c stOk (128 * n) (wordOf n) 0 s
  if s.gnb.navDrop = 0 then s
  else raiseAt g 360 2 s.gnb.navDrop { s with gnb.navDrop := 0 }

/-- The age of the corrections at `g` exceeds CORR_TMO (R259). -/
def corrOld (s : State) (g : Nat) : Bool :=
  match s.gnb.corrAt with
  | none => true
  | some a => decide (a + s.gnb.corrTmo * 4000000 < g)

/-- Corrections whose age exceeds CORR_TMO are no longer used (R259). -/
def corrCheck (g : Nat) (s : State) : State :=
  match corrAge s g with
  | none => s
  | some a =>
    if s.gnb.corrUse ∧ corrOld s g then
      raiseAt g 359 2 (satTo a max32) { s with gnb.corrUse := false }
    else s

/-- The best type below SPS (R256): DR while aiding is DEEP and the last good solution is young enough, else TIME. -/
def lowType (m : MeasIn) (s : State) : Nat :=
  let young := match s.gnb.sol.goodT with
    | none => false
    | some u => decide (s.t ≤ u + s.gnb.drT)
  if deep s && young then 6
  else if m.posKnown && (usableSats s).any fun e => s.gnb.ephem.contains e then 1
  else 0

/-- The solution type that the data and the ages allow (R256): the best one still possible. -/
def solType (m : MeasIn) (s : State) : Nat :=
  let t := if 4 ≤ m.sol.val ∧ !s.gnb.corrUse then m.noCorr.val else m.sol.val
  if t < 2 ∨ (usableSats s).length < 4 then lowType m s
  else if t = 3 ∧ !s.gnb.sbasEn then 2
  else t

/-- The configured baseline squared, mm². -/
def baselineSq (g : Gnb) : Nat :=
  ([0, 1, 2].map fun i => (sint (g.word (13 + i)) - sint (g.word (10 + i))).natAbs ^ 2).sum

/-- The measured length lies within 20 mm of the configured baseline (R257). -/
def baselineFits (g : Gnb) (len : Nat) : Bool :=
  decide (baselineSq g ≤ (len + 20) ^ 2) && (decide (len ≤ 20) || decide ((len - 20) ^ 2 ≤ baselineSq g))

/-- The full week (R258): the first at or above GNB_WEEK_FLOOR that a carried week matches, 10 bits in LNAV, 13 in CNAV
and in SBAS none of its own; Galileo's 12 bits count from GPS week 1,024, BeiDou's 13 from week 1,356 (PRESUMED, log
190). -/
def fullWeek (sig : Fin 11) (week : Nat) : Nat :=
  let floor' := Config.weekFloor.toNat
  let at' (span base : Nat) : Nat := floor' + ((week + base) % span + span - floor' % span) % span
  match sysOf sig.val with
  | 0 => if sig = 0 then at' 1024 0 else at' 8192 0
  | 1 => at' 4096 1024
  | 2 => at' 8192 1356
  | _ => at' 1024 0

/-- The true GPS time at the instant, ns. -/
def measTrue (m : MeasIn) : Nat := fullWeek m.weekSig m.week * weekNs + m.tow

/-- The course of the solution (R257). -/
def measCourse (m : MeasIn) (g : Nat) : Nat :=
  if m.vel.1 = 0 ∧ m.vel.2.1 = 0 then Config.noCourse g else courseOf m.vel.1 m.vel.2.1

/-- The way the machine faces at a solution: by the baseline's heading where it is valid, else by the course. -/
def measFace (m : MeasIn) (heading : Bool) (g : Nat) (x : Gnb) : Rat × Rat :=
  if heading then faceOf x ((m.heading : Rat) / 1000000)
  else
    let c : Rat := (measCourse m g : Rat) / 1000000
    (sinRat c, cosRat c)

/-- ANT1 east, north and up in the local frame, mm (R257): the origin is ORG_LAT, ORG_LON, ORG_HGT. -/
def antLocal (m : MeasIn) (x : Gnb) : Vec :=
  let o (i : Nat) : Rat := (sint (x.word i) : Rat)
  localOf (o 19 / 10000000) (o 20 / 10000000) (o 21 / 1000) ((m.lat : Rat) / 10000000000) ((m.lon : Rat) / 10000000000)
    ((m.hgt : Rat) / 1000000)

/-- The control point east, north and up, mm: ANT1 and the lever arm between the two (DEDUCED, log 185). -/
def cpLocal (m : MeasIn) (heading : Bool) (g : Nat) (x : Gnb) : Vec :=
  (antLocal m x).add (enuOf (measFace m heading g x) (x.cpLever.sub (x.antLever false)))

/-- A quantity as a signed word. -/
def ratWord (q : Rat) : Word := wordOfInt (sat32 (openInt q))

/-- The entries of a solution (R257). -/
def solEntries (m : MeasIn) (g : Nat) (s : State) : List (Nat × Word) :=
  let t := s.gpsNs g
  let x := s.gnb.sol
  let p := antLocal m s.gnb
  let cp := cpLocal m x.heading g s.gnb
  let fig (i : Nat) : Nat × Word := (i, Tab.get 0 m.figures i)
  [ (0x200, wordOf (x.type + satTo m.sats 255 * 256 + s.gnb.aid * 65536 + oneIf x.heading * 2 ^ 24)),
    (0x201, ratWord ((m.lat : Rat) / 1000)), (0x202, ratWord ((m.lon : Rat) / 1000)),
    (0x203, ratWord ((m.hgt : Rat) / 1000)),
    (0x204, ratWord p.x), (0x205, ratWord p.y), (0x206, ratWord p.z),
    (0x207, wordOfInt (sat32 m.vel.1)), (0x208, wordOfInt (sat32 m.vel.2.1)), (0x209, wordOfInt (sat32 m.vel.2.2)),
    (0x20A, wordOf ((measCourse m g))) ] ++
  (if x.heading then [(0x20B, wordOf m.heading)] else []) ++
  [ (0x20C, wordOf m.baseline), (0x20D, wordOfInt (sat32 m.pitch)), fig 0x20E, fig 0x20F, fig 0x210,
    (0x211, wordOf (satTo ((corrAge s g).getD max32) max32)), (0x212, wordOf (trackedSats s)),
    (0x213, wordOf (t / weekNs)),
    (0x214, wordOf (t % weekNs / 1000000)), (0x215, wordOf (s.gnb.tmap.uncAtGts g)), fig 0x216,
    (0x217, ratWord cp.x), (0x218, ratWord cp.y), (0x219, ratWord cp.z), fig 0x21A, (0x21B, wordOf (countCh s .coast)),
    fig 0x21C ]

/-- The solution of a measurement instant: its type, heading and entries (R256, R257). A second does not
publish its own (R265). -/
def solve (m : MeasIn) (g : Nat) (s : State) : State :=
  let old := s.gnb.sol
  let type := solType m s
  let heading := m.baseFixed && baselineFits s.gnb m.baseline && type != 0
  let good := decide (2 ≤ type) && decide (type ≤ 5)
  let face := measFace m heading g s.gnb
  let s := { s with
    gnb.sol := {
      type := type, heading := heading, goodT := if good then some (g / tickLen) else old.goodT, baseline := m.baseline
      vel := if good then m.vel else old.vel, face := if type = 0 then old.face else face }
    gnb.imuVel := if good then imuFrom m.vel face s else s.gnb.imuVel }
  let s := if type = old.type then s else raiseAt g 354 1 (old.type * 16 + type) s
  let s := if heading = old.heading then s
    else raiseAt g 355 (if heading then 1 else 2) (m.baseline % 65536) s
  if s.rtl.role = .second then s
  else
    let vis := g + 1 + (Config.solWork (g / tickLen)).val
    (solEntries m g s).foldl (fun s e => publishLate vis e.1 e.2 g s) s

/-- The mapping at a measurement instant (R261). -/
def tmapInstant (m : MeasIn) (g : Nat) (s : State) : State :=
  let st := s.gnb.tmap.st
  let type := s.gnb.sol.type
  if !trackEphemeris s then
    if st = .locked ∨ st = .slew then gnssLost (tmapHold g s) else s
  else if 1 ≤ type ∧ type ≤ 5 then tmapFix g (measTrue m) m.tunc m.rate s
  else s

/-- The block is formed, and the marks since the previous one start anew. -/
def measBegin (s : State) : State :=
  { s with gnb.stepped := false, gnb.ch := s.gnb.ch.map fun e => (e.1, { e.2 with slip := false }) }

/-- The tick's work at a measurement instant: solution, mapping and block. -/
def measWork (m : MeasIn) (g : Nat) (s : State) : State :=
  measBegin (measOut g (tmapInstant m g (solve m g (corrCheck g s))))

/-- MEASUREMENT_INSTANT: the boundary of a tick with T mod MEAS_DIV = 0 (R252). Where the tick's work overruns it
commits nothing: no solution, no change of the mapping and no block, and SOL_SKIP counts (R28, R256; DEDUCED, log 186).
-/
def measurementInstant (m : MeasIn) (s : State) : State :=
  let t := s.t
  let g := boundaryOf t
  if s.gnb.state ≠ .run ∨ s.gnb.measDiv = 0 ∨ t % s.gnb.measDiv ≠ 0 ∨ s.gnb.measT = some t then s
  else
    let s := { s with gnb.measT := some t }
    navInstant g (if s.overruns .gnss then { s with gnb.solSkip := countUp s.gnb.solSkip max32 } else measWork m g s)

end Sys2Proof.Machine
end

