-- ==== Sys2Proof/Machine/GnssOps.lean ====
section
/-!
DEFINITION. GNB: ring operations, block states, the tick's work, the rope team, Bivouac's stores,
registers and commands (spec/09_gnss_baseband.md, R259, R260, R265 to R272).
-/

namespace Sys2Proof.Machine

/-! ### Configuration (R271) -/

/-- The listed bits of the configuration words (R8, R271). -/
def gnbCfgMask (i : Nat) : Word :=
  match i with
  | 0 => 0xC000_07FF | 1 => 0x0000_07FF | 2 => 0x03FF_00FF | 4 => 0x03FF_FFFF | 7 => 0x0000_000F
  | 9 => 0x7FFF_FFFF | 22 => 0xFFFF_8000 | 24 => 0xC3FF_007F | 25 => 0x0000_FFFF | 26 => 0xFFFF_00FF
  | _ => if i ≤ 27 then 0xFFFF_FFFF else 0

/-- The first fault of a configuration in rising order of words: reason and word (R271). -/
def gnbFault (ws : List Word) : Option (Nat × Nat) :=
  let g : Gnb := { cfg := ws }
  let w (i hi lo : Nat) := bitsOf (g.word i) hi lo
  let checks : List (Nat × Nat × Bool) :=
    [ (2, 1, sigNumbers.all fun k => !g.sigEn true k || ant2Signals.contains k),
      (1, 2, [10, 20, 50, 100, 200, 1000].contains g.measDiv && within 0 60 g.elevMask),
      (1, 3, within 12 35 g.cn0Loss && within 15 45 (w 3 23 16) && within 0 10000 g.coastT),
      (1, 4, within 0 2 g.aidMode && within 1 100 g.aidTmo && within 100 6000 g.corrTmo),
      (1, 22, within 1 200 g.ppsW), (1, 23, within (-100000) 100000 g.ppsOfs),
      (1, 24, within 1 1000 g.tpDiv && within 1 99 g.tpW), (1, 25, within 0 10000 g.drT),
      (1, 26, within 1 1000 g.bivRadius && within 1 60 g.bivPeriod),
      (1, 27, within 10 250 (w 27 31 24) && within 10 250 (w 27 23 16) && within 10 5000 (w 27 15 0)) ]
  (checks.find? fun e => !e.2.2).map fun e => (e.1, e.2.1)

/-- A SCHEMA refusal. -/
def gnbSchema (c : OpRef) (xfer reason word : Nat) (s : State) : State :=
  failOp c stSchema xfer (gnbErr c.op.opcode reason word s)

/-- CFG_LOAD. -/
def gnbCfgLoad (c : OpRef) (s : State) : State :=
  needBuffer c s fun s =>
    if c.op.len ≠ 128 then failOp c stLen 0 s
    else if s.gnb.state = .run then failOp c stBusy 0 s
    else readWhole 0x25 c s fun bs s =>
      let ws := maskWords gnbCfgMask (leWords 32 bs)
      match gnbFault ws with
      | some (reason, w) => gnbSchema c 128 reason w s
      | none => finishOp c stOk 128 0 0 { s with gnb.cfg := ws, gnb.state := .loaded }

/-! ### START and STOP (R268, R270) -/

/-- START. -/
def gnbStart (c : OpRef) (s : State) : State :=
  let v := c.op.word64 6
  if v ≠ 0 ∧ v ≤ s.t then failOp c stLate 0 s
  else if s.gnb.state ≠ .loaded ∨ !s.gnb.en then failOp c stBusy 0 s
  else
    let t := startTick s v
    finishOp c stOk 0 (wordOf t) 0 { s with gnb.startT := some t }

/-- A stop at the next tick boundary. -/
def gnbStopNow (s : State) : State :=
  if s.gnb.state = .run then { s with gnb.stopT := some (s.gnb.stopT.getD (s.t + 1)) }
  else { s with gnb.startT := none }

/-- STOP. -/
def gnbStop (c : OpRef) (s : State) : State :=
  if s.gnb.state ≠ .run then failOp c stBusy 0 s else startOp c [] (gnbStopNow s)

/-- The stop boundary `b`: LOADED, every channel IDLE, the mapping held with no step to come, the STOP posted. -/
def gnbHalt (b : Nat) (s : State) : State :=
  let s := sweepCh (fun _ => true) .idle { s with gnb.state := .loaded, gnb.stopT := none }
  let st := s.gnb.tmap.st
  let s := if st = .locked ∨ st = .slew then gnssLost (tmapHold b s) else gnssLost { s with gnb.tmap.step := none }
  (s.opsOf 8 0 (isStarted 3)).foldl (fun s c => finishOp c stOk 0 (wordOf (b / tickLen)) 0 s) s

/-! ### Assistance (R270) -/

/-- Records of 64 bytes. -/
def records64 : Nat → List Byte → List (List Byte)
  | 0, _ => []
  | n + 1, bs => bs.take 64 :: records64 n (bs.drop 64)

/-- Byte `i` of a record. -/
def byteAt (bs : List Byte) (i : Nat) : Nat := (bs.getD i 0).toNat

/-- The record has a kind that the module uses. -/
def assistKnown (r : List Byte) : Bool := within 1 4 (byteAt r 0)

/-- A record is taken; ephemeris serves its satellite. -/
def assistTake (s : State) (r : List Byte) : State :=
  let kind := byteAt r 0
  let sig := byteAt r 1
  let sv := byteAt r 2
  let s := { s with gnb.assist := Tab.put s.gnb.assist (kind * 65536 + sig * 256 + sv) (r.drop 8) }
  if kind = 1 then noteEphemeris sig sv (keepPart sig sv 255 (r.drop 8) s) else s

/-- ASSIST_PUT. -/
def assistPut (c : OpRef) (s : State) : State :=
  needBuffer c s fun s =>
    let n := c.op.len / 64
    if c.op.len % 64 ≠ 0 ∨ 512 < n then failOp c stLen 0 s
    else readWhole 0x25 c s fun bs s =>
      let rs := records64 n bs
      if rs.any fun r => (r.drop 3).take 5 != zeros 5 then gnbSchema c c.op.len 3 0 s
      else
        let used := rs.filter assistKnown
        finishOp c stOk c.op.len (wordOf used.length) (wordOf (n - used.length)) (used.foldl assistTake s)

/-! ### Snapshots (R267, R270) -/

/-- SNAP_LIST. -/
def snapList (c : OpRef) (s : State) : State :=
  needBuffer c s fun s =>
    if c.op.len ≠ 1024 then failOp c stLen 0 s
    else
      let newest := s.biv.area.reverse
      let bs := newest.flatMap fun x => leBytes 4 x.serial ++ leBytes 4 x.pcc
      let last := match newest with
        | [] => Config.noSnapshot
        | x :: _ => wordOf x.serial
      writeOut 0x25 c (fitBytes 1024 bs) (wordOf newest.length) last s

/-- SNAP_READ. -/
def snapRead (c : OpRef) (s : State) : State :=
  needBuffer c s fun s =>
    if c.op.len ≠ 32832 then failOp c stLen 0 s
    else match s.biv.area.find? fun x => wordOf x.serial == c.op.word 6 with
      | none => gnbSchema c 0 1 0 s
      | some x => writeOut 0x25 c (fitBytes 32832 x.bytes) (c.op.word 6) 0 s

/-- A snapshot of 8 ms goes to the snapshot area; its SERIAL. -/
def takeSnapshot (gpsNs tunc : Nat) (temp : Int) (samples : List Byte) (s : State) : State :=
  let n := s.biv.serial
  let (lat, lon, hgt) := match s.biv.predict with
    | some p => (p.lat, p.lon, p.hgt)
    | none => (Config.noParked 0, Config.noParked 1, Config.noParked 2)
  let bytes := leBytes 4 n ++ leBytes 4 s.tick.pcc ++ leBytes 8 gpsNs ++ leBytes 4 (satTo tunc max32) ++
    leBytes 4 (Config.ifHz n).toNat ++ leBytes 4 16384000 ++ leBytes 2 (wordOfInt temp).toNat ++ zeros 2 ++
    leBytes 4 lat.toNat ++ leBytes 4 lon.toNat ++ leBytes 4 hgt.toNat ++ zeros 20 ++ fitBytes 32768 samples
  let area := s.biv.area ++ [{ serial := n, pcc := s.tick.pcc, bytes := bytes }]
  raise 361 2 n { s with biv := { s.biv with
    serial := inc32 n, area := area.drop (area.length - 128), snaps := countUp s.biv.snaps 0xFFFF } }

/-- The prediction store at Descent entry (R266): from the last Run solution. Run ends, and the counts of GNB_BIV_STAT
start anew (R267). -/
def gnbStore (s : State) : State :=
  let e (i : Nat) := s.signalAt s.gts i
  let p : Option Predict :=
    if (e 0x201).2 = 0 then s.biv.predict
    else some {
      time := s.gpsNs s.gts, lat := (e 0x201).1, lon := (e 0x202).1, hgt := (e 0x203).1, ephem := s.gnb.ephem
      parts := s.gnb.parts }
  let loaded := s.gnb.state != .empty
  { s with biv := { s.biv with
    predict := p, bursts := 0, snaps := 0, radius := if loaded then s.gnb.bivRadius else s.biv.radius
    period := if loaded then s.gnb.bivPeriod else s.biv.period } }

/-- Bivouac begins. -/
def bivBegin (s : State) : State :=
  { s with biv := { s.biv with phase := .idle, starts := [], wait := s.biv.period, failed := 0, far := 0 } }

/-- What a burst starts from (R266): signals 0 and 3 of the satellites whose ephemeris the prediction store holds, at
the code phase and Doppler predicted from ephemeris, position and time. -/
def burstStarts (p : Predict) : List BurstStart :=
  p.ephem.filterMap fun e =>
    if e.1 = 0 ∨ e.1 = 1 then
      let sig := 3 * e.1
      let parts := p.parts.filter fun x => x.1 / 256 == e.1 * 256 + e.2
      let (c, d) := Config.predicted parts [p.lat, p.lon, p.hgt] p.time sig e.2
      some { sig := sig, sv := e.2, code := c, dop := d }
    else none

/-- A burst or snapshot begins: the warden powers PD7 for it. A burst starts from the predictions. -/
def bivCapture (burst : Bool) (s : State) : State :=
  let s := s.setPd 7 true
  { s with
    biv.phase := if burst then .burst else .snapshot
    biv.starts := if burst then (s.biv.predict.map burstStarts).getD [] else [] }

/-- PD7 is off again after a burst or snapshot. -/
def bivOver (s : State) : State :=
  let s := s.setPd 7 false
  { s with biv.phase := .idle, biv.starts := [] }

/-- The end of a burst (R266): a fix of four or more satellites at `distance` m from the parked position, or a
failed burst. -/
def bivFix (sats distance gpsNs : Nat) (s : State) : State :=
  let x := s.biv
  let x := { x with phase := .idle, bursts := countUp x.bursts 0xFFFF }
  if sats < 4 then
    let s := { s with biv := { x with failed := x.failed + 1, far := 0 } }
    if s.biv.failed = 10 then
      raiseEv { gts := s.gts, src := 361, code := 4, data := Config.failedBurstData s.biv.bursts }
        { s with biv.failed := 0 }
    else s
  else
    let far := if x.radius < distance then x.far + 1 else 0
    let s := raise 361 1 distance { s with biv := { x with
      failed := 0, far := far, predict := x.predict.map fun p => { p with time := gpsNs } } }
    if far = 2 then raise 361 3 distance s else s

/-! ### Corrections (R259) -/

/-- CRC-24Q of bytes. -/
def crc24 (bs : List Byte) : Nat :=
  bs.foldl (fun c b => (List.range 8).foldl (fun c _ => crc24Bit c) (c ^^^ (b.toNat * 65536))) 0

/-- The number that big-endian bytes spell. -/
def beNat (bs : List Byte) : Nat := bs.foldl (fun n b => n * 256 + b.toNat) 0

/-- A part of a CORR_PUT buffer: a whole frame that passed, with its bytes, or that failed, or bytes that are none. -/
inductive Rtcm where
  | frame (bytes : List Byte)
  | rejected
  | loose
deriving DecidableEq, Repr

/-- The bytes are cut into frames. What stands before the next preamble, and what a frame cut short leaves, is no frame.
-/
def cutFrames : Nat → List Byte → List Rtcm
  | 0, _ => []
  | _ + 1, [] => []
  | fuel + 1, b :: r =>
    if b ≠ 0xD3 then .loose :: cutFrames fuel (r.dropWhile fun x => x != 0xD3)
    else
      let n := 6 + beNat ((b :: r).drop 1 |>.take 2) % 1024
      let f := (b :: r).take n
      if f.length < n ∨ n < 6 then [.loose]
      else if crc24 (f.take (n - 3)) = beNat (f.drop (n - 3)) then .frame f :: cutFrames fuel ((b :: r).drop n)
      else .rejected :: cutFrames fuel ((b :: r).drop n)

/-- The parts, with everything after the last whole frame as one (R270). What stands between whole frames counts as a
rejected frame as well (DEDUCED, log 191). -/
def cutRtcm (fuel : Nat) (bs : List Byte) : List Rtcm :=
  let fs := cutFrames fuel bs
  let whole := fs.reverse.dropWhile (· == .loose)
  if whole.length < fs.length then whole.reverse ++ [.loose] else fs

/-- The message number of a frame: the first 12 bits of its payload. -/
def rtcmNumber (f : List Byte) : Nat := if f.length < 8 then 0 else beNat ((f.drop 3).take 2) / 16

/-- The messages in use (R259). -/
def rtcmUsed : List Nat := [1005, 1006, 1033, 1074, 1075, 1077, 1094, 1095, 1097, 1124, 1125, 1127]

/-- The MSM messages. -/
def isMsm (k : Nat) : Bool := rtcmUsed.contains k && decide (1074 ≤ k)

/-- The epoch of an MSM frame, ms of the GPS week; BeiDou time is 14 s behind GPS time. -/
def msmEpoch (f : List Byte) : Nat :=
  let ms := beNat ((f.drop 6).take 4) / 4
  if 1124 ≤ rtcmNumber f then (ms + 14000) % 604800000 else ms

/-- The epoch as a GTS: the instant nearest to now with that time of week; now where there is no mapping. -/
def epochGts (ms : Nat) (s : State) : Nat :=
  match s.gpsAt s.gts with
  | none => s.gts
  | some q =>
    let now : Int := (q / 1000000).floor
    let week : Int := 604800000
    let back : Int := (now - ms + week / 2) % week - week / 2
    ((s.gts : Int) - back * 400000).toNat

/-- A frame that passed is put to use. -/
def rtcmTake (s : State) (f : List Byte) : State :=
  let k := rtcmNumber f
  if !rtcmUsed.contains k then s
  else
    let s := { s with gnb.corr := Tab.put s.gnb.corr k f }
    if !isMsm k then s
    else
      let g := epochGts (msmEpoch f) s
      let s := { s with gnb.corrAt := some (max g (s.gnb.corrAt.getD 0)) }
      match corrAge s s.gts with
      | none => s
      | some a =>
        if !s.gnb.corrUse && !corrOld s s.gts then
          raise 359 1 (satTo a max32) { s with gnb.corrUse := true }
        else s

/-- CORR_PUT. -/
def corrPut (c : OpRef) (s : State) : State :=
  needBuffer c s fun s =>
    if c.op.len < 6 ∨ 65536 < c.op.len then failOp c stLen 0 s
    else if s.gnb.state ≠ .run then failOp c stBusy 0 s
    else readWhole 0x25 c s fun bs s =>
      let fs := cutRtcm bs.length bs
      let good := fs.filterMap fun x => match x with
        | .frame f => some f
        | .rejected | .loose => none
      let bad := fs.length - good.length
      let s := good.foldl rtcmTake { s with
        gnb.corrOk := satTo (s.gnb.corrOk + good.length) 0xFFFF
        gnb.corrBad := satTo (s.gnb.corrBad + bad) 0xFFFF }
      finishOp c stOk c.op.len (wordOf good.length) (wordOf bad) s

/-! ### The tick's work -/

/-- A new band level takes effect (R265). -/
def bandTick (b : Nat) (s : State) : State :=
  match s.gnb.bandNext with
  | none => s
  | some l =>
    let s := { s with gnb.bandNext := none }
    if l = s.gnb.band then s
    else sweepCh (fun x => !bandKeeps l x.sig) .idle (raiseAt b 363 1 l { s with gnb.band := l })

/-- A start to come takes effect. -/
def startTickGnb (b : Nat) (s : State) : State :=
  match s.gnb.startT with
  | none => s
  | some t =>
    if t ≤ b / tickLen then
      { s with gnb.startT := none, gnb.state := .run, gnb.examT := none, gnb.measT := none }
    else s

/-- The channels at boundary `b` (R250): the tick that ended, whose aid steered from phase `p`, and what their
correlators gave. -/
def channelsTick (b p : Nat) (corr : List CorrOut) (s : State) : State :=
  let held := s.overruns .gnss
  { s with gnb.ch := s.gnb.ch.map fun e =>
    (e.1, if e.2.st = .idle ∨ e.2.st = .search then e.2
      else e.2.tick b p held (corr.find? fun c => c.chan.val == e.1) s) }

/-- The work of boundary `b`. The band level, a start and a stop are the block's own; where the tick's work overruns,
the aiding state and the rates of the NCOs stay (R28, R250). -/
def gnbTick (b : Nat) (corr : List CorrOut) (s : State) : State :=
  let p := aidPhase s.gnb.aid
  let s := bandTick b s
  let s := if s.gnb.stopT.isSome then gnbHalt b s else startTickGnb b s
  let s := { s with gnb.spacingNow := s.gnb.spacing }
  let s := if s.overruns .gnss then s else imuPropagate b (aidTick b s)
  channelsTick b p corr s

/-- PD7 off, or a time base start (R268). -/
def gnbReset (s : State) : State := { s with gnb := {} }

/-- The governor's band level (R265). -/
def setBand (l : Nat) (s : State) : State :=
  if s.gnb.bandNext.getD s.gnb.band = l then s else { s with gnb.bandNext := some l }

/-- The lead's replicated mapping comes into use on a second (R265). -/
def leadMapping (q : LeadMap) (s : State) : State :=
  let was := s.gnb.tmap.lead.isSome
  let s := { s with gnb.tmap.lead := some q }
  if was then s else raise 362 1 (s.t % 2 ^ 24) s

/-! ### Registers -/

/-- GNB_CTL written. -/
def gnbCtlWrite (v : Word) (s : State) : State :=
  let s := { s with gnb.en := bitOf v 31 }
  if bitOf v 31 then s else gnbStopNow s

/-- GNB_TMAP_STAT. -/
def tmapStat (m : Tmap) : Word :=
  wordOf (m.st.code * 2 ^ 30 + oneIf (m.st == .holdover) * 2 ^ 29 + oneIf m.lead.isSome * 2 ^ 28 + m.count)

/-- The words of the mapping set behind G0's low word, by offset (R260). -/
def tmapSet (s : State) : Tab Word :=
  let m := s.gnb.tmap
  let tow := m.pubT % weekNs
  [ (0x34, wordOf (m.pubG / 2 ^ 32)), (0x38, wordOf tow), (0x3C, wordOf (tow / 2 ^ 32)),
    (0x40, wordOf (m.pubT / weekNs)), (0x44, wordOfInt (sat32 m.pubRate)), (0x48, wordOf m.pubUnc),
    (0x4C, wordOfInt (sat32 m.pubResid)) ]

/-- A read of the mapping set: G0's low word latches the rest of it (R260). -/
def tmapRead (a : Access) (off : Nat) (s : State) : Word × State :=
  let b := windowBase 8
  if off = 0x30 then
    (wordOf s.gnb.tmap.pubG, (tmapSet s).foldl (fun s e => s.latch a (b + e.1) e.2) s)
  else shadowed a (b + off) (Tab.get 0 (tmapSet s) off) s

/-- GNB_CORR_SPACING of signal `k`. -/
def State.spacing (s : State) (k : Nat) : Word := Tab.get (0x2010_F006 : Word) s.gnb.spacing k

/-- GNB_CH_STATE. -/
def chStateWord (x : GnbCh) : Word :=
  if x.st = .idle then 0
  else wordOf (x.st.code * 2 ^ 28 + x.sig * 2 ^ 24 + x.sv % 256 * 65536 + oneIf x.ant2 * 32768 + satTo x.cn0 0x7FFF)

/-- A read of the GNB window. -/
def gnbRead (a : Access) (off : Nat) (s : State) : Word × State :=
  let g := s.gnb
  if off = 0x00 then (wordOf (oneIf g.en * 2 ^ 31 + s.rtl.role.code * 2 ^ 28 + g.band), s)
  else if off = 0x04 then
    (wordOf (g.state.code * 2 ^ 28 + g.aid * 2 ^ 26 + g.sol.type * 2 ^ 23 + oneIf g.sol.heading * 2 ^ 22), s)
  else if off = 0x08 then (g.errLast, s)
  else if off = 0x0C then (g.antCtl, s)
  else if off = 0x10 then
    (wordOf (g.ant2.st * 2 ^ 30 + g.ant2.mA * 65536 + g.ant1.st * 2 ^ 14 + g.ant1.mA), s)
  else if off = 0x14 then (wordOf (countCh s .track * 65536 + countCh s .coast), s)
  else if off = 0x18 then (rclRead g.solSkip, { s with gnb.solSkip := 0 })
  else if off = 0x1C then (rclRead g.navFail, { s with gnb.navFail := 0 })
  else if off = 0x20 then (wordOf (satTo ((corrAge s s.gts).getD max32) max32), s)
  else if off = 0x24 then
    (wordOf (g.corrOk * 65536 + g.corrBad), { s with gnb.corrOk := 0, gnb.corrBad := 0 })
  else if off = 0x28 then (Config.weekFloor, s)
  else if off = 0x2C then (wordOf (s.biv.bursts * 65536 + s.biv.snaps), s)
  else if 0x30 ≤ off ∧ off ≤ 0x4C then tmapRead a off s
  else if off = 0x50 then (tmapStat g.tmap, s)
  else if off = 0x60 then (wordOf g.chSel, s)
  else if off = 0x64 then (chStateWord (s.gch g.chSel), s)
  else if 0x100 ≤ off ∧ off < 0x12C then (s.spacing ((off - 0x100) / 4), s)
  else (0, s)

/-- A write to the GNB window. -/
def gnbWrite (off : Nat) (v : Word) (s : State) : State :=
  if off = 0x00 then gnbCtlWrite v s
  else if off = 0x0C then antCtlWrite v s
  else if off = 0x60 then { s with gnb.chSel := bitsOf v 7 0 }
  else if 0x100 ≤ off ∧ off < 0x12C then spacingWrite ((off - 0x100) / 4) v s
  else s

/-! ### Commands -/

/-- ANTENNA_STATE_CHANGE. -/
def execAntennaStateChange (ant2 : Bool) (mA : Nat) (short : Bool) (s : State) : Out :=
  whileOn 7 s (antennaChange ant2 mA short)

/-- ANTENNA_RETRY. -/
def execAntennaRetry (ant2 : Bool) (s : State) : Out := whileOn 7 s (antennaRetry ant2)

/-- CHANNEL_REEXAMINE. -/
def execChannelReexamine (cands : List Cand) (s : State) : Out := whileOn 7 s (reexamine cands)

/-- CHANNEL_DETECTION. -/
def execChannelDetection (c : Fin 256) (code : Nat) (dop : Int) (s : State) : Out :=
  whileOn 7 s (channelDetection c.val code dop)

/-- SEARCH_TIMEOUT. -/
def execSearchTimeout (c : Fin 256) (s : State) : Out := whileOn 7 s (searchTimeout c.val)

/-- PULL_IN_LOCK. -/
def execPullInLock (c : Fin 256) (s : State) : Out := whileOn 7 s (pullInLock c.val)

/-- PULL_IN_TIMEOUT. -/
def execPullInTimeout (c : Fin 256) (s : State) : Out := whileOn 7 s (pullInTimeout c.val)

/-- TRACK_SIGNAL_LOSS. -/
def execTrackSignalLoss (c : Fin 256) (s : State) : Out := whileOn 7 s (trackLoss c.val)

/-- COAST_REACQUIRE. -/
def execCoastReacquire (c : Fin 256) (phase : Int) (s : State) : Out := whileOn 7 s (coastReacquire c.val phase)

/-- COAST_TIMEOUT. -/
def execCoastTimeout (c : Fin 256) (s : State) : Out := whileOn 7 s (coastTimeout c.val)

/-- GNB_CORR_SPACING written. -/
def execCorrSpacingWrite (a : Access) (k : Fin 11) (v : Word) (s : State) : Out :=
  .next (gateWrite a 8 7 s (spacingWrite k.val v))

/-- MEASUREMENT_INSTANT. -/
def execMeasurementInstant (m : MeasIn) (s : State) : Out := whileOn 7 s (measurementInstant m)

/-- NAV_MESSAGE. -/
def execNavMessage (m : NavIn) (s : State) : Out := whileOn 7 s (navMessage m)

/-- PPS_EDGE. -/
def execPpsEdge (s : State) : Out := whileOn 7 s ppsEdge

/-- SLEW_COMPLETE. -/
def execSlewComplete (s : State) : Out := whileOn 7 s slewComplete

/-- TIME_STEP. -/
def execTimeStep (s : State) : Out := whileOn 7 s timeStep

/-- CFG_LOAD of GNB. -/
def execGnbCfgLoad (n : Fin 32) (s : State) : Out := .next (takeOp 8 0 1 .serial n.val gnbCfgLoad s)

/-- START of GNB. -/
def execGnbStart (n : Fin 32) (s : State) : Out := .next (takeOp 8 0 2 .serial n.val gnbStart s)

/-- STOP of GNB. -/
def execGnbStop (n : Fin 32) (s : State) : Out := .next (takeOp 8 0 3 .serial n.val gnbStop s)

/-- ASSIST_PUT. -/
def execAssistPut (n : Fin 32) (s : State) : Out := .next (takeOp 8 0 4 .serial n.val assistPut s)

/-- SNAP_LIST. -/
def execSnapList (n : Fin 32) (s : State) : Out := .next (takeOp 8 0 5 .serial n.val snapList s)

/-- SNAP_READ. -/
def execSnapRead (n : Fin 32) (s : State) : Out := .next (takeOp 8 0 6 .serial n.val snapRead s)

/-- CORR_PUT. -/
def execCorrPut (n : Fin 32) (s : State) : Out := .next (takeOp 8 1 0x10 .serial n.val corrPut s)

/-- MEAS_BUF. -/
def execMeasBuf (n : Fin 32) (s : State) : Out := .next (takeOp 8 2 0x20 .parallel n.val (poolCheck 8256) s)

/-- NAV_BUF. -/
def execNavBuf (n : Fin 32) (s : State) : Out := .next (takeOp 8 3 0x21 .parallel n.val (poolCheck 4096) s)

/-- GNB_CTL written. -/
def execGnbCtlWrite (a : Access) (v : Word) (s : State) : Out := .next (gateWrite a 8 7 s (gnbCtlWrite v))

end Sys2Proof.Machine
end

