-- ==== Sys2Proof/Machine/Yield.lean ====
section
/-!
DEFINITION. The yield service: sensing, the cut history, delay and attribution, the record of a second, and
tasks (spec/11_yield_and_fleet.md, R290 to R303).
-/

namespace Sys2Proof.Machine

/-! ### Configuration fields (R305) -/

def Yld.word (y : Yld) (i : Nat) : Word := y.cfg.getD i 0
def Yld.flowIdx (y : Yld) : Nat := bitsOf (y.word 0) 25 16
def Yld.elevIdx (y : Yld) : Nat := bitsOf (y.word 0) 9 0
def Yld.moistIdx (y : Yld) : Nat := bitsOf (y.word 1) 25 16
def Yld.hdrIdx (y : Yld) : Nat := bitsOf (y.word 1) 9 0
def Yld.hdrPol (y : Yld) : Bool := bitOf (y.word 2) 31
def Yld.zero (y : Yld) : Nat := bitsOf (y.word 2) 15 0
def Yld.gain (y : Yld) : Nat := (y.word 3).toNat
def Yld.elevMin (y : Yld) : Nat := bitsOf (y.word 4) 31 16
def Yld.fullPct (y : Yld) : Nat := bitsOf (y.word 4) 7 0
def Yld.elevRef (y : Yld) : Nat := (y.word 5).toNat
def Yld.dlyMax (y : Yld) : Nat := bitsOf (y.word 6) 31 16
def Yld.dlyMin (y : Yld) : Nat := bitsOf (y.word 6) 15 0
def Yld.dlyInit (y : Yld) : Nat := bitsOf (y.word 7) 31 16
def Yld.spread (y : Yld) : Nat := bitsOf (y.word 7) 15 0
def Yld.flowMin (y : Yld) : Nat := bitsOf (y.word 8) 31 16
def Yld.hdrLevel (y : Yld) : Nat := bitsOf (y.word 8) 15 0
def Yld.moistMax (y : Yld) : Nat := bitsOf (y.word 9) 31 16
def Yld.moistMin (y : Yld) : Nat := bitsOf (y.word 9) 15 0
def Yld.tankCap (y : Yld) : Nat := (y.word 10).toNat

/-- The DDIs of YIELD, MOIST, mass flow, WIDTH, SPEED and CONF. -/
def Yld.ddis (y : Yld) : List Nat :=
  [11, 12, 13].flatMap fun i => [bitsOf (y.word i) 31 16, bitsOf (y.word i) 15 0]

/-- YIELD. -/
def yieldEvent (code data g : Nat) (s : State) : State := raiseAt g 27 code data s

/-! ### Sensing (R290, R291) -/

/-- The service senses: in RUN, and on a second in LOADED (R303). -/
def sensing (s : State) : Bool :=
  s.yld.state == .run || (s.yld.state == .loaded && s.rtl.role == .second)

/-- The signal is at most 50 ticks old at `g`: its value. -/
def freshSignal (s : State) (g i : Nat) : Option Int :=
  let e := s.signalAt g i
  if g ≤ e.2 + 50 * tickLen then some (sint e.1) else none

/-- F_T, with the mark ELEV_SLOW; sh rounds half up (R94). -/
def grainFlow (s : State) (g : Nat) : Rat × Bool :=
  let y := s.yld
  match freshSignal s g y.flowIdx, freshSignal s g y.elevIdx with
  | some code, some e =>
    if e * 100 < (y.elevMin * y.elevRef : Nat) then (0, true)
    else
      let f := max 0 (sh ((code - y.zero) * y.gain) 16)
      ((f : Rat) * (y.elevRef : Rat) / (e : Rat), false)
  | _, _ => (0, true)

/-- The tick's moisture, where it is valid. -/
def tickMoisture (s : State) (g : Nat) (f : Rat) : Option Int :=
  match freshSignal s g s.yld.moistIdx with
  | some m => if (s.yld.moistMin : Int) ≤ m ∧ m ≤ s.yld.moistMax ∧ (s.yld.flowMin : Rat) ≤ f then some m else none
  | none => none

/-- The header is up. -/
def headerUp (s : State) (g : Nat) : Bool :=
  match freshSignal s g s.yld.hdrIdx with
  | some h => if s.yld.hdrPol then decide ((s.yld.hdrLevel : Int) < h) else decide (h < s.yld.hdrLevel)
  | none => false

/-- The running step with one tick more. -/
def YldAcc.add (x : YldAcc) (f : Rat) (slow hdr : Bool) (m : Option Int) : YldAcc :=
  { x with
    f := x.f + f, last := f, slow := x.slow || slow, hdrUp := hdr
    moist := x.moist + (m.map fun v => f * (v : Rat)).getD 0
    moistF := x.moistF + (if m.isSome then f else 0) }

/-- YIELD_SENSE: the sensing of a tick at its phase 50. Where the tick's work overruns, F_T repeats the previous tick's
value (R28, R290; DEDUCED, log 192). -/
def yieldSense (s : State) : State :=
  let t := s.t
  if !s.tick.running ∨ !sensing s ∨ s.yld.sensedT = some t then s
  else s.reach (boundaryOf t + 50 * phaseLen) fun s =>
    let g := boundaryOf t + 50 * phaseLen
    let f := grainFlow s g
    let x := s.yld.acc
    { s with
      yld.acc := if s.overruns .yieldService then x.add x.last false x.hdrUp none
        else x.add f.1 f.2 (headerUp s g) (tickMoisture s g f.1)
      yld.sensedT := some t }

/-! ### The cut history (R293) -/

/-- The instants of the newest releases: this module's own, and the one replicated to it (R235). -/
def lastReleases (l : Lko) : List Nat :=
  (if l.lastGts = 0 then [] else [l.relAt l.lastEpoch]) ++
    (match l.replica with
      | some r => [l.relAt r.epoch]
      | none => [])

/-- No Lookout release has been made in the 80 ticks before `b`. -/
def releaseGap (s : State) (b : Nat) : Bool := (lastReleases s.lko).all fun g => decide (g + 80 * tickLen < b)

/-- The cut history as far as it is known here: on a second, the replica's and the steps sensed since (R303). -/
def knownHist (y : Yld) : Tab YldStep :=
  if y.state = .run then y.hist
  else (match y.replica with
    | some r => r.hist
    | none => []) ++ y.own.map fun e => (e.1, e.2.cut)

/-- Mean mass per metre of the last 60 s. -/
def meanMass (y : Yld) (i : Nat) : Rat :=
  let xs := (knownHist y).filter fun e => decide (i ≤ e.1 + 6000) && !e.2.gap
  if xs.isEmpty then 0 else (xs.map fun e => e.2.m).sum / (xs.length : Rat)

/-- Mass per metre of the strip at the cutter bar at boundary `b`. -/
def massAtBar (s : State) (b : Nat) : Rat :=
  match s.lko.motion.at' b with
  | none => 0
  | some (_, d) => match s.lko.strips.find? fun e => e.1 == stripOf d with
    | none => 0
    | some (_, m) => m

/-- The cutter-bar centre: the antenna's place, moved back by the ANT1 lever arm, rotated by the heading or the course
(R293): latitude, longitude, height as the entries hold them. -/
def cutterBar (lat lon hgt dir : Word) (arm : Vec) : Word × Word × Word :=
  let a : Rat := (dir.toNat : Rat) / 1000000
  let d := enuOf (sinRat a, cosRat a) { x := -arm.x, y := -arm.y, z := -arm.z }
  let (p, l, h) := placeFrom ((sint lat : Rat) / 10000000) ((sint lon : Rat) / 10000000) ((sint hgt : Rat) / 1000) d
  (ratWord (p * 10000000), ratWord (l * 10000000), ratWord (h * 1000))

/-- The step of cutting that ends at boundary `b`. -/
def cutStep (i b : Nat) (s : State) : YldStep :=
  let gap := releaseGap s b
  let m := if gap then meanMass s.yld i else massAtBar s b
  let v := (sint (s.signalAt b 0x258).1).toNat
  let up := s.yld.acc.hdrUp
  let st := (s.signalAt b 0x200).1
  let heading := if bitOf st 24 then (s.signalAt b 0x20B).1 else (s.signalAt b 0x20A).1
  let e (k : Nat) : Word := (s.signalAt b k).1
  let (lat, lon, hgt) := cutterBar (e 0x201) (e 0x202) (e 0x203) heading (s.gnb.antLever false)
  { m := m, c := if up then 0 else m * v / 1000, hdrUp := up, gap := gap
    width := if gap then s.lko.hdrWidth else min s.lko.cutWidth s.lko.hdrWidth
    dist := (v : Rat) / 100, speed := v, lat := lat, lon := lon, hgt := hgt, sol := bitsOf st 3 0 }

/-! ### Attribution (R295) -/

/-- h(L). -/
def kernel (spread d l : Nat) : Nat := let k := (((l : Int) - (d : Int))).natAbs; spread + 1 - k

/-- The cut steps of a sensed step's window with h × c. -/
def window (y : Yld) (i : Nat) : List (Nat × Rat) :=
  (y.hist.filter fun e => decide (e.1 + y.delay ≤ i + y.spread) && decide (i ≤ e.1 + y.delay + y.spread)).map fun e =>
    (e.1, (kernel y.spread y.delay (i - e.1) : Rat) * e.2.c)

/-- The share `a` of a step's mass, and of its moisture, added to a cut step. -/
def takeShare (x : YldStep) (a : Rat) (m : Option Rat) : YldStep :=
  { x with
    attr := x.attr + a
    moist := x.moist + (m.map fun v => a * v).getD 0
    moistMass := x.moistMass + (if m.isSome then a else 0) }

/-- The mass of step `i` divided over the cut steps of its window. -/
def shareOut (i : Nat) (q : Rat) (m : Option Rat) (slow : Bool) (y : Yld) : Yld :=
  let ws := window y i
  let den := (ws.map fun e => e.2).sum
  let y := { y with sensed := y.sensed + q, tank := y.tank + q }
  if den = 0 then
    { y with
      unattrib := y.unattrib + q
      unattSec := some (y.unattSec.getD 0 + q) }
  else
    let share (j : Nat) : Rat := (Tab.get 0 ws j) * q / den
    let secs := ((ws.filter fun e => e.2 != 0).map fun e => e.1 / 100).eraseDups
    { y with
      attrib := y.attrib + q
      hist := y.hist.map fun e => (e.1, if (Tab.find ws e.1).isSome then takeShare e.2 (share e.1) m else e.2)
      secs := secs.foldl (fun t k =>
        let x := Tab.get {} t k
        Tab.put t k { x with slow := x.slow || slow, held := y.held }) y.secs }

/-- Step `i`, as sensed, is divided, and enters the history. -/
def divideStep (i : Nat) (x : YldSensed) (y : Yld) : Yld :=
  let y := shareOut i x.q x.moist x.slow y
  { y with
    hist := Tab.put (y.hist.filter fun e => decide (i < e.1 + 10240)) i x.cut
    qs := Tab.put (y.qs.filter fun e => decide (i < e.1 + 6000)) i x.q
    nextStep := i + 1
    estDue := y.estDue || (i + 1 - y.startStep) % 1000 == 0 }

/-- The mass left unattributed in a second is reported at its end. -/
def reportUnattributed (b : Nat) (s : State) : State :=
  match s.yld.unattSec with
  | none => s
  | some g => yieldEvent 3 (openRat g) b { s with yld.unattSec := none }

/-- Step `i` has been divided: with the last of a second, what the second left unattributed is reported. -/
def stepDone (i : Nat) (s : State) : State :=
  if i % 100 = 99 then reportUnattributed (boundaryOf (10 * (i + 1))) s else s

/-- YIELD_STEP_END: the end of the step before the present tick, at its boundary. -/
def yieldStepEnd (s : State) : State :=
  let t := s.t
  let b := boundaryOf t
  let i := t / 10 - 1
  let y := s.yld
  if !sensing s ∨ t % 10 ≠ 0 ∨ t < 10 ∨ i < y.nextStep then s
  else
    let x : YldSensed := {
      q := y.acc.f / 1000, moist := if y.acc.moistF = 0 then none else some (y.acc.moist / y.acc.moistF)
      slow := y.acc.slow, cut := cutStep i b s }
    let s := { s with yld.acc := { last := y.acc.last, hdrUp := y.acc.hdrUp } }
    if y.state = .run then stepDone i { s with yld := { divideStep i x s.yld with lastQ := some (t, x.q) } }
    else
      { s with
        yld.nextStep := i + 1
        yld.qs := Tab.put (s.yld.qs.filter fun e => decide (i < e.1 + 6000)) i x.q
        yld.own := Tab.put (s.yld.own.filter fun e => decide (i < e.1 + 10)) i x }

/-! ### The delay (R294) -/

/-- The correlation at a lag over the last 6,000 steps. -/
def corrAtLag (y : Yld) (l : Nat) : Rat :=
  let steps := (List.range 6000).map fun (k : Nat) => (y.nextStep : Int) - 6000 + k
  let q (j : Int) : Rat := if j < 0 then 0 else Tab.get 0 y.qs j.toNat
  let c (j : Int) : Rat := if j < 0 then 0 else ((Tab.find y.hist j.toNat).map fun e => e.c).getD 0
  Config.normCorr (steps.map q) (steps.map fun j => c (j - l))

/-- The peak over the lags: ρ_pk and its lag; the lowest of equal ones. -/
def corrPeak (y : Yld) : Rat × Nat :=
  let lags := (List.range (y.dlyMax - y.dlyMin + 1)).map fun k => (corrAtLag y (y.dlyMin + k), y.dlyMin + k)
  lags.tail.foldl (fun m e => if m.1 < e.1 then e else m) (lags.headD (0, y.dlyMin))

/-- ρ × 255 as a byte. -/
def rhoByte (r : Rat) : Nat := openRat (max 0 (min 1 r) * 255)

/-- DELAY_ESTIMATE: every 1,000 steps. -/
def delayEstimate (s : State) : State :=
  let y := s.yld
  if y.state ≠ .run ∨ !y.estDue then s
  else
    let (r, l) := corrPeak y
    let b := boundaryOf (10 * y.nextStep)
    let s := { s with yld.estDue := false, yld.rho := some r, yld.held := decide (r < 1 / 2) }
    if r < 1 / 2 then yieldEvent 2 (rhoByte r) b s
    else if l = y.delay then s
    else yieldEvent 1 l b { s with yld.delay := l }

/-! ### The yield area (R300) -/

/-- Records of a task: in flash and on their way there. -/
def taskRecords (s : State) (x : YldTask) : List (List Byte) :=
  x.recs ++ (s.yld.pend.filter fun e => e.1 == x.id).map fun e => e.2

/-- Records held in the yield area or on their way there. -/
def recordsHeld (s : State) : Nat := (s.yarea.tasks.map fun x => x.recs.length).sum + s.yld.pend.length

/-- The oldest closed task. -/
def oldestClosed (a : YldArea) : Option Nat :=
  (a.tasks.find? fun x => a.openTask != some x.id).map fun x => x.id

/-- A task is deleted. -/
def deleteTask (id : Nat) (s : State) : State :=
  { s with
    yarea.tasks := s.yarea.tasks.filter fun x => x.id != id
    yld.pend := s.yld.pend.filter fun e => e.1 != id }

/-- The oldest closed task makes room. -/
def makeRoom (g : Nat) (s : State) : State :=
  match oldestClosed s.yarea with
  | some id => yieldEvent 6 id g (deleteTask id s)
  | none => yieldEvent 6 0 g s

/-- Room for a record: closed tasks go, the oldest first, until there is room or none remains. -/
def roomFor (g : Nat) : Nat → State → State
  | 0, s => s
  | fuel + 1, s =>
    if recordsHeld s < 67108864 then s
    else if (oldestClosed s.yarea).isNone then makeRoom g s
    else roomFor g fuel (makeRoom g s)

/-- A record goes to the open task. -/
def storeRecord (g : Nat) (r : List Byte) (s : State) : State :=
  match s.yarea.openTask with
  | none => s
  | some id =>
    let s := roomFor g (s.yarea.tasks.length + 1) s
    if recordsHeld s < 67108864 then { s with yld.pend := s.yld.pend ++ [(id, r)] } else s

/-- YIELD_FLASH_WRITE: records on their way reach flash. -/
def yieldFlush (s : State) : State :=
  { s with
    yld.pend := []
    yarea.tasks := s.yarea.tasks.map fun x => { x with recs := taskRecords s x } }

/-! ### The record of a second (R297 to R299) -/

/-- Qp of R299. -/
def solutionFactor (t : Nat) : Rat :=
  match t with
  | 5 => 1 | 4 => 9 / 10 | 3 => 7 / 10 | 2 => 1 / 2 | 6 => 1 / 5
  | _ => 0

/-- The steps of a second. -/
def stepsOf (y : Yld) (k : Nat) : List (Nat × YldStep) := y.hist.filter fun e => e.1 / 100 == k

/-- A mean over steps. -/
def meanOf (xs : List (Nat × YldStep)) (f : YldStep → Rat) : Rat :=
  if xs.isEmpty then 0 else (xs.map fun e => f e.2).sum / (xs.length : Rat)

/-- The record of second `k` (R298). -/
def yieldRecordBytes (k : Nat) (early : Bool) (s : State) : List Byte :=
  let y := s.yld
  let xs := stepsOf y k
  let sum (f : YldStep → Rat) : Rat := (xs.map fun e => f e.2).sum
  let sec := Tab.get {} y.secs k
  let g := boundaryOf (1000 * k)
  let gps := match s.gpsAt g with
    | none => 0
    | some q => q.floor.toNat
  let mid := Tab.find y.hist (100 * k + 49)
  let sol := (mid.map fun e => e.sol).getD 0
  let noPos := decide (sol < 2)
  let mass := openRat (sum fun e => e.attr)
  let moistMass := sum fun e => e.moistMass
  let width := satTo (openRat (meanOf xs fun e => e.width)) 0xFFFF
  let dist := openRat (sum fun e => e.dist)
  let qc : Rat := meanOf xs fun e => if e.gap then 0 else 1
  let qd : Rat := max 0 (min 1 (y.rho.getD Config.noRho))
  let flags := oneIf (!xs.isEmpty && xs.all fun e => e.2.hdrUp) + oneIf sec.slow * 2 + oneIf (moistMass == 0) * 4 +
    oneIf noPos * 8 + oneIf sec.held * 16 + oneIf (xs.any fun e => e.2.gap) * 32 + oneIf sec.takeover * 64 +
    oneIf early * 128
  let place (f : YldStep → Word) : Nat := if noPos then 0x7FFF_FFFF else ((mid.map f).getD 0).toNat
  leBytes 8 g ++ leBytes 8 gps ++ leBytes 4 (place fun e => e.lat) ++ leBytes 4 (place fun e => e.lon) ++
    leBytes 4 ((mid.map fun (e : YldStep) => e.hgt).getD 0).toNat ++ leBytes 2 width ++
    leBytes 2 (satTo (openRat (meanOf xs fun e => (e.speed : Rat))) 0xFFFF) ++ leBytes 4 mass ++
    leBytes 2 (if moistMass = 0 then 0xFFFF else openRat ((sum fun e => e.moist) / moistMass)) ++
    leBytes 1 (255 * qc * qd * solutionFactor sol).floor.toNat ++ leBytes 1 flags ++ leBytes 4 dist ++
    leBytes 4 (if width * dist < 100000 then 0 else satTo (openDiv (mass * 10000000) (width * dist)) max32) ++
    leBytes 4 (s.yarea.openTask.getD 0) ++ leBytes 4 y.seq ++ zeros 8

/-- The record goes to the next YLD_BUF buffer; whether one was free. -/
def yieldDeliver (k : Nat) (bs : List Byte) (s : State) : State × Bool :=
  match s.poolBuffer 0 1 0x10 with
  | none => (s, false)
  | some c => (writeOut 0x2F c bs (wordOf s.yld.seq) (wordOf (boundaryOf (1000 * k))) s, true)

/-- Second `k` closes. The second component counts records not delivered. -/
def closeSecond (g : Nat) (early : Bool) (p : State × Nat) (k : Nat) : State × Nat :=
  let bs := yieldRecordBytes k early p.1
  let s := storeRecord g bs p.1
  let (s, ok) := yieldDeliver k bs s
  ({ s with yld.seq := inc32 s.yld.seq, yld.nextSec := k + 1, yld.secs := Tab.del s.yld.secs k },
    p.2 + oneIf (!ok))

/-- Seconds `k` onwards close: `n` of them. -/
def closeSeconds (g k n : Nat) (early : Bool) (s : State) : State :=
  let (s, drops) := ((List.range n).map fun i => k + i).foldl (closeSecond g early) (s, 0)
  if drops = 0 then s else yieldEvent 7 drops g s

/-- Seconds that close at tick `t`: those whose last contributing step has ended. -/
def secondsDue (y : Yld) (t : Nat) : Nat := (t - 10 * (y.dlyMax + y.spread)) / 1000 - y.nextSec

/-- Every open second closes early, the records are flushed, and the service is LOADED (R302). -/
def yieldClose (g : Nat) (s : State) : State :=
  if s.yld.state ≠ .run then s
  else
    let y := s.yld
    let s := closeSeconds g y.nextSec ((y.nextStep + 99) / 100 - y.nextSec) true (reportUnattributed g s)
    yieldFlush { s with yld.state := .loaded, yld.stopT := none }

end Sys2Proof.Machine
end

