-- ==== Sys2Proof/Machine/YieldOps.lean ====
section
/-!
DEFINITION. The yield service: tasks, ring operations, states, the rope team and commands
(spec/11_yield_and_fleet.md, R297 to R305).
-/

namespace Sys2Proof.Machine

/-! ### Tasks opening and closing (R300, R304) -/

/-- The open task closes at `g`; its ID, 0 where none was open. -/
def closeTask (g : Nat) (s : State) : State × Nat :=
  match s.yarea.openTask with
  | none => (s, 0)
  | some id => (yieldEvent 5 id g { s with yarea.openTask := none }, id)

/-- A task opens at the boundary of tick `t`, and the operation is posted. -/
def openTaskAt (c : OpRef) (s : State) : State :=
  let id := c.op.aux.getD 0 0
  let t := c.op.aux.getD 1 0
  let g := boundaryOf t
  let (s, old) := closeTask g s
  let s := if s.yarea.tasks.length < 1024 then s else makeRoom g s
  let s := { s with yarea.tasks := s.yarea.tasks ++ [{ id := id }], yarea.openTask := some id }
  finishOp c stOk 0 (wordOf t) (wordOf old) (yieldEvent 4 id g s)

/-- TASK_CLOSE takes effect, and the operation is posted. -/
def closeTaskAt (c : OpRef) (s : State) : State :=
  let n := match s.yarea.tasks.find? fun x => s.yarea.openTask == some x.id with
    | none => 0
    | some x => (taskRecords s x).length
  let (s, id) := closeTask (boundaryOf (c.op.aux.getD 1 0)) s
  finishOp c stOk 0 (wordOf id) (wordOf n) s

/-- A task operation whose boundary is that of a tick below `t`. -/
def taskDue (t : Nat) (o : Op) : Bool :=
  o.stage == .started && (o.opcode == 6 || o.opcode == 7) && decide (o.aux.getD 1 0 < t)

/-- Task operations whose boundary is that of a tick below `t` take effect. -/
def settleTasks (t : Nat) (s : State) : State :=
  (s.opsOf 0 0 (taskDue t)).foldl (fun s c => if c.op.opcode = 6 then openTaskAt c s else closeTaskAt c s) s

/-- YIELD_RECORD: the records due at a second's boundary, by phase 60; then the tasks that open or close there. -/
def yieldRecord (s : State) : State :=
  let t := s.t
  let y := s.yld
  if y.state ≠ .run ∨ t % 1000 ≠ 0 ∨ y.nextStep * 10 ≠ t then s
  else
    settleTasks (t + 1) (closeSeconds (boundaryOf t) y.nextSec (secondsDue y t) false s)

/-! ### Ring operations (R304) -/

/-- The listed bits of the configuration words (R8, R305). -/
def yldCfgMask (i : Nat) : Word :=
  match i with
  | 0 => 0x03FF_03FF | 1 => 0x03FF_03FF | 2 => 0x8000_FFFF | 4 => 0xFFFF_00FF
  | _ => if i ≤ 13 then 0xFFFF_FFFF else 0

/-- A configuration is in range (R294, R305). -/
def yldCfgOk (y : Yld) : Bool :=
  [y.flowIdx, y.elevIdx, y.moistIdx, y.hdrIdx].all (fun i => decide (i ≤ 0x1FF)) &&
  within 1 (2 ^ 30) y.gain && within 10 90 y.elevMin && within 50 100 y.fullPct && y.elevRef != 0 &&
  within 500 3800 y.dlyMax && within 500 3800 y.dlyMin && decide (y.dlyMin < y.dlyMax) &&
  within y.dlyMin y.dlyMax y.dlyInit && within 10 300 y.spread && decide (y.dlyMax + y.spread ≤ 3900) &&
  within 1000 30000 y.tankCap

/-- YLD_CFG. -/
def yldCfg (c : OpRef) (s : State) : State :=
  needBuffer c s fun s =>
    if c.op.len ≠ 128 then failOp c stLen 0 s
    else if s.yld.state = .run then failOp c stBusy 0 s
    else readWhole 0x2F c s fun bs s =>
      let ws := maskWords yldCfgMask (leWords 32 bs)
      if yldCfgOk { cfg := ws } then
        finishOp c stOk 128 0 0 { s with yld.cfg := ws, yld.state := .loaded }
      else failOp c stSchema 128 s

/-- YLD_START. -/
def yldStart (c : OpRef) (s : State) : State :=
  let v := c.op.word64 6
  if s.yld.state ≠ .loaded then failOp c stBusy 0 s
  else if v ≠ 0 ∧ v ≤ s.t then failOp c stLate 0 s
  else
    let t := startTick s v
    finishOp c stOk 0 (wordOf t) 0 { s with yld.startT := some t }

/-- YLD_STOP. -/
def yldStop (c : OpRef) (s : State) : State :=
  if s.yld.state ≠ .run then failOp c stBusy 0 s
  else startOp c [] { s with yld.stopT := some (s.t + 1) }

/-- SEQ of the last record. -/
def lastSeq (y : Yld) : Word := if y.seq = 0 ∧
y.nextSec * 100 ≤ y.startStep then Config.noSeq else wordOf (y.seq + max32)

/-- Fill rate in g/s: the mean of the last 6,000 steps. -/
def fillRate (y : Yld) : Rat :=
  if y.qs.isEmpty then 0 else (y.qs.map fun e => e.2).sum / (y.qs.length : Rat) * 100

/-- SENSED, ATTRIB and UNATTRIB as whole grams that balance (R296; DESIGN CHOICE, log 193). -/
def wholeTotals (y : Yld) : Nat × Nat × Nat :=
  let q := openRat y.sensed
  let a := min q (openRat y.attrib)
  (q, a, q - a)

/-- The place of the antenna advanced along the course at the present speed for so many ns (R304). -/
def advancedPlace (lat lon course speed : Word) (ns : Nat) : Word × Word :=
  let d : Rat := (sint speed : Rat) * ns / 1000000000
  let a : Rat := (course.toNat : Rat) / 1000000
  let (p, l, _) := placeFrom ((sint lat : Rat) / 10000000) ((sint lon : Rat) / 10000000) 0
    { x := d * sinRat a, y := d * cosRat a, z := 0 }
  (ratWord (p * 10000000), ratWord (l * 10000000))

/-- The 64 bytes of YLD_STATUS. -/
def yldStatusBytes (s : State) : List Byte :=
  let y := s.yld
  let rate := fillRate y
  let left := max 0 ((y.tankCap * 1000 * y.fullPct : Nat) / 100 - y.tank)
  let toGo : Nat := if rate < 10 then 0 else openRat (left / rate * 1000000000)
  let full := match s.gpsAt s.gts with
    | none => 0
    | some q => if rate < 10 then 0 else q.floor.toNat + toGo
  let e (i : Nat) : Word := (s.signalAt s.gts i).1
  let (q, a, u) := wholeTotals y
  let place := advancedPlace (e 0x201) (e 0x202) (e 0x20A) (e 0x258) toGo
  leBytes 8 q ++ leBytes 8 a ++ leBytes 8 u ++
    leBytes 8 (openRat y.tank) ++ leBytes 4 (openRat rate) ++ leBytes 8 full ++ leBytes 4 place.1.toNat ++
    leBytes 4 place.2.toNat ++ leBytes 1 (rhoByte (y.rho.getD Config.noRho)) ++ zeros 3 ++
    leBytes 4 (s.yarea.openTask.getD 0) ++ leBytes 4 (lastSeq y).toNat

/-- YLD_STATUS: the snapshot is taken, and the operation posted, at the next tick boundary (R304; DEDUCED, log 193). -/
def yldStatus (c : OpRef) (s : State) : State :=
  needBuffer c s fun s => if c.op.len ≠ 64 then failOp c stLen 0 s else startOp c [] s

/-- The snapshots asked for are written at a boundary. -/
def statusTick (s : State) : State :=
  (s.opsOf 0 0 (isStarted 4)).foldl (fun s c =>
    writeOut 0x2F c (yldStatusBytes s) (wordOf s.yld.state.code) (wordOf s.yld.delay) s) s

/-- TANK_SET: a step that ended in the tick adds its mass after it (R303). -/
def tankSet (c : OpRef) (s : State) : State :=
  let q : Rat := match s.yld.lastQ with
    | some (t, q) => if t = s.t then q else 0
    | none => 0
  let before := openRat (max 0 (s.yld.tank - q) / 1000)
  finishOp c stOk 0 (wordOf before) 0 { s with yld.tank := ((c.op.word 6).toNat * 1000 : Nat) + q }

/-- TASK_OPEN. -/
def taskOpen (c : OpRef) (s : State) : State :=
  let id := (c.op.word 6).toNat
  let v := c.op.word64 7
  if id = 0 ∨ s.yarea.tasks.any (fun x => x.id == id) then failOp c stSchema 0 s
  else if v ≠ 0 ∧ v ≤ s.t then failOp c stLate 0 s
  else startOp c [id, startTick s v] s

/-- TASK_CLOSE: at the next boundary. -/
def taskClose (c : OpRef) (s : State) : State :=
  if s.yarea.openTask.isNone then failOp c stBusy 0 s else startOp c [0, s.t + 1] s

/-- TASK_LIST. -/
def taskList (c : OpRef) (s : State) : State :=
  needBuffer c s fun s =>
    if c.op.len ≠ 8192 then failOp c stLen 0 s
    else
      let bs := s.yarea.tasks.flatMap fun x =>
        leBytes 4 x.id ++
          leBytes 4 ((taskRecords s x).length + oneIf (s.yarea.openTask == some x.id) * 2 ^ 31)
      writeOut 0x2F c bs (wordOf s.yarea.tasks.length) 0 s

/-- A number at bytes `i` of a record. -/
def recNat (r : List Byte) (i n : Nat) : Nat := leNat ((r.drop i).take n)

/-- A binary entry of an ISO 11783-10 TimeLog from a record (R301). -/
def logEntry (ddis : List Nat) (leap : Nat) (r : List Byte) : List Byte :=
  let ms := recNat r 8 8 / 1000000 - leap * 1000
  let vals := [recNat r 44 4, recNat r 36 2, recNat r 32 4, recNat r 28 2, recNat r 30 2, recNat r 38 1]
  let cols := (ddis.zip vals).filter fun e => e.1 != 0xFFFF
  leBytes 4 (ms % 86400000) ++ leBytes 2 (ms / 86400000 + 5) ++ leBytes 4 (recNat r 16 4) ++
    leBytes 4 (recNat r 20 4) ++ leBytes 4 (recNat r 24 4) ++ [Config.posStatus (recNat r 52 4)] ++
    leBytes 1 cols.length ++ cols.zipIdx.flatMap fun e => leBytes 1 e.2 ++ leBytes 4 e.1.2

/-- TASK_EXPORT. -/
def taskExport (c : OpRef) (s : State) : State :=
  needBuffer c s fun s =>
    if c.op.len < 4096 then failOp c stLen 0 s
    else match s.yarea.tasks.find? fun x => wordOf x.id == c.op.word 6 with
      | none => failOp c stSchema 0 s
      | some x => match s.gnb.leap with
        | none => failOp c stStale 0 s
        | some leap =>
          let rs := taskRecords s x
          let head := Config.exportHeader s.yld.ddis
          let bs := leBytes 4 head.length ++ head ++ rs.flatMap (logEntry s.yld.ddis leap)
          if bs.length ≤ c.op.len then writeOut 0x2F c bs (wordOf bs.length) (wordOf rs.length) s
          else
            let (s, r) := writeBuffer 0x2F c.op.addr (bs.take c.op.len) s
            failOp c (if r.status = 0 then stIncomplete else r.status) r.moved s

/-! ### States, the tick's work and the rope team (R302, R303) -/

/-- RUN begins at tick `t` with an empty history. -/
def yldBegin (t : Nat) (y : Yld) : Yld :=
  { y with
    state := .run, startT := none, stopT := none, startStep := t / 10, nextStep := t / 10, nextSec := t / 1000
    hist := [], qs := [], secs := [], delay := y.dlyInit, rho := none, held := false, estDue := false
    acc := {}, lastQ := none, seq := 0, unattSec := none, replica := none, own := [] }

/-- The stop boundary of YLD_STOP. -/
def yldHalt (b : Nat) (s : State) : State :=
  let s := yieldClose b s
  (s.opsOf 0 0 (isStarted 3)).foldl (fun s c =>
    finishOp c stOk 0 (wordOf (b / tickLen)) (lastSeq s.yld) s) s

/-- A start to come takes effect; a second stays in LOADED (R303). -/
def yldStartTick (t : Nat) (s : State) : State :=
  match s.yld.startT with
  | none => s
  | some t0 =>
    if t < t0 then s
    else if s.yld.state = .loaded ∧ s.rtl.role ≠ .second then { s with yld := yldBegin t0 s.yld }
    else { s with yld.startT := none }

/-- The work of boundary `b`. Tasks that open or close at a boundary with records due wait for them. -/
def yldTick (b : Nat) (s : State) : State :=
  let t := b / tickLen
  let s := statusTick s
  let s := settleTasks (if s.yld.state = .run ∧ t % 1000 = 0 then t else t + 1) s
  let s := if s.yld.stopT.isSome then yldHalt b s else s
  yldStartTick t s

/-- PD2 off, or a time base start (R302). -/
def yldReset (s : State) : State := { s with yld := {} }

/-- The replica the lead hands over for tick `t` (R303). -/
def yldReplica (t : Nat) (s : State) : Option YldReplica :=
  let y := s.yld
  if y.state ≠ .run then none
  else some {
    tick := t, hist := y.hist, secs := y.secs, startStep := y.startStep, nextStep := y.nextStep, nextSec := y.nextSec
    delay := y.delay, rho := y.rho, held := y.held, sensed := y.sensed, attrib := y.attrib, unattrib := y.unattrib
    tank := y.tank, seq := y.seq, unattSec := y.unattSec }

/-- A second stores the lead's replica. -/
def yldStore (r : Option YldReplica) (s : State) : State :=
  match r with
  | none => s
  | some r => if s.yld.state = .loaded then { s with yld.replica := some r } else s

/-- The state of a replica, taken up at tick `tk`. -/
def yldTakeUp (tk : Nat) (r : YldReplica) (y : Yld) : Yld :=
  let known := (r.hist.map fun (e : Nat × YldStep) => e.1 / 100) ++ [tk / 1000]
  let secs := known.eraseDups.filter fun k => decide (r.nextSec ≤ k)
  { y with
    state := .run, startT := none, stopT := none, hist := r.hist
    secs := secs.foldl (fun t k => Tab.put t k { Tab.get ({} : YldSec) t k with takeover := true }) r.secs
    startStep := r.startStep, nextStep := r.nextStep, nextSec := r.nextSec, delay := r.delay, rho := r.rho
    held := r.held, estDue := false, sensed := r.sensed, attrib := r.attrib, unattrib := r.unattrib, tank := r.tank
    seq := r.seq, unattSec := r.unattSec, replica := none, own := [] }

/-- The takeover at boundary T_k: RUN from the newest replica with the steps sensed here, or afresh (R303). -/
def yldTakeover (tk : Nat) (s : State) : State :=
  if s.yld.state ≠ .loaded then s
  else match s.yld.replica with
    | some r =>
      if tk ≤ r.tick + 4 then
        let own := s.yld.own.filter fun e => decide (r.nextStep ≤ e.1)
        own.foldl (fun s e => stepDone e.1 { s with yld := divideStep e.1 e.2 s.yld })
          { s with yld := yldTakeUp tk r s.yld }
      else { s with yld := yldBegin tk s.yld }
    | none => { s with yld := yldBegin tk s.yld }

/-- A lead that becomes second stays in LOADED (R303). -/
def yldToSecond (s : State) : State :=
  if s.yld.state = .run then { s with yld.state := .loaded, yld.replica := none, yld.own := [] } else s

/-! ### Commands -/

/-- YIELD_SENSE. -/
def execYieldSense (s : State) : Out := whileOn 2 s yieldSense

/-- YIELD_STEP_END. -/
def execYieldStepEnd (s : State) : Out := whileOn 2 s yieldStepEnd

/-- DELAY_ESTIMATE. -/
def execDelayEstimate (s : State) : Out := whileOn 2 s delayEstimate

/-- YIELD_RECORD. -/
def execYieldRecord (s : State) : Out := whileOn 2 s yieldRecord

/-- YIELD_FLASH_WRITE. -/
def execYieldFlashWrite (s : State) : Out := whileOn 2 s yieldFlush

/-- YLD_CFG. -/
def execYldCfg (n : Fin 32) (s : State) : Out := .next (takeOp 0 0 1 .serial n.val yldCfg s)

/-- YLD_START. -/
def execYldStart (n : Fin 32) (s : State) : Out := .next (takeOp 0 0 2 .serial n.val yldStart s)

/-- YLD_STOP. -/
def execYldStop (n : Fin 32) (s : State) : Out := .next (takeOp 0 0 3 .serial n.val yldStop s)

/-- YLD_STATUS. -/
def execYldStatus (n : Fin 32) (s : State) : Out := .next (takeOp 0 0 4 .serial n.val yldStatus s)

/-- TANK_SET. -/
def execTankSet (n : Fin 32) (s : State) : Out := .next (takeOp 0 0 5 .serial n.val tankSet s)

/-- TASK_OPEN. -/
def execTaskOpen (n : Fin 32) (s : State) : Out := .next (takeOp 0 0 6 .serial n.val taskOpen s)

/-- TASK_CLOSE. -/
def execTaskClose (n : Fin 32) (s : State) : Out := .next (takeOp 0 0 7 .serial n.val taskClose s)

/-- TASK_LIST. -/
def execTaskList (n : Fin 32) (s : State) : Out := .next (takeOp 0 0 8 .serial n.val taskList s)

/-- TASK_EXPORT. -/
def execTaskExport (n : Fin 32) (s : State) : Out := .next (takeOp 0 0 9 .serial n.val taskExport s)

/-- YLD_BUF. -/
def execYldBuf (n : Fin 32) (s : State) : Out := .next (takeOp 0 1 0x10 .parallel n.val (poolCheck 64) s)

end Sys2Proof.Machine
end

