-- ==== Sys2Proof/Machine/Update.lean ====
section
/-!
DEFINITION. UPD, first part (spec/16_field_update.md): the boot record, packages and staging, scheduling, the
UPD_CMD writes, what the twin link carries of the update, and the registers.
-/

namespace Sys2Proof.Machine

/-- An event of UPD: its cause is the boundary of the change (R415). -/
def updEvent (src code data : Nat) (s : State) : State := raiseAt (boundaryOf s.t) src code data s

/-- Bits 23:0 of T. -/
def low24T (s : State) : Nat := s.t % 2 ^ 24

/-- The live letter changes: live and other set change places in the boot record (R395, R396). -/
def flipLetter (s : State) : State :=
  let b := s.boot
  { s with
    boot.liveB := !b.liveB, boot.otherOk := true, boot.pkgLive := b.pkgOther, boot.pkgOther := b.pkgLive
    boot.schemaLive := b.schemaOther, boot.schemaOther := b.schemaLive
    boot.partsLive := b.partsOther, boot.partsOther := b.partsLive }

/-- The live letter goes to the new set: the next start is an activation start (R404). -/
def toNewSet (s : State) : State :=
  { flipLetter s with boot.moved := true, boot.act := true }

/-- The live letter is back at the previous set (R408). -/
def toOldSet (s : State) : State :=
  let s := if s.boot.moved then flipLetter s else s
  { s with boot.moved := false, boot.act := false }

/-- The module still runs images that the running sequence leaves. -/
def runsOld (s : State) : Bool :=
  s.upd.runB != s.boot.liveB ||
    (s.boot.team && !s.boot.moved && (s.boot.state == .activating || s.boot.state == .trial))

/-! ### Packages (R397, R398) -/

/-- An entry of the part table. -/
structure PkgPart where
  pos : Nat
  kind : Nat
  mode : Nat
  len : Nat
  off : Nat
  digest : Nat
deriving DecidableEq, Repr

/-- One entry of 64 bytes. -/
def partOf (r : List Byte) : PkgPart :=
  { pos := recNat r 0 1, kind := recNat r 1 1, mode := recNat r 2 1, len := recNat r 4 4, off := recNat r 8 8
    digest := bytesBe ((r.drop 16).take 32) }

/-- The entries of a part table. -/
def partTable (n : Nat) (bs : List Byte) : List PkgPart := (records64 n bs).map partOf

/-- The entry for `kind` at position `pos`: exactly one, an entry for the exact position first. -/
def partFor (ps : List PkgPart) (pos kind : Nat) : Option PkgPart :=
  let ks := ps.filter fun p => p.kind == kind
  let own := ks.filter fun p => p.pos == pos
  let fit := if own.isEmpty then ks.filter fun p => p.pos == 0xFF else own
  if fit.length = 1 then fit.head? else none

/-- The five part kinds (R395). -/
def partKinds : List Nat := [1, 2, 3, 4, 5]

/-- An entry in itself, in a package of `len` bytes. -/
def partOk (len : Nat) (p : PkgPart) : Bool :=
  decide (1 ≤ p.kind) && decide (p.kind ≤ 5) && (decide (p.pos ≤ 3) || p.pos == 0xFF) &&
    ((p.mode == 1 && p.len == 0) || (p.mode == 0 && decide (p.off + p.len ≤ len)))

/-- The part table serves position `pos`. -/
def tableOk (len pos : Nat) (ps : List PkgPart) : Bool :=
  ps.all (partOk len) && partKinds.all fun k => (partFor ps pos k).isSome

/-- The header's own fields (R397). -/
def pkgHeaderOk (h : List Byte) : Bool :=
  recNat h 0 4 == 0x57454B31 && recNat h 4 4 != 0 && decide (1 ≤ recNat h 11 1) &&
    decide (recNat h 11 1 ≤ 20) && decide (recNat h 12 1 ≤ 3)

/-- The signature over the header's first 192 bytes and the part table (R397, R398). -/
def sigOk (h table : List Byte) : Bool :=
  ecdsaOk (Config.fusedKey (Fin.ofNat 4 (recNat h 12 1))) (sha256 (h.take 192 ++ table))
    (leNat ((h.drop 192).take 32)) (leNat ((h.drop 224).take 32))

/-- A module whose team state is not OFF takes only TEAM_SAFE packages (R399). -/
def teamFits (h : List Byte) (s : State) : Bool := s.rtl.state == .off || recNat h 10 1 % 2 == 1

/-! ### Staging (R399, R400) -/

/-- A package refused with SCHEMA after `n` bytes: source 464 code 0x02. -/
def stageRefuse (c : OpRef) (n pkg : Nat) (s : State) : State :=
  updEvent 464 2 pkg (failOp c stSchema n s)

/-- A stage cut by a refused read: source 464 code 0x03. -/
def stageBroken (c : OpRef) (status n pkg : Nat) (s : State) : State :=
  updEvent 464 3 pkg (failOp c status n s)

/-- A package whose header, signature and table pass: the other set is no longer bootable, and the stage runs.
The operation keeps the check's GTS, PKG_ID, CFG_SCHEMA and the table. What a stage cut short has written is not listed
(log 50). -/
def stageBegin (c : OpRef) (h table : List Byte) (s : State) : State :=
  startOp c (s.gts :: recNat h 4 4 :: recNat h 8 2 :: table.map fun b => b.toNat)
    { s with boot.otherOk := false, boot.state := .staging, boot.partsOther := [] }

/-- STAGE: the checks of R399 step 1. -/
def stage (c : OpRef) (s : State) : State :=
  if c.op.len < 512 ∨ 2 ^ 32 - 2 < c.op.len then failOp c stLen 0 s
  else if s.boot.state ≠ .idle ∧ s.boot.state ≠ .staged then failOp c stBusy 0 s
  else
    let (s, x) := readBuffer 0x2B c.op.addr 256 s
    let h := x.bytes
    let n := recNat h 11 1
    if x.status ≠ 0 then stageBroken c x.status x.moved 0 s
    else if !pkgHeaderOk h || decide (c.op.len < 256 + 64 * n) then stageRefuse c 256 (recNat h 4 4) s
    else
      let (s, y) := readBuffer 0x2B (c.op.addr + 256) (64 * n) s
      if y.status ≠ 0 then stageBroken c y.status (256 + y.moved) (recNat h 4 4) s
      else if !sigOk h y.bytes || !tableOk c.op.len s.ropePos (partTable n y.bytes) || !teamFits h s then
        stageRefuse c (256 + 64 * n) (recNat h 4 4) s
      else stageBegin c h y.bytes s

/-- The running stage. -/
def stageOp (s : State) : Option OpRef := s.opOf 13 0 (isStarted 1)

/-- The image of a part in a package. -/
def imageOf (pkg : List Byte) (p : PkgPart) : List Byte := (pkg.drop p.off).take p.len

/-- What a part of the other set becomes: its image, or with SAME the live set's (R399 steps 3 and 4). -/
def partBytes (pkg : List Byte) (s : State) (p : PkgPart) : List Byte :=
  if p.mode = 0 then imageOf pkg p else (Tab.find s.boot.partsLive p.kind).getD []

/-- STAGE_COMPLETE: every part for this position has been written and its digest checked (R399 steps 3 to 5). -/
def stageComplete (s : State) : State :=
  match stageOp s with
  | none => s
  | some c =>
    let pkgId := c.op.aux.getD 1 0
    let table := (c.op.aux.drop 3).map fun n => BitVec.ofNat 8 n
    let ps := partTable (table.length / 64) table
    let own := partKinds.filterMap fun k => partFor ps s.ropePos k
    let images := own.filter fun p => p.mode == 0
    let (s, x) := readBuffer 0x2B c.op.addr c.op.len s
    if x.status ≠ 0 then stageBroken c x.status x.moved pkgId { s with boot.state := .idle }
    else if images.all fun p => sha256 (imageOf x.bytes p) == p.digest then
      updEvent 464 1 pkgId (finishOp c stOk x.moved (wordOf images.length) (wordOf pkgId)
        { s with boot.state := .staged, boot.otherOk := true, boot.pkgOther := pkgId
                 boot.schemaOther := c.op.aux.getD 2 0
                 boot.partsOther := own.map fun p => (p.kind, partBytes x.bytes s p) })
    else stageRefuse c x.moved pkgId { s with boot.state := .idle }

/-- The bytes a running stage has read so far: header and table, and of the images an amount left open (log 50). -/
def stageMoved (c : OpRef) (s : State) : Nat :=
  min c.op.len (max (256 + (c.op.aux.length - 3)) (Config.stageRead (c.op.aux.getD 0 0) s.gts))

/-- A stage cut by Descent, or by PD2 going off (R399, R411). How far it has read is left open (log 50). -/
def stageCut (s : State) : State :=
  if s.boot.state ≠ .staging then s
  else
    let s := { s with boot.state := .idle }
    match stageOp s with
    | none => s
    | some c =>
      updEvent 464 3 (c.op.aux.getD 1 0) (failOp c stIncomplete (stageMoved c s) s)

/-! ### Scheduling (R401, R402) -/

/-- The GTS of a GPS time in ns by a mapping set (R260): rounded to the nearest. -/
def setGts (g0 : Nat) (t0 : Rat) (rate : Int) (ns : Nat) : Nat :=
  let g : Rat := (g0 : Rat) + ((ns : Rat) - t0) / paceOf rate
  (roundRat (max 0 g)).toNat

/-- The GTS that the mapping gives a GPS time in ns; none without a mapping. -/
def State.gtsOf (s : State) (ns : Nat) : Option Nat :=
  let m := s.gnb.tmap
  match m.lead with
  | some q => some (setGts q.g0 (leadT0 q) q.rate ns)
  | none =>
    if m.st = .none' then none
    else if m.edge.isSome then some (setGts m.pubG (m.pubT : Rat) m.pubRate ns)
    else some (setGts m.g0 m.t0 m.rate ns)

/-- The twin is staged with the same package (R401). -/
def twinStaged (s : State) : Bool :=
  match s.rtl.beatIn with
  | some h => h.upd.staged && h.upd.pkg == s.boot.pkgOther
  | none => false

/-- The first check of SCHEDULE that fails (R413). -/
def scheduleFault (c : OpRef) (s : State) : Option Nat :=
  if s.boot.state ≠ .staged ∨ s.rtl.role = .second then some stBusy
  else if (c.op.word 8).toNat ≠ s.boot.pkgOther ∨ (s.rtl.role = .lead ∧ !(s.rtl.state == .lead && twinStaged s)) ∨
      s.upd.quiet = 0 then some stSchema
  else if (s.gtsOf (c.op.word64 6)).isNone then some stStale
  else none

/-- SCHEDULE (R401). -/
def schedule (c : OpRef) (s : State) : State :=
  match scheduleFault c s, s.gtsOf (c.op.word64 6) with
  | some st, _ => failOp c st 0 s
  | none, none => failOp c stStale 0 s
  | none, some g =>
    updEvent 465 1 (low24T s) (finishOp c stOk 0 (wordOf g) 0 { s with
      boot.state := .scheduled, boot.instant := c.op.word64 6, boot.team := s.rtl.role == .lead, boot.step := 0
      boot.moved := false, upd.when' := g })

/-- CANCEL (R402). -/
def cancel (c : OpRef) (s : State) : State :=
  if s.boot.state ≠ .scheduled ∧ s.boot.state ≠ .waiting then failOp c stBusy 0 s
  else
    let before := s.boot.state.code
    updEvent 465 3 (low24T s) (finishOp c stOk 0 (wordOf before) 0 { s with
      boot.state := .staged, boot.team := false, boot.step := 0 })

/-- The converted instant: UPD_WHEN, or where none has been converted since the start what a mapping gives. -/
def instantAt (s : State) : Option Nat :=
  if s.upd.when' = 0 then s.gtsOf s.boot.instant else some s.upd.when'

/-- The converted instant has been reached. -/
def instantPast (s : State) : Bool := (instantAt s).any fun g => decide (g ≤ s.gts)

/-- SCHEDULE_INSTANT_REACHED: SCHEDULED to WAITING (R402). -/
def instantReached (s : State) : State :=
  if s.boot.state ≠ .scheduled ∨ s.rtl.role = .second then s
  else match instantAt s with
    | none => s
    | some g => s.reach g fun s => updEvent 465 2 (low24T s) { s with boot.state := .waiting }

/-! ### UPD_CMD (R405, R407, R408) -/

/-- CONFIG_DONE written. -/
def configDone (s : State) : State :=
  let s' := { s with upd.done := true }
  if s.boot.state = .activating ∨ s.boot.state = .trial ∨ s.boot.state = .reverting then
    updEvent 467 2 (low24T s) s'
  else s'

/-- The twin takes part in the trial. -/
def twinCounts (s : State) : Bool := s.boot.team && (s.rtl.state == .lead || s.rtl.state == .split)

/-- A COMMIT is accepted: TRIAL on a lone module or a lead, and every module of the team has written CONFIG_DONE
from its activation start (R407, R412). -/
def commitOk (s : State) : Bool :=
  s.boot.state == .trial && s.rtl.role != .second && s.upd.done && !runsOld s && s.boot.moved &&
    (!twinCounts s || (s.upd.twinDone && !s.upd.twinOld))

/-- COMMIT written. -/
def commitWrite (s : State) : State :=
  if commitOk s then
    if s.upd.commitT.isSome then s else { s with upd.commitT := some s.t }
  else updEvent 467 4 (low24T s) s

/-- REJECT written: it rejects a trial. -/
def rejectWrite (s : State) : State :=
  if s.boot.state = .trial then { s with upd.reject := true } else s

/-- A write of UPD_CMD: REJECT, COMMIT and CONFIG_DONE each where its bit is 1. -/
def updCmd (v : Word) (s : State) : State :=
  let s := if bitOf v 0 then configDone s else s
  let s := if bitOf v 1 then commitWrite s else s
  if bitOf v 2 then rejectWrite s else s

/-! ### What the twin link carries (R401, R406 to R408) -/

/-- What the lead's tick frame says of the update. -/
def updFrame (s : State) : UpdFrame :=
  let notice := match s.upd.judged, s.upd.commitT with
    | some (c, tr), _ => if tr = s.t + 1 then c else 0
    | none, some t => if t + 1 = s.t then 5 else 0
    | none, none => 0
  { state := s.boot.state.code, step := s.boot.step, team := s.boot.team, deadline := s.boot.deadline
    instant := s.boot.instant, notice := notice, done := s.upd.done, old := runsOld s }

/-- The cause of a reversion that this module sees in a trial; 0 none (R408). -/
def causeSeen (s : State) : Nat :=
  if s.upd.schemaSeen then 1 else if s.upd.reject then 3 else s.upd.report

/-- What the second's heartbeat says of the update. -/
def updBeat (s : State) : UpdBeat :=
  { pkg := s.boot.pkgOther, staged := s.boot.otherOk && decide (2 ≤ s.boot.state.code) && decide (s.boot.state.code ≤ 4)
    state := s.boot.state.code, deadline := s.boot.deadline, done := s.upd.done, cause := causeSeen s
    old := runsOld s }

/-! ### Descent and start (R396, R403, R405, R408, R409) -/

/-- A Descent begins: it cuts a stage, and where the instant has been reached it carries out the activation
(R399, R403). -/
def updDescent (s : State) : State :=
  let s := stageCut s
  if (s.boot.state == .waiting || s.boot.state == .scheduled) && instantPast s then
    { s with upd.byDescent := true }
  else s

/-- Step 7 of a Descent that carries out the activation (R403). -/
def updStep7 (s : State) : State :=
  if !s.upd.byDescent then s
  else updEvent 466 3 (low24T s) { toNewSet s with
    boot.state := .activating, boot.step := oneIf s.boot.team, upd.byDescent := false }

/-- The boot code reads the boot record: a start during TRIAL that is no activation start boots the previous set
(R408 cause 4); UPD's own state starts anew. -/
def updRunEntry (s : State) : State :=
  let s := if s.boot.state = .staging then { s with boot.state := .idle } else s
  let fell := s.boot.state == .trial && !s.boot.act
  let s := if fell then toOldSet s else s
  { s with upd := { runB := s.boot.liveB, report := if fell then 4 else 0 } }

/-- CTRL_READY of an activation start: trial begins (R405, R406 steps 2 and 5). -/
def trialBegin (s : State) : State :=
  let b := s.boot
  let joined := b.team && decide (4 ≤ b.step)
  let s := { s with
    boot.act := false, boot.state := .trial
    boot.deadline := if joined then b.deadline else s.gts + 720000000000
    boot.step := if !b.team then 0 else if joined then 5 else 2 }
  raise 469 1 s.boot.schemaLive (updEvent 467 1 (low24T s) s)

/-- What CTRL_READY does to the update state. In a team the reversion of cause 4 ends with the twin's (R409, log 142).
-/
def updReady (s : State) : State :=
  if s.boot.act then trialBegin s
  else if s.upd.report = 4 then
    let s := { s with
      boot.lastCause := 4, boot.lastT := s.t, boot.step := 0
      boot.state := if s.boot.team then .reverting else .staged }
    raise 469 2 s.boot.schemaLive (updEvent 468 4 (low24T s) s)
  else if s.boot.state = .reverting then
    let s := if s.boot.final || !s.boot.team then
        { s with boot.state := .staged, boot.final := false, boot.team := false, boot.step := 0 } else s
    raise 469 2 s.boot.schemaLive s
  else s

/-! ### Registers (R414) -/

/-- UPD_STATUS. -/
def updStatus (s : State) : Word :=
  wordOf (s.boot.state.code * 2 ^ 28 + oneIf s.boot.liveB * 2 ^ 27 + oneIf s.upd.done * 2 ^ 26
    + oneIf s.upd.twinDone * 2 ^ 25 + oneIf s.boot.team * 2 ^ 24 + s.boot.step % 16 * 2 ^ 20)

/-- A read of the UPD window. -/
def updRead (a : Access) (off : Nat) (s : State) : Word × State :=
  let w := windowBase 13
  if off = 0x00 then (wordOf s.upd.quietMin, s)
  else if off = 0x04 then (updStatus s, s)
  else if off = 0x08 then (lo32 s.upd.quiet, s)
  else if off = 0x0C then (hi32 s.upd.quiet, s)
  else if off = 0x10 then (wordOf s.boot.schemaLive, s)
  else if off = 0x14 then (wordOf (if s.boot.otherOk then s.boot.schemaOther else 0), s)
  else if off = 0x18 then (wordOf s.boot.pkgOther, s)
  else if off = 0x1C then (wordOf s.boot.pkgLive, s)
  else if off = 0x20 then readLow a (w + 0x24) (word64 s.upd.when') s
  else if off = 0x24 then readHigh a (w + 0x24) (word64 s.upd.when') s
  else if off = 0x28 then readLow a (w + 0x2C) (word64 s.boot.deadline) s
  else if off = 0x2C then readHigh a (w + 0x2C) (word64 s.boot.deadline) s
  else if off = 0x34 then (wordOf (s.boot.lastCause * 2 ^ 24 + s.boot.lastT % 2 ^ 24), s)
  else (0, s)

/-- A write to the UPD window: UPD_CTL and UPD_QUIET not in WAITING or ACTIVATING (R414). -/
def updWrite (off : Nat) (v : Word) (s : State) : State :=
  let shut := s.boot.state == .waiting || s.boot.state == .activating
  if off = 0x30 then updCmd v s
  else if shut then s
  else if off = 0x00 then { s with upd.quietMin := bitsOf v 15 0 }
  else if off = 0x08 then { s with upd.quiet := setLo s.upd.quiet v }
  else if off = 0x0C then { s with upd.quiet := setHi s.upd.quiet v }
  else s

/-! ### Commands -/

/-- STAGE. -/
def execStage (n : Fin 32) (s : State) : Out := .next (takeOp 13 0 1 .serial n.val stage s)

/-- STAGE_COMPLETE. -/
def execStageComplete (s : State) : Out := .next (if s.pdOn 2 then stageComplete s else s)

/-- SCHEDULE. -/
def execSchedule (n : Fin 32) (s : State) : Out := .next (takeOp 13 0 2 .serial n.val schedule s)

/-- CANCEL. -/
def execCancel (n : Fin 32) (s : State) : Out := .next (takeOp 13 0 3 .serial n.val cancel s)

/-- SCHEDULE_INSTANT_REACHED. -/
def execScheduleInstantReached (s : State) : Out := .next (if s.pdOn 2 then instantReached s else s)

/-- CONFIG_DONE: a write of UPD_CMD with bit 0. -/
def execConfigDone (a : Access) (v : Word) (s : State) : Out := .next (gateWrite a 13 2 s (updCmd v))

/-- COMMIT: a write of UPD_CMD with bit 1. -/
def execCommit (a : Access) (v : Word) (s : State) : Out := .next (gateWrite a 13 2 s (updWrite 0x30 v))

/-- REJECT: a write of UPD_CMD with bit 2. -/
def execReject (a : Access) (v : Word) (s : State) : Out := .next (gateWrite a 13 2 s fun s => updCmd v s)

end Sys2Proof.Machine
end

