-- ==== Sys2Proof/Machine/Drain.lean ====
section
/-!
DEFINITION. DRAIN_BOUNDARY_STOP: what a drain or an ABANDON stops at the tick boundary after its begin (R55, R57), with
the state that a service keeps beside its operation. The other services keep theirs in the operation alone, or have
committed their effect at the check (log 196).
-/

namespace Sys2Proof.Machine

/-- A STAGE that ring `n`'s drain stops: cut as R399 says, its XFER the bytes read. -/
def stageStop (n : Nat) (s : State) : State :=
  match stageOp s with
  | none => s
  | some c =>
    if c.ring = n ∧ stopsNow s n c.op then
      updEvent 464 3 (c.op.aux.getD 1 0)
        { s.setOp c { c.op with xfer := stageMoved c s } with boot.state := .idle }
    else s

/-- DRAIN_BOUNDARY_STOP. -/
def execDrainBoundaryStop (n : Fin 32) (s : State) : Out := .next (cutRing n.val (stageStop n.val s))

end Sys2Proof.Machine
end

