-- ==== Sys2Proof/Machine/Inputs.lean ====
section
/-!
DEFINITION. FIN: analog, frequency and loss inputs, the IMU and the sensor supplies
(spec/05_field_inputs.md).
-/

namespace Sys2Proof.Machine

/-! ### Accessors -/

def State.ain (s : State) (n : Nat) : Ain := Tab.get {} s.fin.ain n
def State.setAin (s : State) (n : Nat) (x : Ain) : State := { s with fin.ain := Tab.put s.fin.ain n x }
def State.frq (s : State) (n : Nat) : Frq := Tab.get {} s.fin.frq n
def State.setFrq (s : State) (n : Nat) (x : Frq) : State := { s with fin.frq := Tab.put s.fin.frq n x }
def State.los (s : State) (n : Nat) : Los := Tab.get {} s.fin.los n
def State.setLos (s : State) (n : Nat) (x : Los) : State := { s with fin.los := Tab.put s.fin.los n x }
def State.sup (s : State) (n : Nat) : Sup := Tab.get {} s.fin.sup n
def State.setSup (s : State) (n : Nat) (x : Sup) : State := { s with fin.sup := Tab.put s.fin.sup n x }

/-- EN of a configuration word. -/
def enBit (v : Word) : Bool := bitOf v 31

/-- INPUT_FAULT (R147). -/
def inputFault (entered : Bool) (code cls n at' : Nat) (s : State) : State :=
  raiseAt at' 29 code (oneIf entered * 2 ^ 31 + cls * 256 + n) s

/-- The input converts, measures or counts: EN has been 1 since a tick boundary (R130). -/
def Ain.active (x : Ain) : Bool := enBit x.act
def Frq.active (x : Frq) : Bool := enBit x.act
def Los.active (x : Los) : Bool := enBit x.act

/-! ### Configuration writes (R130 to R132) -/

/-- SPS and SKEW (R131): period and SKEW range, in units of 1,000 counts. -/
def spsPeriod (v : Word) : Nat :=
  match bitsOf v 25 24 with
  | 0 => 4000 | 1 => 400 | 2 => 40 | _ => 20

/-- Values SKEW may take. -/
def skewRange (v : Word) : Nat :=
  match bitsOf v 25 24 with
  | 0 => 400 | 1 => 400 | 2 => 40 | _ => 20

/-- SKEW. -/
def skewOf (v : Word) : Nat := bitsOf v 8 0

/-- Two enabled inputs of one converter collide (R132). -/
def collide (a b : Word) : Bool :=
  let g := Nat.gcd (spsPeriod a) (spsPeriod b)
  skewOf a % g == skewOf b % g

/-- Input `n` with configuration `v` collides with another enabled input of its converter. -/
def ainCollides (n : Nat) (v : Word) (s : State) : Bool :=
  (List.range 8).any fun i =>
    let m := n / 8 * 8 + i
    m != n && enBit (s.ain m).cfg && collide (s.ain m).cfg v

/-- A refused configuration write is recorded in FIN_CFG_ERR. -/
def finErr (off reason : Nat) (s : State) : State := { s with fin.cfgErr := wordOf (off * 65536 + reason) }

/-- The rules of R130 for a configuration register holding `old`: reason 3, then 1, then 2. -/
def cfgReason (old v : Word) (inRange collides : Bool) : Nat :=
  if enBit old && setBit v 31 true != setBit old 31 true then 3
  else if !inRange then 1
  else if enBit v && !enBit old && collides then 2
  else 0

/-- FIN_AIN_CFG: its writable bits, and its ranges (R131, R134). -/
def ainMask : Word := 0xFF8F_F1FF
def ainInRange (v : Word) : Bool := decide (bitsOf v 30 28 ≤ 3) && decide (skewOf v < skewRange v)

/-- FIN_FRQ_CFG: its writable bits, and its ranges. -/
def frqMask : Word := 0xFCFF_FF7F
def frqInRange (v : Word) : Bool :=
  bitsOf v 30 29 != 3 && bitsOf v 15 8 != 0 && decide (bitsOf v 6 0 ≤ 99)

/-- FIN_LOS_CFG: its writable bits, and its ranges. -/
def losMask : Word := 0xF000_00FF
def losInRange (v : Word) : Bool := decide (bitsOf v 30 28 ≤ 4) && decide (2 ≤ bitsOf v 7 0)

/-- FIN_IMU_CFG: its writable bits. -/
def imuMask : Word := 0x8303_0000

/-- A configuration register written: analog, frequency, loss pad or IMU (R130). A write of EN takes
effect at the next tick boundary. -/
def finCfgWrite (off : Nat) (w : Word) (s : State) : State :=
  if 0x100 ≤ off ∧ off < 0x200 then
    let n := (off - 0x100) / 4
    let x := s.ain n
    let v := w &&& ainMask
    let e := cfgReason x.cfg v (ainInRange v) (ainCollides n v s)
    if e = 0 then s.setAin n { x with cfg := v, again := x.again || !enBit v } else finErr off e s
  else if 0x400 ≤ off ∧ off < 0x460 then
    let n := (off - 0x400) / 4
    let x := s.frq n
    let v := w &&& frqMask
    let e := cfgReason x.cfg v (frqInRange v) false
    if e = 0 then s.setFrq n { x with cfg := v, again := x.again || !enBit v } else finErr off e s
  else if 0x500 ≤ off ∧ off < 0x520 then
    let n := (off - 0x500) / 4
    let x := s.los n
    let v := w &&& losMask
    let e := cfgReason x.cfg v (losInRange v) false
    if e = 0 then s.setLos n { x with cfg := v, again := x.again || !enBit v } else finErr off e s
  else if off = 0x28 then
    let v := w &&& imuMask
    let e := cfgReason s.fin.imuCfg v true false
    if e = 0 then { s with fin.imuCfg := v } else finErr off e s
  else s

/-! ### Analog conversions (R131 to R136) -/

/-- `g` is a conversion instant of this configuration (R131). -/
def isConversion (v : Word) (g : Nat) : Bool :=
  g % 1000 == 0 && g / 1000 % spsPeriod v == skewOf v

/-- A reading as a 16-bit code, to the nearest as the examples of R134 have it (DEDUCED, log 22). -/
def adcCode (num den : Nat) : Nat := satTo (nearDiv (65536 * num) den) 0xFFFF

/-- The code of a conversion (R134): `input` in µV, or nA in range 3; `vref` in µV. -/
def ainCode (x : Ain) (n at' input vref : Nat) : Nat :=
  match bitsOf x.act 30 28 with
  | 0 => adcCode input 5000000
  | 1 => if vref = 0 then Config.noReferenceCode n % 65536 else adcCode input vref
  | 2 => adcCode input 32000000
  | _ => if x.shunt.isSome then Config.openShuntCode n at' % 9437 else adcCode input 25000000

/-- The reason a conversion is bad, 0 for a good one (R135). Of several the event names the first of reference, open
loop, over-range, window (DESIGN CHOICE, log 177). -/
def ainBad (x : Ain) (code vref : Nat) (refOn : Bool) : Nat :=
  let r := bitsOf x.act 30 28
  if r = 1 ∧ (vref < 4500000 ∨ ¬ refOn) then 4
  else if r = 3 ∧ code < 9437 then 2
  else if r = 3 ∧ 55050 < code then 3
  else if bitsOf x.act 19 12 ≠ 0 ∧ (code < bitsOf x.lim 15 0 ∨ bitsOf x.lim 31 16 < code) then 1
  else 0

/-- The fault logic after a conversion (R135, R136). -/
def ainFault (n at' why : Nat) (x : Ain) (s : State) : State :=
  let need := max 1 (bitsOf x.act 19 12)
  if why ≠ 0 then
    let bad := satTo (x.bad + 1) 255
    if !x.fault && decide (need ≤ bad) then
      inputFault true why 0 n at' { s.setAin n { x with fault := true, why := why, bad := bad, good := 0 } with
        fin.ainFlt := s.fin.ainFlt ||| BitVec.ofNat 64 (2 ^ n) }
    else s.setAin n { x with bad := bad, good := 0 }
  else
    let good := satTo (x.good + 1) 255
    if x.fault && decide (need ≤ good) then
      inputFault false x.why 0 n at' (s.setAin n { x with fault := false, bad := 0, good := good })
    else s.setAin n { x with good := good, bad := 0 }

/-- The work of FIN in the slot that holds `g` is abandoned (R28). -/
def finLate (g : Nat) (s : State) : Bool :=
  s.tick.slotLate.contains .fin && g / slotLen == s.tick.slotG / slotLen

/-- AIN_CONVERSION: at an instant of its grid, an enabled input converts and publishes (R131 to R136). -/
def ainConversion (n at' input vref : Nat) (s : State) : State :=
  let x := s.ain n
  if x.active && isConversion x.act at' && s.within at' && !finLate at' s then
    let s := s.advance at'
    let code := ainCode x n at' input vref
    let s := ainFault n at' (ainBad x code vref ((s.sup (bitsOf x.act 27 26)).st == .on)) x s
    if bitOf x.act 23 && (s.ain n).fault then s
    else publishLate (at' + 400) n (wordOf code) at' s
  else s

/-- AIN_SHUNT_OPEN: the shunt of a range 3 input opens above 30 mA (R134). -/
def ainShuntOpen (n : Nat) (s : State) : State :=
  let x := s.ain n
  if x.active && bitsOf x.act 30 28 == 3 && x.shunt.isNone then s.setAin n { x with shunt := some s.gts }
  else s

/-- AIN_SHUNT_RETRY: 100 ticks later it reconnects (R134). -/
def ainShuntRetry (n : Nat) (s : State) : State :=
  let x := s.ain n
  match x.shunt with
  | some g => s.reach (g + 100 * tickLen) fun s => s.setAin n { x with shunt := none }
  | none => s

/-! ### Frequency inputs (R137 to R139) -/

/-- FREQ_EDGE: an edge of the selected polarity after a pulse of at least MINW × 100 ns counts. -/
def freqEdge (n at' : Nat) (falling : Bool) (pulse : Nat) (s : State) : State :=
  let x := s.frq n
  if x.active && s.within at' && falling == bitOf x.act 28 && decide (bitsOf x.act 23 16 * 40 ≤ pulse) then
    (s.advance at').setFrq n { x with cnt := inc32 x.cnt, gate := x.gate + 1, last := some at' }
  else s

/-- Units per Hz (FIN_FRQ_CFG.UNIT). -/
def frqScale (v : Word) : Nat :=
  match bitsOf v 27 26 with
  | 0 => 100 | 1 => 10 | _ => 1

/-- What a gate end publishes: value and stamp (R138). -/
def gateValue (x : Frq) (at' : Nat) : Option (Nat × Nat) :=
  if bitsOf x.act 27 26 = 3 then some (x.gate, at')
  else if x.gate = 0 then
    if bitsOf x.act 15 8 * 10 * tickLen < at' - x.last.getD x.enAt then some (0, at') else none
  else match x.last, x.prev with
    | some l, some p => some (nearDiv (x.gate * 400000000 * frqScale x.act) (l - p), l)
    | _, _ => none

/-- FREQ_GATE_END: the gate that ends at phase PUB_PHASE of the present tick (R137, R138). -/
def freqGateEnd (n : Nat) (s : State) : State :=
  let x := s.frq n
  let at' := boundaryOf s.t + bitsOf x.act 6 0 * phaseLen
  let fresh := match x.gateAt with
    | some g => decide (g < at')
    | none => true
  if x.active && fresh then
    let s := (s.advance at').setFrq n { x with
      gate := 0, prev := if x.gate = 0 then x.prev else x.last, gateAt := some at' }
    match gateValue x at' with
    | some (v, stamp) => publishLate (at' + 400) (0x40 + n) (wordOf v) stamp s
    | none => s
  else s

/-! ### Loss pads (R140 to R142) -/

/-- GTS counts between two samples of a pad. -/
def losStep : Nat := 2000

/-- The envelope code of a sample behind the high-pass filter: GAIN and the absolute value. -/
def losEnvelope (cfg : Word) (v : Int) : Nat := satTo (v.natAbs * 2 ^ bitsOf cfg 30 28) 0xFFFF

/-- The last of these envelope codes is the first that is an impact: it rises above `thr` after `need` successive codes
below `rearm` since the begin. `armed`: such codes have been; `low`: the code before lay not above `thr`. -/
def firstStrike (thr rearm need : Nat) : Bool → Bool → Nat → List Nat → Bool
  | _, _, _, [] => false
  | armed, low, below, e :: r =>
    if armed && low && decide (thr < e) then r.isEmpty
    else
      let below := if e < rearm then below + 1 else 0
      firstStrike thr rearm need (armed || decide (need ≤ below)) (decide (e ≤ thr)) below r

/-- LOS_IMPACT: the envelope rises above THR after DEAD successive samples below REARM since the previous impact, or
after one since enable. `run` are the pad's samples from there on (R140). -/
def losImpact (n : Nat) (run : List Int) (s : State) : State :=
  let x := s.los n
  let at' := x.fromG + losStep * (run.length - 1)
  let need := if x.struck then bitsOf x.act 7 0 else 1
  if x.active && s.within at' &&
      firstStrike (bitsOf x.thr 31 16) (bitsOf x.thr 15 0) need false true 0 (run.map (losEnvelope x.act)) then
    (s.advance at').setLos n { x with
      count := x.count + 1, total := inc32 x.total, struck := true, fromG := at' + losStep }
  else s

/-- LOS_CAPTURE (R142): the checks; the samples come with its end. -/
def losCapture (c : OpRef) (s : State) : State :=
  needBuffer c s fun s =>
    let t := c.op.word64 7
    let pad := bitsOf (c.op.word 6) 2 0
    if c.op.len % 2 ≠ 0 ∨ 800000 < c.op.len then failOp c stLen 0 s
    else if t ≠ 0 ∧ t ≤ s.t then failOp c stLate 0 s
    else if !enBit (s.los pad).cfg then failOp c stSchema 0 s
    else startOp c [startTick s t, pad] s

/-- So many bytes of these, and zeros where they end. -/
def bytesOf (n : Nat) (bs : List Byte) : List Byte := (List.range n).map fun i => bs.getD i 0

/-- Samples of a running capture reach its buffer behind those written before (R142). -/
def captureWrite (c : OpRef) (bs : List Byte) (s : State) (k : OpRef → State → State) : State :=
  let (s, x) := writeBuffer 0x2E (c.op.addr + c.op.xfer) bs s
  let moved := c.op.xfer + x.moved
  if x.status ≠ 0 then failOp c x.status moved s
  else
    let c := { c with op := { c.op with xfer := moved } }
    k c (s.setOp c c.op)

/-- GTS of the last of the samples that a capture has written. -/
def captureEnd (o : Op) : Nat := boundaryOf (o.aux.getD 0 0) + losStep * (o.xfer / 2 - 1)

/-- The samples of the tick just ended go to the buffer of a running capture (R142). -/
def captureTick (bs : List Byte) (s : State) : State :=
  match s.opOf 17 0 (isStarted 1) with
  | none => s
  | some c =>
    if c.op.aux.getD 0 0 < s.t ∧ (s.los (c.op.aux.getD 1 0)).active ∧ c.op.xfer < c.op.len then
      captureWrite c (bytesOf (min (2 * tickLen / losStep) (c.op.len - c.op.xfer)) bs) s fun _ s => s
    else s

/-- LOS_CAPTURE_COMPLETE: with the last sample, whose GTS is the completion's, or where the pad has been disabled during
the capture. `samples` are those of the present tick (R142). -/
def losCaptureComplete (samples : List Byte) (s : State) : State :=
  match s.opOf 17 0 (isStarted 1) with
  | none => s
  | some c =>
    let start := c.op.aux.getD 0 0
    let left := c.op.len - c.op.xfer
    if s.t < start then s
    else if !(s.los (c.op.aux.getD 1 0)).active then
      finishAt (captureEnd c.op) c stIncomplete c.op.xfer 0 0 s
    else if samples.length < left then s
    else
      s.reach (captureEnd { c.op with xfer := c.op.len }) fun s =>
        captureWrite c (samples.take left) s fun c s =>
          finishAt (captureEnd c.op) c stOk c.op.len (wordOf start) (wordOf (c.op.len / 2)) s

/-! ### IMU (R143) -/

/-- Full scale of a rate in 0.001 degree/s and of an acceleration in 0.1 mg. -/
def imuScale (cfg : Word) (i : Nat) : Int :=
  if i < 3 then 125000 * 2 ^ bitsOf cfg 25 24 else 20000 * 2 ^ bitsOf cfg 17 16

/-- The six values clamped to the selected full scale. -/
def imuValues (cfg : Word) (raw : List Int) : List Int :=
  (List.range 6).map fun i => clampInt (-imuScale cfg i) (imuScale cfg i) (raw.getD i 0)

/-- IMU_SELF_CHECK. -/
def imuSelfCheck (pass : Bool) (s : State) : State := { s with fin.imuFail := !pass }

/-! ### Sensor supplies (R145, R146) -/

/-- SUPPLY (R147). -/
def supplyEvent (code k : Nat) (s : State) : State := raise 28 code k s

/-- Five ticks in LIMIT without release trip the supply (R146); a release at their very end comes too late (DESIGN
CHOICE, log 178). -/
def supDue (k : Nat) (s : State) : State :=
  let x := s.sup k
  let due := x.limitAt + 5 * tickLen
  if x.st = .limit ∧ due ≤ s.gts then
    raiseAt due 28 2 k (s.setSup k { x with st := .tripped, mA := 0 })
  else s

/-- FIN_SUP_CTL written: CLR first, then EN (R146). -/
def supCtlWrite (k : Nat) (v : Word) (s : State) : State :=
  let s := supDue k s
  let x := s.sup k
  let en := enBit v
  if !en then s.setSup k { x with en := false, st := .off, mA := 0, mV := 0 }
  else match x.st with
    | .off => s.setSup k { x with en := true, st := .on }
    | .tripped =>
      if bitOf v 30 then supplyEvent 4 k (s.setSup k { x with en := true, st := .on })
      else s.setSup k { x with en := true }
    | _ => s.setSup k { x with en := true }

/-- SUP_LIMIT: the current limit engages in ON, or releases in LIMIT (R146). -/
def supLimit (k : Nat) (engaged : Bool) (mA mV : Nat) (s : State) : State :=
  let s := supDue k s
  let x := s.sup k
  match x.st, engaged with
  | .on, true => supplyEvent 1 k (s.setSup k { x with st := .limit, mA := mA, mV := mV, limitAt := s.gts })
  | .limit, false => supplyEvent 4 k (s.setSup k { x with st := .on, mA := mA, mV := mV })
  | _, _ => s

/-- SUP_LIMIT_TIMEOUT: 5 ticks in LIMIT trip the supply (R146). -/
def supLimitTimeout (k : Nat) (s : State) : State :=
  if (s.sup k).st = .limit then s.reach ((s.sup k).limitAt + 5 * tickLen) (supDue k) else s

/-- SUP_OVERVOLTAGE_TRIP: the pin is driven above the trip (R146). -/
def supOvervoltageTrip (k mV : Nat) (s : State) : State :=
  let s := supDue k s
  let x := s.sup k
  if x.st = .on ∨ x.st = .limit then
    supplyEvent 3 k (s.setSup k { x with st := .tripped, mA := 0, mV := mV })
  else s

/-! ### The tick work of FIN -/

/-- The loss counts of the tick just ended (R140, R141). -/
def losTick (b : Nat) (clip : Tab Nat) (s : State) : State :=
  (List.range 8).foldl (fun s n =>
    let x := s.los n
    if x.active then
      let s := publishLate (b + 400) (0x58 + n) (wordOf x.count) b (s.setLos n { x with count := 0 })
      if 20 ≤ Tab.get 0 clip n then
        inputFault true 5 2 n b { s with fin.losFlt := s.fin.losFlt ||| wordOf (2 ^ n) }
      else s
    else s) s

/-- What has been written takes effect at a boundary (R130); an EN written 0 and 1 since the last switches the input off
and on. -/
def Ain.atTick (x : Ain) : Ain :=
  let y := { x with act := x.cfg, again := false }
  if enBit x.cfg && (x.again || !x.active) then { y with fault := false, bad := 0, good := 0 } else y

/-- The same of a frequency input, at the boundary `b`. -/
def Frq.atTick (b : Nat) (x : Frq) : Frq :=
  let y := { x with act := x.cfg, again := false }
  if enBit x.cfg && (x.again || !x.active) then
    { y with cnt := 0, enAt := b, gate := 0, last := none, prev := none, gateAt := none }
  else y

/-- The same of a loss pad. -/
def Los.atTick (b : Nat) (x : Los) : Los :=
  let y := { x with act := x.cfg, again := false }
  if enBit x.cfg && (x.again || !x.active) then { y with count := 0, struck := false, fromG := b } else y

/-- All inputs at a boundary. -/
def enableTick (b : Nat) (s : State) : State :=
  { s with
    fin.ain := s.fin.ain.map fun e => (e.1, e.2.atTick)
    fin.frq := s.fin.frq.map fun e => (e.1, e.2.atTick b)
    fin.los := s.fin.los.map fun e => (e.1, e.2.atTick b) }

/-- The IMU's sample at a boundary (R143). -/
def imuTick (b : Nat) (raw : List Int) (s : State) : State :=
  if enBit s.fin.imuCfg && !s.fin.imuFail then
    let vs := imuValues s.fin.imuCfg raw
    vs.zipIdx.foldl (fun s e => publishLate (b + 2 * phaseLen) (0x60 + e.2) (wordOfInt e.1) b s)
      { s with fin.imu := some (b, vs) }
  else s

/-- The measured current and voltage of supplies that conduct. -/
def supTick (m : Tab (Nat × Nat)) (s : State) : State :=
  { s with fin.sup := s.fin.sup.map fun e =>
      match Tab.find m e.1 with
      | some p =>
        (e.1, if e.2.st = .on ∨ e.2.st = .limit then { e.2 with mA := satTo p.1 0xFFF, mV := satTo p.2 0xFFFF }
          else e.2)
      | none => e }

/-- The tick work of FIN at the boundary `b`. -/
def finTick (b : Nat) (i : TickInputs) (s : State) : State :=
  let s := (List.range 6).foldl (fun s k => supDue k s) s
  supTick i.sup (imuTick b i.imu (enableTick b (captureTick i.capture (losTick b i.clip s))))

/-! ### Registers (05 "FIN registers") -/

/-- A read of the FIN window. -/
def finRead (off : Nat) (s : State) : Word × State :=
  let s := (List.range 6).foldl (fun s k => supDue k s) s
  (if off = 0x00 then s.fin.cfgErr
   else if off = 0x10 then lo32 s.fin.ainFlt
   else if off = 0x14 then hi32 s.fin.ainFlt
   else if off = 0x1C then s.fin.losFlt
   else if off = 0x20 then s.lh
   else if off = 0x24 then s.wk
   else if off = 0x28 then s.fin.imuCfg
   else if off = 0x2C then wordOf (oneIf s.fin.imuFail)
   else if 0x40 ≤ off ∧ off < 0x58 then wordOf (oneIf (s.sup ((off - 0x40) / 4)).en * 2 ^ 31)
   else if 0x60 ≤ off ∧ off < 0x78 then
     let x := s.sup ((off - 0x60) / 4)
     wordOf (x.st.code * 2 ^ 30 + satTo x.mA 0xFFF * 65536 + satTo x.mV 0xFFFF)
   else if 0x100 ≤ off ∧ off < 0x200 then (s.ain ((off - 0x100) / 4)).cfg
   else if 0x200 ≤ off ∧ off < 0x300 then (s.ain ((off - 0x200) / 4)).lim
   else if 0x400 ≤ off ∧ off < 0x460 then (s.frq ((off - 0x400) / 4)).cfg
   else if 0x480 ≤ off ∧ off < 0x4E0 then wordOf (s.frq ((off - 0x480) / 4)).cnt
   else if 0x500 ≤ off ∧ off < 0x520 then (s.los ((off - 0x500) / 4)).cfg
   else if 0x520 ≤ off ∧ off < 0x540 then (s.los ((off - 0x520) / 4)).thr
   else if 0x540 ≤ off ∧ off < 0x560 then wordOf (s.los ((off - 0x540) / 4)).total
   else 0, s)

/-- A write to the FIN window. -/
def finWrite (off : Nat) (v : Word) (s : State) : State :=
  if off = 0x10 then { s with fin.ainFlt := setLo s.fin.ainFlt (w1c (lo32 s.fin.ainFlt) v) }
  else if off = 0x14 then { s with fin.ainFlt := setHi s.fin.ainFlt (w1c (hi32 s.fin.ainFlt) v) }
  else if off = 0x1C then { s with fin.losFlt := w1c s.fin.losFlt v }
  else if 0x40 ≤ off ∧ off < 0x58 then supCtlWrite ((off - 0x40) / 4) v s
  else if 0x200 ≤ off ∧ off < 0x300 then
    let n := (off - 0x200) / 4
    s.setAin n { s.ain n with lim := v }
  else if 0x520 ≤ off ∧ off < 0x540 then
    let n := (off - 0x520) / 4
    s.setLos n { s.los n with thr := v }
  else finCfgWrite off v s

/-! ### Commands -/

/-- FIN_CFG_WRITE: a configuration register of an input. -/
def execFinCfgWrite (a : Access) (off : Nat) (v : Word) (s : State) : Out :=
  .next (gateWrite a 17 2 s (finCfgWrite off v))

/-- AIN_CONVERSION. -/
def execAinConversion (n : Fin 64) (at' input vref : Nat) (s : State) : Out :=
  .next (ainConversion n.val at' input vref s)

/-- AIN_SHUNT_OPEN. -/
def execAinShuntOpen (n : Fin 64) (s : State) : Out := .next (ainShuntOpen n.val s)

/-- AIN_SHUNT_RETRY. -/
def execAinShuntRetry (n : Fin 64) (s : State) : Out := .next (ainShuntRetry n.val s)

/-- FREQ_EDGE. -/
def execFreqEdge (n : Fin 24) (at' : Nat) (falling : Bool) (pulse : Nat) (s : State) : Out :=
  .next (freqEdge n.val at' falling pulse s)

/-- FREQ_GATE_END. -/
def execFreqGateEnd (n : Fin 24) (s : State) : Out := .next (freqGateEnd n.val s)

/-- LOS_IMPACT. -/
def execLosImpact (n : Fin 8) (run : List Int) (s : State) : Out := .next (losImpact n.val run s)

/-- LOS_CAPTURE. -/
def execLosCapture (n : Fin 32) (s : State) : Out := .next (takeOp 17 0 1 .serial n.val losCapture s)

/-- LOS_CAPTURE_COMPLETE. -/
def execLosCaptureComplete (samples : List Byte) (s : State) : Out := .next (losCaptureComplete samples s)

/-- IMU_SELF_CHECK. -/
def execImuSelfCheck (pass : Bool) (s : State) : Out := .next (imuSelfCheck pass s)

/-- SUP_EN_WRITE: FIN_SUP_CTL written without CLR. -/
def execSupEnWrite (a : Access) (k : Fin 6) (v : Word) (s : State) : Out :=
  .next (gateWrite a 17 2 s (supCtlWrite k.val (setBit v 30 false)))

/-- SUP_CLR: FIN_SUP_CTL written with CLR. -/
def execSupClr (a : Access) (k : Fin 6) (v : Word) (s : State) : Out :=
  .next (gateWrite a 17 2 s (supCtlWrite k.val (setBit v 30 true)))

/-- SUP_LIMIT. -/
def execSupLimit (k : Fin 6) (engaged : Bool) (mA mV : Nat) (s : State) : Out :=
  .next (supLimit k.val engaged mA mV s)

/-- SUP_LIMIT_TIMEOUT. -/
def execSupLimitTimeout (k : Fin 6) (s : State) : Out := .next (supLimitTimeout k.val s)

/-- SUP_OVERVOLTAGE_TRIP. -/
def execSupOvervoltageTrip (k : Fin 6) (mV : Nat) (s : State) : Out := .next (supOvervoltageTrip k.val mV s)

end Sys2Proof.Machine
end

