-- ==== Sys2Proof/Machine/Panel.lean ====
section
/-!
DEFINITION. PNL: the Cornice panel port (spec/13_cornice_panel.md, R328 to R344).
-/

namespace Sys2Proof.Machine

/-! ### Configuration fields (R343) -/

def Pnl.word (p : Pnl) (i : Nat) : Word := p.cfg.getD i 0
def Pnl.oled (p : Pnl) : Bool := bitOf (p.word 0) 31
def Pnl.segment (p : Pnl) : Bool := bitOf (p.word 0) 30
def Pnl.inv (p : Pnl) : Nat := bitsOf (p.word 0) 29 28
def Pnl.frameLen (p : Pnl) : Nat := bitsOf (p.word 0) 20 16
def Pnl.height (p : Pnl) : Nat := bitsOf (p.word 0) 7 0
def Pnl.hyst (p : Pnl) : Int := bitsOf (p.word 1) 31 24
def Pnl.statId (p : Pnl) : Nat := bitsOf (p.word 1) 23 16
def Pnl.width (p : Pnl) : Nat := bitsOf (p.word 1) 15 0
def Pnl.statEn (p : Pnl) : Bool := bitOf (p.word 2) 31
def Pnl.blinkA (p : Pnl) : Nat := bitsOf (p.word 2) 26 16
def Pnl.blinkB (p : Pnl) : Nat := bitsOf (p.word 2) 10 0
def Pnl.ageK (p : Pnl) : Nat := bitsOf (p.word 3) 31 16
def Pnl.driveUa (p : Pnl) : Nat := bitsOf (p.word 3) 8 0
def Pnl.rx (p : Pnl) (r : Nat) : Nat := bitsOf (p.word (16 + r)) 31 24
def Pnl.ry (p : Pnl) (r : Nat) : Nat := bitsOf (p.word (16 + r)) 23 16
def Pnl.rw (p : Pnl) (r : Nat) : Nat := bitsOf (p.word (16 + r)) 15 8
def Pnl.rh (p : Pnl) (r : Nat) : Nat := bitsOf (p.word (16 + r)) 7 0

/-- Dots or segments of the panel. -/
def Pnl.dots (p : Pnl) : Nat := p.width * p.height

/-- Regions 0 to 15 and stress regions 0 to 63. -/
def pnlRegions : List Nat := List.range 16
def stressRegions : List Nat := List.range 64

/-! ### Events and states -/

/-- PNL_ERR_LAST. -/
def pnlErr (opc reason word : Nat) (s : State) : State :=
  { s with pnl.errLast := wordOf (opc * 2 ^ 24 + reason * 65536 + word) }

/-- A change of state (R340). -/
def pnlState (st : PnlState) (s : State) : State :=
  if s.pnl.state = st then s else raise 448 st.code (s.t % 2 ^ 24) { s with pnl.state := st }

/-! ### Bands (R331, R332) -/

/-- PNL_BAND of band `b`, its UPPER and VLCD. -/
def Pnl.bandWord (p : Pnl) (b : Nat) : Word := Tab.get 0 p.bands b
def Pnl.upper (p : Pnl) (b : Nat) : Int := sbitsOf (p.bandWord b) 31 16
def Pnl.bandVolt (p : Pnl) (b : Nat) : Nat := bitsOf (p.bandWord b) 10 0

/-- The band that contains a temperature. -/
def Pnl.bandOf (p : Pnl) (t : Int) : Nat := ((List.range 7).find? fun b => decide (t ≤ p.upper b)).getD 7

/-- The temperature leaves the band by the hysteresis. -/
def Pnl.leaves (p : Pnl) (b : Nat) (t : Int) : Bool :=
  (decide (b < 7) && decide (p.upper b + p.hyst < t)) || (b != 0 && decide (t ≤ p.upper (b - 1) - p.hyst))

/-- BAND. -/
def bandNote (code b g : Nat) (s : State) : State :=
  raiseAt g 449 code (b * 65536 + (wordOfInt s.pnl.temp).toNat % 65536) s

/-- The comparison at the boundary of tick `t`. -/
def bandCheck (t : Nat) (s : State) : State :=
  let p := s.pnl
  let ref := (p.pend.map fun e => e.1).getD p.band
  if p.state ≠ .run ∨ p.fail ∨ p.stopping ∨ !p.leaves ref p.temp then s
  else
    let b := p.bandOf p.temp
    if b = p.band then bandNote 3 b (boundaryOf t) { s with pnl.pend := none }
    else bandNote 1 b (boundaryOf t) { s with pnl.pend := some (b, t) }

/-! ### The frame store (R333, R336) -/

/-- Byte of a page. -/
def Pnl.dot (p : Pnl) (page : Bool) (i : Nat) : Byte := Tab.get 0 p.store (oneIf page * 16384 + i)

/-- The bytes of a shadow reach a page; bits 5:4 read 0. -/
def commitBytes (r : Nat) (page : Bool) (bs : List Byte) (p : Pnl) : Pnl :=
  { p with store := bs.zipIdx.foldl (fun t e =>
      let x := p.rx r + e.2 % p.rw r
      let y := p.ry r + e.2 / p.rw r
      Tab.put t (oneIf page * 16384 + y * p.width + x) (e.1 &&& (0xCF : Byte))) p.store }

/-- Blink period in its on half at `t` (R333). -/
def blinkOn (period t : Nat) : Bool := decide (t % period * 2 < period)

/-- Level that a byte shows at tick `t`. -/
def levelAt (p : Pnl) (t : Nat) (b : Byte) : Nat :=
  let on := match b.toNat / 64 with
    | 0 => true
    | 1 => blinkOn p.blinkA t
    | 2 => blinkOn p.blinkB t
    | _ => !blinkOn p.blinkA t
  if on then b.toNat % 16 else 0

/-- The dot at (x, y) is driven with positive polarity (R329). -/
def dotPositive (p : Pnl) (x y : Nat) : Bool :=
  match p.inv with
  | 0 => p.pos
  | 1 => p.pos == (y % 2 == 0)
  | _ => p.pos == ((x + y) % 2 == 0)

/-! ### OLED ageing (R338) -/

/-- The stress region of dot `i`. -/
def stressOf (p : Pnl) (i : Nat) : Nat :=
  if p.segment then 64 * i / p.width
  else 16 * (4 * (i / p.width) / p.height) + 16 * (i % p.width) / p.width

/-- L of a stress region. -/
def wear (p : Pnl) (r : Nat) : Nat := min 32767 (Tab.get 0 p.stress r * p.ageK / 2 ^ 24)

/-- L_max. -/
def wearMax (p : Pnl) : Nat := stressRegions.foldl (fun m r => max m (wear p r)) 0

/-- Drive of every stress region in 1/65,536. -/
def driveScale (p : Pnl) : List Nat := stressRegions.map fun r => 65536 - (wearMax p - wear p r)

/-- The drive of dot `i` at level `l` in the frame: an LCD's VLCD with the dot's polarity, mV; an OLED's share of its
scaled drive, 1/983,040 µA (R329, R333, R338). -/
def dotDrive (p : Pnl) (i l : Nat) : Int :=
  if p.oled then p.driveUa * p.drive.getD (stressOf p i) 65536 * l
  else if l = 0 then 0
  else if dotPositive p (i % p.width) (i / p.width) then p.volt else -(p.volt : Int)

/-- A counter takes its minute. -/
def stressAdd (b : Nat) (s : State) (r : Nat) : State :=
  let p := s.pnl
  let old := Tab.get 0 p.stress r
  let new := satTo (old + Tab.get 0 p.levels r / (15 * p.frames)) max32
  let s := { s with pnl.stress := Tab.put p.stress r new }
  if new = max32 ∧ old ≠ max32 then raiseAt b 452 1 r s else s

/-- The minute's end. -/
def stressMinute (b : Nat) (s : State) : State :=
  let s := if s.pnl.oled && s.pnl.frames != 0 then stressRegions.foldl (stressAdd b) s else s
  { s with pnl.levels := [], pnl.frames := 0, pnl.minuteT := b / tickLen }

/-! ### The status line (R335) -/

/-- `n` decimal digits of a number. -/
def digits : Nat → Nat → List Char
  | 0, _ => []
  | n + 1, v => digits n (v / 10) ++ [Char.ofNat (48 + v % 10)]

/-- Channels in LATCHED. -/
def latchedCount (s : State) : Nat := (s.lsw.ch.filter fun e => e.2.st == .latched).length

/-- The fifteen characters. -/
def statusLine (s : State) : List Char :=
  (if s.mode = .descent then 'D' else 'R') :: ' ' :: digits 6 (s.recorder.hours / 100) ++ '.' ::
    digits 2 s.recorder.hours ++ ' ' :: 'L' :: digits 2 (latchedCount s)

/-- The status line as a region's bytes. -/
def statusBytes (s : State) : List Byte :=
  let p := s.pnl
  let w := p.rw p.statId
  (List.range (w * p.rh p.statId)).map fun i => Config.statusDot (statusLine s) (i % w) (i / w)

/-- The status line is rendered: it runs, or waits behind a running update. -/
def statusRender (s : State) : State :=
  let key := 2 * s.pnl.statId + 1
  let bs := statusBytes s
  if (Tab.find s.pnl.shadow key).isSome then { s with pnl.statWait := some bs }
  else { s with pnl.shadow := Tab.put s.pnl.shadow key bs }

/-! ### REGION_WRITE (R336, R337) -/

/-- An operation of a region and page, running or waiting (aux: key, running). -/
def regionOp (s : State) (key run : Nat) : Option OpRef :=
  s.opOf 10 1 fun o => o.stage == .started && o.aux == [key, run]

/-- An update starts: its bytes are copied into the shadow; stopped by a drain it still commits (R337, log 196). -/
def regionRun (key : Nat) (c : OpRef) (s : State) : State :=
  let (s, x) := readBuffer 0x28 c.op.addr c.op.len s
  if x.status ≠ 0 then failOp c x.status x.moved s
  else startRead c [key, 1] { s with pnl.shadow := Tab.put s.pnl.shadow key x.bytes }

/-- A SCHEMA refusal. -/
def pnlSchema (c : OpRef) (xfer reason word : Nat) (s : State) : State :=
  failOp c stSchema xfer (pnlErr c.op.opcode reason word s)

/-- The fallback timer starts again (R334). -/
def pnlKick (s : State) : State := { s with pnl.kickT := s.t, pnl.expired := none }

/-- REGION_WRITE. -/
def regionWrite (c : OpRef) (s : State) : State :=
  needBuffer c s fun s =>
    let p := s.pnl
    let r := bitsOf (c.op.word 6) 3 0
    let page := bitOf (c.op.word 6) 8
    let key := 2 * r + oneIf page
    if p.state ≠ .run then failOp c stBusy 0 s
    else if page && p.statEn && r == p.statId then pnlSchema c 0 3 0 s
    else if c.op.len ≠ p.rw r * p.rh r then failOp c stLen 0 s
    else
      let s := pnlKick s
      if (Tab.find p.shadow key).isNone then regionRun key c s
      else
        let s := match regionOp s key 0 with
          | some w => failOp w stStale 0 s
          | none => s
        startOp c [key, 0] s

/-- The running update of a key commits at the frame start, and the waiting one starts. -/
def commitKey (b : Nat) (s : State) (key : Nat) : State :=
  match Tab.find s.pnl.shadow key with
  | none => s
  | some bs =>
    let s := { s with
      pnl := { commitBytes (key / 2) (key % 2 == 1) bs s.pnl with shadow := Tab.del s.pnl.shadow key } }
    let s := match regionOp s key 1 with
      | some c => finishAt b c stOk c.op.len (wordOf (b / tickLen)) 0 s
      | none => s
    if s.pnl.statEn && key == 2 * s.pnl.statId + 1 then
      match s.pnl.statWait with
      | some w => { s with pnl.shadow := Tab.put s.pnl.shadow key w, pnl.statWait := none }
      | none => s
    else match regionOp s key 0 with
      | some c => regionRun key c s
      | none => s

/-- Commits of a frame start, in rising region number. -/
def commitAll (b : Nat) (s : State) : State := (List.range 32).foldl (commitKey b) s

/-! ### Frames (R329 to R334) -/

/-- The glass goes dark: VLCD 0 and nothing driven (R340). -/
def pnlDark (s : State) : State :=
  { s with pnl.stopping := false, pnl.pend := none, pnl.picture := [], pnl.glass := [], pnl.volt := 0 }

/-- The stop at the end of the inversion pair: LOADED, and the STOP is posted. -/
def pnlHalt (b : Nat) (s : State) : State :=
  let s := pnlState .loaded (pnlDark s)
  (s.opsOf 10 0 (isStarted 3)).foldl (fun s c => finishAt b c stOk 0 (wordOf (b / tickLen)) 0 s) s

/-- A pending band is applied at a positive frame start after its latch; with FAIL 1 the applied band holds (R332). -/
def bandApply (t : Nat) (s : State) : State :=
  match s.pnl.pend with
  | some (b, u) =>
    if s.pnl.pos ∧ u < t ∧ !s.pnl.fail then
      bandNote 2 b (boundaryOf t) { s with pnl.band := b, pnl.pend := none }
    else s
  | none => s

/-- The page shown in the frame: FALLBACK from the first frame start after the tick in which its timer expired, since
a kick in that tick counts first (R334, R341). -/
def pageChoose (t : Nat) (s : State) : State :=
  let p := s.pnl
  let due := p.expired.any fun u => decide (u < t)
  let note := (fun (code : Nat) (s : State) => raiseAt (boundaryOf t) 450 code (t % 2 ^ 24) s)
  let s := if due = p.fallback then s else note (if due then 1 else 2) s
  { s with pnl.fallback := due, pnl.shown := due || p.page }

/-- The picture of the frame, with its drive, counted for the minute. -/
def pictureTake (t : Nat) (s : State) : State :=
  let p := s.pnl
  let pic := (List.range p.dots).map fun i => levelAt p t (p.dot p.shown i)
  let levels := pic.zipIdx.foldl (fun l e =>
    let r := stressOf p e.2
    Tab.put l r (Tab.get 0 l r + e.1)) p.levels
  let q := { p with
    picture := pic, drive := driveScale p, volt := if p.oled then 0 else p.bandVolt p.band * 10
    levels := levels, frames := p.frames + 1 }
  { s with pnl := { q with glass := pic.zipIdx.map fun e => dotDrive q e.2 e.1 } }

/-- A frame of the run. -/
def frameRun (t : Nat) (s : State) : State :=
  pictureTake t (pageChoose t (commitAll (boundaryOf t) (bandApply t s)))

/-- PANEL_FRAME_START: the boundary of a tick with T mod FRAME_T = 0. Updates commit at every frame start, the glass
dark or not (R337, log 124). -/
def panelFrame (s : State) : State :=
  let t := s.t
  let p := s.pnl
  if p.state = .empty ∨ p.frameLen = 0 ∨ t % p.frameLen ≠ 0 ∨ p.frameT = some t then s
  else
    let b := boundaryOf t
    let pos := t / p.frameLen % 2 == 0
    let s := { s with pnl.frameT := some t, pnl.pos := pos }
    if p.state ≠ .run then commitAll b s
    else if p.stopping && pos then pnlHalt b (commitAll b s)
    else match p.first with
      | some t0 => if pos && decide (t0 ≤ t) then frameRun t { s with pnl.first := none } else commitAll b s
      | none => frameRun t s

/-- PANEL_FALLBACK: the timeout of R334. -/
def panelFallback (s : State) : State :=
  let p := s.pnl
  if p.fbTmo ≠ 0 ∧ p.kickT + 10 * p.fbTmo ≤ s.t ∧ p.expired = none then { s with pnl.expired := some s.t } else s

/-- VLCD_FAULT: in current limit for 10 successive ticks (R340). -/
def vlcdFault (s : State) : State :=
  if s.pnl.state ≠ .run ∨ s.pnl.limitTicks < 10 then s
  else
    let s := raise 451 1 (s.pnl.vlcd.2 % 65536) s
    let s := pnlState .fault (pnlDark s)
    (s.opsOf 10 0 (isStarted 3)).foldl (fun s c => finishOp c stOk 0 (wordOf s.t) 0 s) s

/-- A stop at the end of the next negative frame, with the pending band dropped. -/
def pnlStopNow (s : State) : State :=
  if s.pnl.state = .run then { s with pnl.stopping := true, pnl.pend := none } else s

/-- The work of boundary `b`. -/
def pnlTick (b : Nat) (i : TickInputs) (s : State) : State :=
  let t := b / tickLen
  let limited := decide (s.pnl.state = .run) && decide (8000 + Config.vlcdLimitOver ≤ i.vlcd.1)
  let s := { s with pnl.vlcd := i.vlcd, pnl.limitTicks := if limited then s.pnl.limitTicks + 1 else 0 }
  let s := match i.ntc with
    | some v => { s with pnl.temp := clampInt (-400) 1050 v, pnl.fail := false }
    | none => { s with pnl.fail := true }
  let s := bandCheck t s
  let s := if s.pnl.state = .run ∧ s.pnl.statEn ∧ t % 1000 = 0 then statusRender s else s
  if t % 60000 = 0 then stressMinute b s else s

/-- PD12 off, or a time base start. -/
def pnlReset (s : State) : State := { pnlState .empty s with pnl := {} }

/-! ### Ring operations (R342, R343) -/

/-- The listed bits of the configuration words (R8, R343). -/
def pnlCfgMask (i : Nat) : Word :=
  match i with
  | 0 => 0xF01F_00FF | 1 => 0xFFFF_FFFF | 2 => 0x87FF_07FF | 3 => 0xFFFF_01FF
  | _ => if 16 ≤ i then 0xFFFF_FFFF else 0

/-- The first fault of a configuration: reason and word. -/
def pnlFault (ws : List Word) : Option (Nat × Nat) :=
  let p : Pnl := { cfg := ws }
  let checks : List (Nat × Nat × Bool) :=
    [ (1, 0, within 0 2 p.inv && within 8 20 p.frameLen &&
        (if p.segment then p.height == 1 else within 8 64 p.height)),
      (1, 1, within 0 50 p.hyst && within 0 15 p.statId &&
        (if p.segment then within 1 160 p.width else within 16 240 p.width)),
      (1, 2, within 100 2000 p.blinkA && within 100 2000 p.blinkB),
      (1, 3, !p.oled || within 10 400 p.driveUa) ] ++
    (pnlRegions.map fun r => (2, 16 + r, decide (1 ≤ p.rw r) && decide (1 ≤ p.rh r) &&
        decide (p.rx r + p.rw r ≤ p.width) && decide (p.ry r + p.rh r ≤ p.height))) ++
    [ (3, 2, !p.statEn || (!p.segment && decide (90 ≤ p.rw p.statId) && decide (8 ≤ p.rh p.statId))) ]
  (checks.find? fun e => !e.2.2).map fun e => (e.1, e.2.1)

/-- CFG_LOAD. -/
def pnlCfgLoad (c : OpRef) (s : State) : State :=
  needBuffer c s fun s =>
    if c.op.len ≠ 128 then failOp c stLen 0 s
    else if s.pnl.state = .run then failOp c stBusy 0 s
    else readWhole 0x28 c s fun bs s =>
      let ws := maskWords pnlCfgMask (leWords 32 bs)
      match pnlFault ws with
      | some (reason, w) => pnlSchema c 128 reason w s
      | none => finishOp c stOk 128 0 0 (pnlState .loaded { s with pnl.cfg := ws })

/-- The first positive frame start at or after tick `t`. -/
def firstFrame (p : Pnl) (t : Nat) : Nat :=
  let n := 2 * p.frameLen
  (t + n - 1) / n * n

/-- START. -/
def pnlStart (c : OpRef) (s : State) : State :=
  let p := s.pnl
  let v := c.op.word64 6
  if p.state ≠ .loaded ∨ !p.en then failOp c stBusy 0 s
  else match (List.range 6).find? fun b => !decide (p.upper b < p.upper (b + 1)) with
    | some b => pnlSchema c 0 1 b s
    | none =>
      if v ≠ 0 ∧ v ≤ s.t then failOp c stLate 0 s
      else
        let t0 := firstFrame p (startTick s v)
        let b := p.bandOf p.temp
        let s := pnlState .run { s with pnl := { p with
          first := some t0, stopping := false, band := b, pend := none, limitTicks := 0 } }
        finishOp c stOk 0 (wordOf t0) (wordOf b) s

/-- STOP. -/
def pnlStop (c : OpRef) (s : State) : State :=
  if s.pnl.state ≠ .run then failOp c stBusy 0 s else startOp c [] (pnlStopNow s)

/-- STRESS_LOAD. -/
def stressLoad (c : OpRef) (s : State) : State :=
  needBuffer c s fun s =>
    if c.op.len ≠ 256 then failOp c stLen 0 s
    else if s.pnl.state ≠ .loaded then failOp c stBusy 0 s
    else if !s.pnl.oled then pnlSchema c 0 1 0 s
    else readWhole 0x28 c s fun bs s =>
      let ws := leWords 64 bs
      finishOp c stOk 256 64 0 { s with pnl.stress := ws.zipIdx.map fun e => (e.2, e.1.toNat) }

/-- STRESS_READ. -/
def stressRead (c : OpRef) (s : State) : State :=
  needBuffer c s fun s =>
    if c.op.len ≠ 256 then failOp c stLen 0 s
    else writeOut 0x28 c (stressRegions.flatMap fun r => leBytes 4 (Tab.get 0 s.pnl.stress r))
      (wordOf s.pnl.minuteT) (wordOf (wearMax s.pnl)) s

/-! ### Registers -/

/-- PNL_CTL written. -/
def pnlCtlWrite (v : Word) (s : State) : State :=
  let s := { s with pnl.en := bitOf v 31, pnl.page := bitOf v 30, pnl.fbTmo := bitsOf v 23 16 }
  if bitOf v 31 then s else pnlStopNow s

/-- PNL_BAND written. -/
def bandWrite (b : Nat) (v : Word) (s : State) : State :=
  if s.pnl.state = .run then pnlErr 0 4 b s
  else { s with pnl.bands := Tab.put s.pnl.bands b (v &&& (0xFFFF_07FF : Word)) }

/-- A read of the PNL window. -/
def pnlRead (off : Nat) (s : State) : Word × State :=
  let p := s.pnl
  if off = 0x00 then (wordOf (oneIf p.en * 2 ^ 31 + oneIf p.page * 2 ^ 30 + p.fbTmo * 65536), s)
  else if off = 0x04 then
    (wordOf (p.state.code * 2 ^ 28 + oneIf p.shown * 2 ^ 27 + oneIf p.fallback * 2 ^ 26 + oneIf p.pos * 2 ^ 25 +
      oneIf p.pend.isSome * 2 ^ 24 + p.band * 2 ^ 21 + ((p.pend.map fun e => e.1).getD 0) * 2 ^ 18), s)
  else if off = 0x08 then (p.errLast, s)
  else if off = 0x0C then (wordOf (oneIf p.fail * 2 ^ 31 + (wordOfInt p.temp).toNat % 65536), s)
  else if off = 0x10 then (wordOf (satTo p.vlcd.1 0xFFFF * 65536 + satTo p.vlcd.2 0xFFFF), s)
  else if 0x20 ≤ off ∧ off < 0x40 then (p.bandWord ((off - 0x20) / 4), s)
  else (0, s)

/-- A write to the PNL window. -/
def pnlWrite (off : Nat) (v : Word) (s : State) : State :=
  if off = 0x00 then pnlCtlWrite v s
  else if off = 0x14 then pnlKick s
  else if 0x20 ≤ off ∧ off < 0x40 then bandWrite ((off - 0x20) / 4) v s
  else s

/-! ### Commands -/

/-- PANEL_FRAME_START. -/
def execPanelFrameStart (s : State) : Out := whileOn 12 s panelFrame

/-- PANEL_FALLBACK. -/
def execPanelFallback (s : State) : Out := whileOn 12 s panelFallback

/-- PNL_KICK written. -/
def execPnlKick (a : Access) (_v : Word) (s : State) : Out := .next (gateWrite a 10 12 s pnlKick)

/-- VLCD_FAULT. -/
def execVlcdFault (s : State) : Out := whileOn 12 s vlcdFault

/-- PNL_CTL written. -/
def execPnlCtlWrite (a : Access) (v : Word) (s : State) : Out := .next (gateWrite a 10 12 s (pnlCtlWrite v))

/-- CFG_LOAD of PNL. -/
def execPnlCfgLoad (n : Fin 32) (s : State) : Out := .next (takeOp 10 0 1 .serial n.val pnlCfgLoad s)

/-- START of PNL. -/
def execPnlStart (n : Fin 32) (s : State) : Out := .next (takeOp 10 0 2 .serial n.val pnlStart s)

/-- STOP of PNL. -/
def execPnlStop (n : Fin 32) (s : State) : Out := .next (takeOp 10 0 3 .serial n.val pnlStop s)

/-- STRESS_LOAD. -/
def execStressLoad (n : Fin 32) (s : State) : Out := .next (takeOp 10 0 4 .serial n.val stressLoad s)

/-- STRESS_READ. -/
def execStressRead (n : Fin 32) (s : State) : Out := .next (takeOp 10 0 5 .serial n.val stressRead s)

/-- REGION_WRITE. -/
def execRegionWrite (n : Fin 32) (s : State) : Out := .next (takeOp 10 1 0x10 .parallel n.val regionWrite s)

end Sys2Proof.Machine
end

