-- ==== Sys2Proof/Machine/Mailbox.lean ====
section
/-!
DEFINITION. MBX: mailboxes and pitons (spec/03_mailboxes_and_pitons.md).
-/

namespace Sys2Proof.Machine

/-! ### Endpoints and fields -/

/-- An initiator ID that is an endpoint: a core (R71). -/
def isEndpoint (id : Nat) : Bool :=
  (decide (1 ≤ id) && decide (id ≤ 8)) || (decide (0x10 ≤ id) && decide (id ≤ 0x15))

/-- The domain of an endpoint (R71). -/
def endpointDomain (id : Nat) : Nat := if id ≤ 7 then 2 else if id = 8 then 1 else 3

/-- Every endpoint. -/
def endpoints : List Nat := [1, 2, 3, 4, 5, 6, 7, 8, 0x10, 0x11, 0x12, 0x13, 0x14, 0x15]

/-- MBX_CFG.SENDER. -/
def MBox.sender (b : MBox) : Nat := bitsOf b.cfg 7 0

/-- MBX_CFG.RECEIVER. -/
def MBox.receiver (b : MBox) : Nat := bitsOf b.cfg 15 8

/-- Mailbox `m`. -/
def State.box (s : State) (m : Nat) : MBox := Tab.get {} s.mbx.boxes m

/-- Mailbox `m` replaced. -/
def State.setBox (s : State) (m : Nat) (b : MBox) : State :=
  { s with mbx.boxes := Tab.put s.mbx.boxes m b }

/-- The epoch of an endpoint (R72). -/
def State.epoch (s : State) (id : Nat) : Nat := Tab.get 0 s.mbx.epochs id

/-- Mailboxes 0 to 63. -/
def boxNumbers : List Nat := List.range 64

/-- Bit `m` of a 64-bit mask set. -/
def setBit64 (v : BitVec 64) (m : Nat) : BitVec 64 := v ||| BitVec.ofNat 64 (2 ^ m)

/-! ### The handshake (R75 to R78) -/

/-- REFUSED (R91). -/
def mbxRefused (m : Nat) (a : Access) (reason : Nat) (s : State) : State :=
  raise (65 + 2 * m) 3 (a.ini.id * 2 ^ 24 + reason) s

/-- A non-secure access to a secure mailbox (R73). -/
def mbxInsecure (m : Nat) (a : Access) : Bool := decide (m < 32) && !secureOf a

/-- The mailbox becomes FREE: data cleared, EMPTIED raised, MBX_TXDONE set (R75, R81, R91). -/
def emptyBox (m : Nat) (flushed domainOff : Bool) (s : State) : State :=
  let b := s.box m
  let s := s.setBox m { b with posted := false, flushedLast := flushed, data := [] }
  raise (65 + 2 * m) 1
    (oneIf flushed * 2 ^ 31 + oneIf domainOff * 2 ^ 29 + b.receiver * 256 + s.epoch b.receiver)
    { s with mbx.txdone := setBit64 s.mbx.txdone m }

/-- A GO that passed: SEP and REP latched, ARRIVED raised (R75, R91). -/
def postBox (m : Nat) (s : State) : State :=
  let b := s.box m
  let sep := s.epoch b.sender
  raise (64 + 2 * m) 1 (b.sender * 2 ^ 24 + sep * 65536 + oneIf b.pointer * 256 + b.len)
    (s.setBox m { b with posted := true, flushedLast := false, sep := sep, rep := s.epoch b.receiver })

/-- MBX_CTL.GO: the checks of R76 in order. -/
def mbxGo (a : Access) (m : Nat) (s : State) : State :=
  let b := s.box m
  if mbxInsecure m a then (mbxRefused m a 1 s).reply a .error
  else if b.posted then mbxRefused m a 3 s
  else if !isEndpoint b.sender || !isEndpoint b.receiver then mbxRefused m a 5 s
  else if a.ini.id ≠ b.sender then mbxRefused m a 2 s
  else if !s.pdOn (endpointDomain b.receiver) then
    (raise (65 + 2 * m) 2 (b.receiver * 256 + endpointDomain b.receiver) s).reply a .error
  else if !b.pointer && decide (48 < b.len) then mbxRefused m a 4 s
  else postBox m s

/-- MBX_CTL.REL (R78). On a FREE mailbox it raises nothing, whoever writes it (DEDUCED, log 172). -/
def mbxRel (a : Access) (m : Nat) (s : State) : State :=
  let b := s.box m
  if mbxInsecure m a then (mbxRefused m a 1 s).reply a .error
  else if !b.posted then s
  else if a.ini.id ≠ b.receiver then mbxRefused m a 2 s
  else emptyBox m false false s

/-- A write to MBX_CTL: GO and REL in one write are ignored with reason 3. -/
def mbxCtlWrite (a : Access) (m : Nat) (v : Word) (s : State) : State :=
  if mbxInsecure m a then (mbxRefused m a 1 s).reply a .error
  else if bitOf v 0 && bitOf v 1 then mbxRefused m a 3 s
  else if bitOf v 0 then mbxGo a m s
  else if bitOf v 1 then mbxRel a m s
  else s

/-- MBX_CFG written: ignored while the mailbox is not FREE (R74). -/
def mbxCfgWrite (a : Access) (m : Nat) (v : Word) (s : State) : State :=
  let b := s.box m
  if mbxInsecure m a then (mbxRefused m a 1 s).reply a .error
  else if b.posted then s
  else s.setBox m { b with cfg := v &&& (0xC000_FFFF : Word) }

/-- MBX_HDR (03 table). -/
def hdrWord (s : State) (m : Nat) : Word :=
  let b := s.box m
  wordOf (oneIf b.posted * 2 ^ 31 + oneIf (!b.posted) * 2 ^ 30 + oneIf b.pointer * 2 ^ 29
    + oneIf (b.posted && b.sep != s.epoch b.sender) * 2 ^ 28 + oneIf b.flushedLast * 2 ^ 27
    + b.sep * 65536 + b.rep * 256 + b.len)

/-- A refused access to MODE, LEN or MBX_DATA (R77). -/
def mbxDenied (a : Access) (m reason : Nat) (s : State) : State := (mbxRefused m a reason s).reply a .error

/-- Why an access to MBX_HDR (word 0) or MBX_DATA (word 1 to 12) is refused: R73's reason, then R77's. A wrong initiator
comes before a write while POSTED where both hold (DEDUCED, log 172). -/
def mbxBar (a : Access) (m word : Nat) (write : Bool) (s : State) : Option Nat :=
  let b := s.box m
  if mbxInsecure m a then some 1
  else if write then (if a.ini.id ≠ b.sender then some 2 else if b.posted then some 3 else none)
  else if word = 0 ∨ a.ini.id = b.sender ∨ a.ini.id = b.receiver then none
  else some 2

/-- A write to MBX_HDR (word 0) or MBX_DATA (word 1 to 12): only by SENDER while FREE (R77). -/
def mbxFieldWrite (a : Access) (m word : Nat) (v : Word) (s : State) : State :=
  let b := s.box m
  match mbxBar a m word true s with
  | some reason => mbxDenied a m reason s
  | none =>
    if word = 0 then s.setBox m { b with pointer := bitOf v 29, len := bitsOf v 5 0 }
    else s.setBox m { b with data := Tab.put b.data (word - 1) v }

/-- A read of MBX_HDR (word 0), open, or MBX_DATA (word 1 to 12), only by SENDER and RECEIVER (R77). -/
def mbxFieldRead (a : Access) (m word : Nat) (s : State) : State :=
  match mbxBar a m word false s with
  | some reason => mbxDenied a m reason s
  | none => s.replyWord a (if word = 0 then hdrWord s m else Tab.get 0 (s.box m).data (word - 1))

/-! ### Resets and power-off of either side (R72, R82 to R85, R90) -/

/-- The posted mailboxes whose receiver is one of these are flushed, in number order. -/
def flushReceivers (ids : List Nat) (domainOff : Bool) (s : State) : State :=
  boxNumbers.foldl (fun s m =>
    if (s.box m).posted && ids.contains (s.box m).receiver then emptyBox m true domainOff s else s) s

/-- The pitons these initiators own are freed and marked (R90). -/
def freePitons (ids : List Nat) (s : State) : State :=
  let owned := s.mbx.pitons.filter fun e => e.2 != 0 && ids.contains e.2
  { s with
    mbx.pitons := owned.foldl (fun t e => Tab.put t e.1 0) s.mbx.pitons
    mbx.freed := owned.foldl (fun v e => setBit64 v e.1) s.mbx.freed }

/-- The epochs of these endpoints count one more (R72). -/
def bumpEpochs (ids : List Nat) (s : State) : State :=
  { s with mbx.epochs := ids.foldl (fun t i => Tab.put t i ((Tab.get 0 t i + 1) % 256)) s.mbx.epochs }

/-- The mailbox side of a reset of these cores: new epochs, flush as receiver, pitons freed. -/
def resetEndpoints (ids : List Nat) (s : State) : State :=
  freePitons ids (flushReceivers ids false (bumpEpochs ids s))

/-- The mailbox side of a domain of these initiators going off (R82, R90). -/
def endpointsOff (ids : List Nat) (s : State) : State := freePitons ids (flushReceivers ids true s)

/-- PD2 powers down: every posted mailbox is flushed, in number order, and the block returns to its
reset values but for the epochs (R85). -/
def mbxPowerDown (s : State) : State :=
  let s := boxNumbers.foldl (fun s m => if (s.box m).posted then emptyBox m true true s else s) s
  { s with mbx := { epochs := s.mbx.epochs } }

/-! ### Interrupts (R86) -/

/-- The mailbox interrupt line of an endpoint (R86). -/
def mbxIrq (s : State) (id : Nat) : Bool :=
  boxNumbers.any fun m =>
    let b := s.box m
    (b.posted && b.receiver == id && bitOf b.cfg 31)
      || (s.mbx.txdone.getLsbD m && b.sender == id && bitOf b.cfg 30)

/-! ### Pitons (R87 to R89) -/

/-- The owner of piton `k`, 0 free. -/
def State.piton (s : State) (k : Nat) : Nat := Tab.get 0 s.mbx.pitons k

/-- An access refused without an event: error response, MBX_VIOL_CNT (R73, R87). -/
def mbxViolation (s : State) : State := { s with mbx.viol := countUp s.mbx.viol max32 }

/-- One 32-bit read of piton `k` by an initiator: what it returns, and the state after (R87). -/
def pitonRead (k id : Nat) (s : State) : Word × State :=
  let o := s.piton k
  if o = 0 then (0, { s with mbx.pitons := Tab.put s.mbx.pitons k id })
  else (wordOf (0x8000_0000 + o), s)

/-- Readers of one cycle in the fixed initiator order (R10, R88). -/
def insertReader (a : Access) : List Access → List Access
  | [] => [a]
  | b :: r => if a.ini.id ≤ b.ini.id then a :: b :: r else b :: insertReader a r

/-- The readers in order of initiator ID. -/
def sortReaders (l : List Access) : List Access := l.foldr insertReader []

/-- One reader of piton `k` through the fabric, its answer added. -/
def pitonServe (k : Nat) (wide : Bool) (s : State) (a : Access) : State :=
  let before := s.resp
  let s := gate a 3 2 s fun s =>
    if wide then (mbxViolation s).reply a .error
    else
      let (w, s) := pitonRead k a.ini.id s
      s.replyWord a w
  { s with resp := before ++ s.resp }

/-- Reads of piton `k` in one cycle (R88). -/
def pitonAcquire (k : Nat) (readers : List Access) (wide : Bool) (s : State) : State :=
  (sortReaders readers).foldl (pitonServe k wide) { s with resp := [] }

/-- A write to piton `k` (R89). -/
def pitonRelease (a : Access) (k : Nat) (v : Word) (s : State) : State :=
  let o := s.piton k
  if o ≠ 0 ∧ a.ini.id = o ∧ v.toNat = o then { s with mbx.pitons := Tab.put s.mbx.pitons k 0 }
  else raise 491 1 (a.ini.id * 2 ^ 24 + o * 65536 + bitsOf v 7 0 * 256 + k) s

/-! ### Registers (03 "MBX registers") -/

/-- The posted mailboxes of a set of 32 as a mask. -/
def rxPend (s : State) (first : Nat) : Word :=
  wordOf (((List.range 32).filter fun i => (s.box (first + i)).posted).foldl (fun m i => m + 2 ^ i) 0)

/-- A status register of the secure set: a non-secure access is an error and counted (R73). -/
def secureStatus (a : Access) (s : State) (k : State → State) : State :=
  if secureOf a then k s else (mbxViolation s).reply a .error

/-- A 32-bit read of the MBX window, with its answer. -/
def mbxRead (a : Access) (off : Nat) (s : State) : State :=
  if off < 0x1000 then
    let m := off / 0x40
    let o := off % 0x40
    if o = 0 then mbxFieldRead a m 0 s
    else if 8 ≤ o ∧ o ≤ 0x34 then mbxFieldRead a m (o / 4 - 1) s
    else if o = 4 ∧ mbxInsecure m a then mbxDenied a m 1 s
    else s.replyWord a 0
  else if 0x2000 ≤ off ∧ off < 0x2100 then
    let m := (off - 0x2000) / 4
    if mbxInsecure m a then mbxDenied a m 1 s else s.replyWord a (s.box m).cfg
  else if 0x3000 ≤ off ∧ off < 0x3100 then
    let (w, s) := pitonRead ((off - 0x3000) / 4) a.ini.id s
    s.replyWord a w
  else if 0x4000 ≤ off ∧ off < 0x4020 then s.replyWord a (wordOf (s.epoch ((off - 0x4000) / 4 + 1)))
  else if 0x4020 ≤ off ∧ off < 0x4038 then s.replyWord a (wordOf (s.epoch ((off - 0x4020) / 4 + 0x10)))
  else if off = 0x4040 then secureStatus a s fun s => s.replyWord a (rxPend s 0)
  else if off = 0x4044 then s.replyWord a (rxPend s 32)
  else if off = 0x4048 then secureStatus a s fun s => s.replyWord a (lo32 s.mbx.txdone)
  else if off = 0x404C then s.replyWord a (hi32 s.mbx.txdone)
  else if off = 0x4050 then s.replyWord a (lo32 s.mbx.freed)
  else if off = 0x4054 then s.replyWord a (hi32 s.mbx.freed)
  else if off = 0x4058 then { s with mbx.viol := 0 }.replyWord a (rclRead s.mbx.viol)
  else s.replyWord a 0

/-- A 32-bit write to the MBX window, answered normally unless a rule says otherwise. -/
def mbxWrite (a : Access) (off : Nat) (v : Word) (s : State) : State :=
  if off < 0x1000 then
    let m := off / 0x40
    let o := off % 0x40
    if o = 0 then mbxFieldWrite a m 0 v s
    else if o = 4 then mbxCtlWrite a m v s
    else if 8 ≤ o ∧ o ≤ 0x34 then mbxFieldWrite a m (o / 4 - 1) v s
    else s
  else if 0x2000 ≤ off ∧ off < 0x2100 then mbxCfgWrite a ((off - 0x2000) / 4) v s
  else if 0x3000 ≤ off ∧ off < 0x3100 then pitonRelease a ((off - 0x3000) / 4) v s
  else if off = 0x4040 then secureStatus a s id
  else if off = 0x4048 then
    secureStatus a s fun s => { s with mbx.txdone := setLo s.mbx.txdone (w1c (lo32 s.mbx.txdone) v) }
  else if off = 0x404C then { s with mbx.txdone := setHi s.mbx.txdone (w1c (hi32 s.mbx.txdone) v) }
  else if off = 0x4050 then { s with mbx.freed := setLo s.mbx.freed (w1c (lo32 s.mbx.freed) v) }
  else if off = 0x4054 then { s with mbx.freed := setHi s.mbx.freed (w1c (hi32 s.mbx.freed) v) }
  else s

/-- An access to the MBX window of a width other than 32 and 64 bits gets an error response (log 13), with what R73, R77
and R87 raise or count for the register it names. -/
def mbxOdd (a : Access) (off : Nat) (write : Bool) (s : State) : State :=
  let s := s.reply a .error
  if off < 0x1000 then
    let m := off / 0x40
    let o := off % 0x40 / 4 * 4
    if o = 4 then (if mbxInsecure m a then mbxRefused m a 1 s else s)
    else if 0x38 ≤ o then s
    else match mbxBar a m (if o = 0 then 0 else o / 4 - 1) write s with
      | some reason => mbxRefused m a reason s
      | none => s
  else if 0x2000 ≤ off ∧ off < 0x2100 then
    let m := (off - 0x2000) / 4
    if mbxInsecure m a then mbxRefused m a 1 s else s
  else if 0x3000 ≤ off ∧ off < 0x3100 then mbxViolation s
  else if (off / 4 * 4 = 0x4040 ∨ off / 4 * 4 = 0x4048) ∧ !secureOf a then mbxViolation s
  else s

/-! ### Commands -/

/-- MBX_GO: MBX_CTL written with GO alone. -/
def execMbxGo (a : Access) (m : Fin 64) (s : State) : Out := .next (gateWrite a 3 2 s (mbxCtlWrite a m.val 1))

/-- MBX_REL: MBX_CTL written with REL alone. -/
def execMbxRel (a : Access) (m : Fin 64) (s : State) : Out := .next (gateWrite a 3 2 s (mbxCtlWrite a m.val 2))

/-- MBX_CFG_WRITE. -/
def execMbxCfgWrite (a : Access) (m : Fin 64) (v : Word) (s : State) : Out :=
  .next (gateWrite a 3 2 s (mbxCfgWrite a m.val v))

/-- MBX_DATA_ACCESS: MBX_HDR (word 0) or MBX_DATA (word 1 to 12), read or written. -/
def execMbxDataAccess (a : Access) (m : Fin 64) (word : Fin 13) (wr : Option Word) (s : State) : Out :=
  .next (match wr with
    | some v => gateWrite a 3 2 s (mbxFieldWrite a m.val word.val v)
    | none => gate a 3 2 s (mbxFieldRead a m.val word.val))

/-- PITON_ACQUIRE. -/
def execPitonAcquire (k : Fin 64) (readers : List Access) (wide : Bool) (s : State) : Out :=
  .next (pitonAcquire k.val readers wide s)

/-- PITON_RELEASE. -/
def execPitonRelease (a : Access) (k : Fin 64) (v : Word) (s : State) : Out :=
  .next (gateWrite a 3 2 s (pitonRelease a k.val v))

end Sys2Proof.Machine
end

