-- ==== Sys2Proof/Machine/Team.lean ====
section
/-!
DEFINITION. RTL, the rope team (spec/15_rope_team.md): the twin link, the tick line and alignment, the team states,
the witness, takeover and planned hand-over, checkpoints, and the registers.
-/

namespace Sys2Proof.Machine

/-- An event of RTL: its cause is the boundary of the change (R394). -/
def rtlEvent (src code data : Nat) (s : State) : State := raiseAt (boundaryOf s.t) src code data s

/-! ### Roles and states (R379) -/

/-- RTL_STATUS.STATE and ROLE change at a boundary; sources 456 and 457 report them. Alignment is judged anew after
a change of role. -/
def setTeam (role : Role) (st : TeamState) (s : State) : State :=
  let r := s.rtl
  let s := { s with rtl.role := role, rtl.state := st }
  let s := if r.state = st then s else rtlEvent 457 st.code (low24T s) { s with rtl.since := s.t }
  if r.role = role then s
  else rtlEvent 456 role.code (low24T s) { s with
    rtl.inBound := 0, rtl.outBound := 0, rtl.unmeasured := 0, rtl.since := s.t }

/-- The discipline loses its source where the role no longer allows it (R30, R378). -/
def fitSource (s : State) : State :=
  match s.tick.discSrc with
  | none => s
  | some src => if sourceFits s src then s else disciplineSourceLost s

/-- SLEW_LIMIT ends with the role it was measured in (R378). -/
def endSlew (s : State) : State :=
  if s.tick.slewing then rtlEvent 7 2 (wordOfInt (s.rtl.theta / 64)).toNat { s with tick.slewing := false } else s

/-- Data of TAKEOVER: boundary minus the replica's T, saturating, and the boundary (R394). -/
def takeoverData (s : State) : Nat :=
  let age := match s.rtl.replT with
    | some t => satTo (s.t - t) 255
    | none => 255
  age * 2 ^ 24 + low24T s

/-- The pending hand-over ends with this status on the lead, and HANDOVER tells it (R384, R394). -/
def endHandover (code status : Nat) (s : State) : State :=
  match s.rtl.hoT with
  | none => s
  | some th =>
    let s := { s with rtl.hoT := none, rtl.confirmed := false, rtl.commit := false }
    let s := match s.opOf 12 0 (isStarted 1) with
      | some c => finishAt (if status = stOk then boundaryOf th else s.gts) c status 0 (wordOf th) 0 s
      | none => s
    raiseAt (if code = 4 then boundaryOf th else boundaryOf s.t) 461 code (th % 2 ^ 24) s

/-- A loss, a split or a lost alignment cancels a pending hand-over (R384, R390). -/
def cancelHandover (s : State) : State := endHandover 3 stTimeout s

/-- The module becomes second: contexts and Lookout to SHADOW, the yield service to LOADED, DRIVE withdrawn, the
discipline on the twin (R30, R118, R232, R303, R321). -/
def stepDown (wire : Tab Nat) (st : TeamState) (s : State) : State :=
  let led := s.rtl.role == .lead
  let s := if led then canRoleWithdrawn wire s else s
  let s := setTeam .second st s
  let s := yldToSecond (lkoToShadow s.t (bceToShadow s.t s))
  let s := if s.lsw.drive then driveWithdraw false s else s
  fitSource { s with rtl.dualT := none, rtl.grantT := none, rtl.replT := none }

/-- The module becomes lead at this boundary, T_k or T_h (R383). DRIVE follows at phase 1. -/
def stepUp (st : TeamState) (s : State) : State :=
  let s := endSlew (setTeam .lead st s)
  let s := lkoTakeover s.t (bceTakeover s.t s)
  let s := yldTakeover s.t (canRoleTaken s)
  fitSource { s with
    rtl.grantT := some s.t, rtl.tk := s.t % 2 ^ 32, rtl.replT := none, rtl.stampA := [], rtl.stampB := none }

/-! ### What the lead and the second send (R373, R374) -/

/-- The replicas of the channels whose bank is on (R165). -/
def chanReplicas (t : Nat) (s : State) : Tab ChanReplica :=
  (chNumbers.filter fun n => s.chOn n).map fun n => (n, takeReplica s t n)

/-- The lead's mapping set (R265): as the registers hold it, or before the first PPS edge as the mapping stands. -/
def leadSet (s : State) : Option LeadMap :=
  let m := s.gnb.tmap
  let of (g t : Nat) (rate : Int) : LeadMap :=
    { g0 := g, week := t / weekNs, tow := t % weekNs, rate := rate, quiet := m.step.isSome }
  if m.st = .none' then none
  else if m.edge.isSome then some (of m.pubG m.pubT m.pubRate)
  else some (of m.g0 (s.gpsNs m.g0) m.rate)

/-- The tick frame of tick `t`, as the lead sends it from the boundary of `t + 1` (R373). -/
def frameOf (t : Nat) (s : State) : TickFrame :=
  { tick := t, late := false
    bce := if s.bce.replEn then bceReplicas t s else []
    chans := chanReplicas t s
    rings := (s.hri.rings.filter fun e => e.2.state != .disabled).map fun e =>
      (e.1, e.2.state.code, e.2.sqHead, e.2.cqTail)
    solution := s.bce.sig.filter fun e => decide (0x200 ≤ e.1) && decide (e.1 ≤ 0x23F)
    map := leadSet s
    yld := yldReplica t s
    hoT := s.rtl.hoT, commit := s.rtl.commit
    stampB := match s.rtl.stampB with
      | some (k, b) => if k = t then some (b : Int) else none
      | none => none
    upd := updFrame s }

/-- The heartbeat of tick `t`, as a second sends it (R373, R384). -/
def beatOf (t : Nat) (s : State) : Heartbeat :=
  { tick := t, state := s.rtl.state.code, aligned := s.rtl.aligned
    confirm := s.rtl.hoT.isSome && s.rtl.aligned, upd := updBeat s }

/-- CRC-8 of bits in order, polynomial 0x07, from 0 (R374, log 200). -/
def crc8 (bits : List Bool) : Byte :=
  bits.foldl (fun c b => (c <<< 1) ^^^ (if c.msb != b then (0x07 : Byte) else 0)) 0

/-- The CRC of bits 127:8 of a word, the highest first. -/
def wordCrc (v : BitVec 128) : Byte := crc8 ((List.range 120).map fun i => v.getLsbD (127 - i))

/-- A tick-line word as its 128 bits (R374). -/
def wordBits (w : TickWord) : BitVec 128 :=
  let v := BitVec.ofNat 128 (w.serial % 2 ^ 64 * 2 ^ 64 + w.tick % 2 ^ 46 * 2 ^ 18 + w.state % 8 * 2 ^ 15 +
    w.pos % 4 * 2 ^ 13 + oneIf w.tb * 2 ^ 12 + oneIf w.ready * 2 ^ 11)
  v ||| (wordCrc v).setWidth 128

/-- A word received: its fields, where its CRC is right (R374). -/
def readWord (v : BitVec 128) : Option TickWord :=
  if wordCrc v ≠ v.setWidth 8 then none
  else some {
    serial := (v.extractLsb' 64 64).toNat, tick := (v.extractLsb' 18 46).toNat, state := (v.extractLsb' 15 3).toNat
    pos := (v.extractLsb' 13 2).toNat, tb := v.getLsbD 12, ready := v.getLsbD 11 }

/-- The tick-line word of tick `t` (R374). -/
def wordOfTick (t : Nat) (s : State) : TickWord :=
  { serial := Config.serial.toNat, tick := t, state := s.rtl.state.code, pos := s.ropePos
    tb := s.tick.running, ready := s.sys.ctrlReady }

/-- The sender of a word ranks higher than this module (R375). -/
def outranks (w : TickWord) (s : State) : Bool :=
  decide (w.pos < s.ropePos) || (w.pos == s.ropePos && decide (w.serial < Config.serial.toNat))

/-- The last twin heard ranks higher. -/
def twinHigher (s : State) : Bool := s.rtl.twin.any fun w => outranks w s

/-- The word of this tick and its first edge: at the boundary, but on a second, and on a seeking module that its twin
outranks, at phase 50 (R374). -/
def wordNow (s : State) : Nat × BitVec 128 :=
  let late := s.rtl.role == .second || (s.rtl.state == .seeking && twinHigher s)
  (boundaryOf s.t + (if late then 50 * phaseLen else 0), wordBits (wordOfTick s.t s))

/-- The module takes part in the team. -/
def inTeam (s : State) : Bool := s.rtl.state != .off && !s.rtl.left

/-- The wing word of this tick: a pair lead's, at phase 50 where it aligns to the other pair's lead (R389). -/
def wingNow (s : State) : Option (Nat × BitVec 128 × Option (Nat × Nat)) :=
  if s.rtl.role = .lead ∧ s.rtl.upWing ∧ s.pdOn 11 then
    some (boundaryOf s.t + (if follows s then 50 * phaseLen else 0), wordBits (wordOfTick s.t s), s.rtl.wingB)
  else none

/-- What the module sends in tick `t + 1`: before the tick's work, so that the replicas are those of tick `t`. -/
def sendTick (t : Nat) (s : State) : State :=
  if !inTeam s then { s with rtl.frameOut := none, rtl.beatOut := none, rtl.wordOut := none, rtl.wingOut := none }
  else { s with
    rtl.frameOut := if s.rtl.role = .lead ∧ s.pdOn 11 then some (frameOf t s) else none
    rtl.beatOut := if s.rtl.role = .second ∧ s.pdOn 11 then some (beatOf (t + 1) s) else none
    rtl.wordOut := some (wordNow s), rtl.wingOut := wingNow s }

/-- The fields that the boundary's own work decides: update and hand-over. -/
def sealTick (s : State) : State :=
  { s with
    rtl.frameOut := s.rtl.frameOut.map fun f => { f with upd := updFrame s, hoT := s.rtl.hoT, commit := s.rtl.commit }
    rtl.beatOut := s.rtl.beatOut.map fun _ => beatOf s.t s
    rtl.wordOut := if inTeam s then some (wordNow s) else none
    rtl.wingOut := if inTeam s then wingNow s else none }

/-- The new lead sends from T_k or T_h on: the tick frame of the tick before, and the word of this boundary (R373,
R383, R385). -/
def leadSends (s : State) : State :=
  { s with
    rtl.frameOut := if s.pdOn 11 then some (frameOf (s.t - 1) s) else none
    rtl.wordOut := some (wordNow s) }

/-! ### The boundary (R375, R378 to R382, R384) -/

/-- A pair of the twin link is up. -/
def pairUp (s : State) : Bool := s.pdOn 11 && (s.rtl.upA || s.rtl.upB)

/-- The twin's team state as its last word within 3 ticks shows it. -/
def twinState (s : State) : Option Nat :=
  match s.rtl.twin, s.rtl.wordT with
  | some w, t :: _ => if s.t ≤ t + 3 then some w.state else none
  | _, _ => none

/-- ALONE at a boundary: the twin is back as SEEKING or SECOND, or it too is ALONE (R379). -/
def judgeAlone (wire : Tab Nat) (s : State) : State :=
  match pairUp s, twinState s with
  | true, some k =>
    if k = 1 ∨ k = 2 then setTeam .lead .lead { s with rtl.dualT := none }
    else if k = 5 ∧ twinHigher s then
      match s.rtl.dualT with
      | none => { s with rtl.dualT := some s.t }
      | some d =>
        if d + 2 ≤ s.t then
          let data := takeoverData s
          rtlEvent 460 3 data (stepDown wire .second { s with rtl.tk := s.t % 2 ^ 32 })
        else s
    else { s with rtl.dualT := none }
  | _, _ => { s with rtl.dualT := none }

/-- The transitions of R379 that a boundary makes by itself, on the tick just ended; LEAD_LOST and LEAD_WITHDRAW
are commands of their own. -/
def judgeTeam (wire : Tab Nat) (s : State) : State :=
  let f := s.rtl.last
  match s.rtl.state with
  | .off => if s.rtl.en then setTeam .lone .seeking s else s
  | .seeking =>
    if !s.rtl.en then setTeam .lone .off s
    else if !pairUp s then s
    else match twinState s with
      | some 1 => if twinHigher s then stepDown wire .second s else fitSource (setTeam .lead .lead s)
      | some 3 => stepDown wire .second s
      | some 5 => stepDown wire .second s
      | _ => s
  | .second => if f.frame || f.wit.isNone then s else cancelHandover (setTeam .second .split s)
  | .lead =>
    if f.beat then s
    else match f.wit with
      | some w => if w.heard then cancelHandover (setTeam .lead .split s) else s
      | none => cancelHandover (setTeam .lead .alone s)
  | .split =>
    if s.rtl.role = .second then if f.frame then setTeam .second .second s else s
    else if f.beat then setTeam .lead .lead s
    else if f.wit.isNone then setTeam .lead .alone s else s
  | .alone => judgeAlone wire s

/-- The witness controllers (R380). -/
def witnessCtrls (s : State) : List Nat :=
  bitsOf s.rtl.wit 2 0 :: (if bitOf s.rtl.wit 7 then [bitsOf s.rtl.wit 6 4] else [])

/-- The end of a tick at a witness controller: an own frame not sent is aborted, and the twin's is missing while the
link is up (R380, R394). -/
def witnessEnd (s : State) (k : Nat) : State :=
  let q := s.canBuf k 126
  let unsent := q.pend.isSome || q.wire.isSome
  let s := if unsent then
      rtlEvent 463 1 k (if onBus k 126 s then s.setBuf k 126 { q with pend := none, abort := true }
        else s.setBuf k 126 { q with pend := none, wire := none })
    else s
  let f := s.rtl.last
  let up := if s.rtl.role = .lead then f.beat else f.frame
  if up && s.rtl.role != .lone && !f.ctrls.contains k then rtlEvent 463 2 k s else s

/-- θ of the tick just ended counts towards ALIGNED (R378). -/
def countAlign (s : State) : State :=
  let r := s.rtl
  if r.measured && follows s then
    if r.theta.natAbs ≤ 128 then { s with rtl.inBound := r.inBound + 1, rtl.outBound := 0, rtl.unmeasured := 0 }
    else { s with rtl.inBound := 0, rtl.outBound := r.outBound + 1, rtl.unmeasured := 0 }
  else { s with rtl.inBound := 0, rtl.outBound := 0, rtl.unmeasured := r.unmeasured + 1 }

/-- A hand-over that has not been committed by T_h − 5 is dropped (R384). -/
def staleHandover (s : State) : State :=
  match s.rtl.hoT with
  | some th =>
    if (!s.rtl.commit && (if s.rtl.role = .lead then decide (th < s.t + 5) else decide (th ≤ s.t)))
        || decide (th < s.t) then
      cancelHandover s else s
  | none => s

/-- The work of RTL at a boundary: the tick just ended is judged, and the next begins. -/
def teamTick (wire : Tab Nat) (s : State) : State :=
  let s := { s with rtl.last := s.rtl.cur, rtl.cur := {} }
  let s := fitSource { countAlign s with rtl.measured := false }
  let s := { s with rtl.stampA := s.rtl.stampA.filter fun e => decide (s.t ≤ e.1 + 4) }
  if !inTeam s then if s.rtl.left then s else judgeTeam wire s
  else
    let s := if s.rtl.witT = some (s.t - 1) then (witnessCtrls s).foldl witnessEnd s else s
    let s := if s.rtl.role = .second ∧ s.bce.replEn ∧
          (bceNumbers.any fun c => (s.bctx c).state == .shadow) ∧
          !(s.rtl.last.frame && (s.rtl.frameIn.any fun f => !f.bce.isEmpty)) then
        { s with bce.replMiss := countUp s.bce.replMiss max32 } else s
    staleHandover (judgeTeam wire s)

/-! ### The tick line (R374 to R378) -/

/-- Half of a number of 1/64 counts, rounded in a way the manual leaves open (log 22). -/
def openHalf (x : Int) : Int := x / 2 + (if x % 2 != 0 && Config.roundsUp x.natAbs 2 then 1 else 0)

/-- SLEW_LIMIT begins and ends where |θ| passes 40 counts (R378). -/
def slewCheck (s : State) : State :=
  let out := decide (2560 < s.rtl.theta.natAbs)
  if out = s.tick.slewing then s
  else raise 7 (if out then 1 else 2) (wordOfInt (s.rtl.theta / 64)).toNat { s with tick.slewing := out }

/-- A pair of stamps of tick `t` (R377). -/
def measureTheta (t a : Nat) (b : Int) (s : State) : State :=
  let x : Int := (a : Int) - 64 * (400000 * t : Nat)
  let y : Int := b - 64 * (400000 * t + 200000 : Nat)
  slewCheck { s with rtl.theta := openHalf (x - y), rtl.delay := openHalf (x + y), rtl.measured := true }

/-- A valid word of the twin on the tick line, with the time of its first edge in 1/64 count (R374, R377). -/
def twinWord (w : TickWord) (edge : Nat) (s : State) : State :=
  let r := s.rtl
  let days := if r.wordT.head? = some s.t then r.wordT else (s.t :: r.wordT).take 4
  let s := { s with rtl.twin := some w, rtl.wordT := days }
  if !w.tb || r.left then s
  else if r.role = .second then { s with rtl.stampA := Tab.put r.stampA w.tick edge }
  else if r.role = .lead then { s with rtl.stampB := some (w.tick, edge) }
  else s

/-- A valid word of another pair's lead on the wing pair, with its edge and the stamp b that it returns: the lead of
lower rank aligns to it as a second does, and the team lead keeps the stamp it returns (R389). -/
def wingWord (w : TickWord) (edge : Nat) (b : Int) (s : State) : State :=
  if s.rtl.role ≠ .lead ∨ s.rtl.left ∨ !s.rtl.upWing ∨ !s.pdOn 11 ∨ !w.tb ∨ (w.state ≠ 3 ∧ w.state ≠ 5) then s
  else if !outranks w s then { s with rtl.wingB := some (w.tick, edge) }
  else measureTheta w.tick edge b { s with rtl.wingT := some s.t }

/-- TICK_LINE_WORD: a word of the twin, or with `wing` of the other pair's lead. One whose CRC fails is dropped
(R374). -/
def tickLineWord (v : BitVec 128) (edge : Nat) (wing : Option Int) (s : State) : State :=
  if !s.tick.running then s
  else match readWord v, wing with
    | some w, none => twinWord w edge s
    | some w, some b => wingWord w edge b s
    | none, _ => s

/-- TWIN_UP by the words of the last 3 ticks (R375). -/
def twinUpNow (s : State) : Bool :=
  decide (3 ≤ s.t) && s.rtl.wordT.contains (s.t - 1) && s.rtl.wordT.contains (s.t - 2) && s.rtl.wordT.contains (s.t - 3)

/-- TWIN_UP_CHANGE: TWIN_UP takes the value R375 gives at this boundary. A second that loses the tick line loses its
discipline source (R378). -/
def twinUpChange (s : State) : State :=
  let up := twinUpNow s
  if up = s.rtl.twinUp then s
  else
    let s := rtlEvent 458 (if up then 7 else 8) (low24T s) { s with rtl.twinUp := up }
    if !up && s.tick.discSrc == some .twin then disciplineSourceLost s else s

/-- ALIGN's data: θ in 1/64 count, saturating (R394). -/
def thetaData (s : State) : Nat := (wordOfInt (sat32 s.rtl.theta)).toNat

/-- ALIGNED_SET (R378). -/
def alignedSet (s : State) : State :=
  if follows s ∧ !s.rtl.aligned ∧ 1000 ≤ s.rtl.inBound then
    rtlEvent 459 1 (thetaData s) { s with rtl.aligned := true }
  else s

/-- ALIGNED_CLEAR (R378); it cancels a pending hand-over (R384). -/
def alignedClear (s : State) : State :=
  if s.rtl.aligned ∧ (10 ≤ s.rtl.outBound ∨ 10 ≤ s.rtl.unmeasured) then
    let t := rtlEvent 459 2 (thetaData s) { s with rtl.aligned := false }
    if s.rtl.role = .second then cancelHandover t else t
  else s

/-! ### The pairs (R372, R373) -/

/-- PAIR_LINK_CHANGE: pair A, B or the wing pair. -/
def pairChange (pair : Nat) (up : Bool) (s : State) : State :=
  let was := if pair = 0 then s.rtl.upA else if pair = 1 then s.rtl.upB else s.rtl.upWing
  if was = up || (up && (!s.pdOn 11 || (pair == 2 && !s.rtl.wingEn))) then s
  else
    let s := if pair = 0 then { s with rtl.upA := up }
      else if pair = 1 then { s with rtl.upB := up } else { s with rtl.upWing := up }
    rtlEvent 458 (1 + 2 * pair + oneIf (!up)) (low24T s) s

/-- PD11 goes off: the pairs are silent, and the registers of the frame engine are lost; team state stays
(R372, R390). -/
def rtlOff (s : State) : State :=
  let s := pairChange 2 false (pairChange 1 false (pairChange 0 false s))
  { s with rtl.peerBase := 0, rtl.missA := 0, rtl.missB := 0, rtl.frameOut := none, rtl.beatOut := none
           rtl.wingOut := none }

/-- A copy of a frame: counted where the other pair delivered it, and REPLICA 0x02 where its check failed (R373,
R394). -/
def noteCopies (a b : Copy) (t : Nat) (s : State) : State :=
  let s := if a != .good && b == .good then { s with rtl.missA := countUp s.rtl.missA 0xFFFF } else s
  let s := if b != .good && a == .good then { s with rtl.missB := countUp s.rtl.missB 0xFFFF } else s
  if a == .bad || b == .bad then rtlEvent 462 2 (t % 2 ^ 24) s else s

/-- The peer index block (R393). -/
def peerBlock (f : TickFrame) (g : Nat) : List Byte :=
  leBytes 8 f.tick ++ leBytes 8 g ++ ringNumbers.flatMap fun n =>
    match Tab.find f.rings n with
    | some (st, sq, cq) => leBytes 4 (cq * 65536 + sq) ++ leBytes 4 st
    | none => zeros 8

/-- A frame's replicas go to the blocks that keep them (R116, R165, R265, R303). -/
def storeFrameParts (f : TickFrame) (s : State) : State :=
  let s := f.bce.foldl (fun s e => bceStore false e.1 e.2 s) s
  let s := f.chans.foldl (fun s e => storeReplica e.1 e.2 s) s
  let s := f.solution.foldl (fun s (e : Nat × Word × Nat) => publishSig e.1 e.2.1 e.2.2 s) s
  let s := match f.map with
    | some q => if s.pdOn 7 then leadMapping q s else s
    | none => s
  yldStore f.yld s

/-- The hand-over fields of a frame: a second takes them while it is ALIGNED, and a frame without them cancels
(R384). -/
def takeHandover (f : TickFrame) (s : State) : State :=
  match f.hoT, s.rtl.hoT with
  | none, some _ => cancelHandover s
  | none, none => s
  | some th, _ => if s.rtl.aligned then { s with rtl.hoT := some th, rtl.commit := f.commit } else s

/-- TICK_FRAME: the lead's tick frame on a second (R373). It is valid where one copy is whole and good. -/
def tickFrameIn (a b : Copy) (f : TickFrame) (s : State) : State :=
  if !s.pdOn 11 || !inTeam s || s.rtl.role != .second then s
  else
    let s := noteCopies a b f.tick s
    if a != .good && b != .good then s
    else
      let s := { s with
        rtl.cur := { s.rtl.cur with frame := true }, rtl.frameIn := some f
        rtl.replT := some (max f.tick (s.rtl.replT.getD 0)) }
      let s := if f.late then rtlEvent 462 1 (f.tick % 2 ^ 24) s else s
      let s := storeFrameParts f s
      let s := match f.stampB, Tab.find s.rtl.stampA f.tick with
        | some y, some x => measureTheta f.tick x y s
        | _, _ => s
      let s := takeHandover f s
      (writeEngine 0x2A s.rtl.peerBase.toNat (peerBlock f s.gts) s).1

/-- HEARTBEAT: the second's heartbeat on a lead (R373, R384). -/
def heartbeatIn (a b : Copy) (h : Heartbeat) (s : State) : State :=
  if !s.pdOn 11 || !inTeam s || s.rtl.role != .lead then s
  else
    let s := if a == .bad || b == .bad then rtlEvent 462 2 (h.tick % 2 ^ 24) s else s
    if a != .good && b != .good then s
    else
      let s := { s with
        rtl.cur := { s.rtl.cur with beat := true }, rtl.beatIn := some h
        rtl.confirmed := s.rtl.hoT.isSome && (s.rtl.confirmed || h.confirm) }
      if h.aligned then s else cancelHandover s

/-! ### The witness (R380) -/

/-- LINK of the own witness: the link was up in the tick just ended. -/
def linkWas (s : State) : Bool := if s.rtl.role = .lead then s.rtl.last.beat else s.rtl.last.frame

/-- The eight bytes of a witness frame. -/
def witnessBytes (s : State) : List Byte :=
  let heard := s.rtl.role == .second && s.rtl.cur.wit.isSome
  [ BitVec.ofNat 8 (s.rtl.state.code + 16 * s.ropePos),
    BitVec.ofNat 8 (oneIf (linkWas s) + 2 * oneIf heard) ] ++ leBytes 4 s.t ++ zeros 2

/-- The witness put up for transmission in buffer 126 of a controller. -/
def witnessPut (s : State) (k : Nat) : State :=
  if !(s.canCtl k).live then s
  else
    let q := s.canBuf k 126
    s.setBuf k 126 { q with
      id := wordOf ((bitsOf s.rtl.wit 31 21 + s.ropePos) * 2 ^ 18), pend := some (witnessBytes s), pendAt := s.gts }

/-- WITNESS_ASSEMBLY: at phase 5 on a lead, at phase 55 on a second, once a tick. -/
def witnessAssembly (s : State) : State :=
  if !inTeam s || s.rtl.role == .lone || s.rtl.witT == some s.t then s
  else
    let at' := boundaryOf s.t + (if s.rtl.role = .lead then 5 else 55) * phaseLen
    s.reach at' fun s => (witnessCtrls s).foldl witnessPut { s with rtl.witT := some s.t }

/-- WITNESS_FRAME: the twin's witness validated on a witness controller. It counts for the tick its T names: the
present one, or in the cycle of a boundary the one just ended (R380, R390). -/
def witnessFrame (w : Witness) (k : Nat) (s : State) : State :=
  if !inTeam s || !(witnessCtrls s).contains k || !(s.canCtl k).live then s
  else
    let add (f : TeamFacts) : TeamFacts := { f with wit := some w, ctrls := k :: f.ctrls }
    if w.tick = s.t % 2 ^ 32 then { s with rtl.cur := add s.rtl.cur }
    else if s.gts = boundaryOf s.t ∧ 0 < s.t ∧ w.tick = (s.t - 1) % 2 ^ 32 then { s with rtl.last := add s.rtl.last }
    else s

/-! ### Losing the lead (R381 to R383) -/

/-- TAKEOVER is reported, then `k` makes the change: the data name the replica held until then. -/
def takeover (code : Nat) (s : State) (k : State → State) : State :=
  let data := takeoverData s
  rtlEvent 460 code data (k s)

/-- LEAD_LOST: the tick just ended brought neither a tick frame nor a witness of the lead. -/
def leadLost (s : State) : State :=
  let f := s.rtl.last
  if !inTeam s || s.rtl.role != .second || f.frame || f.wit.isSome || decide (s.t ≤ s.rtl.since) then s
  else takeover 1 (cancelHandover s) fun s => leadSends (stepUp .alone s)

/-- LEAD_WITHDRAW: the tick just ended brought no heartbeat, and the second's witness with HEARD = 0. -/
def leadWithdraw (wire : Tab Nat) (s : State) : State :=
  let f := s.rtl.last
  match f.wit with
  | none => s
  | some w =>
    if !inTeam s || s.rtl.role != .lead || s.rtl.state == .alone || f.beat || w.heard ||
      decide (s.t ≤ s.rtl.since) then s
    else takeover 2 (cancelHandover s) fun s => stepDown wire .split { s with rtl.tk := s.t % 2 ^ 32 }

/-! ### Planned hand-over (R384, R385) -/

/-- HANDOVER: the checks of R391. -/
def handover (c : OpRef) (s : State) : State :=
  let th := c.op.word64 6
  let aligned := (s.rtl.beatIn.map fun h => h.aligned).getD false
  if th % 40 ≠ 0 then failOp c stSchema 0 s
  else if th < s.t + 20 then failOp c stLate 0 s
  else if s.rtl.state ≠ .lead ∨ !aligned ∨ s.rtl.hoT.isSome ∨ s.rtl.left ∨ !s.rtl.twinUp then failOp c stBusy 0 s
  else
    let s := startOp c [th] { s with rtl.hoT := some th, rtl.confirmed := false, rtl.commit := false }
    raise 461 1 (th % 2 ^ 24) s

/-- HANDOVER_COMMIT at T_h − 5 (R384). -/
def handoverCommit (s : State) : State :=
  match s.rtl.hoT with
  | none => s
  | some th =>
    if s.rtl.role ≠ .lead ∨ s.rtl.commit ∨ s.t + 5 ≠ th then s
    else if s.rtl.confirmed then
      raiseAt (boundaryOf s.t) 461 2 (th % 2 ^ 24) { s with
        rtl.commit := true, rtl.frameOut := s.rtl.frameOut.map fun f => { f with commit := true } }
    else cancelHandover s

/-- HANDOVER_EXECUTE: both modules exchange roles at T_h (R118, R384, R385). -/
def handoverExecute (wire : Tab Nat) (s : State) : State :=
  if s.rtl.hoT ≠ some s.t ∨ !s.rtl.commit then s
  else if s.rtl.state = .lead then
    stepDown wire .second (endHandover 4 stOk { s with rtl.tk := s.t % 2 ^ 32 })
  else if s.rtl.state = .second then leadSends (stepUp .lead (endHandover 4 stOk s))
  else s

/-- A context that has taken over at T_h and not yet evaluated takes the state a hand-over frame brings (R118). -/
def handoverState (s : State) (e : Nat × BceReplica) : State :=
  let x := s.bctx e.1
  if x.state = .run && x.seedX && s.rtl.role == .lead && s.rtl.tk == s.t % 2 ^ 32 && e.2.tick + 1 == s.t &&
      e.2.crc == crcWords ((List.range 48).map fun i => (cfgIn e.2.tick x).getD i 0) then
    s.setBctx e.1 { takeState e.2 x with handed := x.handed }
  else bceStore true e.1 e.2 s

/-- HANDOVER_FRAME: context states and the channel replicas of T_h − 1 on the new lead (R385). -/
def handoverFrame (bce : Tab BceReplica) (chans : Tab ChanReplica) (s : State) : State :=
  if !pairUp s || !inTeam s || s.rtl.role == .lone then s
  else
    let s := bce.foldl handoverState s
    chans.foldl (fun s e => storeReplica e.1 e.2 s) s

/-- DRIVE is to be withdrawn at the end of this tick: a committed hand-over of this lead at the next boundary, or
two modules ALONE that are to be resolved there (R166, R379). -/
def withdrawDue (s : State) : Bool :=
  s.rtl.role == .lead && ((s.rtl.commit && s.rtl.hoT == some (s.t + 1)) ||
    (s.rtl.state == .alone && s.rtl.dualT == some (s.t - 1) && decide (0 < s.t)))

/-- DRIVE_WITHDRAW at phase 99 (R166). -/
def driveWithdrawAt (s : State) : State :=
  if !s.lsw.drive || !withdrawDue s then s
  else s.reach (boundaryOf s.t + 99 * phaseLen) (driveWithdraw true)

/-- DRIVE_GRANT at phase 1 of T_k or T_h (R167). -/
def driveGrantAt (s : State) : State :=
  if s.rtl.grantT ≠ some s.t ∨ s.lsw.drive then s
  else s.reach (boundaryOf s.t + phaseLen) fun s =>
    driveGrant (s.rtl.state == .lead) { s with rtl.grantT := none }

/-! ### Descent and start (R379, R386) -/

/-- A module in Descent leaves the team; as lead it withdraws DRIVE (R386). -/
def teamDescent (s : State) : State :=
  if s.rtl.state = .off then s
  else
    let s := cancelHandover { s with
      rtl.left := true, rtl.frameOut := none, rtl.beatOut := none, rtl.wordOut := none, rtl.wingOut := none }
    if s.rtl.role = .lead ∧ s.lsw.drive then driveWithdraw false s else s

/-- A time base start: OFF, and no start beacon any more (R374, R379). -/
def teamReset (s : State) : State := { s with rtl := { beacon := false } }

/-! ### Checkpoints (R391, R392) -/

/-- CKPT_PUT: the payload goes to the twin; `e` says what became of it there. -/
def ckptPut (e : CkptEnd) (c : OpRef) (s : State) : State :=
  if c.op.len < 1 ∨ 65536 < c.op.len then failOp c stLen 0 s
  else if (s.rtl.state ≠ .lead ∧ s.rtl.state ≠ .second) ∨ e = .noBuffer then failOp c stBusy 0 s
  else
    let t := s.t
    let g := s.gts
    readWhole 0x2A c s fun bs s =>
      let sent : Ckpt := { tag := bitsOf (c.op.word 6) 15 0, tick := t, gts := g, payload := bs }
      match pairUp s, e with
      | true, .delivered => finishOp c stOk c.op.len (wordOf t) 0 { s with rtl.ckptOut := some sent }
      | true, .lost n => failOp c stIncomplete (min n c.op.len) { s with rtl.ckptOut := some sent }
      | _, _ => failOp c stIncomplete 0 s

/-- CHECKPOINT_ARRIVAL: header and payload into a CKPT_BUF buffer, whose completion is posted (R392). -/
def checkpointArrival (tag tick g : Nat) (payload : List Byte) (s : State) : State :=
  if !pairUp s || s.rtl.left then s
  else match s.poolBuffer 12 2 0x20 with
    | none => s
    | some c =>
      let bs := leBytes 8 tick ++ leBytes 8 g ++ leBytes 4 payload.length ++ leBytes 2 tag ++ zeros 42 ++ payload
      writeOut 0x2A c bs (wordOf (tag % 65536)) (wordOf tick) s

/-! ### Registers (R393) -/

/-- The nominal bit rate of a controller is at least 500 kbit/s. -/
def rateOk (x : CanCtl) : Bool :=
  decide (500000 * (bitsOf x.nbt 31 24 * (1 + bitsOf x.nbt 23 16 + bitsOf x.nbt 15 8)) ≤ 80000000) && x.nbt != 0

/-- The reason for which EN written 1 is not accepted; 0 accepted. -/
def enableFault (s : State) : Nat :=
  let ks := witnessCtrls s
  if s.rtl.state ≠ .off then 3
  else if ks.any fun k => !(s.canCtl k).en then 1
  else if ks.any fun k => !rateOk (s.canCtl k) then 2 else 0

/-- RTL_ENABLE: RTL_CTL written. OFF and SEEKING follow EN at the next boundary. -/
def rtlCtlWrite (v : Word) (s : State) : State :=
  let r := s.rtl
  let want := bitOf v 31
  let wing := bitOf v 30
  if !r.en then
    let s := { s with rtl.wingEn := wing }
    let s := if wing then s else pairChange 2 false s
    if !want then s
    else
      let e := enableFault s
      { s with rtl.en := e == 0, rtl.err := e }
  else if wing != r.wingEn then { s with rtl.err := 3 }
  else if want then s
  else if r.state = .off ∨ r.state = .seeking then { s with rtl.en := false }
  else { s with rtl.err := 3 }

/-- RTL_STATUS. -/
def rtlStatus (r : Rtl) : Word :=
  wordOf (r.state.code * 2 ^ 28 + r.role.code * 2 ^ 26 + oneIf r.aligned * 2 ^ 25 + oneIf r.twinUp * 2 ^ 24
    + oneIf r.upWing * 2 ^ 23 + oneIf r.upB * 2 ^ 22 + oneIf r.upA * 2 ^ 21 + oneIf r.hoT.isSome * 2 ^ 20
    + r.err * 2 ^ 16)

/-- A read of the RTL window. -/
def rtlRead (off : Nat) (s : State) : Word × State :=
  let r := s.rtl
  if off = 0x00 then (wordOf (oneIf r.en * 2 ^ 31 + oneIf r.wingEn * 2 ^ 30), s)
  else if off = 0x04 then (rtlStatus r, s)
  else if off = 0x08 then (r.wit, s)
  else if off = 0x0C then (wordOf s.ropePos, s)
  else if off = 0x10 then (wordOfInt r.theta, s)
  else if off = 0x14 then (wordOfInt r.delay, s)
  else if off = 0x18 then (wordOf r.tk, s)
  else if off = 0x1C then (wordOf (r.hoT.getD 0), s)
  else if off = 0x20 then (lo32 r.peerBase, s)
  else if off = 0x24 then (hi32 r.peerBase, s)
  else if off = 0x28 then (wordOf (r.missB * 65536 + r.missA), { s with rtl.missA := 0, rtl.missB := 0 })
  else (0, s)

/-- A write to the RTL window; RTL_WIT and RTL_PEER_BASE only while EN is 0. -/
def rtlWrite (off : Nat) (v : Word) (s : State) : State :=
  let r := s.rtl
  if off = 0x00 then rtlCtlWrite v s
  else if off ≠ 0x08 ∧ off ≠ 0x20 ∧ off ≠ 0x24 then s
  else if r.en then { s with rtl.err := 3 }
  else if off = 0x08 then { s with rtl.wit := v &&& (0xFFE0_00F7 : Word) }
  else if off = 0x20 then { s with rtl.peerBase := setLo r.peerBase (v &&& (0xFFFF_FFC0 : Word)) }
  else { s with rtl.peerBase := setHi r.peerBase v }

/-! ### Commands -/

/-- The team logic and the tick line live in PD1: their happenings need Run or Descent and a time base. -/
def whileTeam (s : State) (k : State → State) : Out :=
  .next (if s.tick.running && (s.mode == .run || s.mode == .descent) then k s else s)

/-- TICK_LINE_WORD. -/
def execTickLineWord (v : BitVec 128) (edge : Nat) (wing : Option Int) (s : State) : Out :=
  whileTeam s (tickLineWord v edge wing)

/-- TICK_FRAME. -/
def execTickFrame (a b : Copy) (f : TickFrame) (s : State) : Out := whileTeam s (tickFrameIn a b f)

/-- HEARTBEAT. -/
def execHeartbeat (a b : Copy) (h : Heartbeat) (s : State) : Out := whileTeam s (heartbeatIn a b h)

/-- WITNESS_FRAME. -/
def execWitnessFrame (w : Witness) (k : Fin 8) (s : State) : Out := whileTeam s (witnessFrame w k.val)

/-- WITNESS_ASSEMBLY. -/
def execWitnessAssembly (s : State) : Out := whileTeam s witnessAssembly

/-- LEAD_LOST. -/
def execLeadLost (s : State) : Out := whileTeam s leadLost

/-- LEAD_WITHDRAW. -/
def execLeadWithdraw (wire : Tab Nat) (s : State) : Out := whileTeam s (leadWithdraw wire)

/-- ALIGNED_SET. -/
def execAlignedSet (s : State) : Out := whileTeam s alignedSet

/-- ALIGNED_CLEAR. -/
def execAlignedClear (s : State) : Out := whileTeam s alignedClear

/-- TWIN_UP_CHANGE. -/
def execTwinUpChange (s : State) : Out := whileTeam s twinUpChange

/-- PAIR_LINK_CHANGE. -/
def execPairLinkChange (pair : Fin 3) (up : Bool) (s : State) : Out := whileTeam s (pairChange pair.val up)

/-- HANDOVER. -/
def execHandover (n : Fin 32) (s : State) : Out := .next (takeOp 12 0 1 .serial n.val handover s)

/-- HANDOVER_COMMIT. -/
def execHandoverCommit (s : State) : Out := whileTeam s handoverCommit

/-- HANDOVER_EXECUTE. -/
def execHandoverExecute (wire : Tab Nat) (s : State) : Out := whileTeam s (handoverExecute wire)

/-- HANDOVER_FRAME. -/
def execHandoverFrame (bce : Tab BceReplica) (chans : Tab ChanReplica) (s : State) : Out :=
  whileTeam s (handoverFrame bce chans)

/-- DRIVE_WITHDRAW. -/
def execDriveWithdraw (s : State) : Out := whileTeam s driveWithdrawAt

/-- DRIVE_GRANT. -/
def execDriveGrant (s : State) : Out := whileTeam s driveGrantAt

/-- CKPT_PUT. -/
def execCkptPut (n : Fin 32) (e : CkptEnd) (s : State) : Out := .next (takeOp 12 1 0x10 .serial n.val (ckptPut e) s)

/-- CKPT_BUF. -/
def execCkptBuf (n : Fin 32) (s : State) : Out := .next (takeOp 12 2 0x20 .parallel n.val (poolCheck 65600) s)

/-- CHECKPOINT_ARRIVAL. -/
def execCheckpointArrival (tag tick gts : Nat) (payload : List Byte) (s : State) : Out :=
  whileTeam s (checkpointArrival tag tick gts payload)

/-- RTL_ENABLE: a write of RTL_CTL. -/
def execRtlEnable (a : Access) (v : Word) (s : State) : Out := .next (gateWrite a 12 11 s (rtlCtlWrite v))

end Sys2Proof.Machine
end

