-- ==== Sys2Proof/Machine/SelfTest.lean ====
section
/-!
DEFINITION. DSC, the descent self-test (spec/17_descent_self_test.md), and what the blocks do as their power domains
go off and on (R13, R353).
-/

namespace Sys2Proof.Machine

/-! ### Domains going off (R13, R46, R353) -/

/-- The started operations of service `blk` end with DOMAIN_OFF. -/
def serviceOff (blk : Nat) (s : State) : State := domainOffOps (fun svc _ _ => svc == blk) s

/-- The host cores' initiator IDs. -/
def hostIds : List Nat := [0x10, 0x11, 0x12, 0x13, 0x14, 0x15]

/-- The engines that go off with domain `n` (R9, R10): the load switches with the second of their two banks. -/
def enginesOf (s : State) (n : Nat) : List Nat :=
  match n with
  | 5 => [0x21, 0x22]
  | 6 => [0x24]
  | 7 => [0x25]
  | 8 => if s.pdOn 9 then [] else [0x26]
  | 9 => if s.pdOn 8 then [] else [0x26]
  | 10 => [0x27]
  | 11 => [0x2A]
  | 12 => [0x28]
  | _ => []

/-- What the blocks of a domain other than PD2 take as it goes off; the pitons its engines own are freed (R90). -/
def blocksOff (n : Nat) (s : State) : State :=
  let s := freePitons (enginesOf s n) s
  match n with
  | 3 => endpointsOff hostIds s
  | 4 => { s with mem := [] }
  | 5 => iplReset (serviceOff 6 s)
  | 6 => colOff s
  | 7 => fitSource (gnbReset (serviceOff 8 s))
  | 8 => bankOff .a (if s.pdOn 9 then s else serviceOff 5 s)
  | 9 => bankOff .b (if s.pdOn 8 then s else serviceOff 5 s)
  | 10 => canReset (serviceOff 9 s)
  | 11 => rtlOff (serviceOff 12 s)
  | 12 => pnlReset (serviceOff 10 s)
  | _ => s

/-- Domain `n` goes off: isolation first, then its blocks. -/
def domainOff (n : Nat) (s : State) : State :=
  if s.pdOn n then blocksOff n (s.setPd n false) else s

/-- Domain `n` is released from isolation: a power-on counts in the epochs of its endpoints (R72). -/
def domainOn (n : Nat) (s : State) : State :=
  if s.pdOn n then s
  else
    let s := s.setPd n true
    if n = 3 then bumpEpochs hostIds s else s

/-! ### Pitches (R416) -/

/-- Pitches 0 to 11. -/
def pitchNumbers : List Nat := List.range 12

/-- Budget in ticks. -/
def pitchBudget (p : Nat) : Nat := [300, 600, 1400, 100, 100, 100, 300, 500, 300, 150, 150, 150].getD p 0

/-- The domain a pitch isolates whole, of those that Descent has left on. -/
def pitchDomain (p : Nat) : Option Nat :=
  match p with
  | 2 => some 4
  | 4 => some 8
  | 5 => some 9
  | 9 => some 10
  | _ => none

/-- The service cores of PD2. -/
def serviceIds : List Nat := [1, 2, 3, 4, 5, 6, 7]

/-- The blocks of PD2 that a pitch tests come to their power-on state as it ends, and but for the mailboxes lose their
contents as it begins (R421). Pitch 0 resets S0 to S6: new epochs, their mailboxes flushed, their pitons freed (R72,
R82, R90); every other message is flushed with it, so that each GO has its EMPTIED (R81). -/
def pitchReset (p : Nat) (atEnd : Bool) (s : State) : State :=
  match p with
  | 0 =>
    if atEnd then
      let s := flushReceivers endpoints false (resetEndpoints serviceIds s)
      { s with hri := {}, mbx := { epochs := s.mbx.epochs } }
    else { s with hri := {} }
  | 3 => bceReset s
  | 7 => lkoReset s
  | 11 => { s with fin := {} }
  | _ => s

/-- The pitch that may start at boundary `t`: the next in order that is enabled and fits before T_d + 5,700 (R420). -/
def nextPitch (s : State) (t : Nat) : Option Nat :=
  pitchNumbers.find? fun p => decide (s.dsc.next ≤ p) && bitOf s.dsc.maskD p &&
    decide (t + pitchBudget p ≤ s.dsc.td + 5700)

/-- Step 5 goes on: a pitch runs or may start, or the key store is still being zeroised. -/
def pitchesLeft (s : State) : Bool :=
  match s.dsc.step5 with
  | none => false
  | some t5 => decide (s.t ≤ t5) || s.dsc.runs.isSome || decide (s.t < s.dsc.freeT) ||
      (s.dsc.keysClear && (nextPitch s s.t).isSome)

/-- Descent begins: EN_MASK as read at T_d (R420). -/
def dscDescent (s : State) : State :=
  { s with
    dsc.maskD := s.dsc.mask, dsc.td := s.t, dsc.step5 := none, dsc.keysClear := false, dsc.next := 0
    dsc.runs := none, dsc.freeT := 0 }

/-- Step 5 begins: a fresh record with the count of this Run, every pitch NOT_RUN (R422, R423). -/
def dscStep5 (s : State) : State :=
  { s with
    dsc.step5 := some s.t, dsc.entries := [], dsc.pcc := s.tick.pcc, dsc.keyFail := false, dsc.freeT := s.t + 1 }

/-- KEY_ZEROISE: the key store is zeroised and read back; only a verified read-back lets pitches run (R419). -/
def keyZeroise (verified : Bool) (s : State) : State :=
  if s.mode ≠ .descent ∨ s.dsc.step5 ≠ some s.t ∨ s.dsc.keysClear ∨ s.dsc.keyFail then s
  else if verified then { s with dsc.keysClear := true }
  else { s with dsc.keyFail := true }

/-- A pitch's entry. -/
def State.pitch (s : State) (p : Nat) : PitchEntry := Tab.get {} s.dsc.entries p

/-- PITCH_START: the entry reads RUNNING and the block group is isolated (R420, R421). -/
def pitchStart (p : Nat) (s : State) : State :=
  if s.mode ≠ .descent ∨ s.pwr.dstep ≠ 5 ∨ !s.dsc.keysClear ∨ s.dsc.runs.isSome ∨ s.t < s.dsc.freeT ∨
      s.gts ≠ boundaryOf s.t ∨ nextPitch s s.t ≠ some p then s
  else
    let s := { s with
      dsc.entries := Tab.put s.dsc.entries p { running := true }, dsc.runs := some (p, s.t), dsc.next := p + 1 }
    match pitchDomain p with
    | some d => domainOff d { s with dsc.wasOn := s.pdOn d }
    | none => pitchReset p false s

/-- A pitch ends with a result: its entry is written, then the blocks are reset and the domain comes back (R421,
R423). -/
def endPitch (p t0 endT : Nat) (r : PitchResult) (s : State) : State :=
  let s := { s with
    dsc.entries := Tab.put s.dsc.entries p {
      result := r, running := false, ticks := satTo (endT - t0) 65535, seconds := s.dsc.seconds }
    dsc.runs := none, dsc.freeT := endT }
  match pitchDomain p with
  | some d => if s.dsc.wasOn then domainOn d s else s
  | none => pitchReset p true s

/-- The result that counts and signatures give (R422). -/
def outcomeResult (o : PitchOutcome) : PitchResult :=
  if !o.counts then .incomplete else if o.signatures then .pass else .fail

/-- PITCH_END within the budget (R421, R422). -/
def pitchEnd (o : PitchOutcome) (s : State) : State :=
  match s.dsc.runs with
  | none => s
  | some (p, t0) =>
    if boundaryOf (t0 + pitchBudget p) < s.gts then s
    else endPitch p t0 ((s.gts + tickLen - 1) / tickLen) (outcomeResult o) s

/-- PITCH_BUDGET_EXPIRY: cut at the boundary that ends the budget (R422). -/
def pitchExpiry (s : State) : State :=
  match s.dsc.runs with
  | none => s
  | some (p, t0) =>
    if s.t < t0 + pitchBudget p then s else endPitch p t0 (t0 + pitchBudget p) .incomplete s

/-- The 6,000-tick limit cuts a running pitch (R350, R422). -/
def dscCut (s : State) : State :=
  match s.dsc.runs with
  | none => s
  | some (p, t0) => endPitch p t0 s.t .incomplete s

/-! ### The next start (R424, R425, R429) -/

/-- An entry as it is judged: one still RUNNING is INCOMPLETE (R422). -/
def judged (x : PitchEntry) : PitchEntry := if x.running then { x with result := .incomplete } else x

/-- The header's count is that of the Run before this (R424). -/
def pccMatch (s : State) : Bool := !s.pwr.pd0Lost && decide ((s.dsc.pcc + 1) % 2 ^ 32 = s.tick.pcc)

/-- An entry passed and is at most 72 h old. -/
def entryFresh (s : State) (x : PitchEntry) : Bool := decide (s.dsc.seconds ≤ x.seconds + 259200)

/-- An entry is valid for quick start (R424). -/
def entryValid (s : State) (p : Nat) : Bool :=
  let x := judged (s.pitch p)
  pccMatch s && x.result == .pass && entryFresh s x

/-- The groups that run their power-on test (R425). -/
def postMask (s : State) : Nat := maskOf (pitchNumbers.filter fun p => !entryValid s p)

/-- DSC_RESULT of a pitch. -/
def resultWord (s : State) (postFail : Tab Bool) (p : Nat) : Word :=
  let x := judged (s.pitch p)
  let v := entryValid s p
  let post := if v then 0 else if Tab.get false postFail p then 2 else 1
  wordOf (x.result.code * 2 ^ 30 + post * 2 ^ 28 + oneIf v * 2 ^ 27 + x.ticks % 65536)

/-- Seconds from the last pitch end to this start, saturating (R428). -/
def dscAge (s : State) : Word :=
  let ends := (pitchNumbers.map s.pitch).filter fun x => !x.running && x.result != .notRun
  match (ends.map fun x => x.seconds).max? with
  | some e => wordOf (satTo (s.dsc.seconds - e) max32)
  | none => Config.noAge

/-- The registers as step 5 of Run entry loads them (R428). -/
def dscLoad (postFail : Tab Bool) (s : State) : State :=
  let m := postMask s
  let failed := pitchNumbers.filter fun p =>
    (judged (s.pitch p)).result == .fail || (m.testBit p && Tab.get false postFail p)
  { s with
    dsc.status := wordOf (oneIf (m == 0) * 2 ^ 31 + oneIf (!s.pwr.pd0Lost) * 2 ^ 30 + oneIf (pccMatch s) * 2 ^ 29
      + oneIf s.dsc.keyFail * 2 ^ 28 + m)
    dsc.age := (dscAge s).toNat, dsc.pccLoaded := s.dsc.pcc
    dsc.results := pitchNumbers.map fun p => (p, resultWord s postFail p)
    dsc.fail := wordOf (maskOf failed) }

/-- RECORD's code: PD0 lost, count mismatch, or a passed entry older than 72 h; the first that holds. -/
def recordCode (s : State) : Option (Nat × Nat) :=
  if s.pwr.pd0Lost then some (1, s.dsc.pcc)
  else if !pccMatch s then some (2, s.dsc.pcc)
  else if pitchNumbers.any fun p => (judged (s.pitch p)).result == .pass && !entryFresh s (s.pitch p) then
    some (3, s.dsc.age)
  else none

/-- The events of R429, at CTRL_READY. -/
def dscEvents (postFail : Tab Bool) (s : State) : State :=
  let m := postMask s
  let s := pitchNumbers.foldl (fun s p =>
    let x := judged (s.pitch p)
    if x.result == .pass then s else raise 472 x.result.code (x.ticks * 65536 + p) s) s
  let s := raise 473 (if m = 0 then 1 else 2) m s
  let s := pitchNumbers.foldl (fun s p =>
    if m.testBit p && Tab.get false postFail p then raise 474 1 p s else s) s
  let s := if s.dsc.keyFail then raise 475 1 0 s else s
  match recordCode s with
  | some (code, data) => raise 476 code data s
  | none => s

/-- The judgement at CTRL_READY. -/
def dscReady (postFail : Tab Bool) (s : State) : State := dscEvents postFail (dscLoad postFail s)

/-- PD0 has lost its contents: every entry with it. -/
def dscLost (s : State) : State :=
  { s with dsc.entries := [], dsc.pcc := 0, dsc.keyFail := false, dsc.seconds := 0 }

/-! ### Registers (R428) -/

/-- A read of the DSC window. -/
def dscRead (off : Nat) (s : State) : Word × State :=
  let d := s.dsc
  if off = 0x00 then (d.mask, s)
  else if off = 0x04 then (d.status, s)
  else if off = 0x08 then (wordOf d.age, s)
  else if off = 0x0C then (wordOf d.pccLoaded, s)
  else if 0x10 ≤ off ∧ off < 0x40 then (Tab.get 0 d.results ((off - 0x10) / 4), s)
  else if off = 0x40 then (d.fail, s)
  else (0, s)

/-- A write to the DSC window. -/
def dscWrite (off : Nat) (v : Word) (s : State) : State :=
  if off = 0x00 then { s with dsc.mask := v &&& (0xFFF : Word) }
  else if off = 0x40 then { s with dsc.fail := w1c s.dsc.fail v }
  else s

/-! ### Commands -/

/-- KEY_ZEROISE. -/
def execKeyZeroise (verified : Bool) (s : State) : Out := whileOn 2 s (keyZeroise verified)

/-- PITCH_START. -/
def execPitchStart (p : Fin 12) (s : State) : Out := whileOn 2 s (pitchStart p.val)

/-- PITCH_END. -/
def execPitchEnd (o : PitchOutcome) (s : State) : Out := whileOn 2 s (pitchEnd o)

/-- PITCH_BUDGET_EXPIRY. -/
def execPitchBudgetExpiry (s : State) : Out := whileOn 2 s pitchExpiry

end Sys2Proof.Machine
end

