-- ==== Sys2Proof/Machine/Power.lean ====
section
/-!
DEFINITION. PWR, the supply guard (spec/14_power_supply_and_energy.md, R345 to R357, R363 to R367, R370, R371): the
modes, waking, Run entry, Descent, the watchdog, Fixed-rope, the supply events and Bivouac. The governor stands in
Governor.lean.
-/

namespace Sys2Proof.Machine

/-! ### PWR_CTL -/

def Pwr.bivEn (p : Pwr) : Bool := bitOf p.ctl 31
def Pwr.hold (p : Pwr) : Bool := bitOf p.ctl 29
def Pwr.ignDeb (p : Pwr) : Nat := max 1 (bitsOf p.ctl 7 0)
def Pwr.bivHours (p : Pwr) : Nat := bitsOf p.bivCfg 31 24
def Pwr.beaconT (p : Pwr) : Nat := bitsOf p.bivCfg 23 16
def Pwr.snapGap (p : Pwr) : Nat := bitsOf p.bivCfg 15 8

/-- The input of the ignition, and the WK inputs armed by WK_EN, of a copy of PWR_CTL. -/
def ignSel (ctl : Word) : Nat := bitsOf ctl 9 8
def wkEn (ctl : Word) (k : Nat) : Bool := bitOf ctl (24 + k)

/-- MODE (R371): the new mode plus 1, with a cause coded as WAKE. -/
def modeEvent' (m : Mode) (cause : Nat) (s : State) : State := raise 16 (m.code + 1) cause { s with mode := m }

/-! ### Power down -/

/-- The merger empties into the recorder and the queue, in order, as the module powers down by plan. -/
def drainMerger (s : State) : State :=
  s.sys.merger.foldl (fun s e => release e s) { s with sys.merger := [] }

/-- The recorder is closed and flash flushed (R350 step 6, R435). -/
def closeRecorder (s : State) : State := flushRecorder true (drainMerger s)

/-- PD2 and every other domain but PD0 and PD1 go off: posted mailboxes are flushed by the warden (R85), the time
base ends, and nothing of these domains is left. -/
def allOff (s : State) : State :=
  let s := mbxPowerDown { s with pd := 3, gts := 0, tick.running := false }
  let s := bankOff .b (bankOff .a (stageCut s))
  { s with
    resp := [], shadows := [], mem := [], sys := {}, hri := {}, fen := {}, bce := {}, fin := {}, can := {}, lko := {}
    ipl := {}, gnb := {}, yld := {}, pnl := {}, upd := { runB := s.upd.runB }
    tick := { pcc := s.tick.pcc, pccFlash := s.tick.pccFlash }
    rtl := { s.rtl with
      upA := false, upB := false, upWing := false, beacon := false
      frameOut := none, beatOut := none, wordOut := none, wingOut := none }
    start := .entry }

/-! ### Waking and Run entry (R347, R348, R370) -/

/-- WAKE of a source (R370). -/
def wakeCode (ctl : Word) : WakeSource → Nat
  | .ignition => 1
  | .wkInput k => if k.val = ignSel ctl then 1 else 2
  | .can _ => 3
  | .movement => 4
  | .latched => 5
  | .watchdog => 6

/-- The source is armed in this mode (R347, R366). `ctl` is the arming. -/
def armedIn (m : Mode) (ctl : Word) (moved : Bool) : WakeSource → Bool
  | .ignition => true
  | .wkInput k => k.val == ignSel ctl || wkEn ctl k.val
  | .can k =>
    match m with
    | .cold => decide (k.val < 2) && bitOf ctl (14 + k.val)
    | .bivouac => bitOf ctl (16 + k.val)
    | _ => false
  | .movement => m == .bivouac && bitOf ctl 30 && moved
  | _ => false

/-- Two fixes beyond the radius have asked for a wake (R266). -/
def movementSeen (s : State) : Bool := decide (2 ≤ s.biv.far)

/-- What PD0 loses with its contents (R347, R357, R423). -/
def pd0Loss (s : State) : State :=
  dscLost { s with
    tick.pcc := s.tick.pccFlash, pwr.armed := 0, pwr.revLatch := false
    recorder.staging := [], recorder.overwritten := 0, recorder.failed := 0, recorder.hours := s.recorder.hoursFlash }

/-- The PWR registers at Run entry (R370). The books of the last Bivouac, the live readings and what stands in PD0
stay. -/
def pwrRunEntry (wake : Nat) (lost : Bool) (p : Pwr) : Pwr :=
  { wake := wake, pd0Lost := lost, rev := p.revLatch, gndOpen := p.gndOpen, ground := p.ground
    overvolt := p.overvolt, peak := p.peak
    ctl := if wake = 3 ∨ wake = 4 then 0x2000_000A else 0x0000_000A
    wakeHold := wake == 3 || wake == 4
    batE := p.batE, pMeas := p.pMeas, house := p.house, plate := p.plate
    books := p.books, armed := p.armed, frope := p.frope, fropeArmed := !p.frope }

/-- The word heard within the last 3 ms whose CRC is right, with the counts since its edge (R374, R376). -/
def heardWord (e : Entry) : Option (TickWord × Nat) :=
  match e.heard with
  | some (v, d) => if d ≤ 1200000 then (readWord v).map fun w => (w, d) else none
  | none => none

/-- The GTS loaded from a control-ready twin (R22, R376). -/
def timeBaseFrom (e : Entry) : Option Nat :=
  match heardWord e with
  | some (w, d) => if w.ready && w.tb then some (w.tick * tickLen + d) else none
  | none => none

/-- A start beacon of a twin that outranks this module makes it wait, at most 200 ms, for that twin's tick-0 word
(R376). -/
def waitsFor (e : Entry) (s : State) : Option TickWord :=
  match heardWord e with
  | some (w, _) => if !w.tb && outranks w s then some w else none
  | none => none

/-- The tick-0 word of that twin, where it came. -/
def tickZero (e : Entry) (s : State) : Option TickWord :=
  match waitsFor e s, e.tick0.bind readWord with
  | some b, some w => if w.tb && w.tick == 0 && w.serial == b.serial then some w else none
  | _, _ => none

/-- The tick line as the time base starts: the module alone sends its tick-0 word in the same cycle; one that loads
GTS or waits takes its twin's (R376). -/
def lineStart (e : Entry) (s : State) : State :=
  let first := tickZero e s
  { s with
    rtl.twin := first.or ((heardWord e).map fun h => h.1)
    rtl.wordT := if first.isSome then [0] else []
    rtl.wordOut := if (timeBaseFrom e).isSome || (waitsFor e s).isSome then none else some (wordNow s) }

/-- Every block of PD2 and above, and the team logic, as a time base start leaves them. -/
def freshBlocks (s : State) : State :=
  let s := teamReset s
  let s := lswTimeBase s
  { s with
    resp := [], shadows := [], sys := {}, hri := {}, fen := {}, mbx := {}, bce := {}, fin := {}, can := {}, lko := {}
    ipl := {}, gnb := {}, yld := {}, pnl := {}, recorder := s.recorder.runEntry
    dsc := { s.dsc with mask := 0xFFF, runs := none, step5 := none } }

/-- Steps 1 to 4 of Run entry: domains, firmware, the boot record, and the time base (R22, R348, R357, R376, R396).
The warden stages the MODE event: no merger runs yet (R371, R436). -/
def runEntry (wake : Nat) (e : Entry) (s : State) : State :=
  let s := if e.pd0Lost then pd0Loss s else s
  let s := stageEvent 16 (Mode.run.code + 1) (wordOf wake) { s with mode := .run, pd := 3 }
  let s := { s with dsc.seconds := s.dsc.seconds + e.slept }
  let s := updRunEntry (freshBlocks s)
  let loaded := timeBaseFrom e
  let pcc := countUp s.tick.pcc max32
  let s := { s with
    mode := .run, start := .timeBase, pd := 0x49F, gts := loaded.getD 0
    ropePos := if wake = 6 then s.ropePos else e.pos.val
    tick := { running := true, pcc := pcc, pccFlash := pcc }
    sys.tbLoaded := loaded.isSome, pwr := pwrRunEntry wake e.pd0Lost s.pwr }
  let s := lineStart e { s with pwr.beatT := s.t, pwr.holdT := s.t, biv.phase := .idle }
  raise 8 (if loaded.isSome then 2 else 1) pcc s

/-- WAKE: a source qualifies. In Cold and Bivouac it begins Run entry; where an entry is in progress (a restart, a
latched wake, or the module as reset leaves it) that entry goes on; in Descent it is latched (R346, R351). -/
def wakeNow (src : WakeSource) (e : Entry) (s : State) : State :=
  match s.mode, s.start with
  | .cold, _ =>
    let ctl := if e.pd0Lost then (0 : Word) else s.pwr.armed
    if armedIn .cold ctl false src then runEntry (wakeCode ctl src) e s else s
  | .bivouac, _ =>
    let ctl := if e.pd0Lost then (0 : Word) else s.pwr.armed
    if armedIn .bivouac ctl (movementSeen s) src then
      runEntry (wakeCode ctl src) e { s with pwr.books := { s.pwr.books with how := .wake, ending := false } }
    else s
  | .run, .entry =>
    let ctl := if e.pd0Lost then (0 : Word) else s.pwr.armed
    runEntry (s.pwr.entryCause.getD (wakeCode ctl src)) e s
  | .descent, _ => if armedIn .descent s.pwr.ctl false src then { s with pwr.latched := true } else s
  | _, _ => s

/-- CTRL_READY: step 5 of Run entry (R348, R424, R429, R441). -/
def ctrlReady (postFail : Tab Bool) (startTicks : Nat) (s : State) : State :=
  if s.mode ≠ .run ∨ s.start ≠ .timeBase then s
  else
    let s := flushRecorder true s
    let s := { s with start := .ready, sys.ctrlReady := true, sys.postRan := postMask s != 0, pwr.revLatch := false }
    let s := raise 0 1 startTicks s
    let s := raise 17 s.pwr.wake (bitsOf s.wk 3 0) s
    let s := if s.pwr.rev then raise 20 1 0 s else s
    let s := if s.pwr.pd0Lost then
        raise 485 1 s.recorder.hours (raise 480 2 (Config.pd0Records s.tick.pcc) s)
      else s
    updReady (dscReady postFail s)

/-! ### Descent (R349 to R352) -/

/-- DESCENT's event with the step reached. -/
def descentEvent (code step : Nat) (s : State) : State := raise 23 code step s

/-- Descent begins at this boundary: step 1 (R350). -/
def descentBegin (s : State) : State :=
  if s.mode ≠ .run ∨ s.start ≠ .ready then s
  else
    let s := { modeEvent' .descent 0 s with pwr.descT := none, pwr.dstep := 1, pwr.graceEnd := none }
    let s := dscDescent (updDescent (teamDescent s))
    bceStopAll (pnlStopNow (yieldClose s.gts (gnbStore s)))

/-- Step 3: OUT_EN 0. -/
def descentOutputs (s : State) : State :=
  { lswCtlWrite (if s.lsw.crankHold then 0x4000_0000 else 0) s with pwr.dstep := 4 }

/-- Step 5 begins at this boundary (R350, R419): source 23 tells how step 4 ended. -/
def descentStep5 (host : Bool) (s : State) : State :=
  let s := descentEvent (if host then 1 else 2) 4 { s with pwr.graceEnd := none }
  let s := [3, 5, 6, 7, 11, 12].foldl (fun s n => domainOff n s) s
  dscStep5 { s with pwr.dstep := 5 }

/-- Step 6 begins: recorder closed, flash flushed, and PD2, PD4, PD8, PD9 and PD10 off. -/
def descentStep6 (s : State) : State := allOff (closeRecorder { updStep7 s with pwr.dstep := 6 })

/-- Bivouac begins (R363). -/
def bivouacBegin (s : State) : State :=
  let s := bivBegin { s with pwr.books := { allow := s.pwr.bivAllow, beacon := s.pwr.beaconT } }
  modeEvent' .bivouac 0 s

/-- Every domain but PD0 is off: Cold. -/
def toCold (s : State) : State := modeEvent' .cold 0 { s with pd := 1, gts := 0, tick.running := false }

/-- Step 7: the supply latch is released, the arming is copied into PD0, and the module goes where R346 says. -/
def descentEnd (code : Nat) (s : State) : State :=
  let s := descentEvent code 7 { s with pwr.dstep := 7, pwr.armed := s.pwr.ctl }
  let s := { s with pwr.dstep := 0 }
  if s.pwr.latched then
    { s with mode := .run, start := .entry, pwr.entryCause := some 5, pwr.latched := false, rtl.beacon := true }
  else if s.pwr.bivEn && decide (0 < s.pwr.bivAllow) then bivouacBegin s
  else toCold s

/-- The descent of a boundary `s.t`. -/
def descentTick (s : State) : State :=
  if s.pwr.dstep = 1 then { s with pwr.dstep := 2 }
  else if s.pwr.dstep = 2 then descentOutputs s
  else if s.pwr.dstep = 4 then
    match s.pwr.graceEnd with
    | some (host, t) => if t ≤ s.t then descentStep5 host s else s
    | none => s
  else s

/-- DESCENT_COMPLETE: after the pitches, steps 6 and 7. -/
def descentComplete (s : State) : State :=
  if s.mode ≠ .descent ∨ s.pwr.dstep ≠ 5 ∨ pitchesLeft s then s else descentEnd 3 (descentStep6 s)

/-- DESCENT_LIMIT: 6,000 ticks after T_d a running pitch is cut, and step 7 follows (R350). -/
def descentLimit (s : State) : State :=
  if s.mode ≠ .descent ∨ s.t < s.dsc.td + 6000 then s
  else descentEnd 4 (descentStep6 (dscCut s))

/-- DESC_GRACE in ticks, at most 1,500; step 4 begins at T_d + 2. -/
def graceTicks (p : Pwr) : Nat := max 2 (min 1500 (p.desc % 2048))

/-- DESC_GRACE_EXPIRY (R350). -/
def graceExpiry (s : State) : State :=
  if s.mode ≠ .descent ∨ s.pwr.dstep ≠ 4 ∨ s.pwr.graceEnd.isSome ∨ s.t < s.dsc.td + graceTicks s.pwr then s
  else if s.gts = boundaryOf s.t then descentStep5 false s
  else { s with pwr.graceEnd := some (false, s.t + 1) }

/-- PWR_CMD written (R349, R350): DESCEND in Run, HOST_DONE in step 4. -/
def pwrCmd (v : Word) (s : State) : State :=
  let s := if bitOf v 0 && s.mode == .run && s.start == .ready then { s with pwr.descT := some (s.t + 1) } else s
  if bitOf v 1 && s.mode == .descent && s.pwr.dstep == 4 then { s with pwr.graceEnd := some (true, s.t + 1) } else s

/-- The ignition input and every armed WK input read inactive. -/
def inputsIdle (s : State) : Bool :=
  (List.range 4).all fun k => !((k == ignSel s.pwr.ctl || wkEn s.pwr.ctl k) && bitOf s.wk k)

/-- IGNITION_OFF (R349): met at a boundary, it begins Descent there. -/
def ignitionOff (s : State) : State :=
  if s.mode ≠ .run ∨ s.start ≠ .ready ∨ s.pwr.hold ∨ !inputsIdle s ∨ s.pwr.idleTicks ≤ s.pwr.ignDeb * 10 then s
  else if s.gts = boundaryOf s.t then descentBegin s
  else { s with pwr.descT := some (s.t + 1) }

/-- HOLD_EXPIRY: a HOLD set by a CAN or movement wake clears itself (R349). -/
def holdExpiry (s : State) : State :=
  if s.pwr.wakeHold ∧ s.pwr.holdT + 600000 ≤ s.t then
    { s with pwr.wakeHold := false, pwr.ctl := setBit s.pwr.ctl 29 false }
  else s

/-! ### Watchdog and Fixed-rope (R354, R355) -/

/-- A record made at once, for a module whose merger goes off with the event's own effect. -/
def recordNow (src code data : Nat) (s : State) : State :=
  release { gts := s.gts, src := src, code := code, data := wordOf data } (drainMerger s)

/-- Fixed-rope mode (R355): the LH map and LSW_FR_DUTY stay in force. -/
def fixedRope (cause : Nat) (s : State) : State :=
  let s := if s.pdOn 2 then closeRecorder s else s
  let s := allOff s
  modeEvent' .fixedRope cause { s with lsw.fr := [], pwr.entryCause := none, pwr.descT := none }

/-- WATCHDOG_HEARTBEAT. -/
def heartbeatWrite (s : State) : State := { s with pwr.beatT := s.t }

/-- The module restarts: all but PD0 and PD1 off, and Run entry from step 2 (R354). -/
def restartModule (s : State) : State :=
  let s := allOff s
  { s with mode := .run, start := .entry, pwr.entryCause := some 6, pwr.descT := none, rtl.beacon := true }

/-- Descent has begun at this very boundary: a Fixed-rope condition met there goes before it (R367). -/
def descentStarts (s : State) : Bool := s.mode == .descent && s.pwr.dstep == 1 && s.gts == boundaryOf s.dsc.td

/-- WATCHDOG_EXPIRY (R354); in Descent it is ignored, but for a Fixed-rope entry at its own boundary (R367). -/
def watchdogExpiry (s : State) : State :=
  if (s.mode ≠ .run ∧ !descentStarts s) ∨ s.start = .entry ∨ s.t < s.pwr.beatT + s.pwr.wdog then s
  else
    let up := s.rtl.twinUp
    let s' := recordNow 22 1 (oneIf up) s
    if s.start ≠ .ready || (up && s.rtl.state != .off) then
      if s.mode = .run then restartModule (flushRecorder true s') else s
    else fixedRope 6 s'

/-- FIXROPE_REQUEST: the level of FIXROPE_n changes (R354, R367). -/
def fixropeRequest (active : Bool) (s : State) : State :=
  if !active then { s with pwr.frope := false, pwr.fropeArmed := true }
  else
    let due := !s.pwr.frope && s.pwr.fropeArmed && (descentStarts s || (s.mode == .run &&
      (s.start == .ready || (s.start == .entry && s.pwr.entryCause == some 6))))
    let s := { s with pwr.frope := true, pwr.fropeArmed := false }
    if due then fixedRope Config.fixropeCause.val s else s

/-! ### Supply events (R356) -/

/-- BAT_E has been below its threshold: 3.2 V while crank-hold runs on a bank, or 4.5 V for longer than 50 ticks
of it; else 4.5 V. -/
def brownoutMet (mV : Nat) (s : State) : Bool :=
  let holds := [s.lsw.bankA.hold, s.lsw.bankB.hold].filterMap id
  if holds.isEmpty then decide (mV < 4500)
  else decide (mV < 3200) || (decide (mV < 4500) && holds.any fun g => decide (g + 50 * tickLen < s.gts))

/-- The electronics lose their supply: every domain but PD0 off at once, Cold; a Descent is cut with the step it had
reached (R351, R356). What waits in the merger is lost. -/
def supplyLost (s : State) : State :=
  let was := s.mode
  let step := s.pwr.dstep
  let ended := if was = .bivouac then BivEnd.brownout else s.pwr.books.how
  let s := { allOff s with
    pwr := { s.pwr with dstep := 0, descT := none, latched := false, entryCause := none, gndOpen := false, ground := 0
                        overvolt := false, books := { s.pwr.books with how := ended, ending := false } }
    pd := 1, biv.phase := .idle }
  toCold (if was = .descent then stageEvent 23 5 (wordOf step) s else s)

/-- BROWNOUT (R356). -/
def brownout (mV : Nat) (s : State) : State :=
  if s.mode = .cold ∨ !brownoutMet mV s then s else supplyLost (stageEvent 18 1 (wordOf mV) s)

/-- REVERSE_BATTERY: PD0 latches it and runs from its store; the supply is blocked and nothing conducts (R172, R356,
log 198). -/
def reverseBattery (s : State) : State :=
  let s := { s with pwr.revLatch := true }
  if s.mode = .cold then s else supplyLost s

/-- RESTART_AFTER_BROWNOUT: BAT_E at or above 6.0 V, and a wake source active or latched (R356). -/
def restartAfter (mV : Nat) (src : WakeSource) (e : Entry) (s : State) : State :=
  let ctl := if e.pd0Lost then (0 : Word) else s.pwr.armed
  if s.mode = .cold ∧ 6000 ≤ mV ∧ armedIn .cold ctl false src then runEntry (wakeCode ctl src) e s else s

/-- PD1 is alive. -/
def pd1Alive (s : State) : Bool := s.mode != .cold

/-- OVERVOLTAGE (R356). -/
def overvoltage (mV : Nat) (s : State) : State :=
  if !pd1Alive s || s.pwr.overvolt || decide (mV ≤ 36000) then s
  else raise 19 1 mV { s with pwr.overvolt := true, pwr.peak := mV, pwr.batE := mV / 10 }

/-- OVERVOLTAGE_END, with the peak. -/
def overvoltageEnd (peak : Nat) (s : State) : State :=
  if !pd1Alive s || !s.pwr.overvolt then s
  else
    let m := max s.pwr.peak peak
    raise 19 2 m { s with pwr.overvolt := false, pwr.peak := m }

/-- Bits 3:0 contacts, bits 31:16 offset in mV. -/
def groundData (s : State) (offset : Nat) : Nat := satTo offset 0xFFFF * 65536 + s.pwr.ground

/-- GROUND_OPEN: more than 0.5 V between ground contacts for 10 ticks, some of them open. The loss of every contact is
a brown-out (log 197). -/
def groundOpen (contacts offset : Nat) (s : State) : State :=
  if !pd1Alive s || decide (offset ≤ 500) || contacts == 0 || contacts == 15 then s
  else
    let s := { s with pwr.gndOpen := true, pwr.ground := contacts }
    raise 21 1 (groundData s offset) s

/-- GROUND_HEALED: the contacts that had opened. -/
def groundHealed (s : State) : State :=
  if !pd1Alive s || !s.pwr.gndOpen then s
  else raise 21 2 (groundData s 0) { s with pwr.gndOpen := false }

/-! ### Bivouac (R363 to R366) -/

/-- Seconds left in BIV_HOURS. -/
def secondsLeft (p : Pwr) : Nat := p.bivHours * 3600 - p.books.seconds

/-- REM. -/
def BivBooks.rem (b : BivBooks) : Nat := b.allow - b.spent

/-- The declared costs of a second: base, CAN wake by network armed, and a beacon (R364). -/
def secondCost (p : Pwr) (beacon : Bool) : Rat :=
  6 / 5 + (popCount (bitsOf p.ctl 23 16) : Rat) / 10 + (if beacon then 3 / 5 else 0)

/-- BIVOUAC_SECOND: one second with `spent` rations measured; PD10 is pulsed on where a beacon is due (R363, R365). -/
def bivouacSecond (spent : Nat) (s : State) : State :=
  if s.mode ≠ .bivouac then s
  else
    let p := s.pwr
    let b := p.books
    let due := p.beaconT != 0 && decide (b.beacon ≤ 1)
    let gain : Rat := (b.rem : Rat) / (max 60 (secondsLeft p) : Nat)
    let b := { b with
      account := min 60 (b.account + gain - secondCost p due), spent := satTo (b.spent + spent) max32
      seconds := b.seconds + 1, sinceSnap := b.sinceSnap.map fun n => n + 1
      beacon := if due then p.beaconT else b.beacon - 1, beaconDue := due || b.beaconDue }
    let s := { s with pwr.books := b, biv.wait := s.biv.wait - 1, dsc.seconds := s.dsc.seconds + 1 }
    if due then s.setPd 10 true else s

/-- BURST_INSTANT: what the pace account affords (R363). -/
def burstInstant (s : State) : State :=
  if s.mode ≠ .bivouac ∨ s.biv.wait ≠ 0 ∨ s.biv.period = 0 ∨ s.biv.phase ≠ .idle then s
  else
    let b := s.pwr.books
    let s := { s with biv.wait := s.biv.period }
    if 6 ≤ b.account then bivCapture true { s with pwr.books := { b with account := b.account - 6 } }
    else if decide (2 ≤ b.account) && b.sinceSnap.all (fun n => decide (s.pwr.snapGap ≤ n)) then
      bivCapture false { s with pwr.books := { b with account := b.account - 2, sinceSnap := some 0 } }
    else s

/-- The allowance is spent: Cold, ALLOWANCE staged (R363). -/
def bivouacSpent (s : State) : State :=
  let s := bivOver { s with pwr.books := { s.pwr.books with how := .spent, ending := false } }
  toCold (raise 26 1 s.pwr.books.spent s)

/-- ALLOWANCE_SPENT: at once, or after the burst or snapshot in progress. -/
def allowanceSpent (s : State) : State :=
  if s.mode ≠ .bivouac ∨ s.pwr.books.spent < s.pwr.books.allow then s
  else if s.biv.phase ≠ .idle then { s with pwr.books := { s.pwr.books with ending := true } }
  else bivouacSpent s

/-- A burst or snapshot is over; one that outlived the allowance ends Bivouac. -/
def captureDone (s : State) : State :=
  let s := bivOver s
  if s.pwr.books.ending then bivouacSpent s else s

/-- BIVOUAC_BURST (R266): its fix, and a movement that no wake answers (R366). -/
def bivouacBurst (sats distance gpsNs : Nat) (s : State) : State :=
  if s.mode ≠ .bivouac ∨ s.biv.phase ≠ .burst then s
  else
    let s := bivFix sats distance gpsNs s
    let moved := s.pwr.books.moved || (movementSeen s && !bitOf s.pwr.armed 30)
    captureDone { s with pwr.books := { s.pwr.books with moved := moved } }

/-- SNAPSHOT (R267). -/
def snapshot (gpsNs tunc : Nat) (temp : Int) (samples : List Byte) (s : State) : State :=
  if s.mode ≠ .bivouac ∨ s.biv.phase ≠ .snapshot then s
  else captureDone (takeSnapshot gpsNs tunc temp samples s)

/-- The 64-byte payload of a beacon (R364). -/
def beaconPayload (s : State) : List Byte :=
  let b := s.pwr.books
  let (lat, lon) := match s.biv.predict with
    | some p => (p.lat, p.lon)
    | none => (Config.noParked 0, Config.noParked 1)
  let flags := oneIf b.moved + 2 * oneIf (decide (b.rem * 10 < b.allow)) + 4 * oneIf (!s.biv.area.isEmpty)
  leBytes 8 Config.serial.toNat ++ leBytes 4 s.tick.pcc ++ leBytes 4 lat.toNat ++ leBytes 4 lon.toNat ++
    leBytes 1 flags ++ zeros 3 ++ leBytes 4 b.rem ++ zeros 36

/-- The beacon frame without its check sequence (R365). -/
def beaconFrame (s : State) : List Byte :=
  let sa := leBytes 5 Config.serial.toNat
  List.replicate 6 0xFF ++ [0x02] ++ (if Config.beaconHighFirst then sa.reverse else sa) ++ [0x88, 0xB5] ++
    beaconPayload s

/-- PRESENCE_BEACON: sent on BEACON_PORT at its speed in Run where the link comes up within 50 ms; PD10 goes off again
(R365). -/
def presenceBeacon (linkUp : Bool) (s : State) : State :=
  if s.mode ≠ .bivouac ∨ !s.pwr.books.beaconDue then s
  else
    let port := bitsOf s.pwr.bivCfg 2 0
    let b := { s.pwr.books with beaconDue := false }
    let b := if linkUp then { b with frame := some (port, s.pwr.ports.getD port 0, beaconFrame s) } else b
    { s.setPd 10 false with pwr.books := b }

/-! ### Commands -/

/-- WAKE. -/
def execWake (src : WakeSource) (e : Entry) (s : State) : Out := .next (wakeNow src e s)

/-- CTRL_READY. -/
def execCtrlReady (postFail : Tab Bool) (startTicks : Nat) (s : State) : Out :=
  .next (ctrlReady postFail startTicks s)

/-- DESCEND: a write of PWR_CMD with bit 0. -/
def execDescend (a : Access) (v : Word) (s : State) : Out := .next (gateWrite a 11 1 s (pwrCmd v))

/-- IGNITION_OFF. -/
def execIgnitionOff (s : State) : Out := .next (ignitionOff s)

/-- HOLD_EXPIRY. -/
def execHoldExpiry (s : State) : Out := .next (if s.mode = .run then holdExpiry s else s)

/-- HOST_DONE: a write of PWR_CMD with bit 1. -/
def execHostDone (a : Access) (v : Word) (s : State) : Out := .next (gateWrite a 11 1 s fun s => pwrCmd v s)

/-- DESC_GRACE_EXPIRY. -/
def execDescGraceExpiry (s : State) : Out := .next (graceExpiry s)

/-- DESCENT_LIMIT. -/
def execDescentLimit (s : State) : Out := .next (descentLimit s)

/-- DESCENT_COMPLETE. -/
def execDescentComplete (s : State) : Out := .next (descentComplete s)

/-- WATCHDOG_HEARTBEAT. -/
def execWatchdogHeartbeat (s : State) : Out := .next (if s.tick.running then heartbeatWrite s else s)

/-- WATCHDOG_EXPIRY. -/
def execWatchdogExpiry (s : State) : Out := .next (watchdogExpiry s)

/-- FIXROPE_REQUEST. -/
def execFixropeRequest (active : Bool) (s : State) : Out := .next (fixropeRequest active s)

/-- BROWNOUT. -/
def execBrownout (mV : Nat) (s : State) : Out := .next (brownout mV s)

/-- RESTART_AFTER_BROWNOUT. -/
def execRestartAfterBrownout (mV : Nat) (src : WakeSource) (e : Entry) (s : State) : Out :=
  .next (restartAfter mV src e s)

/-- OVERVOLTAGE. -/
def execOvervoltage (mV : Nat) (s : State) : Out := .next (overvoltage mV s)

/-- OVERVOLTAGE_END. -/
def execOvervoltageEnd (peak : Nat) (s : State) : Out := .next (overvoltageEnd peak s)

/-- REVERSE_BATTERY. -/
def execReverseBattery (s : State) : Out := .next (reverseBattery s)

/-- GROUND_OPEN. -/
def execGroundOpen (contacts : Fin 16) (offset : Nat) (s : State) : Out := .next (groundOpen contacts.val offset s)

/-- GROUND_HEALED. -/
def execGroundHealed (s : State) : Out := .next (groundHealed s)

/-- BIVOUAC_SECOND. -/
def execBivouacSecond (spent : Nat) (s : State) : Out := .next (bivouacSecond spent s)

/-- BURST_INSTANT. -/
def execBurstInstant (s : State) : Out := .next (burstInstant s)

/-- BIVOUAC_BURST. -/
def execBivouacBurst (sats distance gpsNs : Nat) (s : State) : Out := .next (bivouacBurst sats distance gpsNs s)

/-- SNAPSHOT. -/
def execSnapshot (gpsNs tunc : Nat) (temp : Int) (samples : List Byte) (s : State) : Out :=
  .next (snapshot gpsNs tunc temp samples s)

/-- ALLOWANCE_SPENT. -/
def execAllowanceSpent (s : State) : Out := .next (allowanceSpent s)

/-- PRESENCE_BEACON. -/
def execPresenceBeacon (linkUp : Bool) (s : State) : Out := .next (presenceBeacon linkUp s)

end Sys2Proof.Machine
end

