-- ==== Sys2Proof/Machine/Governor.lean ====
section
/-!
DEFINITION. The energy governor in Run (spec/14_power_supply_and_energy.md, R358 to R362, R368, R369), the tick work
of PWR, and its registers (R370).
-/

namespace Sys2Proof.Machine

/-! ### Jobs (R362) -/

/-- A declared job that nothing defers. -/
def GovJob.admitted (j : GovJob) : Bool := !j.ladder && !j.bankDef

/-- Jobs by number. -/
def jobNumbers : List Nat := List.range 16

/-- Mean current of a bank over the last tick, 10 mA. -/
def bankMean (b : Bool) (s : State) : Nat := if b then s.lsw.bankB.current else s.lsw.bankA.current

/-- The budget of a bank, in A; 0 no check. -/
def bankBudget (b : Bool) (p : Pwr) : Nat := if b then bitsOf p.budget 31 16 else bitsOf p.budget 15 0

/-- A feed current in 0.1 A fits on top of a bank's mean. -/
def feedFits (b : Bool) (feed : Nat) (s : State) : Bool :=
  bankBudget b s.pwr == 0 || decide (bankMean b s + 10 * feed ≤ 100 * bankBudget b s.pwr)

/-- The mean with the job's current lies below the budget. -/
def feedBelow (b : Bool) (feed : Nat) (s : State) : Bool :=
  bankBudget b s.pwr == 0 || decide (bankMean b s + 10 * feed < 100 * bankBudget b s.pwr)

/-- A job replaced. -/
def setJob (n : Nat) (j : GovJob) (s : State) : State := { s with pwr.gov.jobs := Tab.put s.pwr.gov.jobs n j }

/-- HOST_JOB (R371). -/
def jobEvent (code n : Nat) (bank : Bool) (s : State) : State := raise 25 code (oneIf bank * 256 + n) s

/-- A job changes; source 25 tells where it is deferred now and was not, or the other way round. -/
def changeJob (n : Nat) (bank : Bool) (f : GovJob → GovJob) (s : State) : State :=
  match Tab.find s.pwr.gov.jobs n with
  | none => s
  | some j =>
    let k := f j
    let s := setJob n k s
    if j.admitted = k.admitted then s else jobEvent (if k.admitted then 2 else 1) n bank s

/-- PWR_GOV_HOSTDEF. -/
def hostDef (s : State) : Nat := maskOf (s.pwr.gov.jobs.filterMap fun e => if e.2.admitted then none else some e.1)

/-- Jobs admitted. -/
def hostAdmitted (s : State) : Nat := maskOf (s.pwr.gov.jobs.filterMap fun e => if e.2.admitted then some e.1 else none)

/-! ### The thermal budget (R359) -/

/-- P_allow in 0.1 W for a temperature in 0.1 degree. -/
def allowAt (t : Int) : Rat :=
  if t ≤ 650 then 1100 else if t < 950 then 1100 - 7 * ((t - 650 : Int) : Rat) / 3 else 400

/-! ### The ladder (R360) -/

/-- Saving of a stream in 0.1 W. -/
def streamSaving (s : State) (i : Nat) : Rat := 100 * encLoad s (s.stream i) / 248832000

/-- An item is deferred already. -/
def Gov.has (g : Gov) (x : Ladder) : Bool := g.ladder.any fun e => e.1 == x

/-- The job was admitted until its bank deferred it in this tick: the ladder still counts it (R367). -/
def bankTold (s : State) (j : GovJob) : Bool := j.bankDef && !j.ladder && j.bankT == some s.t

/-- Admitted jobs of a class, highest number first. -/
def classItems (cls : Nat) (s : State) : List (Ladder × Rat) :=
  (jobNumbers.reverse.filterMap fun n =>
    match Tab.find s.pwr.gov.jobs n with
    | some j => if j.cls = cls ∧ (j.admitted ∨ bankTold s j) then some (Ladder.job n, (j.cost : Rat)) else none
    | none => none)

/-- Streams that run, 3 first. -/
def streamItems (s : State) : List (Ladder × Rat) :=
  [3, 2, 1, 0].filterMap fun i => if (s.stream i).st = .run then some (Ladder.stream i, streamSaving s i) else none

/-- Col runs a model that has an int8 variant. -/
def precisionItem (s : State) : List (Ladder × Rat) :=
  if s.pdOn 6 && s.lko.state.running && (s.lko.models.any fun e => e.2.hasInt8) then [(.precision, 80)] else []

/-- A context that PWR_GOV_CAM lets slow is running. -/
def cameraItems (s : State) : List (Ladder × Rat) :=
  if ictxNumbers.any fun c => bitOf s.pwr.govCam c && (s.ictx c).state.live then
    [(.camera 2, 60), (.camera 4, 30)]
  else []

/-- GNB runs. -/
def bandItems (s : State) : List (Ladder × Rat) :=
  if s.gnb.state = .run then [(.band 1, 6), (.band 2, 5), (.band 3, 4)] else []

/-- Every item that applies, in order. -/
def ladderItems (s : State) : List (Ladder × Rat) :=
  classItems 3 s ++ streamItems s ++ classItems 2 s ++ precisionItem s ++ cameraItems s ++ classItems 1 s ++ bandItems s

/-- The next item to defer. -/
def nextItem (s : State) : Option (Ladder × Rat) := (ladderItems s).find? fun e => !s.pwr.gov.has e.1

/-- The rate factor and the band level with these items deferred. -/
def rateNow (g : Gov) : Nat := if g.has (.camera 4) then 4 else if g.has (.camera 2) then 2 else 1
def bandNow (g : Gov) : Nat :=
  if g.has (.band 3) then 3 else if g.has (.band 2) then 2 else if g.has (.band 1) then 1 else 0

/-- What a decision does at the boundary after it (R361). -/
def settlePending (s : State) : State :=
  match s.pwr.gov.pending with
  | none => s
  | some (on, x) =>
    let s := { s with pwr.gov.pending := none }
    match x with
    | .stream i => deferStream i on s
    | .job n =>
      match Tab.find s.pwr.gov.jobs n with
      | some j => setJob n { j with ladder := on } s
      | none => s
    | .precision => { s with lko.int8Ask := on }
    | .camera _ =>
      ictxNumbers.foldl (fun s c => if bitOf s.pwr.govCam c then setRateFactor c (rateNow s.pwr.gov) s else s) s
    | .band _ => setBand (bandNow s.pwr.gov) s

/-- GOVERNOR's data (R371). -/
def govData (p : Rat) (s : State) : Nat := satTo (openRat p) 0xFFFF * 65536 + s.pwr.gov.ladder.length % 256

/-- A ladder decision on a job tells source 25 at the period end, unless its bank defers it as well (R362, R367). -/
def ladderJob (code : Nat) (x : Ladder) (s : State) : State :=
  match x with
  | .job n => if (Tab.find s.pwr.gov.jobs n).any fun j => j.bankDef then s else jobEvent code n false s
  | _ => s

/-- The next item is deferred, or the ladder is exhausted (R361). -/
def deferNext (p : Rat) (s : State) : State :=
  let s := { s with pwr.gov.qual := 0 }
  match nextItem s with
  | some e =>
    let s := { s with
      pwr.gov.ladder := e :: s.pwr.gov.ladder, pwr.gov.spent := 0, pwr.gov.pending := some (true, e.1) }
    raise 24 1 (govData p s) (ladderJob 1 e.1 s)
  | none =>
    let n := s.pwr.gov.spent
    let s := { s with pwr.gov.spent := n + 1 }
    if n % 10 = 0 then raise 24 3 (govData p s) s else s

/-- A period without need to defer: it counts where the last item would fit again with 5 W to spare, and the tenth
in a row restores it (R361). -/
def countPeriod (p allow : Rat) (s : State) : State :=
  let s := { s with pwr.gov.spent := 0 }
  match s.pwr.gov.ladder with
  | [] => { s with pwr.gov.qual := 0 }
  | e :: rest =>
    if p + e.2 + 50 ≤ allow then
      if s.pwr.gov.qual + 1 < 10 then { s with pwr.gov.qual := s.pwr.gov.qual + 1 }
      else
        let s := { s with pwr.gov.ladder := rest, pwr.gov.qual := 0, pwr.gov.pending := some (false, e.1) }
        raise 24 2 (govData p s) (ladderJob 2 e.1 s)
    else { s with pwr.gov.qual := 0 }

/-! ### The books (R369) -/

/-- Two bytes of a saving, rounded in a way left open. -/
def saving2 (q : Rat) : List Byte := leBytes 2 (satTo (openRat q) 0xFFFF)

/-- Eight bytes of a job. -/
def jobBytes (s : State) (n : Nat) : List Byte :=
  match Tab.find s.pwr.gov.jobs n with
  | none => zeros 8
  | some j =>
    leBytes 2 j.cls ++ leBytes 2 (1 + 2 * oneIf j.admitted + 4 * oneIf j.bankDef) ++ leBytes 2 j.cost ++
      leBytes 2 j.feed

/-- A bank's budget in A and mean in 0.1 A. -/
def bankBytes (b : Bool) (s : State) : List Byte :=
  leBytes 4 (bankBudget b s.pwr * 65536 + satTo (openDiv (bankMean b s) 10) 0xFFFF)

/-- The 256 bytes of GOV_READ. -/
def govBooks (s : State) : List Byte :=
  let g := s.pwr.gov
  let b := s.pwr.books
  leBytes 8 (boundaryOf g.endT) ++ saving2 g.pAllow ++ saving2 g.pMeas ++
    leBytes 2 (wordOfInt g.house).toNat ++ leBytes 2 (wordOfInt g.plate).toNat ++ leBytes 2 g.ladder.length ++
    leBytes 2 g.qual ++ bankBytes false s ++ bankBytes true s ++ leBytes 2 (hostAdmitted s) ++ leBytes 2 (hostDef s) ++
    [3, 2, 1, 0].flatMap (fun i => saving2 (if (s.stream i).st = .off then 0 else streamSaving s i)) ++
    [80, 60, 30, 6, 5, 4].flatMap saving2 ++ zeros 12 ++
    jobNumbers.flatMap (jobBytes s) ++
    leBytes 4 b.allow ++ leBytes 4 b.spent ++ leBytes 4 b.seconds ++ leBytes 1 b.how.code ++ zeros 51

/-- GOVERNOR_PERIOD: at a tick with T mod 100 = 0 (R359, R361). -/
def governorPeriod (s : State) : State :=
  let g := s.pwr.gov
  if s.mode ≠ .run ∨ s.start ≠ .ready ∨ s.t % 100 ≠ 0 ∨ g.endT = s.t ∨ g.ticks = 0 then s
  else
    let allow := allowAt (g.temp.getD 0)
    let p : Rat := (g.sum : Rat) / (g.ticks : Nat)
    let s := { s with pwr.gov := { g with
      endT := s.t, pAllow := allow, pMeas := p, house := s.pwr.house, plate := s.pwr.plate
      temp := none, sum := 0, ticks := 0 } }
    let s := if allow < p then deferNext p s else countPeriod p allow s
    { s with pwr.gov.snap := govBooks s }

/-! ### Banks (R362) -/

/-- The admitted job on a bank with the highest class, and among equals the highest number. -/
def bankVictim (b : Bool) (s : State) : Option Nat :=
  let of' (cls : Nat) : List Nat := jobNumbers.reverse.filter fun n =>
    (Tab.find s.pwr.gov.jobs n).any fun j => j.admitted && j.bank == some b && j.cls == cls
  (of' 3 ++ of' 2 ++ of' 1).head?

/-- BANK_BUDGET_EXCEEDED: after 10 successive ticks over its budget. A job that the ladder has deferred in this tick
is told once (R367). -/
def bankExceeded (b : Bool) (s : State) : State :=
  let n := if b then s.pwr.gov.overB else s.pwr.gov.overA
  if n < 10 then s
  else
    let s := if b then { s with pwr.gov.overB := 0 } else { s with pwr.gov.overA := 0 }
    let defer (x : GovJob) : GovJob := { x with bankDef := true, room := 0, bankT := some s.t }
    match bankVictim b s with
    | some j =>
      if s.pwr.gov.pending = some (true, .job j) then
        match Tab.find s.pwr.gov.jobs j with
        | some x => setJob j (defer x) s
        | none => s
      else changeJob j true defer s
    | none => s

/-- BANK_BUDGET_RESTORE: after 1,000 successive ticks with room for the job. -/
def bankRestore (n : Nat) (s : State) : State :=
  match Tab.find s.pwr.gov.jobs n with
  | none => s
  | some j =>
    if j.bankDef ∧ 1000 ≤ j.room then changeJob n true (fun x => { x with bankDef := false, room := 0 }) s else s

/-! ### Ring operations (R368) -/

/-- GOV_DECLARE. -/
def govDeclare (c : OpRef) (s : State) : State :=
  let w := c.op.word 6
  let n := bitsOf w 3 0
  let cls := bitsOf w 9 8
  if cls = 0 then failOp c stSchema 0 s
  else if (Tab.find s.pwr.gov.jobs n).isSome then failOp c stBusy 0 s
  else
    let cost := bitsOf (c.op.word 7) 15 0
    let feed := bitsOf (c.op.word 8) 15 0
    let bank := if bitOf w 13 then some (bitOf w 12) else none
    let g := s.pwr.gov
    let warm := decide (g.pMeas + cost + 50 ≤ g.pAllow)
    let fits := bank.all fun b => feedFits b feed s
    let j : GovJob := { cls := cls, bank := bank, cost := cost, feed := feed, ladder := !warm, bankDef := !fits }
    let s := setJob n j s
    let s := if j.admitted then s else jobEvent 1 n (!fits) s
    finishOp c stOk 0 (wordOf (oneIf j.admitted)) (wordOf (openRat g.pAllow)) s

/-- GOV_RELEASE. -/
def govRelease (c : OpRef) (s : State) : State :=
  let n := bitsOf (c.op.word 6) 3 0
  if (Tab.find s.pwr.gov.jobs n).isNone then failOp c stSchema 0 s
  else
    finishOp c stOk 0 (wordOf n) 0 { s with
      pwr.gov.jobs := Tab.del s.pwr.gov.jobs n
      pwr.gov.ladder := s.pwr.gov.ladder.filter fun e => e.1 != .job n
      pwr.gov.pending := if s.pwr.gov.pending.any fun e => e.2 == .job n then none else s.pwr.gov.pending }

/-- GOV_READ: the books as taken at the last period end. -/
def govRead (c : OpRef) (s : State) : State :=
  if c.op.len ≠ 256 then failOp c stLen 0 s
  else
    let g := s.pwr.gov
    let bs := if g.snap.isEmpty then govBooks s else g.snap
    writeOut 0x29 c bs (wordOf g.ladder.length) (wordOf (boundaryOf g.endT)) s

/-! ### Tick work -/

/-- What a sensor shows: 0x7FFF where it reads open or shorted (R455). -/
def sensed (x : Option Int) : Int := x.getD 0x7FFF

/-- A bank is over its budget in the tick just ended. -/
def bankOver (b : Bool) (s : State) : Bool :=
  bankBudget b s.pwr != 0 && decide (100 * bankBudget b s.pwr < bankMean b s)

/-- The measurements and counts of a tick of Run. -/
def govTick (i : TickInputs) (s : State) : State :=
  let house := sensed i.house
  let plate := sensed i.plate
  let g := s.pwr.gov
  let top := max house plate
  { s with
    pwr.batE := i.batE, pwr.pMeas := i.pmeas, pwr.house := house, pwr.plate := plate
    pwr.gov := { g with
      temp := some (match g.temp with
        | some t => max t top
        | none => top)
      sum := g.sum + i.pmeas, ticks := g.ticks + 1
      overA := if bankOver false s then g.overA + 1 else 0
      overB := if bankOver true s then g.overB + 1 else 0
      jobs := g.jobs.map fun (e : Nat × GovJob) =>
        (e.1, { e.2 with room :=
          match e.2.bank with
          | some b => if e.2.bankDef && feedBelow b e.2.feed s then e.2.room + 1 else 0
          | none => 0 }) } }

/-- The tick work of PWR at the boundary `s.t`: the PD0 seconds, the inputs, Descent where it is due, the governor's
measurements. -/
def pwrTick (i : TickInputs) (s : State) : State :=
  let s := if s.t % 1000 = 0 then { s with dsc.seconds := s.dsc.seconds + 1 } else s
  let s := govTick i s
  let s := { s with
    pwr.idleTicks := if inputsIdle s then s.pwr.idleTicks + 1 else 0
    pwr.ports := if s.mode = .run then i.ports else s.pwr.ports }
  if s.mode = .descent then descentTick s
  else if s.pwr.descT.any fun t => decide (t ≤ s.t) then descentBegin s
  else s

/-! ### Registers (R370) -/

/-- PWR_STATUS. -/
def pwrStatus (s : State) : Word :=
  let p := s.pwr
  wordOf (s.mode.code * 2 ^ 29 + p.wake * 2 ^ 26 + oneIf p.pd0Lost * 2 ^ 25 + oneIf p.rev * 2 ^ 24
    + oneIf p.gndOpen * 2 ^ 23 + oneIf (p.overvolt && decide (3600 ≤ p.batE)) * 2 ^ 22 + p.dstep * 2 ^ 19)

/-- A read of the PWR window. -/
def pwrRead (off : Nat) (s : State) : Word × State :=
  let p := s.pwr
  if off = 0x00 then (p.ctl, s)
  else if off = 0x04 then (pwrStatus s, s)
  else if off = 0x0C then (p.pdReq, s)
  else if off = 0x10 then (wordOf p.wdog, s)
  else if off = 0x14 then (wordOf p.desc, s)
  else if off = 0x18 then (wordOf (p.batE % 65536 * 65536 + satTo p.pMeas 0xFFFF), s)
  else if off = 0x1C then (wordOf ((wordOfInt p.house).toNat % 65536 * 65536 + (wordOfInt p.plate).toNat % 65536), s)
  else if off = 0x20 then (wordOf p.bivAllow, s)
  else if off = 0x24 then (p.bivCfg, s)
  else if off = 0x28 then (wordOf p.books.spent, s)
  else if off = 0x2C then (wordOf p.gov.ladder.length, s)
  else if off = 0x30 then
    (wordOf (satTo (openRat p.gov.pAllow) 0xFFFF * 65536 + satTo (openRat p.gov.pMeas) 0xFFFF), s)
  else if off = 0x34 then (p.budget, s)
  else if off = 0x38 then (wordOf (hostDef s), s)
  else if off = 0x3C then (p.govCam, s)
  else if off = 0x40 then (wordOf s.tick.pcc, s)
  else (0, s)

/-- The optional domains. -/
def optional : List Nat := [5, 6, 8, 9, 11, 12]

/-- PWR_PD_REQ written (R353). -/
def pdReqWrite (v : Word) (s : State) : State :=
  let v := v &&& (0x0000_1B60 : Word)
  if v = s.pwr.pdReq then s else { s with pwr.pdReq := v, pwr.pdReqT := s.t }

/-- A write to the PWR window; PWR_BIV_CFG, PWR_WDOG and PWR_DESC not in Descent (R370). -/
def pwrWrite (off : Nat) (v : Word) (s : State) : State :=
  let desc := s.mode == .descent
  if off = 0x00 then { s with pwr.ctl := v &&& (0xEFFF_C3FF : Word), pwr.wakeHold := false }
  else if off = 0x08 then pwrCmd v s
  else if off = 0x0C then pdReqWrite v s
  else if off = 0x10 then
    if desc ∨ bitsOf v 7 0 < 5 then s else { s with pwr.wdog := bitsOf v 7 0 }
  else if off = 0x14 then
    if desc then s else { s with pwr.desc := min 1500 (bitsOf v 10 0) }
  else if off = 0x20 then { s with pwr.bivAllow := v.toNat }
  else if off = 0x24 then if desc then s else { s with pwr.bivCfg := v &&& (0xFFFF_FF07 : Word) }
  else if off = 0x34 then { s with pwr.budget := v }
  else if off = 0x3C then { s with pwr.govCam := v &&& (0xFFFF : Word) }
  else s

/-- DOMAIN_SWITCH: an optional domain follows PWR_PD_REQ from the boundary after its change on (R353). -/
def domainSwitch (n : Nat) (s : State) : State :=
  let want := bitOf s.pwr.pdReq n
  if s.mode ≠ .run ∨ s.start ≠ .ready ∨ !optional.contains n ∨ s.t ≤ s.pwr.pdReqT ∨ s.pdOn n = want then s
  else if want then domainOn n s else domainOff n s

/-! ### Commands -/

/-- GOVERNOR_PERIOD. -/
def execGovernorPeriod (s : State) : Out := .next (governorPeriod s)

/-- BANK_BUDGET_EXCEEDED. -/
def execBankBudgetExceeded (bank : Bank) (s : State) : Out := .next (bankExceeded (bank == .b) s)

/-- BANK_BUDGET_RESTORE. -/
def execBankBudgetRestore (j : Fin 16) (s : State) : Out := .next (bankRestore j.val s)

/-- GOV_DECLARE. -/
def execGovDeclare (n : Fin 32) (s : State) : Out := .next (takeOp 11 0 1 .serial n.val govDeclare s)

/-- GOV_RELEASE. -/
def execGovRelease (n : Fin 32) (s : State) : Out := .next (takeOp 11 0 2 .serial n.val govRelease s)

/-- GOV_READ. -/
def execGovRead (n : Fin 32) (s : State) : Out := .next (takeOp 11 0 3 .serial n.val govRead s)

/-- PD_REQ_WRITE. -/
def execPdReqWrite (a : Access) (v : Word) (s : State) : Out := .next (gateWrite a 11 1 s (pdReqWrite v))

/-- DOMAIN_SWITCH. -/
def execDomainSwitch (n : Fin 13) (s : State) : Out := .next (domainSwitch n.val s)

end Sys2Proof.Machine
end

