-- ==== Sys2Proof/Machine/UpdateOps.lean ====
section
/-!
DEFINITION. UPD, second part (spec/16_field_update.md, R401 to R409, R412): the boundary work, the quiet point, the
rope-team sequence, activation, commit and reversion.
-/

namespace Sys2Proof.Machine

/-! ### The quiet point (R402) -/

/-- Channel `n` reads OFF, and has not been on in the tick just ended. -/
def chanQuiet (s : State) (n : Nat) : Bool :=
  (s.ch n).st == .off && ((s.ch n).onSince == 0 || decide ((s.ch n).onSince < boundaryOf (s.t - 1)))

/-- Channel `n` of the lead reads OFF, by its replica. -/
def replicaQuiet (f : TickFrame) (n : Nat) : Bool :=
  match Tab.find f.chans n with
  | some c => c.state == 0
  | none => true

/-- Every channel named in UPD_QUIET has read OFF in the tick just ended; on a second, those of the lead. -/
def quietNow (s : State) : Bool :=
  chNumbers.all fun n => !s.upd.quiet.getLsbD n ||
    (if s.rtl.role = .second then s.rtl.frameIn.any fun f => replicaQuiet f n else chanQuiet s n)

/-- QUIET_MIN, 1 to 60,000 ticks. -/
def quietMin (s : State) : Nat := max 1 (min 60000 s.upd.quietMin)

/-- A quiet point holds. The replica of the tick just ended reaches a second only in the tick that begins: on a second
the run of its replicas is one tick behind the lead's, and T_a is the same boundary on both (log 201). -/
def quiet (s : State) : Bool :=
  s.upd.quiet != 0 && decide (quietMin s ≤ s.upd.quietRun + oneIf (s.rtl.role == .second))

/-! ### Conversion (R401) -/

/-- The instant is converted again; a value that the mapping moves is reported. -/
def reconvert (s : State) : State :=
  if s.boot.state ≠ .scheduled ∧ s.boot.state ≠ .waiting then s
  else match s.gtsOf s.boot.instant with
    | none => s
    | some g =>
      if g = s.upd.when' then s
      else updEvent 465 4 (low24T s) { s with upd.when' := g }

/-! ### The team's states (R401, R406) -/

/-- The module runs images of a set that is no longer live. -/
def wrongSet (s : State) : Bool := s.upd.runB != s.boot.liveB

/-- The sequence is over on this module: STAGED. -/
def backToStaged (s : State) : State :=
  { s with boot.state := .staged, boot.team := false, boot.step := 0, boot.final := false }

/-- The twin has not reverted yet, as far as its frame shows: what it says of its images is of the trial. -/
def beforeRevert (state : Nat) (s : State) : Bool := s.boot.state == .reverting && state == 6

/-- The lead takes up what the second's heartbeat says. -/
def fromBeat (h : UpdBeat) (s : State) : State :=
  let s := { s with upd.twinDone := h.done, upd.twinOld := if beforeRevert h.state s then s.upd.twinOld else h.old }
  let st := s.boot.state
  let s := if s.boot.team && (st == .activating || st == .waiting || st == .scheduled) && h.state == 6 then
      updEvent 467 1 (low24T s) { s with boot.state := .trial, boot.step := 2, boot.deadline := h.deadline }
    else s
  let s := if s.boot.state == .trial && s.boot.moved && s.boot.team then
      { s with boot.step := if h.old then max s.boot.step 3 else 5 } else s
  if s.boot.state == .reverting && !runsOld s && !h.old && h.state != 6 then backToStaged s else s

/-- The second takes its state from the lead's frame. The happenings of its own letter are commands: ACTIVATION,
COMMIT_EFFECT and REVERSION. -/
def fromFrame (f : UpdFrame) (s : State) : State :=
  let s := { s with upd.twinDone := f.done, upd.twinOld := if beforeRevert f.state s then s.upd.twinOld else f.old }
  let st := s.boot.state
  let early := st == .staged || st == .scheduled || st == .waiting
  if early && f.team && (f.state == 3 || f.state == 4) then
    { s with boot.state := if f.state = 3 then .scheduled else .waiting
             boot.team := true, boot.step := f.step, boot.instant := f.instant }
  else if early && f.team && f.state == 5 then
    { s with
      boot.state := .activating, boot.team := true, boot.step := 1, boot.moved := false, boot.instant := f.instant }
  else if (st == .scheduled || st == .waiting) && decide (f.state < 3) then backToStaged s
  else if st == .trial && s.boot.team && f.state == 6 then
    { s with boot.step := f.step, boot.deadline := if f.deadline = 0 then s.boot.deadline else f.deadline }
  else if st == .reverting && f.state == 2 && !runsOld s then backToStaged s
  else s

/-- What the tick just ended has brought from the twin. -/
def hearTwin (s : State) : State :=
  if s.rtl.role = .lead ∧ s.rtl.last.beat then
    match s.rtl.beatIn with
    | some h => fromBeat h.upd s
    | none => s
  else if s.rtl.role = .second ∧ s.rtl.last.frame then
    match s.rtl.frameIn with
    | some f => fromFrame f.upd s
    | none => s
  else s

/-! ### Step 3: the hand-over (R406, R409) -/

/-- The condition of step 3 holds on this lead, and no hand-over is pending. -/
def handoverDue (s : State) : Bool :=
  s.rtl.state == .lead && s.boot.team && s.rtl.hoT.isNone && s.rtl.last.beat &&
    (s.rtl.beatIn.any fun h => h.upd.done && h.aligned && !h.upd.old) &&
    ((s.boot.state == .trial && !s.boot.moved && s.upd.judged.isNone) ||
      (s.boot.state == .reverting && wrongSet s && (s.rtl.beatIn.any fun h => h.upd.state != 6)))

/-- UPD issues the hand-over for the first epoch instant at least 20 ticks later. -/
def issueHandover (s : State) : State :=
  if !handoverDue s then s
  else
    let th := (s.t + 20 + 39) / 40 * 40
    let s := { s with rtl.hoT := some th, rtl.confirmed := false, rtl.commit := false }
    let s := if s.boot.state = .trial then { s with boot.step := 3 } else s
    raiseAt (boundaryOf s.t) 461 1 (th % 2 ^ 24) (updEvent 466 2 (low24T s) s)

/-! ### Judging a reversion (R408, R412) -/

/-- The cause that shows at this boundary; 0 none. -/
def causeNow (s : State) : Nat :=
  let own := causeSeen s
  if own ≠ 0 then own
  else
    let told := if s.rtl.role = .lead && s.rtl.last.beat && s.boot.team then
        (s.rtl.beatIn.map fun h => h.upd.cause).getD 0 else 0
    if told ≠ 0 then told else if s.upd.late then 2 else 0

/-- A cause is judged at this boundary: T_r is one tick later, in a team two. -/
def judgeCause (c : Nat) (s : State) : State :=
  { s with upd.judged := some (c, s.t + (if s.boot.team then 2 else 1)), upd.commitT := none }

/-- A cause is judged where no COMMIT stands against it: one accepted in the tick just ended yields to SCHEMA and
REJECT, not to the deadline; one announced stands. -/
def judge (s : State) : State :=
  if s.boot.state ≠ .trial ∨ s.rtl.role = .second ∨ s.upd.judged.isSome then s
  else
    let c := causeNow s
    let stands := match s.upd.commitT with
      | none => false
      | some t => c == 2 || decide (t + 2 ≤ s.t)
    if c = 0 || stands then s else judgeCause c s

/-- TRIAL_DEADLINE: the deadline is judged at the boundary it meets, else at the next. -/
def trialDeadline (s : State) : State :=
  if s.boot.state ≠ .trial then s
  else s.reach s.boot.deadline fun s =>
    let s := { s with upd.late := true }
    if s.gts = boundaryOf s.t then judge s else s

/-! ### Restarts (R404, R409) -/

/-- A wake is latched and Descent begins at this boundary: the start that follows boots the live set. -/
def descendInto (s : State) : State := descentBegin { s with pwr.latched := true }

/-- The twin no longer runs images that the reversion leaves, or there is none. -/
def lastToRestart (s : State) : Bool := !s.boot.team || s.rtl.role == .lone || s.rtl.state == .alone || !s.upd.twinOld

/-- The restart that a reversion owes begins where it may: on a lone module at once for causes 1 and 3, else at a
quiet point; in a team on the second, or on a lead that is alone at T_r. -/
def restartDue (alone : Bool) (s : State) : Bool :=
  s.mode == .run && s.start == .ready &&
  match s.upd.restart with
  | none => false
  | some c => if s.boot.team then alone || s.rtl.role == .second else c == 1 || c == 3 || quiet s

/-- It begins. -/
def restartNow (alone : Bool) (s : State) : State :=
  if !restartDue alone s then s
  else descendInto { s with boot.final := lastToRestart s, upd.restart := none }

/-- A module that has nothing left to restart and has lost its twin has made the last restart itself (R409). -/
def revertOver (s : State) : State :=
  if s.boot.state = .reverting ∧ !wrongSet s ∧ s.upd.restart = none ∧ s.rtl.state = .alone then backToStaged s else s

/-! ### The boundary -/

/-- The work of UPD at the boundary `s.t`, before the twin link's fields are sealed. -/
def updTick (s : State) : State :=
  let s := { s with upd.quietRun := if quietNow s then s.upd.quietRun + 1 else 0 }
  restartNow false (revertOver (judge (issueHandover (hearTwin (reconvert s)))))

/-! ### Activation (R404, R406) -/

/-- The live letter changes here, and the module descends. -/
def activateHere (step : Nat) (s : State) : State :=
  let s := { toNewSet s with boot.step := step }
  descendInto (updEvent 466 1 (low24T s) s)

/-- T_a: WAITING, the instant reached, a quiet point. -/
def activationDue (s : State) : Bool := s.boot.state == .waiting && instantPast s && quiet s

/-- The old lead, now second, moves over from the boundary after T_h on (step 4). -/
def step4Due (s : State) : Bool :=
  s.boot.state == .trial && s.boot.team && !s.boot.moved && s.rtl.since < s.t &&
    (s.rtl.frameIn.any fun f => f.upd.state == 6 && f.upd.notice == 0)

/-- ACTIVATION: at a boundary, on a lone module, on a lead as step 1, on a second as step 4, or as step 1 at T_a by the
lead's replicas, at the latest when the lead's frame tells of it (R402, R406). -/
def activation (s : State) : State :=
  if s.mode ≠ .run ∨ s.start ≠ .ready ∨ s.gts ≠ boundaryOf s.t then s
  else match s.rtl.role with
    | .lone =>
      if activationDue s && !s.boot.team then activateHere 0 { s with boot.state := .activating } else s
    | .lead =>
      if activationDue s && s.rtl.state == .lead && (s.boot.team || twinStaged s) then
        { s with boot.state := .activating, boot.team := true, boot.step := 1 }
      else s
    | .second =>
      if (activationDue s && s.boot.team) || (s.boot.state == .activating && s.boot.step == 1 && !s.boot.moved) then
        activateHere 1 { s with boot.state := .activating }
      else if step4Due s then activateHere 4 s else s

/-! ### Commit (R407) -/

/-- T_c has come. -/
def commitDue (s : State) : Bool :=
  s.boot.state == .trial &&
  if s.rtl.role = .second then
    s.boot.team && s.rtl.last.frame && (s.rtl.frameIn.any fun f => f.upd.notice == 5 || f.upd.state == 0)
  else s.upd.judged.isNone && (s.upd.commitT.any fun c => decide (c + 2 ≤ s.t))

/-- COMMIT_EFFECT: the new set is permanent, and the state is IDLE. -/
def commitEffect (s : State) : State :=
  if !commitDue s then s
  else updEvent 467 3 (low24T s) { s with
    boot.state := .idle, boot.team := false, boot.step := 0, boot.moved := false, upd.commitT := none, upd.late := false
    upd.schemaSeen := false, upd.reject := false, upd.report := 0 }

/-! ### Reversion (R408, R409) -/

/-- The cause whose T_r has come. A second that has missed the announcement follows the lead's state. -/
def reversionDue (s : State) : Option Nat :=
  if s.boot.state ≠ .trial then none
  else if s.rtl.role = .second then
    if !s.rtl.last.frame || !s.boot.team then none
    else match s.rtl.frameIn with
      | none => none
      | some f =>
        if 1 ≤ f.upd.notice ∧ f.upd.notice ≤ 4 then some f.upd.notice
        else if f.upd.state = 7 then some (if causeSeen s = 0 then 2 else causeSeen s) else none
  else match s.upd.judged with
    | some (c, tr) => if tr ≤ s.t then some c else none
    | none => none

/-- The letter goes back, and the reversion is recorded. A twin that runs the new images now runs images to leave. -/
def revert (c : Nat) (s : State) : State :=
  let s := toOldSet s
  updEvent 468 c (low24T s) { s with
    boot.state := .reverting, boot.step := 0, boot.lastCause := c, boot.lastT := s.t
    upd.judged := none, upd.commitT := none, upd.late := false, upd.schemaSeen := false, upd.reject := false
    upd.report := 0
    upd.restart := if wrongSet s then some c else none
    upd.twinOld := s.boot.team && !s.upd.twinOld }

/-- REVERSION at T_r. A module that has nothing to restart and no twin to wait for is back at STAGED. -/
def reversion (s : State) : State :=
  match reversionDue s with
  | none => s
  | some c =>
    let s := revert c s
    let alone := s.rtl.role == .lone || s.rtl.state == .alone
    if s.upd.restart.isNone && (alone || !s.boot.team) then backToStaged s else restartNow alone s

/-! ### Commands -/

/-- UPD lives in PD2 and acts while the time base runs. -/
def whileUpd (s : State) (k : State → State) : Out := .next (if s.pdOn 2 && s.tick.running then k s else s)

/-- ACTIVATION. -/
def execActivation (s : State) : Out := whileUpd s activation

/-- COMMIT_EFFECT. -/
def execCommitEffect (s : State) : Out := whileUpd s commitEffect

/-- TRIAL_DEADLINE. -/
def execTrialDeadline (s : State) : Out := whileUpd s trialDeadline

/-- REVERSION. -/
def execReversion (s : State) : Out := whileUpd s reversion

end Sys2Proof.Machine
end

