-- ==== Sys2Proof/Machine/Fabric.lean ====
section
/-!
DEFINITION. The fabric and the clock (spec/01_architecture_and_tick.md): accesses to setup registers and to host
memory, core resets, the debug port, and the tick and slot boundaries with the tick work of every block.
-/

namespace Sys2Proof.Machine

/-! ### The address map (R15, R16) -/

/-- The block index of an address inside the setup windows. -/
def blockAt (addr : Nat) : Option Nat :=
  if windowBase 0 ≤ addr ∧ addr < windowBase 18 then some ((addr - windowBase 0) / 0x1_0000) else none

/-- The domain of the register at `off` of block `blk` (R9). -/
def registerDomain (blk off : Nat) : Nat := if blk = 5 then lswDomain off else serviceDomain blk

/-- A 32-bit write to the register at `off` of block `blk`. -/
def blockWrite (a : Access) (blk off : Nat) (v : Word) (s : State) : State :=
  match blk with
  | 0 => sysWrite off v s
  | 1 => tickWrite off v s
  | 2 => hriWrite off v s
  | 3 => mbxWrite a off v s
  | 4 => bceWrite off v s
  | 5 => lswWrite off v s
  | 6 => iplWrite off v s
  | 7 => lkoWrite off v s
  | 8 => gnbWrite off v s
  | 9 => canWrite off v s
  | 10 => pnlWrite off v s
  | 11 => pwrWrite off v s
  | 12 => rtlWrite off v s
  | 13 => updWrite off v s
  | 14 => dscWrite off v s
  | 15 => recWrite a off v s
  | 16 => fenWrite a off v s
  | 17 => finWrite off v s
  | _ => s

/-- A 32-bit read of the register at `off` of block `blk`, but for MBX, which answers by itself. -/
def blockRead (a : Access) (blk off : Nat) (s : State) : Word × State :=
  match blk with
  | 0 => sysRead a off s
  | 1 => tickRead a off s
  | 2 => hriRead off s
  | 4 => bceRead a off s
  | 5 => lswRead a off s
  | 6 => iplRead off s
  | 7 => lkoRead a off s
  | 8 => gnbRead a off s
  | 9 => canRead a off s
  | 10 => pnlRead off s
  | 11 => pwrRead off s
  | 12 => rtlRead off s
  | 13 => updRead a off s
  | 14 => dscRead off s
  | 15 => recRead a off s
  | 16 => fenRead off s
  | 17 => finRead off s
  | _ => (0, s)

/-- The piton bank of MBX. -/
def isPiton (blk off : Nat) : Bool := blk == 3 && decide (0x3000 ≤ off) && decide (off < 0x3100)

/-- The access has been answered with an error. -/
def refused (s : State) : Bool := s.resp.any fun (e : Nat × Resp) => e.2 == .error

/-- The word that a read has been answered with. -/
def answeredWord (s : State) : BitVec 64 :=
  match s.resp with
  | (_, .data v) :: _ => v
  | _ => 0

/-- A 64-bit write: FEN_APPLY takes it whole (R68), the piton bank refuses it (R87), any other register takes its two
halves, low first. -/
def blockWriteWide (a : Access) (blk off : Nat) (v : BitVec 64) (s : State) : State :=
  if blk = 16 then fenWriteWide a off v s
  else if isPiton blk off then (mbxViolation s).reply a .error
  else
    let s := blockWrite a blk off (lo32 v) s
    if refused s then s else blockWrite a blk (off + 4) (hi32 v) s

/-- A 32-bit read of the register at `off` of block `blk`, with its answer. -/
def blockAnswer (a : Access) (blk off : Nat) (s : State) : State :=
  if blk = 3 then mbxRead a off s
  else
    let (w, s) := blockRead a blk off s
    s.replyWord a w

/-- A 64-bit read: the piton bank refuses it (R87), any other register answers with its two halves, low first, so that
the shadow of R17 makes them consistent. -/
def blockAnswerWide (a : Access) (blk off : Nat) (s : State) : State :=
  if isPiton blk off then (mbxViolation s).reply a .error
  else
    let s := blockAnswer a blk off s
    if refused s then s
    else
      let low := answeredWord s
      let s := blockAnswer a blk (off + 4) s
      if refused s then s else s.reply a (.data (low + answeredWord s * 2 ^ 32))

/-! ### Transactions (R13, R16, R63 to R65) -/

/-- The answer to a transaction that the fabric's checks have let through or not. -/
def answer (a : Access) (b : Bus) (r : Resp) (s : State) : State := s.reply a (if b = .ok then r else .error)

/-- A transaction of a core or the debug port to host memory or to an unmapped address. -/
def memoryAccess (a : Access) (addr : Nat) (op : MemOp) (s : State) : State :=
  if !iniAlive a.ini s then { s with resp := [] }
  else match op with
    | .read n =>
      let (s, b, bs) := busRead 1 a.ini.id (secureOf a) addr n s
      answer a b (.bytes bs) s
    | .write bs =>
      let (s, b) := busWrite 1 a.ini.id (secureOf a) false addr bs s
      answer a b .ok s

/-- REGISTER_WRITE. Outside the windows it is a memory write of 4 or 8 bytes. -/
def registerWrite (a : Access) (addr : Nat) (wide : Bool) (v : BitVec 64) (s : State) : State :=
  match blockAt addr with
  | none => memoryAccess a addr (.write (if wide then leBytes 8 v.toNat else leBytes 4 v.toNat)) s
  | some blk =>
    let off := addr % 0x1_0000
    if wide then
      let off := off / 8 * 8
      gateWrite a blk (registerDomain blk off) s (blockWriteWide a blk off v)
    else
      let off := off / 4 * 4
      gateWrite a blk (registerDomain blk off) s (blockWrite a blk off (lo32 v))

/-- LOW_WORD_READ_LATCH: a read of the low word of a 64-bit register or of any other word, or of 64 bits. Outside the
windows it is a memory read of 4 or 8 bytes. -/
def registerRead (a : Access) (addr : Nat) (wide : Bool) (s : State) : State :=
  match blockAt addr with
  | none => memoryAccess a addr (.read (if wide then 8 else 4)) s
  | some blk =>
    let off := addr % 0x1_0000
    if wide then
      let off := off / 8 * 8
      gate a blk (registerDomain blk off) s (blockAnswerWide a blk off)
    else
      let off := off / 4 * 4
      gate a blk (registerDomain blk off) s (blockAnswer a blk off)

/-- An access to a setup window of a width other than 32 and 64 bits gets an error response and has no effect on the
registers (log 13), but for what the rules say of any access (R66, R73, R77, R87): a write to FEN by an initiator that
may not is discarded with a normal response. -/
def oddAccess (a : Access) (blk off : Nat) (write : Bool) (s : State) : State :=
  gate a blk (registerDomain blk off) s fun s =>
    if blk = 3 then mbxOdd a off write s
    else if blk = 16 ∧ write then fenGate a (off / 4 * 4) (s.reply a .ok) fun s => s.reply a .error
    else s.reply a .error

/-- MEMORY_TRANSACTION. Inside the setup windows, 4 and 8 bytes are a register access. -/
def memoryTransaction (a : Access) (addr : Nat) (op : MemOp) (s : State) : State :=
  match blockAt addr, op with
  | none, _ => memoryAccess a addr op s
  | some blk, .read n =>
    if n = 4 ∨ n = 8 then registerRead a addr (n == 8) s else oddAccess a blk (addr % 0x1_0000) false s
  | some blk, .write bs =>
    if bs.length = 4 ∨ bs.length = 8 then
      registerWrite a addr (bs.length == 8) (BitVec.ofNat 64 (leNat bs)) s
    else oddAccess a blk (addr % 0x1_0000) true s

/-! ### Resets and the debug port (R68, R72, R454, R468) -/

/-- The endpoints that a reset reaches. -/
def resetIds : ResetTarget → List Nat
  | .svc k => [1 + k.val]
  | .host k => [0x10 + k.val]
  | .hostComplex => hostIds

/-- CORE_RESET: new epochs, mailboxes flushed, pitons freed, latched halves of FEN_APPLY discarded. A core whose
domain is off is not reset. -/
def coreReset (t : ResetTarget) (s : State) : State :=
  let ids := (resetIds t).filter fun i => s.pdOn 2 && s.pdOn (endpointDomain i)
  let s := resetEndpoints ids s
  { s with fen.low := s.fen.low.filter fun (e : Nat × Word) => !ids.contains e.1 }

/-! ### The tick (R26 to R29) -/

/-- TICKNO goes from its highest value to 0 (R29). -/
def ticknoWrap (s : State) : State :=
  if s.t % 2 ^ 32 = 0 then raiseAt (boundaryOf s.t) 9 1 (s.t / 2 ^ 32) s else s

/-- The inputs, channels and buses at boundary `b`; what the twin is to receive of the tick just ended is taken
before the boundary's own changes. -/
def tickEdge (b : Nat) (i : TickInputs) (s : State) : State :=
  let s := sendTick (s.t - 1) (lswTick b i s)
  let s := canTick (finTick b i { disciplineTick i.trim i.rateErr (ticknoWrap s) with wk := i.wk.setWidth 32 })
  bceTickLead (s.t - 1) (bceSettle (settleSignals b s))

/-- The services and the panel at boundary `b`, as the governor's last decision leaves them (R361). -/
def tickServices (b : Nat) (i : TickInputs) (s : State) : State :=
  pnlTick b i (yldTick b (gnbTick b i.corr (lkoTick b (iplTick (settlePending s)))))

/-- Supply, team and update. -/
def tickModule (i : TickInputs) (s : State) : State := sealTick (updTick (teamTick i.canWire (pwrTick i s)))

/-- The works of the tick just ended that were abandoned and not told yet are told, and those of the next begin. -/
def overrunTick (late : List TickWork) (s : State) : State :=
  let s := s.tick.late.foldl (fun s w => tickOverrun w s) s
  { s with tick.late := late, tick.told := [] }

/-- TICK_BOUNDARY: GTS reaches the next boundary and the tick work starts. -/
def tickBoundary (i : TickInputs) (s : State) : State :=
  if !s.tick.running then s
  else
    let s := overrunTick i.overrun s
    let b := boundaryOf (s.t + 1)
    tickModule i (tickServices b i (tickEdge b i { s with gts := b }))

/-- SUBTICK_SLOT_BOUNDARY: the slot work at the slot boundary that has passed without it, else at the next in this
tick. -/
def slotBoundary (current : Tab Nat) (late : List SlotWork) (s : State) : State :=
  let past := s.gts / slotLen * slotLen
  let g := if s.tick.slotG < past then past else past + slotLen
  if !s.tick.running ∨ boundaryOf (s.t + 1) ≤ g then s
  else
    let s := s.tick.slotLate.foldl (fun s w => subtickOverrun w s) s
    let s := s.advance g
    lswSlot g current { s with tick.slotG := g, tick.slotLate := late }

/-! ### Commands -/

/-- REGISTER_WRITE. -/
def execRegisterWrite (a : Access) (addr : Nat) (wide : Bool) (v : BitVec 64) (s : State) : Out :=
  .next (registerWrite a addr wide v s)

/-- MEMORY_TRANSACTION. -/
def execMemoryTransaction (a : Access) (addr : Nat) (op : MemOp) (s : State) : Out :=
  .next (memoryTransaction a addr op s)

/-- LOW_WORD_READ_LATCH. -/
def execLowWordReadLatch (a : Access) (addr : Nat) (wide : Bool) (s : State) : Out := .next (registerRead a addr wide s)

/-- CORE_RESET. -/
def execCoreReset (t : ResetTarget) (s : State) : Out := .next (if s.pdOn 2 then coreReset t s else s)

/-- TICK_BOUNDARY. -/
def execTickBoundary (i : TickInputs) (s : State) : Out := .next (tickBoundary i s)

/-- SUBTICK_SLOT_BOUNDARY. -/
def execSubtickSlotBoundary (current : Tab Nat) (late : List SlotWork) (s : State) : Out :=
  .next (slotBoundary current late s)

/-- DEBUG_ENABLE_CHANGE: the level of DBG_EN. -/
def execDebugEnableChange (active : Bool) (s : State) : Out := .next { s with dbgEn := active }

end Sys2Proof.Machine
end

