-- ==== Sys2Proof/Machine/Dispatch.lean ====
section
/-!
DEFINITION. The dispatcher: one arm per command, each one call of its meaning.
-/

namespace Sys2Proof.Machine

/-- The effect of a command on everything but the queue. -/
def exec (i : Instr) (s : State) : Host.Outcome State Fault Refusal :=
  match i with
  | .registerWrite a addr wide v => Sys2Proof.Machine.execRegisterWrite a addr wide v s
  | .memoryTransaction a addr op => Sys2Proof.Machine.execMemoryTransaction a addr op s
  | .lowWordReadLatch a addr wide => Sys2Proof.Machine.execLowWordReadLatch a addr wide s
  | .coreReset t => Sys2Proof.Machine.execCoreReset t s
  | .tickBoundary inp => Sys2Proof.Machine.execTickBoundary inp s
  | .subtickSlotBoundary current overrun => Sys2Proof.Machine.execSubtickSlotBoundary current overrun s
  | .tickOverrun w => Sys2Proof.Machine.execTickOverrun w s
  | .subtickOverrun w => Sys2Proof.Machine.execSubtickOverrun w s
  | .tickDiscWrite a v => Sys2Proof.Machine.execTickDiscWrite a v s
  | .disciplineAcquire src => Sys2Proof.Machine.execDisciplineAcquire src s
  | .disciplineLocked trim => Sys2Proof.Machine.execDisciplineLocked trim s
  | .disciplineSourceLost => Sys2Proof.Machine.execDisciplineSourceLost s
  | .evqCtlWrite a v => Sys2Proof.Machine.execEvqCtlWrite a v s
  | .evqConsWrite a v => Sys2Proof.Machine.execEvqConsWrite a v s
  | .swevt a v => Sys2Proof.Machine.execSwevt a v s
  | .eventQueueWrite => Sys2Proof.Machine.execEventQueueWrite s
  | .pdReqWrite a v => Sys2Proof.Machine.execPdReqWrite a v s
  | .domainSwitch n => Sys2Proof.Machine.execDomainSwitch n s
  | .sqDoorbell a n v => Sys2Proof.Machine.execSqDoorbell a n v s
  | .cqDoorbell a n v => Sys2Proof.Machine.execCqDoorbell a n v s
  | .descriptorFetch n => Sys2Proof.Machine.execDescriptorFetch n s
  | .completionPost n => Sys2Proof.Machine.execCompletionPost n s
  | .ringEnable a n v => Sys2Proof.Machine.execRingEnable a n v s
  | .ringInitComplete n => Sys2Proof.Machine.execRingInitComplete n s
  | .ringDisable a n v => Sys2Proof.Machine.execRingDisable a n v s
  | .ringFlush a n v => Sys2Proof.Machine.execRingFlush a n v s
  | .ringAbandon a n v => Sys2Proof.Machine.execRingAbandon a n v s
  | .ringResync a n v => Sys2Proof.Machine.execRingResync a n v s
  | .drainComplete n => Sys2Proof.Machine.execDrainComplete n s
  | .drainBoundaryStop n => Sys2Proof.Machine.execDrainBoundaryStop n s
  | .fenceApply a wide v => Sys2Proof.Machine.execFenceApply a wide v s
  | .fenceApplyLowLatch a v => Sys2Proof.Machine.execFenceApplyLowLatch a v s
  | .mbxGo a m => Sys2Proof.Machine.execMbxGo a m s
  | .mbxRel a m => Sys2Proof.Machine.execMbxRel a m s
  | .mbxCfgWrite a m v => Sys2Proof.Machine.execMbxCfgWrite a m v s
  | .mbxDataAccess a m word wr => Sys2Proof.Machine.execMbxDataAccess a m word wr s
  | .pitonAcquire k readers wide => Sys2Proof.Machine.execPitonAcquire k readers wide s
  | .pitonRelease a k v => Sys2Proof.Machine.execPitonRelease a k v s
  | .bceCtxLoad n => Sys2Proof.Machine.execBceCtxLoad n s
  | .bceCtxStart n => Sys2Proof.Machine.execBceCtxStart n s
  | .bceCtxStop n => Sys2Proof.Machine.execBceCtxStop n s
  | .bceStopEffect => Sys2Proof.Machine.execBceStopEffect s
  | .bceCtxRead n => Sys2Proof.Machine.execBceCtxRead n s
  | .bceCtxTrace n => Sys2Proof.Machine.execBceCtxTrace n s
  | .bceCtxClear n => Sys2Proof.Machine.execBceCtxClear n s
  | .bceCtxPatch n => Sys2Proof.Machine.execBceCtxPatch n s
  | .bcePatchEffect => Sys2Proof.Machine.execBcePatchEffect s
  | .sigWrite n => Sys2Proof.Machine.execSigWrite n s
  | .sigRead n => Sys2Proof.Machine.execSigRead n s
  | .bceCtlWrite a v => Sys2Proof.Machine.execBceCtlWrite a v s
  | .bceLatch p => Sys2Proof.Machine.execBceLatch p s
  | .bceOutputRelease p => Sys2Proof.Machine.execBceOutputRelease p s
  | .finCfgWrite a off v => Sys2Proof.Machine.execFinCfgWrite a off v s
  | .ainConversion n at' input vref => Sys2Proof.Machine.execAinConversion n at' input vref s
  | .ainShuntOpen n => Sys2Proof.Machine.execAinShuntOpen n s
  | .ainShuntRetry n => Sys2Proof.Machine.execAinShuntRetry n s
  | .freqEdge n at' falling pulse => Sys2Proof.Machine.execFreqEdge n at' falling pulse s
  | .freqGateEnd n => Sys2Proof.Machine.execFreqGateEnd n s
  | .losImpact n run => Sys2Proof.Machine.execLosImpact n run s
  | .losCapture n => Sys2Proof.Machine.execLosCapture n s
  | .imuSelfCheck pass => Sys2Proof.Machine.execImuSelfCheck pass s
  | .lhInputChange k active => Sys2Proof.Machine.execLhInputChange k active s
  | .supEnWrite a k v => Sys2Proof.Machine.execSupEnWrite a k v s
  | .supClr a k v => Sys2Proof.Machine.execSupClr a k v s
  | .supLimit k engaged mA mV => Sys2Proof.Machine.execSupLimit k engaged mA mV s
  | .supLimitTimeout k => Sys2Proof.Machine.execSupLimitTimeout k s
  | .supOvervoltageTrip k mV => Sys2Proof.Machine.execSupOvervoltageTrip k mV s
  | .chSet n => Sys2Proof.Machine.execChSet n s
  | .chSetApply => Sys2Proof.Machine.execChSetApply s
  | .chProfile n => Sys2Proof.Machine.execChProfile n s
  | .chProfileStep c => Sys2Proof.Machine.execChProfileStep c s
  | .chClear n => Sys2Proof.Machine.execChClear n s
  | .chRead n => Sys2Proof.Machine.execChRead n s
  | .chReadSnapshot => Sys2Proof.Machine.execChReadSnapshot s
  | .lswOutEnWrite a v => Sys2Proof.Machine.execLswOutEnWrite a v s
  | .lswChCfgWrite a c reg v => Sys2Proof.Machine.execLswChCfgWrite a c reg v s
  | .lhMapWrite a reg v => Sys2Proof.Machine.execLhMapWrite a reg v s
  | .lhMapLock a v => Sys2Proof.Machine.execLhMapLock a v s
  | .inrushWindowEnd c => Sys2Proof.Machine.execInrushWindowEnd c s
  | .shortTrip c at' mV thermalToo => Sys2Proof.Machine.execShortTrip c at' mV thermalToo s
  | .thermalTrip c at' tj => Sys2Proof.Machine.execThermalTrip c at' tj s
  | .restart c cooled => Sys2Proof.Machine.execRestart c cooled s
  | .restartCountReset c => Sys2Proof.Machine.execRestartCountReset c s
  | .openLoad c onState => Sys2Proof.Machine.execOpenLoad c onState s
  | .bceTimeout c => Sys2Proof.Machine.execBceTimeout c s
  | .gangMismatch c => Sys2Proof.Machine.execGangMismatch c s
  | .driveWithdraw => Sys2Proof.Machine.execDriveWithdraw s
  | .driveGrant => Sys2Proof.Machine.execDriveGrant s
  | .bankFeedLow bank at' mV => Sys2Proof.Machine.execBankFeedLow bank at' mV s
  | .bankFeedReturn bank at' mV => Sys2Proof.Machine.execBankFeedReturn bank at' mV s
  | .crankHoldExpiry bank at' mV => Sys2Proof.Machine.execCrankHoldExpiry bank at' mV s
  | .fixropeTrip c cause age mA mV => Sys2Proof.Machine.execFixropeTrip c cause age mA mV s
  | .iplLinkCfgWrite a k v => Sys2Proof.Machine.execIplLinkCfgWrite a k v s
  | .linkUp k latency => Sys2Proof.Machine.execLinkUp k latency s
  | .linkTrainingRetry k => Sys2Proof.Machine.execLinkTrainingRetry k s
  | .linkDown k => Sys2Proof.Machine.execLinkDown k s
  | .cameraTrigger c => Sys2Proof.Machine.execCameraTrigger c s
  | .frameStart k vc at' => Sys2Proof.Machine.execFrameStart k vc at' s
  | .lineArrival k vc l => Sys2Proof.Machine.execLineArrival k vc l s
  | .frameEnd k vc => Sys2Proof.Machine.execFrameEnd k vc s
  | .unitStart => Sys2Proof.Machine.execUnitStart s
  | .frameClose c => Sys2Proof.Machine.execFrameClose c s
  | .encoderAccessUnit st u => Sys2Proof.Machine.execEncoderAccessUnit st u s
  | .settingsWrite c sensorOk => Sys2Proof.Machine.execSettingsWrite c sensorOk s
  | .iplCtxLoad n => Sys2Proof.Machine.execIplCtxLoad n s
  | .iplCtxStart n => Sys2Proof.Machine.execIplCtxStart n s
  | .iplCtxStop n => Sys2Proof.Machine.execIplCtxStop n s
  | .iplStopEffect => Sys2Proof.Machine.execIplStopEffect s
  | .exposure n => Sys2Proof.Machine.execExposure n s
  | .tuneLoad n => Sys2Proof.Machine.execTuneLoad n s
  | .iplCtxRead n => Sys2Proof.Machine.execIplCtxRead n s
  | .encCfg n => Sys2Proof.Machine.execEncCfg n s
  | .encIdr n => Sys2Proof.Machine.execEncIdr n s
  | .dispBuf n => Sys2Proof.Machine.execDispBuf n s
  | .statBuf n => Sys2Proof.Machine.execStatBuf n s
  | .codeBuf n => Sys2Proof.Machine.execCodeBuf n s
  | .iplCtlWrite a v => Sys2Proof.Machine.execIplCtlWrite a v s
  | .pcamSyncLost lost => Sys2Proof.Machine.execPcamSyncLost lost s
  | .camPowerLimit k => Sys2Proof.Machine.execCamPowerLimit k s
  | .camPowerRetry k => Sys2Proof.Machine.execCamPowerRetry k s
  | .epochClose => Sys2Proof.Machine.execEpochClose s
  | .epochRelease => Sys2Proof.Machine.execEpochRelease s
  | .colInvocationEnd r => Sys2Proof.Machine.execColInvocationEnd r s
  | .remoteEncodingArrival r at' => Sys2Proof.Machine.execRemoteEncodingArrival r at' s
  | .releaseReplicaArrival r => Sys2Proof.Machine.execReleaseReplicaArrival r s
  | .lkoCfgLoad n => Sys2Proof.Machine.execLkoCfgLoad n s
  | .sensorCfg n => Sys2Proof.Machine.execSensorCfg n s
  | .modelLoad n => Sys2Proof.Machine.execModelLoad n s
  | .modelDrop n => Sys2Proof.Machine.execModelDrop n s
  | .lkoStart n => Sys2Proof.Machine.execLkoStart n s
  | .lkoStop n => Sys2Proof.Machine.execLkoStop n s
  | .healthRead n => Sys2Proof.Machine.execHealthRead n s
  | .lidarPut n => Sys2Proof.Machine.execLidarPut n s
  | .outBuf n => Sys2Proof.Machine.execOutBuf n s
  | .featBuf n => Sys2Proof.Machine.execFeatBuf n s
  | .lkoCtlWrite a v => Sys2Proof.Machine.execLkoCtlWrite a v s
  | .antennaStateChange ant2 mA short => Sys2Proof.Machine.execAntennaStateChange ant2 mA short s
  | .antennaRetry ant2 => Sys2Proof.Machine.execAntennaRetry ant2 s
  | .channelReexamine cands => Sys2Proof.Machine.execChannelReexamine cands s
  | .channelDetection c code dop => Sys2Proof.Machine.execChannelDetection c code dop s
  | .searchTimeout c => Sys2Proof.Machine.execSearchTimeout c s
  | .pullInLock c => Sys2Proof.Machine.execPullInLock c s
  | .pullInTimeout c => Sys2Proof.Machine.execPullInTimeout c s
  | .trackSignalLoss c => Sys2Proof.Machine.execTrackSignalLoss c s
  | .coastReacquire c phase => Sys2Proof.Machine.execCoastReacquire c phase s
  | .coastTimeout c => Sys2Proof.Machine.execCoastTimeout c s
  | .corrSpacingWrite a k v => Sys2Proof.Machine.execCorrSpacingWrite a k v s
  | .measurementInstant m => Sys2Proof.Machine.execMeasurementInstant m s
  | .navMessage m => Sys2Proof.Machine.execNavMessage m s
  | .ppsEdge => Sys2Proof.Machine.execPpsEdge s
  | .slewComplete => Sys2Proof.Machine.execSlewComplete s
  | .timeStep => Sys2Proof.Machine.execTimeStep s
  | .gnbCfgLoad n => Sys2Proof.Machine.execGnbCfgLoad n s
  | .gnbStart n => Sys2Proof.Machine.execGnbStart n s
  | .gnbStop n => Sys2Proof.Machine.execGnbStop n s
  | .assistPut n => Sys2Proof.Machine.execAssistPut n s
  | .snapList n => Sys2Proof.Machine.execSnapList n s
  | .snapRead n => Sys2Proof.Machine.execSnapRead n s
  | .corrPut n => Sys2Proof.Machine.execCorrPut n s
  | .measBuf n => Sys2Proof.Machine.execMeasBuf n s
  | .navBuf n => Sys2Proof.Machine.execNavBuf n s
  | .gnbCtlWrite a v => Sys2Proof.Machine.execGnbCtlWrite a v s
  | .burstInstant => Sys2Proof.Machine.execBurstInstant s
  | .bivouacBurst sats distance gpsNs => Sys2Proof.Machine.execBivouacBurst sats distance gpsNs s
  | .snapshot gpsNs tunc temp samples => Sys2Proof.Machine.execSnapshot gpsNs tunc temp samples s
  | .yieldSense => Sys2Proof.Machine.execYieldSense s
  | .yieldStepEnd => Sys2Proof.Machine.execYieldStepEnd s
  | .delayEstimate => Sys2Proof.Machine.execDelayEstimate s
  | .yieldRecord => Sys2Proof.Machine.execYieldRecord s
  | .yieldFlashWrite => Sys2Proof.Machine.execYieldFlashWrite s
  | .yldCfg n => Sys2Proof.Machine.execYldCfg n s
  | .yldStart n => Sys2Proof.Machine.execYldStart n s
  | .yldStop n => Sys2Proof.Machine.execYldStop n s
  | .yldStatus n => Sys2Proof.Machine.execYldStatus n s
  | .tankSet n => Sys2Proof.Machine.execTankSet n s
  | .taskOpen n => Sys2Proof.Machine.execTaskOpen n s
  | .taskClose n => Sys2Proof.Machine.execTaskClose n s
  | .taskList n => Sys2Proof.Machine.execTaskList n s
  | .taskExport n => Sys2Proof.Machine.execTaskExport n s
  | .yldBuf n => Sys2Proof.Machine.execYldBuf n s
  | .canEnable a k v => Sys2Proof.Machine.execCanEnable a k v s
  | .canModeChange a k v idle => Sys2Proof.Machine.execCanModeChange a k v idle s
  | .recGo a k v => Sys2Proof.Machine.execRecGo a k v s
  | .canIntegrated k => Sys2Proof.Machine.execCanIntegrated k s
  | .busOffRecovered k => Sys2Proof.Machine.execBusOffRecovered k s
  | .canProtocolError k e tec rec' sof => Sys2Proof.Machine.execCanProtocolError k e tec rec' sof s
  | .canFrameReceive k f => Sys2Proof.Machine.execCanFrameReceive k f s
  | .referenceMessage k sof own cycle prev prevTime => Sys2Proof.Machine.execReferenceMessage k sof own cycle prev prevTime s
  | .canTxreq a k word v => Sys2Proof.Machine.execCanTxreq a k word v s
  | .canTxabt a k word v sof => Sys2Proof.Machine.execCanTxabt a k word v sof s
  | .canCyclicAssembly k b sof => Sys2Proof.Machine.execCanCyclicAssembly k b sof s
  | .canFrameSent k sof => Sys2Proof.Machine.execCanFrameSent k sof s
  | .canArbitrationLost k sof => Sys2Proof.Machine.execCanArbitrationLost k sof s
  | .referenceAssembly k sof => Sys2Proof.Machine.execReferenceAssembly k sof s
  | .timeModelLost k => Sys2Proof.Machine.execTimeModelLost k s
  | .canTmCfgWrite a k v => Sys2Proof.Machine.execCanTmCfgWrite a k v s
  | .mapLoad n => Sys2Proof.Machine.execMapLoad n s
  | .txmapLoad n => Sys2Proof.Machine.execTxmapLoad n s
  | .slotWrite n => Sys2Proof.Machine.execSlotWrite n s
  | .frameTx n => Sys2Proof.Machine.execFrameTx n s
  | .frameTxTimeout k => Sys2Proof.Machine.execFrameTxTimeout k s
  | .rxBuf n => Sys2Proof.Machine.execRxBuf n s
  | .panelFrameStart => Sys2Proof.Machine.execPanelFrameStart s
  | .panelFallback => Sys2Proof.Machine.execPanelFallback s
  | .pnlKick a v => Sys2Proof.Machine.execPnlKick a v s
  | .vlcdFault => Sys2Proof.Machine.execVlcdFault s
  | .pnlCtlWrite a v => Sys2Proof.Machine.execPnlCtlWrite a v s
  | .pnlCfgLoad n => Sys2Proof.Machine.execPnlCfgLoad n s
  | .pnlStart n => Sys2Proof.Machine.execPnlStart n s
  | .pnlStop n => Sys2Proof.Machine.execPnlStop n s
  | .stressLoad n => Sys2Proof.Machine.execStressLoad n s
  | .stressRead n => Sys2Proof.Machine.execStressRead n s
  | .regionWrite n => Sys2Proof.Machine.execRegionWrite n s
  | .wake src e => Sys2Proof.Machine.execWake src e s
  | .ctrlReady postFail startTicks => Sys2Proof.Machine.execCtrlReady postFail startTicks s
  | .descend a v => Sys2Proof.Machine.execDescend a v s
  | .ignitionOff => Sys2Proof.Machine.execIgnitionOff s
  | .holdExpiry => Sys2Proof.Machine.execHoldExpiry s
  | .hostDone a v => Sys2Proof.Machine.execHostDone a v s
  | .descGraceExpiry => Sys2Proof.Machine.execDescGraceExpiry s
  | .descentLimit => Sys2Proof.Machine.execDescentLimit s
  | .descentComplete => Sys2Proof.Machine.execDescentComplete s
  | .watchdogHeartbeat => Sys2Proof.Machine.execWatchdogHeartbeat s
  | .watchdogExpiry => Sys2Proof.Machine.execWatchdogExpiry s
  | .fixropeRequest active => Sys2Proof.Machine.execFixropeRequest active s
  | .brownout mV => Sys2Proof.Machine.execBrownout mV s
  | .overvoltage mV => Sys2Proof.Machine.execOvervoltage mV s
  | .overvoltageEnd peak => Sys2Proof.Machine.execOvervoltageEnd peak s
  | .reverseBattery => Sys2Proof.Machine.execReverseBattery s
  | .groundOpen contacts offset => Sys2Proof.Machine.execGroundOpen contacts offset s
  | .groundHealed => Sys2Proof.Machine.execGroundHealed s
  | .governorPeriod => Sys2Proof.Machine.execGovernorPeriod s
  | .bankBudgetExceeded bank => Sys2Proof.Machine.execBankBudgetExceeded bank s
  | .bankBudgetRestore j => Sys2Proof.Machine.execBankBudgetRestore j s
  | .govDeclare n => Sys2Proof.Machine.execGovDeclare n s
  | .govRelease n => Sys2Proof.Machine.execGovRelease n s
  | .govRead n => Sys2Proof.Machine.execGovRead n s
  | .bivouacSecond spent => Sys2Proof.Machine.execBivouacSecond spent s
  | .allowanceSpent => Sys2Proof.Machine.execAllowanceSpent s
  | .presenceBeacon linkUp => Sys2Proof.Machine.execPresenceBeacon linkUp s
  | .tickLineWord v edge wing => Sys2Proof.Machine.execTickLineWord v edge wing s
  | .tickFrame a b f => Sys2Proof.Machine.execTickFrame a b f s
  | .heartbeat a b h => Sys2Proof.Machine.execHeartbeat a b h s
  | .witnessFrame w k => Sys2Proof.Machine.execWitnessFrame w k s
  | .witnessAssembly => Sys2Proof.Machine.execWitnessAssembly s
  | .leadLost => Sys2Proof.Machine.execLeadLost s
  | .leadWithdraw wire => Sys2Proof.Machine.execLeadWithdraw wire s
  | .alignedSet => Sys2Proof.Machine.execAlignedSet s
  | .alignedClear => Sys2Proof.Machine.execAlignedClear s
  | .twinUpChange => Sys2Proof.Machine.execTwinUpChange s
  | .pairLinkChange pair up => Sys2Proof.Machine.execPairLinkChange pair up s
  | .handover n => Sys2Proof.Machine.execHandover n s
  | .handoverCommit => Sys2Proof.Machine.execHandoverCommit s
  | .handoverExecute wire => Sys2Proof.Machine.execHandoverExecute wire s
  | .ckptPut n e => Sys2Proof.Machine.execCkptPut n e s
  | .ckptBuf n => Sys2Proof.Machine.execCkptBuf n s
  | .rtlEnable a v => Sys2Proof.Machine.execRtlEnable a v s
  | .stage n => Sys2Proof.Machine.execStage n s
  | .schedule n => Sys2Proof.Machine.execSchedule n s
  | .cancel n => Sys2Proof.Machine.execCancel n s
  | .scheduleInstantReached => Sys2Proof.Machine.execScheduleInstantReached s
  | .activation => Sys2Proof.Machine.execActivation s
  | .configDone a v => Sys2Proof.Machine.execConfigDone a v s
  | .commit a v => Sys2Proof.Machine.execCommit a v s
  | .commitEffect => Sys2Proof.Machine.execCommitEffect s
  | .reject a v => Sys2Proof.Machine.execReject a v s
  | .trialDeadline => Sys2Proof.Machine.execTrialDeadline s
  | .reversion => Sys2Proof.Machine.execReversion s
  | .keyZeroise verified => Sys2Proof.Machine.execKeyZeroise verified s
  | .pitchStart p => Sys2Proof.Machine.execPitchStart p s
  | .pitchEnd o => Sys2Proof.Machine.execPitchEnd o s
  | .pitchBudgetExpiry => Sys2Proof.Machine.execPitchBudgetExpiry s
  | .recFlush writeOk => Sys2Proof.Machine.execRecFlush writeOk s
  | .rateWindowEnd => Sys2Proof.Machine.execRateWindowEnd s
  | .hoursAdvance => Sys2Proof.Machine.execHoursAdvance s
  | .recWindowLatch a => Sys2Proof.Machine.execRecWindowLatch a s
  | .recCursorAdvance a => Sys2Proof.Machine.execRecCursorAdvance a s
  | .recClear a v => Sys2Proof.Machine.execRecClear a v s
  | .recCopy n => Sys2Proof.Machine.execRecCopy n s
  | .debugEnableChange active => Sys2Proof.Machine.execDebugEnableChange active s
  | .stageComplete => Sys2Proof.Machine.execStageComplete s
  | .losCaptureComplete samples => Sys2Proof.Machine.execLosCaptureComplete samples s
  | .recCopyComplete => Sys2Proof.Machine.execRecCopyComplete s
  | .checkpointArrival tag tick gts payload => Sys2Proof.Machine.execCheckpointArrival tag tick gts payload s
  | .handoverFrame bce chans => Sys2Proof.Machine.execHandoverFrame bce chans s
  | .fixropeThermalRestart c => Sys2Proof.Machine.execFixropeThermalRestart c s
  | .restartAfterBrownout mV src e => Sys2Proof.Machine.execRestartAfterBrownout mV src e s

end Sys2Proof.Machine
end

