-- ==== Sys2Proof/WellFormed.lean ====
section
/-!
DEFINITION. Well-formed commands: operands that the module's widths, counts and formats admit. The meaning of a
command is total and does not ask for it; what a command that is not well formed stands for, the manual does not say.
-/

namespace Sys2Proof

/-- A GTS (R21). -/
def gtsOk (g : Nat) : Bool := decide (g < 2 ^ 64)

/-- An address of the fabric. -/
def addrOk (a : Nat) : Bool := decide (a < 2 ^ 64)

/-- Every index of a table lies below `n`. -/
def keysBelow {α : Type} (n : Nat) (t : Tab α) : Bool := t.all fun e => decide (e.1 < n)

/-- By controller, a buffer number (R307, R311). -/
def wireOk (t : Tab Nat) : Bool := t.all fun e => decide (e.1 < 8) && gtsOk e.2

/-- A transaction moves at least one byte. -/
def MemOp.wf : MemOp → Bool
  | .read n => decide (0 < n)
  | .write bs => !bs.isEmpty

/-- A write operand: 32 bits unless it is a 64-bit write. -/
def operandOk (wide : Bool) (v : BitVec 64) : Bool := wide || decide (v.toNat < 2 ^ 32)

/-- What a tick boundary measures: six IMU values (R143), 48 channels (R148), eight loss pads (R140), six supplies
(R145). -/
def TickInputs.wf (i : TickInputs) : Bool :=
  decide (i.imu.length = 6) && keysBelow 48 i.chans && keysBelow 8 i.clip && keysBelow 6 i.sup && wireOk i.canWire &&
    (i.corr.all fun c => decide (c.iq.length = 7)) && decide (i.capture.length % 2 = 0) && decide (i.ports.length ≤ 8)

/-- Two bytes for each pixel of a line. -/
def LineIn.wf (l : LineIn) : Bool := decide (l.bytes.length = 2 * l.pixels)

/-- The data lengths of each format (R311): CC, FD, XL. -/
def canLength (fmt : Fin 3) (n : Nat) : Bool :=
  if fmt = 0 then decide (n ≤ 8)
  else if fmt = 1 then decide (n ≤ 8) || [12, 16, 20, 24, 32, 48, 64].contains n
  else decide (1 ≤ n) && decide (n ≤ 2048)

/-- A CAN frame: its identifier, data length and 8-bit fields fit the format. -/
def CanFrame.wf (f : CanFrame) : Bool :=
  gtsOk f.sof && decide (f.id < if f.ide then 2 ^ 29 else 2 ^ 11) && canLength f.fmt f.data.length &&
    decide (f.sdt < 256) && decide (f.vcid < 256)

/-- A witness frame (R380). -/
def Witness.wf (w : Witness) : Bool := decide (w.state < 8) && decide (w.pos < 4)

/-- A tick frame: 32 rings, 48 channels. -/
def TickFrame.wf (f : TickFrame) : Bool :=
  decide (f.tick < 2 ^ 46) && keysBelow 128 f.bce && keysBelow 48 f.chans && keysBelow 32 f.rings

/-- A heartbeat. -/
def Heartbeat.wf (h : Heartbeat) : Bool := decide (h.tick < 2 ^ 46) && decide (h.state < 8)

/-- A measurement instant: the figures of its entries, a heading within the turn, a time of week within the week. -/
def MeasIn.wf (m : MeasIn) : Bool :=
  (m.figures.all fun e => [0x20E, 0x20F, 0x210, 0x216, 0x21A, 0x21C].contains e.1) && decide (m.heading < 6283186) &&
    decide (m.tow < 604800 * 10 ^ 9)

/-- A navigation message: 1 to 768 bits in whole bytes, ten words at most (R254). -/
def NavIn.wf (m : NavIn) : Bool :=
  gtsOk m.gts && decide (1 ≤ m.bits) && decide (m.bits ≤ 768) && decide (m.payload.length = (m.bits + 7) / 8) &&
    decide (m.wordsOk < 1024) && decide (m.wordsFix < 1024)

/-- What an invocation of Col puts out: grids of 512 rows by 160 columns (R206), inputs 0 to 16. -/
def ColEnd.wf : ColEnd → Bool
  | .camEnc _ cap enc => gtsOk cap && keysBelow 81920 enc.heights
  | .lidarEnc _ enc => keysBelow 81920 enc.heights
  | .fuse _ => true
  | .head cells => keysBelow 81920 cells

/-- The operands of a command lie within what the module's widths, counts and formats admit. -/
def Instr.wf : Instr → Bool
  | .registerWrite _ addr wide v => addrOk addr && operandOk wide v
  | .memoryTransaction _ addr op => addrOk addr && op.wf
  | .lowWordReadLatch _ addr _ => addrOk addr
  | .fenceApply _ wide v => operandOk wide v
  | .tickBoundary inp => inp.wf
  | .subtickSlotBoundary current _ => keysBelow 48 current
  | .pitonAcquire _ readers _ => !readers.isEmpty
  | .ainConversion _ at' _ _ | .freqEdge _ at' _ _ | .shortTrip _ at' _ _ | .thermalTrip _ at' _
  | .bankFeedLow _ at' _ | .bankFeedReturn _ at' _ | .crankHoldExpiry _ at' _ | .frameStart _ _ at' => gtsOk at'
  | .linkUp _ latency => decide (latency < 65536)
  | .lineArrival _ _ l => l.wf
  | .colInvocationEnd r => r.wf
  | .remoteEncodingArrival r at' =>
    gtsOk at' && keysBelow 12 r.cams && r.cams.all fun e => gtsOk e.2.cap && keysBelow 81920 e.2.heights
  | .releaseReplicaArrival r => decide (r.traj.length = 400) && keysBelow 17 r.weights
  | .measurementInstant m => m.wf
  | .navMessage m => m.wf
  | .snapshot _ _ _ samples => decide (samples.length = 32768)
  | .canProtocolError _ _ tec rec' _ => decide (tec < 512) && decide (rec' < 512)
  | .canFrameReceive _ f => f.wf
  | .referenceMessage _ sof _ _ _ _ => gtsOk sof
  | .canFrameSent _ sof | .canArbitrationLost _ sof => gtsOk sof
  | .ctrlReady postFail _ => keysBelow 12 postFail
  | .tickFrame _ _ f => f.wf
  | .heartbeat _ _ h => h.wf
  | .witnessFrame w _ => w.wf
  | .tickLineWord _ edge _ => gtsOk edge
  | .leadWithdraw wire | .handoverExecute wire => wireOk wire
  | .handoverFrame bce chans => keysBelow 128 bce && keysBelow 48 chans
  | .checkpointArrival _ _ gts _ => gtsOk gts
  | .coreReset _ | .tickOverrun _ | .subtickOverrun _ | .tickDiscWrite _ _ | .disciplineAcquire _
  | .disciplineLocked _ | .disciplineSourceLost | .evqCtlWrite _ _ | .evqConsWrite _ _ | .swevt _ _
  | .eventQueueWrite | .pdReqWrite _ _ | .domainSwitch _ => true
  | .sqDoorbell _ _ _ | .cqDoorbell _ _ _ | .descriptorFetch _ | .completionPost _ | .ringEnable _ _ _
  | .ringInitComplete _ | .ringDisable _ _ _ | .ringFlush _ _ _ | .ringAbandon _ _ _ | .ringResync _ _ _
  | .drainComplete _ | .drainBoundaryStop _ | .fenceApplyLowLatch _ _ => true
  | .mbxGo _ _ | .mbxRel _ _ | .mbxCfgWrite _ _ _ | .mbxDataAccess _ _ _ _ | .pitonRelease _ _ _ => true
  | .bceCtxLoad _ | .bceCtxStart _ | .bceCtxStop _ | .bceStopEffect | .bceCtxRead _ | .bceCtxTrace _ | .bceCtxClear _
  | .bceCtxPatch _ | .bcePatchEffect | .sigWrite _ | .sigRead _ | .bceCtlWrite _ _ | .bceLatch _
  | .bceOutputRelease _ => true
  | .finCfgWrite _ _ _ | .ainShuntOpen _ | .ainShuntRetry _ | .freqGateEnd _ | .losCapture _ | .imuSelfCheck _
  | .lhInputChange _ _ | .supEnWrite _ _ _ | .supClr _ _ _ | .supLimit _ _ _ _ | .supLimitTimeout _
  | .supOvervoltageTrip _ _ => true
  | .chSet _ | .chSetApply | .chProfile _ | .chProfileStep _ | .chClear _ | .chRead _ | .chReadSnapshot
  | .lswOutEnWrite _ _ | .lswChCfgWrite _ _ _ _ | .lhMapWrite _ _ _ | .lhMapLock _ _ | .inrushWindowEnd _
  | .restart _ _ | .restartCountReset _ | .openLoad _ _ | .bceTimeout _ | .gangMismatch _ | .driveWithdraw
  | .driveGrant | .fixropeTrip _ _ _ _ _ | .losImpact _ _ => true
  | .iplLinkCfgWrite _ _ _ | .linkTrainingRetry _ | .linkDown _ | .cameraTrigger _ | .frameEnd _ _ | .unitStart
  | .frameClose _ | .encoderAccessUnit _ _ | .settingsWrite _ _ | .iplCtxLoad _ | .iplCtxStart _
  | .iplCtxStop _ | .iplStopEffect | .exposure _ | .tuneLoad _ | .iplCtxRead _ | .encCfg _ | .encIdr _ | .dispBuf _
  | .statBuf _ | .codeBuf _ | .iplCtlWrite _ _ | .pcamSyncLost _ | .camPowerLimit _ | .camPowerRetry _ => true
  | .epochClose | .epochRelease | .lkoCfgLoad _ | .sensorCfg _ | .modelLoad _ | .modelDrop _ | .lkoStart _ | .lkoStop _
  | .healthRead _ | .lidarPut _ | .outBuf _ | .featBuf _ | .lkoCtlWrite _ _ => true
  | .antennaStateChange _ _ _ | .antennaRetry _ | .channelReexamine _ | .channelDetection _ _ _ | .searchTimeout _
  | .pullInLock _ | .pullInTimeout _ | .trackSignalLoss _ | .coastReacquire _ _ | .coastTimeout _
  | .corrSpacingWrite _ _ _ | .ppsEdge | .slewComplete | .timeStep | .gnbCfgLoad _ | .gnbStart _ | .gnbStop _
  | .assistPut _ | .snapList _ | .snapRead _ | .corrPut _ | .measBuf _ | .navBuf _ | .gnbCtlWrite _ _ | .burstInstant
  | .bivouacBurst _ _ _ => true
  | .yieldSense | .yieldStepEnd | .delayEstimate | .yieldRecord | .yieldFlashWrite | .yldCfg _ | .yldStart _
  | .yldStop _ | .yldStatus _ | .tankSet _ | .taskOpen _ | .taskClose _ | .taskList _ | .taskExport _
  | .yldBuf _ => true
  | .canEnable _ _ _ | .canModeChange _ _ _ _ | .recGo _ _ _ | .canIntegrated _ | .busOffRecovered _ | .canTxreq _ _ _ _
  | .canTxabt _ _ _ _ _ | .canCyclicAssembly _ _ _ | .referenceAssembly _ _
  | .timeModelLost _ | .canTmCfgWrite _ _ _ | .mapLoad _ | .txmapLoad _ | .slotWrite _ | .frameTx _ | .frameTxTimeout _
  | .rxBuf _ => true
  | .panelFrameStart | .panelFallback | .pnlKick _ _ | .vlcdFault | .pnlCtlWrite _ _ | .pnlCfgLoad _ | .pnlStart _
  | .pnlStop _ | .stressLoad _ | .stressRead _ | .regionWrite _ => true
  | .descend _ _ | .ignitionOff | .holdExpiry | .hostDone _ _ | .descGraceExpiry | .descentLimit | .descentComplete
  | .watchdogHeartbeat | .watchdogExpiry | .fixropeRequest _ | .brownout _ | .overvoltage _ | .overvoltageEnd _
  | .reverseBattery | .groundOpen _ _ | .groundHealed | .governorPeriod | .bankBudgetExceeded _ | .bankBudgetRestore _
  | .govDeclare _ | .govRelease _ | .govRead _ | .bivouacSecond _ | .allowanceSpent | .presenceBeacon _ => true
  | .witnessAssembly | .leadLost | .alignedSet | .alignedClear | .twinUpChange | .pairLinkChange _ _ | .handover _
  | .handoverCommit | .ckptPut _ _ | .ckptBuf _ | .rtlEnable _ _ => true
  | .stage _ | .schedule _ | .cancel _ | .scheduleInstantReached | .activation | .configDone _ _ | .commit _ _
  | .commitEffect | .reject _ _ | .trialDeadline | .reversion => true
  | .keyZeroise _ | .pitchStart _ | .pitchEnd _ | .pitchBudgetExpiry => true
  | .recFlush _ | .rateWindowEnd | .hoursAdvance | .recWindowLatch _ | .recCursorAdvance _ | .recClear _ _
  | .recCopy _ | .debugEnableChange _ | .stageComplete | .losCaptureComplete _ | .recCopyComplete
  | .fixropeThermalRestart _ | .wake _ _ | .restartAfterBrownout _ _ _ => true

end Sys2Proof
end

