-- ==== Sys2Proof/Safety.lean ====
section
/-!
DEFINITION. The terms that claims about the module use: when an access gets through, when a service takes a
descriptor, what a finished descriptor holds, the mode transitions of the manual, and the invariants of a step.
-/

namespace Sys2Proof.Machine

/-- The access reaches a register of domain `dom`: its initiator is on (R469), the domain is on (R13), and no pitch of
the descent self-test runs (R421). -/
def opens (a : Access) (dom : Nat) (s : State) : Bool := iniAlive a.ini s && s.pdOn dom && s.dsc.runs.isNone

/-- Ring `c.ring` is enabled for queue `q` of block `blk`, whose domain is on, and `c` is the descriptor of opcode
`opc` that the queue takes next (R40, R470). -/
def takes (blk q opc : Nat) (tk : Taking) (c : OpRef) (s : State) : Bool :=
  (s.ring c.ring).serves blk q && serviceOn s blk &&
    findOp tk opc [] (s.ring c.ring).ops 0 == some (c.idx, c.op)

/-- The oldest descriptor of its ring, fetched and not begun. -/
def first (n : Nat) (o : Op) : OpRef := { ring := n, idx := 0, op := o }

/-- The descriptor that `c` names, as it stands after a step. -/
def outcome (c : OpRef) (t : State) : Option Op := (t.ring c.ring).ops[c.idx]?

/-- `c` has finished OK with these results (R41). -/
def endsOk (c : OpRef) (r0 r1 : Word) (t : State) : Prop :=
  ∃ x g, outcome c t = some { c.op with stage := .done, status := stOk, xfer := x, r0 := r0, r1 := r1, doneAt := g }

/-- Every 64-byte transaction of the transfer of a buffer goes through (R65, R465). -/
def bufferOpen (ini : Nat) (write : Bool) (addr len : Nat) (s : State) : Bool :=
  (pieces len addr len).all fun p => s.busVerdict ini false write p.1 p.2 == .ok

/-- The state with these bytes in the buffer of `c`, and no other byte of memory changed. -/
def stored (c : OpRef) (bs : List Byte) (s : State) : State := s.setMem (Memory.setMany s.mem c.op.addr bs)

/-- The bytes of the buffer of `c`. -/
def bufferOf (c : OpRef) (s : State) : List Byte := Memory.getMany s.mem c.op.addr c.op.len

/-- The module runs normally: time base, PD0 to PD12 on, Run mode with firmware up (R348). -/
def inRun (s : State) : Bool :=
  s.tick.running && s.mode == .run && s.start == .ready && s.pd == (0x1FFF : Word)

/-- The mode transitions the manual makes, and no others (R346). -/
def modeMoves : Mode → Mode → Bool
  | .cold, .run => true
  | .bivouac, .run => true
  | .bivouac, .cold => true
  | .run, .descent => true
  | .run, .fixedRope => true
  | .descent, .bivouac => true
  | .descent, .run => true
  | _, .cold => true
  | m, m' => m == m'

/-- The commands whose effect stays in their own block, the event merger, the recorder and the time base: they move no
byte of host memory, no ring, fence, mailbox or power domain, not the mode, and no record that outlives Run. -/
def ownBlock : Instr → Bool
  | .tickOverrun .. | .subtickOverrun .. | .tickDiscWrite .. | .disciplineAcquire .. | .disciplineLocked ..
  | .disciplineSourceLost .. | .evqCtlWrite .. | .swevt .. | .pdReqWrite .. | .bceCtlWrite .. | .finCfgWrite ..
  | .ainConversion .. | .ainShuntOpen .. | .ainShuntRetry .. | .freqEdge .. | .freqGateEnd .. | .losImpact ..
  | .imuSelfCheck .. | .lhInputChange .. | .supEnWrite .. | .supClr .. | .supLimit .. | .supLimitTimeout ..
  | .supOvervoltageTrip .. | .lswChCfgWrite .. | .lhMapWrite .. | .lhMapLock .. | .restartCountReset ..
  | .openLoad .. | .gangMismatch .. | .fixropeTrip .. | .iplLinkCfgWrite .. | .linkUp .. | .linkTrainingRetry ..
  | .linkDown .. | .cameraTrigger .. | .frameEnd .. | .settingsWrite .. | .iplCtlWrite .. | .pcamSyncLost ..
  | .camPowerLimit .. | .camPowerRetry .. | .remoteEncodingArrival .. | .lkoCtlWrite .. | .antennaStateChange ..
  | .antennaRetry .. | .channelReexamine .. | .channelDetection .. | .searchTimeout .. | .pullInLock ..
  | .pullInTimeout .. | .trackSignalLoss .. | .coastReacquire .. | .coastTimeout .. | .corrSpacingWrite ..
  | .slewComplete .. | .gnbCtlWrite .. | .yieldSense .. | .yieldStepEnd ..
  | .delayEstimate .. | .yieldFlashWrite .. | .canIntegrated .. | .busOffRecovered .. | .canProtocolError ..
  | .referenceMessage .. | .canTxabt .. | .referenceAssembly .. | .timeModelLost .. | .canTmCfgWrite ..
  | .panelFallback .. | .pnlKick .. | .pnlCtlWrite .. | .descend .. | .holdExpiry .. | .hostDone ..
  | .watchdogHeartbeat .. | .overvoltage .. | .overvoltageEnd .. | .groundOpen ..
  | .groundHealed .. | .bankBudgetExceeded .. | .bankBudgetRestore .. | .tickLineWord ..
  | .witnessFrame .. | .witnessAssembly .. | .alignedSet .. | .twinUpChange .. | .pairLinkChange ..
  | .rtlEnable .. | .configDone .. | .commit .. | .reject .. | .trialDeadline .. | .recFlush ..
  | .rateWindowEnd .. | .hoursAdvance .. | .recWindowLatch .. | .recCursorAdvance .. | .recClear ..
  | .debugEnableChange .. | .handoverFrame .. | .fixropeThermalRestart .. => true
  | _ => false

/-- Bytes `a` to `a + n - 1`. -/
def inRange (a n b : Nat) : Prop := a ≤ b ∧ b < a + n

end Sys2Proof.Machine
end

