-- ==== Sys2Proof/Certificates/Slice0/Obligations.lean ====
section
/-!
DEFINITION. The statements about the model, for the provers. Each docstring names what of the manual it formalises.
-/

open Sys2Proof Sys2Proof.Machine

/-! ### The block as a machine -/

/-- With a command waiting, a step is that command's effect on the queue's rest; with none, the block idles (the
model's choice, log 6). -/
def Obligations.StepRunsFrontCommand : Prop :=
  (∀ (c : Instr) (rest : List Instr) (s : State),
    step { s with pending := c :: rest } = exec c { s with pending := rest }) ∧
  ∀ s : State, s.pending = [] → step s = .next s

/-- Every command, whatever its operands and in every state, answers a next state, and takes exactly itself from the
queue: no command of the manual stops the block (R6: a refused access is answered, not a stop). -/
def Obligations.EveryStepTakesOneCommand : Prop :=
  ∀ (c : Instr) (rest : List Instr) (s : State), s.pending = c :: rest →
    ∃ t, step s = .next t ∧ t.pending = rest

/-- Every step keeps host memory in its canonical form (the model's form of R16's memory; log 5). -/
def Obligations.StepKeepsMemoryCanonical : Prop :=
  ∀ s t : State, Memory.wf s.mem = true → step s = .next t → Memory.wf t.mem = true

/-- GTS never decreases while a time base runs (R21): only a Run entry starts another (R22). The power-cycle counter
changes only where a time base starts (R22): at a Run entry. -/
def Obligations.ClocksOfTheModuleMoveForward : Prop :=
  (∀ (c : Instr) (s t : State), (∀ src e, c ≠ .wake src e) → (∀ mV src e, c ≠ .restartAfterBrownout mV src e) →
     exec c s = .next t → t.tick.running = true → s.gts ≤ t.gts) ∧
  ∀ (c : Instr) (s t : State), exec c s = .next t → t.tick.pcc ≠ s.tick.pcc →
    (∃ src e, c = .wake src e) ∨ ∃ mV src e, c = .restartAfterBrownout mV src e

/-- The module makes the mode transitions of R346 and no others: whatever the command, the mode stays or goes along a
row of that table. A Fixed-rope entry whose cause falls on the very boundary that has begun a Descent takes its place
(R367; how the model does so: log 55). -/
def Obligations.OnlyTheModeTransitionsOfTheTable : Prop :=
  ∀ s t : State, step s = .next t →
    modeMoves s.mode t.mode = true ∨ (descentStarts s = true ∧ t.mode = .fixedRope)

/-- What reset leaves, of the values the register tables give (01, 02, 05, 06, 14). Memory is canonical right after
reset, and the queue is empty. -/
def Obligations.ResetLeavesTheTableValues : Prop :=
  (sysStatus State.reset = 0x0000_0002 ∧ State.reset.pd = 0x0000_0003 ∧ State.reset.gts = 0 ∧
   tickDisc State.reset.tick = 0x8000_0000 ∧ State.reset.tick.trim = 0 ∧ State.reset.tick.uncert = 0xFFFF_FFFF ∧
   evqCtl State.reset.sys = 0 ∧ State.reset.sys.prod = 0 ∧ State.reset.sys.cons = 0 ∧
   (∀ k, Tab.get (0xFFFF_FFFF : Word) State.reset.sys.evtEn k = 0xFFFF_FFFF) ∧
   (∀ n, (State.reset.ring n).state = .disabled ∧ (State.reset.ring n).en = false) ∧
   State.reset.liveFence 0 = Fence.zeroReset ∧ (∀ n, n ≠ 0 → (State.reset.liveFence n).en = false) ∧
   (∀ m, (State.reset.box m).posted = false ∧ (State.reset.box m).cfg = 0) ∧
   (∀ n, (State.reset.ain n).lim = 0xFFFF_0000) ∧
   (∀ c, (State.reset.ch c).cfg = 0x0030_0000 ∧ (State.reset.ch c).time = 0x000A_0A28 ∧
     (State.reset.ch c).pwm = 0x1000_0000) ∧
   State.reset.pwr.ctl = 0x0000_000A ∧ State.reset.pwr.wdog = 0x14 ∧ State.reset.pwr.desc = 0x1F4 ∧
   State.reset.dsc.mask = 0xFFF ∧ State.reset.recorder.rate = 0x10) ∧
  Memory.wf State.reset.mem = true ∧ State.reset.pending = []

/-- The frame of the commands that act within one block, each of which answers a next state: host memory, rings,
fences, mailboxes and pitons, the power domains, the mode, the boot record, the self-test record and the waiting
commands are as before, and GTS goes on or stays (R21). -/
def Obligations.OwnBlockCommandsKeepTheRest : Prop :=
  ∀ (c : Instr) (s : State), ownBlock c = true → ∃ t, exec c s = .next t ∧
    t.mem = s.mem ∧ t.hri = s.hri ∧ t.fen = s.fen ∧ t.mbx = s.mbx ∧ t.pd = s.pd ∧ t.mode = s.mode ∧
      t.boot = s.boot ∧ t.dsc = s.dsc ∧ t.pending = s.pending ∧ s.gts ≤ t.gts

/-! ### The fabric, time and events (01) -/

/-- A 32-bit write to a setup window: from an initiator that is on, to a domain that is on, it is answered normally
and has the register's effect and no other (R6, R15); to a domain that is off it is discarded with an error response
and event source 1 with initiator and block (R13); an initiator that is off makes no transaction (R469). A read of the
low word of TICK_GTS answers it and latches the high word for this initiator alone; a latched high word is what its
next read of the high word answers, whatever GTS has become, and it is used up; with none latched the live word is
answered (R17). -/
def Obligations.RegistersAnswerThroughTheGate : Prop :=
  (∀ (a : Access) (addr blk : Nat) (v : BitVec 64) (s : State), blockAt addr = some blk →
     let off := addr % 0x1_0000 / 4 * 4
     let dom := registerDomain blk off
     (opens a dom s = true →
       exec (.registerWrite a addr false v) s = .next (blockWrite a blk off (lo32 v) (s.reply a .ok))) ∧
     (iniAlive a.ini s = true → s.pdOn dom = false →
       exec (.registerWrite a addr false v) s =
         .next ((raise 1 dom (a.ini.id * 256 + blk) s).reply a .error)) ∧
     (iniAlive a.ini s = false → exec (.registerWrite a addr false v) s = .next { s with resp := [] })) ∧
  ∀ (a : Access) (s : State), opens a 2 s = true →
    exec (.lowWordReadLatch a 0x0801_0000 false) s =
      .next ((s.latch a 0x0801_0004 (hi32 (word64 s.gts))).replyWord a (lo32 (word64 s.gts))) ∧
    (∀ w, Tab.find s.shadows (shadowKey a 0x0801_0004) = some w →
      exec (.lowWordReadLatch a 0x0801_0004 false) s =
        .next (({ s with shadows := Tab.del s.shadows (shadowKey a 0x0801_0004) } : State).replyWord a w)) ∧
    (Tab.find s.shadows (shadowKey a 0x0801_0004) = none →
      exec (.lowWordReadLatch a 0x0801_0004 false) s = .next (s.replyWord a (hi32 (word64 s.gts))))

/-- A write to host memory that the fences allow stores its bytes and nothing else; a read answers the bytes and
changes nothing else (R16). One that no fence allows changes no byte, is answered with an error, is captured and
counted, and raises source 489 or 488 (R64). An address that is neither a window nor host memory raises source 2 and
consults no fence (R16). A fence admits a transaction only where it covers the whole range, has the initiator's INIT
bit and the W or R bit, and, with SEC, only a secure transaction; no engine and no debug access is secure (R63, R466).
-/
def Obligations.MemoryTransactionsObeyTheFences : Prop :=
  (∀ (a : Access) (addr : Nat) (s : State), blockAt addr = none → iniAlive a.ini s = true →
     (∀ bs, s.busVerdict a.ini.id (secureOf a) true addr bs.length = .ok →
       exec (.memoryTransaction a addr (.write bs)) s =
         .next ((s.setMem (Memory.setMany s.mem addr bs)).reply a .ok)) ∧
     (∀ n, s.busVerdict a.ini.id (secureOf a) false addr n = .ok →
       exec (.memoryTransaction a addr (.read n)) s = .next (s.reply a (.bytes (Memory.getMany s.mem addr n)))) ∧
     (∀ bs, s.busVerdict a.ini.id (secureOf a) true addr bs.length = .refused →
       exec (.memoryTransaction a addr (.write bs)) s =
         .next ((raise 489 1 (a.ini.id * 2 ^ 24 + oneIf (secureOf a) * 2 ^ 23 + addr / 4096 % 2 ^ 23)
           (refuse a.ini.id (secureOf a) true addr s)).reply a .error)) ∧
     (∀ n, s.busVerdict a.ini.id (secureOf a) false addr n = .refused →
       exec (.memoryTransaction a addr (.read n)) s =
         .next ((raise 488 1 (a.ini.id * 2 ^ 24 + oneIf (secureOf a) * 2 ^ 23 + addr / 4096 % 2 ^ 23)
           (refuse a.ini.id (secureOf a) false addr s)).reply a .error)) ∧
     (∀ n, inHostMem addr n = false →
       exec (.memoryTransaction a addr (.read n)) s = .next ((raise 2 1 a.ini.id s).reply a .error))) ∧
  ∀ (s : State) (ini : Nat) (sec write : Bool) (addr len : Nat),
    s.busVerdict ini sec write addr len = .ok →
      memBase ≤ addr ∧ addr + len ≤ memLast + 1 ∧
      ∃ e ∈ s.fen.live, e.2.en = true ∧ e.2.base ≤ addr ∧ addr + len ≤ e.2.limit + 1 ∧
        e.2.init.getLsbD ini = true ∧ (if write then e.2.w else e.2.r) = true ∧ (e.2.sec = true → sec = true)

/-- A write that the fabric carries changes exactly the bytes it addresses; one it does not carry changes none. -/
def Obligations.BusWriteStoresExactlyItsBytes : Prop :=
  ∀ (kind ini : Nat) (sec quiet : Bool) (addr : Nat) (bs : List Byte) (s : State), Memory.wf s.mem = true →
    ((busWrite kind ini sec quiet addr bs s).2 = .ok →
      (∀ i, i < bs.length → Memory.get (busWrite kind ini sec quiet addr bs s).1.mem (addr + i) = bs.getD i 0) ∧
      ∀ b, ¬ inRange addr bs.length b →
        Memory.get (busWrite kind ini sec quiet addr bs s).1.mem b = Memory.get s.mem b) ∧
    ((busWrite kind ini sec quiet addr bs s).2 ≠ .ok → (busWrite kind ini sec quiet addr bs s).1.mem = s.mem)

/-- The tick boundary tells the overruns of the tick that ends (R28), takes GTS to the next multiple of 400,000 counts
(R26) and then runs the tick's work in order: inputs, channels, buses and loops, the services, then supply, team and
update. A slot boundary does the slot work at its GTS, counted once. Without a time base neither does anything (R22).
An overrun of tick work is noted at the boundary that ends the tick, with source 4 and the tick's number; one of
sub-tick work at the end of its slot, with source 5 and the slot: TICK_OVR_LAST takes block and tick, and the block's
counter counts one more and saturates (R28, R467). -/
def Obligations.BoundariesAndOverruns : Prop :=
  ((∀ (i : TickInputs) (s : State), s.tick.running = true →
     exec (.tickBoundary i) s = .next (tickModule i (tickServices (boundaryOf (s.t + 1)) i
       (tickEdge (boundaryOf (s.t + 1)) i { overrunTick i.overrun s with gts := boundaryOf (s.t + 1) })))) ∧
   (∀ (i : TickInputs) (s t : State), s.tick.running = true → exec (.tickBoundary i) s = .next t →
     t.tick.running = true → boundaryOf (s.t + 1) ≤ t.gts) ∧
   (∀ (cur : Tab Nat) (late : List SlotWork) (s : State), s.tick.running = true → s.tick.slotLate = [] →
     s.gts / slotLen * slotLen ≤ s.tick.slotG → s.gts / slotLen * slotLen + slotLen < boundaryOf (s.t + 1) →
     exec (.subtickSlotBoundary cur late) s =
       .next (lswSlot (s.gts / slotLen * slotLen + slotLen) cur
         { s.advance (s.gts / slotLen * slotLen + slotLen) with
           tick.slotG := s.gts / slotLen * slotLen + slotLen, tick.slotLate := late })) ∧
   ∀ (i : TickInputs) (cur : Tab Nat) (late : List SlotWork) (s : State), s.tick.running = false →
     exec (.tickBoundary i) s = .next s ∧ exec (.subtickSlotBoundary cur late) s = .next s) ∧
  (∀ (w : TickWork) (s : State), s.tick.running = true → s.overruns w = true → w ∉ s.tick.told → ∃ u : State,
    exec (.tickOverrun w) s = .next (raiseAt (boundaryOf (s.t + 1)) 4 1
      (tickWorkBlock w * 2 ^ 24 + s.t % 2 ^ 24) u) ∧
    u.tick.ovrLast = wordOf (tickWorkBlock w * 2 ^ 24 + s.t % 2 ^ 24) ∧
    Tab.get 0 u.tick.ovrCnt (tickWorkBlock w) = min (Tab.get 0 s.tick.ovrCnt (tickWorkBlock w) + 1) 0xFFFF ∧
    u = { s with tick := u.tick }) ∧
  ∀ (w : SlotWork) (s : State), s.tick.running = true → w ∈ s.tick.slotLate →
    let slot := s.tick.slotG / slotLen
    ∃ u : State, exec (.subtickOverrun w) s = .next (raiseAt ((slot + 1) * slotLen) 5 (slot % 10)
      (slotWorkBlock w * 2 ^ 24 + slot / 10 % 2 ^ 24) u) ∧
    u.tick.ovrLast = wordOf (slotWorkBlock w * 2 ^ 24 + slot / 10 % 2 ^ 24) ∧
    Tab.get 0 u.tick.ovrCnt (slotWorkBlock w) = min (Tab.get 0 s.tick.ovrCnt (slotWorkBlock w) + 1) 0xFFFF ∧
    u = { s with tick := u.tick }

/-- The discipline: EN 1 to 0 holds the trim; a source that fits acquires from FREE or HOLDOVER, locks from ACQUIRE
with uncertainty 0 and the trim within 100 ppm once the rate error has stayed below 0.01 ppm for 1,000 ticks, and
lost, leaves LOCKED for HOLDOVER with the uncertainty's growth begun, and ACQUIRE for HOLDOVER too (log 165); each
change of state raises source 6 with the new state and the trim (R25, R30, R32). -/
def Obligations.DisciplineMovesThroughItsStates : Prop :=
  (∀ (a : Access) (v : Word) (s : State), opens a 2 s = true → bitOf v 31 = true →
    exec (.tickDiscWrite a v) s = .next { s.reply a .ok with tick.discEn := true }) ∧
  (∀ (a : Access) (v : Word) (s : State), opens a 2 s = true → bitOf v 31 = false → s.tick.discEn = true →
    ∃ t, exec (.tickDiscWrite a v) s = .next t ∧ t.tick.discEn = false ∧ t.tick.disc = .holdover ∧
      t.tick.discSrc = none ∧ t.tick.trim = s.tick.trim ∧ t.mem = s.mem ∧ t.gts = s.gts) ∧
  (∀ (a : Access) (v : Word) (s : State), opens a 2 s = true → bitOf v 31 = false → s.tick.discEn = false →
    exec (.tickDiscWrite a v) s = .next (s.reply a .ok)) ∧
  (∀ (src : DiscSource) (s : State), s.tick.running = true → s.tick.discEn = true → sourceFits s src = true →
    s.tick.disc = .free ∨ s.tick.disc = .holdover →
    exec (.disciplineAcquire src) s =
      .next (raise 6 1 (wordOfInt s.tick.trim).toNat
        { s with tick.discSrc := some src, tick.rateRun := 0, tick.disc := .acquire })) ∧
  (∀ (src : DiscSource) (s : State), s.tick.discEn = false ∨ sourceFits s src = false ∨ s.tick.disc = .acquire ∨
    s.tick.disc = .locked → exec (.disciplineAcquire src) s = .next s) ∧
  (∀ (trim : Int) (s : State), s.tick.disc = .acquire → s.tick.discSrc ≠ none → 1000 ≤ s.tick.rateRun →
    let x := clampInt (-100000) 100000 trim
    exec (.disciplineLocked trim) s =
      .next (raise 6 2 (wordOfInt x).toNat
        { s with tick.trim := x, tick.uncert := 0, tick.sinceLocked := none, tick.disc := .locked })) ∧
  (∀ (trim : Int) (s : State), s.tick.rateRun < 1000 ∨ s.tick.disc ≠ .acquire ∨ s.tick.discSrc = none →
    exec (.disciplineLocked trim) s = .next s) ∧
  ∀ s : State, (s.tick.disc = .locked ∨ s.tick.disc = .acquire → ∃ t, exec .disciplineSourceLost s = .next t ∧
    t.tick = { s.tick with
      disc := .holdover, discSrc := none
      sinceLocked := if s.tick.disc = .locked then some 0 else s.tick.sinceLocked } ∧
    t.sys = (raise 6 3 (wordOfInt s.tick.trim).toNat s).sys ∧ t.mem = s.mem ∧ t.gts = s.gts ∧ t.hri = s.hri) ∧
    (s.tick.disc = .free ∨ s.tick.disc = .holdover →
      exec .disciplineSourceLost s = .next { s with tick.discSrc := none })

/-- The event queue's registers: LOG2 is taken only while EN is 0 (R18), EN 0 to 1 starts at index 0; CONS is taken up
to PROD and ignored beyond (R19); SYS_SWEVT raises its source 496 to 511 with its code and SYS_SWEVT_DATA and ignores
the others (R35). An event leaves the merger once the GTS is 40,000 counts past its cause, first in order first (R34).
With the queue running, its source let in and a place free, its 16 bytes are written at the place PROD gives, PROD
moves on by one, and no other byte of memory changes; a source that SYS_EVT_EN shuts out writes nothing (R18, R19).
Raising an event keeps the merger in the order of R33: by the GTS of the cause, equal ones by source. -/
def Obligations.EventsReachTheQueueInOrder : Prop :=
  ((∀ (a : Access) (v : Word) (s : State), opens a 2 s = true → s.sys.evqEn = false → bitOf v 31 = true →
     exec (.evqCtlWrite a v) s = .next { s.reply a .ok with
       sys.evqLog2 := bitsOf v 4 0, sys.prod := 0, sys.cons := 0, sys.evqEn := true }) ∧
   (∀ (a : Access) (v : Word) (s : State), opens a 2 s = true → s.sys.evqEn = true →
     exec (.evqCtlWrite a v) s = .next { s.reply a .ok with sys.evqEn := bitOf v 31 }) ∧
   (∀ (a : Access) (v : Word) (s : State), opens a 2 s = true → s.sys.ovfCount = 0 →
     sub32 v.toNat s.sys.cons ≤ sub32 s.sys.prod s.sys.cons →
     exec (.evqConsWrite a v) s = .next { s.reply a .ok with sys.cons := v.toNat }) ∧
   (∀ (a : Access) (v : Word) (s : State), opens a 2 s = true →
     sub32 s.sys.prod s.sys.cons < sub32 v.toNat s.sys.cons →
     exec (.evqConsWrite a v) s = .next (s.reply a .ok)) ∧
   (∀ (a : Access) (v : Word) (s : State), opens a 2 s = true → 496 ≤ bitsOf v 8 0 →
     exec (.swevt a v) s =
       .next (raise (bitsOf v 8 0) (bitsOf v 23 16) s.sys.swevtData.toNat (s.reply a .ok))) ∧
   ∀ (a : Access) (v : Word) (s : State), opens a 2 s = true → bitsOf v 8 0 < 496 →
     exec (.swevt a v) s = .next (s.reply a .ok)) ∧
  (∀ (e : Ev) (r : List Ev) (s : State), s.mergerOn = true → s.sys.merger = e :: r → e.gts + 40000 ≤ s.gts →
     s.sys.ovfCount = 0 → s.sys.evqOn = true → s.sys.evqFull = false →
     let at' := s.sys.evqBase.toNat / 16 * 16 + 16 * (s.sys.prod % 2 ^ s.sys.evqLog2)
     (s.sys.letsIn e.src = true → s.busVerdict 0x2D false true at' 16 = .ok →
       ∃ t, exec .eventQueueWrite s = .next t ∧ t.sys.prod = (s.sys.prod + 1) % 2 ^ 32 ∧ t.sys.merger = r ∧
         t.mem = Memory.setMany s.mem at' (evqBytes e (outOfOrder s e)) ∧ t.gts = s.gts ∧ t.hri = s.hri) ∧
     (s.sys.letsIn e.src = false →
       ∃ t, exec .eventQueueWrite s = .next t ∧ t.sys.prod = s.sys.prod ∧ t.sys.merger = r ∧ t.mem = s.mem)) ∧
  ∀ (e : Ev) (s : State), s.mergerOn = true →
    s.sys.merger.Pairwise (fun a b => b.before a = false) →
    (raiseEv e s).sys.merger.Pairwise (fun a b => b.before a = false) ∧
      (raiseEv e s).sys.merger.Perm (e :: s.sys.merger)

/-- R18: LOG2 and SYS_EVQ_BASE are taken only while EN is 0; EN 1 with LOG2 outside 6 to 16 leaves the queue disabled
with EVQ_ERR set; with EN 0 an event that leaves the merger is neither queued nor counted in SYS_EVQ_LOST, and the
recorder receives it as ever. -/
def Obligations.TheDisabledQueueTakesNothing : Prop :=
  (∀ (a : Access) (v : Word) (s : State), opens a 2 s = true →
    (s.sys.evqEn = false → ∃ t, exec (.evqCtlWrite a v) s = .next t ∧ t.sys.evqLog2 = bitsOf v 4 0 ∧
      t.sys.evqEn = bitOf v 31 ∧ t.mem = s.mem) ∧
    (s.sys.evqEn = true → ∃ t, exec (.evqCtlWrite a v) s = .next t ∧ t.sys.evqLog2 = s.sys.evqLog2 ∧
      t.sys.evqEn = bitOf v 31 ∧ t.mem = s.mem)) ∧
  (∀ (a : Access) (v : BitVec 64) (s : State), opens a 2 s = true →
    let u := s.reply a .ok
    (s.sys.evqEn = false →
      exec (.registerWrite a 0x0800_0020 false v) s =
        .next { u with sys.evqBase := setLo s.sys.evqBase (lo32 v &&& (0xFFFF_FFF0 : Word)) } ∧
      exec (.registerWrite a 0x0800_0024 false v) s =
        .next { u with sys.evqBase := setHi s.sys.evqBase (lo32 v) }) ∧
    (s.sys.evqEn = true →
      exec (.registerWrite a 0x0800_0020 false v) s = .next u ∧
      exec (.registerWrite a 0x0800_0024 false v) s = .next u)) ∧
  (∀ s : State, s.sys.evqEn = true → s.sys.evqLog2 < 6 ∨ 16 < s.sys.evqLog2 →
    s.sys.evqOn = false ∧ bitOf (sysStatus s) 11 = true) ∧
  ∀ (e : Ev) (r : List Ev) (s : State), s.mergerOn = true → s.sys.merger = e :: r → e.gts + 40000 ≤ s.gts →
    s.sys.evqOn = false → ∃ t, exec .eventQueueWrite s = .next t ∧ t.sys.merger = r ∧
      t.sys.prod = s.sys.prod ∧ t.sys.evqLost = s.sys.evqLost ∧ t.mem = s.mem ∧
      t.recorder = (recordEvent e (outOfOrder s e) s).recorder

/-- PWR_PD_REQ takes only the bits of PD5, 6, 8, 9, 11 and 12; a change takes effect only at a later tick; then the
domain switches to what its bit asks, on by counting as on from then, off by isolation first, and a domain that is not
optional never switches (R353). A reset of a core whose domain is on starts a new epoch of it, and of no other
endpoint (R72); frees every piton it owns (R90); and leaves no mailbox POSTED towards it (R82). DBG_EN's level is what
the debug port's transactions depend on, and changes nothing else (R454). -/
def Obligations.DomainsCoresAndDebugPort : Prop :=
  ((∀ (a : Access) (v : Word) (s : State), opens a 1 s = true → v &&& (0x0000_1B60 : Word) ≠ s.pwr.pdReq →
     exec (.pdReqWrite a v) s =
       .next { s.reply a .ok with pwr.pdReq := v &&& (0x0000_1B60 : Word), pwr.pdReqT := s.t }) ∧
   (∀ (n : Fin 13) (s : State), inRun s = true → n.val ∈ [5, 6, 8, 9, 11, 12] → s.pwr.pdReqT < s.t →
     bitOf s.pwr.pdReq n.val = false → exec (.domainSwitch n) s = .next (blocksOff n.val (s.setPd n.val false))) ∧
   (∀ (n : Fin 13) (s : State), s.mode = .run → s.start = .ready → n.val ∈ [5, 6, 8, 9, 11, 12] →
     s.pwr.pdReqT < s.t → bitOf s.pwr.pdReq n.val = true → s.pdOn n.val = false →
     exec (.domainSwitch n) s = .next (s.setPd n.val true)) ∧
   ∀ (n : Fin 13) (s : State), n.val ∉ [5, 6, 8, 9, 11, 12] ∨ s.t ≤ s.pwr.pdReqT →
     exec (.domainSwitch n) s = .next s) ∧
  (∀ (k : Fin 8) (s : State), s.pdOn 2 = true → s.pdOn 1 = true →
     ∃ t, exec (.coreReset (.svc k)) s = .next t ∧
       (∀ id, t.epoch id = if id = 1 + k.val then (s.epoch id + 1) % 256 else s.epoch id) ∧
       (∀ p, s.piton p = 1 + k.val → t.piton p = 0) ∧
       ((s.mbx.pitons.map Prod.fst).Nodup → ∀ p, s.piton p ≠ 1 + k.val → t.piton p = s.piton p) ∧
       (∀ m, m < 64 → (s.box m).receiver = 1 + k.val → (t.box m).posted = false) ∧
       t.mem = s.mem ∧ t.hri = s.hri ∧ t.gts = s.gts) ∧
  ∀ (b sec : Bool) (s : State), exec (.debugEnableChange b) s = .next { s with dbgEn := b } ∧
    iniAlive .dbg { s with dbgEn := b } = (s.pdOn 2 && b) ∧ secureOf { ini := .dbg, sec := sec } = false

/-! ### Host rings and fences (02) -/

/-- A doorbell within its range moves its index and nothing else; outside the range it is ignored and raises DB_RANGE
(R45, R62). A completion doorbell that frees a slot of a STALLED ring makes it ACTIVE and publishes (R53, R59). An
ACTIVE ring with a descriptor waiting and a completion slot to spare fetches the 64 bytes at SQ_HEAD as initiator
0x2F; in sequence and past the checks of R47 it joins the outstanding descriptors, EXP_SEQ and SQ_HEAD move on by one,
and the publish block is written, and no other byte of memory (R38, R43, R47, R50, R52). -/
def Obligations.RingsFetchTheirDescriptors : Prop :=
  (∀ (a : Access) (n : Fin 32) (v : Word) (s : State), opens a 2 s = true →
     let r := s.ring n
     let u := s.reply a .ok
     let x := bitsOf v 15 0
     (r.state = .active → sub16 r.sqHead r.cqHead < r.size →
       sub16 x r.sqTail ≤ (r.size + sub16 r.sqHead r.sqTail) % 65536 →
       exec (.sqDoorbell a n v) s = .next (u.setRing n { r with
         sqTail := x, dbAt := if x = r.sqTail then r.dbAt else some (r.dbAt.getD s.gts) })) ∧
     (r.state = .disabled ∨ (r.size + sub16 r.sqHead r.sqTail) % 65536 < sub16 x r.sqTail →
       exec (.sqDoorbell a n v) s = .next (raise (32 + n) 3 (0 * 65536 + x % 65536) u)) ∧
     (r.state ≠ .disabled → r.state ≠ .stalled → sub16 x r.cqHead ≤ sub16 r.cqTail r.cqHead →
       exec (.cqDoorbell a n v) s = .next (u.setRing n { r with cqHead := x })) ∧
     (r.state = .stalled → x ≠ r.cqHead → sub16 x r.cqHead ≤ sub16 r.cqTail r.cqHead →
       s.busVerdict 0x2F false true (base64 r.cbase) 64 = .ok →
       exec (.cqDoorbell a n v) s = .next ((u.setRing n { r with cqHead := x, state := .active }).setMem
         (Memory.setMany s.mem (base64 r.cbase) (publishBytes { r with cqHead := x, state := .active } s.gts)))) ∧
     (r.state = .disabled ∨ sub16 r.cqTail r.cqHead < sub16 x r.cqHead →
       exec (.cqDoorbell a n v) s = .next (raise (32 + n) 3 (1 * 65536 + x % 65536) u))) ∧
  ∀ (n : Fin 32) (s : State),
    let r := s.ring n
    let src := base64 r.sbase + 64 * (r.sqHead % r.size)
    let o : Op := { words := leWords 16 (Memory.getMany s.mem src 64) }
    r.state = .active → r.sqHead ≠ r.sqTail → sub16 r.sqHead r.cqHead < r.size →
    sub16 (inc16 r.sqHead) r.cqHead < r.size →
    s.busVerdict 0x2F false false src 64 = .ok → s.busVerdict 0x2F false true (base64 r.cbase) 64 = .ok →
    o.seq = r.expSeq →
    ∃ t, exec (.descriptorFetch n) s = .next t ∧
      (t.ring n).sqHead = inc16 r.sqHead ∧ (t.ring n).expSeq = inc16 r.expSeq ∧
      (t.ring n).cqTail = r.cqTail ∧ (t.ring n).state = .active ∧
      (t.ring n).ops = r.ops ++ [(hriCheck s r o).elim o fun st => endedOp o st s.gts] ∧
      t.mem = Memory.setMany s.mem (base64 r.cbase) (publishBytes (t.ring n) s.gts) ∧
      (∀ k, k ≠ n.val → t.ring k = s.ring k) ∧ t = { s with hri := t.hri, mem := t.mem }

/-- Completions are posted in fetch order (R40): the oldest descriptor, once it is done, has its 32-byte entry written
at CQ_TAIL, CQ_TAIL moves on by one, and then the publish block is written, and no other byte (R41, R43); while it is
not done nothing is posted, whatever stands behind it. An entry that asks for it raises the ring's COMPLETION event
(R62). A refused ring write is kept with its ring in HALTED_FENCE: the completion entry is held, CQ_TAIL and the
outstanding descriptors stay, FENCE_HALT is raised, and no byte of memory changes (R53, R56). -/
def Obligations.CompletionsPostInFetchOrder : Prop :=
  (∀ (n : Fin 32) (o : Op) (rest : List Op) (s : State),
     let r := s.ring n
     let at' := base64 r.cbase + 64 + 32 * (r.cqTail % r.size)
     r.ops = o :: rest → o.orphan = false → r.state = .active ∨ r.state = .stalled ∨ r.state = .haltedSeq →
     (o.stage = .done → s.busVerdict 0x2F false true at' 32 = .ok →
       s.busVerdict 0x2F false true (base64 r.cbase) 64 = .ok →
       ∃ t, exec (.completionPost n) s = .next t ∧
         t.ring n = { r with cqTail := inc16 r.cqTail, ops := rest } ∧ (∀ k, k ≠ n.val → t.ring k = s.ring k) ∧
         t.mem = Memory.setMany (Memory.setMany s.mem at' (entryBytes r o)) (base64 r.cbase)
           (publishBytes (t.ring n) s.gts) ∧
         t.sys = (if o.evt then raiseAt o.doneAt (32 + n) 1 (o.status * 65536 + o.seq) s else s).sys ∧
         t = { s with hri := t.hri, mem := t.mem, sys := t.sys, recorder := t.recorder, upd := t.upd }) ∧
     (o.stage ≠ .done → exec (.completionPost n) s = .next s)) ∧
  ∀ (n : Fin 32) (o : Op) (rest : List Op) (s : State),
    let r := s.ring n
    r.ops = o :: rest → o.orphan = false → r.state = .active → o.stage = .done →
    s.busVerdict 0x2F false true (base64 r.cbase + 64 + 32 * (r.cqTail % r.size)) 32 = .refused →
    ∃ t, exec (.completionPost n) s = .next t ∧ (t.ring n).state = .haltedFence ∧ (t.ring n).held = some .entry ∧
      (t.ring n).haltFrom = .active ∧ (t.ring n).cqTail = r.cqTail ∧ (t.ring n).ops = r.ops ∧ t.mem = s.mem

/-- A descriptor out of sequence halts its ring: HALTED_SEQ, SEQ_GAP, SEQ_HALT raised with the number expected and the
number found, and EXP_SEQ stays (R50, R53). Out of a halt (R51, R57): RESYNC in HALTED_SEQ takes EXP_SEQ and SQ_TAIL
and goes on; ABANDON in HALTED_FENCE disables the ring at once without a completion, what a service has begun running
on to the boundary; in any other state it is refused with DB_RANGE. -/
def Obligations.SequenceGapHaltsTheRing : Prop :=
  (∀ (n : Nat) (o : Op) (s : State), o.seq ≠ (s.ring n).expSeq →
     enlist n o s = raise (32 + n) 2 ((s.ring n).expSeq * 65536 + o.seq)
       (s.setRing n { s.ring n with
         state := .haltedSeq, gapSeq := o.seq, dbAt := none
         ops := (s.ring n).ops ++ [{ o with stage := .done, status := stSeqGap, doneAt := s.gts }] })) ∧
  ∀ (a : Access) (n : Fin 32) (v : Word) (s : State), opens a 2 s = true →
    let r := s.ring n
    let u := s.reply a .ok
    let r' : Ring := { r with expSeq := bitsOf v 31 16, sqTail := bitsOf v 15 0, state := .active }
    (r.state = .haltedSeq → sub16 (bitsOf v 15 0) r.sqHead ≤ r.size → sub16 r.sqHead r.cqHead < r.size →
      s.busVerdict 0x2F false true (base64 r.cbase) 64 = .ok →
      exec (.ringResync a n v) s = .next ((u.setRing n r').setMem
        (Memory.setMany s.mem (base64 r.cbase) (publishBytes r' s.gts)))) ∧
    (r.state ≠ .haltedSeq → r.state ≠ .haltedFence →
      exec (.ringResync a n v) s = .next (raise (32 + n) 3 (2 * 65536 + bitsOf v 15 0 % 65536) u)) ∧
    (r.state = .haltedFence →
      ∃ t, exec (.ringAbandon a n v) s = .next t ∧ (t.ring n).state = .disabled ∧ (t.ring n).en = false ∧
        (∀ o ∈ (t.ring n).ops, o.orphan = true ∧ o.stage = .started) ∧ (t.ring n).cqTail = r.cqTail ∧
        (t.ring n).seqReg = r.expSeq ∧ t.mem = s.mem ∧
        t.sys = (raise (32 + n) 6 0xFFFF_FFFF s).sys) ∧
    (r.state ≠ .haltedFence → bitOf v 0 = false → exec (.ringAbandon a n v) s =
      .next (raise (32 + n) 3 (3 * 65536 + (setBit v 1 true).toNat % 65536) u))

/-- Enabling a ring (R54): EN is refused with ERR 1 to 4 in that order, the ring staying DISABLED; else the ring takes
its placement registers into use and is in INIT with its indices 0 and EXP_SEQ from HRI_RQ_SEQ; what an ABANDON of
this tick has left running on the same queue runs on to the boundary (R57). The completed zeroing makes it ACTIVE, its
publish block and entries zero and the publish block then written (R42, R53). Draining (R53, R55): EN 0 and FLUSH
begin it, with the descriptors that no service has begun FLUSHED and XFER 0; at the next tick boundary the started
ones stop; when the last has been posted the ring goes back, or with EN 0 becomes DISABLED with HRI_RQ_SEQ from
EXP_SEQ (R50) and RING_DISABLED raised with the count of the flushed. -/
def Obligations.RingsEnableAndDrain : Prop :=
  ((∀ (a : Access) (n : Fin 32) (v : Word) (s : State), opens a 2 s = true → (s.ring n).en = false →
     (s.ring n).state = .disabled →
     let g : RingRegs := { (s.ring n).regs with svc := bitsOf v 23 16, queue := bitsOf v 10 8, log2 := bitsOf v 3 0 }
     let u := (s.reply a .ok).setRing n { s.ring n with regs := g }
     (enableCheck n u = 0 →
       exec (.ringEnable a n v) s = .next (u.setRing n { u.ring n with
         sbase := g.sbase, cbase := g.cbase, wbase := g.wbase, wsize := g.wsize, svc := g.svc, queue := g.queue,
         log2 := g.log2, en := true, err := 0, state := .init, expSeq := (s.ring n).seqReg % 65536,
         sqHead := 0, sqTail := 0, cqHead := 0, cqTail := 0,
         ops := if (s.ring n).svc = g.svc ∧ (s.ring n).queue = g.queue then (s.ring n).ops.filter Op.orphan else []
         held := none, drainPend := false, flushed := 0, dbAt := none })) ∧
     (enableCheck n u ≠ 0 →
       exec (.ringEnable a n v) s =
         .next (u.setRing n { u.ring n with en := false, err := enableCheck n u }))) ∧
   ∀ (n : Fin 32) (s : State), (s.ring n).state = .init → (s.ring n).sqTail = (s.ring n).sqHead →
     (∀ k, k < (s.ring n).blocks → s.busVerdict 0x2F false true (base64 (s.ring n).cbase + 64 * k) 64 = .ok) →
     ∃ t, exec (.ringInitComplete n) s = .next t ∧ t.ring n = { s.ring n with state := .active } ∧
       (∀ k, k ≠ n.val → t.ring k = s.ring k) ∧
       t.mem = Memory.setMany (Memory.setMany s.mem (base64 (s.ring n).cbase)
         (List.replicate (64 * (s.ring n).blocks) 0)) (base64 (s.ring n).cbase) (publishBytes (t.ring n) s.gts) ∧
       t = { s with hri := t.hri, mem := t.mem }) ∧
  ∀ (a : Access) (n : Fin 32) (v : Word) (s : State),
    let r := s.ring n
    let u := s.reply a .ok
    let d : Ring := { r with
      state := .draining, preDrain := r.state, drainTail := r.sqTail, drainAt := s.gts, flushed := 0, dbAt := none,
      ops := flushWaiting r s.gts }
    (opens a 2 s = true → r.state = .active ∨ r.state = .stalled → r.en = true →
      s.busVerdict 0x2F false true (base64 r.cbase) 64 = .ok →
      exec (.ringDisable a n v) s = .next ((u.setRing n { d with en := false }).setMem
        (Memory.setMany s.mem (base64 r.cbase) (publishBytes { d with en := false } s.gts))) ∧
      (bitOf v 1 = false → exec (.ringFlush a n v) s = .next ((u.setRing n d).setMem
        (Memory.setMany s.mem (base64 r.cbase) (publishBytes d s.gts))))) ∧
    (r.state = .draining → r.drainAt / tickLen < s.t → (∀ o ∈ r.ops, o.orphan = false) →
      (∀ c, stageOp s = some c → c.ring ≠ n.val) →
        exec (.drainBoundaryStop n) s = .next (s.setRing n { r with ops := r.ops.map fun o =>
        if o.stage = .started then
          { o with stage := .done, status := stFlushed, r0 := 0, r1 := 0,
                   doneAt := boundaryOf (r.drainAt / tickLen + 1) }
        else o })) ∧
    (r.state = .draining → r.sqHead = r.drainTail → r.ops = [] → r.en = false →
      s.busVerdict 0x2F false true (base64 r.cbase) 64 = .ok →
      ∃ t, exec (.drainComplete n) s = .next t ∧
        t.ring n = { r with state := .disabled, en := false, seqReg := r.expSeq, drainPend := false, held := none } ∧
        t.mem = Memory.setMany s.mem (base64 r.cbase) (publishBytes (t.ring n) s.gts) ∧
        t.sys = (raise (32 + n) 6 r.flushed s).sys ∧ t.gts = s.gts) ∧
    (r.state = .draining → r.sqHead = r.drainTail → r.ops = [] → r.en = true →
      r.preDrain = .active ∨ r.preDrain = .stalled → sub16 r.sqHead r.cqHead < r.size →
      s.busVerdict 0x2F false true (base64 r.cbase) 64 = .ok →
      exec (.drainComplete n) s = .next ((s.setRing n { r with state := .active }).setMem
        (Memory.setMany s.mem (base64 r.cbase) (publishBytes { r with state := .active } s.gts)))) ∧
    (r.state = .draining → r.sqHead ≠ r.drainTail ∨ (∃ o ∈ r.ops, o.orphan = false) →
      exec (.drainComplete n) s = .next s)

/-- A 64-bit write of FEN_APPLY by a secure host core makes every selected fence's live values its staged values, in
one step, leaves every other live fence and all staged values, and raises source 492 with the number selected (R67,
R68); a high-half write applies with the low half this initiator has latched; a low-half write alone only latches.
From any other initiator the write is discarded with source 490 (R66). -/
def Obligations.FenceApplyTakesTheStagedValues : Prop :=
  ∀ (a : Access) (v : BitVec 64) (w : Word) (s : State), opens a 2 s = true →
    (mayWriteFences a = true →
      (∃ t, exec (.fenceApply a true v) s = .next t ∧
        (∀ n, n < 64 → t.liveFence n = if v.getLsbD n then s.staged n else s.liveFence n) ∧
        t.fen.staged = s.fen.staged ∧ t.mem = s.mem ∧ t.hri = s.hri ∧
        t.sys = (raise 492 1 ((List.range 64).filter fun n => v.getLsbD n).length s).sys) ∧
      (∃ t, exec (.fenceApply a false v) s = .next t ∧
        (∀ n, n < 64 → t.liveFence n =
          if (lo32 v ++ Tab.get 0 s.fen.low a.ini.id).getLsbD n then s.staged n else s.liveFence n) ∧
        t.fen.staged = s.fen.staged ∧ t.mem = s.mem) ∧
      exec (.fenceApplyLowLatch a w) s =
        .next { s.reply a .ok with fen.low := Tab.put s.fen.low a.ini.id w }) ∧
    (mayWriteFences a = false →
      exec (.fenceApply a true v) s = .next (raise 490 1 (0 * 65536 + a.ini.id) (s.reply a .ok)) ∧
      exec (.fenceApplyLowLatch a w) s = .next (raise 490 1 (0 * 65536 + a.ini.id) (s.reply a .ok)))

/-! ### Mailboxes and pitons (03) -/

/-- R78: MBX_CTL.REL is accepted only from RECEIVER while the mailbox is POSTED; a REL from any other initiator is
ignored and raises REFUSED reason 2; a REL on a FREE mailbox is ignored and raises nothing. (A non-secure access to a
secure mailbox is refused before that, R73.) -/
def Obligations.OnlyTheReceiverReleases : Prop :=
  ∀ (a : Access) (m : Fin 64) (s : State), opens a 2 s = true → (m.val < 32 → secureOf a = true) →
    let b := s.box m
    let u := s.reply a .ok
    (b.posted = true → a.ini.id = b.receiver → ∃ t, exec (.mbxRel a m) s = .next t ∧
      t.box m = { b with posted := false, flushedLast := false, data := [] } ∧
      (∀ k, k ≠ m.val → t.box k = s.box k) ∧ t.mbx.txdone = setBit64 s.mbx.txdone m ∧
      t.mem = s.mem ∧ t.hri = s.hri ∧
      t.sys = (raise (65 + 2 * m) 1 (b.receiver * 256 + s.epoch b.receiver) s).sys) ∧
    (b.posted = true → a.ini.id ≠ b.receiver →
      exec (.mbxRel a m) s = .next (raise (65 + 2 * m) 3 (a.ini.id * 2 ^ 24 + 2) u)) ∧
    (b.posted = false → exec (.mbxRel a m) s = .next u)

/-- A mailbox carries one message (R73 to R77): GO by SENDER to a receiver whose domain is on posts it with the epochs
of both ends, and each check of R76 that fails is answered as it says, the mailbox staying FREE; MBX_CFG binds a FREE
mailbox and is ignored on a POSTED one; SENDER alone fills it while FREE, and SENDER and RECEIVER alone read its data,
while anyone reads its header. (A write by another initiator while POSTED has reason 2: the model's choice, log 172.)
-/
def Obligations.MailboxCarriesOneMessage : Prop :=
  ∀ (a : Access) (m : Fin 64) (s : State), opens a 2 s = true →
    let b := s.box m
    let u := s.reply a .ok
    let refused (reason : Nat) : State := raise (65 + 2 * m) 3 (a.ini.id * 2 ^ 24 + reason) u
    ((m.val < 32 → secureOf a = true) →
      (b.posted = false → isEndpoint b.sender = true → isEndpoint b.receiver = true → a.ini.id = b.sender →
        s.pdOn (endpointDomain b.receiver) = true → (b.pointer = true ∨ b.len ≤ 48) →
        ∃ t, exec (.mbxGo a m) s = .next t ∧
          t.box m = { b with
            posted := true, flushedLast := false, sep := s.epoch b.sender, rep := s.epoch b.receiver } ∧
          (∀ k, k ≠ m.val → t.box k = s.box k) ∧ t.mem = s.mem ∧ t.hri = s.hri ∧
          t.sys = (raise (64 + 2 * m) 1
            (b.sender * 2 ^ 24 + s.epoch b.sender * 65536 + oneIf b.pointer * 256 + b.len) s).sys) ∧
      (b.posted = true → exec (.mbxGo a m) s = .next (refused 3)) ∧
      (b.posted = false → isEndpoint b.sender = false ∨ isEndpoint b.receiver = false →
        exec (.mbxGo a m) s = .next (refused 5)) ∧
      (b.posted = false → isEndpoint b.sender = true → isEndpoint b.receiver = true → a.ini.id ≠ b.sender →
        exec (.mbxGo a m) s = .next (refused 2)) ∧
      (b.posted = false → isEndpoint b.sender = true → isEndpoint b.receiver = true → a.ini.id = b.sender →
        s.pdOn (endpointDomain b.receiver) = false →
        exec (.mbxGo a m) s = .next ((raise (65 + 2 * m) 2
          (b.receiver * 256 + endpointDomain b.receiver) u).reply a .error)) ∧
      (b.posted = false → isEndpoint b.sender = true → isEndpoint b.receiver = true → a.ini.id = b.sender →
        s.pdOn (endpointDomain b.receiver) = true → b.pointer = false → 48 < b.len →
        exec (.mbxGo a m) s = .next (refused 4)) ∧
      (∀ v, b.posted = false →
        exec (.mbxCfgWrite a m v) s = .next (u.setBox m { b with cfg := v &&& (0xC000_FFFF : Word) })) ∧
      (∀ v, b.posted = true → exec (.mbxCfgWrite a m v) s = .next u) ∧
      (∀ v, b.posted = false → a.ini.id = b.sender →
        exec (.mbxDataAccess a m 0 (some v)) s =
          .next (u.setBox m { b with pointer := bitOf v 29, len := bitsOf v 5 0 }) ∧
        ∀ k : Fin 13, k ≠ 0 → exec (.mbxDataAccess a m k (some v)) s =
          .next (u.setBox m { b with data := Tab.put b.data (k - 1) v })) ∧
      (∀ (k : Fin 13) (v : Word), b.posted = true ∨ a.ini.id ≠ b.sender →
        exec (.mbxDataAccess a m k (some v)) s =
          .next ((refused (if a.ini.id = b.sender then 3 else 2)).reply a .error)) ∧
      exec (.mbxDataAccess a m 0 none) s = .next (s.replyWord a (hdrWord s m)) ∧
      ∀ k : Fin 13, k ≠ 0 →
        (a.ini.id = b.sender ∨ a.ini.id = b.receiver →
          exec (.mbxDataAccess a m k none) s = .next (s.replyWord a (Tab.get 0 b.data (k - 1)))) ∧
        (a.ini.id ≠ b.sender → a.ini.id ≠ b.receiver →
          exec (.mbxDataAccess a m k none) s =
            .next ((raise (65 + 2 * m) 3 (a.ini.id * 2 ^ 24 + 2) s).reply a .error))) ∧
    (m.val < 32 → secureOf a = false → exec (.mbxGo a m) s = .next ((refused 1).reply a .error) ∧
      exec (.mbxRel a m) s = .next ((refused 1).reply a .error) ∧
      ∀ v, exec (.mbxCfgWrite a m v) s = .next ((refused 1).reply a .error))

/-- A piton has one owner. Read in one cycle, a free piton goes to the reader of the lowest ID, which reads zero;
every other reads TAKEN with that ID; a taken piton answers its owner's ID to all and stays (R87, R88). Only the
owner's write of its own ID frees it; any other write is ignored and raises source 491 (R89). A 64-bit read gets an
error and acquires nothing (R87). -/
def Obligations.PitonsHaveOneOwner : Prop :=
  (∀ (k : Fin 64) (readers : List Access) (w : Access) (s : State), w ∈ readers →
    (∀ r ∈ readers, opens r 2 s = true ∧ w.ini.id ≤ r.ini.id) →
    ∃ t, exec (.pitonAcquire k readers false) s = .next t ∧ (∀ p, p ≠ k.val → t.piton p = s.piton p) ∧
      t.mem = s.mem ∧ t.sys = s.sys ∧
      (s.piton k = 0 → t.piton k = w.ini.id ∧ t.resp.head? = some (w.ini.id, .data 0) ∧
        ∀ e ∈ t.resp.tail, e.2 = .data ((wordOf (0x8000_0000 + w.ini.id)).setWidth 64)) ∧
      (s.piton k ≠ 0 → t.piton k = s.piton k ∧
        ∀ e ∈ t.resp, e.2 = .data ((wordOf (0x8000_0000 + s.piton k)).setWidth 64))) ∧
  (∀ (a : Access) (k : Fin 64) (s : State), opens a 2 s = true →
    exec (.pitonAcquire k [a] true) s =
      .next ({ s with mbx.viol := min (s.mbx.viol + 1) max32, resp := [(a.ini.id, .error)] })) ∧
  ∀ (a : Access) (k : Fin 64) (v : Word) (s : State), opens a 2 s = true →
    (s.piton k ≠ 0 → a.ini.id = s.piton k → v.toNat = s.piton k →
      exec (.pitonRelease a k v) s = .next { s.reply a .ok with mbx.pitons := Tab.put s.mbx.pitons k 0 }) ∧
    (s.piton k = 0 ∨ a.ini.id ≠ s.piton k ∨ v.toNat ≠ s.piton k →
      exec (.pitonRelease a k v) s = .next (raise 491 1
        (a.ini.id * 2 ^ 24 + s.piton k * 65536 + bitsOf v 7 0 * 256 + k) (s.reply a .ok)))

/-! ### The Belay control engine (04) -/

/-- Contexts are loaded, started, stopped, cleared and patched by their ring operations (R120 to R125), each only in
the states R93 gives it: a load fills the slots from the buffer, a start arms them (or shadows them on a second), a
stop and a patch are committed and take effect at a tick boundary, which then completes them; BCE_CTL.EN 0 stops all
(R93). A stop that has come due: the context is LOADED again, its cause cleared, and with mode SAFE its posture output
is still to be written once (R93, R122); the others stay. -/
def Obligations.ContextsLoadStartAndStop : Prop :=
  ((∀ (n : Fin 32) (c : OpRef) (s : State), c.ring = n.val →
     let u := bceSettle s
     let first := bitsOf (c.op.word 6) 6 0
     let k := bitsOf (c.op.word 7) 7 0
     let x := u.bctx first
     let t := c.op.word64 10
     let cs := ctxMask c.op
     (takes 4 0 1 .serial c s = true → 0 < k → c.op.len = 192 * k → first + k ≤ 128 →
       (∀ i, i < k → (u.bctx (first + i)).state.beyondLoaded = false) →
       bufferOpen 0x20 false c.op.addr c.op.len u = true →
       let batch : Tab BCtx := (List.range k).map fun i =>
         (first + i, { state := .loaded, cfg := maskCfg (leWords 48 ((bufferOf c u).drop (192 * i))) })
       batchCheck batch u batch = none →
       exec (.bceCtxLoad n) s = .next (finishOp c stOk c.op.len (wordOf k) 0
         (batch.foldl (fun s e => s.setBctx e.1 e.2) u))) ∧
     (takes 4 0 2 .serial c s = true → (t = 0 ∨ u.t < t) → u.bce.en = true →
       (u.rtl.role = .second → u.bce.replEn = true) →
       (∀ j ∈ cs, (u.bctx j).state = .loaded) →
       laneFault u cs = none → destFault u cs = none → cascadeFault u cs = none →
       exec (.bceCtxStart n) s = .next (finishOp c stOk 0 (wordOf (max t (u.t + 1))) (wordOf cs.length)
         (cs.foldl (fun v j => startContext (max t (u.t + 1)) (u.rtl.role == .second) j v) u))) ∧
     (takes 4 0 3 .serial c s = true → (∀ j ∈ cs, (u.bctx j).state.beyondLoaded = true) →
       exec (.bceCtxStop n) s = .next
         (let v := cs.foldl (fun v j => v.setBctx j { v.bctx j with
           stopAt := some (v.t + 1, bitOf (c.op.word 10) 0 || ((v.bctx j).stopAt.map (·.2)).getD false) }) u
         startOp c [v.t + 1, cs.length] v)) ∧
     (takes 4 0 6 .serial c s = true → x.state = .run →
       exec (.bceCtxClear n) s = .next
         (let y : BCtx := { x with sat := false, feActive := false, cause := 0 }
         finishOp c stOk 0 y.status 0 (u.setBctx first y))) ∧
     (takes 4 0 6 .serial c s = true → x.state = .posture → (x.src 3).1 ≠ 1 → x.cause ≠ 4 →
       exec (.bceCtxClear n) s = .next
         (let y : BCtx := { x with sat := false, feActive := false, cause := 0, clearReq := true }
         finishOp c stOk 0 y.status 0 (u.setBctx first y))) ∧
     (takes 4 0 6 .serial c s = true → x.state ≠ .run → x.state ≠ .posture →
       exec (.bceCtxClear n) s = .next (failOp c stBusy 0 u)) ∧
     (takes 4 0 7 .serial c s = true →
       let w := bitsOf (c.op.word 7) 5 0
       let count := bitsOf (c.op.word 8) 5 0
       let at' := c.op.word64 9
       let patch := (startTick u at', w, (leWords count (bufferOf c u)).zipIdx.map fun e => e.1 &&& cfgMask (w + e.2))
       c.op.len = 4 * count → 0 < count → (at' = 0 ∨ u.t < at') → x.state ≠ .empty → 10 ≤ w → w + count ≤ 30 →
       bufferOpen 0x20 false c.op.addr c.op.len u = true →
       cfgCheck (patchDue (startTick u at') { x with patches := x.patches ++ [patch] }) = none →
       exec (.bceCtxPatch n) s = .next (startRead c [startTick u at']
         (u.setBctx first { x with patches := x.patches ++ [patch] })))) ∧
   (∀ (c : OpRef) (s : State),
     let t := c.op.aux.getD 0 0
     let u := bceSettle s
     (u.opOf 4 0 (isStarted 3) = some c → t ≤ u.t →
       exec .bceStopEffect s = .next (finishAt (boundaryOf t) c stOk c.op.xfer (wordOf t)
         (wordOf (c.op.aux.getD 1 0)) u)) ∧
     (u.opOf 4 0 (isStarted 7) = some c → t ≤ u.t →
       exec .bcePatchEffect s = .next (finishAt (boundaryOf t) c stOk c.op.xfer (wordOf t)
         (wordOf (c.op.aux.getD 1 0)) u))) ∧
   ∀ (a : Access) (v : Word) (s : State), opens a 2 s = true →
     let u := bceSettle (s.reply a .ok)
     let beyond := u.bce.ctx.any fun e => e.2.state.beyondLoaded
     let w : State := { u with bce.en := bitOf v 31, bce.replEn := if beyond then u.bce.replEn else bitOf v 30 }
     (bitOf v 31 = true → exec (.bceCtlWrite a v) s = .next w) ∧
     (bitOf v 31 = false → exec (.bceCtlWrite a v) s = .next (bceStopAll w))) ∧
  ∀ (n t : Nat) (safe : Bool) (s : State),
    let r := stopContext n t safe s
    (r.bctx n).state = .loaded ∧ (r.bctx n).cause = 0 ∧ (r.bctx n).stopAt = none ∧
    (r.bctx n).safeAt = (if safe then some t else none) ∧ (r.bctx n).cfg = (s.bctx n).cfg ∧
    (∀ k, k ≠ n → r.bctx k = s.bctx k) ∧ r.mem = s.mem ∧ r.hri = s.hri

/-- CTX_READ and CTX_TRACE store a context's words into the buffer and change no context (R123); SIG_WRITE publishes
its pairs, visible from the next cycle on, and SIG_READ stores the entries asked for (R99, R126). -/
def Obligations.ContextsAndSignalsAreReadAndWritten : Prop :=
  ∀ (n : Fin 32) (c : OpRef) (s : State), c.ring = n.val →
    let u := bceSettle s
    let x := u.bctx (bitsOf (c.op.word 6) 6 0)
    let y := s.bctx (bitsOf (c.op.word 6) 6 0)
    (takes 4 0 4 .serial c s = true → c.op.len = 64 → bufferOpen 0x20 true c.op.addr 64 u = true →
      exec (.bceCtxRead n) s = .next (finishOp c stOk 64 x.status (wordOfInt x.u)
        (stored c (wordBytes x.stateWords) u))) ∧
    (takes 4 0 4 .serial c s = true → c.op.len = 256 → bufferOpen 0x20 true c.op.addr 256 u = true →
      exec (.bceCtxRead n) s = .next (finishOp c stOk 256 x.status (wordOfInt x.u)
        (stored c (wordBytes (x.cfgWords ++ x.stateWords)) u))) ∧
    (takes 4 0 4 .serial c s = true → c.op.len ≠ 64 → c.op.len ≠ 256 →
      exec (.bceCtxRead n) s = .next (failOp c stLen 0 u)) ∧
    (takes 4 0 5 .serial c s = true → c.op.len = 3840 →
      let bs := wordBytes y.trace.flatten ++ List.replicate (3840 - (wordBytes y.trace.flatten).length) 0
      bufferOpen 0x20 true c.op.addr bs.length s = true →
      exec (.bceCtxTrace n) s = .next (finishOp c stOk bs.length (wordOf y.trace.length) 0 (stored c bs s))) ∧
    (takes 4 1 0x10 .serial c s = true →
      let pairs := (List.range 5).filterMap (sigPair c.op)
      (∀ p ∈ pairs, 0x300 ≤ p.1) →
      exec (.sigWrite n) s = .next (finishOp c stOk 0 (wordOf pairs.length) 0
        (pairs.foldl (fun v p => publishLate (v.gts + 1) p.1 p.2 v.gts v) s))) ∧
    (takes 4 1 0x11 .serial c s = true →
      let first := bitsOf (c.op.word 6) 9 0
      let k := bitsOf (c.op.word 7) 10 0
      let v := settleSignals (s.gts + 1) s
      let bs := (List.range k).flatMap fun i => sigBytes (v.signal (first + i))
      0 < k → first + k ≤ 1024 → 16 * k ≤ c.op.len → bufferOpen 0x20 true c.op.addr bs.length s = true →
      exec (.sigRead n) s = .next (finishOp c stOk bs.length (wordOf k) 0 (stored c bs s)))

/-- A latch phase releases what is due at its start and then evaluates every due context on what is visible then, its
output held for one phase (R95, R103, R104); the release at the start of a phase writes the outputs due. Neither does
anything at an instant that has passed. An evaluation changes its own context alone: it holds the new output for the
instant one phase later, and an ARMED context is RUN from its first latch on, or in POSTURE where its evaluation says
so (R93, R104). -/
def Obligations.LatchAndReleaseKeepTheirInstants : Prop :=
  (∀ (p : Fin 100) (s : State), s.tick.running = true →
     let g := boundaryOf s.t + p * phaseLen
     let q := (p.val + 1) % 100
     let due := if p.val = 99 then s.t + 1 else s.t
     let v := settleSignals g (releaseAll g (s.advance g))
     (s.gts < g + phaseLen →
       exec (.bceLatch p) s = .next ((bceNumbers.filter fun c => latches (v.bctx c) g s.t due q).foldl
         (fun w c => latchOne v g due q c w) v) ∧
       exec (.bceOutputRelease p) s = .next (releaseAll g (s.advance g))) ∧
     (g + phaseLen ≤ s.gts →
       exec (.bceLatch p) s = .next s ∧ exec (.bceOutputRelease p) s = .next s)) ∧
  ∀ (s0 s : State) (g due q n : Nat),
    let x := s.bctx n
    let x1 : BCtx := if x.state == .armed then { x with state := .run } else x
    let y := (evaluate x1 (latchOf s0 n x1 g) due (q / 10)).1
    let t := latchOne s0 g due q n s
    t.bctx n = { y with out := some (y.u, g + phaseLen, y.state == .posture) } ∧
    (∀ k, k ≠ n → t.bctx k = s.bctx k) ∧ t.mem = s.mem ∧ t.hri = s.hri ∧ t.lsw = s.lsw ∧ t.gts = s.gts

/-! ### Field inputs and sensor supplies (05) -/

/-- A configuration register of an input takes its writable bits while the input is disabled and the value lies in
range and on a free place of its converter; a write refused leaves it and names register and reason in FIN_CFG_ERR
(R130 to R132). What is written is in effect from the next tick boundary on. -/
def Obligations.InputConfigurationIsCheckedWhole : Prop :=
  ∀ (a : Access) (w : Word) (s : State), opens a 2 s = true →
    let u := s.reply a .ok
    (∀ n : Fin 64,
      let v := w &&& ainMask
      (enBit (s.ain n).cfg = false ∨ setBit v 31 true = setBit (s.ain n).cfg 31 true → ainInRange v = true →
        (enBit v = true → enBit (s.ain n).cfg = false → ainCollides n v s = false) →
        exec (.finCfgWrite a (0x100 + 4 * n) w) s =
          .next (u.setAin n { s.ain n with cfg := v, again := (s.ain n).again || !enBit v })) ∧
      (enBit (s.ain n).cfg = true → setBit v 31 true ≠ setBit (s.ain n).cfg 31 true →
        exec (.finCfgWrite a (0x100 + 4 * n) w) s =
          .next { u with fin.cfgErr := wordOf ((0x100 + 4 * n) * 65536 + 3) }) ∧
      (enBit (s.ain n).cfg = false → ainInRange v = false →
        exec (.finCfgWrite a (0x100 + 4 * n) w) s =
          .next { u with fin.cfgErr := wordOf ((0x100 + 4 * n) * 65536 + 1) }) ∧
      (enBit (s.ain n).cfg = false → ainInRange v = true → enBit v = true → ainCollides n v s = true →
        exec (.finCfgWrite a (0x100 + 4 * n) w) s =
          .next { u with fin.cfgErr := wordOf ((0x100 + 4 * n) * 65536 + 2) })) ∧
    (∀ n : Fin 24, enBit (s.frq n).cfg = false → frqInRange (w &&& frqMask) = true →
      exec (.finCfgWrite a (0x400 + 4 * n) w) s = .next (u.setFrq n { s.frq n with
        cfg := w &&& frqMask, again := (s.frq n).again || !enBit (w &&& frqMask) })) ∧
    (∀ n : Fin 8, enBit (s.los n).cfg = false → losInRange (w &&& losMask) = true →
      exec (.finCfgWrite a (0x500 + 4 * n) w) s = .next (u.setLos n { s.los n with
        cfg := w &&& losMask, again := (s.los n).again || !enBit (w &&& losMask) })) ∧
    (enBit s.fin.imuCfg = false →
      exec (.finCfgWrite a 0x28 w) s = .next { u with fin.imuCfg := w &&& imuMask })

/-- What the inputs sample. An enabled analog input converts at the instants of its grid alone, and publishes the
code, stamped with the conversion, but for FLT_ACT 1 in fault (R131, R136); a range 3 shunt opens at 30 mA and
reconnects 100 ticks later (R134); a frequency input counts the edges of its polarity after pulses of MINW or more and
publishes at its gate end (R137 to R139); a loss pad counts an impact where its envelope rises above THR behind DEAD
samples below REARM, or one since its enable, and none while the envelope stays at or below THR (R140). The gate's
value (R138): m edges give m / (t_last − t_prev) to the nearest UNIT with the stamp of the last; none for longer than
ZERO_TMO give 0; else nothing; UNIT 3 gives m. LOS_CAPTURE: its checks in the order of R142, then it runs from its
start tick; with its last sample all of them stand in the buffer and it completes with the start tick and their
number; cut short by a disabled pad it ends INCOMPLETE with the bytes written (R142). -/
def Obligations.InputsSampleAndPublish : Prop :=
  ((∀ (n : Fin 64) (g uin vref : Nat) (s : State), (s.ain n).active = true → s.within g = true → finLate g s = false →
     let x := s.ain n
     let v := s.advance g
     let code := ainCode x n g uin vref
     (isConversion x.act g = true →
       ainBad x code vref ((v.sup (bitsOf x.act 27 26)).st == .on) = 0 → x.fault = false →
       exec (.ainConversion n g uin vref) s = .next (publishLate (g + 400) n (wordOf code) g
         (v.setAin n { x with good := min (x.good + 1) 255, bad := 0 }))) ∧
     (isConversion x.act g = true → bitOf x.act 23 = true → x.fault = true →
       ainBad x code vref ((v.sup (bitsOf x.act 27 26)).st == .on) ≠ 0 →
       exec (.ainConversion n g uin vref) s = .next (v.setAin n { x with bad := min (x.bad + 1) 255, good := 0 })) ∧
     (isConversion x.act g = false → exec (.ainConversion n g uin vref) s = .next s)) ∧
   (∀ (n : Fin 64) (s : State),
     ((s.ain n).active = true → bitsOf (s.ain n).act 30 28 = 3 → (s.ain n).shunt = none →
       exec (.ainShuntOpen n) s = .next (s.setAin n { s.ain n with shunt := some s.gts })) ∧
     (∀ g, (s.ain n).shunt = some g → g + 100 * tickLen < boundaryOf (s.t + 1) →
       exec (.ainShuntRetry n) s =
         .next ((s.advance (g + 100 * tickLen)).setAin n { s.ain n with shunt := none })) ∧
     (∀ g, (s.ain n).shunt = some g → boundaryOf (s.t + 1) ≤ g + 100 * tickLen →
       exec (.ainShuntRetry n) s = .next s)) ∧
   (∀ (n : Fin 24) (s : State),
     let x := s.frq n
     (∀ (g pulse : Nat) (falling : Bool), x.active = true → s.within g = true → falling = bitOf x.act 28 →
       bitsOf x.act 23 16 * 40 ≤ pulse →
       exec (.freqEdge n g falling pulse) s = .next ((s.advance g).setFrq n
         { x with cnt := inc32 x.cnt, gate := x.gate + 1, last := some g })) ∧
     (∀ (g pulse : Nat) (falling : Bool), falling ≠ bitOf x.act 28 ∨ pulse < bitsOf x.act 23 16 * 40 →
       exec (.freqEdge n g falling pulse) s = .next s) ∧
     (let e := boundaryOf s.t + bitsOf x.act 6 0 * phaseLen
     x.active = true → (∀ h, x.gateAt = some h → h < e) →
       let y := (s.advance e).setFrq n { x with
         gate := 0, prev := if x.gate = 0 then x.prev else x.last, gateAt := some e }
       exec (.freqGateEnd n) s = .next
         ((gateValue x e).elim y fun p => publishLate (e + 400) (0x40 + n) (wordOf p.1) p.2 y))) ∧
   (∀ (n : Fin 8) (quiet : List Int) (v : Int) (s : State),
     let x := s.los n
     let g := x.fromG + 2000 * quiet.length
     (x.active = true → s.within g = true → bitsOf x.thr 31 16 < losEnvelope x.act v →
       (∀ e ∈ quiet, losEnvelope x.act e < bitsOf x.thr 15 0 ∧ losEnvelope x.act e ≤ bitsOf x.thr 31 16) →
       1 ≤ quiet.length → (if x.struck then bitsOf x.act 7 0 else 1) ≤ quiet.length →
       exec (.losImpact n (quiet ++ [v])) s = .next ((s.advance g).setLos n
         { x with count := x.count + 1, total := inc32 x.total, struck := true, fromG := g + 2000 })) ∧
     ((∀ e ∈ quiet, losEnvelope x.act e ≤ bitsOf x.thr 31 16) → exec (.losImpact n quiet) s = .next s)) ∧
   ∀ (pass : Bool) (s : State), exec (.imuSelfCheck pass) s = .next { s with fin.imuFail := !pass }) ∧
  (∀ (x : Frq) (e l p : Nat),
     (bitsOf x.act 27 26 = 3 → gateValue x e = some (x.gate, e)) ∧
     (bitsOf x.act 27 26 ≠ 3 → 0 < x.gate → x.last = some l → x.prev = some p →
       gateValue x e = some (nearDiv (x.gate * 400000000 * frqScale x.act) (l - p), l)) ∧
     (bitsOf x.act 27 26 ≠ 3 → x.gate = 0 →
       gateValue x e = if bitsOf x.act 15 8 * 10 * tickLen < e - x.last.getD x.enAt then some (0, e) else none) ∧
     (bitsOf x.act 27 26 ≠ 3 → 0 < x.gate → x.prev = none → gateValue x e = none)) ∧
  (∀ (n : Fin 32) (c : OpRef) (s : State), c.ring = n.val → takes 17 0 1 .serial c s = true → 0 < c.op.len →
    let t := c.op.word64 7
    let pad := bitsOf (c.op.word 6) 2 0
    (c.op.len % 2 ≠ 0 ∨ 800000 < c.op.len → exec (.losCapture n) s = .next (failOp c stLen 0 s)) ∧
    (c.op.len % 2 = 0 → c.op.len ≤ 800000 →
      (t ≠ 0 → t ≤ s.t → exec (.losCapture n) s = .next (failOp c stLate 0 s)) ∧
      ((t = 0 ∨ s.t < t) →
        exec (.losCapture n) s = .next (if enBit (s.los pad).cfg then startOp c [startTick s t, pad] s
          else failOp c stSchema 0 s)))) ∧
  ∀ (samples : List Byte) (c : OpRef) (s : State), s.opOf 17 0 (isStarted 1) = some c →
    let start := c.op.aux.getD 0 0
    let left := c.op.len - c.op.xfer
    let g := boundaryOf start + 2000 * (c.op.len / 2 - 1)
    let u := s.advance g
    let d : OpRef := { c with op := { c.op with xfer := c.op.xfer + left } }
    (start ≤ s.t → (s.los (c.op.aux.getD 1 0)).active = true → left ≤ samples.length → g < boundaryOf (s.t + 1) →
      bufferOpen 0x2E true (c.op.addr + c.op.xfer) left u = true →
      exec (.losCaptureComplete samples) s = .next (finishAt (captureEnd d.op) d stOk c.op.len (wordOf start)
        (wordOf (c.op.len / 2)) ((u.setMem (Memory.setMany u.mem (c.op.addr + c.op.xfer) (samples.take left))).setOp d
          d.op))) ∧
    (start ≤ s.t → (s.los (c.op.aux.getD 1 0)).active = false → exec (.losCaptureComplete samples) s =
      .next (finishAt (captureEnd c.op) c stIncomplete c.op.xfer 0 0 s)) ∧
    (s.t < start → exec (.losCaptureComplete samples) s = .next s)

/-- R146: the states of a sensor supply and every way between them: EN, the current limit engaging and releasing, 5
ticks in LIMIT, the over-voltage trip, CLR; each change but EN's is reported on source 28 (R147). -/
def Obligations.SensorSuppliesFollowTheirStates : Prop :=
  ∀ (k : Fin 6) (s : State),
    let x := s.sup k
    let due := x.limitAt + 5 * tickLen
    (∀ (a : Access) (v : Word), opens a 2 s = true → x.st ≠ .limit ∨ s.gts < due →
      let u := s.reply a .ok
      (bitOf v 31 = false →
        exec (.supEnWrite a k v) s = .next (u.setSup k { x with en := false, st := .off, mA := 0, mV := 0 }) ∧
        exec (.supClr a k v) s = .next (u.setSup k { x with en := false, st := .off, mA := 0, mV := 0 })) ∧
      (bitOf v 31 = true → x.st = .off →
        exec (.supEnWrite a k v) s = .next (u.setSup k { x with en := true, st := .on })) ∧
      (bitOf v 31 = true → x.st = .tripped →
        exec (.supEnWrite a k v) s = .next (u.setSup k { x with en := true }) ∧
        exec (.supClr a k v) s = .next (raise 28 4 k (u.setSup k { x with en := true, st := .on })))) ∧
    (∀ mA mV, x.st = .on → exec (.supLimit k true mA mV) s =
      .next (raise 28 1 k (s.setSup k { x with st := .limit, mA := mA, mV := mV, limitAt := s.gts }))) ∧
    (∀ mA mV, x.st = .limit → s.gts < due → exec (.supLimit k false mA mV) s =
      .next (raise 28 4 k (s.setSup k { x with st := .on, mA := mA, mV := mV }))) ∧
    (s.tick.running = true → x.st = .limit → due < boundaryOf (s.t + 1) → exec (.supLimitTimeout k) s =
      .next (raiseAt due 28 2 k ((s.advance due).setSup k { x with st := .tripped, mA := 0 }))) ∧
    (x.st ≠ .limit ∨ boundaryOf (s.t + 1) ≤ due → exec (.supLimitTimeout k) s = .next s) ∧
    (∀ mV, x.st = .on ∨ (x.st = .limit ∧ s.gts < due) → exec (.supOvervoltageTrip k mV) s =
      .next (raise 28 3 k (s.setSup k { x with st := .tripped, mA := 0, mV := mV })))

/-! ### Load-switch channels (06) -/

/-- Commands to channels. CH_SET and CH_PROFILE pass their checks and take effect at a tick boundary (R173 to R175): a
CH_SET applies its entries in order and completes with that boundary's GTS; a profile's due step is one command, and
after its last hold it completes; CH_CLEAR acts at once on the channels whose bank is on, CH_READ takes its snapshot
at the next boundary (R176). An ON command puts an OFF channel ON unless OUT_EN is 0 and leaves a COOL one as it is;
OFF puts it OFF; a LATCHED or STANDBY channel, or one whose bank is off, takes none (R152, R173). -/
def Obligations.ChannelCommandsTakeEffectAtBoundaries : Prop :=
  (∀ (n : Fin 32) (c : OpRef) (s : State), c.ring = n.val →
    (let t := c.op.word64 6
    let chans := setChannels c.op
    takes 5 0 1 .parallel c s = true → (t = 0 ∨ s.t < t) → (∀ j ∈ chans, j ≤ 47 ∧ s.chOn j = true) → chans.Nodup →
      exec (.chSet n) s = .next (startOp c [startTick s t] s)) ∧
    (let t := c.op.word64 7
    let j := bitsOf (c.op.word 6) 5 0
    let rep := bitsOf (c.op.word 9) 15 0
    ∀ steps, takes 5 0 2 .parallel c s = true → (t = 0 ∨ s.t < t) → 0 < c.op.len → c.op.len % 8 = 0 →
      c.op.len ≤ 4096 → j ≤ 47 → (s.ch j).bce = false → bufferOpen 0x26 false c.op.addr c.op.len s = true →
      readSteps (c.op.len / 8) (bufferOf c s) = some steps → profRunning s j = false → s.chOn j = true →
      exec (.chProfile n) s = .next (startOp c [startTick s t, j] (s.setCh j { s.ch j with
        prof := some {
          steps := steps, idx := 0, nextT := startTick s t, left := if rep = 0xFFFF then none else some rep } }))) ∧
    (takes 5 1 0x10 .serial c s = true → c.op.word64 6 < 2 ^ 48 →
      let chosen := chNumbers.filter fun j => (c.op.word64 6).testBit j
      let on := chosen.filter fun j => s.chOn j
      exec (.chClear n) s = .next (finishOp c stOk 0
        (wordOf (on.filter fun j => (s.ch j).st == .latched).length) (wordOf (chosen.length - on.length))
        (on.foldl (fun v j => clearOne j v) s))) ∧
    (takes 5 1 0x11 .serial c s = true → c.op.len = 768 →
      exec (.chRead n) s = .next (startOp c [s.t + 1] s))) ∧
  (∀ (c : OpRef) (s : State),
    let t := c.op.aux.getD 0 0
    (s.opsOf 5 0 (isStarted 1) = [c] → t ≤ s.t →
      let r := applyEntries t c.op (List.range 8) 0 0 s
      exec .chSetApply s = .next (finishAt (boundaryOf t) c stOk 0 (wordOf r.2.1) (wordOf r.2.2) r.1)) ∧
    (s.opOf 5 1 (isStarted 0x11) = some c → t ≤ s.t →
      let u := lswAdvance s.gts s
      let bs := chNumbers.flatMap (snapBytes u)
      bufferOpen 0x26 true c.op.addr bs.length u = true →
      exec .chReadSnapshot s = .next (finishOp c stOk bs.length (wordOf t)
        (wordOf (oneIf (!u.pdOn 8) + 2 * oneIf (!u.pdOn 9))) (stored c bs u)))) ∧
  (∀ (j : Fin 48) (p : Prof) (c : OpRef) (s : State), (s.ch j).prof = some p → s.profOp j = some c →
    (p.idx < p.steps.length → p.nextT ≤ s.t → (command j (max s.gts (boundaryOf p.nextT))
        (p.steps.getD p.idx { duty := 0, hold := 1, on := false }).on
        (p.steps.getD p.idx { duty := 0, hold := 1, on := false }).duty s).1.profOp j = some c →
      let st := p.steps.getD p.idx { duty := 0, hold := 1, on := false }
      let r := command j (max s.gts (boundaryOf p.nextT)) st.on st.duty s
      exec (.chProfileStep j) s = .next ((r.1.setCh j { r.1.ch j with prof := some { p with
        idx := p.idx + 1, nextT := p.nextT + st.hold
        applied := p.applied + oneIf r.2, missed := p.missed + oneIf (!r.2) } }).setOp c
          { c.op with xfer := 8 * (p.applied + oneIf r.2) })) ∧
    (p.idx = p.steps.length → p.left = some 0 → p.nextT ≤ s.t →
      exec (.chProfileStep j) s = .next (endProfile j p.nextT stOk s)) ∧
    (s.t < p.nextT → exec (.chProfileStep j) s = .next s)) ∧
  ∀ (j g duty : Nat) (on : Bool) (s : State),
    let u := chAdvance j (g - 1) s
    let r := command j g on duty s
    ((u.ch j).st = .latched ∨ (u.ch j).st = .standby ∨ u.chOn j = false ∨ (on = true ∧ u.lsw.outEn = false) →
      r = (u, false)) ∧
    (u.chOn j = true → (u.ch j).st ≠ .latched → (u.ch j).st ≠ .standby →
      (on = true → u.lsw.outEn = true → (u.ch j).st = .off → r.2 = true ∧ (r.1.ch j).st = .on) ∧
      (on = true → u.lsw.outEn = true → (u.ch j).st = .cool → r = (u, true)) ∧
      (on = false → r.2 = true ∧ (r.1.ch j).st = .off ∧ (r.1.ch j).applied = 0 ∧ (r.1.ch j).count = 0) ∧
      ∀ k, k ≠ j → r.1.ch k = u.ch k)

/-- What a channel does by itself. A short (the limit engaged, the output below V_SC) or a thermal trip in ON ends
conduction at once, COOL or, by mode or by count, LATCHED, with its cause and counts; at or above V_SC the channel
keeps limiting (R160, R161, R164); a COOL channel restarts at a phase start, ON or in a feed-low bank FEED_LOW, one
restart more counted, and 60,000 ticks in ON clear the count (R162); the inrush window closes INRUSH ticks after it
opened (R156); an open load or a gang mismatch is entered and left on its runs of ticks (R163, R168); a BCE channel
without duty for BCE_TMO is late (R153). No other channel changes. -/
def Obligations.ChannelsTripRestartAndTest : Prop :=
  ∀ (n : Fin 48) (s : State),
    let x := s.ch n
    let b := boundaryOf s.t
    let bk := chBank n
    (∀ (g mV : Nat) (both : Bool), x.st = .on → s.gts ≤ g → g < boundaryOf (s.t + 1) → mV < shortLevel →
      let y := (chAdvance n g (s.advance g)).ch n
      ∃ t, exec (.shortTrip n g mV both) s = .next t ∧
        (t.ch n).st = (if y.latchMode || decide (y.tries ≤ y.count) then .latched else .cool) ∧
        (t.ch n).cause = 1 ∧ (t.ch n).tripAt = g ∧ (t.ch n).applied = 0 ∧
        (t.ch n).shortTrips = min (y.shortTrips + 1) 0xFFFF ∧ (∀ k, k ≠ n.val → t.ch k = s.ch k) ∧
        t.mem = s.mem ∧ t.hri = s.hri ∧ t.can = s.can) ∧
    (∀ (g mV : Nat) (both : Bool), x.st = .on → s.gts ≤ g → g < boundaryOf (s.t + 1) → shortLevel ≤ mV →
      let v := chAdvance n g (s.advance g)
      exec (.shortTrip n g mV both) s = .next (v.setCh n { v.ch n with limit := true })) ∧
    (∀ (g : Nat) (tj : Int), x.st = .on → s.gts ≤ g → g < boundaryOf (s.t + 1) →
      let y := (chAdvance n g (s.advance g)).ch n
      ∃ t, exec (.thermalTrip n g tj) s = .next t ∧
        (t.ch n).st = (if y.latchMode || decide (y.tries ≤ y.count) then .latched else .cool) ∧
        (t.ch n).cause = 2 ∧ (t.ch n).tripAt = g ∧ (t.ch n).applied = 0 ∧
        (t.ch n).thermTrips = min (y.thermTrips + 1) 0xFFFF ∧ (∀ k, k ≠ n.val → t.ch k = s.ch k) ∧
        t.mem = s.mem ∧ t.hri = s.hri ∧ t.can = s.can) ∧
    (x.st ≠ .on → ∀ g mV both tj, exec (.shortTrip n g mV both) s = .next s ∧
      exec (.thermalTrip n g tj) s = .next s) ∧
    (let after := if x.tripBy = 1 then x.tripAt + x.retry * 10 * tickLen else x.tripAt
    let due := phaseCeil (max after s.gts)
    x.st = .cool → due < boundaryOf (s.t + 1) →
      ∃ t, exec (.restart n true) s = .next t ∧
        (t.ch n).st = (if (s.bank bk).low then .feedLow else .on) ∧ (t.ch n).count = x.count + 1 ∧
        (∀ k, k ≠ n.val → t.ch k = s.ch k) ∧ t.mem = s.mem ∧ t.hri = s.hri) ∧
    (x.st ≠ .cool → ∀ cooled, exec (.restart n cooled) s = .next s) ∧
    (x.st = .on → x.onSince + 60000 * tickLen < boundaryOf (s.t + 1) →
      exec (.restartCountReset n) s =
        .next ((s.advance (x.onSince + 60000 * tickLen)).setCh n { x with count := 0 })) ∧
    (∀ w, x.win = some w → w + x.inrush * tickLen < boundaryOf (s.t + 1) →
      let u := s.advance (w + x.inrush * tickLen)
      let v := chAdvance n u.gts u
      exec (.inrushWindowEnd n) s = .next (v.setCh n { v.ch n with win := none })) ∧
    (x.olOn = false → x.onBelow = 20 → ∃ t, exec (.openLoad n true) s = .next t ∧
      t.ch n = { x with olOn := true } ∧ (∀ k, k ≠ n.val → t.ch k = s.ch k) ∧
      (t.bank bk).fault = (s.bank bk).fault ||| BitVec.ofNat 64 (2 ^ n.val) ∧
      t.sys = (raiseAt b (256 + n) 5 (2 ^ 31) s).sys) ∧
    (x.olOn = true → x.onAbove = 20 →
      exec (.openLoad n true) s = .next (raiseAt b (256 + n) 5 0 (s.setCh n { x with olOn := false }))) ∧
    (x.olOff = true → x.offBelow = 20 →
      exec (.openLoad n false) s = .next (raiseAt b (256 + n) 5 1 (s.setCh n { x with olOff := false }))) ∧
    (let due := max x.bceAt x.onSince + x.bceTmo * 10 * tickLen
    x.st = .on → x.bce = true → x.bceTmo ≠ 0 → x.bceLate = false → due < boundaryOf (s.t + 1) →
      ∃ t, exec (.bceTimeout n) s = .next t ∧ (t.ch n).bceLate = true ∧ (∀ k, k ≠ n.val → t.ch k = s.ch k) ∧
        t.mem = s.mem) ∧
    (x.gangOut = false → x.gangNow = true → x.gangCrc = false →
      exec (.gangMismatch n) s = .next (raiseAt b (256 + n) 9 (2 ^ 31 + 1)
        (s.setCh n { x with gangOut := true, gangOutOk := 0 }))) ∧
    (x.gangOut = true → x.gangOutOk = 5 → x.gangCrc = false →
      exec (.gangMismatch n) s = .next (raiseAt b (256 + n) 9 1 (s.setCh n { x with gangOut := false })))

/-- The feed of a bank (R172): below 4.5 V the bank is feed-low and its ON channels are FEED_LOW, or with CRANK_HOLD
and 3.2 V or more it holds instead, for 50 ticks; at 5.0 V it is over, and the FEED_LOW channels go back. The other
bank's channels do not change. The channels' registers and the fixed-rope path. OUT_EN 0 turns every channel OFF but
STANDBY ones (R152); a channel register is written only in OFF and in range, else LSW_CFG_ERR says which and why
(R177); the map is written until it is locked (R169); under the fixed-rope path a short waits for its inputs to be
released and applied again, a thermal trip for cooling (R170, R171). -/
def Obligations.FeedsRegistersAndFixedRopePath : Prop :=
  (∀ (bk : Bank) (g mV : Nat) (s : State), s.gts ≤ g →
     let b := s.bank bk
     let u := lswAdvance g (s.advance g)
     let v := lswAdvance (g - 1) (s.advance g)
     (b.low = false → b.hold = none →
       (u.lsw.crankHold = true → 3200 ≤ mV →
         exec (.bankFeedLow bk g mV) s = .next (feedEvent bk 3 mV g (u.setBank bk { u.bank bk with hold := some g }))) ∧
       (u.lsw.crankHold = false ∨ mV < 3200 →
         ∃ t, exec (.bankFeedLow bk g mV) s = .next t ∧ (t.bank bk).low = true ∧ (t.bank bk).hold = none ∧
           (∀ n, n < 48 → chBank n = bk → (u.ch n).st = .on → (t.ch n).st = .feedLow ∧ (t.ch n).applied = 0) ∧
           (∀ n, chBank n ≠ bk → t.ch n = u.ch n) ∧ t.mem = s.mem ∧ t.hri = s.hri)) ∧
     (b.low = true → exec (.bankFeedLow bk g mV) s = .next s ∧
       exec (.bankFeedReturn bk g mV) s =
         .next (feedEvent bk 2 mV g (returnOn bk g (u.setBank bk { u.bank bk with low := false })))) ∧
     (∀ h, b.low = false → b.hold = some h → exec (.bankFeedReturn bk g mV) s =
       .next (feedEvent bk 6 mV g (v.setBank bk { v.bank bk with hold := none }))) ∧
     (b.low = false → b.hold = none → exec (.bankFeedReturn bk g mV) s = .next s ∧
       exec (.crankHoldExpiry bk g mV) s = .next s) ∧
     (∀ h, b.hold = some h → mV < 3200 ∨ h + 50 * tickLen ≤ g → exec (.crankHoldExpiry bk g mV) s =
       .next (enterFeedLow bk g mV (feedEvent bk (if mV < 3200 then 5 else 4) mV g v))) ∧
     (∀ h, b.hold = some h → 3200 ≤ mV → g < h + 50 * tickLen → exec (.crankHoldExpiry bk g mV) s = .next s)) ∧
  (∀ (a : Access) (v : Word) (s : State), opens a 1 s = true →
    (bitOf v 31 = true → exec (.lswOutEnWrite a v) s =
      .next { s.reply a .ok with lsw.outEn := true, lsw.crankHold := bitOf v 30 }) ∧
    (bitOf v 31 = false → ∃ t, exec (.lswOutEnWrite a v) s = .next t ∧ t.lsw.outEn = false ∧
      t.lsw.crankHold = bitOf v 30 ∧ t.mem = s.mem ∧
      ∀ n, n < 48 → (t.ch n).st = .off ∨ (t.ch n).st = .standby)) ∧
  (∀ (a : Access) (n : Fin 48) (reg : Fin 5) (w : Word) (s : State),
    opens a (bankDomain (chBank n)) s = true →
    let u := s.reply a .ok
    let v := w &&& chMask reg
    let off := 0x1000 + 0x20 * n.val + 4 * reg.val
    ((s.ch n).st = .off → (reg = 0 → bitOf v 31 = true → hasPwm n = true) → chInRange n reg v = true →
      exec (.lswChCfgWrite a n reg w) s = .next (u.setCh n (setChReg reg v (s.ch n)))) ∧
    ((s.ch n).st ≠ .off →
      exec (.lswChCfgWrite a n reg w) s = .next { u with lsw.cfgErr := wordOf (off * 65536 + 3) }) ∧
    ((s.ch n).st = .off → reg = 0 → bitOf v 31 = true → hasPwm n = false →
      exec (.lswChCfgWrite a n reg w) s = .next { u with lsw.cfgErr := wordOf (off * 65536 + 2) }) ∧
    ((s.ch n).st = .off → (reg = 0 → bitOf v 31 = true → hasPwm n = true) → chInRange n reg v = false →
      exec (.lswChCfgWrite a n reg w) s = .next { u with lsw.cfgErr := wordOf (off * 65536 + 1) })) ∧
  (∀ (a : Access) (reg : Fin 14) (w : Word) (s : State), opens a 1 s = true →
    let u := s.reply a .ok
    (s.lsw.lock = true → exec (.lhMapWrite a reg w) s =
      .next { u with lsw.cfgErr := wordOf ((0x10 + 4 * reg.val) * 65536 + 4) }) ∧
    (s.lsw.lock = false → reg.val < 8 → mapInRange (w &&& (0xBFBF_BFBF : Word)) = true →
      exec (.lhMapWrite a reg w) s =
        .next { u with lsw.lhMap := Tab.put s.lsw.lhMap reg (w &&& (0xBFBF_BFBF : Word)) }) ∧
    (s.lsw.lock = false → 8 ≤ reg.val →
      (∀ j, j < 8 → hasPwm (8 * (reg.val - 8) + j) = true ∨ bitsOf w (4 * j + 3) (4 * j) = 0) →
      exec (.lhMapWrite a reg w) s = .next { u with lsw.frDuty := Tab.put s.lsw.frDuty (reg.val - 8) w }) ∧
    exec (.lhMapLock a w) s = .next (if bitOf w 0 then { u with lsw.lock := true } else u)) ∧
  (∀ (n : Fin 48) (s : State), frActive s n = true →
    (∀ age mA mV, limitOf n (frWindow n age) ≤ mA → mV < shortLevel →
      exec (.fixropeTrip n .short age mA mV) s = .next (raise (256 + n) 12 1 { s with
      lsw.fr := Tab.put s.lsw.fr n { s.frCh n with short := true, seen := ~~~ s.lh &&& (0xFF : Word) } })) ∧
    ∀ age mA mV, exec (.fixropeTrip n .thermal age mA mV) s = .next (raise (256 + n) 12 2 { s with
      lsw.fr := Tab.put s.lsw.fr n { s.frCh n with therm := true } })) ∧
  (∀ (n : Fin 48) (s : State), s.mode = .fixedRope → (s.frCh n).therm = true →
    exec (.fixropeThermalRestart n) s =
      .next { s with lsw.fr := Tab.put s.lsw.fr n { s.frCh n with therm := false } }) ∧
  ∀ (k : Fin 8) (b : Bool) (s : State), s.pdOn 1 = true →
    (s.mode ≠ .fixedRope → exec (.lhInputChange k b) s = .next { s with lh := setBit s.lh k b }) ∧
    (s.mode = .fixedRope → ∃ t, exec (.lhInputChange k b) s = .next t ∧ t.lh = setBit s.lh k b ∧ t.mem = s.mem ∧
      t.sys = s.sys ∧
      ∀ n, n < 48 → (b = true → bitOf s.lh k = false → (s.frCh n).short = true →
        (inputsOf s n).testBit k = true → inputsOf s n &&& (s.frCh n).seen.toNat = inputsOf s n →
        (t.frCh n).short = false) ∧ (t.frCh n).therm = (s.frCh n).therm)

/-! ### The image pipeline (07) -/

/-- A camera link (R179 to R181, R186, R448): IPL_LINK_CFG is taken while no context beyond LOADED uses the link;
training that succeeds makes it UP and arms the contexts that waited for it; loss sends it back to training and the
contexts to LINK_WAIT; the port's current limit cuts its power for 1,000 ticks. The parallel port counts as lost and
found by its frames. -/
def Obligations.CameraLinksComeAndGo : Prop :=
  (∀ (a : Access) (k : Fin 4) (v : Word) (s : State), opens a 5 s = true →
    let u := s.reply a .ok
    let x := s.link k
    (sourceBusy k s = false → bitsOf v 1 0 ≠ 0 → bitOf v 31 = true → x.st = .down →
      exec (.iplLinkCfgWrite a k v) s = .next (u.setLink k { x with
        cfg := v &&& (0x8000_0003 : Word), st := .training, retryT := s.t })) ∧
    (sourceBusy k s = false → bitsOf v 1 0 ≠ 0 → bitOf v 31 = false → x.st ≠ .down →
      exec (.iplLinkCfgWrite a k v) s = .next (u.setLink k { x with
        cfg := v &&& (0x8000_0003 : Word), st := .down, powerOff := none })) ∧
    (sourceBusy k s = true ∨ bitsOf v 1 0 = 0 →
      exec (.iplLinkCfgWrite a k v) s = .next { u with ipl.errLast := wordOf 65536 })) ∧
  (∀ (k : Fin 4) (s : State), s.pdOn 5 = true →
    let x := s.link k
    (∀ l, x.st = .training → x.retryT ≤ s.t → x.powerOff = none →
      ∃ t, exec (.linkUp k l) s = .next t ∧ t.link k = { x with st := .up, latency := l % 65536 } ∧
        t.mem = s.mem ∧ t.hri = s.hri ∧
        ∀ c, c < 16 → (t.ictx c).state =
          if (s.ictx c).state = .linkWait ∧ (s.ictx c).src = k then .armed else (s.ictx c).state) ∧
    (x.st = .training → exec (.linkTrainingRetry k) s = .next (s.setLink k { x with retryT := s.t + 1 })) ∧
    (x.st = .up → ∃ t, exec (.linkDown k) s = .next t ∧ t.link k = { x with st := .training, retryT := s.t } ∧
      t.mem = s.mem ∧ t.hri = s.hri ∧
      ∀ c, c < 16 → (t.ictx c).state =
        if (s.ictx c).state.live = true ∧ (s.ictx c).src = k then .linkWait else (s.ictx c).state) ∧
    (x.st ≠ .up → exec (.linkDown k) s = .next s) ∧
    (bitOf x.cfg 31 = true → x.powerOff = none → ∃ t, exec (.camPowerLimit k) s = .next t ∧
      (t.link k).powerOff = some s.gts ∧ (t.link k).st ≠ .up ∧ t.mem = s.mem) ∧
    (∀ g, x.powerOff = some g →
      (g + 1000 * tickLen < boundaryOf (s.t + 1) → exec (.camPowerRetry k) s = .next
        (let u := s.advance (g + 1000 * tickLen)
        u.setLink k { x with powerOff := none, retryT := u.t })) ∧
      (boundaryOf (s.t + 1) ≤ g + 1000 * tickLen → exec (.camPowerRetry k) s = .next s))) ∧
  ∀ s : State, s.pdOn 5 = true →
    let cs := ictxNumbers.filter fun c => (s.ictx c).isPcam
    (∀ c, (cs.find? fun c => (s.ictx c).state == .run &&
        decide ((s.ictx c).lastSync.getD 0 + 2 * (s.ictx c).step * tickLen ≤ s.gts)) = some c →
      exec (.pcamSyncLost true) s = .next (sourceLost 4
        (raiseAt ((s.ictx c).lastSync.getD 0 + (s.ictx c).step * tickLen) 327 1 0 s))) ∧
    (∀ c ∈ cs, (s.ictx c).state = .linkWait → pcamUp s = true →
      exec (.pcamSyncLost false) s = .next (sourceBack 4 (raise 327 2 0 s)))

/-- A frame from trigger to close. A context triggers at the boundaries of its step, over the uplink early by its
latency or by PCAM_TRIG, and a trigger that no frame matched is reported (R182, R184); a packet goes to the contexts
that name its source and virtual channel, and is discarded and counted where none does (R179); a frame start within
its trigger's step is accepted and numbered, without one it is dropped (R184, R185); a good line goes to the FIFO
while it has room (R188, R194); the frame's end closes its reception; the oldest ready unit starts when the pipeline
is free (R188), and the frame closes when its last line has passed (R189); an access unit takes its CODE buffer as it
starts and fills it, and those after it, as it ends (R197, R199); an accepted exposure goes to the sensor (R193). -/
def Obligations.FramesRunFromTriggerToClose : Prop :=
  (∀ (c : Fin 16) (s : State), s.pdOn 5 = true →
    let u := settleRate c s
    let x := u.ictx c
    let due := x.state.live && !x.free && decide (x.t0 ≤ u.t) && !x.stopped u.t && x.step != 0 &&
      u.t % x.step == 0 && x.lastTrig != some u.t
    (due = true → x.trig = none → exec (.cameraTrigger c) s =
      .next (sendTrigger x u.t (u.setIctx c { x with trig := some u.t, lastTrig := some u.t }))) ∧
    (∀ old, due = true → x.trig = some old → exec (.cameraTrigger c) s =
      .next (sendTrigger x u.t ((raiseAt (boundaryOf old) (304 + c) 2 (old % 2 ^ 24) u).setIctx c
        { x with trig := some u.t, lastTrig := some u.t }))) ∧
    (due = false → exec (.cameraTrigger c) s = .next u)) ∧
  (∀ (x : IplCtx) (t : Nat) (s : State),
    (x.isPcam = true → (sendTrigger x t s).ipl.pcamTrig = some (boundaryOf t)) ∧
    (x.isPcam = false → ((sendTrigger x t s).link x.src).sentAt = some (boundaryOf t - (s.link x.src).latency))) ∧
  (∀ (k : Fin 5) (vc : Fin 16) (g : Nat) (s : State), s.pdOn 5 = true →
    let u := s.advance g
    (namers k vc u = [] → exec (.frameStart k vc g) s = .next (linkCount k true u)) ∧
    (namers k vc u ≠ [] → exec (.frameStart k vc g) s = .next ((namers k vc u).foldl (fun s c => startFrame c s) u))) ∧
  (∀ (c : Nat) (s : State),
    let v := endFrame c s.gts fShort (settleRate c s)
    let v := v.setIctx c { v.ictx c with lastSync := some v.gts }
    let x := v.ictx c
    (x.refused v.gts = true → startFrame c s = v) ∧
    (x.refused v.gts = false →
      (∀ t, x.free = false → x.trig = some t → v.gts ≤ boundaryOf (t + x.step) →
        startFrame c s = acceptFrame c v.gts (some t) v) ∧
      (∀ t, x.free = false → x.trig = some t → boundaryOf (t + x.step) < v.gts →
        startFrame c s = raise (304 + c) 3 0 (v.setIctx c { x with dropping := true })) ∧
      (x.free = false → x.trig = none →
        startFrame c s = raise (304 + c) 3 0 (v.setIctx c { x with dropping := true })) ∧
      (x.free = true → x.t0 ≤ v.t → x.lastStart = none → startFrame c s = acceptFrame c v.gts none v) ∧
      (∀ p, x.free = true → x.t0 ≤ v.t → x.lastStart = some p → startFrame c s =
        if v.gts + 200000 < p + x.div * tickLen then raise (304 + c) 4 0 (v.setIctx c { x with dropping := true })
        else acceptFrame c v.gts none v))) ∧
  (∀ (c g : Nat) (trig : Option Nat) (s : State),
    let t := acceptFrame c g trig s
    (t.ictx c).state = .run ∧ (t.ictx c).next = inc16 (s.ictx c).next ∧ (t.ictx c).lastStart = some g ∧
      (∃ f, (t.ictx c).frames = (s.ictx c).frames ++ [f] ∧ f.num = (s.ictx c).next) ∧ t.mem = s.mem ∧ t.hri = s.hri) ∧
  (∀ (k : Fin 5) (vc : Fin 16) (l : LineIn) (s : State), s.pdOn 5 = true →
    let u := retire s.gts s
    let v := if l.crcError || l.headerError then linkCount k false u else u
    (l.otherType = true → exec (.lineArrival k vc l) s = .next (linkCount k true u)) ∧
    (l.otherType = false → namers k vc v = [] → exec (.lineArrival k vc l) s = .next (linkCount k true v)) ∧
    (l.otherType = false → namers k vc v ≠ [] →
      exec (.lineArrival k vc l) s = .next ((namers k vc v).foldl (fun s c => takeLine l c s) v))) ∧
  (∀ (c : Nat) (l : LineIn) (f : IplFrame) (s : State),
    let x := s.ictx c
    (x.dropping = true → takeLine l c s = s) ∧
    (x.dropping = false → x.receiving = some f → l.headerError = false →
      takeLine l c s = if f.arrived < x.height then storeLine c l f s
        else s.setIctx c (x.putFrame { f with arrived := f.arrived + 1, flags := f.flags ||| fLong }))) ∧
  (∀ (k : Fin 5) (vc : Fin 16) (s : State), s.pdOn 5 = true →
    (namers k vc s = [] → exec (.frameEnd k vc) s = .next (linkCount k true s)) ∧
    ∀ (c : Nat) (f : IplFrame), namers k vc s = [c] → (s.ictx c).dropping = false → (s.ictx c).receiving = some f →
      exec (.frameEnd k vc) s = .next (settleUnits c s.gts { f with
        endAt := some s.gts, flags := f.flags ||| (if f.arrived < (s.ictx c).height then fShort else 0) } s)) ∧
  (∀ (x : IplUnit) (rest : List IplUnit) (s : State), s.pdOn 5 = true → s.ipl.ready = x :: rest →
    let g := max ((s.ipl.running.map IplRun.endAt).getD s.ipl.freeAt) x.readyAt
    (g < boundaryOf (s.t + 1) → exec .unitStart s = .next (startUnit x g (s.advance g))) ∧
    (boundaryOf (s.t + 1) ≤ g → exec .unitStart s = .next s)) ∧
  (∀ (c : Fin 16) (f : IplFrame) (r : List IplFrame) (g : Nat) (s : State),
    s.pdOn 5 = true → (s.ictx c).frames = f :: r → closeInstant c f s = some g → g < boundaryOf (s.t + 1) →
    ∀ f' r', ((retire g (s.advance g)).ictx c).frames = f' :: r' →
      exec (.frameClose c) s = .next (closeFrame c f' (retire g (s.advance g)))) ∧
  (∀ (i : Fin 4) (s : State), s.pdOn 5 = true →
    let x := s.stream i
    (∀ d rest, x.due = d :: rest → x.st = .run → x.unit = none →
      (s.poolBuffer 6 3 0x12 = none → exec (.encoderAccessUnit i .starts) s =
        .next (raise 325 3 i (s.setStream i { x with due := rest, idrNext := true }))) ∧
      ∀ r, s.poolBuffer 6 3 0x12 = some r → exec (.encoderAccessUnit i .starts) s =
        .next ((s.setOp r { r.op with aux := [1, i, d.num] }).setStream i { x with
          due := rest, unit := some { d with at' := s.gts, idr := x.idr }, idrNext := false
          gop := if x.idr then 1 else x.gop + 1 })) ∧
    ∀ (unit : List Byte) (d : EncDue) (r : OpRef), x.unit = some d → d.closed = true →
      takenBuffer 3 0x12 i d.num s = some r →
      let q := fillCode i d.num d.cap d.idr (buffersOf 3 s) r (d.header ++ unit) s
      (q.2 = true → exec (.encoderAccessUnit i (.ends unit)) s = .next (q.1.setStream i { x with
        unit := none
        sent := (x.sent.filter fun e => decide (q.1.gts < e.1 + 1000 * tickLen)) ++ [(q.1.gts, unit.length)]
        picture := fillInvalid x.width x.height (if d.idr then [] else x.picture) d.rows })) ∧
      (q.2 = false → exec (.encoderAccessUnit i (.ends unit)) s =
        .next (raiseAt d.at' 325 3 i (q.1.setStream i { x with unit := none, idrNext := true })))) ∧
  ∀ (c : Fin 16) (ok : Bool) (e : IplPend) (s : State), s.pdOn 5 = true →
    let x := s.ictx c
    (x.exps.find? fun e => e.wrote.isNone) = some e → e.boundary ≤ s.t → e.retryT ≤ s.t → sourceUp x s = true →
      exec (.settingsWrite c ok) s = .next (s.setIctx c { x with exps := x.exps.map fun p =>
        if p.order = e.order then (if ok then { e with wrote := some s.gts } else { e with retryT := s.t + 1 })
        else p })

/-- The ring operations of IPL (R192, R193, R201 to R204): contexts are loaded within their ranges, started within the
limits of R187, stopped at the next boundary and then LOADED once their frames have closed; settings wait for their
boundary; a stream is configured or asked for an IDR frame; a pooled buffer that is large enough waits for its frame.
-/
def Obligations.ImageOperationsFollowTheirChecks : Prop :=
  (∀ (n : Fin 32) (c : OpRef) (s : State), c.ring = n.val →
    let k := bitsOf (c.op.word 6) 3 0
    let x := s.ictx k
    let v := c.op.word64 7
    let cs := maskCtxs (c.op.word 6)
    (∀ defects, takes 6 0 1 .serial c s = true → c.op.len = 128 → x.state.beyond = false →
      bufferOpen 0x21 false c.op.addr 128 s = true →
      let y : IplCtx := { cfg := maskWords iplCfgMask (leWords 32 (bufferOf c s)) }
      iplFault y = none → readEngine 0x21 (y.addr 12) (4 * y.defectN) s = (s, defects) → defects.status = 0 →
      exec (.iplCtxLoad n) s = .next (finishOp c stOk 128 (wordOf y.defectN) 0 (setIplState k .loaded
        (s.setIctx k { y with
          state := x.state
          set := { id := bitsOf (y.word 24) 15 0, exp := (y.word 22).toNat
                   dgain := bitsOf (y.word 23) 31 16, again := bitsOf (y.word 23) 15 0 }
          defects := leWords y.defectN defects.bytes, rateF := x.rateF, rateNext := x.rateNext
          lastNo := x.lastNo, lastFlags := x.lastFlags, delivered := x.delivered, tune := x.tune })))) ∧
    (takes 6 0 2 .serial c s = true → (v = 0 ∨ s.t < v) → s.ipl.en = true →
      (∀ j ∈ cs, (s.ictx j).state = .loaded) → admitFault (admitted (c.op.word 6) s) s = none →
      exec (.iplCtxStart n) s = .next (finishOp c stOk 0 (wordOf (max v (s.t + 1))) (wordOf cs.length)
        (cs.foldl (fun u j => iplStartCtx (max v (s.t + 1)) j u) s))) ∧
    (∀ reason, takes 6 0 2 .serial c s = true → (v = 0 ∨ s.t < v) → s.ipl.en = true →
      (∀ j ∈ cs, (s.ictx j).state = .loaded) → admitFault (admitted (c.op.word 6) s) s = some reason →
      exec (.iplCtxStart n) s = .next (failOp c stSchema 0 (iplErr c.op.opcode reason 0 0 s))) ∧
    (takes 6 0 3 .serial c s = true → (∀ j ∈ cs, (s.ictx j).state.beyond = true) →
      exec (.iplCtxStop n) s = .next (finishStops (startOp c [s.t + 1, cs.length]
        (cs.foldl (fun u j => iplStopCtx j u) s)))) ∧
    (takes 6 0 4 .serial c s = true → x.state ≠ .empty → x.free = false → bitsOf (c.op.word 9) 15 0 ≤ 16384 →
      x.trigDelay + (c.op.word 8).toNat ≤ x.div * tickLen →
      exec (.exposure n) s = .next (finishOp c stOk 0 (wordOf (s.t + 1)) 0 (s.setIctx k { x with
        exps := (x.exps.filter fun e => e.boundary != s.t + 1) ++ [{
          set := { id := bitsOf (c.op.word 7) 15 0, exp := (c.op.word 8).toNat
                   dgain := bitsOf (c.op.word 9) 31 16, again := bitsOf (c.op.word 9) 15 0 }
          boundary := s.t + 1, order := x.orders }]
        orders := x.orders + 1 }))) ∧
    (takes 6 0 5 .serial c s = true → c.op.len = 2048 → x.state ≠ .empty →
      bufferOpen 0x21 false c.op.addr 2048 s = true →
      (∀ b ∈ ((bufferOf c s).drop 26).take 6, b = 0) → (∀ b ∈ ((bufferOf c s).drop 546).take 1502, b = 0) →
      exec (.tuneLoad n) s = .next (finishOp c stOk 2048 (wordOf (s.t + 1)) 0 (s.setIctx k { x with
        tunes := (x.tunes.filter fun e => e.boundary != s.t + 1) ++ [{
          id := bitsOf (c.op.word 7) 15 0, boundary := s.t + 1, bytes := bufferOf c s, order := x.orders }]
        orders := x.orders + 1 }))) ∧
    (takes 6 0 6 .serial c s = true → c.op.len = 64 → bufferOpen 0x21 true c.op.addr 64 s = true →
      exec (.iplCtxRead n) s = .next (finishOp c stOk 64 (ctxStateWord x) (wordOf x.delivered)
        (stored c ((List.range 64).map fun i => Config.ctxReadByte s.gts k i) s))) ∧
    (let i := bitsOf (c.op.word 6) 1 0
    let old := s.stream i
    let y : EncStream := { old with
      cfg := [c.op.word 7 &&& (0x0000_010F : Word), c.op.word 8, c.op.word 9 &&& (0x01FF_0007 : Word),
        c.op.word 10 &&& (0x8000_FFFF : Word)] }
    takes 6 0 8 .serial c s = true →
      (bitOf (c.op.word 6) 31 = false → encFault i false y s = none → exec (.encCfg n) s = .next (finishOp c stOk 0 0 0
        (s.setStream i { old with st := .off, due := [], gop := 0, idrNext := false }))) ∧
      (bitOf (c.op.word 6) 31 = true → encFault i true y s = none →
        let st := if old.st = .deferred then EncState.deferred else .run
        exec (.encCfg n) s = .next (finishOp c stOk 0 (wordOf st.code) 0
          (s.setStream i { y with st := st, idrNext := true, due := if old.st = .off then [] else old.due })))) ∧
    (takes 6 0 9 .serial c s = true →
      let is := streamNumbers.filter fun i => bitOf (c.op.word 6) i
      exec (.encIdr n) s = .next (finishOp c stOk 0 (wordOf is.length) 0
        (is.foldl (fun u i => u.setStream i { u.stream i with idrNext := true }) s))) ∧
    (takes 6 1 0x10 .parallel c s = true → exec (.dispBuf n) s =
      .next (if c.op.len < dispMax s then failOp c stLen 0 s else startOp c [] s)) ∧
    (takes 6 2 0x11 .parallel c s = true → exec (.statBuf n) s =
      .next (if c.op.len < 4096 then failOp c stLen 0 s else startOp c [] s)) ∧
    (takes 6 3 0x12 .parallel c s = true → exec (.codeBuf n) s =
      .next (if c.op.len < 4096 then failOp c stLen 0 s else startOp c [] s))) ∧
  (∀ s : State, s.pdOn 5 = true →
    exec .iplStopEffect s = .next (finishStops (ictxNumbers.foldl (fun u c => iplStopped c u) s)) ∧
    ∀ c, (s.ictx c).state.beyond = true → (s.ictx c).stopped s.t = true → (s.ictx c).frames = [] →
      ((iplStopped c s).ictx c).state = .loaded ∧ ((iplStopped c s).ictx c).stopT = none) ∧
  ∀ (a : Access) (v : Word) (s : State), opens a 5 s = true →
    let u : State := { s.reply a .ok with ipl.en := bitOf v 31 }
    exec (.iplCtlWrite a v) s =
      .next (if bitOf v 31 then u else ictxNumbers.foldl (fun u c => iplStopCtx c u) u)

/-! ### Lookout (08) -/

/-- An epoch of Lookout (R209, R210, R220 to R222, R235): at its close instant its input set is fixed and the next
close is that of the epoch after; a second sends its encoding instead; Col runs one invocation after the other, each
ends into its epoch, and the next starts; at its release instant it is released or skipped, and no epoch up to it
remains. The second's encoding joins an epoch up to its close, and a replica of a release reaches a SHADOW module
only. -/
def Obligations.EpochsCloseFuseAndRelease : Prop :=
  (∀ s : State,
    let l := s.lko
    let e := l.nextClose
    (l.state ≠ .shadow → l.fusing = true → l.upTo e = true → l.closeAt e < boundaryOf (s.t + 1) →
      exec .epochClose s = .next (colStart (closeEpoch e (l.closeAt e) false (s.advance (l.closeAt e))))) ∧
    (l.state = .shadow → l.upTo e = true → instantOf e < boundaryOf (s.t + 1) →
      exec .epochClose s = .next (closeRemote e (s.advance (instantOf e)))) ∧
    (l.upTo e = false ∨ (l.state ≠ .shadow ∧ l.fusing = false) → exec .epochClose s = .next s)) ∧
  (∀ (e g : Nat) (takeover : Bool) (s : State),
    (closeEpoch e g takeover s).lko.nextClose = e + 1 ∧ (closeRemote e s).lko.nextClose = e + 1 ∧
    (∃ r, (closeRemote e s).lko.remoteOut = some r ∧ r.epoch = e) ∧
    (closeEpoch e g takeover s).mem = s.mem ∧ (closeEpoch e g takeover s).hri = s.hri) ∧
  (∀ s : State,
    let l := s.lko
    let e := l.nextRel
    (l.fusing = true → l.upTo e = true → l.relAt e < boundaryOf (s.t + 1) →
      ∃ t, exec .epochRelease s = .next t ∧ t = releaseEpoch e (s.advance (l.relAt e)) ∧
        (l.tailE = none → t.lko.nextRel = e + 1) ∧
        ∀ y ∈ t.lko.epochs, e < y.num) ∧
    (l.fusing = false ∨ l.upTo e = false ∨ boundaryOf (s.t + 1) ≤ l.relAt e →
      exec .epochRelease s = .next s)) ∧
  (∀ s : State, s.pdOn 2 = true → s.pdOn 6 = true →
    let idle : State := { s with lko.col := none }
    (∀ (e : Nat) (c : Fin 12) (cap : Nat) (p : Bool) (enc : Encoding), s.lko.col = some (.cam e c cap, p) →
      exec (.colInvocationEnd (.camEnc c cap enc)) s = .next (colStart (endCamera e c cap p enc idle))) ∧
    (∀ (e : Nat) (i : Fin 2) (p : Bool) (enc : Encoding), s.lko.col = some (.lidar e i, p) →
      exec (.colInvocationEnd (.lidarEnc i enc)) s = .next (colStart (endLidar e i p enc idle))) ∧
    (∀ (e : Nat) (p : Bool) (features : List Byte) (v : State), s.lko.col = some (.fuse e, p) →
      (s.lko.epoch e).fused = none → (s.lko.epoch e).failed = false → streamWeights 2 p idle = (v, true) →
      let x := v.lko.epoch e
      exec (.colInvocationEnd (.fuse features)) s = .next (colStart (v.setEpoch { x with
        fused := some features, changed := precChanged v.lko x
        warps := x.samples.map fun q => (q.cam, poseDiff v.lko q.cap (instantOf e)) }))) ∧
    (∀ (e : Nat) (p : Bool) (cells : Tab Cell) (v : State), s.lko.col = some (.head e, p) →
      (s.lko.epoch e).fused.isSome = true → (s.lko.epoch e).products = none → (s.lko.epoch e).failed = false →
      streamWeights 3 p idle = (v, true) →
      let x := v.lko.epoch e
      exec (.colInvocationEnd (.head cells)) s = .next (colStart (v.setEpoch { x with
        products := some (productsOf v.lko e cells (distances x cells v)) }))) ∧
    (s.lko.col = none → ∀ r, exec (.colInvocationEnd r) s = .next s)) ∧
  (∀ (s : State) (r : ColEnd), s.pdOn 6 = false → exec (.colInvocationEnd r) s = .next s) ∧
  (∀ (s : State), s.lko.col = none → s.pdOn 2 = true → s.pdOn 6 = true →
    ∀ j, s.lko.nextJob = some j → ∃ p, (colStart s).lko.col = some (j, p)) ∧
  (∀ (r : RemoteEnc) (a : Nat) (s : State), s.rtl.role = .lead → s.lko.fusing = true →
    (∀ p ∈ r.cams, p.1 < 12) →
    let e := r.epoch
    let u : State := { s.advance a with
      lko.teamCams := orMask s.lko.teamCams (maskOf (r.cams.map fun p => p.1)) }
    (a ≤ s.lko.closeAt e → s.lko.collects e = true → exec (.remoteEncodingArrival r a) s = .next
      (u.setEpoch { u.lko.epoch e with remote := some r })) ∧
    (s.lko.closeAt e < a → s.lko.closeAt (e + 1) < a → exec (.remoteEncodingArrival r a) s =
      .next (raiseAt a 346 3 (e % 2 ^ 32) (remoteSample 338 e a
        { u with lko.lateCnt := min (s.lko.lateCnt + 1) max32 })))) ∧
  (∀ (r : RemoteEnc) (a : Nat) (s : State), s.rtl.role ≠ .lead ∨ s.lko.fusing = false →
    exec (.remoteEncodingArrival r a) s = .next s) ∧
  ∀ (r : RelReplica) (s : State),
    (s.lko.state = .shadow → ∃ t, exec (.releaseReplicaArrival r) s = .next t ∧ t.lko.replica = some r ∧
      t.lko.state = .shadow ∧ (∀ n, n < 14 → (t.lin n).excluded = r.excluded.testBit n) ∧ t.gts = s.gts) ∧
    (s.lko.state ≠ .shadow → exec (.releaseReplicaArrival r) s = .next s)

/-- The ring operations of Lookout (R238 to R242): the configuration is taken in EMPTY or LOADED, a sensor's in
LOADED, each only in range; a model only with a sound header and matching CRCs; START passes the checks of R223 and
R234 and names the first epoch released; STOP ends at the next epoch instant; HEALTH_READ stores the records; a lidar
batch is split into points binned and points not; OUT_BUF and FEAT_BUF wait in their pools. -/
def Obligations.LookoutOperationsFollowTheirChecks : Prop :=
  (∀ (n : Fin 32) (c : OpRef) (s : State), c.ring = n.val →
    let ws := maskWords lkoCfgMask (leWords 32 (bufferOf c s))
    let k := bitsOf (c.op.word 6) 3 0
    let xs := maskWords sensorMask (leWords 32 (bufferOf c s))
    (takes 7 0 1 .serial c s = true → c.op.len = 128 → s.lko.state = .empty ∨ s.lko.state = .loaded →
      bufferOpen 0x23 false c.op.addr 128 s = true →
      (cfgFault ws = none → exec (.lkoCfgLoad n) s =
        .next (finishOp c stOk 128 0 0 (setLkoState .loaded { s with lko.cfg := ws }))) ∧
      (∀ w, cfgFault ws = some w → exec (.lkoCfgLoad n) s =
        .next (failOp c stSchema 128 (lkoErr c.op.opcode 1 0 w s)))) ∧
    (takes 7 0 2 .serial c s = true → c.op.len = 128 → s.lko.state = .loaded → k < 14 →
      bufferOpen 0x23 false c.op.addr 128 s = true → sensorFault k xs = none →
      let old := s.lin k
      let y : LkoInput := { old with cfg := xs }
      let keep := old.clock.st == .aligned && old.timebase != 0 && old.timebase == y.timebase
        && old.period == y.period
      let y := if keep then y else { y with clock := {} }
      let y := if y.en && !old.en then { y with score := 255, unscored := false, weight := 32768 } else y
      exec (.sensorCfg n) s = .next (finishOp c stOk 128 (wordOf y.clockCode) 0 (s.setLin k y))) ∧
    (let bs := bufferOf c s
    let m : ColModel := { addr := c.op.addr, header := leWords 64 bs }
    let slot := bitsOf (m.word 1) 23 16
    takes 7 0 3 .serial c s = true → 256 ≤ c.op.len → bufferOpen 0x23 false c.op.addr c.op.len s = true →
      (headerOk (leWords 64 bs) c.op.len = true → (Tab.find s.lko.models slot = none ∨ s.lko.state.running = false) →
        crc32 ((bs.drop 256).take (m.size false)) = m.crc false →
        (m.hasInt8 = true → crc32 ((bs.drop (256 + m.size false)).take (m.size true)) = m.crc true) →
        exec (.modelLoad n) s = .next (finishOp c stOk c.op.len (wordOf slot) (wordOf (oneIf m.hasInt8 * 2))
          { s with lko.models := Tab.put s.lko.models slot m })) ∧
      (headerOk (leWords 64 bs) c.op.len = false → exec (.modelLoad n) s =
        .next (failOp c stSchema c.op.len (lkoErr c.op.opcode 3 (slot % 16) 0 s)))) ∧
    (let slot := bitsOf (c.op.word 6) 1 0
    takes 7 0 4 .serial c s = true →
      (s.lko.state.running = false → exec (.modelDrop n) s =
        .next (finishOp c stOk 0 (wordOf slot) 0 { s with lko.models := Tab.del s.lko.models slot })) ∧
      (s.lko.state.running = true → exec (.modelDrop n) s = .next (failOp c stBusy 0 s))) ∧
    (let v := c.op.word64 6
    let t0 := startTick s v
    takes 7 0 5 .serial c s = true → (v = 0 ∨ s.t < v) → s.lko.state = .loaded → s.lko.en = true →
      (startFault s = none → exec (.lkoStart n) s = .next (finishOp c stOk 0 (wordOf ((t0 + 39) / 40 + 1))
        (wordOf (openDiv (colBudget s).2 1000)) (lkoBegin t0 s))) ∧
      (∀ reason, startFault s = some reason → exec (.lkoStart n) s =
        .next (failOp c stSchema 0 (lkoErr c.op.opcode reason 0 0 s)))) ∧
    (takes 7 0 6 .serial c s = true →
      (s.lko.state.running = true → exec (.lkoStop n) s = .next (startOp c [] { s with
        lko.lastE := some (s.lko.lastE.getD (s.gts / epochLen + 1)) })) ∧
      (s.lko.state.running = false → exec (.lkoStop n) s = .next (failOp c stBusy 0 s))) ∧
    (let bs := inputNumbers.flatMap fun j => healthRecord (s.lin j)
    takes 7 0 7 .serial c s = true → c.op.len = 544 → bufferOpen 0x23 true c.op.addr bs.length s = true →
      exec (.healthRead n) s = .next (finishOp c stOk bs.length (wordOf s.lko.lastEpoch) 0 (stored c bs s))) ∧
    (let bs := bufferOf c s
    let p := leNat ((bs.drop 10).take 2)
    let i := leNat ((bs.drop 12).take 1)
    takes 7 1 0x10 .serial c s = true → c.op.len = 32 + 16 * p → 0 < p → i < 2 → (s.lin (12 + i)).en = true →
      leNat ((bs.drop 13).take 3) = 0 → leNat ((bs.drop 24).take 8) = 0 → s.lko.state.running = true →
      bufferOpen 0x23 false c.op.addr c.op.len s = true →
      ∃ t b, exec (.lidarPut n) s = .next t ∧ b ≤ p ∧ endsOk c (wordOf b) (wordOf (p - b)) t ∧
        t.mem = s.mem ∧ t.gts = s.gts ∧ t.lsw = s.lsw) ∧
    (takes 7 2 0x20 .parallel c s = true → exec (.outBuf n) s =
      .next (if c.op.len < blockSize then failOp c stLen 0 s else startOp c [] s)) ∧
    (takes 7 3 0x21 .parallel c s = true → exec (.featBuf n) s =
      .next (if c.op.len < 2621504 then failOp c stLen 0 s else startOp c [] s))) ∧
  ∀ (a : Access) (v : Word) (s : State), opens a 2 s = true →
    let u : State := { s.reply a .ok with lko.en := bitOf v 31 }
    exec (.lkoCtlWrite a v) s = .next (if bitOf v 31 then u else lkoStopNow u)

/-! ### The GNSS baseband (09) -/

/-- The transitions of R249, each while GNB runs and PD7 is on, and the antenna ports (R246). A channel moves as the
table says, after its ticks in the state or its run of successive ticks of lock or C/N0 (COAST where aiding is DEEP),
and no other channel moves; a port reads SHORT at its limit with its bias off and tries again after 1,000 ticks. The
instants of GNB. A measurement instant is the boundary of a tick with T mod MEAS_DIV 0, once: it solves, moves the
mapping and writes the block, or, where the tick's work overruns, commits none of these and counts SOL_SKIP (log 186);
the navigation buffer completes (R252 to R257). A navigation message is counted and what it carries is used where it
passes; it is dropped without a buffer, else written (R254, R255). The next PPS edge, by the module's own mapping or
the lead's, the end of a slew and a step take place at the mapping's counts (R261 to R265). A correlator write out of
range leaves the spacing (R248); GNB_CTL.EN 0 stops at the next boundary (R268). -/
def Obligations.ReceiverFollowsItsStatesAndInstants : Prop :=
  ((∀ (c : Fin 256) (s : State), s.pdOn 7 = true → s.gnb.state = .run →
     let x := s.gch c
     let track := setChState c .track s
     (x.st = .search → x.since ≤ s.t → ∀ (code : Nat) (dop : Int),
       exec (.channelDetection c code dop) s = .next (setChState c .pullIn (s.setGch c { x with
         codeT := (code : Rat) / 1000, codeRate := 0, phase := 0, accel := 0, rate := (dop : Rat) / 1000
         loop := (dop : Rat) / 1000, aidWas := 0, aidNow := 0, aidSlope := 0 }))) ∧
     (x.st = .search → x.since + 4000 ≤ s.t → exec (.searchTimeout c) s = .next (setChState c .idle s)) ∧
     (x.st = .pullIn → 200 ≤ x.run → exec (.pullInLock c) s =
       .next (track.setGch c { track.gch c with lockT := s.t, slip := false })) ∧
     (x.st = .pullIn → x.since + 1000 ≤ s.t → exec (.pullInTimeout c) s = .next (setChState c .search s)) ∧
     (x.st = .track → 20 ≤ x.run →
       exec (.trackSignalLoss c) s = .next (setChState c (if deep s then .coast else .search) s)) ∧
     (x.st = .coast → 20 ≤ x.run → s.t ≤ x.since + s.gnb.coastT → ∀ phase : Int,
       (carrierCheck x phase = true → exec (.coastReacquire c phase) s = .next track) ∧
       (carrierCheck x phase = false → ∃ y, exec (.coastReacquire c phase) s = .next (track.setGch c y) ∧
         y.st = .track ∧ y.lockT = s.t ∧ y.slip = true)) ∧
     (x.st = .coast → x.since + s.gnb.coastT ≤ s.t → exec (.coastTimeout c) s = .next (setChState c .search s)) ∧
     (x.st ≠ .search → (∀ code dop, exec (.channelDetection c code dop) s = .next s) ∧
       exec (.searchTimeout c) s = .next s) ∧
     (x.st ≠ .pullIn → exec (.pullInLock c) s = .next s ∧ exec (.pullInTimeout c) s = .next s) ∧
     (x.st ≠ .track ∨ x.run < 20 → exec (.trackSignalLoss c) s = .next s) ∧
     (x.st ≠ .coast → exec (.coastTimeout c) s = .next s ∧
       ∀ phase, exec (.coastReacquire c phase) s = .next s)) ∧
   (∀ (x : GnbCh) (g : Gnb) (c : CorrOut),
     (x.st = .pullIn → (x.counted g c).run = if c.lock then x.run + 1 else 0) ∧
     (x.st = .track → (x.counted g c).run = if c.cn0 < g.cn0Loss * 100 then x.run + 1 else 0) ∧
     (x.st = .coast → (x.counted g c).run = if (g.cn0Loss + 3) * 100 ≤ c.cn0 then x.run + 1 else 0)) ∧
   (∀ (c : Nat) (st : GnbChState) (s : State),
     let t := setChState c st s
     (t.gch c).st = st ∧ (t.gch c).since = s.t ∧ (t.gch c).run = 0 ∧ (∀ d, d ≠ c → t.gch d = s.gch d) ∧
     t.gnb.cfg = s.gnb.cfg ∧ t.gnb.tmap = s.gnb.tmap ∧ t.gnb.sol = s.gnb.sol ∧ t.gts = s.gts ∧ t.mem = s.mem ∧
     t.lsw = s.lsw ∧ t.bce = s.bce ∧ t.can = s.can ∧ t.hri = s.hri ∧ t.pwr = s.pwr) ∧
   (∀ (cands : List Cand) (s : State), s.pdOn 7 = true → s.gnb.state = .run →
     let low (x : GnbCh) : Bool := cands.any fun q => x.holds q && decide (q.elev < ((s.gnb.elevMask : Int) - 2) * 10)
     ((∀ t, s.gnb.examT = some t → t + 1000 ≤ s.t) → exec (.channelReexamine cands) s =
       .next (((cands.filter (isCandidate s.gnb)).foldr insertCand []).foldl allocate
         (sweepCh low .idle { s with gnb.examT := some s.t }))) ∧
     (∀ t, s.gnb.examT = some t → s.t < t + 1000 → exec (.channelReexamine cands) s = .next s)) ∧
   ∀ (two : Bool) (mA : Nat) (s : State), s.pdOn 7 = true →
     let x := s.ant two
     let seen := { x with mA := mA % 2 ^ 14 }
     (x.bias = true → exec (.antennaStateChange two mA false) s =
       .next (antState two (if mA < 2 + (Config.antOpen two).val then 2 else 1) (s.setAnt two seen)) ∧
       exec (.antennaStateChange two mA true) s =
         .next (antState two 3 (s.setAnt two { seen with bias := false, shortT := s.t }))) ∧
     (x.st = 3 → x.bias = false → x.shortT + 1000 ≤ s.t →
       exec (.antennaRetry two) s = .next (s.setAnt two { x with bias := true })) ∧
     (x.st ≠ 3 ∨ x.bias = true ∨ s.t < x.shortT + 1000 → exec (.antennaRetry two) s = .next s)) ∧
  (∀ (m : MeasIn) (s : State), s.pdOn 7 = true →
    let g := boundaryOf s.t
    let u : State := { s with gnb.measT := some s.t }
    (s.gnb.state = .run → 0 < s.gnb.measDiv → s.t % s.gnb.measDiv = 0 → s.gnb.measT ≠ some s.t →
      (s.overruns .gnss = false → exec (.measurementInstant m) s =
        .next (navInstant g (measBegin (measOut g (tmapInstant m g (solve m g (corrCheck g u))))))) ∧
      (s.overruns .gnss = true → exec (.measurementInstant m) s =
        .next (navInstant g { u with gnb.solSkip := min (s.gnb.solSkip + 1) max32 }))) ∧
    (s.gnb.state ≠ .run ∨ s.t % s.gnb.measDiv ≠ 0 ∨ s.gnb.measT = some s.t →
      exec (.measurementInstant m) s = .next s)) ∧
  (∀ (m : NavIn) (s : State), s.pdOn 7 = true →
    let x := s.gch m.chan
    let v : State := { s with gnb.navFail := min (s.gnb.navFail + navFailures x.sig m) max32 }
    let u := if navUsed x.sig m then navTake x m v else v
    (s.gnb.state = .run → x.st = .track ∨ x.st = .coast →
      (navTarget u = none →
        exec (.navMessage m) s = .next { u with gnb.navDrop := u.gnb.navDrop + 1 }) ∧
      (∀ c, navTarget u = some c →
        exec (.navMessage m) s = .next (navWrite c (navRecord x m) u))) ∧
    (x.st ≠ .track → x.st ≠ .coast → exec (.navMessage m) s = .next s)) ∧
  (∀ s : State, s.pdOn 7 = true →
    let m := s.gnb.tmap
    (m.lead = none → m.st ≠ .none' → m.step = none →
      let g := (secondAfter m.g0 m.t0 m.pace s.gnb.ppsOfs (m.earliest s.gts)).1
      (g < boundaryOf (s.t + 1) → ∃ t, exec .ppsEdge s = .next t ∧ t.gnb.tmap.edge = some g ∧
        t.gnb.tmap.pubG = g ∧ t.gts = (s.advance g).gts ∧ t.mem = s.mem) ∧
      (boundaryOf (s.t + 1) ≤ g → exec .ppsEdge s = .next s)) ∧
    (m.lead = none → m.st = .none' ∨ m.step.isSome = true → exec .ppsEdge s = .next s) ∧
    (∀ q, m.lead = some q → q.quiet = false →
      let g := (secondAfter q.g0 (leadT0 q) (paceOf q.rate) s.gnb.ppsOfs (m.earliest s.gts)).1
      (g < boundaryOf (s.t + 1) → ∃ t, exec .ppsEdge s = .next t ∧ t.gnb.tmap.edge = some g ∧
        t.gnb.tmap.pubG = g ∧ t.mem = s.mem) ∧
      (boundaryOf (s.t + 1) ≤ g → exec .ppsEdge s = .next s)) ∧
    (∀ q, m.lead = some q → q.quiet = true → exec .ppsEdge s = .next s) ∧
    (m.st = .slew →
      let g := m.resAt + m.resid.natAbs * 4000000
      (g < boundaryOf (s.t + 1) → ∃ t, exec .slewComplete s = .next t ∧ t.gnb.tmap = { m with
        st := .locked, g0 := g, t0 := m.timeAt g, resid := 0, steer := 0 }) ∧
      (boundaryOf (s.t + 1) ≤ g → exec .slewComplete s = .next s)) ∧
    (m.st ≠ .slew → exec .slewComplete s = .next s) ∧
    (∀ p, m.step = some p →
      let from' := max p.at' (m.edge.elim p.at' fun e => e + halfSecond)
      let q := secondAfter p.at' p.trueNs (paceOf m.rate) s.gnb.ppsOfs from'
      (q.1 < boundaryOf (s.t + 1) → ∃ t, exec .timeStep s = .next t ∧
        t.gnb.tmap.st = (if p.hold then .holdover else .locked) ∧
        t.gnb.tmap.g0 = q.1 ∧ t.gnb.tmap.t0 = q.2 ∧ t.gnb.tmap.step = none ∧
        (m.lead = none → t.gnb.tmap.edge = some q.1) ∧ t.gnb.stepped = true) ∧
      (boundaryOf (s.t + 1) ≤ q.1 → exec .timeStep s = .next s)) ∧
    (m.step = none → exec .timeStep s = .next s)) ∧
  ∀ (a : Access) (v : Word) (s : State), opens a 7 s = true →
    let u := s.reply a .ok
    (∀ k : Fin 11,
      let el := bitsOf v 6 0
      let vel := bitsOf v 31 24
      (1 ≤ el → el ≤ 64 → 2 ≤ vel → vel ≤ 128 → el < vel → exec (.corrSpacingWrite a k v) s =
        .next { u with gnb.spacing := Tab.put s.gnb.spacing k (v &&& (0xFFFF_FF7F : Word)) }) ∧
      (el = 0 ∨ 64 < el ∨ vel < 2 ∨ 128 < vel ∨ vel ≤ el →
        exec (.corrSpacingWrite a k v) s = .next { u with gnb.errLast := wordOf (65536 + k) })) ∧
    (bitOf v 31 = true → exec (.gnbCtlWrite a v) s = .next { u with gnb.en := true }) ∧
    (bitOf v 31 = false → s.gnb.state = .run → s.gnb.stopT = none → exec (.gnbCtlWrite a v) s =
      .next { u with gnb.en := false, gnb.stopT := some (s.t + 1) })

/-- The ring operations of GNB (R269, R270), each with its checks and results: CFG_LOAD not in RUN and only in range;
START later than T, in LOADED and enabled; STOP in RUN, posted at the stop boundary; ASSIST_PUT uses known kinds;
SNAP_LIST and SNAP_READ store the snapshots; CORR_PUT counts frames; the pools take buffers long enough. -/
def Obligations.GnssOperationsFollowTheirChecks : Prop :=
  ∀ (n : Fin 32) (c : OpRef) (s : State), c.ring = n.val →
    (let ws := maskWords gnbCfgMask (leWords 32 (bufferOf c s))
    takes 8 0 1 .serial c s = true → c.op.len = 128 →
      (s.gnb.state = .run → exec (.gnbCfgLoad n) s = .next (failOp c stBusy 0 s)) ∧
      (s.gnb.state ≠ .run → bufferOpen 0x25 false c.op.addr 128 s = true →
        (gnbFault ws = none → exec (.gnbCfgLoad n) s =
          .next (finishOp c stOk 128 0 0 { s with gnb.cfg := ws, gnb.state := .loaded })) ∧
        (∀ reason w, gnbFault ws = some (reason, w) → exec (.gnbCfgLoad n) s =
          .next (failOp c stSchema 128 (gnbErr c.op.opcode reason w s))))) ∧
    (let v := c.op.word64 6
    takes 8 0 2 .serial c s = true →
      (v ≠ 0 → v ≤ s.t → exec (.gnbStart n) s = .next (failOp c stLate 0 s)) ∧
      ((v = 0 ∨ s.t < v) → (s.gnb.state ≠ .loaded ∨ s.gnb.en = false) →
        exec (.gnbStart n) s = .next (failOp c stBusy 0 s)) ∧
      ((v = 0 ∨ s.t < v) → s.gnb.state = .loaded → s.gnb.en = true → exec (.gnbStart n) s =
        .next (finishOp c stOk 0 (wordOf (startTick s v)) 0 { s with gnb.startT := some (startTick s v) }))) ∧
    (takes 8 0 3 .serial c s = true →
      (s.gnb.state = .run → exec (.gnbStop n) s =
        .next (startOp c [] { s with gnb.stopT := some (s.gnb.stopT.getD (s.t + 1)) })) ∧
      (s.gnb.state ≠ .run → exec (.gnbStop n) s = .next (failOp c stBusy 0 s))) ∧
    (let rs := records64 (c.op.len / 64) (bufferOf c s)
    let used := rs.filter assistKnown
    takes 8 0 4 .serial c s = true → c.op.len % 64 = 0 → 64 ≤ c.op.len → c.op.len ≤ 32768 →
      bufferOpen 0x25 false c.op.addr c.op.len s = true →
      ((∀ r ∈ rs, (r.drop 3).take 5 = zeros 5) → exec (.assistPut n) s = .next (finishOp c stOk c.op.len
        (wordOf used.length) (wordOf (c.op.len / 64 - used.length)) (used.foldl assistTake s))) ∧
      ((∃ r ∈ rs, (r.drop 3).take 5 ≠ zeros 5) → exec (.assistPut n) s =
        .next (failOp c stSchema c.op.len (gnbErr c.op.opcode 3 0 s)))) ∧
    (let newest := s.biv.area.reverse
    let bs := fitBytes 1024 (newest.flatMap fun x => leBytes 4 x.serial ++ leBytes 4 x.pcc)
    takes 8 0 5 .serial c s = true → c.op.len = 1024 → bufferOpen 0x25 true c.op.addr bs.length s = true →
      exec (.snapList n) s = .next (finishOp c stOk bs.length (wordOf newest.length)
        ((newest.head?.map fun x => wordOf x.serial).getD Config.noSnapshot) (stored c bs s))) ∧
    (let found := s.biv.area.find? fun x => wordOf x.serial == c.op.word 6
    takes 8 0 6 .serial c s = true → c.op.len = 32832 →
      (∀ x, found = some x → bufferOpen 0x25 true c.op.addr (fitBytes 32832 x.bytes).length s = true →
        exec (.snapRead n) s = .next (finishOp c stOk (fitBytes 32832 x.bytes).length (c.op.word 6) 0
          (stored c (fitBytes 32832 x.bytes) s))) ∧
      (found = none → exec (.snapRead n) s = .next (failOp c stSchema 0 (gnbErr c.op.opcode 1 0 s)))) ∧
    (takes 8 1 0x10 .serial c s = true → 6 ≤ c.op.len → c.op.len ≤ 65536 →
      (s.gnb.state ≠ .run → exec (.corrPut n) s = .next (failOp c stBusy 0 s)) ∧
      (s.gnb.state = .run → bufferOpen 0x25 false c.op.addr c.op.len s = true →
        let fs := cutRtcm c.op.len (bufferOf c s)
        let bad := (fs.filter fun x => x == .rejected || x == .loose).length
        ∃ t, exec (.corrPut n) s = .next t ∧ endsOk c (wordOf (fs.length - bad)) (wordOf bad) t ∧
          t.gnb.corrOk = min (s.gnb.corrOk + (fs.length - bad)) 0xFFFF ∧
          t.gnb.corrBad = min (s.gnb.corrBad + bad) 0xFFFF ∧ t.gts = s.gts ∧ t.gnb.ch = s.gnb.ch)) ∧
    (takes 8 2 0x20 .parallel c s = true → exec (.measBuf n) s =
      .next (if c.op.len < 8256 then failOp c stLen 0 s else startOp c [] s)) ∧
    (takes 8 3 0x21 .parallel c s = true → exec (.navBuf n) s =
      .next (if c.op.len < 4096 then failOp c stLen 0 s else startOp c [] s))

/-! ### Yield mapping (11) -/

/-- The mass of a sensed step is divided by R295 and neither made nor lost (R296): each cut step of the window takes q
h c over the sum of all h c, UNATTRIB takes q where that sum is 0, and SENSED stays ATTRIB plus UNATTRIB. -/
def Obligations.YieldMassIsSharedAndKept : Prop :=
  ∀ (i : Nat) (q : Rat) (m : Option Rat) (slow : Bool) (x : YldSensed) (y : Yld),
    y.hist.Pairwise (fun a b => a.1 < b.1) →
    let ws := window y i
    let den := (ws.map fun e => e.2).sum
    let z := shareOut i q m slow y
    z.sensed = y.sensed + q ∧ z.tank = y.tank + q ∧ z.delay = y.delay ∧
    (den = 0 → z.unattrib = y.unattrib + q ∧ z.attrib = y.attrib ∧ z.hist = y.hist) ∧
    (den ≠ 0 → z.attrib = y.attrib + q ∧ z.unattrib = y.unattrib ∧
      (z.hist.map fun e => e.2.attr).sum = (y.hist.map fun e => e.2.attr).sum + q ∧
      (∀ e ∈ y.hist, e.1 + y.delay ≤ i + y.spread → i ≤ e.1 + y.delay + y.spread →
        Tab.find z.hist e.1 = some (takeShare e.2
          ((kernel y.spread y.delay (i - e.1) : Rat) * e.2.c * q / den) m)) ∧
      (∀ e ∈ y.hist, i + y.spread < e.1 + y.delay ∨ e.1 + y.delay + y.spread < i → e ∈ z.hist)) ∧
    (y.sensed = y.attrib + y.unattrib → z.sensed = z.attrib + z.unattrib ∧
      (divideStep i x y).sensed = (divideStep i x y).attrib + (divideStep i x y).unattrib) ∧
    (divideStep i x y).hist.Pairwise (fun a b => a.1 < b.1)

/-- The yield service in its ticks: F_T enters the step at phase 50, and repeats the tick before's where the tick's
work overruns (R28, R290, R291); a step of 10 ticks is divided at its end, on a second kept for a takeover (R292,
R303); every 1,000 steps the lag of the peak becomes the delay where the correlation is at least 0.5 (R294); at a
second's boundary the seconds due close, then tasks open or close (R297); records reach flash (R300). -/
def Obligations.YieldStepsRunInTheirTicks : Prop :=
  ∀ s : State, s.pdOn 2 = true →
    let y := s.yld
    let b := boundaryOf s.t
    let p := b + 50 * phaseLen
    let i := s.t / 10 - 1
    (s.tick.running = true → sensing s = true → y.sensedT ≠ some s.t →
      let u := s.advance p
      let f := grainFlow u p
      exec .yieldSense s = .next { u with
        yld.acc := if s.overruns .yieldService then y.acc.add y.acc.last false y.acc.hdrUp none
          else y.acc.add f.1 f.2 (headerUp u p) (tickMoisture u p f.1)
        yld.sensedT := some s.t }) ∧
    (sensing s = false ∨ y.sensedT = some s.t → exec .yieldSense s = .next s) ∧
    (let x : YldSensed := {
      q := y.acc.f / 1000, moist := if y.acc.moistF = 0 then none else some (y.acc.moist / y.acc.moistF)
      slow := y.acc.slow, cut := cutStep i b s }
    let u : State := { s with yld.acc := { last := y.acc.last, hdrUp := y.acc.hdrUp } }
    let z : Yld := { divideStep i x u.yld with lastQ := some (s.t, x.q) }
    s.t % 10 = 0 → 10 ≤ s.t → y.nextStep ≤ i →
      (y.state = .run → i % 100 ≠ 99 → exec .yieldStepEnd s = .next { u with yld := z }) ∧
      (y.state = .run → i % 100 = 99 →
        exec .yieldStepEnd s = .next (reportUnattributed b { u with yld := z })) ∧
      (y.state = .loaded → s.rtl.role = .second → ∃ t, exec .yieldStepEnd s = .next t ∧
        t.yld.nextStep = i + 1 ∧ Tab.find t.yld.own i = some x ∧ t.yld.hist = y.hist ∧ t.mem = s.mem)) ∧
    (s.t % 10 ≠ 0 → exec .yieldStepEnd s = .next s) ∧
    (y.state = .run → y.estDue = true →
      let pk := corrPeak y
      let at' := boundaryOf (10 * y.nextStep)
      let u : State := { s with yld.estDue := false, yld.rho := some pk.1, yld.held := decide (pk.1 < 1 / 2) }
      exec .delayEstimate s = .next (
        if pk.1 < 1 / 2 then raiseAt at' 27 2 (rhoByte pk.1) u
        else if pk.2 = y.delay then u
        else raiseAt at' 27 1 pk.2 { u with yld.delay := pk.2 })) ∧
    (y.estDue = false → exec .delayEstimate s = .next s) ∧
    (y.state = .run → s.t % 1000 = 0 → y.nextStep * 10 = s.t → exec .yieldRecord s =
      .next (settleTasks (s.t + 1) (closeSeconds b y.nextSec (secondsDue y s.t) false s))) ∧
    (y.state ≠ .run ∨ s.t % 1000 ≠ 0 → exec .yieldRecord s = .next s) ∧
    exec .yieldFlashWrite s = .next { s with
      yld.pend := [], yarea.tasks := s.yarea.tasks.map fun x => { x with recs := taskRecords s x } }

/-- The ring operations of the yield service (R301, R304, R305): each with its checks in order and its results.
YLD_STATUS is written at the next tick boundary, and TANK_SET comes before the mass of a step that ended in its tick
(R303; log 193). -/
def Obligations.YieldOperationsFollowTheirChecks : Prop :=
  ∀ (n : Fin 32) (c : OpRef) (s : State), c.ring = n.val →
    let v := c.op.word64 6
    let id := (c.op.word 6).toNat
    (let ws := maskWords yldCfgMask (leWords 32 (bufferOf c s))
    takes 0 0 1 .serial c s = true → c.op.len = 128 →
      (s.yld.state = .run → exec (.yldCfg n) s = .next (failOp c stBusy 0 s)) ∧
      (s.yld.state ≠ .run → bufferOpen 0x2F false c.op.addr 128 s = true → exec (.yldCfg n) s =
        .next (if yldCfgOk { cfg := ws } then
          finishOp c stOk 128 0 0 { s with yld.cfg := ws, yld.state := .loaded }
        else failOp c stSchema 128 s))) ∧
    (takes 0 0 2 .serial c s = true →
      (s.yld.state ≠ .loaded → exec (.yldStart n) s = .next (failOp c stBusy 0 s)) ∧
      (s.yld.state = .loaded → v ≠ 0 → v ≤ s.t → exec (.yldStart n) s = .next (failOp c stLate 0 s)) ∧
      (s.yld.state = .loaded → (v = 0 ∨ s.t < v) → exec (.yldStart n) s =
        .next (finishOp c stOk 0 (wordOf (startTick s v)) 0 { s with yld.startT := some (startTick s v) }))) ∧
    (takes 0 0 3 .serial c s = true → exec (.yldStop n) s = .next (if s.yld.state = .run then
      startOp c [] { s with yld.stopT := some (s.t + 1) } else failOp c stBusy 0 s)) ∧
    (takes 0 0 4 .serial c s = true → c.op.len = 64 → exec (.yldStatus n) s = .next (startOp c [] s)) ∧
    (s.opsOf 0 0 (isStarted 4) = [c] → bufferOpen 0x2F true c.op.addr (yldStatusBytes s).length s = true →
      statusTick s = finishOp c stOk (yldStatusBytes s).length (wordOf s.yld.state.code) (wordOf s.yld.delay)
        (stored c (yldStatusBytes s) s)) ∧
    (let q : Rat := s.yld.lastQ.elim 0 fun e => if e.1 = s.t then e.2 else 0
    takes 0 0 5 .serial c s = true → exec (.tankSet n) s =
      .next (finishOp c stOk 0 (wordOf (openRat (max 0 (s.yld.tank - q) / 1000))) 0
        { s with yld.tank := (id * 1000 : Nat) + q })) ∧
    (let w := c.op.word64 7
    let known := s.yarea.tasks.any fun x => x.id == id
    takes 0 0 6 .serial c s = true →
      (id = 0 ∨ known = true → exec (.taskOpen n) s = .next (failOp c stSchema 0 s)) ∧
      (id ≠ 0 → known = false → w ≠ 0 → w ≤ s.t → exec (.taskOpen n) s = .next (failOp c stLate 0 s)) ∧
      (id ≠ 0 → known = false → (w = 0 ∨ s.t < w) →
        exec (.taskOpen n) s = .next (startOp c [id, startTick s w] s))) ∧
    (takes 0 0 7 .serial c s = true → exec (.taskClose n) s = .next (if s.yarea.openTask = none then
      failOp c stBusy 0 s else startOp c [0, s.t + 1] s)) ∧
    (let bs := s.yarea.tasks.flatMap fun x =>
      leBytes 4 x.id ++ leBytes 4 ((taskRecords s x).length + if s.yarea.openTask = some x.id then 2 ^ 31 else 0)
    takes 0 0 8 .serial c s = true → c.op.len = 8192 → bufferOpen 0x2F true c.op.addr bs.length s = true →
      exec (.taskList n) s =
        .next (finishOp c stOk bs.length (wordOf s.yarea.tasks.length) 0 (stored c bs s))) ∧
    (let found := s.yarea.tasks.find? fun x => wordOf x.id == c.op.word 6
    takes 0 0 9 .serial c s = true → 4096 ≤ c.op.len →
      (found = none → exec (.taskExport n) s = .next (failOp c stSchema 0 s)) ∧
      (∀ x, found = some x →
        (s.gnb.leap = none → exec (.taskExport n) s = .next (failOp c stStale 0 s)) ∧
        (∀ leap, s.gnb.leap = some leap →
          let rs := taskRecords s x
          let head := Config.exportHeader s.yld.ddis
          let bs := leBytes 4 head.length ++ head ++ rs.flatMap (logEntry s.yld.ddis leap)
          let out := bs.take c.op.len
          bufferOpen 0x2F true c.op.addr out.length s = true → exec (.taskExport n) s = .next (
            if bs.length ≤ c.op.len then
              finishOp c stOk bs.length (wordOf bs.length) (wordOf rs.length) (stored c bs s)
            else failOp c stIncomplete c.op.len (stored c out s))))) ∧
    (takes 0 1 0x10 .parallel c s = true → exec (.yldBuf n) s =
      .next (if c.op.len < 64 then failOp c stLen 0 s else startOp c [] s))

/-! ### CAN (12) -/

/-- The controller states of R309 and R310: EN 1 leads to INTEGRATING, EN 0 to OFF, cutting a frame on the wire (log
194); MODE acts at once while off or the bus is idle, else it waits; 11 recessive bits lead to ACTIVE or where the
counters say; the error counters decide between ACTIVE, PASSIVE and BUS_OFF; a recovery begins after REC_GO or with
AUTO_REC only, and clears both counters. CAN_TM_CFG takes a write R318 allows, and a FOLLOW begins ACQUIRING (R320).
What frames do. The first receive buffer that matches takes a data frame with its stamp (R311, R312); TXREQ assembles
ONCE buffers and TXABT removes what is not on the wire; a cyclic buffer is assembled in its tick, LATE where a frame
still waited; among the frames that contend the lowest identifier goes first, a frame sent frees its buffer, and one
that loses arbitration waits again (R313; log 194). A MASTER assembles its reference and a second master stops it
(R317, R318); a FOLLOW pairs references by PREV and is LOST after 3 x REF_DIV ticks (R319, R320). No command touches
another controller. -/
def Obligations.CanControllersAndFrames : Prop :=
  (∀ (k : Fin 8) (s : State),
     let x := s.canCtl k
     (∀ (a : Access) (v : Word), opens a 10 s = true →
       (x.en = false → bitOf v 31 = true → ∃ t, exec (.canEnable a k v) s = .next t ∧
         (t.canCtl k).state = .integrating ∧ (t.canCtl k).en = true ∧ (t.canCtl k).bufs = x.bufs) ∧
       (x.en = true → bitOf v 31 = false → ∃ t, exec (.canEnable a k v) s = .next t ∧
         (t.canCtl k).state = .off ∧ (t.canCtl k).en = false ∧ (t.canCtl k).bus = none ∧
         (∀ b g, x.bus = some (.buf b, g) → t.canBuf k b = { s.canBuf k b with wire := none, abort := false }) ∧
         ∀ b, (∀ g, x.bus ≠ some (.buf b, g)) → t.canBuf k b = s.canBuf k b) ∧
       (∀ idle, x.en = true → bitOf v 31 = true → bitsOf v 29 28 < 3 →
         ∃ t, exec (.canModeChange a k v idle) s = .next t ∧
         (t.canCtl k).mode = (if idle then bitsOf v 29 28 else x.mode) ∧
         (t.canCtl k).modeReq = bitsOf v 29 28 ∧ (t.canCtl k).state = x.state) ∧
       (x.en = true → bitOf v 31 = true → x.state = .busOff → ∃ t, exec (.recGo a k v) s = .next t ∧
         (t.canCtl k).recGo = true ∧ (t.canCtl k).state = .busOff) ∧
       (let w := v &&& (0xFFFF_03FF : Word)
       let b := bitsOf w 29 23
       let bad := bitsOf w 31 30 = 3 ∨ bitsOf w 9 0 = 0 ∨ 1000 < bitsOf w 9 0 ∨ 99 < bitsOf w 22 16 ∨
         (bitsOf w 31 30 = 1 ∧ ((s.canBuf k b).tx = false ∨ (s.canBuf k b).cyclic = false ∨ slotMapped k b s = true))
       (bad → exec (.canTmCfgWrite a k v) s = .next (s.reply a .ok)) ∧
       (¬bad → ∃ t, exec (.canTmCfgWrite a k v) s = .next t ∧ (t.canCtl k).tmCfg = w ∧
         (t.canCtl k).conflict = false ∧
         (t.canCtl k).tm.st = (if bitsOf w 31 30 = 2 then .acquiring else .off)))) ∧
     (x.state = .integrating → ∃ t, exec (.canIntegrated k) s = .next t ∧ (t.canCtl k).state =
       if 255 < x.tec then .busOff else if 127 < x.tec ∨ 127 < x.recCnt then .passive else .active) ∧
     (x.state ≠ .integrating → exec (.canIntegrated k) s = .next s) ∧
     (x.state = .busOff → x.recGo = true ∨ x.autoRec = true → ∃ t, exec (.busOffRecovered k) s = .next t ∧
       (t.canCtl k).state = .integrating ∧ (t.canCtl k).tec = 0 ∧ (t.canCtl k).recCnt = 0) ∧
     (x.state ≠ .busOff ∨ (x.recGo = false ∧ x.autoRec = false) → exec (.busOffRecovered k) s = .next s) ∧
     (∀ e tec rec' sof, x.live = true → x.mode ≠ 1 → ∃ t, exec (.canProtocolError k e tec rec' sof) s = .next t ∧
       (t.canCtl k).bus = none ∧ (t.canCtl k).tec = tec ∧ (t.canCtl k).recCnt = rec' ∧
       bitOf (t.canCtl k).flags 0 = true ∧
       (t.canCtl k).protCnt = min (x.protCnt + 1) max32 ∧
       (t.canCtl k).state = if 255 < tec then .busOff else if 127 < tec ∨ 127 < rec' then .passive else .active) ∧
     (∀ e tec rec' sof, x.live = true → x.mode = 1 → ∃ t, exec (.canProtocolError k e tec rec' sof) s = .next t ∧
       (t.canCtl k).tec = x.tec ∧ (t.canCtl k).recCnt = x.recCnt) ∧
     (∀ e tec rec' sof, x.live = false → exec (.canProtocolError k e tec rec' sof) s = .next s)) ∧
  ∀ (k : Fin 8) (s : State),
    let x := s.canCtl k
    let rest (t : State) : Prop := t.mem = s.mem ∧ t.can.rxMap = s.can.rxMap ∧ t.can.txMap = s.can.txMap ∧
      t.can.slots = s.can.slots ∧ ∀ j, j ≠ k → t.canCtl j = s.canCtl j
    (∀ f : CanFrame, x.live = true → f.remote = false →
      (∀ b, takerOf x f = some b → f.fmt.val = 0 ∨ (f.fmt.val = 1 ∧ x.fdEn = true) →
        let q := s.canBuf k b
        ∃ t, exec (.canFrameReceive k f) s = .next t ∧ rest t ∧ (t.canBuf k b) = { q with
          data := dataWords f.data b, len := f.data.length, gts := f.sof, seq := (q.seq + 1) % 256
          ovr := q.ovr || q.ndat, ndat := true, cnt := inc32 q.cnt }) ∧
      (f.fmt.val = 2 → x.xlEn = false → exec (.canFrameReceive k f) s = .next s)) ∧
    (∀ (a : Access) (w : Fin 4) (v : Word), opens a 10 s = true →
      (∃ t, exec (.canTxreq a k w v) s = .next t ∧ rest t ∧ ∀ i, i < 32 →
        let b := 32 * w.val + i
        let q := s.canBuf k b
        (bitOf v i = true → s.reserved k b = false → q.en = true → q.tx = true → q.cyclic = false →
          q.pend = none → q.wire = none → maySend q s = true →
          (t.canBuf k b).pend = some (assemble k b s.gts s).1) ∧
        (bitOf v i = false ∨ s.reserved k b = true ∨ q.pend ≠ none → t.canBuf k b = q)) ∧
      (∀ sof, ∃ t, exec (.canTxabt a k w v sof) s = .next t ∧ rest t ∧ ∀ i, i < 32 →
        let u := takeBus k sof s
        let b := 32 * w.val + i
        let q := u.canBuf k b
        (bitOf v i = true → s.reserved k b = false → (q.pend ≠ none ∨ q.wire ≠ none) → onBus k b u = false →
          t.canBuf k b = { q with pend := none, wire := none, abort := false }) ∧
        (bitOf v i = true → s.reserved k b = false → (q.pend ≠ none ∨ q.wire ≠ none) → onBus k b u = true →
          t.canBuf k b = { q with pend := none, abort := true }) ∧
        (bitOf v i = false → t.canBuf k b = q))) ∧
    (∀ (b : Fin 128) sof,
      let q := s.canBuf k b
      let g := boundaryOf s.t + q.phase * phaseLen
      let u := takeBus k sof (s.advance g)
      (x.en = true → (x.tmRole ≠ 1 ∨ x.refBuf ≠ b) → cyclicDue q s.t = true → maySend q s = true →
        ∃ t, exec (.canCyclicAssembly k b sof) s = .next t ∧ rest t ∧
        (t.canBuf k b).pend = some (assemble k b g u).1 ∧ (t.canBuf k b).asmT = some s.t ∧
        (t.canBuf k b).late = ((u.canBuf k b).pend.isSome || ((u.canBuf k b).wire.isSome && !onBus k b u))) ∧
      (x.en = false ∨ cyclicDue q s.t = false → exec (.canCyclicAssembly k b sof) s = .next s)) ∧
    (∀ l who, arbFirst l = some who → ∃ key, (key, who) ∈ l ∧ ∀ e ∈ l, key ≤ e.1) ∧
    (∀ sof : Nat, x.live = true → x.mode = 0 → x.bus = none →
      let u := s.advance sof
      (arbFirst (contenders k sof u) = none → exec (.canFrameSent k sof) s = .next u) ∧
      (∀ b bs, arbFirst (contenders k sof u) = some (.buf b) → (s.canBuf k b).ready sof = some bs →
        let q := s.canBuf k b
        ∃ t z, exec (.canFrameSent k sof) s = .next t ∧ rest t ∧ (t.canCtl k).tec = x.tec - 1 ∧
          (t.canCtl k).bus = none ∧ (t.canCtl k).txLast = some z ∧ z.frame = bufFrame (s.sender k b) bs sof ∧
          t.canBuf k b = { q with pend := if q.wire.isSome then q.pend else none
                                  wire := none, abort := false, gts := sof, cnt := inc32 q.cnt }) ∧
      (∀ c, arbFirst (contenders k sof u) = some .frameTx → u.frameTxOp k = some c →
        ∃ t z, exec (.canFrameSent k sof) s = .next t ∧ (t.canCtl k).txLast = some z ∧
          z.frame = opFrame c.op ((c.op.aux.drop 3).map fun n => BitVec.ofNat 8 n) sof ∧
          endsOk c (wordOf sof) (wordOf (c.op.aux.getD 2 0 + 1)) t)) ∧
    (∀ sof b bs, x.live = true → x.bus = none → arbFirst (contenders k sof (s.advance sof)) = some (.buf b) →
      (s.canBuf k b).ready sof = some bs →
      let q := s.canBuf k b
      ∃ t, exec (.canArbitrationLost k sof) s = .next t ∧ rest t ∧ (t.canCtl k).bus = none ∧
        t.canBuf k b = { q with pend := if q.wire.isSome then q.pend else none
                                wire := if q.abort then none else some bs, abort := false }) ∧
    (∀ sof, x.en = true → x.tmRole = 1 → x.conflict = false → s.t % max 1 x.refDiv = 0 →
      x.refT ≠ some s.t → s.rtl.role ≠ .second → ∃ t, exec (.referenceAssembly k sof) s = .next t ∧ rest t ∧
      (t.canBuf k x.refBuf).pend = (if x.mode = 0 then some (referenceBytes x s.t) else none) ∧
      (t.canCtl k).refT = some s.t) ∧
    (∀ (sof : Nat) (own : Bool) (cycle prev prevTime : Nat), x.live = true →
      (x.tmRole = 1 → own = true → ∃ t, exec (.referenceMessage k sof own cycle prev prevTime) s = .next t ∧
        (t.canCtl k).refLast = some (cycle % 65536, sof) ∧ (t.canCtl k).conflict = x.conflict) ∧
      (x.tmRole = 1 → own = false → ∃ t, exec (.referenceMessage k sof own cycle prev prevTime) s = .next t ∧
        (t.canCtl k).conflict = true) ∧
      (∀ a, x.tmRole = 2 → x.tm.last = some (prev, a) → prev ≠ 0xFFFF →
        ∃ t, exec (.referenceMessage k sof own cycle prev prevTime) s = .next t ∧ rest t ∧
        (t.canCtl k).refSof = sof ∧ (t.canCtl k).tm = { (x.tm.pair (x.tm.unwrap prevTime a) a).1 with
          last := some (cycle % 65536, sof), since := sof })) ∧
    (let due := x.tm.since + 3 * x.refDiv * tickLen
    x.tmRole = 2 → x.tm.st = .acquiring ∨ x.tm.st = .locked →
      (due < boundaryOf (s.t + 1) → ∃ t, exec (.timeModelLost k) s = .next t ∧
        (t.canCtl k).tm = { x.tm with st := .lost } ∧ bitOf (t.canCtl k).flags 1 = true) ∧
      (boundaryOf (s.t + 1) ≤ due → exec (.timeModelLost k) s = .next s))

/-- R320: the follower's model pair by pair. The first pair seeds it and the second gives the rate; later a pair moves
O by a sixteenth of its residual and adds to the count within 400, eight of which lock it; beyond 400 (beyond 4,000
once LOCKED or LOST) it reseeds. -/
def Obligations.TimeModelFollowsR320 : Prop :=
  ∀ (x : TimeModel) (m : Int) (a : Nat),
    let r : Int := a - x.mapped m
    let seeded : TimeModel := { x with
      st := .acquiring, pairs := 1, count := 0, o := a, m0 := m, rho := 0, lastM := m }
    (x.pairs = 0 → x.st = .acquiring → x.pair m a = (seeded, none)) ∧
    (x.pairs = 1 → x.st = .acquiring → m ≠ x.m0 → ∃ y, x.pair m a = (y, none) ∧ y.pairs = 2 ∧ y.o = a ∧ y.m0 = m ∧
      y.st = .acquiring ∧ y.rho = ((a : Int) - x.o : Rat) / ((40 * (m - x.m0) : Int) : Rat) - 1) ∧
    (1 < x.pairs → x.st ≠ .off → m ≠ x.lastM → r.natAbs ≤ (if x.st = .acquiring then 400 else 4000) →
      ∃ y code, x.pair m a = (y, code) ∧ y.o = x.o + roundRat ((r : Rat) / 16) ∧ y.m0 = x.m0 ∧ y.res = r ∧
      y.rho = clampRho (x.rho + (r : Rat) / ((256 * 40 * (m - x.lastM) : Int) : Rat)) ∧
      (x.st = .acquiring → y.count = x.count + 1 ∧
        (y.st, code) = if 8 ≤ x.count + 1 then (.locked, some 2) else (.acquiring, none)) ∧
      (x.st = .locked → y.st = .locked ∧ code = none) ∧ (x.st = .lost → y.st = .locked ∧ code = some 2)) ∧
    (1 < x.pairs → x.st ≠ .off → (if x.st = .acquiring then 400 else 4000) < r.natAbs →
      x.pair m a = ({ seeded with res := r }, some 4)) ∧
    (-(1 / 1000) ≤ clampRho x.rho ∧ clampRho x.rho ≤ 1 / 1000)

/-- The ring operations of CAN (R315, R316, R324): a map is loaded whole at the next boundary or refused whole;
SLOT_WRITE writes its valid pairs at one stamp and reports those whose source is the BCE; FRAME_TX checks LATE, then
its form, and waits for its start; after TMO ticks it ends TIMEOUT; RX_BUF joins the pool. -/
def Obligations.CanOperationsFollowTheirChecks : Prop :=
  (∀ (n : Fin 32) (c : OpRef) (s : State), c.ring = n.val →
    (let at' := bitsOf (c.op.word 6) 7 0
    let k := bitsOf (c.op.word 7) 8 0
    let es := loadEntries k (bufferOf c s)
    let after := es.zipIdx.foldl (fun m e => Tab.put m (at' + e.2) e.1) s.can.txMap
    ∀ tx : Bool, takes 9 0 (if tx then 2 else 1) .serial c s = true →
      let cmd : Instr := if tx then .txmapLoad n else .mapLoad n
      (k = 0 ∨ 256 < k ∨ 256 < at' + k → 0 < c.op.len → exec cmd s = .next (failOp c stSchema 0 s)) ∧
      (0 < k → k ≤ 256 → at' + k ≤ 256 → c.op.len = 16 * k → bufferOpen 0x27 false c.op.addr c.op.len s = true →
        (es.all (entryFits tx s) = true → (tx = true → slotsDisjoint after = true) →
          exec cmd s = .next (startRead c [s.t + 1]
            { s with can.loads := s.can.loads ++ [(s.t + 1, tx, at', es)] })) ∧
        (es.all (entryFits tx s) = false → exec cmd s = .next (failOp c stSchema c.op.len s)))) ∧
    (let pairs := (List.range 5).filterMap fun i => (slotPair c.op i).map fun p => (i, p)
    let ok := pairs.filter fun p => !mapBce (s.slotCfg p.2.1)
    let bad := pairs.filter fun p => mapBce (s.slotCfg p.2.1)
    takes 9 0 0x10 .serial c s = true →
      ((∀ p ∈ pairs, p.2.1 ≤ 255) → exec (.slotWrite n) s =
        .next (finishOp c stOk 0 (wordOf ok.length) (wordOf (bad.map fun p => 2 ^ p.1).sum) { s with
          can.slots := ok.foldl (fun m p => Tab.put m p.2.1 (p.2.2, some s.gts)) s.can.slots })) ∧
      ((∃ p ∈ pairs, 255 < p.2.1) → exec (.slotWrite n) s = .next (failOp c stSchema 0 s))) ∧
    (let w := c.op.word 6
    let k := bitsOf w 2 0
    let t := c.op.word64 10
    let fits := lengthFits (bitOf w 8) (bitOf w 9) c.op.len = true ∧ (bitOf w 8 = true → (s.canCtl k).xlEn = true) ∧
      (bitOf w 9 = true → (s.canCtl k).fdEn = true) ∧ bitsOf (c.op.word 12) 15 0 ≠ 0
    takes 9 1 0x20 .perController c s = true →
      (t ≠ 0 → t ≤ s.t → exec (.frameTx n) s = .next (failOp c stLate 0 s)) ∧
      ((t = 0 ∨ s.t < t) → ¬fits → exec (.frameTx n) s = .next (failOp c stSchema 0 s)) ∧
      ((t = 0 ∨ s.t < t) → fits → 0 < c.op.len → bufferOpen 0x27 false c.op.addr c.op.len s = true →
        exec (.frameTx n) s =
          .next (startRead c ([startTick s t, 0, 0] ++ (bufferOf c s).map fun b => b.toNat) s))) ∧
    (takes 9 2 0x30 .parallel c s = true → exec (.rxBuf n) s =
      .next (if c.op.len < 2080 then failOp c stLen 0 s else startOp c [] s))) ∧
  ∀ (k : Fin 8) (s : State),
    (∀ c, s.frameTxOp k = some c →
      let due := boundaryOf (c.op.aux.getD 0 0 + bitsOf (c.op.word 12) 15 0)
      let u := s.advance due
      ((∀ g, (s.canCtl k).bus ≠ some (.frameTx, g)) → due < boundaryOf (s.t + 1) →
        exec (.frameTxTimeout k) s = .next (canEvent k 3 3 0 u.gts (failOp c stTimeout 0 u))) ∧
      ((∃ g, (s.canCtl k).bus = some (.frameTx, g)) ∨ boundaryOf (s.t + 1) ≤ due →
        exec (.frameTxTimeout k) s = .next s)) ∧
    (s.frameTxOp k = none → exec (.frameTxTimeout k) s = .next s)

/-! ### The operator panel (13) -/

/-- The panel's frames (R329 to R334, R340). A frame starts once at a boundary with T mod FRAME_T 0, and updates
commit there (log 124); in RUN it applies a band only at a positive frame start strictly after its latch, chooses the
page, then takes the picture; a run begins and a stop ends at a positive frame start. The fallback timer expires after
FB_TMO x 10 ticks without a kick, and FALLBACK shows from the first frame start after that tick (log 126); a kick
restarts it; ten ticks in current limit lead from RUN to FAULT with the glass dark; EN 0 stops a run and drops the
pending band. -/
def Obligations.PanelFramesFollowTheirTicks : Prop :=
  (∀ s : State, s.pdOn 12 = true →
    let p := s.pnl
    let t := s.t
    let pos := t / p.frameLen % 2 == 0
    let u : State := { s with pnl.frameT := some t, pnl.pos := pos }
    let b := boundaryOf t
    (0 < p.frameLen → t % p.frameLen = 0 → p.frameT ≠ some t →
      (p.state ≠ .run → p.state ≠ .empty → exec .panelFrameStart s = .next (commitAll b u)) ∧
      (p.state = .run →
        (p.stopping = true → pos = true → exec .panelFrameStart s = .next (pnlHalt b (commitAll b u))) ∧
        (p.first = none → (p.stopping = false ∨ pos = false) → exec .panelFrameStart s = .next (frameRun t u)) ∧
        (∀ t0, p.first = some t0 → (p.stopping = false ∨ pos = false) → exec .panelFrameStart s =
          .next (if pos = true ∧ t0 ≤ t then frameRun t { u with pnl.first := none } else commitAll b u)))) ∧
    (p.state = .empty ∨ t % p.frameLen ≠ 0 ∨ p.frameT = some t → exec .panelFrameStart s = .next s) ∧
    (p.fbTmo ≠ 0 → p.kickT + 10 * p.fbTmo ≤ t → p.expired = none →
      exec .panelFallback s = .next { s with pnl.expired := some t }) ∧
    (p.fbTmo = 0 ∨ t < p.kickT + 10 * p.fbTmo ∨ p.expired ≠ none → exec .panelFallback s = .next s) ∧
    ((pageChoose t s).pnl.fallback = p.expired.any (fun x => decide (x < t)) ∧
      (pageChoose t s).pnl.shown = ((pageChoose t s).pnl.fallback || p.page)) ∧
    (p.state = .run → 10 ≤ p.limitTicks → ∃ v, exec .vlcdFault s = .next v ∧ v.pnl.state = .fault ∧
      v.pnl.glass = [] ∧ v.pnl.volt = 0 ∧ v.pnl.store = p.store ∧ v.gts = s.gts ∧ v.lsw = s.lsw) ∧
    (p.state ≠ .run ∨ p.limitTicks < 10 → exec .vlcdFault s = .next s)) ∧
  (∀ s v : State, exec .panelFrameStart s = .next v → v.pnl.band ≠ s.pnl.band →
    s.t / s.pnl.frameLen % 2 = 0 ∧ ∃ t, t < s.t ∧ s.pnl.pend = some (v.pnl.band, t)) ∧
  ∀ (a : Access) (v : Word) (s : State), opens a 12 s = true →
    let u := s.reply a .ok
    exec (.pnlKick a v) s = .next { u with pnl.kickT := s.t, pnl.expired := none } ∧
    (bitOf v 31 = true → exec (.pnlCtlWrite a v) s =
      .next { u with pnl.en := true, pnl.page := bitOf v 30, pnl.fbTmo := bitsOf v 23 16 }) ∧
    (bitOf v 31 = false → s.pnl.state = .run → exec (.pnlCtlWrite a v) s = .next { u with
      pnl.en := false, pnl.page := bitOf v 30, pnl.fbTmo := bitsOf v 23 16
      pnl.stopping := true, pnl.pend := none })

/-- The ring operations of PNL (R336, R337, R339, R342, R343). START passes BUSY, the ascending bands, then LATE, and
names its first positive frame and its band. A REGION_WRITE of the region's length restarts the fallback timer; it
copies into the shadow where none runs for its region and page, else it waits and the one waiting ends STALE. -/
def Obligations.PanelOperationsFollowTheirChecks : Prop :=
  ∀ (n : Fin 32) (c : OpRef) (s : State), c.ring = n.val →
    let p := s.pnl
    (let ws := maskWords pnlCfgMask (leWords 32 (bufferOf c s))
    takes 10 0 1 .serial c s = true → c.op.len = 128 →
      (p.state = .run → exec (.pnlCfgLoad n) s = .next (failOp c stBusy 0 s)) ∧
      (p.state ≠ .run → bufferOpen 0x28 false c.op.addr 128 s = true →
        (pnlFault ws = none → exec (.pnlCfgLoad n) s =
          .next (finishOp c stOk 128 0 0 (pnlState .loaded { s with pnl.cfg := ws }))) ∧
        (∀ reason w, pnlFault ws = some (reason, w) → exec (.pnlCfgLoad n) s =
          .next (failOp c stSchema 128 (pnlErr c.op.opcode reason w s))))) ∧
    (let v := c.op.word64 6
    let t0 := firstFrame p (startTick s v)
    let b := p.bandOf p.temp
    takes 10 0 2 .serial c s = true →
      (p.state ≠ .loaded ∨ p.en = false → exec (.pnlStart n) s = .next (failOp c stBusy 0 s)) ∧
      (p.state = .loaded → p.en = true → (∀ k, k < 6 → p.upper k < p.upper (k + 1)) →
        (v ≠ 0 → v ≤ s.t → exec (.pnlStart n) s = .next (failOp c stLate 0 s)) ∧
        ((v = 0 ∨ s.t < v) → exec (.pnlStart n) s = .next (finishOp c stOk 0 (wordOf t0) (wordOf b)
          (pnlState .run { s with pnl := { p with
            first := some t0, stopping := false, band := b, pend := none, limitTicks := 0 } })))) ∧
      (∀ k, p.state = .loaded → p.en = true → k < 6 → p.upper (k + 1) ≤ p.upper k →
        (∀ j, j < k → p.upper j < p.upper (j + 1)) →
        exec (.pnlStart n) s = .next (failOp c stSchema 0 (pnlErr c.op.opcode 1 k s)))) ∧
    (takes 10 0 3 .serial c s = true →
      (p.state = .run → exec (.pnlStop n) s =
        .next (startOp c [] { s with pnl.stopping := true, pnl.pend := none })) ∧
      (p.state ≠ .run → exec (.pnlStop n) s = .next (failOp c stBusy 0 s))) ∧
    (takes 10 0 4 .serial c s = true → c.op.len = 256 →
      (p.state ≠ .loaded → exec (.stressLoad n) s = .next (failOp c stBusy 0 s)) ∧
      (p.state = .loaded → p.oled = false →
        exec (.stressLoad n) s = .next (failOp c stSchema 0 (pnlErr c.op.opcode 1 0 s))) ∧
      (p.state = .loaded → p.oled = true → bufferOpen 0x28 false c.op.addr 256 s = true →
        exec (.stressLoad n) s = .next (finishOp c stOk 256 64 0 { s with
          pnl.stress := (leWords 64 (bufferOf c s)).zipIdx.map fun e => (e.2, e.1.toNat) }))) ∧
    (let bs := stressRegions.flatMap fun r => leBytes 4 (Tab.get 0 p.stress r)
    takes 10 0 5 .serial c s = true → c.op.len = 256 → bufferOpen 0x28 true c.op.addr bs.length s = true →
      exec (.stressRead n) s =
        .next (finishOp c stOk bs.length (wordOf p.minuteT) (wordOf (wearMax p)) (stored c bs s))) ∧
    (let r := bitsOf (c.op.word 6) 3 0
    let page := bitOf (c.op.word 6) 8
    let key := 2 * r + oneIf page
    let u : State := { s with pnl.kickT := s.t, pnl.expired := none }
    takes 10 1 0x10 .parallel c s = true → 0 < c.op.len →
      (p.state ≠ .run → exec (.regionWrite n) s = .next (failOp c stBusy 0 s)) ∧
      (p.state = .run → page = true → p.statEn = true → r = p.statId →
        exec (.regionWrite n) s = .next (failOp c stSchema 0 (pnlErr c.op.opcode 3 0 s))) ∧
      (p.state = .run → (page = false ∨ p.statEn = false ∨ r ≠ p.statId) →
        (c.op.len ≠ p.rw r * p.rh r → exec (.regionWrite n) s = .next (failOp c stLen 0 s)) ∧
        (c.op.len = p.rw r * p.rh r → Tab.find p.shadow key = none →
          bufferOpen 0x28 false c.op.addr c.op.len s = true → exec (.regionWrite n) s =
            .next (startRead c [key, 1] { u with pnl.shadow := Tab.put p.shadow key (bufferOf c s) })) ∧
        (c.op.len = p.rw r * p.rh r → (Tab.find p.shadow key).isSome = true →
          (regionOp u key 0 = none → exec (.regionWrite n) s = .next (startOp c [key, 0] u)) ∧
          (∀ w, regionOp u key 0 = some w →
            exec (.regionWrite n) s = .next (startOp c [key, 0] (failOp w stStale 0 u))))))

/-! ### Power and the governor (14) -/

/-- Waking (R347, R348, R351, R356, R370). An armed source in Cold or Bivouac, and in Cold after a brown-out one at
6.0 V or more, begins Run entry: Run, PD0 to PD4, PD7 and PD10 on, the time base started at 0 or at the twin's word,
the power-cycle count one up, the control registers at reset; an unarmed one changes nothing; in Descent an armed one
is latched; in Fixed-rope and in Run it changes nothing. CTRL_READY ends the entry. -/
def Obligations.WakingEntersRun : Prop :=
  (∀ (src : WakeSource) (e : Entry) (s : State),
    let ctl : Word := if e.pd0Lost then 0 else s.pwr.armed
    let old := if e.pd0Lost then s.tick.pccFlash else s.tick.pcc
    let entered (t : State) : Prop := t.mode = .run ∧ t.start = .timeBase ∧ t.pd = (0x49F : Word) ∧
      t.tick.running = true ∧ t.tick.pcc = countUp old max32 ∧ t.tick.pccFlash = t.tick.pcc ∧
      t.gts = (timeBaseFrom e).getD 0 ∧ t.pwr.pdReq = 0 ∧ t.pwr.bivAllow = 0 ∧ t.pwr.wdog = 0x14 ∧
      t.pwr.desc = 0x1F4 ∧ t.pwr.budget = 0 ∧ t.pwr.gov = {} ∧ t.pwr.wake = wakeCode ctl src ∧
      t.pwr.pd0Lost = e.pd0Lost ∧ t.pwr.ctl = if t.pwr.wake = 3 ∨ t.pwr.wake = 4 then 0x2000_000A else 0xA
    (s.mode = .cold ∨ s.mode = .bivouac → armedIn s.mode ctl (movementSeen s) src = true →
      ∃ t, exec (.wake src e) s = .next t ∧ entered t) ∧
    (s.mode = .cold ∨ s.mode = .bivouac → armedIn s.mode ctl (movementSeen s) src = false →
      exec (.wake src e) s = .next s) ∧
    (s.mode = .descent → exec (.wake src e) s =
      .next (if armedIn .descent s.pwr.ctl false src then { s with pwr.latched := true } else s)) ∧
    (s.mode = .fixedRope ∨ (s.mode = .run ∧ s.start ≠ .entry) → exec (.wake src e) s = .next s) ∧
    (∀ mV, s.mode = .cold → 6000 ≤ mV → armedIn .cold ctl false src = true →
      ∃ t, exec (.restartAfterBrownout mV src e) s = .next t ∧ entered t) ∧
    (∀ mV, s.mode ≠ .cold ∨ mV < 6000 → exec (.restartAfterBrownout mV src e) s = .next s)) ∧
  ∀ (bad : Tab Bool) (n : Nat) (s : State),
    (s.mode = .run → s.start = .timeBase → ∃ t, exec (.ctrlReady bad n) s = .next t ∧ t.start = .ready ∧
      t.sys.ctrlReady = true ∧ t.sys.postRan = (postMask s != 0) ∧ t.pwr.revLatch = false ∧ t.mode = .run ∧
      t.gts = s.gts ∧ t.pd = s.pd) ∧
    (s.start ≠ .timeBase → exec (.ctrlReady bad n) s = .next s)

/-- Descent (R349, R350): DESCEND asks for the next boundary; inactive inputs for longer than IGN_DEB without HOLD
begin it; HOST_DONE counts in step 4 alone and the grace expires at its end; after the pitches, or 6,000 ticks after
T_d, step 7 goes to Run where a wake is latched, else to Bivouac or Cold as R346 says. -/
def Obligations.DescentRunsInItsSteps : Prop :=
  (∀ (a : Access) (v : Word) (s : State), opens a 1 s = true →
    let u := s.reply a .ok
    (bitOf v 0 = true → s.mode = .run → s.start = .ready →
      exec (.descend a v) s = .next { u with pwr.descT := some (s.t + 1) }) ∧
    (bitOf v 1 = true → s.mode = .descent → s.pwr.dstep = 4 →
      exec (.hostDone a v) s = .next { u with pwr.graceEnd := some (true, s.t + 1) }) ∧
    (s.mode ≠ .run → (s.mode ≠ .descent ∨ s.pwr.dstep ≠ 4) →
      exec (.descend a v) s = .next u ∧ exec (.hostDone a v) s = .next u)) ∧
  ∀ s : State,
    let p := s.pwr
    let after (t : State) : Prop := t.tick.running = false ∧ t.pwr.armed = p.ctl ∧ t.gts = 0 ∧
      t.mode = (if p.latched then .run else if p.bivEn && decide (0 < p.bivAllow) then .bivouac else .cold) ∧
      t.pd = (if p.latched || (p.bivEn && decide (0 < p.bivAllow)) then 3 else 1)
    (s.mode = .run → s.start = .ready → p.hold = false → inputsIdle s = true → p.ignDeb * 10 < p.idleTicks →
      (s.gts ≠ boundaryOf s.t → exec .ignitionOff s = .next { s with pwr.descT := some (s.t + 1) }) ∧
      (s.gts = boundaryOf s.t → ∃ t, exec .ignitionOff s = .next t ∧ t.mode = .descent ∧ t.pwr.dstep = 1 ∧
        t.dsc.td = s.t ∧ t.gts = s.gts ∧ t.pd = s.pd)) ∧
    (p.hold = true ∨ inputsIdle s = false ∨ p.idleTicks ≤ p.ignDeb * 10 → exec .ignitionOff s = .next s) ∧
    (s.mode = .run → p.wakeHold = true → p.holdT + 600000 ≤ s.t → exec .holdExpiry s =
      .next { s with pwr.wakeHold := false, pwr.ctl := setBit p.ctl 29 false }) ∧
    (p.wakeHold = false ∨ s.t < p.holdT + 600000 → exec .holdExpiry s = .next s) ∧
    (s.mode = .descent → p.dstep = 4 → p.graceEnd = none → s.dsc.td + graceTicks p ≤ s.t →
      (s.gts ≠ boundaryOf s.t → exec .descGraceExpiry s =
        .next { s with pwr.graceEnd := some (false, s.t + 1) }) ∧
      (s.gts = boundaryOf s.t → ∃ t, exec .descGraceExpiry s = .next t ∧ t.pwr.dstep = 5 ∧
        t.dsc.step5 = some s.t ∧ ∀ n ∈ [3, 5, 6, 7, 11, 12], t.pdOn n = false)) ∧
    (s.t < s.dsc.td + graceTicks p ∨ p.graceEnd ≠ none → exec .descGraceExpiry s = .next s) ∧
    (s.mode = .descent → p.dstep = 5 → pitchesLeft s = false →
      ∃ t, exec .descentComplete s = .next t ∧ after t) ∧
    (p.dstep ≠ 5 ∨ pitchesLeft s = true → exec .descentComplete s = .next s) ∧
    (s.mode = .descent → s.dsc.td + 6000 ≤ s.t → ∃ t, exec .descentLimit s = .next t ∧ after t ∧
      ∀ q, s.dsc.runs = some q → (t.pitch q.1).result = .incomplete) ∧
    (s.mode ≠ .descent ∨ s.t < s.dsc.td + 6000 → exec .descentLimit s = .next s)

/-- The watchdog and the supply (R354 to R357, R367). A heartbeat restarts the watchdog; after WDOG_T ticks without
one the module restarts where its twin link is up or CTRL_READY has not come, else it goes to Fixed-rope with PD0 and
PD1 alone; FIXROPE_n acts on its edge in Run, and at the boundary where Descent begins; a brown-out leads to Cold at
once, at 4.5 V, or at 3.2 V under crank-hold, and so does a reverse battery, which is latched (log 198). The other
supply events change a flag and report; the loss of every ground contact is a brown-out alone (log 197). -/
def Obligations.WatchdogAndSupplyEvents : Prop :=
  ∀ s : State,
    let p := s.pwr
    (s.tick.running = true → exec .watchdogHeartbeat s = .next { s with pwr.beatT := s.t }) ∧
    (s.mode = .run → s.start ≠ .entry → p.beatT + p.wdog ≤ s.t →
      ((s.rtl.twinUp = true ∧ s.rtl.state ≠ .off) ∨ s.start ≠ .ready → ∃ t, exec .watchdogExpiry s = .next t ∧
        t.mode = .run ∧
        t.start = .entry ∧ t.pd = 3 ∧ t.pwr.entryCause = some 6 ∧ t.tick.running = false) ∧
      (s.start = .ready → (s.rtl.twinUp = false ∨ s.rtl.state = .off) → ∃ t, exec .watchdogExpiry s = .next t ∧
        t.mode = .fixedRope ∧ t.pd = 3 ∧ t.lsw.lhMap = s.lsw.lhMap ∧ t.lsw.frDuty = s.lsw.frDuty)) ∧
    ((s.mode ≠ .run ∧ descentStarts s = false) ∨ s.t < p.beatT + p.wdog → exec .watchdogExpiry s = .next s) ∧
    exec (.fixropeRequest false) s = .next { s with pwr.frope := false, pwr.fropeArmed := true } ∧
    (s.mode = .run → s.start = .ready → p.frope = false → p.fropeArmed = true →
      ∃ t, exec (.fixropeRequest true) s = .next t ∧ t.mode = .fixedRope ∧ t.pd = 3) ∧
    ((s.mode ≠ .run ∧ descentStarts s = false) ∨ p.fropeArmed = false → exec (.fixropeRequest true) s =
      .next { s with pwr.frope := true, pwr.fropeArmed := false }) ∧
    (∀ mV, s.mode ≠ .cold → (mV < 3200 ∨ (mV < 4500 ∧ s.lsw.bankA.hold = none ∧ s.lsw.bankB.hold = none)) →
      ∃ t, exec (.brownout mV) s = .next t ∧ t.mode = .cold ∧ t.pd = 1 ∧ t.gts = 0 ∧ t.tick.running = false ∧
        t.tick.pcc = s.tick.pcc) ∧
    (∀ mV, 4500 ≤ mV → exec (.brownout mV) s = .next s) ∧
    (∀ mV, s.mode ≠ .cold → p.overvolt = false → 36000 < mV → exec (.overvoltage mV) s =
      .next (raise 19 1 mV { s with pwr.overvolt := true, pwr.peak := mV, pwr.batE := mV / 10 })) ∧
    (∀ peak, s.mode ≠ .cold → p.overvolt = true → exec (.overvoltageEnd peak) s =
      .next (raise 19 2 (max p.peak peak) { s with pwr.overvolt := false, pwr.peak := max p.peak peak })) ∧
    (∃ t, exec .reverseBattery s = .next t ∧ t.pwr.revLatch = true ∧
      (s.mode = .cold → t = { s with pwr.revLatch := true }) ∧
      (s.mode ≠ .cold → t.mode = .cold ∧ t.pd = 1 ∧ t.gts = 0 ∧ t.tick.running = false)) ∧
    (∀ (k : Fin 16) ofs, s.mode ≠ .cold → k ≠ 0 → k ≠ 15 → 500 < ofs → exec (.groundOpen k ofs) s =
      .next (raise 21 1 (min ofs 0xFFFF * 65536 + k.val) { s with pwr.gndOpen := true, pwr.ground := k.val })) ∧
    (s.mode ≠ .cold → p.gndOpen = true →
      exec .groundHealed s = .next (raise 21 2 p.ground { s with pwr.gndOpen := false }))

/-- Bivouac's books (R266, R363 to R366). A second adds REM over the seconds left to the pace account, less the
second's declared costs, at most 60; a burst instant affords a burst at 6, else a snapshot at 2 after its gap, else
nothing; a capture ends its phase and PD7, and an allowance spent meanwhile ends Bivouac with it; a beacon is sent on
BEACON_PORT at its speed in Run where the link is up, and is not tried again. -/
def Obligations.BivouacKeepsItsBooks : Prop :=
  ∀ s : State, s.mode = .bivouac →
    let p := s.pwr
    let b := p.books
    (∀ n, let due := p.beaconT != 0 && decide (b.beacon ≤ 1)
      let gain : Rat := (b.rem : Rat) / (max 60 (secondsLeft p) : Nat)
      ∃ t, exec (.bivouacSecond n) s = .next t ∧ t.pwr.books.spent = min (b.spent + n) max32 ∧
        t.pwr.books.account = min 60 (b.account + gain - secondCost p due) ∧
        t.pwr.books.seconds = b.seconds + 1 ∧ t.pwr.books.allow = b.allow ∧ t.biv.wait = s.biv.wait - 1 ∧
        t.pwr.books.beaconDue = (due || b.beaconDue) ∧ (due = true → t.pdOn 10 = true) ∧
        (due = false → t.pd = s.pd)) ∧
    (s.biv.wait = 0 → s.biv.period ≠ 0 → s.biv.phase = .idle →
      let u : State := { s with biv.wait := s.biv.period }
      (6 ≤ b.account → exec .burstInstant s = .next { u with
        pd := (u.setPd 7 true).pd, biv.phase := .burst, biv.starts := (s.biv.predict.map burstStarts).getD []
        pwr.books := { b with account := b.account - 6 } }) ∧
      (2 ≤ b.account → b.account < 6 → (∀ n, b.sinceSnap = some n → p.snapGap ≤ n) → exec .burstInstant s =
        .next { u with
          pd := (u.setPd 7 true).pd, biv.phase := .snapshot, biv.starts := []
          pwr.books := { b with account := b.account - 2, sinceSnap := some 0 } }) ∧
      (2 ≤ b.account → b.account < 6 → (∃ n, b.sinceSnap = some n ∧ n < p.snapGap) →
        exec .burstInstant s = .next u) ∧
      (b.account < 2 → exec .burstInstant s = .next u)) ∧
    (s.biv.wait ≠ 0 ∨ s.biv.phase ≠ .idle → exec .burstInstant s = .next s) ∧
    (∀ sats far ns, s.biv.phase = .burst → ∃ t, exec (.bivouacBurst sats far ns) s = .next t ∧
      t.biv.phase = .idle ∧ t.pdOn 7 = false ∧ t.biv.bursts = min (s.biv.bursts + 1) 0xFFFF ∧
      t.pwr.books.spent = b.spent ∧
      t.mode = (if b.ending then .cold else .bivouac) ∧
      (sats < 4 → t.biv.far = 0) ∧
      (4 ≤ sats → t.biv.failed = 0 ∧ t.biv.far = if s.biv.radius < far then s.biv.far + 1 else 0)) ∧
    (∀ ns unc temp bs, s.biv.phase = .snapshot → ∃ t, exec (.snapshot ns unc temp bs) s = .next t ∧
      t.biv.phase = .idle ∧ t.biv.serial = inc32 s.biv.serial ∧ t.biv.area.length ≤ max 128 s.biv.area.length ∧
      (t.biv.area.getLast?.map fun x => x.serial) = some s.biv.serial ∧
      t.mode = if b.ending then .cold else .bivouac) ∧
    (s.biv.phase ≠ .burst → ∀ sats far ns, exec (.bivouacBurst sats far ns) s = .next s) ∧
    (s.biv.phase ≠ .snapshot → ∀ ns unc temp bs, exec (.snapshot ns unc temp bs) s = .next s) ∧
    (b.allow ≤ b.spent →
      (s.biv.phase ≠ .idle → exec .allowanceSpent s = .next { s with pwr.books := { b with ending := true } }) ∧
      (s.biv.phase = .idle → ∃ t, exec .allowanceSpent s = .next t ∧ t.mode = .cold ∧ t.pd = 1 ∧
        t.pwr.books.how = .spent)) ∧
    (b.spent < b.allow → exec .allowanceSpent s = .next s) ∧
    (b.beaconDue = true → let u := s.setPd 10 false
      let port := bitsOf p.bivCfg 2 0
      exec (.presenceBeacon true) s = .next { u with pwr.books :=
        { b with beaconDue := false, frame := some (port, p.ports.getD port 0, beaconFrame s) } } ∧
      exec (.presenceBeacon false) s = .next { u with pwr.books := { b with beaconDue := false } }) ∧
    (b.beaconDue = false → ∀ up, exec (.presenceBeacon up) s = .next s)

/-- The governor (R359 to R362, R367, R368). At a tick with T mod 100 = 0 in Run a period ends: above P_allow the next
item of the ladder that applies is deferred; else the tenth period in a row with 5 W to spare restores the last. The
decision waits for the next boundary: nothing of the deferred work changes at the period end. A bank over its budget
for 10 ticks defers its job of the highest class and number; 1,000 ticks with room restore it. A declared job is
admitted where its cost and its feed fit; GOV_RELEASE undoes it; GOV_READ stores the books. -/
def Obligations.GovernorDefersAndRestores : Prop :=
  (∀ s : State, s.mode = .run → s.start = .ready → s.t % 100 = 0 → s.pwr.gov.endT ≠ s.t → s.pwr.gov.ticks ≠ 0 →
    let g := s.pwr.gov
    let allow := allowAt (g.temp.getD 0)
    let p : Rat := (g.sum : Rat) / (g.ticks : Nat)
    ∃ t, exec .governorPeriod s = .next t ∧ t.pwr.gov.endT = s.t ∧ t.pwr.gov.pAllow = allow ∧
      t.pwr.gov.pMeas = p ∧ t.pwr.gov.ticks = 0 ∧ t.gts = s.gts ∧ t.lsw = s.lsw ∧ t.mem = s.mem ∧
      t.ipl = s.ipl ∧ t.lko = s.lko ∧ t.gnb = s.gnb ∧
      (allow < p → ∀ x, nextItem s = some x → t.pwr.gov.ladder = x :: g.ladder ∧ t.pwr.gov.qual = 0 ∧
        t.pwr.gov.pending = some (true, x.1)) ∧
      (allow < p → nextItem s = none → t.pwr.gov.ladder = g.ladder) ∧
      (p ≤ allow → ∀ x rest, g.ladder = x :: rest →
        (allow < p + x.2 + 50 → t.pwr.gov.ladder = g.ladder ∧ t.pwr.gov.qual = 0) ∧
        (p + x.2 + 50 ≤ allow → g.qual + 1 < 10 → t.pwr.gov.ladder = g.ladder ∧ t.pwr.gov.qual = g.qual + 1) ∧
        (p + x.2 + 50 ≤ allow → 10 ≤ g.qual + 1 → t.pwr.gov.ladder = rest ∧ t.pwr.gov.qual = 0 ∧
          t.pwr.gov.pending = some (false, x.1)))) ∧
  (∀ s : State, s.t % 100 ≠ 0 ∨ s.mode ≠ .run → exec .governorPeriod s = .next s) ∧
  (∀ (bank : Bank) (s : State),
    let n := if bank = .b then s.pwr.gov.overB else s.pwr.gov.overA
    (∀ k j, 10 ≤ n → bankVictim (bank == .b) s = some k → Tab.find s.pwr.gov.jobs k = some j →
      ∃ t, exec (.bankBudgetExceeded bank) s = .next t ∧
        Tab.find t.pwr.gov.jobs k = some { j with bankDef := true, room := 0, bankT := some s.t } ∧
        (∀ m, m ≠ k → Tab.find t.pwr.gov.jobs m = Tab.find s.pwr.gov.jobs m) ∧ t.lsw = s.lsw) ∧
    (n < 10 → exec (.bankBudgetExceeded bank) s = .next s)) ∧
  (∀ (k : Fin 16) (j : GovJob) (s : State), Tab.find s.pwr.gov.jobs k = some j →
    (j.bankDef = true → 1000 ≤ j.room → ∃ t, exec (.bankBudgetRestore k) s = .next t ∧
      Tab.find t.pwr.gov.jobs k = some { j with bankDef := false, room := 0 } ∧
      (∀ m, m ≠ k.val → Tab.find t.pwr.gov.jobs m = Tab.find s.pwr.gov.jobs m) ∧ t.lsw = s.lsw) ∧
    (j.bankDef = false ∨ j.room < 1000 → exec (.bankBudgetRestore k) s = .next s)) ∧
  ∀ (n : Fin 32) (c : OpRef) (s : State), c.ring = n.val →
    let w := c.op.word 6
    let k := bitsOf w 3 0
    let cost := bitsOf (c.op.word 7) 15 0
    let feed := bitsOf (c.op.word 8) 15 0
    let bank := if bitOf w 13 then some (bitOf w 12) else none
    let g := s.pwr.gov
    (takes 11 0 1 .serial c s = true →
      (bitsOf w 9 8 = 0 → exec (.govDeclare n) s = .next (failOp c stSchema 0 s)) ∧
      (bitsOf w 9 8 ≠ 0 → (Tab.find g.jobs k).isSome = true → exec (.govDeclare n) s = .next (failOp c stBusy 0 s)) ∧
      (bitsOf w 9 8 ≠ 0 → Tab.find g.jobs k = none →
        let warm := decide (g.pMeas + cost + 50 ≤ g.pAllow)
        let fits := bank.all fun b => feedFits b feed s
        ∃ t, exec (.govDeclare n) s = .next t ∧
          endsOk c (wordOf (oneIf (warm && fits))) (wordOf (openRat g.pAllow)) t ∧
          Tab.find t.pwr.gov.jobs k = some {
            cls := bitsOf w 9 8, bank := bank, cost := cost, feed := feed, ladder := !warm, bankDef := !fits })) ∧
    (takes 11 0 2 .serial c s = true →
      (Tab.find g.jobs k = none → exec (.govRelease n) s = .next (failOp c stSchema 0 s)) ∧
      ((Tab.find g.jobs k).isSome = true → ∃ t, exec (.govRelease n) s = .next t ∧ endsOk c (wordOf k) 0 t ∧
        t.pwr.gov.jobs = Tab.del g.jobs k ∧ ∀ e ∈ t.pwr.gov.ladder, e.1 ≠ .job k)) ∧
    (let bs := if g.snap = [] then govBooks s else g.snap
    takes 11 0 3 .serial c s = true → c.op.len = 256 → bufferOpen 0x29 true c.op.addr bs.length s = true →
      exec (.govRead n) s = .next (finishOp c stOk bs.length (wordOf g.ladder.length) (wordOf (boundaryOf g.endT))
        (stored c bs s)))

/-! ### Rope team (15) -/

/-- What a module takes from its twin (R373 to R380), with a time base in Run or Descent. A tick frame on a second and
a heartbeat on a lead count where one copy is good; a pair that missed one is counted; a word with a good CRC is
remembered with its stamp; a witness counts for the tick it names, in the cycle of a boundary also the one just ended.
TWIN_UP needs words in each of the last 3 ticks; ALIGNED sets after 1,000 ticks in bound and clears after 10 out of
bound or unmeasured, which drops a second's pending hand-over; the own witness is put up once a tick at its phase. -/
def Obligations.TeamHearsItsTwin : Prop :=
  ∀ s : State, s.tick.running = true → s.mode = .run ∨ s.mode = .descent →
    let r := s.rtl
    (∀ (v : BitVec 128) (edge : Nat),
      (readWord v = none → ∀ wing, exec (.tickLineWord v edge wing) s = .next s) ∧
      (∀ w, readWord v = some w → ∃ t, exec (.tickLineWord v edge none) s = .next t ∧ t.rtl.twin = some w ∧
        t.rtl.wordT.head? = some s.t ∧
        (w.tb = true → r.left = false → r.role = .second → t.rtl.stampA = Tab.put r.stampA w.tick edge) ∧
        (w.tb = true → r.left = false → r.role = .lead → t.rtl.stampB = some (w.tick, edge)))) ∧
    (∀ (a b : Copy) (f : TickFrame),
      (s.pdOn 11 = true → inTeam s = true → r.role = .second → a = .good ∨ b = .good →
        ∃ t, exec (.tickFrame a b f) s = .next t ∧ t.rtl.frameIn = some f ∧ t.rtl.cur.frame = true ∧
        t.rtl.replT = some (max f.tick (r.replT.getD 0)) ∧
        t.rtl.missA = (if a = .good then r.missA else min (r.missA + 1) 0xFFFF) ∧
        t.rtl.missB = (if b = .good then r.missB else min (r.missB + 1) 0xFFFF) ∧ t.rtl.role = .second) ∧
      (s.pdOn 11 = true → inTeam s = true → r.role = .second → a ≠ .good → b ≠ .good →
        ∃ t, exec (.tickFrame a b f) s = .next t ∧ t.rtl = r ∧ t.mem = s.mem) ∧
      (s.pdOn 11 = false ∨ inTeam s = false ∨ r.role ≠ .second → exec (.tickFrame a b f) s = .next s)) ∧
    (∀ (a b : Copy) (h : Heartbeat),
      (s.pdOn 11 = true → inTeam s = true → r.role = .lead → a = .good ∨ b = .good →
        ∃ t, exec (.heartbeat a b h) s = .next t ∧ t.rtl.beatIn = some h ∧ t.rtl.cur.beat = true ∧
        t.rtl.role = .lead ∧ (h.aligned = false → t.rtl.hoT = none) ∧
        (h.aligned = true → t.rtl.hoT = r.hoT ∧ t.rtl.confirmed = (r.hoT.isSome && (r.confirmed || h.confirm)))) ∧
      (s.pdOn 11 = false ∨ inTeam s = false ∨ r.role ≠ .lead → exec (.heartbeat a b h) s = .next s)) ∧
    (∀ (w : Witness) (k : Fin 8), inTeam s = true → k.val ∈ witnessCtrls s → (s.canCtl k).live = true →
      w.tick = s.t % 2 ^ 32 → exec (.witnessFrame w k) s = .next { s with
        rtl.cur := { r.cur with wit := some w, ctrls := k.val :: r.cur.ctrls } }) ∧
    (∀ (w : Witness) (k : Fin 8), inTeam s = true → k.val ∈ witnessCtrls s → (s.canCtl k).live = true →
      s.gts = boundaryOf s.t → 0 < s.t → w.tick = (s.t - 1) % 2 ^ 32 → w.tick ≠ s.t % 2 ^ 32 →
      exec (.witnessFrame w k) s = .next { s with
        rtl.last := { r.last with wit := some w, ctrls := k.val :: r.last.ctrls } }) ∧
    (∀ (w : Witness) (k : Fin 8), k.val ∉ witnessCtrls s ∨ (s.canCtl k).live = false →
      exec (.witnessFrame w k) s = .next s) ∧
    (inTeam s = true → r.role ≠ .lone → r.witT ≠ some s.t →
      let at' := boundaryOf s.t + (if r.role = .lead then 5 else 55) * phaseLen
      let u : State := { s.advance at' with rtl.witT := some s.t }
      exec .witnessAssembly s = .next ((witnessCtrls s).foldl witnessPut u)) ∧
    (r.witT = some s.t → exec .witnessAssembly s = .next s) ∧
    (twinUpNow s = r.twinUp → exec .twinUpChange s = .next s) ∧
    (twinUpNow s ≠ r.twinUp → ∃ t, exec .twinUpChange s = .next t ∧ t.rtl.twinUp = twinUpNow s ∧
      t.rtl.role = r.role ∧ t.rtl.state = r.state) ∧
    (twinUpNow s = true ↔ 3 ≤ s.t ∧ s.t - 1 ∈ r.wordT ∧ s.t - 2 ∈ r.wordT ∧ s.t - 3 ∈ r.wordT) ∧
    (∀ up, r.upA ≠ up → (up = true → s.pdOn 11 = true) →
      exec (.pairLinkChange 0 up) s = .next (rtlEvent 458 (if up then 1 else 2) (low24T s) { s with rtl.upA := up })) ∧
    (∀ up, r.upB ≠ up → (up = true → s.pdOn 11 = true) →
      exec (.pairLinkChange 1 up) s = .next (rtlEvent 458 (if up then 3 else 4) (low24T s) { s with rtl.upB := up })) ∧
    (∀ up, r.upWing ≠ up → (up = true → s.pdOn 11 = true ∧ r.wingEn = true) → exec (.pairLinkChange 2 up) s =
      .next (rtlEvent 458 (if up then 5 else 6) (low24T s) { s with rtl.upWing := up })) ∧
    (follows s = true → r.aligned = false → 1000 ≤ r.inBound →
      exec .alignedSet s = .next (rtlEvent 459 1 (thetaData s) { s with rtl.aligned := true })) ∧
    (follows s = false ∨ r.aligned = true ∨ r.inBound < 1000 → exec .alignedSet s = .next s) ∧
    (r.aligned = true → 10 ≤ r.outBound ∨ 10 ≤ r.unmeasured → ∃ t, exec .alignedClear s = .next t ∧
      t.rtl.aligned = false ∧ (r.role = .second → t.rtl.hoT = none) ∧ t.rtl.role = r.role) ∧
    (r.aligned = false ∨ (r.outBound < 10 ∧ r.unmeasured < 10) → exec .alignedClear s = .next s)

/-- Tick-line words and the wing (R374, R375, R377, R389). A word of fields within their widths, as the module sends
it, reads back with its CRC. On the wing pair a pair lead takes a valid word of another pair's lead: from one of
higher rank it measures θ with the stamp b the word's sender returned, and keeps aligned to it; of a lower one it
keeps the edge, which its own wing word returns. Any other word there changes nothing. -/
def Obligations.TickWordsAndTheWing : Prop :=
  (∀ w : TickWord, w.serial < 2 ^ 64 → w.tick < 2 ^ 46 → w.state < 8 → w.pos < 4 →
    readWord (wordBits w) = some w) ∧
  ∀ (v : BitVec 128) (w : TickWord) (edge : Nat) (b : Int) (s : State), readWord v = some w →
    s.tick.running = true → s.mode = .run ∨ s.mode = .descent →
    let r := s.rtl
    let hears := r.role = .lead ∧ r.left = false ∧ r.upWing = true ∧ s.pdOn 11 = true ∧ w.tb = true ∧
      (w.state = 3 ∨ w.state = 5)
    (¬hears → exec (.tickLineWord v edge (some b)) s = .next s) ∧
    (hears → outranks w s = false →
      exec (.tickLineWord v edge (some b)) s = .next { s with rtl.wingB := some (w.tick, edge) }) ∧
    (hears → outranks w s = true → ∃ t, exec (.tickLineWord v edge (some b)) s = .next t ∧
      t.rtl.wingT = some s.t ∧ t.rtl.measured = true ∧ t.rtl.role = .lead ∧ t.gts = s.gts ∧
      t.rtl.theta = openHalf ((edge : Int) - b + 64 * 200000)) ∧
    (wingNow s = if r.role = .lead ∧ r.upWing = true ∧ s.pdOn 11 = true then
      some (boundaryOf s.t + (if follows s then 200000 else 0), wordBits (wordOfTick s.t s), r.wingB) else none) ∧
    (r.role = .lead → (follows s = true ↔ ∃ k, r.wingT = some k ∧ s.t ≤ k + 3))

/-- The lead changes hands only by these rules (R166, R167, R381 to R385). A second with neither frame nor witness of
the tick just ended takes over, ALONE; a lead with no heartbeat and a witness with HEARD 0 withdraws to SPLIT as
second, DRIVE released; HANDOVER passes its checks in order, is committed at T_h - 5 with a confirmation and else
dropped, and at T_h both exchange roles. DRIVE is withdrawn at phase 99 and granted at phase 1. -/
def Obligations.TheLeadPassesByTheRules : Prop :=
  (∀ s : State, s.tick.running = true → s.mode = .run ∨ s.mode = .descent →
    let r := s.rtl
    let f := r.last
    (inTeam s = true → r.role = .second → f.frame = false → f.wit = none → r.since < s.t →
      ∃ t, exec .leadLost s = .next t ∧ t.rtl.role = .lead ∧ t.rtl.state = .alone ∧ t.rtl.tk = s.t % 2 ^ 32 ∧
        t.rtl.grantT = some s.t ∧ t.rtl.hoT = none ∧ t.gts = s.gts) ∧
    (r.role ≠ .second ∨ f.frame = true ∨ f.wit ≠ none ∨ s.t ≤ r.since → exec .leadLost s = .next s) ∧
    (∀ wire w, inTeam s = true → r.role = .lead → r.state ≠ .alone → f.beat = false → f.wit = some w →
      w.heard = false → r.since < s.t → ∃ t, exec (.leadWithdraw wire) s = .next t ∧ t.rtl.role = .second ∧
        t.rtl.state = .split ∧ t.rtl.tk = s.t % 2 ^ 32 ∧ t.rtl.hoT = none ∧ t.lsw.drive = false) ∧
    (∀ wire, r.role ≠ .lead ∨ f.beat = true ∨ f.wit = none ∨ (∃ w, f.wit = some w ∧ w.heard = true) →
      exec (.leadWithdraw wire) s = .next s) ∧
    (∀ th, r.hoT = some th → r.role = .lead → r.commit = false → s.t + 5 = th →
      (r.confirmed = true → ∃ t, exec .handoverCommit s = .next t ∧ t.rtl.commit = true ∧ t.rtl.hoT = some th) ∧
      (r.confirmed = false → ∃ t, exec .handoverCommit s = .next t ∧ t.rtl.commit = false ∧ t.rtl.hoT = none)) ∧
    (r.role ≠ .lead ∨ r.commit = true → exec .handoverCommit s = .next s) ∧
    (∀ wire, r.hoT = some s.t → r.commit = true →
      (r.state = .lead → ∃ t, exec (.handoverExecute wire) s = .next t ∧ t.rtl.role = .second ∧
        t.rtl.state = .second ∧ t.rtl.hoT = none ∧ t.lsw.drive = false) ∧
      (r.state = .second → ∃ t, exec (.handoverExecute wire) s = .next t ∧ t.rtl.role = .lead ∧
        t.rtl.state = .lead ∧ t.rtl.hoT = none ∧ t.rtl.grantT = some s.t)) ∧
    (∀ wire, r.hoT ≠ some s.t ∨ r.commit = false → exec (.handoverExecute wire) s = .next s) ∧
    (∀ bce chans, pairUp s = true → inTeam s = true → r.role ≠ .lone → exec (.handoverFrame bce chans) s =
      .next (chans.foldl (fun s e => storeReplica e.1 e.2 s) (bce.foldl handoverState s))) ∧
    (∀ bce chans, pairUp s = false → exec (.handoverFrame bce chans) s = .next s) ∧
    (s.lsw.drive = true → withdrawDue s = true →
      exec .driveWithdraw s = .next (driveWithdraw true (s.advance (boundaryOf s.t + 99 * phaseLen)))) ∧
    (s.lsw.drive = false ∨ withdrawDue s = false → exec .driveWithdraw s = .next s) ∧
    (r.grantT = some s.t → s.lsw.drive = false → ∃ t, exec .driveGrant s = .next t ∧ t.lsw.drive = true ∧
      t.rtl.grantT = none ∧ t.gts = max s.gts (boundaryOf s.t + phaseLen)) ∧
    (r.grantT ≠ some s.t ∨ s.lsw.drive = true → exec .driveGrant s = .next s)) ∧
  ∀ (n : Fin 32) (c : OpRef) (s : State), c.ring = n.val → takes 12 0 1 .serial c s = true →
    let th := c.op.word64 6
    let free := s.rtl.state = .lead ∧ s.rtl.beatIn.any (fun h => h.aligned) = true ∧ s.rtl.hoT = none ∧
      s.rtl.left = false ∧ s.rtl.twinUp = true
    (th % 40 ≠ 0 → exec (.handover n) s = .next (failOp c stSchema 0 s)) ∧
    (th % 40 = 0 → th < s.t + 20 → exec (.handover n) s = .next (failOp c stLate 0 s)) ∧
    (th % 40 = 0 → s.t + 20 ≤ th → ¬free → exec (.handover n) s = .next (failOp c stBusy 0 s)) ∧
    (th % 40 = 0 → s.t + 20 ≤ th → free → exec (.handover n) s = .next (raise 461 1 (th % 2 ^ 24)
      (startOp c [th] { s with rtl.hoT := some th, rtl.confirmed := false, rtl.commit := false })))

/-- Checkpoints and RTL_CTL (R391 to R393). CKPT_PUT ends OK only where the twin has the whole payload; an arriving
checkpoint goes with its 64-byte header to the next CKPT_BUF buffer; EN 1 is taken only in OFF, with witness
controllers enabled and fast enough, EN 0 in OFF and SEEKING, and a refused write names its reason. -/
def Obligations.CheckpointsAndTeamControl : Prop :=
  (∀ (n : Fin 32) (e : CkptEnd) (c : OpRef) (s : State), c.ring = n.val →
    (takes 12 1 0x10 .serial c s = true → 1 ≤ c.op.len → c.op.len ≤ 65536 →
      let sent : Ckpt := { tag := bitsOf (c.op.word 6) 15 0, tick := s.t, gts := s.gts, payload := bufferOf c s }
      ((s.rtl.state ≠ .lead ∧ s.rtl.state ≠ .second) ∨ e = .noBuffer →
        exec (.ckptPut n e) s = .next (failOp c stBusy 0 s)) ∧
      (s.rtl.state = .lead ∨ s.rtl.state = .second → bufferOpen 0x2A false c.op.addr c.op.len s = true →
        (pairUp s = true → e = .delivered → exec (.ckptPut n e) s =
          .next (finishOp c stOk c.op.len (wordOf s.t) 0 { s with rtl.ckptOut := some sent })) ∧
        (∀ k, pairUp s = true → e = .lost k → exec (.ckptPut n e) s =
          .next (failOp c stIncomplete (min k c.op.len) { s with rtl.ckptOut := some sent })) ∧
        (pairUp s = false → e ≠ .noBuffer → exec (.ckptPut n e) s = .next (failOp c stIncomplete 0 s)))) ∧
    (takes 12 2 0x20 .parallel c s = true → exec (.ckptBuf n) s =
      .next (if c.op.len < 65600 then failOp c stLen 0 s else startOp c [] s))) ∧
  (∀ (tag tick g : Nat) (payload : List Byte) (s : State),
    s.tick.running = true → s.mode = .run ∨ s.mode = .descent →
    let bs := leBytes 8 tick ++ leBytes 8 g ++ leBytes 4 payload.length ++ leBytes 2 tag ++ zeros 42 ++ payload
    (∀ c, pairUp s = true → s.rtl.left = false → s.poolBuffer 12 2 0x20 = some c →
      bufferOpen 0x2A true c.op.addr bs.length s = true → exec (.checkpointArrival tag tick g payload) s =
        .next (finishOp c stOk bs.length (wordOf (tag % 65536)) (wordOf tick) (stored c bs s))) ∧
    (pairUp s = false ∨ s.poolBuffer 12 2 0x20 = none →
      exec (.checkpointArrival tag tick g payload) s = .next s)) ∧
  ∀ (a : Access) (v : Word) (s : State), opens a 11 s = true →
    let r := s.rtl
    let u := s.reply a .ok
    (bitOf v 31 = true → r.en = false → bitOf v 30 = r.wingEn → r.upWing = false →
      exec (.rtlEnable a v) s = .next { u with rtl.en := enableFault s == 0, rtl.err := enableFault s }) ∧
    (enableFault s = 0 ↔ r.state = .off ∧ ∀ k ∈ witnessCtrls s, (s.canCtl k).en = true ∧ rateOk (s.canCtl k) = true) ∧
    (r.en = true → bitOf v 30 ≠ r.wingEn → exec (.rtlEnable a v) s = .next { u with rtl.err := 3 }) ∧
    (r.en = true → bitOf v 30 = r.wingEn → bitOf v 31 = false →
      exec (.rtlEnable a v) s = .next (if r.state = .off ∨ r.state = .seeking then { u with rtl.en := false }
        else { u with rtl.err := 3 }))

/-! ### Field update (16) -/

/-- The ring operations of UPD (R397 to R402, R413). STAGE checks length, state, header, signature, part table and
team before it makes the other set unbootable, and ends STAGED only where every image for this position has its
digest, and the other set then holds each part's image or, with SAME, the live set's; SCHEDULE needs STAGED on a lone
module or a lead, the package staged, a quiet mask and a mapping; CANCEL goes back to STAGED; the instant reached
leads from SCHEDULED to WAITING. Activation, trial, commit and reversion (R402 to R409, R412). At a boundary with the
instant past and a quiet point a lone module changes its live letter and descends, a lead announces step 1, and a
second moves at that boundary by the lead's replicas, or as the lead's frame tells it; CONFIG_DONE is kept; COMMIT is
taken as commitOk says, else it raises TRIAL code 4, and takes effect two ticks later, on a second as announced; the
deadline is judged as cause 2; at T_r, on a second as announced, the letter goes back, and the cause and tick are
recorded. -/
def Obligations.UpdatesAreStagedActivatedAndJudged : Prop :=
  ((∀ (n : Fin 32) (c : OpRef) (s : State), c.ring = n.val →
     (let h := Memory.getMany s.mem c.op.addr 256
     let k := recNat h 11 1
     let table := Memory.getMany s.mem (c.op.addr + 256) (64 * k)
     let fit := pkgHeaderOk h = true ∧ 256 + 64 * k ≤ c.op.len
     takes 13 0 1 .serial c s = true →
       (c.op.len < 512 → exec (.stage n) s = .next (failOp c stLen 0 s)) ∧
       (512 ≤ c.op.len → c.op.len ≤ 2 ^ 32 - 2 →
         (s.boot.state ≠ .idle → s.boot.state ≠ .staged → exec (.stage n) s = .next (failOp c stBusy 0 s)) ∧
         (s.boot.state = .idle ∨ s.boot.state = .staged → bufferOpen 0x2B false c.op.addr 256 s = true →
           (¬fit → exec (.stage n) s =
             .next (updEvent 464 2 (recNat h 4 4) (failOp c stSchema 256 s))) ∧
           (fit → bufferOpen 0x2B false (c.op.addr + 256) (64 * k) s = true → exec (.stage n) s = .next
             (if sigOk h table && tableOk c.op.len s.ropePos (partTable k table) && teamFits h s then
               startOp c (s.gts :: recNat h 4 4 :: recNat h 8 2 :: table.map fun b => b.toNat)
                 { s with boot.otherOk := false, boot.state := .staging, boot.partsOther := [] }
             else updEvent 464 2 (recNat h 4 4) (failOp c stSchema (256 + 64 * k) s)))))) ∧
     (takes 13 0 2 .serial c s = true →
       (s.boot.state ≠ .staged ∨ s.rtl.role = .second → exec (.schedule n) s = .next (failOp c stBusy 0 s)) ∧
       (s.boot.state = .staged → s.rtl.role ≠ .second →
         let good := (c.op.word 8).toNat = s.boot.pkgOther ∧ s.upd.quiet ≠ 0 ∧
           (s.rtl.role = .lead → s.rtl.state = .lead ∧ twinStaged s = true)
         (¬good → exec (.schedule n) s = .next (failOp c stSchema 0 s)) ∧
         (good → s.gtsOf (c.op.word64 6) = none → exec (.schedule n) s = .next (failOp c stStale 0 s)) ∧
         (∀ g, good → s.gtsOf (c.op.word64 6) = some g → exec (.schedule n) s =
           .next (updEvent 465 1 (low24T s) (finishOp c stOk 0 (wordOf g) 0 { s with
             boot.state := .scheduled, boot.instant := c.op.word64 6, boot.team := s.rtl.role == .lead, boot.step := 0
             boot.moved := false, upd.when' := g }))))) ∧
     (takes 13 0 3 .serial c s = true →
       (s.boot.state ≠ .scheduled → s.boot.state ≠ .waiting → exec (.cancel n) s = .next (failOp c stBusy 0 s)) ∧
       (s.boot.state = .scheduled ∨ s.boot.state = .waiting → exec (.cancel n) s =
         .next (updEvent 465 3 (low24T s) (finishOp c stOk 0 (wordOf s.boot.state.code) 0 { s with
           boot.state := .staged, boot.team := false, boot.step := 0 }))))) ∧
   ∀ s : State, s.pdOn 2 = true →
     (∀ c, stageOp s = some c → bufferOpen 0x2B false c.op.addr c.op.len s = true →
       let table := (c.op.aux.drop 3).map fun n => BitVec.ofNat 8 n
       let pkg := c.op.aux.getD 1 0
       let own := partKinds.filterMap fun k => partFor (partTable (table.length / 64) table) s.ropePos k
       let images := own.filter fun p => p.mode == 0
       let good := images.all fun p => sha256 (imageOf (bufferOf c s) p) == p.digest
       (good = true → exec .stageComplete s =
         .next (updEvent 464 1 pkg (finishOp c stOk c.op.len (wordOf images.length) (wordOf pkg) { s with
           boot.state := .staged, boot.otherOk := true, boot.pkgOther := pkg
           boot.schemaOther := c.op.aux.getD 2 0
           boot.partsOther := own.map fun p => (p.kind, partBytes (bufferOf c s) s p) }))) ∧
       (good = false → exec .stageComplete s =
         .next (updEvent 464 2 pkg (failOp c stSchema c.op.len { s with boot.state := .idle })))) ∧
     (stageOp s = none → exec .stageComplete s = .next s) ∧
     (∀ g, s.boot.state = .scheduled → s.rtl.role ≠ .second → instantAt s = some g →
       (g < boundaryOf (s.t + 1) → exec .scheduleInstantReached s =
         .next (updEvent 465 2 (low24T s) { s.advance g with boot.state := .waiting })) ∧
       (boundaryOf (s.t + 1) ≤ g → exec .scheduleInstantReached s = .next s)) ∧
     (s.boot.state ≠ .scheduled ∨ s.rtl.role = .second → exec .scheduleInstantReached s = .next s)) ∧
  (∀ s : State, s.pdOn 2 = true → s.tick.running = true →
    let b := s.boot
    let role := s.rtl.role
    let here := s.mode = .run ∧ s.start = .ready ∧ s.gts = boundaryOf s.t
    let due := b.state = .waiting ∧ instantPast s = true ∧ quiet s = true
    let moved (k : Nat) (t : State) : Prop := t.boot.liveB = !b.liveB ∧ t.boot.moved = true ∧ t.boot.act = true ∧
      t.boot.pkgLive = b.pkgOther ∧ t.boot.pkgOther = b.pkgLive ∧ t.boot.state = .activating ∧ t.boot.step = k ∧
      t.mode = .descent ∧ t.dsc.td = s.t ∧ t.pwr.latched = true
    (here → due → role = .lone → b.team = false → ∃ t, exec .activation s = .next t ∧ moved 0 t) ∧
    (here → due → role = .lead → s.rtl.state = .lead → b.team = true ∨ twinStaged s = true → exec .activation s =
      .next { s with boot.state := .activating, boot.team := true, boot.step := 1 }) ∧
    (here → role = .second → b.state = .activating → b.step = 1 → b.moved = false →
      ∃ t, exec .activation s = .next t ∧ moved 1 t) ∧
    (here → due → role = .second → b.team = true → ∃ t, exec .activation s = .next t ∧ moved 1 t) ∧
    (¬here ∨ (role ≠ .second ∧ ¬due) → exec .activation s = .next s) ∧
    (let told (f : TickFrame) : Prop := role = .second ∧ b.team = true ∧ s.rtl.last.frame = true ∧
      s.rtl.frameIn = some f
    (b.state = .trial → (∃ k, role ≠ .second ∧ s.upd.judged = none ∧ s.upd.commitT = some k ∧ k + 2 ≤ s.t) ∨
        (∃ f, told f ∧ (f.upd.notice = 5 ∨ f.upd.state = 0)) →
      exec .commitEffect s = .next (updEvent 467 3 (low24T s) { s with
        boot.state := .idle, boot.team := false, boot.step := 0, boot.moved := false, upd.commitT := none
        upd.late := false, upd.schemaSeen := false, upd.reject := false, upd.report := 0 })) ∧
    (∀ k, b.state = .trial → (∃ tr, role ≠ .second ∧ s.upd.judged = some (k, tr) ∧ tr ≤ s.t) ∨
        (∃ f, told f ∧ 1 ≤ k ∧ k ≤ 4 ∧ f.upd.notice = k) →
      ∃ t, exec .reversion s = .next t ∧ t.boot.liveB = (if b.moved then !b.liveB else b.liveB) ∧
        t.boot.moved = false ∧ t.boot.act = false ∧ t.boot.lastCause = k ∧ t.boot.lastT = s.t ∧
        t.upd.judged = none ∧ t.upd.commitT = none ∧
        (s.upd.runB ≠ t.boot.liveB → t.boot.state = .reverting) ∧
        (role = .lone → s.upd.runB ≠ t.boot.liveB → b.team = false → k = 1 ∨ k = 3 → s.mode = .run →
          s.start = .ready → t.mode = .descent ∧ t.pwr.latched = true))) ∧
    (b.state ≠ .trial ∨ (role ≠ .second ∧ s.upd.commitT = none) → exec .commitEffect s = .next s) ∧
    (b.state = .trial → b.deadline < boundaryOf (s.t + 1) →
      let u : State := { s.advance b.deadline with upd.late := true }
      (u.gts ≠ boundaryOf s.t → exec .trialDeadline s = .next u) ∧
      (u.gts = boundaryOf s.t → role = .lone → s.upd.judged = none → s.upd.commitT = none → causeSeen s = 0 →
        b.team = false → exec .trialDeadline s = .next { u with upd.judged := some (2, s.t + 1) })) ∧
    (b.state ≠ .trial ∨ boundaryOf (s.t + 1) ≤ b.deadline → exec .trialDeadline s = .next s) ∧
    (b.state ≠ .trial ∨ (role ≠ .second ∧ s.upd.judged = none) → exec .reversion s = .next s)) ∧
  ∀ (a : Access) (v : Word) (s : State), opens a 2 s = true →
    let u := s.reply a .ok
    (v = 1 → exec (.configDone a v) s =
      .next (if s.boot.state = .activating ∨ s.boot.state = .trial ∨ s.boot.state = .reverting then
        updEvent 467 2 (low24T s) { u with upd.done := true } else { u with upd.done := true })) ∧
    (v = 2 → exec (.commit a v) s = .next (if commitOk s then
      (if s.upd.commitT.isSome then u else { u with upd.commitT := some s.t }) else updEvent 467 4 (low24T s) u)) ∧
    (commitOk s = true ↔ s.boot.state = .trial ∧ s.rtl.role ≠ .second ∧ s.upd.done = true ∧ runsOld s = false ∧
      s.boot.moved = true ∧ (twinCounts s = true → s.upd.twinDone = true ∧ s.upd.twinOld = false)) ∧
    (v = 4 → exec (.reject a v) s = .next (if s.boot.state = .trial then { u with upd.reject := true } else u))

/-- R414: a write to UPD_CTL or UPD_QUIET, 32 or 64 bits wide, is ignored while the state is WAITING or ACTIVATING. -/
def Obligations.QuietRegistersHoldWhileActivationWaits : Prop :=
  ∀ (a : Access) (addr : Nat) (wide : Bool) (v : BitVec 64) (s : State), blockAt addr = some 13 →
    s.boot.state = .waiting ∨ s.boot.state = .activating →
    ∃ t, exec (.registerWrite a addr wide v) s = .next t ∧ t.upd.quiet = s.upd.quiet ∧
      t.upd.quietMin = s.upd.quietMin ∧ t.mem = s.mem ∧
      (opens a 2 s = true → addr % 0x1_0000 / 4 * 4 ∈ [0x00, 0x08, 0x0C] → wide = false →
        t = s.reply a .ok)

/-! ### Self-test and recorder (17, 18) -/

/-- The descent self-test (R416, R419 to R423). KEY_ZEROISE comes in the first tick of step 5 and only a verified
read-back lets pitches start; the next enabled pitch that fits before T_d + 5,700 starts at a boundary, one at a time,
its whole domain isolated; it ends PASS, FAIL or INCOMPLETE with its ticks and seconds, and the end of its budget cuts
it INCOMPLETE. -/
def Obligations.PitchesRunInOrderWithinBudget : Prop :=
  ∀ s : State, s.pdOn 2 = true →
    let d := s.dsc
    (s.mode = .descent → d.step5 = some s.t → d.keysClear = false → d.keyFail = false →
      exec (.keyZeroise true) s = .next { s with dsc.keysClear := true } ∧
      exec (.keyZeroise false) s = .next { s with dsc.keyFail := true }) ∧
    (∀ ok, s.mode ≠ .descent ∨ d.step5 ≠ some s.t ∨ d.keysClear = true ∨ d.keyFail = true →
      exec (.keyZeroise ok) s = .next s) ∧
    (∀ p : Fin 12,
      let here := s.mode = .descent ∧ s.pwr.dstep = 5 ∧ d.keysClear = true ∧ d.runs = none ∧ d.freeT ≤ s.t ∧
        s.gts = boundaryOf s.t ∧ nextPitch s s.t = some p.val
      (here → ∃ t, exec (.pitchStart p) s = .next t ∧ t.pitch p.val = { running := true } ∧
        t.dsc.runs = some (p.val, s.t) ∧ t.dsc.next = p.val + 1 ∧
        (∀ x, pitchDomain p.val = some x → t.pdOn x = false) ∧ t.mode = .descent ∧ t.gts = s.gts) ∧
      (¬here → exec (.pitchStart p) s = .next s) ∧
      (nextPitch s s.t = some p.val → d.next ≤ p.val ∧ bitOf d.maskD p.val = true ∧
        s.t + pitchBudget p.val ≤ d.td + 5700)) ∧
    (∀ (p t0 : Nat), p < 12 → d.runs = some (p, t0) →
      let wasOn (t : State) : Prop := ∀ x, pitchDomain p = some x → d.wasOn = true → t.pdOn x = true
      (∀ o : PitchOutcome, s.gts ≤ boundaryOf (t0 + pitchBudget p) →
        ∃ t, exec (.pitchEnd o) s = .next t ∧ t.dsc.runs = none ∧ wasOn t ∧ t.pitch p = {
          result := if !o.counts then .incomplete else if o.signatures then .pass else .fail
          running := false, ticks := satTo ((s.gts + tickLen - 1) / tickLen - t0) 65535, seconds := d.seconds }) ∧
      (∀ o : PitchOutcome, boundaryOf (t0 + pitchBudget p) < s.gts → exec (.pitchEnd o) s = .next s) ∧
      (t0 + pitchBudget p ≤ s.t → ∃ t, exec .pitchBudgetExpiry s = .next t ∧ t.dsc.runs = none ∧ wasOn t ∧
        t.pitch p = {
          result := .incomplete, running := false, ticks := pitchBudget p, seconds := d.seconds }) ∧
      (s.t < t0 + pitchBudget p → exec .pitchBudgetExpiry s = .next s)) ∧
    (d.runs = none → (∀ o, exec (.pitchEnd o) s = .next s) ∧ exec .pitchBudgetExpiry s = .next s)

/-- The event recorder (R431 to R440). A flush writes the staged records to flash when due, or keeps them for one more
try where the write fails; the rate window closes once no earlier event is left; hours count in Run, Descent and
Fixed-rope; REC_WINDOW0 latches the record under the cursor and REC_WINDOW7 moves on unless EMPTY; REC_CLEAR takes the
key from a secure initiator; REC_COPY takes whole records. -/
def Obligations.RecorderKeepsAndGivesItsRecords : Prop :=
  (∀ s : State,
    let r := s.recorder
    (flushDue s = true → r.overwritten = 0 → r.staging ≠ [] →
      exec (.recFlush true) s = .next (r.staging.foldl (fun s rec => writeFlash rec s) { s with
        recorder.staging := [], recorder.failed := 0, recorder.hoursFlash := r.hours }) ∧
      (r.failed = 0 → exec (.recFlush false) s = .next { s with recorder.failed := r.staging.length })) ∧
    (∀ ok, flushDue s = false → exec (.recFlush ok) s = .next s) ∧
    (let w := s.gts / tickLen / 1000
    let b := w * 1000 * tickLen
    ((∃ e ∈ s.sys.merger, e.gts < b) → exec .rateWindowEnd s = .next s) ∧
    ((∀ e ∈ s.sys.merger, b ≤ e.gts) → exec .rateWindowEnd s =
      .next (raiseSuppressed b (r.suppressed.filter fun e => e.1 / 512 < w) { s with
        recorder.suppressed := r.suppressed.filter fun e => w ≤ e.1 / 512
        recorder.inWindow := r.inWindow.filter fun e => w ≤ e.1 / 512 }))) ∧
    (s.mode = .run ∨ s.mode = .descent ∨ s.mode = .fixedRope → exec .hoursAdvance s =
      .next { s with recorder.hours := min (r.hours + 1) max32 }) ∧
    (s.mode = .cold ∨ s.mode = .bivouac → exec .hoursAdvance s = .next s) ∧
    (∀ c, s.opOf 15 0 (isStarted 1) = some c →
      let k := c.op.aux.getD 1 0
      let from' := wordOf (c.op.aux.getD 0 0)
      (k * 32 = c.op.len → r.clears = c.op.aux.getD 2 0 → exec .recCopyComplete s =
        .next (finishOp c stOk c.op.xfer (wordOf k) from' s)) ∧
      (k * 32 ≠ c.op.len ∨ r.clears ≠ c.op.aux.getD 2 0 → exec .recCopyComplete s =
        .next (finishOp c stIncomplete c.op.xfer (wordOf k) from' s))) ∧
    (s.opOf 15 0 (isStarted 1) = none → exec .recCopyComplete s = .next s)) ∧
  (∀ (a : Access) (s : State), opens a 2 s = true →
    let r := s.recorder
    let k := a.ini.id
    let at' := Tab.get 0 r.cursor k
    let seen := r.look (Tab.get false r.csel k) at'
    let w := Tab.get ([], 2) r.window k
    exec (.recWindowLatch a) s = .next (({ s with recorder.window := Tab.put r.window k seen } : State).replyWord a
      (seen.1.getD 0 0)) ∧
    exec (.recCursorAdvance a) s = .next ((if w.2 = 2 then s else { s with
      recorder.cursor := Tab.put r.cursor k (inc32 at') } : State).replyWord a (w.1.getD 7 0))) ∧
  (∀ (a : Access) (v : Word) (s : State), opens a 2 s = true →
    let r := s.recorder
    let u := s.reply a .ok
    let key := secureOf a = true ∧ bitsOf v 31 16 = 0x5C3E ∧ bitOf v 0 = true
    (key → exec (.recClear a v) s = .next (writeOwn 482 1 (sub32 r.next r.first % 2 ^ 24 * 256 + a.ini.id) { u with
      recorder.first := r.next, recorder.scree := [], recorder.clears := r.clears + 1 })) ∧
    (¬key → exec (.recClear a v) s = .next (raise 483 1 a.ini.id u))) ∧
  ∀ (n : Fin 32) (c : OpRef) (s : State), c.ring = n.val → takes 15 0 1 .serial c s = true →
    let cairn := bitOf (c.op.word 6) 0
    let f := copyFrom s.recorder cairn (c.op.word 7).toNat
    let recs := copyRecords s.recorder cairn f (c.op.len / 32)
    let bs := recs.flatMap fun rec => wordBytes ((List.range 8).map fun i => rec.getD i 0)
    (c.op.len = 0 ∨ c.op.len % 32 ≠ 0 ∨ 262144 < c.op.len →
      exec (.recCopy n) s = .next (failOp c stLen 0 s)) ∧
    (0 < c.op.len → c.op.len % 32 = 0 → c.op.len ≤ 262144 → bufferOpen 0x2D true c.op.addr bs.length s = true →
      exec (.recCopy n) s = .next ((stored c bs s).setOp c { c.op with
        stage := .started, xfer := bs.length, aux := [f, recs.length, s.recorder.clears] }))
end

