-- ==== Sys2Proof/Laws/Kept.lean ====
section
/-!
SUPPORT. What every operation of the model keeps: the canonical form of memory, the queue of waiting commands, the
course of time, the power-cycle count and the mode. `Kept k s` says so of a state; the lemma `f_kept` of each
operation `f` that answers a state says that `f` keeps it. The hypothesis `ht` of such a lemma (nothing is claimed of
time) stands for the operations that start a time base, `hm` (nothing is claimed of the mode) for those that change
the mode, `hd` (the module may descend) for those that may begin Descent. This file holds the predicate and its rules;
the files Kept<Module> hold the lemmas, one for every operation of that module of the machine.
-/

namespace Sys2Proof.Machine

/-! ### Memory (R16) -/

/-- A list whose addresses lie above `b` lies above every lower address. -/
theorem Memory.above_of_lt {a b : Nat} (h : a < b) : ∀ {m : List Host.Cell}, Memory.above b m = true → Memory.above a m = true
  | [], _ => rfl
  | (c, _) :: r, hb => by
    simp only [Memory.above, Bool.and_eq_true, decide_eq_true_eq] at hb ⊢
    exact ⟨by omega, above_of_lt h hb.2⟩

/-- What lies above an address before a write above it lies above it after the write. -/
theorem Memory.above_set {c a : Nat} {v : Byte} (h : c < a) :
    ∀ {m : List Host.Cell}, Memory.above c m = true → Memory.above c (Memory.set m a v) = true
  | [], _ => by
    unfold Memory.set
    split <;> simp [Memory.above, h]
  | (b, w) :: r, hm => by
    simp only [Memory.above, Bool.and_eq_true, decide_eq_true_eq] at hm
    unfold Memory.set
    split
    · split
      · exact hm.2
      · simp [Memory.above, h, hm.2]
    · split
      · split <;> simp [Memory.above, h, hm.1, hm.2]
      · simp [Memory.above, hm.1, Memory.above_set h hm.2]

/-- A write of a byte keeps the canonical form. -/
theorem Memory.set_wf {a : Nat} {v : Byte} :
    ∀ {m : List Host.Cell}, Memory.wf m = true → Memory.wf (Memory.set m a v) = true
  | [], _ => by
    unfold Memory.set
    split <;> simp_all [Memory.wf, Memory.above]
  | (b, w) :: r, hm => by
    simp only [Memory.wf, Bool.and_eq_true] at hm
    obtain ⟨⟨hw, ha⟩, hr⟩ := hm
    unfold Memory.set
    split
    · rename_i e
      subst e
      split
      · exact hr
      · simp_all [Memory.wf]
    · split
      · rename_i hlt
        split
        · simp_all [Memory.wf]
        · simp_all [Memory.wf, Memory.above, Memory.above_of_lt hlt ha]
      · rename_i hne hge
        simp only [Memory.wf, Bool.and_eq_true]
        exact ⟨⟨hw, Memory.above_set (by omega) ha⟩, Memory.set_wf hr⟩

/-- A write of bytes keeps the canonical form. -/
theorem Memory.setMany_wf : ∀ {bs : List Byte} {m : List Host.Cell} {a : Nat},
    Memory.wf m = true → Memory.wf (Memory.setMany m a bs) = true
  | [], _, _, h => h
  | b :: bs, m, a, h => Memory.setMany_wf (bs := bs) (m := Memory.set m a b) (Memory.set_wf h)

/-- An address below every listed one reads 0. -/
theorem Memory.get_above {a : Nat} : ∀ {m : List Host.Cell}, Memory.above a m = true → Memory.get m a = 0
  | [], _ => rfl
  | (b, w) :: r, h => by
    simp only [Memory.above, Bool.and_eq_true, decide_eq_true_eq] at h
    have : a ≠ b := by omega
    simp [Memory.get, this, Memory.get_above h.2]

/-- A byte read after it has been written. -/
theorem Memory.get_set_self {a : Nat} {v : Byte} :
    ∀ {m : List Host.Cell}, Memory.wf m = true → Memory.get (Memory.set m a v) a = v
  | [], _ => by
    unfold Memory.set
    split <;> simp_all [Memory.get]
  | (b, w) :: r, hm => by
    simp only [Memory.wf, Bool.and_eq_true] at hm
    obtain ⟨⟨hw, ha⟩, hr⟩ := hm
    unfold Memory.set
    split
    · rename_i e
      subst e
      split
      · rename_i hv
        subst hv
        exact Memory.get_above ha
      · simp [Memory.get]
    · split
      · rename_i hlt
        split
        · rename_i hv
          subst hv
          have : a ≠ b := by omega
          simp [Memory.get, this, Memory.get_above (Memory.above_of_lt hlt ha)]
        · simp [Memory.get]
      · rename_i hne hge
        simp [Memory.get, hne, Memory.get_set_self hr]

/-- A byte at another address is as before the write. -/
theorem Memory.get_set_ne {a c : Nat} {v : Byte} (hne : c ≠ a) :
    ∀ {m : List Host.Cell}, Memory.wf m = true → Memory.get (Memory.set m a v) c = Memory.get m c
  | [], _ => by
    unfold Memory.set
    split <;> simp [Memory.get, hne]
  | (b, w) :: r, hm => by
    simp only [Memory.wf, Bool.and_eq_true] at hm
    obtain ⟨⟨hw, ha⟩, hr⟩ := hm
    unfold Memory.set
    split
    · rename_i e
      subst e
      split <;> simp [Memory.get, hne]
    · split
      · split <;> simp [Memory.get, hne]
      · simp [Memory.get, Memory.get_set_ne hne hr]

/-! ### The predicate -/

/-- What is claimed: the queue; with `canon` the canonical form of memory; a GTS that time has not gone back behind,
and the power-cycle count; the mode, and
whether a module in Run may have begun Descent. -/
structure Keep where
  queue : List Instr
  canon : Bool := true
  time : Option (Nat × Nat) := none
  mode : Option Mode := none
  down : Bool := false

/-- The state keeps what is claimed. GTS means something while the time base runs. -/
structure Kept (k : Keep) (s : State) : Prop where
  mem : k.canon = true → Memory.wf s.mem = true
  queue : s.pending = k.queue
  time : ∀ g p, k.time = some (g, p) → (g ≤ s.gts ∨ s.tick.running = false) ∧ s.tick.pcc = p
  mode : ∀ m, k.mode = some m → s.mode = m ∨ (k.down = true ∧ m = .run ∧ s.mode = .descent)

/-- The state of a pair of a state and something else is kept. -/
def KeptF {α : Type} (k : Keep) (p : State × α) : Prop := Kept k p.1

/-- The state of a pair of something else and a state is kept. -/
def KeptS {α : Type} (k : Keep) (p : α × State) : Prop := Kept k p.2

/-- The next state of an outcome, if it is one, is kept. -/
def KeptO {φ ρ : Type} (k : Keep) (o : Host.Outcome State φ ρ) : Prop := ∀ t, o = .next t → Kept k t

theorem Kept.ite {k : Keep} {c : Prop} [Decidable c] {a b : State} (ha : Kept k a) (hb : Kept k b) :
    Kept k (if c then a else b) := by
  split
  · exact ha
  · exact hb

theorem KeptF.ite {α : Type} {k : Keep} {c : Prop} [Decidable c] {a b : State × α} (ha : KeptF k a) (hb : KeptF k b) :
    KeptF k (if c then a else b) := by
  split
  · exact ha
  · exact hb

theorem KeptS.ite {α : Type} {k : Keep} {c : Prop} [Decidable c] {a b : α × State} (ha : KeptS k a) (hb : KeptS k b) :
    KeptS k (if c then a else b) := by
  split
  · exact ha
  · exact hb

theorem KeptO.ite {φ ρ : Type} {k : Keep} {c : Prop} [Decidable c] {a b : Host.Outcome State φ ρ} (ha : KeptO k a)
    (hb : KeptO k b) : KeptO k (if c then a else b) := by
  split
  · exact ha
  · exact hb

theorem KeptO.next {φ ρ : Type} {k : Keep} {s : State} (h : Kept k s) : KeptO (φ := φ) (ρ := ρ) k (.next s) := by
  intro t e
  injection e with e
  exact e ▸ h

theorem KeptF.mk {α : Type} {k : Keep} {s : State} {x : α} (h : Kept k s) : KeptF k (s, x) := h

theorem KeptS.mk {α : Type} {k : Keep} {s : State} {x : α} (h : Kept k s) : KeptS k (x, s) := h

theorem KeptF.out {α : Type} {k : Keep} {p : State × α} (h : KeptF k p) : Kept k p.1 := h

theorem KeptS.out {α : Type} {k : Keep} {p : α × State} (h : KeptS k p) : Kept k p.2 := h

theorem KeptF.of_eq {α : Type} {k : Keep} {p : State × α} {s : State} {x : α} (e : p = (s, x)) (h : KeptF k p) :
    Kept k s := by
  subst e
  exact h

theorem KeptS.of_eq {α : Type} {k : Keep} {p : α × State} {s : State} {x : α} (e : p = (x, s)) (h : KeptS k p) :
    Kept k s := by
  subst e
  exact h

theorem Kept.foldl {k : Keep} {β : Type} {f : State → β → State} (hf : ∀ s x, Kept k s → Kept k (f s x)) :
    ∀ {xs : List β} {s : State}, Kept k s → Kept k (xs.foldl f s)
  | [], _, h => h
  | x :: _, s, h => Kept.foldl (s := f s x) hf (hf s x h)

theorem KeptF.foldl {k : Keep} {α β : Type} {f : State × α → β → State × α}
    (hf : ∀ p x, KeptF k p → KeptF k (f p x)) :
    ∀ {xs : List β} {p : State × α}, KeptF k p → KeptF k (xs.foldl f p)
  | [], _, h => h
  | x :: _, p, h => KeptF.foldl (p := f p x) hf (hf p x h)

theorem Kept.ident {k : Keep} {s : State} (h : Kept k s) : Kept k (id s) := h

/-- A record update that leaves memory, queue, GTS and mode, and the time base with its count. -/
theorem Kept.upd {k : Keep}
    {start : Start} {pd : Word} {resp : List (Nat × Resp)} {shadows : Tab Word} {sys : Sys} {tick : Tick} {hri : Hri}
    {fen : Fen} {recorder : Rec} {mbx : Mbx} {bce : Bce} {fin : FinBlk} {lsw : Lsw} {can : Can} {lko : Lko}
    {ipl : Ipl} {gnb : Gnb} {biv : GnbBiv} {yld : Yld} {yarea : YldArea} {pnl : Pnl} {lh : Word} {wk : Word}
    {ropePos : Nat} {rtl : Rtl} {boot : Boot} {upd : Upd} {dsc : Dsc} {pwr : Pwr} {dbgEn : Bool}
    {y : State} (hr : tick.running = y.tick.running) (hp : tick.pcc = y.tick.pcc) (h : Kept k y) :
    Kept k (State.mk y.gts y.mode start pd resp shadows y.mem sys tick hri fen recorder mbx bce fin lsw can lko ipl gnb
      biv yld yarea pnl lh wk ropePos rtl boot upd dsc pwr dbgEn y.pending) :=
  ⟨h.mem, h.queue, fun g p e => by
    have := h.time g p e
    exact ⟨hr ▸ this.1, hp ▸ this.2⟩, h.mode⟩

/-- A record update that empties memory. -/
theorem Kept.clear {k : Keep}
    {start : Start} {pd : Word} {resp : List (Nat × Resp)} {shadows : Tab Word} {sys : Sys} {tick : Tick} {hri : Hri}
    {fen : Fen} {recorder : Rec} {mbx : Mbx} {bce : Bce} {fin : FinBlk} {lsw : Lsw} {can : Can} {lko : Lko}
    {ipl : Ipl} {gnb : Gnb} {biv : GnbBiv} {yld : Yld} {yarea : YldArea} {pnl : Pnl} {lh : Word} {wk : Word}
    {ropePos : Nat} {rtl : Rtl} {boot : Boot} {upd : Upd} {dsc : Dsc} {pwr : Pwr} {dbgEn : Bool}
    {y : State} (hr : tick.running = y.tick.running) (hp : tick.pcc = y.tick.pcc) (h : Kept k y) :
    Kept k (State.mk y.gts y.mode start pd resp shadows [] sys tick hri fen recorder mbx bce fin lsw can lko ipl gnb biv
      yld yarea pnl lh wk ropePos rtl boot upd dsc pwr dbgEn y.pending) :=
  ⟨fun _ => rfl, h.queue, fun g p e => by
    have := h.time g p e
    exact ⟨hr ▸ this.1, hp ▸ this.2⟩, h.mode⟩

/-- A record update that ends the time base. -/
theorem Kept.stop {k : Keep}
    {gts : Nat} {start : Start} {pd : Word} {resp : List (Nat × Resp)} {shadows : Tab Word} {sys : Sys} {tick : Tick}
    {hri : Hri} {fen : Fen} {recorder : Rec} {mbx : Mbx} {bce : Bce} {fin : FinBlk} {lsw : Lsw} {can : Can}
    {lko : Lko} {ipl : Ipl} {gnb : Gnb} {biv : GnbBiv} {yld : Yld} {yarea : YldArea} {pnl : Pnl} {lh : Word}
    {wk : Word} {ropePos : Nat} {rtl : Rtl} {boot : Boot} {upd : Upd} {dsc : Dsc} {pwr : Pwr} {dbgEn : Bool}
    {y : State} (hr : tick.running = false) (hp : tick.pcc = y.tick.pcc) (h : Kept k y) :
    Kept k (State.mk gts y.mode start pd resp shadows y.mem sys tick hri fen recorder mbx bce fin lsw can lko ipl gnb biv
      yld yarea pnl lh wk ropePos rtl boot upd dsc pwr dbgEn y.pending) :=
  ⟨h.mem, h.queue, fun g p e => ⟨.inr hr, hp ▸ (h.time g p e).2⟩, h.mode⟩

/-- A record update that ends the time base and empties memory. -/
theorem Kept.off {k : Keep}
    {gts : Nat} {start : Start} {pd : Word} {resp : List (Nat × Resp)} {shadows : Tab Word} {sys : Sys} {tick : Tick}
    {hri : Hri} {fen : Fen} {recorder : Rec} {mbx : Mbx} {bce : Bce} {fin : FinBlk} {lsw : Lsw} {can : Can}
    {lko : Lko} {ipl : Ipl} {gnb : Gnb} {biv : GnbBiv} {yld : Yld} {yarea : YldArea} {pnl : Pnl} {lh : Word}
    {wk : Word} {ropePos : Nat} {rtl : Rtl} {boot : Boot} {upd : Upd} {dsc : Dsc} {pwr : Pwr} {dbgEn : Bool}
    {y : State} (hr : tick.running = false) (hp : tick.pcc = y.tick.pcc) (h : Kept k y) :
    Kept k (State.mk gts y.mode start pd resp shadows [] sys tick hri fen recorder mbx bce fin lsw can lko ipl gnb biv
      yld yarea pnl lh wk ropePos rtl boot upd dsc pwr dbgEn y.pending) :=
  ⟨fun _ => rfl, h.queue, fun g p e => ⟨.inr hr, hp ▸ (h.time g p e).2⟩, h.mode⟩

/-- A record update by which time goes on. -/
theorem Kept.later {k : Keep}
    {gts : Nat} {start : Start} {pd : Word} {resp : List (Nat × Resp)} {shadows : Tab Word} {sys : Sys} {tick : Tick}
    {hri : Hri} {fen : Fen} {recorder : Rec} {mbx : Mbx} {bce : Bce} {fin : FinBlk} {lsw : Lsw} {can : Can}
    {lko : Lko} {ipl : Ipl} {gnb : Gnb} {biv : GnbBiv} {yld : Yld} {yarea : YldArea} {pnl : Pnl} {lh : Word}
    {wk : Word} {ropePos : Nat} {rtl : Rtl} {boot : Boot} {upd : Upd} {dsc : Dsc} {pwr : Pwr} {dbgEn : Bool}
    {y : State} (hg : y.gts ≤ gts) (hr : tick.running = y.tick.running) (hp : tick.pcc = y.tick.pcc) (h : Kept k y) :
    Kept k (State.mk gts y.mode start pd resp shadows y.mem sys tick hri fen recorder mbx bce fin lsw can lko ipl gnb biv
      yld yarea pnl lh wk ropePos rtl boot upd dsc pwr dbgEn y.pending) :=
  ⟨h.mem, h.queue, fun g p e => by
    have := h.time g p e
    refine ⟨?_, hp ▸ this.2⟩
    rcases this.1 with h1 | h1
    · exact .inl (Nat.le_trans h1 hg)
    · exact .inr (hr.trans h1), h.mode⟩

/-- A record update of the time base, of which nothing is claimed. -/
theorem Kept.mkTime {k : Keep}
    {gts : Nat} {start : Start} {pd : Word} {resp : List (Nat × Resp)} {shadows : Tab Word} {sys : Sys} {tick : Tick}
    {hri : Hri} {fen : Fen} {recorder : Rec} {mbx : Mbx} {bce : Bce} {fin : FinBlk} {lsw : Lsw} {can : Can}
    {lko : Lko} {ipl : Ipl} {gnb : Gnb} {biv : GnbBiv} {yld : Yld} {yarea : YldArea} {pnl : Pnl} {lh : Word}
    {wk : Word} {ropePos : Nat} {rtl : Rtl} {boot : Boot} {upd : Upd} {dsc : Dsc} {pwr : Pwr} {dbgEn : Bool}
    {y : State} (ht : k.time = none) (h : Kept k y) :
    Kept k (State.mk gts y.mode start pd resp shadows y.mem sys tick hri fen recorder mbx bce fin lsw can lko ipl gnb biv
      yld yarea pnl lh wk ropePos rtl boot upd dsc pwr dbgEn y.pending) :=
  ⟨h.mem, h.queue, fun g p e => (by rw [ht] at e; cases e), h.mode⟩

/-- A record update of the mode and the time base, of which nothing is claimed. -/
theorem Kept.mkStart {k : Keep}
    {gts : Nat} {mode : Mode} {start : Start} {pd : Word} {resp : List (Nat × Resp)} {shadows : Tab Word} {sys : Sys}
    {tick : Tick} {hri : Hri} {fen : Fen} {recorder : Rec} {mbx : Mbx} {bce : Bce} {fin : FinBlk} {lsw : Lsw}
    {can : Can} {lko : Lko} {ipl : Ipl} {gnb : Gnb} {biv : GnbBiv} {yld : Yld} {yarea : YldArea} {pnl : Pnl}
    {lh : Word} {wk : Word} {ropePos : Nat} {rtl : Rtl} {boot : Boot} {upd : Upd} {dsc : Dsc} {pwr : Pwr}
    {dbgEn : Bool}
    {y : State} (hm : k.mode = none) (ht : k.time = none) (h : Kept k y) :
    Kept k (State.mk gts mode start pd resp shadows y.mem sys tick hri fen recorder mbx bce fin lsw can lko ipl gnb biv
      yld yarea pnl lh wk ropePos rtl boot upd dsc pwr dbgEn y.pending) :=
  ⟨h.mem, h.queue, fun g p e => (by rw [ht] at e; cases e), fun m e => by rw [hm] at e; cases e⟩

/-- A record update of the mode, of which nothing is claimed. -/
theorem Kept.mkMode {k : Keep}
    {mode : Mode} {start : Start} {pd : Word} {resp : List (Nat × Resp)} {shadows : Tab Word} {sys : Sys}
    {tick : Tick} {hri : Hri} {fen : Fen} {recorder : Rec} {mbx : Mbx} {bce : Bce} {fin : FinBlk} {lsw : Lsw}
    {can : Can} {lko : Lko} {ipl : Ipl} {gnb : Gnb} {biv : GnbBiv} {yld : Yld} {yarea : YldArea} {pnl : Pnl}
    {lh : Word} {wk : Word} {ropePos : Nat} {rtl : Rtl} {boot : Boot} {upd : Upd} {dsc : Dsc} {pwr : Pwr}
    {dbgEn : Bool}
    {y : State} (hm : k.mode = none) (hr : tick.running = y.tick.running) (hp : tick.pcc = y.tick.pcc) (h : Kept k y) :
    Kept k (State.mk y.gts mode start pd resp shadows y.mem sys tick hri fen recorder mbx bce fin lsw can lko ipl gnb biv
      yld yarea pnl lh wk ropePos rtl boot upd dsc pwr dbgEn y.pending) :=
  ⟨h.mem, h.queue, fun g p e => by
    have := h.time g p e
    exact ⟨hr ▸ this.1, hp ▸ this.2⟩, fun m e => by rw [hm] at e; cases e⟩

end Sys2Proof.Machine
end

