-- ==== Sys2Proof/Laws/State.lean ====
section
/-!
SUPPORT. What the named updates of the state leave alone: one lemma for each update and field. The last lemmas say the
same of raising an event, which reaches only the merger and the staging SRAM.
-/

namespace Sys2Proof.Machine

/-! ### One update, one field -/

@[simp] theorem State.reply_gts (s : State) (a : Access) (r : Resp) : (s.reply a r).gts = s.gts := by rfl
@[simp] theorem State.reply_mode (s : State) (a : Access) (r : Resp) : (s.reply a r).mode = s.mode := by rfl
@[simp] theorem State.reply_start (s : State) (a : Access) (r : Resp) : (s.reply a r).start = s.start := by rfl
@[simp] theorem State.reply_pd (s : State) (a : Access) (r : Resp) : (s.reply a r).pd = s.pd := by rfl
@[simp] theorem State.reply_shadows (s : State) (a : Access) (r : Resp) : (s.reply a r).shadows = s.shadows := by rfl
@[simp] theorem State.reply_mem (s : State) (a : Access) (r : Resp) : (s.reply a r).mem = s.mem := by rfl
@[simp] theorem State.reply_sys (s : State) (a : Access) (r : Resp) : (s.reply a r).sys = s.sys := by rfl
@[simp] theorem State.reply_tick (s : State) (a : Access) (r : Resp) : (s.reply a r).tick = s.tick := by rfl
@[simp] theorem State.reply_hri (s : State) (a : Access) (r : Resp) : (s.reply a r).hri = s.hri := by rfl
@[simp] theorem State.reply_fen (s : State) (a : Access) (r : Resp) : (s.reply a r).fen = s.fen := by rfl
@[simp] theorem State.reply_recorder (s : State) (a : Access) (r : Resp) : (s.reply a r).recorder = s.recorder := by rfl
@[simp] theorem State.reply_mbx (s : State) (a : Access) (r : Resp) : (s.reply a r).mbx = s.mbx := by rfl
@[simp] theorem State.reply_bce (s : State) (a : Access) (r : Resp) : (s.reply a r).bce = s.bce := by rfl
@[simp] theorem State.reply_fin (s : State) (a : Access) (r : Resp) : (s.reply a r).fin = s.fin := by rfl
@[simp] theorem State.reply_lsw (s : State) (a : Access) (r : Resp) : (s.reply a r).lsw = s.lsw := by rfl
@[simp] theorem State.reply_can (s : State) (a : Access) (r : Resp) : (s.reply a r).can = s.can := by rfl
@[simp] theorem State.reply_lko (s : State) (a : Access) (r : Resp) : (s.reply a r).lko = s.lko := by rfl
@[simp] theorem State.reply_ipl (s : State) (a : Access) (r : Resp) : (s.reply a r).ipl = s.ipl := by rfl
@[simp] theorem State.reply_gnb (s : State) (a : Access) (r : Resp) : (s.reply a r).gnb = s.gnb := by rfl
@[simp] theorem State.reply_biv (s : State) (a : Access) (r : Resp) : (s.reply a r).biv = s.biv := by rfl
@[simp] theorem State.reply_yld (s : State) (a : Access) (r : Resp) : (s.reply a r).yld = s.yld := by rfl
@[simp] theorem State.reply_yarea (s : State) (a : Access) (r : Resp) : (s.reply a r).yarea = s.yarea := by rfl
@[simp] theorem State.reply_pnl (s : State) (a : Access) (r : Resp) : (s.reply a r).pnl = s.pnl := by rfl
@[simp] theorem State.reply_lh (s : State) (a : Access) (r : Resp) : (s.reply a r).lh = s.lh := by rfl
@[simp] theorem State.reply_wk (s : State) (a : Access) (r : Resp) : (s.reply a r).wk = s.wk := by rfl
@[simp] theorem State.reply_ropePos (s : State) (a : Access) (r : Resp) : (s.reply a r).ropePos = s.ropePos := by rfl
@[simp] theorem State.reply_rtl (s : State) (a : Access) (r : Resp) : (s.reply a r).rtl = s.rtl := by rfl
@[simp] theorem State.reply_boot (s : State) (a : Access) (r : Resp) : (s.reply a r).boot = s.boot := by rfl
@[simp] theorem State.reply_upd (s : State) (a : Access) (r : Resp) : (s.reply a r).upd = s.upd := by rfl
@[simp] theorem State.reply_dsc (s : State) (a : Access) (r : Resp) : (s.reply a r).dsc = s.dsc := by rfl
@[simp] theorem State.reply_pwr (s : State) (a : Access) (r : Resp) : (s.reply a r).pwr = s.pwr := by rfl
@[simp] theorem State.reply_dbgEn (s : State) (a : Access) (r : Resp) : (s.reply a r).dbgEn = s.dbgEn := by rfl
@[simp] theorem State.reply_pending (s : State) (a : Access) (r : Resp) : (s.reply a r).pending = s.pending := by rfl
@[simp] theorem State.reply_pdOn (s : State) (a : Access) (r : Resp) (i : Nat) : (s.reply a r).pdOn i = s.pdOn i := by rfl
@[simp] theorem State.reply_busVerdict (s : State) (a : Access) (r : Resp) (vi : Nat) (ve vw : Bool) (va vl : Nat) : (s.reply a r).busVerdict vi ve vw va vl = s.busVerdict vi ve vw va vl := by rfl
@[simp] theorem State.reply_t (s : State) (a : Access) (r : Resp) : (s.reply a r).t = s.t := by rfl
@[simp] theorem State.reply_ring (s : State) (a : Access) (r : Resp) (i : Nat) : (s.reply a r).ring i = s.ring i := by rfl

@[simp] theorem State.replyWord_gts (s : State) (a : Access) (w : Word) : (s.replyWord a w).gts = s.gts := by rfl
@[simp] theorem State.replyWord_mode (s : State) (a : Access) (w : Word) : (s.replyWord a w).mode = s.mode := by rfl
@[simp] theorem State.replyWord_start (s : State) (a : Access) (w : Word) : (s.replyWord a w).start = s.start := by rfl
@[simp] theorem State.replyWord_pd (s : State) (a : Access) (w : Word) : (s.replyWord a w).pd = s.pd := by rfl
@[simp] theorem State.replyWord_shadows (s : State) (a : Access) (w : Word) : (s.replyWord a w).shadows = s.shadows := by rfl
@[simp] theorem State.replyWord_mem (s : State) (a : Access) (w : Word) : (s.replyWord a w).mem = s.mem := by rfl
@[simp] theorem State.replyWord_sys (s : State) (a : Access) (w : Word) : (s.replyWord a w).sys = s.sys := by rfl
@[simp] theorem State.replyWord_tick (s : State) (a : Access) (w : Word) : (s.replyWord a w).tick = s.tick := by rfl
@[simp] theorem State.replyWord_hri (s : State) (a : Access) (w : Word) : (s.replyWord a w).hri = s.hri := by rfl
@[simp] theorem State.replyWord_fen (s : State) (a : Access) (w : Word) : (s.replyWord a w).fen = s.fen := by rfl
@[simp] theorem State.replyWord_recorder (s : State) (a : Access) (w : Word) : (s.replyWord a w).recorder = s.recorder := by rfl
@[simp] theorem State.replyWord_mbx (s : State) (a : Access) (w : Word) : (s.replyWord a w).mbx = s.mbx := by rfl
@[simp] theorem State.replyWord_bce (s : State) (a : Access) (w : Word) : (s.replyWord a w).bce = s.bce := by rfl
@[simp] theorem State.replyWord_fin (s : State) (a : Access) (w : Word) : (s.replyWord a w).fin = s.fin := by rfl
@[simp] theorem State.replyWord_lsw (s : State) (a : Access) (w : Word) : (s.replyWord a w).lsw = s.lsw := by rfl
@[simp] theorem State.replyWord_can (s : State) (a : Access) (w : Word) : (s.replyWord a w).can = s.can := by rfl
@[simp] theorem State.replyWord_lko (s : State) (a : Access) (w : Word) : (s.replyWord a w).lko = s.lko := by rfl
@[simp] theorem State.replyWord_ipl (s : State) (a : Access) (w : Word) : (s.replyWord a w).ipl = s.ipl := by rfl
@[simp] theorem State.replyWord_gnb (s : State) (a : Access) (w : Word) : (s.replyWord a w).gnb = s.gnb := by rfl
@[simp] theorem State.replyWord_biv (s : State) (a : Access) (w : Word) : (s.replyWord a w).biv = s.biv := by rfl
@[simp] theorem State.replyWord_yld (s : State) (a : Access) (w : Word) : (s.replyWord a w).yld = s.yld := by rfl
@[simp] theorem State.replyWord_yarea (s : State) (a : Access) (w : Word) : (s.replyWord a w).yarea = s.yarea := by rfl
@[simp] theorem State.replyWord_pnl (s : State) (a : Access) (w : Word) : (s.replyWord a w).pnl = s.pnl := by rfl
@[simp] theorem State.replyWord_lh (s : State) (a : Access) (w : Word) : (s.replyWord a w).lh = s.lh := by rfl
@[simp] theorem State.replyWord_wk (s : State) (a : Access) (w : Word) : (s.replyWord a w).wk = s.wk := by rfl
@[simp] theorem State.replyWord_ropePos (s : State) (a : Access) (w : Word) : (s.replyWord a w).ropePos = s.ropePos := by rfl
@[simp] theorem State.replyWord_rtl (s : State) (a : Access) (w : Word) : (s.replyWord a w).rtl = s.rtl := by rfl
@[simp] theorem State.replyWord_boot (s : State) (a : Access) (w : Word) : (s.replyWord a w).boot = s.boot := by rfl
@[simp] theorem State.replyWord_upd (s : State) (a : Access) (w : Word) : (s.replyWord a w).upd = s.upd := by rfl
@[simp] theorem State.replyWord_dsc (s : State) (a : Access) (w : Word) : (s.replyWord a w).dsc = s.dsc := by rfl
@[simp] theorem State.replyWord_pwr (s : State) (a : Access) (w : Word) : (s.replyWord a w).pwr = s.pwr := by rfl
@[simp] theorem State.replyWord_dbgEn (s : State) (a : Access) (w : Word) : (s.replyWord a w).dbgEn = s.dbgEn := by rfl
@[simp] theorem State.replyWord_pending (s : State) (a : Access) (w : Word) : (s.replyWord a w).pending = s.pending := by rfl
@[simp] theorem State.replyWord_pdOn (s : State) (a : Access) (w : Word) (i : Nat) : (s.replyWord a w).pdOn i = s.pdOn i := by rfl
@[simp] theorem State.replyWord_busVerdict (s : State) (a : Access) (w : Word) (vi : Nat) (ve vw : Bool) (va vl : Nat) : (s.replyWord a w).busVerdict vi ve vw va vl = s.busVerdict vi ve vw va vl := by rfl
@[simp] theorem State.replyWord_t (s : State) (a : Access) (w : Word) : (s.replyWord a w).t = s.t := by rfl
@[simp] theorem State.replyWord_ring (s : State) (a : Access) (w : Word) (i : Nat) : (s.replyWord a w).ring i = s.ring i := by rfl

@[simp] theorem State.latch_gts (s : State) (a : Access) (x : Nat) (w : Word) : (s.latch a x w).gts = s.gts := by rfl
@[simp] theorem State.latch_mode (s : State) (a : Access) (x : Nat) (w : Word) : (s.latch a x w).mode = s.mode := by rfl
@[simp] theorem State.latch_start (s : State) (a : Access) (x : Nat) (w : Word) : (s.latch a x w).start = s.start := by rfl
@[simp] theorem State.latch_pd (s : State) (a : Access) (x : Nat) (w : Word) : (s.latch a x w).pd = s.pd := by rfl
@[simp] theorem State.latch_resp (s : State) (a : Access) (x : Nat) (w : Word) : (s.latch a x w).resp = s.resp := by rfl
@[simp] theorem State.latch_mem (s : State) (a : Access) (x : Nat) (w : Word) : (s.latch a x w).mem = s.mem := by rfl
@[simp] theorem State.latch_sys (s : State) (a : Access) (x : Nat) (w : Word) : (s.latch a x w).sys = s.sys := by rfl
@[simp] theorem State.latch_tick (s : State) (a : Access) (x : Nat) (w : Word) : (s.latch a x w).tick = s.tick := by rfl
@[simp] theorem State.latch_hri (s : State) (a : Access) (x : Nat) (w : Word) : (s.latch a x w).hri = s.hri := by rfl
@[simp] theorem State.latch_fen (s : State) (a : Access) (x : Nat) (w : Word) : (s.latch a x w).fen = s.fen := by rfl
@[simp] theorem State.latch_recorder (s : State) (a : Access) (x : Nat) (w : Word) : (s.latch a x w).recorder = s.recorder := by rfl
@[simp] theorem State.latch_mbx (s : State) (a : Access) (x : Nat) (w : Word) : (s.latch a x w).mbx = s.mbx := by rfl
@[simp] theorem State.latch_bce (s : State) (a : Access) (x : Nat) (w : Word) : (s.latch a x w).bce = s.bce := by rfl
@[simp] theorem State.latch_fin (s : State) (a : Access) (x : Nat) (w : Word) : (s.latch a x w).fin = s.fin := by rfl
@[simp] theorem State.latch_lsw (s : State) (a : Access) (x : Nat) (w : Word) : (s.latch a x w).lsw = s.lsw := by rfl
@[simp] theorem State.latch_can (s : State) (a : Access) (x : Nat) (w : Word) : (s.latch a x w).can = s.can := by rfl
@[simp] theorem State.latch_lko (s : State) (a : Access) (x : Nat) (w : Word) : (s.latch a x w).lko = s.lko := by rfl
@[simp] theorem State.latch_ipl (s : State) (a : Access) (x : Nat) (w : Word) : (s.latch a x w).ipl = s.ipl := by rfl
@[simp] theorem State.latch_gnb (s : State) (a : Access) (x : Nat) (w : Word) : (s.latch a x w).gnb = s.gnb := by rfl
@[simp] theorem State.latch_biv (s : State) (a : Access) (x : Nat) (w : Word) : (s.latch a x w).biv = s.biv := by rfl
@[simp] theorem State.latch_yld (s : State) (a : Access) (x : Nat) (w : Word) : (s.latch a x w).yld = s.yld := by rfl
@[simp] theorem State.latch_yarea (s : State) (a : Access) (x : Nat) (w : Word) : (s.latch a x w).yarea = s.yarea := by rfl
@[simp] theorem State.latch_pnl (s : State) (a : Access) (x : Nat) (w : Word) : (s.latch a x w).pnl = s.pnl := by rfl
@[simp] theorem State.latch_lh (s : State) (a : Access) (x : Nat) (w : Word) : (s.latch a x w).lh = s.lh := by rfl
@[simp] theorem State.latch_wk (s : State) (a : Access) (x : Nat) (w : Word) : (s.latch a x w).wk = s.wk := by rfl
@[simp] theorem State.latch_ropePos (s : State) (a : Access) (x : Nat) (w : Word) : (s.latch a x w).ropePos = s.ropePos := by rfl
@[simp] theorem State.latch_rtl (s : State) (a : Access) (x : Nat) (w : Word) : (s.latch a x w).rtl = s.rtl := by rfl
@[simp] theorem State.latch_boot (s : State) (a : Access) (x : Nat) (w : Word) : (s.latch a x w).boot = s.boot := by rfl
@[simp] theorem State.latch_upd (s : State) (a : Access) (x : Nat) (w : Word) : (s.latch a x w).upd = s.upd := by rfl
@[simp] theorem State.latch_dsc (s : State) (a : Access) (x : Nat) (w : Word) : (s.latch a x w).dsc = s.dsc := by rfl
@[simp] theorem State.latch_pwr (s : State) (a : Access) (x : Nat) (w : Word) : (s.latch a x w).pwr = s.pwr := by rfl
@[simp] theorem State.latch_dbgEn (s : State) (a : Access) (x : Nat) (w : Word) : (s.latch a x w).dbgEn = s.dbgEn := by rfl
@[simp] theorem State.latch_pending (s : State) (a : Access) (x : Nat) (w : Word) : (s.latch a x w).pending = s.pending := by rfl
@[simp] theorem State.latch_pdOn (s : State) (a : Access) (x : Nat) (w : Word) (i : Nat) : (s.latch a x w).pdOn i = s.pdOn i := by rfl
@[simp] theorem State.latch_busVerdict (s : State) (a : Access) (x : Nat) (w : Word) (vi : Nat) (ve vw : Bool) (va vl : Nat) : (s.latch a x w).busVerdict vi ve vw va vl = s.busVerdict vi ve vw va vl := by rfl
@[simp] theorem State.latch_t (s : State) (a : Access) (x : Nat) (w : Word) : (s.latch a x w).t = s.t := by rfl
@[simp] theorem State.latch_ring (s : State) (a : Access) (x : Nat) (w : Word) (i : Nat) : (s.latch a x w).ring i = s.ring i := by rfl

@[simp] theorem State.setPd_gts (s : State) (n : Nat) (on : Bool) : (s.setPd n on).gts = s.gts := by rfl
@[simp] theorem State.setPd_mode (s : State) (n : Nat) (on : Bool) : (s.setPd n on).mode = s.mode := by rfl
@[simp] theorem State.setPd_start (s : State) (n : Nat) (on : Bool) : (s.setPd n on).start = s.start := by rfl
@[simp] theorem State.setPd_resp (s : State) (n : Nat) (on : Bool) : (s.setPd n on).resp = s.resp := by rfl
@[simp] theorem State.setPd_shadows (s : State) (n : Nat) (on : Bool) : (s.setPd n on).shadows = s.shadows := by rfl
@[simp] theorem State.setPd_mem (s : State) (n : Nat) (on : Bool) : (s.setPd n on).mem = s.mem := by rfl
@[simp] theorem State.setPd_sys (s : State) (n : Nat) (on : Bool) : (s.setPd n on).sys = s.sys := by rfl
@[simp] theorem State.setPd_tick (s : State) (n : Nat) (on : Bool) : (s.setPd n on).tick = s.tick := by rfl
@[simp] theorem State.setPd_hri (s : State) (n : Nat) (on : Bool) : (s.setPd n on).hri = s.hri := by rfl
@[simp] theorem State.setPd_fen (s : State) (n : Nat) (on : Bool) : (s.setPd n on).fen = s.fen := by rfl
@[simp] theorem State.setPd_recorder (s : State) (n : Nat) (on : Bool) : (s.setPd n on).recorder = s.recorder := by rfl
@[simp] theorem State.setPd_mbx (s : State) (n : Nat) (on : Bool) : (s.setPd n on).mbx = s.mbx := by rfl
@[simp] theorem State.setPd_bce (s : State) (n : Nat) (on : Bool) : (s.setPd n on).bce = s.bce := by rfl
@[simp] theorem State.setPd_fin (s : State) (n : Nat) (on : Bool) : (s.setPd n on).fin = s.fin := by rfl
@[simp] theorem State.setPd_lsw (s : State) (n : Nat) (on : Bool) : (s.setPd n on).lsw = s.lsw := by rfl
@[simp] theorem State.setPd_can (s : State) (n : Nat) (on : Bool) : (s.setPd n on).can = s.can := by rfl
@[simp] theorem State.setPd_lko (s : State) (n : Nat) (on : Bool) : (s.setPd n on).lko = s.lko := by rfl
@[simp] theorem State.setPd_ipl (s : State) (n : Nat) (on : Bool) : (s.setPd n on).ipl = s.ipl := by rfl
@[simp] theorem State.setPd_gnb (s : State) (n : Nat) (on : Bool) : (s.setPd n on).gnb = s.gnb := by rfl
@[simp] theorem State.setPd_biv (s : State) (n : Nat) (on : Bool) : (s.setPd n on).biv = s.biv := by rfl
@[simp] theorem State.setPd_yld (s : State) (n : Nat) (on : Bool) : (s.setPd n on).yld = s.yld := by rfl
@[simp] theorem State.setPd_yarea (s : State) (n : Nat) (on : Bool) : (s.setPd n on).yarea = s.yarea := by rfl
@[simp] theorem State.setPd_pnl (s : State) (n : Nat) (on : Bool) : (s.setPd n on).pnl = s.pnl := by rfl
@[simp] theorem State.setPd_lh (s : State) (n : Nat) (on : Bool) : (s.setPd n on).lh = s.lh := by rfl
@[simp] theorem State.setPd_wk (s : State) (n : Nat) (on : Bool) : (s.setPd n on).wk = s.wk := by rfl
@[simp] theorem State.setPd_ropePos (s : State) (n : Nat) (on : Bool) : (s.setPd n on).ropePos = s.ropePos := by rfl
@[simp] theorem State.setPd_rtl (s : State) (n : Nat) (on : Bool) : (s.setPd n on).rtl = s.rtl := by rfl
@[simp] theorem State.setPd_boot (s : State) (n : Nat) (on : Bool) : (s.setPd n on).boot = s.boot := by rfl
@[simp] theorem State.setPd_upd (s : State) (n : Nat) (on : Bool) : (s.setPd n on).upd = s.upd := by rfl
@[simp] theorem State.setPd_dsc (s : State) (n : Nat) (on : Bool) : (s.setPd n on).dsc = s.dsc := by rfl
@[simp] theorem State.setPd_pwr (s : State) (n : Nat) (on : Bool) : (s.setPd n on).pwr = s.pwr := by rfl
@[simp] theorem State.setPd_dbgEn (s : State) (n : Nat) (on : Bool) : (s.setPd n on).dbgEn = s.dbgEn := by rfl
@[simp] theorem State.setPd_pending (s : State) (n : Nat) (on : Bool) : (s.setPd n on).pending = s.pending := by rfl
@[simp] theorem State.setPd_t (s : State) (n : Nat) (on : Bool) : (s.setPd n on).t = s.t := by rfl
@[simp] theorem State.setPd_ring (s : State) (n : Nat) (on : Bool) (i : Nat) : (s.setPd n on).ring i = s.ring i := by rfl

@[simp] theorem State.setMem_gts (s : State) (m : List Host.Cell) : (s.setMem m).gts = s.gts := by rfl
@[simp] theorem State.setMem_mode (s : State) (m : List Host.Cell) : (s.setMem m).mode = s.mode := by rfl
@[simp] theorem State.setMem_start (s : State) (m : List Host.Cell) : (s.setMem m).start = s.start := by rfl
@[simp] theorem State.setMem_pd (s : State) (m : List Host.Cell) : (s.setMem m).pd = s.pd := by rfl
@[simp] theorem State.setMem_resp (s : State) (m : List Host.Cell) : (s.setMem m).resp = s.resp := by rfl
@[simp] theorem State.setMem_shadows (s : State) (m : List Host.Cell) : (s.setMem m).shadows = s.shadows := by rfl
@[simp] theorem State.setMem_sys (s : State) (m : List Host.Cell) : (s.setMem m).sys = s.sys := by rfl
@[simp] theorem State.setMem_tick (s : State) (m : List Host.Cell) : (s.setMem m).tick = s.tick := by rfl
@[simp] theorem State.setMem_hri (s : State) (m : List Host.Cell) : (s.setMem m).hri = s.hri := by rfl
@[simp] theorem State.setMem_fen (s : State) (m : List Host.Cell) : (s.setMem m).fen = s.fen := by rfl
@[simp] theorem State.setMem_recorder (s : State) (m : List Host.Cell) : (s.setMem m).recorder = s.recorder := by rfl
@[simp] theorem State.setMem_mbx (s : State) (m : List Host.Cell) : (s.setMem m).mbx = s.mbx := by rfl
@[simp] theorem State.setMem_bce (s : State) (m : List Host.Cell) : (s.setMem m).bce = s.bce := by rfl
@[simp] theorem State.setMem_fin (s : State) (m : List Host.Cell) : (s.setMem m).fin = s.fin := by rfl
@[simp] theorem State.setMem_lsw (s : State) (m : List Host.Cell) : (s.setMem m).lsw = s.lsw := by rfl
@[simp] theorem State.setMem_can (s : State) (m : List Host.Cell) : (s.setMem m).can = s.can := by rfl
@[simp] theorem State.setMem_lko (s : State) (m : List Host.Cell) : (s.setMem m).lko = s.lko := by rfl
@[simp] theorem State.setMem_ipl (s : State) (m : List Host.Cell) : (s.setMem m).ipl = s.ipl := by rfl
@[simp] theorem State.setMem_gnb (s : State) (m : List Host.Cell) : (s.setMem m).gnb = s.gnb := by rfl
@[simp] theorem State.setMem_biv (s : State) (m : List Host.Cell) : (s.setMem m).biv = s.biv := by rfl
@[simp] theorem State.setMem_yld (s : State) (m : List Host.Cell) : (s.setMem m).yld = s.yld := by rfl
@[simp] theorem State.setMem_yarea (s : State) (m : List Host.Cell) : (s.setMem m).yarea = s.yarea := by rfl
@[simp] theorem State.setMem_pnl (s : State) (m : List Host.Cell) : (s.setMem m).pnl = s.pnl := by rfl
@[simp] theorem State.setMem_lh (s : State) (m : List Host.Cell) : (s.setMem m).lh = s.lh := by rfl
@[simp] theorem State.setMem_wk (s : State) (m : List Host.Cell) : (s.setMem m).wk = s.wk := by rfl
@[simp] theorem State.setMem_ropePos (s : State) (m : List Host.Cell) : (s.setMem m).ropePos = s.ropePos := by rfl
@[simp] theorem State.setMem_rtl (s : State) (m : List Host.Cell) : (s.setMem m).rtl = s.rtl := by rfl
@[simp] theorem State.setMem_boot (s : State) (m : List Host.Cell) : (s.setMem m).boot = s.boot := by rfl
@[simp] theorem State.setMem_upd (s : State) (m : List Host.Cell) : (s.setMem m).upd = s.upd := by rfl
@[simp] theorem State.setMem_dsc (s : State) (m : List Host.Cell) : (s.setMem m).dsc = s.dsc := by rfl
@[simp] theorem State.setMem_pwr (s : State) (m : List Host.Cell) : (s.setMem m).pwr = s.pwr := by rfl
@[simp] theorem State.setMem_dbgEn (s : State) (m : List Host.Cell) : (s.setMem m).dbgEn = s.dbgEn := by rfl
@[simp] theorem State.setMem_pending (s : State) (m : List Host.Cell) : (s.setMem m).pending = s.pending := by rfl
@[simp] theorem State.setMem_pdOn (s : State) (m : List Host.Cell) (i : Nat) : (s.setMem m).pdOn i = s.pdOn i := by rfl
@[simp] theorem State.setMem_busVerdict (s : State) (m : List Host.Cell) (vi : Nat) (ve vw : Bool) (va vl : Nat) : (s.setMem m).busVerdict vi ve vw va vl = s.busVerdict vi ve vw va vl := by rfl
@[simp] theorem State.setMem_t (s : State) (m : List Host.Cell) : (s.setMem m).t = s.t := by rfl
@[simp] theorem State.setMem_ring (s : State) (m : List Host.Cell) (i : Nat) : (s.setMem m).ring i = s.ring i := by rfl

@[simp] theorem State.setRing_gts (s : State) (n : Nat) (r : Ring) : (s.setRing n r).gts = s.gts := by rfl
@[simp] theorem State.setRing_mode (s : State) (n : Nat) (r : Ring) : (s.setRing n r).mode = s.mode := by rfl
@[simp] theorem State.setRing_start (s : State) (n : Nat) (r : Ring) : (s.setRing n r).start = s.start := by rfl
@[simp] theorem State.setRing_pd (s : State) (n : Nat) (r : Ring) : (s.setRing n r).pd = s.pd := by rfl
@[simp] theorem State.setRing_resp (s : State) (n : Nat) (r : Ring) : (s.setRing n r).resp = s.resp := by rfl
@[simp] theorem State.setRing_shadows (s : State) (n : Nat) (r : Ring) : (s.setRing n r).shadows = s.shadows := by rfl
@[simp] theorem State.setRing_mem (s : State) (n : Nat) (r : Ring) : (s.setRing n r).mem = s.mem := by rfl
@[simp] theorem State.setRing_sys (s : State) (n : Nat) (r : Ring) : (s.setRing n r).sys = s.sys := by rfl
@[simp] theorem State.setRing_tick (s : State) (n : Nat) (r : Ring) : (s.setRing n r).tick = s.tick := by rfl
@[simp] theorem State.setRing_fen (s : State) (n : Nat) (r : Ring) : (s.setRing n r).fen = s.fen := by rfl
@[simp] theorem State.setRing_recorder (s : State) (n : Nat) (r : Ring) : (s.setRing n r).recorder = s.recorder := by rfl
@[simp] theorem State.setRing_mbx (s : State) (n : Nat) (r : Ring) : (s.setRing n r).mbx = s.mbx := by rfl
@[simp] theorem State.setRing_bce (s : State) (n : Nat) (r : Ring) : (s.setRing n r).bce = s.bce := by rfl
@[simp] theorem State.setRing_fin (s : State) (n : Nat) (r : Ring) : (s.setRing n r).fin = s.fin := by rfl
@[simp] theorem State.setRing_lsw (s : State) (n : Nat) (r : Ring) : (s.setRing n r).lsw = s.lsw := by rfl
@[simp] theorem State.setRing_can (s : State) (n : Nat) (r : Ring) : (s.setRing n r).can = s.can := by rfl
@[simp] theorem State.setRing_lko (s : State) (n : Nat) (r : Ring) : (s.setRing n r).lko = s.lko := by rfl
@[simp] theorem State.setRing_ipl (s : State) (n : Nat) (r : Ring) : (s.setRing n r).ipl = s.ipl := by rfl
@[simp] theorem State.setRing_gnb (s : State) (n : Nat) (r : Ring) : (s.setRing n r).gnb = s.gnb := by rfl
@[simp] theorem State.setRing_biv (s : State) (n : Nat) (r : Ring) : (s.setRing n r).biv = s.biv := by rfl
@[simp] theorem State.setRing_yld (s : State) (n : Nat) (r : Ring) : (s.setRing n r).yld = s.yld := by rfl
@[simp] theorem State.setRing_yarea (s : State) (n : Nat) (r : Ring) : (s.setRing n r).yarea = s.yarea := by rfl
@[simp] theorem State.setRing_pnl (s : State) (n : Nat) (r : Ring) : (s.setRing n r).pnl = s.pnl := by rfl
@[simp] theorem State.setRing_lh (s : State) (n : Nat) (r : Ring) : (s.setRing n r).lh = s.lh := by rfl
@[simp] theorem State.setRing_wk (s : State) (n : Nat) (r : Ring) : (s.setRing n r).wk = s.wk := by rfl
@[simp] theorem State.setRing_ropePos (s : State) (n : Nat) (r : Ring) : (s.setRing n r).ropePos = s.ropePos := by rfl
@[simp] theorem State.setRing_rtl (s : State) (n : Nat) (r : Ring) : (s.setRing n r).rtl = s.rtl := by rfl
@[simp] theorem State.setRing_boot (s : State) (n : Nat) (r : Ring) : (s.setRing n r).boot = s.boot := by rfl
@[simp] theorem State.setRing_upd (s : State) (n : Nat) (r : Ring) : (s.setRing n r).upd = s.upd := by rfl
@[simp] theorem State.setRing_dsc (s : State) (n : Nat) (r : Ring) : (s.setRing n r).dsc = s.dsc := by rfl
@[simp] theorem State.setRing_pwr (s : State) (n : Nat) (r : Ring) : (s.setRing n r).pwr = s.pwr := by rfl
@[simp] theorem State.setRing_dbgEn (s : State) (n : Nat) (r : Ring) : (s.setRing n r).dbgEn = s.dbgEn := by rfl
@[simp] theorem State.setRing_pending (s : State) (n : Nat) (r : Ring) : (s.setRing n r).pending = s.pending := by rfl
@[simp] theorem State.setRing_pdOn (s : State) (n : Nat) (r : Ring) (i : Nat) : (s.setRing n r).pdOn i = s.pdOn i := by rfl
@[simp] theorem State.setRing_busVerdict (s : State) (n : Nat) (r : Ring) (vi : Nat) (ve vw : Bool) (va vl : Nat) : (s.setRing n r).busVerdict vi ve vw va vl = s.busVerdict vi ve vw va vl := by rfl
@[simp] theorem State.setRing_t (s : State) (n : Nat) (r : Ring) : (s.setRing n r).t = s.t := by rfl

@[simp] theorem State.modRing_gts (s : State) (n : Nat) (f : Ring → Ring) : (s.modRing n f).gts = s.gts := by rfl
@[simp] theorem State.modRing_mode (s : State) (n : Nat) (f : Ring → Ring) : (s.modRing n f).mode = s.mode := by rfl
@[simp] theorem State.modRing_start (s : State) (n : Nat) (f : Ring → Ring) : (s.modRing n f).start = s.start := by rfl
@[simp] theorem State.modRing_pd (s : State) (n : Nat) (f : Ring → Ring) : (s.modRing n f).pd = s.pd := by rfl
@[simp] theorem State.modRing_resp (s : State) (n : Nat) (f : Ring → Ring) : (s.modRing n f).resp = s.resp := by rfl
@[simp] theorem State.modRing_shadows (s : State) (n : Nat) (f : Ring → Ring) : (s.modRing n f).shadows = s.shadows := by rfl
@[simp] theorem State.modRing_mem (s : State) (n : Nat) (f : Ring → Ring) : (s.modRing n f).mem = s.mem := by rfl
@[simp] theorem State.modRing_sys (s : State) (n : Nat) (f : Ring → Ring) : (s.modRing n f).sys = s.sys := by rfl
@[simp] theorem State.modRing_tick (s : State) (n : Nat) (f : Ring → Ring) : (s.modRing n f).tick = s.tick := by rfl
@[simp] theorem State.modRing_fen (s : State) (n : Nat) (f : Ring → Ring) : (s.modRing n f).fen = s.fen := by rfl
@[simp] theorem State.modRing_recorder (s : State) (n : Nat) (f : Ring → Ring) : (s.modRing n f).recorder = s.recorder := by rfl
@[simp] theorem State.modRing_mbx (s : State) (n : Nat) (f : Ring → Ring) : (s.modRing n f).mbx = s.mbx := by rfl
@[simp] theorem State.modRing_bce (s : State) (n : Nat) (f : Ring → Ring) : (s.modRing n f).bce = s.bce := by rfl
@[simp] theorem State.modRing_fin (s : State) (n : Nat) (f : Ring → Ring) : (s.modRing n f).fin = s.fin := by rfl
@[simp] theorem State.modRing_lsw (s : State) (n : Nat) (f : Ring → Ring) : (s.modRing n f).lsw = s.lsw := by rfl
@[simp] theorem State.modRing_can (s : State) (n : Nat) (f : Ring → Ring) : (s.modRing n f).can = s.can := by rfl
@[simp] theorem State.modRing_lko (s : State) (n : Nat) (f : Ring → Ring) : (s.modRing n f).lko = s.lko := by rfl
@[simp] theorem State.modRing_ipl (s : State) (n : Nat) (f : Ring → Ring) : (s.modRing n f).ipl = s.ipl := by rfl
@[simp] theorem State.modRing_gnb (s : State) (n : Nat) (f : Ring → Ring) : (s.modRing n f).gnb = s.gnb := by rfl
@[simp] theorem State.modRing_biv (s : State) (n : Nat) (f : Ring → Ring) : (s.modRing n f).biv = s.biv := by rfl
@[simp] theorem State.modRing_yld (s : State) (n : Nat) (f : Ring → Ring) : (s.modRing n f).yld = s.yld := by rfl
@[simp] theorem State.modRing_yarea (s : State) (n : Nat) (f : Ring → Ring) : (s.modRing n f).yarea = s.yarea := by rfl
@[simp] theorem State.modRing_pnl (s : State) (n : Nat) (f : Ring → Ring) : (s.modRing n f).pnl = s.pnl := by rfl
@[simp] theorem State.modRing_lh (s : State) (n : Nat) (f : Ring → Ring) : (s.modRing n f).lh = s.lh := by rfl
@[simp] theorem State.modRing_wk (s : State) (n : Nat) (f : Ring → Ring) : (s.modRing n f).wk = s.wk := by rfl
@[simp] theorem State.modRing_ropePos (s : State) (n : Nat) (f : Ring → Ring) : (s.modRing n f).ropePos = s.ropePos := by rfl
@[simp] theorem State.modRing_rtl (s : State) (n : Nat) (f : Ring → Ring) : (s.modRing n f).rtl = s.rtl := by rfl
@[simp] theorem State.modRing_boot (s : State) (n : Nat) (f : Ring → Ring) : (s.modRing n f).boot = s.boot := by rfl
@[simp] theorem State.modRing_upd (s : State) (n : Nat) (f : Ring → Ring) : (s.modRing n f).upd = s.upd := by rfl
@[simp] theorem State.modRing_dsc (s : State) (n : Nat) (f : Ring → Ring) : (s.modRing n f).dsc = s.dsc := by rfl
@[simp] theorem State.modRing_pwr (s : State) (n : Nat) (f : Ring → Ring) : (s.modRing n f).pwr = s.pwr := by rfl
@[simp] theorem State.modRing_dbgEn (s : State) (n : Nat) (f : Ring → Ring) : (s.modRing n f).dbgEn = s.dbgEn := by rfl
@[simp] theorem State.modRing_pending (s : State) (n : Nat) (f : Ring → Ring) : (s.modRing n f).pending = s.pending := by rfl
@[simp] theorem State.modRing_pdOn (s : State) (n : Nat) (f : Ring → Ring) (i : Nat) : (s.modRing n f).pdOn i = s.pdOn i := by rfl
@[simp] theorem State.modRing_busVerdict (s : State) (n : Nat) (f : Ring → Ring) (vi : Nat) (ve vw : Bool) (va vl : Nat) : (s.modRing n f).busVerdict vi ve vw va vl = s.busVerdict vi ve vw va vl := by rfl
@[simp] theorem State.modRing_t (s : State) (n : Nat) (f : Ring → Ring) : (s.modRing n f).t = s.t := by rfl

@[simp] theorem State.setOp_gts (s : State) (c : OpRef) (o : Op) : (s.setOp c o).gts = s.gts := by rfl
@[simp] theorem State.setOp_mode (s : State) (c : OpRef) (o : Op) : (s.setOp c o).mode = s.mode := by rfl
@[simp] theorem State.setOp_start (s : State) (c : OpRef) (o : Op) : (s.setOp c o).start = s.start := by rfl
@[simp] theorem State.setOp_pd (s : State) (c : OpRef) (o : Op) : (s.setOp c o).pd = s.pd := by rfl
@[simp] theorem State.setOp_resp (s : State) (c : OpRef) (o : Op) : (s.setOp c o).resp = s.resp := by rfl
@[simp] theorem State.setOp_shadows (s : State) (c : OpRef) (o : Op) : (s.setOp c o).shadows = s.shadows := by rfl
@[simp] theorem State.setOp_mem (s : State) (c : OpRef) (o : Op) : (s.setOp c o).mem = s.mem := by rfl
@[simp] theorem State.setOp_sys (s : State) (c : OpRef) (o : Op) : (s.setOp c o).sys = s.sys := by rfl
@[simp] theorem State.setOp_tick (s : State) (c : OpRef) (o : Op) : (s.setOp c o).tick = s.tick := by rfl
@[simp] theorem State.setOp_fen (s : State) (c : OpRef) (o : Op) : (s.setOp c o).fen = s.fen := by rfl
@[simp] theorem State.setOp_recorder (s : State) (c : OpRef) (o : Op) : (s.setOp c o).recorder = s.recorder := by rfl
@[simp] theorem State.setOp_mbx (s : State) (c : OpRef) (o : Op) : (s.setOp c o).mbx = s.mbx := by rfl
@[simp] theorem State.setOp_bce (s : State) (c : OpRef) (o : Op) : (s.setOp c o).bce = s.bce := by rfl
@[simp] theorem State.setOp_fin (s : State) (c : OpRef) (o : Op) : (s.setOp c o).fin = s.fin := by rfl
@[simp] theorem State.setOp_lsw (s : State) (c : OpRef) (o : Op) : (s.setOp c o).lsw = s.lsw := by rfl
@[simp] theorem State.setOp_can (s : State) (c : OpRef) (o : Op) : (s.setOp c o).can = s.can := by rfl
@[simp] theorem State.setOp_lko (s : State) (c : OpRef) (o : Op) : (s.setOp c o).lko = s.lko := by rfl
@[simp] theorem State.setOp_ipl (s : State) (c : OpRef) (o : Op) : (s.setOp c o).ipl = s.ipl := by rfl
@[simp] theorem State.setOp_gnb (s : State) (c : OpRef) (o : Op) : (s.setOp c o).gnb = s.gnb := by rfl
@[simp] theorem State.setOp_biv (s : State) (c : OpRef) (o : Op) : (s.setOp c o).biv = s.biv := by rfl
@[simp] theorem State.setOp_yld (s : State) (c : OpRef) (o : Op) : (s.setOp c o).yld = s.yld := by rfl
@[simp] theorem State.setOp_yarea (s : State) (c : OpRef) (o : Op) : (s.setOp c o).yarea = s.yarea := by rfl
@[simp] theorem State.setOp_pnl (s : State) (c : OpRef) (o : Op) : (s.setOp c o).pnl = s.pnl := by rfl
@[simp] theorem State.setOp_lh (s : State) (c : OpRef) (o : Op) : (s.setOp c o).lh = s.lh := by rfl
@[simp] theorem State.setOp_wk (s : State) (c : OpRef) (o : Op) : (s.setOp c o).wk = s.wk := by rfl
@[simp] theorem State.setOp_ropePos (s : State) (c : OpRef) (o : Op) : (s.setOp c o).ropePos = s.ropePos := by rfl
@[simp] theorem State.setOp_rtl (s : State) (c : OpRef) (o : Op) : (s.setOp c o).rtl = s.rtl := by rfl
@[simp] theorem State.setOp_boot (s : State) (c : OpRef) (o : Op) : (s.setOp c o).boot = s.boot := by rfl
@[simp] theorem State.setOp_upd (s : State) (c : OpRef) (o : Op) : (s.setOp c o).upd = s.upd := by rfl
@[simp] theorem State.setOp_dsc (s : State) (c : OpRef) (o : Op) : (s.setOp c o).dsc = s.dsc := by rfl
@[simp] theorem State.setOp_pwr (s : State) (c : OpRef) (o : Op) : (s.setOp c o).pwr = s.pwr := by rfl
@[simp] theorem State.setOp_dbgEn (s : State) (c : OpRef) (o : Op) : (s.setOp c o).dbgEn = s.dbgEn := by rfl
@[simp] theorem State.setOp_pending (s : State) (c : OpRef) (o : Op) : (s.setOp c o).pending = s.pending := by rfl
@[simp] theorem State.setOp_pdOn (s : State) (c : OpRef) (o : Op) (i : Nat) : (s.setOp c o).pdOn i = s.pdOn i := by rfl
@[simp] theorem State.setOp_busVerdict (s : State) (c : OpRef) (o : Op) (vi : Nat) (ve vw : Bool) (va vl : Nat) : (s.setOp c o).busVerdict vi ve vw va vl = s.busVerdict vi ve vw va vl := by rfl
@[simp] theorem State.setOp_t (s : State) (c : OpRef) (o : Op) : (s.setOp c o).t = s.t := by rfl

@[simp] theorem State.setBox_gts (s : State) (m : Nat) (b : MBox) : (s.setBox m b).gts = s.gts := by rfl
@[simp] theorem State.setBox_mode (s : State) (m : Nat) (b : MBox) : (s.setBox m b).mode = s.mode := by rfl
@[simp] theorem State.setBox_start (s : State) (m : Nat) (b : MBox) : (s.setBox m b).start = s.start := by rfl
@[simp] theorem State.setBox_pd (s : State) (m : Nat) (b : MBox) : (s.setBox m b).pd = s.pd := by rfl
@[simp] theorem State.setBox_resp (s : State) (m : Nat) (b : MBox) : (s.setBox m b).resp = s.resp := by rfl
@[simp] theorem State.setBox_shadows (s : State) (m : Nat) (b : MBox) : (s.setBox m b).shadows = s.shadows := by rfl
@[simp] theorem State.setBox_mem (s : State) (m : Nat) (b : MBox) : (s.setBox m b).mem = s.mem := by rfl
@[simp] theorem State.setBox_sys (s : State) (m : Nat) (b : MBox) : (s.setBox m b).sys = s.sys := by rfl
@[simp] theorem State.setBox_tick (s : State) (m : Nat) (b : MBox) : (s.setBox m b).tick = s.tick := by rfl
@[simp] theorem State.setBox_hri (s : State) (m : Nat) (b : MBox) : (s.setBox m b).hri = s.hri := by rfl
@[simp] theorem State.setBox_fen (s : State) (m : Nat) (b : MBox) : (s.setBox m b).fen = s.fen := by rfl
@[simp] theorem State.setBox_recorder (s : State) (m : Nat) (b : MBox) : (s.setBox m b).recorder = s.recorder := by rfl
@[simp] theorem State.setBox_bce (s : State) (m : Nat) (b : MBox) : (s.setBox m b).bce = s.bce := by rfl
@[simp] theorem State.setBox_fin (s : State) (m : Nat) (b : MBox) : (s.setBox m b).fin = s.fin := by rfl
@[simp] theorem State.setBox_lsw (s : State) (m : Nat) (b : MBox) : (s.setBox m b).lsw = s.lsw := by rfl
@[simp] theorem State.setBox_can (s : State) (m : Nat) (b : MBox) : (s.setBox m b).can = s.can := by rfl
@[simp] theorem State.setBox_lko (s : State) (m : Nat) (b : MBox) : (s.setBox m b).lko = s.lko := by rfl
@[simp] theorem State.setBox_ipl (s : State) (m : Nat) (b : MBox) : (s.setBox m b).ipl = s.ipl := by rfl
@[simp] theorem State.setBox_gnb (s : State) (m : Nat) (b : MBox) : (s.setBox m b).gnb = s.gnb := by rfl
@[simp] theorem State.setBox_biv (s : State) (m : Nat) (b : MBox) : (s.setBox m b).biv = s.biv := by rfl
@[simp] theorem State.setBox_yld (s : State) (m : Nat) (b : MBox) : (s.setBox m b).yld = s.yld := by rfl
@[simp] theorem State.setBox_yarea (s : State) (m : Nat) (b : MBox) : (s.setBox m b).yarea = s.yarea := by rfl
@[simp] theorem State.setBox_pnl (s : State) (m : Nat) (b : MBox) : (s.setBox m b).pnl = s.pnl := by rfl
@[simp] theorem State.setBox_lh (s : State) (m : Nat) (b : MBox) : (s.setBox m b).lh = s.lh := by rfl
@[simp] theorem State.setBox_wk (s : State) (m : Nat) (b : MBox) : (s.setBox m b).wk = s.wk := by rfl
@[simp] theorem State.setBox_ropePos (s : State) (m : Nat) (b : MBox) : (s.setBox m b).ropePos = s.ropePos := by rfl
@[simp] theorem State.setBox_rtl (s : State) (m : Nat) (b : MBox) : (s.setBox m b).rtl = s.rtl := by rfl
@[simp] theorem State.setBox_boot (s : State) (m : Nat) (b : MBox) : (s.setBox m b).boot = s.boot := by rfl
@[simp] theorem State.setBox_upd (s : State) (m : Nat) (b : MBox) : (s.setBox m b).upd = s.upd := by rfl
@[simp] theorem State.setBox_dsc (s : State) (m : Nat) (b : MBox) : (s.setBox m b).dsc = s.dsc := by rfl
@[simp] theorem State.setBox_pwr (s : State) (m : Nat) (b : MBox) : (s.setBox m b).pwr = s.pwr := by rfl
@[simp] theorem State.setBox_dbgEn (s : State) (m : Nat) (b : MBox) : (s.setBox m b).dbgEn = s.dbgEn := by rfl
@[simp] theorem State.setBox_pending (s : State) (m : Nat) (b : MBox) : (s.setBox m b).pending = s.pending := by rfl
@[simp] theorem State.setBox_pdOn (s : State) (m : Nat) (b : MBox) (i : Nat) : (s.setBox m b).pdOn i = s.pdOn i := by rfl
@[simp] theorem State.setBox_busVerdict (s : State) (m : Nat) (b : MBox) (vi : Nat) (ve vw : Bool) (va vl : Nat) : (s.setBox m b).busVerdict vi ve vw va vl = s.busVerdict vi ve vw va vl := by rfl
@[simp] theorem State.setBox_t (s : State) (m : Nat) (b : MBox) : (s.setBox m b).t = s.t := by rfl
@[simp] theorem State.setBox_ring (s : State) (m : Nat) (b : MBox) (i : Nat) : (s.setBox m b).ring i = s.ring i := by rfl

@[simp] theorem State.setBctx_gts (s : State) (c : Nat) (x : BCtx) : (s.setBctx c x).gts = s.gts := by rfl
@[simp] theorem State.setBctx_mode (s : State) (c : Nat) (x : BCtx) : (s.setBctx c x).mode = s.mode := by rfl
@[simp] theorem State.setBctx_start (s : State) (c : Nat) (x : BCtx) : (s.setBctx c x).start = s.start := by rfl
@[simp] theorem State.setBctx_pd (s : State) (c : Nat) (x : BCtx) : (s.setBctx c x).pd = s.pd := by rfl
@[simp] theorem State.setBctx_resp (s : State) (c : Nat) (x : BCtx) : (s.setBctx c x).resp = s.resp := by rfl
@[simp] theorem State.setBctx_shadows (s : State) (c : Nat) (x : BCtx) : (s.setBctx c x).shadows = s.shadows := by rfl
@[simp] theorem State.setBctx_mem (s : State) (c : Nat) (x : BCtx) : (s.setBctx c x).mem = s.mem := by rfl
@[simp] theorem State.setBctx_sys (s : State) (c : Nat) (x : BCtx) : (s.setBctx c x).sys = s.sys := by rfl
@[simp] theorem State.setBctx_tick (s : State) (c : Nat) (x : BCtx) : (s.setBctx c x).tick = s.tick := by rfl
@[simp] theorem State.setBctx_hri (s : State) (c : Nat) (x : BCtx) : (s.setBctx c x).hri = s.hri := by rfl
@[simp] theorem State.setBctx_fen (s : State) (c : Nat) (x : BCtx) : (s.setBctx c x).fen = s.fen := by rfl
@[simp] theorem State.setBctx_recorder (s : State) (c : Nat) (x : BCtx) : (s.setBctx c x).recorder = s.recorder := by rfl
@[simp] theorem State.setBctx_mbx (s : State) (c : Nat) (x : BCtx) : (s.setBctx c x).mbx = s.mbx := by rfl
@[simp] theorem State.setBctx_fin (s : State) (c : Nat) (x : BCtx) : (s.setBctx c x).fin = s.fin := by rfl
@[simp] theorem State.setBctx_lsw (s : State) (c : Nat) (x : BCtx) : (s.setBctx c x).lsw = s.lsw := by rfl
@[simp] theorem State.setBctx_can (s : State) (c : Nat) (x : BCtx) : (s.setBctx c x).can = s.can := by rfl
@[simp] theorem State.setBctx_lko (s : State) (c : Nat) (x : BCtx) : (s.setBctx c x).lko = s.lko := by rfl
@[simp] theorem State.setBctx_ipl (s : State) (c : Nat) (x : BCtx) : (s.setBctx c x).ipl = s.ipl := by rfl
@[simp] theorem State.setBctx_gnb (s : State) (c : Nat) (x : BCtx) : (s.setBctx c x).gnb = s.gnb := by rfl
@[simp] theorem State.setBctx_biv (s : State) (c : Nat) (x : BCtx) : (s.setBctx c x).biv = s.biv := by rfl
@[simp] theorem State.setBctx_yld (s : State) (c : Nat) (x : BCtx) : (s.setBctx c x).yld = s.yld := by rfl
@[simp] theorem State.setBctx_yarea (s : State) (c : Nat) (x : BCtx) : (s.setBctx c x).yarea = s.yarea := by rfl
@[simp] theorem State.setBctx_pnl (s : State) (c : Nat) (x : BCtx) : (s.setBctx c x).pnl = s.pnl := by rfl
@[simp] theorem State.setBctx_lh (s : State) (c : Nat) (x : BCtx) : (s.setBctx c x).lh = s.lh := by rfl
@[simp] theorem State.setBctx_wk (s : State) (c : Nat) (x : BCtx) : (s.setBctx c x).wk = s.wk := by rfl
@[simp] theorem State.setBctx_ropePos (s : State) (c : Nat) (x : BCtx) : (s.setBctx c x).ropePos = s.ropePos := by rfl
@[simp] theorem State.setBctx_rtl (s : State) (c : Nat) (x : BCtx) : (s.setBctx c x).rtl = s.rtl := by rfl
@[simp] theorem State.setBctx_boot (s : State) (c : Nat) (x : BCtx) : (s.setBctx c x).boot = s.boot := by rfl
@[simp] theorem State.setBctx_upd (s : State) (c : Nat) (x : BCtx) : (s.setBctx c x).upd = s.upd := by rfl
@[simp] theorem State.setBctx_dsc (s : State) (c : Nat) (x : BCtx) : (s.setBctx c x).dsc = s.dsc := by rfl
@[simp] theorem State.setBctx_pwr (s : State) (c : Nat) (x : BCtx) : (s.setBctx c x).pwr = s.pwr := by rfl
@[simp] theorem State.setBctx_dbgEn (s : State) (c : Nat) (x : BCtx) : (s.setBctx c x).dbgEn = s.dbgEn := by rfl
@[simp] theorem State.setBctx_pending (s : State) (c : Nat) (x : BCtx) : (s.setBctx c x).pending = s.pending := by rfl
@[simp] theorem State.setBctx_pdOn (s : State) (c : Nat) (x : BCtx) (i : Nat) : (s.setBctx c x).pdOn i = s.pdOn i := by rfl
@[simp] theorem State.setBctx_busVerdict (s : State) (c : Nat) (x : BCtx) (vi : Nat) (ve vw : Bool) (va vl : Nat) : (s.setBctx c x).busVerdict vi ve vw va vl = s.busVerdict vi ve vw va vl := by rfl
@[simp] theorem State.setBctx_t (s : State) (c : Nat) (x : BCtx) : (s.setBctx c x).t = s.t := by rfl
@[simp] theorem State.setBctx_ring (s : State) (c : Nat) (x : BCtx) (i : Nat) : (s.setBctx c x).ring i = s.ring i := by rfl

@[simp] theorem State.setAin_gts (s : State) (n : Nat) (x : Ain) : (s.setAin n x).gts = s.gts := by rfl
@[simp] theorem State.setAin_mode (s : State) (n : Nat) (x : Ain) : (s.setAin n x).mode = s.mode := by rfl
@[simp] theorem State.setAin_start (s : State) (n : Nat) (x : Ain) : (s.setAin n x).start = s.start := by rfl
@[simp] theorem State.setAin_pd (s : State) (n : Nat) (x : Ain) : (s.setAin n x).pd = s.pd := by rfl
@[simp] theorem State.setAin_resp (s : State) (n : Nat) (x : Ain) : (s.setAin n x).resp = s.resp := by rfl
@[simp] theorem State.setAin_shadows (s : State) (n : Nat) (x : Ain) : (s.setAin n x).shadows = s.shadows := by rfl
@[simp] theorem State.setAin_mem (s : State) (n : Nat) (x : Ain) : (s.setAin n x).mem = s.mem := by rfl
@[simp] theorem State.setAin_sys (s : State) (n : Nat) (x : Ain) : (s.setAin n x).sys = s.sys := by rfl
@[simp] theorem State.setAin_tick (s : State) (n : Nat) (x : Ain) : (s.setAin n x).tick = s.tick := by rfl
@[simp] theorem State.setAin_hri (s : State) (n : Nat) (x : Ain) : (s.setAin n x).hri = s.hri := by rfl
@[simp] theorem State.setAin_fen (s : State) (n : Nat) (x : Ain) : (s.setAin n x).fen = s.fen := by rfl
@[simp] theorem State.setAin_recorder (s : State) (n : Nat) (x : Ain) : (s.setAin n x).recorder = s.recorder := by rfl
@[simp] theorem State.setAin_mbx (s : State) (n : Nat) (x : Ain) : (s.setAin n x).mbx = s.mbx := by rfl
@[simp] theorem State.setAin_bce (s : State) (n : Nat) (x : Ain) : (s.setAin n x).bce = s.bce := by rfl
@[simp] theorem State.setAin_lsw (s : State) (n : Nat) (x : Ain) : (s.setAin n x).lsw = s.lsw := by rfl
@[simp] theorem State.setAin_can (s : State) (n : Nat) (x : Ain) : (s.setAin n x).can = s.can := by rfl
@[simp] theorem State.setAin_lko (s : State) (n : Nat) (x : Ain) : (s.setAin n x).lko = s.lko := by rfl
@[simp] theorem State.setAin_ipl (s : State) (n : Nat) (x : Ain) : (s.setAin n x).ipl = s.ipl := by rfl
@[simp] theorem State.setAin_gnb (s : State) (n : Nat) (x : Ain) : (s.setAin n x).gnb = s.gnb := by rfl
@[simp] theorem State.setAin_biv (s : State) (n : Nat) (x : Ain) : (s.setAin n x).biv = s.biv := by rfl
@[simp] theorem State.setAin_yld (s : State) (n : Nat) (x : Ain) : (s.setAin n x).yld = s.yld := by rfl
@[simp] theorem State.setAin_yarea (s : State) (n : Nat) (x : Ain) : (s.setAin n x).yarea = s.yarea := by rfl
@[simp] theorem State.setAin_pnl (s : State) (n : Nat) (x : Ain) : (s.setAin n x).pnl = s.pnl := by rfl
@[simp] theorem State.setAin_lh (s : State) (n : Nat) (x : Ain) : (s.setAin n x).lh = s.lh := by rfl
@[simp] theorem State.setAin_wk (s : State) (n : Nat) (x : Ain) : (s.setAin n x).wk = s.wk := by rfl
@[simp] theorem State.setAin_ropePos (s : State) (n : Nat) (x : Ain) : (s.setAin n x).ropePos = s.ropePos := by rfl
@[simp] theorem State.setAin_rtl (s : State) (n : Nat) (x : Ain) : (s.setAin n x).rtl = s.rtl := by rfl
@[simp] theorem State.setAin_boot (s : State) (n : Nat) (x : Ain) : (s.setAin n x).boot = s.boot := by rfl
@[simp] theorem State.setAin_upd (s : State) (n : Nat) (x : Ain) : (s.setAin n x).upd = s.upd := by rfl
@[simp] theorem State.setAin_dsc (s : State) (n : Nat) (x : Ain) : (s.setAin n x).dsc = s.dsc := by rfl
@[simp] theorem State.setAin_pwr (s : State) (n : Nat) (x : Ain) : (s.setAin n x).pwr = s.pwr := by rfl
@[simp] theorem State.setAin_dbgEn (s : State) (n : Nat) (x : Ain) : (s.setAin n x).dbgEn = s.dbgEn := by rfl
@[simp] theorem State.setAin_pending (s : State) (n : Nat) (x : Ain) : (s.setAin n x).pending = s.pending := by rfl
@[simp] theorem State.setAin_pdOn (s : State) (n : Nat) (x : Ain) (i : Nat) : (s.setAin n x).pdOn i = s.pdOn i := by rfl
@[simp] theorem State.setAin_busVerdict (s : State) (n : Nat) (x : Ain) (vi : Nat) (ve vw : Bool) (va vl : Nat) : (s.setAin n x).busVerdict vi ve vw va vl = s.busVerdict vi ve vw va vl := by rfl
@[simp] theorem State.setAin_t (s : State) (n : Nat) (x : Ain) : (s.setAin n x).t = s.t := by rfl
@[simp] theorem State.setAin_ring (s : State) (n : Nat) (x : Ain) (i : Nat) : (s.setAin n x).ring i = s.ring i := by rfl

@[simp] theorem State.setFrq_gts (s : State) (n : Nat) (x : Frq) : (s.setFrq n x).gts = s.gts := by rfl
@[simp] theorem State.setFrq_mode (s : State) (n : Nat) (x : Frq) : (s.setFrq n x).mode = s.mode := by rfl
@[simp] theorem State.setFrq_start (s : State) (n : Nat) (x : Frq) : (s.setFrq n x).start = s.start := by rfl
@[simp] theorem State.setFrq_pd (s : State) (n : Nat) (x : Frq) : (s.setFrq n x).pd = s.pd := by rfl
@[simp] theorem State.setFrq_resp (s : State) (n : Nat) (x : Frq) : (s.setFrq n x).resp = s.resp := by rfl
@[simp] theorem State.setFrq_shadows (s : State) (n : Nat) (x : Frq) : (s.setFrq n x).shadows = s.shadows := by rfl
@[simp] theorem State.setFrq_mem (s : State) (n : Nat) (x : Frq) : (s.setFrq n x).mem = s.mem := by rfl
@[simp] theorem State.setFrq_sys (s : State) (n : Nat) (x : Frq) : (s.setFrq n x).sys = s.sys := by rfl
@[simp] theorem State.setFrq_tick (s : State) (n : Nat) (x : Frq) : (s.setFrq n x).tick = s.tick := by rfl
@[simp] theorem State.setFrq_hri (s : State) (n : Nat) (x : Frq) : (s.setFrq n x).hri = s.hri := by rfl
@[simp] theorem State.setFrq_fen (s : State) (n : Nat) (x : Frq) : (s.setFrq n x).fen = s.fen := by rfl
@[simp] theorem State.setFrq_recorder (s : State) (n : Nat) (x : Frq) : (s.setFrq n x).recorder = s.recorder := by rfl
@[simp] theorem State.setFrq_mbx (s : State) (n : Nat) (x : Frq) : (s.setFrq n x).mbx = s.mbx := by rfl
@[simp] theorem State.setFrq_bce (s : State) (n : Nat) (x : Frq) : (s.setFrq n x).bce = s.bce := by rfl
@[simp] theorem State.setFrq_lsw (s : State) (n : Nat) (x : Frq) : (s.setFrq n x).lsw = s.lsw := by rfl
@[simp] theorem State.setFrq_can (s : State) (n : Nat) (x : Frq) : (s.setFrq n x).can = s.can := by rfl
@[simp] theorem State.setFrq_lko (s : State) (n : Nat) (x : Frq) : (s.setFrq n x).lko = s.lko := by rfl
@[simp] theorem State.setFrq_ipl (s : State) (n : Nat) (x : Frq) : (s.setFrq n x).ipl = s.ipl := by rfl
@[simp] theorem State.setFrq_gnb (s : State) (n : Nat) (x : Frq) : (s.setFrq n x).gnb = s.gnb := by rfl
@[simp] theorem State.setFrq_biv (s : State) (n : Nat) (x : Frq) : (s.setFrq n x).biv = s.biv := by rfl
@[simp] theorem State.setFrq_yld (s : State) (n : Nat) (x : Frq) : (s.setFrq n x).yld = s.yld := by rfl
@[simp] theorem State.setFrq_yarea (s : State) (n : Nat) (x : Frq) : (s.setFrq n x).yarea = s.yarea := by rfl
@[simp] theorem State.setFrq_pnl (s : State) (n : Nat) (x : Frq) : (s.setFrq n x).pnl = s.pnl := by rfl
@[simp] theorem State.setFrq_lh (s : State) (n : Nat) (x : Frq) : (s.setFrq n x).lh = s.lh := by rfl
@[simp] theorem State.setFrq_wk (s : State) (n : Nat) (x : Frq) : (s.setFrq n x).wk = s.wk := by rfl
@[simp] theorem State.setFrq_ropePos (s : State) (n : Nat) (x : Frq) : (s.setFrq n x).ropePos = s.ropePos := by rfl
@[simp] theorem State.setFrq_rtl (s : State) (n : Nat) (x : Frq) : (s.setFrq n x).rtl = s.rtl := by rfl
@[simp] theorem State.setFrq_boot (s : State) (n : Nat) (x : Frq) : (s.setFrq n x).boot = s.boot := by rfl
@[simp] theorem State.setFrq_upd (s : State) (n : Nat) (x : Frq) : (s.setFrq n x).upd = s.upd := by rfl
@[simp] theorem State.setFrq_dsc (s : State) (n : Nat) (x : Frq) : (s.setFrq n x).dsc = s.dsc := by rfl
@[simp] theorem State.setFrq_pwr (s : State) (n : Nat) (x : Frq) : (s.setFrq n x).pwr = s.pwr := by rfl
@[simp] theorem State.setFrq_dbgEn (s : State) (n : Nat) (x : Frq) : (s.setFrq n x).dbgEn = s.dbgEn := by rfl
@[simp] theorem State.setFrq_pending (s : State) (n : Nat) (x : Frq) : (s.setFrq n x).pending = s.pending := by rfl
@[simp] theorem State.setFrq_pdOn (s : State) (n : Nat) (x : Frq) (i : Nat) : (s.setFrq n x).pdOn i = s.pdOn i := by rfl
@[simp] theorem State.setFrq_busVerdict (s : State) (n : Nat) (x : Frq) (vi : Nat) (ve vw : Bool) (va vl : Nat) : (s.setFrq n x).busVerdict vi ve vw va vl = s.busVerdict vi ve vw va vl := by rfl
@[simp] theorem State.setFrq_t (s : State) (n : Nat) (x : Frq) : (s.setFrq n x).t = s.t := by rfl
@[simp] theorem State.setFrq_ring (s : State) (n : Nat) (x : Frq) (i : Nat) : (s.setFrq n x).ring i = s.ring i := by rfl

@[simp] theorem State.setLos_gts (s : State) (n : Nat) (x : Los) : (s.setLos n x).gts = s.gts := by rfl
@[simp] theorem State.setLos_mode (s : State) (n : Nat) (x : Los) : (s.setLos n x).mode = s.mode := by rfl
@[simp] theorem State.setLos_start (s : State) (n : Nat) (x : Los) : (s.setLos n x).start = s.start := by rfl
@[simp] theorem State.setLos_pd (s : State) (n : Nat) (x : Los) : (s.setLos n x).pd = s.pd := by rfl
@[simp] theorem State.setLos_resp (s : State) (n : Nat) (x : Los) : (s.setLos n x).resp = s.resp := by rfl
@[simp] theorem State.setLos_shadows (s : State) (n : Nat) (x : Los) : (s.setLos n x).shadows = s.shadows := by rfl
@[simp] theorem State.setLos_mem (s : State) (n : Nat) (x : Los) : (s.setLos n x).mem = s.mem := by rfl
@[simp] theorem State.setLos_sys (s : State) (n : Nat) (x : Los) : (s.setLos n x).sys = s.sys := by rfl
@[simp] theorem State.setLos_tick (s : State) (n : Nat) (x : Los) : (s.setLos n x).tick = s.tick := by rfl
@[simp] theorem State.setLos_hri (s : State) (n : Nat) (x : Los) : (s.setLos n x).hri = s.hri := by rfl
@[simp] theorem State.setLos_fen (s : State) (n : Nat) (x : Los) : (s.setLos n x).fen = s.fen := by rfl
@[simp] theorem State.setLos_recorder (s : State) (n : Nat) (x : Los) : (s.setLos n x).recorder = s.recorder := by rfl
@[simp] theorem State.setLos_mbx (s : State) (n : Nat) (x : Los) : (s.setLos n x).mbx = s.mbx := by rfl
@[simp] theorem State.setLos_bce (s : State) (n : Nat) (x : Los) : (s.setLos n x).bce = s.bce := by rfl
@[simp] theorem State.setLos_lsw (s : State) (n : Nat) (x : Los) : (s.setLos n x).lsw = s.lsw := by rfl
@[simp] theorem State.setLos_can (s : State) (n : Nat) (x : Los) : (s.setLos n x).can = s.can := by rfl
@[simp] theorem State.setLos_lko (s : State) (n : Nat) (x : Los) : (s.setLos n x).lko = s.lko := by rfl
@[simp] theorem State.setLos_ipl (s : State) (n : Nat) (x : Los) : (s.setLos n x).ipl = s.ipl := by rfl
@[simp] theorem State.setLos_gnb (s : State) (n : Nat) (x : Los) : (s.setLos n x).gnb = s.gnb := by rfl
@[simp] theorem State.setLos_biv (s : State) (n : Nat) (x : Los) : (s.setLos n x).biv = s.biv := by rfl
@[simp] theorem State.setLos_yld (s : State) (n : Nat) (x : Los) : (s.setLos n x).yld = s.yld := by rfl
@[simp] theorem State.setLos_yarea (s : State) (n : Nat) (x : Los) : (s.setLos n x).yarea = s.yarea := by rfl
@[simp] theorem State.setLos_pnl (s : State) (n : Nat) (x : Los) : (s.setLos n x).pnl = s.pnl := by rfl
@[simp] theorem State.setLos_lh (s : State) (n : Nat) (x : Los) : (s.setLos n x).lh = s.lh := by rfl
@[simp] theorem State.setLos_wk (s : State) (n : Nat) (x : Los) : (s.setLos n x).wk = s.wk := by rfl
@[simp] theorem State.setLos_ropePos (s : State) (n : Nat) (x : Los) : (s.setLos n x).ropePos = s.ropePos := by rfl
@[simp] theorem State.setLos_rtl (s : State) (n : Nat) (x : Los) : (s.setLos n x).rtl = s.rtl := by rfl
@[simp] theorem State.setLos_boot (s : State) (n : Nat) (x : Los) : (s.setLos n x).boot = s.boot := by rfl
@[simp] theorem State.setLos_upd (s : State) (n : Nat) (x : Los) : (s.setLos n x).upd = s.upd := by rfl
@[simp] theorem State.setLos_dsc (s : State) (n : Nat) (x : Los) : (s.setLos n x).dsc = s.dsc := by rfl
@[simp] theorem State.setLos_pwr (s : State) (n : Nat) (x : Los) : (s.setLos n x).pwr = s.pwr := by rfl
@[simp] theorem State.setLos_dbgEn (s : State) (n : Nat) (x : Los) : (s.setLos n x).dbgEn = s.dbgEn := by rfl
@[simp] theorem State.setLos_pending (s : State) (n : Nat) (x : Los) : (s.setLos n x).pending = s.pending := by rfl
@[simp] theorem State.setLos_pdOn (s : State) (n : Nat) (x : Los) (i : Nat) : (s.setLos n x).pdOn i = s.pdOn i := by rfl
@[simp] theorem State.setLos_busVerdict (s : State) (n : Nat) (x : Los) (vi : Nat) (ve vw : Bool) (va vl : Nat) : (s.setLos n x).busVerdict vi ve vw va vl = s.busVerdict vi ve vw va vl := by rfl
@[simp] theorem State.setLos_t (s : State) (n : Nat) (x : Los) : (s.setLos n x).t = s.t := by rfl
@[simp] theorem State.setLos_ring (s : State) (n : Nat) (x : Los) (i : Nat) : (s.setLos n x).ring i = s.ring i := by rfl

@[simp] theorem State.setSup_gts (s : State) (n : Nat) (x : Sup) : (s.setSup n x).gts = s.gts := by rfl
@[simp] theorem State.setSup_mode (s : State) (n : Nat) (x : Sup) : (s.setSup n x).mode = s.mode := by rfl
@[simp] theorem State.setSup_start (s : State) (n : Nat) (x : Sup) : (s.setSup n x).start = s.start := by rfl
@[simp] theorem State.setSup_pd (s : State) (n : Nat) (x : Sup) : (s.setSup n x).pd = s.pd := by rfl
@[simp] theorem State.setSup_resp (s : State) (n : Nat) (x : Sup) : (s.setSup n x).resp = s.resp := by rfl
@[simp] theorem State.setSup_shadows (s : State) (n : Nat) (x : Sup) : (s.setSup n x).shadows = s.shadows := by rfl
@[simp] theorem State.setSup_mem (s : State) (n : Nat) (x : Sup) : (s.setSup n x).mem = s.mem := by rfl
@[simp] theorem State.setSup_sys (s : State) (n : Nat) (x : Sup) : (s.setSup n x).sys = s.sys := by rfl
@[simp] theorem State.setSup_tick (s : State) (n : Nat) (x : Sup) : (s.setSup n x).tick = s.tick := by rfl
@[simp] theorem State.setSup_hri (s : State) (n : Nat) (x : Sup) : (s.setSup n x).hri = s.hri := by rfl
@[simp] theorem State.setSup_fen (s : State) (n : Nat) (x : Sup) : (s.setSup n x).fen = s.fen := by rfl
@[simp] theorem State.setSup_recorder (s : State) (n : Nat) (x : Sup) : (s.setSup n x).recorder = s.recorder := by rfl
@[simp] theorem State.setSup_mbx (s : State) (n : Nat) (x : Sup) : (s.setSup n x).mbx = s.mbx := by rfl
@[simp] theorem State.setSup_bce (s : State) (n : Nat) (x : Sup) : (s.setSup n x).bce = s.bce := by rfl
@[simp] theorem State.setSup_lsw (s : State) (n : Nat) (x : Sup) : (s.setSup n x).lsw = s.lsw := by rfl
@[simp] theorem State.setSup_can (s : State) (n : Nat) (x : Sup) : (s.setSup n x).can = s.can := by rfl
@[simp] theorem State.setSup_lko (s : State) (n : Nat) (x : Sup) : (s.setSup n x).lko = s.lko := by rfl
@[simp] theorem State.setSup_ipl (s : State) (n : Nat) (x : Sup) : (s.setSup n x).ipl = s.ipl := by rfl
@[simp] theorem State.setSup_gnb (s : State) (n : Nat) (x : Sup) : (s.setSup n x).gnb = s.gnb := by rfl
@[simp] theorem State.setSup_biv (s : State) (n : Nat) (x : Sup) : (s.setSup n x).biv = s.biv := by rfl
@[simp] theorem State.setSup_yld (s : State) (n : Nat) (x : Sup) : (s.setSup n x).yld = s.yld := by rfl
@[simp] theorem State.setSup_yarea (s : State) (n : Nat) (x : Sup) : (s.setSup n x).yarea = s.yarea := by rfl
@[simp] theorem State.setSup_pnl (s : State) (n : Nat) (x : Sup) : (s.setSup n x).pnl = s.pnl := by rfl
@[simp] theorem State.setSup_lh (s : State) (n : Nat) (x : Sup) : (s.setSup n x).lh = s.lh := by rfl
@[simp] theorem State.setSup_wk (s : State) (n : Nat) (x : Sup) : (s.setSup n x).wk = s.wk := by rfl
@[simp] theorem State.setSup_ropePos (s : State) (n : Nat) (x : Sup) : (s.setSup n x).ropePos = s.ropePos := by rfl
@[simp] theorem State.setSup_rtl (s : State) (n : Nat) (x : Sup) : (s.setSup n x).rtl = s.rtl := by rfl
@[simp] theorem State.setSup_boot (s : State) (n : Nat) (x : Sup) : (s.setSup n x).boot = s.boot := by rfl
@[simp] theorem State.setSup_upd (s : State) (n : Nat) (x : Sup) : (s.setSup n x).upd = s.upd := by rfl
@[simp] theorem State.setSup_dsc (s : State) (n : Nat) (x : Sup) : (s.setSup n x).dsc = s.dsc := by rfl
@[simp] theorem State.setSup_pwr (s : State) (n : Nat) (x : Sup) : (s.setSup n x).pwr = s.pwr := by rfl
@[simp] theorem State.setSup_dbgEn (s : State) (n : Nat) (x : Sup) : (s.setSup n x).dbgEn = s.dbgEn := by rfl
@[simp] theorem State.setSup_pending (s : State) (n : Nat) (x : Sup) : (s.setSup n x).pending = s.pending := by rfl
@[simp] theorem State.setSup_pdOn (s : State) (n : Nat) (x : Sup) (i : Nat) : (s.setSup n x).pdOn i = s.pdOn i := by rfl
@[simp] theorem State.setSup_busVerdict (s : State) (n : Nat) (x : Sup) (vi : Nat) (ve vw : Bool) (va vl : Nat) : (s.setSup n x).busVerdict vi ve vw va vl = s.busVerdict vi ve vw va vl := by rfl
@[simp] theorem State.setSup_t (s : State) (n : Nat) (x : Sup) : (s.setSup n x).t = s.t := by rfl
@[simp] theorem State.setSup_ring (s : State) (n : Nat) (x : Sup) (i : Nat) : (s.setSup n x).ring i = s.ring i := by rfl

@[simp] theorem State.setCh_gts (s : State) (n : Nat) (x : Ch) : (s.setCh n x).gts = s.gts := by rfl
@[simp] theorem State.setCh_mode (s : State) (n : Nat) (x : Ch) : (s.setCh n x).mode = s.mode := by rfl
@[simp] theorem State.setCh_start (s : State) (n : Nat) (x : Ch) : (s.setCh n x).start = s.start := by rfl
@[simp] theorem State.setCh_pd (s : State) (n : Nat) (x : Ch) : (s.setCh n x).pd = s.pd := by rfl
@[simp] theorem State.setCh_resp (s : State) (n : Nat) (x : Ch) : (s.setCh n x).resp = s.resp := by rfl
@[simp] theorem State.setCh_shadows (s : State) (n : Nat) (x : Ch) : (s.setCh n x).shadows = s.shadows := by rfl
@[simp] theorem State.setCh_mem (s : State) (n : Nat) (x : Ch) : (s.setCh n x).mem = s.mem := by rfl
@[simp] theorem State.setCh_sys (s : State) (n : Nat) (x : Ch) : (s.setCh n x).sys = s.sys := by rfl
@[simp] theorem State.setCh_tick (s : State) (n : Nat) (x : Ch) : (s.setCh n x).tick = s.tick := by rfl
@[simp] theorem State.setCh_hri (s : State) (n : Nat) (x : Ch) : (s.setCh n x).hri = s.hri := by rfl
@[simp] theorem State.setCh_fen (s : State) (n : Nat) (x : Ch) : (s.setCh n x).fen = s.fen := by rfl
@[simp] theorem State.setCh_recorder (s : State) (n : Nat) (x : Ch) : (s.setCh n x).recorder = s.recorder := by rfl
@[simp] theorem State.setCh_mbx (s : State) (n : Nat) (x : Ch) : (s.setCh n x).mbx = s.mbx := by rfl
@[simp] theorem State.setCh_bce (s : State) (n : Nat) (x : Ch) : (s.setCh n x).bce = s.bce := by rfl
@[simp] theorem State.setCh_fin (s : State) (n : Nat) (x : Ch) : (s.setCh n x).fin = s.fin := by rfl
@[simp] theorem State.setCh_can (s : State) (n : Nat) (x : Ch) : (s.setCh n x).can = s.can := by rfl
@[simp] theorem State.setCh_lko (s : State) (n : Nat) (x : Ch) : (s.setCh n x).lko = s.lko := by rfl
@[simp] theorem State.setCh_ipl (s : State) (n : Nat) (x : Ch) : (s.setCh n x).ipl = s.ipl := by rfl
@[simp] theorem State.setCh_gnb (s : State) (n : Nat) (x : Ch) : (s.setCh n x).gnb = s.gnb := by rfl
@[simp] theorem State.setCh_biv (s : State) (n : Nat) (x : Ch) : (s.setCh n x).biv = s.biv := by rfl
@[simp] theorem State.setCh_yld (s : State) (n : Nat) (x : Ch) : (s.setCh n x).yld = s.yld := by rfl
@[simp] theorem State.setCh_yarea (s : State) (n : Nat) (x : Ch) : (s.setCh n x).yarea = s.yarea := by rfl
@[simp] theorem State.setCh_pnl (s : State) (n : Nat) (x : Ch) : (s.setCh n x).pnl = s.pnl := by rfl
@[simp] theorem State.setCh_lh (s : State) (n : Nat) (x : Ch) : (s.setCh n x).lh = s.lh := by rfl
@[simp] theorem State.setCh_wk (s : State) (n : Nat) (x : Ch) : (s.setCh n x).wk = s.wk := by rfl
@[simp] theorem State.setCh_ropePos (s : State) (n : Nat) (x : Ch) : (s.setCh n x).ropePos = s.ropePos := by rfl
@[simp] theorem State.setCh_rtl (s : State) (n : Nat) (x : Ch) : (s.setCh n x).rtl = s.rtl := by rfl
@[simp] theorem State.setCh_boot (s : State) (n : Nat) (x : Ch) : (s.setCh n x).boot = s.boot := by rfl
@[simp] theorem State.setCh_upd (s : State) (n : Nat) (x : Ch) : (s.setCh n x).upd = s.upd := by rfl
@[simp] theorem State.setCh_dsc (s : State) (n : Nat) (x : Ch) : (s.setCh n x).dsc = s.dsc := by rfl
@[simp] theorem State.setCh_pwr (s : State) (n : Nat) (x : Ch) : (s.setCh n x).pwr = s.pwr := by rfl
@[simp] theorem State.setCh_dbgEn (s : State) (n : Nat) (x : Ch) : (s.setCh n x).dbgEn = s.dbgEn := by rfl
@[simp] theorem State.setCh_pending (s : State) (n : Nat) (x : Ch) : (s.setCh n x).pending = s.pending := by rfl
@[simp] theorem State.setCh_pdOn (s : State) (n : Nat) (x : Ch) (i : Nat) : (s.setCh n x).pdOn i = s.pdOn i := by rfl
@[simp] theorem State.setCh_busVerdict (s : State) (n : Nat) (x : Ch) (vi : Nat) (ve vw : Bool) (va vl : Nat) : (s.setCh n x).busVerdict vi ve vw va vl = s.busVerdict vi ve vw va vl := by rfl
@[simp] theorem State.setCh_t (s : State) (n : Nat) (x : Ch) : (s.setCh n x).t = s.t := by rfl
@[simp] theorem State.setCh_ring (s : State) (n : Nat) (x : Ch) (i : Nat) : (s.setCh n x).ring i = s.ring i := by rfl

@[simp] theorem State.setLink_gts (s : State) (k : Nat) (x : IplLink) : (s.setLink k x).gts = s.gts := by rfl
@[simp] theorem State.setLink_mode (s : State) (k : Nat) (x : IplLink) : (s.setLink k x).mode = s.mode := by rfl
@[simp] theorem State.setLink_start (s : State) (k : Nat) (x : IplLink) : (s.setLink k x).start = s.start := by rfl
@[simp] theorem State.setLink_pd (s : State) (k : Nat) (x : IplLink) : (s.setLink k x).pd = s.pd := by rfl
@[simp] theorem State.setLink_resp (s : State) (k : Nat) (x : IplLink) : (s.setLink k x).resp = s.resp := by rfl
@[simp] theorem State.setLink_shadows (s : State) (k : Nat) (x : IplLink) : (s.setLink k x).shadows = s.shadows := by rfl
@[simp] theorem State.setLink_mem (s : State) (k : Nat) (x : IplLink) : (s.setLink k x).mem = s.mem := by rfl
@[simp] theorem State.setLink_sys (s : State) (k : Nat) (x : IplLink) : (s.setLink k x).sys = s.sys := by rfl
@[simp] theorem State.setLink_tick (s : State) (k : Nat) (x : IplLink) : (s.setLink k x).tick = s.tick := by rfl
@[simp] theorem State.setLink_hri (s : State) (k : Nat) (x : IplLink) : (s.setLink k x).hri = s.hri := by rfl
@[simp] theorem State.setLink_fen (s : State) (k : Nat) (x : IplLink) : (s.setLink k x).fen = s.fen := by rfl
@[simp] theorem State.setLink_recorder (s : State) (k : Nat) (x : IplLink) : (s.setLink k x).recorder = s.recorder := by rfl
@[simp] theorem State.setLink_mbx (s : State) (k : Nat) (x : IplLink) : (s.setLink k x).mbx = s.mbx := by rfl
@[simp] theorem State.setLink_bce (s : State) (k : Nat) (x : IplLink) : (s.setLink k x).bce = s.bce := by rfl
@[simp] theorem State.setLink_fin (s : State) (k : Nat) (x : IplLink) : (s.setLink k x).fin = s.fin := by rfl
@[simp] theorem State.setLink_lsw (s : State) (k : Nat) (x : IplLink) : (s.setLink k x).lsw = s.lsw := by rfl
@[simp] theorem State.setLink_can (s : State) (k : Nat) (x : IplLink) : (s.setLink k x).can = s.can := by rfl
@[simp] theorem State.setLink_lko (s : State) (k : Nat) (x : IplLink) : (s.setLink k x).lko = s.lko := by rfl
@[simp] theorem State.setLink_gnb (s : State) (k : Nat) (x : IplLink) : (s.setLink k x).gnb = s.gnb := by rfl
@[simp] theorem State.setLink_biv (s : State) (k : Nat) (x : IplLink) : (s.setLink k x).biv = s.biv := by rfl
@[simp] theorem State.setLink_yld (s : State) (k : Nat) (x : IplLink) : (s.setLink k x).yld = s.yld := by rfl
@[simp] theorem State.setLink_yarea (s : State) (k : Nat) (x : IplLink) : (s.setLink k x).yarea = s.yarea := by rfl
@[simp] theorem State.setLink_pnl (s : State) (k : Nat) (x : IplLink) : (s.setLink k x).pnl = s.pnl := by rfl
@[simp] theorem State.setLink_lh (s : State) (k : Nat) (x : IplLink) : (s.setLink k x).lh = s.lh := by rfl
@[simp] theorem State.setLink_wk (s : State) (k : Nat) (x : IplLink) : (s.setLink k x).wk = s.wk := by rfl
@[simp] theorem State.setLink_ropePos (s : State) (k : Nat) (x : IplLink) : (s.setLink k x).ropePos = s.ropePos := by rfl
@[simp] theorem State.setLink_rtl (s : State) (k : Nat) (x : IplLink) : (s.setLink k x).rtl = s.rtl := by rfl
@[simp] theorem State.setLink_boot (s : State) (k : Nat) (x : IplLink) : (s.setLink k x).boot = s.boot := by rfl
@[simp] theorem State.setLink_upd (s : State) (k : Nat) (x : IplLink) : (s.setLink k x).upd = s.upd := by rfl
@[simp] theorem State.setLink_dsc (s : State) (k : Nat) (x : IplLink) : (s.setLink k x).dsc = s.dsc := by rfl
@[simp] theorem State.setLink_pwr (s : State) (k : Nat) (x : IplLink) : (s.setLink k x).pwr = s.pwr := by rfl
@[simp] theorem State.setLink_dbgEn (s : State) (k : Nat) (x : IplLink) : (s.setLink k x).dbgEn = s.dbgEn := by rfl
@[simp] theorem State.setLink_pending (s : State) (k : Nat) (x : IplLink) : (s.setLink k x).pending = s.pending := by rfl
@[simp] theorem State.setLink_pdOn (s : State) (k : Nat) (x : IplLink) (i : Nat) : (s.setLink k x).pdOn i = s.pdOn i := by rfl
@[simp] theorem State.setLink_busVerdict (s : State) (k : Nat) (x : IplLink) (vi : Nat) (ve vw : Bool) (va vl : Nat) : (s.setLink k x).busVerdict vi ve vw va vl = s.busVerdict vi ve vw va vl := by rfl
@[simp] theorem State.setLink_t (s : State) (k : Nat) (x : IplLink) : (s.setLink k x).t = s.t := by rfl
@[simp] theorem State.setLink_ring (s : State) (k : Nat) (x : IplLink) (i : Nat) : (s.setLink k x).ring i = s.ring i := by rfl

@[simp] theorem State.setIctx_gts (s : State) (c : Nat) (x : IplCtx) : (s.setIctx c x).gts = s.gts := by rfl
@[simp] theorem State.setIctx_mode (s : State) (c : Nat) (x : IplCtx) : (s.setIctx c x).mode = s.mode := by rfl
@[simp] theorem State.setIctx_start (s : State) (c : Nat) (x : IplCtx) : (s.setIctx c x).start = s.start := by rfl
@[simp] theorem State.setIctx_pd (s : State) (c : Nat) (x : IplCtx) : (s.setIctx c x).pd = s.pd := by rfl
@[simp] theorem State.setIctx_resp (s : State) (c : Nat) (x : IplCtx) : (s.setIctx c x).resp = s.resp := by rfl
@[simp] theorem State.setIctx_shadows (s : State) (c : Nat) (x : IplCtx) : (s.setIctx c x).shadows = s.shadows := by rfl
@[simp] theorem State.setIctx_mem (s : State) (c : Nat) (x : IplCtx) : (s.setIctx c x).mem = s.mem := by rfl
@[simp] theorem State.setIctx_sys (s : State) (c : Nat) (x : IplCtx) : (s.setIctx c x).sys = s.sys := by rfl
@[simp] theorem State.setIctx_tick (s : State) (c : Nat) (x : IplCtx) : (s.setIctx c x).tick = s.tick := by rfl
@[simp] theorem State.setIctx_hri (s : State) (c : Nat) (x : IplCtx) : (s.setIctx c x).hri = s.hri := by rfl
@[simp] theorem State.setIctx_fen (s : State) (c : Nat) (x : IplCtx) : (s.setIctx c x).fen = s.fen := by rfl
@[simp] theorem State.setIctx_recorder (s : State) (c : Nat) (x : IplCtx) : (s.setIctx c x).recorder = s.recorder := by rfl
@[simp] theorem State.setIctx_mbx (s : State) (c : Nat) (x : IplCtx) : (s.setIctx c x).mbx = s.mbx := by rfl
@[simp] theorem State.setIctx_bce (s : State) (c : Nat) (x : IplCtx) : (s.setIctx c x).bce = s.bce := by rfl
@[simp] theorem State.setIctx_fin (s : State) (c : Nat) (x : IplCtx) : (s.setIctx c x).fin = s.fin := by rfl
@[simp] theorem State.setIctx_lsw (s : State) (c : Nat) (x : IplCtx) : (s.setIctx c x).lsw = s.lsw := by rfl
@[simp] theorem State.setIctx_can (s : State) (c : Nat) (x : IplCtx) : (s.setIctx c x).can = s.can := by rfl
@[simp] theorem State.setIctx_lko (s : State) (c : Nat) (x : IplCtx) : (s.setIctx c x).lko = s.lko := by rfl
@[simp] theorem State.setIctx_gnb (s : State) (c : Nat) (x : IplCtx) : (s.setIctx c x).gnb = s.gnb := by rfl
@[simp] theorem State.setIctx_biv (s : State) (c : Nat) (x : IplCtx) : (s.setIctx c x).biv = s.biv := by rfl
@[simp] theorem State.setIctx_yld (s : State) (c : Nat) (x : IplCtx) : (s.setIctx c x).yld = s.yld := by rfl
@[simp] theorem State.setIctx_yarea (s : State) (c : Nat) (x : IplCtx) : (s.setIctx c x).yarea = s.yarea := by rfl
@[simp] theorem State.setIctx_pnl (s : State) (c : Nat) (x : IplCtx) : (s.setIctx c x).pnl = s.pnl := by rfl
@[simp] theorem State.setIctx_lh (s : State) (c : Nat) (x : IplCtx) : (s.setIctx c x).lh = s.lh := by rfl
@[simp] theorem State.setIctx_wk (s : State) (c : Nat) (x : IplCtx) : (s.setIctx c x).wk = s.wk := by rfl
@[simp] theorem State.setIctx_ropePos (s : State) (c : Nat) (x : IplCtx) : (s.setIctx c x).ropePos = s.ropePos := by rfl
@[simp] theorem State.setIctx_rtl (s : State) (c : Nat) (x : IplCtx) : (s.setIctx c x).rtl = s.rtl := by rfl
@[simp] theorem State.setIctx_boot (s : State) (c : Nat) (x : IplCtx) : (s.setIctx c x).boot = s.boot := by rfl
@[simp] theorem State.setIctx_upd (s : State) (c : Nat) (x : IplCtx) : (s.setIctx c x).upd = s.upd := by rfl
@[simp] theorem State.setIctx_dsc (s : State) (c : Nat) (x : IplCtx) : (s.setIctx c x).dsc = s.dsc := by rfl
@[simp] theorem State.setIctx_pwr (s : State) (c : Nat) (x : IplCtx) : (s.setIctx c x).pwr = s.pwr := by rfl
@[simp] theorem State.setIctx_dbgEn (s : State) (c : Nat) (x : IplCtx) : (s.setIctx c x).dbgEn = s.dbgEn := by rfl
@[simp] theorem State.setIctx_pending (s : State) (c : Nat) (x : IplCtx) : (s.setIctx c x).pending = s.pending := by rfl
@[simp] theorem State.setIctx_pdOn (s : State) (c : Nat) (x : IplCtx) (i : Nat) : (s.setIctx c x).pdOn i = s.pdOn i := by rfl
@[simp] theorem State.setIctx_busVerdict (s : State) (c : Nat) (x : IplCtx) (vi : Nat) (ve vw : Bool) (va vl : Nat) : (s.setIctx c x).busVerdict vi ve vw va vl = s.busVerdict vi ve vw va vl := by rfl
@[simp] theorem State.setIctx_t (s : State) (c : Nat) (x : IplCtx) : (s.setIctx c x).t = s.t := by rfl
@[simp] theorem State.setIctx_ring (s : State) (c : Nat) (x : IplCtx) (i : Nat) : (s.setIctx c x).ring i = s.ring i := by rfl

@[simp] theorem State.setStream_gts (s : State) (i : Nat) (x : EncStream) : (s.setStream i x).gts = s.gts := by rfl
@[simp] theorem State.setStream_mode (s : State) (i : Nat) (x : EncStream) : (s.setStream i x).mode = s.mode := by rfl
@[simp] theorem State.setStream_start (s : State) (i : Nat) (x : EncStream) : (s.setStream i x).start = s.start := by rfl
@[simp] theorem State.setStream_pd (s : State) (i : Nat) (x : EncStream) : (s.setStream i x).pd = s.pd := by rfl
@[simp] theorem State.setStream_resp (s : State) (i : Nat) (x : EncStream) : (s.setStream i x).resp = s.resp := by rfl
@[simp] theorem State.setStream_shadows (s : State) (i : Nat) (x : EncStream) : (s.setStream i x).shadows = s.shadows := by rfl
@[simp] theorem State.setStream_mem (s : State) (i : Nat) (x : EncStream) : (s.setStream i x).mem = s.mem := by rfl
@[simp] theorem State.setStream_sys (s : State) (i : Nat) (x : EncStream) : (s.setStream i x).sys = s.sys := by rfl
@[simp] theorem State.setStream_tick (s : State) (i : Nat) (x : EncStream) : (s.setStream i x).tick = s.tick := by rfl
@[simp] theorem State.setStream_hri (s : State) (i : Nat) (x : EncStream) : (s.setStream i x).hri = s.hri := by rfl
@[simp] theorem State.setStream_fen (s : State) (i : Nat) (x : EncStream) : (s.setStream i x).fen = s.fen := by rfl
@[simp] theorem State.setStream_recorder (s : State) (i : Nat) (x : EncStream) : (s.setStream i x).recorder = s.recorder := by rfl
@[simp] theorem State.setStream_mbx (s : State) (i : Nat) (x : EncStream) : (s.setStream i x).mbx = s.mbx := by rfl
@[simp] theorem State.setStream_bce (s : State) (i : Nat) (x : EncStream) : (s.setStream i x).bce = s.bce := by rfl
@[simp] theorem State.setStream_fin (s : State) (i : Nat) (x : EncStream) : (s.setStream i x).fin = s.fin := by rfl
@[simp] theorem State.setStream_lsw (s : State) (i : Nat) (x : EncStream) : (s.setStream i x).lsw = s.lsw := by rfl
@[simp] theorem State.setStream_can (s : State) (i : Nat) (x : EncStream) : (s.setStream i x).can = s.can := by rfl
@[simp] theorem State.setStream_lko (s : State) (i : Nat) (x : EncStream) : (s.setStream i x).lko = s.lko := by rfl
@[simp] theorem State.setStream_gnb (s : State) (i : Nat) (x : EncStream) : (s.setStream i x).gnb = s.gnb := by rfl
@[simp] theorem State.setStream_biv (s : State) (i : Nat) (x : EncStream) : (s.setStream i x).biv = s.biv := by rfl
@[simp] theorem State.setStream_yld (s : State) (i : Nat) (x : EncStream) : (s.setStream i x).yld = s.yld := by rfl
@[simp] theorem State.setStream_yarea (s : State) (i : Nat) (x : EncStream) : (s.setStream i x).yarea = s.yarea := by rfl
@[simp] theorem State.setStream_pnl (s : State) (i : Nat) (x : EncStream) : (s.setStream i x).pnl = s.pnl := by rfl
@[simp] theorem State.setStream_lh (s : State) (i : Nat) (x : EncStream) : (s.setStream i x).lh = s.lh := by rfl
@[simp] theorem State.setStream_wk (s : State) (i : Nat) (x : EncStream) : (s.setStream i x).wk = s.wk := by rfl
@[simp] theorem State.setStream_ropePos (s : State) (i : Nat) (x : EncStream) : (s.setStream i x).ropePos = s.ropePos := by rfl
@[simp] theorem State.setStream_rtl (s : State) (i : Nat) (x : EncStream) : (s.setStream i x).rtl = s.rtl := by rfl
@[simp] theorem State.setStream_boot (s : State) (i : Nat) (x : EncStream) : (s.setStream i x).boot = s.boot := by rfl
@[simp] theorem State.setStream_upd (s : State) (i : Nat) (x : EncStream) : (s.setStream i x).upd = s.upd := by rfl
@[simp] theorem State.setStream_dsc (s : State) (i : Nat) (x : EncStream) : (s.setStream i x).dsc = s.dsc := by rfl
@[simp] theorem State.setStream_pwr (s : State) (i : Nat) (x : EncStream) : (s.setStream i x).pwr = s.pwr := by rfl
@[simp] theorem State.setStream_dbgEn (s : State) (i : Nat) (x : EncStream) : (s.setStream i x).dbgEn = s.dbgEn := by rfl
@[simp] theorem State.setStream_pending (s : State) (i : Nat) (x : EncStream) : (s.setStream i x).pending = s.pending := by rfl
@[simp] theorem State.setStream_pdOn (s : State) (i : Nat) (x : EncStream) (i : Nat) : (s.setStream i x).pdOn i = s.pdOn i := by rfl
@[simp] theorem State.setStream_busVerdict (s : State) (i : Nat) (x : EncStream) (vi : Nat) (ve vw : Bool) (va vl : Nat) : (s.setStream i x).busVerdict vi ve vw va vl = s.busVerdict vi ve vw va vl := by rfl
@[simp] theorem State.setStream_t (s : State) (i : Nat) (x : EncStream) : (s.setStream i x).t = s.t := by rfl
@[simp] theorem State.setStream_ring (s : State) (i : Nat) (x : EncStream) (i : Nat) : (s.setStream i x).ring i = s.ring i := by rfl

@[simp] theorem State.setLin_gts (s : State) (n : Nat) (x : LkoInput) : (s.setLin n x).gts = s.gts := by rfl
@[simp] theorem State.setLin_mode (s : State) (n : Nat) (x : LkoInput) : (s.setLin n x).mode = s.mode := by rfl
@[simp] theorem State.setLin_start (s : State) (n : Nat) (x : LkoInput) : (s.setLin n x).start = s.start := by rfl
@[simp] theorem State.setLin_pd (s : State) (n : Nat) (x : LkoInput) : (s.setLin n x).pd = s.pd := by rfl
@[simp] theorem State.setLin_resp (s : State) (n : Nat) (x : LkoInput) : (s.setLin n x).resp = s.resp := by rfl
@[simp] theorem State.setLin_shadows (s : State) (n : Nat) (x : LkoInput) : (s.setLin n x).shadows = s.shadows := by rfl
@[simp] theorem State.setLin_mem (s : State) (n : Nat) (x : LkoInput) : (s.setLin n x).mem = s.mem := by rfl
@[simp] theorem State.setLin_sys (s : State) (n : Nat) (x : LkoInput) : (s.setLin n x).sys = s.sys := by rfl
@[simp] theorem State.setLin_tick (s : State) (n : Nat) (x : LkoInput) : (s.setLin n x).tick = s.tick := by rfl
@[simp] theorem State.setLin_hri (s : State) (n : Nat) (x : LkoInput) : (s.setLin n x).hri = s.hri := by rfl
@[simp] theorem State.setLin_fen (s : State) (n : Nat) (x : LkoInput) : (s.setLin n x).fen = s.fen := by rfl
@[simp] theorem State.setLin_recorder (s : State) (n : Nat) (x : LkoInput) : (s.setLin n x).recorder = s.recorder := by rfl
@[simp] theorem State.setLin_mbx (s : State) (n : Nat) (x : LkoInput) : (s.setLin n x).mbx = s.mbx := by rfl
@[simp] theorem State.setLin_bce (s : State) (n : Nat) (x : LkoInput) : (s.setLin n x).bce = s.bce := by rfl
@[simp] theorem State.setLin_fin (s : State) (n : Nat) (x : LkoInput) : (s.setLin n x).fin = s.fin := by rfl
@[simp] theorem State.setLin_lsw (s : State) (n : Nat) (x : LkoInput) : (s.setLin n x).lsw = s.lsw := by rfl
@[simp] theorem State.setLin_can (s : State) (n : Nat) (x : LkoInput) : (s.setLin n x).can = s.can := by rfl
@[simp] theorem State.setLin_ipl (s : State) (n : Nat) (x : LkoInput) : (s.setLin n x).ipl = s.ipl := by rfl
@[simp] theorem State.setLin_gnb (s : State) (n : Nat) (x : LkoInput) : (s.setLin n x).gnb = s.gnb := by rfl
@[simp] theorem State.setLin_biv (s : State) (n : Nat) (x : LkoInput) : (s.setLin n x).biv = s.biv := by rfl
@[simp] theorem State.setLin_yld (s : State) (n : Nat) (x : LkoInput) : (s.setLin n x).yld = s.yld := by rfl
@[simp] theorem State.setLin_yarea (s : State) (n : Nat) (x : LkoInput) : (s.setLin n x).yarea = s.yarea := by rfl
@[simp] theorem State.setLin_pnl (s : State) (n : Nat) (x : LkoInput) : (s.setLin n x).pnl = s.pnl := by rfl
@[simp] theorem State.setLin_lh (s : State) (n : Nat) (x : LkoInput) : (s.setLin n x).lh = s.lh := by rfl
@[simp] theorem State.setLin_wk (s : State) (n : Nat) (x : LkoInput) : (s.setLin n x).wk = s.wk := by rfl
@[simp] theorem State.setLin_ropePos (s : State) (n : Nat) (x : LkoInput) : (s.setLin n x).ropePos = s.ropePos := by rfl
@[simp] theorem State.setLin_rtl (s : State) (n : Nat) (x : LkoInput) : (s.setLin n x).rtl = s.rtl := by rfl
@[simp] theorem State.setLin_boot (s : State) (n : Nat) (x : LkoInput) : (s.setLin n x).boot = s.boot := by rfl
@[simp] theorem State.setLin_upd (s : State) (n : Nat) (x : LkoInput) : (s.setLin n x).upd = s.upd := by rfl
@[simp] theorem State.setLin_dsc (s : State) (n : Nat) (x : LkoInput) : (s.setLin n x).dsc = s.dsc := by rfl
@[simp] theorem State.setLin_pwr (s : State) (n : Nat) (x : LkoInput) : (s.setLin n x).pwr = s.pwr := by rfl
@[simp] theorem State.setLin_dbgEn (s : State) (n : Nat) (x : LkoInput) : (s.setLin n x).dbgEn = s.dbgEn := by rfl
@[simp] theorem State.setLin_pending (s : State) (n : Nat) (x : LkoInput) : (s.setLin n x).pending = s.pending := by rfl
@[simp] theorem State.setLin_pdOn (s : State) (n : Nat) (x : LkoInput) (i : Nat) : (s.setLin n x).pdOn i = s.pdOn i := by rfl
@[simp] theorem State.setLin_busVerdict (s : State) (n : Nat) (x : LkoInput) (vi : Nat) (ve vw : Bool) (va vl : Nat) : (s.setLin n x).busVerdict vi ve vw va vl = s.busVerdict vi ve vw va vl := by rfl
@[simp] theorem State.setLin_t (s : State) (n : Nat) (x : LkoInput) : (s.setLin n x).t = s.t := by rfl
@[simp] theorem State.setLin_ring (s : State) (n : Nat) (x : LkoInput) (i : Nat) : (s.setLin n x).ring i = s.ring i := by rfl

@[simp] theorem State.setEpoch_gts (s : State) (x : LkoEpoch) : (s.setEpoch x).gts = s.gts := by rfl
@[simp] theorem State.setEpoch_mode (s : State) (x : LkoEpoch) : (s.setEpoch x).mode = s.mode := by rfl
@[simp] theorem State.setEpoch_start (s : State) (x : LkoEpoch) : (s.setEpoch x).start = s.start := by rfl
@[simp] theorem State.setEpoch_pd (s : State) (x : LkoEpoch) : (s.setEpoch x).pd = s.pd := by rfl
@[simp] theorem State.setEpoch_resp (s : State) (x : LkoEpoch) : (s.setEpoch x).resp = s.resp := by rfl
@[simp] theorem State.setEpoch_shadows (s : State) (x : LkoEpoch) : (s.setEpoch x).shadows = s.shadows := by rfl
@[simp] theorem State.setEpoch_mem (s : State) (x : LkoEpoch) : (s.setEpoch x).mem = s.mem := by rfl
@[simp] theorem State.setEpoch_sys (s : State) (x : LkoEpoch) : (s.setEpoch x).sys = s.sys := by rfl
@[simp] theorem State.setEpoch_tick (s : State) (x : LkoEpoch) : (s.setEpoch x).tick = s.tick := by rfl
@[simp] theorem State.setEpoch_hri (s : State) (x : LkoEpoch) : (s.setEpoch x).hri = s.hri := by rfl
@[simp] theorem State.setEpoch_fen (s : State) (x : LkoEpoch) : (s.setEpoch x).fen = s.fen := by rfl
@[simp] theorem State.setEpoch_recorder (s : State) (x : LkoEpoch) : (s.setEpoch x).recorder = s.recorder := by rfl
@[simp] theorem State.setEpoch_mbx (s : State) (x : LkoEpoch) : (s.setEpoch x).mbx = s.mbx := by rfl
@[simp] theorem State.setEpoch_bce (s : State) (x : LkoEpoch) : (s.setEpoch x).bce = s.bce := by rfl
@[simp] theorem State.setEpoch_fin (s : State) (x : LkoEpoch) : (s.setEpoch x).fin = s.fin := by rfl
@[simp] theorem State.setEpoch_lsw (s : State) (x : LkoEpoch) : (s.setEpoch x).lsw = s.lsw := by rfl
@[simp] theorem State.setEpoch_can (s : State) (x : LkoEpoch) : (s.setEpoch x).can = s.can := by rfl
@[simp] theorem State.setEpoch_ipl (s : State) (x : LkoEpoch) : (s.setEpoch x).ipl = s.ipl := by rfl
@[simp] theorem State.setEpoch_gnb (s : State) (x : LkoEpoch) : (s.setEpoch x).gnb = s.gnb := by rfl
@[simp] theorem State.setEpoch_biv (s : State) (x : LkoEpoch) : (s.setEpoch x).biv = s.biv := by rfl
@[simp] theorem State.setEpoch_yld (s : State) (x : LkoEpoch) : (s.setEpoch x).yld = s.yld := by rfl
@[simp] theorem State.setEpoch_yarea (s : State) (x : LkoEpoch) : (s.setEpoch x).yarea = s.yarea := by rfl
@[simp] theorem State.setEpoch_pnl (s : State) (x : LkoEpoch) : (s.setEpoch x).pnl = s.pnl := by rfl
@[simp] theorem State.setEpoch_lh (s : State) (x : LkoEpoch) : (s.setEpoch x).lh = s.lh := by rfl
@[simp] theorem State.setEpoch_wk (s : State) (x : LkoEpoch) : (s.setEpoch x).wk = s.wk := by rfl
@[simp] theorem State.setEpoch_ropePos (s : State) (x : LkoEpoch) : (s.setEpoch x).ropePos = s.ropePos := by rfl
@[simp] theorem State.setEpoch_rtl (s : State) (x : LkoEpoch) : (s.setEpoch x).rtl = s.rtl := by rfl
@[simp] theorem State.setEpoch_boot (s : State) (x : LkoEpoch) : (s.setEpoch x).boot = s.boot := by rfl
@[simp] theorem State.setEpoch_upd (s : State) (x : LkoEpoch) : (s.setEpoch x).upd = s.upd := by rfl
@[simp] theorem State.setEpoch_dsc (s : State) (x : LkoEpoch) : (s.setEpoch x).dsc = s.dsc := by rfl
@[simp] theorem State.setEpoch_pwr (s : State) (x : LkoEpoch) : (s.setEpoch x).pwr = s.pwr := by rfl
@[simp] theorem State.setEpoch_dbgEn (s : State) (x : LkoEpoch) : (s.setEpoch x).dbgEn = s.dbgEn := by rfl
@[simp] theorem State.setEpoch_pending (s : State) (x : LkoEpoch) : (s.setEpoch x).pending = s.pending := by rfl
@[simp] theorem State.setEpoch_pdOn (s : State) (x : LkoEpoch) (i : Nat) : (s.setEpoch x).pdOn i = s.pdOn i := by rfl
@[simp] theorem State.setEpoch_busVerdict (s : State) (x : LkoEpoch) (vi : Nat) (ve vw : Bool) (va vl : Nat) : (s.setEpoch x).busVerdict vi ve vw va vl = s.busVerdict vi ve vw va vl := by rfl
@[simp] theorem State.setEpoch_t (s : State) (x : LkoEpoch) : (s.setEpoch x).t = s.t := by rfl
@[simp] theorem State.setEpoch_ring (s : State) (x : LkoEpoch) (i : Nat) : (s.setEpoch x).ring i = s.ring i := by rfl

@[simp] theorem State.setGch_gts (s : State) (c : Nat) (x : GnbCh) : (s.setGch c x).gts = s.gts := by rfl
@[simp] theorem State.setGch_mode (s : State) (c : Nat) (x : GnbCh) : (s.setGch c x).mode = s.mode := by rfl
@[simp] theorem State.setGch_start (s : State) (c : Nat) (x : GnbCh) : (s.setGch c x).start = s.start := by rfl
@[simp] theorem State.setGch_pd (s : State) (c : Nat) (x : GnbCh) : (s.setGch c x).pd = s.pd := by rfl
@[simp] theorem State.setGch_resp (s : State) (c : Nat) (x : GnbCh) : (s.setGch c x).resp = s.resp := by rfl
@[simp] theorem State.setGch_shadows (s : State) (c : Nat) (x : GnbCh) : (s.setGch c x).shadows = s.shadows := by rfl
@[simp] theorem State.setGch_mem (s : State) (c : Nat) (x : GnbCh) : (s.setGch c x).mem = s.mem := by rfl
@[simp] theorem State.setGch_sys (s : State) (c : Nat) (x : GnbCh) : (s.setGch c x).sys = s.sys := by rfl
@[simp] theorem State.setGch_tick (s : State) (c : Nat) (x : GnbCh) : (s.setGch c x).tick = s.tick := by rfl
@[simp] theorem State.setGch_hri (s : State) (c : Nat) (x : GnbCh) : (s.setGch c x).hri = s.hri := by rfl
@[simp] theorem State.setGch_fen (s : State) (c : Nat) (x : GnbCh) : (s.setGch c x).fen = s.fen := by rfl
@[simp] theorem State.setGch_recorder (s : State) (c : Nat) (x : GnbCh) : (s.setGch c x).recorder = s.recorder := by rfl
@[simp] theorem State.setGch_mbx (s : State) (c : Nat) (x : GnbCh) : (s.setGch c x).mbx = s.mbx := by rfl
@[simp] theorem State.setGch_bce (s : State) (c : Nat) (x : GnbCh) : (s.setGch c x).bce = s.bce := by rfl
@[simp] theorem State.setGch_fin (s : State) (c : Nat) (x : GnbCh) : (s.setGch c x).fin = s.fin := by rfl
@[simp] theorem State.setGch_lsw (s : State) (c : Nat) (x : GnbCh) : (s.setGch c x).lsw = s.lsw := by rfl
@[simp] theorem State.setGch_can (s : State) (c : Nat) (x : GnbCh) : (s.setGch c x).can = s.can := by rfl
@[simp] theorem State.setGch_lko (s : State) (c : Nat) (x : GnbCh) : (s.setGch c x).lko = s.lko := by rfl
@[simp] theorem State.setGch_ipl (s : State) (c : Nat) (x : GnbCh) : (s.setGch c x).ipl = s.ipl := by rfl
@[simp] theorem State.setGch_biv (s : State) (c : Nat) (x : GnbCh) : (s.setGch c x).biv = s.biv := by rfl
@[simp] theorem State.setGch_yld (s : State) (c : Nat) (x : GnbCh) : (s.setGch c x).yld = s.yld := by rfl
@[simp] theorem State.setGch_yarea (s : State) (c : Nat) (x : GnbCh) : (s.setGch c x).yarea = s.yarea := by rfl
@[simp] theorem State.setGch_pnl (s : State) (c : Nat) (x : GnbCh) : (s.setGch c x).pnl = s.pnl := by rfl
@[simp] theorem State.setGch_lh (s : State) (c : Nat) (x : GnbCh) : (s.setGch c x).lh = s.lh := by rfl
@[simp] theorem State.setGch_wk (s : State) (c : Nat) (x : GnbCh) : (s.setGch c x).wk = s.wk := by rfl
@[simp] theorem State.setGch_ropePos (s : State) (c : Nat) (x : GnbCh) : (s.setGch c x).ropePos = s.ropePos := by rfl
@[simp] theorem State.setGch_rtl (s : State) (c : Nat) (x : GnbCh) : (s.setGch c x).rtl = s.rtl := by rfl
@[simp] theorem State.setGch_boot (s : State) (c : Nat) (x : GnbCh) : (s.setGch c x).boot = s.boot := by rfl
@[simp] theorem State.setGch_upd (s : State) (c : Nat) (x : GnbCh) : (s.setGch c x).upd = s.upd := by rfl
@[simp] theorem State.setGch_dsc (s : State) (c : Nat) (x : GnbCh) : (s.setGch c x).dsc = s.dsc := by rfl
@[simp] theorem State.setGch_pwr (s : State) (c : Nat) (x : GnbCh) : (s.setGch c x).pwr = s.pwr := by rfl
@[simp] theorem State.setGch_dbgEn (s : State) (c : Nat) (x : GnbCh) : (s.setGch c x).dbgEn = s.dbgEn := by rfl
@[simp] theorem State.setGch_pending (s : State) (c : Nat) (x : GnbCh) : (s.setGch c x).pending = s.pending := by rfl
@[simp] theorem State.setGch_pdOn (s : State) (c : Nat) (x : GnbCh) (i : Nat) : (s.setGch c x).pdOn i = s.pdOn i := by rfl
@[simp] theorem State.setGch_busVerdict (s : State) (c : Nat) (x : GnbCh) (vi : Nat) (ve vw : Bool) (va vl : Nat) : (s.setGch c x).busVerdict vi ve vw va vl = s.busVerdict vi ve vw va vl := by rfl
@[simp] theorem State.setGch_t (s : State) (c : Nat) (x : GnbCh) : (s.setGch c x).t = s.t := by rfl
@[simp] theorem State.setGch_ring (s : State) (c : Nat) (x : GnbCh) (i : Nat) : (s.setGch c x).ring i = s.ring i := by rfl

@[simp] theorem State.setCan_gts (s : State) (k : Nat) (x : CanCtl) : (s.setCan k x).gts = s.gts := by rfl
@[simp] theorem State.setCan_mode (s : State) (k : Nat) (x : CanCtl) : (s.setCan k x).mode = s.mode := by rfl
@[simp] theorem State.setCan_start (s : State) (k : Nat) (x : CanCtl) : (s.setCan k x).start = s.start := by rfl
@[simp] theorem State.setCan_pd (s : State) (k : Nat) (x : CanCtl) : (s.setCan k x).pd = s.pd := by rfl
@[simp] theorem State.setCan_resp (s : State) (k : Nat) (x : CanCtl) : (s.setCan k x).resp = s.resp := by rfl
@[simp] theorem State.setCan_shadows (s : State) (k : Nat) (x : CanCtl) : (s.setCan k x).shadows = s.shadows := by rfl
@[simp] theorem State.setCan_mem (s : State) (k : Nat) (x : CanCtl) : (s.setCan k x).mem = s.mem := by rfl
@[simp] theorem State.setCan_sys (s : State) (k : Nat) (x : CanCtl) : (s.setCan k x).sys = s.sys := by rfl
@[simp] theorem State.setCan_tick (s : State) (k : Nat) (x : CanCtl) : (s.setCan k x).tick = s.tick := by rfl
@[simp] theorem State.setCan_hri (s : State) (k : Nat) (x : CanCtl) : (s.setCan k x).hri = s.hri := by rfl
@[simp] theorem State.setCan_fen (s : State) (k : Nat) (x : CanCtl) : (s.setCan k x).fen = s.fen := by rfl
@[simp] theorem State.setCan_recorder (s : State) (k : Nat) (x : CanCtl) : (s.setCan k x).recorder = s.recorder := by rfl
@[simp] theorem State.setCan_mbx (s : State) (k : Nat) (x : CanCtl) : (s.setCan k x).mbx = s.mbx := by rfl
@[simp] theorem State.setCan_bce (s : State) (k : Nat) (x : CanCtl) : (s.setCan k x).bce = s.bce := by rfl
@[simp] theorem State.setCan_fin (s : State) (k : Nat) (x : CanCtl) : (s.setCan k x).fin = s.fin := by rfl
@[simp] theorem State.setCan_lsw (s : State) (k : Nat) (x : CanCtl) : (s.setCan k x).lsw = s.lsw := by rfl
@[simp] theorem State.setCan_lko (s : State) (k : Nat) (x : CanCtl) : (s.setCan k x).lko = s.lko := by rfl
@[simp] theorem State.setCan_ipl (s : State) (k : Nat) (x : CanCtl) : (s.setCan k x).ipl = s.ipl := by rfl
@[simp] theorem State.setCan_gnb (s : State) (k : Nat) (x : CanCtl) : (s.setCan k x).gnb = s.gnb := by rfl
@[simp] theorem State.setCan_biv (s : State) (k : Nat) (x : CanCtl) : (s.setCan k x).biv = s.biv := by rfl
@[simp] theorem State.setCan_yld (s : State) (k : Nat) (x : CanCtl) : (s.setCan k x).yld = s.yld := by rfl
@[simp] theorem State.setCan_yarea (s : State) (k : Nat) (x : CanCtl) : (s.setCan k x).yarea = s.yarea := by rfl
@[simp] theorem State.setCan_pnl (s : State) (k : Nat) (x : CanCtl) : (s.setCan k x).pnl = s.pnl := by rfl
@[simp] theorem State.setCan_lh (s : State) (k : Nat) (x : CanCtl) : (s.setCan k x).lh = s.lh := by rfl
@[simp] theorem State.setCan_wk (s : State) (k : Nat) (x : CanCtl) : (s.setCan k x).wk = s.wk := by rfl
@[simp] theorem State.setCan_ropePos (s : State) (k : Nat) (x : CanCtl) : (s.setCan k x).ropePos = s.ropePos := by rfl
@[simp] theorem State.setCan_rtl (s : State) (k : Nat) (x : CanCtl) : (s.setCan k x).rtl = s.rtl := by rfl
@[simp] theorem State.setCan_boot (s : State) (k : Nat) (x : CanCtl) : (s.setCan k x).boot = s.boot := by rfl
@[simp] theorem State.setCan_upd (s : State) (k : Nat) (x : CanCtl) : (s.setCan k x).upd = s.upd := by rfl
@[simp] theorem State.setCan_dsc (s : State) (k : Nat) (x : CanCtl) : (s.setCan k x).dsc = s.dsc := by rfl
@[simp] theorem State.setCan_pwr (s : State) (k : Nat) (x : CanCtl) : (s.setCan k x).pwr = s.pwr := by rfl
@[simp] theorem State.setCan_dbgEn (s : State) (k : Nat) (x : CanCtl) : (s.setCan k x).dbgEn = s.dbgEn := by rfl
@[simp] theorem State.setCan_pending (s : State) (k : Nat) (x : CanCtl) : (s.setCan k x).pending = s.pending := by rfl
@[simp] theorem State.setCan_pdOn (s : State) (k : Nat) (x : CanCtl) (i : Nat) : (s.setCan k x).pdOn i = s.pdOn i := by rfl
@[simp] theorem State.setCan_busVerdict (s : State) (k : Nat) (x : CanCtl) (vi : Nat) (ve vw : Bool) (va vl : Nat) : (s.setCan k x).busVerdict vi ve vw va vl = s.busVerdict vi ve vw va vl := by rfl
@[simp] theorem State.setCan_t (s : State) (k : Nat) (x : CanCtl) : (s.setCan k x).t = s.t := by rfl
@[simp] theorem State.setCan_ring (s : State) (k : Nat) (x : CanCtl) (i : Nat) : (s.setCan k x).ring i = s.ring i := by rfl

@[simp] theorem State.setBuf_gts (s : State) (k b : Nat) (x : CanBuf) : (s.setBuf k b x).gts = s.gts := by rfl
@[simp] theorem State.setBuf_mode (s : State) (k b : Nat) (x : CanBuf) : (s.setBuf k b x).mode = s.mode := by rfl
@[simp] theorem State.setBuf_start (s : State) (k b : Nat) (x : CanBuf) : (s.setBuf k b x).start = s.start := by rfl
@[simp] theorem State.setBuf_pd (s : State) (k b : Nat) (x : CanBuf) : (s.setBuf k b x).pd = s.pd := by rfl
@[simp] theorem State.setBuf_resp (s : State) (k b : Nat) (x : CanBuf) : (s.setBuf k b x).resp = s.resp := by rfl
@[simp] theorem State.setBuf_shadows (s : State) (k b : Nat) (x : CanBuf) : (s.setBuf k b x).shadows = s.shadows := by rfl
@[simp] theorem State.setBuf_mem (s : State) (k b : Nat) (x : CanBuf) : (s.setBuf k b x).mem = s.mem := by rfl
@[simp] theorem State.setBuf_sys (s : State) (k b : Nat) (x : CanBuf) : (s.setBuf k b x).sys = s.sys := by rfl
@[simp] theorem State.setBuf_tick (s : State) (k b : Nat) (x : CanBuf) : (s.setBuf k b x).tick = s.tick := by rfl
@[simp] theorem State.setBuf_hri (s : State) (k b : Nat) (x : CanBuf) : (s.setBuf k b x).hri = s.hri := by rfl
@[simp] theorem State.setBuf_fen (s : State) (k b : Nat) (x : CanBuf) : (s.setBuf k b x).fen = s.fen := by rfl
@[simp] theorem State.setBuf_recorder (s : State) (k b : Nat) (x : CanBuf) : (s.setBuf k b x).recorder = s.recorder := by rfl
@[simp] theorem State.setBuf_mbx (s : State) (k b : Nat) (x : CanBuf) : (s.setBuf k b x).mbx = s.mbx := by rfl
@[simp] theorem State.setBuf_bce (s : State) (k b : Nat) (x : CanBuf) : (s.setBuf k b x).bce = s.bce := by rfl
@[simp] theorem State.setBuf_fin (s : State) (k b : Nat) (x : CanBuf) : (s.setBuf k b x).fin = s.fin := by rfl
@[simp] theorem State.setBuf_lsw (s : State) (k b : Nat) (x : CanBuf) : (s.setBuf k b x).lsw = s.lsw := by rfl
@[simp] theorem State.setBuf_lko (s : State) (k b : Nat) (x : CanBuf) : (s.setBuf k b x).lko = s.lko := by rfl
@[simp] theorem State.setBuf_ipl (s : State) (k b : Nat) (x : CanBuf) : (s.setBuf k b x).ipl = s.ipl := by rfl
@[simp] theorem State.setBuf_gnb (s : State) (k b : Nat) (x : CanBuf) : (s.setBuf k b x).gnb = s.gnb := by rfl
@[simp] theorem State.setBuf_biv (s : State) (k b : Nat) (x : CanBuf) : (s.setBuf k b x).biv = s.biv := by rfl
@[simp] theorem State.setBuf_yld (s : State) (k b : Nat) (x : CanBuf) : (s.setBuf k b x).yld = s.yld := by rfl
@[simp] theorem State.setBuf_yarea (s : State) (k b : Nat) (x : CanBuf) : (s.setBuf k b x).yarea = s.yarea := by rfl
@[simp] theorem State.setBuf_pnl (s : State) (k b : Nat) (x : CanBuf) : (s.setBuf k b x).pnl = s.pnl := by rfl
@[simp] theorem State.setBuf_lh (s : State) (k b : Nat) (x : CanBuf) : (s.setBuf k b x).lh = s.lh := by rfl
@[simp] theorem State.setBuf_wk (s : State) (k b : Nat) (x : CanBuf) : (s.setBuf k b x).wk = s.wk := by rfl
@[simp] theorem State.setBuf_ropePos (s : State) (k b : Nat) (x : CanBuf) : (s.setBuf k b x).ropePos = s.ropePos := by rfl
@[simp] theorem State.setBuf_rtl (s : State) (k b : Nat) (x : CanBuf) : (s.setBuf k b x).rtl = s.rtl := by rfl
@[simp] theorem State.setBuf_boot (s : State) (k b : Nat) (x : CanBuf) : (s.setBuf k b x).boot = s.boot := by rfl
@[simp] theorem State.setBuf_upd (s : State) (k b : Nat) (x : CanBuf) : (s.setBuf k b x).upd = s.upd := by rfl
@[simp] theorem State.setBuf_dsc (s : State) (k b : Nat) (x : CanBuf) : (s.setBuf k b x).dsc = s.dsc := by rfl
@[simp] theorem State.setBuf_pwr (s : State) (k b : Nat) (x : CanBuf) : (s.setBuf k b x).pwr = s.pwr := by rfl
@[simp] theorem State.setBuf_dbgEn (s : State) (k b : Nat) (x : CanBuf) : (s.setBuf k b x).dbgEn = s.dbgEn := by rfl
@[simp] theorem State.setBuf_pending (s : State) (k b : Nat) (x : CanBuf) : (s.setBuf k b x).pending = s.pending := by rfl
@[simp] theorem State.setBuf_pdOn (s : State) (k b : Nat) (x : CanBuf) (i : Nat) : (s.setBuf k b x).pdOn i = s.pdOn i := by rfl
@[simp] theorem State.setBuf_busVerdict (s : State) (k b : Nat) (x : CanBuf) (vi : Nat) (ve vw : Bool) (va vl : Nat) : (s.setBuf k b x).busVerdict vi ve vw va vl = s.busVerdict vi ve vw va vl := by rfl
@[simp] theorem State.setBuf_t (s : State) (k b : Nat) (x : CanBuf) : (s.setBuf k b x).t = s.t := by rfl
@[simp] theorem State.setBuf_ring (s : State) (k b : Nat) (x : CanBuf) (i : Nat) : (s.setBuf k b x).ring i = s.ring i := by rfl

@[simp] theorem finishOp_gts (s : State) (c : OpRef) (st x : Nat) (r0 r1 : Word) : (finishOp c st x r0 r1 s).gts = s.gts := by rfl
@[simp] theorem finishOp_mode (s : State) (c : OpRef) (st x : Nat) (r0 r1 : Word) : (finishOp c st x r0 r1 s).mode = s.mode := by rfl
@[simp] theorem finishOp_start (s : State) (c : OpRef) (st x : Nat) (r0 r1 : Word) : (finishOp c st x r0 r1 s).start = s.start := by rfl
@[simp] theorem finishOp_pd (s : State) (c : OpRef) (st x : Nat) (r0 r1 : Word) : (finishOp c st x r0 r1 s).pd = s.pd := by rfl
@[simp] theorem finishOp_resp (s : State) (c : OpRef) (st x : Nat) (r0 r1 : Word) : (finishOp c st x r0 r1 s).resp = s.resp := by rfl
@[simp] theorem finishOp_shadows (s : State) (c : OpRef) (st x : Nat) (r0 r1 : Word) : (finishOp c st x r0 r1 s).shadows = s.shadows := by rfl
@[simp] theorem finishOp_mem (s : State) (c : OpRef) (st x : Nat) (r0 r1 : Word) : (finishOp c st x r0 r1 s).mem = s.mem := by rfl
@[simp] theorem finishOp_sys (s : State) (c : OpRef) (st x : Nat) (r0 r1 : Word) : (finishOp c st x r0 r1 s).sys = s.sys := by rfl
@[simp] theorem finishOp_tick (s : State) (c : OpRef) (st x : Nat) (r0 r1 : Word) : (finishOp c st x r0 r1 s).tick = s.tick := by rfl
@[simp] theorem finishOp_fen (s : State) (c : OpRef) (st x : Nat) (r0 r1 : Word) : (finishOp c st x r0 r1 s).fen = s.fen := by rfl
@[simp] theorem finishOp_recorder (s : State) (c : OpRef) (st x : Nat) (r0 r1 : Word) : (finishOp c st x r0 r1 s).recorder = s.recorder := by rfl
@[simp] theorem finishOp_mbx (s : State) (c : OpRef) (st x : Nat) (r0 r1 : Word) : (finishOp c st x r0 r1 s).mbx = s.mbx := by rfl
@[simp] theorem finishOp_bce (s : State) (c : OpRef) (st x : Nat) (r0 r1 : Word) : (finishOp c st x r0 r1 s).bce = s.bce := by rfl
@[simp] theorem finishOp_fin (s : State) (c : OpRef) (st x : Nat) (r0 r1 : Word) : (finishOp c st x r0 r1 s).fin = s.fin := by rfl
@[simp] theorem finishOp_lsw (s : State) (c : OpRef) (st x : Nat) (r0 r1 : Word) : (finishOp c st x r0 r1 s).lsw = s.lsw := by rfl
@[simp] theorem finishOp_can (s : State) (c : OpRef) (st x : Nat) (r0 r1 : Word) : (finishOp c st x r0 r1 s).can = s.can := by rfl
@[simp] theorem finishOp_lko (s : State) (c : OpRef) (st x : Nat) (r0 r1 : Word) : (finishOp c st x r0 r1 s).lko = s.lko := by rfl
@[simp] theorem finishOp_ipl (s : State) (c : OpRef) (st x : Nat) (r0 r1 : Word) : (finishOp c st x r0 r1 s).ipl = s.ipl := by rfl
@[simp] theorem finishOp_gnb (s : State) (c : OpRef) (st x : Nat) (r0 r1 : Word) : (finishOp c st x r0 r1 s).gnb = s.gnb := by rfl
@[simp] theorem finishOp_biv (s : State) (c : OpRef) (st x : Nat) (r0 r1 : Word) : (finishOp c st x r0 r1 s).biv = s.biv := by rfl
@[simp] theorem finishOp_yld (s : State) (c : OpRef) (st x : Nat) (r0 r1 : Word) : (finishOp c st x r0 r1 s).yld = s.yld := by rfl
@[simp] theorem finishOp_yarea (s : State) (c : OpRef) (st x : Nat) (r0 r1 : Word) : (finishOp c st x r0 r1 s).yarea = s.yarea := by rfl
@[simp] theorem finishOp_pnl (s : State) (c : OpRef) (st x : Nat) (r0 r1 : Word) : (finishOp c st x r0 r1 s).pnl = s.pnl := by rfl
@[simp] theorem finishOp_lh (s : State) (c : OpRef) (st x : Nat) (r0 r1 : Word) : (finishOp c st x r0 r1 s).lh = s.lh := by rfl
@[simp] theorem finishOp_wk (s : State) (c : OpRef) (st x : Nat) (r0 r1 : Word) : (finishOp c st x r0 r1 s).wk = s.wk := by rfl
@[simp] theorem finishOp_ropePos (s : State) (c : OpRef) (st x : Nat) (r0 r1 : Word) : (finishOp c st x r0 r1 s).ropePos = s.ropePos := by rfl
@[simp] theorem finishOp_rtl (s : State) (c : OpRef) (st x : Nat) (r0 r1 : Word) : (finishOp c st x r0 r1 s).rtl = s.rtl := by rfl
@[simp] theorem finishOp_boot (s : State) (c : OpRef) (st x : Nat) (r0 r1 : Word) : (finishOp c st x r0 r1 s).boot = s.boot := by rfl
@[simp] theorem finishOp_upd (s : State) (c : OpRef) (st x : Nat) (r0 r1 : Word) : (finishOp c st x r0 r1 s).upd = s.upd := by rfl
@[simp] theorem finishOp_dsc (s : State) (c : OpRef) (st x : Nat) (r0 r1 : Word) : (finishOp c st x r0 r1 s).dsc = s.dsc := by rfl
@[simp] theorem finishOp_pwr (s : State) (c : OpRef) (st x : Nat) (r0 r1 : Word) : (finishOp c st x r0 r1 s).pwr = s.pwr := by rfl
@[simp] theorem finishOp_dbgEn (s : State) (c : OpRef) (st x : Nat) (r0 r1 : Word) : (finishOp c st x r0 r1 s).dbgEn = s.dbgEn := by rfl
@[simp] theorem finishOp_pending (s : State) (c : OpRef) (st x : Nat) (r0 r1 : Word) : (finishOp c st x r0 r1 s).pending = s.pending := by rfl

@[simp] theorem finishAt_gts (s : State) (g : Nat) (c : OpRef) (st x : Nat) (r0 r1 : Word) : (finishAt g c st x r0 r1 s).gts = s.gts := by rfl
@[simp] theorem finishAt_mode (s : State) (g : Nat) (c : OpRef) (st x : Nat) (r0 r1 : Word) : (finishAt g c st x r0 r1 s).mode = s.mode := by rfl
@[simp] theorem finishAt_start (s : State) (g : Nat) (c : OpRef) (st x : Nat) (r0 r1 : Word) : (finishAt g c st x r0 r1 s).start = s.start := by rfl
@[simp] theorem finishAt_pd (s : State) (g : Nat) (c : OpRef) (st x : Nat) (r0 r1 : Word) : (finishAt g c st x r0 r1 s).pd = s.pd := by rfl
@[simp] theorem finishAt_resp (s : State) (g : Nat) (c : OpRef) (st x : Nat) (r0 r1 : Word) : (finishAt g c st x r0 r1 s).resp = s.resp := by rfl
@[simp] theorem finishAt_shadows (s : State) (g : Nat) (c : OpRef) (st x : Nat) (r0 r1 : Word) : (finishAt g c st x r0 r1 s).shadows = s.shadows := by rfl
@[simp] theorem finishAt_mem (s : State) (g : Nat) (c : OpRef) (st x : Nat) (r0 r1 : Word) : (finishAt g c st x r0 r1 s).mem = s.mem := by rfl
@[simp] theorem finishAt_sys (s : State) (g : Nat) (c : OpRef) (st x : Nat) (r0 r1 : Word) : (finishAt g c st x r0 r1 s).sys = s.sys := by rfl
@[simp] theorem finishAt_tick (s : State) (g : Nat) (c : OpRef) (st x : Nat) (r0 r1 : Word) : (finishAt g c st x r0 r1 s).tick = s.tick := by rfl
@[simp] theorem finishAt_fen (s : State) (g : Nat) (c : OpRef) (st x : Nat) (r0 r1 : Word) : (finishAt g c st x r0 r1 s).fen = s.fen := by rfl
@[simp] theorem finishAt_recorder (s : State) (g : Nat) (c : OpRef) (st x : Nat) (r0 r1 : Word) : (finishAt g c st x r0 r1 s).recorder = s.recorder := by rfl
@[simp] theorem finishAt_mbx (s : State) (g : Nat) (c : OpRef) (st x : Nat) (r0 r1 : Word) : (finishAt g c st x r0 r1 s).mbx = s.mbx := by rfl
@[simp] theorem finishAt_bce (s : State) (g : Nat) (c : OpRef) (st x : Nat) (r0 r1 : Word) : (finishAt g c st x r0 r1 s).bce = s.bce := by rfl
@[simp] theorem finishAt_fin (s : State) (g : Nat) (c : OpRef) (st x : Nat) (r0 r1 : Word) : (finishAt g c st x r0 r1 s).fin = s.fin := by rfl
@[simp] theorem finishAt_lsw (s : State) (g : Nat) (c : OpRef) (st x : Nat) (r0 r1 : Word) : (finishAt g c st x r0 r1 s).lsw = s.lsw := by rfl
@[simp] theorem finishAt_can (s : State) (g : Nat) (c : OpRef) (st x : Nat) (r0 r1 : Word) : (finishAt g c st x r0 r1 s).can = s.can := by rfl
@[simp] theorem finishAt_lko (s : State) (g : Nat) (c : OpRef) (st x : Nat) (r0 r1 : Word) : (finishAt g c st x r0 r1 s).lko = s.lko := by rfl
@[simp] theorem finishAt_ipl (s : State) (g : Nat) (c : OpRef) (st x : Nat) (r0 r1 : Word) : (finishAt g c st x r0 r1 s).ipl = s.ipl := by rfl
@[simp] theorem finishAt_gnb (s : State) (g : Nat) (c : OpRef) (st x : Nat) (r0 r1 : Word) : (finishAt g c st x r0 r1 s).gnb = s.gnb := by rfl
@[simp] theorem finishAt_biv (s : State) (g : Nat) (c : OpRef) (st x : Nat) (r0 r1 : Word) : (finishAt g c st x r0 r1 s).biv = s.biv := by rfl
@[simp] theorem finishAt_yld (s : State) (g : Nat) (c : OpRef) (st x : Nat) (r0 r1 : Word) : (finishAt g c st x r0 r1 s).yld = s.yld := by rfl
@[simp] theorem finishAt_yarea (s : State) (g : Nat) (c : OpRef) (st x : Nat) (r0 r1 : Word) : (finishAt g c st x r0 r1 s).yarea = s.yarea := by rfl
@[simp] theorem finishAt_pnl (s : State) (g : Nat) (c : OpRef) (st x : Nat) (r0 r1 : Word) : (finishAt g c st x r0 r1 s).pnl = s.pnl := by rfl
@[simp] theorem finishAt_lh (s : State) (g : Nat) (c : OpRef) (st x : Nat) (r0 r1 : Word) : (finishAt g c st x r0 r1 s).lh = s.lh := by rfl
@[simp] theorem finishAt_wk (s : State) (g : Nat) (c : OpRef) (st x : Nat) (r0 r1 : Word) : (finishAt g c st x r0 r1 s).wk = s.wk := by rfl
@[simp] theorem finishAt_ropePos (s : State) (g : Nat) (c : OpRef) (st x : Nat) (r0 r1 : Word) : (finishAt g c st x r0 r1 s).ropePos = s.ropePos := by rfl
@[simp] theorem finishAt_rtl (s : State) (g : Nat) (c : OpRef) (st x : Nat) (r0 r1 : Word) : (finishAt g c st x r0 r1 s).rtl = s.rtl := by rfl
@[simp] theorem finishAt_boot (s : State) (g : Nat) (c : OpRef) (st x : Nat) (r0 r1 : Word) : (finishAt g c st x r0 r1 s).boot = s.boot := by rfl
@[simp] theorem finishAt_upd (s : State) (g : Nat) (c : OpRef) (st x : Nat) (r0 r1 : Word) : (finishAt g c st x r0 r1 s).upd = s.upd := by rfl
@[simp] theorem finishAt_dsc (s : State) (g : Nat) (c : OpRef) (st x : Nat) (r0 r1 : Word) : (finishAt g c st x r0 r1 s).dsc = s.dsc := by rfl
@[simp] theorem finishAt_pwr (s : State) (g : Nat) (c : OpRef) (st x : Nat) (r0 r1 : Word) : (finishAt g c st x r0 r1 s).pwr = s.pwr := by rfl
@[simp] theorem finishAt_dbgEn (s : State) (g : Nat) (c : OpRef) (st x : Nat) (r0 r1 : Word) : (finishAt g c st x r0 r1 s).dbgEn = s.dbgEn := by rfl
@[simp] theorem finishAt_pending (s : State) (g : Nat) (c : OpRef) (st x : Nat) (r0 r1 : Word) : (finishAt g c st x r0 r1 s).pending = s.pending := by rfl

@[simp] theorem failOp_gts (s : State) (c : OpRef) (st x : Nat) : (failOp c st x s).gts = s.gts := by rfl
@[simp] theorem failOp_mode (s : State) (c : OpRef) (st x : Nat) : (failOp c st x s).mode = s.mode := by rfl
@[simp] theorem failOp_start (s : State) (c : OpRef) (st x : Nat) : (failOp c st x s).start = s.start := by rfl
@[simp] theorem failOp_pd (s : State) (c : OpRef) (st x : Nat) : (failOp c st x s).pd = s.pd := by rfl
@[simp] theorem failOp_resp (s : State) (c : OpRef) (st x : Nat) : (failOp c st x s).resp = s.resp := by rfl
@[simp] theorem failOp_shadows (s : State) (c : OpRef) (st x : Nat) : (failOp c st x s).shadows = s.shadows := by rfl
@[simp] theorem failOp_mem (s : State) (c : OpRef) (st x : Nat) : (failOp c st x s).mem = s.mem := by rfl
@[simp] theorem failOp_sys (s : State) (c : OpRef) (st x : Nat) : (failOp c st x s).sys = s.sys := by rfl
@[simp] theorem failOp_tick (s : State) (c : OpRef) (st x : Nat) : (failOp c st x s).tick = s.tick := by rfl
@[simp] theorem failOp_fen (s : State) (c : OpRef) (st x : Nat) : (failOp c st x s).fen = s.fen := by rfl
@[simp] theorem failOp_recorder (s : State) (c : OpRef) (st x : Nat) : (failOp c st x s).recorder = s.recorder := by rfl
@[simp] theorem failOp_mbx (s : State) (c : OpRef) (st x : Nat) : (failOp c st x s).mbx = s.mbx := by rfl
@[simp] theorem failOp_bce (s : State) (c : OpRef) (st x : Nat) : (failOp c st x s).bce = s.bce := by rfl
@[simp] theorem failOp_fin (s : State) (c : OpRef) (st x : Nat) : (failOp c st x s).fin = s.fin := by rfl
@[simp] theorem failOp_lsw (s : State) (c : OpRef) (st x : Nat) : (failOp c st x s).lsw = s.lsw := by rfl
@[simp] theorem failOp_can (s : State) (c : OpRef) (st x : Nat) : (failOp c st x s).can = s.can := by rfl
@[simp] theorem failOp_lko (s : State) (c : OpRef) (st x : Nat) : (failOp c st x s).lko = s.lko := by rfl
@[simp] theorem failOp_ipl (s : State) (c : OpRef) (st x : Nat) : (failOp c st x s).ipl = s.ipl := by rfl
@[simp] theorem failOp_gnb (s : State) (c : OpRef) (st x : Nat) : (failOp c st x s).gnb = s.gnb := by rfl
@[simp] theorem failOp_biv (s : State) (c : OpRef) (st x : Nat) : (failOp c st x s).biv = s.biv := by rfl
@[simp] theorem failOp_yld (s : State) (c : OpRef) (st x : Nat) : (failOp c st x s).yld = s.yld := by rfl
@[simp] theorem failOp_yarea (s : State) (c : OpRef) (st x : Nat) : (failOp c st x s).yarea = s.yarea := by rfl
@[simp] theorem failOp_pnl (s : State) (c : OpRef) (st x : Nat) : (failOp c st x s).pnl = s.pnl := by rfl
@[simp] theorem failOp_lh (s : State) (c : OpRef) (st x : Nat) : (failOp c st x s).lh = s.lh := by rfl
@[simp] theorem failOp_wk (s : State) (c : OpRef) (st x : Nat) : (failOp c st x s).wk = s.wk := by rfl
@[simp] theorem failOp_ropePos (s : State) (c : OpRef) (st x : Nat) : (failOp c st x s).ropePos = s.ropePos := by rfl
@[simp] theorem failOp_rtl (s : State) (c : OpRef) (st x : Nat) : (failOp c st x s).rtl = s.rtl := by rfl
@[simp] theorem failOp_boot (s : State) (c : OpRef) (st x : Nat) : (failOp c st x s).boot = s.boot := by rfl
@[simp] theorem failOp_upd (s : State) (c : OpRef) (st x : Nat) : (failOp c st x s).upd = s.upd := by rfl
@[simp] theorem failOp_dsc (s : State) (c : OpRef) (st x : Nat) : (failOp c st x s).dsc = s.dsc := by rfl
@[simp] theorem failOp_pwr (s : State) (c : OpRef) (st x : Nat) : (failOp c st x s).pwr = s.pwr := by rfl
@[simp] theorem failOp_dbgEn (s : State) (c : OpRef) (st x : Nat) : (failOp c st x s).dbgEn = s.dbgEn := by rfl
@[simp] theorem failOp_pending (s : State) (c : OpRef) (st x : Nat) : (failOp c st x s).pending = s.pending := by rfl

@[simp] theorem startOp_gts (s : State) (c : OpRef) (aux : List Nat) : (startOp c aux s).gts = s.gts := by rfl
@[simp] theorem startOp_mode (s : State) (c : OpRef) (aux : List Nat) : (startOp c aux s).mode = s.mode := by rfl
@[simp] theorem startOp_start (s : State) (c : OpRef) (aux : List Nat) : (startOp c aux s).start = s.start := by rfl
@[simp] theorem startOp_pd (s : State) (c : OpRef) (aux : List Nat) : (startOp c aux s).pd = s.pd := by rfl
@[simp] theorem startOp_resp (s : State) (c : OpRef) (aux : List Nat) : (startOp c aux s).resp = s.resp := by rfl
@[simp] theorem startOp_shadows (s : State) (c : OpRef) (aux : List Nat) : (startOp c aux s).shadows = s.shadows := by rfl
@[simp] theorem startOp_mem (s : State) (c : OpRef) (aux : List Nat) : (startOp c aux s).mem = s.mem := by rfl
@[simp] theorem startOp_sys (s : State) (c : OpRef) (aux : List Nat) : (startOp c aux s).sys = s.sys := by rfl
@[simp] theorem startOp_tick (s : State) (c : OpRef) (aux : List Nat) : (startOp c aux s).tick = s.tick := by rfl
@[simp] theorem startOp_fen (s : State) (c : OpRef) (aux : List Nat) : (startOp c aux s).fen = s.fen := by rfl
@[simp] theorem startOp_recorder (s : State) (c : OpRef) (aux : List Nat) : (startOp c aux s).recorder = s.recorder := by rfl
@[simp] theorem startOp_mbx (s : State) (c : OpRef) (aux : List Nat) : (startOp c aux s).mbx = s.mbx := by rfl
@[simp] theorem startOp_bce (s : State) (c : OpRef) (aux : List Nat) : (startOp c aux s).bce = s.bce := by rfl
@[simp] theorem startOp_fin (s : State) (c : OpRef) (aux : List Nat) : (startOp c aux s).fin = s.fin := by rfl
@[simp] theorem startOp_lsw (s : State) (c : OpRef) (aux : List Nat) : (startOp c aux s).lsw = s.lsw := by rfl
@[simp] theorem startOp_can (s : State) (c : OpRef) (aux : List Nat) : (startOp c aux s).can = s.can := by rfl
@[simp] theorem startOp_lko (s : State) (c : OpRef) (aux : List Nat) : (startOp c aux s).lko = s.lko := by rfl
@[simp] theorem startOp_ipl (s : State) (c : OpRef) (aux : List Nat) : (startOp c aux s).ipl = s.ipl := by rfl
@[simp] theorem startOp_gnb (s : State) (c : OpRef) (aux : List Nat) : (startOp c aux s).gnb = s.gnb := by rfl
@[simp] theorem startOp_biv (s : State) (c : OpRef) (aux : List Nat) : (startOp c aux s).biv = s.biv := by rfl
@[simp] theorem startOp_yld (s : State) (c : OpRef) (aux : List Nat) : (startOp c aux s).yld = s.yld := by rfl
@[simp] theorem startOp_yarea (s : State) (c : OpRef) (aux : List Nat) : (startOp c aux s).yarea = s.yarea := by rfl
@[simp] theorem startOp_pnl (s : State) (c : OpRef) (aux : List Nat) : (startOp c aux s).pnl = s.pnl := by rfl
@[simp] theorem startOp_lh (s : State) (c : OpRef) (aux : List Nat) : (startOp c aux s).lh = s.lh := by rfl
@[simp] theorem startOp_wk (s : State) (c : OpRef) (aux : List Nat) : (startOp c aux s).wk = s.wk := by rfl
@[simp] theorem startOp_ropePos (s : State) (c : OpRef) (aux : List Nat) : (startOp c aux s).ropePos = s.ropePos := by rfl
@[simp] theorem startOp_rtl (s : State) (c : OpRef) (aux : List Nat) : (startOp c aux s).rtl = s.rtl := by rfl
@[simp] theorem startOp_boot (s : State) (c : OpRef) (aux : List Nat) : (startOp c aux s).boot = s.boot := by rfl
@[simp] theorem startOp_upd (s : State) (c : OpRef) (aux : List Nat) : (startOp c aux s).upd = s.upd := by rfl
@[simp] theorem startOp_dsc (s : State) (c : OpRef) (aux : List Nat) : (startOp c aux s).dsc = s.dsc := by rfl
@[simp] theorem startOp_pwr (s : State) (c : OpRef) (aux : List Nat) : (startOp c aux s).pwr = s.pwr := by rfl
@[simp] theorem startOp_dbgEn (s : State) (c : OpRef) (aux : List Nat) : (startOp c aux s).dbgEn = s.dbgEn := by rfl
@[simp] theorem startOp_pending (s : State) (c : OpRef) (aux : List Nat) : (startOp c aux s).pending = s.pending := by rfl

@[simp] theorem startRead_gts (s : State) (c : OpRef) (aux : List Nat) : (startRead c aux s).gts = s.gts := by rfl
@[simp] theorem startRead_mode (s : State) (c : OpRef) (aux : List Nat) : (startRead c aux s).mode = s.mode := by rfl
@[simp] theorem startRead_start (s : State) (c : OpRef) (aux : List Nat) : (startRead c aux s).start = s.start := by rfl
@[simp] theorem startRead_pd (s : State) (c : OpRef) (aux : List Nat) : (startRead c aux s).pd = s.pd := by rfl
@[simp] theorem startRead_resp (s : State) (c : OpRef) (aux : List Nat) : (startRead c aux s).resp = s.resp := by rfl
@[simp] theorem startRead_shadows (s : State) (c : OpRef) (aux : List Nat) : (startRead c aux s).shadows = s.shadows := by rfl
@[simp] theorem startRead_mem (s : State) (c : OpRef) (aux : List Nat) : (startRead c aux s).mem = s.mem := by rfl
@[simp] theorem startRead_sys (s : State) (c : OpRef) (aux : List Nat) : (startRead c aux s).sys = s.sys := by rfl
@[simp] theorem startRead_tick (s : State) (c : OpRef) (aux : List Nat) : (startRead c aux s).tick = s.tick := by rfl
@[simp] theorem startRead_fen (s : State) (c : OpRef) (aux : List Nat) : (startRead c aux s).fen = s.fen := by rfl
@[simp] theorem startRead_recorder (s : State) (c : OpRef) (aux : List Nat) : (startRead c aux s).recorder = s.recorder := by rfl
@[simp] theorem startRead_mbx (s : State) (c : OpRef) (aux : List Nat) : (startRead c aux s).mbx = s.mbx := by rfl
@[simp] theorem startRead_bce (s : State) (c : OpRef) (aux : List Nat) : (startRead c aux s).bce = s.bce := by rfl
@[simp] theorem startRead_fin (s : State) (c : OpRef) (aux : List Nat) : (startRead c aux s).fin = s.fin := by rfl
@[simp] theorem startRead_lsw (s : State) (c : OpRef) (aux : List Nat) : (startRead c aux s).lsw = s.lsw := by rfl
@[simp] theorem startRead_can (s : State) (c : OpRef) (aux : List Nat) : (startRead c aux s).can = s.can := by rfl
@[simp] theorem startRead_lko (s : State) (c : OpRef) (aux : List Nat) : (startRead c aux s).lko = s.lko := by rfl
@[simp] theorem startRead_ipl (s : State) (c : OpRef) (aux : List Nat) : (startRead c aux s).ipl = s.ipl := by rfl
@[simp] theorem startRead_gnb (s : State) (c : OpRef) (aux : List Nat) : (startRead c aux s).gnb = s.gnb := by rfl
@[simp] theorem startRead_biv (s : State) (c : OpRef) (aux : List Nat) : (startRead c aux s).biv = s.biv := by rfl
@[simp] theorem startRead_yld (s : State) (c : OpRef) (aux : List Nat) : (startRead c aux s).yld = s.yld := by rfl
@[simp] theorem startRead_yarea (s : State) (c : OpRef) (aux : List Nat) : (startRead c aux s).yarea = s.yarea := by rfl
@[simp] theorem startRead_pnl (s : State) (c : OpRef) (aux : List Nat) : (startRead c aux s).pnl = s.pnl := by rfl
@[simp] theorem startRead_lh (s : State) (c : OpRef) (aux : List Nat) : (startRead c aux s).lh = s.lh := by rfl
@[simp] theorem startRead_wk (s : State) (c : OpRef) (aux : List Nat) : (startRead c aux s).wk = s.wk := by rfl
@[simp] theorem startRead_ropePos (s : State) (c : OpRef) (aux : List Nat) : (startRead c aux s).ropePos = s.ropePos := by rfl
@[simp] theorem startRead_rtl (s : State) (c : OpRef) (aux : List Nat) : (startRead c aux s).rtl = s.rtl := by rfl
@[simp] theorem startRead_boot (s : State) (c : OpRef) (aux : List Nat) : (startRead c aux s).boot = s.boot := by rfl
@[simp] theorem startRead_upd (s : State) (c : OpRef) (aux : List Nat) : (startRead c aux s).upd = s.upd := by rfl
@[simp] theorem startRead_dsc (s : State) (c : OpRef) (aux : List Nat) : (startRead c aux s).dsc = s.dsc := by rfl
@[simp] theorem startRead_pwr (s : State) (c : OpRef) (aux : List Nat) : (startRead c aux s).pwr = s.pwr := by rfl
@[simp] theorem startRead_dbgEn (s : State) (c : OpRef) (aux : List Nat) : (startRead c aux s).dbgEn = s.dbgEn := by rfl
@[simp] theorem startRead_pending (s : State) (c : OpRef) (aux : List Nat) : (startRead c aux s).pending = s.pending := by rfl

/-! ### Time passing -/

@[simp] theorem State.advance_mode (s : State) (g : Nat) : (s.advance g).mode = s.mode := by unfold State.advance; split <;> rfl
@[simp] theorem State.advance_start (s : State) (g : Nat) : (s.advance g).start = s.start := by unfold State.advance; split <;> rfl
@[simp] theorem State.advance_pd (s : State) (g : Nat) : (s.advance g).pd = s.pd := by unfold State.advance; split <;> rfl
@[simp] theorem State.advance_resp (s : State) (g : Nat) : (s.advance g).resp = s.resp := by unfold State.advance; split <;> rfl
@[simp] theorem State.advance_shadows (s : State) (g : Nat) : (s.advance g).shadows = s.shadows := by unfold State.advance; split <;> rfl
@[simp] theorem State.advance_mem (s : State) (g : Nat) : (s.advance g).mem = s.mem := by unfold State.advance; split <;> rfl
@[simp] theorem State.advance_sys (s : State) (g : Nat) : (s.advance g).sys = s.sys := by unfold State.advance; split <;> rfl
@[simp] theorem State.advance_tick (s : State) (g : Nat) : (s.advance g).tick = s.tick := by unfold State.advance; split <;> rfl
@[simp] theorem State.advance_hri (s : State) (g : Nat) : (s.advance g).hri = s.hri := by unfold State.advance; split <;> rfl
@[simp] theorem State.advance_fen (s : State) (g : Nat) : (s.advance g).fen = s.fen := by unfold State.advance; split <;> rfl
@[simp] theorem State.advance_recorder (s : State) (g : Nat) : (s.advance g).recorder = s.recorder := by unfold State.advance; split <;> rfl
@[simp] theorem State.advance_mbx (s : State) (g : Nat) : (s.advance g).mbx = s.mbx := by unfold State.advance; split <;> rfl
@[simp] theorem State.advance_bce (s : State) (g : Nat) : (s.advance g).bce = s.bce := by unfold State.advance; split <;> rfl
@[simp] theorem State.advance_fin (s : State) (g : Nat) : (s.advance g).fin = s.fin := by unfold State.advance; split <;> rfl
@[simp] theorem State.advance_lsw (s : State) (g : Nat) : (s.advance g).lsw = s.lsw := by unfold State.advance; split <;> rfl
@[simp] theorem State.advance_can (s : State) (g : Nat) : (s.advance g).can = s.can := by unfold State.advance; split <;> rfl
@[simp] theorem State.advance_lko (s : State) (g : Nat) : (s.advance g).lko = s.lko := by unfold State.advance; split <;> rfl
@[simp] theorem State.advance_ipl (s : State) (g : Nat) : (s.advance g).ipl = s.ipl := by unfold State.advance; split <;> rfl
@[simp] theorem State.advance_gnb (s : State) (g : Nat) : (s.advance g).gnb = s.gnb := by unfold State.advance; split <;> rfl
@[simp] theorem State.advance_biv (s : State) (g : Nat) : (s.advance g).biv = s.biv := by unfold State.advance; split <;> rfl
@[simp] theorem State.advance_yld (s : State) (g : Nat) : (s.advance g).yld = s.yld := by unfold State.advance; split <;> rfl
@[simp] theorem State.advance_yarea (s : State) (g : Nat) : (s.advance g).yarea = s.yarea := by unfold State.advance; split <;> rfl
@[simp] theorem State.advance_pnl (s : State) (g : Nat) : (s.advance g).pnl = s.pnl := by unfold State.advance; split <;> rfl
@[simp] theorem State.advance_lh (s : State) (g : Nat) : (s.advance g).lh = s.lh := by unfold State.advance; split <;> rfl
@[simp] theorem State.advance_wk (s : State) (g : Nat) : (s.advance g).wk = s.wk := by unfold State.advance; split <;> rfl
@[simp] theorem State.advance_ropePos (s : State) (g : Nat) : (s.advance g).ropePos = s.ropePos := by unfold State.advance; split <;> rfl
@[simp] theorem State.advance_rtl (s : State) (g : Nat) : (s.advance g).rtl = s.rtl := by unfold State.advance; split <;> rfl
@[simp] theorem State.advance_boot (s : State) (g : Nat) : (s.advance g).boot = s.boot := by unfold State.advance; split <;> rfl
@[simp] theorem State.advance_upd (s : State) (g : Nat) : (s.advance g).upd = s.upd := by unfold State.advance; split <;> rfl
@[simp] theorem State.advance_dsc (s : State) (g : Nat) : (s.advance g).dsc = s.dsc := by unfold State.advance; split <;> rfl
@[simp] theorem State.advance_pwr (s : State) (g : Nat) : (s.advance g).pwr = s.pwr := by unfold State.advance; split <;> rfl
@[simp] theorem State.advance_dbgEn (s : State) (g : Nat) : (s.advance g).dbgEn = s.dbgEn := by unfold State.advance; split <;> rfl
@[simp] theorem State.advance_pending (s : State) (g : Nat) : (s.advance g).pending = s.pending := by unfold State.advance; split <;> rfl

/-! ### Raising an event -/

@[simp] theorem stageRecord_gts (s : State) (r : List Word) : (stageRecord s r).gts = s.gts := by unfold stageRecord; dsimp only; split <;> rfl
@[simp] theorem stageRecord_mode (s : State) (r : List Word) : (stageRecord s r).mode = s.mode := by unfold stageRecord; dsimp only; split <;> rfl
@[simp] theorem stageRecord_start (s : State) (r : List Word) : (stageRecord s r).start = s.start := by unfold stageRecord; dsimp only; split <;> rfl
@[simp] theorem stageRecord_pd (s : State) (r : List Word) : (stageRecord s r).pd = s.pd := by unfold stageRecord; dsimp only; split <;> rfl
@[simp] theorem stageRecord_resp (s : State) (r : List Word) : (stageRecord s r).resp = s.resp := by unfold stageRecord; dsimp only; split <;> rfl
@[simp] theorem stageRecord_shadows (s : State) (r : List Word) : (stageRecord s r).shadows = s.shadows := by unfold stageRecord; dsimp only; split <;> rfl
@[simp] theorem stageRecord_mem (s : State) (r : List Word) : (stageRecord s r).mem = s.mem := by unfold stageRecord; dsimp only; split <;> rfl
@[simp] theorem stageRecord_tick (s : State) (r : List Word) : (stageRecord s r).tick = s.tick := by unfold stageRecord; dsimp only; split <;> rfl
@[simp] theorem stageRecord_hri (s : State) (r : List Word) : (stageRecord s r).hri = s.hri := by unfold stageRecord; dsimp only; split <;> rfl
@[simp] theorem stageRecord_fen (s : State) (r : List Word) : (stageRecord s r).fen = s.fen := by unfold stageRecord; dsimp only; split <;> rfl
@[simp] theorem stageRecord_mbx (s : State) (r : List Word) : (stageRecord s r).mbx = s.mbx := by unfold stageRecord; dsimp only; split <;> rfl
@[simp] theorem stageRecord_bce (s : State) (r : List Word) : (stageRecord s r).bce = s.bce := by unfold stageRecord; dsimp only; split <;> rfl
@[simp] theorem stageRecord_fin (s : State) (r : List Word) : (stageRecord s r).fin = s.fin := by unfold stageRecord; dsimp only; split <;> rfl
@[simp] theorem stageRecord_lsw (s : State) (r : List Word) : (stageRecord s r).lsw = s.lsw := by unfold stageRecord; dsimp only; split <;> rfl
@[simp] theorem stageRecord_can (s : State) (r : List Word) : (stageRecord s r).can = s.can := by unfold stageRecord; dsimp only; split <;> rfl
@[simp] theorem stageRecord_lko (s : State) (r : List Word) : (stageRecord s r).lko = s.lko := by unfold stageRecord; dsimp only; split <;> rfl
@[simp] theorem stageRecord_ipl (s : State) (r : List Word) : (stageRecord s r).ipl = s.ipl := by unfold stageRecord; dsimp only; split <;> rfl
@[simp] theorem stageRecord_gnb (s : State) (r : List Word) : (stageRecord s r).gnb = s.gnb := by unfold stageRecord; dsimp only; split <;> rfl
@[simp] theorem stageRecord_biv (s : State) (r : List Word) : (stageRecord s r).biv = s.biv := by unfold stageRecord; dsimp only; split <;> rfl
@[simp] theorem stageRecord_yld (s : State) (r : List Word) : (stageRecord s r).yld = s.yld := by unfold stageRecord; dsimp only; split <;> rfl
@[simp] theorem stageRecord_yarea (s : State) (r : List Word) : (stageRecord s r).yarea = s.yarea := by unfold stageRecord; dsimp only; split <;> rfl
@[simp] theorem stageRecord_pnl (s : State) (r : List Word) : (stageRecord s r).pnl = s.pnl := by unfold stageRecord; dsimp only; split <;> rfl
@[simp] theorem stageRecord_lh (s : State) (r : List Word) : (stageRecord s r).lh = s.lh := by unfold stageRecord; dsimp only; split <;> rfl
@[simp] theorem stageRecord_wk (s : State) (r : List Word) : (stageRecord s r).wk = s.wk := by unfold stageRecord; dsimp only; split <;> rfl
@[simp] theorem stageRecord_ropePos (s : State) (r : List Word) : (stageRecord s r).ropePos = s.ropePos := by unfold stageRecord; dsimp only; split <;> rfl
@[simp] theorem stageRecord_rtl (s : State) (r : List Word) : (stageRecord s r).rtl = s.rtl := by unfold stageRecord; dsimp only; split <;> rfl
@[simp] theorem stageRecord_boot (s : State) (r : List Word) : (stageRecord s r).boot = s.boot := by unfold stageRecord; dsimp only; split <;> rfl
@[simp] theorem stageRecord_upd (s : State) (r : List Word) : (stageRecord s r).upd = s.upd := by unfold stageRecord; dsimp only; split <;> rfl
@[simp] theorem stageRecord_dsc (s : State) (r : List Word) : (stageRecord s r).dsc = s.dsc := by unfold stageRecord; dsimp only; split <;> rfl
@[simp] theorem stageRecord_pwr (s : State) (r : List Word) : (stageRecord s r).pwr = s.pwr := by unfold stageRecord; dsimp only; split <;> rfl
@[simp] theorem stageRecord_dbgEn (s : State) (r : List Word) : (stageRecord s r).dbgEn = s.dbgEn := by unfold stageRecord; dsimp only; split <;> rfl
@[simp] theorem stageRecord_pending (s : State) (r : List Word) : (stageRecord s r).pending = s.pending := by unfold stageRecord; dsimp only; split <;> rfl
@[simp] theorem stageEvent_gts (src code : Nat) (d : Word) (s : State) : (stageEvent src code d s).gts = s.gts := stageRecord_gts _ _
@[simp] theorem stageEvent_mode (src code : Nat) (d : Word) (s : State) : (stageEvent src code d s).mode = s.mode := stageRecord_mode _ _
@[simp] theorem stageEvent_start (src code : Nat) (d : Word) (s : State) : (stageEvent src code d s).start = s.start := stageRecord_start _ _
@[simp] theorem stageEvent_pd (src code : Nat) (d : Word) (s : State) : (stageEvent src code d s).pd = s.pd := stageRecord_pd _ _
@[simp] theorem stageEvent_resp (src code : Nat) (d : Word) (s : State) : (stageEvent src code d s).resp = s.resp := stageRecord_resp _ _
@[simp] theorem stageEvent_shadows (src code : Nat) (d : Word) (s : State) : (stageEvent src code d s).shadows = s.shadows := stageRecord_shadows _ _
@[simp] theorem stageEvent_mem (src code : Nat) (d : Word) (s : State) : (stageEvent src code d s).mem = s.mem := stageRecord_mem _ _
@[simp] theorem stageEvent_tick (src code : Nat) (d : Word) (s : State) : (stageEvent src code d s).tick = s.tick := stageRecord_tick _ _
@[simp] theorem stageEvent_hri (src code : Nat) (d : Word) (s : State) : (stageEvent src code d s).hri = s.hri := stageRecord_hri _ _
@[simp] theorem stageEvent_fen (src code : Nat) (d : Word) (s : State) : (stageEvent src code d s).fen = s.fen := stageRecord_fen _ _
@[simp] theorem stageEvent_mbx (src code : Nat) (d : Word) (s : State) : (stageEvent src code d s).mbx = s.mbx := stageRecord_mbx _ _
@[simp] theorem stageEvent_bce (src code : Nat) (d : Word) (s : State) : (stageEvent src code d s).bce = s.bce := stageRecord_bce _ _
@[simp] theorem stageEvent_fin (src code : Nat) (d : Word) (s : State) : (stageEvent src code d s).fin = s.fin := stageRecord_fin _ _
@[simp] theorem stageEvent_lsw (src code : Nat) (d : Word) (s : State) : (stageEvent src code d s).lsw = s.lsw := stageRecord_lsw _ _
@[simp] theorem stageEvent_can (src code : Nat) (d : Word) (s : State) : (stageEvent src code d s).can = s.can := stageRecord_can _ _
@[simp] theorem stageEvent_lko (src code : Nat) (d : Word) (s : State) : (stageEvent src code d s).lko = s.lko := stageRecord_lko _ _
@[simp] theorem stageEvent_ipl (src code : Nat) (d : Word) (s : State) : (stageEvent src code d s).ipl = s.ipl := stageRecord_ipl _ _
@[simp] theorem stageEvent_gnb (src code : Nat) (d : Word) (s : State) : (stageEvent src code d s).gnb = s.gnb := stageRecord_gnb _ _
@[simp] theorem stageEvent_biv (src code : Nat) (d : Word) (s : State) : (stageEvent src code d s).biv = s.biv := stageRecord_biv _ _
@[simp] theorem stageEvent_yld (src code : Nat) (d : Word) (s : State) : (stageEvent src code d s).yld = s.yld := stageRecord_yld _ _
@[simp] theorem stageEvent_yarea (src code : Nat) (d : Word) (s : State) : (stageEvent src code d s).yarea = s.yarea := stageRecord_yarea _ _
@[simp] theorem stageEvent_pnl (src code : Nat) (d : Word) (s : State) : (stageEvent src code d s).pnl = s.pnl := stageRecord_pnl _ _
@[simp] theorem stageEvent_lh (src code : Nat) (d : Word) (s : State) : (stageEvent src code d s).lh = s.lh := stageRecord_lh _ _
@[simp] theorem stageEvent_wk (src code : Nat) (d : Word) (s : State) : (stageEvent src code d s).wk = s.wk := stageRecord_wk _ _
@[simp] theorem stageEvent_ropePos (src code : Nat) (d : Word) (s : State) : (stageEvent src code d s).ropePos = s.ropePos := stageRecord_ropePos _ _
@[simp] theorem stageEvent_rtl (src code : Nat) (d : Word) (s : State) : (stageEvent src code d s).rtl = s.rtl := stageRecord_rtl _ _
@[simp] theorem stageEvent_boot (src code : Nat) (d : Word) (s : State) : (stageEvent src code d s).boot = s.boot := stageRecord_boot _ _
@[simp] theorem stageEvent_upd (src code : Nat) (d : Word) (s : State) : (stageEvent src code d s).upd = s.upd := stageRecord_upd _ _
@[simp] theorem stageEvent_dsc (src code : Nat) (d : Word) (s : State) : (stageEvent src code d s).dsc = s.dsc := stageRecord_dsc _ _
@[simp] theorem stageEvent_pwr (src code : Nat) (d : Word) (s : State) : (stageEvent src code d s).pwr = s.pwr := stageRecord_pwr _ _
@[simp] theorem stageEvent_dbgEn (src code : Nat) (d : Word) (s : State) : (stageEvent src code d s).dbgEn = s.dbgEn := stageRecord_dbgEn _ _
@[simp] theorem stageEvent_pending (src code : Nat) (d : Word) (s : State) : (stageEvent src code d s).pending = s.pending := stageRecord_pending _ _
@[simp] theorem raiseEv_gts (e : Ev) (s : State) : (raiseEv e s).gts = s.gts := by
  unfold raiseEv; split
  · rfl
  · exact stageRecord_gts _ _
@[simp] theorem raiseEv_mode (e : Ev) (s : State) : (raiseEv e s).mode = s.mode := by
  unfold raiseEv; split
  · rfl
  · exact stageRecord_mode _ _
@[simp] theorem raiseEv_start (e : Ev) (s : State) : (raiseEv e s).start = s.start := by
  unfold raiseEv; split
  · rfl
  · exact stageRecord_start _ _
@[simp] theorem raiseEv_pd (e : Ev) (s : State) : (raiseEv e s).pd = s.pd := by
  unfold raiseEv; split
  · rfl
  · exact stageRecord_pd _ _
@[simp] theorem raiseEv_resp (e : Ev) (s : State) : (raiseEv e s).resp = s.resp := by
  unfold raiseEv; split
  · rfl
  · exact stageRecord_resp _ _
@[simp] theorem raiseEv_shadows (e : Ev) (s : State) : (raiseEv e s).shadows = s.shadows := by
  unfold raiseEv; split
  · rfl
  · exact stageRecord_shadows _ _
@[simp] theorem raiseEv_mem (e : Ev) (s : State) : (raiseEv e s).mem = s.mem := by
  unfold raiseEv; split
  · rfl
  · exact stageRecord_mem _ _
@[simp] theorem raiseEv_tick (e : Ev) (s : State) : (raiseEv e s).tick = s.tick := by
  unfold raiseEv; split
  · rfl
  · exact stageRecord_tick _ _
@[simp] theorem raiseEv_hri (e : Ev) (s : State) : (raiseEv e s).hri = s.hri := by
  unfold raiseEv; split
  · rfl
  · exact stageRecord_hri _ _
@[simp] theorem raiseEv_fen (e : Ev) (s : State) : (raiseEv e s).fen = s.fen := by
  unfold raiseEv; split
  · rfl
  · exact stageRecord_fen _ _
@[simp] theorem raiseEv_mbx (e : Ev) (s : State) : (raiseEv e s).mbx = s.mbx := by
  unfold raiseEv; split
  · rfl
  · exact stageRecord_mbx _ _
@[simp] theorem raiseEv_bce (e : Ev) (s : State) : (raiseEv e s).bce = s.bce := by
  unfold raiseEv; split
  · rfl
  · exact stageRecord_bce _ _
@[simp] theorem raiseEv_fin (e : Ev) (s : State) : (raiseEv e s).fin = s.fin := by
  unfold raiseEv; split
  · rfl
  · exact stageRecord_fin _ _
@[simp] theorem raiseEv_lsw (e : Ev) (s : State) : (raiseEv e s).lsw = s.lsw := by
  unfold raiseEv; split
  · rfl
  · exact stageRecord_lsw _ _
@[simp] theorem raiseEv_can (e : Ev) (s : State) : (raiseEv e s).can = s.can := by
  unfold raiseEv; split
  · rfl
  · exact stageRecord_can _ _
@[simp] theorem raiseEv_lko (e : Ev) (s : State) : (raiseEv e s).lko = s.lko := by
  unfold raiseEv; split
  · rfl
  · exact stageRecord_lko _ _
@[simp] theorem raiseEv_ipl (e : Ev) (s : State) : (raiseEv e s).ipl = s.ipl := by
  unfold raiseEv; split
  · rfl
  · exact stageRecord_ipl _ _
@[simp] theorem raiseEv_gnb (e : Ev) (s : State) : (raiseEv e s).gnb = s.gnb := by
  unfold raiseEv; split
  · rfl
  · exact stageRecord_gnb _ _
@[simp] theorem raiseEv_biv (e : Ev) (s : State) : (raiseEv e s).biv = s.biv := by
  unfold raiseEv; split
  · rfl
  · exact stageRecord_biv _ _
@[simp] theorem raiseEv_yld (e : Ev) (s : State) : (raiseEv e s).yld = s.yld := by
  unfold raiseEv; split
  · rfl
  · exact stageRecord_yld _ _
@[simp] theorem raiseEv_yarea (e : Ev) (s : State) : (raiseEv e s).yarea = s.yarea := by
  unfold raiseEv; split
  · rfl
  · exact stageRecord_yarea _ _
@[simp] theorem raiseEv_pnl (e : Ev) (s : State) : (raiseEv e s).pnl = s.pnl := by
  unfold raiseEv; split
  · rfl
  · exact stageRecord_pnl _ _
@[simp] theorem raiseEv_lh (e : Ev) (s : State) : (raiseEv e s).lh = s.lh := by
  unfold raiseEv; split
  · rfl
  · exact stageRecord_lh _ _
@[simp] theorem raiseEv_wk (e : Ev) (s : State) : (raiseEv e s).wk = s.wk := by
  unfold raiseEv; split
  · rfl
  · exact stageRecord_wk _ _
@[simp] theorem raiseEv_ropePos (e : Ev) (s : State) : (raiseEv e s).ropePos = s.ropePos := by
  unfold raiseEv; split
  · rfl
  · exact stageRecord_ropePos _ _
@[simp] theorem raiseEv_rtl (e : Ev) (s : State) : (raiseEv e s).rtl = s.rtl := by
  unfold raiseEv; split
  · rfl
  · exact stageRecord_rtl _ _
@[simp] theorem raiseEv_boot (e : Ev) (s : State) : (raiseEv e s).boot = s.boot := by
  unfold raiseEv; split
  · rfl
  · exact stageRecord_boot _ _
@[simp] theorem raiseEv_upd (e : Ev) (s : State) : (raiseEv e s).upd = s.upd := by
  unfold raiseEv; split
  · rfl
  · exact stageRecord_upd _ _
@[simp] theorem raiseEv_dsc (e : Ev) (s : State) : (raiseEv e s).dsc = s.dsc := by
  unfold raiseEv; split
  · rfl
  · exact stageRecord_dsc _ _
@[simp] theorem raiseEv_pwr (e : Ev) (s : State) : (raiseEv e s).pwr = s.pwr := by
  unfold raiseEv; split
  · rfl
  · exact stageRecord_pwr _ _
@[simp] theorem raiseEv_dbgEn (e : Ev) (s : State) : (raiseEv e s).dbgEn = s.dbgEn := by
  unfold raiseEv; split
  · rfl
  · exact stageRecord_dbgEn _ _
@[simp] theorem raiseEv_pending (e : Ev) (s : State) : (raiseEv e s).pending = s.pending := by
  unfold raiseEv; split
  · rfl
  · exact stageRecord_pending _ _
@[simp] theorem raiseAt_gts (g src code d : Nat) (s : State) : (raiseAt g src code d s).gts = s.gts := raiseEv_gts _ _
@[simp] theorem raiseAt_mode (g src code d : Nat) (s : State) : (raiseAt g src code d s).mode = s.mode := raiseEv_mode _ _
@[simp] theorem raiseAt_start (g src code d : Nat) (s : State) : (raiseAt g src code d s).start = s.start := raiseEv_start _ _
@[simp] theorem raiseAt_pd (g src code d : Nat) (s : State) : (raiseAt g src code d s).pd = s.pd := raiseEv_pd _ _
@[simp] theorem raiseAt_resp (g src code d : Nat) (s : State) : (raiseAt g src code d s).resp = s.resp := raiseEv_resp _ _
@[simp] theorem raiseAt_shadows (g src code d : Nat) (s : State) : (raiseAt g src code d s).shadows = s.shadows := raiseEv_shadows _ _
@[simp] theorem raiseAt_mem (g src code d : Nat) (s : State) : (raiseAt g src code d s).mem = s.mem := raiseEv_mem _ _
@[simp] theorem raiseAt_tick (g src code d : Nat) (s : State) : (raiseAt g src code d s).tick = s.tick := raiseEv_tick _ _
@[simp] theorem raiseAt_hri (g src code d : Nat) (s : State) : (raiseAt g src code d s).hri = s.hri := raiseEv_hri _ _
@[simp] theorem raiseAt_fen (g src code d : Nat) (s : State) : (raiseAt g src code d s).fen = s.fen := raiseEv_fen _ _
@[simp] theorem raiseAt_mbx (g src code d : Nat) (s : State) : (raiseAt g src code d s).mbx = s.mbx := raiseEv_mbx _ _
@[simp] theorem raiseAt_bce (g src code d : Nat) (s : State) : (raiseAt g src code d s).bce = s.bce := raiseEv_bce _ _
@[simp] theorem raiseAt_fin (g src code d : Nat) (s : State) : (raiseAt g src code d s).fin = s.fin := raiseEv_fin _ _
@[simp] theorem raiseAt_lsw (g src code d : Nat) (s : State) : (raiseAt g src code d s).lsw = s.lsw := raiseEv_lsw _ _
@[simp] theorem raiseAt_can (g src code d : Nat) (s : State) : (raiseAt g src code d s).can = s.can := raiseEv_can _ _
@[simp] theorem raiseAt_lko (g src code d : Nat) (s : State) : (raiseAt g src code d s).lko = s.lko := raiseEv_lko _ _
@[simp] theorem raiseAt_ipl (g src code d : Nat) (s : State) : (raiseAt g src code d s).ipl = s.ipl := raiseEv_ipl _ _
@[simp] theorem raiseAt_gnb (g src code d : Nat) (s : State) : (raiseAt g src code d s).gnb = s.gnb := raiseEv_gnb _ _
@[simp] theorem raiseAt_biv (g src code d : Nat) (s : State) : (raiseAt g src code d s).biv = s.biv := raiseEv_biv _ _
@[simp] theorem raiseAt_yld (g src code d : Nat) (s : State) : (raiseAt g src code d s).yld = s.yld := raiseEv_yld _ _
@[simp] theorem raiseAt_yarea (g src code d : Nat) (s : State) : (raiseAt g src code d s).yarea = s.yarea := raiseEv_yarea _ _
@[simp] theorem raiseAt_pnl (g src code d : Nat) (s : State) : (raiseAt g src code d s).pnl = s.pnl := raiseEv_pnl _ _
@[simp] theorem raiseAt_lh (g src code d : Nat) (s : State) : (raiseAt g src code d s).lh = s.lh := raiseEv_lh _ _
@[simp] theorem raiseAt_wk (g src code d : Nat) (s : State) : (raiseAt g src code d s).wk = s.wk := raiseEv_wk _ _
@[simp] theorem raiseAt_ropePos (g src code d : Nat) (s : State) : (raiseAt g src code d s).ropePos = s.ropePos := raiseEv_ropePos _ _
@[simp] theorem raiseAt_rtl (g src code d : Nat) (s : State) : (raiseAt g src code d s).rtl = s.rtl := raiseEv_rtl _ _
@[simp] theorem raiseAt_boot (g src code d : Nat) (s : State) : (raiseAt g src code d s).boot = s.boot := raiseEv_boot _ _
@[simp] theorem raiseAt_upd (g src code d : Nat) (s : State) : (raiseAt g src code d s).upd = s.upd := raiseEv_upd _ _
@[simp] theorem raiseAt_dsc (g src code d : Nat) (s : State) : (raiseAt g src code d s).dsc = s.dsc := raiseEv_dsc _ _
@[simp] theorem raiseAt_pwr (g src code d : Nat) (s : State) : (raiseAt g src code d s).pwr = s.pwr := raiseEv_pwr _ _
@[simp] theorem raiseAt_dbgEn (g src code d : Nat) (s : State) : (raiseAt g src code d s).dbgEn = s.dbgEn := raiseEv_dbgEn _ _
@[simp] theorem raiseAt_pending (g src code d : Nat) (s : State) : (raiseAt g src code d s).pending = s.pending := raiseEv_pending _ _
@[simp] theorem raise_gts (src code d : Nat) (s : State) : (raise src code d s).gts = s.gts := raiseEv_gts _ _
@[simp] theorem raise_mode (src code d : Nat) (s : State) : (raise src code d s).mode = s.mode := raiseEv_mode _ _
@[simp] theorem raise_start (src code d : Nat) (s : State) : (raise src code d s).start = s.start := raiseEv_start _ _
@[simp] theorem raise_pd (src code d : Nat) (s : State) : (raise src code d s).pd = s.pd := raiseEv_pd _ _
@[simp] theorem raise_resp (src code d : Nat) (s : State) : (raise src code d s).resp = s.resp := raiseEv_resp _ _
@[simp] theorem raise_shadows (src code d : Nat) (s : State) : (raise src code d s).shadows = s.shadows := raiseEv_shadows _ _
@[simp] theorem raise_mem (src code d : Nat) (s : State) : (raise src code d s).mem = s.mem := raiseEv_mem _ _
@[simp] theorem raise_tick (src code d : Nat) (s : State) : (raise src code d s).tick = s.tick := raiseEv_tick _ _
@[simp] theorem raise_hri (src code d : Nat) (s : State) : (raise src code d s).hri = s.hri := raiseEv_hri _ _
@[simp] theorem raise_fen (src code d : Nat) (s : State) : (raise src code d s).fen = s.fen := raiseEv_fen _ _
@[simp] theorem raise_mbx (src code d : Nat) (s : State) : (raise src code d s).mbx = s.mbx := raiseEv_mbx _ _
@[simp] theorem raise_bce (src code d : Nat) (s : State) : (raise src code d s).bce = s.bce := raiseEv_bce _ _
@[simp] theorem raise_fin (src code d : Nat) (s : State) : (raise src code d s).fin = s.fin := raiseEv_fin _ _
@[simp] theorem raise_lsw (src code d : Nat) (s : State) : (raise src code d s).lsw = s.lsw := raiseEv_lsw _ _
@[simp] theorem raise_can (src code d : Nat) (s : State) : (raise src code d s).can = s.can := raiseEv_can _ _
@[simp] theorem raise_lko (src code d : Nat) (s : State) : (raise src code d s).lko = s.lko := raiseEv_lko _ _
@[simp] theorem raise_ipl (src code d : Nat) (s : State) : (raise src code d s).ipl = s.ipl := raiseEv_ipl _ _
@[simp] theorem raise_gnb (src code d : Nat) (s : State) : (raise src code d s).gnb = s.gnb := raiseEv_gnb _ _
@[simp] theorem raise_biv (src code d : Nat) (s : State) : (raise src code d s).biv = s.biv := raiseEv_biv _ _
@[simp] theorem raise_yld (src code d : Nat) (s : State) : (raise src code d s).yld = s.yld := raiseEv_yld _ _
@[simp] theorem raise_yarea (src code d : Nat) (s : State) : (raise src code d s).yarea = s.yarea := raiseEv_yarea _ _
@[simp] theorem raise_pnl (src code d : Nat) (s : State) : (raise src code d s).pnl = s.pnl := raiseEv_pnl _ _
@[simp] theorem raise_lh (src code d : Nat) (s : State) : (raise src code d s).lh = s.lh := raiseEv_lh _ _
@[simp] theorem raise_wk (src code d : Nat) (s : State) : (raise src code d s).wk = s.wk := raiseEv_wk _ _
@[simp] theorem raise_ropePos (src code d : Nat) (s : State) : (raise src code d s).ropePos = s.ropePos := raiseEv_ropePos _ _
@[simp] theorem raise_rtl (src code d : Nat) (s : State) : (raise src code d s).rtl = s.rtl := raiseEv_rtl _ _
@[simp] theorem raise_boot (src code d : Nat) (s : State) : (raise src code d s).boot = s.boot := raiseEv_boot _ _
@[simp] theorem raise_upd (src code d : Nat) (s : State) : (raise src code d s).upd = s.upd := raiseEv_upd _ _
@[simp] theorem raise_dsc (src code d : Nat) (s : State) : (raise src code d s).dsc = s.dsc := raiseEv_dsc _ _
@[simp] theorem raise_pwr (src code d : Nat) (s : State) : (raise src code d s).pwr = s.pwr := raiseEv_pwr _ _
@[simp] theorem raise_dbgEn (src code d : Nat) (s : State) : (raise src code d s).dbgEn = s.dbgEn := raiseEv_dbgEn _ _
@[simp] theorem raise_pending (src code d : Nat) (s : State) : (raise src code d s).pending = s.pending := raiseEv_pending _ _
@[simp] theorem State.setMem_mem (s : State) (m : List Host.Cell) : (s.setMem m).mem = m := by rfl
@[simp] theorem State.reply_resp (s : State) (a : Access) (r : Resp) : (s.reply a r).resp = [(a.ini.id, r)] := by rfl

@[simp] theorem raise_pdOn (src code d i : Nat) (s : State) : (raise src code d s).pdOn i = s.pdOn i := by
  simp [State.pdOn]
@[simp] theorem raise_t (src code d : Nat) (s : State) : (raise src code d s).t = s.t := by simp [State.t]
@[simp] theorem raise_ring (src code d i : Nat) (s : State) : (raise src code d s).ring i = s.ring i := by
  simp [State.ring]

end Sys2Proof.Machine
end

