-- ==== Sys2Proof/Laws/Tab.lean ====
section
/-!
SUPPORT. Tables by index, and what is read back through the accessors after an update.
-/

namespace Sys2Proof

theorem Tab.get_put {α : Type} (d : α) (t : Tab α) (k j : Nat) (v : α) :
    Tab.get d (Tab.put t k v) j = if j = k then v else Tab.get d t j := by
  induction t with
  | nil => simp [Tab.put, Tab.get]
  | cons e r ih =>
    obtain ⟨i, w⟩ := e
    unfold Tab.put
    split
    · subst_vars; simp only [Tab.get]; split <;> rfl
    · split
      · simp only [Tab.get]
      · simp only [Tab.get, ih]; split
        · subst_vars; split <;> simp_all
        · rfl

@[simp] theorem Tab.get_put_self {α : Type} (d : α) (t : Tab α) (k : Nat) (v : α) :
    Tab.get d (Tab.put t k v) k = v := by simp [Tab.get_put]

theorem Tab.get_put_ne {α : Type} (d : α) (t : Tab α) {k j : Nat} (v : α) (h : j ≠ k) :
    Tab.get d (Tab.put t k v) j = Tab.get d t j := by simp [Tab.get_put, h]

@[simp] theorem Tab.put_put {α : Type} (t : Tab α) (k : Nat) (v w : α) :
    Tab.put (Tab.put t k v) k w = Tab.put t k w := by
  induction t with
  | nil => simp [Tab.put]
  | cons e r ih =>
    obtain ⟨i, x⟩ := e
    by_cases h1 : k = i
    · simp [Tab.put, h1]
    · by_cases h2 : k < i
      · simp [Tab.put, h1, h2]
      · simp [Tab.put, h1, h2, ih]

namespace Machine

@[simp] theorem State.setRing_setRing (s : State) (n : Nat) (q r : Ring) :
    (s.setRing n q).setRing n r = s.setRing n r := by
  simp [State.setRing]

@[simp] theorem State.setBox_setBox (s : State) (n : Nat) (q r : MBox) :
    (s.setBox n q).setBox n r = s.setBox n r := by
  simp [State.setBox]

@[simp] theorem State.setRing_self (s : State) (n : Nat) (r : Ring) : (s.setRing n r).ring n = r := by
  simp [State.ring, State.setRing]

theorem State.setRing_ne (s : State) {n m : Nat} (r : Ring) (h : m ≠ n) : (s.setRing n r).ring m = s.ring m := by
  simp [State.ring, State.setRing, Tab.get_put, h]

@[simp] theorem State.setBox_self (s : State) (m : Nat) (b : MBox) : (s.setBox m b).box m = b := by
  simp [State.box, State.setBox]

theorem State.setBox_ne (s : State) {m n : Nat} (b : MBox) (h : n ≠ m) : (s.setBox m b).box n = s.box n := by
  simp [State.box, State.setBox, Tab.get_put, h]

@[simp] theorem State.reply_box (s : State) (a : Access) (x : Resp) (m : Nat) : (s.reply a x).box m = s.box m := by rfl

@[simp] theorem State.reply_epoch (s : State) (a : Access) (x : Resp) (k : Nat) : (s.reply a x).epoch k = s.epoch k
    := by
  rfl

@[simp] theorem raise_box (src code d : Nat) (s : State) (m : Nat) : (raise src code d s).box m = s.box m := by
  unfold State.box; rw [raise_mbx]

@[simp] theorem raise_epoch (src code d : Nat) (s : State) (k : Nat) : (raise src code d s).epoch k = s.epoch k := by
  unfold State.epoch; rw [raise_mbx]

end Machine

end Sys2Proof
end

