-- ==== Sys2Proof/Laws/Access.lean ====
section
/-!
SUPPORT. What an access and a service do, once: through the gate, at a domain that is off, from an initiator that is
off; a descriptor that a service takes, and what a finished one holds.
-/

namespace Sys2Proof.Machine

theorem gate_open {a : Access} {blk dom : Nat} {s : State} (k : State → State) (h : opens a dom s = true) :
    gate a blk dom s k = k s := by
  simp only [opens, Bool.and_eq_true, Option.isNone_iff_eq_none] at h
  simp [gate, State.isolates, h.1.1, h.1.2, h.2]

theorem gateWrite_open {a : Access} {blk dom : Nat} {s : State} (k : State → State) (h : opens a dom s = true) :
    gateWrite a blk dom s k = k (s.reply a .ok) := gate_open _ h

theorem takeOp_takes {blk q opc : Nat} {tk : Taking} {c : OpRef} {s : State} (f : OpRef → State → State)
    (h : takes blk q opc tk c s = true) : takeOp blk q opc tk c.ring f s = f c s := by
  simp only [takes, Bool.and_eq_true, beq_iff_eq] at h
  obtain ⟨⟨h1, h2⟩, h3⟩ := h
  simp [takeOp, h1, h2, h3]

theorem takeOp_at {blk q opc : Nat} {tk : Taking} {c : OpRef} {s : State} (f : OpRef → State → State)
    (n : Fin 32) (hn : c.ring = n.val) (h : takes blk q opc tk c s = true) :
    takeOp blk q opc tk n.val f s = f c s := hn ▸ takeOp_takes f h

end Sys2Proof.Machine
end

