-- ==== Sys2Proof/Laws/KeptOps.lean ====
section
/-!
SUPPORT. What the operations of Sys2Proof/Machine/Ops.lean keep (see Sys2Proof/Laws/Kept.lean).
-/

namespace Sys2Proof.Machine

theorem State.reply_kept {kp : Keep} {s a r} (hs : Kept kp s) :
    Kept kp (State.reply s a r) := by
  unfold State.reply
  refine Kept.upd rfl rfl ?_
  assumption

theorem stageRecord_kept {kp : Keep} {s r} (hs : Kept kp s) :
    Kept kp (stageRecord s r) := by
  unfold stageRecord
  extract_lets +onlyGivenNames -merge -useContext x1; clear_value x1
  refine Kept.ite ?_ ?_
  · refine Kept.upd rfl rfl ?_
    assumption
  · refine Kept.upd rfl rfl ?_
    assumption

theorem stageEvent_kept {kp : Keep} {src code data s} (hs : Kept kp s) :
    Kept kp (stageEvent src code data s) := by
  unfold stageEvent
  refine stageRecord_kept ?_
  assumption

theorem raiseEv_kept {kp : Keep} {e s} (hs : Kept kp s) :
    Kept kp (raiseEv e s) := by
  unfold raiseEv
  refine Kept.ite ?_ ?_
  · refine Kept.upd rfl rfl ?_
    assumption
  · refine stageEvent_kept ?_
    assumption

theorem raiseAt_kept {kp : Keep} {g src code data s} (hs : Kept kp s) :
    Kept kp (raiseAt g src code data s) := by
  unfold raiseAt
  refine raiseEv_kept ?_
  assumption

theorem raise_kept {kp : Keep} {src code data s} (hs : Kept kp s) :
    Kept kp (raise src code data s) := by
  unfold raise
  refine raiseAt_kept ?_
  assumption

theorem gate_kept {kp : Keep} {a blk dom s k} (hs : Kept kp s) (hk : ∀ y1, Kept kp y1 → Kept kp (k y1)) :
    Kept kp (gate a blk dom s k) := by
  unfold gate
  refine Kept.ite ?_ ?_
  · refine Kept.upd rfl rfl ?_
    assumption
  · refine Kept.ite ?_ ?_
    · refine State.reply_kept ?_
      refine raise_kept ?_
      assumption
    · apply hk
      assumption

theorem State.advance_kept {kp : Keep} {s g} (hs : Kept kp s) :
    Kept kp (State.advance s g) := by
  unfold State.advance
  split
  · exact Kept.later (Nat.le_max_left _ _) rfl rfl hs
  · exact hs

theorem State.reach_kept {kp : Keep} {s g k} (hs : Kept kp s) (hk : ∀ y1, Kept kp y1 → Kept kp (k y1)) :
    Kept kp (State.reach s g k) := by
  unfold State.reach
  refine Kept.ite ?_ ?_
  · apply hk
    refine State.advance_kept ?_
    assumption
  · assumption

theorem refuse_kept {kp : Keep} {ini sec write addr s} (hs : Kept kp s) :
    Kept kp (refuse ini sec write addr s) := by
  unfold refuse
  refine Kept.upd rfl rfl ?_
  assumption

theorem State.setPd_kept {kp : Keep} {s n on} (hs : Kept kp s) :
    Kept kp (State.setPd s n on) := by
  unfold State.setPd
  refine Kept.upd rfl rfl ?_
  assumption

theorem State.replyWord_kept {kp : Keep} {s a w} (hs : Kept kp s) :
    Kept kp (State.replyWord s a w) := by
  unfold State.replyWord
  refine State.reply_kept ?_
  assumption

theorem busCheck_kept {kp : Keep} {kind ini sec write quiet addr len s} (hs : Kept kp s) :
    KeptF kp (busCheck kind ini sec write quiet addr len s) := by
  unfold busCheck
  extract_lets +onlyGivenNames -merge -useContext x1; clear_value x1
  extract_lets +onlyGivenNames -merge -useContext x2
  have hx2 : Kept kp x2 := by
    unfold x2
    refine Kept.ite ?_ ?_
    · refine refuse_kept ?_
      assumption
    · assumption
  clear_value x2
  split
  · rename_i x3 h4
    refine KeptF.mk ?_
    assumption
  · rename_i x5 x6 x7 x8 h9
    refine KeptF.mk ?_
    refine Kept.ite ?_ ?_
    · assumption
    · refine raiseEv_kept ?_
      assumption

theorem busRead_kept {kp : Keep} {kind ini sec addr len s} (hs : Kept kp s) :
    KeptF kp (busRead kind ini sec addr len s) := by
  unfold busRead
  split
  rename_i x1 x2 x3 h4
  have h5 : Kept kp x2 := by
    refine KeptF.of_eq h4 ?_
    refine busCheck_kept ?_
    assumption
  refine KeptF.mk ?_
  assumption

theorem State.setRing_kept {kp : Keep} {s n r} (hs : Kept kp s) :
    Kept kp (State.setRing s n r) := by
  unfold State.setRing
  refine Kept.upd rfl rfl ?_
  assumption

theorem State.modRing_kept {kp : Keep} {s n f} (hs : Kept kp s) :
    Kept kp (State.modRing s n f) := by
  unfold State.modRing
  refine State.setRing_kept ?_
  assumption

theorem State.latch_kept {kp : Keep} {s a addr w} (hs : Kept kp s) :
    Kept kp (State.latch s a addr w) := by
  unfold State.latch
  refine Kept.upd rfl rfl ?_
  assumption

theorem gateWrite_kept {kp : Keep} {a blk dom s k} (hs : Kept kp s) (hk : ∀ y1, Kept kp y1 → Kept kp (k y1)) :
    Kept kp (gateWrite a blk dom s k) := by
  unfold gateWrite
  refine gate_kept ?_ ?_
  · assumption
  · intro x1 h2
    apply hk
    refine State.reply_kept ?_
    assumption

theorem busWrite_kept {kp : Keep} {kind ini sec quiet addr bs s} (hs : Kept kp s) :
    KeptF kp (busWrite kind ini sec quiet addr bs s) := by
  unfold busWrite
  split
  rename_i x1 x2 h3
  have h4 : Kept kp x1 := by
    refine KeptF.of_eq h3 ?_
    refine busCheck_kept ?_
    assumption
  refine KeptF.mk ?_
  split
  · exact ⟨fun e => Memory.setMany_wf (h4.mem e), h4.queue, h4.time, h4.mode⟩
  · assumption

theorem writePieces_kept {kp : Keep} {kind ini z2 z3 z4 z5} (hz5 : Kept kp z5) :
    KeptF kp (writePieces kind ini z2 z3 z4 z5) := by
  induction z2 generalizing z3 z4 z5 with
  | nil => exact KeptF.mk hz5
  | cons p r ih =>
    obtain ⟨a, n⟩ := p
    have h1 : KeptF kp (busWrite kind ini false false a (z3.take n) z5) := busWrite_kept hz5
    unfold writePieces
    split
    rename_i x1 x2 h4
    have h5 : Kept kp x1 := KeptF.of_eq h4 h1
    split
    · exact ih h5
    · exact KeptF.mk h5

theorem readPieces_kept {kp : Keep} {kind ini z2 z3 z4} (hz4 : Kept kp z4) :
    KeptF kp (readPieces kind ini z2 z3 z4) := by
  induction z2 generalizing z3 z4 with
  | nil => exact KeptF.mk hz4
  | cons p r ih =>
    obtain ⟨a, n⟩ := p
    have h1 : KeptF kp (busRead kind ini false a n z4) := busRead_kept hz4
    unfold readPieces
    split
    rename_i x1 x2 x3 h4
    have h5 : Kept kp x1 := KeptF.of_eq h4 h1
    split
    · exact ih h5
    · exact KeptF.mk h5

theorem readBuffer_kept {kp : Keep} {ini addr len s} (hs : Kept kp s) :
    KeptF kp (readBuffer ini addr len s) := by
  unfold readBuffer
  refine readPieces_kept ?_
  assumption

theorem writeBuffer_kept {kp : Keep} {ini addr bs s} (hs : Kept kp s) :
    KeptF kp (writeBuffer ini addr bs s) := by
  unfold writeBuffer
  refine writePieces_kept ?_
  assumption

theorem writeEngine_kept {kp : Keep} {ini addr bs s} (hs : Kept kp s) :
    KeptF kp (writeEngine ini addr bs s) := by
  unfold writeEngine
  refine writePieces_kept ?_
  assumption

theorem readEngine_kept {kp : Keep} {ini addr len s} (hs : Kept kp s) :
    KeptF kp (readEngine ini addr len s) := by
  unfold readEngine
  refine readPieces_kept ?_
  assumption

end Sys2Proof.Machine
end

