-- ==== Sys2Proof/Laws/KeptOperands.lean ====
section
/-!
SUPPORT. What the operations of Sys2Proof/Machine/Operands.lean keep (see Sys2Proof/Laws/Kept.lean).
-/

namespace Sys2Proof.Machine

theorem State.setOp_kept {kp : Keep} {s c o} (hs : Kept kp s) :
    Kept kp (State.setOp s c o) := by
  unfold State.setOp
  refine State.modRing_kept ?_
  assumption

theorem finishOp_kept {kp : Keep} {c status xfer r0 r1 s} (hs : Kept kp s) :
    Kept kp (finishOp c status xfer r0 r1 s) := by
  unfold finishOp
  refine State.setOp_kept ?_
  assumption

theorem failOp_kept {kp : Keep} {c status xfer s} (hs : Kept kp s) :
    Kept kp (failOp c status xfer s) := by
  unfold failOp
  refine finishOp_kept ?_
  assumption

theorem readWhole_kept {kp : Keep} {ini c s k} (hs : Kept kp s) (hk : ∀ y1 y2, Kept kp y2 → Kept kp (k y1 y2)) :
    Kept kp (readWhole ini c s k) := by
  unfold readWhole
  split
  rename_i x1 x2 x3 h4
  have h5 : Kept kp x2 := by
    refine KeptF.of_eq h4 ?_
    refine readBuffer_kept ?_
    assumption
  refine Kept.ite ?_ ?_
  · apply hk
    assumption
  · refine failOp_kept ?_
    assumption

theorem finishAt_kept {kp : Keep} {g c status xfer r0 r1 s} (hs : Kept kp s) :
    Kept kp (finishAt g c status xfer r0 r1 s) := by
  unfold finishAt
  refine State.setOp_kept ?_
  assumption

theorem needBuffer_kept {kp : Keep} {c s k} (hs : Kept kp s) (hk : ∀ y1, Kept kp y1 → Kept kp (k y1)) :
    Kept kp (needBuffer c s k) := by
  unfold needBuffer
  refine Kept.ite ?_ ?_
  · refine failOp_kept ?_
    assumption
  · apply hk
    assumption

theorem takeOp_kept {kp : Keep} {blk q opc tk n f s} (hf : ∀ y1 y2, Kept kp y2 → Kept kp (f y1 y2)) (hs : Kept kp s) :
    Kept kp (takeOp blk q opc tk n f s) := by
  unfold takeOp
  extract_lets +onlyGivenNames -merge -useContext x1; clear_value x1
  refine Kept.ite ?_ ?_
  · assumption
  · split
    · rename_i x2 h3
      assumption
    · rename_i x4 x5 x6 h7
      extract_lets +onlyGivenNames -merge -useContext x8; clear_value x8
      refine Kept.ite ?_ ?_
      · refine failOp_kept ?_
        assumption
      · apply hf
        assumption

theorem writeOut_kept {kp : Keep} {ini c bs r0 r1 s} (hs : Kept kp s) :
    Kept kp (writeOut ini c bs r0 r1 s) := by
  unfold writeOut
  split
  rename_i x1 x2 x3 h4
  have h5 : Kept kp x2 := by
    refine KeptF.of_eq h4 ?_
    refine writeBuffer_kept ?_
    assumption
  refine Kept.ite ?_ ?_
  · refine finishOp_kept ?_
    assumption
  · refine failOp_kept ?_
    assumption

theorem startOp_kept {kp : Keep} {c aux s} (hs : Kept kp s) :
    Kept kp (startOp c aux s) := by
  unfold startOp
  refine State.setOp_kept ?_
  assumption

theorem startRead_kept {kp : Keep} {c aux s} (hs : Kept kp s) :
    Kept kp (startRead c aux s) := by
  unfold startRead
  refine State.setOp_kept ?_
  assumption

theorem domainOffOps_kept {kp : Keep} {p s} (hs : Kept kp s) :
    Kept kp (domainOffOps p s) := by
  unfold domainOffOps
  refine Kept.upd rfl rfl ?_
  assumption

end Sys2Proof.Machine
end

