-- ==== Sys2Proof/Laws/KeptSignals.lean ====
section
/-!
SUPPORT. What the operations of Sys2Proof/Machine/Signals.lean keep (see Sys2Proof/Laws/Kept.lean).
-/

namespace Sys2Proof.Machine

theorem settleTraj_kept {kp : Keep} {g s} (hs : Kept kp s) :
    Kept kp (settleTraj g s) := by
  unfold settleTraj
  split
  · rename_i x1 x2 x3 x4 h5
    refine Kept.ite ?_ ?_
    · refine Kept.upd rfl rfl ?_
      assumption
    · assumption
  · rename_i x6 h7
    assumption

theorem settleSignals_kept {kp : Keep} {g s} (hs : Kept kp s) :
    Kept kp (settleSignals g s) := by
  unfold settleSignals
  extract_lets +onlyGivenNames -merge -useContext x1; clear_value x1
  refine settleTraj_kept ?_
  refine Kept.upd rfl rfl ?_
  assumption

theorem publishSig_kept {kp : Keep} {i v stamp s} (hs : Kept kp s) :
    Kept kp (publishSig i v stamp s) := by
  unfold publishSig
  refine Kept.upd rfl rfl ?_
  assumption

theorem State.setBctx_kept {kp : Keep} {s c x} (hs : Kept kp s) :
    Kept kp (State.setBctx s c x) := by
  unfold State.setBctx
  refine Kept.upd rfl rfl ?_
  assumption

theorem publishLate_kept {kp : Keep} {vis i v stamp s} (hs : Kept kp s) :
    Kept kp (publishLate vis i v stamp s) := by
  unfold publishLate
  refine Kept.upd rfl rfl ?_
  assumption

theorem publishInt_kept {kp : Keep} {i v stamp s} (hs : Kept kp s) :
    Kept kp (publishInt i v stamp s) := by
  unfold publishInt
  refine publishSig_kept ?_
  assumption

end Sys2Proof.Machine
end

