-- ==== Sys2Proof/Laws/KeptCan.lean ====
section
/-!
SUPPORT. What the operations of Sys2Proof/Machine/Can.lean keep (see Sys2Proof/Laws/Kept.lean).
-/

namespace Sys2Proof.Machine

theorem shadowed_kept {kp : Keep} {a addr live s} (hs : Kept kp s) :
    KeptS kp (shadowed a addr live s) := by
  unfold shadowed
  split
  · rename_i x1 x2 h3
    refine KeptS.mk ?_
    refine Kept.upd rfl rfl ?_
    assumption
  · rename_i x4 h5
    refine KeptS.mk ?_
    assumption

theorem State.setCan_kept {kp : Keep} {s k x} (hs : Kept kp s) :
    Kept kp (State.setCan s k x) := by
  unfold State.setCan
  refine Kept.upd rfl rfl ?_
  assumption

theorem State.setBuf_kept {kp : Keep} {s k b x} (hs : Kept kp s) :
    Kept kp (State.setBuf s k b x) := by
  unfold State.setBuf
  refine State.setCan_kept ?_
  assumption

theorem returnFrame_kept {kp : Keep} {k s} (hs : Kept kp s) :
    Kept kp (returnFrame k s) := by
  unfold returnFrame
  extract_lets +onlyGivenNames -merge -useContext x1; clear_value x1
  extract_lets +onlyGivenNames -merge -useContext x2
  have hx2 : Kept kp x2 := by
    unfold x2
    refine State.setCan_kept ?_
    assumption
  clear_value x2
  split
  · rename_i x3 h4
    assumption
  · rename_i x5 x6 h7
    split
    · rename_i x8 x9 h10
      refine State.setOp_kept ?_
      assumption
    · rename_i x11 h12
      assumption
  · rename_i x13 x14 x15 h16
    extract_lets +onlyGivenNames -merge -useContext x17; clear_value x17
    refine Kept.ite ?_ ?_
    · refine State.setBuf_kept ?_
      assumption
    · assumption

theorem takeBus_kept {kp : Keep} {k sof s} (hs : Kept kp s) :
    Kept kp (takeBus k sof s) := by
  unfold takeBus
  split
  · rename_i x1 x2 x3 h4
    split
    · rename_i x5 h6
      assumption
    · rename_i x7 x8 h9
      extract_lets +onlyGivenNames -merge -useContext x10; clear_value x10
      extract_lets +onlyGivenNames -merge -useContext x11
      have hx11 : Kept kp x11 := by
        unfold x11
        refine State.setCan_kept ?_
        assumption
      clear_value x11
      split
      · rename_i x12
        assumption
      · rename_i x13 x14
        extract_lets +onlyGivenNames -merge -useContext x15; clear_value x15
        refine Kept.ite ?_ ?_
        · assumption
        · refine State.setBuf_kept ?_
          assumption
  · rename_i x16 x17 x18 h19
    assumption

theorem canEvent_kept {kp : Keep} {k j code data g s} (hs : Kept kp s) :
    Kept kp (canEvent k j code data g s) := by
  unfold canEvent
  refine raiseEv_kept ?_
  assumption

theorem modeEvent_kept {kp : Keep} {k s} (hs : Kept kp s) :
    Kept kp (modeEvent k s) := by
  unfold modeEvent
  extract_lets +onlyGivenNames -merge -useContext x1; clear_value x1
  refine canEvent_kept ?_
  assumption

theorem setState_kept {kp : Keep} {k st s} (hs : Kept kp s) :
    Kept kp (setState k st s) := by
  unfold setState
  refine Kept.ite ?_ ?_
  · assumption
  · refine modeEvent_kept ?_
    refine State.setCan_kept ?_
    assumption

theorem busEventOf_kept {kp : Keep} {k code s} (hs : Kept kp s) :
    Kept kp (busEventOf k code s) := by
  unfold busEventOf
  refine canEvent_kept ?_
  assumption

theorem setFlag_kept {kp : Keep} {k i s} (hs : Kept kp s) :
    Kept kp (setFlag k i s) := by
  unfold setFlag
  extract_lets +onlyGivenNames -merge -useContext x1; clear_value x1
  refine State.setCan_kept ?_
  assumption

theorem errorState_kept {kp : Keep} {k s} (hs : Kept kp s) :
    Kept kp (errorState k s) := by
  unfold errorState
  extract_lets +onlyGivenNames -merge -useContext x1; clear_value x1
  refine Kept.ite ?_ ?_
  · refine setState_kept ?_
    refine busEventOf_kept ?_
    refine setFlag_kept ?_
    refine State.setCan_kept ?_
    assumption
  · refine Kept.ite ?_ ?_
    · refine setState_kept ?_
      refine busEventOf_kept ?_
      refine setFlag_kept ?_
      assumption
    · refine Kept.ite ?_ ?_
      · refine setState_kept ?_
        refine busEventOf_kept ?_
        assumption
      · assumption

theorem canProtocolError_kept {kp : Keep} {k e tec rec' sof s} (hs : Kept kp s) :
    Kept kp (canProtocolError k e tec rec' sof s) := by
  unfold canProtocolError
  refine Kept.ite ?_ ?_
  · assumption
  · extract_lets +onlyGivenNames -merge -useContext x1
    have hx1 : Kept kp x1 := by
      unfold x1
      refine returnFrame_kept ?_
      refine takeBus_kept ?_
      assumption
    clear_value x1
    extract_lets +onlyGivenNames -merge -useContext x2; clear_value x2
    extract_lets +onlyGivenNames -merge -useContext x3; clear_value x3
    extract_lets +onlyGivenNames -merge -useContext x4; clear_value x4
    extract_lets +onlyGivenNames -merge -useContext x5; clear_value x5
    refine errorState_kept ?_
    refine setFlag_kept ?_
    refine State.setCan_kept ?_
    assumption

theorem execCanProtocolError_kept {kp : Keep} {k e tec rec' sof s} (hs : Kept kp s) :
    KeptO kp (execCanProtocolError k e tec rec' sof s) := by
  unfold execCanProtocolError
  refine KeptO.next ?_
  refine canProtocolError_kept ?_
  assumption

theorem canReports_kept {kp : Keep} {k s} (hs : Kept kp s) :
    Kept kp (canReports k s) := by
  unfold canReports
  extract_lets +onlyGivenNames -merge -useContext x1; clear_value x1
  extract_lets +onlyGivenNames -merge -useContext x2
  have hx2 : Kept kp x2 := by
    unfold x2
    refine State.setCan_kept ?_
    assumption
  clear_value x2
  extract_lets +onlyGivenNames -merge -useContext x3
  have hx3 : Kept kp x3 := by
    unfold x3
    refine Kept.foldl ?_ ?_
    · intro x4 x5 h6
      refine canEvent_kept ?_
      assumption
    · assumption
  clear_value x3
  refine Kept.foldl ?_ ?_
  · intro x7 x8 h9
    refine canEvent_kept ?_
    assumption
  · assumption

theorem applyLoads_kept {kp : Keep} {s} (hs : Kept kp s) :
    Kept kp (applyLoads s) := by
  unfold applyLoads
  extract_lets +onlyGivenNames -merge -useContext x1; clear_value x1
  extract_lets +onlyGivenNames -merge -useContext x2; clear_value x2
  extract_lets +onlyGivenNames -merge -useContext x3
  have hx3 : Kept kp x3 := by
    unfold x3
    refine Kept.upd rfl rfl ?_
    assumption
  clear_value x3
  split
  · rename_i x4 h5
    assumption
  · rename_i x6 x7 h8
    extract_lets +onlyGivenNames -merge -useContext x9; clear_value x9
    split
    · rename_i x10 h11
      assumption
    · rename_i x12 x13 h14
      extract_lets +onlyGivenNames -merge -useContext x15; clear_value x15
      extract_lets +onlyGivenNames -merge -useContext x16; clear_value x16
      extract_lets +onlyGivenNames -merge -useContext x17; clear_value x17
      extract_lets +onlyGivenNames -merge -useContext x18
      have hx18 : Kept kp x18 := by
        unfold x18
        refine Kept.ite ?_ ?_
        · refine Kept.upd rfl rfl ?_
          assumption
        · refine Kept.upd rfl rfl ?_
          assumption
      clear_value x18
      refine finishAt_kept ?_
      assumption

theorem frameTxStart_kept {kp : Keep} {c s} (hs : Kept kp s) :
    Kept kp (frameTxStart c s) := by
  unfold frameTxStart
  extract_lets +onlyGivenNames -merge -useContext x1; clear_value x1
  refine Kept.ite ?_ ?_
  · assumption
  · extract_lets +onlyGivenNames -merge -useContext x2
    clear_value x2
    refine Kept.ite ?_ ?_
    · refine State.setOp_kept ?_
      assumption
    · refine finishAt_kept ?_
      assumption

theorem canTick_kept {kp : Keep} {s} (hs : Kept kp s) :
    Kept kp (canTick s) := by
  unfold canTick
  extract_lets +onlyGivenNames -merge -useContext x1
  have hx1 : Kept kp x1 := by
    unfold x1
    refine Kept.foldl ?_ ?_
    · intro x2 x3 h4
      refine canReports_kept ?_
      assumption
    · assumption
  clear_value x1
  extract_lets +onlyGivenNames -merge -useContext x5
  have hx5 : Kept kp x5 := by
    unfold x5
    refine applyLoads_kept ?_
    assumption
  clear_value x5
  refine Kept.foldl ?_ ?_
  · intro x6 x7 h8
    refine frameTxStart_kept ?_
    assumption
  · assumption

theorem frameTx_kept {kp : Keep} {c s} (hs : Kept kp s) :
    Kept kp (frameTx c s) := by
  unfold frameTx
  extract_lets +onlyGivenNames -merge -useContext x1; clear_value x1
  extract_lets +onlyGivenNames -merge -useContext x2; clear_value x2
  extract_lets +onlyGivenNames -merge -useContext x3; clear_value x3
  extract_lets +onlyGivenNames -merge -useContext x4; clear_value x4
  extract_lets +onlyGivenNames -merge -useContext x5; clear_value x5
  refine Kept.ite ?_ ?_
  · refine failOp_kept ?_
    assumption
  · refine Kept.ite ?_ ?_
    · refine failOp_kept ?_
      assumption
    · refine Kept.ite ?_ ?_
      · refine startOp_kept ?_
        assumption
      · refine readWhole_kept ?_ ?_
        · assumption
        · intro x6 x7 h8
          refine startRead_kept ?_
          assumption

theorem modeAtIdle_kept {kp : Keep} {k s} (hs : Kept kp s) :
    Kept kp (modeAtIdle k s) := by
  unfold modeAtIdle
  extract_lets +onlyGivenNames -merge -useContext x1; clear_value x1
  refine Kept.ite ?_ ?_
  · refine modeEvent_kept ?_
    refine State.setCan_kept ?_
    assumption
  · assumption

theorem goodSent_kept {kp : Keep} {k f s} (hs : Kept kp s) :
    Kept kp (goodSent k f s) := by
  unfold goodSent
  extract_lets +onlyGivenNames -merge -useContext x1; clear_value x1
  refine modeAtIdle_kept ?_
  refine errorState_kept ?_
  refine State.setCan_kept ?_
  assumption

theorem canFrameSent_kept {kp : Keep} {k sof s} (hs : Kept kp s) :
    Kept kp (canFrameSent k sof s) := by
  unfold canFrameSent
  extract_lets +onlyGivenNames -merge -useContext x1; clear_value x1
  refine Kept.ite ?_ ?_
  · assumption
  · extract_lets +onlyGivenNames -merge -useContext x2
    have hx2 : Kept kp x2 := by
      unfold x2
      refine takeBus_kept ?_
      refine State.advance_kept ?_
      assumption
    clear_value x2
    split
    · rename_i x3 h4
      assumption
    · rename_i x5 x6 h7
      split
      · rename_i x8 h9
        refine State.setCan_kept ?_
        assumption
      · rename_i x10 x11 h12
        extract_lets +onlyGivenNames -merge -useContext x13; clear_value x13
        refine goodSent_kept ?_
        refine finishOp_kept ?_
        assumption
    · rename_i x14 x15 x16 h17
      extract_lets +onlyGivenNames -merge -useContext x18; clear_value x18
      extract_lets +onlyGivenNames -merge -useContext x19; clear_value x19
      extract_lets +onlyGivenNames -merge -useContext x20
      have hx20 : Kept kp x20 := by
        unfold x20
        refine State.setBuf_kept ?_
        assumption
      clear_value x20
      extract_lets +onlyGivenNames -merge -useContext x21; clear_value x21
      extract_lets +onlyGivenNames -merge -useContext x22; clear_value x22
      extract_lets +onlyGivenNames -merge -useContext x23; clear_value x23
      refine goodSent_kept ?_
      refine State.setCan_kept ?_
      assumption

theorem rxBuf_kept {kp : Keep} {c s} (hs : Kept kp s) :
    Kept kp (rxBuf c s) := by
  unfold rxBuf
  refine Kept.ite ?_ ?_
  · refine failOp_kept ?_
    assumption
  · refine startOp_kept ?_
    assumption

theorem execRxBuf_kept {kp : Keep} {n s} (hs : Kept kp s) :
    KeptO kp (execRxBuf n s) := by
  unfold execRxBuf
  refine KeptO.next ?_
  refine takeOp_kept ?_ ?_
  · intro x1 x2 h3
    refine rxBuf_kept ?_
    assumption
  · assumption

theorem noteLost_kept {kp : Keep} {k code sof b s} (hs : Kept kp s) :
    Kept kp (noteLost k code sof b s) := by
  unfold noteLost
  extract_lets +onlyGivenNames -merge -useContext x1; clear_value x1
  extract_lets +onlyGivenNames -merge -useContext x2; clear_value x2
  refine State.setCan_kept ?_
  assumption

theorem publishRx_kept {kp : Keep} {k b sof bs s} (hs : Kept kp s) :
    Kept kp (publishRx k b sof bs s) := by
  unfold publishRx
  refine Kept.ite ?_ ?_
  · assumption
  · refine Kept.foldl ?_ ?_
    · intro x1 x2 h3
      refine Kept.ite ?_ ?_
      · split
        · rename_i x4 x5 h6
          refine publishLate_kept ?_
          assumption
        · rename_i x7 h8
          assumption
      · assumption
    · assumption

theorem storeFrame_kept {kp : Keep} {k b f s} (hs : Kept kp s) :
    Kept kp (storeFrame k b f s) := by
  unfold storeFrame
  extract_lets +onlyGivenNames -merge -useContext x1; clear_value x1
  extract_lets +onlyGivenNames -merge -useContext x2
  have hx2 : Kept kp x2 := by
    unfold x2
    refine Kept.ite ?_ ?_
    · refine noteLost_kept ?_
      refine setFlag_kept ?_
      assumption
    · assumption
  clear_value x2
  extract_lets +onlyGivenNames -merge -useContext x3
  have hx3 : Kept kp x3 := by
    unfold x3
    refine State.setBuf_kept ?_
    assumption
  clear_value x3
  refine publishRx_kept ?_
  assumption

theorem slotBce_kept {kp : Keep} {i v g s} (hs : Kept kp s) :
    KeptF kp (slotBce i v g s) := by
  unfold slotBce
  extract_lets +onlyGivenNames -merge -useContext x1; clear_value x1
  refine KeptF.ite ?_ ?_
  · refine KeptF.mk ?_
    refine Kept.upd rfl rfl ?_
    assumption
  · refine KeptF.mk ?_
    assumption

theorem abortPending_kept {kp : Keep} {k b s} (hs : Kept kp s) :
    Kept kp (abortPending k b s) := by
  unfold abortPending
  extract_lets +onlyGivenNames -merge -useContext x1; clear_value x1
  refine Kept.ite ?_ ?_
  · refine State.setBuf_kept ?_
    assumption
  · assumption

theorem canRoleWithdrawn_kept {kp : Keep} {wire s} (hs : Kept kp s) :
    Kept kp (canRoleWithdrawn wire s) := by
  unfold canRoleWithdrawn
  refine Kept.foldl ?_ ?_
  · intro x1 x2 h3
    extract_lets +onlyGivenNames -merge -useContext x4
    have hx4 : Kept kp x4 := by
      unfold x4
      refine takeBus_kept ?_
      assumption
    clear_value x4
    extract_lets +onlyGivenNames -merge -useContext x5
    have hx5 : Kept kp x5 := by
      unfold x5
      refine Kept.foldl ?_ ?_
      · intro x6 x7 h8
        refine Kept.ite ?_ ?_
        · refine abortPending_kept ?_
          assumption
        · assumption
      · assumption
    clear_value x5
    refine Kept.ite ?_ ?_
    · refine canEvent_kept ?_
      refine abortPending_kept ?_
      assumption
    · assumption
  · assumption

theorem frameTxTimeout_kept {kp : Keep} {k s} (hs : Kept kp s) :
    Kept kp (frameTxTimeout k s) := by
  unfold frameTxTimeout
  split
  · rename_i x1 h2
    assumption
  · rename_i x3 x4 h5
    extract_lets +onlyGivenNames -merge -useContext x6; clear_value x6
    refine Kept.ite ?_ ?_
    · assumption
    · refine State.reach_kept ?_ ?_
      · assumption
      · intro x7 h8
        refine canEvent_kept ?_
        refine failOp_kept ?_
        assumption

theorem execFrameTxTimeout_kept {kp : Keep} {k s} (hs : Kept kp s) :
    KeptO kp (execFrameTxTimeout k s) := by
  unfold execFrameTxTimeout
  refine KeptO.next ?_
  refine frameTxTimeout_kept ?_
  assumption

theorem assembleBuf_kept {kp : Keep} {k b g s} (hs : Kept kp s) :
    Kept kp (assembleBuf k b g s) := by
  unfold assembleBuf
  split
  rename_i x1 x2 x3 h4
  extract_lets +onlyGivenNames -merge -useContext x5; clear_value x5
  extract_lets +onlyGivenNames -merge -useContext x6
  have hx6 : Kept kp x6 := by
    unfold x6
    refine State.setBuf_kept ?_
    assumption
  clear_value x6
  refine Kept.ite ?_ ?_
  · refine canEvent_kept ?_
    assumption
  · assumption

theorem canTxreq_kept {kp : Keep} {k word v s} (hs : Kept kp s) :
    Kept kp (canTxreq k word v s) := by
  unfold canTxreq
  refine Kept.foldl ?_ ?_
  · intro x1 x2 h3
    extract_lets +onlyGivenNames -merge -useContext x4; clear_value x4
    extract_lets +onlyGivenNames -merge -useContext x5; clear_value x5
    refine Kept.ite ?_ ?_
    · refine assembleBuf_kept ?_
      assumption
    · assumption
  · assumption

theorem timeEvent_kept {kp : Keep} {k code g s} (hs : Kept kp s) :
    Kept kp (timeEvent k code g s) := by
  unfold timeEvent
  extract_lets +onlyGivenNames -merge -useContext x1; clear_value x1
  extract_lets +onlyGivenNames -merge -useContext x2; clear_value x2
  refine canEvent_kept ?_
  assumption

theorem referenceMessage_kept {kp : Keep} {k sof own cycle prev prevTime s} (hs : Kept kp s) :
    Kept kp (referenceMessage k sof own cycle prev prevTime s) := by
  unfold referenceMessage
  extract_lets +onlyGivenNames -merge -useContext x1; clear_value x1
  refine Kept.ite ?_ ?_
  · assumption
  · extract_lets +onlyGivenNames -merge -useContext x2
    have hx2 : Kept kp x2 := by
      unfold x2
      refine State.advance_kept ?_
      assumption
    clear_value x2
    refine Kept.ite ?_ ?_
    · refine Kept.ite ?_ ?_
      · refine State.setCan_kept ?_
        assumption
      · refine Kept.ite ?_ ?_
        · assumption
        · extract_lets +onlyGivenNames -merge -useContext x3
          have hx3 : Kept kp x3 := by
            unfold x3
            refine State.setCan_kept ?_
            assumption
          clear_value x3
          extract_lets +onlyGivenNames -merge -useContext x4; clear_value x4
          extract_lets +onlyGivenNames -merge -useContext x5; clear_value x5
          refine timeEvent_kept ?_
          refine State.setBuf_kept ?_
          assumption
    · refine Kept.ite ?_ ?_
      · extract_lets +onlyGivenNames -merge -useContext x6
        clear_value x6
        extract_lets +onlyGivenNames -merge -useContext x7; clear_value x7
        split
        rename_i x8 x9 x10 h11
        extract_lets +onlyGivenNames -merge -useContext x12
        have hx12 : Kept kp x12 := by
          unfold x12
          refine State.setCan_kept ?_
          assumption
        clear_value x12
        split
        · rename_i x13
          assumption
        · rename_i x14 x15
          extract_lets +onlyGivenNames -merge -useContext x16
          have hx16 : Kept kp x16 := by
            unfold x16
            refine Kept.ite ?_ ?_
            · refine setFlag_kept ?_
              assumption
            · assumption
          clear_value x16
          refine timeEvent_kept ?_
          assumption
      · assumption

theorem cutFrame_kept {kp : Keep} {k s} (hs : Kept kp s) :
    Kept kp (cutFrame k s) := by
  unfold cutFrame
  extract_lets +onlyGivenNames -merge -useContext x1; clear_value x1
  extract_lets +onlyGivenNames -merge -useContext x2
  have hx2 : Kept kp x2 := by
    unfold x2
    refine State.setCan_kept ?_
    assumption
  clear_value x2
  split
  · rename_i x3 x4 x5 h6
    refine State.setBuf_kept ?_
    assumption
  · rename_i x7 h8
    assumption

theorem canCtlWrite_kept {kp : Keep} {k v idle s} (hs : Kept kp s) :
    Kept kp (canCtlWrite k v idle s) := by
  unfold canCtlWrite
  extract_lets +onlyGivenNames -merge -useContext x1; clear_value x1
  extract_lets +onlyGivenNames -merge -useContext x2; clear_value x2
  extract_lets +onlyGivenNames -merge -useContext x3; clear_value x3
  refine Kept.ite ?_ ?_
  · extract_lets +onlyGivenNames -merge -useContext x4
    clear_value x4
    extract_lets +onlyGivenNames -merge -useContext x5
    have hx5 : Kept kp x5 := by
      unfold x5
      refine State.setCan_kept ?_
      assumption
    clear_value x5
    refine Kept.ite ?_ ?_
    · refine setState_kept ?_
      assumption
    · refine Kept.ite ?_ ?_
      · refine modeEvent_kept ?_
        assumption
      · assumption
  · refine Kept.ite ?_ ?_
    · refine setState_kept ?_
      refine cutFrame_kept ?_
      refine State.setCan_kept ?_
      assumption
    · extract_lets +onlyGivenNames -merge -useContext x6
      have hx6 : Kept kp x6 := by
        unfold x6
        refine State.setCan_kept ?_
        assumption
      clear_value x6
      refine Kept.ite ?_ ?_
      · refine modeAtIdle_kept ?_
        assumption
      · assumption

theorem canCyclicAssembly_kept {kp : Keep} {k b sof s} (hs : Kept kp s) :
    Kept kp (canCyclicAssembly k b sof s) := by
  unfold canCyclicAssembly
  extract_lets +onlyGivenNames -merge -useContext x1; clear_value x1
  extract_lets +onlyGivenNames -merge -useContext x2; clear_value x2
  extract_lets +onlyGivenNames -merge -useContext x3; clear_value x3
  extract_lets +onlyGivenNames -merge -useContext x4; clear_value x4
  extract_lets +onlyGivenNames -merge -useContext x5; clear_value x5
  refine Kept.ite ?_ ?_
  · assumption
  · extract_lets +onlyGivenNames -merge -useContext x6
    have hx6 : Kept kp x6 := by
      unfold x6
      refine takeBus_kept ?_
      refine State.advance_kept ?_
      assumption
    clear_value x6
    extract_lets +onlyGivenNames -merge -useContext x7; clear_value x7
    extract_lets +onlyGivenNames -merge -useContext x8; clear_value x8
    extract_lets +onlyGivenNames -merge -useContext x9; clear_value x9
    extract_lets +onlyGivenNames -merge -useContext x10
    have hx10 : Kept kp x10 := by
      unfold x10
      refine State.setBuf_kept ?_
      assumption
    clear_value x10
    extract_lets +onlyGivenNames -merge -useContext x11
    have hx11 : Kept kp x11 := by
      unfold x11
      refine Kept.ite ?_ ?_
      · refine canEvent_kept ?_
        refine setFlag_kept ?_
        assumption
      · assumption
    clear_value x11
    refine assembleBuf_kept ?_
    assumption

theorem canTmCfgWrite_kept {kp : Keep} {k w s} (hs : Kept kp s) :
    Kept kp (canTmCfgWrite k w s) := by
  unfold canTmCfgWrite
  extract_lets +onlyGivenNames -merge -useContext x1; clear_value x1
  extract_lets +onlyGivenNames -merge -useContext x2; clear_value x2
  extract_lets +onlyGivenNames -merge -useContext x3; clear_value x3
  extract_lets +onlyGivenNames -merge -useContext x4; clear_value x4
  extract_lets +onlyGivenNames -merge -useContext x5; clear_value x5
  extract_lets +onlyGivenNames -merge -useContext x6; clear_value x6
  refine Kept.ite ?_ ?_
  · assumption
  · extract_lets +onlyGivenNames -merge -useContext x7
    clear_value x7
    extract_lets +onlyGivenNames -merge -useContext x8
    have hx8 : Kept kp x8 := by
      unfold x8
      refine State.setCan_kept ?_
      assumption
    clear_value x8
    refine Kept.ite ?_ ?_
    · refine timeEvent_kept ?_
      assumption
    · assumption

theorem execCanTmCfgWrite_kept {kp : Keep} {a k v s} (hs : Kept kp s) :
    KeptO kp (execCanTmCfgWrite a k v s) := by
  unfold execCanTmCfgWrite
  refine KeptO.next ?_
  refine gateWrite_kept ?_ ?_
  · assumption
  · intro x1 h2
    refine canTmCfgWrite_kept ?_
    assumption

theorem slotWrite_kept {kp : Keep} {c s} (hs : Kept kp s) :
    Kept kp (slotWrite c s) := by
  unfold slotWrite
  extract_lets +onlyGivenNames -merge -useContext x1; clear_value x1
  refine Kept.ite ?_ ?_
  · refine failOp_kept ?_
    assumption
  · extract_lets +onlyGivenNames -merge -useContext x2
    clear_value x2
    extract_lets +onlyGivenNames -merge -useContext x3; clear_value x3
    extract_lets +onlyGivenNames -merge -useContext x4
    have hx4 : Kept kp x4 := by
      unfold x4
      refine Kept.foldl ?_ ?_
      · intro x5 x6 h7
        refine Kept.upd rfl rfl ?_
        assumption
      · assumption
    clear_value x4
    refine finishOp_kept ?_
    assumption

theorem bufRead_kept {kp : Keep} {a base q w s} (hs : Kept kp s) :
    KeptS kp (bufRead a base q w s) := by
  unfold bufRead
  split
  · rename_i x1
    refine KeptS.mk ?_
    assumption
  · rename_i x2
    refine KeptS.mk ?_
    assumption
  · rename_i x3
    refine KeptS.mk ?_
    assumption
  · rename_i x4
    refine KeptS.mk ?_
    assumption
  · rename_i x5
    refine KeptS.mk ?_
    refine State.latch_kept ?_
    assumption
  · rename_i x6
    refine shadowed_kept ?_
    assumption
  · rename_i x7
    refine KeptS.mk ?_
    assumption
  · rename_i x8 h9 h10 h11 h12 h13 h14 h15
    refine KeptS.mk ?_
    assumption

theorem canRead1_kept {kp : Keep} {a k o s} (hs : Kept kp s) :
    KeptS kp (canRead1 a k o s) := by
  unfold canRead1
  extract_lets +onlyGivenNames -merge -useContext x1; clear_value x1
  extract_lets +onlyGivenNames -merge -useContext x2; clear_value x2
  extract_lets +onlyGivenNames -merge -useContext x3; clear_value x3
  refine KeptS.ite ?_ ?_
  · refine KeptS.mk ?_
    assumption
  · refine KeptS.ite ?_ ?_
    · refine KeptS.mk ?_
      assumption
    · refine KeptS.ite ?_ ?_
      · refine KeptS.mk ?_
        assumption
      · refine KeptS.ite ?_ ?_
        · refine KeptS.mk ?_
          assumption
        · refine KeptS.ite ?_ ?_
          · refine KeptS.mk ?_
            assumption
          · refine KeptS.ite ?_ ?_
            · refine KeptS.mk ?_
              assumption
            · refine KeptS.ite ?_ ?_
              · extract_lets +onlyGivenNames -merge -useContext x4
                clear_value x4
                refine KeptS.mk ?_
                assumption
              · refine KeptS.ite ?_ ?_
                · refine KeptS.mk ?_
                  refine State.setCan_kept ?_
                  assumption
                · refine KeptS.ite ?_ ?_
                  · refine KeptS.mk ?_
                    assumption
                  · refine KeptS.ite ?_ ?_
                    · refine KeptS.mk ?_
                      assumption
                    · refine KeptS.ite ?_ ?_
                      · refine KeptS.mk ?_
                        assumption
                      · refine KeptS.ite ?_ ?_
                        · refine shadowed_kept ?_
                          assumption
                        · refine KeptS.ite ?_ ?_
                          · refine KeptS.mk ?_
                            refine State.latch_kept ?_
                            refine State.latch_kept ?_
                            refine State.latch_kept ?_
                            refine State.latch_kept ?_
                            refine State.latch_kept ?_
                            assumption
                          · refine KeptS.ite ?_ ?_
                            · refine shadowed_kept ?_
                              assumption
                            · refine KeptS.ite ?_ ?_
                              · refine shadowed_kept ?_
                                assumption
                              · refine KeptS.ite ?_ ?_
                                · refine shadowed_kept ?_
                                  assumption
                                · refine KeptS.ite ?_ ?_
                                  · refine shadowed_kept ?_
                                    assumption
                                  · refine KeptS.ite ?_ ?_
                                    · refine KeptS.mk ?_
                                      assumption
                                    · refine KeptS.ite ?_ ?_
                                      · refine KeptS.mk ?_
                                        refine State.latch_kept ?_
                                        assumption
                                      · refine KeptS.ite ?_ ?_
                                        · refine shadowed_kept ?_
                                          assumption
                                        · refine KeptS.ite ?_ ?_
                                          · refine KeptS.mk ?_
                                            assumption
                                          · refine KeptS.ite ?_ ?_
                                            · refine KeptS.mk ?_
                                              assumption
                                            · refine KeptS.ite ?_ ?_
                                              · refine KeptS.mk ?_
                                                assumption
                                              · refine KeptS.ite ?_ ?_
                                                · extract_lets +onlyGivenNames -merge -useContext x5
                                                  clear_value x5
                                                  refine bufRead_kept ?_
                                                  assumption
                                                · refine KeptS.ite ?_ ?_
                                                  · refine KeptS.mk ?_
                                                    assumption
                                                  · refine KeptS.ite ?_ ?_
                                                    · refine KeptS.mk ?_
                                                      assumption
                                                    · refine KeptS.mk ?_
                                                      assumption

theorem canRead_kept {kp : Keep} {a off s} (hs : Kept kp s) :
    KeptS kp (canRead a off s) := by
  unfold canRead
  refine canRead1_kept ?_
  assumption

theorem timeModelLost_kept {kp : Keep} {k s} (hs : Kept kp s) :
    Kept kp (timeModelLost k s) := by
  unfold timeModelLost
  extract_lets +onlyGivenNames -merge -useContext x1; clear_value x1
  refine Kept.ite ?_ ?_
  · extract_lets +onlyGivenNames -merge -useContext x2
    clear_value x2
    refine State.reach_kept ?_ ?_
    · assumption
    · intro x3 h4
      extract_lets +onlyGivenNames -merge -useContext x5; clear_value x5
      refine timeEvent_kept ?_
      refine setFlag_kept ?_
      refine State.setCan_kept ?_
      assumption
  · assumption

theorem execTimeModelLost_kept {kp : Keep} {k s} (hs : Kept kp s) :
    KeptO kp (execTimeModelLost k s) := by
  unfold execTimeModelLost
  refine KeptO.next ?_
  refine timeModelLost_kept ?_
  assumption

theorem execRecGo_kept {kp : Keep} {a k v s} (hs : Kept kp s) :
    KeptO kp (execRecGo a k v s) := by
  unfold execRecGo
  refine KeptO.next ?_
  refine gateWrite_kept ?_ ?_
  · assumption
  · intro x1 h2
    refine canCtlWrite_kept ?_
    assumption

theorem canTxabt_kept {kp : Keep} {k word v sof s} (hs : Kept kp s) :
    Kept kp (canTxabt k word v sof s) := by
  unfold canTxabt
  refine Kept.foldl ?_ ?_
  · intro x1 x2 h3
    extract_lets +onlyGivenNames -merge -useContext x4; clear_value x4
    extract_lets +onlyGivenNames -merge -useContext x5; clear_value x5
    refine Kept.ite ?_ ?_
    · refine Kept.ite ?_ ?_
      · refine State.setBuf_kept ?_
        assumption
      · refine State.setBuf_kept ?_
        assumption
    · assumption
  · refine takeBus_kept ?_
    assumption

theorem bufWrite_kept {kp : Keep} {k b w v s} (hs : Kept kp s) :
    Kept kp (bufWrite k b w v s) := by
  unfold bufWrite
  extract_lets +onlyGivenNames -merge -useContext x1; clear_value x1
  refine Kept.ite ?_ ?_
  · assumption
  · split
    · rename_i x2
      refine Kept.ite ?_ ?_
      · assumption
      · refine State.setBuf_kept ?_
        assumption
    · rename_i x3
      refine Kept.ite ?_ ?_
      · assumption
      · refine State.setBuf_kept ?_
        assumption
    · rename_i x4
      refine Kept.ite ?_ ?_
      · assumption
      · refine State.setBuf_kept ?_
        assumption
    · rename_i x5
      refine Kept.ite ?_ ?_
      · refine State.setBuf_kept ?_
        assumption
      · assumption
    · rename_i x6 h7 h8 h9 h10
      assumption

theorem canWrite1_kept {kp : Keep} {k o v s} (hs : Kept kp s) :
    Kept kp (canWrite1 k o v s) := by
  unfold canWrite1
  extract_lets +onlyGivenNames -merge -useContext x1; clear_value x1
  extract_lets +onlyGivenNames -merge -useContext x2
  have hx2 : ∀ y1 y2, Kept kp (x2 y1 y2) := by
    unfold x2
    intro x3 x4
    extract_lets +onlyGivenNames -merge -useContext x5; clear_value x5
    refine Kept.ite ?_ ?_
    · assumption
    · refine State.setBuf_kept ?_
      assumption
  clear_value x2
  refine Kept.ite ?_ ?_
  · refine canCtlWrite_kept ?_
    assumption
  · refine Kept.ite ?_ ?_
    · refine Kept.ite ?_ ?_
      · refine State.setCan_kept ?_
        assumption
      · assumption
    · refine Kept.ite ?_ ?_
      · refine Kept.ite ?_ ?_
        · refine State.setCan_kept ?_
          assumption
        · assumption
      · refine Kept.ite ?_ ?_
        · refine State.setCan_kept ?_
          assumption
        · refine Kept.ite ?_ ?_
          · refine State.setCan_kept ?_
            assumption
          · refine Kept.ite ?_ ?_
            · refine State.setCan_kept ?_
              assumption
            · refine Kept.ite ?_ ?_
              · refine canTmCfgWrite_kept ?_
                assumption
              · refine Kept.ite ?_ ?_
                · refine canTxreq_kept ?_
                  assumption
                · refine Kept.ite ?_ ?_
                  · refine canTxabt_kept ?_
                    assumption
                  · refine Kept.ite ?_ ?_
                    · refine bufWrite_kept ?_
                      assumption
                    · refine Kept.ite ?_ ?_
                      · apply hx2
                      · refine Kept.ite ?_ ?_
                        · apply hx2
                        · assumption

theorem canWrite_kept {kp : Keep} {off v s} (hs : Kept kp s) :
    Kept kp (canWrite off v s) := by
  unfold canWrite
  refine canWrite1_kept ?_
  assumption

theorem toPool_kept {kp : Keep} {k f s} (hs : Kept kp s) :
    Kept kp (toPool k f s) := by
  unfold toPool
  extract_lets +onlyGivenNames -merge -useContext x1; clear_value x1
  refine Kept.ite ?_ ?_
  · assumption
  · extract_lets +onlyGivenNames -merge -useContext x2
    clear_value x2
    extract_lets +onlyGivenNames -merge -useContext x3
    have hx3 : Kept kp x3 := by
      unfold x3
      refine State.setCan_kept ?_
      assumption
    clear_value x3
    split
    · rename_i x4 h5
      refine noteLost_kept ?_
      refine setFlag_kept ?_
      assumption
    · rename_i x6 x7 h8
      refine writeOut_kept ?_
      assumption

theorem canFrameReceive_kept {kp : Keep} {k f s} (hs : Kept kp s) :
    Kept kp (canFrameReceive k f s) := by
  unfold canFrameReceive
  extract_lets +onlyGivenNames -merge -useContext x1; clear_value x1
  refine Kept.ite ?_ ?_
  · assumption
  · extract_lets +onlyGivenNames -merge -useContext x2
    have hx2 : Kept kp x2 := by
      unfold x2
      refine State.advance_kept ?_
      assumption
    clear_value x2
    extract_lets +onlyGivenNames -merge -useContext x3
    have hx3 : Kept kp x3 := by
      unfold x3
      refine Kept.ite ?_ ?_
      · refine errorState_kept ?_
        refine State.setCan_kept ?_
        assumption
      · assumption
    clear_value x3
    extract_lets +onlyGivenNames -merge -useContext x4
    have hx4 : Kept kp x4 := by
      unfold x4
      refine Kept.ite ?_ ?_
      · assumption
      · refine Kept.ite ?_ ?_
        · refine toPool_kept ?_
          assumption
        · split
          · rename_i x5 x6 h7
            refine storeFrame_kept ?_
            assumption
          · rename_i x8 h9
            refine toPool_kept ?_
            assumption
    clear_value x4
    refine modeAtIdle_kept ?_
    assumption

theorem execCanFrameReceive_kept {kp : Keep} {k f s} (hs : Kept kp s) :
    KeptO kp (execCanFrameReceive k f s) := by
  unfold execCanFrameReceive
  refine KeptO.next ?_
  refine canFrameReceive_kept ?_
  assumption

theorem canArbitrationLost_kept {kp : Keep} {k sof s} (hs : Kept kp s) :
    Kept kp (canArbitrationLost k sof s) := by
  unfold canArbitrationLost
  refine Kept.ite ?_ ?_
  · assumption
  · refine returnFrame_kept ?_
    refine takeBus_kept ?_
    refine State.advance_kept ?_
    assumption

theorem execCanArbitrationLost_kept {kp : Keep} {k sof s} (hs : Kept kp s) :
    KeptO kp (execCanArbitrationLost k sof s) := by
  unfold execCanArbitrationLost
  refine KeptO.next ?_
  refine canArbitrationLost_kept ?_
  assumption

theorem execCanEnable_kept {kp : Keep} {a k v s} (hs : Kept kp s) :
    KeptO kp (execCanEnable a k v s) := by
  unfold execCanEnable
  refine KeptO.next ?_
  refine gateWrite_kept ?_ ?_
  · assumption
  · intro x1 h2
    refine canCtlWrite_kept ?_
    assumption

theorem execCanCyclicAssembly_kept {kp : Keep} {k b sof s} (hs : Kept kp s) :
    KeptO kp (execCanCyclicAssembly k b sof s) := by
  unfold execCanCyclicAssembly
  refine KeptO.next ?_
  refine canCyclicAssembly_kept ?_
  assumption

theorem execCanModeChange_kept {kp : Keep} {a k v idle s} (hs : Kept kp s) :
    KeptO kp (execCanModeChange a k v idle s) := by
  unfold execCanModeChange
  refine KeptO.next ?_
  refine gateWrite_kept ?_ ?_
  · assumption
  · intro x1 h2
    refine canCtlWrite_kept ?_
    assumption

theorem mapLoad_kept {kp : Keep} {tx c s} (hs : Kept kp s) :
    Kept kp (mapLoad tx c s) := by
  unfold mapLoad
  refine needBuffer_kept ?_ ?_
  · assumption
  · intro x1 h2
    extract_lets +onlyGivenNames -merge -useContext x3; clear_value x3
    extract_lets +onlyGivenNames -merge -useContext x4; clear_value x4
    refine Kept.ite ?_ ?_
    · refine failOp_kept ?_
      assumption
    · refine Kept.ite ?_ ?_
      · refine failOp_kept ?_
        assumption
      · refine readWhole_kept ?_ ?_
        · assumption
        · intro x5 x6 h7
          extract_lets +onlyGivenNames -merge -useContext x8; clear_value x8
          extract_lets +onlyGivenNames -merge -useContext x9; clear_value x9
          refine Kept.ite ?_ ?_
          · refine failOp_kept ?_
            assumption
          · refine startRead_kept ?_
            refine Kept.upd rfl rfl ?_
            assumption

theorem execTxmapLoad_kept {kp : Keep} {n s} (hs : Kept kp s) :
    KeptO kp (execTxmapLoad n s) := by
  unfold execTxmapLoad
  refine KeptO.next ?_
  refine takeOp_kept ?_ ?_
  · intro x1 x2 h3
    refine mapLoad_kept ?_
    assumption
  · assumption

theorem execSlotWrite_kept {kp : Keep} {n s} (hs : Kept kp s) :
    KeptO kp (execSlotWrite n s) := by
  unfold execSlotWrite
  refine KeptO.next ?_
  refine takeOp_kept ?_ ?_
  · intro x1 x2 h3
    refine slotWrite_kept ?_
    assumption
  · assumption

theorem canReset_kept {kp : Keep} {s} (hs : Kept kp s) :
    Kept kp (canReset s) := by
  unfold canReset
  refine Kept.upd rfl rfl ?_
  assumption

theorem execCanTxabt_kept {kp : Keep} {a k word v sof s} (hs : Kept kp s) :
    KeptO kp (execCanTxabt a k word v sof s) := by
  unfold execCanTxabt
  refine KeptO.next ?_
  refine gateWrite_kept ?_ ?_
  · assumption
  · intro x1 h2
    refine canTxabt_kept ?_
    assumption

theorem canIntegrated_kept {kp : Keep} {k s} (hs : Kept kp s) :
    Kept kp (canIntegrated k s) := by
  unfold canIntegrated
  refine Kept.ite ?_ ?_
  · refine errorState_kept ?_
    refine modeAtIdle_kept ?_
    refine setState_kept ?_
    assumption
  · assumption

theorem execCanIntegrated_kept {kp : Keep} {k s} (hs : Kept kp s) :
    KeptO kp (execCanIntegrated k s) := by
  unfold execCanIntegrated
  refine KeptO.next ?_
  refine canIntegrated_kept ?_
  assumption

theorem execCanTxreq_kept {kp : Keep} {a k word v s} (hs : Kept kp s) :
    KeptO kp (execCanTxreq a k word v s) := by
  unfold execCanTxreq
  refine KeptO.next ?_
  refine gateWrite_kept ?_ ?_
  · assumption
  · intro x1 h2
    refine canTxreq_kept ?_
    assumption

theorem busOffRecovered_kept {kp : Keep} {k s} (hs : Kept kp s) :
    Kept kp (busOffRecovered k s) := by
  unfold busOffRecovered
  extract_lets +onlyGivenNames -merge -useContext x1; clear_value x1
  refine Kept.ite ?_ ?_
  · refine setState_kept ?_
    refine busEventOf_kept ?_
    refine State.setCan_kept ?_
    assumption
  · assumption

theorem execBusOffRecovered_kept {kp : Keep} {k s} (hs : Kept kp s) :
    KeptO kp (execBusOffRecovered k s) := by
  unfold execBusOffRecovered
  refine KeptO.next ?_
  refine busOffRecovered_kept ?_
  assumption

theorem execReferenceMessage_kept {kp : Keep} {k sof own cycle prev prevTime s} (hs : Kept kp s) :
    KeptO kp (execReferenceMessage k sof own cycle prev prevTime s) := by
  unfold execReferenceMessage
  refine KeptO.next ?_
  refine referenceMessage_kept ?_
  assumption

theorem referenceAssembly_kept {kp : Keep} {k sof s} (hs : Kept kp s) :
    Kept kp (referenceAssembly k sof s) := by
  unfold referenceAssembly
  extract_lets +onlyGivenNames -merge -useContext x1; clear_value x1
  extract_lets +onlyGivenNames -merge -useContext x2; clear_value x2
  extract_lets +onlyGivenNames -merge -useContext x3; clear_value x3
  refine Kept.ite ?_ ?_
  · extract_lets +onlyGivenNames -merge -useContext x4
    clear_value x4
    extract_lets +onlyGivenNames -merge -useContext x5
    have hx5 : Kept kp x5 := by
      unfold x5
      refine takeBus_kept ?_
      refine State.advance_kept ?_
      assumption
    clear_value x5
    extract_lets +onlyGivenNames -merge -useContext x6; clear_value x6
    extract_lets +onlyGivenNames -merge -useContext x7; clear_value x7
    extract_lets +onlyGivenNames -merge -useContext x8; clear_value x8
    extract_lets +onlyGivenNames -merge -useContext x9
    have hx9 : Kept kp x9 := by
      unfold x9
      refine Kept.ite ?_ ?_
      · refine canEvent_kept ?_
        refine setFlag_kept ?_
        assumption
      · assumption
    clear_value x9
    extract_lets +onlyGivenNames -merge -useContext x10
    have hx10 : Kept kp x10 := by
      unfold x10
      refine State.setBuf_kept ?_
      assumption
    clear_value x10
    refine State.setCan_kept ?_
    assumption
  · assumption

theorem execReferenceAssembly_kept {kp : Keep} {k sof s} (hs : Kept kp s) :
    KeptO kp (execReferenceAssembly k sof s) := by
  unfold execReferenceAssembly
  refine KeptO.next ?_
  refine referenceAssembly_kept ?_
  assumption

theorem execMapLoad_kept {kp : Keep} {n s} (hs : Kept kp s) :
    KeptO kp (execMapLoad n s) := by
  unfold execMapLoad
  refine KeptO.next ?_
  refine takeOp_kept ?_ ?_
  · intro x1 x2 h3
    refine mapLoad_kept ?_
    assumption
  · assumption

theorem execFrameTx_kept {kp : Keep} {n s} (hs : Kept kp s) :
    KeptO kp (execFrameTx n s) := by
  unfold execFrameTx
  refine KeptO.next ?_
  refine takeOp_kept ?_ ?_
  · intro x1 x2 h3
    refine frameTx_kept ?_
    assumption
  · assumption

theorem canRoleTaken_kept {kp : Keep} {s} (hs : Kept kp s) :
    Kept kp (canRoleTaken s) := by
  unfold canRoleTaken
  refine Kept.foldl ?_ ?_
  · intro x1 x2 h3
    refine Kept.ite ?_ ?_
    · refine canEvent_kept ?_
      assumption
    · assumption
  · assumption

theorem execCanFrameSent_kept {kp : Keep} {k sof s} (hs : Kept kp s) :
    KeptO kp (execCanFrameSent k sof s) := by
  unfold execCanFrameSent
  refine KeptO.next ?_
  refine canFrameSent_kept ?_
  assumption

end Sys2Proof.Machine
end

