-- ==== Sys2Proof/Laws/KeptLoad.lean ====
section
/-!
SUPPORT. What the operations of Sys2Proof/Machine/Load.lean keep (see Sys2Proof/Laws/Kept.lean).
-/

namespace Sys2Proof.Machine

theorem State.setCh_kept {kp : Keep} {s n x} (hs : Kept kp s) :
    Kept kp (State.setCh s n x) := by
  unfold State.setCh
  refine Kept.upd rfl rfl ?_
  assumption

theorem chEvent_kept {kp : Keep} {n code data g s} (hs : Kept kp s) :
    Kept kp (chEvent n code data g s) := by
  unfold chEvent
  refine raiseAt_kept ?_
  assumption

theorem leaveOff_kept {kp : Keep} {n g s} (hs : Kept kp s) :
    Kept kp (leaveOff n g s) := by
  unfold leaveOff
  extract_lets +onlyGivenNames -merge -useContext x1; clear_value x1
  extract_lets +onlyGivenNames -merge -useContext x2
  have hx2 : Kept kp x2 := by
    unfold x2
    refine State.setCh_kept ?_
    assumption
  clear_value x2
  refine Kept.ite ?_ ?_
  · refine chEvent_kept ?_
    assumption
  · assumption

theorem enterOn_kept {kp : Keep} {n g k soft s} (hs : Kept kp s) :
    Kept kp (enterOn n g k soft s) := by
  unfold enterOn
  extract_lets +onlyGivenNames -merge -useContext x1
  have hx1 : Kept kp x1 := by
    unfold x1
    refine leaveOff_kept ?_
    assumption
  clear_value x1
  extract_lets +onlyGivenNames -merge -useContext x2; clear_value x2
  extract_lets +onlyGivenNames -merge -useContext x3; clear_value x3
  refine Kept.ite ?_ ?_
  · extract_lets +onlyGivenNames -merge -useContext x4
    clear_value x4
    extract_lets +onlyGivenNames -merge -useContext x5; clear_value x5
    extract_lets +onlyGivenNames -merge -useContext x6; clear_value x6
    extract_lets +onlyGivenNames -merge -useContext x7; clear_value x7
    extract_lets +onlyGivenNames -merge -useContext x8; clear_value x8
    extract_lets +onlyGivenNames -merge -useContext x9; clear_value x9
    refine State.setCh_kept ?_
    assumption
  · refine State.setCh_kept ?_
    assumption

theorem chAdvance_kept {kp : Keep} {n g s} (hs : Kept kp s) :
    Kept kp (chAdvance n g s) := by
  unfold chAdvance
  extract_lets +onlyGivenNames -merge -useContext x1; clear_value x1
  refine Kept.ite ?_ ?_
  · extract_lets +onlyGivenNames -merge -useContext x2
    clear_value x2
    split
    · rename_i x3 h4
      assumption
    · rename_i x5 x6 h7
      extract_lets +onlyGivenNames -merge -useContext x8; clear_value x8
      refine Kept.ite ?_ ?_
      · extract_lets +onlyGivenNames -merge -useContext x9
        clear_value x9
        refine State.setCh_kept ?_
        assumption
      · refine Kept.ite ?_ ?_
        · refine State.setCh_kept ?_
          assumption
        · assumption
  · refine Kept.ite ?_ ?_
    · split
      · rename_i x10 x11 h12
        extract_lets +onlyGivenNames -merge -useContext x13; clear_value x13
        refine Kept.ite ?_ ?_
        · refine enterOn_kept ?_
          assumption
        · assumption
      · rename_i x14 h15
        assumption
    · assumption

theorem lswAdvance_kept {kp : Keep} {g s} (hs : Kept kp s) :
    Kept kp (lswAdvance g s) := by
  unfold lswAdvance
  refine Kept.foldl ?_ ?_
  · intro x1 x2 h3
    refine chAdvance_kept ?_
    assumption
  · assumption

theorem State.setBank_kept {kp : Keep} {s bk x} (hs : Kept kp s) :
    Kept kp (State.setBank s bk x) := by
  unfold State.setBank
  split
  · rename_i x1
    refine Kept.upd rfl rfl ?_
    assumption
  · rename_i x2
    refine Kept.upd rfl rfl ?_
    assumption

theorem stopCh_kept {kp : Keep} {n st s} (hs : Kept kp s) :
    Kept kp (stopCh n st s) := by
  unfold stopCh
  extract_lets +onlyGivenNames -merge -useContext x1; clear_value x1
  refine State.setCh_kept ?_
  assumption

theorem bceDuty_kept {kp : Keep} {n duty g s} (hs : Kept kp s) :
    KeptF kp (bceDuty n duty g s) := by
  unfold bceDuty
  refine KeptF.ite ?_ ?_
  · refine KeptF.mk ?_
    assumption
  · extract_lets +onlyGivenNames -merge -useContext x1
    have hx1 : Kept kp x1 := by
      unfold x1
      refine chAdvance_kept ?_
      assumption
    clear_value x1
    extract_lets +onlyGivenNames -merge -useContext x2; clear_value x2
    refine KeptF.ite ?_ ?_
    · refine KeptF.mk ?_
      assumption
    · extract_lets +onlyGivenNames -merge -useContext x3
      have hx3 : Kept kp x3 := by
        unfold x3
        refine State.setCh_kept ?_
        assumption
      clear_value x3
      extract_lets +onlyGivenNames -merge -useContext x4
      have hx4 : Kept kp x4 := by
        unfold x4
        refine Kept.ite ?_ ?_
        · refine chEvent_kept ?_
          assumption
        · assumption
      clear_value x4
      refine KeptF.mk ?_
      refine chAdvance_kept ?_
      assumption

theorem chOff_kept {kp : Keep} {n s} (hs : Kept kp s) :
    Kept kp (chOff n s) := by
  unfold chOff
  extract_lets +onlyGivenNames -merge -useContext x1
  have hx1 : Kept kp x1 := by
    unfold x1
    refine stopCh_kept ?_
    assumption
  clear_value x1
  extract_lets +onlyGivenNames -merge -useContext x2; clear_value x2
  refine State.setCh_kept ?_
  assumption

theorem bceTimeout_kept {kp : Keep} {n s} (hs : Kept kp s) :
    Kept kp (bceTimeout n s) := by
  unfold bceTimeout
  extract_lets +onlyGivenNames -merge -useContext x1; clear_value x1
  refine Kept.ite ?_ ?_
  · extract_lets +onlyGivenNames -merge -useContext x2
    clear_value x2
    refine State.reach_kept ?_ ?_
    · assumption
    · intro x3 h4
      extract_lets +onlyGivenNames -merge -useContext x5
      have hx5 : Kept kp x5 := by
        unfold x5
        refine chAdvance_kept ?_
        assumption
      clear_value x5
      extract_lets +onlyGivenNames -merge -useContext x6; clear_value x6
      extract_lets +onlyGivenNames -merge -useContext x7
      have hx7 : Kept kp x7 := by
        unfold x7
        refine State.setCh_kept ?_
        assumption
      clear_value x7
      refine chAdvance_kept ?_
      refine chEvent_kept ?_
      assumption
  · assumption

end Sys2Proof.Machine
end

