-- ==== Sys2Proof/Laws/KeptLoadOps.lean ====
section
/-!
SUPPORT. What the operations of Sys2Proof/Machine/LoadOps.lean keep (see Sys2Proof/Laws/Kept.lean).
-/

namespace Sys2Proof.Machine

theorem fixropeThermalRestart_kept {kp : Keep} {n s} (hs : Kept kp s) :
    Kept kp (fixropeThermalRestart n s) := by
  unfold fixropeThermalRestart
  refine Kept.ite ?_ ?_
  · refine Kept.upd rfl rfl ?_
    assumption
  · assumption

theorem endProfile_kept {kp : Keep} {n t status s} (hs : Kept kp s) :
    Kept kp (endProfile n t status s) := by
  unfold endProfile
  split
  · rename_i x1 x2 x3 x4 h5 h6
    extract_lets +onlyGivenNames -merge -useContext x7; clear_value x7
    extract_lets +onlyGivenNames -merge -useContext x8
    have hx8 : Kept kp x8 := by
      unfold x8
      refine finishAt_kept ?_
      assumption
    clear_value x8
    refine State.setCh_kept ?_
    assumption
  · rename_i x9 x10 h11
    refine State.setCh_kept ?_
    assumption

theorem command_kept {kp : Keep} {n g on duty s} (hs : Kept kp s) :
    KeptF kp (command n g on duty s) := by
  unfold command
  extract_lets +onlyGivenNames -merge -useContext x1
  have hx1 : Kept kp x1 := by
    unfold x1
    refine chAdvance_kept ?_
    assumption
  clear_value x1
  extract_lets +onlyGivenNames -merge -useContext x2; clear_value x2
  refine KeptF.ite ?_ ?_
  · refine KeptF.mk ?_
    assumption
  · refine KeptF.ite ?_ ?_
    · refine KeptF.mk ?_
      assumption
    · extract_lets +onlyGivenNames -merge -useContext x3
      have hx3 : Kept kp x3 := by
        unfold x3
        refine Kept.ite ?_ ?_
        · refine State.setCh_kept ?_
          assumption
        · assumption
      clear_value x3
      refine KeptF.ite ?_ ?_
      · refine KeptF.mk ?_
        refine chOff_kept ?_
        assumption
      · refine KeptF.ite ?_ ?_
        · refine KeptF.mk ?_
          refine enterOn_kept ?_
          assumption
        · refine KeptF.mk ?_
          refine chAdvance_kept ?_
          assumption

theorem profileStep_kept {kp : Keep} {n s} (hs : Kept kp s) :
    Kept kp (profileStep n s) := by
  unfold profileStep
  split
  · rename_i x1 h2
    assumption
  · rename_i x3 x4 h5
    refine Kept.ite ?_ ?_
    · refine State.setCh_kept ?_
      assumption
    · refine Kept.ite ?_ ?_
      · assumption
      · extract_lets +onlyGivenNames -merge -useContext x6
        clear_value x6
        refine Kept.ite ?_ ?_
        · refine endProfile_kept ?_
          assumption
        · extract_lets +onlyGivenNames -merge -useContext x7
          clear_value x7
          extract_lets +onlyGivenNames -merge -useContext x8; clear_value x8
          extract_lets +onlyGivenNames -merge -useContext x9; clear_value x9
          split
          rename_i x10 x11 x12 h13
          have h14 : Kept kp x11 := by
            refine KeptF.of_eq h13 ?_
            refine command_kept ?_
            assumption
          extract_lets +onlyGivenNames -merge -useContext x15; clear_value x15
          extract_lets +onlyGivenNames -merge -useContext x16; clear_value x16
          extract_lets +onlyGivenNames -merge -useContext x17
          have hx17 : Kept kp x17 := by
            unfold x17
            refine State.setCh_kept ?_
            assumption
          clear_value x17
          split
          · rename_i x18 x19 h20
            refine State.setOp_kept ?_
            assumption
          · rename_i x21 h22
            assumption

theorem execChProfileStep_kept {kp : Keep} {c s} (hs : Kept kp s) :
    KeptO kp (execChProfileStep c s) := by
  unfold execChProfileStep
  refine KeptO.next ?_
  refine profileStep_kept ?_
  assumption

theorem applyEntry_kept {kp : Keep} {t e s} (hs : Kept kp s) :
    KeptF kp (applyEntry t e s) := by
  unfold applyEntry
  extract_lets +onlyGivenNames -merge -useContext x1
  have hx1 : Kept kp x1 := by
    unfold x1
    refine profileStep_kept ?_
    assumption
  clear_value x1
  extract_lets +onlyGivenNames -merge -useContext x2
  have hx2 : Kept kp x2 := by
    unfold x2
    refine Kept.ite ?_ ?_
    · refine endProfile_kept ?_
      assumption
    · assumption
  clear_value x2
  refine command_kept ?_
  assumption

theorem applyEntries_kept {kp : Keep} {t o z2 z3 z4 z5} (hz5 : Kept kp z5) :
    KeptF kp (applyEntries t o z2 z3 z4 z5) := by
  induction z2 generalizing z3 z4 z5 with
  | nil => exact KeptF.mk hz5
  | cons i r ih =>
    unfold applyEntries
    split
    · exact ih hz5
    · split
      rename_i x1 x2 h2
      exact ih (KeptF.of_eq h2 (applyEntry_kept hz5))

theorem execFixropeThermalRestart_kept {kp : Keep} {c s} (hs : Kept kp s) :
    KeptO kp (execFixropeThermalRestart c s) := by
  unfold execFixropeThermalRestart
  refine KeptO.next ?_
  refine fixropeThermalRestart_kept ?_
  assumption

theorem restart_kept {kp : Keep} {n cooled s} (hs : Kept kp s) :
    Kept kp (restart n cooled s) := by
  unfold restart
  extract_lets +onlyGivenNames -merge -useContext x1; clear_value x1
  refine Kept.ite ?_ ?_
  · extract_lets +onlyGivenNames -merge -useContext x2
    clear_value x2
    extract_lets +onlyGivenNames -merge -useContext x3; clear_value x3
    refine State.reach_kept ?_ ?_
    · assumption
    · intro x4 h5
      extract_lets +onlyGivenNames -merge -useContext x6; clear_value x6
      extract_lets +onlyGivenNames -merge -useContext x7
      have hx7 : Kept kp x7 := by
        unfold x7
        refine State.setCh_kept ?_
        assumption
      clear_value x7
      extract_lets +onlyGivenNames -merge -useContext x8
      have hx8 : Kept kp x8 := by
        unfold x8
        refine Kept.ite ?_ ?_
        · refine stopCh_kept ?_
          assumption
        · refine enterOn_kept ?_
          assumption
      clear_value x8
      refine chEvent_kept ?_
      assumption
  · assumption

theorem faultWrite_kept {kp : Keep} {bk half' v s} (hs : Kept kp s) :
    Kept kp (faultWrite bk half' v s) := by
  unfold faultWrite
  extract_lets +onlyGivenNames -merge -useContext x1; clear_value x1
  refine State.setBank_kept ?_
  assumption

theorem restartCountReset_kept {kp : Keep} {n s} (hs : Kept kp s) :
    Kept kp (restartCountReset n s) := by
  unfold restartCountReset
  extract_lets +onlyGivenNames -merge -useContext x1; clear_value x1
  refine Kept.ite ?_ ?_
  · refine State.reach_kept ?_ ?_
    · assumption
    · intro x2 h3
      refine State.setCh_kept ?_
      assumption
  · assumption

theorem execRestartCountReset_kept {kp : Keep} {c s} (hs : Kept kp s) :
    KeptO kp (execRestartCountReset c s) := by
  unfold execRestartCountReset
  refine KeptO.next ?_
  refine restartCountReset_kept ?_
  assumption

theorem lhMapLock_kept {kp : Keep} {v s} (hs : Kept kp s) :
    Kept kp (lhMapLock v s) := by
  unfold lhMapLock
  refine Kept.ite ?_ ?_
  · refine Kept.upd rfl rfl ?_
    assumption
  · assumption

theorem execLhMapLock_kept {kp : Keep} {a v s} (hs : Kept kp s) :
    KeptO kp (execLhMapLock a v s) := by
  unfold execLhMapLock
  refine KeptO.next ?_
  refine gateWrite_kept ?_ ?_
  · assumption
  · intro x1 h2
    refine lhMapLock_kept ?_
    assumption

theorem trip_kept {kp : Keep} {n g cause data both s} (hs : Kept kp s) :
    Kept kp (trip n g cause data both s) := by
  unfold trip
  extract_lets +onlyGivenNames -merge -useContext x1
  have hx1 : Kept kp x1 := by
    unfold x1
    refine chAdvance_kept ?_
    refine State.advance_kept ?_
    assumption
  clear_value x1
  extract_lets +onlyGivenNames -merge -useContext x2; clear_value x2
  extract_lets +onlyGivenNames -merge -useContext x3; clear_value x3
  extract_lets +onlyGivenNames -merge -useContext x4; clear_value x4
  extract_lets +onlyGivenNames -merge -useContext x5
  have hx5 : Kept kp x5 := by
    unfold x5
    refine stopCh_kept ?_
    assumption
  clear_value x5
  extract_lets +onlyGivenNames -merge -useContext x6; clear_value x6
  extract_lets +onlyGivenNames -merge -useContext x7
  have hx7 : Kept kp x7 := by
    unfold x7
    refine State.setCh_kept ?_
    assumption
  clear_value x7
  extract_lets +onlyGivenNames -merge -useContext x8; clear_value x8
  extract_lets +onlyGivenNames -merge -useContext x9; clear_value x9
  extract_lets +onlyGivenNames -merge -useContext x10
  have hx10 : Kept kp x10 := by
    unfold x10
    refine State.setBank_kept ?_
    assumption
  clear_value x10
  extract_lets +onlyGivenNames -merge -useContext x11
  have hx11 : Kept kp x11 := by
    unfold x11
    refine chEvent_kept ?_
    assumption
  clear_value x11
  refine Kept.ite ?_ ?_
  · refine chEvent_kept ?_
    assumption
  · assumption

theorem bankTick_kept {kp : Keep} {bk feed cur s} (hs : Kept kp s) :
    Kept kp (bankTick bk feed cur s) := by
  unfold bankTick
  refine Kept.ite ?_ ?_
  · refine State.setBank_kept ?_
    assumption
  · assumption

theorem lswErr_kept {kp : Keep} {off reason s} (hs : Kept kp s) :
    Kept kp (lswErr off reason s) := by
  unfold lswErr
  refine Kept.upd rfl rfl ?_
  assumption

theorem chRegWrite_kept {kp : Keep} {n reg w s} (hs : Kept kp s) :
    Kept kp (chRegWrite n reg w s) := by
  unfold chRegWrite
  extract_lets +onlyGivenNames -merge -useContext x1; clear_value x1
  extract_lets +onlyGivenNames -merge -useContext x2; clear_value x2
  refine Kept.ite ?_ ?_
  · refine lswErr_kept ?_
    assumption
  · refine Kept.ite ?_ ?_
    · refine lswErr_kept ?_
      assumption
    · refine Kept.ite ?_ ?_
      · refine lswErr_kept ?_
        assumption
      · extract_lets +onlyGivenNames -merge -useContext x3
        have hx3 : Kept kp x3 := by
          unfold x3
          refine State.setCh_kept ?_
          assumption
        clear_value x3
        refine Kept.ite ?_ ?_
        · refine State.setCh_kept ?_
          assumption
        · assumption

theorem lswCtlWrite_kept {kp : Keep} {v s} (hs : Kept kp s) :
    Kept kp (lswCtlWrite v s) := by
  unfold lswCtlWrite
  extract_lets +onlyGivenNames -merge -useContext x1; clear_value x1
  extract_lets +onlyGivenNames -merge -useContext x2
  have hx2 : Kept kp x2 := by
    unfold x2
    refine Kept.upd rfl rfl ?_
    assumption
  clear_value x2
  refine Kept.ite ?_ ?_
  · assumption
  · refine Kept.foldl ?_ ?_
    · intro x3 x4 h5
      split
      · rename_i x6 h7
        assumption
      · rename_i x8 h9
        assumption
      · rename_i x10 h11 h12
        refine chOff_kept ?_
        assumption
    · refine lswAdvance_kept ?_
      assumption

theorem execLswOutEnWrite_kept {kp : Keep} {a v s} (hs : Kept kp s) :
    KeptO kp (execLswOutEnWrite a v s) := by
  unfold execLswOutEnWrite
  refine KeptO.next ?_
  refine gateWrite_kept ?_ ?_
  · assumption
  · intro x1 h2
    refine lswCtlWrite_kept ?_
    assumption

theorem frInput_kept {kp : Keep} {k active n s} (hs : Kept kp s) :
    Kept kp (frInput k active n s) := by
  unfold frInput
  extract_lets +onlyGivenNames -merge -useContext x1; clear_value x1
  extract_lets +onlyGivenNames -merge -useContext x2; clear_value x2
  refine Kept.ite ?_ ?_
  · refine Kept.ite ?_ ?_
    · refine Kept.ite ?_ ?_
      · refine Kept.upd rfl rfl ?_
        assumption
      · assumption
    · refine Kept.upd rfl rfl ?_
      assumption
  · assumption

theorem returnOn_kept {kp : Keep} {bk g s} (hs : Kept kp s) :
    Kept kp (returnOn bk g s) := by
  unfold returnOn
  refine Kept.foldl ?_ ?_
  · intro x1 x2 h3
    refine Kept.ite ?_ ?_
    · refine Kept.ite ?_ ?_
      · refine chAdvance_kept ?_
        refine State.setCh_kept ?_
        assumption
      · refine enterOn_kept ?_
        assumption
    · assumption
  · assumption

theorem feedEvent_kept {kp : Keep} {bk code mV g s} (hs : Kept kp s) :
    Kept kp (feedEvent bk code mV g s) := by
  unfold feedEvent
  refine raiseAt_kept ?_
  assumption

theorem enterFeedLow_kept {kp : Keep} {bk g mV s} (hs : Kept kp s) :
    Kept kp (enterFeedLow bk g mV s) := by
  unfold enterFeedLow
  extract_lets +onlyGivenNames -merge -useContext x1; clear_value x1
  extract_lets +onlyGivenNames -merge -useContext x2
  have hx2 : Kept kp x2 := by
    unfold x2
    refine State.setBank_kept ?_
    assumption
  clear_value x2
  extract_lets +onlyGivenNames -merge -useContext x3
  have hx3 : Kept kp x3 := by
    unfold x3
    refine Kept.foldl ?_ ?_
    · intro x4 x5 h6
      refine Kept.ite ?_ ?_
      · refine stopCh_kept ?_
        assumption
      · refine Kept.ite ?_ ?_
        · refine State.setCh_kept ?_
          assumption
        · assumption
    · assumption
  clear_value x3
  refine feedEvent_kept ?_
  assumption

theorem bankFeedLow_kept {kp : Keep} {bk g mV s} (hs : Kept kp s) :
    Kept kp (bankFeedLow bk g mV s) := by
  unfold bankFeedLow
  extract_lets +onlyGivenNames -merge -useContext x1; clear_value x1
  refine Kept.ite ?_ ?_
  · assumption
  · extract_lets +onlyGivenNames -merge -useContext x2
    have hx2 : Kept kp x2 := by
      unfold x2
      refine lswAdvance_kept ?_
      refine State.advance_kept ?_
      assumption
    clear_value x2
    refine Kept.ite ?_ ?_
    · refine feedEvent_kept ?_
      refine State.setBank_kept ?_
      assumption
    · refine enterFeedLow_kept ?_
      assumption

theorem lhMapWrite_kept {kp : Keep} {reg w s} (hs : Kept kp s) :
    Kept kp (lhMapWrite reg w s) := by
  unfold lhMapWrite
  extract_lets +onlyGivenNames -merge -useContext x1; clear_value x1
  refine Kept.ite ?_ ?_
  · refine lswErr_kept ?_
    assumption
  · refine Kept.ite ?_ ?_
    · extract_lets +onlyGivenNames -merge -useContext x2
      clear_value x2
      refine Kept.ite ?_ ?_
      · refine Kept.upd rfl rfl ?_
        assumption
      · refine lswErr_kept ?_
        assumption
    · extract_lets +onlyGivenNames -merge -useContext x3
      clear_value x3
      refine Kept.ite ?_ ?_
      · refine lswErr_kept ?_
        assumption
      · refine Kept.upd rfl rfl ?_
        assumption

theorem lswWrite_kept {kp : Keep} {off v s} (hs : Kept kp s) :
    Kept kp (lswWrite off v s) := by
  unfold lswWrite
  refine Kept.ite ?_ ?_
  · refine lswCtlWrite_kept ?_
    assumption
  · refine Kept.ite ?_ ?_
    · refine lhMapLock_kept ?_
      assumption
    · refine Kept.ite ?_ ?_
      · refine lhMapWrite_kept ?_
        assumption
      · refine Kept.ite ?_ ?_
        · refine faultWrite_kept ?_
          assumption
        · refine Kept.ite ?_ ?_
          · refine faultWrite_kept ?_
            assumption
          · refine Kept.ite ?_ ?_
            · refine faultWrite_kept ?_
              assumption
            · refine Kept.ite ?_ ?_
              · refine faultWrite_kept ?_
                assumption
              · refine Kept.ite ?_ ?_
                · refine chRegWrite_kept ?_
                  assumption
                · assumption

theorem execRestart_kept {kp : Keep} {c cooled s} (hs : Kept kp s) :
    KeptO kp (execRestart c cooled s) := by
  unfold execRestart
  refine KeptO.next ?_
  refine restart_kept ?_
  assumption

theorem execLhMapWrite_kept {kp : Keep} {a reg v s} (hs : Kept kp s) :
    KeptO kp (execLhMapWrite a reg v s) := by
  unfold execLhMapWrite
  refine KeptO.next ?_
  refine gateWrite_kept ?_ ?_
  · assumption
  · intro x1 h2
    refine lhMapWrite_kept ?_
    assumption

theorem fromReplica_kept {kp : Keep} {n r s} (hs : Kept kp s) :
    Kept kp (fromReplica n r s) := by
  unfold fromReplica
  extract_lets +onlyGivenNames -merge -useContext x1; clear_value x1
  extract_lets +onlyGivenNames -merge -useContext x2; clear_value x2
  extract_lets +onlyGivenNames -merge -useContext x3
  have hx3 : Kept kp x3 := by
    unfold x3
    refine State.setCh_kept ?_
    assumption
  clear_value x3
  extract_lets +onlyGivenNames -merge -useContext x4
  have hx4 : Kept kp x4 := by
    unfold x4
    refine Kept.ite ?_ ?_
    · refine chEvent_kept ?_
      assumption
    · assumption
  clear_value x4
  extract_lets +onlyGivenNames -merge -useContext x5; clear_value x5
  extract_lets +onlyGivenNames -merge -useContext x6; clear_value x6
  extract_lets +onlyGivenNames -merge -useContext x7; clear_value x7
  extract_lets +onlyGivenNames -merge -useContext x8; clear_value x8
  extract_lets +onlyGivenNames -merge -useContext x9
  have hx9 : Kept kp x9 := by
    unfold x9
    refine Kept.ite ?_ ?_
    · refine State.setCh_kept ?_
      assumption
    · refine Kept.ite ?_ ?_
      · refine State.setCh_kept ?_
        assumption
      · refine Kept.ite ?_ ?_
        · refine State.setCh_kept ?_
          assumption
        · refine enterOn_kept ?_
          assumption
  clear_value x9
  refine Kept.ite ?_ ?_
  · refine chEvent_kept ?_
    assumption
  · assumption

theorem chTick_kept {kp : Keep} {b m n s} (hs : Kept kp s) :
    Kept kp (chTick b m n s) := by
  unfold chTick
  refine Kept.ite ?_ ?_
  · assumption
  · extract_lets +onlyGivenNames -merge -useContext x1
    clear_value x1
    extract_lets +onlyGivenNames -merge -useContext x2
    have hx2 : Kept kp x2 := by
      unfold x2
      split
      · rename_i x3
        assumption
      · rename_i x4 x5
        extract_lets +onlyGivenNames -merge -useContext x6; clear_value x6
        refine State.setCh_kept ?_
        assumption
    clear_value x2
    refine publishLate_kept ?_
    assumption

theorem lswTick_kept {kp : Keep} {b i s} (hs : Kept kp s) :
    Kept kp (lswTick b i s) := by
  unfold lswTick
  extract_lets +onlyGivenNames -merge -useContext x1
  have hx1 : Kept kp x1 := by
    unfold x1
    refine lswAdvance_kept ?_
    assumption
  clear_value x1
  extract_lets +onlyGivenNames -merge -useContext x2
  have hx2 : Kept kp x2 := by
    unfold x2
    refine bankTick_kept ?_
    refine bankTick_kept ?_
    assumption
  clear_value x2
  refine Kept.foldl ?_ ?_
  · intro x3 x4 h5
    refine chTick_kept ?_
    assumption
  · assumption

theorem gangMismatch_kept {kp : Keep} {n s} (hs : Kept kp s) :
    Kept kp (gangMismatch n s) := by
  unfold gangMismatch
  extract_lets +onlyGivenNames -merge -useContext x1; clear_value x1
  extract_lets +onlyGivenNames -merge -useContext x2; clear_value x2
  extract_lets +onlyGivenNames -merge -useContext x3
  have hx3 : Kept kp x3 := by
    unfold x3
    refine Kept.ite ?_ ?_
    · refine chEvent_kept ?_
      refine State.setCh_kept ?_
      assumption
    · refine Kept.ite ?_ ?_
      · refine chEvent_kept ?_
        refine State.setCh_kept ?_
        assumption
      · assumption
  clear_value x3
  extract_lets +onlyGivenNames -merge -useContext x4; clear_value x4
  refine Kept.ite ?_ ?_
  · refine chEvent_kept ?_
    refine State.setCh_kept ?_
    assumption
  · assumption

theorem clearOne_kept {kp : Keep} {n s} (hs : Kept kp s) :
    Kept kp (clearOne n s) := by
  unfold clearOne
  extract_lets +onlyGivenNames -merge -useContext x1; clear_value x1
  extract_lets +onlyGivenNames -merge -useContext x2; clear_value x2
  extract_lets +onlyGivenNames -merge -useContext x3
  have hx3 : Kept kp x3 := by
    unfold x3
    refine Kept.ite ?_ ?_
    · refine chOff_kept ?_
      assumption
    · assumption
  clear_value x3
  extract_lets +onlyGivenNames -merge -useContext x4; clear_value x4
  extract_lets +onlyGivenNames -merge -useContext x5
  have hx5 : Kept kp x5 := by
    unfold x5
    refine State.setCh_kept ?_
    assumption
  clear_value x5
  extract_lets +onlyGivenNames -merge -useContext x6
  have hx6 : Kept kp x6 := by
    unfold x6
    refine chEvent_kept ?_
    assumption
  clear_value x6
  extract_lets +onlyGivenNames -merge -useContext x7
  have hx7 : Kept kp x7 := by
    unfold x7
    refine Kept.ite ?_ ?_
    · refine chEvent_kept ?_
      assumption
    · assumption
  clear_value x7
  refine Kept.ite ?_ ?_
  · refine chEvent_kept ?_
    assumption
  · assumption

theorem chClear_kept {kp : Keep} {c s} (hs : Kept kp s) :
    Kept kp (chClear c s) := by
  unfold chClear
  extract_lets +onlyGivenNames -merge -useContext x1; clear_value x1
  refine Kept.ite ?_ ?_
  · refine failOp_kept ?_
    assumption
  · extract_lets +onlyGivenNames -merge -useContext x2
    clear_value x2
    extract_lets +onlyGivenNames -merge -useContext x3; clear_value x3
    extract_lets +onlyGivenNames -merge -useContext x4; clear_value x4
    extract_lets +onlyGivenNames -merge -useContext x5
    have hx5 : Kept kp x5 := by
      unfold x5
      refine Kept.foldl ?_ ?_
      · intro x6 x7 h8
        refine clearOne_kept ?_
        assumption
      · assumption
    clear_value x5
    refine finishOp_kept ?_
    assumption

theorem lhInputChange_kept {kp : Keep} {k active s} (hs : Kept kp s) :
    Kept kp (lhInputChange k active s) := by
  unfold lhInputChange
  refine Kept.ite ?_ ?_
  · extract_lets +onlyGivenNames -merge -useContext x1
    extract_lets +onlyGivenNames -merge -useContext x2
    have hx2 : Kept kp x2 := by
      unfold x2
      refine Kept.upd rfl rfl ?_
      assumption
    refine Kept.ite ?_ ?_
    · refine Kept.foldl ?_ ?_
      · intro x3 x4 h5
        refine frInput_kept ?_
        assumption
      · assumption
    · assumption
  · assumption

theorem inrushWindowEnd_kept {kp : Keep} {n s} (hs : Kept kp s) :
    Kept kp (inrushWindowEnd n s) := by
  unfold inrushWindowEnd
  split
  · rename_i x1 h2
    assumption
  · rename_i x3 x4 h5
    refine State.reach_kept ?_ ?_
    · assumption
    · intro x6 h7
      extract_lets +onlyGivenNames -merge -useContext x8
      have hx8 : Kept kp x8 := by
        unfold x8
        refine chAdvance_kept ?_
        assumption
      clear_value x8
      refine State.setCh_kept ?_
      assumption

theorem thermalTrip_kept {kp : Keep} {n g tj s} (hs : Kept kp s) :
    Kept kp (thermalTrip n g tj s) := by
  unfold thermalTrip
  refine Kept.ite ?_ ?_
  · refine trip_kept ?_
    assumption
  · assumption

theorem chProfile_kept {kp : Keep} {c s} (hs : Kept kp s) :
    Kept kp (chProfile c s) := by
  unfold chProfile
  refine needBuffer_kept ?_ ?_
  · assumption
  · intro x1 h2
    extract_lets +onlyGivenNames -merge -useContext x3; clear_value x3
    extract_lets +onlyGivenNames -merge -useContext x4; clear_value x4
    extract_lets +onlyGivenNames -merge -useContext x5; clear_value x5
    refine Kept.ite ?_ ?_
    · refine failOp_kept ?_
      assumption
    · refine Kept.ite ?_ ?_
      · refine failOp_kept ?_
        assumption
      · refine readWhole_kept ?_ ?_
        · assumption
        · intro x6 x7 h8
          split
          · rename_i x9 h10
            refine failOp_kept ?_
            assumption
          · rename_i x11 x12 h13
            refine Kept.ite ?_ ?_
            · refine failOp_kept ?_
              assumption
            · refine Kept.ite ?_ ?_
              · refine failOp_kept ?_
                assumption
              · extract_lets +onlyGivenNames -merge -useContext x14
                clear_value x14
                extract_lets +onlyGivenNames -merge -useContext x15
                have hx15 : Kept kp x15 := by
                  unfold x15
                  refine State.setCh_kept ?_
                  assumption
                clear_value x15
                refine startOp_kept ?_
                assumption

theorem lswTimeBase_kept {kp : Keep} {s} (hs : Kept kp s) :
    Kept kp (lswTimeBase s) := by
  unfold lswTimeBase
  refine Kept.upd rfl rfl ?_
  assumption

theorem chSetApplyOne_kept {kp : Keep} {c s} (hs : Kept kp s) :
    Kept kp (chSetApplyOne c s) := by
  unfold chSetApplyOne
  extract_lets +onlyGivenNames -merge -useContext x1; clear_value x1
  refine Kept.ite ?_ ?_
  · assumption
  · split
    rename_i x2 x3 x4 x5 h6
    have h7 : Kept kp x3 := by
      refine KeptF.of_eq h6 ?_
      refine applyEntries_kept ?_
      assumption
    refine finishAt_kept ?_
    assumption

theorem chRead_kept {kp : Keep} {c s} (hs : Kept kp s) :
    Kept kp (chRead c s) := by
  unfold chRead
  refine Kept.ite ?_ ?_
  · refine failOp_kept ?_
    assumption
  · refine startOp_kept ?_
    assumption

theorem execChRead_kept {kp : Keep} {n s} (hs : Kept kp s) :
    KeptO kp (execChRead n s) := by
  unfold execChRead
  refine KeptO.next ?_
  refine takeOp_kept ?_ ?_
  · intro x1 x2 h3
    refine chRead_kept ?_
    assumption
  · assumption

theorem crankHoldExpiry_kept {kp : Keep} {bk g mV s} (hs : Kept kp s) :
    Kept kp (crankHoldExpiry bk g mV s) := by
  unfold crankHoldExpiry
  split
  · rename_i x1 h2
    assumption
  · rename_i x3 x4 h5
    refine Kept.ite ?_ ?_
    · assumption
    · extract_lets +onlyGivenNames -merge -useContext x6
      have hx6 : Kept kp x6 := by
        unfold x6
        refine lswAdvance_kept ?_
        refine State.advance_kept ?_
        assumption
      clear_value x6
      refine enterFeedLow_kept ?_
      refine feedEvent_kept ?_
      assumption

theorem execCrankHoldExpiry_kept {kp : Keep} {bank at' mV s} (hs : Kept kp s) :
    KeptO kp (execCrankHoldExpiry bank at' mV s) := by
  unfold execCrankHoldExpiry
  refine KeptO.next ?_
  refine crankHoldExpiry_kept ?_
  assumption

theorem execLhInputChange_kept {kp : Keep} {k active s} (hs : Kept kp s) :
    KeptO kp (execLhInputChange k active s) := by
  unfold execLhInputChange
  refine KeptO.next ?_
  refine lhInputChange_kept ?_
  assumption

theorem openLoad_kept {kp : Keep} {n onState s} (hs : Kept kp s) :
    Kept kp (openLoad n onState s) := by
  unfold openLoad
  extract_lets +onlyGivenNames -merge -useContext x1; clear_value x1
  extract_lets +onlyGivenNames -merge -useContext x2; clear_value x2
  extract_lets +onlyGivenNames -merge -useContext x3; clear_value x3
  extract_lets +onlyGivenNames -merge -useContext x4
  have hx4 : ∀ y1, Kept kp y1 → Kept kp (x4 y1) := by
    unfold x4
    intro x5 h6
    refine chEvent_kept ?_
    refine State.setBank_kept ?_
    assumption
  clear_value x4
  refine Kept.ite ?_ ?_
  · refine Kept.ite ?_ ?_
    · apply hx4
      refine State.setCh_kept ?_
      assumption
    · refine Kept.ite ?_ ?_
      · refine chEvent_kept ?_
        refine State.setCh_kept ?_
        assumption
      · assumption
  · refine Kept.ite ?_ ?_
    · apply hx4
      refine State.setCh_kept ?_
      assumption
    · refine Kept.ite ?_ ?_
      · refine chEvent_kept ?_
        refine State.setCh_kept ?_
        assumption
      · assumption

theorem execOpenLoad_kept {kp : Keep} {c onState s} (hs : Kept kp s) :
    KeptO kp (execOpenLoad c onState s) := by
  unfold execOpenLoad
  refine KeptO.next ?_
  refine openLoad_kept ?_
  assumption

theorem execInrushWindowEnd_kept {kp : Keep} {c s} (hs : Kept kp s) :
    KeptO kp (execInrushWindowEnd c s) := by
  unfold execInrushWindowEnd
  refine KeptO.next ?_
  refine inrushWindowEnd_kept ?_
  assumption

theorem chSetApply_kept {kp : Keep} {s} (hs : Kept kp s) :
    Kept kp (chSetApply s) := by
  unfold chSetApply
  refine Kept.foldl ?_ ?_
  · intro x1 x2 h3
    refine chSetApplyOne_kept ?_
    assumption
  · assumption

theorem execLswChCfgWrite_kept {kp : Keep} {a c reg v s} (hs : Kept kp s) :
    KeptO kp (execLswChCfgWrite a c reg v s) := by
  unfold execLswChCfgWrite
  refine KeptO.next ?_
  refine gateWrite_kept ?_ ?_
  · assumption
  · intro x1 h2
    refine chRegWrite_kept ?_
    assumption

theorem chRegRead_kept {kp : Keep} {n off s} (hs : Kept kp s) :
    KeptS kp (chRegRead n off s) := by
  unfold chRegRead
  extract_lets +onlyGivenNames -merge -useContext x1; clear_value x1
  refine KeptS.ite ?_ ?_
  · refine KeptS.mk ?_
    assumption
  · refine KeptS.ite ?_ ?_
    · refine KeptS.mk ?_
      assumption
    · refine KeptS.ite ?_ ?_
      · refine KeptS.mk ?_
        assumption
      · refine KeptS.ite ?_ ?_
        · refine KeptS.mk ?_
          assumption
        · refine KeptS.ite ?_ ?_
          · refine KeptS.mk ?_
            assumption
          · refine KeptS.ite ?_ ?_
            · refine KeptS.mk ?_
              assumption
            · refine KeptS.ite ?_ ?_
              · refine KeptS.mk ?_
                assumption
              · refine KeptS.ite ?_ ?_
                · refine KeptS.mk ?_
                  refine State.setCh_kept ?_
                  assumption
                · refine KeptS.mk ?_
                  assumption

theorem lswRead_kept {kp : Keep} {a off s0} (hs0 : Kept kp s0) :
    KeptS kp (lswRead a off s0) := by
  unfold lswRead
  extract_lets +onlyGivenNames -merge -useContext x1
  have hx1 : Kept kp x1 := by
    unfold x1
    refine lswAdvance_kept ?_
    assumption
  clear_value x1
  extract_lets +onlyGivenNames -merge -useContext x2; clear_value x2
  refine KeptS.ite ?_ ?_
  · refine KeptS.mk ?_
    assumption
  · refine KeptS.ite ?_ ?_
    · refine KeptS.mk ?_
      assumption
    · refine KeptS.ite ?_ ?_
      · refine KeptS.mk ?_
        assumption
      · refine KeptS.ite ?_ ?_
        · refine KeptS.mk ?_
          assumption
        · refine KeptS.ite ?_ ?_
          · refine KeptS.mk ?_
            assumption
          · refine KeptS.ite ?_ ?_
            · refine KeptS.mk ?_
              assumption
            · refine KeptS.ite ?_ ?_
              · refine KeptS.mk ?_
                refine State.latch_kept ?_
                assumption
              · refine KeptS.ite ?_ ?_
                · refine KeptS.mk ?_
                  refine Kept.upd rfl rfl ?_
                  assumption
                · refine KeptS.ite ?_ ?_
                  · refine KeptS.mk ?_
                    assumption
                  · refine KeptS.ite ?_ ?_
                    · refine KeptS.mk ?_
                      assumption
                    · refine KeptS.ite ?_ ?_
                      · refine chRegRead_kept ?_
                        assumption
                      · refine KeptS.mk ?_
                        assumption

theorem chSet_kept {kp : Keep} {c s} (hs : Kept kp s) :
    Kept kp (chSet c s) := by
  unfold chSet
  extract_lets +onlyGivenNames -merge -useContext x1; clear_value x1
  extract_lets +onlyGivenNames -merge -useContext x2; clear_value x2
  refine Kept.ite ?_ ?_
  · refine failOp_kept ?_
    assumption
  · refine Kept.ite ?_ ?_
    · refine failOp_kept ?_
      assumption
    · refine Kept.ite ?_ ?_
      · refine failOp_kept ?_
        assumption
      · refine startOp_kept ?_
        assumption

theorem execChSet_kept {kp : Keep} {n s} (hs : Kept kp s) :
    KeptO kp (execChSet n s) := by
  unfold execChSet
  refine KeptO.next ?_
  refine takeOp_kept ?_ ?_
  · intro x1 x2 h3
    refine chSet_kept ?_
    assumption
  · assumption

theorem execChProfile_kept {kp : Keep} {n s} (hs : Kept kp s) :
    KeptO kp (execChProfile n s) := by
  unfold execChProfile
  refine KeptO.next ?_
  refine takeOp_kept ?_ ?_
  · intro x1 x2 h3
    refine chProfile_kept ?_
    assumption
  · assumption

theorem chReadSnapshot_kept {kp : Keep} {s} (hs : Kept kp s) :
    Kept kp (chReadSnapshot s) := by
  unfold chReadSnapshot
  split
  · rename_i x1 h2
    assumption
  · rename_i x3 x4 h5
    extract_lets +onlyGivenNames -merge -useContext x6; clear_value x6
    refine Kept.ite ?_ ?_
    · assumption
    · extract_lets +onlyGivenNames -merge -useContext x7
      have hx7 : Kept kp x7 := by
        unfold x7
        refine lswAdvance_kept ?_
        assumption
      clear_value x7
      extract_lets +onlyGivenNames -merge -useContext x8; clear_value x8
      refine writeOut_kept ?_
      assumption

theorem execChReadSnapshot_kept {kp : Keep} {s} (hs : Kept kp s) :
    KeptO kp (execChReadSnapshot s) := by
  unfold execChReadSnapshot
  refine KeptO.next ?_
  refine chReadSnapshot_kept ?_
  assumption

theorem driveGrant_kept {kp : Keep} {planned s} (hs : Kept kp s) :
    Kept kp (driveGrant planned s) := by
  unfold driveGrant
  extract_lets +onlyGivenNames -merge -useContext x1; clear_value x1
  extract_lets +onlyGivenNames -merge -useContext x2
  have hx2 : Kept kp x2 := by
    unfold x2
    refine Kept.upd rfl rfl ?_
    assumption
  clear_value x2
  refine Kept.foldl ?_ ?_
  · intro x3 x4 h5
    extract_lets +onlyGivenNames -merge -useContext x6; clear_value x6
    refine Kept.ite ?_ ?_
    · extract_lets +onlyGivenNames -merge -useContext x7
      have hx7 : Kept kp x7 := by
        unfold x7
        refine chEvent_kept ?_
        assumption
      clear_value x7
      split
      · rename_i x8 x9 h10
        refine Kept.ite ?_ ?_
        · refine fromReplica_kept ?_
          assumption
        · refine chEvent_kept ?_
          refine State.setCh_kept ?_
          assumption
      · rename_i x11 h12
        refine chEvent_kept ?_
        refine State.setCh_kept ?_
        assumption
    · assumption
  · assumption

theorem shortTrip_kept {kp : Keep} {n g mV thermalToo s} (hs : Kept kp s) :
    Kept kp (shortTrip n g mV thermalToo s) := by
  unfold shortTrip
  refine Kept.ite ?_ ?_
  · refine Kept.ite ?_ ?_
    · refine trip_kept ?_
      assumption
    · extract_lets +onlyGivenNames -merge -useContext x1
      have hx1 : Kept kp x1 := by
        unfold x1
        refine chAdvance_kept ?_
        refine State.advance_kept ?_
        assumption
      clear_value x1
      refine State.setCh_kept ?_
      assumption
  · assumption

theorem execShortTrip_kept {kp : Keep} {c at' mV thermalToo s} (hs : Kept kp s) :
    KeptO kp (execShortTrip c at' mV thermalToo s) := by
  unfold execShortTrip
  refine KeptO.next ?_
  refine shortTrip_kept ?_
  assumption

theorem bankOff_kept {kp : Keep} {bk s} (hs : Kept kp s) :
    Kept kp (bankOff bk s) := by
  unfold bankOff
  extract_lets +onlyGivenNames -merge -useContext x1
  have hx1 : Kept kp x1 := by
    unfold x1
    refine Kept.foldl ?_ ?_
    · intro x2 x3 h4
      refine Kept.ite ?_ ?_
      · refine endProfile_kept ?_
        assumption
      · assumption
    · assumption
  clear_value x1
  extract_lets +onlyGivenNames -merge -useContext x5; clear_value x5
  extract_lets +onlyGivenNames -merge -useContext x6
  have hx6 : Kept kp x6 := by
    unfold x6
    refine State.setBank_kept ?_
    assumption
  clear_value x6
  refine Kept.upd rfl rfl ?_
  assumption

theorem fixropeTrip_kept {kp : Keep} {n cause age mA mV s} (hs : Kept kp s) :
    Kept kp (fixropeTrip n cause age mA mV s) := by
  unfold fixropeTrip
  extract_lets +onlyGivenNames -merge -useContext x1; clear_value x1
  refine Kept.ite ?_ ?_
  · extract_lets +onlyGivenNames -merge -useContext x2
    clear_value x2
    extract_lets +onlyGivenNames -merge -useContext x3; clear_value x3
    extract_lets +onlyGivenNames -merge -useContext x4
    have hx4 : Kept kp x4 := by
      unfold x4
      refine Kept.upd rfl rfl ?_
      assumption
    clear_value x4
    refine raise_kept ?_
    assumption
  · assumption

theorem execChSetApply_kept {kp : Keep} {s} (hs : Kept kp s) :
    KeptO kp (execChSetApply s) := by
  unfold execChSetApply
  refine KeptO.next ?_
  refine chSetApply_kept ?_
  assumption

theorem driveWithdraw_kept {kp : Keep} {planned s} (hs : Kept kp s) :
    Kept kp (driveWithdraw planned s) := by
  unfold driveWithdraw
  extract_lets +onlyGivenNames -merge -useContext x1; clear_value x1
  extract_lets +onlyGivenNames -merge -useContext x2
  have hx2 : Kept kp x2 := by
    unfold x2
    refine lswAdvance_kept ?_
    refine Kept.upd rfl rfl ?_
    assumption
  clear_value x2
  refine Kept.foldl ?_ ?_
  · intro x3 x4 h5
    extract_lets +onlyGivenNames -merge -useContext x6; clear_value x6
    refine Kept.ite ?_ ?_
    · extract_lets +onlyGivenNames -merge -useContext x7
      have hx7 : Kept kp x7 := by
        unfold x7
        refine stopCh_kept ?_
        refine leaveOff_kept ?_
        assumption
      clear_value x7
      extract_lets +onlyGivenNames -merge -useContext x8; clear_value x8
      extract_lets +onlyGivenNames -merge -useContext x9
      have hx9 : Kept kp x9 := by
        unfold x9
        refine State.setCh_kept ?_
        assumption
      clear_value x9
      refine chEvent_kept ?_
      assumption
    · assumption
  · assumption

theorem execThermalTrip_kept {kp : Keep} {c at' tj s} (hs : Kept kp s) :
    KeptO kp (execThermalTrip c at' tj s) := by
  unfold execThermalTrip
  refine KeptO.next ?_
  refine thermalTrip_kept ?_
  assumption

theorem execBankFeedLow_kept {kp : Keep} {bank at' mV s} (hs : Kept kp s) :
    KeptO kp (execBankFeedLow bank at' mV s) := by
  unfold execBankFeedLow
  refine KeptO.next ?_
  refine bankFeedLow_kept ?_
  assumption

theorem execFixropeTrip_kept {kp : Keep} {c cause age mA mV s} (hs : Kept kp s) :
    KeptO kp (execFixropeTrip c cause age mA mV s) := by
  unfold execFixropeTrip
  refine KeptO.next ?_
  refine fixropeTrip_kept ?_
  assumption

theorem execBceTimeout_kept {kp : Keep} {c s} (hs : Kept kp s) :
    KeptO kp (execBceTimeout c s) := by
  unfold execBceTimeout
  refine KeptO.next ?_
  refine bceTimeout_kept ?_
  assumption

theorem bankFeedReturn_kept {kp : Keep} {bk g mV s} (hs : Kept kp s) :
    Kept kp (bankFeedReturn bk g mV s) := by
  unfold bankFeedReturn
  extract_lets +onlyGivenNames -merge -useContext x1; clear_value x1
  refine Kept.ite ?_ ?_
  · assumption
  · refine Kept.ite ?_ ?_
    · extract_lets +onlyGivenNames -merge -useContext x2
      have hx2 : Kept kp x2 := by
        unfold x2
        refine lswAdvance_kept ?_
        refine State.advance_kept ?_
        assumption
      clear_value x2
      refine feedEvent_kept ?_
      refine returnOn_kept ?_
      refine State.setBank_kept ?_
      assumption
    · refine Kept.ite ?_ ?_
      · extract_lets +onlyGivenNames -merge -useContext x3
        have hx3 : Kept kp x3 := by
          unfold x3
          refine lswAdvance_kept ?_
          refine State.advance_kept ?_
          assumption
        clear_value x3
        refine feedEvent_kept ?_
        refine State.setBank_kept ?_
        assumption
      · assumption

theorem execGangMismatch_kept {kp : Keep} {c s} (hs : Kept kp s) :
    KeptO kp (execGangMismatch c s) := by
  unfold execGangMismatch
  refine KeptO.next ?_
  refine gangMismatch_kept ?_
  assumption

theorem lswSlot_kept {kp : Keep} {g current s} (hs : Kept kp s) :
    Kept kp (lswSlot g current s) := by
  unfold lswSlot
  extract_lets +onlyGivenNames -merge -useContext x1
  have hx1 : Kept kp x1 := by
    unfold x1
    refine lswAdvance_kept ?_
    assumption
  clear_value x1
  refine Kept.ite ?_ ?_
  · assumption
  · refine Kept.foldl ?_ ?_
    · intro x2 x3 h4
      refine Kept.ite ?_ ?_
      · assumption
      · extract_lets +onlyGivenNames -merge -useContext x5
        clear_value x5
        extract_lets +onlyGivenNames -merge -useContext x6; clear_value x6
        refine publishLate_kept ?_
        refine State.setCh_kept ?_
        assumption
    · assumption

theorem execBankFeedReturn_kept {kp : Keep} {bank at' mV s} (hs : Kept kp s) :
    KeptO kp (execBankFeedReturn bank at' mV s) := by
  unfold execBankFeedReturn
  refine KeptO.next ?_
  refine bankFeedReturn_kept ?_
  assumption

theorem storeReplica_kept {kp : Keep} {n r s} (hs : Kept kp s) :
    Kept kp (storeReplica n r s) := by
  unfold storeReplica
  extract_lets +onlyGivenNames -merge -useContext x1; clear_value x1
  refine Kept.ite ?_ ?_
  · assumption
  · refine Kept.ite ?_ ?_
    · refine State.setCh_kept ?_
      assumption
    · extract_lets +onlyGivenNames -merge -useContext x2
      have hx2 : Kept kp x2 := by
        unfold x2
        refine State.setCh_kept ?_
        assumption
      clear_value x2
      refine Kept.ite ?_ ?_
      · assumption
      · refine chEvent_kept ?_
        assumption

theorem execChClear_kept {kp : Keep} {n s} (hs : Kept kp s) :
    KeptO kp (execChClear n s) := by
  unfold execChClear
  refine KeptO.next ?_
  refine takeOp_kept ?_ ?_
  · intro x1 x2 h3
    refine chClear_kept ?_
    assumption
  · assumption

end Sys2Proof.Machine
end

