-- ==== Sys2Proof/Laws/KeptBce.lean ====
section
/-!
SUPPORT. What the operations of Sys2Proof/Machine/Bce.lean keep (see Sys2Proof/Laws/Kept.lean).
-/

namespace Sys2Proof.Machine

theorem bceEvent_kept {kp : Keep} {src code c data g s} (hs : Kept kp s) :
    Kept kp (bceEvent src code c data g s) := by
  unfold bceEvent
  refine raiseAt_kept ?_
  assumption

theorem stopContext_kept {kp : Keep} {c t safe s} (hs : Kept kp s) :
    Kept kp (stopContext c t safe s) := by
  unfold stopContext
  extract_lets +onlyGivenNames -merge -useContext x1; clear_value x1
  extract_lets +onlyGivenNames -merge -useContext x2; clear_value x2
  extract_lets +onlyGivenNames -merge -useContext x3; clear_value x3
  extract_lets +onlyGivenNames -merge -useContext x4
  have hx4 : Kept kp x4 := by
    unfold x4
    refine State.setBctx_kept ?_
    assumption
  clear_value x4
  refine bceEvent_kept ?_
  assumption

theorem bceSettle_kept {kp : Keep} {s} (hs : Kept kp s) :
    Kept kp (bceSettle s) := by
  unfold bceSettle
  refine Kept.foldl ?_ ?_
  · intro x1 x2 h3
    extract_lets +onlyGivenNames -merge -useContext x4
    have hx4 : Kept kp x4 := by
      unfold x4
      refine State.setBctx_kept ?_
      assumption
    clear_value x4
    split
    · rename_i x5 x6 x7 h8
      refine Kept.ite ?_ ?_
      · refine stopContext_kept ?_
        assumption
      · assumption
    · rename_i x9 h10
      assumption
  · assumption

theorem bceStopAll_kept {kp : Keep} {s} (hs : Kept kp s) :
    Kept kp (bceStopAll s) := by
  unfold bceStopAll
  refine Kept.foldl ?_ ?_
  · intro x1 x2 h3
    extract_lets +onlyGivenNames -merge -useContext x4; clear_value x4
    split
    · rename_i x5 h6
      refine State.setBctx_kept ?_
      assumption
    · rename_i x7 h8
      refine State.setBctx_kept ?_
      assumption
    · rename_i x9 h10
      refine State.setBctx_kept ?_
      assumption
    · rename_i x11 h12 h13 h14
      assumption
  · assumption

theorem bceCtlWrite_kept {kp : Keep} {v s} (hs : Kept kp s) :
    Kept kp (bceCtlWrite v s) := by
  unfold bceCtlWrite
  extract_lets +onlyGivenNames -merge -useContext x1
  have hx1 : Kept kp x1 := by
    unfold x1
    refine bceSettle_kept ?_
    assumption
  clear_value x1
  extract_lets +onlyGivenNames -merge -useContext x2; clear_value x2
  extract_lets +onlyGivenNames -merge -useContext x3; clear_value x3
  extract_lets +onlyGivenNames -merge -useContext x4; clear_value x4
  extract_lets +onlyGivenNames -merge -useContext x5
  have hx5 : Kept kp x5 := by
    unfold x5
    refine Kept.upd rfl rfl ?_
    assumption
  clear_value x5
  refine Kept.ite ?_ ?_
  · assumption
  · refine bceStopAll_kept ?_
    assumption

theorem bceWrite_kept {kp : Keep} {off v s} (hs : Kept kp s) :
    Kept kp (bceWrite off v s) := by
  unfold bceWrite
  refine Kept.ite ?_ ?_
  · refine bceCtlWrite_kept ?_
    assumption
  · refine Kept.ite ?_ ?_
    · refine Kept.upd rfl rfl ?_
      assumption
    · refine Kept.ite ?_ ?_
      · refine Kept.upd rfl rfl ?_
        assumption
      · assumption

theorem bceTickLead_kept {kp : Keep} {t s} (hs : Kept kp s) :
    Kept kp (bceTickLead t s) := by
  unfold bceTickLead
  refine Kept.ite ?_ ?_
  · refine Kept.upd rfl rfl ?_
    assumption
  · assumption

theorem bceCtxStop_kept {kp : Keep} {c s} (hs : Kept kp s) :
    Kept kp (bceCtxStop c s) := by
  unfold bceCtxStop
  extract_lets +onlyGivenNames -merge -useContext x1
  have hx1 : Kept kp x1 := by
    unfold x1
    refine bceSettle_kept ?_
    assumption
  clear_value x1
  extract_lets +onlyGivenNames -merge -useContext x2; clear_value x2
  refine Kept.ite ?_ ?_
  · refine failOp_kept ?_
    assumption
  · extract_lets +onlyGivenNames -merge -useContext x3
    clear_value x3
    extract_lets +onlyGivenNames -merge -useContext x4
    have hx4 : Kept kp x4 := by
      unfold x4
      refine Kept.foldl ?_ ?_
      · intro x5 x6 h7
        extract_lets +onlyGivenNames -merge -useContext x8; clear_value x8
        refine State.setBctx_kept ?_
        assumption
      · assumption
    clear_value x4
    refine startOp_kept ?_
    assumption

theorem bceSchema_kept {kp : Keep} {c xfer reason ctx word s} (hs : Kept kp s) :
    Kept kp (bceSchema c xfer reason ctx word s) := by
  unfold bceSchema
  refine failOp_kept ?_
  refine Kept.upd rfl rfl ?_
  assumption

theorem bceCtxPatch_kept {kp : Keep} {c s} (hs : Kept kp s) :
    Kept kp (bceCtxPatch c s) := by
  unfold bceCtxPatch
  refine needBuffer_kept ?_ ?_
  · assumption
  · intro x1 h2
    extract_lets +onlyGivenNames -merge -useContext x3
    have hx3 : Kept kp x3 := by
      unfold x3
      refine bceSettle_kept ?_
      assumption
    clear_value x3
    extract_lets +onlyGivenNames -merge -useContext x4; clear_value x4
    extract_lets +onlyGivenNames -merge -useContext x5; clear_value x5
    extract_lets +onlyGivenNames -merge -useContext x6; clear_value x6
    extract_lets +onlyGivenNames -merge -useContext x7; clear_value x7
    extract_lets +onlyGivenNames -merge -useContext x8; clear_value x8
    refine Kept.ite ?_ ?_
    · refine failOp_kept ?_
      assumption
    · refine Kept.ite ?_ ?_
      · refine failOp_kept ?_
        assumption
      · refine Kept.ite ?_ ?_
        · refine failOp_kept ?_
          assumption
        · refine Kept.ite ?_ ?_
          · refine bceSchema_kept ?_
            assumption
          · refine readWhole_kept ?_ ?_
            · assumption
            · intro x9 x10 h11
              extract_lets +onlyGivenNames -merge -useContext x12; clear_value x12
              extract_lets +onlyGivenNames -merge -useContext x13; clear_value x13
              extract_lets +onlyGivenNames -merge -useContext x14; clear_value x14
              split
              · rename_i x15 x16 h17
                refine bceSchema_kept ?_
                assumption
              · rename_i x18 h19
                refine startRead_kept ?_
                refine State.setBctx_kept ?_
                assumption

theorem writeDest_kept {kp : Keep} {c u g latch s} (hs : Kept kp s) :
    KeptF kp (writeDest c u g latch s) := by
  unfold writeDest
  extract_lets +onlyGivenNames -merge -useContext x1; clear_value x1
  extract_lets +onlyGivenNames -merge -useContext x2; clear_value x2
  split
  · rename_i x3 h4
    extract_lets +onlyGivenNames -merge -useContext x5; clear_value x5
    extract_lets +onlyGivenNames -merge -useContext x6
    have hx6 : Kept kp x6 := by
      unfold x6
      refine State.setBctx_kept ?_
      assumption
    clear_value x6
    extract_lets +onlyGivenNames -merge -useContext x7; clear_value x7
    extract_lets +onlyGivenNames -merge -useContext x8
    have hx8 : Kept kp x8 := by
      unfold x8
      refine Kept.ite ?_ ?_
      · assumption
      · refine bceEvent_kept ?_
        refine Kept.upd rfl rfl ?_
        assumption
    clear_value x8
    split
    · rename_i x9 x10 h11
      have h12 : Kept kp x10 := by
        refine KeptF.of_eq h11 ?_
        refine bceDuty_kept ?_
        assumption
      refine KeptF.mk ?_
      assumption
    · rename_i x13 x14 h15
      have h16 : Kept kp x14 := by
        refine KeptF.of_eq h15 ?_
        refine bceDuty_kept ?_
        assumption
      refine KeptF.mk ?_
      assumption
    · rename_i x17 x18 h19
      have h20 : Kept kp x18 := by
        refine KeptF.of_eq h19 ?_
        refine bceDuty_kept ?_
        assumption
      refine KeptF.mk ?_
      assumption
  · rename_i x21 h22
    refine KeptF.ite ?_ ?_
    · refine KeptF.mk ?_
      assumption
    · extract_lets +onlyGivenNames -merge -useContext x23
      have hx23 : KeptF kp x23 := by
        unfold x23
        refine slotBce_kept ?_
        assumption
      clear_value x23
      refine KeptF.mk ?_
      refine KeptF.out ?_
      assumption
  · rename_i x24 h25 h26
    refine KeptF.mk ?_
    assumption

theorem destFlag_kept {kp : Keep} {c code was now latch s} (hs : Kept kp s) :
    Kept kp (destFlag c code was now latch s) := by
  unfold destFlag
  refine Kept.ite ?_ ?_
  · assumption
  · refine bceEvent_kept ?_
    assumption

theorem putOut_kept {kp : Keep} {c u g s} (hs : Kept kp s) :
    Kept kp (putOut c u g s) := by
  unfold putOut
  extract_lets +onlyGivenNames -merge -useContext x1; clear_value x1
  extract_lets +onlyGivenNames -merge -useContext x2
  have hx2 : Kept kp x2 := by
    unfold x2
    refine publishSig_kept ?_
    assumption
  clear_value x2
  split
  rename_i x3 x4 x5 h6
  have h7 : Kept kp x4 := by
    refine KeptF.of_eq h6 ?_
    refine writeDest_kept ?_
    assumption
  extract_lets +onlyGivenNames -merge -useContext x8; clear_value x8
  extract_lets +onlyGivenNames -merge -useContext x9
  have hx9 : Kept kp x9 := by
    unfold x9
    refine State.setBctx_kept ?_
    assumption
  clear_value x9
  refine destFlag_kept ?_
  refine destFlag_kept ?_
  assumption

theorem releaseOne_kept {kp : Keep} {g c s} (hs : Kept kp s) :
    Kept kp (releaseOne g c s) := by
  unfold releaseOne
  split
  · rename_i x1 x2 x3 x4 h5
    refine Kept.ite ?_ ?_
    · extract_lets +onlyGivenNames -merge -useContext x6
      have hx6 : Kept kp x6 := by
        unfold x6
        refine putOut_kept ?_
        assumption
      clear_value x6
      extract_lets +onlyGivenNames -merge -useContext x7; clear_value x7
      extract_lets +onlyGivenNames -merge -useContext x8; clear_value x8
      refine State.setBctx_kept ?_
      assumption
    · assumption
  · rename_i x9 h10
    assumption

theorem safeOne_kept {kp : Keep} {g c s} (hs : Kept kp s) :
    Kept kp (safeOne g c s) := by
  unfold safeOne
  extract_lets +onlyGivenNames -merge -useContext x1; clear_value x1
  split
  · rename_i x2 x3 h4
    refine Kept.ite ?_ ?_
    · refine putOut_kept ?_
      refine State.setBctx_kept ?_
      assumption
    · assumption
  · rename_i x5 h6
    assumption

theorem releaseAll_kept {kp : Keep} {g s} (hs : Kept kp s) :
    Kept kp (releaseAll g s) := by
  unfold releaseAll
  extract_lets +onlyGivenNames -merge -useContext x1
  have hx1 : Kept kp x1 := by
    unfold x1
    refine bceSettle_kept ?_
    assumption
  clear_value x1
  extract_lets +onlyGivenNames -merge -useContext x2
  have hx2 : Kept kp x2 := by
    unfold x2
    refine Kept.foldl ?_ ?_
    · intro x3 x4 h5
      refine releaseOne_kept ?_
      assumption
    · assumption
  clear_value x2
  refine Kept.foldl ?_ ?_
  · intro x6 x7 h8
    refine safeOne_kept ?_
    assumption
  · assumption

theorem bceOutputRelease_kept {kp : Keep} {p s} (hs : Kept kp s) :
    Kept kp (bceOutputRelease p s) := by
  unfold bceOutputRelease
  extract_lets +onlyGivenNames -merge -useContext x1; clear_value x1
  refine Kept.ite ?_ ?_
  · refine releaseAll_kept ?_
    refine State.advance_kept ?_
    assumption
  · assumption

theorem execBceOutputRelease_kept {kp : Keep} {p s} (hs : Kept kp s) :
    KeptO kp (execBceOutputRelease p s) := by
  unfold execBceOutputRelease
  refine KeptO.next ?_
  refine bceOutputRelease_kept ?_
  assumption

theorem bceCtxRead_kept {kp : Keep} {c s} (hs : Kept kp s) :
    Kept kp (bceCtxRead c s) := by
  unfold bceCtxRead
  extract_lets +onlyGivenNames -merge -useContext x1
  have hx1 : Kept kp x1 := by
    unfold x1
    refine bceSettle_kept ?_
    assumption
  clear_value x1
  extract_lets +onlyGivenNames -merge -useContext x2; clear_value x2
  refine Kept.ite ?_ ?_
  · refine writeOut_kept ?_
    assumption
  · refine Kept.ite ?_ ?_
    · refine writeOut_kept ?_
      assumption
    · refine failOp_kept ?_
      assumption

theorem execBceCtxRead_kept {kp : Keep} {n s} (hs : Kept kp s) :
    KeptO kp (execBceCtxRead n s) := by
  unfold execBceCtxRead
  refine KeptO.next ?_
  refine takeOp_kept ?_ ?_
  · intro x1 x2 h3
    refine bceCtxRead_kept ?_
    assumption
  · assumption

theorem execBceCtxStop_kept {kp : Keep} {n s} (hs : Kept kp s) :
    KeptO kp (execBceCtxStop n s) := by
  unfold execBceCtxStop
  refine KeptO.next ?_
  refine takeOp_kept ?_ ?_
  · intro x1 x2 h3
    refine bceCtxStop_kept ?_
    assumption
  · assumption

theorem bceCtxTrace_kept {kp : Keep} {c s} (hs : Kept kp s) :
    Kept kp (bceCtxTrace c s) := by
  unfold bceCtxTrace
  extract_lets +onlyGivenNames -merge -useContext x1; clear_value x1
  refine Kept.ite ?_ ?_
  · extract_lets +onlyGivenNames -merge -useContext x2
    clear_value x2
    refine writeOut_kept ?_
    assumption
  · refine failOp_kept ?_
    assumption

theorem execBceCtxTrace_kept {kp : Keep} {n s} (hs : Kept kp s) :
    KeptO kp (execBceCtxTrace n s) := by
  unfold execBceCtxTrace
  refine KeptO.next ?_
  refine takeOp_kept ?_ ?_
  · intro x1 x2 h3
    refine bceCtxTrace_kept ?_
    assumption
  · assumption

theorem bceCtxLoad_kept {kp : Keep} {c s} (hs : Kept kp s) :
    Kept kp (bceCtxLoad c s) := by
  unfold bceCtxLoad
  refine needBuffer_kept ?_ ?_
  · assumption
  · intro x1 h2
    extract_lets +onlyGivenNames -merge -useContext x3; clear_value x3
    extract_lets +onlyGivenNames -merge -useContext x4; clear_value x4
    extract_lets +onlyGivenNames -merge -useContext x5
    have hx5 : Kept kp x5 := by
      unfold x5
      refine bceSettle_kept ?_
      assumption
    clear_value x5
    extract_lets +onlyGivenNames -merge -useContext x6; clear_value x6
    refine Kept.ite ?_ ?_
    · refine failOp_kept ?_
      assumption
    · refine Kept.ite ?_ ?_
      · refine bceSchema_kept ?_
        assumption
      · refine Kept.ite ?_ ?_
        · refine failOp_kept ?_
          assumption
        · refine readWhole_kept ?_ ?_
          · assumption
          · intro x7 x8 h9
            extract_lets +onlyGivenNames -merge -useContext x10; clear_value x10
            split
            · rename_i x11 x12 h13
              refine bceSchema_kept ?_
              assumption
            · rename_i x14 h15
              refine finishOp_kept ?_
              refine Kept.foldl ?_ ?_
              · intro x16 x17 h18
                refine State.setBctx_kept ?_
                assumption
              · assumption

theorem execBceCtxLoad_kept {kp : Keep} {n s} (hs : Kept kp s) :
    KeptO kp (execBceCtxLoad n s) := by
  unfold execBceCtxLoad
  refine KeptO.next ?_
  refine takeOp_kept ?_ ?_
  · intro x1 x2 h3
    refine bceCtxLoad_kept ?_
    assumption
  · assumption

theorem sigWrite_kept {kp : Keep} {c s} (hs : Kept kp s) :
    Kept kp (sigWrite c s) := by
  unfold sigWrite
  extract_lets +onlyGivenNames -merge -useContext x1; clear_value x1
  split
  · rename_i x2 x3 h4
    refine bceSchema_kept ?_
    assumption
  · rename_i x5 h6
    refine finishOp_kept ?_
    refine Kept.foldl ?_ ?_
    · intro x7 x8 h9
      refine publishLate_kept ?_
      assumption
    · assumption

theorem finishDue_kept {kp : Keep} {opc s} (hs : Kept kp s) :
    Kept kp (finishDue opc s) := by
  unfold finishDue
  split
  · rename_i x1 x2 h3
    extract_lets +onlyGivenNames -merge -useContext x4; clear_value x4
    refine Kept.ite ?_ ?_
    · refine finishAt_kept ?_
      assumption
    · assumption
  · rename_i x5 h6
    assumption

theorem bcePatchEffect_kept {kp : Keep} {s} (hs : Kept kp s) :
    Kept kp (bcePatchEffect s) := by
  unfold bcePatchEffect
  refine finishDue_kept ?_
  refine bceSettle_kept ?_
  assumption

theorem startContext_kept {kp : Keep} {t0 shadow c s} (hs : Kept kp s) :
    Kept kp (startContext t0 shadow c s) := by
  unfold startContext
  extract_lets +onlyGivenNames -merge -useContext x1; clear_value x1
  refine State.setBctx_kept ?_
  assumption

theorem bceCtxStart_kept {kp : Keep} {c s} (hs : Kept kp s) :
    Kept kp (bceCtxStart c s) := by
  unfold bceCtxStart
  extract_lets +onlyGivenNames -merge -useContext x1
  have hx1 : Kept kp x1 := by
    unfold x1
    refine bceSettle_kept ?_
    assumption
  clear_value x1
  extract_lets +onlyGivenNames -merge -useContext x2; clear_value x2
  extract_lets +onlyGivenNames -merge -useContext x3; clear_value x3
  extract_lets +onlyGivenNames -merge -useContext x4; clear_value x4
  extract_lets +onlyGivenNames -merge -useContext x5; clear_value x5
  refine Kept.ite ?_ ?_
  · refine failOp_kept ?_
    assumption
  · refine Kept.ite ?_ ?_
    · refine failOp_kept ?_
      assumption
    · split
      · rename_i x6 x7 x8 x9 h10
        refine bceSchema_kept ?_
        assumption
      · rename_i x11 x12 x13 x14 h15 h16
        refine bceSchema_kept ?_
        assumption
      · rename_i x17 x18 x19 x20 h21 h22 h23
        refine bceSchema_kept ?_
        assumption
      · rename_i x24 x25 x26 h27 h28 h29
        refine finishOp_kept ?_
        refine Kept.foldl ?_ ?_
        · intro x30 x31 h32
          refine startContext_kept ?_
          assumption
        · assumption

theorem execBceCtlWrite_kept {kp : Keep} {a v s} (hs : Kept kp s) :
    KeptO kp (execBceCtlWrite a v s) := by
  unfold execBceCtlWrite
  refine KeptO.next ?_
  refine gateWrite_kept ?_ ?_
  · assumption
  · intro x1 h2
    refine bceCtlWrite_kept ?_
    assumption

theorem bceStore_kept {kp : Keep} {again c r s} (hs : Kept kp s) :
    Kept kp (bceStore again c r s) := by
  unfold bceStore
  extract_lets +onlyGivenNames -merge -useContext x1; clear_value x1
  extract_lets +onlyGivenNames -merge -useContext x2
  have hx2 : Kept kp x2 := by
    unfold x2
    refine State.setBctx_kept ?_
    assumption
  clear_value x2
  extract_lets +onlyGivenNames -merge -useContext x3; clear_value x3
  refine Kept.ite ?_ ?_
  · assumption
  · refine Kept.ite ?_ ?_
    · refine bceEvent_kept ?_
      refine State.setBctx_kept ?_
      assumption
    · refine Kept.ite ?_ ?_
      · extract_lets +onlyGivenNames -merge -useContext x4
        have hx4 : Kept kp x4 := by
          unfold x4
          refine State.setBctx_kept ?_
          assumption
        clear_value x4
        extract_lets +onlyGivenNames -merge -useContext x5; clear_value x5
        extract_lets +onlyGivenNames -merge -useContext x6
        have hx6 : Kept kp x6 := by
          unfold x6
          refine Kept.upd rfl rfl ?_
          assumption
        clear_value x6
        refine Kept.ite ?_ ?_
        · refine bceEvent_kept ?_
          assumption
        · assumption
      · assumption

theorem bceCtxClear_kept {kp : Keep} {c s} (hs : Kept kp s) :
    Kept kp (bceCtxClear c s) := by
  unfold bceCtxClear
  extract_lets +onlyGivenNames -merge -useContext x1
  have hx1 : Kept kp x1 := by
    unfold x1
    refine bceSettle_kept ?_
    assumption
  clear_value x1
  extract_lets +onlyGivenNames -merge -useContext x2; clear_value x2
  extract_lets +onlyGivenNames -merge -useContext x3; clear_value x3
  extract_lets +onlyGivenNames -merge -useContext x4; clear_value x4
  extract_lets +onlyGivenNames -merge -useContext x5; clear_value x5
  extract_lets +onlyGivenNames -merge -useContext x6; clear_value x6
  split
  · rename_i x7 h8
    extract_lets +onlyGivenNames -merge -useContext x9; clear_value x9
    refine finishOp_kept ?_
    refine State.setBctx_kept ?_
    assumption
  · rename_i x10 h11
    refine Kept.ite ?_ ?_
    · refine failOp_kept ?_
      assumption
    · extract_lets +onlyGivenNames -merge -useContext x12
      clear_value x12
      refine finishOp_kept ?_
      refine State.setBctx_kept ?_
      assumption
  · rename_i x13 h14 h15
    refine failOp_kept ?_
    assumption

theorem takeOne_kept {kp : Keep} {tk c s} (hs : Kept kp s) :
    Kept kp (takeOne tk c s) := by
  unfold takeOne
  extract_lets +onlyGivenNames -merge -useContext x1; clear_value x1
  refine Kept.ite ?_ ?_
  · assumption
  · extract_lets +onlyGivenNames -merge -useContext x2
    have hx2 : ∀ y1, Kept kp (x2 y1) := by
      unfold x2
      intro x3
      refine bceEvent_kept ?_
      refine State.setBctx_kept ?_
      assumption
    clear_value x2
    split
    · rename_i x4 x5 h6
      refine Kept.ite ?_ ?_
      · refine bceEvent_kept ?_
        refine State.setBctx_kept ?_
        assumption
      · apply hx2
    · rename_i x7 h8
      apply hx2

theorem bceReport_kept {kp : Keep} {c latch r s} (hs : Kept kp s) :
    Kept kp (bceReport c latch r s) := by
  unfold bceReport
  extract_lets +onlyGivenNames -merge -useContext x1; clear_value x1
  extract_lets +onlyGivenNames -merge -useContext x2
  have hx2 : Kept kp x2 := by
    unfold x2
    refine Kept.ite ?_ ?_
    · refine Kept.upd rfl rfl ?_
      assumption
    · assumption
  clear_value x2
  refine bceEvent_kept ?_
  assumption

theorem execBceCtxClear_kept {kp : Keep} {n s} (hs : Kept kp s) :
    KeptO kp (execBceCtxClear n s) := by
  unfold execBceCtxClear
  refine KeptO.next ?_
  refine takeOp_kept ?_ ?_
  · intro x1 x2 h3
    refine bceCtxClear_kept ?_
    assumption
  · assumption

theorem execBceCtxPatch_kept {kp : Keep} {n s} (hs : Kept kp s) :
    KeptO kp (execBceCtxPatch n s) := by
  unfold execBceCtxPatch
  refine KeptO.next ?_
  refine takeOp_kept ?_ ?_
  · intro x1 x2 h3
    refine bceCtxPatch_kept ?_
    assumption
  · assumption

theorem latchOne_kept {kp : Keep} {s0 g due q c s} (hs0 : Kept kp s0) (hs : Kept kp s) :
    Kept kp (latchOne s0 g due q c s) := by
  unfold latchOne
  extract_lets +onlyGivenNames -merge -useContext x1; clear_value x1
  extract_lets +onlyGivenNames -merge -useContext x2; clear_value x2
  extract_lets +onlyGivenNames -merge -useContext x3; clear_value x3
  extract_lets +onlyGivenNames -merge -useContext x4; clear_value x4
  split
  rename_i x5 x6 x7 h8
  extract_lets +onlyGivenNames -merge -useContext x9
  have hx9 : Kept kp x9 := by
    unfold x9
    refine State.setBctx_kept ?_
    assumption
  clear_value x9
  extract_lets +onlyGivenNames -merge -useContext x10
  have hx10 : Kept kp x10 := by
    unfold x10
    refine Kept.ite ?_ ?_
    · refine bceEvent_kept ?_
      assumption
    · assumption
  clear_value x10
  extract_lets +onlyGivenNames -merge -useContext x11
  have hx11 : Kept kp x11 := by
    unfold x11
    refine Kept.ite ?_ ?_
    · refine bceEvent_kept ?_
      assumption
    · assumption
  clear_value x11
  refine Kept.foldl ?_ ?_
  · intro x12 x13 h14
    refine bceReport_kept ?_
    assumption
  · assumption

theorem bceReset_kept {kp : Keep} {s} (hs : Kept kp s) :
    Kept kp (bceReset s) := by
  unfold bceReset
  refine Kept.upd rfl rfl ?_
  assumption

theorem bceRead_kept {kp : Keep} {a off s0} (hs0 : Kept kp s0) :
    KeptS kp (bceRead a off s0) := by
  unfold bceRead
  extract_lets +onlyGivenNames -merge -useContext x1
  have hx1 : Kept kp x1 := by
    unfold x1
    refine bceSettle_kept ?_
    assumption
  clear_value x1
  extract_lets +onlyGivenNames -merge -useContext x2; clear_value x2
  extract_lets +onlyGivenNames -merge -useContext x3; clear_value x3
  extract_lets +onlyGivenNames -merge -useContext x4; clear_value x4
  refine KeptS.ite ?_ ?_
  · refine KeptS.mk ?_
    assumption
  · refine KeptS.ite ?_ ?_
    · refine KeptS.mk ?_
      assumption
    · refine KeptS.ite ?_ ?_
      · refine KeptS.mk ?_
        assumption
      · refine KeptS.ite ?_ ?_
        · refine KeptS.mk ?_
          refine Kept.upd rfl rfl ?_
          assumption
        · refine KeptS.ite ?_ ?_
          · refine KeptS.mk ?_
            assumption
          · refine KeptS.ite ?_ ?_
            · refine KeptS.mk ?_
              assumption
            · refine KeptS.ite ?_ ?_
              · refine KeptS.mk ?_
                assumption
              · refine KeptS.ite ?_ ?_
                · refine KeptS.mk ?_
                  assumption
                · refine KeptS.ite ?_ ?_
                  · refine KeptS.mk ?_
                    assumption
                  · refine KeptS.ite ?_ ?_
                    · refine KeptS.mk ?_
                      assumption
                    · refine KeptS.ite ?_ ?_
                      · refine KeptS.mk ?_
                        assumption
                      · refine KeptS.ite ?_ ?_
                        · refine KeptS.mk ?_
                          refine State.latch_kept ?_
                          assumption
                        · refine KeptS.ite ?_ ?_
                          · refine shadowed_kept ?_
                            assumption
                          · refine KeptS.ite ?_ ?_
                            · refine KeptS.mk ?_
                              assumption
                            · refine KeptS.ite ?_ ?_
                              · refine KeptS.mk ?_
                                refine Kept.upd rfl rfl ?_
                                assumption
                              · refine KeptS.mk ?_
                                assumption

theorem execSigWrite_kept {kp : Keep} {n s} (hs : Kept kp s) :
    KeptO kp (execSigWrite n s) := by
  unfold execSigWrite
  refine KeptO.next ?_
  refine takeOp_kept ?_ ?_
  · intro x1 x2 h3
    refine sigWrite_kept ?_
    assumption
  · assumption

theorem bceStopEffect_kept {kp : Keep} {s} (hs : Kept kp s) :
    Kept kp (bceStopEffect s) := by
  unfold bceStopEffect
  refine finishDue_kept ?_
  refine bceSettle_kept ?_
  assumption

theorem execBceStopEffect_kept {kp : Keep} {s} (hs : Kept kp s) :
    KeptO kp (execBceStopEffect s) := by
  unfold execBceStopEffect
  refine KeptO.next ?_
  refine bceStopEffect_kept ?_
  assumption

theorem execBcePatchEffect_kept {kp : Keep} {s} (hs : Kept kp s) :
    KeptO kp (execBcePatchEffect s) := by
  unfold execBcePatchEffect
  refine KeptO.next ?_
  refine bcePatchEffect_kept ?_
  assumption

theorem sigRead_kept {kp : Keep} {c s} (hs : Kept kp s) :
    Kept kp (sigRead c s) := by
  unfold sigRead
  refine needBuffer_kept ?_ ?_
  · assumption
  · intro x1 h2
    extract_lets +onlyGivenNames -merge -useContext x3; clear_value x3
    extract_lets +onlyGivenNames -merge -useContext x4; clear_value x4
    refine Kept.ite ?_ ?_
    · refine bceSchema_kept ?_
      assumption
    · refine Kept.ite ?_ ?_
      · refine failOp_kept ?_
        assumption
      · extract_lets +onlyGivenNames -merge -useContext x5
        have hx5 : Kept kp x5 := by
          unfold x5
          refine settleSignals_kept ?_
          assumption
        clear_value x5
        extract_lets +onlyGivenNames -merge -useContext x6; clear_value x6
        refine writeOut_kept ?_
        assumption

theorem execSigRead_kept {kp : Keep} {n s} (hs : Kept kp s) :
    KeptO kp (execSigRead n s) := by
  unfold execSigRead
  refine KeptO.next ?_
  refine takeOp_kept ?_ ?_
  · intro x1 x2 h3
    refine sigRead_kept ?_
    assumption
  · assumption

theorem bceLatch_kept {kp : Keep} {p s} (hs : Kept kp s) :
    Kept kp (bceLatch p s) := by
  unfold bceLatch
  extract_lets +onlyGivenNames -merge -useContext x1; clear_value x1
  extract_lets +onlyGivenNames -merge -useContext x2; clear_value x2
  refine Kept.ite ?_ ?_
  · extract_lets +onlyGivenNames -merge -useContext x3
    have hx3 : Kept kp x3 := by
      unfold x3
      refine settleSignals_kept ?_
      refine releaseAll_kept ?_
      refine State.advance_kept ?_
      assumption
    clear_value x3
    extract_lets +onlyGivenNames -merge -useContext x4; clear_value x4
    extract_lets +onlyGivenNames -merge -useContext x5; clear_value x5
    refine Kept.foldl ?_ ?_
    · intro x6 x7 h8
      refine latchOne_kept ?_ ?_
      · assumption
      · assumption
    · assumption
  · assumption

theorem bceTakeover_kept {kp : Keep} {tk s} (hs : Kept kp s) :
    Kept kp (bceTakeover tk s) := by
  unfold bceTakeover
  refine Kept.foldl ?_ ?_
  · intro x1 x2 h3
    refine takeOne_kept ?_
    assumption
  · refine bceSettle_kept ?_
    assumption

theorem execBceLatch_kept {kp : Keep} {p s} (hs : Kept kp s) :
    KeptO kp (execBceLatch p s) := by
  unfold execBceLatch
  refine KeptO.next ?_
  refine bceLatch_kept ?_
  assumption

theorem bceToShadow_kept {kp : Keep} {th s} (hs : Kept kp s) :
    Kept kp (bceToShadow th s) := by
  unfold bceToShadow
  refine Kept.foldl ?_ ?_
  · intro x1 x2 h3
    extract_lets +onlyGivenNames -merge -useContext x4; clear_value x4
    split
    · rename_i x5 h6
      refine bceEvent_kept ?_
      refine State.setBctx_kept ?_
      assumption
    · rename_i x7 h8
      refine bceEvent_kept ?_
      refine State.setBctx_kept ?_
      assumption
    · rename_i x9 h10 h11
      assumption
  · refine bceSettle_kept ?_
    assumption

theorem execBceCtxStart_kept {kp : Keep} {n s} (hs : Kept kp s) :
    KeptO kp (execBceCtxStart n s) := by
  unfold execBceCtxStart
  refine KeptO.next ?_
  refine takeOp_kept ?_ ?_
  · intro x1 x2 h3
    refine bceCtxStart_kept ?_
    assumption
  · assumption

theorem installTraj_kept {kp : Keep} {ps stamp s} (hs : Kept kp s) :
    Kept kp (installTraj ps stamp s) := by
  unfold installTraj
  extract_lets +onlyGivenNames -merge -useContext x1
  have hx1 : Kept kp x1 := by
    unfold x1
    refine settleTraj_kept ?_
    assumption
  clear_value x1
  refine Kept.upd rfl rfl ?_
  assumption

end Sys2Proof.Machine
end

