-- ==== Sys2Proof/Laws/KeptRings.lean ====
section
/-!
SUPPORT. What the operations of Sys2Proof/Machine/Rings.lean keep (see Sys2Proof/Laws/Kept.lean).
-/

namespace Sys2Proof.Machine

theorem ringEvent_kept {kp : Keep} {n code data s} (hs : Kept kp s) :
    Kept kp (ringEvent n code data s) := by
  unfold ringEvent
  refine raise_kept ?_
  assumption

theorem dbRange_kept {kp : Keep} {n kind v s} (hs : Kept kp s) :
    Kept kp (dbRange n kind v s) := by
  unfold dbRange
  refine ringEvent_kept ?_
  assumption

theorem haltFence_kept {kp : Keep} {n h kind s} (hs : Kept kp s) :
    Kept kp (haltFence n h kind s) := by
  unfold haltFence
  extract_lets +onlyGivenNames -merge -useContext x1; clear_value x1
  refine ringEvent_kept ?_
  refine State.setRing_kept ?_
  assumption

theorem publish_kept {kp : Keep} {n s} (hs : Kept kp s) :
    Kept kp (publish n s) := by
  unfold publish
  extract_lets +onlyGivenNames -merge -useContext x1; clear_value x1
  split
  rename_i x2 x3 x4 h5
  have h6 : Kept kp x3 := by
    refine KeptF.of_eq h5 ?_
    refine busWrite_kept ?_
    assumption
  refine Kept.ite ?_ ?_
  · assumption
  · refine haltFence_kept ?_
    assumption

theorem settle_kept {kp : Keep} {n s} (hs : Kept kp s) :
    Kept kp (settle n s) := by
  unfold settle
  extract_lets +onlyGivenNames -merge -useContext x1; clear_value x1
  refine Kept.ite ?_ ?_
  · refine publish_kept ?_
    refine ringEvent_kept ?_
    refine State.setRing_kept ?_
    assumption
  · assumption

theorem sqDoorbell_kept {kp : Keep} {n v s} (hs : Kept kp s) :
    Kept kp (sqDoorbell n v s) := by
  unfold sqDoorbell
  extract_lets +onlyGivenNames -merge -useContext x1; clear_value x1
  extract_lets +onlyGivenNames -merge -useContext x2; clear_value x2
  refine Kept.ite ?_ ?_
  · refine dbRange_kept ?_
    assumption
  · refine settle_kept ?_
    refine State.setRing_kept ?_
    assumption

theorem execSqDoorbell_kept {kp : Keep} {a n v s} (hs : Kept kp s) :
    KeptO kp (execSqDoorbell a n v s) := by
  unfold execSqDoorbell
  refine KeptO.next ?_
  refine gateWrite_kept ?_ ?_
  · assumption
  · intro x1 h2
    refine sqDoorbell_kept ?_
    assumption

theorem goDisabled_kept {kp : Keep} {n data s} (hs : Kept kp s) :
    Kept kp (goDisabled n data s) := by
  unfold goDisabled
  extract_lets +onlyGivenNames -merge -useContext x1; clear_value x1
  refine ringEvent_kept ?_
  refine State.setRing_kept ?_
  assumption

theorem ringAbandon_kept {kp : Keep} {n v s} (hs : Kept kp s) :
    Kept kp (ringAbandon n v s) := by
  unfold ringAbandon
  extract_lets +onlyGivenNames -merge -useContext x1; clear_value x1
  refine Kept.ite ?_ ?_
  · refine goDisabled_kept ?_
    refine State.setRing_kept ?_
    assumption
  · refine dbRange_kept ?_
    assumption

theorem beginDrain_kept {kp : Keep} {n s} (hs : Kept kp s) :
    Kept kp (beginDrain n s) := by
  unfold beginDrain
  extract_lets +onlyGivenNames -merge -useContext x1; clear_value x1
  split
  · rename_i x2 h3
    assumption
  · rename_i x4 h5
    assumption
  · rename_i x6 h7
    refine State.setRing_kept ?_
    assumption
  · rename_i x8 h9 h10 h11
    refine publish_kept ?_
    refine State.setRing_kept ?_
    assumption

theorem ringFlushWrite_kept {kp : Keep} {n v s} (hs : Kept kp s) :
    Kept kp (ringFlushWrite n v s) := by
  unfold ringFlushWrite
  extract_lets +onlyGivenNames -merge -useContext x1; clear_value x1
  extract_lets +onlyGivenNames -merge -useContext x2
  have hx2 : Kept kp x2 := by
    unfold x2
    refine Kept.ite ?_ ?_
    · refine ringAbandon_kept ?_
      assumption
    · assumption
  clear_value x2
  refine Kept.ite ?_ ?_
  · refine beginDrain_kept ?_
    assumption
  · assumption

theorem cutRing_kept {kp : Keep} {n s} (hs : Kept kp s) :
    Kept kp (cutRing n s) := by
  unfold cutRing
  extract_lets +onlyGivenNames -merge -useContext x1; clear_value x1
  extract_lets +onlyGivenNames -merge -useContext x2; clear_value x2
  extract_lets +onlyGivenNames -merge -useContext x3; clear_value x3
  refine State.setRing_kept ?_
  assumption

theorem postOne_kept {kp : Keep} {n o rest s} (hs : Kept kp s) :
    Kept kp (postOne n o rest s) := by
  unfold postOne
  extract_lets +onlyGivenNames -merge -useContext x1; clear_value x1
  extract_lets +onlyGivenNames -merge -useContext x2; clear_value x2
  split
  rename_i x3 x4 x5 h6
  have h7 : Kept kp x4 := by
    refine KeptF.of_eq h6 ?_
    refine busWrite_kept ?_
    assumption
  refine Kept.ite ?_ ?_
  · refine haltFence_kept ?_
    assumption
  · extract_lets +onlyGivenNames -merge -useContext x8
    clear_value x8
    extract_lets +onlyGivenNames -merge -useContext x9
    have hx9 : Kept kp x9 := by
      unfold x9
      refine State.setRing_kept ?_
      assumption
    clear_value x9
    extract_lets +onlyGivenNames -merge -useContext x10
    have hx10 : Kept kp x10 := by
      unfold x10
      refine Kept.ite ?_ ?_
      · refine raiseAt_kept ?_
        assumption
      · assumption
    clear_value x10
    extract_lets +onlyGivenNames -merge -useContext x11; clear_value x11
    extract_lets +onlyGivenNames -merge -useContext x12
    have hx12 : Kept kp x12 := by
      unfold x12
      refine Kept.ite ?_ ?_
      · refine Kept.upd rfl rfl ?_
        assumption
      · assumption
    clear_value x12
    refine publish_kept ?_
    assumption

theorem completionPost_kept {kp : Keep} {n s} (hs : Kept kp s) :
    Kept kp (completionPost n s) := by
  unfold completionPost
  extract_lets +onlyGivenNames -merge -useContext x1; clear_value x1
  split
  · rename_i x2 x3 x4 h5
    refine Kept.ite ?_ ?_
    · refine postOne_kept ?_
      assumption
    · assumption
  · rename_i x6 h7
    assumption

theorem execCompletionPost_kept {kp : Keep} {n s} (hs : Kept kp s) :
    KeptO kp (execCompletionPost n s) := by
  unfold execCompletionPost
  refine KeptO.next ?_
  refine completionPost_kept ?_
  assumption

theorem enlist_kept {kp : Keep} {n o s} (hs : Kept kp s) :
    Kept kp (enlist n o s) := by
  unfold enlist
  extract_lets +onlyGivenNames -merge -useContext x1; clear_value x1
  refine Kept.ite ?_ ?_
  · refine ringEvent_kept ?_
    refine State.setRing_kept ?_
    assumption
  · extract_lets +onlyGivenNames -merge -useContext x2
    clear_value x2
    refine State.setRing_kept ?_
    assumption

theorem fetchOne_kept {kp : Keep} {n s} (hs : Kept kp s) :
    Kept kp (fetchOne n s) := by
  unfold fetchOne
  extract_lets +onlyGivenNames -merge -useContext x1; clear_value x1
  split
  rename_i x2 x3 x4 x5 h6
  have h7 : Kept kp x3 := by
    refine KeptF.of_eq h6 ?_
    refine busRead_kept ?_
    assumption
  refine Kept.ite ?_ ?_
  · refine haltFence_kept ?_
    assumption
  · extract_lets +onlyGivenNames -merge -useContext x8
    clear_value x8
    extract_lets +onlyGivenNames -merge -useContext x9; clear_value x9
    extract_lets +onlyGivenNames -merge -useContext x10; clear_value x10
    extract_lets +onlyGivenNames -merge -useContext x11; clear_value x11
    extract_lets +onlyGivenNames -merge -useContext x12
    have hx12 : Kept kp x12 := by
      unfold x12
      refine Kept.upd rfl rfl ?_
      assumption
    clear_value x12
    extract_lets +onlyGivenNames -merge -useContext x13; clear_value x13
    extract_lets +onlyGivenNames -merge -useContext x14
    have hx14 : Kept kp x14 := by
      unfold x14
      refine State.setRing_kept ?_
      assumption
    clear_value x14
    extract_lets +onlyGivenNames -merge -useContext x15
    have hx15 : Kept kp x15 := by
      unfold x15
      refine Kept.ite ?_ ?_
      · refine State.modRing_kept ?_
        assumption
      · refine enlist_kept ?_
        assumption
    clear_value x15
    refine settle_kept ?_
    refine publish_kept ?_
    assumption

theorem zeroFrom_kept {kp : Keep} {n z1 z2 z3} (hz3 : Kept kp z3) :
    Kept kp (zeroFrom n z1 z2 z3) := by
  induction z1 generalizing z2 z3 with
  | zero => exact hz3
  | succ left ih =>
    have h1 : KeptF kp (busWrite 3 0x2F false false (base64 (z3.ring n).cbase + 64 * z2) (List.replicate 64 0) z3) :=
      busWrite_kept hz3
    unfold zeroFrom
    split
    rename_i x1 x2 h4
    have h5 : Kept kp x1 := KeptF.of_eq h4 h1
    split
    · exact ih h5
    · exact haltFence_kept h5

theorem retry_kept {kp : Keep} {n h s} (hs : Kept kp s) :
    Kept kp (retry n h s) := by
  unfold retry
  extract_lets +onlyGivenNames -merge -useContext x1; clear_value x1
  split
  · rename_i x2
    assumption
  · rename_i x3
    refine Kept.ite ?_ ?_
    · refine fetchOne_kept ?_
      assumption
    · assumption
  · rename_i x4
    split
    · rename_i x5 x6 x7 h8
      refine postOne_kept ?_
      assumption
    · rename_i x9 h10
      assumption
  · rename_i x11
    refine publish_kept ?_
    assumption
  · rename_i x12 x13
    refine zeroFrom_kept ?_
    assumption

theorem resyncFence_kept {kp : Keep} {n expSeq tail s} (hs : Kept kp s) :
    Kept kp (resyncFence n expSeq tail s) := by
  unfold resyncFence
  extract_lets +onlyGivenNames -merge -useContext x1; clear_value x1
  extract_lets +onlyGivenNames -merge -useContext x2; clear_value x2
  extract_lets +onlyGivenNames -merge -useContext x3
  have hx3 : Kept kp x3 := by
    unfold x3
    refine retry_kept ?_
    refine State.setRing_kept ?_
    assumption
  clear_value x3
  refine Kept.ite ?_ ?_
  · refine State.modRing_kept ?_
    assumption
  · extract_lets +onlyGivenNames -merge -useContext x4
    have hx4 : Kept kp x4 := by
      unfold x4
      refine Kept.ite ?_ ?_
      · refine State.modRing_kept ?_
        assumption
      · assumption
    clear_value x4
    refine settle_kept ?_
    refine publish_kept ?_
    assumption

theorem ringResync_kept {kp : Keep} {n v s} (hs : Kept kp s) :
    Kept kp (ringResync n v s) := by
  unfold ringResync
  extract_lets +onlyGivenNames -merge -useContext x1; clear_value x1
  extract_lets +onlyGivenNames -merge -useContext x2; clear_value x2
  extract_lets +onlyGivenNames -merge -useContext x3; clear_value x3
  refine Kept.ite ?_ ?_
  · split
    · rename_i x4 h5
      refine settle_kept ?_
      refine publish_kept ?_
      refine State.setRing_kept ?_
      assumption
    · rename_i x6 h7
      refine resyncFence_kept ?_
      assumption
    · rename_i x8 h9 h10
      refine dbRange_kept ?_
      assumption
  · refine dbRange_kept ?_
    assumption

theorem execRingResync_kept {kp : Keep} {a n v s} (hs : Kept kp s) :
    KeptO kp (execRingResync a n v s) := by
  unfold execRingResync
  refine KeptO.next ?_
  refine gateWrite_kept ?_ ?_
  · assumption
  · intro x1 h2
    refine ringResync_kept ?_
    assumption

theorem flushEnd_kept {kp : Keep} {n s} (hs : Kept kp s) :
    Kept kp (flushEnd n s) := by
  unfold flushEnd
  extract_lets +onlyGivenNames -merge -useContext x1; clear_value x1
  extract_lets +onlyGivenNames -merge -useContext x2
  have hx2 : Kept kp x2 := by
    unfold x2
    refine State.setRing_kept ?_
    assumption
  clear_value x2
  extract_lets +onlyGivenNames -merge -useContext x3
  have hx3 : Kept kp x3 := by
    unfold x3
    refine Kept.ite ?_ ?_
    · refine ringEvent_kept ?_
      assumption
    · assumption
  clear_value x3
  refine settle_kept ?_
  refine publish_kept ?_
  assumption

theorem execRingAbandon_kept {kp : Keep} {a n v s} (hs : Kept kp s) :
    KeptO kp (execRingAbandon a n v s) := by
  unfold execRingAbandon
  refine KeptO.next ?_
  refine gateWrite_kept ?_ ?_
  · assumption
  · intro x1 h2
    refine ringFlushWrite_kept ?_
    assumption

theorem descriptorFetch_kept {kp : Keep} {n s} (hs : Kept kp s) :
    Kept kp (descriptorFetch n s) := by
  unfold descriptorFetch
  refine Kept.ite ?_ ?_
  · refine fetchOne_kept ?_
    assumption
  · assumption

theorem ringDisable_kept {kp : Keep} {n s} (hs : Kept kp s) :
    Kept kp (ringDisable n s) := by
  unfold ringDisable
  refine beginDrain_kept ?_
  refine State.modRing_kept ?_
  assumption

theorem drainComplete_kept {kp : Keep} {n s} (hs : Kept kp s) :
    Kept kp (drainComplete n s) := by
  unfold drainComplete
  extract_lets +onlyGivenNames -merge -useContext x1; clear_value x1
  refine Kept.ite ?_ ?_
  · refine Kept.ite ?_ ?_
    · refine flushEnd_kept ?_
      assumption
    · extract_lets +onlyGivenNames -merge -useContext x2
      have hx2 : Kept kp x2 := by
        unfold x2
        refine goDisabled_kept ?_
        assumption
      clear_value x2
      refine KeptF.out ?_
      refine busWrite_kept ?_
      assumption
  · assumption

theorem execDrainComplete_kept {kp : Keep} {n s} (hs : Kept kp s) :
    KeptO kp (execDrainComplete n s) := by
  unfold execDrainComplete
  refine KeptO.next ?_
  refine drainComplete_kept ?_
  assumption

theorem initDone_kept {kp : Keep} {n s} (hs : Kept kp s) :
    Kept kp (initDone n s) := by
  unfold initDone
  extract_lets +onlyGivenNames -merge -useContext x1; clear_value x1
  refine Kept.ite ?_ ?_
  · extract_lets +onlyGivenNames -merge -useContext x2
    have hx2 : Kept kp x2 := by
      unfold x2
      refine publish_kept ?_
      refine State.setRing_kept ?_
      assumption
    clear_value x2
    refine settle_kept ?_
    assumption
  · assumption

theorem execRingFlush_kept {kp : Keep} {a n v s} (hs : Kept kp s) :
    KeptO kp (execRingFlush a n v s) := by
  unfold execRingFlush
  refine KeptO.next ?_
  refine gateWrite_kept ?_ ?_
  · assumption
  · intro x1 h2
    refine ringFlushWrite_kept ?_
    assumption

theorem hriRead_kept {kp : Keep} {off s} (hs : Kept kp s) :
    KeptS kp (hriRead off s) := by
  unfold hriRead
  refine KeptS.ite ?_ ?_
  · refine KeptS.mk ?_
    assumption
  · refine KeptS.ite ?_ ?_
    · refine KeptS.mk ?_
      assumption
    · refine KeptS.ite ?_ ?_
      · refine KeptS.mk ?_
        assumption
      · refine KeptS.ite ?_ ?_
        · refine KeptS.mk ?_
          refine Kept.upd rfl rfl ?_
          assumption
        · refine KeptS.ite ?_ ?_
          · refine KeptS.mk ?_
            assumption
          · refine KeptS.mk ?_
            assumption

theorem execDescriptorFetch_kept {kp : Keep} {n s} (hs : Kept kp s) :
    KeptO kp (execDescriptorFetch n s) := by
  unfold execDescriptorFetch
  refine KeptO.next ?_
  refine descriptorFetch_kept ?_
  assumption

theorem ringEnable_kept {kp : Keep} {n s} (hs : Kept kp s) :
    Kept kp (ringEnable n s) := by
  unfold ringEnable
  extract_lets +onlyGivenNames -merge -useContext x1; clear_value x1
  extract_lets +onlyGivenNames -merge -useContext x2; clear_value x2
  refine Kept.ite ?_ ?_
  · refine State.setRing_kept ?_
    assumption
  · refine Kept.ite ?_ ?_
    · refine State.setRing_kept ?_
      assumption
    · extract_lets +onlyGivenNames -merge -useContext x3
      clear_value x3
      refine State.setRing_kept ?_
      assumption

theorem ringCfgWrite_kept {kp : Keep} {n v s} (hs : Kept kp s) :
    Kept kp (ringCfgWrite n v s) := by
  unfold ringCfgWrite
  extract_lets +onlyGivenNames -merge -useContext x1; clear_value x1
  extract_lets +onlyGivenNames -merge -useContext x2; clear_value x2
  extract_lets +onlyGivenNames -merge -useContext x3
  have hx3 : Kept kp x3 := by
    unfold x3
    refine Kept.ite ?_ ?_
    · assumption
    · refine State.setRing_kept ?_
      assumption
  clear_value x3
  refine Kept.ite ?_ ?_
  · refine Kept.ite ?_ ?_
    · assumption
    · refine ringEnable_kept ?_
      assumption
  · refine Kept.ite ?_ ?_
    · refine ringDisable_kept ?_
      assumption
    · assumption

theorem ringInitComplete_kept {kp : Keep} {n s} (hs : Kept kp s) :
    Kept kp (ringInitComplete n s) := by
  unfold ringInitComplete
  extract_lets +onlyGivenNames -merge -useContext x1; clear_value x1
  refine Kept.ite ?_ ?_
  · refine initDone_kept ?_
    refine zeroFrom_kept ?_
    assumption
  · assumption

theorem cqDoorbell_kept {kp : Keep} {n v s} (hs : Kept kp s) :
    Kept kp (cqDoorbell n v s) := by
  unfold cqDoorbell
  extract_lets +onlyGivenNames -merge -useContext x1; clear_value x1
  extract_lets +onlyGivenNames -merge -useContext x2; clear_value x2
  refine Kept.ite ?_ ?_
  · refine dbRange_kept ?_
    assumption
  · extract_lets +onlyGivenNames -merge -useContext x3
    clear_value x3
    extract_lets +onlyGivenNames -merge -useContext x4
    have hx4 : Kept kp x4 := by
      unfold x4
      refine State.setRing_kept ?_
      assumption
    clear_value x4
    refine Kept.ite ?_ ?_
    · refine publish_kept ?_
      assumption
    · assumption

theorem ringWrite_kept {kp : Keep} {n off v s} (hs : Kept kp s) :
    Kept kp (ringWrite n off v s) := by
  unfold ringWrite
  extract_lets +onlyGivenNames -merge -useContext x1; clear_value x1
  refine Kept.ite ?_ ?_
  · refine ringCfgWrite_kept ?_
    assumption
  · refine Kept.ite ?_ ?_
    · refine ringResync_kept ?_
      assumption
    · refine Kept.ite ?_ ?_
      · refine ringFlushWrite_kept ?_
        assumption
      · refine Kept.ite ?_ ?_
        · assumption
        · refine Kept.ite ?_ ?_
          · refine State.setRing_kept ?_
            assumption
          · refine Kept.ite ?_ ?_
            · refine State.setRing_kept ?_
              assumption
            · refine Kept.ite ?_ ?_
              · refine State.setRing_kept ?_
                assumption
              · refine Kept.ite ?_ ?_
                · refine State.setRing_kept ?_
                  assumption
                · refine Kept.ite ?_ ?_
                  · refine State.setRing_kept ?_
                    assumption
                  · assumption

theorem hriWrite_kept {kp : Keep} {off v s} (hs : Kept kp s) :
    Kept kp (hriWrite off v s) := by
  unfold hriWrite
  refine Kept.ite ?_ ?_
  · refine sqDoorbell_kept ?_
    assumption
  · refine Kept.ite ?_ ?_
    · refine cqDoorbell_kept ?_
      assumption
    · refine Kept.ite ?_ ?_
      · refine ringWrite_kept ?_
        assumption
      · assumption

theorem execRingInitComplete_kept {kp : Keep} {n s} (hs : Kept kp s) :
    KeptO kp (execRingInitComplete n s) := by
  unfold execRingInitComplete
  refine KeptO.next ?_
  refine ringInitComplete_kept ?_
  assumption

theorem execRingEnable_kept {kp : Keep} {a n v s} (hs : Kept kp s) :
    KeptO kp (execRingEnable a n v s) := by
  unfold execRingEnable
  refine KeptO.next ?_
  refine gateWrite_kept ?_ ?_
  · assumption
  · intro x1 h2
    refine ringCfgWrite_kept ?_
    assumption

theorem execRingDisable_kept {kp : Keep} {a n v s} (hs : Kept kp s) :
    KeptO kp (execRingDisable a n v s) := by
  unfold execRingDisable
  refine KeptO.next ?_
  refine gateWrite_kept ?_ ?_
  · assumption
  · intro x1 h2
    refine ringCfgWrite_kept ?_
    assumption

theorem execCqDoorbell_kept {kp : Keep} {a n v s} (hs : Kept kp s) :
    KeptO kp (execCqDoorbell a n v s) := by
  unfold execCqDoorbell
  refine KeptO.next ?_
  refine gateWrite_kept ?_ ?_
  · assumption
  · intro x1 h2
    refine cqDoorbell_kept ?_
    assumption

end Sys2Proof.Machine
end

