-- ==== Sys2Proof/Laws/Rings.lean ====
section
/-!
SUPPORT. What the shared ring operations do: a publish that the fabric carries, the settling of a ring with a free
slot, and the finishing of a descriptor.
-/

namespace Sys2Proof.Machine

/-- The fabric's verdict reads the fences and the domains alone. -/
theorem State.busVerdict_congr {s t : State} (hf : t.fen.live = s.fen.live) (hp : t.pd = s.pd) (ini : Nat)
    (sec write : Bool) (addr len : Nat) : t.busVerdict ini sec write addr len = s.busVerdict ini sec write addr len
    := by
  unfold State.busVerdict State.fenced State.pdOn
  rw [hf, hp]

theorem busWrite_ok {kind ini : Nat} {sec quiet : Bool} {addr : Nat} {bs : List Byte} {s : State}
    (h : s.busVerdict ini sec true addr bs.length = .ok) :
    busWrite kind ini sec quiet addr bs s = (s.setMem (Memory.setMany s.mem addr bs), .ok) := by
  simp [busWrite, busCheck, h, busEvent]

theorem busRead_ok {kind ini : Nat} {sec : Bool} {addr len : Nat} {s : State}
    (h : s.busVerdict ini sec false addr len = .ok) :
    busRead kind ini sec addr len s = (s, .ok, Memory.getMany s.mem addr len) := by
  simp [busRead, busCheck, h, busEvent]

@[simp] theorem leBytes_length (n v : Nat) : (leBytes n v).length = n := by
  induction n generalizing v with
  | zero => rfl
  | succ n ih => simp [leBytes, ih]

@[simp] theorem publishBytes_length (r : Ring) (g : Nat) : (publishBytes r g).length = 64 := by
  simp [publishBytes]

@[simp] theorem entryBytes_length (r : Ring) (o : Op) : (entryBytes r o).length = 32 := by
  simp [entryBytes]

theorem publish_ok {n : Nat} {s : State}
    (h : s.busVerdict 0x2F false true (base64 (s.ring n).cbase) 64 = .ok) :
    publish n s = s.setMem (Memory.setMany s.mem (base64 (s.ring n).cbase) (publishBytes (s.ring n) s.gts)) := by
  unfold publish
  dsimp only
  rw [busWrite_ok (by simpa using h)]
  simp

theorem settle_free {n : Nat} {s : State}
    (h : (s.ring n).state = .active → sub16 (s.ring n).sqHead (s.ring n).cqHead < (s.ring n).size ∨
      (s.ring n).sqTail = (s.ring n).sqHead) : settle n s = s := by
  unfold settle
  dsimp only
  rw [if_neg]
  rintro ⟨h1, h2, h3⟩
  rcases h h1 with h | h
  · omega
  · exact h3 h

end Sys2Proof.Machine
end

