-- ==== Sys2Proof/Laws/Buffers.lean ====
section
/-!
SUPPORT. Buffer transfers that the fabric carries whole: what is read, what is stored, and how the operation ends.
-/

namespace Sys2Proof.Machine

theorem Memory.setMany_append (m : List Host.Cell) (a : Nat) (xs ys : List Byte) :
    Memory.setMany m a (xs ++ ys) = Memory.setMany (Memory.setMany m a xs) (a + xs.length) ys := by
  induction xs generalizing m a with
  | nil => rfl
  | cons x xs ih => simp only [List.cons_append, Memory.setMany, ih, List.length_cons]; congr 1; omega

theorem Memory.getMany_add (m : List Host.Cell) (a n k : Nat) :
    Memory.getMany m a (n + k) = Memory.getMany m a n ++ Memory.getMany m (a + n) k := by
  induction n generalizing a with
  | zero => simp [Memory.getMany]
  | succ n ih =>
    rw [show n + 1 + k = (n + k) + 1 by omega]
    simp only [Memory.getMany, ih, List.cons_append]
    rw [show a + 1 + n = a + (n + 1) by omega]

@[simp] theorem Memory.getMany_length (m : List Host.Cell) (a n : Nat) : (Memory.getMany m a n).length = n := by
  induction n generalizing a with
  | zero => rfl
  | succ n ih => simp [Memory.getMany, ih]

theorem writePieces_open (kind ini : Nat) (fuel : Nat) : ∀ (addr : Nat) (bs : List Byte) (x : Xfer) (s : State),
    bs.length ≤ fuel →
    (pieces fuel addr bs.length).all (fun p => s.busVerdict ini false true p.1 p.2 == .ok) = true →
    writePieces kind ini (pieces fuel addr bs.length) bs x s =
      (s.setMem (Memory.setMany s.mem addr bs), { x with moved := x.moved + bs.length }) := by
  induction fuel with
  | zero =>
    intro addr bs x s h _
    have : bs = [] := List.eq_nil_of_length_eq_zero (by omega)
    subst this; rfl
  | succ fuel ih =>
    intro addr bs x s h hall
    by_cases h0 : bs.length = 0
    · have : bs = [] := List.eq_nil_of_length_eq_zero h0
      subst this; rfl
    · simp only [pieces, if_neg h0, List.all_cons, Bool.and_eq_true, beq_iff_eq] at hall
      simp only [pieces, if_neg h0, writePieces]
      have hn : (bs.take (min bs.length (64 - addr % 64))).length = min bs.length (64 - addr % 64) := by
        rw [List.length_take]; omega
      rw [busWrite_ok (by rw [hn]; exact hall.1)]
      simp only [if_true]
      have hd : bs.length - min bs.length (64 - addr % 64) = (bs.drop (min bs.length (64 - addr % 64))).length := by
        rw [List.length_drop]
      rw [hd]
      rw [ih _ _ _ _ (by rw [List.length_drop]; omega) (by rw [← hd]; exact hall.2)]
      have key := Memory.setMany_append s.mem addr (bs.take (min bs.length (64 - addr % 64)))
        (bs.drop (min bs.length (64 - addr % 64)))
      rw [List.take_append_drop, hn] at key
      rw [key]
      refine Prod.ext rfl ?_
      simp only [List.length_drop, Xfer.mk.injEq, and_self, and_true]
      omega

theorem readPieces_open (kind ini : Nat) (fuel : Nat) : ∀ (addr len : Nat) (x : Xfer) (s : State), len ≤ fuel →
    (pieces fuel addr len).all (fun p => s.busVerdict ini false false p.1 p.2 == .ok) = true →
    readPieces kind ini (pieces fuel addr len) x s =
      (s, { x with moved := x.moved + len, bytes := x.bytes ++ Memory.getMany s.mem addr len }) := by
  induction fuel with
  | zero =>
    intro addr len x s h _
    have : len = 0 := by omega
    subst this; simp [pieces, readPieces, Memory.getMany]
  | succ fuel ih =>
    intro addr len x s h hall
    by_cases h0 : len = 0
    · subst h0; simp [pieces, readPieces, Memory.getMany]
    · simp only [pieces, if_neg h0, List.all_cons, Bool.and_eq_true, beq_iff_eq] at hall
      simp only [pieces, if_neg h0, readPieces]
      rw [busRead_ok hall.1]
      simp only [if_true]
      rw [ih _ _ _ _ (by omega) hall.2]
      have key := Memory.getMany_add s.mem addr (min len (64 - addr % 64)) (len - min len (64 - addr % 64))
      rw [show min len (64 - addr % 64) + (len - min len (64 - addr % 64)) = len by omega] at key
      rw [key]
      refine Prod.ext rfl ?_
      simp only [Xfer.mk.injEq, List.append_assoc, and_true, true_and]
      omega

/-- An output whose whole buffer is reachable is stored, and the operation ends OK with its results. -/
theorem writeOut_open {ini : Nat} {c : OpRef} {bs : List Byte} {r0 r1 : Word} {s : State}
    (h : bufferOpen ini true c.op.addr bs.length s = true) :
    writeOut ini c bs r0 r1 s = finishOp c stOk bs.length r0 r1 (stored c bs s) := by
  unfold writeOut writeBuffer
  rw [writePieces_open 2 ini bs.length c.op.addr bs _ s (Nat.le_refl _) h]
  simp only [Nat.zero_add, if_true]; rfl

/-- An operation whose whole buffer is reachable goes on with its bytes. -/
theorem readWhole_open {ini : Nat} {c : OpRef} {s : State} {k : List Byte → State → State}
    (h : bufferOpen ini false c.op.addr c.op.len s = true) : readWhole ini c s k = k (bufferOf c s) s := by
  unfold readWhole readBuffer
  rw [readPieces_open 2 ini c.op.len c.op.addr c.op.len _ s (Nat.le_refl _) h]
  simp only [List.nil_append, if_true]; rfl

end Sys2Proof.Machine
end

