-- ==== Sys2Proof/Laws/KeptLookout.lean ====
section
/-!
SUPPORT. What the operations of Sys2Proof/Machine/Lookout.lean keep (see Sys2Proof/Laws/Kept.lean).
-/

namespace Sys2Proof.Machine

theorem sampleEvent_kept {kp : Keep} {src n input g s} (hs : Kept kp s) :
    Kept kp (sampleEvent src n input g s) := by
  unfold sampleEvent
  refine raiseAt_kept ?_
  assumption

theorem State.setLin_kept {kp : Keep} {s n x} (hs : Kept kp s) :
    Kept kp (State.setLin s n x) := by
  unfold State.setLin
  refine Kept.upd rfl rfl ?_
  assumption

theorem countLate_kept {kp : Keep} {n k s} (hs : Kept kp s) :
    Kept kp (countLate n k s) := by
  unfold countLate
  refine State.setLin_kept ?_
  assumption

theorem dropLate_kept {kp : Keep} {n k g s} (hs : Kept kp s) :
    Kept kp (dropLate n k g s) := by
  unfold dropLate
  refine Kept.ite ?_ ?_
  · assumption
  · refine sampleEvent_kept ?_
    refine countLate_kept ?_
    refine Kept.upd rfl rfl ?_
    assumption

theorem countCarried_kept {kp : Keep} {n k s} (hs : Kept kp s) :
    Kept kp (countCarried n k s) := by
  unfold countCarried
  refine State.setLin_kept ?_
  assumption

theorem noteCarried_kept {kp : Keep} {n k g s} (hs : Kept kp s) :
    Kept kp (noteCarried n k g s) := by
  unfold noteCarried
  refine Kept.ite ?_ ?_
  · assumption
  · refine sampleEvent_kept ?_
    refine countCarried_kept ?_
    refine Kept.upd rfl rfl ?_
    assumption

theorem colStart_kept {kp : Keep} {s} (hs : Kept kp s) :
    Kept kp (colStart s) := by
  unfold colStart
  refine Kept.ite ?_ ?_
  · assumption
  · split
    · rename_i x1 h2
      assumption
    · rename_i x3 x4 h5
      refine Kept.upd rfl rfl ?_
      assumption

theorem markBuf_kept {kp : Keep} {c b used s} (hs : Kept kp s) :
    Kept kp (markBuf c b used s) := by
  unfold markBuf
  refine Kept.upd rfl rfl ?_
  assumption

theorem freeSlot_kept {kp : Keep} {c b s} (hs : Kept kp s) :
    Kept kp (freeSlot c b s) := by
  unfold freeSlot
  refine markBuf_kept ?_
  assumption

theorem alignEvent_kept {kp : Keep} {n code g r s} (hs : Kept kp s) :
    Kept kp (alignEvent n code g r s) := by
  unfold alignEvent
  refine raiseAt_kept ?_
  assumption

theorem applyClock_kept {kp : Keep} {n g r s} (hs : Kept kp s) :
    Kept kp (applyClock n g r s) := by
  unfold applyClock
  extract_lets +onlyGivenNames -merge -useContext x1; clear_value x1
  extract_lets +onlyGivenNames -merge -useContext x2
  have hx2 : Kept kp x2 := by
    unfold x2
    refine State.setLin_kept ?_
    assumption
  clear_value x2
  split
  · rename_i x3 h4
    assumption
  · rename_i x5 x6 h7
    refine alignEvent_kept ?_
    assumption

theorem feedPair_kept {kp : Keep} {n g t a s} (hs : Kept kp s) :
    Kept kp (feedPair n g t a s) := by
  unfold feedPair
  extract_lets +onlyGivenNames -merge -useContext x1; clear_value x1
  refine applyClock_kept ?_
  assumption

theorem frameCapture_kept {kp : Keep} {c no cap s} (hs : Kept kp s) :
    KeptF kp (frameCapture c no cap s) := by
  unfold frameCapture
  extract_lets +onlyGivenNames -merge -useContext x1; clear_value x1
  refine KeptF.ite ?_ ?_
  · refine KeptF.mk ?_
    assumption
  · split
    rename_i x2 x3 x4 h5
    extract_lets +onlyGivenNames -merge -useContext x6; clear_value x6
    extract_lets +onlyGivenNames -merge -useContext x7
    have hx7 : Kept kp x7 := by
      unfold x7
      refine State.setLin_kept ?_
      assumption
    clear_value x7
    extract_lets +onlyGivenNames -merge -useContext x8
    have hx8 : Kept kp x8 := by
      unfold x8
      refine feedPair_kept ?_
      assumption
    clear_value x8
    refine KeptF.mk ?_
    assumption

theorem feedEarly_kept {kp : Keep} {n g t a r s} (hs : Kept kp s) :
    Kept kp (feedEarly n g t a r s) := by
  unfold feedEarly
  extract_lets +onlyGivenNames -merge -useContext x1; clear_value x1
  refine Kept.ite ?_ ?_
  · assumption
  · refine applyClock_kept ?_
    assumption

theorem countSuperseded_kept {kp : Keep} {n s} (hs : Kept kp s) :
    Kept kp (countSuperseded n s) := by
  unfold countSuperseded
  refine State.setLin_kept ?_
  assumption

theorem State.setEpoch_kept {kp : Keep} {s x} (hs : Kept kp s) :
    Kept kp (State.setEpoch s x) := by
  unfold State.setEpoch
  refine Kept.upd rfl rfl ?_
  assumption

theorem dropSample_kept {kp : Keep} {e q s} (hs : Kept kp s) :
    Kept kp (dropSample e q s) := by
  unfold dropSample
  extract_lets +onlyGivenNames -merge -useContext x1; clear_value x1
  extract_lets +onlyGivenNames -merge -useContext x2
  have hx2 : Kept kp x2 := by
    unfold x2
    refine State.setEpoch_kept ?_
    assumption
  clear_value x2
  refine Kept.ite ?_ ?_
  · refine freeSlot_kept ?_
    assumption
  · assumption

theorem enterFrame_kept {kp : Keep} {e c b cap carried s} (hs : Kept kp s) :
    Kept kp (enterFrame e c b cap carried s) := by
  unfold enterFrame
  extract_lets +onlyGivenNames -merge -useContext x1; clear_value x1
  extract_lets +onlyGivenNames -merge -useContext x2; clear_value x2
  refine Kept.ite ?_ ?_
  · refine freeSlot_kept ?_
    assumption
  · refine Kept.ite ?_ ?_
    · refine countSuperseded_kept ?_
      refine freeSlot_kept ?_
      assumption
    · extract_lets +onlyGivenNames -merge -useContext x3
      have hx3 : Kept kp x3 := by
        unfold x3
        refine State.setEpoch_kept ?_
        assumption
      clear_value x3
      split
      · rename_i x4 h5
        extract_lets +onlyGivenNames -merge -useContext x6; clear_value x6
        refine State.setEpoch_kept ?_
        assumption
      · rename_i x7 x8 h9
        refine Kept.ite ?_ ?_
        · refine countSuperseded_kept ?_
          refine freeSlot_kept ?_
          assumption
        · extract_lets +onlyGivenNames -merge -useContext x10
          have hx10 : Kept kp x10 := by
            unfold x10
            refine countSuperseded_kept ?_
            refine dropSample_kept ?_
            assumption
          clear_value x10
          extract_lets +onlyGivenNames -merge -useContext x11; clear_value x11
          refine State.setEpoch_kept ?_
          assumption

theorem arriveFrame_kept {kp : Keep} {c b no cap s} (hs : Kept kp s) :
    Kept kp (arriveFrame c b no cap s) := by
  unfold arriveFrame
  refine Kept.ite ?_ ?_
  · refine freeSlot_kept ?_
    assumption
  · split
    rename_i x1 x2 x3 x4 h5
    have h6 : Kept kp x2 := by
      refine KeptF.of_eq h5 ?_
      refine frameCapture_kept ?_
      assumption
    refine Kept.ite ?_ ?_
    · refine feedEarly_kept ?_
      refine freeSlot_kept ?_
      assumption
    · split
      · rename_i x7 h8
        refine Kept.ite ?_ ?_
        · refine dropLate_kept ?_
          refine freeSlot_kept ?_
          assumption
        · refine freeSlot_kept ?_
          assumption
      · rename_i x9 x10 h11
        refine enterFrame_kept ?_
        assumption
      · rename_i x12 x13 h14
        refine Kept.ite ?_ ?_
        · refine enterFrame_kept ?_
          refine noteCarried_kept ?_
          assumption
        · refine freeSlot_kept ?_
          assumption

theorem commitFrame_kept {kp : Keep} {c b no cap s} (hs : Kept kp s) :
    Kept kp (commitFrame c b no cap s) := by
  unfold commitFrame
  refine colStart_kept ?_
  refine arriveFrame_kept ?_
  assumption

theorem takeSlot_kept {kp : Keep} {c w h frame s} (hs : Kept kp s) :
    KeptF kp (takeSlot c w h frame s) := by
  unfold takeSlot
  refine KeptF.ite ?_ ?_
  · refine KeptF.mk ?_
    assumption
  · split
    · rename_i x1 x2 h3
      refine KeptF.mk ?_
      refine raise_kept ?_
      refine Kept.upd rfl rfl ?_
      assumption
    · rename_i x4 h5
      split
      · rename_i x6 h7
        refine KeptF.mk ?_
        assumption
      · rename_i x8 x9 h10
        refine KeptF.mk ?_
        refine markBuf_kept ?_
        assumption

theorem lkoErr_kept {kp : Keep} {opc reason input word s} (hs : Kept kp s) :
    Kept kp (lkoErr opc reason input word s) := by
  unfold lkoErr
  refine Kept.upd rfl rfl ?_
  assumption

theorem judgeMotion_kept {kp : Keep} {b s n} (hs : Kept kp s) :
    Kept kp (judgeMotion b s n) := by
  unfold judgeMotion
  extract_lets +onlyGivenNames -merge -useContext x1; clear_value x1
  split
  rename_i x2 x3 x4 h5
  extract_lets +onlyGivenNames -merge -useContext x6
  have hx6 : Kept kp x6 := by
    unfold x6
    refine State.setLin_kept ?_
    assumption
  clear_value x6
  split
  · rename_i x7
    assumption
  · rename_i x8 x9
    refine raiseAt_kept ?_
    assumption

theorem setLkoState_kept {kp : Keep} {st s} (hs : Kept kp s) :
    Kept kp (setLkoState st s) := by
  unfold setLkoState
  refine Kept.ite ?_ ?_
  · assumption
  · refine raise_kept ?_
    refine Kept.upd rfl rfl ?_
    assumption

theorem egoTick_kept {kp : Keep} {b s} (hs : Kept kp s) :
    Kept kp (egoTick b s) := by
  unfold egoTick
  extract_lets +onlyGivenNames -merge -useContext x1; clear_value x1
  extract_lets +onlyGivenNames -merge -useContext x2; clear_value x2
  extract_lets +onlyGivenNames -merge -useContext x3; clear_value x3
  extract_lets +onlyGivenNames -merge -useContext x4; clear_value x4
  extract_lets +onlyGivenNames -merge -useContext x5; clear_value x5
  extract_lets +onlyGivenNames -merge -useContext x6; clear_value x6
  extract_lets +onlyGivenNames -merge -useContext x7; clear_value x7
  extract_lets +onlyGivenNames -merge -useContext x8; clear_value x8
  extract_lets +onlyGivenNames -merge -useContext x9
  have hx9 : Kept kp x9 := by
    unfold x9
    refine Kept.ite ?_ ?_
    · refine raiseAt_kept ?_
      assumption
    · assumption
  clear_value x9
  extract_lets +onlyGivenNames -merge -useContext x10; clear_value x10
  extract_lets +onlyGivenNames -merge -useContext x11; clear_value x11
  extract_lets +onlyGivenNames -merge -useContext x12; clear_value x12
  extract_lets +onlyGivenNames -merge -useContext x13; clear_value x13
  extract_lets +onlyGivenNames -merge -useContext x14; clear_value x14
  extract_lets +onlyGivenNames -merge -useContext x15; clear_value x15
  extract_lets +onlyGivenNames -merge -useContext x16
  have hx16 : Kept kp x16 := by
    unfold x16
    refine Kept.upd rfl rfl ?_
    assumption
  clear_value x16
  refine Kept.foldl ?_ ?_
  · intro x17 x18 h19
    refine publishLate_kept ?_
    assumption
  · assumption

end Sys2Proof.Machine
end

