-- ==== Sys2Proof/Laws/KeptLookoutOps.lean ====
section
/-!
SUPPORT. What the operations of Sys2Proof/Machine/LookoutOps.lean keep (see Sys2Proof/Laws/Kept.lean).
-/

namespace Sys2Proof.Machine

theorem lkoStopNow_kept {kp : Keep} {s} (hs : Kept kp s) :
    Kept kp (lkoStopNow s) := by
  unfold lkoStopNow
  refine Kept.ite ?_ ?_
  · refine Kept.upd rfl rfl ?_
    assumption
  · assumption

theorem streamWeights_kept {kp : Keep} {k int8 s} (hs : Kept kp s) :
    KeptF kp (streamWeights k int8 s) := by
  unfold streamWeights
  split
  · rename_i x1 h2
    refine KeptF.mk ?_
    assumption
  · rename_i x3 x4 h5
    refine KeptF.ite ?_ ?_
    · refine KeptF.mk ?_
      assumption
    · extract_lets +onlyGivenNames -merge -useContext x6
      clear_value x6
      split
      rename_i x7 x8 x9 h10
      have h11 : Kept kp x8 := by
        refine KeptF.of_eq h10 ?_
        refine readEngine_kept ?_
        assumption
      refine KeptF.ite ?_ ?_
      · refine KeptF.mk ?_
        assumption
      · refine KeptF.mk ?_
        refine raise_kept ?_
        refine Kept.upd rfl rfl ?_
        assumption

theorem endCamera_kept {kp : Keep} {e c cap int8 enc s} (hs : Kept kp s) :
    Kept kp (endCamera e c cap int8 enc s) := by
  unfold endCamera
  split
  · rename_i x1 h2
    assumption
  · rename_i x3 x4 h5
    split
    rename_i x6 x7 x8 h9
    have h10 : Kept kp x7 := by
      refine KeptF.of_eq h9 ?_
      refine streamWeights_kept ?_
      assumption
    split
    rename_i x11 x12 x13 h14
    have h15 : Kept kp x12 := by
      refine KeptF.of_eq h14 ?_
      refine KeptF.ite ?_ ?_
      · refine readEngine_kept ?_
        assumption
      · refine KeptF.mk ?_
        assumption
    refine Kept.ite ?_ ?_
    · extract_lets +onlyGivenNames -merge -useContext x16
      clear_value x16
      refine freeSlot_kept ?_
      refine State.setEpoch_kept ?_
      assumption
    · refine dropSample_kept ?_
      assumption

theorem endLidar_kept {kp : Keep} {e i int8 enc s} (hs : Kept kp s) :
    Kept kp (endLidar e i int8 enc s) := by
  unfold endLidar
  extract_lets +onlyGivenNames -merge -useContext x1; clear_value x1
  refine Kept.ite ?_ ?_
  · assumption
  · extract_lets +onlyGivenNames -merge -useContext x2
    clear_value x2
    split
    rename_i x3 x4 x5 h6
    have h7 : Kept kp x4 := by
      refine KeptF.of_eq h6 ?_
      refine streamWeights_kept ?_
      assumption
    extract_lets +onlyGivenNames -merge -useContext x8; clear_value x8
    extract_lets +onlyGivenNames -merge -useContext x9; clear_value x9
    refine State.setEpoch_kept ?_
    assumption

theorem endFuse_kept {kp : Keep} {e int8 features s} (hs : Kept kp s) :
    Kept kp (endFuse e int8 features s) := by
  unfold endFuse
  extract_lets +onlyGivenNames -merge -useContext x1; clear_value x1
  refine Kept.ite ?_ ?_
  · assumption
  · split
    rename_i x2 x3 x4 h5
    have h6 : Kept kp x3 := by
      refine KeptF.of_eq h5 ?_
      refine streamWeights_kept ?_
      assumption
    extract_lets +onlyGivenNames -merge -useContext x7; clear_value x7
    refine State.setEpoch_kept ?_
    assumption

theorem endHead_kept {kp : Keep} {e int8 cells s} (hs : Kept kp s) :
    Kept kp (endHead e int8 cells s) := by
  unfold endHead
  extract_lets +onlyGivenNames -merge -useContext x1; clear_value x1
  refine Kept.ite ?_ ?_
  · assumption
  · split
    rename_i x2 x3 x4 h5
    have h6 : Kept kp x3 := by
      refine KeptF.of_eq h5 ?_
      refine streamWeights_kept ?_
      assumption
    extract_lets +onlyGivenNames -merge -useContext x7; clear_value x7
    refine State.setEpoch_kept ?_
    assumption

theorem colEnd_kept {kp : Keep} {r s} (hs : Kept kp s) :
    Kept kp (colEnd r s) := by
  unfold colEnd
  refine Kept.ite ?_ ?_
  · assumption
  · extract_lets +onlyGivenNames -merge -useContext x1
    have hx1 : ∀ y1, Kept kp y1 → Kept kp (x1 y1) := by
      unfold x1
      intro x2 h3
      refine Kept.upd rfl rfl ?_
      assumption
    clear_value x1
    split
    · rename_i x4 x5 x6 x7 x8 x9 x10 x11 x12 h13
      refine Kept.ite ?_ ?_
      · refine colStart_kept ?_
        refine endCamera_kept ?_
        apply hx1
        assumption
      · assumption
    · rename_i x14 x15 x16 x17 x18 x19 x20 h21
      refine Kept.ite ?_ ?_
      · refine colStart_kept ?_
        refine endLidar_kept ?_
        apply hx1
        assumption
      · assumption
    · rename_i x22 x23 x24 x25 x26 h27
      refine colStart_kept ?_
      refine endFuse_kept ?_
      apply hx1
      assumption
    · rename_i x28 x29 x30 x31 x32 h33
      refine colStart_kept ?_
      refine endHead_kept ?_
      apply hx1
      assumption
    · rename_i x34 x35 x36 h37 h38 h39 h40
      assumption

theorem execColInvocationEnd_kept {kp : Keep} {r s} (hs : Kept kp s) :
    KeptO kp (execColInvocationEnd r s) := by
  unfold execColInvocationEnd
  refine KeptO.next ?_
  refine colEnd_kept ?_
  assumption

theorem remoteSample_kept {kp : Keep} {src e a s} (hs : Kept kp s) :
    Kept kp (remoteSample src e a s) := by
  unfold remoteSample
  refine sampleEvent_kept ?_
  assumption

theorem binPoint_kept {kp : Keep} {i e p carried s} (hs : Kept kp s) :
    KeptF kp (binPoint i e p carried s) := by
  unfold binPoint
  extract_lets +onlyGivenNames -merge -useContext x1; clear_value x1
  extract_lets +onlyGivenNames -merge -useContext x2; clear_value x2
  refine KeptF.ite ?_ ?_
  · refine KeptF.mk ?_
    assumption
  · refine KeptF.mk ?_
    refine State.setEpoch_kept ?_
    assumption

theorem dropUnaligned_kept {kp : Keep} {e s} (hs : Kept kp s) :
    Kept kp (dropUnaligned e s) := by
  unfold dropUnaligned
  extract_lets +onlyGivenNames -merge -useContext x1; clear_value x1
  extract_lets +onlyGivenNames -merge -useContext x2
  have hx2 : Kept kp x2 := by
    unfold x2
    refine Kept.foldl ?_ ?_
    · intro x3 x4 h5
      refine dropSample_kept ?_
      assumption
    · assumption
  clear_value x2
  extract_lets +onlyGivenNames -merge -useContext x6; clear_value x6
  refine State.setEpoch_kept ?_
  assumption

theorem closeRemote_kept {kp : Keep} {e s} (hs : Kept kp s) :
    Kept kp (closeRemote e s) := by
  unfold closeRemote
  extract_lets +onlyGivenNames -merge -useContext x1
  have hx1 : Kept kp x1 := by
    unfold x1
    refine dropUnaligned_kept ?_
    assumption
  clear_value x1
  extract_lets +onlyGivenNames -merge -useContext x2; clear_value x2
  extract_lets +onlyGivenNames -merge -useContext x3; clear_value x3
  extract_lets +onlyGivenNames -merge -useContext x4
  have hx4 : Kept kp x4 := by
    unfold x4
    refine Kept.upd rfl rfl ?_
    assumption
  clear_value x4
  extract_lets +onlyGivenNames -merge -useContext x5; clear_value x5
  extract_lets +onlyGivenNames -merge -useContext x6
  have hx6 : Kept kp x6 := by
    unfold x6
    refine Kept.foldl ?_ ?_
    · intro x7 x8 h9
      refine Kept.foldl ?_ ?_
      · intro x10 x11 h12
        refine dropSample_kept ?_
        assumption
      · assumption
    · assumption
  clear_value x6
  refine Kept.upd rfl rfl ?_
  assumption

theorem closeEpoch_kept {kp : Keep} {e g takeover s} (hs : Kept kp s) :
    Kept kp (closeEpoch e g takeover s) := by
  unfold closeEpoch
  extract_lets +onlyGivenNames -merge -useContext x1
  have hx1 : Kept kp x1 := by
    unfold x1
    refine dropUnaligned_kept ?_
    assumption
  clear_value x1
  extract_lets +onlyGivenNames -merge -useContext x2; clear_value x2
  extract_lets +onlyGivenNames -merge -useContext x3; clear_value x3
  extract_lets +onlyGivenNames -merge -useContext x4
  have hx4 : Kept kp x4 := by
    unfold x4
    refine State.setEpoch_kept ?_
    assumption
  clear_value x4
  extract_lets +onlyGivenNames -merge -useContext x5; clear_value x5
  extract_lets +onlyGivenNames -merge -useContext x6
  have hx6 : Kept kp x6 := by
    unfold x6
    refine Kept.upd rfl rfl ?_
    assumption
  clear_value x6
  refine Kept.ite ?_ ?_
  · refine raiseAt_kept ?_
    assumption
  · assumption

theorem epochClose_kept {kp : Keep} {s} (hs : Kept kp s) :
    Kept kp (epochClose s) := by
  unfold epochClose
  extract_lets +onlyGivenNames -merge -useContext x1; clear_value x1
  extract_lets +onlyGivenNames -merge -useContext x2; clear_value x2
  refine Kept.ite ?_ ?_
  · assumption
  · refine Kept.ite ?_ ?_
    · refine State.reach_kept ?_ ?_
      · assumption
      · intro x3 h4
        refine closeRemote_kept ?_
        assumption
    · refine Kept.ite ?_ ?_
      · refine State.reach_kept ?_ ?_
        · assumption
        · intro x5 h6
          refine colStart_kept ?_
          refine closeEpoch_kept ?_
          assumption
      · assumption

theorem modelDrop_kept {kp : Keep} {c s} (hs : Kept kp s) :
    Kept kp (modelDrop c s) := by
  unfold modelDrop
  extract_lets +onlyGivenNames -merge -useContext x1; clear_value x1
  refine Kept.ite ?_ ?_
  · refine failOp_kept ?_
    assumption
  · refine finishOp_kept ?_
    refine Kept.upd rfl rfl ?_
    assumption

theorem colOff_kept {kp : Keep} {s} (hs : Kept kp s) :
    Kept kp (colOff s) := by
  unfold colOff
  refine Kept.foldl ?_ ?_
  · intro x1 x2 h3
    extract_lets +onlyGivenNames -merge -useContext x4
    have hx4 : Kept kp x4 := by
      unfold x4
      refine Kept.foldl ?_ ?_
      · intro x5 x6 h7
        refine dropSample_kept ?_
        assumption
      · assumption
    clear_value x4
    extract_lets +onlyGivenNames -merge -useContext x8; clear_value x8
    refine State.setEpoch_kept ?_
    assumption
  · refine Kept.upd rfl rfl ?_
    assumption

theorem poolCheck_kept {kp : Keep} {least c s} (hs : Kept kp s) :
    Kept kp (poolCheck least c s) := by
  unfold poolCheck
  refine Kept.ite ?_ ?_
  · refine failOp_kept ?_
    assumption
  · refine startOp_kept ?_
    assumption

theorem lkoStop_kept {kp : Keep} {c s} (hs : Kept kp s) :
    Kept kp (lkoStop c s) := by
  unfold lkoStop
  refine Kept.ite ?_ ?_
  · refine failOp_kept ?_
    assumption
  · refine startOp_kept ?_
    refine lkoStopNow_kept ?_
    assumption

theorem execLkoStop_kept {kp : Keep} {n s} (hs : Kept kp s) :
    KeptO kp (execLkoStop n s) := by
  unfold execLkoStop
  refine KeptO.next ?_
  refine takeOp_kept ?_ ?_
  · intro x1 x2 h3
    refine lkoStop_kept ?_
    assumption
  · assumption

theorem finishTail_kept {kp : Keep} {s} (hs : Kept kp s) :
    Kept kp (finishTail s) := by
  unfold finishTail
  extract_lets +onlyGivenNames -merge -useContext x1; clear_value x1
  extract_lets +onlyGivenNames -merge -useContext x2
  have hx2 : Kept kp x2 := by
    unfold x2
    refine Kept.upd rfl rfl ?_
    assumption
  clear_value x2
  split
  · rename_i x3 h4
    assumption
  · rename_i x5 x6 h7
    refine finishOp_kept ?_
    assumption

theorem finishStop_kept {kp : Keep} {s} (hs : Kept kp s) :
    Kept kp (finishStop s) := by
  unfold finishStop
  extract_lets +onlyGivenNames -merge -useContext x1
  have hx1 : Kept kp x1 := by
    unfold x1
    refine Kept.foldl ?_ ?_
    · intro x2 x3 h4
      refine Kept.foldl ?_ ?_
      · intro x5 x6 h7
        refine dropSample_kept ?_
        assumption
      · assumption
    · assumption
  clear_value x1
  extract_lets +onlyGivenNames -merge -useContext x8; clear_value x8
  extract_lets +onlyGivenNames -merge -useContext x9
  have hx9 : Kept kp x9 := by
    unfold x9
    refine Kept.upd rfl rfl ?_
    assumption
  clear_value x9
  split
  · rename_i x10 h11
    assumption
  · rename_i x12 x13 h14
    refine finishOp_kept ?_
    assumption

theorem stopIfDone_kept {kp : Keep} {s} (hs : Kept kp s) :
    Kept kp (stopIfDone s) := by
  unfold stopIfDone
  split
  · rename_i x1 x2 x3 h4
    refine Kept.ite ?_ ?_
    · refine finishTail_kept ?_
      assumption
    · assumption
  · rename_i x5 x6 x7 h8 h9
    refine Kept.ite ?_ ?_
    · refine finishStop_kept ?_
      assumption
    · assumption
  · rename_i x10 x11 h12 h13
    assumption

theorem precisionTick_kept {kp : Keep} {b s} (hs : Kept kp s) :
    Kept kp (precisionTick b s) := by
  unfold precisionTick
  refine Kept.foldl ?_ ?_
  · intro x1 x2 h3
    split
    · rename_i x4 h5
      assumption
    · rename_i x6 x7 h8
      extract_lets +onlyGivenNames -merge -useContext x9; clear_value x9
      refine Kept.ite ?_ ?_
      · assumption
      · refine raiseAt_kept ?_
        refine Kept.upd rfl rfl ?_
        assumption
  · assumption

theorem instantTick_kept {kp : Keep} {b e s} (hs : Kept kp s) :
    Kept kp (instantTick b e s) := by
  unfold instantTick
  extract_lets +onlyGivenNames -merge -useContext x1; clear_value x1
  extract_lets +onlyGivenNames -merge -useContext x2
  have hx2 : Kept kp x2 := by
    unfold x2
    refine Kept.ite ?_ ?_
    · refine State.setEpoch_kept ?_
      assumption
    · assumption
  clear_value x2
  extract_lets +onlyGivenNames -merge -useContext x3
  have hx3 : Kept kp x3 := by
    unfold x3
    refine Kept.ite ?_ ?_
    · refine Kept.foldl ?_ ?_
      · intro x4 x5 h6
        refine judgeMotion_kept ?_
        assumption
      · assumption
    · assumption
  clear_value x3
  extract_lets +onlyGivenNames -merge -useContext x7; clear_value x7
  extract_lets +onlyGivenNames -merge -useContext x8; clear_value x8
  extract_lets +onlyGivenNames -merge -useContext x9
  have hx9 : Kept kp x9 := by
    unfold x9
    refine Kept.upd rfl rfl ?_
    assumption
  clear_value x9
  extract_lets +onlyGivenNames -merge -useContext x10
  have hx10 : Kept kp x10 := by
    unfold x10
    refine precisionTick_kept ?_
    assumption
  clear_value x10
  extract_lets +onlyGivenNames -merge -useContext x11
  have hx11 : Kept kp x11 := by
    unfold x11
    refine Kept.ite ?_ ?_
    · refine setLkoState_kept ?_
      assumption
    · assumption
  clear_value x11
  split
  · rename_i x12 h13
    assumption
  · rename_i x14 x15 h16
    refine Kept.ite ?_ ?_
    · extract_lets +onlyGivenNames -merge -useContext x17
      clear_value x17
      extract_lets +onlyGivenNames -merge -useContext x18
      have hx18 : Kept kp x18 := by
        unfold x18
        refine Kept.ite ?_ ?_
        · refine closeRemote_kept ?_
          assumption
        · assumption
      clear_value x18
      extract_lets +onlyGivenNames -merge -useContext x19
      have hx19 : Kept kp x19 := by
        unfold x19
        refine setLkoState_kept ?_
        assumption
      clear_value x19
      refine Kept.ite ?_ ?_
      · refine finishStop_kept ?_
        assumption
      · refine stopIfDone_kept ?_
        assumption
    · assumption

theorem lkoSchema_kept {kp : Keep} {c xfer reason input word s} (hs : Kept kp s) :
    Kept kp (lkoSchema c xfer reason input word s) := by
  unfold lkoSchema
  refine failOp_kept ?_
  refine lkoErr_kept ?_
  assumption

theorem sensorCfg_kept {kp : Keep} {c s} (hs : Kept kp s) :
    Kept kp (sensorCfg c s) := by
  unfold sensorCfg
  refine needBuffer_kept ?_ ?_
  · assumption
  · intro x1 h2
    extract_lets +onlyGivenNames -merge -useContext x3; clear_value x3
    refine Kept.ite ?_ ?_
    · refine failOp_kept ?_
      assumption
    · refine Kept.ite ?_ ?_
      · refine failOp_kept ?_
        assumption
      · refine Kept.ite ?_ ?_
        · refine lkoSchema_kept ?_
          assumption
        · refine readWhole_kept ?_ ?_
          · assumption
          · intro x4 x5 h6
            extract_lets +onlyGivenNames -merge -useContext x7; clear_value x7
            split
            · rename_i x8 x9 x10 h11
              refine lkoSchema_kept ?_
              assumption
            · rename_i x12 h13
              extract_lets +onlyGivenNames -merge -useContext x14; clear_value x14
              extract_lets +onlyGivenNames -merge -useContext x15; clear_value x15
              extract_lets +onlyGivenNames -merge -useContext x16; clear_value x16
              extract_lets +onlyGivenNames -merge -useContext x17; clear_value x17
              extract_lets +onlyGivenNames -merge -useContext x18; clear_value x18
              refine finishOp_kept ?_
              refine State.setLin_kept ?_
              assumption

theorem lkoTakeover_kept {kp : Keep} {tk s} (hs : Kept kp s) :
    Kept kp (lkoTakeover tk s) := by
  unfold lkoTakeover
  refine Kept.ite ?_ ?_
  · assumption
  · extract_lets +onlyGivenNames -merge -useContext x1
    clear_value x1
    extract_lets +onlyGivenNames -merge -useContext x2
    have hx2 : Kept kp x2 := by
      unfold x2
      refine setLkoState_kept ?_
      assumption
    clear_value x2
    extract_lets +onlyGivenNames -merge -useContext x3; clear_value x3
    extract_lets +onlyGivenNames -merge -useContext x4; clear_value x4
    refine Kept.ite ?_ ?_
    · refine Kept.upd rfl rfl ?_
      assumption
    · refine Kept.ite ?_ ?_
      · refine colStart_kept ?_
        refine closeEpoch_kept ?_
        refine Kept.upd rfl rfl ?_
        assumption
      · refine Kept.upd rfl rfl ?_
        assumption

theorem placePoint_kept {kp : Keep} {i p cap r} (hr : KeptF kp r) :
    KeptF kp (placePoint i p cap r) := by
  unfold placePoint
  split
  rename_i x1 x2 x3
  refine KeptF.ite ?_ ?_
  · refine KeptF.mk ?_
    assumption
  · split
    · rename_i x4 h5
      refine KeptF.ite ?_ ?_
      · refine KeptF.mk ?_
        assumption
      · refine KeptF.mk ?_
        assumption
    · rename_i x6 x7 h8
      split
      rename_i x9 x10 x11 h12
      have h13 : Kept kp x10 := by
        refine KeptF.of_eq h12 ?_
        refine binPoint_kept ?_
        assumption
      refine KeptF.mk ?_
      assumption
    · rename_i x14 x15 h16
      split
      rename_i x17 x18 x19 h20
      have h21 : Kept kp x18 := by
        refine KeptF.of_eq h20 ?_
        refine binPoint_kept ?_
        assumption
      refine KeptF.mk ?_
      assumption

theorem binBatch_kept {kp : Keep} {i t pts s} (hs : Kept kp s) :
    KeptF kp (binBatch i t pts s) := by
  unfold binBatch
  refine KeptF.foldl ?_ ?_
  · intro x1 x2 h3
    extract_lets +onlyGivenNames -merge -useContext x4; clear_value x4
    refine placePoint_kept ?_
    assumption
  · refine KeptF.mk ?_
    assumption

theorem lkoCfgLoad_kept {kp : Keep} {c s} (hs : Kept kp s) :
    Kept kp (lkoCfgLoad c s) := by
  unfold lkoCfgLoad
  refine needBuffer_kept ?_ ?_
  · assumption
  · intro x1 h2
    refine Kept.ite ?_ ?_
    · refine failOp_kept ?_
      assumption
    · refine Kept.ite ?_ ?_
      · refine failOp_kept ?_
        assumption
      · refine readWhole_kept ?_ ?_
        · assumption
        · intro x3 x4 h5
          extract_lets +onlyGivenNames -merge -useContext x6; clear_value x6
          split
          · rename_i x7 x8 h9
            refine lkoSchema_kept ?_
            assumption
          · rename_i x10 h11
            refine finishOp_kept ?_
            refine setLkoState_kept ?_
            refine Kept.upd rfl rfl ?_
            assumption

theorem execLkoCfgLoad_kept {kp : Keep} {n s} (hs : Kept kp s) :
    KeptO kp (execLkoCfgLoad n s) := by
  unfold execLkoCfgLoad
  refine KeptO.next ?_
  refine takeOp_kept ?_ ?_
  · intro x1 x2 h3
    refine lkoCfgLoad_kept ?_
    assumption
  · assumption

theorem healthRead_kept {kp : Keep} {c s} (hs : Kept kp s) :
    Kept kp (healthRead c s) := by
  unfold healthRead
  refine needBuffer_kept ?_ ?_
  · assumption
  · intro x1 h2
    refine Kept.ite ?_ ?_
    · refine failOp_kept ?_
      assumption
    · refine writeOut_kept ?_
      assumption

theorem execHealthRead_kept {kp : Keep} {n s} (hs : Kept kp s) :
    KeptO kp (execHealthRead n s) := by
  unfold execHealthRead
  refine KeptO.next ?_
  refine takeOp_kept ?_ ?_
  · intro x1 x2 h3
    refine healthRead_kept ?_
    assumption
  · assumption

theorem scoreInput_kept {kp : Keep} {p s n} (hs : Kept kp s) :
    Kept kp (scoreInput p s n) := by
  unfold scoreInput
  extract_lets +onlyGivenNames -merge -useContext x1; clear_value x1
  split
  rename_i x2 x3 x4 h5
  refine Kept.ite ?_ ?_
  · refine State.setLin_kept ?_
    assumption
  · refine State.setLin_kept ?_
    assumption

theorem poolOut_kept {kp : Keep} {q opc code e g bs s} (hs : Kept kp s) :
    Kept kp (poolOut q opc code e g bs s) := by
  unfold poolOut
  split
  · rename_i x1 h2
    refine raiseAt_kept ?_
    assumption
  · rename_i x3 x4 h5
    refine writeOut_kept ?_
    assumption

theorem applyScore_kept {kp : Keep} {g s n} (hs : Kept kp s) :
    Kept kp (applyScore g s n) := by
  unfold applyScore
  extract_lets +onlyGivenNames -merge -useContext x1; clear_value x1
  refine Kept.ite ?_ ?_
  · assumption
  · split
    rename_i x2 x3 x4 h5
    extract_lets +onlyGivenNames -merge -useContext x6
    have hx6 : Kept kp x6 := by
      unfold x6
      refine State.setLin_kept ?_
      assumption
    clear_value x6
    split
    · rename_i x7
      assumption
    · rename_i x8 x9
      refine raiseAt_kept ?_
      assumption

theorem releaseWith_kept {kp : Keep} {e g x p s} (hs : Kept kp s) :
    Kept kp (releaseWith e g x p s) := by
  unfold releaseWith
  extract_lets +onlyGivenNames -merge -useContext x1
  have hx1 : Kept kp x1 := by
    unfold x1
    refine Kept.foldl ?_ ?_
    · intro x2 x3 h4
      refine scoreInput_kept ?_
      assumption
    · assumption
  clear_value x1
  extract_lets +onlyGivenNames -merge -useContext x5; clear_value x5
  extract_lets +onlyGivenNames -merge -useContext x6; clear_value x6
  extract_lets +onlyGivenNames -merge -useContext x7
  have hx7 : Kept kp x7 := by
    unfold x7
    refine Kept.foldl ?_ ?_
    · intro x8 x9 h10
      refine publishLate_kept ?_
      assumption
    · assumption
  clear_value x7
  extract_lets +onlyGivenNames -merge -useContext x11
  have hx11 : Kept kp x11 := by
    unfold x11
    refine Kept.foldl ?_ ?_
    · intro x12 x13 h14
      refine publishLate_kept ?_
      assumption
    · assumption
  clear_value x11
  extract_lets +onlyGivenNames -merge -useContext x15
  have hx15 : Kept kp x15 := by
    unfold x15
    refine installTraj_kept ?_
    assumption
  clear_value x15
  extract_lets +onlyGivenNames -merge -useContext x16; clear_value x16
  extract_lets +onlyGivenNames -merge -useContext x17; clear_value x17
  extract_lets +onlyGivenNames -merge -useContext x18; clear_value x18
  extract_lets +onlyGivenNames -merge -useContext x19
  have hx19 : Kept kp x19 := by
    unfold x19
    refine Kept.ite ?_ ?_
    · refine Kept.upd rfl rfl ?_
      assumption
    · assumption
  clear_value x19
  extract_lets +onlyGivenNames -merge -useContext x20
  have hx20 : Kept kp x20 := by
    unfold x20
    refine poolOut_kept ?_
    assumption
  clear_value x20
  extract_lets +onlyGivenNames -merge -useContext x21
  have hx21 : Kept kp x21 := by
    unfold x21
    refine poolOut_kept ?_
    assumption
  clear_value x21
  extract_lets +onlyGivenNames -merge -useContext x22; clear_value x22
  extract_lets +onlyGivenNames -merge -useContext x23
  have hx23 : Kept kp x23 := by
    unfold x23
    refine Kept.upd rfl rfl ?_
    assumption
  clear_value x23
  refine Kept.foldl ?_ ?_
  · intro x24 x25 h26
    refine applyScore_kept ?_
    assumption
  · assumption

theorem releaseEpoch_kept {kp : Keep} {e s} (hs : Kept kp s) :
    Kept kp (releaseEpoch e s) := by
  unfold releaseEpoch
  extract_lets +onlyGivenNames -merge -useContext x1; clear_value x1
  extract_lets +onlyGivenNames -merge -useContext x2
  have hx2 : Kept kp x2 := by
    unfold x2
    refine Kept.ite ?_ ?_
    · assumption
    · refine closeEpoch_kept ?_
      assumption
  clear_value x2
  extract_lets +onlyGivenNames -merge -useContext x3; clear_value x3
  extract_lets +onlyGivenNames -merge -useContext x4; clear_value x4
  extract_lets +onlyGivenNames -merge -useContext x5
  have hx5 : Kept kp x5 := by
    unfold x5
    split
    · rename_i x6 x7 x8 h9 h10
      refine releaseWith_kept ?_
      assumption
    · rename_i x11 x12 x13 h14 h15
      extract_lets +onlyGivenNames -merge -useContext x16
      have hx16 : Kept kp x16 := by
        unfold x16
        refine Kept.foldl ?_ ?_
        · intro x17 x18 h19
          refine applyScore_kept ?_
          assumption
        · refine Kept.foldl ?_ ?_
          · intro x20 x21 h22
            refine scoreInput_kept ?_
            assumption
          · assumption
      clear_value x16
      refine raiseAt_kept ?_
      refine Kept.upd rfl rfl ?_
      assumption
    · rename_i x23 x24 h25
      refine raiseAt_kept ?_
      refine Kept.upd rfl rfl ?_
      assumption
  clear_value x5
  extract_lets +onlyGivenNames -merge -useContext x26
  have hx26 : Kept kp x26 := by
    unfold x26
    refine Kept.foldl ?_ ?_
    · intro x27 x28 h29
      refine dropSample_kept ?_
      assumption
    · assumption
  clear_value x26
  refine colStart_kept ?_
  refine stopIfDone_kept ?_
  refine Kept.upd rfl rfl ?_
  assumption

theorem epochRelease_kept {kp : Keep} {s} (hs : Kept kp s) :
    Kept kp (epochRelease s) := by
  unfold epochRelease
  extract_lets +onlyGivenNames -merge -useContext x1; clear_value x1
  extract_lets +onlyGivenNames -merge -useContext x2; clear_value x2
  refine Kept.ite ?_ ?_
  · refine State.reach_kept ?_ ?_
    · assumption
    · intro x3 h4
      refine releaseEpoch_kept ?_
      assumption
  · assumption

theorem execEpochRelease_kept {kp : Keep} {s} (hs : Kept kp s) :
    KeptO kp (execEpochRelease s) := by
  unfold execEpochRelease
  refine KeptO.next ?_
  refine epochRelease_kept ?_
  assumption

theorem modelLoad_kept {kp : Keep} {c s} (hs : Kept kp s) :
    Kept kp (modelLoad c s) := by
  unfold modelLoad
  refine needBuffer_kept ?_ ?_
  · assumption
  · intro x1 h2
    refine Kept.ite ?_ ?_
    · refine failOp_kept ?_
      assumption
    · refine readWhole_kept ?_ ?_
      · assumption
      · intro x3 x4 h5
        extract_lets +onlyGivenNames -merge -useContext x6; clear_value x6
        extract_lets +onlyGivenNames -merge -useContext x7; clear_value x7
        extract_lets +onlyGivenNames -merge -useContext x8; clear_value x8
        extract_lets +onlyGivenNames -merge -useContext x9; clear_value x9
        extract_lets +onlyGivenNames -merge -useContext x10; clear_value x10
        refine Kept.ite ?_ ?_
        · refine lkoSchema_kept ?_
          assumption
        · refine Kept.ite ?_ ?_
          · refine failOp_kept ?_
            assumption
          · refine Kept.ite ?_ ?_
            · refine lkoSchema_kept ?_
              assumption
            · refine finishOp_kept ?_
              refine Kept.upd rfl rfl ?_
              assumption

theorem execModelLoad_kept {kp : Keep} {n s} (hs : Kept kp s) :
    KeptO kp (execModelLoad n s) := by
  unfold execModelLoad
  refine KeptO.next ?_
  refine takeOp_kept ?_ ?_
  · intro x1 x2 h3
    refine modelLoad_kept ?_
    assumption
  · assumption

theorem remoteArrival_kept {kp : Keep} {r a s} (hs : Kept kp s) :
    Kept kp (remoteArrival r a s) := by
  unfold remoteArrival
  extract_lets +onlyGivenNames -merge -useContext x1; clear_value x1
  extract_lets +onlyGivenNames -merge -useContext x2; clear_value x2
  refine Kept.ite ?_ ?_
  · assumption
  · extract_lets +onlyGivenNames -merge -useContext x3
    have hx3 : Kept kp x3 := by
      unfold x3
      refine State.advance_kept ?_
      assumption
    clear_value x3
    extract_lets +onlyGivenNames -merge -useContext x4; clear_value x4
    extract_lets +onlyGivenNames -merge -useContext x5; clear_value x5
    extract_lets +onlyGivenNames -merge -useContext x6
    have hx6 : Kept kp x6 := by
      unfold x6
      refine Kept.upd rfl rfl ?_
      assumption
    clear_value x6
    extract_lets +onlyGivenNames -merge -useContext x7
    have hx7 : ∀ y1 y2 y3, Kept kp y3 → Kept kp (x7 y1 y2 y3) := by
      unfold x7
      intro x8 x9 x10 h11
      extract_lets +onlyGivenNames -merge -useContext x12; clear_value x12
      extract_lets +onlyGivenNames -merge -useContext x13; clear_value x13
      refine State.setEpoch_kept ?_
      assumption
    clear_value x7
    refine Kept.ite ?_ ?_
    · refine Kept.ite ?_ ?_
      · apply hx7
        assumption
      · assumption
    · refine Kept.ite ?_ ?_
      · refine Kept.ite ?_ ?_
        · refine raiseAt_kept ?_
          refine remoteSample_kept ?_
          apply hx7
          refine Kept.upd rfl rfl ?_
          assumption
        · assumption
      · refine raiseAt_kept ?_
        refine remoteSample_kept ?_
        refine Kept.upd rfl rfl ?_
        assumption

theorem execRemoteEncodingArrival_kept {kp : Keep} {r at' s} (hs : Kept kp s) :
    KeptO kp (execRemoteEncodingArrival r at' s) := by
  unfold execRemoteEncodingArrival
  refine KeptO.next ?_
  refine remoteArrival_kept ?_
  assumption

theorem execSensorCfg_kept {kp : Keep} {n s} (hs : Kept kp s) :
    KeptO kp (execSensorCfg n s) := by
  unfold execSensorCfg
  refine KeptO.next ?_
  refine takeOp_kept ?_ ?_
  · intro x1 x2 h3
    refine sensorCfg_kept ?_
    assumption
  · assumption

theorem lidarPut_kept {kp : Keep} {c s} (hs : Kept kp s) :
    Kept kp (lidarPut c s) := by
  unfold lidarPut
  refine needBuffer_kept ?_ ?_
  · assumption
  · intro x1 h2
    refine Kept.ite ?_ ?_
    · refine failOp_kept ?_
      assumption
    · refine readWhole_kept ?_ ?_
      · assumption
      · intro x3 x4 h5
        extract_lets +onlyGivenNames -merge -useContext x6; clear_value x6
        extract_lets +onlyGivenNames -merge -useContext x7; clear_value x7
        extract_lets +onlyGivenNames -merge -useContext x8; clear_value x8
        refine Kept.ite ?_ ?_
        · refine failOp_kept ?_
          assumption
        · refine Kept.ite ?_ ?_
          · refine lkoSchema_kept ?_
            assumption
          · refine Kept.ite ?_ ?_
            · refine failOp_kept ?_
              assumption
            · extract_lets +onlyGivenNames -merge -useContext x9
              clear_value x9
              extract_lets +onlyGivenNames -merge -useContext x10; clear_value x10
              extract_lets +onlyGivenNames -merge -useContext x11; clear_value x11
              extract_lets +onlyGivenNames -merge -useContext x12
              have hx12 : Kept kp x12 := by
                unfold x12
                refine feedPair_kept ?_
                assumption
              clear_value x12
              split
              rename_i x13 x14 x15 h16
              have h17 : Kept kp x14 := by
                refine KeptF.of_eq h16 ?_
                refine KeptF.ite ?_ ?_
                · refine binBatch_kept ?_
                  assumption
                · refine KeptF.mk ?_
                  assumption
              extract_lets +onlyGivenNames -merge -useContext x18
              have hx18 : Kept kp x18 := by
                unfold x18
                refine Kept.ite ?_ ?_
                · refine feedEarly_kept ?_
                  assumption
                · assumption
              clear_value x18
              extract_lets +onlyGivenNames -merge -useContext x19
              have hx19 : Kept kp x19 := by
                unfold x19
                refine noteCarried_kept ?_
                refine dropLate_kept ?_
                assumption
              clear_value x19
              refine finishOp_kept ?_
              assumption

theorem replicaArrival_kept {kp : Keep} {r s} (hs : Kept kp s) :
    Kept kp (replicaArrival r s) := by
  unfold replicaArrival
  refine Kept.ite ?_ ?_
  · assumption
  · extract_lets +onlyGivenNames -merge -useContext x1
    clear_value x1
    extract_lets +onlyGivenNames -merge -useContext x2; clear_value x2
    extract_lets +onlyGivenNames -merge -useContext x3; clear_value x3
    extract_lets +onlyGivenNames -merge -useContext x4
    have hx4 : Kept kp x4 := by
      unfold x4
      refine Kept.upd rfl rfl ?_
      assumption
    clear_value x4
    extract_lets +onlyGivenNames -merge -useContext x5
    have hx5 : Kept kp x5 := by
      unfold x5
      refine Kept.foldl ?_ ?_
      · intro x6 x7 h8
        refine State.setLin_kept ?_
        assumption
      · assumption
    clear_value x5
    refine poolOut_kept ?_
    refine installTraj_kept ?_
    assumption

theorem lkoBegin_kept {kp : Keep} {t0 s} (hs : Kept kp s) :
    Kept kp (lkoBegin t0 s) := by
  unfold lkoBegin
  extract_lets +onlyGivenNames -merge -useContext x1; clear_value x1
  split
  rename_i x2 x3 x4 h5
  extract_lets +onlyGivenNames -merge -useContext x6; clear_value x6
  extract_lets +onlyGivenNames -merge -useContext x7
  have hx7 : Kept kp x7 := by
    unfold x7
    refine Kept.foldl ?_ ?_
    · intro x8 x9 h10
      refine Kept.ite ?_ ?_
      · assumption
      · refine State.setLin_kept ?_
        assumption
    · assumption
  clear_value x7
  extract_lets +onlyGivenNames -merge -useContext x11; clear_value x11
  extract_lets +onlyGivenNames -merge -useContext x12
  have hx12 : Kept kp x12 := by
    unfold x12
    refine Kept.upd rfl rfl ?_
    assumption
  clear_value x12
  refine setLkoState_kept ?_
  assumption

theorem execFeatBuf_kept {kp : Keep} {n s} (hs : Kept kp s) :
    KeptO kp (execFeatBuf n s) := by
  unfold execFeatBuf
  refine KeptO.next ?_
  refine takeOp_kept ?_ ?_
  · intro x1 x2 h3
    refine poolCheck_kept ?_
    assumption
  · assumption

theorem lkoTick_kept {kp : Keep} {b s} (hs : Kept kp s) :
    Kept kp (lkoTick b s) := by
  unfold lkoTick
  refine Kept.ite ?_ ?_
  · assumption
  · extract_lets +onlyGivenNames -merge -useContext x1
    have hx1 : Kept kp x1 := by
      unfold x1
      refine Kept.ite ?_ ?_
      · assumption
      · refine egoTick_kept ?_
        assumption
    clear_value x1
    refine colStart_kept ?_
    refine Kept.ite ?_ ?_
    · refine instantTick_kept ?_
      assumption
    · assumption

theorem lkoCtlWrite_kept {kp : Keep} {v s} (hs : Kept kp s) :
    Kept kp (lkoCtlWrite v s) := by
  unfold lkoCtlWrite
  extract_lets +onlyGivenNames -merge -useContext x1; clear_value x1
  extract_lets +onlyGivenNames -merge -useContext x2
  have hx2 : Kept kp x2 := by
    unfold x2
    refine Kept.upd rfl rfl ?_
    assumption
  clear_value x2
  refine Kept.ite ?_ ?_
  · assumption
  · refine lkoStopNow_kept ?_
    assumption

theorem execReleaseReplicaArrival_kept {kp : Keep} {r s} (hs : Kept kp s) :
    KeptO kp (execReleaseReplicaArrival r s) := by
  unfold execReleaseReplicaArrival
  refine KeptO.next ?_
  refine replicaArrival_kept ?_
  assumption

theorem slotWriteReg_kept {kp : Keep} {f s} (hs : Kept kp s) :
    Kept kp (slotWriteReg f s) := by
  unfold slotWriteReg
  refine Kept.ite ?_ ?_
  · refine lkoErr_kept ?_
    assumption
  · refine Kept.upd rfl rfl ?_
    assumption

theorem lkoWrite_kept {kp : Keep} {off v s} (hs : Kept kp s) :
    Kept kp (lkoWrite off v s) := by
  unfold lkoWrite
  refine Kept.ite ?_ ?_
  · refine lkoCtlWrite_kept ?_
    assumption
  · refine Kept.ite ?_ ?_
    · refine slotWriteReg_kept ?_
      assumption
    · refine Kept.ite ?_ ?_
      · refine slotWriteReg_kept ?_
        assumption
      · refine Kept.ite ?_ ?_
        · refine Kept.upd rfl rfl ?_
          assumption
        · assumption

theorem lkoRead_kept {kp : Keep} {a off s} (hs : Kept kp s) :
    KeptS kp (lkoRead a off s) := by
  unfold lkoRead
  extract_lets +onlyGivenNames -merge -useContext x1; clear_value x1
  extract_lets +onlyGivenNames -merge -useContext x2; clear_value x2
  extract_lets +onlyGivenNames -merge -useContext x3; clear_value x3
  refine KeptS.ite ?_ ?_
  · refine KeptS.mk ?_
    assumption
  · refine KeptS.ite ?_ ?_
    · refine KeptS.mk ?_
      assumption
    · refine KeptS.ite ?_ ?_
      · refine KeptS.mk ?_
        assumption
      · refine KeptS.ite ?_ ?_
        · refine KeptS.mk ?_
          assumption
        · refine KeptS.ite ?_ ?_
          · refine KeptS.mk ?_
            refine State.latch_kept ?_
            assumption
          · refine KeptS.ite ?_ ?_
            · refine shadowed_kept ?_
              assumption
            · refine KeptS.ite ?_ ?_
              · refine KeptS.mk ?_
                assumption
              · refine KeptS.ite ?_ ?_
                · refine KeptS.mk ?_
                  assumption
                · refine KeptS.ite ?_ ?_
                  · refine KeptS.mk ?_
                    assumption
                  · refine KeptS.ite ?_ ?_
                    · refine KeptS.mk ?_
                      refine Kept.upd rfl rfl ?_
                      assumption
                    · refine KeptS.ite ?_ ?_
                      · refine KeptS.mk ?_
                        refine Kept.upd rfl rfl ?_
                        assumption
                      · refine KeptS.ite ?_ ?_
                        · refine KeptS.mk ?_
                          refine Kept.upd rfl rfl ?_
                          assumption
                        · refine KeptS.ite ?_ ?_
                          · refine KeptS.mk ?_
                            assumption
                          · refine KeptS.ite ?_ ?_
                            · refine KeptS.mk ?_
                              assumption
                            · refine KeptS.ite ?_ ?_
                              · refine KeptS.mk ?_
                                assumption
                              · refine KeptS.ite ?_ ?_
                                · refine KeptS.mk ?_
                                  refine State.latch_kept ?_
                                  assumption
                                · refine KeptS.ite ?_ ?_
                                  · refine shadowed_kept ?_
                                    assumption
                                  · refine KeptS.ite ?_ ?_
                                    · refine KeptS.mk ?_
                                      assumption
                                    · refine KeptS.ite ?_ ?_
                                      · refine KeptS.mk ?_
                                        assumption
                                      · refine KeptS.ite ?_ ?_
                                        · refine KeptS.mk ?_
                                          refine Kept.upd rfl rfl ?_
                                          assumption
                                        · refine KeptS.ite ?_ ?_
                                          · refine KeptS.mk ?_
                                            assumption
                                          · refine KeptS.ite ?_ ?_
                                            · refine KeptS.mk ?_
                                              assumption
                                            · refine KeptS.ite ?_ ?_
                                              · refine KeptS.mk ?_
                                                refine State.latch_kept ?_
                                                assumption
                                              · refine KeptS.ite ?_ ?_
                                                · refine shadowed_kept ?_
                                                  assumption
                                                · refine KeptS.ite ?_ ?_
                                                  · refine KeptS.mk ?_
                                                    assumption
                                                  · refine KeptS.ite ?_ ?_
                                                    · refine KeptS.mk ?_
                                                      assumption
                                                    · refine KeptS.ite ?_ ?_
                                                      · extract_lets +onlyGivenNames -merge -useContext x4
                                                        clear_value x4
                                                        refine KeptS.mk ?_
                                                        assumption
                                                      · refine KeptS.mk ?_
                                                        assumption

theorem execOutBuf_kept {kp : Keep} {n s} (hs : Kept kp s) :
    KeptO kp (execOutBuf n s) := by
  unfold execOutBuf
  refine KeptO.next ?_
  refine takeOp_kept ?_ ?_
  · intro x1 x2 h3
    refine poolCheck_kept ?_
    assumption
  · assumption

theorem lkoReset_kept {kp : Keep} {s} (hs : Kept kp s) :
    Kept kp (lkoReset s) := by
  unfold lkoReset
  refine Kept.upd rfl rfl ?_
  assumption

theorem lkoStart_kept {kp : Keep} {c s} (hs : Kept kp s) :
    Kept kp (lkoStart c s) := by
  unfold lkoStart
  extract_lets +onlyGivenNames -merge -useContext x1; clear_value x1
  refine Kept.ite ?_ ?_
  · refine failOp_kept ?_
    assumption
  · refine Kept.ite ?_ ?_
    · refine failOp_kept ?_
      assumption
    · split
      · rename_i x2 x3 h4
        refine lkoSchema_kept ?_
        assumption
      · rename_i x5 h6
        extract_lets +onlyGivenNames -merge -useContext x7; clear_value x7
        refine finishOp_kept ?_
        refine lkoBegin_kept ?_
        assumption

theorem execLkoStart_kept {kp : Keep} {n s} (hs : Kept kp s) :
    KeptO kp (execLkoStart n s) := by
  unfold execLkoStart
  refine KeptO.next ?_
  refine takeOp_kept ?_ ?_
  · intro x1 x2 h3
    refine lkoStart_kept ?_
    assumption
  · assumption

theorem execLkoCtlWrite_kept {kp : Keep} {a v s} (hs : Kept kp s) :
    KeptO kp (execLkoCtlWrite a v s) := by
  unfold execLkoCtlWrite
  refine KeptO.next ?_
  refine gateWrite_kept ?_ ?_
  · assumption
  · intro x1 h2
    refine lkoCtlWrite_kept ?_
    assumption

theorem execLidarPut_kept {kp : Keep} {n s} (hs : Kept kp s) :
    KeptO kp (execLidarPut n s) := by
  unfold execLidarPut
  refine KeptO.next ?_
  refine takeOp_kept ?_ ?_
  · intro x1 x2 h3
    refine lidarPut_kept ?_
    assumption
  · assumption

theorem execModelDrop_kept {kp : Keep} {n s} (hs : Kept kp s) :
    KeptO kp (execModelDrop n s) := by
  unfold execModelDrop
  refine KeptO.next ?_
  refine takeOp_kept ?_ ?_
  · intro x1 x2 h3
    refine modelDrop_kept ?_
    assumption
  · assumption

theorem execEpochClose_kept {kp : Keep} {s} (hs : Kept kp s) :
    KeptO kp (execEpochClose s) := by
  unfold execEpochClose
  refine KeptO.next ?_
  refine epochClose_kept ?_
  assumption

theorem lkoToShadow_kept {kp : Keep} {th s} (hs : Kept kp s) :
    Kept kp (lkoToShadow th s) := by
  unfold lkoToShadow
  refine Kept.ite ?_ ?_
  · assumption
  · extract_lets +onlyGivenNames -merge -useContext x1
    clear_value x1
    extract_lets +onlyGivenNames -merge -useContext x2; clear_value x2
    extract_lets +onlyGivenNames -merge -useContext x3
    have hx3 : Kept kp x3 := by
      unfold x3
      refine setLkoState_kept ?_
      refine Kept.upd rfl rfl ?_
      assumption
    clear_value x3
    assumption

end Sys2Proof.Machine
end

