-- ==== Sys2Proof/Laws/KeptImage.lean ====
section
/-!
SUPPORT. What the operations of Sys2Proof/Machine/Image.lean keep (see Sys2Proof/Laws/Kept.lean).
-/

namespace Sys2Proof.Machine

theorem State.setIctx_kept {kp : Keep} {s c x} (hs : Kept kp s) :
    Kept kp (State.setIctx s c x) := by
  unfold State.setIctx
  refine Kept.upd rfl rfl ?_
  assumption

theorem State.setLink_kept {kp : Keep} {s k x} (hs : Kept kp s) :
    Kept kp (State.setLink s k x) := by
  unfold State.setLink
  refine Kept.upd rfl rfl ?_
  assumption

theorem State.setStream_kept {kp : Keep} {s i x} (hs : Kept kp s) :
    Kept kp (State.setStream s i x) := by
  unfold State.setStream
  refine Kept.upd rfl rfl ?_
  assumption

theorem idrOfContext_kept {kp : Keep} {c s} (hs : Kept kp s) :
    Kept kp (idrOfContext c s) := by
  unfold idrOfContext
  refine Kept.foldl ?_ ?_
  · intro x1 x2 h3
    extract_lets +onlyGivenNames -merge -useContext x4; clear_value x4
    refine Kept.ite ?_ ?_
    · refine State.setStream_kept ?_
      assumption
    · assumption
  · assumption

theorem setIplState_kept {kp : Keep} {c st s} (hs : Kept kp s) :
    Kept kp (setIplState c st s) := by
  unfold setIplState
  extract_lets +onlyGivenNames -merge -useContext x1; clear_value x1
  refine Kept.ite ?_ ?_
  · assumption
  · extract_lets +onlyGivenNames -merge -useContext x2
    have hx2 : Kept kp x2 := by
      unfold x2
      refine Kept.ite ?_ ?_
      · refine idrOfContext_kept ?_
        assumption
      · assumption
    clear_value x2
    refine raise_kept ?_
    refine State.setIctx_kept ?_
    assumption

theorem acceptFrame_kept {kp : Keep} {c g trig s} (hs : Kept kp s) :
    Kept kp (acceptFrame c g trig s) := by
  unfold acceptFrame
  extract_lets +onlyGivenNames -merge -useContext x1; clear_value x1
  extract_lets +onlyGivenNames -merge -useContext x2; clear_value x2
  split
  rename_i x3 x4 x5 h6
  extract_lets +onlyGivenNames -merge -useContext x7; clear_value x7
  extract_lets +onlyGivenNames -merge -useContext x8; clear_value x8
  extract_lets +onlyGivenNames -merge -useContext x9
  have hx9 : Kept kp x9 := by
    unfold x9
    refine State.setIctx_kept ?_
    assumption
  clear_value x9
  extract_lets +onlyGivenNames -merge -useContext x10
  have hx10 : Kept kp x10 := by
    unfold x10
    split
    · rename_i x11 x12
      refine raiseAt_kept ?_
      assumption
    · rename_i x13
      assumption
  clear_value x10
  refine setIplState_kept ?_
  assumption

theorem writeHistory_kept {kp : Keep} {c f s} (hs : Kept kp s) :
    Kept kp (writeHistory c f s) := by
  unfold writeHistory
  extract_lets +onlyGivenNames -merge -useContext x1; clear_value x1
  refine Kept.ite ?_ ?_
  · assumption
  · extract_lets +onlyGivenNames -merge -useContext x2
    have hx2 : Kept kp x2 := by
      unfold x2
      refine Kept.foldl ?_ ?_
      · intro x3 x4 h5
        refine KeptF.out ?_
        refine writeEngine_kept ?_
        assumption
      · assumption
    clear_value x2
    refine State.setIctx_kept ?_
    assumption

theorem linkCount_kept {kp : Keep} {k discarded s} (hs : Kept kp s) :
    Kept kp (linkCount k discarded s) := by
  unfold linkCount
  refine Kept.ite ?_ ?_
  · assumption
  · extract_lets +onlyGivenNames -merge -useContext x1
    clear_value x1
    refine State.setLink_kept ?_
    assumption

theorem packet_kept {kp : Keep} {k vc f s} (hf : ∀ y1 y2, Kept kp y2 → Kept kp (f y1 y2)) (hs : Kept kp s) :
    Kept kp (packet k vc f s) := by
  unfold packet
  refine Kept.ite ?_ ?_
  · refine linkCount_kept ?_
    assumption
  · refine Kept.foldl ?_ ?_
    · intro x1 x2 h3
      apply hf
      assumption
    · assumption

theorem takeBuffer_kept {kp : Keep} {q opc size c num z5 z6} (hz6 : Kept kp z6) :
    KeptF kp (takeBuffer q opc size c num z5 z6) := by
  induction z5 generalizing z6 with
  | zero => exact KeptF.mk hz6
  | succ fuel ih =>
    unfold takeBuffer
    split
    · exact KeptF.mk hz6
    · split
      · exact ih (failOp_kept hz6)
      · exact KeptF.mk (State.setOp_kept hz6)

theorem takeOutputs_kept {kp : Keep} {c f s} (hs : Kept kp s) :
    Kept kp (takeOutputs c f s) := by
  unfold takeOutputs
  extract_lets +onlyGivenNames -merge -useContext x1; clear_value x1
  extract_lets +onlyGivenNames -merge -useContext x2
  have hx2 : Kept kp x2 := by
    unfold x2
    refine Kept.ite ?_ ?_
    · split
      rename_i x3 x4 x5 h6
      have h7 : Kept kp x4 := by
        refine KeptF.of_eq h6 ?_
        refine takeBuffer_kept ?_
        assumption
      refine Kept.ite ?_ ?_
      · assumption
      · refine raise_kept ?_
        refine Kept.upd rfl rfl ?_
        assumption
    · assumption
  clear_value x2
  refine Kept.ite ?_ ?_
  · split
    rename_i x8 x9 x10 h11
    have h12 : Kept kp x9 := by
      refine KeptF.of_eq h11 ?_
      refine takeBuffer_kept ?_
      assumption
    refine Kept.ite ?_ ?_
    · assumption
    · refine raise_kept ?_
      refine Kept.upd rfl rfl ?_
      assumption
  · assumption

theorem dueStreams_kept {kp : Keep} {c f s} (hs : Kept kp s) :
    Kept kp (dueStreams c f s) := by
  unfold dueStreams
  refine Kept.ite ?_ ?_
  · assumption
  · refine Kept.foldl ?_ ?_
    · intro x1 x2 h3
      extract_lets +onlyGivenNames -merge -useContext x4; clear_value x4
      extract_lets +onlyGivenNames -merge -useContext x5; clear_value x5
      refine Kept.ite ?_ ?_
      · refine State.setStream_kept ?_
        assumption
      · assumption
    · assumption

theorem tnrHistory_kept {kp : Keep} {c f s} (hs : Kept kp s) :
    KeptF kp (tnrHistory c f s) := by
  unfold tnrHistory
  extract_lets +onlyGivenNames -merge -useContext x1; clear_value x1
  refine KeptF.ite ?_ ?_
  · refine KeptF.mk ?_
    assumption
  · extract_lets +onlyGivenNames -merge -useContext x2
    clear_value x2
    refine KeptF.ite ?_ ?_
    · refine KeptF.mk ?_
      assumption
    · split
      rename_i x3 x4 x5 h6
      have h7 : Kept kp x4 := by
        refine KeptF.of_eq h6 ?_
        refine readEngine_kept ?_
        assumption
      refine KeptF.mk ?_
      assumption

theorem beginFrame_kept {kp : Keep} {c f s} (hs : Kept kp s) :
    Kept kp (beginFrame c f s) := by
  unfold beginFrame
  extract_lets +onlyGivenNames -merge -useContext x1
  have hx1 : Kept kp x1 := by
    unfold x1
    refine dueStreams_kept ?_
    refine takeOutputs_kept ?_
    assumption
  clear_value x1
  extract_lets +onlyGivenNames -merge -useContext x2; clear_value x2
  split
  rename_i x3 x4 x5 h6
  have h7 : Kept kp x4 := by
    refine KeptF.of_eq h6 ?_
    refine tnrHistory_kept ?_
    assumption
  extract_lets +onlyGivenNames -merge -useContext x8; clear_value x8
  extract_lets +onlyGivenNames -merge -useContext x9; clear_value x9
  extract_lets +onlyGivenNames -merge -useContext x10
  have hx10 : Kept kp x10 := by
    unfold x10
    refine State.setIctx_kept ?_
    assumption
  clear_value x10
  split
  rename_i x11 x12 x13 h14
  have h15 : Kept kp x12 := by
    refine KeptF.of_eq h14 ?_
    refine KeptF.ite ?_ ?_
    · refine takeSlot_kept ?_
      assumption
    · refine KeptF.mk ?_
      assumption
  refine State.setIctx_kept ?_
  assumption

theorem iplErr_kept {kp : Keep} {opc reason ctx word s} (hs : Kept kp s) :
    Kept kp (iplErr opc reason ctx word s) := by
  unfold iplErr
  refine Kept.upd rfl rfl ?_
  assumption

theorem settleUnits_kept {kp : Keep} {c g f s} (hs : Kept kp s) :
    Kept kp (settleUnits c g f s) := by
  unfold settleUnits
  split
  rename_i x1 x2 x3 h4
  extract_lets +onlyGivenNames -merge -useContext x5; clear_value x5
  extract_lets +onlyGivenNames -merge -useContext x6
  have hx6 : Kept kp x6 := by
    unfold x6
    refine Kept.upd rfl rfl ?_
    assumption
  clear_value x6
  refine State.setIctx_kept ?_
  assumption

theorem overflow_kept {kp : Keep} {c f s} (hs : Kept kp s) :
    Kept kp (overflow c f s) := by
  unfold overflow
  extract_lets +onlyGivenNames -merge -useContext x1; clear_value x1
  extract_lets +onlyGivenNames -merge -useContext x2
  have hx2 : Kept kp x2 := by
    unfold x2
    refine Kept.upd rfl rfl ?_
    assumption
  clear_value x2
  refine settleUnits_kept ?_
  refine State.setIctx_kept ?_
  assumption

theorem visionDrop_kept {kp : Keep} {c f s} (hs : Kept kp s) :
    Kept kp (visionDrop c f s) := by
  unfold visionDrop
  refine raise_kept ?_
  refine Kept.upd rfl rfl ?_
  assumption

theorem endFrame_kept {kp : Keep} {c g flags s} (hs : Kept kp s) :
    Kept kp (endFrame c g flags s) := by
  unfold endFrame
  split
  · rename_i x1 h2
    assumption
  · rename_i x3 x4 h5
    refine settleUnits_kept ?_
    assumption

theorem sourceLost_kept {kp : Keep} {k s} (hs : Kept kp s) :
    Kept kp (sourceLost k s) := by
  unfold sourceLost
  refine Kept.foldl ?_ ?_
  · intro x1 x2 h3
    extract_lets +onlyGivenNames -merge -useContext x4; clear_value x4
    refine Kept.ite ?_ ?_
    · extract_lets +onlyGivenNames -merge -useContext x5
      have hx5 : Kept kp x5 := by
        unfold x5
        refine endFrame_kept ?_
        assumption
      clear_value x5
      refine setIplState_kept ?_
      refine State.setIctx_kept ?_
      assumption
    · assumption
  · assumption

theorem sourceBack_kept {kp : Keep} {k s} (hs : Kept kp s) :
    Kept kp (sourceBack k s) := by
  unfold sourceBack
  refine Kept.foldl ?_ ?_
  · intro x1 x2 h3
    extract_lets +onlyGivenNames -merge -useContext x4; clear_value x4
    refine Kept.ite ?_ ?_
    · refine setIplState_kept ?_
      refine State.setIctx_kept ?_
      assumption
    · assumption
  · assumption

theorem pcamSync_kept {kp : Keep} {lost s} (hs : Kept kp s) :
    Kept kp (pcamSync lost s) := by
  unfold pcamSync
  extract_lets +onlyGivenNames -merge -useContext x1; clear_value x1
  refine Kept.ite ?_ ?_
  · split
    · rename_i x2 h3
      assumption
    · rename_i x4 x5 h6
      refine sourceLost_kept ?_
      refine raiseAt_kept ?_
      assumption
  · refine Kept.ite ?_ ?_
    · refine Kept.ite ?_ ?_
      · refine sourceBack_kept ?_
        refine raise_kept ?_
        assumption
      · assumption
    · assumption

theorem finishStops_kept {kp : Keep} {s} (hs : Kept kp s) :
    Kept kp (finishStops s) := by
  unfold finishStops
  split
  · rename_i x1 h2
    assumption
  · rename_i x3 x4 h5
    extract_lets +onlyGivenNames -merge -useContext x6; clear_value x6
    refine Kept.ite ?_ ?_
    · assumption
    · refine finishOp_kept ?_
      assumption

theorem settleRate_kept {kp : Keep} {c s} (hs : Kept kp s) :
    Kept kp (settleRate c s) := by
  unfold settleRate
  extract_lets +onlyGivenNames -merge -useContext x1; clear_value x1
  split
  · rename_i x2 x3 x4 h5
    refine Kept.ite ?_ ?_
    · refine State.setIctx_kept ?_
      assumption
    · assumption
  · rename_i x6 h7
    assumption

theorem putOutput_kept {kp : Keep} {q opc c f bs s} (hs : Kept kp s) :
    Kept kp (putOutput q opc c f bs s) := by
  unfold putOutput
  split
  · rename_i x1 h2
    assumption
  · rename_i x3 x4 h5
    refine writeOut_kept ?_
    assumption

theorem closeStreams_kept {kp : Keep} {c f s} (hs : Kept kp s) :
    Kept kp (closeStreams c f s) := by
  unfold closeStreams
  extract_lets +onlyGivenNames -merge -useContext x1; clear_value x1
  refine Kept.foldl ?_ ?_
  · intro x2 x3 h4
    extract_lets +onlyGivenNames -merge -useContext x5; clear_value x5
    extract_lets +onlyGivenNames -merge -useContext x6; clear_value x6
    extract_lets +onlyGivenNames -merge -useContext x7; clear_value x7
    refine State.setStream_kept ?_
    assumption
  · assumption

theorem closeArrival_kept {kp : Keep} {c s} (hs : Kept kp s) :
    Kept kp (closeArrival c s) := by
  unfold closeArrival
  extract_lets +onlyGivenNames -merge -useContext x1; clear_value x1
  extract_lets +onlyGivenNames -merge -useContext x2
  have hx2 : Kept kp x2 := by
    unfold x2
    refine Kept.ite ?_ ?_
    · refine State.setIctx_kept ?_
      assumption
    · assumption
  clear_value x2
  split
  · rename_i x3 h4
    assumption
  · rename_i x5 x6 h7
    refine endFrame_kept ?_
    assumption

theorem linkCfgWrite_kept {kp : Keep} {k v s} (hs : Kept kp s) :
    Kept kp (linkCfgWrite k v s) := by
  unfold linkCfgWrite
  extract_lets +onlyGivenNames -merge -useContext x1; clear_value x1
  refine Kept.ite ?_ ?_
  · refine iplErr_kept ?_
    assumption
  · extract_lets +onlyGivenNames -merge -useContext x2
    clear_value x2
    refine State.setLink_kept ?_
    assumption

theorem iplStopped_kept {kp : Keep} {c s} (hs : Kept kp s) :
    Kept kp (iplStopped c s) := by
  unfold iplStopped
  extract_lets +onlyGivenNames -merge -useContext x1; clear_value x1
  refine Kept.ite ?_ ?_
  · refine setIplState_kept ?_
    refine State.setIctx_kept ?_
    assumption
  · assumption

theorem linkEvent_kept {kp : Keep} {k code s} (hs : Kept kp s) :
    Kept kp (linkEvent k code s) := by
  unfold linkEvent
  refine raise_kept ?_
  assumption

theorem closeVision_kept {kp : Keep} {c f s} (hs : Kept kp s) :
    Kept kp (closeVision c f s) := by
  unfold closeVision
  extract_lets +onlyGivenNames -merge -useContext x1; clear_value x1
  split
  · rename_i x2 h3
    refine Kept.ite ?_ ?_
    · refine visionDrop_kept ?_
      assumption
    · assumption
  · rename_i x4 x5 h6
    refine Kept.ite ?_ ?_
    · refine freeSlot_kept ?_
      assumption
    · refine Kept.ite ?_ ?_
      · refine visionDrop_kept ?_
        refine freeSlot_kept ?_
        assumption
      · extract_lets +onlyGivenNames -merge -useContext x7
        clear_value x7
        split
        rename_i x8 x9 x10 h11
        have h12 : Kept kp x9 := by
          refine KeptF.of_eq h11 ?_
          refine writeEngine_kept ?_
          assumption
        refine Kept.ite ?_ ?_
        · refine visionDrop_kept ?_
          refine freeSlot_kept ?_
          assumption
        · refine commitFrame_kept ?_
          refine State.setIctx_kept ?_
          assumption

theorem linkUp_kept {kp : Keep} {k latency s} (hs : Kept kp s) :
    Kept kp (linkUp k latency s) := by
  unfold linkUp
  extract_lets +onlyGivenNames -merge -useContext x1; clear_value x1
  refine Kept.ite ?_ ?_
  · assumption
  · refine sourceBack_kept ?_
    refine linkEvent_kept ?_
    refine State.setLink_kept ?_
    assumption

theorem linkDown_kept {kp : Keep} {k s} (hs : Kept kp s) :
    Kept kp (linkDown k s) := by
  unfold linkDown
  extract_lets +onlyGivenNames -merge -useContext x1; clear_value x1
  refine Kept.ite ?_ ?_
  · assumption
  · refine sourceLost_kept ?_
    refine linkEvent_kept ?_
    refine State.setLink_kept ?_
    assumption

theorem camPowerLimit_kept {kp : Keep} {k s} (hs : Kept kp s) :
    Kept kp (camPowerLimit k s) := by
  unfold camPowerLimit
  extract_lets +onlyGivenNames -merge -useContext x1; clear_value x1
  refine Kept.ite ?_ ?_
  · assumption
  · refine linkDown_kept ?_
    refine State.setLink_kept ?_
    assumption

theorem retire_kept {kp : Keep} {g s} (hs : Kept kp s) :
    Kept kp (retire g s) := by
  unfold retire
  split
  · rename_i x1 h2
    assumption
  · rename_i x3 x4 h5
    refine Kept.ite ?_ ?_
    · assumption
    · extract_lets +onlyGivenNames -merge -useContext x6
      clear_value x6
      extract_lets +onlyGivenNames -merge -useContext x7; clear_value x7
      extract_lets +onlyGivenNames -merge -useContext x8
      have hx8 : Kept kp x8 := by
        unfold x8
        refine State.setIctx_kept ?_
        assumption
      clear_value x8
      refine Kept.upd rfl rfl ?_
      assumption

theorem closeFrame_kept {kp : Keep} {c f s} (hs : Kept kp s) :
    Kept kp (closeFrame c f s) := by
  unfold closeFrame
  extract_lets +onlyGivenNames -merge -useContext x1; clear_value x1
  extract_lets +onlyGivenNames -merge -useContext x2; clear_value x2
  extract_lets +onlyGivenNames -merge -useContext x3
  have hx3 : Kept kp x3 := by
    unfold x3
    refine Kept.ite ?_ ?_
    · refine putOutput_kept ?_
      assumption
    · assumption
  clear_value x3
  extract_lets +onlyGivenNames -merge -useContext x4
  have hx4 : Kept kp x4 := by
    unfold x4
    refine Kept.ite ?_ ?_
    · refine putOutput_kept ?_
      assumption
    · assumption
  clear_value x4
  extract_lets +onlyGivenNames -merge -useContext x5
  have hx5 : Kept kp x5 := by
    unfold x5
    refine writeHistory_kept ?_
    refine closeStreams_kept ?_
    assumption
  clear_value x5
  extract_lets +onlyGivenNames -merge -useContext x6
  have hx6 : Kept kp x6 := by
    unfold x6
    refine closeVision_kept ?_
    assumption
  clear_value x6
  extract_lets +onlyGivenNames -merge -useContext x7
  have hx7 : Kept kp x7 := by
    unfold x7
    refine Kept.ite ?_ ?_
    · refine raise_kept ?_
      assumption
    · assumption
  clear_value x7
  extract_lets +onlyGivenNames -merge -useContext x8; clear_value x8
  refine finishStops_kept ?_
  refine iplStopped_kept ?_
  refine State.setIctx_kept ?_
  assumption

theorem frameClose_kept {kp : Keep} {c s} (hs : Kept kp s) :
    Kept kp (frameClose c s) := by
  unfold frameClose
  split
  · rename_i x1 h2
    assumption
  · rename_i x3 x4 x5 h6
    split
    · rename_i x7 h8
      assumption
    · rename_i x9 x10 h11
      refine State.reach_kept ?_ ?_
      · assumption
      · intro x12 h13
        extract_lets +onlyGivenNames -merge -useContext x14
        have hx14 : Kept kp x14 := by
          unfold x14
          refine retire_kept ?_
          assumption
        clear_value x14
        split
        · rename_i x15 h16
          assumption
        · rename_i x17 x18 x19 h20
          refine closeFrame_kept ?_
          assumption

theorem readLine_kept {kp : Keep} {c num slot y s} (hs : Kept kp s) :
    KeptF kp (readLine c num slot y s) := by
  unfold readLine
  extract_lets +onlyGivenNames -merge -useContext x1; clear_value x1
  split
  rename_i x2 x3 x4 h5
  have h6 : Kept kp x3 := by
    refine KeptF.of_eq h5 ?_
    refine readEngine_kept ?_
    assumption
  refine KeptF.mk ?_
  assumption

theorem readLines_kept {kp : Keep} {c z1 z2 z3 z4} (hz4 : Kept kp z4) :
    Kept kp (readLines c z1 z2 z3 z4) := by
  induction z1 generalizing z2 z3 z4 with
  | zero => exact State.setIctx_kept hz4
  | succ n ih =>
    unfold readLines
    dsimp only
    exact ih (readLine_kept hz4).out

theorem storeLine_kept {kp : Keep} {c l f s} (hs : Kept kp s) :
    Kept kp (storeLine c l f s) := by
  unfold storeLine
  extract_lets +onlyGivenNames -merge -useContext x1; clear_value x1
  extract_lets +onlyGivenNames -merge -useContext x2; clear_value x2
  extract_lets +onlyGivenNames -merge -useContext x3; clear_value x3
  extract_lets +onlyGivenNames -merge -useContext x4; clear_value x4
  refine Kept.ite ?_ ?_
  · refine overflow_kept ?_
    assumption
  · extract_lets +onlyGivenNames -merge -useContext x5
    clear_value x5
    split
    rename_i x6 x7 x8 h9
    have h10 : Kept kp x7 := by
      refine KeptF.of_eq h9 ?_
      refine writeEngine_kept ?_
      assumption
    refine Kept.ite ?_ ?_
    · refine overflow_kept ?_
      assumption
    · extract_lets +onlyGivenNames -merge -useContext x11
      clear_value x11
      extract_lets +onlyGivenNames -merge -useContext x12
      have hx12 : Kept kp x12 := by
        unfold x12
        refine State.setIctx_kept ?_
        assumption
      clear_value x12
      refine settleUnits_kept ?_
      assumption

theorem takeLine_kept {kp : Keep} {l c s} (hs : Kept kp s) :
    Kept kp (takeLine l c s) := by
  unfold takeLine
  extract_lets +onlyGivenNames -merge -useContext x1; clear_value x1
  refine Kept.ite ?_ ?_
  · assumption
  · split
    · rename_i x2 h3
      assumption
    · rename_i x4 x5 h6
      refine Kept.ite ?_ ?_
      · refine State.setIctx_kept ?_
        assumption
      · refine Kept.ite ?_ ?_
        · refine State.setIctx_kept ?_
          assumption
        · refine storeLine_kept ?_
          assumption

theorem linkRetry_kept {kp : Keep} {k s} (hs : Kept kp s) :
    Kept kp (linkRetry k s) := by
  unfold linkRetry
  extract_lets +onlyGivenNames -merge -useContext x1; clear_value x1
  refine Kept.ite ?_ ?_
  · refine State.setLink_kept ?_
    assumption
  · assumption

theorem dropFrame_kept {kp : Keep} {c code s} (hs : Kept kp s) :
    Kept kp (dropFrame c code s) := by
  unfold dropFrame
  refine raise_kept ?_
  refine State.setIctx_kept ?_
  assumption

theorem startFrame_kept {kp : Keep} {c s} (hs : Kept kp s) :
    Kept kp (startFrame c s) := by
  unfold startFrame
  extract_lets +onlyGivenNames -merge -useContext x1
  have hx1 : Kept kp x1 := by
    unfold x1
    refine endFrame_kept ?_
    refine settleRate_kept ?_
    assumption
  clear_value x1
  extract_lets +onlyGivenNames -merge -useContext x2; clear_value x2
  extract_lets +onlyGivenNames -merge -useContext x3
  have hx3 : Kept kp x3 := by
    unfold x3
    refine State.setIctx_kept ?_
    assumption
  clear_value x3
  extract_lets +onlyGivenNames -merge -useContext x4; clear_value x4
  refine Kept.ite ?_ ?_
  · assumption
  · refine Kept.ite ?_ ?_
    · extract_lets +onlyGivenNames -merge -useContext x5
      clear_value x5
      refine Kept.ite ?_ ?_
      · refine dropFrame_kept ?_
        assumption
      · refine acceptFrame_kept ?_
        assumption
    · split
      · rename_i x6 h7
        refine dropFrame_kept ?_
        assumption
      · rename_i x8 x9 h10
        refine Kept.ite ?_ ?_
        · refine acceptFrame_kept ?_
          assumption
        · refine dropFrame_kept ?_
          assumption

theorem sendTrigger_kept {kp : Keep} {x t s} (hs : Kept kp s) :
    Kept kp (sendTrigger x t s) := by
  unfold sendTrigger
  refine Kept.ite ?_ ?_
  · refine Kept.upd rfl rfl ?_
    assumption
  · extract_lets +onlyGivenNames -merge -useContext x1
    clear_value x1
    refine State.setLink_kept ?_
    assumption

theorem cameraTrigger_kept {kp : Keep} {c s} (hs : Kept kp s) :
    Kept kp (cameraTrigger c s) := by
  unfold cameraTrigger
  extract_lets +onlyGivenNames -merge -useContext x1
  have hx1 : Kept kp x1 := by
    unfold x1
    refine settleRate_kept ?_
    assumption
  clear_value x1
  extract_lets +onlyGivenNames -merge -useContext x2; clear_value x2
  extract_lets +onlyGivenNames -merge -useContext x3; clear_value x3
  refine Kept.ite ?_ ?_
  · assumption
  · extract_lets +onlyGivenNames -merge -useContext x4
    have hx4 : Kept kp x4 := by
      unfold x4
      split
      · rename_i x5 x6 h7
        refine raiseAt_kept ?_
        assumption
      · rename_i x8 h9
        assumption
    clear_value x4
    refine sendTrigger_kept ?_
    refine State.setIctx_kept ?_
    assumption

theorem camPowerRetry_kept {kp : Keep} {k s} (hs : Kept kp s) :
    Kept kp (camPowerRetry k s) := by
  unfold camPowerRetry
  extract_lets +onlyGivenNames -merge -useContext x1; clear_value x1
  split
  · rename_i x2 h3
    assumption
  · rename_i x4 x5 h6
    refine State.reach_kept ?_ ?_
    · assumption
    · intro x7 h8
      refine State.setLink_kept ?_
      assumption

theorem frameEnd_kept {kp : Keep} {k vc s} (hs : Kept kp s) :
    Kept kp (frameEnd k vc s) := by
  unfold frameEnd
  refine packet_kept ?_ ?_
  · intro x1 x2 h3
    refine closeArrival_kept ?_
    assumption
  · assumption

theorem startUnit_kept {kp : Keep} {u g s} (hs : Kept kp s) :
    Kept kp (startUnit u g s) := by
  unfold startUnit
  extract_lets +onlyGivenNames -merge -useContext x1
  have hx1 : Kept kp x1 := by
    unfold x1
    refine retire_kept ?_
    assumption
  clear_value x1
  extract_lets +onlyGivenNames -merge -useContext x2; clear_value x2
  extract_lets +onlyGivenNames -merge -useContext x3; clear_value x3
  extract_lets +onlyGivenNames -merge -useContext x4; clear_value x4
  extract_lets +onlyGivenNames -merge -useContext x5
  have hx5 : Kept kp x5 := by
    unfold x5
    refine Kept.upd rfl rfl ?_
    assumption
  clear_value x5
  split
  · rename_i x6 h7
    assumption
  · rename_i x8 x9 h10
    extract_lets +onlyGivenNames -merge -useContext x11
    have hx11 : Kept kp x11 := by
      unfold x11
      refine Kept.ite ?_ ?_
      · assumption
      · refine beginFrame_kept ?_
        assumption
    clear_value x11
    split
    · rename_i x12 h13
      assumption
    · rename_i x14 x15 h16
      refine readLines_kept ?_
      assumption

theorem unitStart_kept {kp : Keep} {s} (hs : Kept kp s) :
    Kept kp (unitStart s) := by
  unfold unitStart
  split
  · rename_i x1 h2
    assumption
  · rename_i x3 x4 x5 h6
    extract_lets +onlyGivenNames -merge -useContext x7; clear_value x7
    extract_lets +onlyGivenNames -merge -useContext x8; clear_value x8
    refine State.reach_kept ?_ ?_
    · assumption
    · intro x9 h10
      refine startUnit_kept ?_
      assumption

theorem iplStopEffect_kept {kp : Keep} {s} (hs : Kept kp s) :
    Kept kp (iplStopEffect s) := by
  unfold iplStopEffect
  refine finishStops_kept ?_
  refine Kept.foldl ?_ ?_
  · intro x1 x2 h3
    refine iplStopped_kept ?_
    assumption
  · assumption

theorem frameStart_kept {kp : Keep} {k vc g s} (hs : Kept kp s) :
    Kept kp (frameStart k vc g s) := by
  unfold frameStart
  refine packet_kept ?_ ?_
  · intro x1 x2 h3
    refine startFrame_kept ?_
    assumption
  · refine State.advance_kept ?_
    assumption

theorem lineArrival_kept {kp : Keep} {k vc l s} (hs : Kept kp s) :
    Kept kp (lineArrival k vc l s) := by
  unfold lineArrival
  extract_lets +onlyGivenNames -merge -useContext x1
  have hx1 : Kept kp x1 := by
    unfold x1
    refine retire_kept ?_
    assumption
  clear_value x1
  refine Kept.ite ?_ ?_
  · refine linkCount_kept ?_
    assumption
  · refine packet_kept ?_ ?_
    · intro x2 x3 h4
      refine takeLine_kept ?_
      assumption
    · refine Kept.ite ?_ ?_
      · refine linkCount_kept ?_
        assumption
      · assumption

end Sys2Proof.Machine
end

