-- ==== Sys2Proof/Laws/KeptImageOps.lean ====
section
/-!
SUPPORT. What the operations of Sys2Proof/Machine/ImageOps.lean keep (see Sys2Proof/Laws/Kept.lean).
-/

namespace Sys2Proof.Machine

theorem iplReset_kept {kp : Keep} {s} (hs : Kept kp s) :
    Kept kp (iplReset s) := by
  unfold iplReset
  extract_lets +onlyGivenNames -merge -useContext x1
  have hx1 : Kept kp x1 := by
    unfold x1
    refine Kept.foldl ?_ ?_
    · intro x2 x3 h4
      refine setIplState_kept ?_
      assumption
    · assumption
  clear_value x1
  extract_lets +onlyGivenNames -merge -useContext x5
  have hx5 : Kept kp x5 := by
    unfold x5
    refine Kept.foldl ?_ ?_
    · intro x6 x7 h8
      refine Kept.foldl ?_ ?_
      · intro x9 x10 h11
        split
        · rename_i x12 x13 h14
          refine freeSlot_kept ?_
          assumption
        · rename_i x15 h16
          assumption
      · assumption
    · assumption
  clear_value x5
  refine Kept.upd rfl rfl ?_
  assumption

theorem execCodeBuf_kept {kp : Keep} {n s} (hs : Kept kp s) :
    KeptO kp (execCodeBuf n s) := by
  unfold execCodeBuf
  refine KeptO.next ?_
  refine takeOp_kept ?_ ?_
  · intro x1 x2 h3
    refine poolCheck_kept ?_
    assumption
  · assumption

theorem whileOn_kept {kp : Keep} {d s k} (hs : Kept kp s) (hk : ∀ y1, Kept kp y1 → Kept kp (k y1)) :
    KeptO kp (whileOn d s k) := by
  unfold whileOn
  refine KeptO.next ?_
  refine Kept.ite ?_ ?_
  · apply hk
    assumption
  · assumption

theorem execLineArrival_kept {kp : Keep} {k vc l s} (hs : Kept kp s) :
    KeptO kp (execLineArrival k vc l s) := by
  unfold execLineArrival
  refine whileOn_kept ?_ ?_
  · assumption
  · intro x1 h2
    refine lineArrival_kept ?_
    assumption

theorem iplSchema_kept {kp : Keep} {c xfer reason ctx word s} (hs : Kept kp s) :
    Kept kp (iplSchema c xfer reason ctx word s) := by
  unfold iplSchema
  refine failOp_kept ?_
  refine iplErr_kept ?_
  assumption

theorem tuneLoad_kept {kp : Keep} {c s} (hs : Kept kp s) :
    Kept kp (tuneLoad c s) := by
  unfold tuneLoad
  refine needBuffer_kept ?_ ?_
  · assumption
  · intro x1 h2
    extract_lets +onlyGivenNames -merge -useContext x3; clear_value x3
    extract_lets +onlyGivenNames -merge -useContext x4; clear_value x4
    refine Kept.ite ?_ ?_
    · refine failOp_kept ?_
      assumption
    · refine Kept.ite ?_ ?_
      · refine iplSchema_kept ?_
        assumption
      · refine readWhole_kept ?_ ?_
        · assumption
        · intro x5 x6 h7
          extract_lets +onlyGivenNames -merge -useContext x8; clear_value x8
          refine Kept.ite ?_ ?_
          · refine iplSchema_kept ?_
            assumption
          · extract_lets +onlyGivenNames -merge -useContext x9
            clear_value x9
            extract_lets +onlyGivenNames -merge -useContext x10; clear_value x10
            extract_lets +onlyGivenNames -merge -useContext x11; clear_value x11
            refine finishOp_kept ?_
            refine State.setIctx_kept ?_
            assumption

theorem execTuneLoad_kept {kp : Keep} {n s} (hs : Kept kp s) :
    KeptO kp (execTuneLoad n s) := by
  unfold execTuneLoad
  refine KeptO.next ?_
  refine takeOp_kept ?_ ?_
  · intro x1 x2 h3
    refine tuneLoad_kept ?_
    assumption
  · assumption

theorem execCameraTrigger_kept {kp : Keep} {c s} (hs : Kept kp s) :
    KeptO kp (execCameraTrigger c s) := by
  unfold execCameraTrigger
  refine whileOn_kept ?_ ?_
  · assumption
  · intro x1 h2
    refine cameraTrigger_kept ?_
    assumption

theorem execFrameEnd_kept {kp : Keep} {k vc s} (hs : Kept kp s) :
    KeptO kp (execFrameEnd k vc s) := by
  unfold execFrameEnd
  refine whileOn_kept ?_ ?_
  · assumption
  · intro x1 h2
    refine frameEnd_kept ?_
    assumption

theorem encCfg_kept {kp : Keep} {c s} (hs : Kept kp s) :
    Kept kp (encCfg c s) := by
  unfold encCfg
  extract_lets +onlyGivenNames -merge -useContext x1; clear_value x1
  extract_lets +onlyGivenNames -merge -useContext x2; clear_value x2
  extract_lets +onlyGivenNames -merge -useContext x3; clear_value x3
  extract_lets +onlyGivenNames -merge -useContext x4; clear_value x4
  split
  · rename_i x5 x6 x7 h8
    refine iplSchema_kept ?_
    assumption
  · rename_i x9 h10
    refine Kept.ite ?_ ?_
    · refine finishOp_kept ?_
      refine State.setStream_kept ?_
      assumption
    · extract_lets +onlyGivenNames -merge -useContext x11
      clear_value x11
      extract_lets +onlyGivenNames -merge -useContext x12
      have hx12 : Kept kp x12 := by
        unfold x12
        refine State.setStream_kept ?_
        assumption
      clear_value x12
      refine finishOp_kept ?_
      assumption

theorem execEncCfg_kept {kp : Keep} {n s} (hs : Kept kp s) :
    KeptO kp (execEncCfg n s) := by
  unfold execEncCfg
  refine KeptO.next ?_
  refine takeOp_kept ?_ ?_
  · intro x1 x2 h3
    refine encCfg_kept ?_
    assumption
  · assumption

theorem execPcamSyncLost_kept {kp : Keep} {lost s} (hs : Kept kp s) :
    KeptO kp (execPcamSyncLost lost s) := by
  unfold execPcamSyncLost
  refine whileOn_kept ?_ ?_
  · assumption
  · intro x1 h2
    refine pcamSync_kept ?_
    assumption

theorem encEvent_kept {kp : Keep} {i code s} (hs : Kept kp s) :
    Kept kp (encEvent i code s) := by
  unfold encEvent
  refine raise_kept ?_
  assumption

theorem unitBegin_kept {kp : Keep} {i s} (hs : Kept kp s) :
    Kept kp (unitBegin i s) := by
  unfold unitBegin
  extract_lets +onlyGivenNames -merge -useContext x1; clear_value x1
  split
  · rename_i x2 h3
    assumption
  · rename_i x4 x5 x6 h7
    refine Kept.ite ?_ ?_
    · assumption
    · split
      · rename_i x8 h9
        refine encEvent_kept ?_
        refine State.setStream_kept ?_
        assumption
      · rename_i x10 x11 h12
        refine State.setStream_kept ?_
        refine State.setOp_kept ?_
        assumption

theorem fillCode_kept {kp : Keep} {i num cap idr z4 z5 z6 z7} (hz7 : Kept kp z7) :
    KeptF kp (fillCode i num cap idr z4 z5 z6 z7) := by
  induction z4 generalizing z5 z6 z7 with
  | zero => exact KeptF.mk hz7
  | succ fuel ih =>
    unfold fillCode
    dsimp only
    split
    · split
      · exact KeptF.mk (writeOut_kept hz7)
      · exact ih (writeOut_kept hz7)
    · exact KeptF.mk (writeOut_kept hz7)

theorem unitEnd_kept {kp : Keep} {i unit s} (hs : Kept kp s) :
    Kept kp (unitEnd i unit s) := by
  unfold unitEnd
  extract_lets +onlyGivenNames -merge -useContext x1; clear_value x1
  split
  · rename_i x2 h3
    assumption
  · rename_i x4 x5 h6
    refine Kept.ite ?_ ?_
    · assumption
    · split
      · rename_i x7 h8
        refine State.setStream_kept ?_
        assumption
      · rename_i x9 x10 h11
        split
        rename_i x12 x13 x14 h15
        have h16 : Kept kp x13 := by
          refine KeptF.of_eq h15 ?_
          refine fillCode_kept ?_
          assumption
        extract_lets +onlyGivenNames -merge -useContext x17; clear_value x17
        refine Kept.ite ?_ ?_
        · extract_lets +onlyGivenNames -merge -useContext x18
          clear_value x18
          refine State.setStream_kept ?_
          assumption
        · refine raiseAt_kept ?_
          refine State.setStream_kept ?_
          assumption

theorem accessUnit_kept {kp : Keep} {i u s} (hs : Kept kp s) :
    Kept kp (accessUnit i u s) := by
  unfold accessUnit
  split
  · rename_i x1
    refine unitBegin_kept ?_
    assumption
  · rename_i x2 x3
    refine unitEnd_kept ?_
    assumption

theorem iplStopCtx_kept {kp : Keep} {c s} (hs : Kept kp s) :
    Kept kp (iplStopCtx c s) := by
  unfold iplStopCtx
  extract_lets +onlyGivenNames -merge -useContext x1; clear_value x1
  refine Kept.ite ?_ ?_
  · refine State.setIctx_kept ?_
    assumption
  · assumption

theorem iplCtlWrite_kept {kp : Keep} {v s} (hs : Kept kp s) :
    Kept kp (iplCtlWrite v s) := by
  unfold iplCtlWrite
  extract_lets +onlyGivenNames -merge -useContext x1; clear_value x1
  extract_lets +onlyGivenNames -merge -useContext x2
  have hx2 : Kept kp x2 := by
    unfold x2
    refine Kept.upd rfl rfl ?_
    assumption
  clear_value x2
  refine Kept.ite ?_ ?_
  · assumption
  · refine Kept.foldl ?_ ?_
    · intro x3 x4 h5
      refine iplStopCtx_kept ?_
      assumption
    · assumption

theorem iplCtxStop_kept {kp : Keep} {c s} (hs : Kept kp s) :
    Kept kp (iplCtxStop c s) := by
  unfold iplCtxStop
  extract_lets +onlyGivenNames -merge -useContext x1; clear_value x1
  refine Kept.ite ?_ ?_
  · refine failOp_kept ?_
    assumption
  · refine finishStops_kept ?_
    refine startOp_kept ?_
    refine Kept.foldl ?_ ?_
    · intro x2 x3 h4
      refine iplStopCtx_kept ?_
      assumption
    · assumption

theorem execIplCtxStop_kept {kp : Keep} {n s} (hs : Kept kp s) :
    KeptO kp (execIplCtxStop n s) := by
  unfold execIplCtxStop
  refine KeptO.next ?_
  refine takeOp_kept ?_ ?_
  · intro x1 x2 h3
    refine iplCtxStop_kept ?_
    assumption
  · assumption

theorem execIplStopEffect_kept {kp : Keep} {s} (hs : Kept kp s) :
    KeptO kp (execIplStopEffect s) := by
  unfold execIplStopEffect
  refine whileOn_kept ?_ ?_
  · assumption
  · intro x1 h2
    refine iplStopEffect_kept ?_
    assumption

theorem execDispBuf_kept {kp : Keep} {n s} (hs : Kept kp s) :
    KeptO kp (execDispBuf n s) := by
  unfold execDispBuf
  refine KeptO.next ?_
  refine takeOp_kept ?_ ?_
  · intro x1 x2 h3
    refine poolCheck_kept ?_
    assumption
  · assumption

theorem setRateFactor_kept {kp : Keep} {c f s} (hs : Kept kp s) :
    Kept kp (setRateFactor c f s) := by
  unfold setRateFactor
  extract_lets +onlyGivenNames -merge -useContext x1
  have hx1 : Kept kp x1 := by
    unfold x1
    refine settleRate_kept ?_
    assumption
  clear_value x1
  extract_lets +onlyGivenNames -merge -useContext x2; clear_value x2
  refine Kept.ite ?_ ?_
  · assumption
  · refine State.setIctx_kept ?_
    assumption

theorem execFrameClose_kept {kp : Keep} {c s} (hs : Kept kp s) :
    KeptO kp (execFrameClose c s) := by
  unfold execFrameClose
  refine whileOn_kept ?_ ?_
  · assumption
  · intro x1 h2
    refine frameClose_kept ?_
    assumption

theorem settingsWrite_kept {kp : Keep} {c ok s} (hs : Kept kp s) :
    Kept kp (settingsWrite c ok s) := by
  unfold settingsWrite
  extract_lets +onlyGivenNames -merge -useContext x1; clear_value x1
  split
  · rename_i x2 h3
    assumption
  · rename_i x4 x5 h6
    refine Kept.ite ?_ ?_
    · assumption
    · extract_lets +onlyGivenNames -merge -useContext x7
      clear_value x7
      refine State.setIctx_kept ?_
      assumption

theorem execUnitStart_kept {kp : Keep} {s} (hs : Kept kp s) :
    KeptO kp (execUnitStart s) := by
  unfold execUnitStart
  refine whileOn_kept ?_ ?_
  · assumption
  · intro x1 h2
    refine unitStart_kept ?_
    assumption

theorem pcamWrite_kept {kp : Keep} {v s} (hs : Kept kp s) :
    Kept kp (pcamWrite v s) := by
  unfold pcamWrite
  refine Kept.ite ?_ ?_
  · refine iplErr_kept ?_
    assumption
  · refine Kept.upd rfl rfl ?_
    assumption

theorem iplWrite_kept {kp : Keep} {off v s} (hs : Kept kp s) :
    Kept kp (iplWrite off v s) := by
  unfold iplWrite
  refine Kept.ite ?_ ?_
  · refine iplCtlWrite_kept ?_
    assumption
  · refine Kept.ite ?_ ?_
    · refine Kept.upd rfl rfl ?_
      assumption
    · refine Kept.ite ?_ ?_
      · refine linkCfgWrite_kept ?_
        assumption
      · refine Kept.ite ?_ ?_
        · refine pcamWrite_kept ?_
          assumption
        · assumption

theorem iplCtxRead_kept {kp : Keep} {c s} (hs : Kept kp s) :
    Kept kp (iplCtxRead c s) := by
  unfold iplCtxRead
  refine needBuffer_kept ?_ ?_
  · assumption
  · intro x1 h2
    refine Kept.ite ?_ ?_
    · refine failOp_kept ?_
      assumption
    · extract_lets +onlyGivenNames -merge -useContext x3
      clear_value x3
      refine writeOut_kept ?_
      assumption

theorem execFrameStart_kept {kp : Keep} {k vc at' s} (hs : Kept kp s) :
    KeptO kp (execFrameStart k vc at' s) := by
  unfold execFrameStart
  refine whileOn_kept ?_ ?_
  · assumption
  · intro x1 h2
    refine frameStart_kept ?_
    assumption

theorem iplTick_kept {kp : Keep} {s} (hs : Kept kp s) :
    Kept kp (iplTick s) := by
  unfold iplTick
  refine Kept.foldl ?_ ?_
  · intro x1 x2 h3
    refine settleRate_kept ?_
    assumption
  · assumption

theorem execIplLinkCfgWrite_kept {kp : Keep} {a k v s} (hs : Kept kp s) :
    KeptO kp (execIplLinkCfgWrite a k v s) := by
  unfold execIplLinkCfgWrite
  refine KeptO.next ?_
  refine gateWrite_kept ?_ ?_
  · assumption
  · intro x1 h2
    refine linkCfgWrite_kept ?_
    assumption

theorem execLinkUp_kept {kp : Keep} {k latency s} (hs : Kept kp s) :
    KeptO kp (execLinkUp k latency s) := by
  unfold execLinkUp
  refine whileOn_kept ?_ ?_
  · assumption
  · intro x1 h2
    refine linkUp_kept ?_
    assumption

theorem execLinkDown_kept {kp : Keep} {k s} (hs : Kept kp s) :
    KeptO kp (execLinkDown k s) := by
  unfold execLinkDown
  refine whileOn_kept ?_ ?_
  · assumption
  · intro x1 h2
    refine linkDown_kept ?_
    assumption

theorem execIplCtlWrite_kept {kp : Keep} {a v s} (hs : Kept kp s) :
    KeptO kp (execIplCtlWrite a v s) := by
  unfold execIplCtlWrite
  refine KeptO.next ?_
  refine gateWrite_kept ?_ ?_
  · assumption
  · intro x1 h2
    refine iplCtlWrite_kept ?_
    assumption

theorem linkRead_kept {kp : Keep} {k o s} (hs : Kept kp s) :
    KeptS kp (linkRead k o s) := by
  unfold linkRead
  extract_lets +onlyGivenNames -merge -useContext x1; clear_value x1
  split
  · rename_i x2
    refine KeptS.mk ?_
    assumption
  · rename_i x3
    refine KeptS.mk ?_
    assumption
  · rename_i x4
    refine KeptS.mk ?_
    refine State.setLink_kept ?_
    assumption
  · rename_i x5 h6 h7 h8
    refine KeptS.mk ?_
    assumption

theorem iplRead_kept {kp : Keep} {off s} (hs : Kept kp s) :
    KeptS kp (iplRead off s) := by
  unfold iplRead
  extract_lets +onlyGivenNames -merge -useContext x1; clear_value x1
  extract_lets +onlyGivenNames -merge -useContext x2; clear_value x2
  extract_lets +onlyGivenNames -merge -useContext x3; clear_value x3
  refine KeptS.ite ?_ ?_
  · refine KeptS.mk ?_
    assumption
  · refine KeptS.ite ?_ ?_
    · refine KeptS.mk ?_
      assumption
    · refine KeptS.ite ?_ ?_
      · refine KeptS.mk ?_
        assumption
      · refine KeptS.ite ?_ ?_
        · refine KeptS.mk ?_
          assumption
        · refine KeptS.ite ?_ ?_
          · refine KeptS.mk ?_
            assumption
          · refine KeptS.ite ?_ ?_
            · refine KeptS.mk ?_
              assumption
            · refine KeptS.ite ?_ ?_
              · refine KeptS.mk ?_
                refine Kept.upd rfl rfl ?_
                assumption
              · refine KeptS.ite ?_ ?_
                · refine KeptS.mk ?_
                  refine Kept.upd rfl rfl ?_
                  assumption
                · refine KeptS.ite ?_ ?_
                  · refine KeptS.mk ?_
                    refine Kept.upd rfl rfl ?_
                    assumption
                  · refine KeptS.ite ?_ ?_
                    · refine KeptS.mk ?_
                      refine Kept.upd rfl rfl ?_
                      assumption
                    · refine KeptS.ite ?_ ?_
                      · refine KeptS.mk ?_
                        assumption
                      · refine KeptS.ite ?_ ?_
                        · refine KeptS.mk ?_
                          assumption
                        · refine KeptS.ite ?_ ?_
                          · refine KeptS.mk ?_
                            assumption
                          · refine KeptS.ite ?_ ?_
                            · refine KeptS.mk ?_
                              assumption
                            · refine KeptS.ite ?_ ?_
                              · refine linkRead_kept ?_
                                assumption
                              · refine KeptS.ite ?_ ?_
                                · refine KeptS.mk ?_
                                  assumption
                                · refine KeptS.ite ?_ ?_
                                  · extract_lets +onlyGivenNames -merge -useContext x4
                                    clear_value x4
                                    refine KeptS.mk ?_
                                    assumption
                                  · refine KeptS.mk ?_
                                    assumption

theorem encIdr_kept {kp : Keep} {c s} (hs : Kept kp s) :
    Kept kp (encIdr c s) := by
  unfold encIdr
  extract_lets +onlyGivenNames -merge -useContext x1; clear_value x1
  refine finishOp_kept ?_
  refine Kept.foldl ?_ ?_
  · intro x2 x3 h4
    refine State.setStream_kept ?_
    assumption
  · assumption

theorem execEncIdr_kept {kp : Keep} {n s} (hs : Kept kp s) :
    KeptO kp (execEncIdr n s) := by
  unfold execEncIdr
  refine KeptO.next ?_
  refine takeOp_kept ?_ ?_
  · intro x1 x2 h3
    refine encIdr_kept ?_
    assumption
  · assumption

theorem execStatBuf_kept {kp : Keep} {n s} (hs : Kept kp s) :
    KeptO kp (execStatBuf n s) := by
  unfold execStatBuf
  refine KeptO.next ?_
  refine takeOp_kept ?_ ?_
  · intro x1 x2 h3
    refine poolCheck_kept ?_
    assumption
  · assumption

theorem iplStartCtx_kept {kp : Keep} {t0 c s} (hs : Kept kp s) :
    Kept kp (iplStartCtx t0 c s) := by
  unfold iplStartCtx
  extract_lets +onlyGivenNames -merge -useContext x1; clear_value x1
  refine setIplState_kept ?_
  refine State.setIctx_kept ?_
  assumption

theorem iplCtxStart_kept {kp : Keep} {c s} (hs : Kept kp s) :
    Kept kp (iplCtxStart c s) := by
  unfold iplCtxStart
  extract_lets +onlyGivenNames -merge -useContext x1; clear_value x1
  extract_lets +onlyGivenNames -merge -useContext x2; clear_value x2
  extract_lets +onlyGivenNames -merge -useContext x3; clear_value x3
  refine Kept.ite ?_ ?_
  · refine failOp_kept ?_
    assumption
  · refine Kept.ite ?_ ?_
    · refine failOp_kept ?_
      assumption
    · split
      · rename_i x4 x5 h6
        refine iplSchema_kept ?_
        assumption
      · rename_i x7 h8
        extract_lets +onlyGivenNames -merge -useContext x9; clear_value x9
        refine finishOp_kept ?_
        refine Kept.foldl ?_ ?_
        · intro x10 x11 h12
          refine iplStartCtx_kept ?_
          assumption
        · assumption

theorem execCamPowerRetry_kept {kp : Keep} {k s} (hs : Kept kp s) :
    KeptO kp (execCamPowerRetry k s) := by
  unfold execCamPowerRetry
  refine whileOn_kept ?_ ?_
  · assumption
  · intro x1 h2
    refine camPowerRetry_kept ?_
    assumption

theorem execCamPowerLimit_kept {kp : Keep} {k s} (hs : Kept kp s) :
    KeptO kp (execCamPowerLimit k s) := by
  unfold execCamPowerLimit
  refine whileOn_kept ?_ ?_
  · assumption
  · intro x1 h2
    refine camPowerLimit_kept ?_
    assumption

theorem execSettingsWrite_kept {kp : Keep} {c sensorOk s} (hs : Kept kp s) :
    KeptO kp (execSettingsWrite c sensorOk s) := by
  unfold execSettingsWrite
  refine whileOn_kept ?_ ?_
  · assumption
  · intro x1 h2
    refine settingsWrite_kept ?_
    assumption

theorem iplCtxLoad_kept {kp : Keep} {c s} (hs : Kept kp s) :
    Kept kp (iplCtxLoad c s) := by
  unfold iplCtxLoad
  refine needBuffer_kept ?_ ?_
  · assumption
  · intro x1 h2
    extract_lets +onlyGivenNames -merge -useContext x3; clear_value x3
    extract_lets +onlyGivenNames -merge -useContext x4; clear_value x4
    refine Kept.ite ?_ ?_
    · refine failOp_kept ?_
      assumption
    · refine Kept.ite ?_ ?_
      · refine failOp_kept ?_
        assumption
      · refine readWhole_kept ?_ ?_
        · assumption
        · intro x5 x6 h7
          extract_lets +onlyGivenNames -merge -useContext x8; clear_value x8
          split
          · rename_i x9 x10 x11 h12
            refine iplSchema_kept ?_
            assumption
          · rename_i x13 h14
            split
            rename_i x15 x16 x17 h18
            have h19 : Kept kp x16 := by
              refine KeptF.of_eq h18 ?_
              refine readEngine_kept ?_
              assumption
            refine Kept.ite ?_ ?_
            · refine failOp_kept ?_
              assumption
            · extract_lets +onlyGivenNames -merge -useContext x20
              clear_value x20
              extract_lets +onlyGivenNames -merge -useContext x21
              have hx21 : Kept kp x21 := by
                unfold x21
                refine State.setIctx_kept ?_
                assumption
              clear_value x21
              refine finishOp_kept ?_
              refine setIplState_kept ?_
              assumption

theorem execIplCtxStart_kept {kp : Keep} {n s} (hs : Kept kp s) :
    KeptO kp (execIplCtxStart n s) := by
  unfold execIplCtxStart
  refine KeptO.next ?_
  refine takeOp_kept ?_ ?_
  · intro x1 x2 h3
    refine iplCtxStart_kept ?_
    assumption
  · assumption

theorem execLinkTrainingRetry_kept {kp : Keep} {k s} (hs : Kept kp s) :
    KeptO kp (execLinkTrainingRetry k s) := by
  unfold execLinkTrainingRetry
  refine whileOn_kept ?_ ?_
  · assumption
  · intro x1 h2
    refine linkRetry_kept ?_
    assumption

theorem exposure_kept {kp : Keep} {c s} (hs : Kept kp s) :
    Kept kp (exposure c s) := by
  unfold exposure
  extract_lets +onlyGivenNames -merge -useContext x1; clear_value x1
  extract_lets +onlyGivenNames -merge -useContext x2; clear_value x2
  extract_lets +onlyGivenNames -merge -useContext x3; clear_value x3
  refine Kept.ite ?_ ?_
  · refine iplSchema_kept ?_
    assumption
  · refine Kept.ite ?_ ?_
    · refine iplSchema_kept ?_
      assumption
    · refine Kept.ite ?_ ?_
      · refine iplSchema_kept ?_
        assumption
      · refine Kept.ite ?_ ?_
        · refine iplSchema_kept ?_
          assumption
        · extract_lets +onlyGivenNames -merge -useContext x4
          clear_value x4
          extract_lets +onlyGivenNames -merge -useContext x5
          have hx5 : Kept kp x5 := by
            unfold x5
            refine State.setIctx_kept ?_
            assumption
          clear_value x5
          refine finishOp_kept ?_
          assumption

theorem deferStream_kept {kp : Keep} {i on s} (hs : Kept kp s) :
    Kept kp (deferStream i on s) := by
  unfold deferStream
  extract_lets +onlyGivenNames -merge -useContext x1; clear_value x1
  refine Kept.ite ?_ ?_
  · refine Kept.ite ?_ ?_
    · refine encEvent_kept ?_
      refine State.setStream_kept ?_
      assumption
    · assumption
  · refine Kept.ite ?_ ?_
    · refine encEvent_kept ?_
      refine State.setStream_kept ?_
      assumption
    · assumption

theorem execExposure_kept {kp : Keep} {n s} (hs : Kept kp s) :
    KeptO kp (execExposure n s) := by
  unfold execExposure
  refine KeptO.next ?_
  refine takeOp_kept ?_ ?_
  · intro x1 x2 h3
    refine exposure_kept ?_
    assumption
  · assumption

theorem execEncoderAccessUnit_kept {kp : Keep} {st u s} (hs : Kept kp s) :
    KeptO kp (execEncoderAccessUnit st u s) := by
  unfold execEncoderAccessUnit
  refine whileOn_kept ?_ ?_
  · assumption
  · intro x1 h2
    refine accessUnit_kept ?_
    assumption

theorem execIplCtxRead_kept {kp : Keep} {n s} (hs : Kept kp s) :
    KeptO kp (execIplCtxRead n s) := by
  unfold execIplCtxRead
  refine KeptO.next ?_
  refine takeOp_kept ?_ ?_
  · intro x1 x2 h3
    refine iplCtxRead_kept ?_
    assumption
  · assumption

theorem execIplCtxLoad_kept {kp : Keep} {n s} (hs : Kept kp s) :
    KeptO kp (execIplCtxLoad n s) := by
  unfold execIplCtxLoad
  refine KeptO.next ?_
  refine takeOp_kept ?_ ?_
  · intro x1 x2 h3
    refine iplCtxLoad_kept ?_
    assumption
  · assumption

end Sys2Proof.Machine
end

