-- ==== Sys2Proof/Laws/KeptRecorder.lean ====
section
/-!
SUPPORT. What the operations of Sys2Proof/Machine/Recorder.lean keep (see Sys2Proof/Laws/Kept.lean).
-/

namespace Sys2Proof.Machine

theorem raiseSuppressed_kept {kp : Keep} {b l s} (hs : Kept kp s) :
    Kept kp (raiseSuppressed b l s) := by
  unfold raiseSuppressed
  refine Kept.foldl ?_ ?_
  · intro x1 x2 h3
    refine raiseAt_kept ?_
    assumption
  · assumption

theorem raiseNoRec_kept {kp : Keep} {src code data s} (hs : Kept kp s) :
    Kept kp (raiseNoRec src code data s) := by
  unfold raiseNoRec
  refine Kept.ite ?_ ?_
  · refine raiseEv_kept ?_
    assumption
  · assumption

theorem writeFlash_kept {kp : Keep} {rec s} (hs : Kept kp s) :
    Kept kp (writeFlash rec s) := by
  unfold writeFlash
  extract_lets +onlyGivenNames -merge -useContext x1; clear_value x1
  extract_lets +onlyGivenNames -merge -useContext x2; clear_value x2
  extract_lets +onlyGivenNames -merge -useContext x3; clear_value x3
  extract_lets +onlyGivenNames -merge -useContext x4
  have hx4 : Kept kp x4 := by
    unfold x4
    refine Kept.upd rfl rfl ?_
    assumption
  clear_value x4
  refine Kept.ite ?_ ?_
  · extract_lets +onlyGivenNames -merge -useContext x5
    clear_value x5
    extract_lets +onlyGivenNames -merge -useContext x6
    have hx6 : Kept kp x6 := by
      unfold x6
      refine Kept.upd rfl rfl ?_
      assumption
    clear_value x6
    refine Kept.ite ?_ ?_
    · refine raise_kept ?_
      refine Kept.upd rfl rfl ?_
      assumption
    · assumption
  · assumption

theorem writeOwn_kept {kp : Keep} {src code data s} (hs : Kept kp s) :
    Kept kp (writeOwn src code data s) := by
  unfold writeOwn
  refine raiseNoRec_kept ?_
  refine writeFlash_kept ?_
  assumption

theorem recClear_kept {kp : Keep} {a v s} (hs : Kept kp s) :
    Kept kp (recClear a v s) := by
  unfold recClear
  extract_lets +onlyGivenNames -merge -useContext x1; clear_value x1
  refine Kept.ite ?_ ?_
  · refine writeOwn_kept ?_
    refine Kept.upd rfl rfl ?_
    assumption
  · refine raise_kept ?_
    assumption

theorem execRecClear_kept {kp : Keep} {a v s} (hs : Kept kp s) :
    KeptO kp (execRecClear a v s) := by
  unfold execRecClear
  refine KeptO.next ?_
  refine gateWrite_kept ?_ ?_
  · assumption
  · intro x1 h2
    refine recClear_kept ?_
    assumption

theorem rateWindowEnd_kept {kp : Keep} {s} (hs : Kept kp s) :
    Kept kp (rateWindowEnd s) := by
  unfold rateWindowEnd
  extract_lets +onlyGivenNames -merge -useContext x1; clear_value x1
  extract_lets +onlyGivenNames -merge -useContext x2; clear_value x2
  refine Kept.ite ?_ ?_
  · assumption
  · extract_lets +onlyGivenNames -merge -useContext x3
    clear_value x3
    refine raiseSuppressed_kept ?_
    refine Kept.upd rfl rfl ?_
    assumption

theorem recCopyComplete_kept {kp : Keep} {s} (hs : Kept kp s) :
    Kept kp (recCopyComplete s) := by
  unfold recCopyComplete
  split
  · rename_i x1 h2
    assumption
  · rename_i x3 x4 h5
    extract_lets +onlyGivenNames -merge -useContext x6; clear_value x6
    extract_lets +onlyGivenNames -merge -useContext x7; clear_value x7
    extract_lets +onlyGivenNames -merge -useContext x8; clear_value x8
    refine finishOp_kept ?_
    assumption

theorem hoursAdvance_kept {kp : Keep} {s} (hs : Kept kp s) :
    Kept kp (hoursAdvance s) := by
  unfold hoursAdvance
  split
  · rename_i x1 h2
    refine Kept.upd rfl rfl ?_
    assumption
  · rename_i x3 h4
    refine Kept.upd rfl rfl ?_
    assumption
  · rename_i x5 h6
    refine Kept.upd rfl rfl ?_
    assumption
  · rename_i x7 h8 h9 h10
    assumption

theorem latchWindow_kept {kp : Keep} {a s} (hs : Kept kp s) :
    Kept kp (latchWindow a s) := by
  unfold latchWindow
  extract_lets +onlyGivenNames -merge -useContext x1; clear_value x1
  extract_lets +onlyGivenNames -merge -useContext x2; clear_value x2
  refine Kept.upd rfl rfl ?_
  assumption

theorem flushRecorder_kept {kp : Keep} {ok s} (hs : Kept kp s) :
    Kept kp (flushRecorder ok s) := by
  unfold flushRecorder
  extract_lets +onlyGivenNames -merge -useContext x1; clear_value x1
  refine Kept.ite ?_ ?_
  · assumption
  · refine Kept.ite ?_ ?_
    · extract_lets +onlyGivenNames -merge -useContext x2
      clear_value x2
      extract_lets +onlyGivenNames -merge -useContext x3
      have hx3 : Kept kp x3 := by
        unfold x3
        refine Kept.ite ?_ ?_
        · assumption
        · refine writeOwn_kept ?_
          refine Kept.upd rfl rfl ?_
          assumption
      clear_value x3
      extract_lets +onlyGivenNames -merge -useContext x4; clear_value x4
      extract_lets +onlyGivenNames -merge -useContext x5
      have hx5 : Kept kp x5 := by
        unfold x5
        refine Kept.upd rfl rfl ?_
        assumption
      clear_value x5
      refine Kept.foldl ?_ ?_
      · intro x6 x7 h8
        refine writeFlash_kept ?_
        assumption
      · assumption
    · refine Kept.ite ?_ ?_
      · refine Kept.upd rfl rfl ?_
        assumption
      · refine raise_kept ?_
        refine Kept.upd rfl rfl ?_
        assumption

theorem recFlush_kept {kp : Keep} {ok s} (hs : Kept kp s) :
    Kept kp (recFlush ok s) := by
  unfold recFlush
  refine Kept.ite ?_ ?_
  · refine flushRecorder_kept ?_
    assumption
  · assumption

theorem execRecFlush_kept {kp : Keep} {writeOk s} (hs : Kept kp s) :
    KeptO kp (execRecFlush writeOk s) := by
  unfold execRecFlush
  refine KeptO.next ?_
  refine recFlush_kept ?_
  assumption

theorem recCopy_kept {kp : Keep} {c s} (hs : Kept kp s) :
    Kept kp (recCopy c s) := by
  unfold recCopy
  refine needBuffer_kept ?_ ?_
  · assumption
  · intro x1 h2
    refine Kept.ite ?_ ?_
    · refine failOp_kept ?_
      assumption
    · extract_lets +onlyGivenNames -merge -useContext x3
      clear_value x3
      extract_lets +onlyGivenNames -merge -useContext x4; clear_value x4
      extract_lets +onlyGivenNames -merge -useContext x5; clear_value x5
      extract_lets +onlyGivenNames -merge -useContext x6; clear_value x6
      extract_lets +onlyGivenNames -merge -useContext x7; clear_value x7
      split
      rename_i x8 x9 x10 h11
      have h12 : Kept kp x9 := by
        refine KeptF.of_eq h11 ?_
        refine writeBuffer_kept ?_
        assumption
      refine Kept.ite ?_ ?_
      · refine State.setOp_kept ?_
        assumption
      · refine failOp_kept ?_
        assumption

theorem execRecCopy_kept {kp : Keep} {n s} (hs : Kept kp s) :
    KeptO kp (execRecCopy n s) := by
  unfold execRecCopy
  refine KeptO.next ?_
  refine takeOp_kept ?_ ?_
  · intro x1 x2 h3
    refine recCopy_kept ?_
    assumption
  · assumption

theorem execRateWindowEnd_kept {kp : Keep} {s} (hs : Kept kp s) :
    KeptO kp (execRateWindowEnd s) := by
  unfold execRateWindowEnd
  refine KeptO.next ?_
  refine rateWindowEnd_kept ?_
  assumption

theorem recWrite_kept {kp : Keep} {a off v s} (hs : Kept kp s) :
    Kept kp (recWrite a off v s) := by
  unfold recWrite
  extract_lets +onlyGivenNames -merge -useContext x1; clear_value x1
  extract_lets +onlyGivenNames -merge -useContext x2; clear_value x2
  refine Kept.ite ?_ ?_
  · refine Kept.upd rfl rfl ?_
    assumption
  · refine Kept.ite ?_ ?_
    · refine Kept.upd rfl rfl ?_
      assumption
    · refine Kept.ite ?_ ?_
      · refine Kept.ite ?_ ?_
        · assumption
        · refine Kept.upd rfl rfl ?_
          assumption
      · refine Kept.ite ?_ ?_
        · refine recClear_kept ?_
          assumption
        · refine Kept.ite ?_ ?_
          · extract_lets +onlyGivenNames -merge -useContext x3
            clear_value x3
            refine Kept.upd rfl rfl ?_
            assumption
          · assumption

theorem advanceCursor_kept {kp : Keep} {a s} (hs : Kept kp s) :
    Kept kp (advanceCursor a s) := by
  unfold advanceCursor
  extract_lets +onlyGivenNames -merge -useContext x1; clear_value x1
  refine Kept.ite ?_ ?_
  · assumption
  · refine Kept.upd rfl rfl ?_
    assumption

theorem recRead_kept {kp : Keep} {a off s} (hs : Kept kp s) :
    KeptS kp (recRead a off s) := by
  unfold recRead
  extract_lets +onlyGivenNames -merge -useContext x1; clear_value x1
  extract_lets +onlyGivenNames -merge -useContext x2; clear_value x2
  refine KeptS.ite ?_ ?_
  · refine KeptS.mk ?_
    assumption
  · refine KeptS.ite ?_ ?_
    · refine KeptS.mk ?_
      assumption
    · refine KeptS.ite ?_ ?_
      · refine KeptS.mk ?_
        assumption
      · refine KeptS.ite ?_ ?_
        · extract_lets +onlyGivenNames -merge -useContext x3
          have hx3 : Kept kp x3 := by
            unfold x3
            refine latchWindow_kept ?_
            assumption
          clear_value x3
          refine KeptS.mk ?_
          assumption
        · refine KeptS.ite ?_ ?_
          · extract_lets +onlyGivenNames -merge -useContext x4
            clear_value x4
            refine KeptS.mk ?_
            refine Kept.ite ?_ ?_
            · refine advanceCursor_kept ?_
              assumption
            · assumption
          · refine KeptS.ite ?_ ?_
            · refine KeptS.mk ?_
              assumption
            · refine KeptS.ite ?_ ?_
              · refine KeptS.mk ?_
                assumption
              · refine KeptS.ite ?_ ?_
                · refine KeptS.mk ?_
                  assumption
                · refine KeptS.ite ?_ ?_
                  · refine KeptS.mk ?_
                    assumption
                  · refine KeptS.ite ?_ ?_
                    · refine KeptS.mk ?_
                      refine Kept.upd rfl rfl ?_
                      assumption
                    · refine KeptS.ite ?_ ?_
                      · refine KeptS.mk ?_
                        assumption
                      · refine KeptS.ite ?_ ?_
                        · refine KeptS.mk ?_
                          assumption
                        · refine KeptS.ite ?_ ?_
                          · refine KeptS.mk ?_
                            assumption
                          · refine KeptS.mk ?_
                            assumption

theorem execRecWindowLatch_kept {kp : Keep} {a s} (hs : Kept kp s) :
    KeptO kp (execRecWindowLatch a s) := by
  unfold execRecWindowLatch
  refine KeptO.next ?_
  refine gate_kept ?_ ?_
  · assumption
  · intro x1 h2
    split
    rename_i x3 x4 x5 h6
    have h7 : Kept kp x5 := by
      refine KeptS.of_eq h6 ?_
      refine recRead_kept ?_
      assumption
    refine State.replyWord_kept ?_
    assumption

theorem execRecCopyComplete_kept {kp : Keep} {s} (hs : Kept kp s) :
    KeptO kp (execRecCopyComplete s) := by
  unfold execRecCopyComplete
  refine KeptO.next ?_
  refine recCopyComplete_kept ?_
  assumption

theorem placeRecord_kept {kp : Keep} {rec s} (hs : Kept kp s) :
    Kept kp (placeRecord rec s) := by
  unfold placeRecord
  refine Kept.ite ?_ ?_
  · refine Kept.upd rfl rfl ?_
    assumption
  · refine Kept.upd rfl rfl ?_
    assumption

theorem recordEvent_kept {kp : Keep} {e ooo s} (hs : Kept kp s) :
    Kept kp (recordEvent e ooo s) := by
  unfold recordEvent
  extract_lets +onlyGivenNames -merge -useContext x1; clear_value x1
  extract_lets +onlyGivenNames -merge -useContext x2; clear_value x2
  extract_lets +onlyGivenNames -merge -useContext x3; clear_value x3
  refine Kept.ite ?_ ?_
  · assumption
  · refine Kept.ite ?_ ?_
    · refine placeRecord_kept ?_
      assumption
    · refine Kept.ite ?_ ?_
      · refine Kept.upd rfl rfl ?_
        assumption
      · refine placeRecord_kept ?_
        refine Kept.upd rfl rfl ?_
        assumption

theorem execRecCursorAdvance_kept {kp : Keep} {a s} (hs : Kept kp s) :
    KeptO kp (execRecCursorAdvance a s) := by
  unfold execRecCursorAdvance
  refine KeptO.next ?_
  refine gate_kept ?_ ?_
  · assumption
  · intro x1 h2
    split
    rename_i x3 x4 x5 h6
    have h7 : Kept kp x5 := by
      refine KeptS.of_eq h6 ?_
      refine recRead_kept ?_
      assumption
    refine State.replyWord_kept ?_
    assumption

theorem execHoursAdvance_kept {kp : Keep} {s} (hs : Kept kp s) :
    KeptO kp (execHoursAdvance s) := by
  unfold execHoursAdvance
  refine KeptO.next ?_
  refine hoursAdvance_kept ?_
  assumption

end Sys2Proof.Machine
end

