-- ==== Sys2Proof/Laws/KeptEvents.lean ====
section
/-!
SUPPORT. What the operations of Sys2Proof/Machine/Events.lean keep (see Sys2Proof/Laws/Kept.lean).
-/

namespace Sys2Proof.Machine

theorem swevt_kept {kp : Keep} {v s} (hs : Kept kp s) :
    Kept kp (swevt v s) := by
  unfold swevt
  refine Kept.ite ?_ ?_
  · refine raiseEv_kept ?_
    assumption
  · assumption

theorem execSwevt_kept {kp : Keep} {a v s} (hs : Kept kp s) :
    KeptO kp (execSwevt a v s) := by
  unfold execSwevt
  refine KeptO.next ?_
  refine gateWrite_kept ?_ ?_
  · assumption
  · intro x1 h2
    refine swevt_kept ?_
    assumption

theorem writeEntry_kept {kp : Keep} {e ooo s} (hs : Kept kp s) :
    KeptF kp (writeEntry e ooo s) := by
  unfold writeEntry
  extract_lets +onlyGivenNames -merge -useContext x1; clear_value x1
  extract_lets +onlyGivenNames -merge -useContext x2; clear_value x2
  split
  rename_i x3 x4 x5 h6
  have h7 : Kept kp x4 := by
    refine KeptF.of_eq h6 ?_
    refine busWrite_kept ?_
    assumption
  refine KeptF.ite ?_ ?_
  · refine KeptF.mk ?_
    refine Kept.upd rfl rfl ?_
    assumption
  · refine KeptF.mk ?_
    refine Kept.upd rfl rfl ?_
    assumption

theorem writeOverflow_kept {kp : Keep} {s} (hs : Kept kp s) :
    Kept kp (writeOverflow s) := by
  unfold writeOverflow
  extract_lets +onlyGivenNames -merge -useContext x1; clear_value x1
  refine Kept.ite ?_ ?_
  · extract_lets +onlyGivenNames -merge -useContext x2
    clear_value x2
    extract_lets +onlyGivenNames -merge -useContext x3; clear_value x3
    split
    rename_i x4 x5 x6 h7
    have h8 : Kept kp x5 := by
      refine KeptF.of_eq h7 ?_
      refine writeEntry_kept ?_
      assumption
    refine Kept.ite ?_ ?_
    · refine recordEvent_kept ?_
      refine Kept.upd rfl rfl ?_
      assumption
    · refine Kept.upd rfl rfl ?_
      assumption
  · assumption

theorem offer_kept {kp : Keep} {e ooo s} (hs : Kept kp s) :
    Kept kp (offer e ooo s) := by
  unfold offer
  extract_lets +onlyGivenNames -merge -useContext x1; clear_value x1
  refine Kept.ite ?_ ?_
  · assumption
  · refine Kept.ite ?_ ?_
    · refine Kept.upd rfl rfl ?_
      assumption
    · refine KeptF.out ?_
      refine writeEntry_kept ?_
      assumption

theorem release_kept {kp : Keep} {e s} (hs : Kept kp s) :
    Kept kp (release e s) := by
  unfold release
  extract_lets +onlyGivenNames -merge -useContext x1; clear_value x1
  extract_lets +onlyGivenNames -merge -useContext x2
  have hx2 : Kept kp x2 := by
    unfold x2
    refine writeOverflow_kept ?_
    assumption
  clear_value x2
  extract_lets +onlyGivenNames -merge -useContext x3
  have hx3 : Kept kp x3 := by
    unfold x3
    refine recordEvent_kept ?_
    assumption
  clear_value x3
  refine offer_kept ?_
  refine Kept.upd rfl rfl ?_
  assumption

theorem eventQueueWrite_kept {kp : Keep} {s} (hs : Kept kp s) :
    Kept kp (eventQueueWrite s) := by
  unfold eventQueueWrite
  refine Kept.ite ?_ ?_
  · assumption
  · split
    · rename_i x1 h2
      assumption
    · rename_i x3 x4 x5 h6
      refine Kept.ite ?_ ?_
      · assumption
      · refine release_kept ?_
        refine Kept.upd rfl rfl ?_
        assumption

theorem execEventQueueWrite_kept {kp : Keep} {s} (hs : Kept kp s) :
    KeptO kp (execEventQueueWrite s) := by
  unfold execEventQueueWrite
  refine KeptO.next ?_
  refine eventQueueWrite_kept ?_
  assumption

theorem evqCtlWrite_kept {kp : Keep} {v s} (hs : Kept kp s) :
    Kept kp (evqCtlWrite v s) := by
  unfold evqCtlWrite
  extract_lets +onlyGivenNames -merge -useContext x1; clear_value x1
  extract_lets +onlyGivenNames -merge -useContext x2; clear_value x2
  extract_lets +onlyGivenNames -merge -useContext x3; clear_value x3
  extract_lets +onlyGivenNames -merge -useContext x4
  have hx4 : Kept kp x4 := by
    unfold x4
    refine Kept.ite ?_ ?_
    · assumption
    · refine Kept.upd rfl rfl ?_
      assumption
  clear_value x4
  extract_lets +onlyGivenNames -merge -useContext x5; clear_value x5
  extract_lets +onlyGivenNames -merge -useContext x6
  have hx6 : Kept kp x6 := by
    unfold x6
    refine Kept.ite ?_ ?_
    · refine Kept.upd rfl rfl ?_
      assumption
    · assumption
  clear_value x6
  refine Kept.upd rfl rfl ?_
  assumption

theorem execEvqCtlWrite_kept {kp : Keep} {a v s} (hs : Kept kp s) :
    KeptO kp (execEvqCtlWrite a v s) := by
  unfold execEvqCtlWrite
  refine KeptO.next ?_
  refine gateWrite_kept ?_ ?_
  · assumption
  · intro x1 h2
    refine evqCtlWrite_kept ?_
    assumption

theorem setDisc_kept {kp : Keep} {d s} (hs : Kept kp s) :
    Kept kp (setDisc d s) := by
  unfold setDisc
  refine Kept.ite ?_ ?_
  · assumption
  · extract_lets +onlyGivenNames -merge -useContext x1
    extract_lets +onlyGivenNames -merge -useContext x2
    have hx2 : Kept kp x2 := by
      unfold x2
      refine Kept.upd rfl rfl ?_
      assumption
    clear_value x2
    refine raiseEv_kept ?_
    assumption

theorem disciplineAcquire_kept {kp : Keep} {src s} (hs : Kept kp s) :
    Kept kp (disciplineAcquire src s) := by
  unfold disciplineAcquire
  extract_lets +onlyGivenNames -merge -useContext x1
  refine Kept.ite ?_ ?_
  · refine setDisc_kept ?_
    refine Kept.upd rfl rfl ?_
    assumption
  · assumption

theorem readHigh_kept {kp : Keep} {a hiAddr v s} (hs : Kept kp s) :
    KeptS kp (readHigh a hiAddr v s) := by
  unfold readHigh
  split
  · rename_i x1 x2 h3
    refine KeptS.mk ?_
    refine Kept.upd rfl rfl ?_
    assumption
  · rename_i x4 h5
    refine KeptS.mk ?_
    assumption

theorem fenGate_kept {kp : Keep} {a off s k} (hs : Kept kp s) (hk : ∀ y1, Kept kp y1 → Kept kp (k y1)) :
    Kept kp (fenGate a off s k) := by
  unfold fenGate
  refine Kept.ite ?_ ?_
  · apply hk
    assumption
  · refine raise_kept ?_
    assumption

theorem applyFences_kept {kp : Keep} {mask s} (hs : Kept kp s) :
    Kept kp (applyFences mask s) := by
  unfold applyFences
  extract_lets +onlyGivenNames -merge -useContext x1; clear_value x1
  refine raise_kept ?_
  refine Kept.upd rfl rfl ?_
  assumption

theorem latchLow_kept {kp : Keep} {a v s} (hs : Kept kp s) :
    Kept kp (latchLow a v s) := by
  unfold latchLow
  refine Kept.upd rfl rfl ?_
  assumption

theorem applyHigh_kept {kp : Keep} {a v s} (hs : Kept kp s) :
    Kept kp (applyHigh a v s) := by
  unfold applyHigh
  refine applyFences_kept ?_
  refine Kept.upd rfl rfl ?_
  assumption

theorem fenStore_kept {kp : Keep} {a off v s} (hs : Kept kp s) :
    Kept kp (fenStore a off v s) := by
  unfold fenStore
  refine Kept.ite ?_ ?_
  · refine latchLow_kept ?_
    assumption
  · refine Kept.ite ?_ ?_
    · refine applyHigh_kept ?_
      assumption
    · refine Kept.ite ?_ ?_
      · extract_lets +onlyGivenNames -merge -useContext x1
        clear_value x1
        refine Kept.upd rfl rfl ?_
        assumption
      · assumption

theorem fenWriteWide_kept {kp : Keep} {a off v s} (hs : Kept kp s) :
    Kept kp (fenWriteWide a off v s) := by
  unfold fenWriteWide
  refine fenGate_kept ?_ ?_
  · assumption
  · intro x1 h2
    refine Kept.ite ?_ ?_
    · refine applyFences_kept ?_
      assumption
    · refine fenStore_kept ?_
      refine fenStore_kept ?_
      assumption

theorem noteOverrun_kept {kp : Keep} {src code blk t at' s} (hs : Kept kp s) :
    Kept kp (noteOverrun src code blk t at' s) := by
  unfold noteOverrun
  extract_lets +onlyGivenNames -merge -useContext x1; clear_value x1
  refine raiseAt_kept ?_
  refine Kept.upd rfl rfl ?_
  assumption

theorem tickOverrun_kept {kp : Keep} {w s} (hs : Kept kp s) :
    Kept kp (tickOverrun w s) := by
  unfold tickOverrun
  refine Kept.ite ?_ ?_
  · refine noteOverrun_kept ?_
    refine Kept.upd rfl rfl ?_
    assumption
  · assumption

theorem execTickOverrun_kept {kp : Keep} {w s} (hs : Kept kp s) :
    KeptO kp (execTickOverrun w s) := by
  unfold execTickOverrun
  refine KeptO.next ?_
  refine tickOverrun_kept ?_
  assumption

theorem toHoldover_kept {kp : Keep} {s} (hs : Kept kp s) :
    Kept kp (toHoldover s) := by
  unfold toHoldover
  extract_lets +onlyGivenNames -merge -useContext x1; clear_value x1
  extract_lets +onlyGivenNames -merge -useContext x2
  have hx2 : Kept kp x2 := by
    unfold x2
    refine setDisc_kept ?_
    assumption
  clear_value x2
  refine Kept.upd rfl rfl ?_
  assumption

theorem tickDiscWrite_kept {kp : Keep} {v s} (hs : Kept kp s) :
    Kept kp (tickDiscWrite v s) := by
  unfold tickDiscWrite
  extract_lets +onlyGivenNames -merge -useContext x1; clear_value x1
  extract_lets +onlyGivenNames -merge -useContext x2; clear_value x2
  extract_lets +onlyGivenNames -merge -useContext x3
  extract_lets +onlyGivenNames -merge -useContext x4
  have hx4 : Kept kp x4 := by
    unfold x4
    refine Kept.upd rfl rfl ?_
    assumption
  clear_value x4
  refine Kept.ite ?_ ?_
  · refine toHoldover_kept ?_
    assumption
  · assumption

theorem execTickDiscWrite_kept {kp : Keep} {a v s} (hs : Kept kp s) :
    KeptO kp (execTickDiscWrite a v s) := by
  unfold execTickDiscWrite
  refine KeptO.next ?_
  refine gateWrite_kept ?_ ?_
  · assumption
  · intro x1 h2
    refine tickDiscWrite_kept ?_
    assumption

theorem fenWrite_kept {kp : Keep} {a off v s} (hs : Kept kp s) :
    Kept kp (fenWrite a off v s) := by
  unfold fenWrite
  refine fenGate_kept ?_ ?_
  · assumption
  · intro x1 h2
    refine fenStore_kept ?_
    assumption

theorem disciplineLocked_kept {kp : Keep} {trim s} (hs : Kept kp s) :
    Kept kp (disciplineLocked trim s) := by
  unfold disciplineLocked
  refine Kept.ite ?_ ?_
  · refine setDisc_kept ?_
    refine Kept.upd rfl rfl ?_
    assumption
  · assumption

theorem execDisciplineLocked_kept {kp : Keep} {trim s} (hs : Kept kp s) :
    KeptO kp (execDisciplineLocked trim s) := by
  unfold execDisciplineLocked
  refine KeptO.next ?_
  refine disciplineLocked_kept ?_
  assumption

theorem fenRead_kept {kp : Keep} {off s} (hs : Kept kp s) :
    KeptS kp (fenRead off s) := by
  unfold fenRead
  refine KeptS.ite ?_ ?_
  · refine KeptS.mk ?_
    assumption
  · refine KeptS.ite ?_ ?_
    · refine KeptS.mk ?_
      assumption
    · refine KeptS.ite ?_ ?_
      · refine KeptS.mk ?_
        assumption
      · refine KeptS.ite ?_ ?_
        · refine KeptS.mk ?_
          assumption
        · refine KeptS.ite ?_ ?_
          · refine KeptS.mk ?_
            assumption
          · refine KeptS.ite ?_ ?_
            · refine KeptS.mk ?_
              refine Kept.upd rfl rfl ?_
              assumption
            · refine KeptS.ite ?_ ?_
              · extract_lets +onlyGivenNames -merge -useContext x1
                clear_value x1
                extract_lets +onlyGivenNames -merge -useContext x2; clear_value x2
                refine KeptS.mk ?_
                assumption
              · refine KeptS.mk ?_
                assumption

theorem execFenceApply_kept {kp : Keep} {a wide v s} (hs : Kept kp s) :
    KeptO kp (execFenceApply a wide v s) := by
  unfold execFenceApply
  refine KeptO.next ?_
  refine gateWrite_kept ?_ ?_
  · assumption
  · intro x1 h2
    refine Kept.ite ?_ ?_
    · refine fenWriteWide_kept ?_
      assumption
    · refine fenWrite_kept ?_
      assumption

theorem execFenceApplyLowLatch_kept {kp : Keep} {a v s} (hs : Kept kp s) :
    KeptO kp (execFenceApplyLowLatch a v s) := by
  unfold execFenceApplyLowLatch
  refine KeptO.next ?_
  refine gateWrite_kept ?_ ?_
  · assumption
  · intro x1 h2
    refine fenWrite_kept ?_
    assumption

theorem readLow_kept {kp : Keep} {a hiAddr v s} (hs : Kept kp s) :
    KeptS kp (readLow a hiAddr v s) := by
  unfold readLow
  refine KeptS.mk ?_
  refine State.latch_kept ?_
  assumption

theorem tickRead_kept {kp : Keep} {a off s} (hs : Kept kp s) :
    KeptS kp (tickRead a off s) := by
  unfold tickRead
  extract_lets +onlyGivenNames -merge -useContext x1
  extract_lets +onlyGivenNames -merge -useContext x2; clear_value x2
  extract_lets +onlyGivenNames -merge -useContext x3; clear_value x3
  refine KeptS.ite ?_ ?_
  · refine readLow_kept ?_
    assumption
  · refine KeptS.ite ?_ ?_
    · refine readHigh_kept ?_
      assumption
    · refine KeptS.ite ?_ ?_
      · refine KeptS.mk ?_
        refine State.latch_kept ?_
        assumption
      · refine KeptS.ite ?_ ?_
        · refine KeptS.mk ?_
          assumption
        · refine KeptS.ite ?_ ?_
          · refine KeptS.mk ?_
            assumption
          · refine KeptS.ite ?_ ?_
            · refine KeptS.mk ?_
              assumption
            · refine KeptS.ite ?_ ?_
              · refine KeptS.mk ?_
                assumption
              · refine KeptS.ite ?_ ?_
                · refine KeptS.mk ?_
                  assumption
                · refine KeptS.ite ?_ ?_
                  · refine KeptS.mk ?_
                    assumption
                  · refine KeptS.ite ?_ ?_
                    · extract_lets +onlyGivenNames -merge -useContext x4
                      clear_value x4
                      refine KeptS.mk ?_
                      refine Kept.upd rfl rfl ?_
                      assumption
                    · refine KeptS.mk ?_
                      assumption

theorem tickWrite_kept {kp : Keep} {off v s} (hs : Kept kp s) :
    Kept kp (tickWrite off v s) := by
  unfold tickWrite
  refine Kept.ite ?_ ?_
  · refine tickDiscWrite_kept ?_
    assumption
  · assumption

theorem evqConsWrite_kept {kp : Keep} {v s} (hs : Kept kp s) :
    Kept kp (evqConsWrite v s) := by
  unfold evqConsWrite
  extract_lets +onlyGivenNames -merge -useContext x1; clear_value x1
  refine Kept.ite ?_ ?_
  · refine writeOverflow_kept ?_
    refine Kept.upd rfl rfl ?_
    assumption
  · assumption

theorem sysWrite_kept {kp : Keep} {off v s} (hs : Kept kp s) :
    Kept kp (sysWrite off v s) := by
  unfold sysWrite
  extract_lets +onlyGivenNames -merge -useContext x1; clear_value x1
  refine Kept.ite ?_ ?_
  · refine Kept.ite ?_ ?_
    · assumption
    · refine Kept.upd rfl rfl ?_
      assumption
  · refine Kept.ite ?_ ?_
    · refine Kept.ite ?_ ?_
      · assumption
      · refine Kept.upd rfl rfl ?_
        assumption
    · refine Kept.ite ?_ ?_
      · refine evqCtlWrite_kept ?_
        assumption
      · refine Kept.ite ?_ ?_
        · refine evqConsWrite_kept ?_
          assumption
        · refine Kept.ite ?_ ?_
          · refine Kept.upd rfl rfl ?_
            assumption
          · refine Kept.ite ?_ ?_
            · refine swevt_kept ?_
              assumption
            · refine Kept.ite ?_ ?_
              · refine Kept.upd rfl rfl ?_
                assumption
              · assumption

theorem disciplineSourceLost_kept {kp : Keep} {s} (hs : Kept kp s) :
    Kept kp (disciplineSourceLost s) := by
  unfold disciplineSourceLost
  refine Kept.ite ?_ ?_
  · refine toHoldover_kept ?_
    assumption
  · refine Kept.upd rfl rfl ?_
    assumption

theorem execDisciplineSourceLost_kept {kp : Keep} {s} (hs : Kept kp s) :
    KeptO kp (execDisciplineSourceLost s) := by
  unfold execDisciplineSourceLost
  refine KeptO.next ?_
  refine disciplineSourceLost_kept ?_
  assumption

theorem subtickOverrun_kept {kp : Keep} {w s} (hs : Kept kp s) :
    Kept kp (subtickOverrun w s) := by
  unfold subtickOverrun
  extract_lets +onlyGivenNames -merge -useContext x1; clear_value x1
  refine Kept.ite ?_ ?_
  · refine noteOverrun_kept ?_
    refine Kept.upd rfl rfl ?_
    assumption
  · assumption

theorem execDisciplineAcquire_kept {kp : Keep} {src s} (hs : Kept kp s) :
    KeptO kp (execDisciplineAcquire src s) := by
  unfold execDisciplineAcquire
  refine KeptO.next ?_
  refine disciplineAcquire_kept ?_
  assumption

theorem sysRead_kept {kp : Keep} {a off s} (hs : Kept kp s) :
    KeptS kp (sysRead a off s) := by
  unfold sysRead
  extract_lets +onlyGivenNames -merge -useContext x1; clear_value x1
  extract_lets +onlyGivenNames -merge -useContext x2; clear_value x2
  refine KeptS.ite ?_ ?_
  · refine readLow_kept ?_
    assumption
  · refine KeptS.ite ?_ ?_
    · refine readHigh_kept ?_
      assumption
    · refine KeptS.ite ?_ ?_
      · refine readLow_kept ?_
        assumption
      · refine KeptS.ite ?_ ?_
        · refine readHigh_kept ?_
          assumption
        · refine KeptS.ite ?_ ?_
          · refine KeptS.mk ?_
            assumption
          · refine KeptS.ite ?_ ?_
            · refine KeptS.mk ?_
              assumption
            · refine KeptS.ite ?_ ?_
              · refine KeptS.mk ?_
                assumption
              · refine KeptS.ite ?_ ?_
                · refine readLow_kept ?_
                  assumption
                · refine KeptS.ite ?_ ?_
                  · refine readHigh_kept ?_
                    assumption
                  · refine KeptS.ite ?_ ?_
                    · refine KeptS.mk ?_
                      assumption
                    · refine KeptS.ite ?_ ?_
                      · refine KeptS.mk ?_
                        assumption
                      · refine KeptS.ite ?_ ?_
                        · refine KeptS.mk ?_
                          assumption
                        · refine KeptS.ite ?_ ?_
                          · refine KeptS.mk ?_
                            refine Kept.upd rfl rfl ?_
                            assumption
                          · refine KeptS.ite ?_ ?_
                            · refine KeptS.mk ?_
                              assumption
                            · refine KeptS.ite ?_ ?_
                              · refine KeptS.mk ?_
                                assumption
                              · refine KeptS.mk ?_
                                assumption

theorem disciplineTick_kept {kp : Keep} {trim err s} (hs : Kept kp s) :
    Kept kp (disciplineTick trim err s) := by
  unfold disciplineTick
  extract_lets +onlyGivenNames -merge -useContext x1
  extract_lets +onlyGivenNames -merge -useContext x2
  extract_lets +onlyGivenNames -merge -useContext x3
  have hx3 : Kept kp x3 := by
    unfold x3
    refine Kept.ite ?_ ?_
    · refine Kept.upd rfl rfl ?_
      assumption
    · assumption
  clear_value x3
  split
  · rename_i x4 h5
    assumption
  · rename_i x6 x7 h8
    refine Kept.upd rfl rfl ?_
    assumption

theorem execSubtickOverrun_kept {kp : Keep} {w s} (hs : Kept kp s) :
    KeptO kp (execSubtickOverrun w s) := by
  unfold execSubtickOverrun
  refine KeptO.next ?_
  refine subtickOverrun_kept ?_
  assumption

theorem execEvqConsWrite_kept {kp : Keep} {a v s} (hs : Kept kp s) :
    KeptO kp (execEvqConsWrite a v s) := by
  unfold execEvqConsWrite
  refine KeptO.next ?_
  refine gateWrite_kept ?_ ?_
  · assumption
  · intro x1 h2
    refine evqConsWrite_kept ?_
    assumption

end Sys2Proof.Machine
end

