-- ==== Sys2Proof/Laws/KeptLoops.lean ====
section
/-!
SUPPORT. What the operations of Sys2Proof/Machine/Loops.lean keep (see Sys2Proof/Laws/Kept.lean).
-/

namespace Sys2Proof.Machine

theorem imuPropagate_kept {kp : Keep} {b s} (hs : Kept kp s) :
    Kept kp (imuPropagate b s) := by
  unfold imuPropagate
  split
  · rename_i x1 h2
    assumption
  · rename_i x3 x4 x5 h6
    refine Kept.ite ?_ ?_
    · assumption
    · extract_lets +onlyGivenNames -merge -useContext x7
      clear_value x7
      extract_lets +onlyGivenNames -merge -useContext x8; clear_value x8
      refine Kept.upd rfl rfl ?_
      assumption

theorem State.setGch_kept {kp : Keep} {s c x} (hs : Kept kp s) :
    Kept kp (State.setGch s c x) := by
  unfold State.setGch
  refine Kept.upd rfl rfl ?_
  assumption

end Sys2Proof.Machine
end

