-- ==== Sys2Proof/Laws/KeptGnss.lean ====
section
/-!
SUPPORT. What the operations of Sys2Proof/Machine/Gnss.lean keep (see Sys2Proof/Laws/Kept.lean).
-/

namespace Sys2Proof.Machine

theorem keepPart_kept {kp : Keep} {sig sv part bs s} (hs : Kept kp s) :
    Kept kp (keepPart sig sv part bs s) := by
  unfold keepPart
  refine Kept.upd rfl rfl ?_
  assumption

theorem noteEphemeris_kept {kp : Keep} {sig sv s} (hs : Kept kp s) :
    Kept kp (noteEphemeris sig sv s) := by
  unfold noteEphemeris
  refine Kept.ite ?_ ?_
  · assumption
  · refine Kept.upd rfl rfl ?_
    assumption

theorem navTake_kept {kp : Keep} {x m s} (hs : Kept kp s) :
    Kept kp (navTake x m s) := by
  unfold navTake
  extract_lets +onlyGivenNames -merge -useContext x1
  have hx1 : Kept kp x1 := by
    unfold x1
    split
    · rename_i x2 h3
      assumption
    · rename_i x4 x5 x6 h7
      extract_lets +onlyGivenNames -merge -useContext x8
      have hx8 : Kept kp x8 := by
        unfold x8
        refine keepPart_kept ?_
        assumption
      clear_value x8
      refine Kept.ite ?_ ?_
      · refine noteEphemeris_kept ?_
        assumption
      · assumption
  clear_value x1
  refine Kept.ite ?_ ?_
  · refine Kept.upd rfl rfl ?_
    assumption
  · assumption

theorem ppsAt_kept {kp : Keep} {g s} (hs : Kept kp s) :
    Kept kp (ppsAt g s) := by
  unfold ppsAt
  extract_lets +onlyGivenNames -merge -useContext x1; clear_value x1
  refine Kept.upd rfl rfl ?_
  assumption

theorem timeStep_kept {kp : Keep} {s} (hs : Kept kp s) :
    Kept kp (timeStep s) := by
  unfold timeStep
  extract_lets +onlyGivenNames -merge -useContext x1; clear_value x1
  split
  · rename_i x2 h3
    assumption
  · rename_i x4 x5 h6
    extract_lets +onlyGivenNames -merge -useContext x7; clear_value x7
    split
    rename_i x8 x9 x10 h11
    refine State.reach_kept ?_ ?_
    · assumption
    · intro x12 h13
      extract_lets +onlyGivenNames -merge -useContext x14; clear_value x14
      extract_lets +onlyGivenNames -merge -useContext x15
      have hx15 : Kept kp x15 := by
        unfold x15
        refine Kept.upd rfl rfl ?_
        assumption
      clear_value x15
      refine Kept.ite ?_ ?_
      · assumption
      · refine raiseEv_kept ?_
        refine ppsAt_kept ?_
        assumption

theorem tmapEvent_kept {kp : Keep} {code g s} (hs : Kept kp s) :
    Kept kp (tmapEvent code g s) := by
  unfold tmapEvent
  refine raiseEv_kept ?_
  assumption

theorem adoptOwn_kept {kp : Keep} {g s} (hs : Kept kp s) :
    Kept kp (adoptOwn g s) := by
  unfold adoptOwn
  split
  · rename_i x1 h2
    assumption
  · rename_i x3 x4 h5
    refine Kept.ite ?_ ?_
    · assumption
    · extract_lets +onlyGivenNames -merge -useContext x6
      clear_value x6
      extract_lets +onlyGivenNames -merge -useContext x7; clear_value x7
      extract_lets +onlyGivenNames -merge -useContext x8
      have hx8 : Kept kp x8 := by
        unfold x8
        refine raiseAt_kept ?_
        assumption
      clear_value x8
      refine Kept.ite ?_ ?_
      · refine Kept.upd rfl rfl ?_
        assumption
      · extract_lets +onlyGivenNames -merge -useContext x9
        clear_value x9
        extract_lets +onlyGivenNames -merge -useContext x10; clear_value x10
        refine Kept.ite ?_ ?_
        · refine Kept.upd rfl rfl ?_
          assumption
        · refine Kept.ite ?_ ?_
          · refine tmapEvent_kept ?_
            refine Kept.upd rfl rfl ?_
            assumption
          · refine Kept.upd rfl rfl ?_
            assumption

theorem coastEvent_kept {kp : Keep} {was s} (hs : Kept kp s) :
    Kept kp (coastEvent was s) := by
  unfold coastEvent
  extract_lets +onlyGivenNames -merge -useContext x1; clear_value x1
  refine Kept.ite ?_ ?_
  · refine raiseAt_kept ?_
    assumption
  · refine Kept.ite ?_ ?_
    · refine raiseAt_kept ?_
      assumption
    · assumption

theorem setChState_kept {kp : Keep} {c st s} (hs : Kept kp s) :
    Kept kp (setChState c st s) := by
  unfold setChState
  extract_lets +onlyGivenNames -merge -useContext x1; clear_value x1
  refine coastEvent_kept ?_
  refine State.setGch_kept ?_
  assumption

theorem searchTimeout_kept {kp : Keep} {c s} (hs : Kept kp s) :
    Kept kp (searchTimeout c s) := by
  unfold searchTimeout
  refine Kept.ite ?_ ?_
  · refine setChState_kept ?_
    assumption
  · assumption

theorem gnssLost_kept {kp : Keep} {s} (hs : Kept kp s) :
    Kept kp (gnssLost s) := by
  unfold gnssLost
  refine Kept.ite ?_ ?_
  · refine disciplineSourceLost_kept ?_
    assumption
  · assumption

theorem tmapHold_kept {kp : Keep} {g s} (hs : Kept kp s) :
    Kept kp (tmapHold g s) := by
  unfold tmapHold
  extract_lets +onlyGivenNames -merge -useContext x1; clear_value x1
  extract_lets +onlyGivenNames -merge -useContext x2; clear_value x2
  extract_lets +onlyGivenNames -merge -useContext x3
  have hx3 : Kept kp x3 := by
    unfold x3
    refine Kept.upd rfl rfl ?_
    assumption
  clear_value x3
  refine tmapEvent_kept ?_
  assumption

theorem tmapFix_kept {kp : Keep} {g trueNs tunc rate s} (hs : Kept kp s) :
    Kept kp (tmapFix g trueNs tunc rate s) := by
  unfold tmapFix
  extract_lets +onlyGivenNames -merge -useContext x1; clear_value x1
  extract_lets +onlyGivenNames -merge -useContext x2; clear_value x2
  split
  · rename_i x3 h4
    refine tmapEvent_kept ?_
    refine Kept.upd rfl rfl ?_
    assumption
  · rename_i x5 h6
    refine Kept.upd rfl rfl ?_
    assumption
  · rename_i x7 h8
    refine Kept.upd rfl rfl ?_
    assumption
  · rename_i x9 h10
    refine Kept.ite ?_ ?_
    · assumption
    · refine Kept.ite ?_ ?_
      · extract_lets +onlyGivenNames -merge -useContext x11
        clear_value x11
        extract_lets +onlyGivenNames -merge -useContext x12
        have hx12 : Kept kp x12 := by
          unfold x12
          refine Kept.upd rfl rfl ?_
          assumption
        clear_value x12
        refine tmapEvent_kept ?_
        refine tmapEvent_kept ?_
        assumption
      · refine tmapEvent_kept ?_
        refine Kept.upd rfl rfl ?_
        assumption

theorem tmapInstant_kept {kp : Keep} {m g s} (hs : Kept kp s) :
    Kept kp (tmapInstant m g s) := by
  unfold tmapInstant
  extract_lets +onlyGivenNames -merge -useContext x1; clear_value x1
  extract_lets +onlyGivenNames -merge -useContext x2; clear_value x2
  refine Kept.ite ?_ ?_
  · refine Kept.ite ?_ ?_
    · refine gnssLost_kept ?_
      refine tmapHold_kept ?_
      assumption
    · assumption
  · refine Kept.ite ?_ ?_
    · refine tmapFix_kept ?_
      assumption
    · assumption

theorem State.setAnt_kept {kp : Keep} {s two x} (hs : Kept kp s) :
    Kept kp (State.setAnt s two x) := by
  unfold State.setAnt
  refine Kept.ite ?_ ?_
  · refine Kept.upd rfl rfl ?_
    assumption
  · refine Kept.upd rfl rfl ?_
    assumption

theorem antState_kept {kp : Keep} {two st s} (hs : Kept kp s) :
    Kept kp (antState two st s) := by
  unfold antState
  extract_lets +onlyGivenNames -merge -useContext x1; clear_value x1
  refine Kept.ite ?_ ?_
  · assumption
  · refine raise_kept ?_
    refine State.setAnt_kept ?_
    assumption

theorem antennaChange_kept {kp : Keep} {two mA short s} (hs : Kept kp s) :
    Kept kp (antennaChange two mA short s) := by
  unfold antennaChange
  extract_lets +onlyGivenNames -merge -useContext x1; clear_value x1
  refine Kept.ite ?_ ?_
  · assumption
  · refine Kept.ite ?_ ?_
    · refine antState_kept ?_
      refine State.setAnt_kept ?_
      assumption
    · refine antState_kept ?_
      refine State.setAnt_kept ?_
      assumption

theorem sweepCh_kept {kp : Keep} {p st s} (hs : Kept kp s) :
    Kept kp (sweepCh p st s) := by
  unfold sweepCh
  extract_lets +onlyGivenNames -merge -useContext x1; clear_value x1
  refine coastEvent_kept ?_
  refine Kept.upd rfl rfl ?_
  assumption

theorem aidTick_kept {kp : Keep} {b s} (hs : Kept kp s) :
    Kept kp (aidTick b s) := by
  unfold aidTick
  extract_lets +onlyGivenNames -merge -useContext x1; clear_value x1
  refine Kept.ite ?_ ?_
  · assumption
  · extract_lets +onlyGivenNames -merge -useContext x2
    clear_value x2
    extract_lets +onlyGivenNames -merge -useContext x3
    have hx3 : Kept kp x3 := by
      unfold x3
      refine raiseAt_kept ?_
      refine Kept.upd rfl rfl ?_
      assumption
    clear_value x3
    refine Kept.ite ?_ ?_
    · refine sweepCh_kept ?_
      assumption
    · assumption

theorem allocate_kept {kp : Keep} {s q} (hs : Kept kp s) :
    Kept kp (allocate s q) := by
  unfold allocate
  refine Kept.ite ?_ ?_
  · assumption
  · split
    · rename_i x1 h2
      assumption
    · rename_i x3 x4 h5
      refine State.setGch_kept ?_
      assumption

theorem reexamine_kept {kp : Keep} {cands s} (hs : Kept kp s) :
    Kept kp (reexamine cands s) := by
  unfold reexamine
  extract_lets +onlyGivenNames -merge -useContext x1; clear_value x1
  extract_lets +onlyGivenNames -merge -useContext x2; clear_value x2
  refine Kept.ite ?_ ?_
  · assumption
  · extract_lets +onlyGivenNames -merge -useContext x3
    clear_value x3
    extract_lets +onlyGivenNames -merge -useContext x4; clear_value x4
    extract_lets +onlyGivenNames -merge -useContext x5
    have hx5 : Kept kp x5 := by
      unfold x5
      refine sweepCh_kept ?_
      refine Kept.upd rfl rfl ?_
      assumption
    clear_value x5
    refine Kept.foldl ?_ ?_
    · intro x6 x7 h8
      refine allocate_kept ?_
      assumption
    · assumption

theorem solve_kept {kp : Keep} {m g s} (hs : Kept kp s) :
    Kept kp (solve m g s) := by
  unfold solve
  extract_lets +onlyGivenNames -merge -useContext x1; clear_value x1
  extract_lets +onlyGivenNames -merge -useContext x2; clear_value x2
  extract_lets +onlyGivenNames -merge -useContext x3; clear_value x3
  extract_lets +onlyGivenNames -merge -useContext x4; clear_value x4
  extract_lets +onlyGivenNames -merge -useContext x5; clear_value x5
  extract_lets +onlyGivenNames -merge -useContext x6; clear_value x6
  extract_lets +onlyGivenNames -merge -useContext x7
  have hx7 : Kept kp x7 := by
    unfold x7
    refine Kept.upd rfl rfl ?_
    assumption
  clear_value x7
  extract_lets +onlyGivenNames -merge -useContext x8
  have hx8 : Kept kp x8 := by
    unfold x8
    refine Kept.ite ?_ ?_
    · assumption
    · refine raiseAt_kept ?_
      assumption
  clear_value x8
  extract_lets +onlyGivenNames -merge -useContext x9
  have hx9 : Kept kp x9 := by
    unfold x9
    refine Kept.ite ?_ ?_
    · assumption
    · refine raiseAt_kept ?_
      assumption
  clear_value x9
  refine Kept.ite ?_ ?_
  · assumption
  · extract_lets +onlyGivenNames -merge -useContext x10
    clear_value x10
    refine Kept.foldl ?_ ?_
    · intro x11 x12 h13
      refine publishLate_kept ?_
      assumption
    · assumption

theorem antennaRetry_kept {kp : Keep} {two s} (hs : Kept kp s) :
    Kept kp (antennaRetry two s) := by
  unfold antennaRetry
  extract_lets +onlyGivenNames -merge -useContext x1; clear_value x1
  refine Kept.ite ?_ ?_
  · refine State.setAnt_kept ?_
    assumption
  · assumption

theorem ppsEdge_kept {kp : Keep} {s} (hs : Kept kp s) :
    Kept kp (ppsEdge s) := by
  unfold ppsEdge
  extract_lets +onlyGivenNames -merge -useContext x1; clear_value x1
  extract_lets +onlyGivenNames -merge -useContext x2; clear_value x2
  extract_lets +onlyGivenNames -merge -useContext x3; clear_value x3
  split
  · rename_i x4
    assumption
  · rename_i x5 x6 x7
    refine State.reach_kept ?_ ?_
    · assumption
    · intro x8 h9
      extract_lets +onlyGivenNames -merge -useContext x10; clear_value x10
      extract_lets +onlyGivenNames -merge -useContext x11; clear_value x11
      extract_lets +onlyGivenNames -merge -useContext x12
      have hx12 : Kept kp x12 := by
        unfold x12
        refine adoptOwn_kept ?_
        refine Kept.upd rfl rfl ?_
        assumption
      clear_value x12
      refine ppsAt_kept ?_
      assumption

theorem gnbErr_kept {kp : Keep} {opc reason word s} (hs : Kept kp s) :
    Kept kp (gnbErr opc reason word s) := by
  unfold gnbErr
  refine Kept.upd rfl rfl ?_
  assumption

theorem pullInLock_kept {kp : Keep} {c s} (hs : Kept kp s) :
    Kept kp (pullInLock c s) := by
  unfold pullInLock
  refine Kept.ite ?_ ?_
  · extract_lets +onlyGivenNames -merge -useContext x1
    have hx1 : Kept kp x1 := by
      unfold x1
      refine setChState_kept ?_
      assumption
    clear_value x1
    refine State.setGch_kept ?_
    assumption
  · assumption

theorem trackLoss_kept {kp : Keep} {c s} (hs : Kept kp s) :
    Kept kp (trackLoss c s) := by
  unfold trackLoss
  refine Kept.ite ?_ ?_
  · refine setChState_kept ?_
    assumption
  · assumption

theorem navInstant_kept {kp : Keep} {g s} (hs : Kept kp s) :
    Kept kp (navInstant g s) := by
  unfold navInstant
  extract_lets +onlyGivenNames -merge -useContext x1
  have hx1 : Kept kp x1 := by
    unfold x1
    split
    · rename_i x2 h3
      assumption
    · rename_i x4 x5 h6
      extract_lets +onlyGivenNames -merge -useContext x7; clear_value x7
      refine finishOp_kept ?_
      assumption
  refine Kept.ite ?_ ?_
  · assumption
  · refine raiseAt_kept ?_
    refine Kept.upd rfl rfl ?_
    assumption

theorem measBegin_kept {kp : Keep} {s} (hs : Kept kp s) :
    Kept kp (measBegin s) := by
  unfold measBegin
  refine Kept.upd rfl rfl ?_
  assumption

theorem pullInTimeout_kept {kp : Keep} {c s} (hs : Kept kp s) :
    Kept kp (pullInTimeout c s) := by
  unfold pullInTimeout
  refine Kept.ite ?_ ?_
  · refine setChState_kept ?_
    assumption
  · assumption

theorem antCtlWrite_kept {kp : Keep} {v s} (hs : Kept kp s) :
    Kept kp (antCtlWrite v s) := by
  unfold antCtlWrite
  extract_lets +onlyGivenNames -merge -useContext x1
  have hx1 : ∀ y1 y2, Kept kp y2 → Kept kp (x1 y1 y2) := by
    unfold x1
    intro x2 x3 h4
    extract_lets +onlyGivenNames -merge -useContext x5; clear_value x5
    extract_lets +onlyGivenNames -merge -useContext x6; clear_value x6
    refine Kept.ite ?_ ?_
    · refine State.setAnt_kept ?_
      assumption
    · refine Kept.ite ?_ ?_
      · refine antState_kept ?_
        refine State.setAnt_kept ?_
        assumption
      · assumption
  clear_value x1
  extract_lets +onlyGivenNames -merge -useContext x7
  have hx7 : Kept kp x7 := by
    unfold x7
    apply hx1
    apply hx1
    assumption
  clear_value x7
  refine Kept.upd rfl rfl ?_
  assumption

theorem measOut_kept {kp : Keep} {g s} (hs : Kept kp s) :
    Kept kp (measOut g s) := by
  unfold measOut
  extract_lets +onlyGivenNames -merge -useContext x1; clear_value x1
  split
  · rename_i x2 h3
    refine raiseAt_kept ?_
    assumption
  · rename_i x4 x5 h6
    refine writeOut_kept ?_
    assumption

theorem corrCheck_kept {kp : Keep} {g s} (hs : Kept kp s) :
    Kept kp (corrCheck g s) := by
  unfold corrCheck
  split
  · rename_i x1 h2
    assumption
  · rename_i x3 x4 h5
    refine Kept.ite ?_ ?_
    · refine raiseAt_kept ?_
      refine Kept.upd rfl rfl ?_
      assumption
    · assumption

theorem measWork_kept {kp : Keep} {m g s} (hs : Kept kp s) :
    Kept kp (measWork m g s) := by
  unfold measWork
  refine measBegin_kept ?_
  refine measOut_kept ?_
  refine tmapInstant_kept ?_
  refine solve_kept ?_
  refine corrCheck_kept ?_
  assumption

theorem spacingWrite_kept {kp : Keep} {k v s} (hs : Kept kp s) :
    Kept kp (spacingWrite k v s) := by
  unfold spacingWrite
  extract_lets +onlyGivenNames -merge -useContext x1; clear_value x1
  extract_lets +onlyGivenNames -merge -useContext x2; clear_value x2
  refine Kept.ite ?_ ?_
  · refine Kept.upd rfl rfl ?_
    assumption
  · refine gnbErr_kept ?_
    assumption

theorem coastReacquire_kept {kp : Keep} {c phase s} (hs : Kept kp s) :
    Kept kp (coastReacquire c phase s) := by
  unfold coastReacquire
  refine Kept.ite ?_ ?_
  · extract_lets +onlyGivenNames -merge -useContext x1
    clear_value x1
    extract_lets +onlyGivenNames -merge -useContext x2
    have hx2 : Kept kp x2 := by
      unfold x2
      refine setChState_kept ?_
      assumption
    clear_value x2
    refine Kept.ite ?_ ?_
    · assumption
    · refine State.setGch_kept ?_
      assumption
  · assumption

theorem measurementInstant_kept {kp : Keep} {m s} (hs : Kept kp s) :
    Kept kp (measurementInstant m s) := by
  unfold measurementInstant
  extract_lets +onlyGivenNames -merge -useContext x1; clear_value x1
  extract_lets +onlyGivenNames -merge -useContext x2; clear_value x2
  refine Kept.ite ?_ ?_
  · assumption
  · extract_lets +onlyGivenNames -merge -useContext x3
    clear_value x3
    extract_lets +onlyGivenNames -merge -useContext x4
    have hx4 : Kept kp x4 := by
      unfold x4
      refine Kept.upd rfl rfl ?_
      assumption
    clear_value x4
    refine navInstant_kept ?_
    refine Kept.ite ?_ ?_
    · refine Kept.upd rfl rfl ?_
      assumption
    · refine measWork_kept ?_
      assumption

theorem navWrite_kept {kp : Keep} {c bs s} (hs : Kept kp s) :
    Kept kp (navWrite c bs s) := by
  unfold navWrite
  extract_lets +onlyGivenNames -merge -useContext x1; clear_value x1
  split
  rename_i x2 x3 x4 h5
  have h6 : Kept kp x3 := by
    refine KeptF.of_eq h5 ?_
    refine writeBuffer_kept ?_
    assumption
  refine Kept.ite ?_ ?_
  · refine failOp_kept ?_
    assumption
  · refine Kept.ite ?_ ?_
    · refine finishOp_kept ?_
      assumption
    · refine State.setOp_kept ?_
      assumption

theorem navMessage_kept {kp : Keep} {m s} (hs : Kept kp s) :
    Kept kp (navMessage m s) := by
  unfold navMessage
  extract_lets +onlyGivenNames -merge -useContext x1; clear_value x1
  refine Kept.ite ?_ ?_
  · assumption
  · extract_lets +onlyGivenNames -merge -useContext x2
    clear_value x2
    extract_lets +onlyGivenNames -merge -useContext x3
    have hx3 : Kept kp x3 := by
      unfold x3
      refine Kept.upd rfl rfl ?_
      assumption
    clear_value x3
    extract_lets +onlyGivenNames -merge -useContext x4
    have hx4 : Kept kp x4 := by
      unfold x4
      refine Kept.ite ?_ ?_
      · refine navTake_kept ?_
        assumption
      · assumption
    clear_value x4
    split
    · rename_i x5 h6
      refine Kept.upd rfl rfl ?_
      assumption
    · rename_i x7 x8 h9
      refine navWrite_kept ?_
      assumption

theorem channelDetection_kept {kp : Keep} {c code dop s} (hs : Kept kp s) :
    Kept kp (channelDetection c code dop s) := by
  unfold channelDetection
  refine Kept.ite ?_ ?_
  · refine setChState_kept ?_
    refine State.setGch_kept ?_
    assumption
  · assumption

theorem slewComplete_kept {kp : Keep} {s} (hs : Kept kp s) :
    Kept kp (slewComplete s) := by
  unfold slewComplete
  extract_lets +onlyGivenNames -merge -useContext x1; clear_value x1
  refine Kept.ite ?_ ?_
  · assumption
  · refine State.reach_kept ?_ ?_
    · assumption
    · intro x2 h3
      extract_lets +onlyGivenNames -merge -useContext x4; clear_value x4
      refine tmapEvent_kept ?_
      refine Kept.upd rfl rfl ?_
      assumption

theorem coastTimeout_kept {kp : Keep} {c s} (hs : Kept kp s) :
    Kept kp (coastTimeout c s) := by
  unfold coastTimeout
  refine Kept.ite ?_ ?_
  · refine setChState_kept ?_
    assumption
  · assumption

end Sys2Proof.Machine
end

