-- ==== Sys2Proof/Laws/KeptGnssOps.lean ====
section
/-!
SUPPORT. What the operations of Sys2Proof/Machine/GnssOps.lean keep (see Sys2Proof/Laws/Kept.lean).
-/

namespace Sys2Proof.Machine

theorem gnbHalt_kept {kp : Keep} {b s} (hs : Kept kp s) :
    Kept kp (gnbHalt b s) := by
  unfold gnbHalt
  extract_lets +onlyGivenNames -merge -useContext x1; clear_value x1
  extract_lets +onlyGivenNames -merge -useContext x2
  have hx2 : Kept kp x2 := by
    unfold x2
    refine sweepCh_kept ?_
    refine Kept.upd rfl rfl ?_
    assumption
  clear_value x2
  extract_lets +onlyGivenNames -merge -useContext x3; clear_value x3
  extract_lets +onlyGivenNames -merge -useContext x4; clear_value x4
  extract_lets +onlyGivenNames -merge -useContext x5; clear_value x5
  extract_lets +onlyGivenNames -merge -useContext x6
  have hx6 : Kept kp x6 := by
    unfold x6
    refine Kept.ite ?_ ?_
    · refine gnssLost_kept ?_
      refine tmapHold_kept ?_
      assumption
    · refine gnssLost_kept ?_
      refine Kept.upd rfl rfl ?_
      assumption
  clear_value x6
  refine Kept.foldl ?_ ?_
  · intro x7 x8 h9
    refine finishOp_kept ?_
    assumption
  · assumption

theorem channelsTick_kept {kp : Keep} {b p corr s} (hs : Kept kp s) :
    Kept kp (channelsTick b p corr s) := by
  unfold channelsTick
  extract_lets +onlyGivenNames -merge -useContext x1; clear_value x1
  refine Kept.upd rfl rfl ?_
  assumption

theorem tmapRead_kept {kp : Keep} {a off s} (hs : Kept kp s) :
    KeptS kp (tmapRead a off s) := by
  unfold tmapRead
  extract_lets +onlyGivenNames -merge -useContext x1; clear_value x1
  refine KeptS.ite ?_ ?_
  · refine KeptS.mk ?_
    refine Kept.foldl ?_ ?_
    · intro x2 x3 h4
      refine State.latch_kept ?_
      assumption
    · assumption
  · refine shadowed_kept ?_
    assumption

theorem gnbRead_kept {kp : Keep} {a off s} (hs : Kept kp s) :
    KeptS kp (gnbRead a off s) := by
  unfold gnbRead
  extract_lets +onlyGivenNames -merge -useContext x1; clear_value x1
  refine KeptS.ite ?_ ?_
  · refine KeptS.mk ?_
    assumption
  · refine KeptS.ite ?_ ?_
    · refine KeptS.mk ?_
      assumption
    · refine KeptS.ite ?_ ?_
      · refine KeptS.mk ?_
        assumption
      · refine KeptS.ite ?_ ?_
        · refine KeptS.mk ?_
          assumption
        · refine KeptS.ite ?_ ?_
          · refine KeptS.mk ?_
            assumption
          · refine KeptS.ite ?_ ?_
            · refine KeptS.mk ?_
              assumption
            · refine KeptS.ite ?_ ?_
              · refine KeptS.mk ?_
                refine Kept.upd rfl rfl ?_
                assumption
              · refine KeptS.ite ?_ ?_
                · refine KeptS.mk ?_
                  refine Kept.upd rfl rfl ?_
                  assumption
                · refine KeptS.ite ?_ ?_
                  · refine KeptS.mk ?_
                    assumption
                  · refine KeptS.ite ?_ ?_
                    · refine KeptS.mk ?_
                      refine Kept.upd rfl rfl ?_
                      assumption
                    · refine KeptS.ite ?_ ?_
                      · refine KeptS.mk ?_
                        assumption
                      · refine KeptS.ite ?_ ?_
                        · refine KeptS.mk ?_
                          assumption
                        · refine KeptS.ite ?_ ?_
                          · refine tmapRead_kept ?_
                            assumption
                          · refine KeptS.ite ?_ ?_
                            · refine KeptS.mk ?_
                              assumption
                            · refine KeptS.ite ?_ ?_
                              · refine KeptS.mk ?_
                                assumption
                              · refine KeptS.ite ?_ ?_
                                · refine KeptS.mk ?_
                                  assumption
                                · refine KeptS.ite ?_ ?_
                                  · refine KeptS.mk ?_
                                    assumption
                                  · refine KeptS.mk ?_
                                    assumption

theorem snapList_kept {kp : Keep} {c s} (hs : Kept kp s) :
    Kept kp (snapList c s) := by
  unfold snapList
  refine needBuffer_kept ?_ ?_
  · assumption
  · intro x1 h2
    refine Kept.ite ?_ ?_
    · refine failOp_kept ?_
      assumption
    · extract_lets +onlyGivenNames -merge -useContext x3
      clear_value x3
      extract_lets +onlyGivenNames -merge -useContext x4; clear_value x4
      extract_lets +onlyGivenNames -merge -useContext x5; clear_value x5
      refine writeOut_kept ?_
      assumption

theorem execSnapList_kept {kp : Keep} {n s} (hs : Kept kp s) :
    KeptO kp (execSnapList n s) := by
  unfold execSnapList
  refine KeptO.next ?_
  refine takeOp_kept ?_ ?_
  · intro x1 x2 h3
    refine snapList_kept ?_
    assumption
  · assumption

theorem gnbSchema_kept {kp : Keep} {c xfer reason word s} (hs : Kept kp s) :
    Kept kp (gnbSchema c xfer reason word s) := by
  unfold gnbSchema
  refine failOp_kept ?_
  refine gnbErr_kept ?_
  assumption

theorem snapRead_kept {kp : Keep} {c s} (hs : Kept kp s) :
    Kept kp (snapRead c s) := by
  unfold snapRead
  refine needBuffer_kept ?_ ?_
  · assumption
  · intro x1 h2
    refine Kept.ite ?_ ?_
    · refine failOp_kept ?_
      assumption
    · split
      · rename_i x3 h4
        refine gnbSchema_kept ?_
        assumption
      · rename_i x5 x6 h7
        refine writeOut_kept ?_
        assumption

theorem execSnapRead_kept {kp : Keep} {n s} (hs : Kept kp s) :
    KeptO kp (execSnapRead n s) := by
  unfold execSnapRead
  refine KeptO.next ?_
  refine takeOp_kept ?_ ?_
  · intro x1 x2 h3
    refine snapRead_kept ?_
    assumption
  · assumption

theorem gnbStopNow_kept {kp : Keep} {s} (hs : Kept kp s) :
    Kept kp (gnbStopNow s) := by
  unfold gnbStopNow
  refine Kept.ite ?_ ?_
  · refine Kept.upd rfl rfl ?_
    assumption
  · refine Kept.upd rfl rfl ?_
    assumption

theorem gnbReset_kept {kp : Keep} {s} (hs : Kept kp s) :
    Kept kp (gnbReset s) := by
  unfold gnbReset
  refine Kept.upd rfl rfl ?_
  assumption

theorem gnbStore_kept {kp : Keep} {s} (hs : Kept kp s) :
    Kept kp (gnbStore s) := by
  unfold gnbStore
  extract_lets +onlyGivenNames -merge -useContext x1; clear_value x1
  extract_lets +onlyGivenNames -merge -useContext x2; clear_value x2
  extract_lets +onlyGivenNames -merge -useContext x3; clear_value x3
  refine Kept.upd rfl rfl ?_
  assumption

theorem bandTick_kept {kp : Keep} {b s} (hs : Kept kp s) :
    Kept kp (bandTick b s) := by
  unfold bandTick
  split
  · rename_i x1 h2
    assumption
  · rename_i x3 x4 h5
    extract_lets +onlyGivenNames -merge -useContext x6; clear_value x6
    extract_lets +onlyGivenNames -merge -useContext x7
    have hx7 : Kept kp x7 := by
      unfold x7
      refine Kept.upd rfl rfl ?_
      assumption
    clear_value x7
    refine Kept.ite ?_ ?_
    · assumption
    · refine sweepCh_kept ?_
      refine raiseAt_kept ?_
      refine Kept.upd rfl rfl ?_
      assumption

theorem startTickGnb_kept {kp : Keep} {b s} (hs : Kept kp s) :
    Kept kp (startTickGnb b s) := by
  unfold startTickGnb
  split
  · rename_i x1 h2
    assumption
  · rename_i x3 x4 h5
    refine Kept.ite ?_ ?_
    · refine Kept.upd rfl rfl ?_
      assumption
    · assumption

theorem gnbTick_kept {kp : Keep} {b corr s} (hs : Kept kp s) :
    Kept kp (gnbTick b corr s) := by
  unfold gnbTick
  extract_lets +onlyGivenNames -merge -useContext x1; clear_value x1
  extract_lets +onlyGivenNames -merge -useContext x2
  have hx2 : Kept kp x2 := by
    unfold x2
    refine bandTick_kept ?_
    assumption
  clear_value x2
  extract_lets +onlyGivenNames -merge -useContext x3
  have hx3 : Kept kp x3 := by
    unfold x3
    refine Kept.ite ?_ ?_
    · refine gnbHalt_kept ?_
      assumption
    · refine startTickGnb_kept ?_
      assumption
  clear_value x3
  extract_lets +onlyGivenNames -merge -useContext x4; clear_value x4
  extract_lets +onlyGivenNames -merge -useContext x5
  have hx5 : Kept kp x5 := by
    unfold x5
    refine Kept.upd rfl rfl ?_
    assumption
  clear_value x5
  extract_lets +onlyGivenNames -merge -useContext x6
  have hx6 : Kept kp x6 := by
    unfold x6
    refine Kept.ite ?_ ?_
    · assumption
    · refine imuPropagate_kept ?_
      refine aidTick_kept ?_
      assumption
  clear_value x6
  refine channelsTick_kept ?_
  assumption

theorem leadMapping_kept {kp : Keep} {q s} (hs : Kept kp s) :
    Kept kp (leadMapping q s) := by
  unfold leadMapping
  extract_lets +onlyGivenNames -merge -useContext x1; clear_value x1
  extract_lets +onlyGivenNames -merge -useContext x2; clear_value x2
  extract_lets +onlyGivenNames -merge -useContext x3; clear_value x3
  extract_lets +onlyGivenNames -merge -useContext x4
  have hx4 : Kept kp x4 := by
    unfold x4
    refine Kept.upd rfl rfl ?_
    assumption
  clear_value x4
  refine Kept.ite ?_ ?_
  · assumption
  · refine raise_kept ?_
    assumption

theorem execCoastTimeout_kept {kp : Keep} {c s} (hs : Kept kp s) :
    KeptO kp (execCoastTimeout c s) := by
  unfold execCoastTimeout
  refine whileOn_kept ?_ ?_
  · assumption
  · intro x1 h2
    refine coastTimeout_kept ?_
    assumption

theorem execAntennaStateChange_kept {kp : Keep} {ant2 mA short s} (hs : Kept kp s) :
    KeptO kp (execAntennaStateChange ant2 mA short s) := by
  unfold execAntennaStateChange
  refine whileOn_kept ?_ ?_
  · assumption
  · intro x1 h2
    refine antennaChange_kept ?_
    assumption

theorem execNavBuf_kept {kp : Keep} {n s} (hs : Kept kp s) :
    KeptO kp (execNavBuf n s) := by
  unfold execNavBuf
  refine KeptO.next ?_
  refine takeOp_kept ?_ ?_
  · intro x1 x2 h3
    refine poolCheck_kept ?_
    assumption
  · assumption

theorem bivCapture_kept {kp : Keep} {burst s} (hs : Kept kp s) :
    Kept kp (bivCapture burst s) := by
  unfold bivCapture
  extract_lets +onlyGivenNames -merge -useContext x1
  have hx1 : Kept kp x1 := by
    unfold x1
    refine State.setPd_kept ?_
    assumption
  clear_value x1
  refine Kept.upd rfl rfl ?_
  assumption

theorem execCorrSpacingWrite_kept {kp : Keep} {a k v s} (hs : Kept kp s) :
    KeptO kp (execCorrSpacingWrite a k v s) := by
  unfold execCorrSpacingWrite
  refine KeptO.next ?_
  refine gateWrite_kept ?_ ?_
  · assumption
  · intro x1 h2
    refine spacingWrite_kept ?_
    assumption

theorem setBand_kept {kp : Keep} {l s} (hs : Kept kp s) :
    Kept kp (setBand l s) := by
  unfold setBand
  refine Kept.ite ?_ ?_
  · assumption
  · refine Kept.upd rfl rfl ?_
    assumption

theorem gnbStart_kept {kp : Keep} {c s} (hs : Kept kp s) :
    Kept kp (gnbStart c s) := by
  unfold gnbStart
  extract_lets +onlyGivenNames -merge -useContext x1; clear_value x1
  refine Kept.ite ?_ ?_
  · refine failOp_kept ?_
    assumption
  · refine Kept.ite ?_ ?_
    · refine failOp_kept ?_
      assumption
    · extract_lets +onlyGivenNames -merge -useContext x2
      clear_value x2
      refine finishOp_kept ?_
      refine Kept.upd rfl rfl ?_
      assumption

theorem execGnbStart_kept {kp : Keep} {n s} (hs : Kept kp s) :
    KeptO kp (execGnbStart n s) := by
  unfold execGnbStart
  refine KeptO.next ?_
  refine takeOp_kept ?_ ?_
  · intro x1 x2 h3
    refine gnbStart_kept ?_
    assumption
  · assumption

theorem gnbCtlWrite_kept {kp : Keep} {v s} (hs : Kept kp s) :
    Kept kp (gnbCtlWrite v s) := by
  unfold gnbCtlWrite
  extract_lets +onlyGivenNames -merge -useContext x1; clear_value x1
  extract_lets +onlyGivenNames -merge -useContext x2
  have hx2 : Kept kp x2 := by
    unfold x2
    refine Kept.upd rfl rfl ?_
    assumption
  clear_value x2
  refine Kept.ite ?_ ?_
  · assumption
  · refine gnbStopNow_kept ?_
    assumption

theorem gnbWrite_kept {kp : Keep} {off v s} (hs : Kept kp s) :
    Kept kp (gnbWrite off v s) := by
  unfold gnbWrite
  refine Kept.ite ?_ ?_
  · refine gnbCtlWrite_kept ?_
    assumption
  · refine Kept.ite ?_ ?_
    · refine antCtlWrite_kept ?_
      assumption
    · refine Kept.ite ?_ ?_
      · refine Kept.upd rfl rfl ?_
        assumption
      · refine Kept.ite ?_ ?_
        · refine spacingWrite_kept ?_
          assumption
        · assumption

theorem assistTake_kept {kp : Keep} {s r} (hs : Kept kp s) :
    Kept kp (assistTake s r) := by
  unfold assistTake
  extract_lets +onlyGivenNames -merge -useContext x1; clear_value x1
  extract_lets +onlyGivenNames -merge -useContext x2; clear_value x2
  extract_lets +onlyGivenNames -merge -useContext x3; clear_value x3
  extract_lets +onlyGivenNames -merge -useContext x4; clear_value x4
  extract_lets +onlyGivenNames -merge -useContext x5
  have hx5 : Kept kp x5 := by
    unfold x5
    refine Kept.upd rfl rfl ?_
    assumption
  clear_value x5
  refine Kept.ite ?_ ?_
  · refine noteEphemeris_kept ?_
    refine keepPart_kept ?_
    assumption
  · assumption

theorem assistPut_kept {kp : Keep} {c s} (hs : Kept kp s) :
    Kept kp (assistPut c s) := by
  unfold assistPut
  refine needBuffer_kept ?_ ?_
  · assumption
  · intro x1 h2
    extract_lets +onlyGivenNames -merge -useContext x3; clear_value x3
    refine Kept.ite ?_ ?_
    · refine failOp_kept ?_
      assumption
    · refine readWhole_kept ?_ ?_
      · assumption
      · intro x4 x5 h6
        extract_lets +onlyGivenNames -merge -useContext x7; clear_value x7
        refine Kept.ite ?_ ?_
        · refine gnbSchema_kept ?_
          assumption
        · extract_lets +onlyGivenNames -merge -useContext x8
          clear_value x8
          refine finishOp_kept ?_
          refine Kept.foldl ?_ ?_
          · intro x9 x10 h11
            refine assistTake_kept ?_
            assumption
          · assumption

theorem execPullInTimeout_kept {kp : Keep} {c s} (hs : Kept kp s) :
    KeptO kp (execPullInTimeout c s) := by
  unfold execPullInTimeout
  refine whileOn_kept ?_ ?_
  · assumption
  · intro x1 h2
    refine pullInTimeout_kept ?_
    assumption

theorem execChannelReexamine_kept {kp : Keep} {cands s} (hs : Kept kp s) :
    KeptO kp (execChannelReexamine cands s) := by
  unfold execChannelReexamine
  refine whileOn_kept ?_ ?_
  · assumption
  · intro x1 h2
    refine reexamine_kept ?_
    assumption

theorem execMeasBuf_kept {kp : Keep} {n s} (hs : Kept kp s) :
    KeptO kp (execMeasBuf n s) := by
  unfold execMeasBuf
  refine KeptO.next ?_
  refine takeOp_kept ?_ ?_
  · intro x1 x2 h3
    refine poolCheck_kept ?_
    assumption
  · assumption

theorem bivBegin_kept {kp : Keep} {s} (hs : Kept kp s) :
    Kept kp (bivBegin s) := by
  unfold bivBegin
  refine Kept.upd rfl rfl ?_
  assumption

theorem execSlewComplete_kept {kp : Keep} {s} (hs : Kept kp s) :
    KeptO kp (execSlewComplete s) := by
  unfold execSlewComplete
  refine whileOn_kept ?_ ?_
  · assumption
  · intro x1 h2
    refine slewComplete_kept ?_
    assumption

theorem execPullInLock_kept {kp : Keep} {c s} (hs : Kept kp s) :
    KeptO kp (execPullInLock c s) := by
  unfold execPullInLock
  refine whileOn_kept ?_ ?_
  · assumption
  · intro x1 h2
    refine pullInLock_kept ?_
    assumption

theorem rtcmTake_kept {kp : Keep} {s f} (hs : Kept kp s) :
    Kept kp (rtcmTake s f) := by
  unfold rtcmTake
  extract_lets +onlyGivenNames -merge -useContext x1; clear_value x1
  refine Kept.ite ?_ ?_
  · assumption
  · extract_lets +onlyGivenNames -merge -useContext x2
    clear_value x2
    extract_lets +onlyGivenNames -merge -useContext x3
    have hx3 : Kept kp x3 := by
      unfold x3
      refine Kept.upd rfl rfl ?_
      assumption
    clear_value x3
    refine Kept.ite ?_ ?_
    · assumption
    · extract_lets +onlyGivenNames -merge -useContext x4
      clear_value x4
      extract_lets +onlyGivenNames -merge -useContext x5; clear_value x5
      extract_lets +onlyGivenNames -merge -useContext x6
      have hx6 : Kept kp x6 := by
        unfold x6
        refine Kept.upd rfl rfl ?_
        assumption
      clear_value x6
      split
      · rename_i x7 h8
        assumption
      · rename_i x9 x10 h11
        refine Kept.ite ?_ ?_
        · refine raise_kept ?_
          refine Kept.upd rfl rfl ?_
          assumption
        · assumption

theorem corrPut_kept {kp : Keep} {c s} (hs : Kept kp s) :
    Kept kp (corrPut c s) := by
  unfold corrPut
  refine needBuffer_kept ?_ ?_
  · assumption
  · intro x1 h2
    refine Kept.ite ?_ ?_
    · refine failOp_kept ?_
      assumption
    · refine Kept.ite ?_ ?_
      · refine failOp_kept ?_
        assumption
      · refine readWhole_kept ?_ ?_
        · assumption
        · intro x3 x4 h5
          extract_lets +onlyGivenNames -merge -useContext x6; clear_value x6
          extract_lets +onlyGivenNames -merge -useContext x7; clear_value x7
          extract_lets +onlyGivenNames -merge -useContext x8; clear_value x8
          extract_lets +onlyGivenNames -merge -useContext x9; clear_value x9
          extract_lets +onlyGivenNames -merge -useContext x10
          have hx10 : Kept kp x10 := by
            unfold x10
            refine Kept.foldl ?_ ?_
            · intro x11 x12 h13
              refine rtcmTake_kept ?_
              assumption
            · refine Kept.upd rfl rfl ?_
              assumption
          clear_value x10
          refine finishOp_kept ?_
          assumption

theorem execTrackSignalLoss_kept {kp : Keep} {c s} (hs : Kept kp s) :
    KeptO kp (execTrackSignalLoss c s) := by
  unfold execTrackSignalLoss
  refine whileOn_kept ?_ ?_
  · assumption
  · intro x1 h2
    refine trackLoss_kept ?_
    assumption

theorem execAntennaRetry_kept {kp : Keep} {ant2 s} (hs : Kept kp s) :
    KeptO kp (execAntennaRetry ant2 s) := by
  unfold execAntennaRetry
  refine whileOn_kept ?_ ?_
  · assumption
  · intro x1 h2
    refine antennaRetry_kept ?_
    assumption

theorem execCoastReacquire_kept {kp : Keep} {c phase s} (hs : Kept kp s) :
    KeptO kp (execCoastReacquire c phase s) := by
  unfold execCoastReacquire
  refine whileOn_kept ?_ ?_
  · assumption
  · intro x1 h2
    refine coastReacquire_kept ?_
    assumption

theorem execTimeStep_kept {kp : Keep} {s} (hs : Kept kp s) :
    KeptO kp (execTimeStep s) := by
  unfold execTimeStep
  refine whileOn_kept ?_ ?_
  · assumption
  · intro x1 h2
    refine timeStep_kept ?_
    assumption

theorem execPpsEdge_kept {kp : Keep} {s} (hs : Kept kp s) :
    KeptO kp (execPpsEdge s) := by
  unfold execPpsEdge
  refine whileOn_kept ?_ ?_
  · assumption
  · intro x1 h2
    refine ppsEdge_kept ?_
    assumption

theorem bivOver_kept {kp : Keep} {s} (hs : Kept kp s) :
    Kept kp (bivOver s) := by
  unfold bivOver
  extract_lets +onlyGivenNames -merge -useContext x1
  have hx1 : Kept kp x1 := by
    unfold x1
    refine State.setPd_kept ?_
    assumption
  clear_value x1
  refine Kept.upd rfl rfl ?_
  assumption

theorem execNavMessage_kept {kp : Keep} {m s} (hs : Kept kp s) :
    KeptO kp (execNavMessage m s) := by
  unfold execNavMessage
  refine whileOn_kept ?_ ?_
  · assumption
  · intro x1 h2
    refine navMessage_kept ?_
    assumption

theorem gnbStop_kept {kp : Keep} {c s} (hs : Kept kp s) :
    Kept kp (gnbStop c s) := by
  unfold gnbStop
  refine Kept.ite ?_ ?_
  · refine failOp_kept ?_
    assumption
  · refine startOp_kept ?_
    refine gnbStopNow_kept ?_
    assumption

theorem takeSnapshot_kept {kp : Keep} {gpsNs tunc temp samples s} (hs : Kept kp s) :
    Kept kp (takeSnapshot gpsNs tunc temp samples s) := by
  unfold takeSnapshot
  extract_lets +onlyGivenNames -merge -useContext x1; clear_value x1
  split
  rename_i x2 x3 x4 x5 h6
  extract_lets +onlyGivenNames -merge -useContext x7; clear_value x7
  extract_lets +onlyGivenNames -merge -useContext x8; clear_value x8
  refine raise_kept ?_
  refine Kept.upd rfl rfl ?_
  assumption

theorem execGnbCtlWrite_kept {kp : Keep} {a v s} (hs : Kept kp s) :
    KeptO kp (execGnbCtlWrite a v s) := by
  unfold execGnbCtlWrite
  refine KeptO.next ?_
  refine gateWrite_kept ?_ ?_
  · assumption
  · intro x1 h2
    refine gnbCtlWrite_kept ?_
    assumption

theorem bivFix_kept {kp : Keep} {sats distance gpsNs s} (hs : Kept kp s) :
    Kept kp (bivFix sats distance gpsNs s) := by
  unfold bivFix
  extract_lets +onlyGivenNames -merge -useContext x1
  extract_lets +onlyGivenNames -merge -useContext x2
  refine Kept.ite ?_ ?_
  · extract_lets +onlyGivenNames -merge -useContext x3
    have hx3 : Kept kp x3 := by
      unfold x3
      refine Kept.upd rfl rfl ?_
      assumption
    refine Kept.ite ?_ ?_
    · refine raiseEv_kept ?_
      refine Kept.upd rfl rfl ?_
      assumption
    · assumption
  · extract_lets +onlyGivenNames -merge -useContext x4
    extract_lets +onlyGivenNames -merge -useContext x5
    have hx5 : Kept kp x5 := by
      unfold x5
      refine raise_kept ?_
      refine Kept.upd rfl rfl ?_
      assumption
    clear_value x5
    refine Kept.ite ?_ ?_
    · refine raise_kept ?_
      assumption
    · assumption

theorem gnbCfgLoad_kept {kp : Keep} {c s} (hs : Kept kp s) :
    Kept kp (gnbCfgLoad c s) := by
  unfold gnbCfgLoad
  refine needBuffer_kept ?_ ?_
  · assumption
  · intro x1 h2
    refine Kept.ite ?_ ?_
    · refine failOp_kept ?_
      assumption
    · refine Kept.ite ?_ ?_
      · refine failOp_kept ?_
        assumption
      · refine readWhole_kept ?_ ?_
        · assumption
        · intro x3 x4 h5
          extract_lets +onlyGivenNames -merge -useContext x6; clear_value x6
          split
          · rename_i x7 x8 x9 h10
            refine gnbSchema_kept ?_
            assumption
          · rename_i x11 h12
            refine finishOp_kept ?_
            refine Kept.upd rfl rfl ?_
            assumption

theorem execMeasurementInstant_kept {kp : Keep} {m s} (hs : Kept kp s) :
    KeptO kp (execMeasurementInstant m s) := by
  unfold execMeasurementInstant
  refine whileOn_kept ?_ ?_
  · assumption
  · intro x1 h2
    refine measurementInstant_kept ?_
    assumption

theorem execChannelDetection_kept {kp : Keep} {c code dop s} (hs : Kept kp s) :
    KeptO kp (execChannelDetection c code dop s) := by
  unfold execChannelDetection
  refine whileOn_kept ?_ ?_
  · assumption
  · intro x1 h2
    refine channelDetection_kept ?_
    assumption

theorem execCorrPut_kept {kp : Keep} {n s} (hs : Kept kp s) :
    KeptO kp (execCorrPut n s) := by
  unfold execCorrPut
  refine KeptO.next ?_
  refine takeOp_kept ?_ ?_
  · intro x1 x2 h3
    refine corrPut_kept ?_
    assumption
  · assumption

theorem execAssistPut_kept {kp : Keep} {n s} (hs : Kept kp s) :
    KeptO kp (execAssistPut n s) := by
  unfold execAssistPut
  refine KeptO.next ?_
  refine takeOp_kept ?_ ?_
  · intro x1 x2 h3
    refine assistPut_kept ?_
    assumption
  · assumption

theorem execGnbCfgLoad_kept {kp : Keep} {n s} (hs : Kept kp s) :
    KeptO kp (execGnbCfgLoad n s) := by
  unfold execGnbCfgLoad
  refine KeptO.next ?_
  refine takeOp_kept ?_ ?_
  · intro x1 x2 h3
    refine gnbCfgLoad_kept ?_
    assumption
  · assumption

theorem execSearchTimeout_kept {kp : Keep} {c s} (hs : Kept kp s) :
    KeptO kp (execSearchTimeout c s) := by
  unfold execSearchTimeout
  refine whileOn_kept ?_ ?_
  · assumption
  · intro x1 h2
    refine searchTimeout_kept ?_
    assumption

theorem execGnbStop_kept {kp : Keep} {n s} (hs : Kept kp s) :
    KeptO kp (execGnbStop n s) := by
  unfold execGnbStop
  refine KeptO.next ?_
  refine takeOp_kept ?_ ?_
  · intro x1 x2 h3
    refine gnbStop_kept ?_
    assumption
  · assumption

end Sys2Proof.Machine
end

