-- ==== Sys2Proof/Laws/KeptYield.lean ====
section
/-!
SUPPORT. What the operations of Sys2Proof/Machine/Yield.lean keep (see Sys2Proof/Laws/Kept.lean).
-/

namespace Sys2Proof.Machine

theorem yieldEvent_kept {kp : Keep} {code data g s} (hs : Kept kp s) :
    Kept kp (yieldEvent code data g s) := by
  unfold yieldEvent
  refine raiseAt_kept ?_
  assumption

theorem deleteTask_kept {kp : Keep} {id s} (hs : Kept kp s) :
    Kept kp (deleteTask id s) := by
  unfold deleteTask
  refine Kept.upd rfl rfl ?_
  assumption

theorem makeRoom_kept {kp : Keep} {g s} (hs : Kept kp s) :
    Kept kp (makeRoom g s) := by
  unfold makeRoom
  split
  · rename_i x1 x2 h3
    refine yieldEvent_kept ?_
    refine deleteTask_kept ?_
    assumption
  · rename_i x4 h5
    refine yieldEvent_kept ?_
    assumption

theorem roomFor_kept {kp : Keep} {g z1 z2} (hz2 : Kept kp z2) :
    Kept kp (roomFor g z1 z2) := by
  induction z1 generalizing z2 with
  | zero => exact hz2
  | succ fuel ih =>
    unfold roomFor
    split
    · exact hz2
    · split
      · exact makeRoom_kept hz2
      · exact ih (makeRoom_kept hz2)

theorem storeRecord_kept {kp : Keep} {g r s} (hs : Kept kp s) :
    Kept kp (storeRecord g r s) := by
  unfold storeRecord
  split
  · rename_i x1 h2
    assumption
  · rename_i x3 x4 h5
    extract_lets +onlyGivenNames -merge -useContext x6
    have hx6 : Kept kp x6 := by
      unfold x6
      refine roomFor_kept ?_
      assumption
    clear_value x6
    refine Kept.ite ?_ ?_
    · refine Kept.upd rfl rfl ?_
      assumption
    · assumption

theorem yieldDeliver_kept {kp : Keep} {k bs s} (hs : Kept kp s) :
    KeptF kp (yieldDeliver k bs s) := by
  unfold yieldDeliver
  split
  · rename_i x1 h2
    refine KeptF.mk ?_
    assumption
  · rename_i x3 x4 h5
    refine KeptF.mk ?_
    refine writeOut_kept ?_
    assumption

theorem closeSecond_kept {kp : Keep} {g early p k} (hp : KeptF kp p) :
    KeptF kp (closeSecond g early p k) := by
  unfold closeSecond
  extract_lets +onlyGivenNames -merge -useContext x1; clear_value x1
  extract_lets +onlyGivenNames -merge -useContext x2
  have hx2 : Kept kp x2 := by
    unfold x2
    refine storeRecord_kept ?_
    refine KeptF.out ?_
    assumption
  clear_value x2
  split
  rename_i x3 x4 x5 h6
  have h7 : Kept kp x4 := by
    refine KeptF.of_eq h6 ?_
    refine yieldDeliver_kept ?_
    assumption
  refine KeptF.mk ?_
  refine Kept.upd rfl rfl ?_
  assumption

theorem closeSeconds_kept {kp : Keep} {g k n early s} (hs : Kept kp s) :
    Kept kp (closeSeconds g k n early s) := by
  unfold closeSeconds
  split
  rename_i x1 x2 x3 h4
  have h5 : Kept kp x2 := by
    refine KeptF.of_eq h4 ?_
    refine KeptF.foldl ?_ ?_
    · intro x6 x7 h8
      refine closeSecond_kept ?_
      assumption
    · refine KeptF.mk ?_
      assumption
  refine Kept.ite ?_ ?_
  · assumption
  · refine yieldEvent_kept ?_
    assumption

theorem yieldSense_kept {kp : Keep} {s} (hs : Kept kp s) :
    Kept kp (yieldSense s) := by
  unfold yieldSense
  extract_lets +onlyGivenNames -merge -useContext x1; clear_value x1
  refine Kept.ite ?_ ?_
  · assumption
  · refine State.reach_kept ?_ ?_
    · assumption
    · intro x2 h3
      extract_lets +onlyGivenNames -merge -useContext x4; clear_value x4
      extract_lets +onlyGivenNames -merge -useContext x5; clear_value x5
      extract_lets +onlyGivenNames -merge -useContext x6; clear_value x6
      refine Kept.upd rfl rfl ?_
      assumption

theorem reportUnattributed_kept {kp : Keep} {b s} (hs : Kept kp s) :
    Kept kp (reportUnattributed b s) := by
  unfold reportUnattributed
  split
  · rename_i x1 h2
    assumption
  · rename_i x3 x4 h5
    refine yieldEvent_kept ?_
    refine Kept.upd rfl rfl ?_
    assumption

theorem yieldFlush_kept {kp : Keep} {s} (hs : Kept kp s) :
    Kept kp (yieldFlush s) := by
  unfold yieldFlush
  refine Kept.upd rfl rfl ?_
  assumption

theorem yieldClose_kept {kp : Keep} {g s} (hs : Kept kp s) :
    Kept kp (yieldClose g s) := by
  unfold yieldClose
  refine Kept.ite ?_ ?_
  · assumption
  · extract_lets +onlyGivenNames -merge -useContext x1
    clear_value x1
    extract_lets +onlyGivenNames -merge -useContext x2
    have hx2 : Kept kp x2 := by
      unfold x2
      refine closeSeconds_kept ?_
      refine reportUnattributed_kept ?_
      assumption
    clear_value x2
    refine yieldFlush_kept ?_
    refine Kept.upd rfl rfl ?_
    assumption

theorem stepDone_kept {kp : Keep} {i s} (hs : Kept kp s) :
    Kept kp (stepDone i s) := by
  unfold stepDone
  refine Kept.ite ?_ ?_
  · refine reportUnattributed_kept ?_
    assumption
  · assumption

theorem yieldStepEnd_kept {kp : Keep} {s} (hs : Kept kp s) :
    Kept kp (yieldStepEnd s) := by
  unfold yieldStepEnd
  extract_lets +onlyGivenNames -merge -useContext x1; clear_value x1
  extract_lets +onlyGivenNames -merge -useContext x2; clear_value x2
  extract_lets +onlyGivenNames -merge -useContext x3; clear_value x3
  extract_lets +onlyGivenNames -merge -useContext x4; clear_value x4
  refine Kept.ite ?_ ?_
  · assumption
  · extract_lets +onlyGivenNames -merge -useContext x5
    clear_value x5
    extract_lets +onlyGivenNames -merge -useContext x6; clear_value x6
    extract_lets +onlyGivenNames -merge -useContext x7
    have hx7 : Kept kp x7 := by
      unfold x7
      refine Kept.upd rfl rfl ?_
      assumption
    clear_value x7
    refine Kept.ite ?_ ?_
    · refine stepDone_kept ?_
      refine Kept.upd rfl rfl ?_
      assumption
    · refine Kept.upd rfl rfl ?_
      assumption

theorem delayEstimate_kept {kp : Keep} {s} (hs : Kept kp s) :
    Kept kp (delayEstimate s) := by
  unfold delayEstimate
  extract_lets +onlyGivenNames -merge -useContext x1; clear_value x1
  refine Kept.ite ?_ ?_
  · assumption
  · split
    rename_i x2 x3 x4 h5
    extract_lets +onlyGivenNames -merge -useContext x6; clear_value x6
    extract_lets +onlyGivenNames -merge -useContext x7; clear_value x7
    extract_lets +onlyGivenNames -merge -useContext x8
    have hx8 : Kept kp x8 := by
      unfold x8
      refine Kept.upd rfl rfl ?_
      assumption
    clear_value x8
    refine Kept.ite ?_ ?_
    · refine yieldEvent_kept ?_
      assumption
    · refine Kept.ite ?_ ?_
      · assumption
      · refine yieldEvent_kept ?_
        refine Kept.upd rfl rfl ?_
        assumption

end Sys2Proof.Machine
end

