-- ==== Sys2Proof/Laws/KeptYieldOps.lean ====
section
/-!
SUPPORT. What the operations of Sys2Proof/Machine/YieldOps.lean keep (see Sys2Proof/Laws/Kept.lean).
-/

namespace Sys2Proof.Machine

theorem yldCfg_kept {kp : Keep} {c s} (hs : Kept kp s) :
    Kept kp (yldCfg c s) := by
  unfold yldCfg
  refine needBuffer_kept ?_ ?_
  · assumption
  · intro x1 h2
    refine Kept.ite ?_ ?_
    · refine failOp_kept ?_
      assumption
    · refine Kept.ite ?_ ?_
      · refine failOp_kept ?_
        assumption
      · refine readWhole_kept ?_ ?_
        · assumption
        · intro x3 x4 h5
          extract_lets +onlyGivenNames -merge -useContext x6; clear_value x6
          refine Kept.ite ?_ ?_
          · refine finishOp_kept ?_
            refine Kept.upd rfl rfl ?_
            assumption
          · refine failOp_kept ?_
            assumption

theorem taskList_kept {kp : Keep} {c s} (hs : Kept kp s) :
    Kept kp (taskList c s) := by
  unfold taskList
  refine needBuffer_kept ?_ ?_
  · assumption
  · intro x1 h2
    refine Kept.ite ?_ ?_
    · refine failOp_kept ?_
      assumption
    · extract_lets +onlyGivenNames -merge -useContext x3
      clear_value x3
      refine writeOut_kept ?_
      assumption

theorem taskExport_kept {kp : Keep} {c s} (hs : Kept kp s) :
    Kept kp (taskExport c s) := by
  unfold taskExport
  refine needBuffer_kept ?_ ?_
  · assumption
  · intro x1 h2
    refine Kept.ite ?_ ?_
    · refine failOp_kept ?_
      assumption
    · split
      · rename_i x3 h4
        refine failOp_kept ?_
        assumption
      · rename_i x5 x6 h7
        split
        · rename_i x8 h9
          refine failOp_kept ?_
          assumption
        · rename_i x10 x11 h12
          extract_lets +onlyGivenNames -merge -useContext x13; clear_value x13
          extract_lets +onlyGivenNames -merge -useContext x14; clear_value x14
          extract_lets +onlyGivenNames -merge -useContext x15; clear_value x15
          refine Kept.ite ?_ ?_
          · refine writeOut_kept ?_
            assumption
          · split
            rename_i x16 x17 x18 h19
            have h20 : Kept kp x17 := by
              refine KeptF.of_eq h19 ?_
              refine writeBuffer_kept ?_
              assumption
            refine failOp_kept ?_
            assumption

theorem execTaskExport_kept {kp : Keep} {n s} (hs : Kept kp s) :
    KeptO kp (execTaskExport n s) := by
  unfold execTaskExport
  refine KeptO.next ?_
  refine takeOp_kept ?_ ?_
  · intro x1 x2 h3
    refine taskExport_kept ?_
    assumption
  · assumption

theorem closeTask_kept {kp : Keep} {g s} (hs : Kept kp s) :
    KeptF kp (closeTask g s) := by
  unfold closeTask
  split
  · rename_i x1 h2
    refine KeptF.mk ?_
    assumption
  · rename_i x3 x4 h5
    refine KeptF.mk ?_
    refine yieldEvent_kept ?_
    refine Kept.upd rfl rfl ?_
    assumption

theorem openTaskAt_kept {kp : Keep} {c s} (hs : Kept kp s) :
    Kept kp (openTaskAt c s) := by
  unfold openTaskAt
  extract_lets +onlyGivenNames -merge -useContext x1; clear_value x1
  extract_lets +onlyGivenNames -merge -useContext x2; clear_value x2
  extract_lets +onlyGivenNames -merge -useContext x3; clear_value x3
  split
  rename_i x4 x5 x6 h7
  have h8 : Kept kp x5 := by
    refine KeptF.of_eq h7 ?_
    refine closeTask_kept ?_
    assumption
  extract_lets +onlyGivenNames -merge -useContext x9
  have hx9 : Kept kp x9 := by
    unfold x9
    refine Kept.ite ?_ ?_
    · assumption
    · refine makeRoom_kept ?_
      assumption
  clear_value x9
  extract_lets +onlyGivenNames -merge -useContext x10; clear_value x10
  extract_lets +onlyGivenNames -merge -useContext x11
  have hx11 : Kept kp x11 := by
    unfold x11
    refine Kept.upd rfl rfl ?_
    assumption
  clear_value x11
  refine finishOp_kept ?_
  refine yieldEvent_kept ?_
  assumption

theorem closeTaskAt_kept {kp : Keep} {c s} (hs : Kept kp s) :
    Kept kp (closeTaskAt c s) := by
  unfold closeTaskAt
  extract_lets +onlyGivenNames -merge -useContext x1; clear_value x1
  split
  rename_i x2 x3 x4 h5
  have h6 : Kept kp x3 := by
    refine KeptF.of_eq h5 ?_
    refine closeTask_kept ?_
    assumption
  refine finishOp_kept ?_
  assumption

theorem settleTasks_kept {kp : Keep} {t s} (hs : Kept kp s) :
    Kept kp (settleTasks t s) := by
  unfold settleTasks
  refine Kept.foldl ?_ ?_
  · intro x1 x2 h3
    refine Kept.ite ?_ ?_
    · refine openTaskAt_kept ?_
      assumption
    · refine closeTaskAt_kept ?_
      assumption
  · assumption

theorem yieldRecord_kept {kp : Keep} {s} (hs : Kept kp s) :
    Kept kp (yieldRecord s) := by
  unfold yieldRecord
  extract_lets +onlyGivenNames -merge -useContext x1; clear_value x1
  extract_lets +onlyGivenNames -merge -useContext x2; clear_value x2
  refine Kept.ite ?_ ?_
  · assumption
  · refine settleTasks_kept ?_
    refine closeSeconds_kept ?_
    assumption

theorem execYieldRecord_kept {kp : Keep} {s} (hs : Kept kp s) :
    KeptO kp (execYieldRecord s) := by
  unfold execYieldRecord
  refine whileOn_kept ?_ ?_
  · assumption
  · intro x1 h2
    refine yieldRecord_kept ?_
    assumption

theorem yldToSecond_kept {kp : Keep} {s} (hs : Kept kp s) :
    Kept kp (yldToSecond s) := by
  unfold yldToSecond
  refine Kept.ite ?_ ?_
  · refine Kept.upd rfl rfl ?_
    assumption
  · assumption

theorem statusTick_kept {kp : Keep} {s} (hs : Kept kp s) :
    Kept kp (statusTick s) := by
  unfold statusTick
  refine Kept.foldl ?_ ?_
  · intro x1 x2 h3
    refine writeOut_kept ?_
    assumption
  · assumption

theorem execDelayEstimate_kept {kp : Keep} {s} (hs : Kept kp s) :
    KeptO kp (execDelayEstimate s) := by
  unfold execDelayEstimate
  refine whileOn_kept ?_ ?_
  · assumption
  · intro x1 h2
    refine delayEstimate_kept ?_
    assumption

theorem execTaskList_kept {kp : Keep} {n s} (hs : Kept kp s) :
    KeptO kp (execTaskList n s) := by
  unfold execTaskList
  refine KeptO.next ?_
  refine takeOp_kept ?_ ?_
  · intro x1 x2 h3
    refine taskList_kept ?_
    assumption
  · assumption

theorem taskOpen_kept {kp : Keep} {c s} (hs : Kept kp s) :
    Kept kp (taskOpen c s) := by
  unfold taskOpen
  extract_lets +onlyGivenNames -merge -useContext x1; clear_value x1
  extract_lets +onlyGivenNames -merge -useContext x2; clear_value x2
  refine Kept.ite ?_ ?_
  · refine failOp_kept ?_
    assumption
  · refine Kept.ite ?_ ?_
    · refine failOp_kept ?_
      assumption
    · refine startOp_kept ?_
      assumption

theorem tankSet_kept {kp : Keep} {c s} (hs : Kept kp s) :
    Kept kp (tankSet c s) := by
  unfold tankSet
  extract_lets +onlyGivenNames -merge -useContext x1; clear_value x1
  extract_lets +onlyGivenNames -merge -useContext x2; clear_value x2
  refine finishOp_kept ?_
  refine Kept.upd rfl rfl ?_
  assumption

theorem yldReset_kept {kp : Keep} {s} (hs : Kept kp s) :
    Kept kp (yldReset s) := by
  unfold yldReset
  refine Kept.upd rfl rfl ?_
  assumption

theorem yldTakeover_kept {kp : Keep} {tk s} (hs : Kept kp s) :
    Kept kp (yldTakeover tk s) := by
  unfold yldTakeover
  refine Kept.ite ?_ ?_
  · assumption
  · split
    · rename_i x1 x2 h3
      refine Kept.ite ?_ ?_
      · extract_lets +onlyGivenNames -merge -useContext x4
        clear_value x4
        refine Kept.foldl ?_ ?_
        · intro x5 x6 h7
          refine stepDone_kept ?_
          refine Kept.upd rfl rfl ?_
          assumption
        · refine Kept.upd rfl rfl ?_
          assumption
      · refine Kept.upd rfl rfl ?_
        assumption
    · rename_i x8 h9
      refine Kept.upd rfl rfl ?_
      assumption

theorem execTankSet_kept {kp : Keep} {n s} (hs : Kept kp s) :
    KeptO kp (execTankSet n s) := by
  unfold execTankSet
  refine KeptO.next ?_
  refine takeOp_kept ?_ ?_
  · intro x1 x2 h3
    refine tankSet_kept ?_
    assumption
  · assumption

theorem yldStart_kept {kp : Keep} {c s} (hs : Kept kp s) :
    Kept kp (yldStart c s) := by
  unfold yldStart
  extract_lets +onlyGivenNames -merge -useContext x1; clear_value x1
  refine Kept.ite ?_ ?_
  · refine failOp_kept ?_
    assumption
  · refine Kept.ite ?_ ?_
    · refine failOp_kept ?_
      assumption
    · extract_lets +onlyGivenNames -merge -useContext x2
      clear_value x2
      refine finishOp_kept ?_
      refine Kept.upd rfl rfl ?_
      assumption

theorem yldStatus_kept {kp : Keep} {c s} (hs : Kept kp s) :
    Kept kp (yldStatus c s) := by
  unfold yldStatus
  refine needBuffer_kept ?_ ?_
  · assumption
  · intro x1 h2
    refine Kept.ite ?_ ?_
    · refine failOp_kept ?_
      assumption
    · refine startOp_kept ?_
      assumption

theorem execYldStart_kept {kp : Keep} {n s} (hs : Kept kp s) :
    KeptO kp (execYldStart n s) := by
  unfold execYldStart
  refine KeptO.next ?_
  refine takeOp_kept ?_ ?_
  · intro x1 x2 h3
    refine yldStart_kept ?_
    assumption
  · assumption

theorem execYldStatus_kept {kp : Keep} {n s} (hs : Kept kp s) :
    KeptO kp (execYldStatus n s) := by
  unfold execYldStatus
  refine KeptO.next ?_
  refine takeOp_kept ?_ ?_
  · intro x1 x2 h3
    refine yldStatus_kept ?_
    assumption
  · assumption

theorem execYieldSense_kept {kp : Keep} {s} (hs : Kept kp s) :
    KeptO kp (execYieldSense s) := by
  unfold execYieldSense
  refine whileOn_kept ?_ ?_
  · assumption
  · intro x1 h2
    refine yieldSense_kept ?_
    assumption

theorem execYieldFlashWrite_kept {kp : Keep} {s} (hs : Kept kp s) :
    KeptO kp (execYieldFlashWrite s) := by
  unfold execYieldFlashWrite
  refine whileOn_kept ?_ ?_
  · assumption
  · intro x1 h2
    refine yieldFlush_kept ?_
    assumption

theorem yldHalt_kept {kp : Keep} {b s} (hs : Kept kp s) :
    Kept kp (yldHalt b s) := by
  unfold yldHalt
  extract_lets +onlyGivenNames -merge -useContext x1
  have hx1 : Kept kp x1 := by
    unfold x1
    refine yieldClose_kept ?_
    assumption
  clear_value x1
  refine Kept.foldl ?_ ?_
  · intro x2 x3 h4
    refine finishOp_kept ?_
    assumption
  · assumption

theorem yldStartTick_kept {kp : Keep} {t s} (hs : Kept kp s) :
    Kept kp (yldStartTick t s) := by
  unfold yldStartTick
  split
  · rename_i x1 h2
    assumption
  · rename_i x3 x4 h5
    refine Kept.ite ?_ ?_
    · assumption
    · refine Kept.ite ?_ ?_
      · refine Kept.upd rfl rfl ?_
        assumption
      · refine Kept.upd rfl rfl ?_
        assumption

theorem yldTick_kept {kp : Keep} {b s} (hs : Kept kp s) :
    Kept kp (yldTick b s) := by
  unfold yldTick
  extract_lets +onlyGivenNames -merge -useContext x1; clear_value x1
  extract_lets +onlyGivenNames -merge -useContext x2
  have hx2 : Kept kp x2 := by
    unfold x2
    refine statusTick_kept ?_
    assumption
  clear_value x2
  extract_lets +onlyGivenNames -merge -useContext x3
  have hx3 : Kept kp x3 := by
    unfold x3
    refine settleTasks_kept ?_
    assumption
  clear_value x3
  extract_lets +onlyGivenNames -merge -useContext x4
  have hx4 : Kept kp x4 := by
    unfold x4
    refine Kept.ite ?_ ?_
    · refine yldHalt_kept ?_
      assumption
    · assumption
  clear_value x4
  refine yldStartTick_kept ?_
  assumption

theorem execYldBuf_kept {kp : Keep} {n s} (hs : Kept kp s) :
    KeptO kp (execYldBuf n s) := by
  unfold execYldBuf
  refine KeptO.next ?_
  refine takeOp_kept ?_ ?_
  · intro x1 x2 h3
    refine poolCheck_kept ?_
    assumption
  · assumption

theorem taskClose_kept {kp : Keep} {c s} (hs : Kept kp s) :
    Kept kp (taskClose c s) := by
  unfold taskClose
  refine Kept.ite ?_ ?_
  · refine failOp_kept ?_
    assumption
  · refine startOp_kept ?_
    assumption

theorem execTaskOpen_kept {kp : Keep} {n s} (hs : Kept kp s) :
    KeptO kp (execTaskOpen n s) := by
  unfold execTaskOpen
  refine KeptO.next ?_
  refine takeOp_kept ?_ ?_
  · intro x1 x2 h3
    refine taskOpen_kept ?_
    assumption
  · assumption

theorem yldStore_kept {kp : Keep} {r s} (hs : Kept kp s) :
    Kept kp (yldStore r s) := by
  unfold yldStore
  split
  · rename_i x1
    assumption
  · rename_i x2 x3
    refine Kept.ite ?_ ?_
    · refine Kept.upd rfl rfl ?_
      assumption
    · assumption

theorem execYldCfg_kept {kp : Keep} {n s} (hs : Kept kp s) :
    KeptO kp (execYldCfg n s) := by
  unfold execYldCfg
  refine KeptO.next ?_
  refine takeOp_kept ?_ ?_
  · intro x1 x2 h3
    refine yldCfg_kept ?_
    assumption
  · assumption

theorem execYieldStepEnd_kept {kp : Keep} {s} (hs : Kept kp s) :
    KeptO kp (execYieldStepEnd s) := by
  unfold execYieldStepEnd
  refine whileOn_kept ?_ ?_
  · assumption
  · intro x1 h2
    refine yieldStepEnd_kept ?_
    assumption

theorem execTaskClose_kept {kp : Keep} {n s} (hs : Kept kp s) :
    KeptO kp (execTaskClose n s) := by
  unfold execTaskClose
  refine KeptO.next ?_
  refine takeOp_kept ?_ ?_
  · intro x1 x2 h3
    refine taskClose_kept ?_
    assumption
  · assumption

theorem yldStop_kept {kp : Keep} {c s} (hs : Kept kp s) :
    Kept kp (yldStop c s) := by
  unfold yldStop
  refine Kept.ite ?_ ?_
  · refine failOp_kept ?_
    assumption
  · refine startOp_kept ?_
    refine Kept.upd rfl rfl ?_
    assumption

theorem execYldStop_kept {kp : Keep} {n s} (hs : Kept kp s) :
    KeptO kp (execYldStop n s) := by
  unfold execYldStop
  refine KeptO.next ?_
  refine takeOp_kept ?_ ?_
  · intro x1 x2 h3
    refine yldStop_kept ?_
    assumption
  · assumption

end Sys2Proof.Machine
end

