-- ==== Sys2Proof/Laws/KeptUpdate.lean ====
section
/-!
SUPPORT. What the operations of Sys2Proof/Machine/Update.lean keep (see Sys2Proof/Laws/Kept.lean).
-/

namespace Sys2Proof.Machine

theorem updEvent_kept {kp : Keep} {src code data s} (hs : Kept kp s) :
    Kept kp (updEvent src code data s) := by
  unfold updEvent
  refine raiseAt_kept ?_
  assumption

theorem stageBroken_kept {kp : Keep} {c status n pkg s} (hs : Kept kp s) :
    Kept kp (stageBroken c status n pkg s) := by
  unfold stageBroken
  refine updEvent_kept ?_
  refine failOp_kept ?_
  assumption

theorem stageRefuse_kept {kp : Keep} {c n pkg s} (hs : Kept kp s) :
    Kept kp (stageRefuse c n pkg s) := by
  unfold stageRefuse
  refine updEvent_kept ?_
  refine failOp_kept ?_
  assumption

theorem stageComplete_kept {kp : Keep} {s} (hs : Kept kp s) :
    Kept kp (stageComplete s) := by
  unfold stageComplete
  split
  · rename_i x1 h2
    assumption
  · rename_i x3 x4 h5
    extract_lets +onlyGivenNames -merge -useContext x6; clear_value x6
    extract_lets +onlyGivenNames -merge -useContext x7; clear_value x7
    extract_lets +onlyGivenNames -merge -useContext x8; clear_value x8
    extract_lets +onlyGivenNames -merge -useContext x9; clear_value x9
    extract_lets +onlyGivenNames -merge -useContext x10; clear_value x10
    split
    rename_i x11 x12 x13 h14
    have h15 : Kept kp x12 := by
      refine KeptF.of_eq h14 ?_
      refine readBuffer_kept ?_
      assumption
    refine Kept.ite ?_ ?_
    · refine stageBroken_kept ?_
      refine Kept.upd rfl rfl ?_
      assumption
    · refine Kept.ite ?_ ?_
      · refine updEvent_kept ?_
        refine finishOp_kept ?_
        refine Kept.upd rfl rfl ?_
        assumption
      · refine stageRefuse_kept ?_
        refine Kept.upd rfl rfl ?_
        assumption

theorem stageCut_kept {kp : Keep} {s} (hs : Kept kp s) :
    Kept kp (stageCut s) := by
  unfold stageCut
  refine Kept.ite ?_ ?_
  · assumption
  · extract_lets +onlyGivenNames -merge -useContext x1
    clear_value x1
    extract_lets +onlyGivenNames -merge -useContext x2
    have hx2 : Kept kp x2 := by
      unfold x2
      refine Kept.upd rfl rfl ?_
      assumption
    clear_value x2
    split
    · rename_i x3 h4
      assumption
    · rename_i x5 x6 h7
      refine updEvent_kept ?_
      refine failOp_kept ?_
      assumption

theorem schedule_kept {kp : Keep} {c s} (hs : Kept kp s) :
    Kept kp (schedule c s) := by
  unfold schedule
  split
  · rename_i x1 x2 x3 h4
    refine failOp_kept ?_
    assumption
  · rename_i x5 x6 h7 h8
    refine failOp_kept ?_
    assumption
  · rename_i x9 x10 x11 h12 h13
    refine updEvent_kept ?_
    refine finishOp_kept ?_
    refine Kept.upd rfl rfl ?_
    assumption

theorem execSchedule_kept {kp : Keep} {n s} (hs : Kept kp s) :
    KeptO kp (execSchedule n s) := by
  unfold execSchedule
  refine KeptO.next ?_
  refine takeOp_kept ?_ ?_
  · intro x1 x2 h3
    refine schedule_kept ?_
    assumption
  · assumption

theorem configDone_kept {kp : Keep} {s} (hs : Kept kp s) :
    Kept kp (configDone s) := by
  unfold configDone
  extract_lets +onlyGivenNames -merge -useContext x1; clear_value x1
  extract_lets +onlyGivenNames -merge -useContext x2
  have hx2 : Kept kp x2 := by
    unfold x2
    refine Kept.upd rfl rfl ?_
    assumption
  clear_value x2
  refine Kept.ite ?_ ?_
  · refine updEvent_kept ?_
    assumption
  · assumption

theorem commitWrite_kept {kp : Keep} {s} (hs : Kept kp s) :
    Kept kp (commitWrite s) := by
  unfold commitWrite
  refine Kept.ite ?_ ?_
  · refine Kept.ite ?_ ?_
    · assumption
    · refine Kept.upd rfl rfl ?_
      assumption
  · refine updEvent_kept ?_
    assumption

theorem rejectWrite_kept {kp : Keep} {s} (hs : Kept kp s) :
    Kept kp (rejectWrite s) := by
  unfold rejectWrite
  refine Kept.ite ?_ ?_
  · refine Kept.upd rfl rfl ?_
    assumption
  · assumption

theorem updCmd_kept {kp : Keep} {v s} (hs : Kept kp s) :
    Kept kp (updCmd v s) := by
  unfold updCmd
  extract_lets +onlyGivenNames -merge -useContext x1
  have hx1 : Kept kp x1 := by
    unfold x1
    refine Kept.ite ?_ ?_
    · refine configDone_kept ?_
      assumption
    · assumption
  clear_value x1
  extract_lets +onlyGivenNames -merge -useContext x2
  have hx2 : Kept kp x2 := by
    unfold x2
    refine Kept.ite ?_ ?_
    · refine commitWrite_kept ?_
      assumption
    · assumption
  clear_value x2
  refine Kept.ite ?_ ?_
  · refine rejectWrite_kept ?_
    assumption
  · assumption

theorem execReject_kept {kp : Keep} {a v s} (hs : Kept kp s) :
    KeptO kp (execReject a v s) := by
  unfold execReject
  refine KeptO.next ?_
  refine gateWrite_kept ?_ ?_
  · assumption
  · intro x1 h2
    refine updCmd_kept ?_
    assumption

theorem trialBegin_kept {kp : Keep} {s} (hs : Kept kp s) :
    Kept kp (trialBegin s) := by
  unfold trialBegin
  extract_lets +onlyGivenNames -merge -useContext x1; clear_value x1
  extract_lets +onlyGivenNames -merge -useContext x2; clear_value x2
  extract_lets +onlyGivenNames -merge -useContext x3; clear_value x3
  extract_lets +onlyGivenNames -merge -useContext x4
  have hx4 : Kept kp x4 := by
    unfold x4
    refine Kept.upd rfl rfl ?_
    assumption
  clear_value x4
  refine raise_kept ?_
  refine updEvent_kept ?_
  assumption

theorem updReady_kept {kp : Keep} {s} (hs : Kept kp s) :
    Kept kp (updReady s) := by
  unfold updReady
  refine Kept.ite ?_ ?_
  · refine trialBegin_kept ?_
    assumption
  · refine Kept.ite ?_ ?_
    · extract_lets +onlyGivenNames -merge -useContext x1
      clear_value x1
      extract_lets +onlyGivenNames -merge -useContext x2
      have hx2 : Kept kp x2 := by
        unfold x2
        refine Kept.upd rfl rfl ?_
        assumption
      clear_value x2
      refine raise_kept ?_
      refine updEvent_kept ?_
      assumption
    · refine Kept.ite ?_ ?_
      · extract_lets +onlyGivenNames -merge -useContext x3
        clear_value x3
        extract_lets +onlyGivenNames -merge -useContext x4
        have hx4 : Kept kp x4 := by
          unfold x4
          refine Kept.ite ?_ ?_
          · refine Kept.upd rfl rfl ?_
            assumption
          · assumption
        clear_value x4
        refine raise_kept ?_
        assumption
      · assumption

theorem flipLetter_kept {kp : Keep} {s} (hs : Kept kp s) :
    Kept kp (flipLetter s) := by
  unfold flipLetter
  extract_lets +onlyGivenNames -merge -useContext x1; clear_value x1
  refine Kept.upd rfl rfl ?_
  assumption

theorem toOldSet_kept {kp : Keep} {s} (hs : Kept kp s) :
    Kept kp (toOldSet s) := by
  unfold toOldSet
  extract_lets +onlyGivenNames -merge -useContext x1
  have hx1 : Kept kp x1 := by
    unfold x1
    refine Kept.ite ?_ ?_
    · refine flipLetter_kept ?_
      assumption
    · assumption
  clear_value x1
  refine Kept.upd rfl rfl ?_
  assumption

theorem updRunEntry_kept {kp : Keep} {s} (hs : Kept kp s) :
    Kept kp (updRunEntry s) := by
  unfold updRunEntry
  extract_lets +onlyGivenNames -merge -useContext x1; clear_value x1
  extract_lets +onlyGivenNames -merge -useContext x2
  have hx2 : Kept kp x2 := by
    unfold x2
    refine Kept.ite ?_ ?_
    · refine Kept.upd rfl rfl ?_
      assumption
    · assumption
  clear_value x2
  extract_lets +onlyGivenNames -merge -useContext x3; clear_value x3
  extract_lets +onlyGivenNames -merge -useContext x4
  have hx4 : Kept kp x4 := by
    unfold x4
    refine Kept.ite ?_ ?_
    · refine toOldSet_kept ?_
      assumption
    · assumption
  clear_value x4
  refine Kept.upd rfl rfl ?_
  assumption

theorem cancel_kept {kp : Keep} {c s} (hs : Kept kp s) :
    Kept kp (cancel c s) := by
  unfold cancel
  refine Kept.ite ?_ ?_
  · refine failOp_kept ?_
    assumption
  · extract_lets +onlyGivenNames -merge -useContext x1
    clear_value x1
    refine updEvent_kept ?_
    refine finishOp_kept ?_
    refine Kept.upd rfl rfl ?_
    assumption

theorem execCancel_kept {kp : Keep} {n s} (hs : Kept kp s) :
    KeptO kp (execCancel n s) := by
  unfold execCancel
  refine KeptO.next ?_
  refine takeOp_kept ?_ ?_
  · intro x1 x2 h3
    refine cancel_kept ?_
    assumption
  · assumption

theorem toNewSet_kept {kp : Keep} {s} (hs : Kept kp s) :
    Kept kp (toNewSet s) := by
  unfold toNewSet
  extract_lets +onlyGivenNames -merge -useContext x1
  have hx1 : Kept kp x1 := by
    unfold x1
    refine flipLetter_kept ?_
    assumption
  clear_value x1
  refine Kept.upd rfl rfl ?_
  assumption

theorem stageBegin_kept {kp : Keep} {c h table s} (hs : Kept kp s) :
    Kept kp (stageBegin c h table s) := by
  unfold stageBegin
  refine startOp_kept ?_
  refine Kept.upd rfl rfl ?_
  assumption

theorem updWrite_kept {kp : Keep} {off v s} (hs : Kept kp s) :
    Kept kp (updWrite off v s) := by
  unfold updWrite
  extract_lets +onlyGivenNames -merge -useContext x1; clear_value x1
  refine Kept.ite ?_ ?_
  · refine updCmd_kept ?_
    assumption
  · refine Kept.ite ?_ ?_
    · assumption
    · refine Kept.ite ?_ ?_
      · refine Kept.upd rfl rfl ?_
        assumption
      · refine Kept.ite ?_ ?_
        · refine Kept.upd rfl rfl ?_
          assumption
        · refine Kept.ite ?_ ?_
          · refine Kept.upd rfl rfl ?_
            assumption
          · assumption

theorem execCommit_kept {kp : Keep} {a v s} (hs : Kept kp s) :
    KeptO kp (execCommit a v s) := by
  unfold execCommit
  refine KeptO.next ?_
  refine gateWrite_kept ?_ ?_
  · assumption
  · intro x1 h2
    refine updWrite_kept ?_
    assumption

theorem execConfigDone_kept {kp : Keep} {a v s} (hs : Kept kp s) :
    KeptO kp (execConfigDone a v s) := by
  unfold execConfigDone
  refine KeptO.next ?_
  refine gateWrite_kept ?_ ?_
  · assumption
  · intro x1 h2
    refine updCmd_kept ?_
    assumption

theorem instantReached_kept {kp : Keep} {s} (hs : Kept kp s) :
    Kept kp (instantReached s) := by
  unfold instantReached
  refine Kept.ite ?_ ?_
  · assumption
  · split
    · rename_i x1 h2
      assumption
    · rename_i x3 x4 h5
      refine State.reach_kept ?_ ?_
      · assumption
      · intro x6 h7
        refine updEvent_kept ?_
        refine Kept.upd rfl rfl ?_
        assumption

theorem execScheduleInstantReached_kept {kp : Keep} {s} (hs : Kept kp s) :
    KeptO kp (execScheduleInstantReached s) := by
  unfold execScheduleInstantReached
  refine KeptO.next ?_
  refine Kept.ite ?_ ?_
  · refine instantReached_kept ?_
    assumption
  · assumption

theorem updRead_kept {kp : Keep} {a off s} (hs : Kept kp s) :
    KeptS kp (updRead a off s) := by
  unfold updRead
  extract_lets +onlyGivenNames -merge -useContext x1; clear_value x1
  refine KeptS.ite ?_ ?_
  · refine KeptS.mk ?_
    assumption
  · refine KeptS.ite ?_ ?_
    · refine KeptS.mk ?_
      assumption
    · refine KeptS.ite ?_ ?_
      · refine KeptS.mk ?_
        assumption
      · refine KeptS.ite ?_ ?_
        · refine KeptS.mk ?_
          assumption
        · refine KeptS.ite ?_ ?_
          · refine KeptS.mk ?_
            assumption
          · refine KeptS.ite ?_ ?_
            · refine KeptS.mk ?_
              assumption
            · refine KeptS.ite ?_ ?_
              · refine KeptS.mk ?_
                assumption
              · refine KeptS.ite ?_ ?_
                · refine KeptS.mk ?_
                  assumption
                · refine KeptS.ite ?_ ?_
                  · refine readLow_kept ?_
                    assumption
                  · refine KeptS.ite ?_ ?_
                    · refine readHigh_kept ?_
                      assumption
                    · refine KeptS.ite ?_ ?_
                      · refine readLow_kept ?_
                        assumption
                      · refine KeptS.ite ?_ ?_
                        · refine readHigh_kept ?_
                          assumption
                        · refine KeptS.ite ?_ ?_
                          · refine KeptS.mk ?_
                            assumption
                          · refine KeptS.mk ?_
                            assumption

theorem execStageComplete_kept {kp : Keep} {s} (hs : Kept kp s) :
    KeptO kp (execStageComplete s) := by
  unfold execStageComplete
  refine KeptO.next ?_
  refine Kept.ite ?_ ?_
  · refine stageComplete_kept ?_
    assumption
  · assumption

theorem stage_kept {kp : Keep} {c s} (hs : Kept kp s) :
    Kept kp (stage c s) := by
  unfold stage
  refine Kept.ite ?_ ?_
  · refine failOp_kept ?_
    assumption
  · refine Kept.ite ?_ ?_
    · refine failOp_kept ?_
      assumption
    · split
      rename_i x1 x2 x3 h4
      have h5 : Kept kp x2 := by
        refine KeptF.of_eq h4 ?_
        refine readBuffer_kept ?_
        assumption
      extract_lets +onlyGivenNames -merge -useContext x6; clear_value x6
      extract_lets +onlyGivenNames -merge -useContext x7; clear_value x7
      refine Kept.ite ?_ ?_
      · refine stageBroken_kept ?_
        assumption
      · refine Kept.ite ?_ ?_
        · refine stageRefuse_kept ?_
          assumption
        · split
          rename_i x8 x9 x10 h11
          have h12 : Kept kp x9 := by
            refine KeptF.of_eq h11 ?_
            refine readBuffer_kept ?_
            assumption
          refine Kept.ite ?_ ?_
          · refine stageBroken_kept ?_
            assumption
          · refine Kept.ite ?_ ?_
            · refine stageRefuse_kept ?_
              assumption
            · refine stageBegin_kept ?_
              assumption

theorem execStage_kept {kp : Keep} {n s} (hs : Kept kp s) :
    KeptO kp (execStage n s) := by
  unfold execStage
  refine KeptO.next ?_
  refine takeOp_kept ?_ ?_
  · intro x1 x2 h3
    refine stage_kept ?_
    assumption
  · assumption

theorem updStep7_kept {kp : Keep} {s} (hs : Kept kp s) :
    Kept kp (updStep7 s) := by
  unfold updStep7
  refine Kept.ite ?_ ?_
  · assumption
  · refine updEvent_kept ?_
    extract_lets +onlyGivenNames -merge -useContext x1
    have hx1 : Kept kp x1 := by
      unfold x1
      refine toNewSet_kept ?_
      assumption
    clear_value x1
    refine Kept.upd rfl rfl ?_
    assumption

theorem updDescent_kept {kp : Keep} {s} (hs : Kept kp s) :
    Kept kp (updDescent s) := by
  unfold updDescent
  extract_lets +onlyGivenNames -merge -useContext x1
  have hx1 : Kept kp x1 := by
    unfold x1
    refine stageCut_kept ?_
    assumption
  clear_value x1
  refine Kept.ite ?_ ?_
  · refine Kept.upd rfl rfl ?_
    assumption
  · assumption

end Sys2Proof.Machine
end

