-- ==== Sys2Proof/Laws/KeptDrain.lean ====
section
/-!
SUPPORT. What the operations of Sys2Proof/Machine/Drain.lean keep (see Sys2Proof/Laws/Kept.lean).
-/

namespace Sys2Proof.Machine

theorem stageStop_kept {kp : Keep} {n s} (hs : Kept kp s) :
    Kept kp (stageStop n s) := by
  unfold stageStop
  split
  · rename_i x1 h2
    assumption
  · rename_i x3 x4 h5
    refine Kept.ite ?_ ?_
    · refine updEvent_kept ?_
      extract_lets +onlyGivenNames -merge -useContext x6; clear_value x6
      extract_lets +onlyGivenNames -merge -useContext x7
      have hx7 : Kept kp x7 := by
        unfold x7
        refine State.setOp_kept ?_
        assumption
      clear_value x7
      refine Kept.upd rfl rfl ?_
      assumption
    · assumption

theorem execDrainBoundaryStop_kept {kp : Keep} {n s} (hs : Kept kp s) :
    KeptO kp (execDrainBoundaryStop n s) := by
  unfold execDrainBoundaryStop
  refine KeptO.next ?_
  refine cutRing_kept ?_
  refine stageStop_kept ?_
  assumption

end Sys2Proof.Machine
end

