-- ==== Sys2Proof/Laws/KeptMailbox.lean ====
section
/-!
SUPPORT. What the operations of Sys2Proof/Machine/Mailbox.lean keep (see Sys2Proof/Laws/Kept.lean).
-/

namespace Sys2Proof.Machine

theorem mbxRefused_kept {kp : Keep} {m a reason s} (hs : Kept kp s) :
    Kept kp (mbxRefused m a reason s) := by
  unfold mbxRefused
  refine raise_kept ?_
  assumption

theorem State.setBox_kept {kp : Keep} {s m b} (hs : Kept kp s) :
    Kept kp (State.setBox s m b) := by
  unfold State.setBox
  refine Kept.upd rfl rfl ?_
  assumption

theorem postBox_kept {kp : Keep} {m s} (hs : Kept kp s) :
    Kept kp (postBox m s) := by
  unfold postBox
  extract_lets +onlyGivenNames -merge -useContext x1; clear_value x1
  extract_lets +onlyGivenNames -merge -useContext x2; clear_value x2
  refine raise_kept ?_
  refine State.setBox_kept ?_
  assumption

theorem mbxGo_kept {kp : Keep} {a m s} (hs : Kept kp s) :
    Kept kp (mbxGo a m s) := by
  unfold mbxGo
  extract_lets +onlyGivenNames -merge -useContext x1; clear_value x1
  refine Kept.ite ?_ ?_
  · refine State.reply_kept ?_
    refine mbxRefused_kept ?_
    assumption
  · refine Kept.ite ?_ ?_
    · refine mbxRefused_kept ?_
      assumption
    · refine Kept.ite ?_ ?_
      · refine mbxRefused_kept ?_
        assumption
      · refine Kept.ite ?_ ?_
        · refine mbxRefused_kept ?_
          assumption
        · refine Kept.ite ?_ ?_
          · refine State.reply_kept ?_
            refine raise_kept ?_
            assumption
          · refine Kept.ite ?_ ?_
            · refine mbxRefused_kept ?_
              assumption
            · refine postBox_kept ?_
              assumption

theorem mbxDenied_kept {kp : Keep} {a m reason s} (hs : Kept kp s) :
    Kept kp (mbxDenied a m reason s) := by
  unfold mbxDenied
  refine State.reply_kept ?_
  refine mbxRefused_kept ?_
  assumption

theorem mbxFieldWrite_kept {kp : Keep} {a m word v s} (hs : Kept kp s) :
    Kept kp (mbxFieldWrite a m word v s) := by
  unfold mbxFieldWrite
  extract_lets +onlyGivenNames -merge -useContext x1; clear_value x1
  split
  · rename_i x2 x3 h4
    refine mbxDenied_kept ?_
    assumption
  · rename_i x5 h6
    refine Kept.ite ?_ ?_
    · refine State.setBox_kept ?_
      assumption
    · refine State.setBox_kept ?_
      assumption

theorem emptyBox_kept {kp : Keep} {m flushed domainOff s} (hs : Kept kp s) :
    Kept kp (emptyBox m flushed domainOff s) := by
  unfold emptyBox
  extract_lets +onlyGivenNames -merge -useContext x1; clear_value x1
  extract_lets +onlyGivenNames -merge -useContext x2
  have hx2 : Kept kp x2 := by
    unfold x2
    refine State.setBox_kept ?_
    assumption
  clear_value x2
  refine raise_kept ?_
  refine Kept.upd rfl rfl ?_
  assumption

theorem mbxRel_kept {kp : Keep} {a m s} (hs : Kept kp s) :
    Kept kp (mbxRel a m s) := by
  unfold mbxRel
  extract_lets +onlyGivenNames -merge -useContext x1; clear_value x1
  refine Kept.ite ?_ ?_
  · refine State.reply_kept ?_
    refine mbxRefused_kept ?_
    assumption
  · refine Kept.ite ?_ ?_
    · assumption
    · refine Kept.ite ?_ ?_
      · refine mbxRefused_kept ?_
        assumption
      · refine emptyBox_kept ?_
        assumption

theorem mbxCtlWrite_kept {kp : Keep} {a m v s} (hs : Kept kp s) :
    Kept kp (mbxCtlWrite a m v s) := by
  unfold mbxCtlWrite
  refine Kept.ite ?_ ?_
  · refine State.reply_kept ?_
    refine mbxRefused_kept ?_
    assumption
  · refine Kept.ite ?_ ?_
    · refine mbxRefused_kept ?_
      assumption
    · refine Kept.ite ?_ ?_
      · refine mbxGo_kept ?_
        assumption
      · refine Kept.ite ?_ ?_
        · refine mbxRel_kept ?_
          assumption
        · assumption

theorem mbxCfgWrite_kept {kp : Keep} {a m v s} (hs : Kept kp s) :
    Kept kp (mbxCfgWrite a m v s) := by
  unfold mbxCfgWrite
  extract_lets +onlyGivenNames -merge -useContext x1; clear_value x1
  refine Kept.ite ?_ ?_
  · refine State.reply_kept ?_
    refine mbxRefused_kept ?_
    assumption
  · refine Kept.ite ?_ ?_
    · assumption
    · refine State.setBox_kept ?_
      assumption

theorem pitonRelease_kept {kp : Keep} {a k v s} (hs : Kept kp s) :
    Kept kp (pitonRelease a k v s) := by
  unfold pitonRelease
  extract_lets +onlyGivenNames -merge -useContext x1; clear_value x1
  refine Kept.ite ?_ ?_
  · refine Kept.upd rfl rfl ?_
    assumption
  · refine raise_kept ?_
    assumption

theorem mbxViolation_kept {kp : Keep} {s} (hs : Kept kp s) :
    Kept kp (mbxViolation s) := by
  unfold mbxViolation
  refine Kept.upd rfl rfl ?_
  assumption

theorem secureStatus_kept {kp : Keep} {a s k} (hs : Kept kp s) (hk : ∀ y1, Kept kp y1 → Kept kp (k y1)) :
    Kept kp (secureStatus a s k) := by
  unfold secureStatus
  refine Kept.ite ?_ ?_
  · apply hk
    assumption
  · refine State.reply_kept ?_
    refine mbxViolation_kept ?_
    assumption

theorem mbxWrite_kept {kp : Keep} {a off v s} (hs : Kept kp s) :
    Kept kp (mbxWrite a off v s) := by
  unfold mbxWrite
  refine Kept.ite ?_ ?_
  · extract_lets +onlyGivenNames -merge -useContext x1
    clear_value x1
    extract_lets +onlyGivenNames -merge -useContext x2; clear_value x2
    refine Kept.ite ?_ ?_
    · refine mbxFieldWrite_kept ?_
      assumption
    · refine Kept.ite ?_ ?_
      · refine mbxCtlWrite_kept ?_
        assumption
      · refine Kept.ite ?_ ?_
        · refine mbxFieldWrite_kept ?_
          assumption
        · assumption
  · refine Kept.ite ?_ ?_
    · refine mbxCfgWrite_kept ?_
      assumption
    · refine Kept.ite ?_ ?_
      · refine pitonRelease_kept ?_
        assumption
      · refine Kept.ite ?_ ?_
        · refine secureStatus_kept ?_ ?_
          · assumption
          · intro x3 h4
            refine Kept.ident ?_
            assumption
        · refine Kept.ite ?_ ?_
          · refine secureStatus_kept ?_ ?_
            · assumption
            · intro x5 h6
              refine Kept.upd rfl rfl ?_
              assumption
          · refine Kept.ite ?_ ?_
            · refine Kept.upd rfl rfl ?_
              assumption
            · refine Kept.ite ?_ ?_
              · refine Kept.upd rfl rfl ?_
                assumption
              · refine Kept.ite ?_ ?_
                · refine Kept.upd rfl rfl ?_
                  assumption
                · assumption

theorem flushReceivers_kept {kp : Keep} {ids domainOff s} (hs : Kept kp s) :
    Kept kp (flushReceivers ids domainOff s) := by
  unfold flushReceivers
  refine Kept.foldl ?_ ?_
  · intro x1 x2 h3
    refine Kept.ite ?_ ?_
    · refine emptyBox_kept ?_
      assumption
    · assumption
  · assumption

theorem pitonRead_kept {kp : Keep} {k id s} (hs : Kept kp s) :
    KeptS kp (pitonRead k id s) := by
  unfold pitonRead
  extract_lets +onlyGivenNames -merge -useContext x1; clear_value x1
  refine KeptS.ite ?_ ?_
  · refine KeptS.mk ?_
    refine Kept.upd rfl rfl ?_
    assumption
  · refine KeptS.mk ?_
    assumption

theorem pitonServe_kept {kp : Keep} {k wide s a} (hs : Kept kp s) :
    Kept kp (pitonServe k wide s a) := by
  unfold pitonServe
  extract_lets +onlyGivenNames -merge -useContext x1; clear_value x1
  extract_lets +onlyGivenNames -merge -useContext x2
  have hx2 : Kept kp x2 := by
    unfold x2
    refine gate_kept ?_ ?_
    · assumption
    · intro x3 h4
      refine Kept.ite ?_ ?_
      · refine State.reply_kept ?_
        refine mbxViolation_kept ?_
        assumption
      · split
        rename_i x5 x6 x7 h8
        have h9 : Kept kp x7 := by
          refine KeptS.of_eq h8 ?_
          refine pitonRead_kept ?_
          assumption
        refine State.replyWord_kept ?_
        assumption
  clear_value x2
  refine Kept.upd rfl rfl ?_
  assumption

theorem pitonAcquire_kept {kp : Keep} {k readers wide s} (hs : Kept kp s) :
    Kept kp (pitonAcquire k readers wide s) := by
  unfold pitonAcquire
  refine Kept.foldl ?_ ?_
  · intro x1 x2 h3
    refine pitonServe_kept ?_
    assumption
  · refine Kept.upd rfl rfl ?_
    assumption

theorem mbxOdd_kept {kp : Keep} {a off write s} (hs : Kept kp s) :
    Kept kp (mbxOdd a off write s) := by
  unfold mbxOdd
  extract_lets +onlyGivenNames -merge -useContext x1
  have hx1 : Kept kp x1 := by
    unfold x1
    refine State.reply_kept ?_
    assumption
  clear_value x1
  refine Kept.ite ?_ ?_
  · extract_lets +onlyGivenNames -merge -useContext x2
    clear_value x2
    extract_lets +onlyGivenNames -merge -useContext x3; clear_value x3
    refine Kept.ite ?_ ?_
    · refine Kept.ite ?_ ?_
      · refine mbxRefused_kept ?_
        assumption
      · assumption
    · refine Kept.ite ?_ ?_
      · assumption
      · split
        · rename_i x4 x5 h6
          refine mbxRefused_kept ?_
          assumption
        · rename_i x7 h8
          assumption
  · refine Kept.ite ?_ ?_
    · extract_lets +onlyGivenNames -merge -useContext x9
      clear_value x9
      refine Kept.ite ?_ ?_
      · refine mbxRefused_kept ?_
        assumption
      · assumption
    · refine Kept.ite ?_ ?_
      · refine mbxViolation_kept ?_
        assumption
      · refine Kept.ite ?_ ?_
        · refine mbxViolation_kept ?_
          assumption
        · assumption

theorem freePitons_kept {kp : Keep} {ids s} (hs : Kept kp s) :
    Kept kp (freePitons ids s) := by
  unfold freePitons
  extract_lets +onlyGivenNames -merge -useContext x1; clear_value x1
  refine Kept.upd rfl rfl ?_
  assumption

theorem mbxPowerDown_kept {kp : Keep} {s} (hs : Kept kp s) :
    Kept kp (mbxPowerDown s) := by
  unfold mbxPowerDown
  extract_lets +onlyGivenNames -merge -useContext x1
  have hx1 : Kept kp x1 := by
    unfold x1
    refine Kept.foldl ?_ ?_
    · intro x2 x3 h4
      refine Kept.ite ?_ ?_
      · refine emptyBox_kept ?_
        assumption
      · assumption
    · assumption
  clear_value x1
  refine Kept.upd rfl rfl ?_
  assumption

theorem mbxFieldRead_kept {kp : Keep} {a m word s} (hs : Kept kp s) :
    Kept kp (mbxFieldRead a m word s) := by
  unfold mbxFieldRead
  split
  · rename_i x1 x2 h3
    refine mbxDenied_kept ?_
    assumption
  · rename_i x4 h5
    refine State.replyWord_kept ?_
    assumption

theorem mbxRead_kept {kp : Keep} {a off s} (hs : Kept kp s) :
    Kept kp (mbxRead a off s) := by
  unfold mbxRead
  refine Kept.ite ?_ ?_
  · extract_lets +onlyGivenNames -merge -useContext x1
    clear_value x1
    extract_lets +onlyGivenNames -merge -useContext x2; clear_value x2
    refine Kept.ite ?_ ?_
    · refine mbxFieldRead_kept ?_
      assumption
    · refine Kept.ite ?_ ?_
      · refine mbxFieldRead_kept ?_
        assumption
      · refine Kept.ite ?_ ?_
        · refine mbxDenied_kept ?_
          assumption
        · refine State.replyWord_kept ?_
          assumption
  · refine Kept.ite ?_ ?_
    · extract_lets +onlyGivenNames -merge -useContext x3
      clear_value x3
      refine Kept.ite ?_ ?_
      · refine mbxDenied_kept ?_
        assumption
      · refine State.replyWord_kept ?_
        assumption
    · refine Kept.ite ?_ ?_
      · split
        rename_i x4 x5 x6 h7
        have h8 : Kept kp x6 := by
          refine KeptS.of_eq h7 ?_
          refine pitonRead_kept ?_
          assumption
        refine State.replyWord_kept ?_
        assumption
      · refine Kept.ite ?_ ?_
        · refine State.replyWord_kept ?_
          assumption
        · refine Kept.ite ?_ ?_
          · refine State.replyWord_kept ?_
            assumption
          · refine Kept.ite ?_ ?_
            · refine secureStatus_kept ?_ ?_
              · assumption
              · intro x9 h10
                refine State.replyWord_kept ?_
                assumption
            · refine Kept.ite ?_ ?_
              · refine State.replyWord_kept ?_
                assumption
              · refine Kept.ite ?_ ?_
                · refine secureStatus_kept ?_ ?_
                  · assumption
                  · intro x11 h12
                    refine State.replyWord_kept ?_
                    assumption
                · refine Kept.ite ?_ ?_
                  · refine State.replyWord_kept ?_
                    assumption
                  · refine Kept.ite ?_ ?_
                    · refine State.replyWord_kept ?_
                      assumption
                    · refine Kept.ite ?_ ?_
                      · refine State.replyWord_kept ?_
                        assumption
                      · refine Kept.ite ?_ ?_
                        · refine State.replyWord_kept ?_
                          refine Kept.upd rfl rfl ?_
                          assumption
                        · refine State.replyWord_kept ?_
                          assumption

theorem execMbxDataAccess_kept {kp : Keep} {a m word wr s} (hs : Kept kp s) :
    KeptO kp (execMbxDataAccess a m word wr s) := by
  unfold execMbxDataAccess
  refine KeptO.next ?_
  split
  · rename_i x1 x2
    refine gateWrite_kept ?_ ?_
    · assumption
    · intro x3 h4
      refine mbxFieldWrite_kept ?_
      assumption
  · rename_i x5
    refine gate_kept ?_ ?_
    · assumption
    · intro x6 h7
      refine mbxFieldRead_kept ?_
      assumption

theorem execPitonAcquire_kept {kp : Keep} {k readers wide s} (hs : Kept kp s) :
    KeptO kp (execPitonAcquire k readers wide s) := by
  unfold execPitonAcquire
  refine KeptO.next ?_
  refine pitonAcquire_kept ?_
  assumption

theorem execMbxGo_kept {kp : Keep} {a m s} (hs : Kept kp s) :
    KeptO kp (execMbxGo a m s) := by
  unfold execMbxGo
  refine KeptO.next ?_
  refine gateWrite_kept ?_ ?_
  · assumption
  · intro x1 h2
    refine mbxCtlWrite_kept ?_
    assumption

theorem execPitonRelease_kept {kp : Keep} {a k v s} (hs : Kept kp s) :
    KeptO kp (execPitonRelease a k v s) := by
  unfold execPitonRelease
  refine KeptO.next ?_
  refine gateWrite_kept ?_ ?_
  · assumption
  · intro x1 h2
    refine pitonRelease_kept ?_
    assumption

theorem execMbxRel_kept {kp : Keep} {a m s} (hs : Kept kp s) :
    KeptO kp (execMbxRel a m s) := by
  unfold execMbxRel
  refine KeptO.next ?_
  refine gateWrite_kept ?_ ?_
  · assumption
  · intro x1 h2
    refine mbxCtlWrite_kept ?_
    assumption

theorem execMbxCfgWrite_kept {kp : Keep} {a m v s} (hs : Kept kp s) :
    KeptO kp (execMbxCfgWrite a m v s) := by
  unfold execMbxCfgWrite
  refine KeptO.next ?_
  refine gateWrite_kept ?_ ?_
  · assumption
  · intro x1 h2
    refine mbxCfgWrite_kept ?_
    assumption

theorem endpointsOff_kept {kp : Keep} {ids s} (hs : Kept kp s) :
    Kept kp (endpointsOff ids s) := by
  unfold endpointsOff
  refine freePitons_kept ?_
  refine flushReceivers_kept ?_
  assumption

theorem bumpEpochs_kept {kp : Keep} {ids s} (hs : Kept kp s) :
    Kept kp (bumpEpochs ids s) := by
  unfold bumpEpochs
  refine Kept.upd rfl rfl ?_
  assumption

theorem resetEndpoints_kept {kp : Keep} {ids s} (hs : Kept kp s) :
    Kept kp (resetEndpoints ids s) := by
  unfold resetEndpoints
  refine freePitons_kept ?_
  refine flushReceivers_kept ?_
  refine bumpEpochs_kept ?_
  assumption

end Sys2Proof.Machine
end

