-- ==== Sys2Proof/Laws/KeptTeam.lean ====
section
/-!
SUPPORT. What the operations of Sys2Proof/Machine/Team.lean keep (see Sys2Proof/Laws/Kept.lean).
-/

namespace Sys2Proof.Machine

theorem rtlEvent_kept {kp : Keep} {src code data s} (hs : Kept kp s) :
    Kept kp (rtlEvent src code data s) := by
  unfold rtlEvent
  refine raiseAt_kept ?_
  assumption

theorem twinUpChange_kept {kp : Keep} {s} (hs : Kept kp s) :
    Kept kp (twinUpChange s) := by
  unfold twinUpChange
  extract_lets +onlyGivenNames -merge -useContext x1; clear_value x1
  refine Kept.ite ?_ ?_
  · assumption
  · extract_lets +onlyGivenNames -merge -useContext x2
    clear_value x2
    extract_lets +onlyGivenNames -merge -useContext x3
    have hx3 : Kept kp x3 := by
      unfold x3
      refine rtlEvent_kept ?_
      refine Kept.upd rfl rfl ?_
      assumption
    clear_value x3
    refine Kept.ite ?_ ?_
    · refine disciplineSourceLost_kept ?_
      assumption
    · assumption

theorem whileTeam_kept {kp : Keep} {s k} (hs : Kept kp s) (hk : ∀ y1, Kept kp y1 → Kept kp (k y1)) :
    KeptO kp (whileTeam s k) := by
  unfold whileTeam
  refine KeptO.next ?_
  refine Kept.ite ?_ ?_
  · apply hk
    assumption
  · assumption

theorem takeover_kept {kp : Keep} {code s k} (hs : Kept kp s) (hk : ∀ y1, Kept kp y1 → Kept kp (k y1)) :
    Kept kp (takeover code s k) := by
  unfold takeover
  extract_lets +onlyGivenNames -merge -useContext x1; clear_value x1
  refine rtlEvent_kept ?_
  apply hk
  assumption

theorem endHandover_kept {kp : Keep} {code status s} (hs : Kept kp s) :
    Kept kp (endHandover code status s) := by
  unfold endHandover
  split
  · rename_i x1 h2
    assumption
  · rename_i x3 x4 h5
    extract_lets +onlyGivenNames -merge -useContext x6; clear_value x6
    extract_lets +onlyGivenNames -merge -useContext x7
    have hx7 : Kept kp x7 := by
      unfold x7
      refine Kept.upd rfl rfl ?_
      assumption
    clear_value x7
    extract_lets +onlyGivenNames -merge -useContext x8
    have hx8 : Kept kp x8 := by
      unfold x8
      split
      · rename_i x9 x10 h11
        refine finishAt_kept ?_
        assumption
      · rename_i x12 h13
        assumption
    clear_value x8
    refine raiseAt_kept ?_
    assumption

theorem cancelHandover_kept {kp : Keep} {s} (hs : Kept kp s) :
    Kept kp (cancelHandover s) := by
  unfold cancelHandover
  refine endHandover_kept ?_
  assumption

theorem leadSends_kept {kp : Keep} {s} (hs : Kept kp s) :
    Kept kp (leadSends s) := by
  unfold leadSends
  refine Kept.upd rfl rfl ?_
  assumption

theorem endSlew_kept {kp : Keep} {s} (hs : Kept kp s) :
    Kept kp (endSlew s) := by
  unfold endSlew
  refine Kept.ite ?_ ?_
  · refine rtlEvent_kept ?_
    refine Kept.upd rfl rfl ?_
    assumption
  · assumption

theorem setTeam_kept {kp : Keep} {role st s} (hs : Kept kp s) :
    Kept kp (setTeam role st s) := by
  unfold setTeam
  extract_lets +onlyGivenNames -merge -useContext x1; clear_value x1
  extract_lets +onlyGivenNames -merge -useContext x2; clear_value x2
  extract_lets +onlyGivenNames -merge -useContext x3
  have hx3 : Kept kp x3 := by
    unfold x3
    refine Kept.upd rfl rfl ?_
    assumption
  clear_value x3
  extract_lets +onlyGivenNames -merge -useContext x4; clear_value x4
  extract_lets +onlyGivenNames -merge -useContext x5
  have hx5 : Kept kp x5 := by
    unfold x5
    refine Kept.ite ?_ ?_
    · assumption
    · refine rtlEvent_kept ?_
      refine Kept.upd rfl rfl ?_
      assumption
  clear_value x5
  refine Kept.ite ?_ ?_
  · assumption
  · refine rtlEvent_kept ?_
    refine Kept.upd rfl rfl ?_
    assumption

theorem fitSource_kept {kp : Keep} {s} (hs : Kept kp s) :
    Kept kp (fitSource s) := by
  unfold fitSource
  split
  · rename_i x1 h2
    assumption
  · rename_i x3 x4 h5
    refine Kept.ite ?_ ?_
    · assumption
    · refine disciplineSourceLost_kept ?_
      assumption

theorem stepUp_kept {kp : Keep} {st s} (hs : Kept kp s) :
    Kept kp (stepUp st s) := by
  unfold stepUp
  extract_lets +onlyGivenNames -merge -useContext x1
  have hx1 : Kept kp x1 := by
    unfold x1
    refine endSlew_kept ?_
    refine setTeam_kept ?_
    assumption
  clear_value x1
  extract_lets +onlyGivenNames -merge -useContext x2
  have hx2 : Kept kp x2 := by
    unfold x2
    refine lkoTakeover_kept ?_
    refine bceTakeover_kept ?_
    assumption
  clear_value x2
  extract_lets +onlyGivenNames -merge -useContext x3
  have hx3 : Kept kp x3 := by
    unfold x3
    refine yldTakeover_kept ?_
    refine canRoleTaken_kept ?_
    assumption
  clear_value x3
  refine fitSource_kept ?_
  refine Kept.upd rfl rfl ?_
  assumption

theorem leadLost_kept {kp : Keep} {s} (hs : Kept kp s) :
    Kept kp (leadLost s) := by
  unfold leadLost
  extract_lets +onlyGivenNames -merge -useContext x1; clear_value x1
  refine Kept.ite ?_ ?_
  · assumption
  · refine takeover_kept ?_ ?_
    · refine cancelHandover_kept ?_
      assumption
    · intro x2 h3
      refine leadSends_kept ?_
      refine stepUp_kept ?_
      assumption

theorem execLeadLost_kept {kp : Keep} {s} (hs : Kept kp s) :
    KeptO kp (execLeadLost s) := by
  unfold execLeadLost
  refine whileTeam_kept ?_ ?_
  · assumption
  · intro x1 h2
    refine leadLost_kept ?_
    assumption

theorem pairChange_kept {kp : Keep} {pair up s} (hs : Kept kp s) :
    Kept kp (pairChange pair up s) := by
  unfold pairChange
  extract_lets +onlyGivenNames -merge -useContext x1; clear_value x1
  refine Kept.ite ?_ ?_
  · assumption
  · extract_lets +onlyGivenNames -merge -useContext x2
    clear_value x2
    extract_lets +onlyGivenNames -merge -useContext x3; clear_value x3
    extract_lets +onlyGivenNames -merge -useContext x4; clear_value x4
    extract_lets +onlyGivenNames -merge -useContext x5
    have hx5 : Kept kp x5 := by
      unfold x5
      refine Kept.ite ?_ ?_
      · refine Kept.upd rfl rfl ?_
        assumption
      · refine Kept.ite ?_ ?_
        · refine Kept.upd rfl rfl ?_
          assumption
        · refine Kept.upd rfl rfl ?_
          assumption
    clear_value x5
    refine rtlEvent_kept ?_
    assumption

theorem rtlCtlWrite_kept {kp : Keep} {v s} (hs : Kept kp s) :
    Kept kp (rtlCtlWrite v s) := by
  unfold rtlCtlWrite
  extract_lets +onlyGivenNames -merge -useContext x1; clear_value x1
  extract_lets +onlyGivenNames -merge -useContext x2; clear_value x2
  extract_lets +onlyGivenNames -merge -useContext x3; clear_value x3
  refine Kept.ite ?_ ?_
  · extract_lets +onlyGivenNames -merge -useContext x4
    clear_value x4
    extract_lets +onlyGivenNames -merge -useContext x5
    have hx5 : Kept kp x5 := by
      unfold x5
      refine Kept.upd rfl rfl ?_
      assumption
    clear_value x5
    extract_lets +onlyGivenNames -merge -useContext x6
    have hx6 : Kept kp x6 := by
      unfold x6
      refine Kept.ite ?_ ?_
      · assumption
      · refine pairChange_kept ?_
        assumption
    clear_value x6
    refine Kept.ite ?_ ?_
    · assumption
    · extract_lets +onlyGivenNames -merge -useContext x7
      clear_value x7
      refine Kept.upd rfl rfl ?_
      assumption
  · refine Kept.ite ?_ ?_
    · refine Kept.upd rfl rfl ?_
      assumption
    · refine Kept.ite ?_ ?_
      · assumption
      · refine Kept.ite ?_ ?_
        · refine Kept.upd rfl rfl ?_
          assumption
        · refine Kept.upd rfl rfl ?_
          assumption

theorem execRtlEnable_kept {kp : Keep} {a v s} (hs : Kept kp s) :
    KeptO kp (execRtlEnable a v s) := by
  unfold execRtlEnable
  refine KeptO.next ?_
  refine gateWrite_kept ?_ ?_
  · assumption
  · intro x1 h2
    refine rtlCtlWrite_kept ?_
    assumption

theorem alignedSet_kept {kp : Keep} {s} (hs : Kept kp s) :
    Kept kp (alignedSet s) := by
  unfold alignedSet
  refine Kept.ite ?_ ?_
  · refine rtlEvent_kept ?_
    refine Kept.upd rfl rfl ?_
    assumption
  · assumption

theorem execAlignedSet_kept {kp : Keep} {s} (hs : Kept kp s) :
    KeptO kp (execAlignedSet s) := by
  unfold execAlignedSet
  refine whileTeam_kept ?_ ?_
  · assumption
  · intro x1 h2
    refine alignedSet_kept ?_
    assumption

theorem ckptPut_kept {kp : Keep} {e c s} (hs : Kept kp s) :
    Kept kp (ckptPut e c s) := by
  unfold ckptPut
  refine Kept.ite ?_ ?_
  · refine failOp_kept ?_
    assumption
  · refine Kept.ite ?_ ?_
    · refine failOp_kept ?_
      assumption
    · extract_lets +onlyGivenNames -merge -useContext x1
      clear_value x1
      extract_lets +onlyGivenNames -merge -useContext x2; clear_value x2
      refine readWhole_kept ?_ ?_
      · assumption
      · intro x3 x4 h5
        extract_lets +onlyGivenNames -merge -useContext x6; clear_value x6
        split
        · rename_i x7 x8 h9
          refine finishOp_kept ?_
          refine Kept.upd rfl rfl ?_
          assumption
        · rename_i x10 x11 x12 h13
          refine failOp_kept ?_
          refine Kept.upd rfl rfl ?_
          assumption
        · rename_i x14 x15 x16 h17 h18
          refine failOp_kept ?_
          assumption

theorem execCkptPut_kept {kp : Keep} {n e s} (hs : Kept kp s) :
    KeptO kp (execCkptPut n e s) := by
  unfold execCkptPut
  refine KeptO.next ?_
  refine takeOp_kept ?_ ?_
  · intro x1 x2 h3
    refine ckptPut_kept ?_
    assumption
  · assumption

theorem execPairLinkChange_kept {kp : Keep} {pair up s} (hs : Kept kp s) :
    KeptO kp (execPairLinkChange pair up s) := by
  unfold execPairLinkChange
  refine whileTeam_kept ?_ ?_
  · assumption
  · intro x1 h2
    refine pairChange_kept ?_
    assumption

theorem execTwinUpChange_kept {kp : Keep} {s} (hs : Kept kp s) :
    KeptO kp (execTwinUpChange s) := by
  unfold execTwinUpChange
  refine whileTeam_kept ?_ ?_
  · assumption
  · intro x1 h2
    refine twinUpChange_kept ?_
    assumption

theorem handover_kept {kp : Keep} {c s} (hs : Kept kp s) :
    Kept kp (handover c s) := by
  unfold handover
  extract_lets +onlyGivenNames -merge -useContext x1; clear_value x1
  extract_lets +onlyGivenNames -merge -useContext x2; clear_value x2
  refine Kept.ite ?_ ?_
  · refine failOp_kept ?_
    assumption
  · refine Kept.ite ?_ ?_
    · refine failOp_kept ?_
      assumption
    · refine Kept.ite ?_ ?_
      · refine failOp_kept ?_
        assumption
      · extract_lets +onlyGivenNames -merge -useContext x3
        clear_value x3
        extract_lets +onlyGivenNames -merge -useContext x4
        have hx4 : Kept kp x4 := by
          unfold x4
          refine startOp_kept ?_
          refine Kept.upd rfl rfl ?_
          assumption
        clear_value x4
        refine raise_kept ?_
        assumption

theorem slewCheck_kept {kp : Keep} {s} (hs : Kept kp s) :
    Kept kp (slewCheck s) := by
  unfold slewCheck
  extract_lets +onlyGivenNames -merge -useContext x1; clear_value x1
  refine Kept.ite ?_ ?_
  · assumption
  · refine raise_kept ?_
    refine Kept.upd rfl rfl ?_
    assumption

theorem storeFrameParts_kept {kp : Keep} {f s} (hs : Kept kp s) :
    Kept kp (storeFrameParts f s) := by
  unfold storeFrameParts
  extract_lets +onlyGivenNames -merge -useContext x1
  have hx1 : Kept kp x1 := by
    unfold x1
    refine Kept.foldl ?_ ?_
    · intro x2 x3 h4
      refine bceStore_kept ?_
      assumption
    · assumption
  clear_value x1
  extract_lets +onlyGivenNames -merge -useContext x5
  have hx5 : Kept kp x5 := by
    unfold x5
    refine Kept.foldl ?_ ?_
    · intro x6 x7 h8
      refine storeReplica_kept ?_
      assumption
    · assumption
  clear_value x5
  extract_lets +onlyGivenNames -merge -useContext x9
  have hx9 : Kept kp x9 := by
    unfold x9
    refine Kept.foldl ?_ ?_
    · intro x10 x11 h12
      refine publishSig_kept ?_
      assumption
    · assumption
  clear_value x9
  extract_lets +onlyGivenNames -merge -useContext x13
  have hx13 : Kept kp x13 := by
    unfold x13
    split
    · rename_i x14 x15 h16
      refine Kept.ite ?_ ?_
      · refine leadMapping_kept ?_
        assumption
      · assumption
    · rename_i x17 h18
      assumption
  clear_value x13
  refine yldStore_kept ?_
  assumption

theorem handoverState_kept {kp : Keep} {s e} (hs : Kept kp s) :
    Kept kp (handoverState s e) := by
  unfold handoverState
  extract_lets +onlyGivenNames -merge -useContext x1; clear_value x1
  refine Kept.ite ?_ ?_
  · refine State.setBctx_kept ?_
    assumption
  · refine bceStore_kept ?_
    assumption

theorem handoverFrame_kept {kp : Keep} {bce chans s} (hs : Kept kp s) :
    Kept kp (handoverFrame bce chans s) := by
  unfold handoverFrame
  refine Kept.ite ?_ ?_
  · assumption
  · extract_lets +onlyGivenNames -merge -useContext x1
    have hx1 : Kept kp x1 := by
      unfold x1
      refine Kept.foldl ?_ ?_
      · intro x2 x3 h4
        refine handoverState_kept ?_
        assumption
      · assumption
    clear_value x1
    refine Kept.foldl ?_ ?_
    · intro x5 x6 h7
      refine storeReplica_kept ?_
      assumption
    · assumption

theorem noteCopies_kept {kp : Keep} {a b t s} (hs : Kept kp s) :
    Kept kp (noteCopies a b t s) := by
  unfold noteCopies
  extract_lets +onlyGivenNames -merge -useContext x1; clear_value x1
  extract_lets +onlyGivenNames -merge -useContext x2
  have hx2 : Kept kp x2 := by
    unfold x2
    refine Kept.ite ?_ ?_
    · refine Kept.upd rfl rfl ?_
      assumption
    · assumption
  clear_value x2
  extract_lets +onlyGivenNames -merge -useContext x3; clear_value x3
  extract_lets +onlyGivenNames -merge -useContext x4
  have hx4 : Kept kp x4 := by
    unfold x4
    refine Kept.ite ?_ ?_
    · refine Kept.upd rfl rfl ?_
      assumption
    · assumption
  clear_value x4
  refine Kept.ite ?_ ?_
  · refine rtlEvent_kept ?_
    assumption
  · assumption

theorem measureTheta_kept {kp : Keep} {t a b s} (hs : Kept kp s) :
    Kept kp (measureTheta t a b s) := by
  unfold measureTheta
  extract_lets +onlyGivenNames -merge -useContext x1; clear_value x1
  extract_lets +onlyGivenNames -merge -useContext x2; clear_value x2
  refine slewCheck_kept ?_
  refine Kept.upd rfl rfl ?_
  assumption

theorem takeHandover_kept {kp : Keep} {f s} (hs : Kept kp s) :
    Kept kp (takeHandover f s) := by
  unfold takeHandover
  split
  · rename_i x1 x2 x3 h4 h5
    refine cancelHandover_kept ?_
    assumption
  · rename_i x6 x7 h8 h9
    assumption
  · rename_i x10 x11 x12 h13
    refine Kept.ite ?_ ?_
    · refine Kept.upd rfl rfl ?_
      assumption
    · assumption

theorem tickFrameIn_kept {kp : Keep} {a b f s} (hs : Kept kp s) :
    Kept kp (tickFrameIn a b f s) := by
  unfold tickFrameIn
  refine Kept.ite ?_ ?_
  · assumption
  · extract_lets +onlyGivenNames -merge -useContext x1
    have hx1 : Kept kp x1 := by
      unfold x1
      refine noteCopies_kept ?_
      assumption
    clear_value x1
    refine Kept.ite ?_ ?_
    · assumption
    · extract_lets +onlyGivenNames -merge -useContext x2
      clear_value x2
      extract_lets +onlyGivenNames -merge -useContext x3; clear_value x3
      extract_lets +onlyGivenNames -merge -useContext x4
      have hx4 : Kept kp x4 := by
        unfold x4
        refine Kept.upd rfl rfl ?_
        assumption
      clear_value x4
      extract_lets +onlyGivenNames -merge -useContext x5
      have hx5 : Kept kp x5 := by
        unfold x5
        refine Kept.ite ?_ ?_
        · refine rtlEvent_kept ?_
          assumption
        · assumption
      clear_value x5
      extract_lets +onlyGivenNames -merge -useContext x6
      have hx6 : Kept kp x6 := by
        unfold x6
        refine storeFrameParts_kept ?_
        assumption
      clear_value x6
      extract_lets +onlyGivenNames -merge -useContext x7
      have hx7 : Kept kp x7 := by
        unfold x7
        split
        · rename_i x8 x9 x10 x11 h12 h13
          refine measureTheta_kept ?_
          assumption
        · rename_i x14 x15 h16
          assumption
      clear_value x7
      extract_lets +onlyGivenNames -merge -useContext x17
      have hx17 : Kept kp x17 := by
        unfold x17
        refine takeHandover_kept ?_
        assumption
      clear_value x17
      refine KeptF.out ?_
      refine writeEngine_kept ?_
      assumption

theorem execTickFrame_kept {kp : Keep} {a b f s} (hs : Kept kp s) :
    KeptO kp (execTickFrame a b f s) := by
  unfold execTickFrame
  refine whileTeam_kept ?_ ?_
  · assumption
  · intro x1 h2
    refine tickFrameIn_kept ?_
    assumption

theorem handoverCommit_kept {kp : Keep} {s} (hs : Kept kp s) :
    Kept kp (handoverCommit s) := by
  unfold handoverCommit
  split
  · rename_i x1 h2
    assumption
  · rename_i x3 x4 h5
    refine Kept.ite ?_ ?_
    · assumption
    · refine Kept.ite ?_ ?_
      · refine raiseAt_kept ?_
        refine Kept.upd rfl rfl ?_
        assumption
      · refine cancelHandover_kept ?_
        assumption

theorem stepDown_kept {kp : Keep} {wire st s} (hs : Kept kp s) :
    Kept kp (stepDown wire st s) := by
  unfold stepDown
  extract_lets +onlyGivenNames -merge -useContext x1; clear_value x1
  extract_lets +onlyGivenNames -merge -useContext x2
  have hx2 : Kept kp x2 := by
    unfold x2
    refine Kept.ite ?_ ?_
    · refine canRoleWithdrawn_kept ?_
      assumption
    · assumption
  clear_value x2
  extract_lets +onlyGivenNames -merge -useContext x3
  have hx3 : Kept kp x3 := by
    unfold x3
    refine setTeam_kept ?_
    assumption
  clear_value x3
  extract_lets +onlyGivenNames -merge -useContext x4
  have hx4 : Kept kp x4 := by
    unfold x4
    refine yldToSecond_kept ?_
    refine lkoToShadow_kept ?_
    refine bceToShadow_kept ?_
    assumption
  clear_value x4
  extract_lets +onlyGivenNames -merge -useContext x5
  have hx5 : Kept kp x5 := by
    unfold x5
    refine Kept.ite ?_ ?_
    · refine driveWithdraw_kept ?_
      assumption
    · assumption
  clear_value x5
  refine fitSource_kept ?_
  refine Kept.upd rfl rfl ?_
  assumption

theorem handoverExecute_kept {kp : Keep} {wire s} (hs : Kept kp s) :
    Kept kp (handoverExecute wire s) := by
  unfold handoverExecute
  refine Kept.ite ?_ ?_
  · assumption
  · refine Kept.ite ?_ ?_
    · refine stepDown_kept ?_
      refine endHandover_kept ?_
      refine Kept.upd rfl rfl ?_
      assumption
    · refine Kept.ite ?_ ?_
      · refine leadSends_kept ?_
        refine stepUp_kept ?_
        refine endHandover_kept ?_
        assumption
      · assumption

theorem execHandoverExecute_kept {kp : Keep} {wire s} (hs : Kept kp s) :
    KeptO kp (execHandoverExecute wire s) := by
  unfold execHandoverExecute
  refine whileTeam_kept ?_ ?_
  · assumption
  · intro x1 h2
    refine handoverExecute_kept ?_
    assumption

theorem checkpointArrival_kept {kp : Keep} {tag tick g payload s} (hs : Kept kp s) :
    Kept kp (checkpointArrival tag tick g payload s) := by
  unfold checkpointArrival
  refine Kept.ite ?_ ?_
  · assumption
  · split
    · rename_i x1 h2
      assumption
    · rename_i x3 x4 h5
      extract_lets +onlyGivenNames -merge -useContext x6; clear_value x6
      refine writeOut_kept ?_
      assumption

theorem judgeAlone_kept {kp : Keep} {wire s} (hs : Kept kp s) :
    Kept kp (judgeAlone wire s) := by
  unfold judgeAlone
  split
  · rename_i x1 x2 x3 h4 h5
    refine Kept.ite ?_ ?_
    · refine setTeam_kept ?_
      refine Kept.upd rfl rfl ?_
      assumption
    · refine Kept.ite ?_ ?_
      · split
        · rename_i x6 h7
          refine Kept.upd rfl rfl ?_
          assumption
        · rename_i x8 x9 h10
          refine Kept.ite ?_ ?_
          · extract_lets +onlyGivenNames -merge -useContext x11
            clear_value x11
            refine rtlEvent_kept ?_
            refine stepDown_kept ?_
            refine Kept.upd rfl rfl ?_
            assumption
          · assumption
      · refine Kept.upd rfl rfl ?_
        assumption
  · rename_i x12 x13 h14
    refine Kept.upd rfl rfl ?_
    assumption

theorem execHandoverFrame_kept {kp : Keep} {bce chans s} (hs : Kept kp s) :
    KeptO kp (execHandoverFrame bce chans s) := by
  unfold execHandoverFrame
  refine whileTeam_kept ?_ ?_
  · assumption
  · intro x1 h2
    refine handoverFrame_kept ?_
    assumption

theorem teamDescent_kept {kp : Keep} {s} (hs : Kept kp s) :
    Kept kp (teamDescent s) := by
  unfold teamDescent
  refine Kept.ite ?_ ?_
  · assumption
  · extract_lets +onlyGivenNames -merge -useContext x1
    clear_value x1
    extract_lets +onlyGivenNames -merge -useContext x2
    have hx2 : Kept kp x2 := by
      unfold x2
      refine cancelHandover_kept ?_
      refine Kept.upd rfl rfl ?_
      assumption
    clear_value x2
    refine Kept.ite ?_ ?_
    · refine driveWithdraw_kept ?_
      assumption
    · assumption

theorem alignedClear_kept {kp : Keep} {s} (hs : Kept kp s) :
    Kept kp (alignedClear s) := by
  unfold alignedClear
  refine Kept.ite ?_ ?_
  · extract_lets +onlyGivenNames -merge -useContext x1
    clear_value x1
    extract_lets +onlyGivenNames -merge -useContext x2
    have hx2 : Kept kp x2 := by
      unfold x2
      refine rtlEvent_kept ?_
      refine Kept.upd rfl rfl ?_
      assumption
    clear_value x2
    refine Kept.ite ?_ ?_
    · refine cancelHandover_kept ?_
      assumption
    · assumption
  · assumption

theorem execAlignedClear_kept {kp : Keep} {s} (hs : Kept kp s) :
    KeptO kp (execAlignedClear s) := by
  unfold execAlignedClear
  refine whileTeam_kept ?_ ?_
  · assumption
  · intro x1 h2
    refine alignedClear_kept ?_
    assumption

theorem witnessPut_kept {kp : Keep} {s k} (hs : Kept kp s) :
    Kept kp (witnessPut s k) := by
  unfold witnessPut
  refine Kept.ite ?_ ?_
  · assumption
  · extract_lets +onlyGivenNames -merge -useContext x1
    clear_value x1
    refine State.setBuf_kept ?_
    assumption

theorem rtlOff_kept {kp : Keep} {s} (hs : Kept kp s) :
    Kept kp (rtlOff s) := by
  unfold rtlOff
  extract_lets +onlyGivenNames -merge -useContext x1
  have hx1 : Kept kp x1 := by
    unfold x1
    refine pairChange_kept ?_
    refine pairChange_kept ?_
    refine pairChange_kept ?_
    assumption
  clear_value x1
  refine Kept.upd rfl rfl ?_
  assumption

theorem witnessEnd_kept {kp : Keep} {s k} (hs : Kept kp s) :
    Kept kp (witnessEnd s k) := by
  unfold witnessEnd
  extract_lets +onlyGivenNames -merge -useContext x1; clear_value x1
  extract_lets +onlyGivenNames -merge -useContext x2; clear_value x2
  extract_lets +onlyGivenNames -merge -useContext x3
  have hx3 : Kept kp x3 := by
    unfold x3
    refine Kept.ite ?_ ?_
    · refine rtlEvent_kept ?_
      refine Kept.ite ?_ ?_
      · refine State.setBuf_kept ?_
        assumption
      · refine State.setBuf_kept ?_
        assumption
    · assumption
  clear_value x3
  extract_lets +onlyGivenNames -merge -useContext x4; clear_value x4
  extract_lets +onlyGivenNames -merge -useContext x5; clear_value x5
  refine Kept.ite ?_ ?_
  · refine rtlEvent_kept ?_
    assumption
  · assumption

theorem wingWord_kept {kp : Keep} {w edge b s} (hs : Kept kp s) :
    Kept kp (wingWord w edge b s) := by
  unfold wingWord
  refine Kept.ite ?_ ?_
  · assumption
  · refine Kept.ite ?_ ?_
    · refine Kept.upd rfl rfl ?_
      assumption
    · refine measureTheta_kept ?_
      refine Kept.upd rfl rfl ?_
      assumption

theorem witnessAssembly_kept {kp : Keep} {s} (hs : Kept kp s) :
    Kept kp (witnessAssembly s) := by
  unfold witnessAssembly
  refine Kept.ite ?_ ?_
  · assumption
  · extract_lets +onlyGivenNames -merge -useContext x1
    clear_value x1
    refine State.reach_kept ?_ ?_
    · assumption
    · intro x2 h3
      refine Kept.foldl ?_ ?_
      · intro x4 x5 h6
        refine witnessPut_kept ?_
        assumption
      · refine Kept.upd rfl rfl ?_
        assumption

theorem execHandover_kept {kp : Keep} {n s} (hs : Kept kp s) :
    KeptO kp (execHandover n s) := by
  unfold execHandover
  refine KeptO.next ?_
  refine takeOp_kept ?_ ?_
  · intro x1 x2 h3
    refine handover_kept ?_
    assumption
  · assumption

theorem heartbeatIn_kept {kp : Keep} {a b h s} (hs : Kept kp s) :
    Kept kp (heartbeatIn a b h s) := by
  unfold heartbeatIn
  refine Kept.ite ?_ ?_
  · assumption
  · extract_lets +onlyGivenNames -merge -useContext x1
    have hx1 : Kept kp x1 := by
      unfold x1
      refine Kept.ite ?_ ?_
      · refine rtlEvent_kept ?_
        assumption
      · assumption
    clear_value x1
    refine Kept.ite ?_ ?_
    · assumption
    · extract_lets +onlyGivenNames -merge -useContext x2
      clear_value x2
      extract_lets +onlyGivenNames -merge -useContext x3; clear_value x3
      extract_lets +onlyGivenNames -merge -useContext x4
      have hx4 : Kept kp x4 := by
        unfold x4
        refine Kept.upd rfl rfl ?_
        assumption
      clear_value x4
      refine Kept.ite ?_ ?_
      · assumption
      · refine cancelHandover_kept ?_
        assumption

theorem twinWord_kept {kp : Keep} {w edge s} (hs : Kept kp s) :
    Kept kp (twinWord w edge s) := by
  unfold twinWord
  extract_lets +onlyGivenNames -merge -useContext x1; clear_value x1
  extract_lets +onlyGivenNames -merge -useContext x2; clear_value x2
  extract_lets +onlyGivenNames -merge -useContext x3; clear_value x3
  extract_lets +onlyGivenNames -merge -useContext x4
  have hx4 : Kept kp x4 := by
    unfold x4
    refine Kept.upd rfl rfl ?_
    assumption
  clear_value x4
  refine Kept.ite ?_ ?_
  · assumption
  · refine Kept.ite ?_ ?_
    · refine Kept.upd rfl rfl ?_
      assumption
    · refine Kept.ite ?_ ?_
      · refine Kept.upd rfl rfl ?_
        assumption
      · assumption

theorem tickLineWord_kept {kp : Keep} {v edge wing s} (hs : Kept kp s) :
    Kept kp (tickLineWord v edge wing s) := by
  unfold tickLineWord
  refine Kept.ite ?_ ?_
  · assumption
  · split
    · rename_i x1 x2 x3 h4
      refine twinWord_kept ?_
      assumption
    · rename_i x5 x6 x7 x8 h9
      refine wingWord_kept ?_
      assumption
    · rename_i x10 x11 x12 h13
      assumption

theorem rtlRead_kept {kp : Keep} {off s} (hs : Kept kp s) :
    KeptS kp (rtlRead off s) := by
  unfold rtlRead
  extract_lets +onlyGivenNames -merge -useContext x1; clear_value x1
  refine KeptS.ite ?_ ?_
  · refine KeptS.mk ?_
    assumption
  · refine KeptS.ite ?_ ?_
    · refine KeptS.mk ?_
      assumption
    · refine KeptS.ite ?_ ?_
      · refine KeptS.mk ?_
        assumption
      · refine KeptS.ite ?_ ?_
        · refine KeptS.mk ?_
          assumption
        · refine KeptS.ite ?_ ?_
          · refine KeptS.mk ?_
            assumption
          · refine KeptS.ite ?_ ?_
            · refine KeptS.mk ?_
              assumption
            · refine KeptS.ite ?_ ?_
              · refine KeptS.mk ?_
                assumption
              · refine KeptS.ite ?_ ?_
                · refine KeptS.mk ?_
                  assumption
                · refine KeptS.ite ?_ ?_
                  · refine KeptS.mk ?_
                    assumption
                  · refine KeptS.ite ?_ ?_
                    · refine KeptS.mk ?_
                      assumption
                    · refine KeptS.ite ?_ ?_
                      · refine KeptS.mk ?_
                        refine Kept.upd rfl rfl ?_
                        assumption
                      · refine KeptS.mk ?_
                        assumption

theorem witnessFrame_kept {kp : Keep} {w k s} (hs : Kept kp s) :
    Kept kp (witnessFrame w k s) := by
  unfold witnessFrame
  refine Kept.ite ?_ ?_
  · assumption
  · extract_lets +onlyGivenNames -merge -useContext x1
    clear_value x1
    refine Kept.ite ?_ ?_
    · refine Kept.upd rfl rfl ?_
      assumption
    · refine Kept.ite ?_ ?_
      · refine Kept.upd rfl rfl ?_
        assumption
      · assumption

theorem execCkptBuf_kept {kp : Keep} {n s} (hs : Kept kp s) :
    KeptO kp (execCkptBuf n s) := by
  unfold execCkptBuf
  refine KeptO.next ?_
  refine takeOp_kept ?_ ?_
  · intro x1 x2 h3
    refine poolCheck_kept ?_
    assumption
  · assumption

theorem staleHandover_kept {kp : Keep} {s} (hs : Kept kp s) :
    Kept kp (staleHandover s) := by
  unfold staleHandover
  split
  · rename_i x1 x2 h3
    refine Kept.ite ?_ ?_
    · refine cancelHandover_kept ?_
      assumption
    · assumption
  · rename_i x4 h5
    assumption

theorem execWitnessFrame_kept {kp : Keep} {w k s} (hs : Kept kp s) :
    KeptO kp (execWitnessFrame w k s) := by
  unfold execWitnessFrame
  refine whileTeam_kept ?_ ?_
  · assumption
  · intro x1 h2
    refine witnessFrame_kept ?_
    assumption

theorem driveWithdrawAt_kept {kp : Keep} {s} (hs : Kept kp s) :
    Kept kp (driveWithdrawAt s) := by
  unfold driveWithdrawAt
  refine Kept.ite ?_ ?_
  · assumption
  · refine State.reach_kept ?_ ?_
    · assumption
    · intro x1 h2
      refine driveWithdraw_kept ?_
      assumption

theorem execHeartbeat_kept {kp : Keep} {a b h s} (hs : Kept kp s) :
    KeptO kp (execHeartbeat a b h s) := by
  unfold execHeartbeat
  refine whileTeam_kept ?_ ?_
  · assumption
  · intro x1 h2
    refine heartbeatIn_kept ?_
    assumption

theorem execWitnessAssembly_kept {kp : Keep} {s} (hs : Kept kp s) :
    KeptO kp (execWitnessAssembly s) := by
  unfold execWitnessAssembly
  refine whileTeam_kept ?_ ?_
  · assumption
  · intro x1 h2
    refine witnessAssembly_kept ?_
    assumption

theorem judgeTeam_kept {kp : Keep} {wire s} (hs : Kept kp s) :
    Kept kp (judgeTeam wire s) := by
  unfold judgeTeam
  extract_lets +onlyGivenNames -merge -useContext x1; clear_value x1
  split
  · rename_i x2 h3
    refine Kept.ite ?_ ?_
    · refine setTeam_kept ?_
      assumption
    · assumption
  · rename_i x4 h5
    refine Kept.ite ?_ ?_
    · refine setTeam_kept ?_
      assumption
    · refine Kept.ite ?_ ?_
      · assumption
      · split
        · rename_i x6 h7
          refine Kept.ite ?_ ?_
          · refine stepDown_kept ?_
            assumption
          · refine fitSource_kept ?_
            refine setTeam_kept ?_
            assumption
        · rename_i x8 h9
          refine stepDown_kept ?_
          assumption
        · rename_i x10 h11
          refine stepDown_kept ?_
          assumption
        · rename_i x12 h13 h14 h15
          assumption
  · rename_i x16 h17
    refine Kept.ite ?_ ?_
    · assumption
    · refine cancelHandover_kept ?_
      refine setTeam_kept ?_
      assumption
  · rename_i x18 h19
    refine Kept.ite ?_ ?_
    · assumption
    · split
      · rename_i x20 x21 h22
        refine Kept.ite ?_ ?_
        · refine cancelHandover_kept ?_
          refine setTeam_kept ?_
          assumption
        · assumption
      · rename_i x23 h24
        refine cancelHandover_kept ?_
        refine setTeam_kept ?_
        assumption
  · rename_i x25 h26
    refine Kept.ite ?_ ?_
    · refine Kept.ite ?_ ?_
      · refine setTeam_kept ?_
        assumption
      · assumption
    · refine Kept.ite ?_ ?_
      · refine setTeam_kept ?_
        assumption
      · refine Kept.ite ?_ ?_
        · refine setTeam_kept ?_
          assumption
        · assumption
  · rename_i x27 h28
    refine judgeAlone_kept ?_
    assumption

theorem execDriveWithdraw_kept {kp : Keep} {s} (hs : Kept kp s) :
    KeptO kp (execDriveWithdraw s) := by
  unfold execDriveWithdraw
  refine whileTeam_kept ?_ ?_
  · assumption
  · intro x1 h2
    refine driveWithdrawAt_kept ?_
    assumption

theorem countAlign_kept {kp : Keep} {s} (hs : Kept kp s) :
    Kept kp (countAlign s) := by
  unfold countAlign
  extract_lets +onlyGivenNames -merge -useContext x1; clear_value x1
  refine Kept.ite ?_ ?_
  · refine Kept.ite ?_ ?_
    · refine Kept.upd rfl rfl ?_
      assumption
    · refine Kept.upd rfl rfl ?_
      assumption
  · refine Kept.upd rfl rfl ?_
    assumption

theorem teamTick_kept {kp : Keep} {wire s} (hs : Kept kp s) :
    Kept kp (teamTick wire s) := by
  unfold teamTick
  extract_lets +onlyGivenNames -merge -useContext x1; clear_value x1
  extract_lets +onlyGivenNames -merge -useContext x2
  have hx2 : Kept kp x2 := by
    unfold x2
    refine Kept.upd rfl rfl ?_
    assumption
  clear_value x2
  extract_lets +onlyGivenNames -merge -useContext x3
  have hx3 : Kept kp x3 := by
    unfold x3
    refine countAlign_kept ?_
    assumption
  clear_value x3
  extract_lets +onlyGivenNames -merge -useContext x4; clear_value x4
  extract_lets +onlyGivenNames -merge -useContext x5
  have hx5 : Kept kp x5 := by
    unfold x5
    refine fitSource_kept ?_
    refine Kept.upd rfl rfl ?_
    assumption
  clear_value x5
  extract_lets +onlyGivenNames -merge -useContext x6; clear_value x6
  extract_lets +onlyGivenNames -merge -useContext x7
  have hx7 : Kept kp x7 := by
    unfold x7
    refine Kept.upd rfl rfl ?_
    assumption
  clear_value x7
  refine Kept.ite ?_ ?_
  · refine Kept.ite ?_ ?_
    · assumption
    · refine judgeTeam_kept ?_
      assumption
  · extract_lets +onlyGivenNames -merge -useContext x8
    have hx8 : Kept kp x8 := by
      unfold x8
      refine Kept.ite ?_ ?_
      · refine Kept.foldl ?_ ?_
        · intro x9 x10 h11
          refine witnessEnd_kept ?_
          assumption
        · assumption
      · assumption
    clear_value x8
    extract_lets +onlyGivenNames -merge -useContext x12; clear_value x12
    extract_lets +onlyGivenNames -merge -useContext x13
    have hx13 : Kept kp x13 := by
      unfold x13
      refine Kept.ite ?_ ?_
      · refine Kept.upd rfl rfl ?_
        assumption
      · assumption
    clear_value x13
    refine staleHandover_kept ?_
    refine judgeTeam_kept ?_
    assumption

theorem driveGrantAt_kept {kp : Keep} {s} (hs : Kept kp s) :
    Kept kp (driveGrantAt s) := by
  unfold driveGrantAt
  refine Kept.ite ?_ ?_
  · assumption
  · refine State.reach_kept ?_ ?_
    · assumption
    · intro x1 h2
      refine driveGrant_kept ?_
      refine Kept.upd rfl rfl ?_
      assumption

theorem teamReset_kept {kp : Keep} {s} (hs : Kept kp s) :
    Kept kp (teamReset s) := by
  unfold teamReset
  refine Kept.upd rfl rfl ?_
  assumption

theorem rtlWrite_kept {kp : Keep} {off v s} (hs : Kept kp s) :
    Kept kp (rtlWrite off v s) := by
  unfold rtlWrite
  extract_lets +onlyGivenNames -merge -useContext x1; clear_value x1
  refine Kept.ite ?_ ?_
  · refine rtlCtlWrite_kept ?_
    assumption
  · refine Kept.ite ?_ ?_
    · assumption
    · refine Kept.ite ?_ ?_
      · refine Kept.upd rfl rfl ?_
        assumption
      · refine Kept.ite ?_ ?_
        · refine Kept.upd rfl rfl ?_
          assumption
        · refine Kept.ite ?_ ?_
          · refine Kept.upd rfl rfl ?_
            assumption
          · refine Kept.upd rfl rfl ?_
            assumption

theorem leadWithdraw_kept {kp : Keep} {wire s} (hs : Kept kp s) :
    Kept kp (leadWithdraw wire s) := by
  unfold leadWithdraw
  extract_lets +onlyGivenNames -merge -useContext x1; clear_value x1
  split
  · rename_i x2 h3
    assumption
  · rename_i x4 x5 h6
    refine Kept.ite ?_ ?_
    · assumption
    · refine takeover_kept ?_ ?_
      · refine cancelHandover_kept ?_
        assumption
      · intro x7 h8
        refine stepDown_kept ?_
        refine Kept.upd rfl rfl ?_
        assumption

theorem execLeadWithdraw_kept {kp : Keep} {wire s} (hs : Kept kp s) :
    KeptO kp (execLeadWithdraw wire s) := by
  unfold execLeadWithdraw
  refine whileTeam_kept ?_ ?_
  · assumption
  · intro x1 h2
    refine leadWithdraw_kept ?_
    assumption

theorem execDriveGrant_kept {kp : Keep} {s} (hs : Kept kp s) :
    KeptO kp (execDriveGrant s) := by
  unfold execDriveGrant
  refine whileTeam_kept ?_ ?_
  · assumption
  · intro x1 h2
    refine driveGrantAt_kept ?_
    assumption

theorem sendTick_kept {kp : Keep} {t s} (hs : Kept kp s) :
    Kept kp (sendTick t s) := by
  unfold sendTick
  refine Kept.ite ?_ ?_
  · refine Kept.upd rfl rfl ?_
    assumption
  · refine Kept.upd rfl rfl ?_
    assumption

theorem execHandoverCommit_kept {kp : Keep} {s} (hs : Kept kp s) :
    KeptO kp (execHandoverCommit s) := by
  unfold execHandoverCommit
  refine whileTeam_kept ?_ ?_
  · assumption
  · intro x1 h2
    refine handoverCommit_kept ?_
    assumption

theorem execCheckpointArrival_kept {kp : Keep} {tag tick gts payload s} (hs : Kept kp s) :
    KeptO kp (execCheckpointArrival tag tick gts payload s) := by
  unfold execCheckpointArrival
  refine whileTeam_kept ?_ ?_
  · assumption
  · intro x1 h2
    refine checkpointArrival_kept ?_
    assumption

theorem execTickLineWord_kept {kp : Keep} {v edge wing s} (hs : Kept kp s) :
    KeptO kp (execTickLineWord v edge wing s) := by
  unfold execTickLineWord
  refine whileTeam_kept ?_ ?_
  · assumption
  · intro x1 h2
    refine tickLineWord_kept ?_
    assumption

theorem sealTick_kept {kp : Keep} {s} (hs : Kept kp s) :
    Kept kp (sealTick s) := by
  unfold sealTick
  refine Kept.upd rfl rfl ?_
  assumption

end Sys2Proof.Machine
end

