-- ==== Sys2Proof/Laws/KeptPanel.lean ====
section
/-!
SUPPORT. What the operations of Sys2Proof/Machine/Panel.lean keep (see Sys2Proof/Laws/Kept.lean).
-/

namespace Sys2Proof.Machine

theorem pnlStopNow_kept {kp : Keep} {s} (hs : Kept kp s) :
    Kept kp (pnlStopNow s) := by
  unfold pnlStopNow
  refine Kept.ite ?_ ?_
  · refine Kept.upd rfl rfl ?_
    assumption
  · assumption

theorem pnlCtlWrite_kept {kp : Keep} {v s} (hs : Kept kp s) :
    Kept kp (pnlCtlWrite v s) := by
  unfold pnlCtlWrite
  extract_lets +onlyGivenNames -merge -useContext x1; clear_value x1
  extract_lets +onlyGivenNames -merge -useContext x2
  have hx2 : Kept kp x2 := by
    unfold x2
    refine Kept.upd rfl rfl ?_
    assumption
  clear_value x2
  refine Kept.ite ?_ ?_
  · assumption
  · refine pnlStopNow_kept ?_
    assumption

theorem pnlKick_kept {kp : Keep} {s} (hs : Kept kp s) :
    Kept kp (pnlKick s) := by
  unfold pnlKick
  refine Kept.upd rfl rfl ?_
  assumption

theorem pnlErr_kept {kp : Keep} {opc reason word s} (hs : Kept kp s) :
    Kept kp (pnlErr opc reason word s) := by
  unfold pnlErr
  refine Kept.upd rfl rfl ?_
  assumption

theorem bandWrite_kept {kp : Keep} {b v s} (hs : Kept kp s) :
    Kept kp (bandWrite b v s) := by
  unfold bandWrite
  refine Kept.ite ?_ ?_
  · refine pnlErr_kept ?_
    assumption
  · refine Kept.upd rfl rfl ?_
    assumption

theorem pnlWrite_kept {kp : Keep} {off v s} (hs : Kept kp s) :
    Kept kp (pnlWrite off v s) := by
  unfold pnlWrite
  refine Kept.ite ?_ ?_
  · refine pnlCtlWrite_kept ?_
    assumption
  · refine Kept.ite ?_ ?_
    · refine pnlKick_kept ?_
      assumption
    · refine Kept.ite ?_ ?_
      · refine bandWrite_kept ?_
        assumption
      · assumption

theorem pnlSchema_kept {kp : Keep} {c xfer reason word s} (hs : Kept kp s) :
    Kept kp (pnlSchema c xfer reason word s) := by
  unfold pnlSchema
  refine failOp_kept ?_
  refine pnlErr_kept ?_
  assumption

theorem stressLoad_kept {kp : Keep} {c s} (hs : Kept kp s) :
    Kept kp (stressLoad c s) := by
  unfold stressLoad
  refine needBuffer_kept ?_ ?_
  · assumption
  · intro x1 h2
    refine Kept.ite ?_ ?_
    · refine failOp_kept ?_
      assumption
    · refine Kept.ite ?_ ?_
      · refine failOp_kept ?_
        assumption
      · refine Kept.ite ?_ ?_
        · refine pnlSchema_kept ?_
          assumption
        · refine readWhole_kept ?_ ?_
          · assumption
          · intro x3 x4 h5
            extract_lets +onlyGivenNames -merge -useContext x6; clear_value x6
            refine finishOp_kept ?_
            refine Kept.upd rfl rfl ?_
            assumption

theorem execStressLoad_kept {kp : Keep} {n s} (hs : Kept kp s) :
    KeptO kp (execStressLoad n s) := by
  unfold execStressLoad
  refine KeptO.next ?_
  refine takeOp_kept ?_ ?_
  · intro x1 x2 h3
    refine stressLoad_kept ?_
    assumption
  · assumption

theorem stressAdd_kept {kp : Keep} {b s r} (hs : Kept kp s) :
    Kept kp (stressAdd b s r) := by
  unfold stressAdd
  extract_lets +onlyGivenNames -merge -useContext x1; clear_value x1
  extract_lets +onlyGivenNames -merge -useContext x2; clear_value x2
  extract_lets +onlyGivenNames -merge -useContext x3; clear_value x3
  extract_lets +onlyGivenNames -merge -useContext x4; clear_value x4
  extract_lets +onlyGivenNames -merge -useContext x5
  have hx5 : Kept kp x5 := by
    unfold x5
    refine Kept.upd rfl rfl ?_
    assumption
  clear_value x5
  refine Kept.ite ?_ ?_
  · refine raiseAt_kept ?_
    assumption
  · assumption

theorem stressMinute_kept {kp : Keep} {b s} (hs : Kept kp s) :
    Kept kp (stressMinute b s) := by
  unfold stressMinute
  extract_lets +onlyGivenNames -merge -useContext x1
  have hx1 : Kept kp x1 := by
    unfold x1
    refine Kept.ite ?_ ?_
    · refine Kept.foldl ?_ ?_
      · intro x2 x3 h4
        refine stressAdd_kept ?_
        assumption
      · assumption
    · assumption
  clear_value x1
  refine Kept.upd rfl rfl ?_
  assumption

theorem regionRun_kept {kp : Keep} {key c s} (hs : Kept kp s) :
    Kept kp (regionRun key c s) := by
  unfold regionRun
  split
  rename_i x1 x2 x3 h4
  have h5 : Kept kp x2 := by
    refine KeptF.of_eq h4 ?_
    refine readBuffer_kept ?_
    assumption
  refine Kept.ite ?_ ?_
  · refine failOp_kept ?_
    assumption
  · refine startRead_kept ?_
    refine Kept.upd rfl rfl ?_
    assumption

theorem commitKey_kept {kp : Keep} {b s key} (hs : Kept kp s) :
    Kept kp (commitKey b s key) := by
  unfold commitKey
  split
  · rename_i x1 h2
    assumption
  · rename_i x3 x4 h5
    extract_lets +onlyGivenNames -merge -useContext x6; clear_value x6
    extract_lets +onlyGivenNames -merge -useContext x7
    have hx7 : Kept kp x7 := by
      unfold x7
      refine Kept.upd rfl rfl ?_
      assumption
    clear_value x7
    extract_lets +onlyGivenNames -merge -useContext x8
    have hx8 : Kept kp x8 := by
      unfold x8
      split
      · rename_i x9 x10 h11
        refine finishAt_kept ?_
        assumption
      · rename_i x12 h13
        assumption
    clear_value x8
    refine Kept.ite ?_ ?_
    · split
      · rename_i x14 x15 h16
        refine Kept.upd rfl rfl ?_
        assumption
      · rename_i x17 h18
        assumption
    · split
      · rename_i x19 x20 h21
        refine regionRun_kept ?_
        assumption
      · rename_i x22 h23
        assumption

theorem commitAll_kept {kp : Keep} {b s} (hs : Kept kp s) :
    Kept kp (commitAll b s) := by
  unfold commitAll
  refine Kept.foldl ?_ ?_
  · intro x1 x2 h3
    refine commitKey_kept ?_
    assumption
  · assumption

theorem pnlState_kept {kp : Keep} {st s} (hs : Kept kp s) :
    Kept kp (pnlState st s) := by
  unfold pnlState
  refine Kept.ite ?_ ?_
  · assumption
  · refine raise_kept ?_
    refine Kept.upd rfl rfl ?_
    assumption

theorem pnlDark_kept {kp : Keep} {s} (hs : Kept kp s) :
    Kept kp (pnlDark s) := by
  unfold pnlDark
  refine Kept.upd rfl rfl ?_
  assumption

theorem pnlHalt_kept {kp : Keep} {b s} (hs : Kept kp s) :
    Kept kp (pnlHalt b s) := by
  unfold pnlHalt
  extract_lets +onlyGivenNames -merge -useContext x1
  have hx1 : Kept kp x1 := by
    unfold x1
    refine pnlState_kept ?_
    refine pnlDark_kept ?_
    assumption
  clear_value x1
  refine Kept.foldl ?_ ?_
  · intro x2 x3 h4
    refine finishAt_kept ?_
    assumption
  · assumption

theorem pictureTake_kept {kp : Keep} {t s} (hs : Kept kp s) :
    Kept kp (pictureTake t s) := by
  unfold pictureTake
  extract_lets +onlyGivenNames -merge -useContext x1; clear_value x1
  extract_lets +onlyGivenNames -merge -useContext x2; clear_value x2
  extract_lets +onlyGivenNames -merge -useContext x3; clear_value x3
  extract_lets +onlyGivenNames -merge -useContext x4; clear_value x4
  refine Kept.upd rfl rfl ?_
  assumption

theorem pageChoose_kept {kp : Keep} {t s} (hs : Kept kp s) :
    Kept kp (pageChoose t s) := by
  unfold pageChoose
  extract_lets +onlyGivenNames -merge -useContext x1; clear_value x1
  extract_lets +onlyGivenNames -merge -useContext x2; clear_value x2
  extract_lets +onlyGivenNames -merge -useContext x3
  have hx3 : ∀ y1 y2, Kept kp y2 → Kept kp (x3 y1 y2) := by
    unfold x3
    intro x4 x5 h6
    refine raiseAt_kept ?_
    assumption
  clear_value x3
  extract_lets +onlyGivenNames -merge -useContext x7
  have hx7 : Kept kp x7 := by
    unfold x7
    refine Kept.ite ?_ ?_
    · assumption
    · apply hx3
      assumption
  clear_value x7
  refine Kept.upd rfl rfl ?_
  assumption

theorem bandNote_kept {kp : Keep} {code b g s} (hs : Kept kp s) :
    Kept kp (bandNote code b g s) := by
  unfold bandNote
  refine raiseAt_kept ?_
  assumption

theorem bandApply_kept {kp : Keep} {t s} (hs : Kept kp s) :
    Kept kp (bandApply t s) := by
  unfold bandApply
  split
  · rename_i x1 x2 x3 h4
    refine Kept.ite ?_ ?_
    · refine bandNote_kept ?_
      refine Kept.upd rfl rfl ?_
      assumption
    · assumption
  · rename_i x5 h6
    assumption

theorem frameRun_kept {kp : Keep} {t s} (hs : Kept kp s) :
    Kept kp (frameRun t s) := by
  unfold frameRun
  refine pictureTake_kept ?_
  refine pageChoose_kept ?_
  refine commitAll_kept ?_
  refine bandApply_kept ?_
  assumption

theorem panelFrame_kept {kp : Keep} {s} (hs : Kept kp s) :
    Kept kp (panelFrame s) := by
  unfold panelFrame
  extract_lets +onlyGivenNames -merge -useContext x1; clear_value x1
  extract_lets +onlyGivenNames -merge -useContext x2; clear_value x2
  refine Kept.ite ?_ ?_
  · assumption
  · extract_lets +onlyGivenNames -merge -useContext x3
    clear_value x3
    extract_lets +onlyGivenNames -merge -useContext x4; clear_value x4
    extract_lets +onlyGivenNames -merge -useContext x5; clear_value x5
    extract_lets +onlyGivenNames -merge -useContext x6
    have hx6 : Kept kp x6 := by
      unfold x6
      refine Kept.upd rfl rfl ?_
      assumption
    clear_value x6
    refine Kept.ite ?_ ?_
    · refine commitAll_kept ?_
      assumption
    · refine Kept.ite ?_ ?_
      · refine pnlHalt_kept ?_
        refine commitAll_kept ?_
        assumption
      · split
        · rename_i x7 x8 h9
          refine Kept.ite ?_ ?_
          · refine frameRun_kept ?_
            refine Kept.upd rfl rfl ?_
            assumption
          · refine commitAll_kept ?_
            assumption
        · rename_i x10 h11
          refine frameRun_kept ?_
          assumption

theorem pnlStart_kept {kp : Keep} {c s} (hs : Kept kp s) :
    Kept kp (pnlStart c s) := by
  unfold pnlStart
  extract_lets +onlyGivenNames -merge -useContext x1; clear_value x1
  extract_lets +onlyGivenNames -merge -useContext x2; clear_value x2
  refine Kept.ite ?_ ?_
  · refine failOp_kept ?_
    assumption
  · split
    · rename_i x3 x4 h5
      refine pnlSchema_kept ?_
      assumption
    · rename_i x6 h7
      refine Kept.ite ?_ ?_
      · refine failOp_kept ?_
        assumption
      · extract_lets +onlyGivenNames -merge -useContext x8
        clear_value x8
        extract_lets +onlyGivenNames -merge -useContext x9; clear_value x9
        extract_lets +onlyGivenNames -merge -useContext x10
        have hx10 : Kept kp x10 := by
          unfold x10
          refine pnlState_kept ?_
          refine Kept.upd rfl rfl ?_
          assumption
        clear_value x10
        refine finishOp_kept ?_
        assumption

theorem execPnlKick_kept {kp : Keep} {a _v s} (hs : Kept kp s) :
    KeptO kp (execPnlKick a _v s) := by
  unfold execPnlKick
  refine KeptO.next ?_
  refine gateWrite_kept ?_ ?_
  · assumption
  · intro x1 h2
    refine pnlKick_kept ?_
    assumption

theorem bandCheck_kept {kp : Keep} {t s} (hs : Kept kp s) :
    Kept kp (bandCheck t s) := by
  unfold bandCheck
  extract_lets +onlyGivenNames -merge -useContext x1; clear_value x1
  extract_lets +onlyGivenNames -merge -useContext x2; clear_value x2
  refine Kept.ite ?_ ?_
  · assumption
  · extract_lets +onlyGivenNames -merge -useContext x3
    clear_value x3
    refine Kept.ite ?_ ?_
    · refine bandNote_kept ?_
      refine Kept.upd rfl rfl ?_
      assumption
    · refine bandNote_kept ?_
      refine Kept.upd rfl rfl ?_
      assumption

theorem pnlStop_kept {kp : Keep} {c s} (hs : Kept kp s) :
    Kept kp (pnlStop c s) := by
  unfold pnlStop
  refine Kept.ite ?_ ?_
  · refine failOp_kept ?_
    assumption
  · refine startOp_kept ?_
    refine pnlStopNow_kept ?_
    assumption

theorem statusRender_kept {kp : Keep} {s} (hs : Kept kp s) :
    Kept kp (statusRender s) := by
  unfold statusRender
  extract_lets +onlyGivenNames -merge -useContext x1; clear_value x1
  extract_lets +onlyGivenNames -merge -useContext x2; clear_value x2
  refine Kept.ite ?_ ?_
  · refine Kept.upd rfl rfl ?_
    assumption
  · refine Kept.upd rfl rfl ?_
    assumption

theorem pnlTick_kept {kp : Keep} {b i s} (hs : Kept kp s) :
    Kept kp (pnlTick b i s) := by
  unfold pnlTick
  extract_lets +onlyGivenNames -merge -useContext x1; clear_value x1
  extract_lets +onlyGivenNames -merge -useContext x2; clear_value x2
  extract_lets +onlyGivenNames -merge -useContext x3; clear_value x3
  extract_lets +onlyGivenNames -merge -useContext x4
  have hx4 : Kept kp x4 := by
    unfold x4
    refine Kept.upd rfl rfl ?_
    assumption
  clear_value x4
  extract_lets +onlyGivenNames -merge -useContext x5; clear_value x5
  extract_lets +onlyGivenNames -merge -useContext x6; clear_value x6
  extract_lets +onlyGivenNames -merge -useContext x7
  have hx7 : Kept kp x7 := by
    unfold x7
    split
    · rename_i x8 x9 h10
      refine Kept.upd rfl rfl ?_
      assumption
    · rename_i x11 h12
      refine Kept.upd rfl rfl ?_
      assumption
  clear_value x7
  extract_lets +onlyGivenNames -merge -useContext x13
  have hx13 : Kept kp x13 := by
    unfold x13
    refine bandCheck_kept ?_
    assumption
  clear_value x13
  extract_lets +onlyGivenNames -merge -useContext x14
  have hx14 : Kept kp x14 := by
    unfold x14
    refine Kept.ite ?_ ?_
    · refine statusRender_kept ?_
      assumption
    · assumption
  clear_value x14
  refine Kept.ite ?_ ?_
  · refine stressMinute_kept ?_
    assumption
  · assumption

theorem regionWrite_kept {kp : Keep} {c s} (hs : Kept kp s) :
    Kept kp (regionWrite c s) := by
  unfold regionWrite
  refine needBuffer_kept ?_ ?_
  · assumption
  · intro x1 h2
    extract_lets +onlyGivenNames -merge -useContext x3; clear_value x3
    extract_lets +onlyGivenNames -merge -useContext x4; clear_value x4
    extract_lets +onlyGivenNames -merge -useContext x5; clear_value x5
    extract_lets +onlyGivenNames -merge -useContext x6; clear_value x6
    refine Kept.ite ?_ ?_
    · refine failOp_kept ?_
      assumption
    · refine Kept.ite ?_ ?_
      · refine pnlSchema_kept ?_
        assumption
      · refine Kept.ite ?_ ?_
        · refine failOp_kept ?_
          assumption
        · extract_lets +onlyGivenNames -merge -useContext x7
          have hx7 : Kept kp x7 := by
            unfold x7
            refine pnlKick_kept ?_
            assumption
          clear_value x7
          refine Kept.ite ?_ ?_
          · refine regionRun_kept ?_
            assumption
          · extract_lets +onlyGivenNames -merge -useContext x8
            have hx8 : Kept kp x8 := by
              unfold x8
              split
              · rename_i x9 x10 h11
                refine failOp_kept ?_
                assumption
              · rename_i x12 h13
                assumption
            clear_value x8
            refine startOp_kept ?_
            assumption

theorem execRegionWrite_kept {kp : Keep} {n s} (hs : Kept kp s) :
    KeptO kp (execRegionWrite n s) := by
  unfold execRegionWrite
  refine KeptO.next ?_
  refine takeOp_kept ?_ ?_
  · intro x1 x2 h3
    refine regionWrite_kept ?_
    assumption
  · assumption

theorem pnlCfgLoad_kept {kp : Keep} {c s} (hs : Kept kp s) :
    Kept kp (pnlCfgLoad c s) := by
  unfold pnlCfgLoad
  refine needBuffer_kept ?_ ?_
  · assumption
  · intro x1 h2
    refine Kept.ite ?_ ?_
    · refine failOp_kept ?_
      assumption
    · refine Kept.ite ?_ ?_
      · refine failOp_kept ?_
        assumption
      · refine readWhole_kept ?_ ?_
        · assumption
        · intro x3 x4 h5
          extract_lets +onlyGivenNames -merge -useContext x6; clear_value x6
          split
          · rename_i x7 x8 x9 h10
            refine pnlSchema_kept ?_
            assumption
          · rename_i x11 h12
            refine finishOp_kept ?_
            refine pnlState_kept ?_
            refine Kept.upd rfl rfl ?_
            assumption

theorem execPanelFrameStart_kept {kp : Keep} {s} (hs : Kept kp s) :
    KeptO kp (execPanelFrameStart s) := by
  unfold execPanelFrameStart
  refine whileOn_kept ?_ ?_
  · assumption
  · intro x1 h2
    refine panelFrame_kept ?_
    assumption

theorem execPnlStop_kept {kp : Keep} {n s} (hs : Kept kp s) :
    KeptO kp (execPnlStop n s) := by
  unfold execPnlStop
  refine KeptO.next ?_
  refine takeOp_kept ?_ ?_
  · intro x1 x2 h3
    refine pnlStop_kept ?_
    assumption
  · assumption

theorem panelFallback_kept {kp : Keep} {s} (hs : Kept kp s) :
    Kept kp (panelFallback s) := by
  unfold panelFallback
  extract_lets +onlyGivenNames -merge -useContext x1; clear_value x1
  refine Kept.ite ?_ ?_
  · refine Kept.upd rfl rfl ?_
    assumption
  · assumption

theorem vlcdFault_kept {kp : Keep} {s} (hs : Kept kp s) :
    Kept kp (vlcdFault s) := by
  unfold vlcdFault
  refine Kept.ite ?_ ?_
  · assumption
  · extract_lets +onlyGivenNames -merge -useContext x1
    have hx1 : Kept kp x1 := by
      unfold x1
      refine raise_kept ?_
      assumption
    clear_value x1
    extract_lets +onlyGivenNames -merge -useContext x2
    have hx2 : Kept kp x2 := by
      unfold x2
      refine pnlState_kept ?_
      refine pnlDark_kept ?_
      assumption
    clear_value x2
    refine Kept.foldl ?_ ?_
    · intro x3 x4 h5
      refine finishOp_kept ?_
      assumption
    · assumption

theorem execPnlCfgLoad_kept {kp : Keep} {n s} (hs : Kept kp s) :
    KeptO kp (execPnlCfgLoad n s) := by
  unfold execPnlCfgLoad
  refine KeptO.next ?_
  refine takeOp_kept ?_ ?_
  · intro x1 x2 h3
    refine pnlCfgLoad_kept ?_
    assumption
  · assumption

theorem execPnlStart_kept {kp : Keep} {n s} (hs : Kept kp s) :
    KeptO kp (execPnlStart n s) := by
  unfold execPnlStart
  refine KeptO.next ?_
  refine takeOp_kept ?_ ?_
  · intro x1 x2 h3
    refine pnlStart_kept ?_
    assumption
  · assumption

theorem execPnlCtlWrite_kept {kp : Keep} {a v s} (hs : Kept kp s) :
    KeptO kp (execPnlCtlWrite a v s) := by
  unfold execPnlCtlWrite
  refine KeptO.next ?_
  refine gateWrite_kept ?_ ?_
  · assumption
  · intro x1 h2
    refine pnlCtlWrite_kept ?_
    assumption

theorem pnlReset_kept {kp : Keep} {s} (hs : Kept kp s) :
    Kept kp (pnlReset s) := by
  unfold pnlReset
  extract_lets +onlyGivenNames -merge -useContext x1
  have hx1 : Kept kp x1 := by
    unfold x1
    refine pnlState_kept ?_
    assumption
  clear_value x1
  refine Kept.upd rfl rfl ?_
  assumption

theorem stressRead_kept {kp : Keep} {c s} (hs : Kept kp s) :
    Kept kp (stressRead c s) := by
  unfold stressRead
  refine needBuffer_kept ?_ ?_
  · assumption
  · intro x1 h2
    refine Kept.ite ?_ ?_
    · refine failOp_kept ?_
      assumption
    · refine writeOut_kept ?_
      assumption

theorem execStressRead_kept {kp : Keep} {n s} (hs : Kept kp s) :
    KeptO kp (execStressRead n s) := by
  unfold execStressRead
  refine KeptO.next ?_
  refine takeOp_kept ?_ ?_
  · intro x1 x2 h3
    refine stressRead_kept ?_
    assumption
  · assumption

theorem execVlcdFault_kept {kp : Keep} {s} (hs : Kept kp s) :
    KeptO kp (execVlcdFault s) := by
  unfold execVlcdFault
  refine whileOn_kept ?_ ?_
  · assumption
  · intro x1 h2
    refine vlcdFault_kept ?_
    assumption

theorem execPanelFallback_kept {kp : Keep} {s} (hs : Kept kp s) :
    KeptO kp (execPanelFallback s) := by
  unfold execPanelFallback
  refine whileOn_kept ?_ ?_
  · assumption
  · intro x1 h2
    refine panelFallback_kept ?_
    assumption

theorem pnlRead_kept {kp : Keep} {off s} (hs : Kept kp s) :
    KeptS kp (pnlRead off s) := by
  unfold pnlRead
  extract_lets +onlyGivenNames -merge -useContext x1; clear_value x1
  refine KeptS.ite ?_ ?_
  · refine KeptS.mk ?_
    assumption
  · refine KeptS.ite ?_ ?_
    · refine KeptS.mk ?_
      assumption
    · refine KeptS.ite ?_ ?_
      · refine KeptS.mk ?_
        assumption
      · refine KeptS.ite ?_ ?_
        · refine KeptS.mk ?_
          assumption
        · refine KeptS.ite ?_ ?_
          · refine KeptS.mk ?_
            assumption
          · refine KeptS.ite ?_ ?_
            · refine KeptS.mk ?_
              assumption
            · refine KeptS.mk ?_
              assumption

end Sys2Proof.Machine
end

