-- ==== Sys2Proof/Laws/KeptSelfTest.lean ====
section
/-!
SUPPORT. What the operations of Sys2Proof/Machine/SelfTest.lean keep (see Sys2Proof/Laws/Kept.lean).
-/

namespace Sys2Proof.Machine

theorem domainOn_kept {kp : Keep} {n s} (hs : Kept kp s) :
    Kept kp (domainOn n s) := by
  unfold domainOn
  refine Kept.ite ?_ ?_
  · assumption
  · extract_lets +onlyGivenNames -merge -useContext x1
    have hx1 : Kept kp x1 := by
      unfold x1
      refine State.setPd_kept ?_
      assumption
    clear_value x1
    refine Kept.ite ?_ ?_
    · refine bumpEpochs_kept ?_
      assumption
    · assumption

theorem pitchReset_kept {kp : Keep} {p atEnd s} (hs : Kept kp s) :
    Kept kp (pitchReset p atEnd s) := by
  unfold pitchReset
  split
  · rename_i x1
    refine Kept.ite ?_ ?_
    · extract_lets +onlyGivenNames -merge -useContext x2
      have hx2 : Kept kp x2 := by
        unfold x2
        refine flushReceivers_kept ?_
        refine resetEndpoints_kept ?_
        assumption
      clear_value x2
      refine Kept.upd rfl rfl ?_
      assumption
    · refine Kept.upd rfl rfl ?_
      assumption
  · rename_i x3
    refine bceReset_kept ?_
    assumption
  · rename_i x4
    refine lkoReset_kept ?_
    assumption
  · rename_i x5
    refine Kept.upd rfl rfl ?_
    assumption
  · rename_i x6 h7 h8 h9 h10
    assumption

theorem endPitch_kept {kp : Keep} {p t0 endT r s} (hs : Kept kp s) :
    Kept kp (endPitch p t0 endT r s) := by
  unfold endPitch
  extract_lets +onlyGivenNames -merge -useContext x1; clear_value x1
  extract_lets +onlyGivenNames -merge -useContext x2
  have hx2 : Kept kp x2 := by
    unfold x2
    refine Kept.upd rfl rfl ?_
    assumption
  clear_value x2
  split
  · rename_i x3 x4 h5
    refine Kept.ite ?_ ?_
    · refine domainOn_kept ?_
      assumption
    · assumption
  · rename_i x6 h7
    refine pitchReset_kept ?_
    assumption

theorem pitchExpiry_kept {kp : Keep} {s} (hs : Kept kp s) :
    Kept kp (pitchExpiry s) := by
  unfold pitchExpiry
  split
  · rename_i x1 h2
    assumption
  · rename_i x3 x4 x5 h6
    refine Kept.ite ?_ ?_
    · assumption
    · refine endPitch_kept ?_
      assumption

theorem execPitchBudgetExpiry_kept {kp : Keep} {s} (hs : Kept kp s) :
    KeptO kp (execPitchBudgetExpiry s) := by
  unfold execPitchBudgetExpiry
  refine whileOn_kept ?_ ?_
  · assumption
  · intro x1 h2
    refine pitchExpiry_kept ?_
    assumption

theorem serviceOff_kept {kp : Keep} {blk s} (hs : Kept kp s) :
    Kept kp (serviceOff blk s) := by
  unfold serviceOff
  refine domainOffOps_kept ?_
  assumption

theorem blocksOff_kept {kp : Keep} {n s} (hs : Kept kp s) :
    Kept kp (blocksOff n s) := by
  unfold blocksOff
  extract_lets +onlyGivenNames -merge -useContext x1
  have hx1 : Kept kp x1 := by
    unfold x1
    refine freePitons_kept ?_
    assumption
  clear_value x1
  split
  · rename_i x2
    refine endpointsOff_kept ?_
    assumption
  · rename_i x3
    refine Kept.clear rfl rfl ?_
    assumption
  · rename_i x4
    refine iplReset_kept ?_
    refine serviceOff_kept ?_
    assumption
  · rename_i x5
    refine colOff_kept ?_
    assumption
  · rename_i x6
    refine fitSource_kept ?_
    refine gnbReset_kept ?_
    refine serviceOff_kept ?_
    assumption
  · rename_i x7
    refine bankOff_kept ?_
    refine Kept.ite ?_ ?_
    · assumption
    · refine serviceOff_kept ?_
      assumption
  · rename_i x8
    refine bankOff_kept ?_
    refine Kept.ite ?_ ?_
    · assumption
    · refine serviceOff_kept ?_
      assumption
  · rename_i x9
    refine canReset_kept ?_
    refine serviceOff_kept ?_
    assumption
  · rename_i x10
    refine rtlOff_kept ?_
    refine serviceOff_kept ?_
    assumption
  · rename_i x11
    refine pnlReset_kept ?_
    refine serviceOff_kept ?_
    assumption
  · rename_i x12 h13 h14 h15 h16 h17 h18 h19 h20 h21 h22
    assumption

theorem dscStep5_kept {kp : Keep} {s} (hs : Kept kp s) :
    Kept kp (dscStep5 s) := by
  unfold dscStep5
  refine Kept.upd rfl rfl ?_
  assumption

theorem pitchEnd_kept {kp : Keep} {o s} (hs : Kept kp s) :
    Kept kp (pitchEnd o s) := by
  unfold pitchEnd
  split
  · rename_i x1 h2
    assumption
  · rename_i x3 x4 x5 h6
    refine Kept.ite ?_ ?_
    · assumption
    · refine endPitch_kept ?_
      assumption

theorem domainOff_kept {kp : Keep} {n s} (hs : Kept kp s) :
    Kept kp (domainOff n s) := by
  unfold domainOff
  refine Kept.ite ?_ ?_
  · refine blocksOff_kept ?_
    refine State.setPd_kept ?_
    assumption
  · assumption

theorem pitchStart_kept {kp : Keep} {p s} (hs : Kept kp s) :
    Kept kp (pitchStart p s) := by
  unfold pitchStart
  refine Kept.ite ?_ ?_
  · assumption
  · extract_lets +onlyGivenNames -merge -useContext x1
    clear_value x1
    extract_lets +onlyGivenNames -merge -useContext x2
    have hx2 : Kept kp x2 := by
      unfold x2
      refine Kept.upd rfl rfl ?_
      assumption
    clear_value x2
    split
    · rename_i x3 x4 h5
      refine domainOff_kept ?_
      refine Kept.upd rfl rfl ?_
      assumption
    · rename_i x6 h7
      refine pitchReset_kept ?_
      assumption

theorem execPitchStart_kept {kp : Keep} {p s} (hs : Kept kp s) :
    KeptO kp (execPitchStart p s) := by
  unfold execPitchStart
  refine whileOn_kept ?_ ?_
  · assumption
  · intro x1 h2
    refine pitchStart_kept ?_
    assumption

theorem execPitchEnd_kept {kp : Keep} {o s} (hs : Kept kp s) :
    KeptO kp (execPitchEnd o s) := by
  unfold execPitchEnd
  refine whileOn_kept ?_ ?_
  · assumption
  · intro x1 h2
    refine pitchEnd_kept ?_
    assumption

theorem dscLoad_kept {kp : Keep} {postFail s} (hs : Kept kp s) :
    Kept kp (dscLoad postFail s) := by
  unfold dscLoad
  extract_lets +onlyGivenNames -merge -useContext x1; clear_value x1
  extract_lets +onlyGivenNames -merge -useContext x2; clear_value x2
  refine Kept.upd rfl rfl ?_
  assumption

theorem dscRead_kept {kp : Keep} {off s} (hs : Kept kp s) :
    KeptS kp (dscRead off s) := by
  unfold dscRead
  extract_lets +onlyGivenNames -merge -useContext x1; clear_value x1
  refine KeptS.ite ?_ ?_
  · refine KeptS.mk ?_
    assumption
  · refine KeptS.ite ?_ ?_
    · refine KeptS.mk ?_
      assumption
    · refine KeptS.ite ?_ ?_
      · refine KeptS.mk ?_
        assumption
      · refine KeptS.ite ?_ ?_
        · refine KeptS.mk ?_
          assumption
        · refine KeptS.ite ?_ ?_
          · refine KeptS.mk ?_
            assumption
          · refine KeptS.ite ?_ ?_
            · refine KeptS.mk ?_
              assumption
            · refine KeptS.mk ?_
              assumption

theorem dscLost_kept {kp : Keep} {s} (hs : Kept kp s) :
    Kept kp (dscLost s) := by
  unfold dscLost
  refine Kept.upd rfl rfl ?_
  assumption

theorem keyZeroise_kept {kp : Keep} {verified s} (hs : Kept kp s) :
    Kept kp (keyZeroise verified s) := by
  unfold keyZeroise
  refine Kept.ite ?_ ?_
  · assumption
  · refine Kept.ite ?_ ?_
    · refine Kept.upd rfl rfl ?_
      assumption
    · refine Kept.upd rfl rfl ?_
      assumption

theorem dscEvents_kept {kp : Keep} {postFail s} (hs : Kept kp s) :
    Kept kp (dscEvents postFail s) := by
  unfold dscEvents
  extract_lets +onlyGivenNames -merge -useContext x1; clear_value x1
  extract_lets +onlyGivenNames -merge -useContext x2
  have hx2 : Kept kp x2 := by
    unfold x2
    refine Kept.foldl ?_ ?_
    · intro x3 x4 h5
      extract_lets +onlyGivenNames -merge -useContext x6; clear_value x6
      refine Kept.ite ?_ ?_
      · assumption
      · refine raise_kept ?_
        assumption
    · assumption
  clear_value x2
  extract_lets +onlyGivenNames -merge -useContext x7
  have hx7 : Kept kp x7 := by
    unfold x7
    refine raise_kept ?_
    assumption
  clear_value x7
  extract_lets +onlyGivenNames -merge -useContext x8
  have hx8 : Kept kp x8 := by
    unfold x8
    refine Kept.foldl ?_ ?_
    · intro x9 x10 h11
      refine Kept.ite ?_ ?_
      · refine raise_kept ?_
        assumption
      · assumption
    · assumption
  clear_value x8
  extract_lets +onlyGivenNames -merge -useContext x12
  have hx12 : Kept kp x12 := by
    unfold x12
    refine Kept.ite ?_ ?_
    · refine raise_kept ?_
      assumption
    · assumption
  clear_value x12
  split
  · rename_i x13 x14 x15 h16
    refine raise_kept ?_
    assumption
  · rename_i x17 h18
    assumption

theorem execKeyZeroise_kept {kp : Keep} {verified s} (hs : Kept kp s) :
    KeptO kp (execKeyZeroise verified s) := by
  unfold execKeyZeroise
  refine whileOn_kept ?_ ?_
  · assumption
  · intro x1 h2
    refine keyZeroise_kept ?_
    assumption

theorem dscReady_kept {kp : Keep} {postFail s} (hs : Kept kp s) :
    Kept kp (dscReady postFail s) := by
  unfold dscReady
  refine dscEvents_kept ?_
  refine dscLoad_kept ?_
  assumption

theorem dscWrite_kept {kp : Keep} {off v s} (hs : Kept kp s) :
    Kept kp (dscWrite off v s) := by
  unfold dscWrite
  refine Kept.ite ?_ ?_
  · refine Kept.upd rfl rfl ?_
    assumption
  · refine Kept.ite ?_ ?_
    · refine Kept.upd rfl rfl ?_
      assumption
    · assumption

theorem dscDescent_kept {kp : Keep} {s} (hs : Kept kp s) :
    Kept kp (dscDescent s) := by
  unfold dscDescent
  refine Kept.upd rfl rfl ?_
  assumption

theorem dscCut_kept {kp : Keep} {s} (hs : Kept kp s) :
    Kept kp (dscCut s) := by
  unfold dscCut
  split
  · rename_i x1 h2
    assumption
  · rename_i x3 x4 x5 h6
    refine endPitch_kept ?_
    assumption

end Sys2Proof.Machine
end

