-- ==== Sys2Proof/Laws/KeptPower.lean ====
section
/-!
SUPPORT. What the operations of Sys2Proof/Machine/Power.lean keep (see Sys2Proof/Laws/Kept.lean).
-/

namespace Sys2Proof.Machine

theorem groundOpen_kept {kp : Keep} {contacts offset s} (hs : Kept kp s) :
    Kept kp (groundOpen contacts offset s) := by
  unfold groundOpen
  refine Kept.ite ?_ ?_
  · assumption
  · extract_lets +onlyGivenNames -merge -useContext x1
    clear_value x1
    extract_lets +onlyGivenNames -merge -useContext x2
    have hx2 : Kept kp x2 := by
      unfold x2
      refine Kept.upd rfl rfl ?_
      assumption
    clear_value x2
    refine raise_kept ?_
    assumption

theorem execGroundOpen_kept {kp : Keep} {contacts offset s} (hs : Kept kp s) :
    KeptO kp (execGroundOpen contacts offset s) := by
  unfold execGroundOpen
  refine KeptO.next ?_
  refine groundOpen_kept ?_
  assumption

theorem descentEvent_kept {kp : Keep} {code step s} (hs : Kept kp s) :
    Kept kp (descentEvent code step s) := by
  unfold descentEvent
  refine raise_kept ?_
  assumption

theorem modeEvent'_kept {kp : Keep} {m cause s} (hm : kp.mode = none) (hs : Kept kp s) :
    Kept kp (modeEvent' m cause s) := by
  unfold modeEvent'
  refine raise_kept ?_
  refine Kept.mkMode hm rfl rfl ?_
  assumption

theorem bivouacBegin_kept {kp : Keep} {s} (hm : kp.mode = none) (hs : Kept kp s) :
    Kept kp (bivouacBegin s) := by
  unfold bivouacBegin
  extract_lets +onlyGivenNames -merge -useContext x1; clear_value x1
  extract_lets +onlyGivenNames -merge -useContext x2
  have hx2 : Kept kp x2 := by
    unfold x2
    refine bivBegin_kept ?_
    refine Kept.upd rfl rfl ?_
    assumption
  clear_value x2
  refine modeEvent'_kept hm ?_
  assumption

theorem toCold_kept {kp : Keep} {s} (hm : kp.mode = none) (hs : Kept kp s) :
    Kept kp (toCold s) := by
  unfold toCold
  refine modeEvent'_kept hm ?_
  refine Kept.stop rfl rfl ?_
  assumption

theorem descentEnd_kept {kp : Keep} {code s} (hm : kp.mode = none) (hs : Kept kp s) :
    Kept kp (descentEnd code s) := by
  unfold descentEnd
  extract_lets +onlyGivenNames -merge -useContext x1; clear_value x1
  extract_lets +onlyGivenNames -merge -useContext x2
  have hx2 : Kept kp x2 := by
    unfold x2
    refine descentEvent_kept ?_
    refine Kept.upd rfl rfl ?_
    assumption
  clear_value x2
  extract_lets +onlyGivenNames -merge -useContext x3; clear_value x3
  extract_lets +onlyGivenNames -merge -useContext x4
  have hx4 : Kept kp x4 := by
    unfold x4
    refine Kept.upd rfl rfl ?_
    assumption
  clear_value x4
  refine Kept.ite ?_ ?_
  · refine Kept.mkMode hm rfl rfl ?_
    assumption
  · refine Kept.ite ?_ ?_
    · refine bivouacBegin_kept hm ?_
      assumption
    · refine toCold_kept hm ?_
      assumption

theorem allOff_kept {kp : Keep} {s} (hs : Kept kp s) :
    Kept kp (allOff s) := by
  unfold allOff
  extract_lets +onlyGivenNames -merge -useContext x1
  extract_lets +onlyGivenNames -merge -useContext x2
  have hx2 : Kept kp x2 := by
    unfold x2
    refine mbxPowerDown_kept ?_
    refine Kept.stop rfl rfl ?_
    assumption
  clear_value x2
  extract_lets +onlyGivenNames -merge -useContext x3
  have hx3 : Kept kp x3 := by
    unfold x3
    refine bankOff_kept ?_
    refine bankOff_kept ?_
    refine stageCut_kept ?_
    assumption
  clear_value x3
  refine Kept.off rfl rfl ?_
  assumption

theorem drainMerger_kept {kp : Keep} {s} (hs : Kept kp s) :
    Kept kp (drainMerger s) := by
  unfold drainMerger
  refine Kept.foldl ?_ ?_
  · intro x1 x2 h3
    refine release_kept ?_
    assumption
  · refine Kept.upd rfl rfl ?_
    assumption

theorem closeRecorder_kept {kp : Keep} {s} (hs : Kept kp s) :
    Kept kp (closeRecorder s) := by
  unfold closeRecorder
  refine flushRecorder_kept ?_
  refine drainMerger_kept ?_
  assumption

theorem descentStep6_kept {kp : Keep} {s} (hs : Kept kp s) :
    Kept kp (descentStep6 s) := by
  unfold descentStep6
  refine allOff_kept ?_
  refine closeRecorder_kept ?_
  extract_lets +onlyGivenNames -merge -useContext x1
  have hx1 : Kept kp x1 := by
    unfold x1
    refine updStep7_kept ?_
    assumption
  clear_value x1
  refine Kept.upd rfl rfl ?_
  assumption

theorem descentComplete_kept {kp : Keep} {s} (hm : kp.mode = none) (hs : Kept kp s) :
    Kept kp (descentComplete s) := by
  unfold descentComplete
  refine Kept.ite ?_ ?_
  · assumption
  · refine descentEnd_kept hm ?_
    refine descentStep6_kept ?_
    assumption

theorem execDescentComplete_kept {kp : Keep} {s} (hm : kp.mode = none) (hs : Kept kp s) :
    KeptO kp (execDescentComplete s) := by
  unfold execDescentComplete
  refine KeptO.next ?_
  refine descentComplete_kept hm ?_
  assumption

theorem descentBegin_kept {kp : Keep} {s} (hd : kp.down = true) (hs : Kept kp s) :
    Kept kp (descentBegin s) := by
  unfold descentBegin
  split
  · exact hs
  · rename_i h
    have h0 : s.mode = .run := by
      by_contra hne
      exact h (.inl hne)
    have h1 : Kept kp (modeEvent' .descent 0 s) := by
      unfold modeEvent'
      refine raise_kept ⟨hs.mem, hs.queue, hs.time, fun m e => ?_⟩
      rcases hs.mode m e with h2 | h2
      · exact .inr ⟨hd, h2.symm.trans h0, rfl⟩
      · rw [h0] at h2
        cases h2.2.2
    exact bceStopAll_kept (pnlStopNow_kept (yieldClose_kept (gnbStore_kept (dscDescent_kept
      (updDescent_kept (teamDescent_kept (Kept.upd rfl rfl h1)))))))

theorem ignitionOff_kept {kp : Keep} {s} (hd : kp.down = true) (hs : Kept kp s) :
    Kept kp (ignitionOff s) := by
  unfold ignitionOff
  refine Kept.ite ?_ ?_
  · assumption
  · refine Kept.ite ?_ ?_
    · refine descentBegin_kept hd ?_
      assumption
    · refine Kept.upd rfl rfl ?_
      assumption

theorem holdExpiry_kept {kp : Keep} {s} (hs : Kept kp s) :
    Kept kp (holdExpiry s) := by
  unfold holdExpiry
  refine Kept.ite ?_ ?_
  · refine Kept.upd rfl rfl ?_
    assumption
  · assumption

theorem execHoldExpiry_kept {kp : Keep} {s} (hs : Kept kp s) :
    KeptO kp (execHoldExpiry s) := by
  unfold execHoldExpiry
  refine KeptO.next ?_
  refine Kept.ite ?_ ?_
  · refine holdExpiry_kept ?_
    assumption
  · assumption

theorem supplyLost_kept {kp : Keep} {s} (hm : kp.mode = none) (hs : Kept kp s) :
    Kept kp (supplyLost s) := by
  unfold supplyLost
  extract_lets +onlyGivenNames -merge -useContext x1; clear_value x1
  extract_lets +onlyGivenNames -merge -useContext x2; clear_value x2
  extract_lets +onlyGivenNames -merge -useContext x3; clear_value x3
  extract_lets +onlyGivenNames -merge -useContext x4
  have hx4 : Kept kp x4 := by
    unfold x4
    refine allOff_kept ?_
    assumption
  clear_value x4
  extract_lets +onlyGivenNames -merge -useContext x5; clear_value x5
  extract_lets +onlyGivenNames -merge -useContext x6; clear_value x6
  extract_lets +onlyGivenNames -merge -useContext x7; clear_value x7
  extract_lets +onlyGivenNames -merge -useContext x8
  have hx8 : Kept kp x8 := by
    unfold x8
    refine Kept.upd rfl rfl ?_
    assumption
  clear_value x8
  refine toCold_kept hm ?_
  refine Kept.ite ?_ ?_
  · refine stageEvent_kept ?_
    assumption
  · assumption

theorem reverseBattery_kept {kp : Keep} {s} (hm : kp.mode = none) (hs : Kept kp s) :
    Kept kp (reverseBattery s) := by
  unfold reverseBattery
  extract_lets +onlyGivenNames -merge -useContext x1; clear_value x1
  extract_lets +onlyGivenNames -merge -useContext x2
  have hx2 : Kept kp x2 := by
    unfold x2
    refine Kept.upd rfl rfl ?_
    assumption
  refine Kept.ite ?_ ?_
  · assumption
  · refine supplyLost_kept hm ?_
    assumption

theorem execReverseBattery_kept {kp : Keep} {s} (hm : kp.mode = none) (hs : Kept kp s) :
    KeptO kp (execReverseBattery s) := by
  unfold execReverseBattery
  refine KeptO.next ?_
  refine reverseBattery_kept hm ?_
  assumption

theorem pd0Loss_kept {kp : Keep} {s} (ht : kp.time = none) (hs : Kept kp s) :
    Kept kp (pd0Loss s) := by
  unfold pd0Loss
  refine dscLost_kept ?_
  refine Kept.mkTime ht ?_
  assumption

theorem bivouacSpent_kept {kp : Keep} {s} (hm : kp.mode = none) (hs : Kept kp s) :
    Kept kp (bivouacSpent s) := by
  unfold bivouacSpent
  extract_lets +onlyGivenNames -merge -useContext x1; clear_value x1
  extract_lets +onlyGivenNames -merge -useContext x2; clear_value x2
  extract_lets +onlyGivenNames -merge -useContext x3
  have hx3 : Kept kp x3 := by
    unfold x3
    refine bivOver_kept ?_
    refine Kept.upd rfl rfl ?_
    assumption
  clear_value x3
  refine toCold_kept hm ?_
  refine raise_kept ?_
  assumption

theorem allowanceSpent_kept {kp : Keep} {s} (hm : kp.mode = none) (hs : Kept kp s) :
    Kept kp (allowanceSpent s) := by
  unfold allowanceSpent
  refine Kept.ite ?_ ?_
  · assumption
  · refine Kept.ite ?_ ?_
    · refine Kept.upd rfl rfl ?_
      assumption
    · refine bivouacSpent_kept hm ?_
      assumption

theorem recordNow_kept {kp : Keep} {src code data s} (hs : Kept kp s) :
    Kept kp (recordNow src code data s) := by
  unfold recordNow
  refine release_kept ?_
  refine drainMerger_kept ?_
  assumption

theorem fixedRope_kept {kp : Keep} {cause s} (hm : kp.mode = none) (hs : Kept kp s) :
    Kept kp (fixedRope cause s) := by
  unfold fixedRope
  extract_lets +onlyGivenNames -merge -useContext x1
  have hx1 : Kept kp x1 := by
    unfold x1
    refine Kept.ite ?_ ?_
    · refine closeRecorder_kept ?_
      assumption
    · assumption
  clear_value x1
  extract_lets +onlyGivenNames -merge -useContext x2
  have hx2 : Kept kp x2 := by
    unfold x2
    refine allOff_kept ?_
    assumption
  clear_value x2
  refine modeEvent'_kept hm ?_
  refine Kept.upd rfl rfl ?_
  assumption

theorem overvoltageEnd_kept {kp : Keep} {peak s} (hs : Kept kp s) :
    Kept kp (overvoltageEnd peak s) := by
  unfold overvoltageEnd
  refine Kept.ite ?_ ?_
  · assumption
  · extract_lets +onlyGivenNames -merge -useContext x1
    clear_value x1
    refine raise_kept ?_
    refine Kept.upd rfl rfl ?_
    assumption

theorem execOvervoltageEnd_kept {kp : Keep} {peak s} (hs : Kept kp s) :
    KeptO kp (execOvervoltageEnd peak s) := by
  unfold execOvervoltageEnd
  refine KeptO.next ?_
  refine overvoltageEnd_kept ?_
  assumption

theorem brownout_kept {kp : Keep} {mV s} (hm : kp.mode = none) (hs : Kept kp s) :
    Kept kp (brownout mV s) := by
  unfold brownout
  refine Kept.ite ?_ ?_
  · assumption
  · refine supplyLost_kept hm ?_
    refine stageEvent_kept ?_
    assumption

theorem execBrownout_kept {kp : Keep} {mV s} (hm : kp.mode = none) (hs : Kept kp s) :
    KeptO kp (execBrownout mV s) := by
  unfold execBrownout
  refine KeptO.next ?_
  refine brownout_kept hm ?_
  assumption

theorem descentOutputs_kept {kp : Keep} {s} (hs : Kept kp s) :
    Kept kp (descentOutputs s) := by
  unfold descentOutputs
  extract_lets +onlyGivenNames -merge -useContext x1
  have hx1 : Kept kp x1 := by
    unfold x1
    refine lswCtlWrite_kept ?_
    assumption
  clear_value x1
  refine Kept.upd rfl rfl ?_
  assumption

theorem descentStep5_kept {kp : Keep} {host s} (hs : Kept kp s) :
    Kept kp (descentStep5 host s) := by
  unfold descentStep5
  extract_lets +onlyGivenNames -merge -useContext x1; clear_value x1
  extract_lets +onlyGivenNames -merge -useContext x2
  have hx2 : Kept kp x2 := by
    unfold x2
    refine descentEvent_kept ?_
    refine Kept.upd rfl rfl ?_
    assumption
  clear_value x2
  extract_lets +onlyGivenNames -merge -useContext x3
  have hx3 : Kept kp x3 := by
    unfold x3
    refine Kept.foldl ?_ ?_
    · intro x4 x5 h6
      refine domainOff_kept ?_
      assumption
    · assumption
  clear_value x3
  refine dscStep5_kept ?_
  refine Kept.upd rfl rfl ?_
  assumption

theorem graceExpiry_kept {kp : Keep} {s} (hs : Kept kp s) :
    Kept kp (graceExpiry s) := by
  unfold graceExpiry
  refine Kept.ite ?_ ?_
  · assumption
  · refine Kept.ite ?_ ?_
    · refine descentStep5_kept ?_
      assumption
    · refine Kept.upd rfl rfl ?_
      assumption

theorem execDescGraceExpiry_kept {kp : Keep} {s} (hs : Kept kp s) :
    KeptO kp (execDescGraceExpiry s) := by
  unfold execDescGraceExpiry
  refine KeptO.next ?_
  refine graceExpiry_kept ?_
  assumption

theorem groundHealed_kept {kp : Keep} {s} (hs : Kept kp s) :
    Kept kp (groundHealed s) := by
  unfold groundHealed
  refine Kept.ite ?_ ?_
  · assumption
  · refine raise_kept ?_
    refine Kept.upd rfl rfl ?_
    assumption

theorem descentLimit_kept {kp : Keep} {s} (hm : kp.mode = none) (hs : Kept kp s) :
    Kept kp (descentLimit s) := by
  unfold descentLimit
  refine Kept.ite ?_ ?_
  · assumption
  · refine descentEnd_kept hm ?_
    refine descentStep6_kept ?_
    refine dscCut_kept ?_
    assumption

theorem execDescentLimit_kept {kp : Keep} {s} (hm : kp.mode = none) (hs : Kept kp s) :
    KeptO kp (execDescentLimit s) := by
  unfold execDescentLimit
  refine KeptO.next ?_
  refine descentLimit_kept hm ?_
  assumption

theorem descentTick_kept {kp : Keep} {s} (hs : Kept kp s) :
    Kept kp (descentTick s) := by
  unfold descentTick
  refine Kept.ite ?_ ?_
  · refine Kept.upd rfl rfl ?_
    assumption
  · refine Kept.ite ?_ ?_
    · refine descentOutputs_kept ?_
      assumption
    · refine Kept.ite ?_ ?_
      · split
        · rename_i x1 x2 x3 h4
          refine Kept.ite ?_ ?_
          · refine descentStep5_kept ?_
            assumption
          · assumption
        · rename_i x5 h6
          assumption
      · assumption

theorem ctrlReady_kept {kp : Keep} {postFail startTicks s} (hs : Kept kp s) :
    Kept kp (ctrlReady postFail startTicks s) := by
  unfold ctrlReady
  refine Kept.ite ?_ ?_
  · assumption
  · extract_lets +onlyGivenNames -merge -useContext x1
    have hx1 : Kept kp x1 := by
      unfold x1
      refine flushRecorder_kept ?_
      assumption
    clear_value x1
    extract_lets +onlyGivenNames -merge -useContext x2; clear_value x2
    extract_lets +onlyGivenNames -merge -useContext x3; clear_value x3
    extract_lets +onlyGivenNames -merge -useContext x4
    have hx4 : Kept kp x4 := by
      unfold x4
      refine Kept.upd rfl rfl ?_
      assumption
    clear_value x4
    extract_lets +onlyGivenNames -merge -useContext x5
    have hx5 : Kept kp x5 := by
      unfold x5
      refine raise_kept ?_
      assumption
    clear_value x5
    extract_lets +onlyGivenNames -merge -useContext x6
    have hx6 : Kept kp x6 := by
      unfold x6
      refine raise_kept ?_
      assumption
    clear_value x6
    extract_lets +onlyGivenNames -merge -useContext x7
    have hx7 : Kept kp x7 := by
      unfold x7
      refine Kept.ite ?_ ?_
      · refine raise_kept ?_
        assumption
      · assumption
    clear_value x7
    extract_lets +onlyGivenNames -merge -useContext x8
    have hx8 : Kept kp x8 := by
      unfold x8
      refine Kept.ite ?_ ?_
      · refine raise_kept ?_
        refine raise_kept ?_
        assumption
      · assumption
    clear_value x8
    refine updReady_kept ?_
    refine dscReady_kept ?_
    assumption

theorem execCtrlReady_kept {kp : Keep} {postFail startTicks s} (hs : Kept kp s) :
    KeptO kp (execCtrlReady postFail startTicks s) := by
  unfold execCtrlReady
  refine KeptO.next ?_
  refine ctrlReady_kept ?_
  assumption

theorem execAllowanceSpent_kept {kp : Keep} {s} (hm : kp.mode = none) (hs : Kept kp s) :
    KeptO kp (execAllowanceSpent s) := by
  unfold execAllowanceSpent
  refine KeptO.next ?_
  refine allowanceSpent_kept hm ?_
  assumption

theorem execIgnitionOff_kept {kp : Keep} {s} (hd : kp.down = true) (hs : Kept kp s) :
    KeptO kp (execIgnitionOff s) := by
  unfold execIgnitionOff
  refine KeptO.next ?_
  refine ignitionOff_kept hd ?_
  assumption

theorem freshBlocks_kept {kp : Keep} {s} (hs : Kept kp s) :
    Kept kp (freshBlocks s) := by
  unfold freshBlocks
  extract_lets +onlyGivenNames -merge -useContext x1
  have hx1 : Kept kp x1 := by
    unfold x1
    refine teamReset_kept ?_
    assumption
  clear_value x1
  extract_lets +onlyGivenNames -merge -useContext x2
  have hx2 : Kept kp x2 := by
    unfold x2
    refine lswTimeBase_kept ?_
    assumption
  clear_value x2
  refine Kept.upd rfl rfl ?_
  assumption

theorem lineStart_kept {kp : Keep} {e s} (hs : Kept kp s) :
    Kept kp (lineStart e s) := by
  unfold lineStart
  extract_lets +onlyGivenNames -merge -useContext x1; clear_value x1
  refine Kept.upd rfl rfl ?_
  assumption

theorem runEntry_kept {kp : Keep} {wake e s} (hm : kp.mode = none) (ht : kp.time = none) (hs : Kept kp s) :
    Kept kp (runEntry wake e s) := by
  unfold runEntry
  extract_lets +onlyGivenNames -merge -useContext x1
  have hx1 : Kept kp x1 := by
    unfold x1
    refine Kept.ite ?_ ?_
    · refine pd0Loss_kept ht ?_
      assumption
    · assumption
  clear_value x1
  extract_lets +onlyGivenNames -merge -useContext x2
  have hx2 : Kept kp x2 := by
    unfold x2
    refine stageEvent_kept ?_
    refine Kept.mkMode hm rfl rfl ?_
    assumption
  clear_value x2
  extract_lets +onlyGivenNames -merge -useContext x3; clear_value x3
  extract_lets +onlyGivenNames -merge -useContext x4
  have hx4 : Kept kp x4 := by
    unfold x4
    refine Kept.upd rfl rfl ?_
    assumption
  clear_value x4
  extract_lets +onlyGivenNames -merge -useContext x5
  have hx5 : Kept kp x5 := by
    unfold x5
    refine updRunEntry_kept ?_
    refine freshBlocks_kept ?_
    assumption
  clear_value x5
  extract_lets +onlyGivenNames -merge -useContext x6; clear_value x6
  extract_lets +onlyGivenNames -merge -useContext x7; clear_value x7
  extract_lets +onlyGivenNames -merge -useContext x8; clear_value x8
  extract_lets +onlyGivenNames -merge -useContext x9
  have hx9 : Kept kp x9 := by
    unfold x9
    refine Kept.mkStart hm ht ?_
    assumption
  clear_value x9
  extract_lets +onlyGivenNames -merge -useContext x10; clear_value x10
  extract_lets +onlyGivenNames -merge -useContext x11; clear_value x11
  extract_lets +onlyGivenNames -merge -useContext x12
  have hx12 : Kept kp x12 := by
    unfold x12
    refine lineStart_kept ?_
    refine Kept.upd rfl rfl ?_
    assumption
  clear_value x12
  refine raise_kept ?_
  assumption

theorem restartAfter_kept {kp : Keep} {mV src e s} (hm : kp.mode = none) (ht : kp.time = none) (hs : Kept kp s) :
    Kept kp (restartAfter mV src e s) := by
  unfold restartAfter
  extract_lets +onlyGivenNames -merge -useContext x1; clear_value x1
  refine Kept.ite ?_ ?_
  · refine runEntry_kept hm ht ?_
    assumption
  · assumption

theorem execRestartAfterBrownout_kept {kp : Keep} {mV src e s} (hm : kp.mode = none) (ht : kp.time = none)
  (hs : Kept kp s) :
    KeptO kp (execRestartAfterBrownout mV src e s) := by
  unfold execRestartAfterBrownout
  refine KeptO.next ?_
  refine restartAfter_kept hm ht ?_
  assumption

theorem fixropeRequest_kept {kp : Keep} {active s} (hm : kp.mode = none) (hs : Kept kp s) :
    Kept kp (fixropeRequest active s) := by
  unfold fixropeRequest
  refine Kept.ite ?_ ?_
  · refine Kept.upd rfl rfl ?_
    assumption
  · extract_lets +onlyGivenNames -merge -useContext x1
    clear_value x1
    extract_lets +onlyGivenNames -merge -useContext x2; clear_value x2
    extract_lets +onlyGivenNames -merge -useContext x3
    have hx3 : Kept kp x3 := by
      unfold x3
      refine Kept.upd rfl rfl ?_
      assumption
    clear_value x3
    refine Kept.ite ?_ ?_
    · refine fixedRope_kept hm ?_
      assumption
    · assumption

theorem captureDone_kept {kp : Keep} {s} (hm : kp.mode = none) (hs : Kept kp s) :
    Kept kp (captureDone s) := by
  unfold captureDone
  extract_lets +onlyGivenNames -merge -useContext x1
  have hx1 : Kept kp x1 := by
    unfold x1
    refine bivOver_kept ?_
    assumption
  clear_value x1
  refine Kept.ite ?_ ?_
  · refine bivouacSpent_kept hm ?_
    assumption
  · assumption

theorem snapshot_kept {kp : Keep} {gpsNs tunc temp samples s} (hm : kp.mode = none) (hs : Kept kp s) :
    Kept kp (snapshot gpsNs tunc temp samples s) := by
  unfold snapshot
  refine Kept.ite ?_ ?_
  · assumption
  · refine captureDone_kept hm ?_
    refine takeSnapshot_kept ?_
    assumption

theorem execSnapshot_kept {kp : Keep} {gpsNs tunc temp samples s} (hm : kp.mode = none) (hs : Kept kp s) :
    KeptO kp (execSnapshot gpsNs tunc temp samples s) := by
  unfold execSnapshot
  refine KeptO.next ?_
  refine snapshot_kept hm ?_
  assumption

theorem wakeNow_kept {kp : Keep} {src e s} (hm : kp.mode = none) (ht : kp.time = none) (hs : Kept kp s) :
    Kept kp (wakeNow src e s) := by
  unfold wakeNow
  split
  · rename_i x1 x2 h3
    extract_lets +onlyGivenNames -merge -useContext x4; clear_value x4
    refine Kept.ite ?_ ?_
    · refine runEntry_kept hm ht ?_
      assumption
    · assumption
  · rename_i x5 x6 h7
    extract_lets +onlyGivenNames -merge -useContext x8; clear_value x8
    refine Kept.ite ?_ ?_
    · refine runEntry_kept hm ht ?_
      refine Kept.upd rfl rfl ?_
      assumption
    · assumption
  · rename_i x9 x10 h11 h12
    extract_lets +onlyGivenNames -merge -useContext x13; clear_value x13
    refine runEntry_kept hm ht ?_
    assumption
  · rename_i x14 x15 h16
    refine Kept.ite ?_ ?_
    · refine Kept.upd rfl rfl ?_
      assumption
    · assumption
  · rename_i x17 x18 h19 h20 h21 h22
    assumption

theorem heartbeatWrite_kept {kp : Keep} {s} (hs : Kept kp s) :
    Kept kp (heartbeatWrite s) := by
  unfold heartbeatWrite
  refine Kept.upd rfl rfl ?_
  assumption

theorem execWatchdogHeartbeat_kept {kp : Keep} {s} (hs : Kept kp s) :
    KeptO kp (execWatchdogHeartbeat s) := by
  unfold execWatchdogHeartbeat
  refine KeptO.next ?_
  refine Kept.ite ?_ ?_
  · refine heartbeatWrite_kept ?_
    assumption
  · assumption

theorem overvoltage_kept {kp : Keep} {mV s} (hs : Kept kp s) :
    Kept kp (overvoltage mV s) := by
  unfold overvoltage
  refine Kept.ite ?_ ?_
  · assumption
  · refine raise_kept ?_
    refine Kept.upd rfl rfl ?_
    assumption

theorem restartModule_kept {kp : Keep} {s} (hm : kp.mode = none) (hs : Kept kp s) :
    Kept kp (restartModule s) := by
  unfold restartModule
  extract_lets +onlyGivenNames -merge -useContext x1
  have hx1 : Kept kp x1 := by
    unfold x1
    refine allOff_kept ?_
    assumption
  clear_value x1
  refine Kept.mkMode hm rfl rfl ?_
  assumption

theorem watchdogExpiry_kept {kp : Keep} {s} (hm : kp.mode = none) (hs : Kept kp s) :
    Kept kp (watchdogExpiry s) := by
  unfold watchdogExpiry
  refine Kept.ite ?_ ?_
  · assumption
  · extract_lets +onlyGivenNames -merge -useContext x1
    clear_value x1
    extract_lets +onlyGivenNames -merge -useContext x2
    have hx2 : Kept kp x2 := by
      unfold x2
      refine recordNow_kept ?_
      assumption
    clear_value x2
    refine Kept.ite ?_ ?_
    · refine Kept.ite ?_ ?_
      · refine restartModule_kept hm ?_
        refine flushRecorder_kept ?_
        assumption
      · assumption
    · refine fixedRope_kept hm ?_
      assumption

theorem burstInstant_kept {kp : Keep} {s} (hs : Kept kp s) :
    Kept kp (burstInstant s) := by
  unfold burstInstant
  refine Kept.ite ?_ ?_
  · assumption
  · extract_lets +onlyGivenNames -merge -useContext x1
    extract_lets +onlyGivenNames -merge -useContext x2; clear_value x2
    extract_lets +onlyGivenNames -merge -useContext x3
    have hx3 : Kept kp x3 := by
      unfold x3
      refine Kept.upd rfl rfl ?_
      assumption
    refine Kept.ite ?_ ?_
    · refine bivCapture_kept ?_
      refine Kept.upd rfl rfl ?_
      assumption
    · refine Kept.ite ?_ ?_
      · refine bivCapture_kept ?_
        refine Kept.upd rfl rfl ?_
        assumption
      · assumption

theorem execBurstInstant_kept {kp : Keep} {s} (hs : Kept kp s) :
    KeptO kp (execBurstInstant s) := by
  unfold execBurstInstant
  refine KeptO.next ?_
  refine burstInstant_kept ?_
  assumption

theorem execOvervoltage_kept {kp : Keep} {mV s} (hs : Kept kp s) :
    KeptO kp (execOvervoltage mV s) := by
  unfold execOvervoltage
  refine KeptO.next ?_
  refine overvoltage_kept ?_
  assumption

theorem execWake_kept {kp : Keep} {src e s} (hm : kp.mode = none) (ht : kp.time = none) (hs : Kept kp s) :
    KeptO kp (execWake src e s) := by
  unfold execWake
  refine KeptO.next ?_
  refine wakeNow_kept hm ht ?_
  assumption

theorem presenceBeacon_kept {kp : Keep} {linkUp s} (hs : Kept kp s) :
    Kept kp (presenceBeacon linkUp s) := by
  unfold presenceBeacon
  refine Kept.ite ?_ ?_
  · assumption
  · extract_lets +onlyGivenNames -merge -useContext x1
    clear_value x1
    extract_lets +onlyGivenNames -merge -useContext x2; clear_value x2
    extract_lets +onlyGivenNames -merge -useContext x3; clear_value x3
    extract_lets +onlyGivenNames -merge -useContext x4; clear_value x4
    extract_lets +onlyGivenNames -merge -useContext x5
    have hx5 : Kept kp x5 := by
      unfold x5
      refine State.setPd_kept ?_
      assumption
    clear_value x5
    refine Kept.upd rfl rfl ?_
    assumption

theorem execFixropeRequest_kept {kp : Keep} {active s} (hm : kp.mode = none) (hs : Kept kp s) :
    KeptO kp (execFixropeRequest active s) := by
  unfold execFixropeRequest
  refine KeptO.next ?_
  refine fixropeRequest_kept hm ?_
  assumption

theorem execWatchdogExpiry_kept {kp : Keep} {s} (hm : kp.mode = none) (hs : Kept kp s) :
    KeptO kp (execWatchdogExpiry s) := by
  unfold execWatchdogExpiry
  refine KeptO.next ?_
  refine watchdogExpiry_kept hm ?_
  assumption

theorem bivouacSecond_kept {kp : Keep} {spent s} (hs : Kept kp s) :
    Kept kp (bivouacSecond spent s) := by
  unfold bivouacSecond
  refine Kept.ite ?_ ?_
  · assumption
  · extract_lets +onlyGivenNames -merge -useContext x1
    clear_value x1
    extract_lets +onlyGivenNames -merge -useContext x2; clear_value x2
    extract_lets +onlyGivenNames -merge -useContext x3; clear_value x3
    extract_lets +onlyGivenNames -merge -useContext x4; clear_value x4
    extract_lets +onlyGivenNames -merge -useContext x5; clear_value x5
    extract_lets +onlyGivenNames -merge -useContext x6; clear_value x6
    extract_lets +onlyGivenNames -merge -useContext x7; clear_value x7
    extract_lets +onlyGivenNames -merge -useContext x8; clear_value x8
    extract_lets +onlyGivenNames -merge -useContext x9
    have hx9 : Kept kp x9 := by
      unfold x9
      refine Kept.upd rfl rfl ?_
      assumption
    clear_value x9
    refine Kept.ite ?_ ?_
    · refine State.setPd_kept ?_
      assumption
    · assumption

theorem execBivouacSecond_kept {kp : Keep} {spent s} (hs : Kept kp s) :
    KeptO kp (execBivouacSecond spent s) := by
  unfold execBivouacSecond
  refine KeptO.next ?_
  refine bivouacSecond_kept ?_
  assumption

theorem pwrCmd_kept {kp : Keep} {v s} (hs : Kept kp s) :
    Kept kp (pwrCmd v s) := by
  unfold pwrCmd
  extract_lets +onlyGivenNames -merge -useContext x1; clear_value x1
  extract_lets +onlyGivenNames -merge -useContext x2
  have hx2 : Kept kp x2 := by
    unfold x2
    refine Kept.ite ?_ ?_
    · refine Kept.upd rfl rfl ?_
      assumption
    · assumption
  clear_value x2
  refine Kept.ite ?_ ?_
  · refine Kept.upd rfl rfl ?_
    assumption
  · assumption

theorem execDescend_kept {kp : Keep} {a v s} (hs : Kept kp s) :
    KeptO kp (execDescend a v s) := by
  unfold execDescend
  refine KeptO.next ?_
  refine gateWrite_kept ?_ ?_
  · assumption
  · intro x1 h2
    refine pwrCmd_kept ?_
    assumption

theorem bivouacBurst_kept {kp : Keep} {sats distance gpsNs s} (hm : kp.mode = none) (hs : Kept kp s) :
    Kept kp (bivouacBurst sats distance gpsNs s) := by
  unfold bivouacBurst
  refine Kept.ite ?_ ?_
  · assumption
  · extract_lets +onlyGivenNames -merge -useContext x1
    have hx1 : Kept kp x1 := by
      unfold x1
      refine bivFix_kept ?_
      assumption
    clear_value x1
    extract_lets +onlyGivenNames -merge -useContext x2; clear_value x2
    refine captureDone_kept hm ?_
    refine Kept.upd rfl rfl ?_
    assumption

theorem execBivouacBurst_kept {kp : Keep} {sats distance gpsNs s} (hm : kp.mode = none) (hs : Kept kp s) :
    KeptO kp (execBivouacBurst sats distance gpsNs s) := by
  unfold execBivouacBurst
  refine KeptO.next ?_
  refine bivouacBurst_kept hm ?_
  assumption

theorem execPresenceBeacon_kept {kp : Keep} {linkUp s} (hs : Kept kp s) :
    KeptO kp (execPresenceBeacon linkUp s) := by
  unfold execPresenceBeacon
  refine KeptO.next ?_
  refine presenceBeacon_kept ?_
  assumption

theorem execHostDone_kept {kp : Keep} {a v s} (hs : Kept kp s) :
    KeptO kp (execHostDone a v s) := by
  unfold execHostDone
  refine KeptO.next ?_
  refine gateWrite_kept ?_ ?_
  · assumption
  · intro x1 h2
    refine pwrCmd_kept ?_
    assumption

theorem execGroundHealed_kept {kp : Keep} {s} (hs : Kept kp s) :
    KeptO kp (execGroundHealed s) := by
  unfold execGroundHealed
  refine KeptO.next ?_
  refine groundHealed_kept ?_
  assumption

end Sys2Proof.Machine
end

