-- ==== Sys2Proof/Laws/KeptGovernor.lean ====
section
/-!
SUPPORT. What the operations of Sys2Proof/Machine/Governor.lean keep (see Sys2Proof/Laws/Kept.lean).
-/

namespace Sys2Proof.Machine

theorem govRelease_kept {kp : Keep} {c s} (hs : Kept kp s) :
    Kept kp (govRelease c s) := by
  unfold govRelease
  extract_lets +onlyGivenNames -merge -useContext x1; clear_value x1
  refine Kept.ite ?_ ?_
  · refine failOp_kept ?_
    assumption
  · refine finishOp_kept ?_
    refine Kept.upd rfl rfl ?_
    assumption

theorem execGovRelease_kept {kp : Keep} {n s} (hs : Kept kp s) :
    KeptO kp (execGovRelease n s) := by
  unfold execGovRelease
  refine KeptO.next ?_
  refine takeOp_kept ?_ ?_
  · intro x1 x2 h3
    refine govRelease_kept ?_
    assumption
  · assumption

theorem pdReqWrite_kept {kp : Keep} {v s} (hs : Kept kp s) :
    Kept kp (pdReqWrite v s) := by
  unfold pdReqWrite
  extract_lets +onlyGivenNames -merge -useContext x1; clear_value x1
  refine Kept.ite ?_ ?_
  · assumption
  · refine Kept.upd rfl rfl ?_
    assumption

theorem execPdReqWrite_kept {kp : Keep} {a v s} (hs : Kept kp s) :
    KeptO kp (execPdReqWrite a v s) := by
  unfold execPdReqWrite
  refine KeptO.next ?_
  refine gateWrite_kept ?_ ?_
  · assumption
  · intro x1 h2
    refine pdReqWrite_kept ?_
    assumption

theorem setJob_kept {kp : Keep} {n j s} (hs : Kept kp s) :
    Kept kp (setJob n j s) := by
  unfold setJob
  refine Kept.upd rfl rfl ?_
  assumption

theorem govTick_kept {kp : Keep} {i s} (hs : Kept kp s) :
    Kept kp (govTick i s) := by
  unfold govTick
  extract_lets +onlyGivenNames -merge -useContext x1; clear_value x1
  extract_lets +onlyGivenNames -merge -useContext x2; clear_value x2
  extract_lets +onlyGivenNames -merge -useContext x3; clear_value x3
  extract_lets +onlyGivenNames -merge -useContext x4; clear_value x4
  refine Kept.upd rfl rfl ?_
  assumption

theorem jobEvent_kept {kp : Keep} {code n bank s} (hs : Kept kp s) :
    Kept kp (jobEvent code n bank s) := by
  unfold jobEvent
  refine raise_kept ?_
  assumption

theorem ladderJob_kept {kp : Keep} {code x s} (hs : Kept kp s) :
    Kept kp (ladderJob code x s) := by
  unfold ladderJob
  split
  · rename_i x1 x2
    refine Kept.ite ?_ ?_
    · assumption
    · refine jobEvent_kept ?_
      assumption
  · rename_i x3 h4
    assumption

theorem deferNext_kept {kp : Keep} {p s} (hs : Kept kp s) :
    Kept kp (deferNext p s) := by
  unfold deferNext
  extract_lets +onlyGivenNames -merge -useContext x1; clear_value x1
  extract_lets +onlyGivenNames -merge -useContext x2; clear_value x2
  extract_lets +onlyGivenNames -merge -useContext x3
  have hx3 : Kept kp x3 := by
    unfold x3
    refine Kept.upd rfl rfl ?_
    assumption
  clear_value x3
  split
  · rename_i x4 x5 h6
    extract_lets +onlyGivenNames -merge -useContext x7; clear_value x7
    extract_lets +onlyGivenNames -merge -useContext x8; clear_value x8
    extract_lets +onlyGivenNames -merge -useContext x9
    have hx9 : Kept kp x9 := by
      unfold x9
      refine Kept.upd rfl rfl ?_
      assumption
    clear_value x9
    refine raise_kept ?_
    refine ladderJob_kept ?_
    assumption
  · rename_i x10 h11
    extract_lets +onlyGivenNames -merge -useContext x12; clear_value x12
    extract_lets +onlyGivenNames -merge -useContext x13; clear_value x13
    extract_lets +onlyGivenNames -merge -useContext x14; clear_value x14
    extract_lets +onlyGivenNames -merge -useContext x15
    have hx15 : Kept kp x15 := by
      unfold x15
      refine Kept.upd rfl rfl ?_
      assumption
    clear_value x15
    refine Kept.ite ?_ ?_
    · refine raise_kept ?_
      assumption
    · assumption

theorem countPeriod_kept {kp : Keep} {p allow s} (hs : Kept kp s) :
    Kept kp (countPeriod p allow s) := by
  unfold countPeriod
  extract_lets +onlyGivenNames -merge -useContext x1; clear_value x1
  extract_lets +onlyGivenNames -merge -useContext x2; clear_value x2
  extract_lets +onlyGivenNames -merge -useContext x3
  have hx3 : Kept kp x3 := by
    unfold x3
    refine Kept.upd rfl rfl ?_
    assumption
  clear_value x3
  split
  · rename_i x4 h5
    refine Kept.upd rfl rfl ?_
    assumption
  · rename_i x6 x7 x8 h9
    refine Kept.ite ?_ ?_
    · refine Kept.ite ?_ ?_
      · refine Kept.upd rfl rfl ?_
        assumption
      · extract_lets +onlyGivenNames -merge -useContext x10
        clear_value x10
        extract_lets +onlyGivenNames -merge -useContext x11; clear_value x11
        extract_lets +onlyGivenNames -merge -useContext x12
        have hx12 : Kept kp x12 := by
          unfold x12
          refine Kept.upd rfl rfl ?_
          assumption
        clear_value x12
        refine raise_kept ?_
        refine ladderJob_kept ?_
        assumption
    · refine Kept.upd rfl rfl ?_
      assumption

theorem governorPeriod_kept {kp : Keep} {s} (hs : Kept kp s) :
    Kept kp (governorPeriod s) := by
  unfold governorPeriod
  extract_lets +onlyGivenNames -merge -useContext x1; clear_value x1
  refine Kept.ite ?_ ?_
  · assumption
  · extract_lets +onlyGivenNames -merge -useContext x2
    clear_value x2
    extract_lets +onlyGivenNames -merge -useContext x3; clear_value x3
    extract_lets +onlyGivenNames -merge -useContext x4; clear_value x4
    extract_lets +onlyGivenNames -merge -useContext x5
    have hx5 : Kept kp x5 := by
      unfold x5
      refine Kept.upd rfl rfl ?_
      assumption
    clear_value x5
    extract_lets +onlyGivenNames -merge -useContext x6
    have hx6 : Kept kp x6 := by
      unfold x6
      refine Kept.ite ?_ ?_
      · refine deferNext_kept ?_
        assumption
      · refine countPeriod_kept ?_
        assumption
    clear_value x6
    refine Kept.upd rfl rfl ?_
    assumption

theorem execGovernorPeriod_kept {kp : Keep} {s} (hs : Kept kp s) :
    KeptO kp (execGovernorPeriod s) := by
  unfold execGovernorPeriod
  refine KeptO.next ?_
  refine governorPeriod_kept ?_
  assumption

theorem govRead_kept {kp : Keep} {c s} (hs : Kept kp s) :
    Kept kp (govRead c s) := by
  unfold govRead
  refine Kept.ite ?_ ?_
  · refine failOp_kept ?_
    assumption
  · extract_lets +onlyGivenNames -merge -useContext x1
    clear_value x1
    extract_lets +onlyGivenNames -merge -useContext x2; clear_value x2
    refine writeOut_kept ?_
    assumption

theorem execGovRead_kept {kp : Keep} {n s} (hs : Kept kp s) :
    KeptO kp (execGovRead n s) := by
  unfold execGovRead
  refine KeptO.next ?_
  refine takeOp_kept ?_ ?_
  · intro x1 x2 h3
    refine govRead_kept ?_
    assumption
  · assumption

theorem changeJob_kept {kp : Keep} {n bank f s} (hs : Kept kp s) :
    Kept kp (changeJob n bank f s) := by
  unfold changeJob
  split
  · rename_i x1 h2
    assumption
  · rename_i x3 x4 h5
    extract_lets +onlyGivenNames -merge -useContext x6; clear_value x6
    extract_lets +onlyGivenNames -merge -useContext x7
    have hx7 : Kept kp x7 := by
      unfold x7
      refine setJob_kept ?_
      assumption
    clear_value x7
    refine Kept.ite ?_ ?_
    · assumption
    · refine jobEvent_kept ?_
      assumption

theorem bankRestore_kept {kp : Keep} {n s} (hs : Kept kp s) :
    Kept kp (bankRestore n s) := by
  unfold bankRestore
  split
  · rename_i x1 h2
    assumption
  · rename_i x3 x4 h5
    refine Kept.ite ?_ ?_
    · refine changeJob_kept ?_
      assumption
    · assumption

theorem execBankBudgetRestore_kept {kp : Keep} {j s} (hs : Kept kp s) :
    KeptO kp (execBankBudgetRestore j s) := by
  unfold execBankBudgetRestore
  refine KeptO.next ?_
  refine bankRestore_kept ?_
  assumption

theorem settlePending_kept {kp : Keep} {s} (hs : Kept kp s) :
    Kept kp (settlePending s) := by
  unfold settlePending
  split
  · rename_i x1 h2
    assumption
  · rename_i x3 x4 x5 h6
    extract_lets +onlyGivenNames -merge -useContext x7; clear_value x7
    extract_lets +onlyGivenNames -merge -useContext x8; clear_value x8
    extract_lets +onlyGivenNames -merge -useContext x9
    have hx9 : Kept kp x9 := by
      unfold x9
      refine Kept.upd rfl rfl ?_
      assumption
    clear_value x9
    split
    · rename_i x10 x11
      refine deferStream_kept ?_
      assumption
    · rename_i x12 x13
      split
      · rename_i x14 x15 h16
        refine setJob_kept ?_
        assumption
      · rename_i x17 h18
        assumption
    · rename_i x19
      refine Kept.upd rfl rfl ?_
      assumption
    · rename_i x20 x21
      refine Kept.foldl ?_ ?_
      · intro x22 x23 h24
        refine Kept.ite ?_ ?_
        · refine setRateFactor_kept ?_
          assumption
        · assumption
      · assumption
    · rename_i x25 x26
      refine setBand_kept ?_
      assumption

theorem pwrWrite_kept {kp : Keep} {off v s} (hs : Kept kp s) :
    Kept kp (pwrWrite off v s) := by
  unfold pwrWrite
  extract_lets +onlyGivenNames -merge -useContext x1; clear_value x1
  refine Kept.ite ?_ ?_
  · refine Kept.upd rfl rfl ?_
    assumption
  · refine Kept.ite ?_ ?_
    · refine pwrCmd_kept ?_
      assumption
    · refine Kept.ite ?_ ?_
      · refine pdReqWrite_kept ?_
        assumption
      · refine Kept.ite ?_ ?_
        · refine Kept.ite ?_ ?_
          · assumption
          · refine Kept.upd rfl rfl ?_
            assumption
        · refine Kept.ite ?_ ?_
          · refine Kept.ite ?_ ?_
            · assumption
            · refine Kept.upd rfl rfl ?_
              assumption
          · refine Kept.ite ?_ ?_
            · refine Kept.upd rfl rfl ?_
              assumption
            · refine Kept.ite ?_ ?_
              · refine Kept.ite ?_ ?_
                · assumption
                · refine Kept.upd rfl rfl ?_
                  assumption
              · refine Kept.ite ?_ ?_
                · refine Kept.upd rfl rfl ?_
                  assumption
                · refine Kept.ite ?_ ?_
                  · refine Kept.upd rfl rfl ?_
                    assumption
                  · assumption

theorem domainSwitch_kept {kp : Keep} {n s} (hs : Kept kp s) :
    Kept kp (domainSwitch n s) := by
  unfold domainSwitch
  extract_lets +onlyGivenNames -merge -useContext x1; clear_value x1
  refine Kept.ite ?_ ?_
  · assumption
  · refine Kept.ite ?_ ?_
    · refine domainOn_kept ?_
      assumption
    · refine domainOff_kept ?_
      assumption

theorem execDomainSwitch_kept {kp : Keep} {n s} (hs : Kept kp s) :
    KeptO kp (execDomainSwitch n s) := by
  unfold execDomainSwitch
  refine KeptO.next ?_
  refine domainSwitch_kept ?_
  assumption

theorem govDeclare_kept {kp : Keep} {c s} (hs : Kept kp s) :
    Kept kp (govDeclare c s) := by
  unfold govDeclare
  extract_lets +onlyGivenNames -merge -useContext x1; clear_value x1
  extract_lets +onlyGivenNames -merge -useContext x2; clear_value x2
  extract_lets +onlyGivenNames -merge -useContext x3; clear_value x3
  refine Kept.ite ?_ ?_
  · refine failOp_kept ?_
    assumption
  · refine Kept.ite ?_ ?_
    · refine failOp_kept ?_
      assumption
    · extract_lets +onlyGivenNames -merge -useContext x4
      clear_value x4
      extract_lets +onlyGivenNames -merge -useContext x5; clear_value x5
      extract_lets +onlyGivenNames -merge -useContext x6; clear_value x6
      extract_lets +onlyGivenNames -merge -useContext x7; clear_value x7
      extract_lets +onlyGivenNames -merge -useContext x8; clear_value x8
      extract_lets +onlyGivenNames -merge -useContext x9; clear_value x9
      extract_lets +onlyGivenNames -merge -useContext x10; clear_value x10
      extract_lets +onlyGivenNames -merge -useContext x11
      have hx11 : Kept kp x11 := by
        unfold x11
        refine setJob_kept ?_
        assumption
      clear_value x11
      extract_lets +onlyGivenNames -merge -useContext x12
      have hx12 : Kept kp x12 := by
        unfold x12
        refine Kept.ite ?_ ?_
        · assumption
        · refine jobEvent_kept ?_
          assumption
      clear_value x12
      refine finishOp_kept ?_
      assumption

theorem pwrTick_kept {kp : Keep} {i s} (hd : kp.down = true) (hs : Kept kp s) :
    Kept kp (pwrTick i s) := by
  unfold pwrTick
  extract_lets +onlyGivenNames -merge -useContext x1
  extract_lets +onlyGivenNames -merge -useContext x2
  have hx2 : Kept kp x2 := by
    unfold x2
    refine Kept.ite ?_ ?_
    · refine Kept.upd rfl rfl ?_
      assumption
    · assumption
  extract_lets +onlyGivenNames -merge -useContext x3
  have hx3 : Kept kp x3 := by
    unfold x3
    refine govTick_kept ?_
    assumption
  extract_lets +onlyGivenNames -merge -useContext x4; clear_value x4
  extract_lets +onlyGivenNames -merge -useContext x5
  have hx5 : Kept kp x5 := by
    unfold x5
    refine Kept.upd rfl rfl ?_
    assumption
  refine Kept.ite ?_ ?_
  · refine descentTick_kept ?_
    assumption
  · refine Kept.ite ?_ ?_
    · refine descentBegin_kept hd ?_
      assumption
    · assumption

theorem bankExceeded_kept {kp : Keep} {b s} (hs : Kept kp s) :
    Kept kp (bankExceeded b s) := by
  unfold bankExceeded
  extract_lets +onlyGivenNames -merge -useContext x1; clear_value x1
  refine Kept.ite ?_ ?_
  · assumption
  · extract_lets +onlyGivenNames -merge -useContext x2
    clear_value x2
    extract_lets +onlyGivenNames -merge -useContext x3; clear_value x3
    extract_lets +onlyGivenNames -merge -useContext x4; clear_value x4
    extract_lets +onlyGivenNames -merge -useContext x5; clear_value x5
    extract_lets +onlyGivenNames -merge -useContext x6
    have hx6 : Kept kp x6 := by
      unfold x6
      refine Kept.ite ?_ ?_
      · refine Kept.upd rfl rfl ?_
        assumption
      · refine Kept.upd rfl rfl ?_
        assumption
    clear_value x6
    extract_lets +onlyGivenNames -merge -useContext x7; clear_value x7
    split
    · rename_i x8 x9 h10
      refine Kept.ite ?_ ?_
      · split
        · rename_i x11 x12 h13
          refine setJob_kept ?_
          assumption
        · rename_i x14 h15
          assumption
      · refine changeJob_kept ?_
        assumption
    · rename_i x16 h17
      assumption

theorem execBankBudgetExceeded_kept {kp : Keep} {bank s} (hs : Kept kp s) :
    KeptO kp (execBankBudgetExceeded bank s) := by
  unfold execBankBudgetExceeded
  refine KeptO.next ?_
  refine bankExceeded_kept ?_
  assumption

theorem pwrRead_kept {kp : Keep} {off s} (hs : Kept kp s) :
    KeptS kp (pwrRead off s) := by
  unfold pwrRead
  extract_lets +onlyGivenNames -merge -useContext x1; clear_value x1
  refine KeptS.ite ?_ ?_
  · refine KeptS.mk ?_
    assumption
  · refine KeptS.ite ?_ ?_
    · refine KeptS.mk ?_
      assumption
    · refine KeptS.ite ?_ ?_
      · refine KeptS.mk ?_
        assumption
      · refine KeptS.ite ?_ ?_
        · refine KeptS.mk ?_
          assumption
        · refine KeptS.ite ?_ ?_
          · refine KeptS.mk ?_
            assumption
          · refine KeptS.ite ?_ ?_
            · refine KeptS.mk ?_
              assumption
            · refine KeptS.ite ?_ ?_
              · refine KeptS.mk ?_
                assumption
              · refine KeptS.ite ?_ ?_
                · refine KeptS.mk ?_
                  assumption
                · refine KeptS.ite ?_ ?_
                  · refine KeptS.mk ?_
                    assumption
                  · refine KeptS.ite ?_ ?_
                    · refine KeptS.mk ?_
                      assumption
                    · refine KeptS.ite ?_ ?_
                      · refine KeptS.mk ?_
                        assumption
                      · refine KeptS.ite ?_ ?_
                        · refine KeptS.mk ?_
                          assumption
                        · refine KeptS.ite ?_ ?_
                          · refine KeptS.mk ?_
                            assumption
                          · refine KeptS.ite ?_ ?_
                            · refine KeptS.mk ?_
                              assumption
                            · refine KeptS.ite ?_ ?_
                              · refine KeptS.mk ?_
                                assumption
                              · refine KeptS.ite ?_ ?_
                                · refine KeptS.mk ?_
                                  assumption
                                · refine KeptS.mk ?_
                                  assumption

theorem execGovDeclare_kept {kp : Keep} {n s} (hs : Kept kp s) :
    KeptO kp (execGovDeclare n s) := by
  unfold execGovDeclare
  refine KeptO.next ?_
  refine takeOp_kept ?_ ?_
  · intro x1 x2 h3
    refine govDeclare_kept ?_
    assumption
  · assumption

end Sys2Proof.Machine
end

