-- ==== Sys2Proof/Laws/KeptUpdateOps.lean ====
section
/-!
SUPPORT. What the operations of Sys2Proof/Machine/UpdateOps.lean keep (see Sys2Proof/Laws/Kept.lean).
-/

namespace Sys2Proof.Machine

theorem whileUpd_kept {kp : Keep} {s k} (hs : Kept kp s) (hk : ∀ y1, Kept kp y1 → Kept kp (k y1)) :
    KeptO kp (whileUpd s k) := by
  unfold whileUpd
  refine KeptO.next ?_
  refine Kept.ite ?_ ?_
  · apply hk
    assumption
  · assumption

theorem revert_kept {kp : Keep} {c s} (hs : Kept kp s) :
    Kept kp (revert c s) := by
  unfold revert
  extract_lets +onlyGivenNames -merge -useContext x1
  have hx1 : Kept kp x1 := by
    unfold x1
    refine toOldSet_kept ?_
    assumption
  clear_value x1
  refine updEvent_kept ?_
  refine Kept.upd rfl rfl ?_
  assumption

theorem backToStaged_kept {kp : Keep} {s} (hs : Kept kp s) :
    Kept kp (backToStaged s) := by
  unfold backToStaged
  refine Kept.upd rfl rfl ?_
  assumption

theorem descendInto_kept {kp : Keep} {s} (hd : kp.down = true) (hs : Kept kp s) :
    Kept kp (descendInto s) := by
  unfold descendInto
  refine descentBegin_kept hd ?_
  refine Kept.upd rfl rfl ?_
  assumption

theorem restartNow_kept {kp : Keep} {alone s} (hd : kp.down = true) (hs : Kept kp s) :
    Kept kp (restartNow alone s) := by
  unfold restartNow
  refine Kept.ite ?_ ?_
  · assumption
  · refine descendInto_kept hd ?_
    refine Kept.upd rfl rfl ?_
    assumption

theorem reversion_kept {kp : Keep} {s} (hd : kp.down = true) (hs : Kept kp s) :
    Kept kp (reversion s) := by
  unfold reversion
  split
  · rename_i x1 h2
    assumption
  · rename_i x3 x4 h5
    extract_lets +onlyGivenNames -merge -useContext x6
    have hx6 : Kept kp x6 := by
      unfold x6
      refine revert_kept ?_
      assumption
    clear_value x6
    extract_lets +onlyGivenNames -merge -useContext x7; clear_value x7
    refine Kept.ite ?_ ?_
    · refine backToStaged_kept ?_
      assumption
    · refine restartNow_kept hd ?_
      assumption

theorem execReversion_kept {kp : Keep} {s} (hd : kp.down = true) (hs : Kept kp s) :
    KeptO kp (execReversion s) := by
  unfold execReversion
  refine whileUpd_kept ?_ ?_
  · assumption
  · intro x1 h2
    refine reversion_kept hd ?_
    assumption

theorem activateHere_kept {kp : Keep} {step s} (hd : kp.down = true) (hs : Kept kp s) :
    Kept kp (activateHere step s) := by
  unfold activateHere
  extract_lets +onlyGivenNames -merge -useContext x1
  have hx1 : Kept kp x1 := by
    unfold x1
    refine toNewSet_kept ?_
    assumption
  clear_value x1
  extract_lets +onlyGivenNames -merge -useContext x2; clear_value x2
  extract_lets +onlyGivenNames -merge -useContext x3
  have hx3 : Kept kp x3 := by
    unfold x3
    refine Kept.upd rfl rfl ?_
    assumption
  clear_value x3
  refine descendInto_kept hd ?_
  refine updEvent_kept ?_
  assumption

theorem activation_kept {kp : Keep} {s} (hd : kp.down = true) (hs : Kept kp s) :
    Kept kp (activation s) := by
  unfold activation
  refine Kept.ite ?_ ?_
  · assumption
  · split
    · rename_i x1 h2
      refine Kept.ite ?_ ?_
      · refine activateHere_kept hd ?_
        refine Kept.upd rfl rfl ?_
        assumption
      · assumption
    · rename_i x3 h4
      refine Kept.ite ?_ ?_
      · refine Kept.upd rfl rfl ?_
        assumption
      · assumption
    · rename_i x5 h6
      refine Kept.ite ?_ ?_
      · refine activateHere_kept hd ?_
        refine Kept.upd rfl rfl ?_
        assumption
      · refine Kept.ite ?_ ?_
        · refine activateHere_kept hd ?_
          assumption
        · assumption

theorem execActivation_kept {kp : Keep} {s} (hd : kp.down = true) (hs : Kept kp s) :
    KeptO kp (execActivation s) := by
  unfold execActivation
  refine whileUpd_kept ?_ ?_
  · assumption
  · intro x1 h2
    refine activation_kept hd ?_
    assumption

theorem reconvert_kept {kp : Keep} {s} (hs : Kept kp s) :
    Kept kp (reconvert s) := by
  unfold reconvert
  refine Kept.ite ?_ ?_
  · assumption
  · split
    · rename_i x1 h2
      assumption
    · rename_i x3 x4 h5
      refine Kept.ite ?_ ?_
      · assumption
      · refine updEvent_kept ?_
        refine Kept.upd rfl rfl ?_
        assumption

theorem judgeCause_kept {kp : Keep} {c s} (hs : Kept kp s) :
    Kept kp (judgeCause c s) := by
  unfold judgeCause
  refine Kept.upd rfl rfl ?_
  assumption

theorem judge_kept {kp : Keep} {s} (hs : Kept kp s) :
    Kept kp (judge s) := by
  unfold judge
  refine Kept.ite ?_ ?_
  · assumption
  · extract_lets +onlyGivenNames -merge -useContext x1
    clear_value x1
    extract_lets +onlyGivenNames -merge -useContext x2; clear_value x2
    refine Kept.ite ?_ ?_
    · assumption
    · refine judgeCause_kept ?_
      assumption

theorem fromFrame_kept {kp : Keep} {f s} (hs : Kept kp s) :
    Kept kp (fromFrame f s) := by
  unfold fromFrame
  extract_lets +onlyGivenNames -merge -useContext x1; clear_value x1
  extract_lets +onlyGivenNames -merge -useContext x2
  have hx2 : Kept kp x2 := by
    unfold x2
    refine Kept.upd rfl rfl ?_
    assumption
  clear_value x2
  extract_lets +onlyGivenNames -merge -useContext x3; clear_value x3
  extract_lets +onlyGivenNames -merge -useContext x4; clear_value x4
  refine Kept.ite ?_ ?_
  · refine Kept.upd rfl rfl ?_
    assumption
  · refine Kept.ite ?_ ?_
    · refine Kept.upd rfl rfl ?_
      assumption
    · refine Kept.ite ?_ ?_
      · refine backToStaged_kept ?_
        assumption
      · refine Kept.ite ?_ ?_
        · refine Kept.upd rfl rfl ?_
          assumption
        · refine Kept.ite ?_ ?_
          · refine backToStaged_kept ?_
            assumption
          · assumption

theorem revertOver_kept {kp : Keep} {s} (hs : Kept kp s) :
    Kept kp (revertOver s) := by
  unfold revertOver
  refine Kept.ite ?_ ?_
  · refine backToStaged_kept ?_
    assumption
  · assumption

theorem issueHandover_kept {kp : Keep} {s} (hs : Kept kp s) :
    Kept kp (issueHandover s) := by
  unfold issueHandover
  refine Kept.ite ?_ ?_
  · assumption
  · extract_lets +onlyGivenNames -merge -useContext x1
    clear_value x1
    extract_lets +onlyGivenNames -merge -useContext x2; clear_value x2
    extract_lets +onlyGivenNames -merge -useContext x3
    have hx3 : Kept kp x3 := by
      unfold x3
      refine Kept.upd rfl rfl ?_
      assumption
    extract_lets +onlyGivenNames -merge -useContext x4; clear_value x4
    extract_lets +onlyGivenNames -merge -useContext x5
    have hx5 : Kept kp x5 := by
      unfold x5
      refine Kept.ite ?_ ?_
      · refine Kept.upd rfl rfl ?_
        assumption
      · assumption
    clear_value x5
    refine raiseAt_kept ?_
    refine updEvent_kept ?_
    assumption

theorem fromBeat_kept {kp : Keep} {h s} (hs : Kept kp s) :
    Kept kp (fromBeat h s) := by
  unfold fromBeat
  extract_lets +onlyGivenNames -merge -useContext x1; clear_value x1
  extract_lets +onlyGivenNames -merge -useContext x2
  have hx2 : Kept kp x2 := by
    unfold x2
    refine Kept.upd rfl rfl ?_
    assumption
  clear_value x2
  extract_lets +onlyGivenNames -merge -useContext x3; clear_value x3
  extract_lets +onlyGivenNames -merge -useContext x4; clear_value x4
  extract_lets +onlyGivenNames -merge -useContext x5
  have hx5 : Kept kp x5 := by
    unfold x5
    refine Kept.ite ?_ ?_
    · refine updEvent_kept ?_
      refine Kept.upd rfl rfl ?_
      assumption
    · assumption
  clear_value x5
  extract_lets +onlyGivenNames -merge -useContext x6; clear_value x6
  extract_lets +onlyGivenNames -merge -useContext x7
  have hx7 : Kept kp x7 := by
    unfold x7
    refine Kept.ite ?_ ?_
    · refine Kept.upd rfl rfl ?_
      assumption
    · assumption
  clear_value x7
  refine Kept.ite ?_ ?_
  · refine backToStaged_kept ?_
    assumption
  · assumption

theorem hearTwin_kept {kp : Keep} {s} (hs : Kept kp s) :
    Kept kp (hearTwin s) := by
  unfold hearTwin
  refine Kept.ite ?_ ?_
  · split
    · rename_i x1 x2 h3
      refine fromBeat_kept ?_
      assumption
    · rename_i x4 h5
      assumption
  · refine Kept.ite ?_ ?_
    · split
      · rename_i x6 x7 h8
        refine fromFrame_kept ?_
        assumption
      · rename_i x9 h10
        assumption
    · assumption

theorem updTick_kept {kp : Keep} {s} (hd : kp.down = true) (hs : Kept kp s) :
    Kept kp (updTick s) := by
  unfold updTick
  extract_lets +onlyGivenNames -merge -useContext x1; clear_value x1
  extract_lets +onlyGivenNames -merge -useContext x2
  have hx2 : Kept kp x2 := by
    unfold x2
    refine Kept.upd rfl rfl ?_
    assumption
  clear_value x2
  refine restartNow_kept hd ?_
  refine revertOver_kept ?_
  refine judge_kept ?_
  refine issueHandover_kept ?_
  refine hearTwin_kept ?_
  refine reconvert_kept ?_
  assumption

theorem commitEffect_kept {kp : Keep} {s} (hs : Kept kp s) :
    Kept kp (commitEffect s) := by
  unfold commitEffect
  refine Kept.ite ?_ ?_
  · assumption
  · refine updEvent_kept ?_
    refine Kept.upd rfl rfl ?_
    assumption

theorem execCommitEffect_kept {kp : Keep} {s} (hs : Kept kp s) :
    KeptO kp (execCommitEffect s) := by
  unfold execCommitEffect
  refine whileUpd_kept ?_ ?_
  · assumption
  · intro x1 h2
    refine commitEffect_kept ?_
    assumption

theorem trialDeadline_kept {kp : Keep} {s} (hs : Kept kp s) :
    Kept kp (trialDeadline s) := by
  unfold trialDeadline
  refine Kept.ite ?_ ?_
  · assumption
  · refine State.reach_kept ?_ ?_
    · assumption
    · intro x1 h2
      extract_lets +onlyGivenNames -merge -useContext x3; clear_value x3
      extract_lets +onlyGivenNames -merge -useContext x4
      have hx4 : Kept kp x4 := by
        unfold x4
        refine Kept.upd rfl rfl ?_
        assumption
      clear_value x4
      refine Kept.ite ?_ ?_
      · refine judge_kept ?_
        assumption
      · assumption

theorem execTrialDeadline_kept {kp : Keep} {s} (hs : Kept kp s) :
    KeptO kp (execTrialDeadline s) := by
  unfold execTrialDeadline
  refine whileUpd_kept ?_ ?_
  · assumption
  · intro x1 h2
    refine trialDeadline_kept ?_
    assumption

end Sys2Proof.Machine
end

