-- ==== Sys2Proof/Laws/KeptInputs.lean ====
section
/-!
SUPPORT. What the operations of Sys2Proof/Machine/Inputs.lean keep (see Sys2Proof/Laws/Kept.lean).
-/

namespace Sys2Proof.Machine

theorem State.setAin_kept {kp : Keep} {s n x} (hs : Kept kp s) :
    Kept kp (State.setAin s n x) := by
  unfold State.setAin
  refine Kept.upd rfl rfl ?_
  assumption

theorem finErr_kept {kp : Keep} {off reason s} (hs : Kept kp s) :
    Kept kp (finErr off reason s) := by
  unfold finErr
  refine Kept.upd rfl rfl ?_
  assumption

theorem State.setFrq_kept {kp : Keep} {s n x} (hs : Kept kp s) :
    Kept kp (State.setFrq s n x) := by
  unfold State.setFrq
  refine Kept.upd rfl rfl ?_
  assumption

theorem State.setLos_kept {kp : Keep} {s n x} (hs : Kept kp s) :
    Kept kp (State.setLos s n x) := by
  unfold State.setLos
  refine Kept.upd rfl rfl ?_
  assumption

theorem finCfgWrite_kept {kp : Keep} {off w s} (hs : Kept kp s) :
    Kept kp (finCfgWrite off w s) := by
  unfold finCfgWrite
  refine Kept.ite ?_ ?_
  · extract_lets +onlyGivenNames -merge -useContext x1
    clear_value x1
    extract_lets +onlyGivenNames -merge -useContext x2; clear_value x2
    extract_lets +onlyGivenNames -merge -useContext x3; clear_value x3
    extract_lets +onlyGivenNames -merge -useContext x4; clear_value x4
    refine Kept.ite ?_ ?_
    · refine State.setAin_kept ?_
      assumption
    · refine finErr_kept ?_
      assumption
  · refine Kept.ite ?_ ?_
    · extract_lets +onlyGivenNames -merge -useContext x5
      clear_value x5
      extract_lets +onlyGivenNames -merge -useContext x6; clear_value x6
      extract_lets +onlyGivenNames -merge -useContext x7; clear_value x7
      extract_lets +onlyGivenNames -merge -useContext x8; clear_value x8
      refine Kept.ite ?_ ?_
      · refine State.setFrq_kept ?_
        assumption
      · refine finErr_kept ?_
        assumption
    · refine Kept.ite ?_ ?_
      · extract_lets +onlyGivenNames -merge -useContext x9
        clear_value x9
        extract_lets +onlyGivenNames -merge -useContext x10; clear_value x10
        extract_lets +onlyGivenNames -merge -useContext x11; clear_value x11
        extract_lets +onlyGivenNames -merge -useContext x12; clear_value x12
        refine Kept.ite ?_ ?_
        · refine State.setLos_kept ?_
          assumption
        · refine finErr_kept ?_
          assumption
      · refine Kept.ite ?_ ?_
        · extract_lets +onlyGivenNames -merge -useContext x13
          clear_value x13
          extract_lets +onlyGivenNames -merge -useContext x14; clear_value x14
          refine Kept.ite ?_ ?_
          · refine Kept.upd rfl rfl ?_
            assumption
          · refine finErr_kept ?_
            assumption
        · assumption

theorem State.setSup_kept {kp : Keep} {s n x} (hs : Kept kp s) :
    Kept kp (State.setSup s n x) := by
  unfold State.setSup
  refine Kept.upd rfl rfl ?_
  assumption

theorem supDue_kept {kp : Keep} {k s} (hs : Kept kp s) :
    Kept kp (supDue k s) := by
  unfold supDue
  extract_lets +onlyGivenNames -merge -useContext x1; clear_value x1
  extract_lets +onlyGivenNames -merge -useContext x2; clear_value x2
  refine Kept.ite ?_ ?_
  · refine raiseAt_kept ?_
    refine State.setSup_kept ?_
    assumption
  · assumption

theorem supplyEvent_kept {kp : Keep} {code k s} (hs : Kept kp s) :
    Kept kp (supplyEvent code k s) := by
  unfold supplyEvent
  refine raise_kept ?_
  assumption

theorem supCtlWrite_kept {kp : Keep} {k v s} (hs : Kept kp s) :
    Kept kp (supCtlWrite k v s) := by
  unfold supCtlWrite
  extract_lets +onlyGivenNames -merge -useContext x1
  have hx1 : Kept kp x1 := by
    unfold x1
    refine supDue_kept ?_
    assumption
  clear_value x1
  extract_lets +onlyGivenNames -merge -useContext x2; clear_value x2
  extract_lets +onlyGivenNames -merge -useContext x3; clear_value x3
  refine Kept.ite ?_ ?_
  · refine State.setSup_kept ?_
    assumption
  · split
    · rename_i x4 h5
      refine State.setSup_kept ?_
      assumption
    · rename_i x6 h7
      refine Kept.ite ?_ ?_
      · refine supplyEvent_kept ?_
        refine State.setSup_kept ?_
        assumption
      · refine State.setSup_kept ?_
        assumption
    · rename_i x8 h9 h10
      refine State.setSup_kept ?_
      assumption

theorem execSupEnWrite_kept {kp : Keep} {a k v s} (hs : Kept kp s) :
    KeptO kp (execSupEnWrite a k v s) := by
  unfold execSupEnWrite
  refine KeptO.next ?_
  refine gateWrite_kept ?_ ?_
  · assumption
  · intro x1 h2
    refine supCtlWrite_kept ?_
    assumption

theorem ainShuntRetry_kept {kp : Keep} {n s} (hs : Kept kp s) :
    Kept kp (ainShuntRetry n s) := by
  unfold ainShuntRetry
  extract_lets +onlyGivenNames -merge -useContext x1; clear_value x1
  split
  · rename_i x2 x3 h4
    refine State.reach_kept ?_ ?_
    · assumption
    · intro x5 h6
      refine State.setAin_kept ?_
      assumption
  · rename_i x7 h8
    assumption

theorem execAinShuntRetry_kept {kp : Keep} {n s} (hs : Kept kp s) :
    KeptO kp (execAinShuntRetry n s) := by
  unfold execAinShuntRetry
  refine KeptO.next ?_
  refine ainShuntRetry_kept ?_
  assumption

theorem supTick_kept {kp : Keep} {m s} (hs : Kept kp s) :
    Kept kp (supTick m s) := by
  unfold supTick
  refine Kept.upd rfl rfl ?_
  assumption

theorem imuTick_kept {kp : Keep} {b raw s} (hs : Kept kp s) :
    Kept kp (imuTick b raw s) := by
  unfold imuTick
  refine Kept.ite ?_ ?_
  · extract_lets +onlyGivenNames -merge -useContext x1
    clear_value x1
    refine Kept.foldl ?_ ?_
    · intro x2 x3 h4
      refine publishLate_kept ?_
      assumption
    · refine Kept.upd rfl rfl ?_
      assumption
  · assumption

theorem enableTick_kept {kp : Keep} {b s} (hs : Kept kp s) :
    Kept kp (enableTick b s) := by
  unfold enableTick
  refine Kept.upd rfl rfl ?_
  assumption

theorem captureWrite_kept {kp : Keep} {c bs s k} (hs : Kept kp s) (hk : ∀ y1 y2, Kept kp y2 → Kept kp (k y1 y2)) :
    Kept kp (captureWrite c bs s k) := by
  unfold captureWrite
  split
  rename_i x1 x2 x3 h4
  have h5 : Kept kp x2 := by
    refine KeptF.of_eq h4 ?_
    refine writeBuffer_kept ?_
    assumption
  extract_lets +onlyGivenNames -merge -useContext x6; clear_value x6
  refine Kept.ite ?_ ?_
  · refine failOp_kept ?_
    assumption
  · extract_lets +onlyGivenNames -merge -useContext x7
    clear_value x7
    extract_lets +onlyGivenNames -merge -useContext x8; clear_value x8
    apply hk
    refine State.setOp_kept ?_
    assumption

theorem captureTick_kept {kp : Keep} {bs s} (hs : Kept kp s) :
    Kept kp (captureTick bs s) := by
  unfold captureTick
  split
  · rename_i x1 h2
    assumption
  · rename_i x3 x4 h5
    refine Kept.ite ?_ ?_
    · refine captureWrite_kept ?_ ?_
      · assumption
      · intro x6 x7 h8
        assumption
    · assumption

theorem inputFault_kept {kp : Keep} {entered code cls n at' s} (hs : Kept kp s) :
    Kept kp (inputFault entered code cls n at' s) := by
  unfold inputFault
  refine raiseAt_kept ?_
  assumption

theorem losTick_kept {kp : Keep} {b clip s} (hs : Kept kp s) :
    Kept kp (losTick b clip s) := by
  unfold losTick
  refine Kept.foldl ?_ ?_
  · intro x1 x2 h3
    extract_lets +onlyGivenNames -merge -useContext x4; clear_value x4
    refine Kept.ite ?_ ?_
    · extract_lets +onlyGivenNames -merge -useContext x5
      have hx5 : Kept kp x5 := by
        unfold x5
        refine publishLate_kept ?_
        refine State.setLos_kept ?_
        assumption
      clear_value x5
      refine Kept.ite ?_ ?_
      · refine inputFault_kept ?_
        refine Kept.upd rfl rfl ?_
        assumption
      · assumption
    · assumption
  · assumption

theorem finTick_kept {kp : Keep} {b i s} (hs : Kept kp s) :
    Kept kp (finTick b i s) := by
  unfold finTick
  extract_lets +onlyGivenNames -merge -useContext x1
  have hx1 : Kept kp x1 := by
    unfold x1
    refine Kept.foldl ?_ ?_
    · intro x2 x3 h4
      refine supDue_kept ?_
      assumption
    · assumption
  clear_value x1
  refine supTick_kept ?_
  refine imuTick_kept ?_
  refine enableTick_kept ?_
  refine captureTick_kept ?_
  refine losTick_kept ?_
  assumption

theorem ainFault_kept {kp : Keep} {n at' why x s} (hs : Kept kp s) :
    Kept kp (ainFault n at' why x s) := by
  unfold ainFault
  extract_lets +onlyGivenNames -merge -useContext x1; clear_value x1
  refine Kept.ite ?_ ?_
  · extract_lets +onlyGivenNames -merge -useContext x2
    clear_value x2
    refine Kept.ite ?_ ?_
    · refine inputFault_kept ?_
      extract_lets +onlyGivenNames -merge -useContext x3
      have hx3 : Kept kp x3 := by
        unfold x3
        refine State.setAin_kept ?_
        assumption
      clear_value x3
      refine Kept.upd rfl rfl ?_
      assumption
    · refine State.setAin_kept ?_
      assumption
  · extract_lets +onlyGivenNames -merge -useContext x4
    clear_value x4
    refine Kept.ite ?_ ?_
    · refine inputFault_kept ?_
      refine State.setAin_kept ?_
      assumption
    · refine State.setAin_kept ?_
      assumption

theorem ainConversion_kept {kp : Keep} {n at' input vref s} (hs : Kept kp s) :
    Kept kp (ainConversion n at' input vref s) := by
  unfold ainConversion
  extract_lets +onlyGivenNames -merge -useContext x1; clear_value x1
  refine Kept.ite ?_ ?_
  · extract_lets +onlyGivenNames -merge -useContext x2
    have hx2 : Kept kp x2 := by
      unfold x2
      refine State.advance_kept ?_
      assumption
    clear_value x2
    extract_lets +onlyGivenNames -merge -useContext x3; clear_value x3
    extract_lets +onlyGivenNames -merge -useContext x4
    have hx4 : Kept kp x4 := by
      unfold x4
      refine ainFault_kept ?_
      assumption
    clear_value x4
    refine Kept.ite ?_ ?_
    · assumption
    · refine publishLate_kept ?_
      assumption
  · assumption

theorem execAinConversion_kept {kp : Keep} {n at' input vref s} (hs : Kept kp s) :
    KeptO kp (execAinConversion n at' input vref s) := by
  unfold execAinConversion
  refine KeptO.next ?_
  refine ainConversion_kept ?_
  assumption

theorem supLimit_kept {kp : Keep} {k engaged mA mV s} (hs : Kept kp s) :
    Kept kp (supLimit k engaged mA mV s) := by
  unfold supLimit
  extract_lets +onlyGivenNames -merge -useContext x1
  have hx1 : Kept kp x1 := by
    unfold x1
    refine supDue_kept ?_
    assumption
  clear_value x1
  extract_lets +onlyGivenNames -merge -useContext x2; clear_value x2
  split
  · rename_i x3 x4 h5
    refine supplyEvent_kept ?_
    refine State.setSup_kept ?_
    assumption
  · rename_i x6 x7 h8
    refine supplyEvent_kept ?_
    refine State.setSup_kept ?_
    assumption
  · rename_i x9 x10 x11 h12 h13
    assumption

theorem freqGateEnd_kept {kp : Keep} {n s} (hs : Kept kp s) :
    Kept kp (freqGateEnd n s) := by
  unfold freqGateEnd
  extract_lets +onlyGivenNames -merge -useContext x1; clear_value x1
  extract_lets +onlyGivenNames -merge -useContext x2; clear_value x2
  extract_lets +onlyGivenNames -merge -useContext x3; clear_value x3
  refine Kept.ite ?_ ?_
  · extract_lets +onlyGivenNames -merge -useContext x4
    have hx4 : Kept kp x4 := by
      unfold x4
      refine State.setFrq_kept ?_
      refine State.advance_kept ?_
      assumption
    clear_value x4
    split
    · rename_i x5 x6 x7 h8
      refine publishLate_kept ?_
      assumption
    · rename_i x9 h10
      assumption
  · assumption

theorem execFreqGateEnd_kept {kp : Keep} {n s} (hs : Kept kp s) :
    KeptO kp (execFreqGateEnd n s) := by
  unfold execFreqGateEnd
  refine KeptO.next ?_
  refine freqGateEnd_kept ?_
  assumption

theorem losCaptureComplete_kept {kp : Keep} {samples s} (hs : Kept kp s) :
    Kept kp (losCaptureComplete samples s) := by
  unfold losCaptureComplete
  split
  · rename_i x1 h2
    assumption
  · rename_i x3 x4 h5
    extract_lets +onlyGivenNames -merge -useContext x6; clear_value x6
    extract_lets +onlyGivenNames -merge -useContext x7; clear_value x7
    refine Kept.ite ?_ ?_
    · assumption
    · refine Kept.ite ?_ ?_
      · refine finishAt_kept ?_
        assumption
      · refine Kept.ite ?_ ?_
        · assumption
        · refine State.reach_kept ?_ ?_
          · assumption
          · intro x8 h9
            refine captureWrite_kept ?_ ?_
            · assumption
            · intro x10 x11 h12
              refine finishAt_kept ?_
              assumption

theorem execLosCaptureComplete_kept {kp : Keep} {samples s} (hs : Kept kp s) :
    KeptO kp (execLosCaptureComplete samples s) := by
  unfold execLosCaptureComplete
  refine KeptO.next ?_
  refine losCaptureComplete_kept ?_
  assumption

theorem losCapture_kept {kp : Keep} {c s} (hs : Kept kp s) :
    Kept kp (losCapture c s) := by
  unfold losCapture
  refine needBuffer_kept ?_ ?_
  · assumption
  · intro x1 h2
    extract_lets +onlyGivenNames -merge -useContext x3; clear_value x3
    extract_lets +onlyGivenNames -merge -useContext x4; clear_value x4
    refine Kept.ite ?_ ?_
    · refine failOp_kept ?_
      assumption
    · refine Kept.ite ?_ ?_
      · refine failOp_kept ?_
        assumption
      · refine Kept.ite ?_ ?_
        · refine failOp_kept ?_
          assumption
        · refine startOp_kept ?_
          assumption

theorem imuSelfCheck_kept {kp : Keep} {pass s} (hs : Kept kp s) :
    Kept kp (imuSelfCheck pass s) := by
  unfold imuSelfCheck
  refine Kept.upd rfl rfl ?_
  assumption

theorem supLimitTimeout_kept {kp : Keep} {k s} (hs : Kept kp s) :
    Kept kp (supLimitTimeout k s) := by
  unfold supLimitTimeout
  refine Kept.ite ?_ ?_
  · refine State.reach_kept ?_ ?_
    · assumption
    · intro x1 h2
      refine supDue_kept ?_
      assumption
  · assumption

theorem execImuSelfCheck_kept {kp : Keep} {pass s} (hs : Kept kp s) :
    KeptO kp (execImuSelfCheck pass s) := by
  unfold execImuSelfCheck
  refine KeptO.next ?_
  refine imuSelfCheck_kept ?_
  assumption

theorem finRead_kept {kp : Keep} {off s} (hs : Kept kp s) :
    KeptS kp (finRead off s) := by
  unfold finRead
  extract_lets +onlyGivenNames -merge -useContext x1
  have hx1 : Kept kp x1 := by
    unfold x1
    refine Kept.foldl ?_ ?_
    · intro x2 x3 h4
      refine supDue_kept ?_
      assumption
    · assumption
  clear_value x1
  refine KeptS.mk ?_
  assumption

theorem ainShuntOpen_kept {kp : Keep} {n s} (hs : Kept kp s) :
    Kept kp (ainShuntOpen n s) := by
  unfold ainShuntOpen
  extract_lets +onlyGivenNames -merge -useContext x1; clear_value x1
  refine Kept.ite ?_ ?_
  · refine State.setAin_kept ?_
    assumption
  · assumption

theorem execSupLimitTimeout_kept {kp : Keep} {k s} (hs : Kept kp s) :
    KeptO kp (execSupLimitTimeout k s) := by
  unfold execSupLimitTimeout
  refine KeptO.next ?_
  refine supLimitTimeout_kept ?_
  assumption

theorem execSupLimit_kept {kp : Keep} {k engaged mA mV s} (hs : Kept kp s) :
    KeptO kp (execSupLimit k engaged mA mV s) := by
  unfold execSupLimit
  refine KeptO.next ?_
  refine supLimit_kept ?_
  assumption

theorem losImpact_kept {kp : Keep} {n run s} (hs : Kept kp s) :
    Kept kp (losImpact n run s) := by
  unfold losImpact
  extract_lets +onlyGivenNames -merge -useContext x1; clear_value x1
  extract_lets +onlyGivenNames -merge -useContext x2; clear_value x2
  extract_lets +onlyGivenNames -merge -useContext x3; clear_value x3
  refine Kept.ite ?_ ?_
  · refine State.setLos_kept ?_
    refine State.advance_kept ?_
    assumption
  · assumption

theorem execLosImpact_kept {kp : Keep} {n run s} (hs : Kept kp s) :
    KeptO kp (execLosImpact n run s) := by
  unfold execLosImpact
  refine KeptO.next ?_
  refine losImpact_kept ?_
  assumption

theorem execLosCapture_kept {kp : Keep} {n s} (hs : Kept kp s) :
    KeptO kp (execLosCapture n s) := by
  unfold execLosCapture
  refine KeptO.next ?_
  refine takeOp_kept ?_ ?_
  · intro x1 x2 h3
    refine losCapture_kept ?_
    assumption
  · assumption

theorem finWrite_kept {kp : Keep} {off v s} (hs : Kept kp s) :
    Kept kp (finWrite off v s) := by
  unfold finWrite
  refine Kept.ite ?_ ?_
  · refine Kept.upd rfl rfl ?_
    assumption
  · refine Kept.ite ?_ ?_
    · refine Kept.upd rfl rfl ?_
      assumption
    · refine Kept.ite ?_ ?_
      · refine Kept.upd rfl rfl ?_
        assumption
      · refine Kept.ite ?_ ?_
        · refine supCtlWrite_kept ?_
          assumption
        · refine Kept.ite ?_ ?_
          · extract_lets +onlyGivenNames -merge -useContext x1
            clear_value x1
            refine State.setAin_kept ?_
            assumption
          · refine Kept.ite ?_ ?_
            · extract_lets +onlyGivenNames -merge -useContext x2
              clear_value x2
              refine State.setLos_kept ?_
              assumption
            · refine finCfgWrite_kept ?_
              assumption

theorem supOvervoltageTrip_kept {kp : Keep} {k mV s} (hs : Kept kp s) :
    Kept kp (supOvervoltageTrip k mV s) := by
  unfold supOvervoltageTrip
  extract_lets +onlyGivenNames -merge -useContext x1
  have hx1 : Kept kp x1 := by
    unfold x1
    refine supDue_kept ?_
    assumption
  clear_value x1
  extract_lets +onlyGivenNames -merge -useContext x2; clear_value x2
  refine Kept.ite ?_ ?_
  · refine supplyEvent_kept ?_
    refine State.setSup_kept ?_
    assumption
  · assumption

theorem execSupOvervoltageTrip_kept {kp : Keep} {k mV s} (hs : Kept kp s) :
    KeptO kp (execSupOvervoltageTrip k mV s) := by
  unfold execSupOvervoltageTrip
  refine KeptO.next ?_
  refine supOvervoltageTrip_kept ?_
  assumption

theorem execFinCfgWrite_kept {kp : Keep} {a off v s} (hs : Kept kp s) :
    KeptO kp (execFinCfgWrite a off v s) := by
  unfold execFinCfgWrite
  refine KeptO.next ?_
  refine gateWrite_kept ?_ ?_
  · assumption
  · intro x1 h2
    refine finCfgWrite_kept ?_
    assumption

theorem execSupClr_kept {kp : Keep} {a k v s} (hs : Kept kp s) :
    KeptO kp (execSupClr a k v s) := by
  unfold execSupClr
  refine KeptO.next ?_
  refine gateWrite_kept ?_ ?_
  · assumption
  · intro x1 h2
    refine supCtlWrite_kept ?_
    assumption

theorem execAinShuntOpen_kept {kp : Keep} {n s} (hs : Kept kp s) :
    KeptO kp (execAinShuntOpen n s) := by
  unfold execAinShuntOpen
  refine KeptO.next ?_
  refine ainShuntOpen_kept ?_
  assumption

theorem freqEdge_kept {kp : Keep} {n at' falling pulse s} (hs : Kept kp s) :
    Kept kp (freqEdge n at' falling pulse s) := by
  unfold freqEdge
  extract_lets +onlyGivenNames -merge -useContext x1; clear_value x1
  refine Kept.ite ?_ ?_
  · refine State.setFrq_kept ?_
    refine State.advance_kept ?_
    assumption
  · assumption

theorem execFreqEdge_kept {kp : Keep} {n at' falling pulse s} (hs : Kept kp s) :
    KeptO kp (execFreqEdge n at' falling pulse s) := by
  unfold execFreqEdge
  refine KeptO.next ?_
  refine freqEdge_kept ?_
  assumption

end Sys2Proof.Machine
end

