-- ==== Sys2Proof/Laws/KeptFabric.lean ====
section
/-!
SUPPORT. What the operations of Sys2Proof/Machine/Fabric.lean keep (see Sys2Proof/Laws/Kept.lean).
-/

namespace Sys2Proof.Machine

theorem ticknoWrap_kept {kp : Keep} {s} (hs : Kept kp s) :
    Kept kp (ticknoWrap s) := by
  unfold ticknoWrap
  refine Kept.ite ?_ ?_
  · refine raiseAt_kept ?_
    assumption
  · assumption

theorem tickEdge_kept {kp : Keep} {b i s} (hs : Kept kp s) :
    Kept kp (tickEdge b i s) := by
  unfold tickEdge
  extract_lets +onlyGivenNames -merge -useContext x1
  have hx1 : Kept kp x1 := by
    unfold x1
    refine sendTick_kept ?_
    refine lswTick_kept ?_
    assumption
  clear_value x1
  extract_lets +onlyGivenNames -merge -useContext x2
  have hx2 : Kept kp x2 := by
    unfold x2
    refine disciplineTick_kept ?_
    refine ticknoWrap_kept ?_
    assumption
  clear_value x2
  extract_lets +onlyGivenNames -merge -useContext x3
  have hx3 : Kept kp x3 := by
    unfold x3
    refine canTick_kept ?_
    refine finTick_kept ?_
    refine Kept.upd rfl rfl ?_
    assumption
  clear_value x3
  refine bceTickLead_kept ?_
  refine bceSettle_kept ?_
  refine settleSignals_kept ?_
  assumption

theorem tickModule_kept {kp : Keep} {i s} (hd : kp.down = true) (hs : Kept kp s) :
    Kept kp (tickModule i s) := by
  unfold tickModule
  refine sealTick_kept ?_
  refine updTick_kept hd ?_
  refine teamTick_kept ?_
  refine pwrTick_kept hd ?_
  assumption

theorem overrunTick_kept {kp : Keep} {late s} (hs : Kept kp s) :
    Kept kp (overrunTick late s) := by
  unfold overrunTick
  extract_lets +onlyGivenNames -merge -useContext x1
  have hx1 : Kept kp x1 := by
    unfold x1
    refine Kept.foldl ?_ ?_
    · intro x2 x3 h4
      refine tickOverrun_kept ?_
      assumption
    · assumption
  clear_value x1
  refine Kept.upd rfl rfl ?_
  assumption

theorem tickServices_kept {kp : Keep} {b i s} (hs : Kept kp s) :
    Kept kp (tickServices b i s) := by
  unfold tickServices
  refine pnlTick_kept ?_
  refine yldTick_kept ?_
  refine gnbTick_kept ?_
  refine lkoTick_kept ?_
  refine iplTick_kept ?_
  refine settlePending_kept ?_
  assumption

theorem tickBoundary_kept {kp : Keep} {i s} (hd : kp.down = true) (hs : Kept kp s) :
    Kept kp (tickBoundary i s) := by
  unfold tickBoundary
  split
  · exact hs
  · have h0 : Kept kp (overrunTick i.overrun s) := overrunTick_kept hs
    have h1 : Kept kp { overrunTick i.overrun s with gts := boundaryOf ((overrunTick i.overrun s).t + 1) } := by
      refine Kept.later ?_ rfl rfl h0
      simp only [boundaryOf, State.t, tickLen]
      omega
    exact tickModule_kept hd (tickServices_kept (tickEdge_kept h1))

theorem blockWrite_kept {kp : Keep} {a blk off v s} (hs : Kept kp s) :
    Kept kp (blockWrite a blk off v s) := by
  unfold blockWrite
  split
  · rename_i x1
    refine sysWrite_kept ?_
    assumption
  · rename_i x2
    refine tickWrite_kept ?_
    assumption
  · rename_i x3
    refine hriWrite_kept ?_
    assumption
  · rename_i x4
    refine mbxWrite_kept ?_
    assumption
  · rename_i x5
    refine bceWrite_kept ?_
    assumption
  · rename_i x6
    refine lswWrite_kept ?_
    assumption
  · rename_i x7
    refine iplWrite_kept ?_
    assumption
  · rename_i x8
    refine lkoWrite_kept ?_
    assumption
  · rename_i x9
    refine gnbWrite_kept ?_
    assumption
  · rename_i x10
    refine canWrite_kept ?_
    assumption
  · rename_i x11
    refine pnlWrite_kept ?_
    assumption
  · rename_i x12
    refine pwrWrite_kept ?_
    assumption
  · rename_i x13
    refine rtlWrite_kept ?_
    assumption
  · rename_i x14
    refine updWrite_kept ?_
    assumption
  · rename_i x15
    refine dscWrite_kept ?_
    assumption
  · rename_i x16
    refine recWrite_kept ?_
    assumption
  · rename_i x17
    refine fenWrite_kept ?_
    assumption
  · rename_i x18
    refine finWrite_kept ?_
    assumption
  · rename_i x19 h20 h21 h22 h23 h24 h25 h26 h27 h28 h29 h30 h31 h32 h33 h34 h35 h36 h37
    assumption

theorem blockWriteWide_kept {kp : Keep} {a blk off v s} (hs : Kept kp s) :
    Kept kp (blockWriteWide a blk off v s) := by
  unfold blockWriteWide
  refine Kept.ite ?_ ?_
  · refine fenWriteWide_kept ?_
    assumption
  · refine Kept.ite ?_ ?_
    · refine State.reply_kept ?_
      refine mbxViolation_kept ?_
      assumption
    · extract_lets +onlyGivenNames -merge -useContext x1
      have hx1 : Kept kp x1 := by
        unfold x1
        refine blockWrite_kept ?_
        assumption
      clear_value x1
      refine Kept.ite ?_ ?_
      · assumption
      · refine blockWrite_kept ?_
        assumption

theorem blockRead_kept {kp : Keep} {a blk off s} (hs : Kept kp s) :
    KeptS kp (blockRead a blk off s) := by
  unfold blockRead
  split
  · rename_i x1
    refine sysRead_kept ?_
    assumption
  · rename_i x2
    refine tickRead_kept ?_
    assumption
  · rename_i x3
    refine hriRead_kept ?_
    assumption
  · rename_i x4
    refine bceRead_kept ?_
    assumption
  · rename_i x5
    refine lswRead_kept ?_
    assumption
  · rename_i x6
    refine iplRead_kept ?_
    assumption
  · rename_i x7
    refine lkoRead_kept ?_
    assumption
  · rename_i x8
    refine gnbRead_kept ?_
    assumption
  · rename_i x9
    refine canRead_kept ?_
    assumption
  · rename_i x10
    refine pnlRead_kept ?_
    assumption
  · rename_i x11
    refine pwrRead_kept ?_
    assumption
  · rename_i x12
    refine rtlRead_kept ?_
    assumption
  · rename_i x13
    refine updRead_kept ?_
    assumption
  · rename_i x14
    refine dscRead_kept ?_
    assumption
  · rename_i x15
    refine recRead_kept ?_
    assumption
  · rename_i x16
    refine fenRead_kept ?_
    assumption
  · rename_i x17
    refine finRead_kept ?_
    assumption
  · rename_i x18 h19 h20 h21 h22 h23 h24 h25 h26 h27 h28 h29 h30 h31 h32 h33 h34 h35
    refine KeptS.mk ?_
    assumption

theorem coreReset_kept {kp : Keep} {t s} (hs : Kept kp s) :
    Kept kp (coreReset t s) := by
  unfold coreReset
  extract_lets +onlyGivenNames -merge -useContext x1; clear_value x1
  extract_lets +onlyGivenNames -merge -useContext x2
  have hx2 : Kept kp x2 := by
    unfold x2
    refine resetEndpoints_kept ?_
    assumption
  clear_value x2
  refine Kept.upd rfl rfl ?_
  assumption

theorem answer_kept {kp : Keep} {a b r s} (hs : Kept kp s) :
    Kept kp (answer a b r s) := by
  unfold answer
  refine State.reply_kept ?_
  assumption

theorem memoryAccess_kept {kp : Keep} {a addr op s} (hs : Kept kp s) :
    Kept kp (memoryAccess a addr op s) := by
  unfold memoryAccess
  refine Kept.ite ?_ ?_
  · refine Kept.upd rfl rfl ?_
    assumption
  · split
    · rename_i x1 x2
      split
      rename_i x3 x4 x5 x6 h7
      have h8 : Kept kp x4 := by
        refine KeptF.of_eq h7 ?_
        refine busRead_kept ?_
        assumption
      refine answer_kept ?_
      assumption
    · rename_i x9 x10
      split
      rename_i x11 x12 x13 h14
      have h15 : Kept kp x12 := by
        refine KeptF.of_eq h14 ?_
        refine busWrite_kept ?_
        assumption
      refine answer_kept ?_
      assumption

theorem execTickBoundary_kept {kp : Keep} {i s} (hd : kp.down = true) (hs : Kept kp s) :
    KeptO kp (execTickBoundary i s) := by
  unfold execTickBoundary
  refine KeptO.next ?_
  refine tickBoundary_kept hd ?_
  assumption

theorem execDebugEnableChange_kept {kp : Keep} {active s} (hs : Kept kp s) :
    KeptO kp (execDebugEnableChange active s) := by
  unfold execDebugEnableChange
  refine KeptO.next ?_
  refine Kept.upd rfl rfl ?_
  assumption

theorem slotBoundary_kept {kp : Keep} {current late s} (hs : Kept kp s) :
    Kept kp (slotBoundary current late s) := by
  unfold slotBoundary
  extract_lets +onlyGivenNames -merge -useContext x1; clear_value x1
  extract_lets +onlyGivenNames -merge -useContext x2; clear_value x2
  refine Kept.ite ?_ ?_
  · assumption
  · extract_lets +onlyGivenNames -merge -useContext x3
    have hx3 : Kept kp x3 := by
      unfold x3
      refine Kept.foldl ?_ ?_
      · intro x4 x5 h6
        refine subtickOverrun_kept ?_
        assumption
      · assumption
    clear_value x3
    extract_lets +onlyGivenNames -merge -useContext x7
    have hx7 : Kept kp x7 := by
      unfold x7
      refine State.advance_kept ?_
      assumption
    clear_value x7
    refine lswSlot_kept ?_
    refine Kept.upd rfl rfl ?_
    assumption

theorem registerWrite_kept {kp : Keep} {a addr wide v s} (hs : Kept kp s) :
    Kept kp (registerWrite a addr wide v s) := by
  unfold registerWrite
  split
  · rename_i x1 h2
    refine memoryAccess_kept ?_
    assumption
  · rename_i x3 x4 h5
    extract_lets +onlyGivenNames -merge -useContext x6; clear_value x6
    refine Kept.ite ?_ ?_
    · extract_lets +onlyGivenNames -merge -useContext x7
      clear_value x7
      refine gateWrite_kept ?_ ?_
      · assumption
      · intro x8 h9
        refine blockWriteWide_kept ?_
        assumption
    · extract_lets +onlyGivenNames -merge -useContext x10
      clear_value x10
      refine gateWrite_kept ?_ ?_
      · assumption
      · intro x11 h12
        refine blockWrite_kept ?_
        assumption

theorem blockAnswer_kept {kp : Keep} {a blk off s} (hs : Kept kp s) :
    Kept kp (blockAnswer a blk off s) := by
  unfold blockAnswer
  refine Kept.ite ?_ ?_
  · refine mbxRead_kept ?_
    assumption
  · split
    rename_i x1 x2 x3 h4
    have h5 : Kept kp x3 := by
      refine KeptS.of_eq h4 ?_
      refine blockRead_kept ?_
      assumption
    refine State.replyWord_kept ?_
    assumption

theorem blockAnswerWide_kept {kp : Keep} {a blk off s} (hs : Kept kp s) :
    Kept kp (blockAnswerWide a blk off s) := by
  unfold blockAnswerWide
  refine Kept.ite ?_ ?_
  · refine State.reply_kept ?_
    refine mbxViolation_kept ?_
    assumption
  · extract_lets +onlyGivenNames -merge -useContext x1
    have hx1 : Kept kp x1 := by
      unfold x1
      refine blockAnswer_kept ?_
      assumption
    clear_value x1
    refine Kept.ite ?_ ?_
    · assumption
    · extract_lets +onlyGivenNames -merge -useContext x2
      clear_value x2
      extract_lets +onlyGivenNames -merge -useContext x3
      have hx3 : Kept kp x3 := by
        unfold x3
        refine blockAnswer_kept ?_
        assumption
      clear_value x3
      refine Kept.ite ?_ ?_
      · assumption
      · refine State.reply_kept ?_
        assumption

theorem registerRead_kept {kp : Keep} {a addr wide s} (hs : Kept kp s) :
    Kept kp (registerRead a addr wide s) := by
  unfold registerRead
  split
  · rename_i x1 h2
    refine memoryAccess_kept ?_
    assumption
  · rename_i x3 x4 h5
    extract_lets +onlyGivenNames -merge -useContext x6; clear_value x6
    refine Kept.ite ?_ ?_
    · extract_lets +onlyGivenNames -merge -useContext x7
      clear_value x7
      refine gate_kept ?_ ?_
      · assumption
      · intro x8 h9
        refine blockAnswerWide_kept ?_
        assumption
    · extract_lets +onlyGivenNames -merge -useContext x10
      clear_value x10
      refine gate_kept ?_ ?_
      · assumption
      · intro x11 h12
        refine blockAnswer_kept ?_
        assumption

theorem oddAccess_kept {kp : Keep} {a blk off write s} (hs : Kept kp s) :
    Kept kp (oddAccess a blk off write s) := by
  unfold oddAccess
  refine gate_kept ?_ ?_
  · assumption
  · intro x1 h2
    refine Kept.ite ?_ ?_
    · refine mbxOdd_kept ?_
      assumption
    · refine Kept.ite ?_ ?_
      · refine fenGate_kept ?_ ?_
        · refine State.reply_kept ?_
          assumption
        · intro x3 h4
          refine State.reply_kept ?_
          assumption
      · refine State.reply_kept ?_
        assumption

theorem memoryTransaction_kept {kp : Keep} {a addr op s} (hs : Kept kp s) :
    Kept kp (memoryTransaction a addr op s) := by
  unfold memoryTransaction
  split
  · rename_i x1 x2 x3 h4
    refine memoryAccess_kept ?_
    assumption
  · rename_i x5 x6 x7 x8 h9
    refine Kept.ite ?_ ?_
    · refine registerRead_kept ?_
      assumption
    · refine oddAccess_kept ?_
      assumption
  · rename_i x10 x11 x12 x13 h14
    refine Kept.ite ?_ ?_
    · refine registerWrite_kept ?_
      assumption
    · refine oddAccess_kept ?_
      assumption

theorem execMemoryTransaction_kept {kp : Keep} {a addr op s} (hs : Kept kp s) :
    KeptO kp (execMemoryTransaction a addr op s) := by
  unfold execMemoryTransaction
  refine KeptO.next ?_
  refine memoryTransaction_kept ?_
  assumption

theorem execRegisterWrite_kept {kp : Keep} {a addr wide v s} (hs : Kept kp s) :
    KeptO kp (execRegisterWrite a addr wide v s) := by
  unfold execRegisterWrite
  refine KeptO.next ?_
  refine registerWrite_kept ?_
  assumption

theorem execSubtickSlotBoundary_kept {kp : Keep} {current late s} (hs : Kept kp s) :
    KeptO kp (execSubtickSlotBoundary current late s) := by
  unfold execSubtickSlotBoundary
  refine KeptO.next ?_
  refine slotBoundary_kept ?_
  assumption

theorem execCoreReset_kept {kp : Keep} {t s} (hs : Kept kp s) :
    KeptO kp (execCoreReset t s) := by
  unfold execCoreReset
  refine KeptO.next ?_
  refine Kept.ite ?_ ?_
  · refine coreReset_kept ?_
    assumption
  · assumption

theorem execLowWordReadLatch_kept {kp : Keep} {a addr wide s} (hs : Kept kp s) :
    KeptO kp (execLowWordReadLatch a addr wide s) := by
  unfold execLowWordReadLatch
  refine KeptO.next ?_
  refine registerRead_kept ?_
  assumption

end Sys2Proof.Machine
end

