-- ==== Sys2Proof/Laws/Outcome.lean ====
section
/-!
SUPPORT. A descriptor that a service takes stands in its ring; a finished one holds its status and results; and what
the services that act only in a powered domain answer there.
-/

namespace Sys2Proof.Machine

/-- What a search finds stands where it says, counted from the first that was looked at. -/
theorem findOp_at {tk : Taking} {opc : Nat} : ∀ {ops before : List Op} {i j : Nat} {o : Op},
    findOp tk opc before ops i = some (j, o) → i ≤ j ∧ ops[j - i]? = some o ∧ o.stage = .fetched ∧ o.opcode = opc
  | [], _, _, _, _, h => by simp [findOp] at h
  | x :: r, before, i, j, o, h => by
    unfold findOp at h
    split at h
    · rename_i hc
      simp only [Option.some.injEq, Prod.mk.injEq] at h
      obtain ⟨rfl, rfl⟩ := h
      simp only [Bool.and_eq_true, beq_iff_eq, decide_eq_true_eq] at hc
      exact ⟨Nat.le_refl _, by simp, hc.1.1, hc.1.2⟩
    · obtain ⟨h1, h2, h3⟩ := findOp_at h
      refine ⟨by omega, ?_, h3⟩
      rw [show j - i = (j - (i + 1)) + 1 by omega, List.getElem?_cons_succ]
      exact h2

theorem takes_at {blk q opc : Nat} {tk : Taking} {c : OpRef} {s : State} (h : takes blk q opc tk c s = true) :
    (s.ring c.ring).ops[c.idx]? = some c.op ∧ c.op.stage = .fetched ∧ c.op.opcode = opc := by
  simp only [takes, Bool.and_eq_true, beq_iff_eq] at h
  obtain ⟨_, h1, h2⟩ := findOp_at h.2
  exact ⟨by simpa using h1, h2⟩

/-- What a service puts back in place of a descriptor of the ring is what stands there then. -/
theorem outcome_setOp {c : OpRef} {o p : Op} {s : State} (h : (s.ring c.ring).ops[c.idx]? = some o) :
    outcome c (s.setOp c p) = some p := by
  unfold outcome State.setOp State.modRing
  rw [State.setRing_self]
  obtain ⟨hl, _⟩ := List.getElem?_eq_some_iff.1 h
  simp [hl]

/-- A descriptor that has finished OK holds its results. -/
theorem finishOp_ends {c : OpRef} {o : Op} {x : Nat} {r0 r1 : Word} {s : State}
    (h : (s.ring c.ring).ops[c.idx]? = some o) : endsOk c r0 r1 (finishOp c stOk x r0 r1 s) :=
  ⟨x, s.gts, by unfold finishOp; rw [outcome_setOp h]; rfl⟩

theorem whileOn_on {d : Nat} {s : State} (k : State → State) (h : s.pdOn d = true) : whileOn d s k = .next (k s) := by
  simp [whileOn, h]

theorem whileTeam_on {s : State} (k : State → State) (h : s.tick.running = true)
    (hm : s.mode = .run ∨ s.mode = .descent) :
    whileTeam s k = .next (k s) := by
  unfold whileTeam
  rw [h]
  rcases hm with hm | hm <;> rw [hm] <;> rfl

theorem whileUpd_on {s : State} (k : State → State) (h : s.pdOn 2 = true) (hr : s.tick.running = true) :
    whileUpd s k = .next (k s) := by
  simp [whileUpd, h, hr]

end Sys2Proof.Machine
end

