-- ==== Sys2Proof/Tests/Slice0.lean ====
section
/-!
SUPPORT. Tests: ill-formed operands, the manual's own worked examples, and states that meet the hypotheses of the
statements.
-/

namespace Sys2Proof.Tests

open Sys2Proof.Machine

set_option Elab.async false

/-! ### Small states -/

/-- A module in Run with every domain on, at the boundary of tick `t`. -/
def live (t : Nat) : State :=
  { State.reset with gts := t * 400000, mode := .run, start := .ready, pd := 0x1FFF, tick.running := true }

/-- Service core S0, host core A0 (secure and not), and the debug port. -/
def s0 : Access := { ini := .svc 0, sec := true }
def a0 : Access := { ini := .host 0, sec := true }
def a0n : Access := { ini := .host 0, sec := false }

/-- The state with one fence that lets every initiator reach the whole memory. -/
def openFence (s : State) : State :=
  { s with fen.live := [(1, {
    base := 0x1_0000_0000, limit := 0x4_FFFF_FFFF, init := 0xFFFF_FFFF_FFFF_FFFF, en := true, w := true, r := true })] }

/-- A descriptor: opcode, LENGTH, the buffer at 0x1_0000_1000, W6 on. -/
def desc (opc len : Nat) (args : List Nat) : Op :=
  { words := [wordOf (opc * 2 ^ 24), wordOf len, 0x1000, 1, 0, 0] ++ args.map wordOf }

/-- It, as the oldest of ring 0. -/
def ref (opc len : Nat) (args : List Nat) : OpRef := first 0 (desc opc len args)

/-- The state with that descriptor fetched on ring 0, bound to this queue. -/
def posted (blk q opc len : Nat) (args : List Nat) (s : State) : State :=
  openFence (s.setRing 0 {
    state := .active, en := true, svc := blk, queue := q, log2 := 4, sqTail := 1, sqHead := 1, expSeq := 1
    cbase := 0x1_0000_8000, sbase := 0x1_0000_4000, wbase := 0x1_0000_0000, wsize := 0x1_0000
    ops := [desc opc len args] })

/-- The same with the descriptor started and what it has fixed. -/
def started (blk q opc len : Nat) (args aux : List Nat) (s : State) : State :=
  openFence (s.setRing 0 {
    state := .active, en := true, svc := blk, queue := q, log2 := 4, sqTail := 1, sqHead := 1, expSeq := 1
    ops := [{ desc opc len args with stage := .started, aux := aux }] })

/-- That operation in its service's hands. -/
def running (opc len : Nat) (args aux : List Nat) : OpRef :=
  first 0 { desc opc len args with stage := .started, aux := aux }

/-- The state with these bytes from 0x1_0000_1000 on. -/
def holding (bs : List Byte) (s : State) : State := s.setMem (Memory.setMany s.mem 0x1_0000_1000 bs)

/-! ### The block as a machine, the fabric, time and events -/

theorem test_step_takes_the_front :
    step { live 5 with pending := [.debugEnableChange true] } = .next { live 5 with dbgEn := true } := by rfl

theorem test_step_idles : step (live 5) = .next (live 5) := by rfl

theorem witness_StepRunsFrontCommand : (live 5).pending = [] := by decide

theorem witness_EveryStepTakesOneCommand :
    ({ live 5 with pending := [.watchdogHeartbeat] } : State).pending = .watchdogHeartbeat :: [] := by decide

theorem witness_StepKeepsMemoryCanonical :
    Memory.wf (holding [1, 0, 2] (live 5)).mem = true ∧ step (live 5) = .next (live 5) := ⟨by decide, rfl⟩

theorem witness_ClocksOfTheModuleMoveForward :
    exec (.debugEnableChange true) (live 5) = .next { live 5 with dbgEn := true } ∧
      (live 5).tick.running = true := ⟨rfl, by decide⟩

theorem witness_OnlyTheModeTransitionsOfTheTable : step State.reset = .next State.reset := by rfl

theorem witness_OwnBlockCommandsKeepTheRest :
    ownBlock (.debugEnableChange true) = true ∧
      exec (.debugEnableChange true) (live 5) = .next { live 5 with dbgEn := true } := ⟨by decide, rfl⟩

theorem witness_RegistersAnswerThroughTheGate :
    blockAt 0x0800_0000 = some 0 ∧ blockAt 0x0811_FFFF = some 17 ∧ opens a0 2 (live 5) = true ∧
      iniAlive s0.ini ((live 5).setPd 5 false) = true ∧ ((live 5).setPd 5 false).pdOn 5 = false ∧
      registerDomain 6 0 = 5 ∧ iniAlive a0.ini ((live 5).setPd 3 false) = false ∧
      Tab.find ((live 5).latch a0 0x0801_0004 7).shadows (shadowKey a0 0x0801_0004) = some 7 ∧
      Tab.find (live 5).shadows (shadowKey a0 0x0801_0004) = none := by decide

theorem witness_MemoryTransactionsObeyTheFences :
    let s := openFence (live 5)
    blockAt 0x1_0000_0000 = none ∧ iniAlive a0.ini s = true ∧
      s.busVerdict a0.ini.id true true 0x1_0000_0000 1 = .ok ∧ s.busVerdict a0.ini.id true false 0x4_FFFF_FFFF 1 = .ok ∧
      (live 5).busVerdict 0x20 false true 0x1_0000_0000 4 = .refused ∧
      (live 5).busVerdict 0x20 false false 0x1_0000_0000 4 = .refused ∧ inHostMem 0x5_0000_0000 1 = false := by decide

theorem witness_BusWriteStoresExactlyItsBytes :
    Memory.wf (holding [1, 0, 2] (live 5)).mem = true ∧
      (busWrite 1 0x20 false false 0x1_0000_0000 [1] (openFence (live 5))).2 = .ok ∧
      (busWrite 1 0x20 false false 0x1_0000_0000 [1] (live 5)).2 ≠ .ok := by decide

/-- The worked example of R29: GTS 1,717,986,920,123,456 lies in tick 4,294,967,300, whose boundary is 123,456 counts
earlier. -/
theorem test_worked_example_tick :
    ({ live 0 with gts := 1717986920123456 } : State).t = 4294967300 ∧
      boundaryOf 4294967300 + 123456 = 1717986920123456 ∧ boundaryOf 4294967301 = 1717986920400000 := by decide

theorem witness_BoundariesAndOverruns :
    (live 5).tick.running = true ∧
      (live 5).gts / slotLen * slotLen ≤ ({ live 5 with tick.slotG := 2000000 } : State).tick.slotG ∧
      (live 5).gts / slotLen * slotLen + slotLen < boundaryOf ((live 5).t + 1) ∧ State.reset.tick.running = false ∧
      0 < (live 5).gts / slotLen ∧ (live 5).tick.slotLate = [] ∧
      ({ live 5 with tick.late := [.gnss] } : State).overruns .gnss = true ∧ TickWork.gnss ∉ (live 5).tick.told ∧
      SlotWork.lsw ∈ ({ live 5 with tick.slotLate := [.lsw] } : State).tick.slotLate := by decide

theorem witness_DisciplineMovesThroughItsStates :
    let lead : State := { live 5 with gnb.state := .run, gnb.tmap.st := .locked }
    let steering : State := { lead with tick.disc := .acquire, tick.discSrc := some .gnss }
    opens s0 2 (live 5) = true ∧ bitOf (0x8000_0000 : Word) 31 = true ∧ bitOf (0 : Word) 31 = false ∧
      (live 5).tick.discEn = true ∧ ({ live 5 with tick.discEn := false } : State).tick.discEn = false ∧
      sourceFits lead .gnss = true ∧ lead.tick.disc = .free ∧ lead.tick.running = true ∧
      sourceFits { live 5 with rtl.role := .second } .twin = true ∧ sourceFits (live 5) .twin = false ∧
      steering.tick.disc = .acquire ∧ steering.tick.discSrc ≠ none ∧ steering.tick.rateRun < 1000 ∧
      1000 ≤ ({ steering with tick.rateRun := 1000 } : State).tick.rateRun ∧
      ({ steering with tick.disc := .locked } : State).tick.disc = .locked := by decide

theorem witness_EventsReachTheQueueInOrder :
    let e : Ev := { gts := 1960000, src := 496, code := 1, data := 7 }
    let s : State := openFence { live 5 with
      sys.merger := [e], sys.evqEn := true, sys.evqLog2 := 6, sys.evqBase := 0x1_0000_0000 }
    let off : State := { s with sys.evtEn := [(15, 0)] }
    opens s0 2 s = true ∧ (live 5).sys.evqEn = false ∧ s.sys.evqEn = true ∧ s.sys.ovfCount = 0 ∧
      sub32 0 s.sys.cons ≤ sub32 s.sys.prod s.sys.cons ∧ sub32 s.sys.prod s.sys.cons < sub32 1 s.sys.cons ∧
      496 ≤ bitsOf (496 : Word) 8 0 ∧ bitsOf (495 : Word) 8 0 < 496 ∧ s.mergerOn = true ∧ s.sys.merger = e :: [] ∧
      e.gts + 40000 ≤ s.gts ∧ s.sys.evqOn = true ∧ s.sys.evqFull = false ∧ s.sys.letsIn e.src = true ∧
      s.busVerdict 0x2D false true (s.sys.evqBase.toNat / 16 * 16 + 16 * (s.sys.prod % 2 ^ s.sys.evqLog2)) 16 = .ok ∧
      off.sys.letsIn e.src = false ∧ s.sys.merger.Pairwise (fun a b => b.before a = false) := by decide

theorem witness_TheDisabledQueueTakesNothing :
    let e : Ev := { gts := 1960000, src := 496, code := 1, data := 7 }
    let s : State := { live 5 with sys.merger := [e], sys.evqEn := true, sys.evqLog2 := 5 }
    opens s0 2 s = true ∧ (live 5).sys.evqEn = false ∧ s.sys.evqEn = true ∧ s.sys.evqLog2 < 6 ∧ s.mergerOn = true ∧
      s.sys.merger = e :: [] ∧ e.gts + 40000 ≤ s.gts ∧ s.sys.evqOn = false ∧
      16 < ({ s with sys.evqLog2 := 17 } : State).sys.evqLog2 := by decide

theorem witness_DomainsCoresAndDebugPort :
    opens s0 1 (live 5) = true ∧ (0x20 : Word) &&& (0x0000_1B60 : Word) ≠ (live 5).pwr.pdReq ∧ inRun (live 5) = true ∧
      (live 5).pwr.pdReqT < (live 5).t ∧ bitOf (live 5).pwr.pdReq 12 = false ∧
      (let s : State := { (live 5).setPd 5 false with pwr.pdReq := 0x20 }
      s.mode = .run ∧ s.start = .ready ∧ bitOf s.pwr.pdReq 5 = true ∧ s.pdOn 5 = false) ∧
      4 ∉ [5, 6, 8, 9, 11, 12] ∧ (live 0).t ≤ (live 0).pwr.pdReqT ∧ (live 5).pdOn 2 = true ∧ (live 5).pdOn 1 = true ∧
      (live 5).piton 3 ≠ 1 ∧ ({ live 5 with mbx.pitons := [(3, 1)] } : State).piton 3 = 1 ∧
      ((live 5).setBox 0 { cfg := 0x0110 }).box 0 = { cfg := 0x0110 } ∧
        (({ cfg := 0x0110 } : MBox)).receiver = 1 := by decide

/-- A software event below source 496 is ignored (R35). -/
theorem test_swevt_below_496 : exec (.swevt s0 0x0005_01EF) (live 5) = .next ((live 5).reply s0 .ok) := by rfl

/-! ### Ill-formed operands: each check of WellFormed refuses one -/

/-- Operands that pass, to be spoiled one at a time. -/
def goodTick : TickInputs :=
  { imu := [0, 0, 0, 0, 0, 0], ntc := none, vlcd := (0, 0), feedA := (0, 0), feedB := (0, 0), bankA := 0, bankB := 0
    chans := [], clip := [], wk := 0, sup := [], house := none, plate := none, pmeas := 0, batE := 0, trim := 0
    rateErr := 0, canWire := []
    overrun := [], capture := [], corr := [], ports := [] }
def goodFrame : CanFrame :=
  { fmt := 0, ide := false, brs := false, id := 1, data := [], sof := 0, remote := false, sdt := 0, vcid := 0
    secBit := false, af := 0 }
def goodWord : TickWord := { serial := 1, tick := 4, state := 2, pos := 0, tb := true, ready := true }
def goodUpd : UpdFrame :=
  { state := 0, step := 0, team := false, deadline := 0, instant := 0, notice := 0, done := false, old := false }
def goodTickFrame : TickFrame :=
  { tick := 4, late := false, bce := [], chans := [], rings := [], solution := [], map := none, yld := none, hoT := none
    commit := false, stampB := none, upd := goodUpd }
def goodBeat : Heartbeat :=
  { tick := 4, state := 2, aligned := true, confirm := false
    upd := { pkg := 0, staged := false, state := 0, deadline := 0, done := false, cause := 0, old := false } }
def goodMeas : MeasIn :=
  { sol := 0, noCorr := 0, posKnown := false, lat := 0, lon := 0, hgt := 0, vel := (0, 0, 0), heading := 0, pitch := 0
    figures := [], baseFixed := false, baseline := 0, sats := 0, weekSig := 0, week := 0, tow := 0, tunc := 0
    rate := 0 }
def goodNav : NavIn :=
  { gts := 0, chan := 0, bits := 8, wordsOk := 0, wordsFix := 0, payload := [0], words := 0, ephemeris := none
    leap := none }
def goodEntry : Entry := { pd0Lost := false, slept := 0, pos := 0, heard := none, tick0 := none }
def goodLine : LineIn := { pixels := 1, crcError := false, headerError := false, otherType := false, bytes := [0, 0] }
def goodRelease : RelReplica :=
  { epoch := 0, traj := List.replicate 400 0, block := [], contrib := 0, weights := [], excluded := 0 }

theorem test_wf_accepts :
    [Instr.tickBoundary goodTick, .canFrameReceive 0 goodFrame, .tickLineWord (wordBits goodWord) 0 none,
      .tickFrame .good .good goodTickFrame,
      .heartbeat .good .good goodBeat, .measurementInstant goodMeas, .navMessage goodNav, .wake .ignition goodEntry,
      .lineArrival 0 0 goodLine, .releaseReplicaArrival goodRelease,
        .pitonAcquire 0 [a0] false].all Instr.wf = true := by
  decide +kernel

theorem test_wf_refuses_accesses :
    [Instr.registerWrite a0 (2 ^ 64) false 0, .registerWrite a0 0 false (BitVec.ofNat 64 (2 ^ 32)),
      .memoryTransaction a0 0 (.read 0), .memoryTransaction a0 0 (.write []), .memoryTransaction a0 (2 ^ 64) (.read 1),
      .lowWordReadLatch a0 (2 ^ 64) false, .fenceApply a0 false (BitVec.ofNat 64 (2 ^ 32)),
        .pitonAcquire 0 [] false].any
        Instr.wf = false := by decide +kernel

theorem test_wf_refuses_ticks :
    [Instr.tickBoundary { goodTick with imu := [0] },
      .tickBoundary { goodTick with chans := [(48, { tj := 0, cond := 0, mean := 0, vout := 0, limit := false })] },
      .tickBoundary { goodTick with clip := [(8, 0)] }, .tickBoundary { goodTick with sup := [(6, (0, 0))] },
      .tickBoundary { goodTick with canWire := [(8, 0)] }, .tickBoundary { goodTick with canWire := [(0, 2 ^ 64)] },
      .tickBoundary { goodTick with corr := [{ chan := 0, iq := [], cn0 := 0, lock := false, halfCycle := false }] },
      .tickBoundary { goodTick with capture := [0] }, .tickBoundary { goodTick with ports := List.replicate 9 0 },
      .subtickSlotBoundary [(48, 0)] [], .ainConversion 0 (2 ^ 64) 0 0, .freqEdge 0 (2 ^ 64) false 0,
      .shortTrip 0 (2 ^ 64) 0 false, .thermalTrip 0 (2 ^ 64) 0, .bankFeedLow .a (2 ^ 64) 0,
      .bankFeedReturn .a (2 ^ 64) 0, .crankHoldExpiry .a (2 ^ 64) 0,
        .frameStart 0 0 (2 ^ 64)].any Instr.wf = false := by
  decide +kernel

theorem test_wf_refuses_cameras :
    [Instr.linkUp 0 65536, .lineArrival 0 0 { goodLine with pixels := 2 },
      .colInvocationEnd (.camEnc 0 (2 ^ 64) { heights := [], features := [] }),
      .colInvocationEnd (.lidarEnc 0 { heights := [(81920, 0)], features := [] }),
      .colInvocationEnd (.head [(81920, { height := 0, density := 0, lodging := 0, obstacle := 0, conf := 0, noData := false
                                          cut := false, carried := false, single := false })]),
      .remoteEncodingArrival { epoch := 0, sum := [], cams := [] } (2 ^ 64),
      .remoteEncodingArrival { epoch := 0, sum := [], cams := [(12, { cap := 0, heights := [] })] } 0,
      .releaseReplicaArrival { goodRelease with traj := [] }, .releaseReplicaArrival
        { goodRelease with weights := [(17, 0)] }].any
        Instr.wf = false := by decide +kernel

theorem test_wf_refuses_positions :
    [Instr.measurementInstant { goodMeas with figures := [(0x200, 0)] },
      .measurementInstant { goodMeas with heading := 6283186 },
      .measurementInstant { goodMeas with tow := 604800 * 10 ^ 9 }, .navMessage { goodNav with bits := 9 },
      .navMessage { goodNav with gts := 2 ^ 64 }, .snapshot 0 0 0 [0]].any Instr.wf = false := by decide +kernel

theorem test_wf_refuses_buses :
    [Instr.canProtocolError 0 .bit 512 0 none, .canProtocolError 0 .bit 0 512 none,
      .canFrameReceive 0 { goodFrame with id := 2048 },
      .canFrameReceive 0 { goodFrame with ide := true, id := 2 ^ 29 },
      .canFrameReceive 0 { goodFrame with data := List.replicate 9 0 },
      .canFrameReceive 0 { goodFrame with fmt := 1, data := List.replicate 9 0 },
      .canFrameReceive 0 { goodFrame with fmt := 2 }, .canFrameReceive 0 { goodFrame with sdt := 256 },
      .canFrameReceive 0 { goodFrame with vcid := 256 }, .canFrameReceive 0 { goodFrame with sof := 2 ^ 64 },
      .referenceMessage 0 (2 ^ 64) false 0 0 0, .canFrameSent 0 (2 ^ 64),
      .canArbitrationLost 0 (2 ^ 64)].any Instr.wf = false := by decide +kernel

theorem test_wf_refuses_the_team :
    [Instr.tickLineWord 0 (2 ^ 64) none, .ctrlReady [(12, true)] 0,
      .tickFrame .good .good { goodTickFrame with tick := 2 ^ 46 },
      .tickFrame .good .good { goodTickFrame with rings := [(32, (0, 0, 0))] },
      .heartbeat .good .good { goodBeat with state := 8 }, .heartbeat .good .good { goodBeat with tick := 2 ^ 46 },
      .witnessFrame { state := 8, pos := 0, link := true, heard := true, tick := 0 } 0,
      .witnessFrame { state := 0, pos := 4, link := true, heard := true, tick := 0 } 0, .leadWithdraw [(8, 0)],
      .handoverExecute [(0, 2 ^ 64)], .handoverFrame [(128, { tick := 0, crc := 0, words := [], rprev := 0 })] [],
      .checkpointArrival 0 0 (2 ^ 64) []].any Instr.wf = false := by decide +kernel

/-! ### Rings, fences, mailboxes and pitons -/

/-- Ring 0 of sixteen places, with what these statements ask of it. -/
def ringOf (st : RingState) (tail head : Nat) (ops : List Op) (s : State) : State :=
  openFence (s.setRing 0 {
    state := st, en := true, svc := 4, queue := 0, log2 := 4, sqTail := tail, sqHead := head
    cbase := 0x1_0000_8000, sbase := 0x1_0000_4000, wbase := 0x1_0000_0000, wsize := 0x1_0000, ops := ops })

theorem witness_RingsFetchTheirDescriptors :
    let s := ringOf .active 1 0 [] (live 5)
    let r := s.ring 0
    let w := ringOf .stalled 16 16 [] (live 5)
    opens a0 2 s = true ∧ r.state = .active ∧ sub16 r.sqHead r.cqHead < r.size ∧
      sub16 16 r.sqTail ≤ (r.size + sub16 r.sqHead r.sqTail) % 65536 ∧
      (r.size + sub16 r.sqHead r.sqTail) % 65536 < sub16 17 r.sqTail ∧ sub16 0 r.cqHead ≤ sub16 r.cqTail r.cqHead ∧
      sub16 r.cqTail r.cqHead < sub16 1 r.cqHead ∧ s.busVerdict 0x2F false true (base64 r.cbase) 64 = .ok ∧
      (w.setRing 0 { w.ring 0 with cqTail := 16 }).ring 0 = { w.ring 0 with cqTail := 16 } ∧
      (1 : Nat) ≠ (w.ring 0).cqHead ∧ sub16 1 (w.ring 0).cqHead ≤ sub16 16 (w.ring 0).cqHead ∧
      r.sqHead ≠ r.sqTail ∧ sub16 (inc16 r.sqHead) r.cqHead < r.size ∧
      s.busVerdict 0x2F false false (base64 r.sbase + 64 * (r.sqHead % r.size)) 64 = .ok ∧
      (({ words := leWords 16 (Memory.getMany s.mem (base64 r.sbase + 64 *
        (r.sqHead % r.size)) 64) } : Op)).seq = r.expSeq
      := by decide

theorem witness_CompletionsPostInFetchOrder :
    let o : Op := { desc 4 64 [] with stage := .done }
    let s := ringOf .active 1 1 [o] (live 5)
    let r := s.ring 0
    let shut : State := { s with fen.live := [] }
    r.ops = o :: [] ∧ o.orphan = false ∧ r.state = .active ∧ o.stage = .done ∧ o.evt = false ∧
      s.busVerdict 0x2F false true (base64 r.cbase + 64 + 32 * (r.cqTail % r.size)) 32 = .ok ∧
      s.busVerdict 0x2F false true (base64 r.cbase) 64 = .ok ∧ (desc 4 64 []).stage ≠ .done ∧
      shut.busVerdict 0x2F false true (base64 r.cbase + 64 + 32 * (r.cqTail % r.size)) 32 = .refused := by decide

theorem witness_SequenceGapHaltsTheRing :
    let s := ringOf .haltedSeq 1 0 [] (live 5)
    let f := ringOf .haltedFence 1 0 [] (live 5)
    ({ words := [7] } : Op).seq ≠ (s.ring 0).expSeq ∧ opens a0 2 s = true ∧ (s.ring 0).state = .haltedSeq ∧
      sub16 (bitsOf (16 : Word) 15 0) (s.ring 0).sqHead ≤ (s.ring 0).size ∧
      sub16 (s.ring 0).sqHead (s.ring 0).cqHead < (s.ring 0).size ∧
      s.busVerdict 0x2F false true (base64 (s.ring 0).cbase) 64 = .ok ∧
      (ringOf .active 1 0 [] (live 5) |>.ring 0).state ≠ .haltedSeq ∧ (f.ring 0).state = .haltedFence ∧
      (s.ring 0).state ≠ .haltedFence ∧ bitOf (0 : Word) 0 = false := by decide

theorem witness_RingsEnableAndDrain :
    let v : Word := 0x0004_0004
    let s : State := live 5 |>.setRing 0 { regs := { wsize := 64 } }
    let g : RingRegs := { (s.ring 0).regs with svc := bitsOf v 23 16, queue := bitsOf v 10 8, log2 := bitsOf v 3 0 }
    let u := (s.reply a0 .ok).setRing 0 { s.ring 0 with regs := g }
    let i := ringOf .init 0 0 [] (live 5)
    let d := openFence ((live 5).setRing 0 { cbase := 0x1_0000_8000, state := .draining, en := false, drainAt := 1999999 })
    opens a0 2 s = true ∧ (s.ring 0).en = false ∧ (s.ring 0).state = .disabled ∧ enableCheck 0 u = 0 ∧
      enableCheck 0 (u.setRing 0 { u.ring 0 with regs := { g with log2 := 3 } }) = 1 ∧ (i.ring 0).state = .init ∧
      (i.ring 0).sqTail = (i.ring 0).sqHead ∧
      (∀ k, k < (i.ring 0).blocks → i.busVerdict 0x2F false true (base64 (i.ring 0).cbase + 64 * k) 64 = .ok) ∧
      (ringOf .active 1 0 [] (live 5) |>.ring 0).en = true ∧
      bitOf (0 : Word) 1 = false ∧ (d.ring 0).drainAt / tickLen < d.t ∧
      (d.ring 0).state = .draining ∧ stageOp d = none ∧ (∀ o ∈ (d.ring 0).ops, o.orphan = false) ∧
      (d.ring 0).sqHead = (d.ring 0).drainTail ∧ (d.ring 0).ops = [] ∧ (d.ring 0).en = false ∧
      (d.ring 0).preDrain = .active ∧ sub16 (d.ring 0).sqHead (d.ring 0).cqHead < (d.ring 0).size ∧
      (∃ o ∈ ((ringOf .draining 1 1 [desc 4 64 []] (live 5)).ring 0).ops, o.orphan = false) ∧
      d.busVerdict 0x2F false true (base64 (d.ring 0).cbase) 64 = .ok := by decide

theorem witness_FenceApplyTakesTheStagedValues :
    opens a0 2 (live 5) = true ∧ mayWriteFences a0 = true ∧ mayWriteFences a0n = false := by decide

theorem witness_OnlyTheReceiverReleases :
    let s := (live 5).setBox 63 { posted := true, cfg := 0x1001 }
    opens a0 2 s = true ∧ (s.box 63).posted = true ∧ a0.ini.id = (s.box 63).receiver ∧
      s0.ini.id ≠ (s.box 63).receiver ∧ ((live 5).box 63).posted = false ∧ secureOf a0 = true := by decide

theorem witness_MailboxCarriesOneMessage :
    let s := (live 5).setBox 63 { cfg := 0x1001, len := 48 }
    let b := s.box 63
    opens s0 2 s = true ∧ b.posted = false ∧ isEndpoint b.sender = true ∧ isEndpoint b.receiver = true ∧
      s0.ini.id = b.sender ∧ s.pdOn (endpointDomain b.receiver) = true ∧ b.len ≤ 48 ∧ b.pointer = false ∧
      ({ b with posted := true } : MBox).posted = true ∧ isEndpoint ({} : MBox).sender = false ∧
      a0.ini.id ≠ b.sender ∧ (s.setPd 3 false).pdOn (endpointDomain b.receiver) = false ∧
      48 < ({ b with len := 49 } : MBox).len ∧ a0.ini.id = b.receiver ∧
      ({ ini := .svc 1, sec := true } : Access).ini.id ≠ b.receiver ∧ secureOf a0n = false := by decide

/-- The worked example of R90: S1 owns PITON9; once released, S5 wins it from A0, which reads 0x8000_0006. -/
theorem test_worked_example_piton :
    let s : State := { live 5 with mbx.pitons := [(9, 2)] }
    let s1 : Access := { ini := .svc 1, sec := true }
    let s5 : Access := { ini := .svc 5, sec := true }
    (match exec (.pitonRelease s1 9 2) s with
    | .next t => match exec (.pitonAcquire 9 [a0, s5] false) t with
      | .next u => decide (u.piton 9 = 6) && decide (u.resp = [(6, .data 0), (16, .data 0x8000_0006)])
      | _ => false
    | _ => false) = true := by decide

theorem witness_PitonsHaveOneOwner :
    let s : State := { live 5 with mbx.pitons := [(9, 1)] }
    a0 ∈ [a0] ∧ (∀ r ∈ [a0], opens r 2 s = true ∧ a0.ini.id ≤ r.ini.id) ∧ s.piton 8 = 0 ∧ s.piton 9 ≠ 0 ∧
      s0.ini.id = s.piton 9 ∧ (1 : Word).toNat = s.piton 9 ∧ a0.ini.id ≠ s.piton 9 ∧ (2 : Word).toNat ≠ s.piton 9 := by
  decide

/-! ### Control engine, field inputs, load switches -/

/-- A context configuration of period 1 tick, every other word 0. -/
def plainCfg : List Word := 1 :: List.replicate 47 0

/-- The state with context 5 in this state, holding it. -/
def withCtx (st : CtxState) (s : State) : State := s.setBctx 5 { state := st, cfg := plainCfg }

theorem witness_ContextsLoadStartAndStop_load :
    let c := ref 1 192 [5, 1]
    let s := holding (wordBytes plainCfg) (posted 4 0 1 192 [5, 1] (live 5))
    let u := bceSettle s
    let batch : Tab BCtx := (List.range 1).map fun i =>
      (5 + i, { state := .loaded, cfg := maskCfg (leWords 48 ((bufferOf c u).drop (192 * i))) })
    c.ring = (0 : Fin 32).val ∧ takes 4 0 1 .serial c s = true ∧ c.op.len = 192 * bitsOf (c.op.word 7) 7 0 ∧
      bitsOf (c.op.word 6) 6 0 + bitsOf (c.op.word 7) 7 0 ≤ 128 ∧ (∀ i, i < 1 →
        (u.bctx (5 + i)).state.beyondLoaded = false) ∧
      bufferOpen 0x20 false c.op.addr c.op.len u = true ∧ batchCheck batch u batch = none := by decide +kernel

theorem witness_ContextsLoadStartAndStop_start :
    let c := ref 2 0 [32, 0, 0, 0, 6, 0]
    let s := withCtx .loaded (posted 4 0 2 0 [32, 0, 0, 0, 6, 0] { live 5 with bce.en := true })
    let u := bceSettle s
    let cs := ctxMask c.op
    takes 4 0 2 .serial c s = true ∧ u.t < c.op.word64 10 ∧ u.bce.en = true ∧ u.rtl.role ≠ .second ∧
      (∀ j ∈ cs, (u.bctx j).state = .loaded) ∧ laneFault u cs = none ∧ destFault u cs = none ∧
      cascadeFault u cs = none ∧ (ref 2 0 [32]).op.word64 10 = 0 := by decide +kernel

theorem witness_ContextsLoadStartAndStop_others :
    let r := withCtx .run (posted 4 0 3 0 [32, 0, 0, 0, 1] (live 5))
    let p := withCtx .loaded (posted 4 0 7 4 [5, 29, 1] (live 5))
    let x := (bceSettle p).bctx 5
    takes 4 0 3 .serial (ref 3 0 [32, 0, 0, 0, 1]) r = true ∧
      (∀ j ∈ ctxMask (ref 3 0 [32, 0, 0, 0, 1]).op, ((bceSettle r).bctx j).state.beyondLoaded = true) ∧
      takes 4 0 6 .serial (ref 6 0 [5]) (withCtx .run (posted 4 0 6 0 [5] (live 5))) = true ∧
      ((bceSettle (withCtx .run (posted 4 0 6 0 [5] (live 5)))).bctx 5).state = .run ∧
      ((bceSettle p).bctx 5).state ≠ .run ∧ x.state ≠ .posture ∧ x.state ≠ .empty ∧
      takes 4 0 6 .serial (ref 6 0 [5]) (withCtx .posture (posted 4 0 6 0 [5] (live 5))) = true ∧
      ((bceSettle (withCtx .posture (posted 4 0 6 0 [5] (live 5)))).bctx 5).state = .posture ∧ x.cause ≠ 4 ∧
      (x.src 3).1 ≠ 1 ∧
      takes 4 0 7 .serial (ref 7 4 [5, 29, 1]) p = true ∧ (ref 7 4 [5, 29, 1]).op.len = 4 * 1 ∧ 29 + 1 ≤ 30 ∧
      bufferOpen 0x20 false (ref 7 4 [5, 29, 1]).op.addr 4 (bceSettle p) = true ∧
      cfgCheck (patchDue 6 { x with patches := x.patches ++ [(6, 29, [0])] }) = none ∧
      (bceSettle (started 4 0 3 0 [] [5, 1] (live 5))).opOf 4 0 (isStarted 3) = some (running 3 0 [] [5, 1]) ∧
      (bceSettle (started 4 0 7 4 [] [5, 1] (live 5))).opOf 4 0 (isStarted 7) = some (running 7 4 [] [5, 1]) ∧
      5 ≤ (bceSettle (live 5)).t := by decide +kernel

theorem witness_ContextsAndSignalsAreReadAndWritten :
    takes 4 0 4 .serial (ref 4 64 [5]) (posted 4 0 4 64 [5] (live 5)) = true ∧
      bufferOpen 0x20 true (ref 4 64 [5]).op.addr 64 (bceSettle (posted 4 0 4 64 [5] (live 5))) = true ∧
      takes 4 0 4 .serial (ref 4 256 [5]) (posted 4 0 4 256 [5] (live 5)) = true ∧
      takes 4 0 4 .serial (ref 4 65 [5]) (posted 4 0 4 65 [5] (live 5)) = true ∧
      takes 4 0 5 .serial (ref 5 3840 [5]) (posted 4 0 5 3840 [5] (live 5)) = true ∧
      takes 4 1 0x10 .serial (ref 0x10 0 [0x8000_0300, 7]) (posted 4 1 0x10 0 [0x8000_0300, 7] (live 5)) = true ∧
      (∀ p ∈ (List.range 5).filterMap (sigPair (ref 0x10 0 [0x8000_0300, 7]).op), 0x300 ≤ p.1) ∧
      takes 4 1 0x11 .serial (ref 0x11 16 [1023, 1]) (posted 4 1 0x11 16 [1023, 1] (live 5)) = true ∧
      bufferOpen 0x20 true (ref 0x11 16 [1023, 1]).op.addr 16 (posted 4 1 0x11 16 [1023, 1] (live 5)) = true := by
  decide

theorem witness_LatchAndReleaseKeepTheirInstants :
    (live 5).tick.running = true ∧ (live 5).gts < boundaryOf (live 5).t + 0 * phaseLen + phaseLen ∧
      boundaryOf (live 5).t + 0 * phaseLen + phaseLen ≤ ({ live 5 with gts := 2004000 } : State).gts := by decide

theorem witness_InputConfigurationIsCheckedWhole :
    let v : Word := 0x8000_0000
    let on := (live 5).setAin 0 { cfg := v }
    opens s0 2 (live 5) = true ∧ ((live 5).ain 63).cfg = 0 ∧ ainInRange (v &&& ainMask) = true ∧
      ainCollides 1 (v &&& ainMask) (live 5) = false ∧ enBit (on.ain 0).cfg = true ∧
      setBit ((0x9000_0000 : Word) &&& ainMask) 31 true ≠ setBit (on.ain 0).cfg 31 true ∧
      enBit (on.ain 1).cfg = false ∧ ainInRange ((0x4000_0000 : Word) &&& ainMask) = false ∧
      enBit (v &&& ainMask) = true ∧
      ainCollides 1 (v &&& ainMask) on = true ∧ frqInRange ((0x0000_0163 : Word) &&& frqMask) = true ∧
      losInRange ((0x4000_0002 : Word) &&& losMask) = true ∧ enBit (live 5).fin.imuCfg = false := by decide

theorem witness_InputsSampleAndPublish :
    let x : Ain := { act := 0x8000_0000 }
    let s := (live 10).setAin 0 x
    let z : Ain := { act := 0x8080_1000, lim := 0xFFFF_0001, fault := true }
    let q : Frq := { act := 0x8000_0163 }
    let l : Los := { act := 0x8000_0002, thr := 0x0005_0005 }
    (s.ain 0).active = true ∧ s.within 4000000 = true ∧ finLate 4000000 s = false ∧ isConversion x.act 4000000 = true ∧
      isConversion x.act 4000001 = false ∧
      ainBad x (ainCode x 0 4000000 0 5000000) 5000000 false = 0 ∧ x.fault = false ∧
      ainBad z (ainCode z 0 4000000 0 5000000) 5000000 false ≠ 0 ∧ bitOf z.act 23 = true ∧ z.active = true ∧
      bitsOf ({ act := 0xB000_0000 } : Ain).act 30 28 = 3 ∧ ({ act := 0xB000_0000 } : Ain).shunt = none ∧
      0 + 100 * tickLen < boundaryOf ((live 100).t + 1) ∧ boundaryOf ((live 99).t + 1) ≤ 0 + 100 * tickLen ∧
      q.active = true ∧ false = bitOf q.act 28 ∧ bitsOf q.act 23 16 * 40 ≤ 0 ∧ true ≠ bitOf q.act 28 ∧
      0 < bitsOf (0x0001_0000 : Word) 23 16 * 40 ∧ (∀ h, q.gateAt = some h → h < boundaryOf 5) ∧
      l.active = true ∧ (live 5).within (2000000 + 2000 * 1) = true ∧ bitsOf l.thr 31 16 < losEnvelope l.act (-6) ∧
      losEnvelope l.act 4 < bitsOf l.thr 15 0 ∧ losEnvelope l.act 4 ≤ bitsOf l.thr 31 16 ∧
      (if l.struck then bitsOf l.act 7 0 else 1) ≤ 1 ∧ losEnvelope l.act 5 ≤ bitsOf l.thr 31 16 := by decide

/-- R138: 25 edges over 100,000 counts are 100,000 Hz, in units of 0.1 Hz (UNIT 1) or the nearest as the field says;
UNIT 3 gives the count; one edge without a predecessor gives nothing. -/
theorem witness_InputsSampleAndPublish_gate :
    bitsOf ({ act := 0x0C00_0100 } : Frq).act 27 26 = 3 ∧ bitsOf ({ act := 0x0000_0100 } : Frq).act 27 26 ≠ 3 ∧
      ({} : Frq).gate = 0 ∧ 0 < ({ gate := 1 } : Frq).gate ∧ ({ gate := 1, last := some 9 } : Frq).prev = none ∧
      ({ gate := 1, last := some 9, prev := some 5 } : Frq).last = some 9 := by decide

theorem witness_InputsSampleAndPublish_capture :
    let c := ref 1 4 [0, 0]
    let w := running 1 4 [0, 6, 0] [6, 0]
    let s := posted 17 0 1 4 [0, 0] (live 5)
    let t := started 17 0 1 4 [0, 6, 0] [6, 0] (live 6)
    let on := t.setLos 0 { act := 0x8000_0000 }
    takes 17 0 1 .serial c s = true ∧ 0 < c.op.len ∧ (3 : Nat) % 2 ≠ 0 ∧ 800000 < 800002 ∧ c.op.len % 2 = 0 ∧
      (ref 1 4 [0, 5]).op.word64 7 ≠ 0 ∧ (ref 1 4 [0, 5]).op.word64 7 ≤ s.t ∧ s.t < (ref 1 4 [0, 6]).op.word64 7 ∧
      c.op.word64 7 = 0 ∧ t.opOf 17 0 (isStarted 1) = some w ∧ on.opOf 17 0 (isStarted 1) = some w ∧ 6 ≤ t.t ∧
      bufferOpen 0x2E true w.op.addr 4 (on.advance (boundaryOf 6 + 2000 * (4 / 2 - 1))) = true ∧
      boundaryOf 6 + 2000 * (4 / 2 - 1) < boundaryOf (t.t + 1) ∧ w.op.len - w.op.xfer ≤ [(1 : Byte), 2, 3, 4].length ∧
      (t.los 0).active = false ∧ (on.los 0).active = true ∧ (live 5).t < 6 := by decide

theorem witness_SensorSuppliesFollowTheirStates :
    let s := (live 5).setSup 0 { en := true, st := .limit, limitAt := 0 }
    opens s0 2 s = true ∧ bitOf (0 : Word) 31 = false ∧ bitOf (0x8000_0000 : Word) 31 = true ∧
      ((live 5).sup 5).st = .off ∧ ((s.setSup 0 { st := .tripped }).sup 0).st = .tripped ∧
      ((s.setSup 0 { st := .on }).sup 0).st = .on ∧ (s.sup 0).st = .limit ∧ s.tick.running = true ∧
      (s.sup 0).limitAt + 5 * tickLen < boundaryOf (s.t + 1) ∧ (live 4).gts < (s.sup 0).limitAt + 5 * tickLen ∧
      boundaryOf ((live 4).t + 1) ≤ (s.sup 0).limitAt + 5 * tickLen := by decide

theorem witness_ChannelCommandsTakeEffectAtBoundaries :
    let c := ref 1 0 [0, 0, 0x8000_002F]
    let s := posted 5 0 1 0 [0, 0, 0x8000_002F] (live 5)
    let d := ref 2 8 [47, 6, 0, 0]
    let p := holding [0xFF, 0xFF, 1, 0, 1, 0, 0, 0] (posted 5 0 2 8 [47, 6, 0, 0] (live 5))
    takes 5 0 1 .parallel c s = true ∧ c.op.word64 6 = 0 ∧ (∀ j ∈ setChannels c.op, j ≤ 47 ∧ s.chOn j = true) ∧
      (setChannels c.op).Nodup ∧ s.t < (ref 1 0 [6]).op.word64 6 ∧ takes 5 0 2 .parallel d p = true ∧
      p.t < d.op.word64 7 ∧ (p.ch 47).bce = false ∧ bufferOpen 0x26 false d.op.addr 8 p = true ∧
      readSteps (d.op.len / 8) (bufferOf d p) = some [{ duty := 0xFFFF, hold := 1, on := true }] ∧
      profRunning p 47 = false ∧ p.chOn 47 = true ∧
      takes 5 1 0x10 .serial (ref 0x10 0 [0xFFFF_FFFF, 0xFFFF]) (posted 5 1 0x10 0 [0xFFFF_FFFF,
        0xFFFF] (live 5)) = true ∧
      (ref 0x10 0 [0xFFFF_FFFF, 0xFFFF]).op.word64 6 < 2 ^ 48 ∧
      takes 5 1 0x11 .serial (ref 0x11 768 []) (posted 5 1 0x11 768 [] (live 5)) = true := by decide

theorem witness_ChannelCommandsTakeEffectAtBoundaries_effects :
    let s := started 5 0 1 0 [0, 0, 0x8000_002F] [5] (live 5)
    let d := started 5 1 0x11 768 [] [5] (live 5)
    let st : ProfStep := { duty := 7, hold := 1, on := true }
    let p : Prof := { steps := [st], idx := 0, nextT := 5, left := some 0 }
    let c := running 2 8 [47, 6] [5, 47]
    let q := (started 5 0 2 8 [47, 6] [5, 47] { live 5 with lsw.outEn := true }).setCh 47 { prof := some p }
    s.opsOf 5 0 (isStarted 1) = [running 1 0 [0, 0, 0x8000_002F] [5]] ∧ 5 ≤ s.t ∧
      d.opOf 5 1 (isStarted 0x11) = some (running 0x11 768 [] [5]) ∧
      bufferOpen 0x26 true (running 0x11 768 [] [5]).op.addr 768 (lswAdvance d.gts d) = true ∧
      (q.ch 47).prof = some p ∧ q.profOp 47 = some c ∧ p.idx < p.steps.length ∧ p.nextT ≤ q.t ∧
      (command 47 (max q.gts (boundaryOf p.nextT)) true 7 q).1.profOp 47 = some c ∧
      ({ p with idx := 1 } : Prof).idx = p.steps.length ∧ p.left = some 0 ∧ (live 4).t < p.nextT ∧
      ((q.ch 47).st = .off ∧ q.chOn 47 = true ∧ q.lsw.outEn = true) := by decide +kernel

/-- An output of 0 V is below V_SC, one of 12 V is not, in either variant. -/
theorem witness_ChannelsTripRestartAndTest_short : 0 < shortLevel ∧ shortLevel ≤ 12000 := by
  unfold shortLevel; split <;> decide

theorem witness_ChannelsTripRestartAndTest :
    let s := (live 60000).setCh 47 { st := .on, cfg := 0x8030_0000, onSince := 0, win := some 0, onBelow := 20, olOn := false }
    let x := s.ch 47
    let c := (live 400).setCh 47 { st := .cool, cause := 1, tripBy := 1, tripAt := 0 }
    x.st = .on ∧ s.gts ≤ 60000 * 400000 ∧ 60000 * 400000 < boundaryOf (s.t + 1) ∧
      ((live 5).ch 47).st ≠ .on ∧ (c.ch 47).st = .cool ∧ (c.ch 47).tripBy = 1 ∧
      phaseCeil (max (0 + (c.ch 47).retry * 10 * tickLen) c.gts) < boundaryOf (c.t + 1) ∧
      x.onSince + 60000 * tickLen < boundaryOf (s.t + 1) ∧ x.win = some 0 ∧
      0 + x.inrush * tickLen < boundaryOf (s.t + 1) ∧ x.olOn = false ∧ x.onBelow = 20 ∧
      ({ olOn := true, onAbove := 20 } : Ch).onAbove = 20 ∧ ({ olOff := true, offBelow := 20 } : Ch).offBelow = 20 ∧
      x.bce = true ∧ ({ x with time := 0x010A_0A28 } : Ch).bceTmo ≠ 0 ∧ x.bceLate = false ∧ x.gangOut = false ∧
      ({ x with gangNow := true } : Ch).gangNow = true ∧ x.gangCrc = false ∧
      ({ x with gangOut := true, gangOutOk := 5 } : Ch).gangOutOk = 5 := by decide

theorem witness_FeedsRegistersAndFixedRopePath :
    let h : State := { live 5 with lsw.bankA.hold := some 0 }
    let low : State := { live 5 with lsw.bankA.low := true }
    let cr : State := { live 5 with lsw.crankHold := true }
    let fr : State := { live 5 with
      mode := .fixedRope, lsw.lock := true, lsw.lhMap := [(0, 0x80)], lh := 1, pd := 3 }
    ((live 5).bank .a).low = false ∧ ((live 5).bank .a).hold = none ∧
      (lswAdvance cr.gts (cr.advance cr.gts)).lsw.crankHold = true ∧
      (lswAdvance (live 5).gts ((live 5).advance (live 5).gts)).lsw.crankHold = false ∧ (low.bank .a).low = true ∧
      (h.bank .a).hold = some 0 ∧ 0 + 50 * tickLen ≤ (live 50).gts ∧ h.gts < 0 + 50 * tickLen ∧
      opens s0 1 (live 5) = true ∧ opens s0 (bankDomain (chBank 47)) (live 5) = true ∧ ((live 5).ch 47).st = .off ∧
      hasPwm 0 = true ∧ hasPwm 47 = false ∧ chInRange 0 0 ((0x8010_0000 : Word) &&& chMask 0) = true ∧
      chInRange 0 0 ((0x8000_0000 : Word) &&& chMask 0) = false ∧ (({ st := .on } : Ch)).st ≠ .off ∧
      ({ live 5 with lsw.lock := true } : State).lsw.lock = true ∧ (live 5).lsw.lock = false ∧
      mapInRange ((0x0000_00AF : Word) &&& (0xBFBF_BFBF : Word)) = true ∧
      (∀ j, j < 8 → hasPwm (8 * (13 - 8) + j) = true ∨ bitsOf (0 : Word) (4 * j + 3) (4 * j) = 0) ∧
      frActive fr 0 = true ∧ fr.mode = .fixedRope ∧
      (({ fr with lsw.fr := [(0, { therm := true })] } : State).frCh 0).therm = true ∧ (live 5).pdOn 1 = true ∧
      (live 5).mode ≠ .fixedRope := by decide +kernel

/-- 90 A is at or above the limit of a lamp channel in its window, whatever the variant's limit is. -/
theorem witness_FeedsRegistersAndFixedRopePath_short : limitOf 0 (frWindow 0 0) ≤ 90000 ∧ 0 < shortLevel := by
  have h : chKind 0 = .lamp ∧ frWindow 0 0 = true := by decide
  refine ⟨?_, witness_ChannelsTripRestartAndTest_short.1⟩
  simp only [limitOf, h.1, h.2]
  omega

/-! ### The image pipeline -/

/-- A configuration of 64 x 64 pixels of 10 bits on link 0, every tick, its FIFO in the open memory. -/
def cameraCfg : List Word :=
  [0x002B_0000, 0x0040_0040, 1, 0, 0, 0, 0, 64, 0, 1, 0, 1, 0, 1, 0, 0, 0, 0, 0x0020_0040, 0, 0x0040_0040] ++
    List.replicate 11 0

/-- Context 3 in this state with that configuration; link 0 UP. -/
def camera (x : IplCtx) (s : State) : State :=
  (s.setLink 0 { cfg := 0x8000_0001, st := .up }).setIctx 3 { x with cfg := cameraCfg }

theorem witness_CameraLinksComeAndGo :
    let tr := (live 5).setLink 3 { cfg := 0x8000_0003, st := .training, retryT := 5 }
    let off := (live 5).setLink 3 { cfg := 0x8000_0003, powerOff := some (2 * tickLen) }
    let sync := (live 9).setIctx 15 { state := .run, cfg := [0x4000_0000, 0, 1], lastSync := some 2800000 }
    let wait := { live 9 with ipl.pcam := 0x8000_0000 }.setIctx 15 { state := .linkWait, cfg := [0x4000_0000, 0, 1] }
    opens s0 5 (live 5) = true ∧ sourceBusy 3 (live 5) = false ∧ bitsOf (0x8000_0003 : Word) 1 0 ≠ 0 ∧
      bitOf (0x8000_0003 : Word) 31 = true ∧ ((live 5).link 3).st = .down ∧ bitOf (3 : Word) 31 = false ∧
      (tr.link 3).st ≠ .down ∧ sourceBusy 0 (camera { state := .linkWait } (live 5)) = true ∧
      (live 5).pdOn 5 = true ∧ (tr.link 3).st = .training ∧ (tr.link 3).retryT ≤ tr.t ∧ (tr.link 3).powerOff = none ∧
      ((camera {} (live 5)).link 0).st = .up ∧ bitOf (tr.link 3).cfg 31 = true ∧
      (off.link 3).powerOff = some 800000 ∧ boundaryOf (off.t + 1) ≤ 800000 + 1000 * tickLen ∧
      800000 + 1000 * tickLen < boundaryOf ((live 1002).t + 1) ∧
      (ictxNumbers.filter fun c => (sync.ictx c).isPcam) = [15] ∧
      ([15].find? fun c => (sync.ictx c).state == .run &&
        decide ((sync.ictx c).lastSync.getD 0 + 2 * (sync.ictx c).step * tickLen ≤ sync.gts)) = some 15 ∧
      ([15].find? fun c => ({ sync with gts := 3599999 }.ictx c).state == .run &&
        decide ((sync.ictx c).lastSync.getD 0 + 2 * (sync.ictx c).step * tickLen ≤ 3599999)) = none ∧
      (wait.ictx 15).state = .linkWait ∧ pcamUp wait = true := by decide +kernel

theorem witness_FramesRunFromTriggerToClose_trigger :
    let s := camera { state := .armed, t0 := 5 } (live 5)
    let o := camera { state := .run, t0 := 4, trig := some 4, lastTrig := some 4 } (live 5)
    let d := camera { state := .armed, t0 := 6 } (live 5)
    let due := fun (u : State) =>
      let x := (settleRate 3 u).ictx 3
      x.state.live && !x.free && decide (x.t0 ≤ u.t) && !x.stopped u.t && x.step != 0 && u.t % x.step == 0 &&
        x.lastTrig != some u.t
    s.pdOn 5 = true ∧ due s = true ∧ ((settleRate 3 s).ictx 3).trig = none ∧ due o = true ∧
      ((settleRate 3 o).ictx 3).trig = some 4 ∧ due d = false ∧ namers 0 0 s = [3] ∧ namers 0 1 s = [] ∧
      (s.ictx 3).isPcam = false ∧ ({ cfg := [0x4000_0000] } : IplCtx).isPcam = true := by decide +kernel

theorem witness_FramesRunFromTriggerToClose_start :
    let v := fun (s : State) =>
      let v := endFrame 3 s.gts fShort (settleRate 3 s)
      v.setIctx 3 { v.ictx 3 with lastSync := some v.gts }
    let s := camera { state := .armed, trig := some 4 } (live 5)
    let n := camera { state := .armed } (live 5)
    let f := (live 5).setIctx 3 { state := .run, cfg := [0x002B_8000, 0x0040_0040, 1], t0 := 5 }
    let e := (live 5).setIctx 3 { state := .run, cfg := [0x002B_8000, 0x0040_0040, 1], t0 := 5, lastStart := some 1800001 }
    let late := camera { state := .armed, trig := some 3 } (live 5)
    ((v s).ictx 3).refused (v s).gts = false ∧ ((v s).ictx 3).free = false ∧
      ((v s).ictx 3).trig = some 4 ∧ (v s).gts ≤ boundaryOf (4 + ((v s).ictx 3).step) ∧ ((v n).ictx 3).trig = none ∧
      ((v late).ictx 3).trig = some 3 ∧ boundaryOf (3 + ((v late).ictx 3).step) < (v late).gts ∧
      (let p := camera { state := .armed, stopT := some 4 } (live 5)
      ((v p).ictx 3).refused (v p).gts = true) ∧
      ((v f).ictx 3).free = true ∧ ((v f).ictx 3).t0 ≤ (v f).t ∧ ((v f).ictx 3).lastStart = none ∧
      ((v e).ictx 3).lastStart = some 1800001 ∧ (v e).gts + 200000 < 1800001 + ((v e).ictx 3).div * tickLen := by
  decide +kernel

/-- A frame of 64 lines with all but one of them in. -/
def aFrame : IplFrame := { num := 7, cap := 9, trigT := 4, setId := 1, exp := 2, gain := 3, arrived := 63, stored := 63 }

theorem witness_FramesRunFromTriggerToClose_lines :
    let l : LineIn := { pixels := 64, crcError := false, headerError := false, otherType := false, bytes := [] }
    let s := camera { state := .run, frames := [aFrame] } (live 5)
    let x := (retire s.gts s).ictx 3
    let u : IplUnit := { readyAt := 2399999, ctx := 3, frame := 7, lines := 64 }
    let r : State := { s with ipl.ready := [u] }
    let free := max ((r.ipl.running.map IplRun.endAt).getD r.ipl.freeAt) u.readyAt
    let done := camera { state := .run, frames := [{ aFrame with stored := 64, passed := 64, endAt := some 2000001 }] } (live 5)
    l.otherType = false ∧ l.headerError = false ∧ x.dropping = false ∧ x.receiving = some aFrame ∧
      aFrame.arrived < x.height ∧
      namers 0 0 (retire s.gts s) = [3] ∧ namers 0 1 (retire s.gts s) = [] ∧ namers 0 0 s = [3] ∧
      ({ dropping := true } : IplCtx).dropping = true ∧ (s.ictx 3).receiving = some aFrame ∧
      free < boundaryOf (s.t + 1) ∧ boundaryOf (s.t + 1) ≤ max free 2400000 ∧
      (done.ictx 3).frames = [{ aFrame with stored := 64, passed := 64, endAt := some 2000001 }] ∧
      closeInstant 3 { aFrame with stored := 64, passed := 64, endAt := some 2000001 } done = some 2000001 ∧
      2000001 < boundaryOf (done.t + 1) ∧
      ((retire 2000001 (done.advance 2000001)).ictx 3).frames =
        [{ aFrame with stored := 64, passed := 64, endAt := some 2000001 }] := by decide +kernel

theorem witness_FramesRunFromTriggerToClose_rest :
    let d : EncDue := { num := 7, cap := 9 }
    let w : EncDue := { d with at' := 2000000, closed := true, header := [9] }
    let u := (started 6 3 0x12 4096 [] [] (live 5)).setStream 3 { st := .run, cfg := [3], due := [d] }
    let s := (started 6 3 0x12 4096 [] [1, 3, 7] (live 5)).setStream 3 { st := .run, cfg := [3], unit := some w }
    let r := running 0x12 4096 [] [1, 3, 7]
    let e : IplPend := { set := { id := 1, exp := 2, dgain := 256, again := 256 }, boundary := 5, order := 0 }
    let p := camera { state := .run, exps := [e] } (live 5)
    (u.stream 3).due = [d] ∧ (u.stream 3).st = .run ∧ (u.stream 3).unit = none ∧
      u.poolBuffer 6 3 0x12 = some (running 0x12 4096 [] []) ∧ s.poolBuffer 6 3 0x12 = none ∧
      (s.stream 3).unit = some w ∧ takenBuffer 3 0x12 3 7 s = some r ∧
      (fillCode 3 7 9 w.idr (buffersOf 3 s) r (w.header ++ [1, 2]) s).2 = true ∧
      (fillCode 3 7 9 w.idr (buffersOf 3 s) r (w.header ++ zeros 4096) s).2 = false ∧
      ((p.ictx 3).exps.find? fun e => e.wrote.isNone) = some e ∧ e.boundary ≤ p.t ∧ e.retryT ≤ p.t ∧
      sourceUp (p.ictx 3) p = true := by decide +kernel

theorem witness_ImageOperationsFollowTheirChecks_load :
    let c := ref 1 128 [3]
    let s := holding (wordBytes cameraCfg) (posted 6 0 1 128 [3] (live 5))
    let y : IplCtx := { cfg := maskWords iplCfgMask (leWords 32 (bufferOf c s)) }
    c.ring = (0 : Fin 32).val ∧ takes 6 0 1 .serial c s = true ∧ (s.ictx 3).state.beyond = false ∧
      bufferOpen 0x21 false c.op.addr 128 s = true ∧ iplFault y = none ∧
      (readEngine 0x21 (y.addr 12) (4 * y.defectN) s).1 = s ∧
      (readEngine 0x21 (y.addr 12) (4 * y.defectN) s).2.status = 0 := by decide +kernel

theorem witness_ImageOperationsFollowTheirChecks_start :
    let go := ref 2 0 [8]
    let l := { (camera { state := .loaded } (posted 6 0 2 0 [8] (live 5))) with ipl.en := true }
    takes 6 0 2 .serial go l = true ∧ go.op.word64 7 = 0 ∧ (∀ j ∈ maskCtxs (go.op.word 6), (l.ictx j).state = .loaded) ∧
      admitFault (admitted (go.op.word 6) l) l = none := by decide +kernel

theorem witness_ImageOperationsFollowTheirChecks_refused :
    let go := ref 2 0 [8]
    let l := { ((posted 6 0 2 0 [8] (live 5)).setIctx 3
      { state := .loaded, cfg := [0x002E_0000, 0x1000_1000, 1, 0, 0, 0, 0, 4096] }) with ipl.en := true }
    takes 6 0 2 .serial go l = true ∧ (∀ j ∈ maskCtxs (go.op.word 6), (l.ictx j).state = .loaded) ∧
      admitFault (admitted (go.op.word 6) l) l = some 3 := by decide +kernel

theorem witness_ImageOperationsFollowTheirChecks_settings :
    let st := camera { state := .armed } (posted 6 0 3 0 [8] (live 5))
    let ex := ref 4 0 [3, 1, 400000, 0x0100_4000]
    let x := ((camera {} (live 5)).ictx 3)
    takes 6 0 3 .serial (ref 3 0 [8]) st = true ∧ (∀ j ∈ maskCtxs 8, (st.ictx j).state.beyond = true) ∧
      takes 6 0 4 .serial ex (camera { state := .loaded } (posted 6 0 4 0 [3, 1, 400000,
        0x0100_4000] (live 5))) = true ∧
      bitsOf (ex.op.word 9) 15 0 ≤ 16384 ∧ x.free = false ∧
      x.trigDelay + (ex.op.word 8).toNat ≤ x.div * tickLen := by decide +kernel

theorem witness_ImageOperationsFollowTheirChecks_tune :
    let tn := ref 5 2048 [3, 1]
    let t := posted 6 0 5 2048 [3, 1] (camera { state := .loaded } (live 5))
    takes 6 0 5 .serial tn t = true ∧ (t.ictx 3).state ≠ .empty ∧ bufferOpen 0x21 false tn.op.addr 2048 t = true ∧
      (((bufferOf tn t).drop 26).take 6).all (· == 0) = true ∧
      (((bufferOf tn t).drop 546).take 1502).all (· == 0) = true := by decide +kernel

theorem witness_ImageOperationsFollowTheirChecks_rest :
    let enc := ref 8 0 [0x8000_0003, 3, 0x0040_0040, 0x0001_0000, 500]
    let e := camera { state := .run } (posted 6 0 8 0 [0x8000_0003, 3, 0x0040_0040, 0x0001_0000, 500] (live 5))
    let y : EncStream := { e.stream 3 with cfg := [3, 0x0040_0040, 0x0001_0000, 500] }
    let l := camera { state := .run, stopT := some 5 } (live 5)
    takes 6 0 6 .serial (ref 6 64 [15]) (posted 6 0 6 64 [15] (live 5)) = true ∧
      bufferOpen 0x21 true (ref 6 64 [15]).op.addr 64 (posted 6 0 6 64 [15] (live 5)) = true ∧
      takes 6 0 8 .serial (ref 8 0 [3]) (posted 6 0 8 0 [3] (live 5)) = true ∧ bitOf (3 : Word) 31 = false ∧
      takes 6 0 8 .serial enc e = true ∧ bitOf (enc.op.word 6) 31 = true ∧ encFault 3 true y e = none ∧
      encFault 3 false y e = none ∧
      (e.stream 3).st = .off ∧ takes 6 0 9 .serial (ref 9 0 [15]) (posted 6 0 9 0 [15] (live 5)) = true ∧
      takes 6 1 0x10 .parallel (ref 0x10 128 []) (posted 6 1 0x10 128 [] (live 5)) = true ∧
      takes 6 2 0x11 .parallel (ref 0x11 4096 []) (posted 6 2 0x11 4096 [] (live 5)) = true ∧
      takes 6 3 0x12 .parallel (ref 0x12 4096 []) (posted 6 3 0x12 4096 [] (live 5)) = true ∧
      (l.ictx 3).state.beyond = true ∧ (l.ictx 3).stopped l.t = true ∧ (l.ictx 3).frames = [] := by decide +kernel

/-! ### Lookout fusion -/

/-- A configuration with the close 20 and the release 39 ticks after the instant, every other field least. -/
def fusionCfg : List Word :=
  [0x1427_0000, 1000, 50, 16384, 0x0100_0100, 0x0001_05DC, 0x0001_0001, 0x0101_0000] ++ List.replicate 24 0

/-- Lookout in this state with it, epoch 1 the next to close and to be released. -/
def fusing (st : LkoState) (s : State) : State :=
  { s with lko := { state := st, en := true, cfg := fusionCfg, nextClose := 1, nextRel := 1 } }

/-- It, with the models of FUSE and HEAD (no weights) and this epoch. -/
def withEpoch (x : LkoEpoch) (s : State) : State :=
  { fusing .run s with lko.models := [(2, { addr := 0, header := [] }), (3, { addr := 0, header := [] })], lko.epochs := [x] }

theorem witness_EpochsCloseFuseAndRelease_instants :
    let s := fusing .run (live 60)
    let r := fusing .shadow (live 39)
    let z := { s with lko.lastE := some 0 }
    s.lko.nextClose = 1 ∧ s.lko.upTo 1 = true ∧ s.lko.closeAt 1 < boundaryOf (s.t + 1) ∧ r.lko.upTo 1 = true ∧
      r.lko.state = .shadow ∧ instantOf 1 < boundaryOf ((live 40).t + 1) ∧ z.lko.upTo 1 = false ∧
      (fusing .armed (live 5)).lko.fusing = false ∧ s.lko.fusing = true ∧ s.lko.relAt 1 < boundaryOf ((live 79).t + 1) ∧
      boundaryOf ((live 78).t + 1) ≤ s.lko.relAt 1 := by decide +kernel

theorem witness_EpochsCloseFuseAndRelease_col :
    let e : LkoEpoch := { num := 1, closed := true }
    let at' (j : ColJob) (x : LkoEpoch) : State := { withEpoch x (live 61) with lko.col := some (j, true) }
    let f := withEpoch e (live 61)
    let h := withEpoch { e with fused := some [] } (live 61)
    f.pdOn 2 = true ∧ f.pdOn 6 = true ∧ (at' (.cam 1 11 9) e).lko.col = some (.cam 1 11 9, true) ∧
      (at' (.lidar 1 1) e).lko.col = some (.lidar 1 1, true) ∧ (at' (.fuse 1) e).lko.col = some (.fuse 1, true) ∧
      (f.lko.epoch 1).fused = none ∧ (f.lko.epoch 1).failed = false ∧ streamWeights 2 true f = (f, true) ∧
      (h.lko.epoch 1).fused.isSome = true ∧ (h.lko.epoch 1).products = none ∧ (h.lko.epoch 1).failed = false ∧
      streamWeights 3 true h = (h, true) ∧ f.lko.col = none ∧ f.lko.nextJob = some (.fuse 1) ∧
      h.lko.nextJob = some (.head 1) ∧ ({ live 60 with pd := 0x1FBF } : State).pdOn 6 = false := by decide +kernel

theorem witness_EpochsCloseFuseAndRelease_team :
    let s := { fusing .run (live 60) with rtl.role := .lead }
    s.rtl.role = .lead ∧ s.lko.fusing = true ∧ (∀ p ∈ ([(11, { cap := 5, heights := [] })] : Tab RemoteCam), p.1 < 12) ∧
      24000000 ≤ s.lko.closeAt 1 ∧
      s.lko.collects 1 = true ∧ s.lko.closeAt 1 < 40000001 ∧ s.lko.closeAt 2 < 40000001 ∧
      (fusing .run (live 60)).rtl.role ≠ .lead ∧ (fusing .shadow (live 60)).lko.state = .shadow ∧
      (fusing .run (live 60)).lko.state ≠ .shadow := by decide +kernel

/-- A sensor's block: input 3 or 13, every field at its least. -/
def cameraBlock : List Word := [0x8001_0032, 400000] ++ List.replicate 30 0
def lidarBlock : List Word := [0x9200_0032, 400000, 0, 1] ++ List.replicate 28 0

theorem witness_LookoutOperationsFollowTheirChecks_config :
    let c := ref 1 128 []
    let s := holding (wordBytes fusionCfg) (posted 7 0 1 128 [] (live 5))
    let b := posted 7 0 1 128 [] (live 5)
    let d := ref 2 128 [13]
    let u := holding (wordBytes lidarBlock) (posted 7 0 2 128 [13] (fusing .loaded (live 5)))
    c.ring = (0 : Fin 32).val ∧ takes 7 0 1 .serial c s = true ∧ s.lko.state = .empty ∧
      bufferOpen 0x23 false c.op.addr 128 s = true ∧
      cfgFault (maskWords lkoCfgMask (leWords 32 (bufferOf c s))) = none ∧
      cfgFault (maskWords lkoCfgMask (leWords 32 (bufferOf c b))) = some 0 ∧ takes 7 0 2 .serial d u = true ∧
      u.lko.state = .loaded ∧ bitsOf (d.op.word 6) 3 0 = 13 ∧ bufferOpen 0x23 false d.op.addr 128 u = true ∧
      sensorFault 13 (maskWords sensorMask (leWords 32 (bufferOf d u))) = none ∧
      sensorFault 3 (maskWords sensorMask cameraBlock) = none := by decide +kernel

theorem witness_LookoutOperationsFollowTheirChecks_badModel :
    let c := ref 3 256 []
    let s := posted 7 0 3 256 [] (live 5)
    takes 7 0 3 .serial c s = true ∧ bufferOpen 0x23 false c.op.addr 256 s = true ∧
      headerOk (leWords 64 (bufferOf c s)) 256 = false := by decide +kernel

theorem witness_LookoutOperationsFollowTheirChecks_run :
    let drop := ref 4 0 [3]
    let go := ref 5 0 [0, 0]
    let m := posted 7 0 5 0 [0, 0] { withEpoch { num := 1 } (live 5) with lko.state := .loaded }
    let bad := posted 7 0 5 0 [0, 0] (fusing .loaded (live 5))
    takes 7 0 4 .serial drop (posted 7 0 4 0 [3] (live 5)) = true ∧ (live 5).lko.state.running = false ∧
      (fusing .armed (live 5)).lko.state.running = true ∧ takes 7 0 5 .serial go m = true ∧ go.op.word64 6 = 0 ∧
      m.lko.state = .loaded ∧ m.lko.en = true ∧ m.lko.lastE = none ∧ startFault m = none ∧ startFault bad = some 7 ∧
      takes 7 0 5 .serial go bad = true ∧ takes 7 0 6 .serial (ref 6 0 []) (posted 7 0 6 0 [] (live 5)) = true ∧
      takes 7 0 7 .serial (ref 7 544 []) (posted 7 0 7 544 [] (live 5)) = true ∧
      bufferOpen 0x23 true (ref 7 544 []).op.addr (inputNumbers.flatMap fun j => healthRecord ((live 5).lin j)).length
        (posted 7 0 7 544 [] (live 5)) = true ∧
      takes 7 2 0x20 .parallel (ref 0x20 663552 []) (posted 7 2 0x20 663552 [] (live 5)) = true ∧
      takes 7 3 0x21 .parallel (ref 0x21 2621504 []) (posted 7 3 0x21 2621504 [] (live 5)) = true := by decide +kernel

theorem witness_LookoutOperationsFollowTheirChecks_lidar :
    let c := ref 0x10 48 []
    let s := holding (zeros 10 ++ [1, 0, 1] ++ zeros 35)
      (posted 7 1 0x10 48 [] ((fusing .run (live 45)).setLin 13 { cfg := lidarBlock }))
    let bs := bufferOf c s
    takes 7 1 0x10 .serial c s = true ∧ leNat ((bs.drop 10).take 2) = 1 ∧ leNat ((bs.drop 12).take 1) = 1 ∧
      (s.lin 13).en = true ∧ leNat ((bs.drop 13).take 3) = 0 ∧ leNat ((bs.drop 24).take 8) = 0 ∧
      s.lko.state.running = true ∧ bufferOpen 0x23 false c.op.addr c.op.len s = true := by decide +kernel


/-- A model header for the schema the module accepts least: no weights, no inputs. -/
def leastModel (v : Nat) (s : State) : State :=
  { s with mem := [(0x1_0000_1000, 0x4C), (0x1_0000_1001, 0x4F), (0x1_0000_1002, 0x43), (0x1_0000_1003, 0x4B),
    (0x1_0000_1004, BitVec.ofNat 8 v), (0x1_0000_1005, BitVec.ofNat 8 (v / 256)), (0x1_0000_1007, 1)] }

/-- Its words. -/
def leastWords (v : Nat) : List Word :=
  0x4B43_4F4C :: wordOf (leNat [BitVec.ofNat 8 v, BitVec.ofNat 8 (v / 256), 0#8, 1#8]) :: List.replicate 62 0

theorem leWords_clear (m : List Host.Cell) : ∀ (n a : Nat), (∀ b, a ≤ b → Memory.get m b = 0) →
    leWords n (Memory.getMany m a (4 * n)) = List.replicate n 0 := by
  intro n
  induction n with
  | zero => intros; rfl
  | succ n ih =>
    intro a h
    show wordOf (leNat [Memory.get m a, Memory.get m (a + 1), Memory.get m (a + 1 + 1),
      Memory.get m (a + 1 + 1 + 1)]) ::
      leWords n (Memory.getMany m (a + 1 + 1 + 1 + 1) (4 * n)) = _
    rw [ih _ fun b hb => h b (by omega), h a (by omega), h (a + 1) (by omega), h (a + 1 + 1) (by omega),
      h (a + 1 + 1 + 1) (by omega)]
    rfl

theorem leWords_first (m : List Host.Cell) (n a : Nat) : leWords (n + 1) (Memory.getMany m a (4 * (n + 1))) =
    wordOf (leNat [Memory.get m a, Memory.get m (a + 1), Memory.get m (a + 2), Memory.get m (a + 3)]) ::
      leWords n (Memory.getMany m (a + 4) (4 * n)) := rfl

theorem leastModel_words (v : Nat) :
    leWords 64 (bufferOf (ref 3 256 []) (leastModel v (posted 7 0 3 256 [] (live 5)))) = leastWords v := by
  have ha : (ref 3 256 []).op.addr = 0x1_0000_1000 := by decide +kernel
  have hl : (ref 3 256 []).op.len = 4 * (62 + 1 + 1) := by decide +kernel
  unfold bufferOf
  rw [ha, hl, leWords_first, leWords_first, leWords_clear]
  · simp [leastModel, leastWords, Memory.get, leNat, wordOf]
  · intro b hb
    simp only [leastModel, Memory.get]
    repeat rw [if_neg (by omega)]

theorem headerOk_least (w : Word) (h0 : bitsOf Config.modelSchema 15 0 ≤ bitsOf w 15 0)
    (h1 : bitsOf w 15 0 ≤ bitsOf Config.modelSchema 31 16) (h2 : bitsOf w 23 16 = 0) (h3 : bitOf w 24 = true)
    (h4 : bitOf w 25 = false) : headerOk (0x4B43_4F4C :: w :: List.replicate 62 0) 256 = true := by
  unfold headerOk ColModel.size ColModel.hasInt8 ColModel.word
  simp only [List.getD_cons_zero, List.getD_cons_succ, h2, h3, h4]
  simp [h0, h1, List.getD, List.replicate]

theorem least_toNat (v : Nat) (h : v < 65536) :
    (wordOf (leNat [BitVec.ofNat 8 v, BitVec.ofNat 8 (v / 256), 0#8, 1#8])).toNat = 16777216 + v := by
  simp only [leNat, wordOf, BitVec.toNat_ofNat, Nat.reducePow, Nat.reduceMod, Nat.reduceMul, Nat.reduceAdd]
  omega

theorem least_bits {w : Word} {v : Nat} (h : v < 65536) (hw : w.toNat = 16777216 + v) :
    bitsOf w 15 0 = v ∧ bitsOf w 23 16 = 0 ∧ bitOf w 24 = true ∧ bitOf w 25 = false := by
  refine ⟨?_, ?_, ?_, ?_⟩
  · simp only [bitsOf, hw, Nat.shiftRight_zero, Nat.reduceAdd, Nat.reduceSub, Nat.reducePow]; omega
  · simp only [bitsOf, hw, Nat.shiftRight_eq_div_pow, Nat.reduceAdd, Nat.reduceSub, Nat.reducePow]; omega
  · simp only [bitOf, BitVec.getLsbD, hw, Nat.testBit_eq_decide_div_mod_eq, Nat.reducePow, decide_eq_true_eq]; omega
  · simp only [bitOf, BitVec.getLsbD, hw, Nat.testBit_eq_decide_div_mod_eq, Nat.reducePow,
    decide_eq_false_iff_not]; omega

theorem range_bits {q : Word} {v m : Nat} (h : v < 65536) (_ : m < 65536) (hq : q.toNat = m * 65536 + v) :
    bitsOf q 15 0 = v ∧ bitsOf q 31 16 = m := by
  constructor
  · simp only [bitsOf, hq, Nat.shiftRight_zero, Nat.reduceAdd, Nat.reduceSub, Nat.reducePow]; omega
  · simp only [bitsOf, hq, Nat.shiftRight_eq_div_pow, Nat.reduceAdd, Nat.reduceSub, Nat.reducePow]; omega

theorem leastModel_headerOk : headerOk (leastWords (Config.modelSchemaLow % 65536)) 256 = true := by
  have hl : Config.modelSchemaLow % 65536 < 65536 := Nat.mod_lt _ (by omega)
  have hs : Config.modelSchema.toNat = min 65535 (Config.modelSchemaLow % 65536 + Config.modelSchemaMore) * 65536 +
      Config.modelSchemaLow % 65536 := by
    have hb : ∀ l m : Nat, l < 65536 → min 65535 m * 65536 + l < 2 ^ 32 := by omega
    exact (BitVec.toNat_ofNat _ _).trans (Nat.mod_eq_of_lt (hb _ _ hl))
  obtain ⟨a, b, c, d⟩ := least_bits hl (least_toNat _ hl)
  obtain ⟨e, f⟩ := range_bits hl (by omega) hs
  exact headerOk_least _ (e.trans a.symm).le
    (le_of_eq_of_le a (le_of_le_of_eq (Nat.le_min.mpr ⟨by omega, Nat.le_add_right _ _⟩) f.symm)) b c d

theorem witness_LookoutOperationsFollowTheirChecks_model :
    let c := ref 3 256 []
    let s := leastModel (Config.modelSchemaLow % 65536) (posted 7 0 3 256 [] (live 5))
    let ws := leWords 64 (bufferOf c s)
    let m : ColModel := { addr := c.op.addr, header := ws }
    takes 7 0 3 .serial c s = true ∧ 256 ≤ c.op.len ∧ bufferOpen 0x23 false c.op.addr c.op.len s = true ∧
      headerOk ws c.op.len = true ∧ Tab.find s.lko.models (bitsOf (m.word 1) 23 16) = none ∧
      crc32 (((bufferOf c s).drop 256).take (m.size false)) = m.crc false := by
  refine ⟨rfl, by decide, by decide +kernel, ?_, rfl, ?_⟩
  · rw [leastModel_words]; exact leastModel_headerOk
  · show crc32 (List.take (ColModel.size { addr := _, header := leWords 64 _ } false) _) = ColModel.crc { addr := _, header := leWords 64 _ } false
    rw [leastModel_words]
    exact congrArg crc32 (List.take_zero) |>.trans (by decide +kernel)

/-! ### GNSS baseband -/

/-- The least configuration. -/
def gnssCfg : List Word :=
  [0, 0, 0x000A_0000, 0x0C0F_0000, 0x0001_0064] ++ List.replicate 17 0 ++
    [0x0001_0000, 0, 0x0001_0001, 0, 0x0001_0001, 0x0A0A_000A, 0, 0, 0, 0]

/-- GNB in RUN with it, channel 255 as given. -/
def receiver (x : GnbCh) (s : State) : State := { s with gnb.state := .run, gnb.cfg := gnssCfg, gnb.ch := [(255, x)] }

theorem witness_ReceiverFollowsItsStatesAndInstants :
    let at' := fun (st : GnbChState) (t : Nat) => receiver { st := st, since := 5 } (live t)
    let x : GnbCh := { st := .coast, run := 20, phase := 1 }
    (at' .search 5).pdOn 7 = true ∧ (at' .search 5).gnb.state = .run ∧ ((at' .search 5).gch 255).st = .search ∧
      ((at' .search 5).gch 255).since ≤ (at' .search 5).t ∧
      ((at' .search 5).gch 255).since + 4000 ≤ (at' .search 4005).t ∧
      ((at' .pullIn 205).gch 255).st = .pullIn ∧ 200 ≤ ({ st := .pullIn, run := 200 } : GnbCh).run ∧
      ((at' .pullIn 205).gch 255).since + 1000 ≤ (at' .pullIn 1005).t ∧ ((at' .track 5).gch 255).st = .track ∧
      ((at' .track 5).gch 255).run < 20 ∧ 20 ≤ ({ st := .track, run := 20 } : GnbCh).run ∧
      ((at' .coast 5).gch 255).st = .coast ∧ 20 ≤ x.run ∧ carrierCheck x (65536 + 6553) = true ∧
      carrierCheck x (65536 + 6554) = false ∧
      (at' .coast 5).t ≤ ((at' .coast 5).gch 255).since + (at' .coast 5).gnb.coastT ∧
      ((at' .coast 5).gch 255).since + (at' .coast 5).gnb.coastT ≤ (at' .coast 5).t ∧
      ((at' .idle 5).gch 255).st ≠ .search ∧ ((at' .idle 5).gch 255).st ≠ .pullIn ∧
      ((at' .idle 5).gch 255).st ≠ .coast ∧
      (at' .idle 5).gnb.examT = none ∧ (4 : Nat) ≠ 5 ∧
      ({ at' .idle 1004 with gnb.examT := some 5 } : State).t < 5 + 1000 := by decide +kernel

theorem witness_ReceiverFollowsItsStatesAndInstants_ports :
    let s := { live 1005 with gnb.ant2 := { st := 3, bias := false, shortT := 5 }, gnb.ant1 := { bias := true } }
    s.pdOn 7 = true ∧ (s.ant false).bias = true ∧ (s.ant true).st = 3 ∧ (s.ant true).bias = false ∧
      (s.ant true).shortT + 1000 ≤ s.t ∧
        ({ s with gts := 1005 * 400000 - 1 } : State).t < (s.ant true).shortT + 1000 := by
  decide +kernel

theorem witness_ReceiverFollowsItsStatesAndInstants_instants :
    let s := receiver { st := .track } (live 10)
    let m : NavIn := {
      gts := 9, chan := 255, bits := 300, wordsOk := 1023, wordsFix := 0, payload := [], words := 4
      ephemeris := some (1, false), leap := none }
    let v : State := { s with gnb.navFail := min (s.gnb.navFail + navFailures 0 m) max32 }
    let u := navTake { st := .track } m v
    let p := started 8 3 0x21 4096 [] [] s
    s.pdOn 7 = true ∧ 0 < s.gnb.measDiv ∧ s.t % s.gnb.measDiv = 0 ∧ s.gnb.measT ≠ some s.t ∧
      (live 10).gnb.state ≠ .run ∧
      s.overruns .gnss = false ∧ ({ s with tick.late := [.gnss] } : State).overruns .gnss = true ∧
      navUsed 0 m = true ∧ navUsed 0 { m with wordsOk := 1019 } = false ∧
      (receiver {} (live 11)).t % s.gnb.measDiv ≠ 0 ∧ (s.gch m.chan).st = .track ∧ navTarget u = none ∧
      (navTarget p).isSome = true ∧ ((receiver {} (live 10)).gch m.chan).st = .idle := by decide +kernel

theorem witness_ReceiverFollowsItsStatesAndInstants_mapping :
    let m : Tmap := { st := .locked, g0 := 2000000, t0 := 0 }
    let late := { m with t0 := 1 }
    let slew : Tmap := { st := .slew, resid := -1, resAt := 0 }
    let p : TmapStep := { at' := 2000000, trueNs := 0, delta := 1500000, unc := 20 }
    let step : Tmap := { st := .holdover, step := some p }
    let from' := max p.at' (step.edge.elim p.at' fun e => e + halfSecond)
    let q := secondAfter p.at' p.trueNs (paceOf step.rate) 0 from'
    let l : LeadMap := { g0 := 2000000, week := 0, tow := 0, rate := 0, quiet := false }
    let far := { l with tow := 1 }
    m.lead = none ∧ m.st ≠ .none' ∧ m.step = none ∧
      (secondAfter m.g0 m.t0 m.pace 0 (m.earliest 2000000)).1 < boundaryOf ((live 5).t + 1) ∧ (live 5).gnb.ppsOfs = 0 ∧
      boundaryOf ((live 5).t + 1) ≤ (secondAfter late.g0 late.t0 late.pace 0 (late.earliest 2000000)).1 ∧
      (secondAfter l.g0 (leadT0 l) (paceOf l.rate) 0 (({ m with lead := some l } : Tmap).earliest 2000000)).1 <
        boundaryOf ((live 5).t + 1) ∧ l.quiet = false ∧ { l with quiet := true }.quiet = true ∧
      boundaryOf ((live 5).t + 1) ≤
        (secondAfter far.g0 (leadT0 far) (paceOf far.rate) 0 (({ m with lead := some far } : Tmap).earliest 2000000)).1 ∧
      ({} : Tmap).st = .none' ∧ slew.st = .slew ∧
      slew.resAt + slew.resid.natAbs * 4000000 < boundaryOf ((live 10).t + 1) ∧
      boundaryOf ((live 9).t + 1) ≤ slew.resAt + slew.resid.natAbs * 4000000 ∧
      step.step = some p ∧ q.1 < boundaryOf ((live 5).t + 1) ∧
      boundaryOf ((live 4).t + 1) ≤ q.1 := by decide +kernel

theorem witness_ReceiverFollowsItsStatesAndInstants_registers :
    let el := bitsOf (0x4100_0040 : Word) 6 0
    let vel := bitsOf (0x4100_0040 : Word) 31 24
    opens s0 7 (live 5) = true ∧ 1 ≤ el ∧ el ≤ 64 ∧ 2 ≤ vel ∧ vel ≤ 128 ∧ el < vel ∧
      bitsOf (0x4100_0000 : Word) 6 0 = 0 ∧
      bitOf (0x8000_0000 : Word) 31 = true ∧ bitOf (0 : Word) 31 = false ∧ (receiver {} (live 5)).gnb.state = .run ∧
      (receiver {} (live 5)).gnb.stopT = none := by decide +kernel

theorem witness_GnssOperationsFollowTheirChecks_config :
    let c := ref 1 128 []
    let s := holding (wordBytes gnssCfg) (posted 8 0 1 128 [] (live 5))
    let b := posted 8 0 1 128 [] (live 5)
    c.ring = (0 : Fin 32).val ∧ takes 8 0 1 .serial c s = true ∧ s.gnb.state ≠ .run ∧
      bufferOpen 0x25 false c.op.addr 128 s = true ∧
      gnbFault (maskWords gnbCfgMask (leWords 32 (bufferOf c s))) = none ∧
      gnbFault (maskWords gnbCfgMask (leWords 32 (bufferOf c b))) = some (1, 2) ∧
      takes 8 0 1 .serial c (receiver {} s) = true := by decide +kernel

theorem witness_GnssOperationsFollowTheirChecks_start :
    let go := fun (v : Nat) => ref 2 0 [v, 0]
    let s := fun (v : Nat) => { posted 8 0 2 0 [v, 0] (live 5) with gnb.state := .loaded, gnb.en := true }
    takes 8 0 2 .serial (go 5) (s 5) = true ∧ (go 5).op.word64 6 ≠ 0 ∧ (go 5).op.word64 6 ≤ (s 5).t ∧
      takes 8 0 2 .serial (go 6) (s 6) = true ∧ (s 6).t < (go 6).op.word64 6 ∧ (s 6).gnb.state = .loaded ∧
      (s 6).gnb.en = true ∧
      (posted 8 0 2 0 [0, 0] (live 5)).gnb.state ≠ .loaded ∧
      takes 8 0 3 .serial (ref 3 0 []) (posted 8 0 3 0 [] (receiver {} (live 5))) = true ∧
      takes 8 0 3 .serial (ref 3 0 []) (posted 8 0 3 0 [] (live 5)) = true := by decide +kernel

theorem witness_GnssOperationsFollowTheirChecks_stores :
    let a := ref 4 64 []
    let s := posted 8 0 4 64 [] (live 5)
    let bad := holding [1, 0, 0, 1] s
    let x : Snap := { serial := 7, pcc := 1, bytes := [] }
    let r := ref 6 32832 [7]
    let u := { posted 8 0 6 32832 [7] (live 5) with biv.area := [x] }
    takes 8 0 4 .serial a s = true ∧ bufferOpen 0x25 false a.op.addr 64 s = true ∧
      (∀ q ∈ records64 1 (bufferOf a s), (q.drop 3).take 5 = zeros 5) ∧
      (∃ q ∈ records64 1 (bufferOf a bad), (q.drop 3).take 5 ≠ zeros 5) ∧
      takes 8 0 5 .serial (ref 5 1024 []) (posted 8 0 5 1024 [] (live 5)) = true ∧
      bufferOpen 0x25 true (ref 5 1024 []).op.addr 1024 (posted 8 0 5 1024 [] (live 5)) = true ∧
      takes 8 0 6 .serial r u = true ∧ (u.biv.area.find? fun x => wordOf x.serial == r.op.word 6) = some x ∧
      bufferOpen 0x25 true r.op.addr 32832 u = true ∧
      ((live 5).biv.area.find? fun x => wordOf x.serial == r.op.word 6) = none := by decide +kernel

theorem witness_GnssOperationsFollowTheirChecks_pools :
    let c := ref 0x10 6 []
    let s := posted 8 1 0x10 6 [] (live 5)
    takes 8 1 0x10 .serial c s = true ∧ s.gnb.state ≠ .run ∧ (receiver {} s).gnb.state = .run ∧
      bufferOpen 0x25 false c.op.addr 6 (receiver {} s) = true ∧
      takes 8 2 0x20 .parallel (ref 0x20 8256 []) (posted 8 2 0x20 8256 [] (live 5)) = true ∧
      takes 8 3 0x21 .parallel (ref 0x21 4095 []) (posted 8 3 0x21 4095 [] (live 5)) = true := by decide +kernel

/-! ### Yield mapping -/

/-- The least configuration. -/
def yieldCfg : List Word :=
  [0x0100_0100, 0x0100_0100, 0, 1, 0x000A_0032, 1, 0x01F5_01F4, 0x01F4_000A, 0, 0, 1000] ++ List.replicate 21 0

/-- The service in this state with it. -/
def yielding (st : YldState) (s : State) : State := { s with yld.state := st, yld.cfg := yieldCfg, yld.delay := 500 }

/-- A step that cuts `c` g/s. -/
def cutAt (c : Rat) : YldStep :=
  { m := 1, c := c, hdrUp := false, gap := false, width := 1, dist := 1, speed := 1, lat := 0, lon := 0, hgt := 0,
    sol := 5 }

theorem witness_YieldMassIsSharedAndKept :
    let y : Yld := { cfg := yieldCfg, delay := 500, hist := [(89, cutAt 5), (90, cutAt 4), (110, cutAt 2), (111,
      cutAt 9)] }
    y.hist.Pairwise (fun a b => a.1 < b.1) ∧ ((window y 600).map fun e => e.2).sum ≠ 0 ∧
      ((window y 5).map fun e => e.2).sum = 0 ∧ 90 + y.delay ≤ 600 + y.spread ∧ 600 ≤ 90 + y.delay + y.spread ∧
      89 + y.delay + y.spread < 600 ∧ 600 + y.spread < 111 + y.delay ∧ y.sensed = y.attrib + y.unattrib := by
  decide +kernel

theorem witness_YieldStepsRunInTheirTicks :
    let s := { yielding .run (live 3000) with yld.nextStep := 300 }
    let e := { yielding .run (live 3000) with yld.nextStep := 299 }
    let m := { yielding .run (live 2990) with yld.nextStep := 298 }
    let l := { yielding .loaded (live 3000) with rtl.role := .second }
    l.yld.nextStep ≤ l.t / 10 - 1 ∧ s.pdOn 2 = true ∧ s.tick.running = true ∧ sensing s = true ∧
      s.yld.sensedT ≠ some s.t ∧ sensing (live 5) = false ∧
      e.t % 10 = 0 ∧ 10 ≤ e.t ∧ e.yld.nextStep ≤ e.t / 10 - 1 ∧ (e.t / 10 - 1) % 100 = 99 ∧
      m.yld.nextStep ≤ m.t / 10 - 1 ∧ (m.t / 10 - 1) % 100 ≠ 99 ∧ l.yld.state = .loaded ∧ l.rtl.role = .second ∧
      (live 5).t % 10 ≠ 0 ∧ ({ s with yld.estDue := true } : State).yld.estDue = true ∧ s.yld.estDue = false ∧
      s.t % 1000 = 0 ∧ s.yld.nextStep * 10 = s.t ∧ (live 5).yld.state ≠ .run := by decide +kernel

theorem witness_YieldOperationsFollowTheirChecks :
    let c := ref 1 128 []
    let s := holding (wordBytes yieldCfg) (posted 0 0 1 128 [] (live 5))
    let go := fun (v : Nat) => ref 2 0 [v, 0]
    let at' := fun (v : Nat) => yielding .loaded (posted 0 0 2 0 [v, 0] (live 5))
    c.ring = (0 : Fin 32).val ∧ takes 0 0 1 .serial c s = true ∧ s.yld.state ≠ .run ∧
      bufferOpen 0x2F false c.op.addr 128 s = true ∧
      yldCfgOk { cfg := maskWords yldCfgMask (leWords 32 (bufferOf c s)) } = true ∧
      (yielding .run s).yld.state = .run ∧ takes 0 0 2 .serial (go 0) (posted 0 0 2 0 [0, 0] (live 5)) = true ∧
      (live 5).yld.state ≠ .loaded ∧ takes 0 0 2 .serial (go 5) (at' 5) = true ∧ (go 5).op.word64 6 ≠ 0 ∧
      (go 5).op.word64 6 ≤ (at' 5).t ∧ (at' 6).t < (go 6).op.word64 6 ∧ (at' 6).yld.state = .loaded ∧
      takes 0 0 3 .serial (ref 3 0 []) (posted 0 0 3 0 [] (live 5)) = true ∧
      takes 0 0 5 .serial (ref 5 0 [9]) (posted 0 0 5 0 [9] (live 5)) = true ∧
      takes 0 1 0x10 .parallel (ref 0x10 64 []) (posted 0 1 0x10 64 [] (live 5)) = true := by decide +kernel

theorem witness_YieldOperationsFollowTheirChecks_tasks :
    let c := fun (id v : Nat) => ref 6 0 [id, v, 0]
    let s := fun (id v : Nat) => { posted 0 0 6 0 [id, v, 0] (live 5) with yarea.tasks := [{ id := 7 }] }
    let l := posted 0 0 8 8192 [] (live 5)
    takes 0 0 6 .serial (c 0 0) (s 0 0) = true ∧ ((s 7 0).yarea.tasks.any fun x => x.id == 7) = true ∧
      (((s 8 5).yarea.tasks.any fun x => x.id == 8) = false) ∧ (c 8 5).op.word64 7 ≠ 0 ∧
      (c 8 5).op.word64 7 ≤ (s 8 5).t ∧
      (s 8 6).t < (c 8 6).op.word64 7 ∧ takes 0 0 7 .serial (ref 7 0 []) (posted 0 0 7 0 [] (live 5)) = true ∧
      takes 0 0 8 .serial (ref 8 8192 []) l = true ∧ bufferOpen 0x2F true (ref 8 8192 []).op.addr 0 l = true := by
  decide +kernel

/-- Every transaction inside a buffer goes through, so the buffer is open. -/
theorem buffer_opens (ini : Nat) (w : Bool) (s : State) : ∀ (fuel addr len : Nat),
    (∀ a n, addr ≤ a → 0 < n → a + n ≤ addr + len → s.busVerdict ini false w a n = .ok) →
    ((pieces fuel addr len).all fun p => s.busVerdict ini false w p.1 p.2 == .ok) = true := by
  intro fuel
  induction fuel with
  | zero => intros; rfl
  | succ fuel ih =>
    intro addr len h
    unfold pieces
    split
    · rfl
    · rw [List.all_cons, Bool.and_eq_true]
      exact ⟨by rw [h _ _ (Nat.le_refl _) (by omega) (by omega)]; rfl,
        ih _ _ fun a n h1 h2 h3 => h a n (by omega) h2 (by omega)⟩

/-- The open fence lets every initiator reach all of the memory. -/
theorem openFence_opens (ini : Nat) (w : Bool) (addr len : Nat) (s : State) (hi : ini < 64) (hp : s.pdOn 4 = true)
    (ha : 0x1_0000_0000 ≤ addr) (hl : addr + len ≤ 0x1_0100_0000) : bufferOpen ini w addr len (openFence s) = true := by
  refine buffer_opens ini w _ len addr len fun a n h1 h2 h3 => ?_
  have hm : inHostMem a n = true := by
    unfold inHostMem memBase memLast; simp only [Bool.and_eq_true, decide_eq_true_eq]; omega
  have hf : (openFence s).fenced ini false w a n = true := by
    show (openFence s).fen.live.any _ = true
    simp only [openFence, List.any_cons, List.any_nil, Bool.or_false, Fence.allows, Bool.and_eq_true, decide_eq_true_eq]
    refine ⟨⟨⟨⟨⟨trivial, by omega⟩, by omega⟩, ?_⟩, by cases w <;> rfl⟩, by simp⟩
    interval_cases ini <;> rfl
  unfold State.busVerdict
  rw [hm, hf, show (openFence s).pdOn 4 = true from hp]; rfl

theorem witness_YieldOperationsFollowTheirChecks_export :
    let c := ref 9 4096 [7]
    let s := { posted 0 0 9 4096 [7] (live 5) with yarea.tasks := [{ id := 7 }], gnb.leap := some 18 }
    takes 0 0 9 .serial c s = true ∧ (s.yarea.tasks.find? fun x => wordOf x.id == c.op.word 6) = some { id := 7 } ∧
      ((live 5).yarea.tasks.find? fun x => wordOf x.id == c.op.word 6) = none ∧ (live 5).gnb.leap = none ∧
      s.gnb.leap = some 18 ∧ ∀ bs : List Byte, bufferOpen 0x2F true c.op.addr (bs.take c.op.len).length s = true := by
  refine ⟨by decide +kernel, by decide +kernel, by decide +kernel, rfl, rfl, fun bs => ?_⟩
  have h : (bs.take (ref 9 4096 [7]).op.len).length ≤ 4096 := by
    rw [List.length_take, show (ref 9 4096 [7]).op.len = 4096 by decide +kernel]; omega
  have a : (ref 9 4096 [7]).op.addr = 0x1_0000_1000 := by decide +kernel
  exact openFence_opens 0x2F true _ _ { (posted 0 0 9 4096 [7] (live 5)) with
    yarea.tasks := [{ id := 7 }], gnb.leap := some 18 } (by omega) rfl (by omega) (by omega)

theorem witness_YieldOperationsFollowTheirChecks_status :
    let s := posted 0 0 4 64 [] (live 5)
    takes 0 0 4 .serial (ref 4 64 []) s = true ∧
      (started 0 0 4 64 [] [] (live 5)).opsOf 0 0 (isStarted 4) = [running 4 64 [] []] ∧
      bufferOpen 0x2F true (ref 4 64 []).op.addr (yldStatusBytes s).length s = true := by
  refine ⟨by decide +kernel, by decide +kernel, ?_⟩
  have a : (ref 4 64 []).op.addr = 0x1_0000_1000 := by decide +kernel
  have h : (yldStatusBytes (posted 0 0 4 64 [] (live 5))).length ≤ 4096 := by
    unfold yldStatusBytes; simp only [List.length_append]
    have hb : ∀ n v, (leBytes n v).length = n := by
      intro n; induction n with
      | zero => intro v; rfl
      | succ n ih => intro v; simp [leBytes, ih]
    simp only [hb]; decide
  exact openFence_opens 0x2F true _ _ (posted 0 0 4 64 [] (live 5)) (by omega) rfl (by omega) (by omega)

/-! ### CAN controllers -/

/-- Controller 7 as given. -/
def bus (x : CanCtl) (s : State) : State := s.setCan 7 x

theorem witness_CanControllersAndFrames :
    let on := bus { ctl := 0x8000_0000, state := .integrating } (live 5)
    let off := bus { ctl := 0x8000_0000, state := .busOff, recGo := true } (live 5)
    let bufs : Tab CanBuf := [(127, { cfg := 0x6000_0000 })]
    let b := bitsOf ((0x7F80_03E8 : Word) &&& (0xFFFF_03FF : Word)) 29 23
    opens s0 10 (live 5) = true ∧ ((live 5).canCtl 7).en = false ∧ bitOf (0x8000_0000 : Word) 31 = true ∧
      (on.canCtl 7).en = true ∧ bitOf (0 : Word) 31 = false ∧ bitsOf (0xA000_0000 : Word) 29 28 < 3 ∧
      (off.canCtl 7).en = true ∧ (off.canCtl 7).state = .busOff ∧ bitsOf (0x4000_0000 : Word) 9 0 = 0 ∧
      b = 127 ∧ ((bus { bufs := bufs } (live 5)).canBuf 7 b).tx = true ∧
      ((bus { bufs := bufs } (live 5)).canBuf 7 b).cyclic = true ∧
      slotMapped 7 b (bus { bufs := bufs } (live 5)) = false ∧
      bitsOf (0x7F80_03E8 : Word) 9 0 = 1000 ∧ bitsOf (0x7F80_03E8 : Word) 31 30 = 1 ∧
      bitsOf (0x7F80_03E8 : Word) 22 16 ≤ 99 ∧
      (on.canCtl 7).state = .integrating ∧ ((live 5).canCtl 7).state ≠ .integrating ∧ (off.canCtl 7).recGo = true ∧
      (on.canCtl 7).bus = none ∧ (CanWho.buf 126, 9) ≠ (CanWho.buf 127, 9) ∧
      ((bus { ctl := 0x8000_0000, bus := some (.buf 127, 9) } (live 5)).canCtl 7).bus = some (.buf 127, 9) ∧
      ((live 5).canCtl 7).state ≠ .busOff ∧ ((bus { state := .active } (live 5)).canCtl 7).live = true ∧
      ((bus { state := .active, mode := 1 } (live 5)).canCtl 7).mode = 1 ∧ (on.canCtl 7).live = false := by
  decide +kernel

/-- A data frame of one byte with identifier 0x7FF. -/
def aCanFrame (fmt : Fin 3) : CanFrame := {
  fmt := fmt, ide := false, brs := false, id := 0x7FF, data := [9], sof := 2000001, remote := false, sdt := 0, vcid := 0
  secBit := false, af := 0 }

/-- Controller 7 ACTIVE with one enabled buffer, 127. -/
def oneBuf (q : CanBuf) (s : State) : State := bus { ctl := 0x8000_0000, state := .active, bufs := [(127, q)] } s

theorem witness_CanControllersAndFrames_receive :
    let s := oneBuf { cfg := 0x8000_0000, id := 0x1FFC_0000, mask := 0x1FFF_FFFF } (live 5)
    let x := s.canCtl 7
    x.live = true ∧ (aCanFrame 0).remote = false ∧ takerOf x (aCanFrame 0) = some 127 ∧ (aCanFrame 0).fmt.val = 0 ∧
      (aCanFrame 2).fmt.val = 2 ∧ x.xlEn = false := by decide +kernel

theorem witness_CanControllersAndFrames_transmit :
    let s := oneBuf { cfg := 0xC001_0000 } (live 5)
    let p := oneBuf { cfg := 0xC001_0000, pend := some [9] } (live 5)
    let w := oneBuf { cfg := 0xC001_0000, wire := some [9] } (live 5)
    let c := oneBuf { cfg := 0xE001_0000, mask := 1 } (live 5)
    opens s0 10 s = true ∧ 32 * (3 : Fin 4).val + 31 = 127 ∧ bitOf (0x8000_0000 : Word) 31 = true ∧
      bitOf (0x8000_0000 : Word) 30 = false ∧
      s.reserved 7 127 = false ∧ (s.canBuf 7 127).en = true ∧ (s.canBuf 7 127).tx = true ∧
      (s.canBuf 7 127).cyclic = false ∧
      (s.canBuf 7 127).pend = none ∧ (s.canBuf 7 127).wire = none ∧ maySend (s.canBuf 7 127) s = true ∧
      (p.canBuf 7 127).pend ≠ none ∧ (w.canBuf 7 127).wire ≠ none ∧ (s.canCtl 7).en = true ∧ (s.canCtl 7).tmRole ≠ 1 ∧
      cyclicDue (c.canBuf 7 127) c.t = true ∧ maySend (c.canBuf 7 127) c = true ∧
      cyclicDue (s.canBuf 7 127) s.t = false ∧
      (takeBus 7 none w).canBuf 7 127 = w.canBuf 7 127 ∧ onBus 7 127 (takeBus 7 none w) = false ∧
      (let u := takeBus 7 (some 2000001) p
      onBus 7 127 u = true ∧ (u.canBuf 7 127).wire ≠ none) ∧ (live 5).rtl.en = false := by decide +kernel

theorem witness_CanControllersAndFrames_wire :
    let s := oneBuf { cfg := 0xC001_0000 } (live 5)
    let p := oneBuf { cfg := 0xC001_0000, pend := some [9], pendAt := 2000001 } (live 5)
    let f := oneBuf {} (started 9 1 0x20 8 [7, 0, 0, 0, 0, 0, 1] [5, 1, 0] (live 5))
    (p.canCtl 7).live = true ∧ (p.canCtl 7).mode = 0 ∧ (p.canCtl 7).bus = none ∧
      arbFirst (contenders 7 2000001 (s.advance 2000001)) = none ∧
      arbFirst (contenders 7 2000001 (p.advance 2000001)) = some (.buf 127) ∧
      (p.canBuf 7 127).ready 2000001 = some [9] ∧ (p.canBuf 7 127).ready 2000000 = none ∧
      arbFirst (contenders 7 2000001 (f.advance 2000001)) = some .frameTx ∧
      (f.advance 2000001).frameTxOp 7 = some (running 0x20 8 [7, 0, 0, 0, 0, 0, 1] [5, 1, 0]) := by decide +kernel

theorem witness_CanControllersAndFrames_time :
    let m := bus { ctl := 0x8000_0000, state := .active, tmCfg := 0x7F80_0005 } (live 5)
    let f := bus { state := .active, tmCfg := 0x8000_0001, tm := { st := .acquiring, last := some (6, 1999999), since := 0 } } (live 5)
    let x := m.canCtl 7
    x.en = true ∧ x.tmRole = 1 ∧ x.mode = 0 ∧ x.conflict = false ∧ m.t % max 1 x.refDiv = 0 ∧ x.refT ≠ some m.t ∧
      m.rtl.role ≠ .second ∧ x.live = true ∧ (f.canCtl 7).live = true ∧ (f.canCtl 7).tmRole = 2 ∧
      (f.canCtl 7).tm.last = some (6, 1999999) ∧ (6 : Nat) ≠ 0xFFFF ∧ (f.canCtl 7).tm.st = .acquiring ∧
      (f.canCtl 7).tm.since + 3 * (f.canCtl 7).refDiv * tickLen < boundaryOf (f.t + 1) ∧
      boundaryOf ((live 2).t + 1) ≤ (f.canCtl 7).tm.since + 3 * (f.canCtl 7).refDiv * tickLen := by decide +kernel

theorem witness_TimeModelFollowsR320 :
    let x : TimeModel := { st := .acquiring }
    let one : TimeModel := { st := .acquiring, pairs := 1, o := 400, m0 := 10, lastM := 10 }
    let two : TimeModel := { one with pairs := 2 }
    let r := fun (y : TimeModel) (a : Nat) => (a : Int) - y.mapped 11
    x.pairs = 0 ∧ x.st = .acquiring ∧ one.pairs = 1 ∧ (11 : Int) ≠ one.m0 ∧ 1 < two.pairs ∧ two.st ≠ .off ∧
      (11 : Int) ≠ two.lastM ∧ (r two 840).natAbs ≤ 400 ∧ 400 < (r two 841).natAbs ∧
      (r { two with st := .locked } 4440).natAbs ≤ 4000 ∧ 4000 < (r { two with st := .lost } 4441).natAbs := by
  decide +kernel

theorem witness_CanOperationsFollowTheirChecks_maps :
    let c := ref 2 16 [255, 1]
    let s := posted 9 0 2 16 [255, 1] (live 5)
    let o := holding (wordBytes [0x8000_0000, 1, 0, 0]) s
    let m := ref 1 16 [255, 1]
    let e := loadEntries 1 (bufferOf c s)
    c.ring = (0 : Fin 32).val ∧ takes 9 0 2 .serial c s = true ∧
      takes 9 0 1 .serial m (posted 9 0 1 16 [255, 1] (live 5)) = true ∧
      0 < bitsOf (c.op.word 7) 8 0 ∧ bitsOf (c.op.word 6) 7 0 + bitsOf (c.op.word 7) 8 0 ≤ 256 ∧
      bufferOpen 0x27 false c.op.addr c.op.len s = true ∧ e.all (entryFits true s) = true ∧
      slotsDisjoint (e.zipIdx.foldl (fun t q => Tab.put t (255 + q.2) q.1) s.can.txMap) = true ∧
      (loadEntries 1 (bufferOf c o)).all (entryFits true o) = false ∧
      takes 9 0 1 .serial (ref 1 16 [255, 2]) (posted 9 0 1 16 [255, 2] (live 5)) = true ∧
      256 < bitsOf ((ref 1 16 [255, 2]).op.word 6) 7 0 + bitsOf ((ref 1 16 [255, 2]).op.word 7) 8 0 := by decide +kernel

theorem witness_CanOperationsFollowTheirChecks_frames :
    let c := ref 0x10 0 [0x8000_00FF, 7]
    let bad := ref 0x10 0 [0x8000_0100, 7]
    let f := fun (len t : Nat) => ref 0x20 len [7, 0, 0, 0, t, 0, 1]
    let s := fun (len t : Nat) => posted 9 1 0x20 len [7, 0, 0, 0, t, 0, 1] (live 5)
    takes 9 0 0x10 .serial c (posted 9 0 0x10 0 [0x8000_00FF, 7] (live 5)) = true ∧
      (∀ p ∈ (List.range 5).filterMap (fun i => (slotPair c.op i).map fun p => (i, p)), p.2.1 ≤ 255) ∧
      takes 9 0 0x10 .serial bad (posted 9 0 0x10 0 [0x8000_0100, 7] (live 5)) = true ∧
      (∃ p ∈ (List.range 5).filterMap (fun i => (slotPair bad.op i).map fun p => (i, p)), 255 < p.2.1) ∧
      takes 9 1 0x20 .perController (f 8 5) (s 8 5) = true ∧ (f 8 5).op.word64 10 ≠ 0 ∧
      (f 8 5).op.word64 10 ≤ (s 8 5).t ∧
      takes 9 1 0x20 .perController (f 9 6) (s 9 6) = true ∧ (s 9 6).t < (f 9 6).op.word64 10 ∧
      lengthFits false false 9 = false ∧
      lengthFits false false 8 = true ∧ bitsOf ((f 8 6).op.word 12) 15 0 ≠ 0 ∧
      bufferOpen 0x27 false (f 8 6).op.addr (f 8 6).op.len (s 8 6) = true ∧
      takes 9 2 0x30 .parallel (ref 0x30 2079 []) (posted 9 2 0x30 2079 [] (live 5)) = true := by decide +kernel

theorem witness_CanOperationsFollowTheirChecks_timeout :
    let a : List Nat := [7, 0, 0, 0, 0, 0, 1]
    let s := started 9 1 0x20 8 a [5, 1, 0] (live 5)
    let c := running 0x20 8 a [5, 1, 0]
    s.frameTxOp 7 = some c ∧ (s.canCtl 7).bus = none ∧
      ((bus { bus := some (.frameTx, 9) } s).canCtl 7).bus = some (.frameTx, 9) ∧
      boundaryOf ((live 5).t + 1) ≤ boundaryOf (c.op.aux.getD 0 0 + bitsOf (c.op.word 12) 15 0) ∧
      boundaryOf (c.op.aux.getD 0 0 + bitsOf (c.op.word 12) 15 0) < boundaryOf ((live 6).t + 1) ∧
      (live 5).frameTxOp 7 = none := by decide +kernel

/-! ### Cornice panel port -/

/-- 16 by 8 dots, a frame of 8 ticks, every region one dot; the OLED panel; and ascending bands. -/
def panelCfg : List Word := [0x0008_0008, 16, 0x0064_0064, 10] ++ List.replicate 12 0 ++ List.replicate 16 0x0000_0101
def oledCfg : List Word := 0x8008_0008 :: panelCfg.tail
def bandTab : Tab Word := (List.range 7).map fun b => (b, wordOf (b * 65536))

/-- PNL in this state with it. -/
def panel (st : PnlState) (s : State) : State :=
  { s with pnl.state := st, pnl.cfg := panelCfg, pnl.en := true, pnl.bands := bandTab }

theorem witness_PanelFramesFollowTheirTicks :
    let s := panel .run (live 16)
    let n := panel .run (live 8)
    let p := { s with pnl.stopping := true }
    let f := { n with pnl.first := some 16 }
    let k := { s with pnl.fbTmo := 1, pnl.kickT := 6 }
    let l := { s with pnl.fbTmo := 1, pnl.kickT := 7 }
    s.pdOn 12 = true ∧ s.pnl.state = .run ∧ 0 < s.pnl.frameLen ∧ s.t % s.pnl.frameLen = 0 ∧ s.pnl.frameT ≠ some s.t ∧
      p.pnl.stopping = true ∧ (p.t / p.pnl.frameLen % 2 == 0) = true ∧ s.pnl.first = none ∧ s.pnl.stopping = false ∧
      (n.t / n.pnl.frameLen % 2 == 0) = false ∧ f.pnl.first = some 16 ∧ f.pnl.stopping = false ∧
      (panel .run (live 15)).t % 8 ≠ 0 ∧ k.pnl.fbTmo ≠ 0 ∧ k.pnl.kickT + 10 * k.pnl.fbTmo ≤ k.t ∧
      l.t < l.pnl.kickT + 10 * l.pnl.fbTmo ∧ k.pnl.expired = none ∧
      ({ k with pnl.expired := some 3 } : State).pnl.expired ≠ none ∧
      10 ≤ ({ s with pnl.limitTicks := 10 } : State).pnl.limitTicks ∧ s.pnl.limitTicks < 10 ∧
      (panel .loaded (live 16)).pnl.state ≠ .empty ∧ (live 16).pnl.state = .empty ∧ (live 5).pnl.state ≠ .run ∧
      opens s0 12 (live 5) = true ∧
      bitOf (0xFFFF_FFFF : Word) 31 = true ∧ bitOf (0 : Word) 31 = false := by decide +kernel

/-- A positive frame start with a band latched in the tick before. -/
def bandFrame : State := { panel .run (live 16) with pnl.pend := some (3, 15), pnl.cfg := [0x0008_0000] }

theorem witness_PanelFramesFollowTheirTicks_band :
    (panelFrame bandFrame).pnl.band = 3 ∧ bandFrame.pnl.band ≠ 3 ∧
      exec .panelFrameStart bandFrame = .next (panelFrame bandFrame) := by
  refine ⟨by decide +kernel, by decide +kernel, ?_⟩
  have h : bandFrame.pdOn 12 = true := by decide +kernel
  show whileOn 12 bandFrame panelFrame = _
  unfold whileOn; rw [if_pos h]

theorem witness_PanelOperationsFollowTheirChecks_config :
    let c := ref 1 128 []
    let s := holding (wordBytes panelCfg) (posted 10 0 1 128 [] (live 5))
    let b := posted 10 0 1 128 [] (live 5)
    c.ring = (0 : Fin 32).val ∧ takes 10 0 1 .serial c s = true ∧ s.pnl.state ≠ .run ∧ (panel .run s).pnl.state = .run ∧
      bufferOpen 0x28 false c.op.addr 128 s = true ∧
      pnlFault (maskWords pnlCfgMask (leWords 32 (bufferOf c s))) = none ∧
      pnlFault (maskWords pnlCfgMask (leWords 32 (bufferOf c b))) = some (1, 0) := by decide +kernel

theorem witness_PanelOperationsFollowTheirChecks_start :
    let go := fun (v : Nat) => ref 2 0 [v, 0]
    let s := fun (v : Nat) => panel .loaded (posted 10 0 2 0 [v, 0] (live 5))
    let bad := { s 6 with pnl.bands := [(0, 0), (1, 0x0001_0000), (2, 0x0001_0000)] }
    takes 10 0 2 .serial (go 5) (s 5) = true ∧ (live 5).pnl.state ≠ .loaded ∧ (s 5).pnl.state = .loaded ∧
      (s 5).pnl.en = true ∧
      (∀ k, k < 6 → (s 5).pnl.upper k < (s 5).pnl.upper (k + 1)) ∧ (go 5).op.word64 6 ≠ 0 ∧
      (go 5).op.word64 6 ≤ (s 5).t ∧
      (s 6).t < (go 6).op.word64 6 ∧ bad.pnl.upper 2 ≤ bad.pnl.upper 1 ∧
      (∀ j, j < 1 → bad.pnl.upper j < bad.pnl.upper (j + 1)) ∧
      takes 10 0 3 .serial (ref 3 0 []) (posted 10 0 3 0 [] (live 5)) = true := by decide +kernel

theorem witness_PanelOperationsFollowTheirChecks_stress :
    let c := ref 4 256 []
    let s := panel .loaded (posted 10 0 4 256 [] (live 5))
    let o := { s with pnl.cfg := oledCfg }
    let r := posted 10 0 5 256 [] (live 5)
    takes 10 0 4 .serial c s = true ∧ (live 5).pnl.state ≠ .loaded ∧ s.pnl.oled = false ∧ o.pnl.oled = true ∧
      bufferOpen 0x28 false c.op.addr 256 o = true ∧ takes 10 0 5 .serial (ref 5 256 []) r = true ∧
      bufferOpen 0x28 true (ref 5 256 []).op.addr (stressRegions.flatMap fun j => leBytes 4
        (Tab.get 0 r.pnl.stress j)).length r = true := by
  decide +kernel

theorem witness_PanelOperationsFollowTheirChecks_region :
    let c := ref 0x10 1 [0x10F]
    let s := panel .run (posted 10 1 0x10 1 [0x10F] (live 5))
    let st := { s with pnl.cfg := [0x0008_0008, 0x000F_0010, 0x8064_0064] ++ panelCfg.drop 3 }
    let busy := { s with pnl.shadow := [(31, [0])] }
    let w := { started 10 1 0x10 1 [0x10F] [31, 0] (panel .run (live 5)) with pnl.shadow := [(31, [0])] }
    takes 10 1 0x10 .parallel c s = true ∧ 0 < c.op.len ∧ (live 5).pnl.state ≠ .run ∧ bitsOf (c.op.word 6) 3 0 = 15 ∧
      bitOf (c.op.word 6) 8 = true ∧ st.pnl.statEn = true ∧ st.pnl.statId = 15 ∧ s.pnl.statEn = false ∧
      c.op.len = s.pnl.rw 15 * s.pnl.rh 15 ∧ (2 : Nat) ≠ s.pnl.rw 15 * s.pnl.rh 15 ∧ Tab.find s.pnl.shadow 31 = none ∧
      bufferOpen 0x28 false c.op.addr 1 s = true ∧ (Tab.find busy.pnl.shadow 31).isSome = true ∧
      regionOp { busy with pnl.kickT := busy.t, pnl.expired := none } 31 0 = none ∧
      (regionOp { w with pnl.kickT := w.t, pnl.expired := none } 31 0).isSome = true := by decide +kernel

/-! ### Power and the governor -/

/-- Cold, with this arming in PD0; and Bivouac. -/
def cold (armed : Word) : State := { State.reset with mode := .cold, pd := 1, pwr.armed := armed }
def bivouac (b : BivBooks) : State := { State.reset with mode := .bivouac, pd := 3, pwr.books := b }

theorem witness_WakingEntersRun :
    armedIn .cold 0x0100_0000 false (.wkInput 0) = true ∧ armedIn .cold 0x4000 false (.can 0) = true ∧
      armedIn .cold 0xFFFF_FFFF false (.can 7) = false ∧ armedIn .bivouac 0x0080_0000 false (.can 7) = true ∧
      armedIn .bivouac 0x4000_0000 true .movement = true ∧ armedIn .bivouac 0x4000_0000 false .movement = false ∧
      (cold 0).mode = .cold ∧ (bivouac {}).mode = .bivouac ∧ armedIn .descent 0 false .ignition = true ∧
      armedIn .descent 0 false .movement = false ∧ ({ live 5 with mode := .fixedRope } : State).mode = .fixedRope ∧
      (live 5).mode = .run ∧ (live 5).start ≠ .entry ∧ ({ live 5 with mode := .descent } : State).mode = .descent ∧
      6000 ≤ 6000 ∧ (live 5).mode ≠ .cold ∧ 5999 < 6000 ∧
      ({ live 5 with start := .timeBase } : State).start = .timeBase ∧ (live 5).start ≠ .timeBase := by decide +kernel

/-- Descent at tick `t` begun at tick 5, in this step. -/
def descending (step t : Nat) : State := { live t with mode := .descent, pwr.dstep := step, dsc.td := 5 }

theorem witness_DescentRunsInItsSteps :
    let s := { live 200 with pwr.idleTicks := 101 }
    let h := { live 600005 with pwr.wakeHold := true, pwr.holdT := 5 }
    let g := { descending 4 505 with gts := 505 * 400000 + 1 }
    let r := { descending 5 505 with dsc.runs := some (3, 500), dsc.step5 := some 499 }
    opens s0 1 (live 5) = true ∧ bitOf (1 : Word) 0 = true ∧ bitOf (2 : Word) 1 = true ∧ (live 5).start = .ready ∧
      (descending 4 5).pwr.dstep = 4 ∧ (cold 0).mode ≠ .run ∧ s.pwr.hold = false ∧ inputsIdle s = true ∧
      s.pwr.ignDeb * 10 < s.pwr.idleTicks ∧ s.gts = boundaryOf s.t ∧ g.gts ≠ boundaryOf g.t ∧
      ({ s with pwr.idleTicks := 100 } : State).pwr.idleTicks ≤ s.pwr.ignDeb * 10 ∧ h.pwr.wakeHold = true ∧
      h.pwr.holdT + 600000 ≤ h.t ∧ (live 600004).t < h.pwr.holdT + 600000 ∧ g.pwr.graceEnd = none ∧
      g.dsc.td + graceTicks g.pwr ≤ g.t ∧ (descending 4 504).t < g.dsc.td + graceTicks g.pwr ∧
      pitchesLeft (descending 5 505) = false ∧ pitchesLeft r = true ∧ r.dsc.runs = some (3, 500) ∧
      (descending 5 6005).dsc.td + 6000 ≤ (descending 5 6005).t ∧ (descending 5 6004).t < 5 + 6000 := by decide +kernel

theorem witness_WatchdogAndSupplyEvents :
    let s := { live 25 with pwr.beatT := 5, pwr.frope := false, pwr.fropeArmed := true }
    let u := { s with rtl.twinUp := true, rtl.state := .lead }
    let h := { s with lsw.bankA.hold := some 0 }
    s.tick.running = true ∧ s.mode = .run ∧ s.start ≠ .entry ∧ s.pwr.beatT + s.pwr.wdog ≤ s.t ∧ u.rtl.twinUp = true ∧
      u.rtl.state ≠ .off ∧ s.rtl.twinUp = false ∧ (live 24).t < s.pwr.beatT + s.pwr.wdog ∧ s.pwr.frope = false ∧
      s.pwr.fropeArmed = true ∧ (live 5).start = .ready ∧ (cold 0).mode ≠ .run ∧ s.mode ≠ .cold ∧ 3199 < 3200 ∧
      h.lsw.bankA.hold ≠ none ∧ 4499 < 4500 ∧ s.lsw.bankA.hold = none ∧ s.lsw.bankB.hold = none ∧
      s.pwr.overvolt = false ∧ 36000 < 36001 ∧ ({ s with pwr.overvolt := true } : State).pwr.overvolt = true ∧
      descentStarts (cold 0) = false ∧ (14 : Fin 16) ≠ 0 ∧ (14 : Fin 16) ≠ 15 ∧ (cold 0).mode = .cold ∧ 500 < 501 ∧
        ({ s with pwr.gndOpen := true } : State).pwr.gndOpen = true := by decide +kernel

theorem witness_BivouacKeepsItsBooks :
    let s := { bivouac { account := 6 } with biv.period := 1 }
    let b := { s with biv.phase := .burst }
    let n := { s with biv.phase := .snapshot }
    s.mode = .bivouac ∧ s.biv.wait = 0 ∧ s.biv.period ≠ 0 ∧ s.biv.phase = .idle ∧ 6 ≤ s.pwr.books.account ∧
      2 ≤ (bivouac { account := 2 }).pwr.books.account ∧ (bivouac { account := 5 }).pwr.books.account < 6 ∧
      (∀ k, (bivouac { account := 2 }).pwr.books.sinceSnap = some k → s.pwr.snapGap ≤ k) ∧
      (∃ n, (bivouac { account := 2, sinceSnap := some 0 }).pwr.books.sinceSnap = some n ∧
      n < ({ s with pwr.bivCfg := 0xFFFF_FFFF } : State).pwr.snapGap) ∧
      (bivouac { account := 1 }).pwr.books.account < 2 ∧ ({ s with biv.wait := 1 } : State).biv.wait ≠ 0 ∧
      b.biv.phase = .burst ∧ n.biv.phase = .snapshot ∧ s.pwr.books.allow ≤ s.pwr.books.spent ∧
      (bivouac { allow := 8, spent := 7 }).pwr.books.spent < (bivouac { allow := 8, spent := 7 }).pwr.books.allow ∧
      (bivouac { beaconDue := true }).pwr.books.beaconDue = true ∧ s.pwr.books.beaconDue = false := by
  refine ⟨rfl, rfl, by decide, rfl, by decide +kernel, by decide +kernel, by decide +kernel, ?_,
    ⟨0, by decide +kernel⟩, by decide +kernel, by decide, rfl, rfl, by decide, by decide, rfl, rfl⟩
  intro k h; cases h

/-- The governor at the end of a period of 100 ticks at 100 W. -/
def period (g : Gov) : State := { live 300 with pwr.gov := { g with ticks := 100, sum := 100000, endT := 200 } }

theorem witness_GovernorDefersAndRestores :
    let j : GovJob := { cls := 3, bank := some true, cost := 20, feed := 1 }
    let hot := period { temp := some 950, jobs := [(15, j)] }
    let full := period { temp := some 950 }
    let back := period { temp := some 0, ladder := [(.band 1, 6)], qual := 9 }
    let tight := period { temp := some 0, ladder := [(.job 3, 51)] }
    let p : Rat := 1000
    hot.mode = .run ∧ hot.start = .ready ∧ hot.t % 100 = 0 ∧ hot.pwr.gov.endT ≠ hot.t ∧ hot.pwr.gov.ticks ≠ 0 ∧
      (hot.pwr.gov.sum : Rat) / (hot.pwr.gov.ticks : Nat) = p ∧ allowAt 950 < p ∧
      nextItem hot = some (.job 15, 20) ∧ nextItem full = none ∧ p ≤ allowAt 0 ∧ back.pwr.gov.ladder = [(.band 1, 6)] ∧
      p + 6 + 50 ≤ allowAt 0 ∧ 10 ≤ back.pwr.gov.qual + 1 ∧ (8 : Nat) + 1 < 10 ∧ allowAt 0 < p + 51 + 50 ∧
      tight.pwr.gov.ladder = [(.job 3, 51)] ∧ (live 301).t % 100 ≠ 0 := by decide +kernel

theorem witness_GovernorDefersAndRestores_banks :
    let j : GovJob := { cls := 3, bank := some true, cost := 20, feed := 1 }
    let s := { live 5 with pwr.gov.jobs := [(15, j)], pwr.gov.overB := 10 }
    let r := { live 5 with pwr.gov.jobs := [(15, { j with bankDef := true, room := 1000 })] }
    let c := fun (w : Nat) => ref 1 0 [w, 20, 1]
    let at' := fun (w : Nat) (u : State) => posted 11 0 1 0 [w, 20, 1] u
    bankVictim (Bank.b == .b) s = some 15 ∧ Tab.find s.pwr.gov.jobs 15 = some j ∧ 10 ≤ s.pwr.gov.overB ∧
      s.pwr.gov.overA < 10 ∧ Tab.find r.pwr.gov.jobs 15 = some { j with bankDef := true, room := 1000 } ∧
      j.bankDef = false ∧ takes 11 0 1 .serial (c 0x0F) (at' 0x0F (live 5)) = true ∧ bitsOf (0x0F : Word) 9 8 = 0 ∧
      takes 11 0 1 .serial (c 0x330F) (at' 0x330F s) = true ∧ bitsOf (0x330F : Word) 9 8 ≠ 0 ∧
      bitsOf (0x330F : Word) 3 0 = 15 ∧
      Tab.find (at' 0x330F (live 5)).pwr.gov.jobs 15 = none ∧ (Tab.find (at' 0x330F s).pwr.gov.jobs 15).isSome = true ∧
      takes 11 0 2 .serial (ref 2 0 [15]) (posted 11 0 2 0 [15] s) = true := by decide +kernel

theorem witness_GovernorDefersAndRestores_read :
    let s := { posted 11 0 3 256 [] (live 5) with pwr.gov.snap := zeros 256 }
    takes 11 0 3 .serial (ref 3 256 []) s = true ∧
      bufferOpen 0x29 true (ref 3 256 []).op.addr
        (if s.pwr.gov.snap = [] then govBooks s else s.pwr.gov.snap).length s = true := by
  decide +kernel

/-! ### Rope team -/

/-- A module in the team in this role and state. -/
def team (ro : Role) (st : TeamState) (t : Nat) : State :=
  { live t with rtl.role := ro, rtl.state := st, rtl.en := true, rtl.upA := true, rtl.twinUp := true }

theorem witness_TeamHearsItsTwin :
    let w : TickWord := { serial := 1, tick := 4, state := 2, pos := 0, tb := true, ready := true }
    let q : Witness := { state := 2, pos := 0, link := true, heard := true, tick := 5 }
    let s := team .second .second 5
    let l := team .lead .lead 5
    let c := (s.setCan 0 { state := .active })
    let n := { s with rtl.wordT := [4, 3, 2], rtl.twinUp := false }
    s.tick.running = true ∧ s.mode = .run ∧ readWord (wordBits w) = some w ∧ readWord (wordBits w ^^^ 1) = none ∧
      w.tb = true ∧ s.rtl.left = false ∧ s.rtl.role = .second ∧ l.rtl.role = .lead ∧ s.pdOn 11 = true ∧
      inTeam s = true ∧
      Copy.missing ≠ .good ∧ Copy.bad ≠ .good ∧ (live 5).rtl.role ≠ .second ∧ (0 : Fin 8).val ∈ witnessCtrls c ∧
      (c.canCtl 0).live = true ∧ q.tick = c.t % 2 ^ 32 ∧ c.gts = boundaryOf c.t ∧ 0 < c.t ∧
      { q with tick := 4 }.tick = (c.t - 1) % 2 ^ 32 ∧ (4 : Nat) ≠ c.t % 2 ^ 32 ∧ goodBeat.aligned = true ∧
      { goodBeat with aligned := false }.aligned = false ∧ follows { s with rtl.aligned := false } = true ∧
      follows l = false ∧ (7 : Fin 8).val ∉ witnessCtrls c ∧ s.rtl.role ≠ .lone ∧
      s.rtl.witT ≠ some s.t ∧ twinUpNow n ≠ n.rtl.twinUp ∧ twinUpNow (live 5) = (live 5).rtl.twinUp ∧
      s.rtl.upA ≠ false ∧
      s.rtl.upB ≠ true ∧ ({ s with rtl.wingEn := true } : State).rtl.upWing ≠ true ∧
      ({ s with rtl.inBound := 1000 } : State).rtl.inBound = 1000 ∧ s.rtl.aligned = false ∧ s.rtl.inBound < 1000 ∧
      10 ≤ ({ s with rtl.aligned := true, rtl.unmeasured := 10 } : State).rtl.unmeasured ∧ s.rtl.outBound < 10 := by
  decide +kernel

theorem witness_TickWordsAndTheWing :
    let w : TickWord := { serial := 1, tick := 5, state := 3, pos := 1, tb := true, ready := true }
    let lower := { w with pos := 3 }
    let l := { team .lead .lead 5 with rtl.upWing := true, ropePos := 2 }
    w.serial < 2 ^ 64 ∧ w.tick < 2 ^ 46 ∧ w.state < 8 ∧ w.pos < 4 ∧ readWord (wordBits w) = some w ∧
      readWord (wordBits lower) = some lower ∧ l.tick.running = true ∧ l.mode = .run ∧ l.rtl.role = .lead ∧
      l.rtl.left = false ∧ l.rtl.upWing = true ∧ l.pdOn 11 = true ∧ w.tb = true ∧ outranks w l = true ∧
      outranks lower l = false ∧ (team .second .second 5).rtl.role ≠ .lead := by decide +kernel

theorem witness_TheLeadPassesByTheRules :
    let w : Witness := { state := 2, pos := 0, link := true, heard := false, tick := 4 }
    let s := team .second .second 5
    let l := { team .lead .lead 5 with rtl.last := { wit := some w } }
    let h := { team .lead .lead 35 with rtl.hoT := some 40, rtl.confirmed := true }
    let x := { team .lead .lead 40 with rtl.hoT := some 40, rtl.commit := true }
    let y := { team .second .second 40 with rtl.hoT := some 40, rtl.commit := true }
    let d := { team .lead .lead 39 with rtl.hoT := some 40, rtl.commit := true, lsw.drive := true }
    inTeam s = true ∧ s.rtl.last.frame = false ∧ s.rtl.last.wit = none ∧ s.rtl.since < s.t ∧
      (live 5).rtl.role ≠ .second ∧
      inTeam l = true ∧ l.rtl.state ≠ .alone ∧ l.rtl.last.beat = false ∧ l.rtl.last.wit = some w ∧ w.heard = false ∧
      s.rtl.role ≠ .lead ∧ h.rtl.hoT = some 40 ∧ h.rtl.role = .lead ∧ h.rtl.commit = false ∧ h.t + 5 = 40 ∧
      h.rtl.confirmed = true ∧ x.rtl.hoT = some x.t ∧ x.rtl.state = .lead ∧ y.rtl.hoT = some y.t ∧
      y.rtl.state = .second ∧
      s.rtl.hoT ≠ some s.t ∧ pairUp s = true ∧ s.rtl.role ≠ .lone ∧ pairUp (live 5) = false ∧ d.lsw.drive = true ∧
      withdrawDue d = true ∧ withdrawDue h = false ∧
      ({ h with rtl.grantT := some 35, lsw.drive := false } : State).lsw.drive = false ∧
      s.rtl.grantT ≠ some s.t := by decide +kernel

theorem witness_TheLeadPassesByTheRules_handover :
    let c := fun (th : Nat) => ref 1 0 [th, 0]
    let s := fun (th : Nat) (u : State) => posted 12 0 1 0 [th, 0] u
    let b : UpdBeat := { pkg := 0, staged := false, state := 0, deadline := 0, done := false, cause := 0, old := false }
    let l := { team .lead .lead 20 with rtl.beatIn := some { tick := 20, state := 2, aligned := true, confirm := false, upd := b } }
    takes 12 0 1 .serial (c 41) (s 41 l) = true ∧ (c 41).op.word64 6 % 40 ≠ 0 ∧ (c 0).op.word64 6 % 40 = 0 ∧
      (c 0).op.word64 6 < (s 0 l).t + 20 ∧ (s 40 l).t + 20 ≤ (c 40).op.word64 6 ∧
      ((s 40 l).rtl.state = .lead ∧ (s 40 l).rtl.beatIn.any (fun h => h.aligned) = true ∧ (s 40 l).rtl.hoT = none ∧
        (s 40 l).rtl.left = false ∧ (s 40 l).rtl.twinUp = true) ∧
      (s 40 (live 20)).rtl.state ≠ .lead := by decide +kernel

theorem witness_CheckpointsAndTeamControl :
    let c := ref 0x10 1 [0xFFFF]
    let s := posted 12 1 0x10 1 [0xFFFF] (team .lead .lead 5)
    let p := started 12 2 0x20 65600 [] [] (team .second .second 5)
    let w := ((live 5).setCan 0 { ctl := 0x8000_0000, state := .active, nbt := 0x0102_0101 })
    takes 12 1 0x10 .serial c s = true ∧ 1 ≤ c.op.len ∧ c.op.len ≤ 65536 ∧ s.rtl.state = .lead ∧ pairUp s = true ∧
      bufferOpen 0x2A false c.op.addr 1 s = true ∧ pairUp (posted 12 1 0x10 1 [] (live 5)) = false ∧
      (live 5).rtl.state ≠ .lead ∧ (live 5).rtl.state ≠ .second ∧
      takes 12 2 0x20 .parallel (ref 0x20 65599 []) (posted 12 2 0x20 65599 [] (live 5)) = true ∧
      p.tick.running = true ∧ p.mode = .run ∧ p.rtl.left = false ∧
      p.poolBuffer 12 2 0x20 = some (running 0x20 65600 [] []) ∧
      bufferOpen 0x2A true (running 0x20 65600 [] []).op.addr 65 p = true ∧ (live 5).poolBuffer 12 2 0x20 = none ∧
      opens s0 11 (live 5) = true ∧ bitOf (0x8000_0000 : Word) 31 = true ∧
      bitOf (0x8000_0000 : Word) 30 = (live 5).rtl.wingEn ∧
      (live 5).rtl.en = false ∧ (live 5).rtl.upWing = false ∧ enableFault w = 0 ∧ w.rtl.state = .off ∧
      enableFault (live 5) ≠ 0 ∧ s.rtl.en = true ∧ bitOf (0x4000_0000 : Word) 30 ≠ s.rtl.wingEn ∧
      bitOf (0 : Word) 30 = s.rtl.wingEn ∧ bitOf (0 : Word) 31 = false := by decide +kernel

/-! ### Field update -/

/-- A module whose boot record is in this state, with GPS time mapped and an instant at tick 4. -/
def updating (b : UpdState) (t : Nat) : State :=
  { live t with
    boot.state := b, boot.pkgOther := 9, upd.quiet := 1, upd.quietMin := 1, upd.quietRun := 3, upd.when' := 1600000
    gnb.tmap.st := .locked, gnb.tmap.g0 := 400000, gnb.tmap.t0 := 1000000 }

/-- A header: MAGIC, PKG_ID 7, one part, TEAM_SAFE, key 0. -/
def header : List Byte := wordBytes [0x57454B31, 7, 0x0101_0002, 0] ++ List.replicate 240 0

/-- The words STAGE keeps for a package with one part: an image of 1 byte for kind 1 and position 0. -/
def oneImage (digest : Nat) : List Nat :=
  [0, 7, 2] ++ ([0, 1, 0, 0, 1, 0, 0, 0, 0, 2, 0, 0, 0, 0, 0,
    0] ++ List.replicate 31 0 ++ [digest] ++ List.replicate 16 0)

theorem witness_UpdatesAreStagedActivatedAndJudged_stage :
    let c := ref 1 512 []
    let s := posted 13 0 1 512 [] (live 5)
    let g := holding header s
    c.ring = (0 : Fin 32).val ∧ takes 13 0 1 .serial c s = true ∧ takes 13 0 1 .serial c g = true ∧
      takes 13 0 1 .serial (ref 1 511 []) (posted 13 0 1 511 [] (live 5)) = true ∧ 512 ≤ c.op.len ∧
      (updating .scheduled 5).boot.state ≠ .idle ∧ (updating .scheduled 5).boot.state ≠ .staged ∧ s.boot.state = .idle ∧
      bufferOpen 0x2B false c.op.addr 256 s = true ∧ pkgHeaderOk (Memory.getMany s.mem c.op.addr 256) = false ∧
      pkgHeaderOk (Memory.getMany g.mem c.op.addr 256) = true ∧
      256 + 64 * recNat (Memory.getMany g.mem c.op.addr 256) 11 1 ≤ c.op.len ∧
      bufferOpen 0x2B false (c.op.addr + 256) 64 g = true := by decide +kernel

theorem witness_UpdatesAreStagedActivatedAndJudged_schedule :
    let c := fun (p : Nat) => ref 2 0 [2000000, 0, p]
    let s := fun (p : Nat) => posted 13 0 2 0 [2000000, 0, p] (updating .staged 5)
    let unmapped := { s 9 with gnb.tmap.st := .none' }
    takes 13 0 2 .serial (c 9) (s 9) = true ∧ (s 9).boot.state = .staged ∧ (s 9).rtl.role ≠ .second ∧
      (updating .idle 5).boot.state ≠ .staged ∧ ((c 9).op.word 8).toNat = (s 9).boot.pkgOther ∧ (s 9).upd.quiet ≠ 0 ∧
      ((c 8).op.word 8).toNat ≠ (s 8).boot.pkgOther ∧ ((s 9).rtl.role = .lead → False) ∧
      unmapped.gtsOf ((c 9).op.word64 6) = none := by decide +kernel

theorem witness_UpdatesAreStagedActivatedAndJudged_mapped :
    ∃ g, (posted 13 0 2 0 [2000000, 0, 9] (updating .staged 5)).gtsOf ((ref 2 0 [2000000, 0,
      9]).op.word64 6) = some g :=
  ⟨_, rfl⟩

theorem witness_UpdatesAreStagedActivatedAndJudged_rest :
    let s := updating .scheduled 4
    takes 13 0 3 .serial (ref 3 0 []) (posted 13 0 3 0 [] s) = true ∧ s.boot.state = .scheduled ∧
      (updating .idle 4).boot.state ≠ .scheduled ∧ (updating .idle 4).boot.state ≠ .waiting ∧ s.rtl.role ≠ .second ∧
      instantAt s = some 1600000 ∧ 1600000 < boundaryOf (s.t + 1) ∧ instantAt (updating .scheduled 3) = some 1600000 ∧
      boundaryOf ((updating .scheduled 3).t + 1) ≤ 1600000 ∧ s.pdOn 2 = true ∧ stageOp s = none := by decide +kernel

theorem witness_UpdatesAreStagedActivatedAndJudged_images :
    let s := started 13 0 1 512 [] (oneImage 1) (live 5)
    let e := started 13 0 1 512 [] [0, 7, 2] (live 5)
    let c := running 1 512 [] (oneImage 1)
    let table := (c.op.aux.drop 3).map fun n => BitVec.ofNat 8 n
    let own := partKinds.filterMap fun k => partFor (partTable (table.length / 64) table) s.ropePos k
    stageOp s = some c ∧ bufferOpen 0x2B false c.op.addr c.op.len s = true ∧
      ((own.filter fun p => p.mode == 0).all fun p => sha256 (imageOf (bufferOf c s) p) == p.digest) = false ∧
      stageOp e = some (running 1 512 [] [0, 7, 2]) := by decide +kernel

theorem witness_UpdatesAreStagedActivatedAndJudged_activation :
    let w := updating .waiting 5
    let l := { w with rtl.role := .lead, rtl.state := .lead, boot.team := true }
    let p := { updating .activating 5 with rtl.role := .second, boot.step := 1 }
    let c := { updating .trial 5 with upd.commitT := some 3 }
    let d := { updating .trial 5 with boot.deadline := 2000001 }
    let e := { updating .trial 5 with boot.deadline := 1999999 }
    let r := { updating .trial 5 with upd.judged := some (1, 5), boot.moved := true }
    w.pdOn 2 = true ∧ w.tick.running = true ∧ w.mode = .run ∧ w.start = .ready ∧ w.gts = boundaryOf w.t ∧
      w.boot.state = .waiting ∧ instantPast w = true ∧ quiet w = true ∧ w.rtl.role = .lone ∧ w.boot.team = false ∧
      l.rtl.role = .lead ∧ l.rtl.state = .lead ∧ l.boot.team = true ∧ instantPast l = true ∧ quiet l = true ∧
      p.rtl.role = .second ∧ p.boot.state = .activating ∧ p.boot.step = 1 ∧ p.boot.moved = false ∧
      (let v := { w with rtl.role := .second, boot.team := true }
      v.rtl.role = .second ∧ v.boot.team = true ∧ instantPast v = true ∧ quiet v = true) ∧
      (updating .staged 5).boot.state ≠ .waiting ∧ c.boot.state = .trial ∧ c.rtl.role ≠ .second ∧ c.upd.judged = none ∧
      c.upd.commitT = some 3 ∧ 3 + 2 ≤ c.t ∧ d.boot.deadline < boundaryOf (d.t + 1) ∧
      (d.advance d.boot.deadline).gts ≠ boundaryOf d.t ∧ (e.advance e.boot.deadline).gts = boundaryOf e.t ∧
      e.upd.judged = none ∧ e.upd.commitT = none ∧ causeSeen e = 0 ∧ e.boot.team = false ∧
      boundaryOf (d.t + 1) ≤ ({ d with boot.deadline := 2400000 } : State).boot.deadline ∧ r.upd.judged = some (1, 5) ∧
      5 ≤ r.t ∧ (reversion r).boot.liveB ≠ (reversion r).upd.runB ∧ r.rtl.role = .lone ∧ r.boot.team = false ∧
      (let f := { goodTickFrame with upd := { goodUpd with notice := 5 } }
      let v := { updating .trial 5 with
        rtl.role := .second, boot.team := true, rtl.last.frame := true, rtl.frameIn := some f }
      v.rtl.role = .second ∧ v.boot.team = true ∧ v.rtl.last.frame = true ∧ v.rtl.frameIn = some f ∧
        f.upd.notice = 5 ∧ ({ f with upd := { goodUpd with notice := 4 } } : TickFrame).upd.notice = 4) ∧
          opens s0 2 w = true := by decide +kernel

/-- COMMIT is taken from a trial with CONFIG_DONE on the new set, and not from another state. -/
theorem test_commit_needs_a_trial :
    commitOk { updating .trial 5 with boot.moved := true, upd.done := true } = true ∧
      commitOk (updating .staged 5) = false := by
  decide +kernel

/-! ### Descent self-test -/

/-- Step 5 of a Descent that began at tick 100, entered at tick 200, with every pitch enabled. -/
def testing (t : Nat) : State :=
  { live t with
    mode := .descent, pwr.dstep := 5, dsc.maskD := 0xFFF, dsc.td := 100, dsc.step5 := some 200, dsc.keysClear := true }

theorem witness_PitchesRunInOrderWithinBudget :
    let s := testing 201
    let z := { testing 200 with dsc.keysClear := false }
    let r := { s with dsc.runs := some (3, 150) }
    let x := { s with dsc.runs := some (3, 101) }
    s.pdOn 2 = true ∧ z.mode = .descent ∧ z.dsc.step5 = some z.t ∧ z.dsc.keysClear = false ∧ z.dsc.keyFail = false ∧
      s.dsc.step5 ≠ some s.t ∧ s.pwr.dstep = 5 ∧ s.dsc.keysClear = true ∧ s.dsc.runs = none ∧ s.dsc.freeT ≤ s.t ∧
      s.gts = boundaryOf s.t ∧ nextPitch s s.t = some (0 : Fin 12).val ∧ (live 5).mode ≠ .descent ∧
      r.dsc.runs = some (3, 150) ∧ r.gts ≤ boundaryOf (150 + pitchBudget 3) ∧ r.t < 150 + pitchBudget 3 ∧
      x.dsc.runs = some (3, 101) ∧ 101 + pitchBudget 3 ≤ x.t ∧
      boundaryOf (100 + pitchBudget 3) < ({ s with dsc.runs := some (3, 100) } : State).gts := by decide +kernel

/-- R420: a pitch that no longer fits before T_d + 5,700 is passed over for the next that does. -/
theorem test_pitch_that_does_not_fit : nextPitch (testing 5700) 5700 = some 3 := by decide +kernel

/-! ### Event recorder -/

theorem witness_RecorderKeepsAndGivesItsRecords :
    let s := { live 100 with recorder.staging := [[1, 2, 3, 4, 5, 6, 7, 8]] }
    let e : Ev := { gts := 1, src := 3, code := 1, data := 0 }
    let m := { live 1000 with sys.merger := [e] }
    let k := wordOf 0x5C3E0001
    flushDue s = true ∧ s.recorder.overwritten = 0 ∧ s.recorder.staging ≠ [] ∧ s.recorder.failed = 0 ∧
      flushDue (live 101) = false ∧ e ∈ m.sys.merger ∧ e.gts < m.gts / tickLen / 1000 * 1000 * tickLen ∧
      (live 1000).sys.merger = [] ∧ s.mode = .run ∧ ({ s with mode := .cold } : State).mode = .cold ∧
      opens a0 2 s = true ∧ opens a0n 2 s = true ∧
      (secureOf a0 = true ∧ bitsOf k 31 16 = 0x5C3E ∧ bitOf k 0 = true) ∧ secureOf a0n = false := by decide +kernel

theorem witness_RecorderKeepsAndGivesItsRecords_copy :
    let c := ref 1 64 [0, 0]
    let s := posted 15 0 1 64 [0, 0] { live 5 with recorder.next := 3, recorder.scree := [(0, [1]), (1, [2]), (2,
      [3])] }
    let p := fun (n : Nat) => started 15 0 1 64 [0, 0] [0, n, 0] (live 5)
    c.ring = (0 : Fin 32).val ∧ takes 15 0 1 .serial c s = true ∧ 0 < c.op.len ∧ c.op.len % 32 = 0 ∧ c.op.len ≤ 262144 ∧
      bufferOpen 0x2D true c.op.addr 64 s = true ∧
      ((copyRecords s.recorder false (copyFrom s.recorder false 0) 2).flatMap fun rec =>
        wordBytes ((List.range 8).map fun i => rec.getD i 0)).length = 64 ∧
      takes 15 0 1 .serial (ref 1 33 []) (posted 15 0 1 33 [] (live 5)) = true ∧ 33 % 32 ≠ 0 ∧
      (p 2).opOf 15 0 (isStarted 1) = some (running 1 64 [0, 0] [0, 2, 0]) ∧ 2 * 32 = 64 ∧ (p 2).recorder.clears = 0 ∧
      (p 1).opOf 15 0 (isStarted 1) = some (running 1 64 [0, 0] [0, 1, 0]) ∧ 1 * 32 ≠ 64 ∧
      (live 5).opOf 15 0 (isStarted 1) = none := by decide +kernel

theorem witness_QuietRegistersHoldWhileActivationWaits :
    blockAt 0x080D_0008 = some 13 ∧ (updating .waiting 5).boot.state = .waiting ∧
      (updating .activating 5).boot.state = .activating ∧ opens s0 2 (updating .waiting 5) = true ∧
      0x080D_0008 % 0x1_0000 / 4 * 4 ∈ [0x00, 0x08, 0x0C] := by decide +kernel

end Sys2Proof.Tests
end

section
/-!
Statements about the block as a machine: what a step does with its queue, that every command answers a next state, what
a command that acts in its own block may still reach, and how a register access passes its gate.
-/

namespace Sys2Proof.Machine

/-! ### Every command answers, and keeps what `Kept` claims -/

/-- The commands that start a time base (R22, R348): nothing is claimed of time across them. -/
def startsTimeBase : Instr → Bool
  | .wake .. | .restartAfterBrownout .. => true
  | _ => false

/-- The commands that move the mode by themselves (R346): nothing is claimed of the mode across them. -/
def movesMode : Instr → Bool
  | .wake .. | .restartAfterBrownout .. | .descentComplete | .descentLimit | .reverseBattery | .brownout ..
  | .allowanceSpent | .snapshot .. | .bivouacBurst .. | .fixropeRequest .. | .watchdogExpiry => true
  | _ => false

/-- No arm of the dispatcher faults or refuses: the services' conditions (`whileOn`, `whileTeam`, `whileUpd`) and the
gates answer a next state on either side (R6; logs 10 and 161). -/
theorem exec_answers (c : Instr) (s : State) : ∃ t, exec c s = .next t := by
  cases c <;> exact ⟨_, rfl⟩

/-- Whatever command runs keeps what is claimed: the dispatcher's table, over the lemma of each command. -/
theorem exec_kept {k : Keep} {c : Instr} {s : State} (hd : k.down = true) (hm : movesMode c = true → k.mode = none)
    (ht : startsTimeBase c = true → k.time = none) (hs : Kept k s) : KeptO k (exec c s) := by
  cases c with
  | registerWrite => exact execRegisterWrite_kept hs
  | memoryTransaction => exact execMemoryTransaction_kept hs
  | lowWordReadLatch => exact execLowWordReadLatch_kept hs
  | coreReset => exact execCoreReset_kept hs
  | tickBoundary => exact execTickBoundary_kept hd hs
  | subtickSlotBoundary => exact execSubtickSlotBoundary_kept hs
  | tickOverrun => exact execTickOverrun_kept hs
  | subtickOverrun => exact execSubtickOverrun_kept hs
  | tickDiscWrite => exact execTickDiscWrite_kept hs
  | disciplineAcquire => exact execDisciplineAcquire_kept hs
  | disciplineLocked => exact execDisciplineLocked_kept hs
  | disciplineSourceLost => exact execDisciplineSourceLost_kept hs
  | evqCtlWrite => exact execEvqCtlWrite_kept hs
  | evqConsWrite => exact execEvqConsWrite_kept hs
  | swevt => exact execSwevt_kept hs
  | eventQueueWrite => exact execEventQueueWrite_kept hs
  | pdReqWrite => exact execPdReqWrite_kept hs
  | domainSwitch => exact execDomainSwitch_kept hs
  | sqDoorbell => exact execSqDoorbell_kept hs
  | cqDoorbell => exact execCqDoorbell_kept hs
  | descriptorFetch => exact execDescriptorFetch_kept hs
  | completionPost => exact execCompletionPost_kept hs
  | ringEnable => exact execRingEnable_kept hs
  | ringInitComplete => exact execRingInitComplete_kept hs
  | ringDisable => exact execRingDisable_kept hs
  | ringFlush => exact execRingFlush_kept hs
  | ringAbandon => exact execRingAbandon_kept hs
  | ringResync => exact execRingResync_kept hs
  | drainComplete => exact execDrainComplete_kept hs
  | drainBoundaryStop => exact execDrainBoundaryStop_kept hs
  | fenceApply => exact execFenceApply_kept hs
  | fenceApplyLowLatch => exact execFenceApplyLowLatch_kept hs
  | mbxGo => exact execMbxGo_kept hs
  | mbxRel => exact execMbxRel_kept hs
  | mbxCfgWrite => exact execMbxCfgWrite_kept hs
  | mbxDataAccess => exact execMbxDataAccess_kept hs
  | pitonAcquire => exact execPitonAcquire_kept hs
  | pitonRelease => exact execPitonRelease_kept hs
  | bceCtxLoad => exact execBceCtxLoad_kept hs
  | bceCtxStart => exact execBceCtxStart_kept hs
  | bceCtxStop => exact execBceCtxStop_kept hs
  | bceStopEffect => exact execBceStopEffect_kept hs
  | bceCtxRead => exact execBceCtxRead_kept hs
  | bceCtxTrace => exact execBceCtxTrace_kept hs
  | bceCtxClear => exact execBceCtxClear_kept hs
  | bceCtxPatch => exact execBceCtxPatch_kept hs
  | bcePatchEffect => exact execBcePatchEffect_kept hs
  | sigWrite => exact execSigWrite_kept hs
  | sigRead => exact execSigRead_kept hs
  | bceCtlWrite => exact execBceCtlWrite_kept hs
  | bceLatch => exact execBceLatch_kept hs
  | bceOutputRelease => exact execBceOutputRelease_kept hs
  | finCfgWrite => exact execFinCfgWrite_kept hs
  | ainConversion => exact execAinConversion_kept hs
  | ainShuntOpen => exact execAinShuntOpen_kept hs
  | ainShuntRetry => exact execAinShuntRetry_kept hs
  | freqEdge => exact execFreqEdge_kept hs
  | freqGateEnd => exact execFreqGateEnd_kept hs
  | losImpact => exact execLosImpact_kept hs
  | losCapture => exact execLosCapture_kept hs
  | imuSelfCheck => exact execImuSelfCheck_kept hs
  | lhInputChange => exact execLhInputChange_kept hs
  | supEnWrite => exact execSupEnWrite_kept hs
  | supClr => exact execSupClr_kept hs
  | supLimit => exact execSupLimit_kept hs
  | supLimitTimeout => exact execSupLimitTimeout_kept hs
  | supOvervoltageTrip => exact execSupOvervoltageTrip_kept hs
  | chSet => exact execChSet_kept hs
  | chSetApply => exact execChSetApply_kept hs
  | chProfile => exact execChProfile_kept hs
  | chProfileStep => exact execChProfileStep_kept hs
  | chClear => exact execChClear_kept hs
  | chRead => exact execChRead_kept hs
  | chReadSnapshot => exact execChReadSnapshot_kept hs
  | lswOutEnWrite => exact execLswOutEnWrite_kept hs
  | lswChCfgWrite => exact execLswChCfgWrite_kept hs
  | lhMapWrite => exact execLhMapWrite_kept hs
  | lhMapLock => exact execLhMapLock_kept hs
  | inrushWindowEnd => exact execInrushWindowEnd_kept hs
  | shortTrip => exact execShortTrip_kept hs
  | thermalTrip => exact execThermalTrip_kept hs
  | restart => exact execRestart_kept hs
  | restartCountReset => exact execRestartCountReset_kept hs
  | openLoad => exact execOpenLoad_kept hs
  | bceTimeout => exact execBceTimeout_kept hs
  | gangMismatch => exact execGangMismatch_kept hs
  | driveWithdraw => exact execDriveWithdraw_kept hs
  | driveGrant => exact execDriveGrant_kept hs
  | bankFeedLow => exact execBankFeedLow_kept hs
  | bankFeedReturn => exact execBankFeedReturn_kept hs
  | crankHoldExpiry => exact execCrankHoldExpiry_kept hs
  | fixropeTrip => exact execFixropeTrip_kept hs
  | iplLinkCfgWrite => exact execIplLinkCfgWrite_kept hs
  | linkUp => exact execLinkUp_kept hs
  | linkTrainingRetry => exact execLinkTrainingRetry_kept hs
  | linkDown => exact execLinkDown_kept hs
  | cameraTrigger => exact execCameraTrigger_kept hs
  | frameStart => exact execFrameStart_kept hs
  | lineArrival => exact execLineArrival_kept hs
  | frameEnd => exact execFrameEnd_kept hs
  | unitStart => exact execUnitStart_kept hs
  | frameClose => exact execFrameClose_kept hs
  | encoderAccessUnit => exact execEncoderAccessUnit_kept hs
  | settingsWrite => exact execSettingsWrite_kept hs
  | iplCtxLoad => exact execIplCtxLoad_kept hs
  | iplCtxStart => exact execIplCtxStart_kept hs
  | iplCtxStop => exact execIplCtxStop_kept hs
  | iplStopEffect => exact execIplStopEffect_kept hs
  | exposure => exact execExposure_kept hs
  | tuneLoad => exact execTuneLoad_kept hs
  | iplCtxRead => exact execIplCtxRead_kept hs
  | encCfg => exact execEncCfg_kept hs
  | encIdr => exact execEncIdr_kept hs
  | dispBuf => exact execDispBuf_kept hs
  | statBuf => exact execStatBuf_kept hs
  | codeBuf => exact execCodeBuf_kept hs
  | iplCtlWrite => exact execIplCtlWrite_kept hs
  | pcamSyncLost => exact execPcamSyncLost_kept hs
  | camPowerLimit => exact execCamPowerLimit_kept hs
  | camPowerRetry => exact execCamPowerRetry_kept hs
  | epochClose => exact execEpochClose_kept hs
  | epochRelease => exact execEpochRelease_kept hs
  | colInvocationEnd => exact execColInvocationEnd_kept hs
  | remoteEncodingArrival => exact execRemoteEncodingArrival_kept hs
  | releaseReplicaArrival => exact execReleaseReplicaArrival_kept hs
  | lkoCfgLoad => exact execLkoCfgLoad_kept hs
  | sensorCfg => exact execSensorCfg_kept hs
  | modelLoad => exact execModelLoad_kept hs
  | modelDrop => exact execModelDrop_kept hs
  | lkoStart => exact execLkoStart_kept hs
  | lkoStop => exact execLkoStop_kept hs
  | healthRead => exact execHealthRead_kept hs
  | lidarPut => exact execLidarPut_kept hs
  | outBuf => exact execOutBuf_kept hs
  | featBuf => exact execFeatBuf_kept hs
  | lkoCtlWrite => exact execLkoCtlWrite_kept hs
  | antennaStateChange => exact execAntennaStateChange_kept hs
  | antennaRetry => exact execAntennaRetry_kept hs
  | channelReexamine => exact execChannelReexamine_kept hs
  | channelDetection => exact execChannelDetection_kept hs
  | searchTimeout => exact execSearchTimeout_kept hs
  | pullInLock => exact execPullInLock_kept hs
  | pullInTimeout => exact execPullInTimeout_kept hs
  | trackSignalLoss => exact execTrackSignalLoss_kept hs
  | coastReacquire => exact execCoastReacquire_kept hs
  | coastTimeout => exact execCoastTimeout_kept hs
  | corrSpacingWrite => exact execCorrSpacingWrite_kept hs
  | measurementInstant => exact execMeasurementInstant_kept hs
  | navMessage => exact execNavMessage_kept hs
  | ppsEdge => exact execPpsEdge_kept hs
  | slewComplete => exact execSlewComplete_kept hs
  | timeStep => exact execTimeStep_kept hs
  | gnbCfgLoad => exact execGnbCfgLoad_kept hs
  | gnbStart => exact execGnbStart_kept hs
  | gnbStop => exact execGnbStop_kept hs
  | assistPut => exact execAssistPut_kept hs
  | snapList => exact execSnapList_kept hs
  | snapRead => exact execSnapRead_kept hs
  | corrPut => exact execCorrPut_kept hs
  | measBuf => exact execMeasBuf_kept hs
  | navBuf => exact execNavBuf_kept hs
  | gnbCtlWrite => exact execGnbCtlWrite_kept hs
  | burstInstant => exact execBurstInstant_kept hs
  | bivouacBurst => exact execBivouacBurst_kept (hm rfl) hs
  | snapshot => exact execSnapshot_kept (hm rfl) hs
  | yieldSense => exact execYieldSense_kept hs
  | yieldStepEnd => exact execYieldStepEnd_kept hs
  | delayEstimate => exact execDelayEstimate_kept hs
  | yieldRecord => exact execYieldRecord_kept hs
  | yieldFlashWrite => exact execYieldFlashWrite_kept hs
  | yldCfg => exact execYldCfg_kept hs
  | yldStart => exact execYldStart_kept hs
  | yldStop => exact execYldStop_kept hs
  | yldStatus => exact execYldStatus_kept hs
  | tankSet => exact execTankSet_kept hs
  | taskOpen => exact execTaskOpen_kept hs
  | taskClose => exact execTaskClose_kept hs
  | taskList => exact execTaskList_kept hs
  | taskExport => exact execTaskExport_kept hs
  | yldBuf => exact execYldBuf_kept hs
  | canEnable => exact execCanEnable_kept hs
  | canModeChange => exact execCanModeChange_kept hs
  | recGo => exact execRecGo_kept hs
  | canIntegrated => exact execCanIntegrated_kept hs
  | busOffRecovered => exact execBusOffRecovered_kept hs
  | canProtocolError => exact execCanProtocolError_kept hs
  | canFrameReceive => exact execCanFrameReceive_kept hs
  | referenceMessage => exact execReferenceMessage_kept hs
  | canTxreq => exact execCanTxreq_kept hs
  | canTxabt => exact execCanTxabt_kept hs
  | canCyclicAssembly => exact execCanCyclicAssembly_kept hs
  | canFrameSent => exact execCanFrameSent_kept hs
  | canArbitrationLost => exact execCanArbitrationLost_kept hs
  | referenceAssembly => exact execReferenceAssembly_kept hs
  | timeModelLost => exact execTimeModelLost_kept hs
  | canTmCfgWrite => exact execCanTmCfgWrite_kept hs
  | mapLoad => exact execMapLoad_kept hs
  | txmapLoad => exact execTxmapLoad_kept hs
  | slotWrite => exact execSlotWrite_kept hs
  | frameTx => exact execFrameTx_kept hs
  | frameTxTimeout => exact execFrameTxTimeout_kept hs
  | rxBuf => exact execRxBuf_kept hs
  | panelFrameStart => exact execPanelFrameStart_kept hs
  | panelFallback => exact execPanelFallback_kept hs
  | pnlKick _ v => exact execPnlKick_kept (_v := v) hs
  | vlcdFault => exact execVlcdFault_kept hs
  | pnlCtlWrite => exact execPnlCtlWrite_kept hs
  | pnlCfgLoad => exact execPnlCfgLoad_kept hs
  | pnlStart => exact execPnlStart_kept hs
  | pnlStop => exact execPnlStop_kept hs
  | stressLoad => exact execStressLoad_kept hs
  | stressRead => exact execStressRead_kept hs
  | regionWrite => exact execRegionWrite_kept hs
  | wake => exact execWake_kept (hm rfl) (ht rfl) hs
  | ctrlReady => exact execCtrlReady_kept hs
  | descend => exact execDescend_kept hs
  | ignitionOff => exact execIgnitionOff_kept hd hs
  | holdExpiry => exact execHoldExpiry_kept hs
  | hostDone => exact execHostDone_kept hs
  | descGraceExpiry => exact execDescGraceExpiry_kept hs
  | descentLimit => exact execDescentLimit_kept (hm rfl) hs
  | descentComplete => exact execDescentComplete_kept (hm rfl) hs
  | watchdogHeartbeat => exact execWatchdogHeartbeat_kept hs
  | watchdogExpiry => exact execWatchdogExpiry_kept (hm rfl) hs
  | fixropeRequest => exact execFixropeRequest_kept (hm rfl) hs
  | brownout => exact execBrownout_kept (hm rfl) hs
  | overvoltage => exact execOvervoltage_kept hs
  | overvoltageEnd => exact execOvervoltageEnd_kept hs
  | reverseBattery => exact execReverseBattery_kept (hm rfl) hs
  | groundOpen => exact execGroundOpen_kept hs
  | groundHealed => exact execGroundHealed_kept hs
  | governorPeriod => exact execGovernorPeriod_kept hs
  | bankBudgetExceeded => exact execBankBudgetExceeded_kept hs
  | bankBudgetRestore => exact execBankBudgetRestore_kept hs
  | govDeclare => exact execGovDeclare_kept hs
  | govRelease => exact execGovRelease_kept hs
  | govRead => exact execGovRead_kept hs
  | bivouacSecond => exact execBivouacSecond_kept hs
  | allowanceSpent => exact execAllowanceSpent_kept (hm rfl) hs
  | presenceBeacon => exact execPresenceBeacon_kept hs
  | tickLineWord => exact execTickLineWord_kept hs
  | tickFrame => exact execTickFrame_kept hs
  | heartbeat => exact execHeartbeat_kept hs
  | witnessFrame => exact execWitnessFrame_kept hs
  | witnessAssembly => exact execWitnessAssembly_kept hs
  | leadLost => exact execLeadLost_kept hs
  | leadWithdraw => exact execLeadWithdraw_kept hs
  | alignedSet => exact execAlignedSet_kept hs
  | alignedClear => exact execAlignedClear_kept hs
  | twinUpChange => exact execTwinUpChange_kept hs
  | pairLinkChange => exact execPairLinkChange_kept hs
  | handover => exact execHandover_kept hs
  | handoverCommit => exact execHandoverCommit_kept hs
  | handoverExecute => exact execHandoverExecute_kept hs
  | ckptPut => exact execCkptPut_kept hs
  | ckptBuf => exact execCkptBuf_kept hs
  | rtlEnable => exact execRtlEnable_kept hs
  | stage => exact execStage_kept hs
  | schedule => exact execSchedule_kept hs
  | cancel => exact execCancel_kept hs
  | scheduleInstantReached => exact execScheduleInstantReached_kept hs
  | activation => exact execActivation_kept hd hs
  | configDone => exact execConfigDone_kept hs
  | commit => exact execCommit_kept hs
  | commitEffect => exact execCommitEffect_kept hs
  | reject => exact execReject_kept hs
  | trialDeadline => exact execTrialDeadline_kept hs
  | reversion => exact execReversion_kept hd hs
  | keyZeroise => exact execKeyZeroise_kept hs
  | pitchStart => exact execPitchStart_kept hs
  | pitchEnd => exact execPitchEnd_kept hs
  | pitchBudgetExpiry => exact execPitchBudgetExpiry_kept hs
  | recFlush => exact execRecFlush_kept hs
  | rateWindowEnd => exact execRateWindowEnd_kept hs
  | hoursAdvance => exact execHoursAdvance_kept hs
  | recWindowLatch => exact execRecWindowLatch_kept hs
  | recCursorAdvance => exact execRecCursorAdvance_kept hs
  | recClear => exact execRecClear_kept hs
  | recCopy => exact execRecCopy_kept hs
  | debugEnableChange => exact execDebugEnableChange_kept hs
  | stageComplete => exact execStageComplete_kept hs
  | losCaptureComplete => exact execLosCaptureComplete_kept hs
  | recCopyComplete => exact execRecCopyComplete_kept hs
  | checkpointArrival => exact execCheckpointArrival_kept hs
  | handoverFrame => exact execHandoverFrame_kept hs
  | fixropeThermalRestart => exact execFixropeThermalRestart_kept hs
  | restartAfterBrownout => exact execRestartAfterBrownout_kept (hm rfl) (ht rfl) hs

/-- With a command waiting, the step runs it on the queue's rest. -/
theorem step_of_cons {c : Instr} {rest : List Instr} {s : State} (h : s.pending = c :: rest) :
    step s = exec c { s with pending := rest } := by
  simp [step, h]

/-- With none, the block idles (log 6). -/
theorem step_of_nil {s : State} (h : s.pending = []) : step s = .next s := by
  simp [step, h]

/-- Settles O1, on the two forms of the queue. -/
theorem stepRunsFrontCommand : Obligations.StepRunsFrontCommand :=
  ⟨fun _ _ _ => step_of_cons rfl, fun _ => step_of_nil⟩

/-- Settles O2: the step is the command on the queue's rest, which answers, and every command keeps the queue. -/
theorem everyStepTakesOneCommand : Obligations.EveryStepTakesOneCommand := by
  intro c rest s h
  rw [step_of_cons h]
  obtain ⟨t, ht⟩ := exec_answers c { s with pending := rest }
  have waiting : Kept { queue := rest, canon := false, down := true } { s with pending := rest } :=
    ⟨nofun, rfl, nofun, nofun⟩
  exact ⟨t, ht, (exec_kept rfl (fun _ => rfl) (fun _ => rfl) waiting t ht).queue⟩

/-! ### A protocol error reaches the ring of the frame it hits -/

/-- A FRAME_TX of 8 bytes for controller 0, TMO 1, that is being sent: started for tick 5, entered into arbitration, no
attempt lost. -/
def sending : Op :=
  { words := [wordOf (0x20 * 2 ^ 24), 8, 0x1000, 1, 0, 0, 0, 0, 0, 0, 0, 0, 1], stage := .started, aux := [5, 1, 0] }

/-- It holds the wire of controller 0, as the one descriptor of a ring that serves queue 1 of CAN. -/
def frameOnWire : State :=
  { mode := .run, start := .ready, pd := 0x1FFF, tick.running := true, gts := 2000000
    hri.rings := [(0, {
      state := .active, en := true, svc := 9, queue := 1, log2 := 4, sqTail := 1, sqHead := 1, expSeq := 1
      ops := [sending] })]
    can.ctl := [(0, { ctl := 0x8000_0000, state := .active, bus := some (.frameTx, 2000000) })] }

/-- The lost attempt is counted in the descriptor (R324: RESULT1 is the attempts), which the ring holds. -/
theorem canProtocolError_counts_attempt :
    ((canProtocolError 0 .bit 8 0 none frameOnWire).ring 0).ops = [{ sending with aux := [5, 1, 1] }] := by
  decide

/-- Refutes O7: CAN_PROTOCOL_ERROR is an own-block command, and where the frame it hits is a FRAME_TX it counts the
attempt in that descriptor, so the rings are not as before. -/
theorem not_ownBlockCommandsKeepTheRest : ¬ Obligations.OwnBlockCommandsKeepTheRest := by
  intro h
  obtain ⟨t, ht, -, hri, -⟩ := h (.canProtocolError 0 .bit 8 0 none) frameOnWire rfl
  have after : t = canProtocolError 0 .bit 8 0 none frameOnWire := (Host.Outcome.next.inj ht).symm
  have ops : (t.ring 0).ops = (frameOnWire.ring 0).ops := by simp only [State.ring, hri]
  rw [after, canProtocolError_counts_attempt] at ops
  exact absurd ops (by decide)

/-! ### Register accesses (R6, R13, R17, R469) -/

/-- An initiator that is off makes no transaction (R469). -/
theorem gate_dead {a : Access} {blk dom : Nat} {s : State} (k : State → State) (h : iniAlive a.ini s = false) :
    gate a blk dom s k = { s with resp := [] } := by
  simp [gate, h]

/-- An access to a domain that is off: an error response and source 1 (R13). -/
theorem gate_off {a : Access} {blk dom : Nat} {s : State} (k : State → State) (hi : iniAlive a.ini s = true)
    (hd : s.pdOn dom = false) : gate a blk dom s k = (raise 1 dom (a.ini.id * 256 + blk) s).reply a .error := by
  simp [gate, hi, hd]

/-- A 32-bit write inside a window goes through the gate of its register. -/
theorem registerWrite_window {a : Access} {addr blk : Nat} {v : BitVec 64} {s : State} (h : blockAt addr = some blk) :
    registerWrite a addr false v s = gateWrite a blk (registerDomain blk (addr % 0x1_0000 / 4 * 4)) s
      (blockWrite a blk (addr % 0x1_0000 / 4 * 4) (lo32 v)) := by
  simp [registerWrite, h]

/-- A 32-bit read inside a window goes through the gate of its register. -/
theorem registerRead_window {a : Access} {addr blk : Nat} {s : State} (h : blockAt addr = some blk) :
    registerRead a addr false s = gate a blk (registerDomain blk (addr % 0x1_0000 / 4 * 4)) s
      (blockAnswer a blk (addr % 0x1_0000 / 4 * 4)) := by
  simp [registerRead, h]

/-- A read of TICK_GTS, low word: the high word is latched for the reader (R17). -/
theorem registerRead_gts_low {a : Access} {s : State} (h : opens a 2 s = true) :
    registerRead a 0x0801_0000 false s =
      (s.latch a 0x0801_0004 (hi32 (word64 s.gts))).replyWord a (lo32 (word64 s.gts)) := by
  rw [registerRead_window (blk := 1) rfl]
  exact gate_open _ h

/-- A read of TICK_GTS, high word: the shadow of the reader, or the live word (R17). -/
theorem registerRead_gts_high {a : Access} {s : State} (h : opens a 2 s = true) :
    registerRead a 0x0801_0004 false s =
      (shadowed a 0x0801_0004 (hi32 (word64 s.gts)) s).2.replyWord a
        (shadowed a 0x0801_0004 (hi32 (word64 s.gts)) s).1 := by
  rw [registerRead_window (blk := 1) rfl]
  exact gate_open _ h

/-- A latched high word is answered and used up. -/
theorem shadowed_latched {a : Access} {addr : Nat} {w live : Word} {s : State}
    (h : Tab.find s.shadows (shadowKey a addr) = some w) :
    shadowed a addr live s = (w, { s with shadows := Tab.del s.shadows (shadowKey a addr) }) := by
  simp [shadowed, h]

/-- With none latched the live word is answered. -/
theorem shadowed_live {a : Access} {addr : Nat} {live : Word} {s : State}
    (h : Tab.find s.shadows (shadowKey a addr) = none) : shadowed a addr live s = (live, s) := by
  simp [shadowed, h]

/-- Settles O8: the three sides of the gate for a write, and the shadow of the low word for a read. -/
theorem registersAnswerThroughTheGate : Obligations.RegistersAnswerThroughTheGate := by
  refine ⟨fun a addr blk v s hb => ⟨fun ho => ?_, fun hi hd => ?_, fun hi => ?_⟩,
    fun a s ho => ⟨?_, fun w hw => ?_, fun hn => ?_⟩⟩
  · exact congrArg Host.Outcome.next ((registerWrite_window hb).trans (gateWrite_open _ ho))
  · exact congrArg Host.Outcome.next ((registerWrite_window hb).trans (gate_off _ hi hd))
  · exact congrArg Host.Outcome.next ((registerWrite_window hb).trans (gate_dead _ hi))
  · exact congrArg Host.Outcome.next (registerRead_gts_low ho)
  · exact congrArg Host.Outcome.next ((registerRead_gts_high ho).trans (by rw [shadowed_latched hw]))
  · exact congrArg Host.Outcome.next ((registerRead_gts_high ho).trans (by rw [shadowed_live hn]))

end Sys2Proof.Machine
end

section
/-!
Statements about what every step keeps of host memory and of the module's clocks (R16, R21, R22), what reset leaves,
and what a write that the fabric carries does to memory (R16, R64, R65).
-/

namespace Sys2Proof.Machine

/-! ### Every step: memory and clocks -/

/-- Settles O3: the step is the command on the queue's rest, and every command keeps the canonical form. -/
theorem stepKeepsMemoryCanonical : Obligations.StepKeepsMemoryCanonical := by
  intro s t hs h
  cases hq : s.pending with
  | nil =>
    rw [step_of_nil hq] at h
    exact Host.Outcome.next.inj h ▸ hs
  | cons c rest =>
    rw [step_of_cons hq] at h
    have canonical : Kept { queue := rest, down := true } { s with pending := rest } :=
      ⟨fun _ => hs, rfl, nofun, nofun⟩
    exact (exec_kept rfl (fun _ => rfl) (fun _ => rfl) canonical t h).mem rfl

/-- What is claimed of the clocks from `s` on: its GTS, while the time base runs, and its power-cycle count. -/
def clocksFrom (s : State) : Keep :=
  { queue := s.pending, canon := false, time := some (s.gts, s.tick.pcc), down := true }

theorem clocksFrom_kept (s : State) : Kept (clocksFrom s) s :=
  ⟨nofun, rfl, fun _ _ e => by cases e; exact ⟨.inl (Nat.le_refl _), rfl⟩, nofun⟩

theorem Kept.gts_le {s t : State} (h : Kept (clocksFrom s) t) (running : t.tick.running = true) : s.gts ≤ t.gts :=
  (h.time _ _ rfl).1.resolve_right (by simp [running])

theorem Kept.pcc_eq {s t : State} (h : Kept (clocksFrom s) t) : t.tick.pcc = s.tick.pcc := (h.time _ _ rfl).2

/-- A command that starts no time base keeps what is claimed of the clocks. -/
theorem exec_clocks {c : Instr} {s t : State} (hc : startsTimeBase c = false) (h : exec c s = .next t) :
    Kept (clocksFrom s) t :=
  exec_kept rfl (fun _ => rfl) (by simp [hc]) (clocksFrom_kept s) t h

/-- The commands that start a time base, by name. -/
theorem startsTimeBase_iff {c : Instr} : startsTimeBase c = true ↔
    (∃ src e, c = .wake src e) ∨ ∃ mV src e, c = .restartAfterBrownout mV src e := by
  constructor
  · intro h
    unfold startsTimeBase at h
    split at h
    · exact .inl ⟨_, _, rfl⟩
    · exact .inr ⟨_, _, _, rfl⟩
    · cases h
  · rintro (⟨_, _, rfl⟩ | ⟨_, _, _, rfl⟩) <;> rfl

/-- Settles O4: what every command but the two of a Run entry keeps of the clocks. -/
theorem clocksOfTheModuleMoveForward : Obligations.ClocksOfTheModuleMoveForward := by
  refine ⟨fun c s t hwake hrestart h running => ?_, fun c s t h changed => ?_⟩
  · have plain : startsTimeBase c = false := Bool.eq_false_iff.2 fun starts => by
      obtain ⟨src, e, rfl⟩ | ⟨mV, src, e, rfl⟩ := startsTimeBase_iff.1 starts
      · exact hwake src e rfl
      · exact hrestart mV src e rfl
    exact (exec_clocks plain h).gts_le running
  · by_contra other
    have plain : startsTimeBase c = false := Bool.eq_false_iff.2 fun starts => other (startsTimeBase_iff.1 starts)
    exact changed (exec_clocks plain h).pcc_eq

/-! ### Reset -/

/-- Settles O6, register by register: a table that reset leaves empty answers its default at every index. -/
theorem resetLeavesTheTableValues : Obligations.ResetLeavesTheTableValues := by
  have others_off : ∀ n, n ≠ 0 → (State.reset.liveFence n).en = false := fun n hn => by
    simp [State.liveFence, State.reset, Tab.get, hn]
  refine ⟨⟨by decide, rfl, rfl, by decide, rfl, rfl, by decide, rfl, rfl, fun _ => rfl, fun _ => ⟨rfl, rfl⟩, rfl,
    others_off, fun _ => ⟨rfl, rfl⟩, fun _ => rfl, fun _ => ⟨rfl, rfl, rfl⟩, rfl, rfl, rfl, rfl, rfl⟩, rfl, rfl⟩

/-! ### Bytes written one after another -/

/-- A byte outside the range is as before. -/
theorem Memory.get_setMany_outside {b : Nat} : ∀ {bs : List Byte} {m : List Host.Cell} {a : Nat},
    Memory.wf m = true → ¬ inRange a bs.length b → Memory.get (Memory.setMany m a bs) b = Memory.get m b
  | [], _, _, _, _ => rfl
  | x :: bs, m, a, hm, hb => by
    simp only [inRange, List.length_cons] at hb
    have rest : ¬ inRange (a + 1) bs.length b := by simp only [inRange]; omega
    rw [Memory.setMany, Memory.get_setMany_outside (Memory.set_wf hm) rest, Memory.get_set_ne (by omega) hm]

/-- A byte inside the range is the one written there. -/
theorem Memory.get_setMany_inside : ∀ {bs : List Byte} {m : List Host.Cell} {a i : Nat},
    Memory.wf m = true → i < bs.length → Memory.get (Memory.setMany m a bs) (a + i) = bs.getD i 0
  | x :: bs, m, a, 0, hm, _ => by
    have rest : ¬ inRange (a + 1) bs.length a := by simp only [inRange]; omega
    exact (Memory.get_setMany_outside (Memory.set_wf hm) rest).trans (Memory.get_set_self hm)
  | x :: bs, m, a, i + 1, hm, hi => by
    rw [Memory.setMany, show a + (i + 1) = a + 1 + i by omega,
      Memory.get_setMany_inside (Memory.set_wf hm) (Nat.lt_of_succ_lt_succ hi)]
    rfl

/-! ### The fabric's checks before a write -/

/-- The check answers the fabric's verdict. -/
theorem busCheck_verdict (kind ini : Nat) (sec write quiet : Bool) (addr len : Nat) (s : State) :
    (busCheck kind ini sec write quiet addr len s).2 = s.busVerdict ini sec write addr len := by
  unfold busCheck
  dsimp only
  split <;> rfl

/-- The check moves no byte: a capture is in the fences' registers, an event in the merger or in staging. -/
theorem busCheck_mem (kind ini : Nat) (sec write quiet : Bool) (addr len : Nat) (s : State) :
    (busCheck kind ini sec write quiet addr len s).1.mem = s.mem := by
  have captured : (if s.busVerdict ini sec write addr len = .refused then refuse ini sec write addr s else s).mem
      = s.mem := by
    split <;> rfl
  unfold busCheck
  dsimp only
  split
  · exact captured
  · split
    · exact captured
    · exact (raiseEv_mem _ _).trans captured

theorem busWrite_verdict (kind ini : Nat) (sec quiet : Bool) (addr : Nat) (bs : List Byte) (s : State) :
    (busWrite kind ini sec quiet addr bs s).2 = s.busVerdict ini sec true addr bs.length :=
  busCheck_verdict ..

/-- A write that the fabric does not carry leaves memory alone. -/
theorem busWrite_mem_of_ne_ok {kind ini : Nat} {sec quiet : Bool} {addr : Nat} {bs : List Byte} {s : State}
    (h : s.busVerdict ini sec true addr bs.length ≠ .ok) : (busWrite kind ini sec quiet addr bs s).1.mem = s.mem := by
  have stopped : (busCheck kind ini sec true quiet addr bs.length s).2 ≠ .ok := by rwa [busCheck_verdict]
  simp only [busWrite, if_neg stopped, busCheck_mem]

/-- Settles O10: a write that is carried stores its bytes one after another; one that is not leaves memory alone. -/
theorem busWriteStoresExactlyItsBytes : Obligations.BusWriteStoresExactlyItsBytes := by
  intro kind ini sec quiet addr bs s hs
  rw [busWrite_verdict]
  refine ⟨fun carried => ?_, busWrite_mem_of_ne_ok⟩
  rw [busWrite_ok carried]
  exact ⟨fun i hi => Memory.get_setMany_inside hs hi, fun b hb => Memory.get_setMany_outside hs hb⟩

end Sys2Proof.Machine
end

section
/-!
Statements about the tick and slot boundaries with their overruns (R22, R26, R28, R467), and about the discipline of
the time base (R25, R30, R32).
-/

namespace Sys2Proof.Machine

/-! ### Overruns -/

/-- An overrun takes block and tick into TICK_OVR_LAST, counts in the block's counter, and raises its event over a
state in which nothing but the TICK registers has changed. -/
theorem noteOverrun_reports (src code blk t at' : Nat) (s : State) :
    ∃ u : State, noteOverrun src code blk t at' s = raiseAt at' src code (blk * 2 ^ 24 + t % 2 ^ 24) u ∧
      u.tick.ovrLast = wordOf (blk * 2 ^ 24 + t % 2 ^ 24) ∧
      Tab.get 0 u.tick.ovrCnt blk = min (Tab.get 0 s.tick.ovrCnt blk + 1) 0xFFFF ∧ u = { s with tick := u.tick } :=
  ⟨_, rfl, rfl, Tab.get_put_self .., rfl⟩

/-- Tick work that is abandoned and not told yet is told. -/
theorem tickOverrun_late {w : TickWork} {s : State} (hr : s.tick.running = true) (hl : s.overruns w = true)
    (ht : w ∉ s.tick.told) : tickOverrun w s =
      noteOverrun 4 1 (tickWorkBlock w) s.t (boundaryOf (s.t + 1)) { s with tick.told := w :: s.tick.told } := by
  simp [tickOverrun, hr, hl, ht]

/-- Sub-tick work that is abandoned is told, once. -/
theorem subtickOverrun_late {w : SlotWork} {s : State} (hr : s.tick.running = true) (hl : w ∈ s.tick.slotLate) :
    subtickOverrun w s = noteOverrun 5 (s.tick.slotG / slotLen % 10) (slotWorkBlock w) (s.tick.slotG / slotLen / 10)
      ((s.tick.slotG / slotLen + 1) * slotLen)
      { s with tick.slotLate := s.tick.slotLate.filter fun v => v != w } := by
  simp [subtickOverrun, hr, hl]

/-- Telling an overrun takes no time. -/
@[simp] theorem tickOverrun_gts (w : TickWork) (s : State) : (tickOverrun w s).gts = s.gts := by
  unfold tickOverrun
  split
  · exact raiseAt_gts ..
  · rfl

theorem foldl_tickOverrun_gts : ∀ (ws : List TickWork) (s : State),
    (ws.foldl (fun s w => tickOverrun w s) s).gts = s.gts
  | [], _ => rfl
  | w :: ws, s => (foldl_tickOverrun_gts ws (tickOverrun w s)).trans (tickOverrun_gts w s)

/-- Telling the overruns of the tick that ends leaves the module in that tick. -/
@[simp] theorem overrunTick_t (late : List TickWork) (s : State) : (overrunTick late s).t = s.t :=
  congrArg (· / tickLen) (foldl_tickOverrun_gts s.tick.late s)

/-! ### The boundaries -/

/-- With a time base, the boundary tells the overruns, takes GTS to the next boundary and runs the tick's work. -/
theorem tickBoundary_running {i : TickInputs} {s : State} (hr : s.tick.running = true) : tickBoundary i s =
    tickModule i (tickServices (boundaryOf (s.t + 1)) i
      (tickEdge (boundaryOf (s.t + 1)) i { overrunTick i.overrun s with gts := boundaryOf (s.t + 1) })) := by
  simp [tickBoundary, hr]

/-- Without a time base there is no tick boundary (R22). -/
theorem tickBoundary_stopped {i : TickInputs} {s : State} (hr : s.tick.running = false) : tickBoundary i s = s := by
  simp [tickBoundary, hr]

/-- Nothing in the tick's work takes GTS back. -/
theorem tickWork_gts_le {i : TickInputs} {b : Nat} {s : State}
    (hr : (tickModule i (tickServices b i (tickEdge b i s))).tick.running = true) :
    s.gts ≤ (tickModule i (tickServices b i (tickEdge b i s))).gts := by
  have worked : Kept (clocksFrom s) (tickModule i (tickServices b i (tickEdge b i s))) :=
    tickModule_kept rfl (tickServices_kept (tickEdge_kept (clocksFrom_kept s)))
  exact worked.gts_le hr

/-- The slot boundary that comes next within the tick, with no abandoned work of the slot that ends. -/
theorem slotBoundary_next {cur : Tab Nat} {late : List SlotWork} {s : State} (hr : s.tick.running = true)
    (hl : s.tick.slotLate = []) (hp : s.gts / slotLen * slotLen ≤ s.tick.slotG)
    (hb : s.gts / slotLen * slotLen + slotLen < boundaryOf (s.t + 1)) :
    slotBoundary cur late s = lswSlot (s.gts / slotLen * slotLen + slotLen) cur
      { s.advance (s.gts / slotLen * slotLen + slotLen) with
        tick.slotG := s.gts / slotLen * slotLen + slotLen, tick.slotLate := late } := by
  simp [slotBoundary, hr, hl, Nat.not_lt.2 hp, Nat.not_le.2 hb]

/-- Without a time base there is no slot boundary (R22). -/
theorem slotBoundary_stopped {cur : Tab Nat} {late : List SlotWork} {s : State} (hr : s.tick.running = false) :
    slotBoundary cur late s = s := by
  simp [slotBoundary, hr]

/-- Settles O11: the two boundaries with and without a time base, then the two kinds of overrun. -/
theorem boundariesAndOverruns : Obligations.BoundariesAndOverruns := by
  refine ⟨⟨fun i s hr => ?_, fun i s t hr h running => ?_, fun cur late s hr hl hp hb => ?_,
    fun i cur late s hr => ?_⟩, fun w s hr hl ht => ?_, fun w s hr hl => ?_⟩
  · exact congrArg Host.Outcome.next (tickBoundary_running hr)
  · obtain rfl : _ = t := (tickBoundary_running hr).symm.trans (Host.Outcome.next.inj h)
    exact tickWork_gts_le running
  · exact congrArg Host.Outcome.next (slotBoundary_next hr hl hp hb)
  · exact ⟨congrArg Host.Outcome.next (tickBoundary_stopped hr), congrArg Host.Outcome.next (slotBoundary_stopped hr)⟩
  · obtain ⟨u, raised, last, count, rest⟩ := noteOverrun_reports 4 1 (tickWorkBlock w) s.t (boundaryOf (s.t + 1))
      { s with tick.told := w :: s.tick.told }
    exact ⟨u, congrArg Host.Outcome.next ((tickOverrun_late hr hl ht).trans raised), last, count, rest⟩
  · obtain ⟨u, raised, last, count, rest⟩ := noteOverrun_reports 5 (s.tick.slotG / slotLen % 10) (slotWorkBlock w)
      (s.tick.slotG / slotLen / 10) ((s.tick.slotG / slotLen + 1) * slotLen)
      { s with tick.slotLate := s.tick.slotLate.filter fun v => v != w }
    exact ⟨u, congrArg Host.Outcome.next ((subtickOverrun_late hr hl).trans raised), last, count, rest⟩

/-! ### The discipline -/

/-- Staging a record leaves the SYS registers alone. -/
@[simp] theorem stageRecord_sys (s : State) (r : List Word) : (stageRecord s r).sys = s.sys := by
  unfold stageRecord
  dsimp only
  split <;> rfl

/-- What raising an event does to the SYS registers: the merger takes it where one runs. -/
theorem raise_sys (src code d : Nat) (s : State) : (raise src code d s).sys =
    if s.mergerOn then
      { s.sys with
        merger := insertEv { gts := s.gts, src := src, code := code, data := wordOf d } s.sys.merger }
    else s.sys := by
  unfold raise raiseAt raiseEv
  split
  · rfl
  · exact stageRecord_sys ..

/-- A trim's word, given as a count and taken as a word again. -/
theorem wordOf_wordOfInt (i : Int) : wordOf (wordOfInt i).toNat = wordOfInt i := BitVec.ofNat_toNat ..

/-- A change of the discipline's state raises source 6 with the new state and TICK_TRIM (R25, R32). -/
theorem setDisc_ne {d : Disc} {s : State} (h : s.tick.disc ≠ d) :
    setDisc d s = raise 6 d.code (wordOfInt s.tick.trim).toNat { s with tick.disc := d } := by
  simp [setDisc, h, raise, raiseAt, wordOf_wordOfInt]

/-- What `toHoldover` comes to in the TICK registers, and what it leaves alone. -/
theorem toHoldover_frame (s : State) :
    (toHoldover s).tick = { s.tick with
      disc := .holdover, discSrc := none
      sinceLocked := if s.tick.disc = .locked then some 0 else s.tick.sinceLocked } ∧
    (toHoldover s).mem = s.mem ∧ (toHoldover s).gts = s.gts ∧ (toHoldover s).hri = s.hri := by
  unfold toHoldover
  by_cases h : s.tick.disc = .holdover
  · simp [setDisc, h]
  · simp [setDisc_ne h]

/-- The event of a way to HOLDOVER. -/
theorem toHoldover_sys {s : State} (h : s.tick.disc ≠ .holdover) :
    (toHoldover s).sys = (raise 6 3 (wordOfInt s.tick.trim).toNat s).sys := by
  unfold toHoldover
  rw [setDisc_ne h]
  change (raise ..).sys = _
  rw [raise_sys, raise_sys]
  rfl

theorem tickDiscWrite_on {v : Word} {s : State} (h : bitOf v 31 = true) :
    tickDiscWrite v s = { s with tick.discEn := true } := by
  simp [tickDiscWrite, h]

/-- EN 1 to 0 holds the trim (R25). -/
theorem tickDiscWrite_off {v : Word} {s : State} (h : bitOf v 31 = false) (he : s.tick.discEn = true) :
    tickDiscWrite v s = toHoldover { s with tick.discEn := false } := by
  simp [tickDiscWrite, h, he]

/-- EN 0 written over EN 0 changes nothing. -/
theorem tickDiscWrite_stay {v : Word} {s : State} (h : bitOf v 31 = false) (he : s.tick.discEn = false) :
    tickDiscWrite v s = s := by
  have same : ({ s with tick.discEn := false } : State) = s := by rw [← he]
  calc tickDiscWrite v s = { s with tick.discEn := false } := by simp [tickDiscWrite, h, he]
    _ = s := same

theorem disciplineAcquire_fits {src : DiscSource} {s : State} (hr : s.tick.running = true)
    (he : s.tick.discEn = true) (hf : sourceFits s src = true) (hd : s.tick.disc = .free ∨ s.tick.disc = .holdover) :
    disciplineAcquire src s = setDisc .acquire { s with tick.discSrc := some src, tick.rateRun := 0 } := by
  simp [disciplineAcquire, hr, he, hf, hd]

theorem disciplineAcquire_not {src : DiscSource} {s : State} (h : s.tick.discEn = false ∨ sourceFits s src = false ∨
    s.tick.disc = .acquire ∨ s.tick.disc = .locked) : disciplineAcquire src s = s := by
  unfold disciplineAcquire
  obtain h | h | h | h := h <;> simp [h]

theorem disciplineLocked_steady (trim : Int) {s : State} (hd : s.tick.disc = .acquire) (hs : s.tick.discSrc ≠ none)
    (hn : 1000 ≤ s.tick.rateRun) : disciplineLocked trim s = setDisc .locked { s with
      tick.trim := clampInt (-100000) 100000 trim, tick.uncert := 0, tick.sinceLocked := none } :=
  if_pos ⟨hd, hs, hn⟩

theorem disciplineLocked_not (trim : Int) {s : State} (h : s.tick.rateRun < 1000 ∨ s.tick.disc ≠ .acquire ∨
    s.tick.discSrc = none) : disciplineLocked trim s = s :=
  if_neg fun ⟨hd, hs, hn⟩ => by
    obtain h | h | h := h
    · exact absurd hn (Nat.not_le.2 h)
    · exact h hd
    · exact hs h

/-- Settles O12, command by command: TICK_DISC written, a source acquired, locked and lost. -/
theorem disciplineMovesThroughItsStates : Obligations.DisciplineMovesThroughItsStates := by
  refine ⟨fun a v s ho hv => ?_, fun a v s ho hv he => ?_, fun a v s ho hv he => ?_, fun src s hr he hf hd => ?_,
    fun src s h => ?_, fun trim s hd hs hn => ?_, fun trim s h => ?_, fun s => ⟨fun hd => ?_, fun hd => ?_⟩⟩
  · exact congrArg Host.Outcome.next ((gateWrite_open _ ho).trans (tickDiscWrite_on hv))
  · obtain ⟨tick, mem, gts, -⟩ := toHoldover_frame { s.reply a .ok with tick.discEn := false }
    exact ⟨_, congrArg Host.Outcome.next ((gateWrite_open _ ho).trans (tickDiscWrite_off hv he)),
      congrArg Tick.discEn tick, congrArg Tick.disc tick, congrArg Tick.discSrc tick, (congrArg Tick.trim tick :),
      mem, gts⟩
  · exact congrArg Host.Outcome.next ((gateWrite_open _ ho).trans (tickDiscWrite_stay hv he))
  · have moves : s.tick.disc ≠ .acquire := by obtain h | h := hd <;> simp [h]
    exact congrArg Host.Outcome.next ((disciplineAcquire_fits hr he hf hd).trans (setDisc_ne moves))
  · exact congrArg Host.Outcome.next (disciplineAcquire_not h)
  · have moves : s.tick.disc ≠ .locked := by simp [hd]
    exact congrArg Host.Outcome.next ((disciplineLocked_steady trim hd hs hn).trans (setDisc_ne moves))
  · exact congrArg Host.Outcome.next (disciplineLocked_not trim h)
  · have moves : s.tick.disc ≠ .holdover := by obtain h | h := hd <;> simp [h]
    obtain ⟨tick, mem, gts, hri⟩ := toHoldover_frame s
    exact ⟨_, congrArg Host.Outcome.next (if_pos hd), tick, toHoldover_sys moves, mem, gts, hri⟩
  · have out : ¬ (s.tick.disc = .locked ∨ s.tick.disc = .acquire) := by obtain h | h := hd <;> simp [h]
    exact congrArg Host.Outcome.next (if_neg out)

end Sys2Proof.Machine
end

section
/-!
Statements about the event queue and the merger (R18, R19, R33 to R35): the registers of the queue, how an event
leaves the merger, what is written, and the order in which events wait.
-/

namespace Sys2Proof.Machine

/-! ### The registers of the queue -/

/-- EN 0 to 1 takes LOG2 and starts at index 0 (R18). -/
theorem evqCtlWrite_start {v : Word} {s : State} (he : s.sys.evqEn = false) (hv : bitOf v 31 = true) :
    evqCtlWrite v s =
      { s with sys.evqLog2 := bitsOf v 4 0, sys.prod := 0, sys.cons := 0, sys.evqEn := true } := by
  simp [evqCtlWrite, he, hv]

/-- While the queue is enabled only EN is taken (R18). -/
theorem evqCtlWrite_enabled {v : Word} {s : State} (he : s.sys.evqEn = true) :
    evqCtlWrite v s = { s with sys.evqEn := bitOf v 31 } := by
  simp [evqCtlWrite, he]

/-- With no entry lost to a full queue there is no EVQ_OVERFLOW to write (R19). -/
theorem writeOverflow_none {s : State} (h : s.sys.ovfCount = 0) : writeOverflow s = s := by
  simp [writeOverflow, h]

/-- CONS is taken up to PROD (R19). -/
theorem evqConsWrite_upto {v : Word} {s : State} (hn : s.sys.ovfCount = 0)
    (hv : sub32 v.toNat s.sys.cons ≤ sub32 s.sys.prod s.sys.cons) :
    evqConsWrite v s = { s with sys.cons := v.toNat } := by
  have quiet : ({ s with sys.cons := v.toNat } : State).sys.ovfCount = 0 := hn
  simp only [evqConsWrite, if_pos hv, writeOverflow_none quiet]

/-- CONS beyond PROD is ignored (R19). -/
theorem evqConsWrite_beyond {v : Word} {s : State} (hv : sub32 s.sys.prod s.sys.cons < sub32 v.toNat s.sys.cons) :
    evqConsWrite v s = s :=
  if_neg (Nat.not_le.2 hv)

/-- SYS_SWEVT raises its source (R35). -/
theorem swevt_raises {v : Word} {s : State} (hv : 496 ≤ bitsOf v 8 0) :
    swevt v s = raise (bitsOf v 8 0) (bitsOf v 23 16) s.sys.swevtData.toNat s := by
  have data : wordOf s.sys.swevtData.toNat = s.sys.swevtData := BitVec.ofNat_toNat ..
  simp only [swevt, if_pos hv, raise, raiseAt, data]

/-- SYS_SWEVT ignores the sources below 496 (R35). -/
theorem swevt_ignores {v : Word} {s : State} (hv : bitsOf v 8 0 < 496) : swevt v s = s :=
  if_neg (Nat.not_le.2 hv)

/-! ### An event leaves the merger -/

/-- The first event of the merger leaves it once it is due (R34). -/
theorem eventQueueWrite_due {e : Ev} {r : List Ev} {s : State} (hm : s.mergerOn = true) (hq : s.sys.merger = e :: r)
    (hd : e.gts + 40000 ≤ s.gts) : eventQueueWrite s = release e { s with sys.merger := r } := by
  have due : ¬ s.gts < e.gts + mergerDelay := Nat.not_lt.2 hd
  simp [eventQueueWrite, hm, hq, due]

/-- Placing a record changes the recorder alone. -/
theorem placeRecord_frame (rec : List Word) (s : State) : ∃ q, placeRecord rec s = { s with recorder := q } := by
  unfold placeRecord
  split <;> exact ⟨_, rfl⟩

/-- The recorder takes an event into its own registers and staging, and touches nothing else (R435). -/
theorem recordEvent_frame (e : Ev) (ooo : Bool) (s : State) :
    ∃ q, recordEvent e ooo s = { s with recorder := q } := by
  unfold recordEvent
  dsimp only
  split
  · exact ⟨_, rfl⟩
  · split
    · exact placeRecord_frame ..
    · split
      · exact ⟨_, rfl⟩
      · exact placeRecord_frame ..

/-- With no EVQ_OVERFLOW to write, an event goes to the recorder and is offered to the queue. -/
theorem release_offers (e : Ev) {s : State} (h : s.sys.ovfCount = 0) : ∃ q p,
    release e s = offer e (outOfOrder s e) { s with recorder := q, sys.lastPos := p } := by
  obtain ⟨q, recorded⟩ := recordEvent_frame e (e.precedes s.sys.lastPos) s
  refine ⟨q, e.latest s.sys.lastPos, ?_⟩
  simp only [release, writeOverflow_none h, recorded]
  rfl

/-- A source that SYS_EVT_EN shuts out writes nothing (R18). -/
theorem offer_shut {e : Ev} {ooo : Bool} {s : State} (h : s.sys.letsIn e.src = false) : offer e ooo s = s := by
  simp [offer, h]

/-- An entry has 16 bytes (R34). -/
theorem evqBytes_length (e : Ev) (ooo : Bool) : (evqBytes e ooo).length = 16 := by
  simp [evqBytes]

/-- The address of the entry that is written next: the place PROD gives (R18). -/
def Sys.entryAt (y : Sys) : Nat := y.evqBase.toNat / 16 * 16 + 16 * (y.prod % 2 ^ y.evqLog2)

/-- An entry whose write the fabric carries: its bytes stand at PROD's place, and PROD moves on by one (R19). -/
theorem writeEntry_carried {e : Ev} {ooo : Bool} {s : State}
    (hb : s.busVerdict 0x2D false true s.sys.entryAt 16 = .ok) :
    writeEntry e ooo s = ({ s with
      mem := Memory.setMany s.mem s.sys.entryAt (evqBytes e ooo)
      sys.prod := (s.sys.prod + 1) % 2 ^ 32, sys.lastPut := e.latest s.sys.lastPut }, true) := by
  have carried : s.busVerdict 0x2D false true s.sys.entryAt (evqBytes e ooo).length = .ok := by
    rw [evqBytes_length]
    exact hb
  unfold writeEntry Sys.evqSize
  dsimp only
  rw [← Sys.entryAt, busWrite_ok carried]
  rfl

/-- A queue that runs, lets the source in and has a place free writes the entry (R19). -/
theorem offer_written {e : Ev} {ooo : Bool} {s : State} (hr : s.sys.evqOn = true) (hf : s.sys.evqFull = false)
    (hl : s.sys.letsIn e.src = true) : offer e ooo s = (writeEntry e ooo s).1 := by
  simp [offer, hr, hl, hf]

/-- An event that leaves the merger for a queue that takes it: the recorder has its own, and the entry is written. -/
theorem release_written {e : Ev} {s : State} (hn : s.sys.ovfCount = 0) (hr : s.sys.evqOn = true)
    (hf : s.sys.evqFull = false) (hl : s.sys.letsIn e.src = true)
    (hb : s.busVerdict 0x2D false true s.sys.entryAt 16 = .ok) : ∃ q p, release e s = { s with
      mem := Memory.setMany s.mem s.sys.entryAt (evqBytes e (outOfOrder s e)), recorder := q
      sys.prod := (s.sys.prod + 1) % 2 ^ 32, sys.lastPos := p, sys.lastPut := e.latest s.sys.lastPut } := by
  obtain ⟨q, p, offered⟩ := release_offers e hn
  exact ⟨q, p, offered.trans (Eq.trans (offer_written (by exact hr) (by exact hf) (by exact hl))
    (congrArg Prod.fst (writeEntry_carried (by exact hb))))⟩

/-! ### The order of the merger (R33) -/

/-- The order of R33, by GTS, source, and the order within the source. -/
theorem Ev.before_iff {a b : Ev} : a.before b = true ↔
    a.gts < b.gts ∨ a.gts = b.gts ∧ (a.src < b.src ∨ a.src = b.src ∧ a.sub < b.sub) := by
  simp [Ev.before]

theorem Ev.before_asymm {a b : Ev} (h : a.before b = true) : b.before a = false := by
  rw [Bool.eq_false_iff, Ne, Ev.before_iff]
  rw [Ev.before_iff] at h
  omega

/-- What does not come before an event does not come before an earlier one. -/
theorem Ev.not_before_of_before {a b c : Ev} (h : a.before b = true) (hc : c.before b = false) :
    c.before a = false := by
  rw [Bool.eq_false_iff, Ne, Ev.before_iff] at hc ⊢
  rw [Ev.before_iff] at h
  omega

/-- Placing an event adds it and nothing else. -/
theorem insertEv_perm (e : Ev) : ∀ l : List Ev, (insertEv e l).Perm (e :: l)
  | [] => .refl _
  | x :: r => by
    unfold insertEv
    split
    · exact .refl _
    · exact ((insertEv_perm e r).cons x).trans (.swap ..)

/-- Placing an event keeps the order. -/
theorem insertEv_ordered (e : Ev) : ∀ {l : List Ev}, l.Pairwise (fun a b => b.before a = false) →
    (insertEv e l).Pairwise (fun a b => b.before a = false)
  | [], _ => List.pairwise_singleton ..
  | x :: r, h => by
    obtain ⟨hx, hr⟩ := List.pairwise_cons.1 h
    unfold insertEv
    split
    next first =>
      refine List.pairwise_cons.2 ⟨fun y hy => ?_, h⟩
      obtain rfl | hy := List.mem_cons.1 hy
      · exact Ev.before_asymm first
      · exact Ev.not_before_of_before first (hx y hy)
    next later =>
      refine List.pairwise_cons.2 ⟨fun y hy => ?_, insertEv_ordered e hr⟩
      obtain rfl | hy := List.mem_cons.1 ((insertEv_perm e r).mem_iff.1 hy)
      · exact Bool.eq_false_iff.2 later
      · exact hx y hy

/-- Where the merger runs, an event raised is placed in it (R34). -/
theorem raiseEv_merger (e : Ev) {s : State} (h : s.mergerOn = true) :
    (raiseEv e s).sys.merger = insertEv e s.sys.merger := by
  simp [raiseEv, h]

/-- Settles O13: the queue's registers, the way of an event through the queue, and the order of the merger. -/
theorem eventsReachTheQueueInOrder : Obligations.EventsReachTheQueueInOrder := by
  refine ⟨⟨fun a v s ho he hv => ?_, fun a v s ho he => ?_, fun a v s ho hn hv => ?_, fun a v s ho hv => ?_,
    fun a v s ho hv => ?_, fun a v s ho hv => ?_⟩, fun e r s hm hq hd hn hr hf => ⟨fun hl hb => ?_, fun hl => ?_⟩,
    fun e s hm hs => ?_⟩
  · exact congrArg Host.Outcome.next ((gateWrite_open _ ho).trans (evqCtlWrite_start he hv))
  · exact congrArg Host.Outcome.next ((gateWrite_open _ ho).trans (evqCtlWrite_enabled he))
  · exact congrArg Host.Outcome.next ((gateWrite_open _ ho).trans (evqConsWrite_upto hn hv))
  · exact congrArg Host.Outcome.next ((gateWrite_open _ ho).trans (evqConsWrite_beyond hv))
  · exact congrArg Host.Outcome.next ((gateWrite_open _ ho).trans (swevt_raises hv))
  · exact congrArg Host.Outcome.next ((gateWrite_open _ ho).trans (swevt_ignores hv))
  · obtain ⟨q, p, written⟩ := release_written (s := { s with sys.merger := r }) hn hr hf hl hb
    exact ⟨_, congrArg Host.Outcome.next ((eventQueueWrite_due hm hq hd).trans written), rfl, rfl, rfl, rfl, rfl⟩
  · obtain ⟨q, p, offered⟩ := release_offers e (s := { s with sys.merger := r }) hn
    have shut := offered.trans (offer_shut (by exact hl))
    exact ⟨_, congrArg Host.Outcome.next ((eventQueueWrite_due hm hq hd).trans shut), rfl, rfl, rfl⟩
  · rw [raiseEv_merger e hm]
    exact ⟨insertEv_ordered e hs, insertEv_perm e _⟩

/-! ### The recorder's OUT_OF_ORDER while the queue is off -/

/-- An event of source 4, whose cause lies in tick 4. -/
def earlierEvent : Ev := { gts := 1950000, src := 4, code := 1, data := 7 }

/-- A module in Run at the boundary of tick 5 whose event queue has never been enabled, so that nothing has been
written to it. An event with the cause GTS 1,960,000 has left the merger to the recorder, and the earlier event stands
in front. -/
def afterLaterEvent : State :=
  { mode := .run, start := .ready, pd := 0x1FFF, tick.running := true, gts := 2000000
    sys.merger := [earlierEvent], sys.lastPos := some (1960000, 4) }

/-- Word 0 of the records that wait in staging. -/
def stagedHeads (r : Rec) : List Word := r.staging.map fun rec => rec.getD 0 0

/-- The recorder goes by what has left the merger, and marks the record (bit 15, R430). -/
theorem eventQueueWrite_marks_record : stagedHeads (eventQueueWrite afterLaterEvent).recorder = [0x0001_8004] := by
  decide

/-- By what has been written to the queue the event is not out of order. -/
theorem recordEvent_by_queue_no_mark :
    stagedHeads (recordEvent earlierEvent (outOfOrder afterLaterEvent earlierEvent) afterLaterEvent).recorder =
      [0x0001_0004] := by
  decide

/-- Refutes O14: with the queue off nothing is written to it, so `outOfOrder`, which goes by the entries written,
says in order; the recorder's flag goes by the events that have left the merger (R435), and the record of an event
behind a later one carries OUT_OF_ORDER. -/
theorem not_theDisabledQueueTakesNothing : ¬ Obligations.TheDisabledQueueTakesNothing := by
  intro ⟨_, _, _, off⟩
  obtain ⟨t, ht, -, -, -, -, recorded⟩ := off earlierEvent [] afterLaterEvent rfl rfl (by decide) rfl
  have after : t = eventQueueWrite afterLaterEvent := (Host.Outcome.next.inj ht).symm
  have heads := congrArg stagedHeads recorded
  rw [after, eventQueueWrite_marks_record, recordEvent_by_queue_no_mark] at heads
  exact absurd heads (by decide)

end Sys2Proof.Machine
end

section
/-!
Shared by the statements about rings and fences (02): what an event leaves alone, a ring put back and published, and
the words of the ring registers that a command completes.
-/

namespace Sys2Proof.Machine

/-! ### An event reaches the merger and the recorder alone -/

/-- Staging a record changes the recorder alone. -/
theorem stageRecord_frame (s : State) (r : List Word) : ∃ q, stageRecord s r = { s with recorder := q } := by
  unfold stageRecord
  dsimp only
  split <;> exact ⟨_, rfl⟩

/-- An event raised reaches the SYS registers or the recorder (R34, R436). -/
theorem raiseEv_frame (e : Ev) (s : State) : ∃ y q, raiseEv e s = { s with sys := y, recorder := q } := by
  unfold raiseEv
  split
  · exact ⟨_, _, rfl⟩
  · obtain ⟨q, staged⟩ := stageRecord_frame s (mkRecord s 0 e.src e.code e.data false true)
    exact ⟨s.sys, q, staged⟩

/-- What raising an event does to the SYS registers: the merger takes it where one runs. -/
theorem raiseEv_sys (e : Ev) (s : State) : (raiseEv e s).sys =
    if s.mergerOn then { s.sys with merger := insertEv e s.sys.merger } else s.sys := by
  unfold raiseEv
  split
  · rfl
  · exact stageRecord_sys ..

/-- An event sets the SYS registers by what they, the mode and the domains were. -/
theorem raiseEv_sys_congr {e : Ev} {s t : State} (hy : t.sys = s.sys) (hm : t.mode = s.mode) (hp : t.pd = s.pd) :
    (raiseEv e t).sys = (raiseEv e s).sys := by
  have same : t.mergerOn = s.mergerOn := by simp only [State.mergerOn, State.pdOn, hm, hp]
  rw [raiseEv_sys, raiseEv_sys, same, hy]

@[simp] theorem raiseEv_ring (e : Ev) (s : State) (k : Nat) : (raiseEv e s).ring k = s.ring k := by
  simp [State.ring]

@[simp] theorem raiseEv_busVerdict (e : Ev) (s : State) (ini : Nat) (sec write : Bool) (addr len : Nat) :
    (raiseEv e s).busVerdict ini sec write addr len = s.busVerdict ini sec write addr len :=
  State.busVerdict_congr (by rw [raiseEv_fen]) (raiseEv_pd e s) ..

@[simp] theorem raise_busVerdict (src code d : Nat) (s : State) (ini : Nat) (sec write : Bool) (addr len : Nat) :
    (raise src code d s).busVerdict ini sec write addr len = s.busVerdict ini sec write addr len :=
  raiseEv_busVerdict ..

@[simp] theorem raise_sys_setRing (src code d n : Nat) (r : Ring) (s : State) :
    (raise src code d (s.setRing n r)).sys = (raise src code d s).sys :=
  raiseEv_sys_congr rfl rfl rfl

@[simp] theorem raise_sys_reply (src code d : Nat) (a : Access) (x : Resp) (s : State) :
    (raise src code d (s.reply a x)).sys = (raise src code d s).sys :=
  raiseEv_sys_congr rfl rfl rfl

/-! ### A transaction that is refused -/

/-- The check captures a refusal in the fences' registers and raises an event: no ring changes (R64). -/
@[simp] theorem busCheck_ring (kind ini : Nat) (sec write quiet : Bool) (addr len : Nat) (s : State) (k : Nat) :
    (busCheck kind ini sec write quiet addr len s).1.ring k = s.ring k := by
  have captured : (if s.busVerdict ini sec write addr len = .refused then refuse ini sec write addr s else s).ring k
      = s.ring k := by
    split <;> rfl
  unfold busCheck
  dsimp only
  split
  · exact captured
  · split
    · exact captured
    · exact (raiseEv_ring ..).trans captured

/-- A write to memory changes no ring. -/
@[simp] theorem busWrite_ring (kind ini : Nat) (sec quiet : Bool) (addr : Nat) (bs : List Byte) (s : State) (k : Nat) :
    (busWrite kind ini sec quiet addr bs s).1.ring k = s.ring k := by
  unfold busWrite
  dsimp only
  split
  · exact busCheck_ring ..
  · exact busCheck_ring ..

@[simp] theorem haltFence_mem (n : Nat) (h : Held) (kind : Nat) (s : State) : (haltFence n h kind s).mem = s.mem :=
  raise_mem ..

/-- The ring keeps the operation and the state it was in (R53, R56). -/
theorem haltFence_ring {n : Nat} {h : Held} {kind : Nat} {s : State} (hs : (s.ring n).state ≠ .haltedFence) :
    (haltFence n h kind s).ring n =
      { s.ring n with state := .haltedFence, held := some h, dbAt := none, haltFrom := (s.ring n).state } := by
  unfold haltFence ringEvent
  rw [raise_ring, State.setRing_self, if_neg hs]

/-! ### A ring put back and published -/

/-- Ring `n` replaced by `r`, and `r`'s publish block in memory (R43). -/
def State.published (s : State) (n : Nat) (r : Ring) : State :=
  (s.setRing n r).setMem (Memory.setMany s.mem (base64 r.cbase) (publishBytes r s.gts))

/-- The completion slots leave room for one more descriptor (R52). -/
def Ring.hasRoom (r : Ring) : Prop := sub16 r.sqHead r.cqHead < r.size

@[simp] theorem State.published_ring (s : State) (n : Nat) (r : Ring) : (s.published n r).ring n = r := by
  rw [State.published, State.setMem_ring, State.setRing_self]

@[simp] theorem State.published_mem (s : State) (n : Nat) (r : Ring) :
    (s.published n r).mem = Memory.setMany s.mem (base64 r.cbase) (publishBytes r s.gts) :=
  State.setMem_mem ..

theorem State.published_eq (s : State) (n : Nat) (r : Ring) : s.published n r = { s with
    hri.rings := Tab.put s.hri.rings n r
    mem := Memory.setMany s.mem (base64 r.cbase) (publishBytes r s.gts) } := by
  rfl

/-- Nothing but the rings and memory changes. -/
theorem State.published_frame (s : State) (n : Nat) (r : Ring) :
    s.published n r = { s with hri := (s.published n r).hri, mem := (s.published n r).mem } := by
  rw [State.published_eq]

theorem State.published_ring_ne {s : State} {n k : Nat} (r : Ring) (h : k ≠ n) :
    (s.published n r).ring k = s.ring k := by
  rw [State.published, State.setMem_ring, State.setRing_ne s r h]

/-- A publish that the fabric carries, of a ring just put back. -/
theorem publish_setRing {n : Nat} {r : Ring} {s : State}
    (h : s.busVerdict 0x2F false true (base64 r.cbase) 64 = .ok) : publish n (s.setRing n r) = s.published n r := by
  have carried : (s.setRing n r).busVerdict 0x2F false true (base64 ((s.setRing n r).ring n).cbase) 64 = .ok := by
    rwa [State.setRing_self]
  rw [publish_ok carried, State.setRing_self]
  rfl

/-- A ring that has room, or no descriptor waiting, does not stall as it is published (R53). -/
theorem settle_publish_setRing {n : Nat} {r : Ring} {s : State}
    (h : s.busVerdict 0x2F false true (base64 r.cbase) 64 = .ok) (room : r.hasRoom ∨ r.sqTail = r.sqHead) :
    settle n (publish n (s.setRing n r)) = s.published n r := by
  rw [publish_setRing h]
  exact settle_free fun _ => by rwa [State.published_ring]

/-- A ring that has room does not stall as it is put back. -/
theorem settle_setRing {n : Nat} {r : Ring} {s : State} (room : r.hasRoom) :
    settle n (s.setRing n r) = s.setRing n r :=
  settle_free fun _ => by
    rw [State.setRing_self]
    exact .inl room

/-! ### A word with one bit set -/

theorem bitOf_wordOf_pow (i j : Nat) : bitOf (wordOf (2 ^ i)) j = (decide (j < 32) && decide (i = j)) := by
  rw [bitOf, wordOf, BitVec.getLsbD_ofNat, Nat.testBit_two_pow]

theorem bitOf_of_ge (v : Word) {i : Nat} (h : 32 ≤ i) : bitOf v i = false := BitVec.getLsbD_of_ge v i h

theorem bitOf_setBit (v : Word) (i j : Nat) (b : Bool) (hj : j < 32) :
    bitOf (setBit v i b) j = if i = j then b else bitOf v j := by
  have one : bitOf (wordOf (2 ^ i)) j = decide (i = j) := by simp [bitOf_wordOf_pow, hj]
  cases b with
  | false =>
    calc bitOf (v &&& ~~~ wordOf (2 ^ i)) j = (bitOf v j && !bitOf (wordOf (2 ^ i)) j) := by
          simp only [bitOf, BitVec.getLsbD_and, BitVec.getLsbD_not, hj, decide_true, Bool.true_and]
      _ = if i = j then false else bitOf v j := by
          rw [one]
          split <;> simp [*]
  | true =>
    calc bitOf (v ||| wordOf (2 ^ i)) j = (bitOf v j || bitOf (wordOf (2 ^ i)) j) := BitVec.getLsbD_or
      _ = if i = j then true else bitOf v j := by
          rw [one]
          split <;> simp [*]

@[simp] theorem bitOf_setBit_self (v : Word) {i : Nat} (hi : i < 32) (b : Bool) : bitOf (setBit v i b) i = b := by
  rw [bitOf_setBit v i i b hi, if_pos rfl]

theorem bitOf_setBit_ne (v : Word) {i j : Nat} (h : i ≠ j) (b : Bool) : bitOf (setBit v i b) j = bitOf v j := by
  by_cases hj : j < 32
  · rw [bitOf_setBit v i j b hj, if_neg h]
  · rw [bitOf_of_ge _ (Nat.not_lt.1 hj), bitOf_of_ge _ (Nat.not_lt.1 hj)]

/-- The field of a word bit by bit. -/
theorem testBit_bitsOf (w : Word) (hi lo i : Nat) :
    (bitsOf w hi lo).testBit i = (decide (i < hi + 1 - lo) && bitOf w (lo + i)) := by
  simp [bitsOf, Nat.testBit_mod_two_pow, Nat.testBit_shiftRight, bitOf, BitVec.testBit_toNat]

/-- A bit above a field leaves the field alone. -/
theorem bitsOf_setBit_above (v : Word) {hi lo i : Nat} (h : hi < i) (b : Bool) :
    bitsOf (setBit v i b) hi lo = bitsOf v hi lo := by
  refine Nat.eq_of_testBit_eq fun j => ?_
  rw [testBit_bitsOf, testBit_bitsOf]
  by_cases hj : j < hi + 1 - lo
  · rw [bitOf_setBit_ne v (by omega) b]
  · simp [hj]

end Sys2Proof.Machine
end

section
/-!
Statements about the rings at work (R36 to R51, R57): doorbells and fetches, completions, a gap in the sequence and the
ways out of a halt.
-/

namespace Sys2Proof.Machine

/-! ### Doorbells (R45) -/

/-- A doorbell in range moves SQ_TAIL and starts the waiting time, and an ACTIVE ring with room goes on. -/
theorem sqDoorbell_moves {n : Nat} {v : Word} {s : State} (active : (s.ring n).state = .active)
    (room : (s.ring n).hasRoom) (inRange : sub16 (bitsOf v 15 0) (s.ring n).sqTail ≤
      ((s.ring n).size + sub16 (s.ring n).sqHead (s.ring n).sqTail) % 65536) :
    sqDoorbell n v s = s.setRing n { s.ring n with
      sqTail := bitsOf v 15 0
      dbAt := if bitsOf v 15 0 = (s.ring n).sqTail then (s.ring n).dbAt else some ((s.ring n).dbAt.getD s.gts) } := by
  have inside : ¬ ((s.ring n).state = .disabled ∨
      ((s.ring n).size + sub16 (s.ring n).sqHead (s.ring n).sqTail) % 65536 <
        sub16 (bitsOf v 15 0) (s.ring n).sqTail) := by
    simp [active, Nat.not_lt.2 inRange]
  unfold sqDoorbell
  rw [if_neg inside]
  refine (settle_setRing (by exact room)).trans ?_
  by_cases same : bitsOf v 15 0 = (s.ring n).sqTail <;> simp [active, same]

/-- A doorbell out of range, or of a DISABLED ring, is DB_RANGE (R45, R62). -/
theorem sqDoorbell_refused {n : Nat} {v : Word} {s : State} (h : (s.ring n).state = .disabled ∨
      ((s.ring n).size + sub16 (s.ring n).sqHead (s.ring n).sqTail) % 65536 <
        sub16 (bitsOf v 15 0) (s.ring n).sqTail) :
    sqDoorbell n v s = raise (32 + n) 3 (0 * 65536 + bitsOf v 15 0 % 65536) s :=
  if_pos h

/-- A completion doorbell in range moves CQ_HEAD. -/
theorem cqDoorbell_moves {n : Nat} {v : Word} {s : State} (on : (s.ring n).state ≠ .disabled)
    (free : (s.ring n).state ≠ .stalled)
    (inRange : sub16 (bitsOf v 15 0) (s.ring n).cqHead ≤ sub16 (s.ring n).cqTail (s.ring n).cqHead) :
    cqDoorbell n v s = s.setRing n { s.ring n with cqHead := bitsOf v 15 0 } := by
  simp [cqDoorbell, on, free, Nat.not_lt.2 inRange]

/-- A completion doorbell that frees a slot ends STALLED, and the ring is published (R53, R59; log 166). -/
theorem cqDoorbell_frees {n : Nat} {v : Word} {s : State} (stalled : (s.ring n).state = .stalled)
    (moves : bitsOf v 15 0 ≠ (s.ring n).cqHead)
    (inRange : sub16 (bitsOf v 15 0) (s.ring n).cqHead ≤ sub16 (s.ring n).cqTail (s.ring n).cqHead)
    (carried : s.busVerdict 0x2F false true (base64 (s.ring n).cbase) 64 = .ok) :
    cqDoorbell n v s = s.published n { s.ring n with cqHead := bitsOf v 15 0, state := .active } := by
  rw [← publish_setRing (by exact carried)]
  simp [cqDoorbell, stalled, moves, Nat.not_lt.2 inRange]

/-- A completion doorbell out of range, or of a DISABLED ring, is DB_RANGE (R45, R62). -/
theorem cqDoorbell_refused {n : Nat} {v : Word} {s : State} (h : (s.ring n).state = .disabled ∨
      sub16 (s.ring n).cqTail (s.ring n).cqHead < sub16 (bitsOf v 15 0) (s.ring n).cqHead) :
    cqDoorbell n v s = raise (32 + n) 3 (1 * 65536 + bitsOf v 15 0 % 65536) s :=
  if_pos h

/-! ### Fetch (R47 to R50) -/

/-- A descriptor out of sequence halts the ring (R50, R53). -/
theorem enlist_gap {n : Nat} {o : Op} {s : State} (gap : o.seq ≠ (s.ring n).expSeq) :
    enlist n o s = raise (32 + n) 2 ((s.ring n).expSeq * 65536 + o.seq) (s.setRing n { s.ring n with
      state := .haltedSeq, gapSeq := o.seq, dbAt := none
      ops := (s.ring n).ops ++ [endedOp o stSeqGap s.gts] }) :=
  if_pos gap

/-- A descriptor in sequence as it joins the outstanding ones: ended where a check of R47 fails. -/
def checkedOp (s : State) (r : Ring) (o : Op) : Op := (hriCheck s r o).elim o fun st => endedOp o st s.gts

/-- A descriptor in sequence joins the outstanding ones, and EXP_SEQ moves on (R50). -/
theorem enlist_inOrder {n : Nat} {o : Op} {s : State} (inOrder : o.seq = (s.ring n).expSeq) :
    enlist n o s = s.setRing n { s.ring n with
      expSeq := inc16 (s.ring n).expSeq, ops := (s.ring n).ops ++ [checkedOp s (s.ring n) o] } := by
  unfold enlist checkedOp
  rw [if_neg (not_not_intro inOrder)]
  cases hriCheck s (s.ring n) o <;> rfl

/-- The descriptor at SQ_HEAD as the fetch reads it. -/
def Ring.atHead (r : Ring) (s : State) : Op :=
  { words := leWords 16 (Memory.getMany s.mem (base64 r.sbase + 64 * (r.sqHead % r.size)) 64) }

/-- The ring as its fetch moves on: SQ_HEAD one further, and the doorbell time that is left. -/
def Ring.movedOn (r : Ring) (d : Option Nat) : Ring := { r with sqHead := inc16 r.sqHead, dbAt := d }

/-- A fetch of an ACTIVE ring that the fabric carries: the descriptor is enlisted and the ring published. Beside the
ring only HRI_FETCH_MAX and the doorbell time move. -/
theorem fetchOne_carried {n : Nat} {s : State} (active : (s.ring n).state = .active)
    (carried : s.busVerdict 0x2F false false
      (base64 (s.ring n).sbase + 64 * ((s.ring n).sqHead % (s.ring n).size)) 64 = .ok) :
    ∃ m d, fetchOne n s = settle n (publish n (enlist n ((s.ring n).atHead s)
      (({ s with hri.fetchMax := m } : State).setRing n ((s.ring n).movedOn d)))) := by
  unfold fetchOne
  dsimp only
  rw [busRead_ok carried]
  dsimp only
  rw [if_neg (not_not_intro rfl), if_neg (by simp [active])]
  exact ⟨_, _, rfl⟩

/-- The ring with a descriptor in sequence taken in. -/
def Ring.tookIn (r : Ring) (d : Option Nat) (o : Op) : Ring :=
  { r.movedOn d with expSeq := inc16 r.expSeq, ops := r.ops ++ [o] }

/-- A fetch of a descriptor in sequence, with the fabric open and completion slots to spare. -/
theorem descriptorFetch_inOrder {n : Nat} {s : State} (active : (s.ring n).state = .active)
    (waits : (s.ring n).sqHead ≠ (s.ring n).sqTail) (room : (s.ring n).hasRoom)
    (roomAfter : sub16 (inc16 (s.ring n).sqHead) (s.ring n).cqHead < (s.ring n).size)
    (read : s.busVerdict 0x2F false false
      (base64 (s.ring n).sbase + 64 * ((s.ring n).sqHead % (s.ring n).size)) 64 = .ok)
    (written : s.busVerdict 0x2F false true (base64 (s.ring n).cbase) 64 = .ok)
    (inOrder : ((s.ring n).atHead s).seq = (s.ring n).expSeq) :
    ∃ m d, descriptorFetch n s = ({ s with hri.fetchMax := m } : State).published n
      ((s.ring n).tookIn d (checkedOp s (s.ring n) ((s.ring n).atHead s))) := by
  have fetches : mayFetch (s.ring n) = true := by
    unfold Ring.hasRoom at room
    simp [mayFetch, active, waits, room]
  obtain ⟨m, d, fetched⟩ := fetchOne_carried active read
  refine ⟨m, d, (if_pos fetches).trans (fetched.trans ?_)⟩
  have moved := State.setRing_self { s with hri.fetchMax := m } n ((s.ring n).movedOn d)
  rw [enlist_inOrder (by rw [moved]; exact inOrder), moved, State.setRing_setRing]
  exact settle_publish_setRing (by exact written) (.inl roomAfter)

/-- Settles O16: the doorbells, then the fetch of a descriptor in sequence. -/
theorem ringsFetchTheirDescriptors : Obligations.RingsFetchTheirDescriptors := by
  refine ⟨fun a n v s ho => ⟨fun active room inRange => ?_, fun refused => ?_, fun on free inRange => ?_,
    fun stalled moves inRange carried => ?_, fun refused => ?_⟩,
    fun n s active waits room roomAfter read written inOrder => ?_⟩
  · exact congrArg Host.Outcome.next ((gateWrite_open _ ho).trans (sqDoorbell_moves active room inRange))
  · exact congrArg Host.Outcome.next ((gateWrite_open _ ho).trans (sqDoorbell_refused refused))
  · exact congrArg Host.Outcome.next ((gateWrite_open _ ho).trans (cqDoorbell_moves on free inRange))
  · exact congrArg Host.Outcome.next ((gateWrite_open _ ho).trans (cqDoorbell_frees stalled moves inRange carried))
  · exact congrArg Host.Outcome.next ((gateWrite_open _ ho).trans (cqDoorbell_refused refused))
  · obtain ⟨m, d, fetched⟩ := descriptorFetch_inOrder active waits room roomAfter read written inOrder
    refine ⟨_, congrArg Host.Outcome.next fetched, ?_⟩
    rw [State.published_ring]
    exact ⟨rfl, rfl, rfl, active, rfl, State.published_mem .., fun k hk => State.published_ring_ne _ hk,
      State.published_frame ..⟩

/-! ### Completions (R40 to R43) -/

/-- Nothing is posted while the oldest descriptor is not done. -/
theorem completionPost_waits {n : Nat} {o : Op} {rest : List Op} {s : State} (oldest : (s.ring n).ops = o :: rest)
    (ours : o.orphan = false) (runs : o.stage ≠ .done) : completionPost n s = s := by
  simp [completionPost, nextPost, oldest, ours, runs]

/-- The oldest descriptor is posted once it is done. -/
theorem completionPost_posts {n : Nat} {o : Op} {rest : List Op} {s : State} (oldest : (s.ring n).ops = o :: rest)
    (ours : o.orphan = false) (done : o.stage = .done) (posts : (s.ring n).state.posts = true) :
    completionPost n s = postOne n o rest s := by
  simp [completionPost, nextPost, oldest, ours, done, posts]

/-- Where the next completion entry goes (R41). -/
def Ring.entryPlace (r : Ring) : Nat := base64 r.cbase + 64 + 32 * (r.cqTail % r.size)

/-- The ring's COMPLETION event, where the descriptor asks for it (R62). -/
def tellCompletion (n : Nat) (o : Op) (s : State) : State :=
  if o.evt then raiseAt o.doneAt (32 + n) 1 (o.status * 65536 + o.seq) s else s

/-- A completion with SCHEMA of a module on trial is noted (R405). -/
def noteSchema (o : Op) (s : State) : State :=
  if o.status = stSchema && unconfigured s then { s with upd.schemaSeen := true } else s

/-- Event and note reach the merger, the recorder and the update registers alone, and by the rings and memory they see
nothing. -/
theorem completionTold_frame (n : Nat) (o : Op) (h : Hri) (m : List Host.Cell) (s : State) :
    ∃ q p, noteSchema o (tellCompletion n o { s with hri := h, mem := m }) =
      { s with hri := h, mem := m, sys := (tellCompletion n o s).sys, recorder := q, upd := p } := by
  have told : ∃ q, tellCompletion n o { s with hri := h, mem := m } =
      { s with hri := h, mem := m, sys := (tellCompletion n o s).sys, recorder := q } := by
    unfold tellCompletion
    split
    · obtain ⟨y, q, raised⟩ := raiseEv_frame
        { gts := o.doneAt, src := 32 + n, code := 1, data := wordOf (o.status * 65536 + o.seq) }
        { s with hri := h, mem := m }
      have sys := (congrArg State.sys raised).symm.trans (raiseEv_sys_congr (s := s) rfl rfl rfl)
      exact ⟨q, sys ▸ raised⟩
    · exact ⟨s.recorder, rfl⟩
  obtain ⟨q, told⟩ := told
  rw [told]
  unfold noteSchema
  split <;> exact ⟨q, _, rfl⟩

/-- The ring with its oldest descriptor's completion posted: in a drain it counts those flushed. -/
def Ring.posted (r : Ring) (o : Op) (rest : List Op) : Ring :=
  { r with
    cqTail := inc16 r.cqTail, ops := rest
    flushed := r.flushed + oneIf (r.state == .draining && o.status == stFlushed) }

theorem Ring.posted_plain {r : Ring} (o : Op) (rest : List Op) (h : r.state ≠ .draining) :
    r.posted o rest = { r with cqTail := inc16 r.cqTail, ops := rest } := by
  simp [Ring.posted, h, oneIf]

/-- A post writes the entry; refused it is held, carried it is followed by the event and the publish block. -/
theorem postOne_eq (n : Nat) (o : Op) (rest : List Op) (s : State) :
    postOne n o rest s =
      let w := busWrite 3 0x2F false false (s.ring n).entryPlace (entryBytes (s.ring n) o) s
      if w.2 ≠ .ok then haltFence n .entry 1 w.1
      else publish n (noteSchema o (tellCompletion n o (w.1.setRing n { w.1.ring n with
        cqTail := inc16 (s.ring n).cqTail, ops := rest
        flushed := (s.ring n).flushed + oneIf ((s.ring n).state == .draining && o.status == stFlushed) }))) := by
  rfl

theorem State.setMem_setRing (s : State) (m : List Host.Cell) (n : Nat) (r : Ring) :
    (s.setMem m).setRing n r = { s with hri := (s.setRing n r).hri, mem := m } := by
  rfl

/-- Ring `n` once the completion of its oldest descriptor is posted, with the event told and `m` in memory: `q` and `p`
are what the recorder and the update registers have become. -/
def State.afterPost (s : State) (n : Nat) (o : Op) (rest : List Op) (m : List Host.Cell) (q : Rec) (p : Upd) : State :=
  { s with
    hri := (s.setRing n ((s.ring n).posted o rest)).hri, mem := m
    sys := (tellCompletion n o s).sys, recorder := q, upd := p }

section
variable (s : State) (n : Nat) (o : Op) (rest : List Op) (m : List Host.Cell) (q : Rec) (p : Upd)

@[simp] theorem State.afterPost_mem : (s.afterPost n o rest m q p).mem = m := by rfl

@[simp] theorem State.afterPost_gts : (s.afterPost n o rest m q p).gts = s.gts := by rfl

theorem State.afterPost_setMem (m' : List Host.Cell) :
    (s.afterPost n o rest m q p).setMem m' = s.afterPost n o rest m' q p := by
  rfl

theorem State.afterPost_ring (k : Nat) :
    (s.afterPost n o rest m q p).ring k = (s.setRing n ((s.ring n).posted o rest)).ring k := by
  rfl

@[simp] theorem State.afterPost_ring_self : (s.afterPost n o rest m q p).ring n = (s.ring n).posted o rest :=
  (s.afterPost_ring n o rest m q p n).trans (s.setRing_self ..)

theorem State.afterPost_busVerdict (ini : Nat) (sec write : Bool) (addr len : Nat) :
    (s.afterPost n o rest m q p).busVerdict ini sec write addr len = s.busVerdict ini sec write addr len := by
  rfl

/-- Beside the rings, memory and the event, the recorder and the update registers may have changed. -/
theorem State.afterPost_frame :
    let t := s.afterPost n o rest m q p
    t.sys = (tellCompletion n o s).sys ∧
      t = { s with hri := t.hri, mem := t.mem, sys := t.sys, recorder := t.recorder, upd := t.upd } :=
  ⟨rfl, rfl⟩

end

/-- A completion entry that the fabric carries: the publish block follows. -/
theorem postOne_carried {n : Nat} {o : Op} {rest : List Op} {s : State}
    (carried : s.busVerdict 0x2F false true (s.ring n).entryPlace 32 = .ok) :
    ∃ q p, postOne n o rest s = publish n (s.afterPost n o rest
      (Memory.setMany s.mem (s.ring n).entryPlace (entryBytes (s.ring n) o)) q p) := by
  have wrote := busWrite_ok (kind := 3) (quiet := false) (bs := entryBytes (s.ring n) o)
    (by rwa [entryBytes_length])
  obtain ⟨q, p, told⟩ := completionTold_frame n o (s.setRing n ((s.ring n).posted o rest)).hri
    (Memory.setMany s.mem (s.ring n).entryPlace (entryBytes (s.ring n) o)) s
  refine ⟨q, p, ?_⟩
  rw [postOne_eq, wrote]
  dsimp only
  rw [if_neg (not_not_intro rfl), State.setMem_ring, ← Ring.posted, State.setMem_setRing, told, State.afterPost]

/-- A post whose entry and publish block the fabric carries. -/
theorem postOne_published {n : Nat} {o : Op} {rest : List Op} {s : State}
    (entry : s.busVerdict 0x2F false true (s.ring n).entryPlace 32 = .ok)
    (block : s.busVerdict 0x2F false true (base64 (s.ring n).cbase) 64 = .ok) :
    ∃ q p, postOne n o rest s = s.afterPost n o rest (Memory.setMany
      (Memory.setMany s.mem (s.ring n).entryPlace (entryBytes (s.ring n) o)) (base64 (s.ring n).cbase)
      (publishBytes ((s.ring n).posted o rest) s.gts)) q p := by
  obtain ⟨q, p, posted⟩ := postOne_carried (n := n) (o := o) (rest := rest) entry
  refine ⟨q, p, ?_⟩
  rw [posted, publish_ok (by rw [State.afterPost_ring_self, State.afterPost_busVerdict]; exact block),
    State.afterPost_ring_self, State.afterPost_mem, State.afterPost_gts, State.afterPost_setMem]
  rfl

/-- A refused entry is held: the ring is in HALTED_FENCE with its indices and descriptors, and no byte has moved (R53,
R56). -/
theorem postOne_refused {n : Nat} {o : Op} {rest : List Op} {s : State} (on : (s.ring n).state ≠ .haltedFence)
    (refused : s.busVerdict 0x2F false true (s.ring n).entryPlace 32 = .refused) :
    (postOne n o rest s).mem = s.mem ∧ (postOne n o rest s).ring n = { s.ring n with
      state := .haltedFence, held := some .entry, dbAt := none, haltFrom := (s.ring n).state } := by
  have stopped : s.busVerdict 0x2F false true (s.ring n).entryPlace (entryBytes (s.ring n) o).length ≠ .ok := by
    simp [refused]
  rw [postOne_eq]
  dsimp only
  rw [if_pos (by rwa [busWrite_verdict]), haltFence_mem, busWrite_mem_of_ne_ok stopped,
    haltFence_ring (by rwa [busWrite_ring]), busWrite_ring]
  exact ⟨rfl, rfl⟩

/-- Settles O17: a completion posted, one that waits, and one whose entry is refused. -/
theorem completionsPostInFetchOrder : Obligations.CompletionsPostInFetchOrder := by
  refine ⟨fun n o rest s oldest ours states => ⟨fun done entry block => ?_, fun runs => ?_⟩,
    fun n o rest s oldest ours active done refused => ?_⟩
  · have posts : (s.ring n).state.posts = true := by obtain h | h | h := states <;> rw [h] <;> rfl
    have plain : (s.ring n).state ≠ .draining := by obtain h | h | h := states <;> simp [h]
    obtain ⟨q, p, posted⟩ := postOne_published (n := n) (o := o) (rest := rest) entry block
    refine ⟨_, congrArg Host.Outcome.next ((completionPost_posts oldest ours done posts).trans posted), ?_⟩
    obtain ⟨sys, frame⟩ := s.afterPost_frame n o rest _ q p
    rw [State.afterPost_ring_self]
    exact ⟨Ring.posted_plain o rest plain, fun k hk => (s.afterPost_ring n o rest _ q p k).trans (s.setRing_ne _ hk),
      State.afterPost_mem .., sys, frame⟩
  · exact congrArg Host.Outcome.next (completionPost_waits oldest ours runs)
  · have on : (s.ring n).state ≠ .haltedFence := by simp [active]
    obtain ⟨mem, ring⟩ := postOne_refused (o := o) (rest := rest) on refused
    have posts : (s.ring n).state.posts = true := by rw [active]; rfl
    refine ⟨_, congrArg Host.Outcome.next (completionPost_posts oldest ours done posts), ?_⟩
    rw [ring]
    exact ⟨rfl, rfl, active, rfl, rfl, mem⟩

/-! ### Out of a halt (R51, R57) -/

/-- RESYNC of a ring in HALTED_SEQ: it goes on from the numbers given, and is published (R51; log 166). -/
theorem ringResync_haltedSeq {n : Nat} {v : Word} {s : State} (halted : (s.ring n).state = .haltedSeq)
    (inRange : sub16 (bitsOf v 15 0) (s.ring n).sqHead ≤ (s.ring n).size) (room : (s.ring n).hasRoom)
    (carried : s.busVerdict 0x2F false true (base64 (s.ring n).cbase) 64 = .ok) :
    ringResync n v s = s.published n { s.ring n with
      expSeq := bitsOf v 31 16, sqTail := bitsOf v 15 0, state := .active } := by
  rw [← settle_publish_setRing (by exact carried) (.inl (by exact room))]
  simp [ringResync, halted, inRange]

/-- RESYNC of a ring that is not halted is DB_RANGE (R51, R62). -/
theorem ringResync_refused {n : Nat} {v : Word} {s : State} (hseq : (s.ring n).state ≠ .haltedSeq)
    (hfence : (s.ring n).state ≠ .haltedFence) :
    ringResync n v s = raise (32 + n) 3 (2 * 65536 + bitsOf v 15 0 % 65536) s := by
  unfold ringResync
  dsimp only
  split
  · split
    next h => exact absurd h hseq
    next h => exact absurd h hfence
    next => rfl
  · rfl

/-- What a service has begun, beyond what waits as a pooled buffer, running on without a completion (R57). -/
def Ring.abandoned (r : Ring) (gts : Nat) : Ring :=
  { r with
    ops := (r.ops.filter fun o => o.stage == .started && !r.waits o).map fun o => { o with orphan := true }
    abandonAt := gts }

/-- ABANDON of a ring in HALTED_FENCE (R57). -/
theorem ringAbandon_halted {n : Nat} {v : Word} {s : State} (halted : (s.ring n).state = .haltedFence) :
    ringAbandon n v s = goDisabled n 0xFFFF_FFFF (s.setRing n ((s.ring n).abandoned s.gts)) :=
  if_pos halted

/-- ABANDON of a ring that is not in HALTED_FENCE is DB_RANGE (R57, R62). -/
theorem ringAbandon_refused {n : Nat} {v : Word} {s : State} (h : (s.ring n).state ≠ .haltedFence) :
    ringAbandon n v s = raise (32 + n) 3 (3 * 65536 + v.toNat % 65536) s :=
  if_neg h

/-- A ring gone DISABLED: HRI_RQ_SEQ takes EXP_SEQ, and nothing is held or pending (R50, R53). -/
def Ring.disabled (r : Ring) : Ring :=
  { r with state := .disabled, en := false, seqReg := r.expSeq, drainPend := false, held := none }

theorem goDisabled_eq (n data : Nat) (s : State) :
    goDisabled n data s = raise (32 + n) 6 data (s.setRing n (s.ring n).disabled) := by
  rfl

theorem goDisabled_setRing (n data : Nat) (r : Ring) (s : State) :
    goDisabled n data (s.setRing n r) = raise (32 + n) 6 data (s.setRing n r.disabled) := by
  rw [goDisabled_eq, State.setRing_self, State.setRing_setRing]

/-- HRI_RQ_FLUSH with bit 1 in HALTED_FENCE is an ABANDON, whatever bit 0 is (R57). -/
theorem ringFlushWrite_abandon {n : Nat} {v : Word} {s : State} (halted : (s.ring n).state = .haltedFence)
    (abandon : bitOf v 1 = true) : ringFlushWrite n v s = ringAbandon n v s := by
  simp [ringFlushWrite, halted, abandon]

/-- HRI_RQ_FLUSH with bit 0 clear starts no flush (R57). -/
theorem ringFlushWrite_noFlush {n : Nat} {v : Word} {s : State} (abandon : bitOf v 1 = true)
    (noFlush : bitOf v 0 = false) : ringFlushWrite n v s = ringAbandon n v s := by
  simp [ringFlushWrite, noFlush, abandon]

/-- Settles O18: the gap, RESYNC and ABANDON. -/
theorem sequenceGapHaltsTheRing : Obligations.SequenceGapHaltsTheRing := by
  refine ⟨fun n o s gap => enlist_gap gap, fun a n v s ho => ⟨fun halted inRange room carried => ?_,
    fun hseq hfence => ?_, fun halted => ?_, fun running noFlush => ?_⟩⟩
  · exact congrArg Host.Outcome.next
      ((gateWrite_open _ ho).trans (ringResync_haltedSeq halted inRange room carried))
  · exact congrArg Host.Outcome.next ((gateWrite_open _ ho).trans (ringResync_refused hseq hfence))
  · have bit := bitOf_setBit_self v (i := 1) (by decide) true
    have abandoned := ((gateWrite_open (blk := 2) (ringFlushWrite n (setBit v 1 true)) ho).trans
      (ringFlushWrite_abandon halted bit)).trans
      ((ringAbandon_halted (by exact halted)).trans (goDisabled_setRing ..))
    refine ⟨_, congrArg Host.Outcome.next abandoned, ?_⟩
    rw [raise_ring, State.setRing_self, raise_mem, raise_sys_setRing, raise_sys_reply]
    refine ⟨rfl, rfl, fun o ho => ?_, rfl, rfl, rfl, rfl⟩
    obtain ⟨p, hp, rfl⟩ := List.mem_map.1 ho
    obtain ⟨started, -⟩ := Bool.and_eq_true_iff.1 (List.mem_filter.1 hp).2
    exact ⟨rfl, beq_iff_eq.1 started⟩
  · have bit := bitOf_setBit_self v (i := 1) (by decide) true
    have noFlush' := (bitOf_setBit_ne v (i := 1) (by decide) true).trans noFlush
    exact congrArg Host.Outcome.next ((gateWrite_open _ ho).trans
      ((ringFlushWrite_noFlush bit noFlush').trans (ringAbandon_refused (by exact running))))

end Sys2Proof.Machine
end

section
/-!
Statements about the life of a ring (R42, R53 to R55): its enable, the zeroing of its completion region, and the drain
from its begin to its end.
-/

namespace Sys2Proof.Machine

/-! ### Enable (R54) -/

/-- The binding fields of HRI_RQ_CFG, taken while EN is 0 (R54). -/
def RingRegs.bound (g : RingRegs) (v : Word) : RingRegs :=
  { g with svc := bitsOf v 23 16, queue := bitsOf v 10 8, log2 := bitsOf v 3 0 }

/-- The EN bit lies above the binding fields. -/
theorem RingRegs.bound_setBit (g : RingRegs) (v : Word) (b : Bool) : g.bound (setBit v 31 b) = g.bound v := by
  simp [RingRegs.bound, bitsOf_setBit_above]

/-- HRI_RQ_CFG written with EN 1 over EN 0: the binding is taken, then the checks of the enable run. -/
theorem ringCfgWrite_enable {n : Nat} {v : Word} {s : State} (off : (s.ring n).en = false) :
    ringCfgWrite n (setBit v 31 true) s =
      ringEnable n (s.setRing n { s.ring n with regs := (s.ring n).regs.bound v }) := by
  rw [← RingRegs.bound_setBit _ v true]
  simp [ringCfgWrite, off, RingRegs.bound]

/-- HRI_RQ_CFG written with EN 0 over EN 1 begins a drain (R55). -/
theorem ringCfgWrite_disable {n : Nat} {v : Word} {s : State} (on : (s.ring n).en = true) :
    ringCfgWrite n (setBit v 31 false) s = ringDisable n s := by
  simp [ringCfgWrite, on]

/-- An enable refused by its checks leaves the ring DISABLED, with the reason in ERR (R54). -/
theorem ringEnable_refused {n : Nat} {s : State} (h : enableCheck n s ≠ 0) :
    ringEnable n s = s.setRing n { s.ring n with en := false, err := enableCheck n s } :=
  if_pos h

/-- What an ABANDON of this tick has left running on the queue that the registers name (R57; log 167). -/
def Ring.leftRunning (r : Ring) : List Op :=
  if r.svc = r.regs.svc ∧ r.queue = r.regs.queue then r.ops.filter Op.orphan else []

/-- The ring enabled: its placement in use, its indices 0, its region to be zeroed (R53, R54). -/
def Ring.enabled (r : Ring) : Ring :=
  { r.place with
    en := true, err := 0, state := .init, expSeq := r.seqReg % 65536
    sqHead := 0, sqTail := 0, cqHead := 0, cqTail := 0, ops := r.leftRunning
    held := none, drainPend := false, flushed := 0, dbAt := none }

/-- An enable that passes its checks. -/
theorem ringEnable_passed {n : Nat} {s : State} (h : enableCheck n s = 0) (off : (s.ring n).state = .disabled) :
    ringEnable n s = s.setRing n (s.ring n).enabled := by
  simp [ringEnable, h, off, Ring.enabled, Ring.leftRunning]

/-! ### The zeroing (R42, R53) -/

theorem State.setMem_setMem (s : State) (m m' : List Host.Cell) : (s.setMem m).setMem m' = s.setMem m' := by
  rfl

/-- One block that the fabric carries is zeroed, and the rest follows. -/
theorem zeroFrom_succ {n left k : Nat} {s : State}
    (carried : s.busVerdict 0x2F false true (base64 (s.ring n).cbase + 64 * k) 64 = .ok) :
    zeroFrom n (left + 1) k s = zeroFrom n left (k + 1)
      (s.setMem (Memory.setMany s.mem (base64 (s.ring n).cbase + 64 * k) (List.replicate 64 0))) := by
  rw [zeroFrom, busWrite_ok (by rwa [List.length_replicate])]
  exact if_pos rfl

/-- The region of one block more. -/
theorem setMany_zeros_succ (m : List Host.Cell) (a k : Nat) : Memory.setMany m a (List.replicate (64 * (k + 1)) 0) =
    Memory.setMany (Memory.setMany m a (List.replicate 64 0)) (a + 64) (List.replicate (64 * k) 0) := by
  rw [Nat.mul_succ, Nat.add_comm, ← List.replicate_append_replicate, Memory.setMany_append, List.length_replicate]

/-- Blocks zeroed one by one are their region zeroed. -/
theorem zeroFrom_carried {n left : Nat} : ∀ {k : Nat} {s : State},
    (∀ j, j < left → s.busVerdict 0x2F false true (base64 (s.ring n).cbase + 64 * (k + j)) 64 = .ok) →
    zeroFrom n left k s = s.setMem
      (Memory.setMany s.mem (base64 (s.ring n).cbase + 64 * k) (List.replicate (64 * left) 0)) := by
  induction left with
  | zero =>
    intro k s _
    rw [Nat.mul_zero, List.replicate_zero, zeroFrom, Memory.setMany, State.setMem]
  | succ left ih =>
    intro k s carried
    rw [zeroFrom_succ (by simpa using carried 0), ih fun j hj => by
      simpa [Nat.add_assoc, Nat.add_comm 1] using carried (j + 1) (Nat.succ_lt_succ hj)]
    rw [setMany_zeros_succ, State.setMem_setMem, State.setMem_ring, State.setMem_mem, Nat.add_assoc, ← Nat.mul_succ]

/-- The zeroing runs to its end: the ring is ACTIVE and published (R53). -/
theorem ringInitComplete_carried {n : Nat} {s : State} (init : (s.ring n).state = .init)
    (empty : (s.ring n).sqTail = (s.ring n).sqHead) (carried : ∀ k, k < (s.ring n).blocks →
      s.busVerdict 0x2F false true (base64 (s.ring n).cbase + 64 * k) 64 = .ok) :
    ringInitComplete n s = (s.setMem (Memory.setMany s.mem (base64 (s.ring n).cbase)
      (List.replicate (64 * (s.ring n).blocks) 0))).published n { s.ring n with state := .active } := by
  have block : s.busVerdict 0x2F false true (base64 (s.ring n).cbase) 64 = .ok :=
    carried 0 (Nat.add_pos_left Nat.one_pos _)
  have zeroed := zeroFrom_carried (n := n) (left := (s.ring n).blocks) (k := 0) (s := s) fun j hj => by
    rw [Nat.zero_add]
    exact carried j hj
  unfold ringInitComplete
  rw [if_pos init, zeroed]
  unfold initDone
  rw [State.setMem_ring, if_pos init]
  exact settle_publish_setRing (by rwa [State.setMem_busVerdict]) (.inr empty)

/-! ### The drain (R55) -/

/-- A ring as its drain begins. -/
def Ring.draining (r : Ring) (gts : Nat) : Ring :=
  { r with
    state := .draining, preDrain := r.state, drainTail := r.sqTail, drainAt := gts, flushed := 0, dbAt := none
    ops := flushWaiting r gts }

/-- A drain of a ring that works begins at once, and is published (R53, R55). -/
theorem beginDrain_works {n : Nat} {s : State} (works : (s.ring n).state = .active ∨ (s.ring n).state = .stalled)
    (carried : s.busVerdict 0x2F false true (base64 (s.ring n).cbase) 64 = .ok) :
    beginDrain n s = s.published n ((s.ring n).draining s.gts) := by
  rw [← publish_setRing (by exact carried)]
  obtain h | h := works <;> simp [beginDrain, Ring.draining, h]

theorem State.setRing_published (s : State) (n : Nat) (q r : Ring) :
    (s.setRing n q).published n r = s.published n r := by
  simp [State.published]

/-- EN written 0 begins the drain of a ring that works (R53). -/
theorem ringDisable_works {n : Nat} {s : State} (works : (s.ring n).state = .active ∨ (s.ring n).state = .stalled)
    (carried : s.busVerdict 0x2F false true (base64 (s.ring n).cbase) 64 = .ok) :
    ringDisable n s = s.published n { (s.ring n).draining s.gts with en := false } := by
  have ring := s.setRing_self n { s.ring n with en := false }
  rw [ringDisable, State.modRing, beginDrain_works (by rwa [ring]) (by rwa [ring]), State.setRing_published, ring]
  rfl

/-- HRI_RQ_FLUSH with bit 0 alone begins a drain (R57). -/
theorem ringFlushWrite_flush {n : Nat} {v : Word} {s : State} (noAbandon : bitOf v 1 = false)
    (flush : bitOf v 0 = true) : ringFlushWrite n v s = beginDrain n s := by
  simp [ringFlushWrite, noAbandon, flush]

/-- A STAGE of another ring is not stopped. -/
theorem stageStop_other {n : Nat} {s : State} (h : ∀ c, stageOp s = some c → c.ring ≠ n) : stageStop n s = s := by
  unfold stageStop
  split
  · rfl
  next c found => exact if_neg fun stops => h c found stops.1

/-- A started descriptor of a drain as the tick boundary after its begin stops it (R55). -/
def Ring.stopped (r : Ring) (o : Op) : Op :=
  if o.stage = .started then
    { o with stage := .done, status := stFlushed, r0 := 0, r1 := 0, doneAt := boundaryOf (r.drainAt / tickLen + 1) }
  else o

/-- The boundary after a drain's begin stops what is started, in a ring with no orphan (R55). -/
theorem cutRing_drains {n : Nat} {s : State} (draining : (s.ring n).state = .draining)
    (due : (s.ring n).drainAt / tickLen < s.t) (ours : ∀ o ∈ (s.ring n).ops, o.orphan = false) :
    cutRing n s = s.setRing n { s.ring n with ops := (s.ring n).ops.map (s.ring n).stopped } := by
  have stops : ∀ o ∈ (s.ring n).ops, (if stopsNow s n o ∧ o.orphan = false then
      { o with
        stage := .done, status := stFlushed, r0 := 0, r1 := 0
        doneAt := boundaryOf ((s.ring n).drainAt / tickLen + 1) }
      else o) = (s.ring n).stopped o := fun o ho => by
    simp [Ring.stopped, stopsNow, ours o ho, draining, due]
  have kept : ((s.ring n).ops.map (s.ring n).stopped).filter (fun o => !o.orphan) =
      (s.ring n).ops.map (s.ring n).stopped := by
    refine List.filter_eq_self.2 fun p hp => ?_
    obtain ⟨o, ho, rfl⟩ := List.mem_map.1 hp
    unfold Ring.stopped
    split <;> simp [ours o ho]
  unfold cutRing
  simp only [List.map_congr_left stops, kept, ite_self]

/-- A drain whose descriptors are not all fetched and posted goes on. -/
theorem drainComplete_waits {n : Nat} {s : State}
    (h : (s.ring n).sqHead ≠ (s.ring n).drainTail ∨ ∃ o ∈ (s.ring n).ops, o.orphan = false) :
    drainComplete n s = s := by
  refine if_neg fun ⟨_, fetched, posted⟩ => ?_
  obtain h | ⟨o, ho, ours⟩ := h
  · exact h fetched
  · simp [List.all_eq_true.1 posted o ho] at ours

/-- A drain with EN 0 that has posted all ends DISABLED, with the event and a last publish block (R53; log 166). -/
theorem drainComplete_disables {n : Nat} {s : State} (draining : (s.ring n).state = .draining)
    (fetched : (s.ring n).sqHead = (s.ring n).drainTail) (posted : (s.ring n).ops = [])
    (off : (s.ring n).en = false)
    (carried : s.busVerdict 0x2F false true (base64 (s.ring n).cbase) 64 = .ok) :
    drainComplete n s = (raise (32 + n) 6 (s.ring n).flushed (s.setRing n (s.ring n).disabled)).setMem
      (Memory.setMany s.mem (base64 (s.ring n).cbase) (publishBytes (s.ring n).disabled s.gts)) := by
  unfold drainComplete
  dsimp only
  rw [if_pos ⟨draining, fetched, by rw [posted]; rfl⟩, if_neg (by simp [off]), goDisabled_eq, busWrite_ok (by
    rw [publishBytes_length, raise_busVerdict]; exact carried), raise_ring, State.setRing_self, raise_mem, raise_gts]
  rfl

/-- A flush that has posted all goes back to work, and the ring is published (R53). -/
theorem drainComplete_goesBack {n : Nat} {s : State} (draining : (s.ring n).state = .draining)
    (fetched : (s.ring n).sqHead = (s.ring n).drainTail) (posted : (s.ring n).ops = [])
    (on : (s.ring n).en = true) (before : (s.ring n).preDrain = .active ∨ (s.ring n).preDrain = .stalled)
    (room : (s.ring n).hasRoom)
    (carried : s.busVerdict 0x2F false true (base64 (s.ring n).cbase) 64 = .ok) :
    drainComplete n s = s.published n { s.ring n with state := .active } := by
  have ends : drainComplete n s = flushEnd n s := by
    unfold drainComplete
    dsimp only
    rw [if_pos ⟨draining, fetched, by rw [posted]; rfl⟩, if_pos on]
  rw [ends, ← settle_publish_setRing (by exact carried) (.inl (by exact room))]
  obtain h | h := before <;> simp [flushEnd, h]

/-- Settles O19: the enable, the zeroing, and a drain from its begin over the boundary to its end. -/
theorem ringsEnableAndDrain : Obligations.RingsEnableAndDrain := by
  refine ⟨⟨fun a n v s ho off disabled => ⟨fun passed => ?_, fun refused => ?_⟩,
    fun n s init empty carried => ?_⟩, fun a n v s => ⟨fun ho works on carried => ⟨?_, fun noAbandon => ?_⟩,
    fun draining due ours others => ?_, fun draining fetched posted off carried => ?_,
    fun draining fetched posted on before room carried => ?_, fun draining waits => ?_⟩⟩
  · refine congrArg Host.Outcome.next ((gateWrite_open _ ho).trans
      ((ringCfgWrite_enable (s := s.reply a .ok) off).trans ((ringEnable_passed passed ?_).trans ?_)))
    · rwa [State.setRing_self]
    · simp only [State.setRing_self]
      rfl
  · exact congrArg Host.Outcome.next ((gateWrite_open _ ho).trans ((ringCfgWrite_enable (s := s.reply a .ok) off).trans
      (ringEnable_refused refused)))
  · refine ⟨_, congrArg Host.Outcome.next (ringInitComplete_carried init empty carried), ?_⟩
    rw [State.published_ring]
    exact ⟨rfl, fun k hk => State.published_ring_ne _ hk, State.published_mem .., State.published_frame ..⟩
  · exact congrArg Host.Outcome.next ((gateWrite_open _ ho).trans ((ringCfgWrite_disable (s := s.reply a .ok) on).trans
      (ringDisable_works works carried)))
  · have flush := bitOf_setBit_self v (i := 0) (by decide) true
    have noAbandon' := (bitOf_setBit_ne v (i := 0) (by decide) true).trans noAbandon
    exact congrArg Host.Outcome.next ((gateWrite_open _ ho).trans ((ringFlushWrite_flush noAbandon' flush).trans
      (beginDrain_works works carried)))
  · exact congrArg Host.Outcome.next ((congrArg _ (stageStop_other others)).trans (cutRing_drains draining due ours))
  · refine ⟨_, congrArg Host.Outcome.next (drainComplete_disables draining fetched posted off carried), ?_⟩
    rw [State.setMem_ring, raise_ring, State.setRing_self, State.setMem_mem, State.setMem_sys, raise_sys_setRing,
      State.setMem_gts, raise_gts]
    exact ⟨rfl, rfl, rfl, rfl⟩
  · exact congrArg Host.Outcome.next (drainComplete_goesBack draining fetched posted on before room carried)
  · exact congrArg Host.Outcome.next (drainComplete_waits waits)

end Sys2Proof.Machine
end

section
/-!
Statements about the fences (R66 to R68): FEN_APPLY takes the staged values of the fences it names.
-/

namespace Sys2Proof.Machine

/-- Entries put one after another: an index that is put has its new entry, any other its old one. -/
theorem Tab.get_foldl_put {α : Type} (d : α) (f : Nat → α) (n : Nat) : ∀ (ks : List Nat) (t : Tab α),
    Tab.get d (ks.foldl (fun t k => Tab.put t k (f k)) t) n = if n ∈ ks then f n else Tab.get d t n
  | [], _ => by simp
  | k :: ks, t => by
    rw [List.foldl_cons, Tab.get_foldl_put d f n ks, Tab.get_put]
    by_cases hn : n ∈ ks <;> by_cases hk : n = k <;> simp [hn, hk]

/-- The fences that a mask selects. -/
def selected (mask : BitVec 64) : List Nat := fenceNumbers.filter fun n => mask.getLsbD n

theorem mem_selected {mask : BitVec 64} {n : Nat} (hn : n < 64) : n ∈ selected mask ↔ mask.getLsbD n = true := by
  simp [selected, fenceNumbers, hn]

/-- An apply sets the live fences and raises source 492 (R67). -/
theorem applyFences_eq (mask : BitVec 64) (s : State) : applyFences mask s =
    raise 492 1 (selected mask).length { s with
      fen.live := (selected mask).foldl (fun t n => Tab.put t n (s.staged n)) s.fen.live } := by
  rfl

/-- The selected fences, and no others, take their staged values. -/
theorem applyFences_live (mask : BitVec 64) (s : State) {n : Nat} (hn : n < 64) : (applyFences mask s).liveFence n =
    if mask.getLsbD n then s.staged n else s.liveFence n := by
  rw [applyFences_eq, State.liveFence, raise_fen]
  simp only [Tab.get_foldl_put, mem_selected hn]
  rfl

/-- An apply leaves the staged fences, memory and the rings alone. -/
theorem applyFences_frame (mask : BitVec 64) (s : State) : (applyFences mask s).fen.staged = s.fen.staged ∧
    (applyFences mask s).mem = s.mem ∧ (applyFences mask s).hri = s.hri := by
  rw [applyFences_eq, raise_fen, raise_mem, raise_hri]
  exact ⟨rfl, rfl, rfl⟩

theorem applyFences_sys (mask : BitVec 64) (s : State) :
    (applyFences mask s).sys = (raise 492 1 (selected mask).length s).sys := by
  rw [applyFences_eq]
  exact raiseEv_sys_congr rfl rfl rfl

/-- A secure host core passes the gate of the fences (R66). -/
theorem fenGate_passes {a : Access} {off : Nat} {s : State} (k : State → State) (h : mayWriteFences a = true) :
    fenGate a off s k = k s :=
  if_pos h

/-- Any other initiator's write is discarded with source 490 (R66). -/
theorem fenGate_discards {a : Access} {off : Nat} {s : State} (k : State → State) (h : mayWriteFences a = false) :
    fenGate a off s k = raise 490 1 (off * 65536 + a.ini.id) s :=
  if_neg (by simp [h])

/-- A 64-bit write of FEN_APPLY by one who may applies its mask (R68). -/
theorem fenWriteWide_applies {a : Access} {v : BitVec 64} {s : State} (h : mayWriteFences a = true) :
    fenWriteWide a 0 v s = applyFences v s :=
  fenGate_passes _ h

/-- A write of the high half applies with the low half that this initiator has latched (R68). -/
theorem fenWrite_high {a : Access} {v : Word} {s : State} (h : mayWriteFences a = true) :
    fenWrite a 0x04 v s = applyFences (v ++ s.lowLatch a) { s with fen.low := Tab.del s.fen.low a.ini.id } :=
  fenGate_passes _ h

/-- A write of the low half latches it and applies nothing (R68). -/
theorem fenWrite_low {a : Access} {v : Word} {s : State} (h : mayWriteFences a = true) :
    fenWrite a 0x00 v s = { s with fen.low := Tab.put s.fen.low a.ini.id v } :=
  fenGate_passes _ h

/-- FENCE_APPLY through the open gate, as a 64-bit write. -/
theorem fenceApply_wide {a : Access} {v : BitVec 64} {s : State} (h : opens a 2 s = true) :
    exec (.fenceApply a true v) s = .next (fenWriteWide a 0 v (s.reply a .ok)) :=
  congrArg Host.Outcome.next (gateWrite_open (blk := 16) (fenWriteWide a 0 v) h)

/-- FENCE_APPLY through the open gate, as a write of the high half. -/
theorem fenceApply_half {a : Access} {v : BitVec 64} {s : State} (h : opens a 2 s = true) :
    exec (.fenceApply a false v) s = .next (fenWrite a 0x04 (lo32 v) (s.reply a .ok)) :=
  congrArg Host.Outcome.next (gateWrite_open (blk := 16) (fenWrite a 0x04 (lo32 v)) h)

/-- Settles O20: the three ways of writing FEN_APPLY, and the write that is discarded. -/
theorem fenceApplyTakesTheStagedValues : Obligations.FenceApplyTakesTheStagedValues := by
  intro a v w s ho
  refine ⟨fun may => ⟨?_, ?_, ?_⟩, fun mayNot => ⟨?_, ?_⟩⟩
  · obtain ⟨staged, mem, hri⟩ := applyFences_frame v (s.reply a .ok)
    have sys := (applyFences_sys v (s.reply a .ok)).trans (raise_sys_reply ..)
    exact ⟨_, (fenceApply_wide ho).trans (congrArg _ (fenWriteWide_applies may)),
      fun n hn => applyFences_live v (s.reply a .ok) hn, staged, mem, hri, sys⟩
  · obtain ⟨staged, mem, -⟩ := applyFences_frame (lo32 v ++ s.lowLatch a)
      { s.reply a .ok with fen.low := Tab.del s.fen.low a.ini.id }
    exact ⟨_, (fenceApply_half ho).trans (congrArg _ (fenWrite_high may)),
      fun n hn => applyFences_live (lo32 v ++ s.lowLatch a) _ hn, staged, mem⟩
  · exact congrArg Host.Outcome.next ((gateWrite_open _ ho).trans (fenWrite_low may))
  · exact (fenceApply_wide ho).trans (congrArg _ (fenGate_discards _ mayNot))
  · exact congrArg Host.Outcome.next ((gateWrite_open _ ho).trans (fenGate_discards _ mayNot))

end Sys2Proof.Machine
end

section
/-!
Statements about the mailboxes (R73 to R78): who reaches one, what GO and REL do to it, and who writes and reads its
binding, its header and its message.
-/

namespace Sys2Proof.Machine

/-! ### Who reaches a mailbox (R73) -/

/-- An access is not barred by R73 where the mailbox is non-secure or the access is secure. -/
theorem mbxInsecure_eq_false {m : Nat} {a : Access} (h : m < 32 → secureOf a = true) : mbxInsecure m a = false := by
  by_cases hm : m < 32
  · simp [mbxInsecure, h hm]
  · simp [mbxInsecure, hm]

theorem mbxInsecure_eq_true {m : Nat} {a : Access} (hm : m < 32) (h : secureOf a = false) :
    mbxInsecure m a = true := by
  simp [mbxInsecure, hm, h]

/-- MBX_CTL written with GO alone is a GO. -/
theorem mbxCtlWrite_go (a : Access) (m : Nat) (s : State) : mbxCtlWrite a m 1 s = mbxGo a m s := by
  unfold mbxCtlWrite
  split
  next barred => exact (if_pos barred).symm
  · rfl

/-- MBX_CTL written with REL alone is a REL. -/
theorem mbxCtlWrite_rel (a : Access) (m : Nat) (s : State) : mbxCtlWrite a m 2 s = mbxRel a m s := by
  unfold mbxCtlWrite
  split
  next barred => exact (if_pos barred).symm
  · rfl

/-! ### The commands through the open gate -/

theorem exec_mbxGo {a : Access} {m : Fin 64} {s : State} (h : opens a 2 s = true) :
    exec (.mbxGo a m) s = .next (mbxGo a m (s.reply a .ok)) :=
  congrArg Host.Outcome.next ((gateWrite_open (blk := 3) _ h).trans (mbxCtlWrite_go ..))

theorem exec_mbxRel {a : Access} {m : Fin 64} {s : State} (h : opens a 2 s = true) :
    exec (.mbxRel a m) s = .next (mbxRel a m (s.reply a .ok)) :=
  congrArg Host.Outcome.next ((gateWrite_open (blk := 3) _ h).trans (mbxCtlWrite_rel ..))

theorem exec_mbxCfgWrite {a : Access} {m : Fin 64} {v : Word} {s : State} (h : opens a 2 s = true) :
    exec (.mbxCfgWrite a m v) s = .next (mbxCfgWrite a m v (s.reply a .ok)) :=
  congrArg Host.Outcome.next (gateWrite_open (blk := 3) (mbxCfgWrite a m v) h)

theorem exec_mbxDataAccess_write {a : Access} {m : Fin 64} {k : Fin 13} {v : Word} {s : State}
    (h : opens a 2 s = true) :
    exec (.mbxDataAccess a m k (some v)) s = .next (mbxFieldWrite a m k v (s.reply a .ok)) :=
  congrArg Host.Outcome.next (gateWrite_open (blk := 3) (mbxFieldWrite a m k v) h)

theorem exec_mbxDataAccess_read {a : Access} {m : Fin 64} {k : Fin 13} {s : State} (h : opens a 2 s = true) :
    exec (.mbxDataAccess a m k none) s = .next (mbxFieldRead a m k s) :=
  congrArg Host.Outcome.next (gate_open (blk := 3) (mbxFieldRead a m k) h)

/-! ### A mailbox becomes FREE, and becomes POSTED (R75) -/

/-- A mailbox that becomes FREE keeps its binding and loses its message. -/
theorem emptyBox_box_self (m : Nat) (flushed off : Bool) (s : State) : (emptyBox m flushed off s).box m =
    { s.box m with posted := false, flushedLast := flushed, data := [] } :=
  (raise_box ..).trans (State.setBox_self ..)

theorem emptyBox_box_ne {m k : Nat} (flushed off : Bool) (s : State) (h : k ≠ m) :
    (emptyBox m flushed off s).box k = s.box k :=
  (raise_box ..).trans (State.setBox_ne _ _ h)

theorem emptyBox_txdone (m : Nat) (flushed off : Bool) (s : State) :
    (emptyBox m flushed off s).mbx.txdone = setBit64 s.mbx.txdone m := by
  rw [emptyBox, raise_mbx]
  rfl

theorem emptyBox_mem (m : Nat) (flushed off : Bool) (s : State) : (emptyBox m flushed off s).mem = s.mem :=
  raise_mem ..

theorem emptyBox_hri (m : Nat) (flushed off : Bool) (s : State) : (emptyBox m flushed off s).hri = s.hri :=
  raise_hri ..

/-- EMPTIED with FLUSHED 0 (R91). -/
theorem emptyBox_release_sys (m : Nat) (s : State) : (emptyBox m false false s).sys =
    (raise (65 + 2 * m) 1 ((s.box m).receiver * 256 + s.epoch (s.box m).receiver) s).sys := by
  have clear : oneIf false = 0 := rfl
  simp only [emptyBox, clear, Nat.zero_mul, Nat.zero_add]
  exact raiseEv_sys_congr rfl rfl rfl

/-- A mailbox that becomes POSTED keeps its message, and latches the epochs of both ends. -/
theorem postBox_box_self (m : Nat) (s : State) : (postBox m s).box m =
    { s.box m with
      posted := true, flushedLast := false, sep := s.epoch (s.box m).sender, rep := s.epoch (s.box m).receiver } :=
  (raise_box ..).trans (State.setBox_self ..)

theorem postBox_box_ne {m k : Nat} (s : State) (h : k ≠ m) : (postBox m s).box k = s.box k :=
  (raise_box ..).trans (State.setBox_ne _ _ h)

theorem postBox_mem (m : Nat) (s : State) : (postBox m s).mem = s.mem := raise_mem ..

theorem postBox_hri (m : Nat) (s : State) : (postBox m s).hri = s.hri := raise_hri ..

/-- ARRIVED (R91). -/
theorem postBox_sys (m : Nat) (s : State) : (postBox m s).sys = (raise (64 + 2 * m) 1
    ((s.box m).sender * 2 ^ 24 + s.epoch (s.box m).sender * 65536 + oneIf (s.box m).pointer * 256 + (s.box m).len)
    s).sys :=
  raiseEv_sys_congr rfl rfl rfl

/-! ### A non-secure access to a secure mailbox (R73) -/

section
variable {a : Access} {m : Nat} {s : State} (barred : mbxInsecure m a = true)
include barred

theorem mbxGo_insecure : mbxGo a m s = (mbxRefused m a 1 s).reply a .error := if_pos barred

theorem mbxRel_insecure : mbxRel a m s = (mbxRefused m a 1 s).reply a .error := if_pos barred

theorem mbxCfgWrite_insecure (v : Word) : mbxCfgWrite a m v s = (mbxRefused m a 1 s).reply a .error := if_pos barred

end

/-! ### An access that R73 lets through -/

section
variable {a : Access} {m : Nat} {s : State} (reach : mbxInsecure m a = false)
include reach

/-- REL on a FREE mailbox is ignored (R78). -/
theorem mbxRel_free (free : (s.box m).posted = false) : mbxRel a m s = s := by
  simp [mbxRel, reach, free]

/-- REL from another than RECEIVER is refused with reason 2 (R78). -/
theorem mbxRel_other (posted : (s.box m).posted = true) (other : a.ini.id ≠ (s.box m).receiver) :
    mbxRel a m s = mbxRefused m a 2 s := by
  simp [mbxRel, reach, posted, other]

/-- REL from RECEIVER empties the mailbox (R78). -/
theorem mbxRel_receiver (posted : (s.box m).posted = true) (receiver : a.ini.id = (s.box m).receiver) :
    mbxRel a m s = emptyBox m false false s := by
  simp [mbxRel, reach, posted, receiver]

/-- GO on a POSTED mailbox is refused with reason 3 (R76). -/
theorem mbxGo_posted (posted : (s.box m).posted = true) : mbxGo a m s = mbxRefused m a 3 s := by
  simp [mbxGo, reach, posted]

/-- MBX_CFG binds a FREE mailbox (R74). -/
theorem mbxCfgWrite_free (v : Word) (free : (s.box m).posted = false) :
    mbxCfgWrite a m v s = s.setBox m { s.box m with cfg := v &&& (0xC000_FFFF : Word) } := by
  simp [mbxCfgWrite, reach, free]

/-- MBX_CFG is ignored while the mailbox is POSTED (R74). -/
theorem mbxCfgWrite_posted (v : Word) (posted : (s.box m).posted = true) : mbxCfgWrite a m v s = s := by
  simp [mbxCfgWrite, reach, posted]

/-! #### GO on a FREE mailbox: the checks of R76 -/

section
variable (free : (s.box m).posted = false)
include free

/-- Check 2: an end that is no endpoint. -/
theorem mbxGo_unconfigured
    (unbound : isEndpoint (s.box m).sender = false ∨ isEndpoint (s.box m).receiver = false) :
    mbxGo a m s = mbxRefused m a 5 s := by
  obtain unbound | unbound := unbound <;> simp [mbxGo, reach, free, unbound]

variable (sends : isEndpoint (s.box m).sender = true) (receives : isEndpoint (s.box m).receiver = true)
include sends receives

/-- Check 3: the writer is not SENDER. -/
theorem mbxGo_other (other : a.ini.id ≠ (s.box m).sender) : mbxGo a m s = mbxRefused m a 2 s := by
  simp [mbxGo, reach, free, sends, receives, other]

variable (sender : a.ini.id = (s.box m).sender)
include sender

/-- Check 4: the receiver's domain is off. -/
theorem mbxGo_domainOff (off : s.pdOn (endpointDomain (s.box m).receiver) = false) : mbxGo a m s =
    (raise (65 + 2 * m) 2 ((s.box m).receiver * 256 + endpointDomain (s.box m).receiver) s).reply a .error := by
  simp [mbxGo, reach, free, sends, receives, sender, off]

variable (on : s.pdOn (endpointDomain (s.box m).receiver) = true)
include on

/-- Check 5: MODE DIRECT and LEN above 48. -/
theorem mbxGo_tooLong (direct : (s.box m).pointer = false) (long : 48 < (s.box m).len) :
    mbxGo a m s = mbxRefused m a 4 s := by
  simp [mbxGo, reach, free, sends, receives, sender, on, direct, long]

/-- A GO that passes every check posts. -/
theorem mbxGo_passes (fits : (s.box m).pointer = true ∨ (s.box m).len ≤ 48) : mbxGo a m s = postBox m s := by
  have short : (!(s.box m).pointer && decide (48 < (s.box m).len)) = false := by
    obtain pointer | direct := fits
    · simp [pointer]
    · simp [Nat.not_lt.2 direct]
  simp [mbxGo, reach, free, sends, receives, sender, on, short]

end

/-! #### The header and the message (R77) -/

/-- SENDER writes a FREE mailbox. -/
theorem mbxBar_write_none (k : Nat) (free : (s.box m).posted = false) (sender : a.ini.id = (s.box m).sender) :
    mbxBar a m k true s = none := by
  simp [mbxBar, reach, free, sender]

/-- Nobody writes a POSTED mailbox, and no other initiator any: the wrong initiator comes first (log 172). -/
theorem mbxBar_write_some (k : Nat) (h : (s.box m).posted = true ∨ a.ini.id ≠ (s.box m).sender) :
    mbxBar a m k true s = some (if a.ini.id = (s.box m).sender then 3 else 2) := by
  by_cases sender : a.ini.id = (s.box m).sender
  · have posted : (s.box m).posted = true := h.resolve_right (not_not_intro sender)
    simp [mbxBar, reach, sender, posted]
  · simp [mbxBar, reach, sender]

/-- Anyone reads the header, and SENDER and RECEIVER the message. -/
theorem mbxBar_read_none {k : Nat} (h : k = 0 ∨ a.ini.id = (s.box m).sender ∨ a.ini.id = (s.box m).receiver) :
    mbxBar a m k false s = none := by
  simp [mbxBar, reach, h]

/-- No other initiator reads the message. -/
theorem mbxBar_read_some {k : Nat} (hk : k ≠ 0) (hs : a.ini.id ≠ (s.box m).sender)
    (hr : a.ini.id ≠ (s.box m).receiver) : mbxBar a m k false s = some 2 := by
  simp [mbxBar, reach, hk, hs, hr]

theorem mbxFieldWrite_denied (k : Nat) (v : Word) (h : (s.box m).posted = true ∨ a.ini.id ≠ (s.box m).sender) :
    mbxFieldWrite a m k v s = mbxDenied a m (if a.ini.id = (s.box m).sender then 3 else 2) s := by
  simp only [mbxFieldWrite, mbxBar_write_some reach k h]

theorem mbxFieldWrite_header (v : Word) (free : (s.box m).posted = false) (sender : a.ini.id = (s.box m).sender) :
    mbxFieldWrite a m 0 v s = s.setBox m { s.box m with pointer := bitOf v 29, len := bitsOf v 5 0 } := by
  simp [mbxFieldWrite, mbxBar_write_none reach 0 free sender]

theorem mbxFieldWrite_data {k : Nat} (v : Word) (hk : k ≠ 0) (free : (s.box m).posted = false)
    (sender : a.ini.id = (s.box m).sender) :
    mbxFieldWrite a m k v s = s.setBox m { s.box m with data := Tab.put (s.box m).data (k - 1) v } := by
  simp [mbxFieldWrite, mbxBar_write_none reach k free sender, hk]

theorem mbxFieldRead_header : mbxFieldRead a m 0 s = s.replyWord a (hdrWord s m) := by
  simp [mbxFieldRead, mbxBar_read_none reach (.inl rfl)]

theorem mbxFieldRead_data {k : Nat} (hk : k ≠ 0) (h : a.ini.id = (s.box m).sender ∨ a.ini.id = (s.box m).receiver) :
    mbxFieldRead a m k s = s.replyWord a (Tab.get 0 (s.box m).data (k - 1)) := by
  simp [mbxFieldRead, mbxBar_read_none reach (.inr h), hk]

theorem mbxFieldRead_denied {k : Nat} (hk : k ≠ 0) (hs : a.ini.id ≠ (s.box m).sender)
    (hr : a.ini.id ≠ (s.box m).receiver) : mbxFieldRead a m k s = mbxDenied a m 2 s := by
  simp only [mbxFieldRead, mbxBar_read_some reach hk hs hr]

end

/-- Settles O21: REL by RECEIVER, REL by another, and REL on a FREE mailbox. -/
theorem onlyTheReceiverReleases : Obligations.OnlyTheReceiverReleases := by
  intro a m s ho secure
  have reach := mbxInsecure_eq_false secure
  refine ⟨fun posted receiver => ?_, fun posted other => ?_, fun free => ?_⟩
  · have emptied := (exec_mbxRel ho).trans (congrArg _ (mbxRel_receiver (s := s.reply a .ok) reach posted receiver))
    exact ⟨_, emptied, emptyBox_box_self .., fun k hk => emptyBox_box_ne _ _ _ hk, emptyBox_txdone ..,
      emptyBox_mem .., emptyBox_hri .., (emptyBox_release_sys ..).trans (raise_sys_reply ..)⟩
  · exact (exec_mbxRel ho).trans (congrArg _ (mbxRel_other reach posted other))
  · exact (exec_mbxRel ho).trans (congrArg _ (mbxRel_free reach free))

/-- Settles O22: GO and its checks, the binding, the fields written and read, and what R73 bars. -/
theorem mailboxCarriesOneMessage : Obligations.MailboxCarriesOneMessage := by
  intro a m s ho
  refine ⟨fun secure => ?_, fun hm nonSecure => ?_⟩
  · have reach := mbxInsecure_eq_false secure
    refine ⟨fun free sends receives sender on fits => ?_, fun posted => ?_, fun free unbound => ?_,
      fun free sends receives other => ?_, fun free sends receives sender off => ?_,
      fun free sends receives sender on direct long => ?_, fun v free => ?_, fun v posted => ?_,
      fun v free sender => ⟨?_, fun k hk => ?_⟩, fun k v barred => ?_, ?_,
      fun k hk => ⟨fun ends => ?_, fun hs hr => ?_⟩⟩
    · have passed := (exec_mbxGo ho).trans
        (congrArg _ (mbxGo_passes (s := s.reply a .ok) reach free sends receives sender on fits))
      exact ⟨_, passed, postBox_box_self .., fun k hk => postBox_box_ne _ hk, postBox_mem .., postBox_hri ..,
        (postBox_sys ..).trans (raise_sys_reply ..)⟩
    · exact (exec_mbxGo ho).trans (congrArg _ (mbxGo_posted reach posted))
    · exact (exec_mbxGo ho).trans (congrArg _ (mbxGo_unconfigured reach free unbound))
    · exact (exec_mbxGo ho).trans (congrArg _ (mbxGo_other reach free sends receives other))
    · exact (exec_mbxGo ho).trans (congrArg _ (mbxGo_domainOff reach free sends receives sender off))
    · exact (exec_mbxGo ho).trans (congrArg _ (mbxGo_tooLong reach free sends receives sender on direct long))
    · exact (exec_mbxCfgWrite ho).trans (congrArg _ (mbxCfgWrite_free reach v free))
    · exact (exec_mbxCfgWrite ho).trans (congrArg _ (mbxCfgWrite_posted reach v posted))
    · exact (exec_mbxDataAccess_write ho).trans (congrArg _ (mbxFieldWrite_header reach v free sender))
    · exact (exec_mbxDataAccess_write ho).trans
        (congrArg _ (mbxFieldWrite_data reach v (Fin.val_ne_of_ne hk) free sender))
    · exact (exec_mbxDataAccess_write ho).trans (congrArg _ (mbxFieldWrite_denied reach k v barred))
    · exact (exec_mbxDataAccess_read ho).trans (congrArg _ (mbxFieldRead_header reach))
    · exact (exec_mbxDataAccess_read ho).trans (congrArg _ (mbxFieldRead_data reach (Fin.val_ne_of_ne hk) ends))
    · exact (exec_mbxDataAccess_read ho).trans (congrArg _ (mbxFieldRead_denied reach (Fin.val_ne_of_ne hk) hs hr))
  · have barred := mbxInsecure_eq_true hm nonSecure
    exact ⟨(exec_mbxGo ho).trans (congrArg _ (mbxGo_insecure barred)),
      (exec_mbxRel ho).trans (congrArg _ (mbxRel_insecure barred)),
      fun v => (exec_mbxCfgWrite ho).trans (congrArg _ (mbxCfgWrite_insecure barred v))⟩

end Sys2Proof.Machine
end

section
/-!
Statements about the pitons (R87 to R89): the readers of one cycle in the order of their IDs, what each of them reads,
and the write that frees a piton.
-/

namespace Sys2Proof.Machine

/-! ### The readers of one cycle, in the fixed initiator order (R10, R88) -/

/-- The fixed initiator order. -/
abbrev idOrder (a b : Access) : Prop := a.ini.id ≤ b.ini.id

/-- Placing a reader is an ordered insertion. -/
theorem insertReader_eq (a : Access) : ∀ l : List Access,
    insertReader a l = l.orderedInsert idOrder a
  | [] => rfl
  | b :: r => by rw [insertReader, List.orderedInsert_cons, insertReader_eq a r]

theorem sortReaders_eq : ∀ l : List Access, sortReaders l = l.insertionSort idOrder
  | [] => rfl
  | a :: l => (insertReader_eq a _).trans (congrArg _ (sortReaders_eq l))

theorem mem_sortReaders {a : Access} {l : List Access} : a ∈ sortReaders l ↔ a ∈ l := by
  rw [sortReaders_eq]
  exact (List.perm_insertionSort _ l).mem_iff

theorem sortReaders_sorted (l : List Access) : (sortReaders l).Pairwise idOrder := by
  have : Std.Total idOrder := ⟨fun _ _ => Nat.le_total ..⟩
  have : IsTrans Access idOrder := ⟨fun _ _ _ => Nat.le_trans⟩
  rw [sortReaders_eq]
  exact List.pairwise_insertionSort _ l

/-- The reader served first has the lowest ID. -/
theorem sortReaders_lowest {w : Access} {l : List Access} (hw : w ∈ l) (lowest : ∀ r ∈ l, w.ini.id ≤ r.ini.id) :
    ∃ f rest, sortReaders l = f :: rest ∧ f.ini.id = w.ini.id := by
  have sorted := sortReaders_sorted l
  have hw' : w ∈ sortReaders l := mem_sortReaders.2 hw
  cases order : sortReaders l with
  | nil => simp [order] at hw'
  | cons f rest =>
    rw [order] at sorted hw'
    have f_le : f.ini.id ≤ w.ini.id := by
      obtain rfl | later := List.mem_cons.1 hw'
      · exact Nat.le_refl _
      · exact (List.pairwise_cons.1 sorted).1 w later
    have hf : f ∈ l := mem_sortReaders.1 (order ▸ List.mem_cons_self ..)
    exact ⟨f, rest, rfl, Nat.le_antisymm f_le (lowest f hf)⟩

/-! ### What a reader gets (R87) -/

/-- An initiator's ID is never 0, so an owned piton is not free. -/
theorem Ini.id_ne_zero (i : Ini) : i.id ≠ 0 := by
  cases i <;> simp [Ini.id]

/-- TAKEN with the owner's ID. -/
def takenAnswer (owner : Nat) (a : Access) : Nat × Resp :=
  (a.ini.id, .data ((wordOf (0x8000_0000 + owner)).setWidth 64))

/-- A free piton answers zero and becomes the reader's. -/
theorem pitonServe_free {k : Nat} {a : Access} {s : State} (ho : opens a 2 s = true) (free : s.piton k = 0) :
    pitonServe k false s a =
      { s with mbx.pitons := Tab.put s.mbx.pitons k a.ini.id, resp := s.resp ++ [(a.ini.id, .data 0)] } := by
  simp only [pitonServe, gate_open _ ho, pitonRead, free]
  rfl

/-- A taken piton answers its owner's ID and stays. -/
theorem pitonServe_taken {k : Nat} {a : Access} {s : State} (ho : opens a 2 s = true) (taken : s.piton k ≠ 0) :
    pitonServe k false s a = { s with resp := s.resp ++ [takenAnswer (s.piton k) a] } := by
  simp only [pitonServe, gate_open _ ho, pitonRead, if_neg taken]
  rfl

/-- A taken piton answers its owner's ID to one reader after another. -/
theorem foldl_pitonServe_taken {k : Nat} : ∀ {l : List Access} {s : State}, (∀ r ∈ l, opens r 2 s = true) →
    s.piton k ≠ 0 →
    l.foldl (pitonServe k false) s = { s with resp := s.resp ++ l.map (takenAnswer (s.piton k)) }
  | [], s, _, _ => by simp
  | a :: l, s, ho, taken => by
    rw [List.foldl_cons, pitonServe_taken (ho a (List.mem_cons_self ..)) taken,
      foldl_pitonServe_taken (by exact fun r hr => ho r (List.mem_cons_of_mem _ hr)) (by exact taken)]
    simp only [List.map_cons, List.append_assoc, List.singleton_append]
    rfl

section
variable {k : Nat} {readers : List Access} {s : State} (ho : ∀ r ∈ readers, opens r 2 s = true)
include ho

/-- All readers of a taken piton read its owner's ID (R87). -/
theorem pitonAcquire_taken (taken : s.piton k ≠ 0) : pitonAcquire k readers false s =
    { s with resp := (sortReaders readers).map (takenAnswer (s.piton k)) } :=
  foldl_pitonServe_taken (s := { s with resp := [] }) (fun r hr => ho r (mem_sortReaders.1 hr)) taken

/-- The first reader of a free piton owns it, and every other reads that reader's ID (R88). -/
theorem pitonAcquire_free (free : s.piton k = 0) {f : Access} {rest : List Access}
    (order : sortReaders readers = f :: rest) : pitonAcquire k readers false s =
    { s with
      mbx.pitons := Tab.put s.mbx.pitons k f.ini.id
      resp := (f.ini.id, .data 0) :: rest.map (takenAnswer f.ini.id) } := by
  have reads : ∀ r ∈ f :: rest, opens r 2 s = true := fun r hr => ho r (mem_sortReaders.1 (order ▸ hr))
  rw [pitonAcquire, order, List.foldl_cons, pitonServe_free (by exact reads f (List.mem_cons_self ..)) (by exact free),
    foldl_pitonServe_taken (by exact fun r hr => reads r (List.mem_cons_of_mem _ hr))
      (by rw [State.piton, Tab.get_put_self]; exact Ini.id_ne_zero f.ini)]
  simp [State.piton]

end

/-- A wide read gets an error, acquires nothing and is counted (R87). -/
theorem pitonAcquire_wide {k : Nat} {a : Access} {s : State} (ho : opens a 2 s = true) :
    pitonAcquire k [a] true s =
      { s with mbx.viol := min (s.mbx.viol + 1) max32, resp := [(a.ini.id, .error)] } := by
  have ho' : opens a 2 { s with resp := [] } = true := ho
  simp only [pitonAcquire, sortReaders, List.foldr, insertReader, List.foldl, pitonServe, gate_open _ ho']
  rfl

/-! ### What frees a piton (R89) -/

/-- The owner's write of its own ID frees the piton. -/
theorem pitonRelease_owner {a : Access} {k : Nat} {v : Word} {s : State} (owned : s.piton k ≠ 0)
    (owner : a.ini.id = s.piton k) (value : v.toNat = s.piton k) :
    pitonRelease a k v s = { s with mbx.pitons := Tab.put s.mbx.pitons k 0 } :=
  if_pos ⟨owned, owner, value⟩

/-- Any other write raises PITON_RELEASE_REFUSED and changes no piton. -/
theorem pitonRelease_refused {a : Access} {k : Nat} {v : Word} {s : State}
    (h : s.piton k = 0 ∨ a.ini.id ≠ s.piton k ∨ v.toNat ≠ s.piton k) : pitonRelease a k v s =
    raise 491 1 (a.ini.id * 2 ^ 24 + s.piton k * 65536 + bitsOf v 7 0 * 256 + k) s := by
  refine if_neg fun ⟨owned, owner, value⟩ => ?_
  obtain free | other | wrong := h
  · exact owned free
  · exact other owner
  · exact wrong value

/-- PITON_RELEASE through the open gate. -/
theorem exec_pitonRelease {a : Access} {k : Fin 64} {v : Word} {s : State} (h : opens a 2 s = true) :
    exec (.pitonRelease a k v) s = .next (pitonRelease a k v (s.reply a .ok)) :=
  congrArg Host.Outcome.next (gateWrite_open (blk := 3) (pitonRelease a k v) h)

/-- Settles O23: the readers of a free and of a taken piton, a wide read, and the writes. -/
theorem pitonsHaveOneOwner : Obligations.PitonsHaveOneOwner := by
  refine ⟨fun k readers w s hw readers_ok => ?_, fun a k s ho => congrArg Host.Outcome.next (pitonAcquire_wide ho),
    fun a k v s ho => ⟨fun owned owner value => ?_, fun other => ?_⟩⟩
  · have ho : ∀ r ∈ readers, opens r 2 s = true := fun r hr => (readers_ok r hr).1
    by_cases free : s.piton k = 0
    · obtain ⟨f, rest, order, lowest⟩ := sortReaders_lowest hw fun r hr => (readers_ok r hr).2
      have acquired := pitonAcquire_free ho free order
      rw [lowest] at acquired
      refine ⟨_, congrArg Host.Outcome.next acquired, fun p hp => Tab.get_put_ne _ _ _ hp, rfl, rfl,
        fun _ => ⟨Tab.get_put_self .., rfl, fun e he => ?_⟩, absurd free⟩
      obtain ⟨r, -, rfl⟩ := List.mem_map.1 he
      rfl
    · refine ⟨_, congrArg Host.Outcome.next (pitonAcquire_taken ho free), fun _ _ => rfl, rfl, rfl,
        fun h => absurd h free, fun _ => ⟨rfl, fun e he => ?_⟩⟩
      obtain ⟨r, -, rfl⟩ := List.mem_map.1 he
      rfl
  · exact (exec_pitonRelease ho).trans (congrArg _ (pitonRelease_owner owned owner value))
  · exact (exec_pitonRelease ho).trans (congrArg _ (pitonRelease_refused other))

end Sys2Proof.Machine
end

section
/-!
Shared by the statements about the Belay control engine (04): an operation's LENGTH check, its buffer's bytes, a
context put back, and what reports and events leave alone.
-/

namespace Sys2Proof.Machine

/-! ### Operations with a buffer (R46, R48) -/

/-- An operation with a LENGTH other than 0 passes the check of R48. -/
theorem needBuffer_passes {c : OpRef} {s : State} (k : State → State) (h : c.op.len ≠ 0) : needBuffer c s k = k s :=
  if_neg h

@[simp] theorem wordBytes_length (ws : List Word) : (wordBytes ws).length = 4 * ws.length := by
  simp [wordBytes, List.length_flatMap, Nat.mul_comm]

/-- The 64 bytes of the state words (R127). -/
theorem stateWords_bytes_length (x : BCtx) : (wordBytes x.stateWords).length = 64 :=
  wordBytes_length _

/-- The 256 bytes of configuration and state words (R127). -/
theorem cfgStateWords_bytes_length (x : BCtx) : (wordBytes (x.cfgWords ++ x.stateWords)).length = 256 := by
  rw [wordBytes_length, List.length_append, BCtx.cfgWords, List.length_map, List.length_range]
  rfl

/-! ### A context put back -/

@[simp] theorem State.setBctx_self (s : State) (n : Nat) (x : BCtx) : (s.setBctx n x).bctx n = x :=
  Tab.get_put_self ..

theorem State.setBctx_ne (s : State) {n k : Nat} (x : BCtx) (h : k ≠ n) : (s.setBctx n x).bctx k = s.bctx k :=
  Tab.get_put_ne _ _ _ h

/-! ### What reports and events leave alone (R94, R129) -/

/-- From `s` to `t` saturations may have been counted and events raised; nothing else has changed. -/
def Reported (s t : State) : Prop :=
  ∃ n y q, t = { s with bce.satCnt := n, sys := y, recorder := q }

namespace Reported
variable {s t u : State}

theorem refl (s : State) : Reported s s := ⟨s.bce.satCnt, s.sys, s.recorder, rfl⟩

theorem trans (h : Reported s t) (h' : Reported t u) : Reported s u := by
  obtain ⟨_, _, _, rfl⟩ := h
  obtain ⟨n, y, q, rfl⟩ := h'
  exact ⟨n, y, q, rfl⟩

/-- Where a step is taken only in one case, both cases report. -/
theorem ite {p : Bool} (h : Reported s t) : Reported s (if p then t else s) := by
  cases p
  · exact refl s
  · exact h

theorem foldl {α : Type} {f : State → α → State} (hf : ∀ v a, Reported v (f v a)) :
    ∀ (l : List α) (s : State), Reported s (l.foldl f s)
  | [], s => refl s
  | a :: l, s => (hf s a).trans (foldl hf l (f s a))

theorem bctx (h : Reported s t) (k : Nat) : t.bctx k = s.bctx k := by
  obtain ⟨_, _, _, rfl⟩ := h
  rfl

theorem mem (h : Reported s t) : t.mem = s.mem := by
  obtain ⟨_, _, _, rfl⟩ := h
  rfl

theorem hri (h : Reported s t) : t.hri = s.hri := by
  obtain ⟨_, _, _, rfl⟩ := h
  rfl

theorem lsw (h : Reported s t) : t.lsw = s.lsw := by
  obtain ⟨_, _, _, rfl⟩ := h
  rfl

theorem gts (h : Reported s t) : t.gts = s.gts := by
  obtain ⟨_, _, _, rfl⟩ := h
  rfl

end Reported

theorem bceEvent_reported (src code c data g : Nat) (s : State) : Reported s (bceEvent src code c data g s) := by
  obtain ⟨y, q, raised⟩ := raiseEv_frame
    { gts := g, src := src, code := code, data := wordOf (c * 2 ^ 24 + data % 2 ^ 24) } s
  exact ⟨s.bce.satCnt, y, q, raised⟩

theorem bceReport_reported (c latch : Nat) (r : Report) (s : State) : Reported s (bceReport c latch r s) := by
  have counted : Reported s (if r.1 = 194 then { s with bce.satCnt := countUp s.bce.satCnt max32 } else s) := by
    split
    · exact ⟨_, _, _, rfl⟩
    · exact .refl s
  exact counted.trans (bceEvent_reported ..)

end Sys2Proof.Machine
end

section
/-!
Statements about the contexts of the Belay control engine (R93, R120 to R126): what each ring operation does with a
descriptor that passes its checks, BCE_CTL, and a stop that has come due.
-/

namespace Sys2Proof.Machine

/-! ### CTX_LOAD (R120) -/

/-- The contexts that a CTX_LOAD fills from its buffer. -/
def loadBatch (c : OpRef) (u : State) : Tab BCtx :=
  (List.range (bitsOf (c.op.word 7) 7 0)).map fun i => (bitsOf (c.op.word 6) 6 0 + i,
    { state := .loaded, cfg := maskCfg (leWords 48 ((bufferOf c u).drop (192 * i))) })

/-- A batch that passes every check of R120 and R128 fills its slots. -/
theorem bceCtxLoad_loads {c : OpRef} {s : State} (nonempty : 0 < bitsOf (c.op.word 7) 7 0)
    (length : c.op.len = 192 * bitsOf (c.op.word 7) 7 0)
    (inRange : bitsOf (c.op.word 6) 6 0 + bitsOf (c.op.word 7) 7 0 ≤ 128)
    (free : ∀ i, i < bitsOf (c.op.word 7) 7 0 →
      ((bceSettle s).bctx (bitsOf (c.op.word 6) 6 0 + i)).state.beyondLoaded = false)
    (read : bufferOpen 0x20 false c.op.addr c.op.len (bceSettle s) = true)
    (checked : batchCheck (loadBatch c (bceSettle s)) (bceSettle s) (loadBatch c (bceSettle s)) = none) :
    bceCtxLoad c s = finishOp c stOk c.op.len (wordOf (bitsOf (c.op.word 7) 7 0)) 0
      ((loadBatch c (bceSettle s)).foldl (fun s e => s.setBctx e.1 e.2) (bceSettle s)) := by
  have noneRuns : ((List.range (bitsOf (c.op.word 7) 7 0)).map fun i => bitsOf (c.op.word 6) 6 0 + i).any
      (fun t => ((bceSettle s).bctx t).state.beyondLoaded) = false := by
    simpa using free
  unfold loadBatch at checked
  unfold bceCtxLoad
  rw [needBuffer_passes _ (by omega)]
  dsimp only
  rw [if_neg (not_not_intro length), if_neg (by omega), noneRuns, if_neg Bool.false_ne_true, readWhole_open read,
    checked]
  rfl

/-! ### CTX_START (R121) -/

/-- A start of LOADED contexts that are free of faults arms them (R93: shadows them on a second). -/
theorem bceCtxStart_starts {c : OpRef} {s : State}
    (inTime : c.op.word64 10 = 0 ∨ (bceSettle s).t < c.op.word64 10) (on : (bceSettle s).bce.en = true)
    (replicates : (bceSettle s).rtl.role = .second → (bceSettle s).bce.replEn = true)
    (loaded : ∀ j ∈ ctxMask c.op, ((bceSettle s).bctx j).state = .loaded)
    (lanes : laneFault (bceSettle s) (ctxMask c.op) = none) (dests : destFault (bceSettle s) (ctxMask c.op) = none)
    (cascades : cascadeFault (bceSettle s) (ctxMask c.op) = none) :
    let t0 := max (c.op.word64 10) ((bceSettle s).t + 1)
    bceCtxStart c s = finishOp c stOk 0 (wordOf t0) (wordOf (ctxMask c.op).length)
      ((ctxMask c.op).foldl (fun v j => startContext t0 ((bceSettle s).rtl.role == .second) j v) (bceSettle s)) := by
  have ready : (!(bceSettle s).bce.en || (((bceSettle s).rtl.role == .second) && !(bceSettle s).bce.replEn) ||
      (ctxMask c.op).any fun n => ((bceSettle s).bctx n).state != .loaded) = false := by
    simpa [on] using ⟨replicates, loaded⟩
  unfold bceCtxStart
  dsimp only
  rw [if_neg (by omega), ready, if_neg Bool.false_ne_true, lanes, dests, cascades]

/-! ### CTX_STOP (R122) -/

/-- A stop asked for of context `j`, for the next boundary; SAFE once asked for stays asked for. -/
def askStop (safe : Bool) (j : Nat) (v : State) : State :=
  v.setBctx j { v.bctx j with
    stopAt := some (v.t + 1, safe || ((v.bctx j).stopAt.map (·.2)).getD false) }

/-- A stop of contexts beyond LOADED is committed for the next boundary (R471). -/
theorem bceCtxStop_commits {c : OpRef} {s : State}
    (running : ∀ j ∈ ctxMask c.op, ((bceSettle s).bctx j).state.beyondLoaded = true) :
    let v := (ctxMask c.op).foldl (fun v j => askStop (bitOf (c.op.word 10) 0) j v) (bceSettle s)
    bceCtxStop c s = startOp c [v.t + 1, (ctxMask c.op).length] v := by
  have allRun : ¬ ((ctxMask c.op).any fun n => !((bceSettle s).bctx n).state.beyondLoaded) = true := by
    simpa using running
  exact if_neg allRun

/-! ### CTX_CLEAR (R124) -/

/-- In RUN the latched marks are cleared at once. -/
theorem bceCtxClear_run {c : OpRef} {s : State} {n : Nat} {x : BCtx} (hn : n = bitsOf (c.op.word 6) 6 0)
    (hx : x = (bceSettle s).bctx n) (run : x.state = .run) :
    let y : BCtx := { x with sat := false, feActive := false, cause := 0 }
    bceCtxClear c s = finishOp c stOk 0 y.status 0 ((bceSettle s).setBctx n y) := by
  subst hn hx
  simp only [bceCtxClear, run]

/-- In POSTURE with a feedback that cannot be stale and an outer that is not the cause, the leave is asked for. -/
theorem bceCtxClear_posture {c : OpRef} {s : State} {n : Nat} {x : BCtx} (hn : n = bitsOf (c.op.word 6) 6 0)
    (hx : x = (bceSettle s).bctx n) (posture : x.state = .posture) (noSignal : (x.src 3).1 ≠ 1)
    (notOuter : x.cause ≠ 4) :
    let y : BCtx := { x with sat := false, feActive := false, cause := 0, clearReq := true }
    bceCtxClear c s = finishOp c stOk 0 y.status 0 ((bceSettle s).setBctx n y) := by
  subst hn hx
  simp [bceCtxClear, posture, noSignal, notOuter]

/-- In any other state a clear is BUSY. -/
theorem bceCtxClear_busy {c : OpRef} {s : State} {x : BCtx} (hx : x = (bceSettle s).bctx (bitsOf (c.op.word 6) 6 0))
    (notRun : x.state ≠ .run) (notPosture : x.state ≠ .posture) :
    bceCtxClear c s = failOp c stBusy 0 (bceSettle s) := by
  subst hx
  unfold bceCtxClear
  dsimp only
  split
  next run => exact absurd run notRun
  next posture => exact absurd posture notPosture
  · rfl

/-! ### CTX_PATCH (R125) -/

/-- The patch that a CTX_PATCH reads: the tick it takes effect in, its first word and its words. -/
def patchOf (c : OpRef) (u : State) : Nat × Nat × List Word :=
  (startTick u (c.op.word64 9), bitsOf (c.op.word 7) 5 0,
    (leWords (bitsOf (c.op.word 8) 5 0) (bufferOf c u)).zipIdx.map fun e =>
      e.1 &&& cfgMask (bitsOf (c.op.word 7) 5 0 + e.2))

/-- Context `x` with one more patch that waits for its tick. -/
def BCtx.withPatch (x : BCtx) (p : Nat × Nat × List Word) : BCtx := { x with patches := x.patches ++ [p] }

/-- A patch of words 10 to 29 that leaves the configuration valid is committed for its tick (R471). -/
theorem bceCtxPatch_commits {c : OpRef} {s : State} {u : State} {n : Nat} (hu : u = bceSettle s)
    (hn : n = bitsOf (c.op.word 6) 6 0)
    (length : c.op.len = 4 * bitsOf (c.op.word 8) 5 0) (nonempty : 0 < bitsOf (c.op.word 8) 5 0)
    (inTime : c.op.word64 9 = 0 ∨ u.t < c.op.word64 9) (held : (u.bctx n).state ≠ .empty)
    (from10 : 10 ≤ bitsOf (c.op.word 7) 5 0)
    (upTo29 : bitsOf (c.op.word 7) 5 0 + bitsOf (c.op.word 8) 5 0 ≤ 30)
    (read : bufferOpen 0x20 false c.op.addr c.op.len u = true)
    (valid : cfgCheck (patchDue (startTick u (c.op.word64 9)) ((u.bctx n).withPatch (patchOf c u))) = none) :
    bceCtxPatch c s = startRead c [startTick u (c.op.word64 9)]
      (u.setBctx n ((u.bctx n).withPatch (patchOf c u))) := by
  subst hu hn
  unfold BCtx.withPatch patchOf at valid
  unfold bceCtxPatch
  rw [needBuffer_passes _ (by omega)]
  dsimp only
  rw [if_neg (not_not_intro length), if_neg (by omega), if_neg held, if_neg (by omega), readWhole_open read,
    valid]
  rfl

/-! ### The boundary of a stop or a patch (R122, R125) -/

/-- The operation that has come due completes with the GTS of its boundary. -/
theorem finishDue_completes {opc : Nat} {c : OpRef} {u : State} (committed : u.opOf 4 0 (isStarted opc) = some c)
    (due : c.op.aux.getD 0 0 ≤ u.t) :
    finishDue opc u = finishAt (boundaryOf (c.op.aux.getD 0 0)) c stOk c.op.xfer (wordOf (c.op.aux.getD 0 0))
      (wordOf (c.op.aux.getD 1 0)) u := by
  simp only [finishDue, committed]
  exact if_pos due

/-! ### BCE_CTL (R93, R128) -/

/-- BCE_CTL_WRITE through the open gate. -/
theorem exec_bceCtlWrite {a : Access} {v : Word} {s : State} (h : opens a 2 s = true) :
    exec (.bceCtlWrite a v) s = .next (bceCtlWrite v (s.reply a .ok)) :=
  congrArg Host.Outcome.next (gateWrite_open (blk := 4) (bceCtlWrite v) h)

/-- BCE_CTL as written: EN, and REPL_EN while no context is beyond LOADED. -/
def ctlWritten (v : Word) (u : State) : State :=
  { u with
    bce.en := bitOf v 31
    bce.replEn := if u.bce.ctx.any (fun e => e.2.state.beyondLoaded) then u.bce.replEn else bitOf v 30 }

/-- EN 1 stops nothing, EN 0 stops every running context. -/
theorem bceCtlWrite_eq (v : Word) (s : State) : bceCtlWrite v s =
    if bitOf v 31 then ctlWritten v (bceSettle s) else bceStopAll (ctlWritten v (bceSettle s)) := by
  rfl

/-! ### A stop that has come due (R93, R122) -/

/-- Where the instants are counted from at which a context stopped at the boundary of `t` was in fault: behind an output
that is released at that very boundary. -/
def countsFrom (t : Nat) (x : BCtx) : Nat :=
  match x.out with
  | some (_, g, _) => if g = boundaryOf t then g + 1 else boundaryOf t
  | none => boundaryOf t

/-- Context `x` stopped at the boundary of `t`. -/
def BCtx.stopped (x : BCtx) (t : Nat) (safe : Bool) : BCtx :=
  { x with
    state := .loaded, cause := 0, stopAt := none, clearReq := false
    safeAt := if safe then some t else none
    badAt := if x.state == .run || x.state == .posture then some (x.badAt.getD (nextDue x (countsFrom t x)))
      else x.badAt }

/-- A stop changes its own context and reports it. -/
theorem stopContext_reported (n t : Nat) (safe : Bool) (s : State) :
    Reported (s.setBctx n ((s.bctx n).stopped t safe)) (stopContext n t safe s) :=
  bceEvent_reported ..

/-- Settles O24: each operation by its lemma, then the boundary, BCE_CTL, and the stop that has come due. -/
theorem contextsLoadStartAndStop : Obligations.ContextsLoadStartAndStop := by
  refine ⟨⟨fun n c s hn => ⟨?load, ?start, ?stop, ?clearRun, ?clearPosture, ?clearBusy, ?patch⟩,
    fun c s => ⟨?stopDue, ?patchDue⟩, fun a v s ho => ⟨?on, ?off⟩⟩, fun n t safe s => ?stopped⟩
  case load =>
    exact fun taken nonempty length inRange free read checked => congrArg Host.Outcome.next
      ((takeOp_at bceCtxLoad n hn taken).trans (bceCtxLoad_loads nonempty length inRange free read checked))
  case start =>
    exact fun taken inTime on replicates loaded lanes dests cascades => congrArg Host.Outcome.next
      ((takeOp_at bceCtxStart n hn taken).trans
        (bceCtxStart_starts inTime on replicates loaded lanes dests cascades))
  case stop =>
    exact fun taken running => congrArg Host.Outcome.next
      ((takeOp_at bceCtxStop n hn taken).trans (bceCtxStop_commits running))
  case clearRun =>
    exact fun taken run => congrArg Host.Outcome.next
      ((takeOp_at bceCtxClear n hn taken).trans (bceCtxClear_run rfl rfl run))
  case clearPosture =>
    exact fun taken posture noSignal notOuter => congrArg Host.Outcome.next
      ((takeOp_at bceCtxClear n hn taken).trans (bceCtxClear_posture rfl rfl posture noSignal notOuter))
  case clearBusy =>
    exact fun taken notRun notPosture => congrArg Host.Outcome.next
      ((takeOp_at bceCtxClear n hn taken).trans (bceCtxClear_busy rfl notRun notPosture))
  case patch =>
    exact fun taken length nonempty inTime held from10 upTo29 read valid => congrArg Host.Outcome.next
      ((takeOp_at bceCtxPatch n hn taken).trans
        (bceCtxPatch_commits rfl rfl length nonempty inTime held from10 upTo29 read valid))
  case stopDue =>
    exact fun committed due => congrArg Host.Outcome.next (finishDue_completes committed due)
  case patchDue =>
    exact fun committed due => congrArg Host.Outcome.next (finishDue_completes committed due)
  case on =>
    exact fun on => (exec_bceCtlWrite ho).trans (congrArg _ ((bceCtlWrite_eq ..).trans (if_pos on)))
  case off =>
    exact fun off => (exec_bceCtlWrite ho).trans (congrArg _ ((bceCtlWrite_eq ..).trans (if_neg (by simp [off]))))
  case stopped =>
    have reported := stopContext_reported n t safe s
    have own := (reported.bctx n).trans (State.setBctx_self ..)
    simp only [own]
    exact ⟨rfl, rfl, rfl, rfl, rfl, fun k hk => (reported.bctx k).trans (State.setBctx_ne _ _ hk), reported.mem,
      reported.hri⟩

/-! ### CTX_READ (R123) -/

/-- LENGTH 64: the state words. -/
theorem bceCtxRead_state {c : OpRef} {s : State} {x : BCtx}
    (hx : x = (bceSettle s).bctx (bitsOf (c.op.word 6) 6 0)) (length : c.op.len = 64)
    (written : bufferOpen 0x20 true c.op.addr 64 (bceSettle s) = true) :
    bceCtxRead c s = finishOp c stOk 64 x.status (wordOfInt x.u)
      (stored c (wordBytes x.stateWords) (bceSettle s)) := by
  subst hx
  rw [← stateWords_bytes_length ((bceSettle s).bctx (bitsOf (c.op.word 6) 6 0))] at written ⊢
  exact (if_pos length).trans (writeOut_open written)

/-- LENGTH 256: the configuration words and the state words. -/
theorem bceCtxRead_whole {c : OpRef} {s : State} {x : BCtx}
    (hx : x = (bceSettle s).bctx (bitsOf (c.op.word 6) 6 0)) (length : c.op.len = 256)
    (written : bufferOpen 0x20 true c.op.addr 256 (bceSettle s) = true) :
    bceCtxRead c s = finishOp c stOk 256 x.status (wordOfInt x.u)
      (stored c (wordBytes (x.cfgWords ++ x.stateWords)) (bceSettle s)) := by
  subst hx
  rw [← cfgStateWords_bytes_length ((bceSettle s).bctx (bitsOf (c.op.word 6) 6 0))] at written ⊢
  exact (if_neg (by omega)).trans ((if_pos length).trans (writeOut_open written))

/-- Any other LENGTH is out of range. -/
theorem bceCtxRead_length {c : OpRef} {s : State} (not64 : c.op.len ≠ 64) (not256 : c.op.len ≠ 256) :
    bceCtxRead c s = failOp c stLen 0 (bceSettle s) :=
  (if_neg not64).trans (if_neg not256)

/-! ### CTX_TRACE (R123) -/

/-- The bytes of a trace: its entries, the oldest first, and zeros behind them (log 82). -/
def traceBytes (x : BCtx) : List Byte :=
  wordBytes x.trace.flatten ++ List.replicate (3840 - (wordBytes x.trace.flatten).length) 0

/-- LENGTH 3840: the trace. -/
theorem bceCtxTrace_stores {c : OpRef} {s : State} {x : BCtx} (hx : x = s.bctx (bitsOf (c.op.word 6) 6 0))
    (length : c.op.len = 3840) (written : bufferOpen 0x20 true c.op.addr (traceBytes x).length s = true) :
    bceCtxTrace c s = finishOp c stOk (traceBytes x).length (wordOf x.trace.length) 0 (stored c (traceBytes x) s) := by
  subst hx
  exact (if_pos length).trans (writeOut_open written)

/-! ### SIG_WRITE and SIG_READ (R99, R126) -/

/-- Pairs that all name entries of software are published, each visible from the next cycle on. -/
theorem sigWrite_publishes {c : OpRef} {s : State} {pairs : List (Nat × Word)}
    (valid : pairs = (List.range 5).filterMap (sigPair c.op)) (software : ∀ p ∈ pairs, 0x300 ≤ p.1) :
    sigWrite c s = finishOp c stOk 0 (wordOf pairs.length) 0
      (pairs.foldl (fun v p => publishLate (v.gts + 1) p.1 p.2 v.gts v) s) := by
  subst valid
  have noneOther : (((List.range 5).filterMap (sigPair c.op)).find? fun p => decide (p.1 < 0x300)) = none :=
    List.find?_eq_none.2 fun p hp => by simpa using software p hp
  simp only [sigWrite, noneOther]

/-- The bytes of the `k` entries from `first` on, as they stand once this cycle's publishes are in the table. -/
def entriesBytes (first k : Nat) (s : State) : List Byte :=
  (List.range k).flatMap fun i => sigBytes ((settleSignals (s.gts + 1) s).signal (first + i))

/-- Entries within the table are stored. -/
theorem sigRead_stores {c : OpRef} {s : State} {first k : Nat} (hf : first = bitsOf (c.op.word 6) 9 0)
    (hk : k = bitsOf (c.op.word 7) 10 0) (nonempty : 0 < k) (inTable : first + k ≤ 1024) (fits : 16 * k ≤ c.op.len)
    (written : bufferOpen 0x20 true c.op.addr (entriesBytes first k s).length s = true) :
    sigRead c s = finishOp c stOk (entriesBytes first k s).length (wordOf k) 0
      (stored c (entriesBytes first k s) s) := by
  subst hf hk
  unfold sigRead
  rw [needBuffer_passes _ (by omega)]
  dsimp only
  rw [if_neg (by omega), if_neg (by omega)]
  exact writeOut_open written

/-- Settles O25: each operation by its lemma. -/
theorem contextsAndSignalsAreReadAndWritten : Obligations.ContextsAndSignalsAreReadAndWritten := by
  refine fun n c s hn => ⟨?readState, ?readWhole, ?readLength, ?trace, ?write, ?read⟩
  case readState =>
    exact fun taken length written => congrArg Host.Outcome.next
      ((takeOp_at bceCtxRead n hn taken).trans (bceCtxRead_state rfl length written))
  case readWhole =>
    exact fun taken length written => congrArg Host.Outcome.next
      ((takeOp_at bceCtxRead n hn taken).trans (bceCtxRead_whole rfl length written))
  case readLength =>
    exact fun taken not64 not256 => congrArg Host.Outcome.next
      ((takeOp_at bceCtxRead n hn taken).trans (bceCtxRead_length not64 not256))
  case trace =>
    exact fun taken length written => congrArg Host.Outcome.next
      ((takeOp_at bceCtxTrace n hn taken).trans (bceCtxTrace_stores rfl length written))
  case write =>
    exact fun taken software => congrArg Host.Outcome.next
      ((takeOp_at sigWrite n hn taken).trans (sigWrite_publishes rfl software))
  case read =>
    exact fun taken nonempty inTable fits written => congrArg Host.Outcome.next
      ((takeOp_at sigRead n hn taken).trans (sigRead_stores rfl rfl nonempty inTable fits written))

end Sys2Proof.Machine
end

section
/-!
Statements about the phases of the Belay control engine (R95, R103, R104): the release and the latch at the start of a
phase, and what one evaluation changes.
-/

namespace Sys2Proof.Machine

/-! ### The start of a phase -/

/-- The start of phase `p` of the present tick. -/
def phaseStart (p : Nat) (s : State) : Nat := boundaryOf s.t + p * phaseLen

/-- A phase acts while the time base runs and its instant has not passed. -/
theorem phase_acts_iff {g : Nat} {s : State} (running : s.tick.running = true) :
    (s.tick.running && decide (s.gts < g + phaseLen)) = true ↔ s.gts < g + phaseLen := by
  simp [running]

/-- In time, a release writes the outputs of its instant (R104). -/
theorem bceOutputRelease_releases {p : Nat} {s : State} (running : s.tick.running = true)
    (inTime : s.gts < phaseStart p s + phaseLen) :
    bceOutputRelease p s = releaseAll (phaseStart p s) (s.advance (phaseStart p s)) :=
  if_pos ((phase_acts_iff running).2 inTime)

theorem bceOutputRelease_passed {p : Nat} {s : State} (running : s.tick.running = true)
    (passed : phaseStart p s + phaseLen ≤ s.gts) : bceOutputRelease p s = s :=
  if_neg fun acts => Nat.not_lt.2 passed ((phase_acts_iff running).1 acts)

/-- What a latch of phase `p` evaluates on: what was due is released, and what is visible is in the table (R99, R104).
-/
def atLatch (p : Nat) (s : State) : State :=
  settleSignals (phaseStart p s) (releaseAll (phaseStart p s) (s.advance (phaseStart p s)))

/-- The tick of the outputs that phase `p` of the present tick latches. -/
def latchTick (p : Nat) (s : State) : Nat := if p = 99 then s.t + 1 else s.t

/-- The contexts that latch in phase `p`. -/
def latchers (p : Nat) (s : State) : List Nat :=
  bceNumbers.filter fun c => latches ((atLatch p s).bctx c) (phaseStart p s) s.t (latchTick p s) ((p + 1) % 100)

/-- In time, a latch releases and then evaluates the contexts that are due (R103, R104). -/
theorem bceLatch_evaluates {p : Nat} {s : State} (running : s.tick.running = true)
    (inTime : s.gts < phaseStart p s + phaseLen) :
    bceLatch p s = (latchers p s).foldl
      (fun w c => latchOne (atLatch p s) (phaseStart p s) (latchTick p s) ((p + 1) % 100) c w) (atLatch p s) :=
  if_pos ((phase_acts_iff running).2 inTime)

theorem bceLatch_passed {p : Nat} {s : State} (running : s.tick.running = true)
    (passed : phaseStart p s + phaseLen ≤ s.gts) : bceLatch p s = s :=
  if_neg fun acts => Nat.not_lt.2 passed ((phase_acts_iff running).1 acts)

/-! ### One evaluation -/

/-- A context at its latch: an ARMED one is RUN from its first on (R93). -/
def BCtx.atFirstLatch (x : BCtx) : BCtx := if x.state == .armed then { x with state := .run } else x

/-- Context `n` evaluated at the latch instant `g`. -/
def evaluated (s0 : State) (g due q n : Nat) (x : BCtx) : BCtx :=
  (evaluate x.atFirstLatch (latchOf s0 n x.atFirstLatch g) due (q / 10)).1

/-- A context that holds its output for the instant one phase after `g`. -/
def BCtx.holding (y : BCtx) (g : Nat) : BCtx := { y with out := some (y.u, g + phaseLen, y.state == .posture) }

/-- An evaluation changes its own context and reports. -/
theorem latchOne_reported (s0 : State) (g due q n : Nat) (s : State) :
    Reported (s.setBctx n ((evaluated s0 g due q n (s.bctx n)).holding g)) (latchOne s0 g due q n s) := by
  -- What the evaluation answers is opaque to the events that follow it.
  unfold latchOne evaluated BCtx.atFirstLatch BCtx.holding
  dsimp only
  generalize evaluate _ _ due (q / 10) = e
  exact ((Reported.ite (bceEvent_reported ..)).trans (Reported.ite (bceEvent_reported ..))).trans
    (Reported.foldl (fun _ _ => bceReport_reported ..) _ _)

/-- Settles O26: the two commands of a phase, in time and too late, and one evaluation. -/
theorem latchAndReleaseKeepTheirInstants : Obligations.LatchAndReleaseKeepTheirInstants := by
  refine ⟨fun p s running => ⟨fun inTime => ⟨?_, ?_⟩, fun passed => ⟨?_, ?_⟩⟩, fun s0 s g due q n => ?_⟩
  · exact congrArg Host.Outcome.next (bceLatch_evaluates running inTime)
  · exact congrArg Host.Outcome.next (bceOutputRelease_releases running inTime)
  · exact congrArg Host.Outcome.next (bceLatch_passed running passed)
  · exact congrArg Host.Outcome.next (bceOutputRelease_passed running passed)
  · have reported := latchOne_reported s0 g due q n s
    have own := (reported.bctx n).trans (State.setBctx_self ..)
    unfold evaluated BCtx.atFirstLatch BCtx.holding at own
    exact ⟨own, fun k hk => (reported.bctx k).trans (State.setBctx_ne _ _ hk), reported.mem, reported.hri,
      reported.lsw, reported.gts⟩

end Sys2Proof.Machine
end

section
/-!
Statements about the sensor supplies (R145 to R147): the trip that falls due, what a write of FIN_SUP_CTL does in each
state, and what the pin's happenings do.
-/

namespace Sys2Proof.Machine

/-- The GTS at which the five ticks in LIMIT of a supply have passed (R146). -/
def Sup.limitEnd (x : Sup) : Nat := x.limitAt + 5 * tickLen

/-- The supply is not in LIMIT, or its five ticks there have not passed: no trip has fallen due (log 178). -/
def Sup.inTime (x : Sup) (g : Nat) : Prop := x.st ≠ .limit ∨ g < x.limitEnd

/-- The supply switched off, as EN 0 leaves it (R146). -/
def Sup.switchedOff (x : Sup) : Sup := { x with en := false, st := .off, mA := 0, mV := 0 }

theorem supDue_inTime {k : Nat} {s : State} (h : (s.sup k).inTime s.gts) : supDue k s = s :=
  if_neg fun due => h.elim (· due.1) (Nat.not_lt.2 due.2)

/-- Five ticks in LIMIT trip the supply, reported at their end (R146, R147). -/
theorem supDue_trips {k : Nat} {s : State} (limit : (s.sup k).st = .limit) (due : (s.sup k).limitEnd ≤ s.gts) :
    supDue k s = raiseAt (s.sup k).limitEnd 28 2 k (s.setSup k { s.sup k with st := .tripped, mA := 0 }) :=
  if_pos ⟨limit, due⟩

/-! ### FIN_SUP_CTL (R146) -/

section
variable {k : Nat} {v : Word} {s : State} (inTime : (s.sup k).inTime s.gts)
include inTime

theorem supCtlWrite_off (off : bitOf v 31 = false) :
    supCtlWrite k v s = s.setSup k (s.sup k).switchedOff := by
  simp only [supCtlWrite, supDue_inTime inTime, enBit, off, Sup.switchedOff, Bool.not_false, if_true]

theorem supCtlWrite_on_of_off (on : bitOf v 31 = true) (st : (s.sup k).st = .off) :
    supCtlWrite k v s = s.setSup k { s.sup k with en := true, st := .on } := by
  simp [supCtlWrite, supDue_inTime inTime, enBit, on, st]

theorem supCtlWrite_on_of_tripped (on : bitOf v 31 = true) (noClr : bitOf v 30 = false)
    (st : (s.sup k).st = .tripped) : supCtlWrite k v s = s.setSup k { s.sup k with en := true } := by
  simp [supCtlWrite, supDue_inTime inTime, enBit, on, noClr, st]

theorem supCtlWrite_clears_trip (on : bitOf v 31 = true) (clr : bitOf v 30 = true) (st : (s.sup k).st = .tripped) :
    supCtlWrite k v s = raise 28 4 k (s.setSup k { s.sup k with en := true, st := .on }) := by
  simp [supCtlWrite, supDue_inTime inTime, enBit, on, clr, st, supplyEvent]

end

/-- SUP_EN_WRITE through the open gate: CLR stands at 0. -/
theorem exec_supEnWrite {a : Access} {k : Fin 6} {v : Word} {s : State} (h : opens a 2 s = true) :
    exec (.supEnWrite a k v) s = .next (supCtlWrite k (setBit v 30 false) (s.reply a .ok)) :=
  congrArg Host.Outcome.next (gateWrite_open (blk := 17) (supCtlWrite k (setBit v 30 false)) h)

/-- SUP_CLR through the open gate: CLR stands at 1. -/
theorem exec_supClr {a : Access} {k : Fin 6} {v : Word} {s : State} (h : opens a 2 s = true) :
    exec (.supClr a k v) s = .next (supCtlWrite k (setBit v 30 true) (s.reply a .ok)) :=
  congrArg Host.Outcome.next (gateWrite_open (blk := 17) (supCtlWrite k (setBit v 30 true)) h)

/-! ### The pin (R146, R147) -/

theorem supLimit_engages {k mA mV : Nat} {s : State} (on : (s.sup k).st = .on) : supLimit k true mA mV s =
    raise 28 1 k (s.setSup k { s.sup k with st := .limit, mA := mA, mV := mV, limitAt := s.gts }) := by
  have inTime : (s.sup k).inTime s.gts := .inl (by simp [on])
  simp [supLimit, supDue_inTime inTime, on, supplyEvent]

theorem supLimit_releases {k mA mV : Nat} {s : State} (limit : (s.sup k).st = .limit)
    (early : s.gts < (s.sup k).limitEnd) : supLimit k false mA mV s =
    raise 28 4 k (s.setSup k { s.sup k with st := .on, mA := mA, mV := mV }) := by
  simp [supLimit, supDue_inTime (.inr early), limit, supplyEvent]

theorem supLimitTimeout_trips {k : Nat} {s : State} (running : s.tick.running = true) (limit : (s.sup k).st = .limit)
    (ends : (s.sup k).limitEnd < boundaryOf (s.t + 1)) : supLimitTimeout k s = raiseAt (s.sup k).limitEnd 28 2 k
      ((s.advance (s.sup k).limitEnd).setSup k { s.sup k with st := .tripped, mA := 0 }) := by
  have same : (s.advance (s.sup k).limitEnd).sup k = s.sup k := by simp [State.sup]
  have reached : (s.sup k).limitEnd ≤ (s.advance (s.sup k).limitEnd).gts := by
    simp [State.advance, running]
  have trips := supDue_trips (k := k) (s := s.advance (s.sup k).limitEnd) (by rw [same, limit]) (by rwa [same])
  rw [same] at trips
  exact (if_pos limit).trans ((if_pos ends).trans trips)

theorem supLimitTimeout_waits {k : Nat} {s : State}
    (h : (s.sup k).st ≠ .limit ∨ boundaryOf (s.t + 1) ≤ (s.sup k).limitEnd) : supLimitTimeout k s = s := by
  unfold supLimitTimeout
  split
  case isTrue limit =>
    have later := h.resolve_left (not_not_intro limit)
    exact if_neg (Nat.not_lt.2 later)
  case isFalse => rfl

theorem supOvervoltageTrip_trips {k mV : Nat} {s : State}
    (h : (s.sup k).st = .on ∨ ((s.sup k).st = .limit ∧ s.gts < (s.sup k).limitEnd)) : supOvervoltageTrip k mV s =
    raise 28 3 k (s.setSup k { s.sup k with st := .tripped, mA := 0, mV := mV }) := by
  have inTime : (s.sup k).inTime s.gts := h.imp (by simp +contextual) And.right
  simp only [supOvervoltageTrip, supDue_inTime inTime, supplyEvent]
  exact if_pos (h.imp_right And.left)

/-- Settles O29: a write of FIN_SUP_CTL in each state, then the current limit, its timeout and the over-voltage trip. -/
theorem sensorSuppliesFollowTheirStates : Obligations.SensorSuppliesFollowTheirStates := by
  -- CLR, bit 30, leaves EN, bit 31, as written.
  have en (b : Bool) (v : Word) : bitOf (setBit v 30 b) 31 = bitOf v 31 := bitOf_setBit_ne v (by omega) b
  refine fun k s => ⟨fun a v ho inTime => ⟨fun off => ⟨?_, ?_⟩, fun on st => ?_, fun on st => ⟨?_, ?_⟩⟩,
    fun mA mV on => ?_, fun mA mV limit early => ?_, fun running limit ends => ?_, fun h => ?_, fun mV h => ?_⟩
  · exact (exec_supEnWrite ho).trans (congrArg _ (supCtlWrite_off inTime ((en ..).trans off)))
  · exact (exec_supClr ho).trans (congrArg _ (supCtlWrite_off inTime ((en ..).trans off)))
  · exact (exec_supEnWrite ho).trans (congrArg _ (supCtlWrite_on_of_off inTime ((en ..).trans on) st))
  · exact (exec_supEnWrite ho).trans (congrArg _
      (supCtlWrite_on_of_tripped inTime ((en ..).trans on) (bitOf_setBit_self v (by omega) _) st))
  · exact (exec_supClr ho).trans (congrArg _
      (supCtlWrite_clears_trip inTime ((en ..).trans on) (bitOf_setBit_self v (by omega) _) st))
  · exact congrArg Host.Outcome.next (supLimit_engages on)
  · exact congrArg Host.Outcome.next (supLimit_releases limit early)
  · exact congrArg Host.Outcome.next (supLimitTimeout_trips running limit ends)
  · exact congrArg Host.Outcome.next (supLimitTimeout_waits h)
  · exact congrArg Host.Outcome.next (supOvervoltageTrip_trips h)

end Sys2Proof.Machine
end

section
/-!
Statements about what the inputs sample: analog conversions with their faults (R131, R134 to R136), frequency inputs and
the value of their gate (R137 to R139), loss pads (R140) and LOS_CAPTURE (R142).
-/

namespace Sys2Proof.Machine

/-! ### Analog inputs (R131, R134 to R136) -/

@[simp] theorem State.setAin_self (s : State) (n : Nat) (x : Ain) : (s.setAin n x).ain n = x :=
  Tab.get_put_self ..

/-- Why the conversion at `g` is bad, 0 for a good one, as the input stands in `s` (R135). -/
def State.badness (s : State) (n g input vref : Nat) : Nat :=
  ainBad (s.ain n) (ainCode (s.ain n) n g input vref) vref
    (((s.advance g).sup (bitsOf (s.ain n).act 27 26)).st == .on)

/-- A good conversion of an input that is not in fault counts, and starts the run of bad ones anew. -/
theorem ainFault_good {n g : Nat} {x : Ain} {s : State} (noFault : x.fault = false) :
    ainFault n g 0 x s = s.setAin n { x with good := min (x.good + 1) 255, bad := 0 } := by
  simp [ainFault, noFault, satTo]

/-- A bad conversion of an input already in fault counts, and starts the run of good ones anew. -/
theorem ainFault_bad {n g why : Nat} {x : Ain} {s : State} (bad : why ≠ 0) (fault : x.fault = true) :
    ainFault n g why x s = s.setAin n { x with bad := min (x.bad + 1) 255, good := 0 } := by
  simp [ainFault, bad, fault, satTo]

section
variable {n g input vref : Nat} {s : State}

theorem ainConversion_offGrid (off : isConversion (s.ain n).act g = false) : ainConversion n g input vref s = s := by
  simp [ainConversion, off]

variable (active : (s.ain n).active = true) (within : s.within g = true) (inTime : finLate g s = false)
  (grid : isConversion (s.ain n).act g = true)
include active within inTime grid

/-- At an instant of its grid the input passes the fault logic, and publishes but for FLT_ACT 1 in fault, visible 400
counts later (R131, R136, log 68). -/
theorem ainConversion_converts {u : State}
    (hu : ainFault n g (s.badness n g input vref) (s.ain n) (s.advance g) = u) : ainConversion n g input vref s =
    if bitOf (s.ain n).act 23 && (u.ain n).fault then u
    else publishLate (g + 400) n (wordOf (ainCode (s.ain n) n g input vref)) g u := by
  subst hu
  exact if_pos (by simp [active, within, inTime, grid])

theorem ainConversion_good (good : s.badness n g input vref = 0) (noFault : (s.ain n).fault = false) :
    ainConversion n g input vref s = publishLate (g + 400) n (wordOf (ainCode (s.ain n) n g input vref)) g
      ((s.advance g).setAin n { s.ain n with good := min ((s.ain n).good + 1) 255, bad := 0 }) :=
  (ainConversion_converts active within inTime grid (by rw [good]; exact ainFault_good noFault)).trans
    (if_neg (by simp [noFault]))

theorem ainConversion_withheld (fltAct : bitOf (s.ain n).act 23 = true) (fault : (s.ain n).fault = true)
    (bad : s.badness n g input vref ≠ 0) : ainConversion n g input vref s =
      (s.advance g).setAin n { s.ain n with bad := min ((s.ain n).bad + 1) 255, good := 0 } :=
  (ainConversion_converts active within inTime grid (ainFault_bad bad fault)).trans (if_pos (by simp [fltAct, fault]))

end

theorem ainShuntOpen_opens {n : Nat} {s : State} (active : (s.ain n).active = true)
    (range3 : bitsOf (s.ain n).act 30 28 = 3) (closed : (s.ain n).shunt = none) :
    ainShuntOpen n s = s.setAin n { s.ain n with shunt := some s.gts } :=
  if_pos (by simp [active, range3, closed])

/-- An open shunt waits for the instant 100 ticks after it opened (R134). -/
theorem ainShuntRetry_open {n g : Nat} {s : State} (opened : (s.ain n).shunt = some g) : ainShuntRetry n s =
    s.reach (g + 100 * tickLen) fun v => v.setAin n { s.ain n with shunt := none } := by
  simp only [ainShuntRetry, opened]

/-! ### Frequency inputs (R137 to R139) -/

theorem freqEdge_counts {n g pulse : Nat} {falling : Bool} {s : State} (active : (s.frq n).active = true)
    (within : s.within g = true) (polarity : falling = bitOf (s.frq n).act 28)
    (long : bitsOf (s.frq n).act 23 16 * 40 ≤ pulse) : freqEdge n g falling pulse s = (s.advance g).setFrq n
      { s.frq n with cnt := inc32 (s.frq n).cnt, gate := (s.frq n).gate + 1, last := some g } :=
  if_pos (by simp [active, within, polarity, long])

theorem freqEdge_ignored {n g pulse : Nat} {falling : Bool} {s : State}
    (h : falling ≠ bitOf (s.frq n).act 28 ∨ pulse < bitsOf (s.frq n).act 23 16 * 40) :
    freqEdge n g falling pulse s = s := by
  refine if_neg fun counts => ?_
  simp only [Bool.and_eq_true, beq_iff_eq, decide_eq_true_eq] at counts
  obtain ⟨⟨-, polarity⟩, long⟩ := counts
  exact h.elim (· polarity) (Nat.not_lt.2 long)

/-- The end of the gate that ends in the present tick (R137). -/
def State.gateEnd (s : State) (n : Nat) : Nat := boundaryOf s.t + bitsOf (s.frq n).act 6 0 * phaseLen

/-- A frequency input as its gate ends at `e`. -/
def Frq.gateClosed (x : Frq) (e : Nat) : Frq :=
  { x with gate := 0, prev := if x.gate = 0 then x.prev else x.last, gateAt := some e }

/-- A gate that has not ended yet ends, and publishes its value if it has one, visible 400 counts later (R137, R138,
log 68). -/
theorem freqGateEnd_ends {n : Nat} {s : State} (active : (s.frq n).active = true)
    (fresh : ∀ h, (s.frq n).gateAt = some h → h < s.gateEnd n) : freqGateEnd n s =
    (gateValue (s.frq n) (s.gateEnd n)).elim
      ((s.advance (s.gateEnd n)).setFrq n ((s.frq n).gateClosed (s.gateEnd n)))
      fun p => publishLate (s.gateEnd n + 400) (0x40 + n) (wordOf p.1) p.2
        ((s.advance (s.gateEnd n)).setFrq n ((s.frq n).gateClosed (s.gateEnd n))) := by
  refine (if_pos ?isFresh).trans ?value
  case isFresh =>
    rw [active, Bool.true_and]
    cases gateAt : (s.frq n).gateAt with
    | none => rfl
    | some h => exact decide_eq_true (fresh h gateAt)
  case value =>
    unfold State.gateEnd
    cases gateValue (s.frq n) (boundaryOf s.t + bitsOf (s.frq n).act 6 0 * phaseLen) <;> rfl

section
variable {x : Frq} {e : Nat}

theorem gateValue_count (unit3 : bitsOf x.act 27 26 = 3) : gateValue x e = some (x.gate, e) :=
  if_pos unit3

theorem gateValue_rate {l p : Nat} (unit : bitsOf x.act 27 26 ≠ 3) (edges : 0 < x.gate) (last : x.last = some l)
    (prev : x.prev = some p) :
    gateValue x e = some (nearDiv (x.gate * 400000000 * frqScale x.act) (l - p), l) := by
  simp only [gateValue, if_neg unit, if_neg edges.ne', last, prev]

theorem gateValue_empty (unit : bitsOf x.act 27 26 ≠ 3) (noEdge : x.gate = 0) : gateValue x e =
    if bitsOf x.act 15 8 * 10 * tickLen < e - x.last.getD x.enAt then some (0, e) else none :=
  (if_neg unit).trans (if_pos noEdge)

theorem gateValue_first (unit : bitsOf x.act 27 26 ≠ 3) (edges : 0 < x.gate) (prev : x.prev = none) :
    gateValue x e = none := by
  simp only [gateValue, if_neg unit, if_neg edges.ne', prev]
  cases x.last <;> rfl

end

/-! ### Loss pads (R140) -/

/-- While the envelope stays at or below THR there is no impact. -/
theorem firstStrike_none {thr rearm need : Nat} : ∀ {es : List Nat} {armed low : Bool} {below : Nat},
    (∀ e ∈ es, e ≤ thr) → firstStrike thr rearm need armed low below es = false
  | [], _, _, _, _ => rfl
  | _ :: _, _, _, _, quiet => by
    obtain ⟨first, rest⟩ := List.forall_mem_cons.1 quiet
    simp [firstStrike, Nat.not_lt.2 first, firstStrike_none rest]

/-- Behind codes below REARM and not above THR, of which those before have armed the pad or there are enough, a code
above THR is the first impact. -/
theorem firstStrike_last {thr rearm need last : Nat} (rises : thr < last) :
    ∀ {es : List Nat} {armed : Bool} {below : Nat}, (∀ e ∈ es, e < rearm ∧ e ≤ thr) →
      (armed = true ∨ (es ≠ [] ∧ need ≤ below + es.length)) →
      firstStrike thr rearm need armed true below (es ++ [last]) = true
  | [], armed, _, _, ready => by
    have armed := ready.resolve_right (·.1 rfl)
    simp [firstStrike, armed, rises]
  | e :: es, armed, below, quiet, ready => by
    obtain ⟨⟨belowRearm, low⟩, rest⟩ := List.forall_mem_cons.1 quiet
    have ready' : (armed || decide (need ≤ below + 1)) = true ∨ (es ≠ [] ∧ need ≤ below + 1 + es.length) := by
      cases es with
      | nil => exact .inl (by simpa using ready)
      | cons f fs =>
        simp only [List.length_cons] at ready ⊢
        rcases ready with armed | ⟨-, enough⟩
        · exact .inl (by simp [armed])
        · exact .inr ⟨nofun, by omega⟩
    simpa [firstStrike, Nat.not_lt.2 low, belowRearm, low] using firstStrike_last rises rest ready'

/-- A run without a strike leaves the pad as it is. -/
theorem losImpact_quiet {n : Nat} {run : List Int} {s : State}
    (quiet : ∀ v ∈ run, losEnvelope (s.los n).act v ≤ bitsOf (s.los n).thr 31 16) : losImpact n run s = s :=
  if_neg (by simp [firstStrike_none (List.forall_mem_map.2 quiet)])

/-- How many samples below REARM arm the pad: DEAD, and one since its enable (R140). -/
def Los.need (x : Los) : Nat := if x.struck then bitsOf x.act 7 0 else 1

/-- The GTS of the sample that follows `k` others since the last impact or the enable (R140). -/
def Los.sampleAt (x : Los) (k : Nat) : Nat := x.fromG + losStep * k

theorem losImpact_counts {n : Nat} {quiet : List Int} {v : Int} {s : State} {x : Los} (hx : x = s.los n)
    (active : x.active = true) (within : s.within (x.sampleAt quiet.length) = true)
    (rises : bitsOf x.thr 31 16 < losEnvelope x.act v)
    (below : ∀ e ∈ quiet, losEnvelope x.act e < bitsOf x.thr 15 0 ∧ losEnvelope x.act e ≤ bitsOf x.thr 31 16)
    (nonempty : 1 ≤ quiet.length) (enough : x.need ≤ quiet.length) :
    losImpact n (quiet ++ [v]) s = (s.advance (x.sampleAt quiet.length)).setLos n { x with
      count := x.count + 1, total := inc32 x.total, struck := true, fromG := x.sampleAt quiet.length + losStep } := by
  subst hx
  have strikes : firstStrike (bitsOf (s.los n).thr 31 16) (bitsOf (s.los n).thr 15 0) (s.los n).need false true 0
      ((quiet ++ [v]).map (losEnvelope (s.los n).act)) = true := by
    rw [List.map_append]
    refine firstStrike_last rises (List.forall_mem_map.2 below) (.inr ⟨?_, by simpa using enough⟩)
    exact fun empty => by simp [List.map_eq_nil_iff.1 empty] at nonempty
  have length : (quiet ++ [v]).length - 1 = quiet.length := by simp
  unfold losImpact
  rw [length]
  exact if_pos (by rw [active, Bool.true_and]; exact Bool.and_eq_true_iff.2 ⟨within, strikes⟩)

/-! ### LOS_CAPTURE (R142) -/

section
variable {c : OpRef} {s : State} (nonempty : 0 < c.op.len)
include nonempty

theorem losCapture_length (h : c.op.len % 2 ≠ 0 ∨ 800000 < c.op.len) : losCapture c s = failOp c stLen 0 s :=
  (needBuffer_passes _ nonempty.ne').trans (if_pos h)

variable (even : c.op.len % 2 = 0) (short : c.op.len ≤ 800000)
include even short

theorem losCapture_late (timed : c.op.word64 7 ≠ 0) (past : c.op.word64 7 ≤ s.t) :
    losCapture c s = failOp c stLate 0 s :=
  (needBuffer_passes _ nonempty.ne').trans ((if_neg (by omega)).trans (if_pos ⟨timed, past⟩))

/-- In time it starts, on a pad that is enabled (R142). -/
theorem losCapture_inTime (inTime : c.op.word64 7 = 0 ∨ s.t < c.op.word64 7) : losCapture c s =
    if enBit (s.los (bitsOf (c.op.word 6) 2 0)).cfg then
      startOp c [startTick s (c.op.word64 7), bitsOf (c.op.word 6) 2 0] s
    else failOp c stSchema 0 s := by
  refine (needBuffer_passes _ nonempty.ne').trans ((if_neg (by omega)).trans ((if_neg (by omega)).trans ?_))
  cases enBit (s.los (bitsOf (c.op.word 6) 2 0)).cfg <;> rfl

end

/-- A transfer to a buffer that is reachable stores its bytes. -/
theorem writeBuffer_open {ini addr : Nat} {bs : List Byte} {s : State}
    (h : bufferOpen ini true addr bs.length s = true) : writeBuffer ini addr bs s =
      (s.setMem (Memory.setMany s.mem addr bs), { moved := bs.length, status := 0, bytes := [] }) := by
  refine (writePieces_open 2 ini bs.length addr bs _ s (Nat.le_refl _) h).trans ?_
  rw [Nat.zero_add]

/-- A capture with `k` bytes more in its buffer. -/
def OpRef.moved (c : OpRef) (k : Nat) : OpRef := { c with op := { c.op with xfer := c.op.xfer + k } }

/-- Samples that reach the buffer stand behind those written before. -/
theorem captureWrite_open {c : OpRef} {bs : List Byte} {s : State} {k : OpRef → State → State}
    (h : bufferOpen 0x2E true (c.op.addr + c.op.xfer) bs.length s = true) : captureWrite c bs s k =
      k (c.moved bs.length) ((s.setMem (Memory.setMany s.mem (c.op.addr + c.op.xfer) bs)).setOp (c.moved bs.length)
        (c.moved bs.length).op) := by
  unfold captureWrite
  rw [writeBuffer_open h]
  exact if_neg (not_not_intro rfl)

/-- The start tick of a running capture. -/
def OpRef.captureStart (c : OpRef) : Nat := c.op.aux.getD 0 0

/-- Its pad. -/
def OpRef.capturePad (c : OpRef) : Nat := c.op.aux.getD 1 0

/-- The bytes that it has not written yet. -/
def OpRef.left (c : OpRef) : Nat := c.op.len - c.op.xfer

/-- The GTS of its last sample. -/
def OpRef.lastSampleAt (c : OpRef) : Nat := boundaryOf c.captureStart + losStep * (c.op.len / 2 - 1)

section
variable {samples : List Byte} {c : OpRef} {s : State} (running : s.opOf 17 0 (isStarted 1) = some c)
include running

theorem losCaptureComplete_early (early : s.t < c.captureStart) : losCaptureComplete samples s = s := by
  simp only [losCaptureComplete, running]
  exact if_pos early

theorem losCaptureComplete_cut (started : c.captureStart ≤ s.t) (off : (s.los c.capturePad).active = false) :
    losCaptureComplete samples s = finishAt (captureEnd c.op) c stIncomplete c.op.xfer 0 0 s := by
  simp only [losCaptureComplete, running]
  exact (if_neg (Nat.not_lt.2 started)).trans (if_pos (congrArg (!·) off))

theorem losCaptureComplete_whole (started : c.captureStart ≤ s.t) (on : (s.los c.capturePad).active = true)
    (enough : c.left ≤ samples.length) (ends : c.lastSampleAt < boundaryOf (s.t + 1))
    (reachable : bufferOpen 0x2E true (c.op.addr + c.op.xfer) c.left (s.advance c.lastSampleAt) = true) :
    losCaptureComplete samples s = finishAt (captureEnd (c.moved c.left).op) (c.moved c.left) stOk c.op.len
      (wordOf c.captureStart) (wordOf (c.op.len / 2)) (((s.advance c.lastSampleAt).setMem
        (Memory.setMany (s.advance c.lastSampleAt).mem (c.op.addr + c.op.xfer) (samples.take c.left))).setOp
          (c.moved c.left) (c.moved c.left).op) := by
  have length : (samples.take (c.op.len - c.op.xfer)).length = c.left := List.length_take_of_le enough
  simp only [losCaptureComplete, running]
  refine (if_neg (Nat.not_lt.2 started)).trans ((if_neg ?_).trans ((if_neg (Nat.not_lt.2 enough)).trans
    ((if_pos ends).trans ((captureWrite_open (by rw [length]; exact reachable)).trans ?_))))
  · exact Bool.eq_false_iff.1 (congrArg (!·) on)
  · rw [length]; rfl

end

/-- Settles O28: each kind of input by its lemmas, then the gate's value, LOS_CAPTURE and its end. -/
theorem inputsSampleAndPublish : Obligations.InputsSampleAndPublish := by
  refine ⟨⟨fun n g uin vref s active within inTime => ⟨?good, ?withheld, ?offGrid⟩,
      fun n s => ⟨?opens, fun g opened ends => ?reconnects, fun g opened later => ?waits⟩,
      fun n s => ⟨?counts, ?ignored, ?gate⟩, fun n quiet v s => ⟨?impact, ?quiet⟩, ?imu⟩,
    fun x e l p => ⟨?count, ?rate, ?empty, ?first⟩,
    fun n c s hn taken nonempty => ⟨?length, fun even short => ⟨?late, ?starts⟩⟩,
    fun samples c s running => ⟨?whole, ?cut, ?early⟩⟩
  case good =>
    exact fun grid good noFault => congrArg Host.Outcome.next
      (ainConversion_good active within inTime grid good noFault)
  case withheld =>
    exact fun grid fltAct fault bad => congrArg Host.Outcome.next
      (ainConversion_withheld active within inTime grid fltAct fault bad)
  case offGrid => exact fun off => congrArg Host.Outcome.next (ainConversion_offGrid off)
  case opens => exact fun active range3 closed => congrArg Host.Outcome.next (ainShuntOpen_opens active range3 closed)
  case reconnects => exact congrArg Host.Outcome.next ((ainShuntRetry_open opened).trans (if_pos ends))
  case waits => exact congrArg Host.Outcome.next ((ainShuntRetry_open opened).trans (if_neg (Nat.not_lt.2 later)))
  case counts =>
    exact fun g pulse falling active within polarity long => congrArg Host.Outcome.next
      (freqEdge_counts active within polarity long)
  case ignored => exact fun g pulse falling h => congrArg Host.Outcome.next (freqEdge_ignored h)
  case gate => exact fun active fresh => congrArg Host.Outcome.next (freqGateEnd_ends active fresh)
  case impact =>
    exact fun active within rises below nonempty enough => congrArg Host.Outcome.next
      (losImpact_counts rfl active within rises below nonempty enough)
  case quiet => exact fun h => congrArg Host.Outcome.next (losImpact_quiet h)
  case imu => exact fun pass s => rfl
  case count => exact gateValue_count
  case rate => exact gateValue_rate
  case empty => exact gateValue_empty
  case first => exact gateValue_first
  case length =>
    exact fun h => congrArg Host.Outcome.next ((takeOp_at losCapture n hn taken).trans (losCapture_length nonempty h))
  case late =>
    exact fun timed past => congrArg Host.Outcome.next
      ((takeOp_at losCapture n hn taken).trans (losCapture_late nonempty even short timed past))
  case starts =>
    exact fun inTime => congrArg Host.Outcome.next
      ((takeOp_at losCapture n hn taken).trans (losCapture_inTime nonempty even short inTime))
  case whole =>
    exact fun started on enough ends reachable => congrArg Host.Outcome.next
      (losCaptureComplete_whole running started on enough ends reachable)
  case cut => exact fun started off => congrArg Host.Outcome.next (losCaptureComplete_cut running started off)
  case early => exact fun early => congrArg Host.Outcome.next (losCaptureComplete_early running early)

end Sys2Proof.Machine
end

section
/-!
Statements about a load channel: what each operation leaves unchanged outside it, the entry to ON, the period starts it
takes, OFF and trips (R151 to R162).
-/

namespace Sys2Proof.Machine

/-! ### One update, one channel -/

@[simp] theorem State.setCh_self (s : State) (n : Nat) (x : Ch) : (s.setCh n x).ch n = x := Tab.get_put_self ..

theorem State.setCh_ne (s : State) {n k : Nat} (x : Ch) (h : k ≠ n) : (s.setCh n x).ch k = s.ch k :=
  Tab.get_put_ne _ _ _ h

@[simp] theorem State.advance_ch (s : State) (g n : Nat) : (s.advance g).ch n = s.ch n :=
  by simp [State.ch]

@[simp] theorem State.advance_bank (s : State) (g : Nat) (bk : Bank) : (s.advance g).bank bk = s.bank bk := by
  cases bk <;> simp [State.bank]

@[simp] theorem State.setCh_bank (s : State) (n : Nat) (x : Ch) (bk : Bank) : (s.setCh n x).bank bk = s.bank bk := by
  cases bk <;> rfl

@[simp] theorem State.setBank_ch (s : State) (bk : Bank) (b : LoadBank) (k : Nat) : (s.setBank bk b).ch k = s.ch k := by
  cases bk <;> rfl

@[simp] theorem State.setBank_self (s : State) (bk : Bank) (b : LoadBank) : (s.setBank bk b).bank bk = b := by
  cases bk <;> rfl

/-- A bank replaced moves nothing outside LSW. -/
theorem State.setBank_lsw (s : State) (bk : Bank) (b : LoadBank) : ∃ l, s.setBank bk b = { s with lsw := l } := by
  cases bk <;> exact ⟨_, rfl⟩

@[simp] theorem chEvent_lsw (n code data g : Nat) (s : State) : (chEvent n code data g s).lsw = s.lsw := raiseAt_lsw ..

@[simp] theorem chEvent_ch (n code data g : Nat) (s : State) (k : Nat) : (chEvent n code data g s).ch k = s.ch k := by
  simp [State.ch]

@[simp] theorem chEvent_bank (n code data g : Nat) (s : State) (bk : Bank) :
    (chEvent n code data g s).bank bk = s.bank bk := by
  cases bk <;> simp [State.bank]

/-! ### What stays outside a channel (R161) -/

/-- `t` is `s` but for channel `n`: every other channel, host memory, rings and CAN are as before. -/
structure OnlyCh (n : Nat) (s t : State) : Prop where
  ch : ∀ k, k ≠ n → t.ch k = s.ch k
  mem : t.mem = s.mem
  hri : t.hri = s.hri
  can : t.can = s.can

namespace OnlyCh

variable {n : Nat} {s t u : State}

theorem refl (n : Nat) (s : State) : OnlyCh n s s := ⟨fun _ _ => rfl, rfl, rfl, rfl⟩

theorem trans (st : OnlyCh n s t) (tu : OnlyCh n t u) : OnlyCh n s u :=
  ⟨fun k h => (tu.ch k h).trans (st.ch k h), tu.mem.trans st.mem, tu.hri.trans st.hri, tu.can.trans st.can⟩

theorem ite {c : Prop} [Decidable c] (ht : OnlyCh n s t) (hu : OnlyCh n s u) : OnlyCh n s (if c then t else u) := by
  split
  · exact ht
  · exact hu

theorem setCh {x : Ch} (h : OnlyCh n s t) : OnlyCh n s (t.setCh n x) :=
  h.trans ⟨fun _ ne => t.setCh_ne x ne, rfl, rfl, rfl⟩

theorem advance {g : Nat} (h : OnlyCh n s t) : OnlyCh n s (t.advance g) :=
  h.trans ⟨fun _ _ => t.advance_ch g _, t.advance_mem g, t.advance_hri g, t.advance_can g⟩

theorem chEvent {m code data g : Nat} (h : OnlyCh n s t) : OnlyCh n s (chEvent m code data g t) :=
  h.trans ⟨fun _ _ => chEvent_ch .., raiseAt_mem .., raiseAt_hri .., raiseAt_can ..⟩

theorem setBank {bk : Bank} {b : LoadBank} (h : OnlyCh n s t) : OnlyCh n s (t.setBank bk b) :=
  h.trans (by cases bk <;> exact ⟨fun _ _ => rfl, rfl, rfl, rfl⟩)

end OnlyCh

/-! ### Entry to ON and the period starts (R152, R154, R172, R473) -/

@[simp] theorem openWindow_st (n : Nat) (x : Ch) (g : Nat) : (openWindow n x g).st = x.st := by
  unfold openWindow; repeat' split
  all_goals rfl

@[simp] theorem openWindow_count (n : Nat) (x : Ch) (g : Nat) : (openWindow n x g).count = x.count := by
  unfold openWindow; repeat' split
  all_goals rfl

@[simp] theorem openWindow_bceLate (n : Nat) (x : Ch) (g : Nat) : (openWindow n x g).bceLate = x.bceLate := by
  unfold openWindow; repeat' split
  all_goals rfl

@[simp] theorem takePeriod_bceLate (n : Nat) (x : Ch) (v : FeedView) (p : Nat) :
    (takePeriod n x v p).bceLate = x.bceLate := by
  unfold takePeriod; dsimp only; split
  · exact openWindow_bceLate ..
  · rfl

theorem leaveOff_only (n g : Nat) (s : State) : OnlyCh n s (leaveOff n g s) :=
  .ite (.chEvent (.setCh (.refl ..))) (.setCh (.refl ..))

theorem leaveOff_ch_self (n g : Nat) (s : State) :
    (leaveOff n g s).ch n = { s.ch n with olOff := false, offAbove := 0, offBelow := 0 } := by
  unfold leaveOff; dsimp only; split <;> simp

/-- An entry to ON sets the channel, behind the change of OL_OFF: it is ON, with the restart count and BCE_LATE it
had. -/
theorem enterOn_eq (n g : Nat) (k : Option (Option Nat)) (soft : Bool) (s : State) :
    ∃ x : Ch, enterOn n g k soft s = (leaveOff n g s).setCh n x ∧ x.st = .on ∧ x.count = (s.ch n).count ∧
      x.bceLate = (s.ch n).bceLate := by
  unfold enterOn; dsimp only; split
  case isTrue =>
    refine ⟨_, rfl, ?_⟩
    simp only [apply_ite Ch.st, apply_ite Ch.count, apply_ite Ch.bceLate, openWindow_st, openWindow_count,
      openWindow_bceLate, ite_self, leaveOff_ch_self, and_self]
  case isFalse => exact ⟨_, rfl, by simp [leaveOff_ch_self]⟩

theorem enterOn_only (n g : Nat) (k : Option (Option Nat)) (soft : Bool) (s : State) :
    OnlyCh n s (enterOn n g k soft s) := by
  obtain ⟨x, eq, -⟩ := enterOn_eq n g k soft s
  exact eq ▸ .setCh (leaveOff_only n g s)

theorem enterOn_ch_self (n g : Nat) (k : Option (Option Nat)) (soft : Bool) (s : State) :
    ((enterOn n g k soft s).ch n).st = .on ∧ ((enterOn n g k soft s).ch n).count = (s.ch n).count ∧
      ((enterOn n g k soft s).ch n).bceLate = (s.ch n).bceLate := by
  obtain ⟨x, eq, facts⟩ := enterOn_eq n g k soft s
  rw [eq, State.setCh_self]
  exact facts

/-- Up to an instant a channel takes no period start, takes its starts in ON, or goes back to ON from FEED_LOW. -/
theorem chAdvance_cases (n g : Nat) (s : State) : chAdvance n g s = s ∨
    (∃ x : Ch, chAdvance n g s = s.setCh n x ∧ x.bceLate = (s.ch n).bceLate) ∨
    ∃ p, chAdvance n g s = enterOn n p none true s := by
  unfold chAdvance; dsimp only; split
  case isTrue =>
    split
    next => exact .inl rfl
    next p _ =>
      split
      · refine .inr (.inl ⟨_, rfl, ?_⟩)
        split <;> simp
      · split
        · exact .inr (.inl ⟨_, rfl, by simp⟩)
        · exact .inl rfl
  case isFalse =>
    split
    · split
      next w _ =>
        split
        · exact .inr (.inr ⟨_, rfl⟩)
        · exact .inl rfl
      next => exact .inl rfl
    · exact .inl rfl

theorem chAdvance_only (n g : Nat) (s : State) : OnlyCh n s (chAdvance n g s) := by
  obtain eq | ⟨x, eq, -⟩ | ⟨p, eq⟩ := chAdvance_cases n g s <;> rw [eq]
  · exact .refl ..
  · exact .setCh (.refl ..)
  · exact enterOn_only ..

theorem chAdvance_bceLate (n g : Nat) (s : State) : ((chAdvance n g s).ch n).bceLate = (s.ch n).bceLate := by
  obtain eq | ⟨x, eq, late⟩ | ⟨p, eq⟩ := chAdvance_cases n g s <;> rw [eq]
  · rw [State.setCh_self, late]
  · exact (enterOn_ch_self n p none true s).2.2

/-! ### The end of conduction (R152, R160 to R162) -/

theorem stopCh_only (n : Nat) (st : ChState) (s : State) : OnlyCh n s (stopCh n st s) := .setCh (.refl ..)

theorem chOff_only (n : Nat) (s : State) : OnlyCh n s (chOff n s) := .setCh (stopCh_only ..)

theorem chOff_ch_self (n : Nat) (s : State) :
    ((chOff n s).ch n).st = .off ∧ ((chOff n s).ch n).applied = 0 ∧ ((chOff n s).ch n).count = 0 := by
  simp [chOff, stopCh]

/-- The state in which a trip at `g` finds its channel: the period starts before it are taken. -/
def State.atTrip (s : State) (n g : Nat) : State := chAdvance n g (s.advance g)

theorem State.atTrip_only (s : State) (n g : Nat) : OnlyCh n s (s.atTrip n g) :=
  (OnlyCh.advance (.refl ..)).trans (chAdvance_only ..)

theorem trip_only (n g cause data : Nat) (both : Bool) (s : State) : OnlyCh n s (trip n g cause data both s) := by
  have stopped (st : ChState) := (s.atTrip_only n g).trans (stopCh_only n st _)
  exact .ite (.chEvent (.chEvent (.setBank (.setCh (stopped _))))) (.chEvent (.setBank (.setCh (stopped _))))

/-- A trip ends conduction: LATCHED by mode or by count, else COOL, with its cause, its instant and its counts (R162,
R164). -/
theorem trip_ch_self {n g cause data : Nat} {both : Bool} {s : State} {x y : Ch} (hy : y = (s.atTrip n g).ch n)
    (hx : x = (trip n g cause data both s).ch n) :
    x.st = (if y.latchMode || decide (y.tries ≤ y.count) then .latched else .cool) ∧ x.cause = cause ∧ x.tripAt = g ∧
      x.applied = 0 ∧ (cause = 1 → x.shortTrips = min (y.shortTrips + 1) 0xFFFF) ∧
      (cause = 2 → x.thermTrips = min (y.thermTrips + 1) 0xFFFF) := by
  subst hx hy
  have latches (y : Ch) : (y.latchMode || (!y.latchMode && decide (y.tries ≤ y.count))) =
      (y.latchMode || decide (y.tries ≤ y.count)) := by cases y.latchMode <;> rfl
  unfold trip State.atTrip
  simp only [latches]
  split <;> simp +contextual [stopCh, countUp, satTo]

end Sys2Proof.Machine
end

section
/-!
Statements about what a load channel does by itself: trips, restarts and their count, the inrush window, open load, the
late BCE duty and the gang mismatch (R153, R156, R160 to R164, R168).
-/

namespace Sys2Proof.Machine

/-! ### What a happening finds (R26) -/

theorem State.within_of {s : State} {g : Nat} (reached : s.gts ≤ g) (inTick : g < boundaryOf (s.t + 1)) :
    s.within g = true := by
  simp [State.within, reached, inTick]

theorem State.reach_inTick {s : State} {g : Nat} (k : State → State) (inTick : g < boundaryOf (s.t + 1)) :
    s.reach g k = k (s.advance g) := if_pos inTick

/-! ### Trips and restarts (R160 to R162) -/

section
variable {n g mV : Nat} {both : Bool} {tj : Int} {s : State}

theorem shortTrip_trips (on : (s.ch n).st = .on) (within : s.within g = true) (shorted : mV < shortLevel) :
    shortTrip n g mV both s = trip n g 1 mV both s := by
  simp [shortTrip, on, within, shorted]

theorem shortTrip_limits (on : (s.ch n).st = .on) (within : s.within g = true) (overload : shortLevel ≤ mV) :
    shortTrip n g mV both s = (s.atTrip n g).setCh n { (s.atTrip n g).ch n with limit := true } := by
  simp [shortTrip, on, within, Nat.not_lt.2 overload, State.atTrip]

theorem thermalTrip_trips (on : (s.ch n).st = .on) (within : s.within g = true) :
    thermalTrip n g tj s = trip n g 2 (tj % 65536).toNat false s := by
  simp [thermalTrip, on, within]

theorem shortTrip_notOn (off : (s.ch n).st ≠ .on) : shortTrip n g mV both s = s := by
  simp [shortTrip, off]

theorem thermalTrip_notOn (off : (s.ch n).st ≠ .on) : thermalTrip n g tj s = s := by
  simp [thermalTrip, off]

end

/-- The instant at which a COOL channel restarts, once it has cooled (R162). -/
def State.restartAt (s : State) (n : Nat) : Nat :=
  let x := s.ch n
  phaseCeil (max (if x.tripBy = 1 then x.tripAt + x.retry * 10 * tickLen else x.tripAt) s.gts)

theorem restart_notCool {n : Nat} {cooled : Bool} {s : State} (notCool : (s.ch n).st ≠ .cool) :
    restart n cooled s = s := if_neg fun h => notCool h.1

/-- The state in which a restart finds its channel: at its instant, one restart more counted. -/
def State.atRestart (s : State) (n : Nat) : State :=
  (s.advance (s.restartAt n)).setCh n { s.ch n with count := (s.ch n).count + 1 }

theorem State.atRestart_only (s : State) (n : Nat) : OnlyCh n s (s.atRestart n) := .setCh (.advance (.refl ..))

/-- A restart goes to ON, in a feed-low bank to FEED_LOW, and is reported (R152, R162). -/
theorem restart_due {n : Nat} {s : State} (cool : (s.ch n).st = .cool)
    (inTick : s.restartAt n < boundaryOf (s.t + 1)) : restart n true s =
      chEvent n 3 (((s.ch n).count + 1) * 65536) (s.restartAt n)
        (if (s.bank (chBank n)).low then stopCh n .feedLow (s.atRestart n)
         else enterOn n (s.restartAt n) none true (s.atRestart n)) := by
  have bank : ((s.atRestart n).bank (chBank n)).low = (s.bank (chBank n)).low := by simp [State.atRestart]
  refine (if_pos ⟨cool, rfl⟩).trans ((s.reach_inTick _ inTick).trans ?_)
  rw [← bank]
  simp only [State.advance_ch]
  rfl

theorem restart_due_only {n : Nat} {s : State} (cool : (s.ch n).st = .cool)
    (inTick : s.restartAt n < boundaryOf (s.t + 1)) : OnlyCh n s (restart n true s) :=
  restart_due cool inTick ▸ .chEvent (.ite ((s.atRestart_only n).trans (stopCh_only ..))
    ((s.atRestart_only n).trans (enterOn_only ..)))

theorem restart_due_ch_self {n : Nat} {s : State} (cool : (s.ch n).st = .cool)
    (inTick : s.restartAt n < boundaryOf (s.t + 1)) :
    ((restart n true s).ch n).st = (if (s.bank (chBank n)).low then .feedLow else .on) ∧
      ((restart n true s).ch n).count = (s.ch n).count + 1 := by
  have counted : ((s.atRestart n).ch n).count = (s.ch n).count + 1 := by simp [State.atRestart]
  obtain ⟨on, count, -⟩ := enterOn_ch_self n (s.restartAt n) none true (s.atRestart n)
  rw [restart_due cool inTick, chEvent_ch, ← counted]
  split
  · simp [stopCh]
  · exact ⟨on, count⟩

theorem restartCountReset_on {n : Nat} {s : State} (on : (s.ch n).st = .on)
    (inTick : (s.ch n).onSince + 60000 * tickLen < boundaryOf (s.t + 1)) : restartCountReset n s =
      (s.advance ((s.ch n).onSince + 60000 * tickLen)).setCh n { s.ch n with count := 0 } := by
  refine (if_pos on).trans ((s.reach_inTick _ inTick).trans ?_)
  rw [State.advance_ch]

/-! ### The inrush window (R156) -/

theorem inrushWindowEnd_open {n w : Nat} {s u : State} (window : (s.ch n).win = some w)
    (inTick : w + (s.ch n).inrush * tickLen < boundaryOf (s.t + 1))
    (hu : u = s.advance (w + (s.ch n).inrush * tickLen)) :
    inrushWindowEnd n s = (chAdvance n u.gts u).setCh n { (chAdvance n u.gts u).ch n with win := none } := by
  subst hu
  simp only [inrushWindowEnd, window]
  exact s.reach_inTick _ inTick

/-! ### Open load (R163) -/

section
variable {n : Nat} {s : State}

/-- The channel's bit of LSW_FAULT set, at an open-load entry or a trip (R177). -/
def State.withFault (s : State) (n : Nat) : State :=
  s.setBank (chBank n) { s.bank (chBank n) with
    fault := (s.bank (chBank n)).fault ||| BitVec.ofNat 64 (2 ^ n) }

theorem openLoad_on_enters (clear : (s.ch n).olOn = false) (run : (s.ch n).onBelow = 20) : openLoad n true s =
    chEvent n 5 (2 ^ 31) (boundaryOf s.t) ((s.setCh n { s.ch n with olOn := true }).withFault n) := by
  simp [openLoad, clear, run, oneIf, State.withFault]

theorem openLoad_on_leaves (set : (s.ch n).olOn = true) (run : (s.ch n).onAbove = 20) : openLoad n true s =
    chEvent n 5 0 (boundaryOf s.t) (s.setCh n { s.ch n with olOn := false }) := by
  simp [openLoad, set, run]

theorem openLoad_off_leaves (set : (s.ch n).olOff = true) (run : (s.ch n).offBelow = 20) : openLoad n false s =
    chEvent n 5 1 (boundaryOf s.t) (s.setCh n { s.ch n with olOff := false }) := by
  simp [openLoad, set, run]

/-- An event behind a change of LSW alone reaches SYS as it would without that change. -/
theorem chEvent_withFault_sys (code data g : Nat) (x : Ch) :
    (chEvent n code data g ((s.setCh n x).withFault n)).sys = (chEvent n code data g s).sys := by
  obtain ⟨l, eq⟩ := (s.setCh n x).setBank_lsw (chBank n) { (s.setCh n x).bank (chBank n) with
    fault := ((s.setCh n x).bank (chBank n)).fault ||| BitVec.ofNat 64 (2 ^ n) }
  rw [State.withFault, eq]
  exact raiseEv_sys_congr rfl rfl rfl

end

/-! ### A late BCE duty (R153) -/

/-- The instant from which a BCE channel is late. -/
def Ch.lateAt (x : Ch) : Nat := max x.bceAt x.onSince + x.bceTmo * 10 * tickLen

section
variable {n : Nat} {s : State} (on : (s.ch n).st = .on) (bce : (s.ch n).bce = true) (timed : (s.ch n).bceTmo ≠ 0)
  (fresh : (s.ch n).bceLate = false) (inTick : (s.ch n).lateAt < boundaryOf (s.t + 1))
include on bce timed fresh inTick

/-- A channel that has had no duty since `u` is late, reported at its instant, and goes on at `u`'s GTS. -/
theorem bceTimeout_late {u : State} (hu : u = chAdvance n ((s.ch n).lateAt - 1) (s.advance (s.ch n).lateAt)) :
    bceTimeout n s = chAdvance n (u.setCh n { u.ch n with bceLate := true }).gts
      (chEvent n 10 (2 ^ 31) (s.ch n).lateAt (u.setCh n { u.ch n with bceLate := true })) := by
  subst hu
  refine (if_pos ⟨on, bce, timed, by simp [fresh]⟩).trans (s.reach_inTick _ inTick)

theorem bceTimeout_only : OnlyCh n s (bceTimeout n s) := by
  rw [bceTimeout_late on bce timed fresh inTick rfl]
  exact OnlyCh.trans (.chEvent (.setCh ((OnlyCh.advance (.refl ..)).trans (chAdvance_only ..)))) (chAdvance_only ..)

theorem bceTimeout_bceLate : ((bceTimeout n s).ch n).bceLate = true := by
  rw [bceTimeout_late on bce timed fresh inTick rfl, chAdvance_bceLate]
  simp

end

/-! ### Gang mismatch by output (R168) -/

section
variable {n : Nat} {s : State} (sameCrc : (s.ch n).gangCrc = false)
include sameCrc

theorem gangMismatch_enters (clear : (s.ch n).gangOut = false) (differs : (s.ch n).gangNow = true) :
    gangMismatch n s = chEvent n 9 (2 ^ 31 + 1) (boundaryOf s.t)
      (s.setCh n { s.ch n with gangOut := true, gangOutOk := 0 }) := by
  simp [gangMismatch, sameCrc, clear, differs]

theorem gangMismatch_leaves (set : (s.ch n).gangOut = true) (matched : (s.ch n).gangOutOk = 5) :
    gangMismatch n s = chEvent n 9 1 (boundaryOf s.t) (s.setCh n { s.ch n with gangOut := false }) := by
  simp [gangMismatch, sameCrc, set, matched]

end

/-- Settles O31: the trips, the restart and its count, the window, then the tests at the tick. -/
theorem channelsTripRestartAndTest : Obligations.ChannelsTripRestartAndTest := by
  refine fun n s => ⟨fun g mV both on reached inTick shorted => ?short,
    fun g mV both on reached inTick overload => ?limit,
    fun g tj on reached inTick => ?thermal, fun notOn g mV both tj => ⟨?noShort, ?noThermal⟩,
    fun cool inTick => ?restart, fun notCool cooled => ?noRestart, fun on inTick => ?countReset,
    fun w window inTick => ?window, fun clear run => ?openLoad, fun set run => ?openLoadOver,
    fun set run => ?offStateOver, fun on bce timed fresh inTick => ?late, fun clear differs sameCrc => ?differs,
    fun set matched sameCrc => ?agrees⟩
  case short =>
    have only := trip_only n g 1 mV both s
    obtain ⟨st, cause, tripAt, applied, trips, -⟩ := trip_ch_self (cause := 1) (data := mV) (both := both) rfl rfl
    exact ⟨_, congrArg Host.Outcome.next (shortTrip_trips on (State.within_of reached inTick) shorted), st, cause,
      tripAt, applied, trips rfl, only.ch, only.mem, only.hri, only.can⟩
  case limit => exact congrArg Host.Outcome.next (shortTrip_limits on (State.within_of reached inTick) overload)
  case thermal =>
    have only := trip_only n g 2 (tj % 65536).toNat false s
    obtain ⟨st, cause, tripAt, applied, -, trips⟩ :=
      trip_ch_self (cause := 2) (data := (tj % 65536).toNat) (both := false) rfl rfl
    exact ⟨_, congrArg Host.Outcome.next (thermalTrip_trips on (State.within_of reached inTick)), st, cause, tripAt,
      applied, trips rfl, only.ch, only.mem, only.hri, only.can⟩
  case noShort => exact congrArg Host.Outcome.next (shortTrip_notOn notOn)
  case noThermal => exact congrArg Host.Outcome.next (thermalTrip_notOn notOn)
  case restart =>
    have only := restart_due_only cool inTick
    obtain ⟨st, count⟩ := restart_due_ch_self cool inTick
    exact ⟨_, rfl, st, count, only.ch, only.mem, only.hri⟩
  case noRestart => exact congrArg Host.Outcome.next (restart_notCool notCool)
  case countReset => exact congrArg Host.Outcome.next (restartCountReset_on on inTick)
  case window => exact congrArg Host.Outcome.next (inrushWindowEnd_open window inTick rfl)
  case openLoad =>
    have enters := openLoad_on_enters clear run
    have only : OnlyCh n s (openLoad n true s) := enters ▸ .chEvent (.setBank (.setCh (.refl ..)))
    refine ⟨_, congrArg Host.Outcome.next enters, ?self, enters ▸ only.ch, ?fault, chEvent_withFault_sys ..⟩
    case self => simp [State.withFault]
    case fault => simp [State.withFault]
  case openLoadOver => exact congrArg Host.Outcome.next (openLoad_on_leaves set run)
  case offStateOver => exact congrArg Host.Outcome.next (openLoad_off_leaves set run)
  case late =>
    have only := bceTimeout_only on bce timed fresh inTick
    exact ⟨_, rfl, bceTimeout_bceLate on bce timed fresh inTick, only.ch, only.mem⟩
  case differs => exact congrArg Host.Outcome.next (gangMismatch_enters sameCrc clear differs)
  case agrees => exact congrArg Host.Outcome.next (gangMismatch_leaves sameCrc set matched)

end Sys2Proof.Machine
end

section
/-!
Statements about commands to channels: the checks of CH_SET, CH_PROFILE, CH_CLEAR and CH_READ, what their effects do at
a boundary, and what an ON or OFF does to a channel in each state (R152, R173 to R176).
-/

namespace Sys2Proof.Machine

/-! ### Checks (R174 to R176) -/

section
variable {c : OpRef} {s : State}

/-- A CH_SET in time, its valid entries naming channels of banks that are on, each once, starts (R174). -/
theorem chSet_starts (inTime : c.op.word64 6 = 0 ∨ s.t < c.op.word64 6)
    (chans : ∀ j ∈ setChannels c.op, j ≤ 47 ∧ s.chOn j = true) (once : (setChannels c.op).Nodup) :
    chSet c s = startOp c [startTick s (c.op.word64 6)] s := by
  have late : ¬ (c.op.word64 6 ≠ 0 ∧ c.op.word64 6 ≤ s.t) := by omega
  have schema : ((setChannels c.op).any (fun j => decide (47 < j)) || !decide (setChannels c.op).Nodup) = false := by
    simpa [once] using fun j hj => (chans j hj).1
  have off : (setChannels c.op).any (fun j => !s.chOn j) = false := by
    simpa using fun j hj => (chans j hj).2
  simp [chSet, late, schema, off]

/-- The channel of a CH_PROFILE (R173). -/
def OpRef.profileCh (c : OpRef) : Nat := bitsOf (c.op.word 6) 5 0

/-- Its extra passes; none: until it is cut (R175). -/
def OpRef.profilePasses (c : OpRef) : Option Nat :=
  if bitsOf (c.op.word 9) 15 0 = 0xFFFF then none else some (bitsOf (c.op.word 9) 15 0)

/-- A CH_PROFILE of these steps passes the checks of R48 and R175. -/
structure ProfileChecks (c : OpRef) (steps : List ProfStep) (s : State) : Prop where
  nonempty : 0 < c.op.len
  inTime : c.op.word64 7 = 0 ∨ s.t < c.op.word64 7
  whole : c.op.len % 8 = 0
  short : c.op.len ≤ 4096
  channel : c.profileCh ≤ 47
  host : (s.ch c.profileCh).bce = false
  reachable : bufferOpen 0x26 false c.op.addr c.op.len s = true
  valid : readSteps (c.op.len / 8) (bufferOf c s) = some steps
  free : profRunning s c.profileCh = false
  on : s.chOn c.profileCh = true

/-- A CH_PROFILE that passes the checks copies its steps and starts (R175). -/
theorem chProfile_starts {steps : List ProfStep} (h : ProfileChecks c steps s) :
    chProfile c s = startOp c [startTick s (c.op.word64 7), c.profileCh] (s.setCh c.profileCh { s.ch c.profileCh with
      prof := some {
        steps := steps, idx := 0, nextT := startTick s (c.op.word64 7), left := c.profilePasses } }) := by
  have late : ¬ (c.op.word64 7 ≠ 0 ∧ c.op.word64 7 ≤ s.t) := by have := h.inTime; omega
  have schema : ¬ (c.op.len % 8 ≠ 0 ∨ 4096 < c.op.len ∨ 47 < c.profileCh ∨ (s.ch c.profileCh).bce = true) := by
    rintro (broken | long | beyond | bce)
    · exact broken h.whole
    · exact Nat.not_lt.2 h.short long
    · exact Nat.not_lt.2 h.channel beyond
    · exact Bool.false_ne_true (h.host.symm.trans bce)
  refine (needBuffer_passes _ h.nonempty.ne').trans ((if_neg late).trans ((if_neg schema).trans
    ((readWhole_open h.reachable).trans ?_)))
  simp only [h.valid]
  exact (if_neg (Bool.eq_false_iff.1 h.free)).trans (if_neg (Bool.eq_false_iff.1 (congrArg (!·) h.on)))

/-- CH_CLEAR clears the masked channels whose bank is on, at its check (R176). -/
theorem chClear_clears (inMask : c.op.word64 6 < 2 ^ 48) {chosen on : List Nat}
    (hc : chosen = chNumbers.filter fun j => (c.op.word64 6).testBit j) (ho : on = chosen.filter fun j => s.chOn j) :
    chClear c s = finishOp c stOk 0 (wordOf (on.filter fun j => (s.ch j).st == .latched).length)
      (wordOf (chosen.length - on.length)) (on.foldl (fun v j => clearOne j v) s) := by
  subst ho hc
  exact if_neg (Nat.not_le.2 inMask)

theorem chRead_starts (length : c.op.len = 768) : chRead c s = startOp c [s.t + 1] s :=
  if_neg (not_not_intro length)

end

/-! ### Effects at a boundary (R174 to R176) -/

section
variable {c : OpRef} {s : State}

/-- The one CH_SET that waits is applied at its boundary, entry by entry, and completes with that GTS. -/
theorem chSetApply_applies (waiting : s.opsOf 5 0 (isStarted 1) = [c]) (due : c.op.aux.getD 0 0 ≤ s.t)
    {r : State × Nat × Nat} (hr : r = applyEntries (c.op.aux.getD 0 0) c.op (List.range 8) 0 0 s) :
    chSetApply s = finishAt (boundaryOf (c.op.aux.getD 0 0)) c stOk 0 (wordOf r.2.1) (wordOf r.2.2) r.1 := by
  subst hr
  unfold chSetApply
  rw [waiting]
  exact if_neg (Nat.not_lt.2 due)

theorem chReadSnapshot_writes (waiting : s.opOf 5 1 (isStarted 0x11) = some c) (due : c.op.aux.getD 0 0 ≤ s.t)
    {u : State} (hu : u = lswAdvance s.gts s) {bs : List Byte} (hb : bs = chNumbers.flatMap (snapBytes u))
    (reachable : bufferOpen 0x26 true c.op.addr bs.length u = true) : chReadSnapshot s =
      finishOp c stOk bs.length (wordOf (c.op.aux.getD 0 0))
        (wordOf (oneIf (!u.pdOn 8) + 2 * oneIf (!u.pdOn 9))) (stored c bs u) := by
  simp only [chReadSnapshot, waiting]
  refine (if_neg (Nat.not_lt.2 due)).trans ?_
  rw [← hu, ← hb]
  exact writeOut_open reachable

end

/-! ### Profiles (R175) -/

@[simp] theorem State.setCh_profOp (s : State) (n : Nat) (x : Ch) (j : Nat) : (s.setCh n x).profOp j = s.profOp j := by
  rfl

/-- The step that a profile has come to (R175); the default stands only behind its last one. -/
def Prof.due (p : Prof) : ProfStep := p.steps.getD p.idx { duty := 0, hold := 1, on := false }

/-- A profile whose due step has taken effect, applied or not. -/
def Prof.stepped (p : Prof) (done : Bool) : Prof :=
  { p with
    idx := p.idx + 1, nextT := p.nextT + p.due.hold, applied := p.applied + oneIf done
    missed := p.missed + oneIf (!done) }

section
variable {j : Nat} {p : Prof} {c : OpRef} {s : State} (profile : (s.ch j).prof = some p)
  (running : s.profOp j = some c)
include profile running

theorem profRunning_of : profRunning s j = true := by
  simp [profRunning, profile, running]

theorem profileStep_waits (early : s.t < p.nextT) : profileStep j s = s := by
  simp [profileStep, profile, profRunning_of profile running, early]

theorem profileStep_ends (held : p.idx = p.steps.length) (lastPass : p.left = some 0) (due : p.nextT ≤ s.t) :
    profileStep j s = endProfile j p.nextT stOk s := by
  simp [profileStep, profile, profRunning_of profile running, Nat.not_lt.2 due, held, lastPass]

/-- The step of a profile that is due is one command, whose answer it counts. -/
theorem profileStep_steps (inPass : p.idx < p.steps.length) (due : p.nextT ≤ s.t) {v : State} {done : Bool}
    (hv : command j (max s.gts (boundaryOf p.nextT)) p.due.on p.due.duty s = (v, done))
    (goesOn : v.profOp j = some c) : profileStep j s =
      (v.setCh j { v.ch j with prof := some (p.stepped done) }).setOp c
        { c.op with xfer := 8 * (p.applied + oneIf done) } := by
  simp only [Prof.due] at hv
  simp only [profileStep, profile, profRunning_of profile running, Nat.not_lt.2 due, beq_eq_false_iff_ne.2 inPass.ne,
    Bool.not_true, Bool.false_and, Bool.false_eq_true, if_false, hv, State.setCh_profOp, goesOn]
  rfl

end

/-! ### One ON or OFF (R152, R164, R173) -/

/-- The commanded duty taken, where commands set it (R153, R174). -/
def State.withDuty (u : State) (n duty : Nat) : State :=
  if hasPwm n && !(u.ch n).bce then u.setCh n { u.ch n with cmd := duty } else u

theorem State.withDuty_only (u : State) (n duty : Nat) : OnlyCh n u (u.withDuty n duty) :=
  .ite (.setCh (.refl ..)) (.refl ..)

section
variable {n g duty : Nat} {on : Bool} {s u : State} (hu : u = chAdvance n (g - 1) s)
include hu

theorem command_blocked (h : (u.ch n).st = .latched ∨ (u.ch n).st = .standby ∨ u.chOn n = false ∨
    (on = true ∧ u.lsw.outEn = false)) : command n g on duty s = (u, false) := by
  subst hu
  refine if_pos ?_
  rcases h with st | st | off | ⟨on, off⟩ <;> simp [*]

variable (bankOn : u.chOn n = true) (notLatched : (u.ch n).st ≠ .latched) (notStandby : (u.ch n).st ≠ .standby)
include bankOn notLatched notStandby

theorem command_passes (enabled : on = true → u.lsw.outEn = true) : command n g on duty s =
    if on && (u.ch n).st == .cool then (u, true)
    else if !on then (chOff n (u.withDuty n duty), true)
    else if (u.ch n).st = .off then (enterOn n g none true (u.withDuty n duty), true)
    else (chAdvance n g (u.withDuty n duty), true) := by
  subst hu
  refine if_neg ?_
  cases on <;> simp_all

/-- ON to a COOL channel leaves its restart pending (R164). -/
theorem command_waits (isOn : on = true) (enabled : u.lsw.outEn = true) (cool : (u.ch n).st = .cool) :
    command n g on duty s = (u, true) :=
  (command_passes hu bankOn notLatched notStandby fun _ => enabled).trans (if_pos (by simp [isOn, cool]))

theorem command_turnsOn (isOn : on = true) (enabled : u.lsw.outEn = true) (off : (u.ch n).st = .off) :
    (command n g on duty s).2 = true ∧ ((command n g on duty s).1.ch n).st = .on := by
  rw [command_passes hu bankOn notLatched notStandby fun _ => enabled]
  simp [isOn, off, (enterOn_ch_self n g none true (u.withDuty n duty)).1]

theorem command_turnsOff (isOff : on = false) : (command n g on duty s).2 = true ∧
    ((command n g on duty s).1.ch n).st = .off ∧ ((command n g on duty s).1.ch n).applied = 0 ∧
      ((command n g on duty s).1.ch n).count = 0 := by
  rw [command_passes hu bankOn notLatched notStandby (by simp [isOff])]
  simp [isOff, chOff_ch_self]

theorem command_only : OnlyCh n u (command n g on duty s).1 := by
  by_cases enabled : on = true → u.lsw.outEn = true
  · have duty := u.withDuty_only n duty
    rw [command_passes hu bankOn notLatched notStandby enabled]
    simp only [apply_ite Prod.fst]
    exact .ite (.refl ..) (.ite (duty.trans (chOff_only ..))
      (.ite (duty.trans (enterOn_only ..)) (duty.trans (chAdvance_only ..))))
  · have off : on = true ∧ u.lsw.outEn = false := by simpa using enabled
    exact command_blocked hu (.inr (.inr (.inr off))) ▸ .refl ..

end

/-- Settles O30: the checks of the four operations, their effects at a boundary, the steps of a profile, and a command
in each state of its channel. -/
theorem channelCommandsTakeEffectAtBoundaries : Obligations.ChannelCommandsTakeEffectAtBoundaries := by
  refine ⟨fun n c s hn => ⟨fun taken inTime chans once => ?set,
      fun steps taken inTime nonempty whole short channel host reachable valid free on => ?profile,
      fun taken inMask => ?clear, fun taken length => ?read⟩,
    fun c s => ⟨fun waiting due => ?applies, fun waiting due reachable => ?snapshot⟩,
    fun j p c s profile running =>
      ⟨fun inPass due goesOn => ?step, fun held lastPass due => ?ends, fun early => ?waits⟩,
    fun j g duty on s => ⟨command_blocked rfl, fun bankOn notLatched notStandby => ⟨fun isOn enabled off => ?turnsOn,
      fun isOn enabled cool => ?cool, fun isOff => ?turnsOff, (command_only rfl bankOn notLatched notStandby).ch⟩⟩⟩
  case set => exact congrArg Host.Outcome.next ((takeOp_at chSet n hn taken).trans (chSet_starts inTime chans once))
  case profile =>
    exact congrArg Host.Outcome.next ((takeOp_at chProfile n hn taken).trans (chProfile_starts
      ⟨nonempty, inTime, whole, short, channel, host, reachable, valid, free, on⟩))
  case clear =>
    exact congrArg Host.Outcome.next ((takeOp_at chClear n hn taken).trans (chClear_clears inMask rfl rfl))
  case read => exact congrArg Host.Outcome.next ((takeOp_at chRead n hn taken).trans (chRead_starts length))
  case applies => exact congrArg Host.Outcome.next (chSetApply_applies waiting due rfl)
  case snapshot => exact congrArg Host.Outcome.next (chReadSnapshot_writes waiting due rfl rfl reachable)
  case step => exact congrArg Host.Outcome.next (profileStep_steps profile running inPass due rfl goesOn)
  case ends => exact congrArg Host.Outcome.next (profileStep_ends profile running held lastPass due)
  case waits => exact congrArg Host.Outcome.next (profileStep_waits profile running early)
  case turnsOn => exact command_turnsOn rfl bankOn notLatched notStandby isOn enabled off
  case cool => exact command_waits rfl bankOn notLatched notStandby isOn enabled cool
  case turnsOff => exact command_turnsOff rfl bankOn notLatched notStandby isOff

end Sys2Proof.Machine
end

section
/-!
A register write that gangs a channel (R165, R177): why the statement about feeds, channel registers and the fixed-rope
path fails.
-/

namespace Sys2Proof.Machine

/-- The second module of a rope team in Run, without DRIVE, all its channels OFF and not ganged. -/
def secondModule : State :=
  { mode := .run, start := .ready, pd := 0x1FFF, tick.running := true, rtl.role := .second }

/-- LSW_CH_CFG of L00 as reset has it, with GANG set, puts the channel in STANDBY: it is ganged now on a module without
DRIVE (R165). -/
theorem chRegWrite_gang_stands_by : ((chRegWrite 0 0 0x4030_0000 secondModule).ch 0).st = .standby := by
  decide

/-- Refutes O32: of a channel register written in OFF and in range the statement says that the new value is all that
changes; a write that gangs the channel on a module without DRIVE also moves the channel to STANDBY (R165). -/
theorem not_feedsRegistersAndFixedRopePath : ¬ Obligations.FeedsRegistersAndFixedRopePath := by
  intro h
  obtain ⟨-, -, registers, -⟩ := h
  obtain ⟨accepted, -⟩ := registers { ini := .svc 0, sec := true } 0 0 0x4030_0000 secondModule (by decide)
  have after := Host.Outcome.next.inj (accepted rfl (by decide) (by decide))
  have st := congrArg (fun t => (t.ch 0).st) after
  exact absurd (chRegWrite_gang_stands_by.symm.trans st) (by decide)

end Sys2Proof.Machine
end

section
/-!
Shared by the statements about the image pipeline (07): a context, a link and a stream put back, a command while PD5 is
on, and what the operations on one context leave alone.
-/

namespace Sys2Proof.Machine

/-! ### One update, one entry -/

@[simp] theorem State.setIctx_self (s : State) (c : Nat) (x : IplCtx) : (s.setIctx c x).ictx c = x :=
  Tab.get_put_self ..

theorem State.setIctx_ne (s : State) {c d : Nat} (x : IplCtx) (h : d ≠ c) : (s.setIctx c x).ictx d = s.ictx d :=
  Tab.get_put_ne _ _ _ h

@[simp] theorem State.setLink_self (s : State) (k : Nat) (x : IplLink) : (s.setLink k x).link k = x :=
  Tab.get_put_self ..

@[simp] theorem raiseAt_ictx (g src code d : Nat) (s : State) (c : Nat) :
    (raiseAt g src code d s).ictx c = s.ictx c := by
  simp [State.ictx]

@[simp] theorem raise_ictx (src code d : Nat) (s : State) (c : Nat) : (raise src code d s).ictx c = s.ictx c :=
  raiseAt_ictx ..

theorem mem_ictxNumbers {c : Nat} : c ∈ ictxNumbers ↔ c < 16 := List.mem_range

/-! ### A command while PD5 is on (R186) -/

/-- A command of the pipeline answers what its operation makes of the state. -/
theorem whileOn_next {d : Nat} {s t : State} {k : State → State} (on : s.pdOn d = true) (h : k s = t) :
    whileOn d s k = .next t :=
  (whileOn_on k on).trans (congrArg _ h)

/-! ### What stays outside some contexts -/

/-- From `s` to `t` the contexts outside `cs` are as before, and so are the links, host memory and the rings. -/
structure OnlyIctxs (cs : List Nat) (s t : State) : Prop where
  ictx : ∀ d, d ∉ cs → t.ictx d = s.ictx d
  links : t.ipl.links = s.ipl.links
  mem : t.mem = s.mem
  hri : t.hri = s.hri

namespace OnlyIctxs

variable {cs ds : List Nat} {s t u : State}

theorem refl (cs : List Nat) (s : State) : OnlyIctxs cs s s := ⟨fun _ _ => rfl, rfl, rfl, rfl⟩

theorem trans (st : OnlyIctxs cs s t) (tu : OnlyIctxs cs t u) : OnlyIctxs cs s u :=
  ⟨fun d h => (tu.ictx d h).trans (st.ictx d h), tu.links.trans st.links, tu.mem.trans st.mem, tu.hri.trans st.hri⟩

theorem mono (h : OnlyIctxs cs s t) (sub : cs ⊆ ds) : OnlyIctxs ds s t :=
  ⟨fun d out => h.ictx d fun hd => out (sub hd), h.links, h.mem, h.hri⟩

theorem ite {p : Prop} [Decidable p] (ht : OnlyIctxs cs s t) (hu : OnlyIctxs cs s u) :
    OnlyIctxs cs s (if p then t else u) := by
  split
  · exact ht
  · exact hu

theorem setIctx {c : Nat} {x : IplCtx} (h : OnlyIctxs [c] s t) : OnlyIctxs [c] s (t.setIctx c x) :=
  h.trans ⟨fun _ out => t.setIctx_ne x (by simpa using out), rfl, rfl, rfl⟩

theorem raiseAt {g src code d : Nat} (h : OnlyIctxs cs s t) : OnlyIctxs cs s (raiseAt g src code d t) :=
  h.trans ⟨fun _ _ => raiseAt_ictx .., by simp, raiseAt_mem .., raiseAt_hri ..⟩

theorem raise {src code d : Nat} (h : OnlyIctxs cs s t) : OnlyIctxs cs s (raise src code d t) := h.raiseAt

/-- Steps one after another, each within `cs`. -/
theorem foldl {α : Type} {f : State → α → State} (hf : ∀ v a, OnlyIctxs cs v (f v a)) :
    ∀ (l : List α) (s : State), OnlyIctxs cs s (l.foldl f s)
  | [], s => refl cs s
  | a :: l, s => (hf s a).trans (foldl hf l (f s a))

theorem link (h : OnlyIctxs cs s t) (k : Nat) : t.link k = s.link k := by
  unfold State.link
  rw [h.links]

/-- Contexts one after another, each step within its context. -/
theorem foldl_each {f : State → Nat → State} (only : ∀ v c, OnlyIctxs [c] v (f v c)) :
    ∀ (l : List Nat) (s : State), OnlyIctxs l s (l.foldl f s)
  | [], s => refl [] s
  | c :: l, s => ((only s c).mono (by simp)).trans ((foldl_each only l (f s c)).mono (List.subset_cons_self c l))

/-- Where each step sets the state of its context by what that context was, so does the whole. -/
theorem foldl_state {f : State → Nat → State} {g : IplCtx → IplState} (only : ∀ v c, OnlyIctxs [c] v (f v c))
    (own : ∀ v c, ((f v c).ictx c).state = g (v.ictx c))
    {l : List Nat} (s : State) (nodup : l.Nodup) {c : Nat} (hc : c ∈ l) :
    ((l.foldl f s).ictx c).state = g (s.ictx c) := by
  induction l generalizing s with
  | nil => exact absurd hc List.not_mem_nil
  | cons d l ih =>
    obtain ⟨fresh, nodup⟩ := List.nodup_cons.1 nodup
    rw [List.foldl_cons]
    obtain rfl | later := List.mem_cons.1 hc
    · rw [(foldl_each only l _).ictx c fresh, own]
    · have other : c ∉ [d] := fun e => fresh (List.mem_singleton.1 e ▸ later)
      rw [ih _ nodup later, (only s d).ictx c other]

end OnlyIctxs

/-! ### Units, ends and states of one context (R186, R188, R194) -/

theorem settleUnits_eq (c g : Nat) (f : IplFrame) (s : State) :
    ∃ h q, settleUnits c g f s = ({ s with ipl.ready := q } : State).setIctx c ((s.ictx c).putFrame h) :=
  ⟨_, _, rfl⟩

theorem settleUnits_only (c g : Nat) (f : IplFrame) (s : State) : OnlyIctxs [c] s (settleUnits c g f s) := by
  obtain ⟨h, q, eq⟩ := settleUnits_eq c g f s
  exact eq ▸ .setIctx ⟨fun _ _ => rfl, rfl, rfl, rfl⟩

theorem endFrame_receiving {c g flags : Nat} {f : IplFrame} {s : State} (receiving : (s.ictx c).receiving = some f) :
    endFrame c g flags s = settleUnits c g { f with endAt := some g, flags := f.flags ||| flags } s := by
  simp only [endFrame, receiving]

theorem endFrame_only (c g flags : Nat) (s : State) : OnlyIctxs [c] s (endFrame c g flags s) := by
  unfold endFrame
  split
  · exact .refl ..
  · exact settleUnits_only ..

theorem idrOfContext_only (c : Nat) (cs : List Nat) (s : State) : OnlyIctxs cs s (idrOfContext c s) := by
  unfold idrOfContext
  refine .foldl (fun v i => ?_) streamNumbers s
  exact .ite ⟨fun _ _ => rfl, rfl, rfl, rfl⟩ (.refl ..)

@[simp] theorem idrOfContext_ictx (c : Nat) (s : State) (d : Nat) : (idrOfContext c s).ictx d = s.ictx d :=
  (idrOfContext_only c [] s).ictx d List.not_mem_nil

theorem setIplState_only (c : Nat) (st : IplState) (s : State) : OnlyIctxs [c] s (setIplState c st s) := by
  unfold setIplState
  dsimp only
  exact .ite (.refl ..) (.raise (.setIctx (.ite (idrOfContext_only ..) (.refl ..))))

/-- A change of state leaves its context in that state, and otherwise as it was. -/
theorem setIplState_ictx_self (c : Nat) (st : IplState) (s : State) :
    (setIplState c st s).ictx c = { s.ictx c with state := st } := by
  unfold setIplState
  dsimp only
  split
  next same => rw [← same]
  next =>
    rw [raise_ictx, State.setIctx_self]
    split
    · rw [idrOfContext_ictx]
    · rfl

end Sys2Proof.Machine
end

section
/-!
Statement about the camera links (R179 to R181, R186, R448): IPL_LINK_CFG, training, loss, the port's current limit, and
what a source's loss and return do to the contexts on it.
-/

namespace Sys2Proof.Machine

/-! ### A source and its contexts (R186) -/

/-- What the loss of source `k` does to context `c`: its open frame closes, and it waits. -/
def leaveSource (k : Nat) (s : State) (c : Nat) : State :=
  if (s.ictx c).state.live && (s.ictx c).src == k then
    let u := endFrame c s.gts (fShort + fLink) s
    setIplState c .linkWait (u.setIctx c { u.ictx c with trig := none, dropping := false })
  else s

/-- What the return of source `k` does to context `c`: where it waited, it arms. -/
def rejoinSource (k : Nat) (s : State) (c : Nat) : State :=
  if (s.ictx c).state == .linkWait && (s.ictx c).src == k then
    setIplState c .armed (s.setIctx c { s.ictx c with history := [], histNum := none, lineGains := [] })
  else s

theorem sourceLost_eq (k : Nat) (s : State) : sourceLost k s = ictxNumbers.foldl (leaveSource k) s := rfl

theorem sourceBack_eq (k : Nat) (s : State) : sourceBack k s = ictxNumbers.foldl (rejoinSource k) s := rfl

theorem leaveSource_only (k : Nat) (s : State) (c : Nat) : OnlyIctxs [c] s (leaveSource k s c) :=
  .ite ((OnlyIctxs.setIctx (endFrame_only ..)).trans (setIplState_only ..)) (.refl ..)

theorem rejoinSource_only (k : Nat) (s : State) (c : Nat) : OnlyIctxs [c] s (rejoinSource k s c) :=
  .ite ((OnlyIctxs.setIctx (.refl ..)).trans (setIplState_only ..)) (.refl ..)

/-- The state of a context whose source `k` is lost. -/
def IplCtx.stateLost (k : Nat) (x : IplCtx) : IplState :=
  if x.state.live = true ∧ x.src = k then .linkWait else x.state

/-- The state of a context whose source `k` is back. -/
def IplCtx.stateBack (k : Nat) (x : IplCtx) : IplState :=
  if x.state = .linkWait ∧ x.src = k then .armed else x.state

theorem leaveSource_state (k : Nat) (s : State) (c : Nat) :
    ((leaveSource k s c).ictx c).state = (s.ictx c).stateLost k := by
  by_cases h : (s.ictx c).state.live = true ∧ (s.ictx c).src = k
  · simp [leaveSource, IplCtx.stateLost, h, setIplState_ictx_self]
  · simp [leaveSource, IplCtx.stateLost, h]

theorem rejoinSource_state (k : Nat) (s : State) (c : Nat) :
    ((rejoinSource k s c).ictx c).state = (s.ictx c).stateBack k := by
  by_cases h : (s.ictx c).state = .linkWait ∧ (s.ictx c).src = k
  · simp [rejoinSource, IplCtx.stateBack, h, setIplState_ictx_self]
  · simp [rejoinSource, IplCtx.stateBack, h]

theorem sourceLost_only (k : Nat) (s : State) : OnlyIctxs ictxNumbers s (sourceLost k s) :=
  sourceLost_eq k s ▸ .foldl_each (leaveSource_only k) _ s

theorem sourceBack_only (k : Nat) (s : State) : OnlyIctxs ictxNumbers s (sourceBack k s) :=
  sourceBack_eq k s ▸ .foldl_each (rejoinSource_only k) _ s

theorem sourceLost_state {c : Nat} (k : Nat) (s : State) (hc : c < 16) :
    ((sourceLost k s).ictx c).state = (s.ictx c).stateLost k :=
  sourceLost_eq k s ▸ OnlyIctxs.foldl_state (leaveSource_only k) (leaveSource_state k) s
    List.nodup_range (mem_ictxNumbers.2 hc)

theorem sourceBack_state {c : Nat} (k : Nat) (s : State) (hc : c < 16) :
    ((sourceBack k s).ictx c).state = (s.ictx c).stateBack k :=
  sourceBack_eq k s ▸ OnlyIctxs.foldl_state (rejoinSource_only k) (rejoinSource_state k) s
    List.nodup_range (mem_ictxNumbers.2 hc)

/-! ### IPL_LINK_CFG (R181) -/

section
variable {k : Nat} {v : Word} {s : State}

theorem linkCfgWrite_refused (h : sourceBusy k s = true ∨ bitsOf v 1 0 = 0) :
    linkCfgWrite k v s = iplErr 0 1 0 0 s := if_pos (by simpa using h)

theorem linkCfgWrite_taken (free : sourceBusy k s = false) (gear : bitsOf v 1 0 ≠ 0) : linkCfgWrite k v s =
    s.setLink k { s.link k with
      cfg := v &&& (0x8000_0003 : Word)
      st := if !bitOf v 31 then .down else if (s.link k).st = .down then .training else (s.link k).st
      retryT := if (s.link k).st = .down then s.t else (s.link k).retryT
      powerOff := if bitOf v 31 then (s.link k).powerOff else none } :=
  if_neg (by simp [free, gear])

theorem linkCfgWrite_turnsOn (free : sourceBusy k s = false) (gear : bitsOf v 1 0 ≠ 0) (on : bitOf v 31 = true)
    (down : (s.link k).st = .down) : linkCfgWrite k v s =
      s.setLink k { s.link k with cfg := v &&& (0x8000_0003 : Word), st := .training, retryT := s.t } := by
  simp [linkCfgWrite_taken free gear, on, down]

theorem linkCfgWrite_turnsOff (free : sourceBusy k s = false) (gear : bitsOf v 1 0 ≠ 0) (off : bitOf v 31 = false)
    (notDown : (s.link k).st ≠ .down) : linkCfgWrite k v s =
      s.setLink k { s.link k with cfg := v &&& (0x8000_0003 : Word), st := .down, powerOff := none } := by
  simp [linkCfgWrite_taken free gear, off, notDown]

end

/-! ### Training, loss and the current limit (R180, R186, R448) -/

section
variable {k : Nat} {s : State}

theorem linkUp_trained {latency : Nat} (training : (s.link k).st = .training) (started : (s.link k).retryT ≤ s.t)
    (powered : (s.link k).powerOff = none) : linkUp k latency s =
      sourceBack k (linkEvent k 1 (s.setLink k { s.link k with st := .up, latency := latency % 65536 })) :=
  if_neg (by simp [training, powered, started])

theorem linkRetry_training (training : (s.link k).st = .training) :
    linkRetry k s = s.setLink k { s.link k with retryT := s.t + 1 } := if_pos training

theorem linkDown_notUp (notUp : (s.link k).st ≠ .up) : linkDown k s = s := if_pos notUp

theorem linkDown_up (up : (s.link k).st = .up) : linkDown k s =
    sourceLost k (linkEvent k 2 (s.setLink k { s.link k with st := .training, retryT := s.t })) :=
  if_neg (not_not_intro up)

theorem linkEvent_only (k code : Nat) (s : State) : OnlyIctxs [] s (linkEvent k code s) := .raise (.refl ..)

/-- A link set and reported stays as set whatever its contexts then do; host memory and the rings are as before. -/
theorem setLink_linkEvent_keeps {code : Nat} {x : IplLink} {t : State}
    (only : OnlyIctxs ictxNumbers (linkEvent k code (s.setLink k x)) t) :
    t.link k = x ∧ t.mem = s.mem ∧ t.hri = s.hri := by
  have event := linkEvent_only k code (s.setLink k x)
  exact ⟨(only.link k).trans ((event.link k).trans (s.setLink_self k x)), only.mem.trans event.mem,
    only.hri.trans event.hri⟩

theorem setLink_linkEvent_ictx (code : Nat) (x : IplLink) (c : Nat) :
    (linkEvent k code (s.setLink k x)).ictx c = s.ictx c :=
  (linkEvent_only k code (s.setLink k x)).ictx c List.not_mem_nil

/-- The current limit cuts a powered port, and a link that is UP is lost with it. -/
theorem camPowerLimit_cuts (on : bitOf (s.link k).cfg 31 = true) (powered : (s.link k).powerOff = none) :
    camPowerLimit k s = linkDown k (s.setLink k { s.link k with powerOff := some s.gts }) :=
  if_neg (by simp [on, powered])

/-- A loss leaves its link not UP, its power as it was, and host memory alone. -/
theorem linkDown_link (k : Nat) (s : State) : ((linkDown k s).link k).powerOff = (s.link k).powerOff ∧
    ((linkDown k s).link k).st ≠ .up ∧ (linkDown k s).mem = s.mem := by
  by_cases up : (s.link k).st = .up
  · rw [linkDown_up up]
    obtain ⟨link, mem, -⟩ := setLink_linkEvent_keeps (sourceLost_only k (linkEvent k 2 (s.setLink k _)))
    rw [link]
    exact ⟨rfl, nofun, mem⟩
  · rw [linkDown_notUp up]
    exact ⟨rfl, up, rfl⟩

theorem camPowerRetry_off {g : Nat} (off : (s.link k).powerOff = some g) : camPowerRetry k s =
    s.reach (g + 1000 * tickLen) fun u => u.setLink k { s.link k with powerOff := none, retryT := u.t } := by
  simp only [camPowerRetry, off]

end

/-! ### The parallel port (R205) -/

/-- The contexts on the parallel port. -/
def pcamCtxs (s : State) : List Nat := ictxNumbers.filter fun c => (s.ictx c).isPcam

/-- Context `c` runs and has seen no VSYNC for two of its steps. -/
def syncMissed (s : State) (c : Nat) : Bool :=
  (s.ictx c).state == .run && decide ((s.ictx c).lastSync.getD 0 + 2 * (s.ictx c).step * tickLen ≤ s.gts)

theorem pcamSync_lost {c : Nat} {s : State} (missed : (pcamCtxs s).find? (syncMissed s) = some c) :
    pcamSync true s = sourceLost 4
      (raiseAt ((s.ictx c).lastSync.getD 0 + (s.ictx c).step * tickLen) 327 1 0 s) := by
  unfold pcamCtxs syncMissed at missed
  simp only [pcamSync, missed, if_true]

theorem pcamSync_found {c : Nat} {s : State} (onPort : c ∈ pcamCtxs s) (waits : (s.ictx c).state = .linkWait)
    (up : pcamUp s = true) : pcamSync false s = sourceBack 4 (raise 327 2 0 s) := by
  have waiting : (pcamCtxs s).any (fun c => (s.ictx c).state == .linkWait) = true :=
    List.any_eq_true.2 ⟨c, onPort, by simp [waits]⟩
  simp only [pcamSync, pcamCtxs, Bool.false_eq_true, if_false] at waiting ⊢
  rw [if_pos waiting, if_pos up]

/-- Settles O33: the three forms of IPL_LINK_CFG, then training, loss and the current limit, then the parallel port. -/
theorem cameraLinksComeAndGo : Obligations.CameraLinksComeAndGo := by
  refine ⟨fun a k v s ho => ⟨fun free gear on down => ?turnsOn, fun free gear off notDown => ?turnsOff,
      fun refused => ?refused⟩,
    fun k s pd => ⟨fun l training started powered => ?up, fun training => ?retry, fun up => ?down,
      fun notUp => ?notUp, fun on powered => ?limit, fun g off => ⟨fun inTick => ?powers, fun later => ?waits⟩⟩,
    fun s pd => ⟨fun c missed => ?lost, fun c onPort waits up => ?found⟩⟩
  case turnsOn =>
    exact congrArg Host.Outcome.next ((gateWrite_open (blk := 6) _ ho).trans
      (linkCfgWrite_turnsOn (s := s.reply a .ok) free gear on down))
  case turnsOff =>
    exact congrArg Host.Outcome.next ((gateWrite_open (blk := 6) _ ho).trans
      (linkCfgWrite_turnsOff (s := s.reply a .ok) free gear off notDown))
  case refused =>
    exact congrArg Host.Outcome.next ((gateWrite_open (blk := 6) _ ho).trans
      (linkCfgWrite_refused (s := s.reply a .ok) refused))
  case up =>
    obtain ⟨link, mem, hri⟩ := setLink_linkEvent_keeps (sourceBack_only k (linkEvent k 1 (s.setLink k _)))
    refine ⟨_, whileOn_next pd (linkUp_trained training started powered), link, mem, hri, fun c hc => ?_⟩
    rw [sourceBack_state k _ hc, setLink_linkEvent_ictx]
    rfl
  case retry => exact whileOn_next pd (linkRetry_training training)
  case down =>
    obtain ⟨link, mem, hri⟩ := setLink_linkEvent_keeps (sourceLost_only k (linkEvent k 2 (s.setLink k _)))
    refine ⟨_, whileOn_next pd (linkDown_up up), link, mem, hri, fun c hc => ?_⟩
    rw [sourceLost_state k _ hc, setLink_linkEvent_ictx]
    rfl
  case notUp => exact whileOn_next pd (linkDown_notUp notUp)
  case limit =>
    obtain ⟨off, notUp, mem⟩ := linkDown_link k (s.setLink k { s.link k with powerOff := some s.gts })
    rw [State.setLink_self] at off
    exact ⟨_, whileOn_next pd (camPowerLimit_cuts on powered), off, notUp, mem⟩
  case powers => exact whileOn_next pd ((camPowerRetry_off off).trans (s.reach_inTick _ inTick))
  case waits => exact whileOn_next pd ((camPowerRetry_off off).trans (if_neg (Nat.not_lt.2 later)))
  case lost => exact whileOn_next pd (pcamSync_lost missed)
  case found => exact whileOn_next pd (pcamSync_found onPort waits up)

end Sys2Proof.Machine
end

section
/-!
Statement about the frames of the image pipeline (R179, R182 to R200): triggers, frame starts, lines, ends, units, the
close, access units and sensor writes.
-/

namespace Sys2Proof.Machine

/-! ### Triggers (R182, R184) -/

/-- Context `x` triggers at the boundary of tick `t`. -/
def IplCtx.triggers (x : IplCtx) (t : Nat) : Bool :=
  x.state.live && !x.free && decide (x.t0 ≤ t) && !x.stopped t && x.step != 0 && t % x.step == 0 &&
    x.lastTrig != some t

/-- The report of a trigger of context `c` that no frame matched. -/
def reportUnmatched (c : Nat) (s : State) : State :=
  match (s.ictx c).trig with
  | some old => raiseAt (boundaryOf old) (304 + c) 2 (old % 2 ^ 24) s
  | none => s

theorem reportUnmatched_none {c : Nat} {s : State} (none : (s.ictx c).trig = none) : reportUnmatched c s = s := by
  simp only [reportUnmatched, none]

theorem reportUnmatched_some {c old : Nat} {s : State} (some : (s.ictx c).trig = some old) :
    reportUnmatched c s = raiseAt (boundaryOf old) (304 + c) 2 (old % 2 ^ 24) s := by
  simp only [reportUnmatched, some]

section
variable {c : Nat} {s u : State} (settled : u = settleRate c s)
include settled

theorem cameraTrigger_due (due : (u.ictx c).triggers u.t = true) : cameraTrigger c s =
    sendTrigger (u.ictx c) u.t
      ((reportUnmatched c u).setIctx c { u.ictx c with trig := some u.t, lastTrig := some u.t }) := by
  subst settled
  refine if_neg ?_
  simpa [IplCtx.triggers, and_assoc] using due

theorem cameraTrigger_notDue (notDue : (u.ictx c).triggers u.t = false) : cameraTrigger c s = u := by
  subst settled
  refine if_pos ?_
  simpa [IplCtx.triggers, ← or_assoc, Decidable.imp_iff_not_or] using notDue

end

theorem sendTrigger_pcam {x : IplCtx} (t : Nat) (s : State) (pcam : x.isPcam = true) :
    (sendTrigger x t s).ipl.pcamTrig = some (boundaryOf t) := by
  simp [sendTrigger, pcam]

theorem sendTrigger_uplink {x : IplCtx} (t : Nat) (s : State) (uplink : x.isPcam = false) :
    ((sendTrigger x t s).link x.src).sentAt = some (boundaryOf t - (s.link x.src).latency) := by
  simp [sendTrigger, uplink]

/-! ### Packets (R179) -/

section
variable {k vc : Nat} {f : Nat → State → State} {s : State}

theorem packet_discarded (unnamed : namers k vc s = []) : packet k vc f s = linkCount k true s :=
  if_pos (by simp [unnamed])

theorem packet_delivered (named : namers k vc s ≠ []) :
    packet k vc f s = (namers k vc s).foldl (fun u c => f c u) s :=
  if_neg (by simp [named])

end

/-! ### Frame starts (R184, R185, R202) -/

/-- What a frame start on the source of context `c` finds: the frame before it closed, and itself noted. -/
def State.atFrameStart (s : State) (c : Nat) : State :=
  let u := endFrame c s.gts fShort (settleRate c s)
  u.setIctx c { u.ictx c with lastSync := some u.gts }

/-- A frame start at `g` comes more than half a tick before the earliest that `x` expects in FREE. -/
def IplCtx.tooEarly (x : IplCtx) (g : Nat) : Bool :=
  match x.lastStart with
  | none => false
  | some p => decide (g + 200000 < p + x.div * tickLen)

theorem IplCtx.tooEarly_none {x : IplCtx} {g : Nat} (first : x.lastStart = none) : x.tooEarly g = false := by
  simp only [tooEarly, first]

theorem IplCtx.tooEarly_some {x : IplCtx} {g p : Nat} (last : x.lastStart = some p) :
    x.tooEarly g = decide (g + 200000 < p + x.div * tickLen) := by
  simp only [tooEarly, last]

section
variable {c : Nat} {s v : State} (found : v = s.atFrameStart c)
include found

/-- What becomes of a frame start: refused behind the stop or before the T0 of a FREE context, of a FREE context too
early or accepted, of a triggered one matched with the trigger or dropped. -/
theorem startFrame_eq : startFrame c s =
    if (v.ictx c).refused v.gts || decide ((v.ictx c).free && v.t < (v.ictx c).t0) then v
    else if (v.ictx c).free then
      if (v.ictx c).tooEarly v.gts then dropFrame c 4 v
      else acceptFrame c v.gts none v
    else (v.ictx c).trig.elim (dropFrame c 3 v) fun t =>
      if v.gts ≤ boundaryOf (t + (v.ictx c).step) then acceptFrame c v.gts (some t) v else dropFrame c 3 v := by
  unfold State.atFrameStart at found
  unfold startFrame
  dsimp only at found ⊢
  rw [← found]
  cases (v.ictx c).trig <;> rfl

theorem startFrame_refused (refused : (v.ictx c).refused v.gts = true) : startFrame c s = v :=
  (startFrame_eq found).trans (if_pos (Bool.or_eq_true_iff.2 (.inl refused)))

variable (taken : (v.ictx c).refused v.gts = false)
include taken

section
variable (triggered : (v.ictx c).free = false)
include triggered

/-- A start on the source of a triggered context is matched with the trigger that waits. -/
theorem startFrame_triggered : startFrame c s = (v.ictx c).trig.elim (dropFrame c 3 v) fun t =>
    if v.gts ≤ boundaryOf (t + (v.ictx c).step) then acceptFrame c v.gts (some t) v else dropFrame c 3 v := by
  rw [startFrame_eq found, taken, triggered]
  rfl

theorem startFrame_matched {t : Nat} (trig : (v.ictx c).trig = some t)
    (inStep : v.gts ≤ boundaryOf (t + (v.ictx c).step)) : startFrame c s = acceptFrame c v.gts (some t) v := by
  rw [startFrame_triggered found taken triggered, trig]
  exact if_pos inStep

theorem startFrame_late {t : Nat} (trig : (v.ictx c).trig = some t)
    (late : boundaryOf (t + (v.ictx c).step) < v.gts) : startFrame c s = dropFrame c 3 v := by
  rw [startFrame_triggered found taken triggered, trig]
  exact if_neg (Nat.not_le.2 late)

theorem startFrame_unmatched (noTrig : (v.ictx c).trig = none) : startFrame c s = dropFrame c 3 v := by
  rw [startFrame_triggered found taken triggered, noTrig]
  rfl

end

section
variable (free : (v.ictx c).free = true) (begun : (v.ictx c).t0 ≤ v.t)
include free begun

/-- From its T0 on a FREE context takes a start, unless it comes too early behind the last (R185). -/
theorem startFrame_free : startFrame c s =
    if (v.ictx c).tooEarly v.gts then dropFrame c 4 v
    else acceptFrame c v.gts none v := by
  have notBefore : ((v.ictx c).refused v.gts || decide ((v.ictx c).free && v.t < (v.ictx c).t0)) = false := by
    simp [taken, begun]
  rw [startFrame_eq found, notBefore, if_neg Bool.false_ne_true, if_pos free]

theorem startFrame_first (first : (v.ictx c).lastStart = none) : startFrame c s = acceptFrame c v.gts none v := by
  rw [startFrame_free found taken free begun, IplCtx.tooEarly_none first, if_neg Bool.false_ne_true]

theorem startFrame_next {p : Nat} (last : (v.ictx c).lastStart = some p) : startFrame c s =
    if v.gts + 200000 < p + (v.ictx c).div * tickLen then dropFrame c 4 v else acceptFrame c v.gts none v := by
  simp only [startFrame_free found taken free begun, IplCtx.tooEarly_some last, decide_eq_true_eq]

end

end

/-! ### A frame accepted (R184, R185, R192) -/

/-- Taking settings leaves the numbering and the open frames alone. -/
theorem takeSettings_frames (x : IplCtx) (g : Nat) :
    (takeSettings x g).1.next = x.next ∧ (takeSettings x g).1.frames = x.frames := by
  unfold takeSettings
  dsimp only
  repeat' split
  all_goals exact ⟨rfl, rfl⟩

/-- An accepted frame takes the context's next number and becomes its newest open one, and the context is in RUN. -/
theorem acceptFrame_eq (c g : Nat) (trig : Option Nat) (s : State) :
    ∃ u : State, acceptFrame c g trig s = setIplState c .run u ∧ OnlyIctxs [c] s u ∧
      (u.ictx c).next = inc16 (s.ictx c).next ∧ (u.ictx c).lastStart = some g ∧
      ∃ f, (u.ictx c).frames = (s.ictx c).frames ++ [f] ∧ f.num = (s.ictx c).next := by
  unfold acceptFrame
  extract_lets old begins
  obtain ⟨num, frames⟩ := takeSettings_frames old begins
  clear_value begins
  split
  next taken late settings =>
    rw [settings] at num frames
    extract_lets cap f accepted reported
    have numbered : f.num = old.next := num
    clear_value f
    have event (cs : List Nat) : OnlyIctxs cs accepted reported := by
      unfold reported
      split
      · exact .raiseAt (.refl ..)
      · exact .refl ..
    clear_value reported
    have context := ((event []).ictx c List.not_mem_nil).trans (s.setIctx_self c _)
    refine ⟨reported, rfl, (OnlyIctxs.setIctx (.refl ..)).trans (event [c]), ?_⟩
    rw [context]
    exact ⟨congrArg inc16 num, rfl, f, congrArg (· ++ [f]) frames, numbered⟩

/-- What an accepted frame leaves: its context in RUN with the frame numbered, host memory and the rings alone. -/
theorem acceptFrame_accepts (c g : Nat) (trig : Option Nat) (s : State) :
    let t := acceptFrame c g trig s
    (t.ictx c).state = .run ∧ (t.ictx c).next = inc16 (s.ictx c).next ∧ (t.ictx c).lastStart = some g ∧
      (∃ f, (t.ictx c).frames = (s.ictx c).frames ++ [f] ∧ f.num = (s.ictx c).next) ∧ t.mem = s.mem ∧
      t.hri = s.hri := by
  obtain ⟨u, eq, only, num, start, frame⟩ := acceptFrame_eq c g trig s
  have run := setIplState_only c .run u
  simp only [eq, setIplState_ictx_self, true_and]
  exact ⟨num, start, frame, run.mem.trans only.mem, run.hri.trans only.hri⟩

/-! ### Lines and ends (R188, R189, R194) -/

section
variable {c : Nat} {s : State}

theorem takeLine_dropping {l : LineIn} (dropping : (s.ictx c).dropping = true) : takeLine l c s = s :=
  if_pos dropping

variable {f : IplFrame} (whole : (s.ictx c).dropping = false) (receiving : (s.ictx c).receiving = some f)
include whole receiving

/-- A line whose header is good goes to the FIFO, or counts as one too many. -/
theorem takeLine_good {l : LineIn} (good : l.headerError = false) : takeLine l c s =
    if f.arrived < (s.ictx c).height then storeLine c l f s
    else s.setIctx c ((s.ictx c).putFrame { f with arrived := f.arrived + 1, flags := f.flags ||| fLong }) := by
  simp only [takeLine, whole, receiving, good, Bool.false_eq_true, if_false]
  split
  next more => exact (if_neg (Nat.not_lt.2 more)).symm
  next fits => exact (if_pos (Nat.not_le.1 fits)).symm

theorem closeArrival_ends : closeArrival c s = settleUnits c s.gts { f with
    endAt := some s.gts, flags := f.flags ||| (if f.arrived < (s.ictx c).height then fShort else 0) } s := by
  simp only [closeArrival, whole, receiving, Bool.false_eq_true, if_false]
  exact endFrame_receiving receiving

end

/-! ### Units and the close (R188, R189) -/

/-- The oldest ready unit starts once the pipeline is free and the unit is ready. -/
theorem unitStart_first {u : IplUnit} {rest : List IplUnit} {s : State} (ready : s.ipl.ready = u :: rest) {g : Nat}
    (hg : g = max ((s.ipl.running.map IplRun.endAt).getD s.ipl.freeAt) u.readyAt) :
    unitStart s = s.reach g (startUnit u g) := by
  subst hg
  simp only [unitStart, ready]
  cases s.ipl.running <;> rfl

theorem frameClose_closes {c g : Nat} {f f' : IplFrame} {r r' : List IplFrame} {s : State}
    (oldest : (s.ictx c).frames = f :: r) (known : closeInstant c f s = some g) (inTick : g < boundaryOf (s.t + 1))
    (left : ((retire g (s.advance g)).ictx c).frames = f' :: r') :
    frameClose c s = closeFrame c f' (retire g (s.advance g)) := by
  simp only [frameClose, oldest, known]
  rw [s.reach_inTick _ inTick]
  simp only [left]

/-! ### Access units (R197, R199) -/

section
variable {i : Nat} {s : State} {d : EncDue}

section
variable {rest : List EncDue} (due : (s.stream i).due = d :: rest) (run : (s.stream i).st = .run)
  (idle : (s.stream i).unit = none)
include due run idle

theorem unitBegin_dropped (noBuffer : s.poolBuffer 6 3 0x12 = none) : unitBegin i s =
    raise 325 3 i (s.setStream i { s.stream i with due := rest, idrNext := true }) := by
  simp [unitBegin, due, run, idle, noBuffer, encEvent]

theorem unitBegin_starts {r : OpRef} (buffer : s.poolBuffer 6 3 0x12 = some r) : unitBegin i s =
    (s.setOp r { r.op with aux := [1, i, d.num] }).setStream i { s.stream i with
      due := rest, unit := some { d with at' := s.gts, idr := (s.stream i).idr }, idrNext := false
      gop := if (s.stream i).idr then 1 else (s.stream i).gop + 1 } := by
  simp [unitBegin, due, run, idle, buffer]

end

section
variable {unit : List Byte} {r : OpRef} (coding : (s.stream i).unit = some d) (closed : d.closed = true)
  (buffer : takenBuffer 3 0x12 i d.num s = some r)
  {q : State × Bool} (filled : q = fillCode i d.num d.cap d.idr (buffersOf 3 s) r (d.header ++ unit) s)
include coding closed buffer filled

theorem unitEnd_whole (whole : q.2 = true) : unitEnd i unit s = q.1.setStream i { s.stream i with
    unit := none
    sent := ((s.stream i).sent.filter fun e => decide (q.1.gts < e.1 + 1000 * tickLen)) ++ [(q.1.gts, unit.length)]
    picture := fillInvalid (s.stream i).width (s.stream i).height (if d.idr then [] else (s.stream i).picture)
      d.rows } := by
  subst filled
  simp only [unitEnd, coding, closed, buffer, whole, Bool.not_true, Bool.false_eq_true, if_false, if_true]
  rfl

theorem unitEnd_cut (cut : q.2 = false) : unitEnd i unit s =
    raiseAt d.at' 325 3 i (q.1.setStream i { s.stream i with unit := none, idrNext := true }) := by
  subst filled
  simp only [unitEnd, coding, closed, buffer, cut, Bool.not_true, Bool.false_eq_true, if_false]

end

end

/-! ### Sensor writes (R193) -/

/-- The sensor write of the oldest exposure past its boundary ends: written, or to be tried again. -/
theorem settingsWrite_ends {c : Nat} {ok : Bool} {e : IplPend} {s : State}
    (oldest : ((s.ictx c).exps.find? fun e => e.wrote.isNone) = some e) (due : e.boundary ≤ s.t)
    (retried : e.retryT ≤ s.t) (up : sourceUp (s.ictx c) s = true) : settingsWrite c ok s =
      s.setIctx c { s.ictx c with exps := (s.ictx c).exps.map fun p =>
        if p.order = e.order then (if ok then { e with wrote := some s.gts } else { e with retryT := s.t + 1 })
        else p } := by
  simp [settingsWrite, oldest, Nat.not_lt.2 due, Nat.not_lt.2 retried, up]

/-- Settles O34: triggers, packets, frame starts and acceptance, lines and ends, units and the close, access units, and
sensor writes, each by its lemma. -/
theorem framesRunFromTriggerToClose : Obligations.FramesRunFromTriggerToClose := by
  refine ⟨fun c s pd => ⟨fun due noTrig => ?trigger, fun old due trig => ?triggerAgain, fun notDue => ?noTrigger⟩,
    fun x t s => ⟨sendTrigger_pcam t s, sendTrigger_uplink t s⟩,
    fun k vc g s pd => ⟨fun unnamed => ?startDiscarded, fun named => ?starts⟩,
    fun c s => ⟨startFrame_refused rfl, fun taken =>
      ⟨fun t triggered trig inStep => startFrame_matched rfl taken triggered trig inStep,
      fun t triggered trig late => startFrame_late rfl taken triggered trig late,
      startFrame_unmatched rfl taken, startFrame_first rfl taken,
      fun p free begun last => startFrame_next rfl taken free begun last⟩⟩,
    acceptFrame_accepts,
    fun k vc l s pd => ⟨fun other => ?otherType, fun accepted unnamed => ?lineDiscarded,
      fun accepted named => ?lines⟩,
    fun c l f s => ⟨takeLine_dropping, fun whole receiving good => takeLine_good whole receiving good⟩,
    fun k vc s pd => ⟨fun unnamed => ?endDiscarded, fun c f named whole receiving => ?ends⟩,
    fun x rest s pd ready => ⟨fun inTick => ?unitStarts, fun later => ?unitWaits⟩,
    fun c f r g s pd oldest known inTick f' r' left => ?closes,
    fun i s pd => ⟨fun d rest due run idle => ⟨fun noBuffer => ?unitDropped, fun r buffer => ?unitBegins⟩,
      fun unit d r coding closed buffer => ⟨fun whole => ?unitWhole, fun cut => ?unitCut⟩⟩,
    fun c ok e s pd oldest due retried up => ?writes⟩
  case trigger =>
    exact whileOn_next pd ((cameraTrigger_due rfl due).trans (by rw [reportUnmatched_none noTrig]))
  case triggerAgain =>
    exact whileOn_next pd ((cameraTrigger_due rfl due).trans (by rw [reportUnmatched_some trig]))
  case noTrigger => exact whileOn_next pd (cameraTrigger_notDue rfl notDue)
  case startDiscarded => exact whileOn_next pd (packet_discarded unnamed)
  case starts => exact whileOn_next pd (packet_delivered named)
  case otherType => exact whileOn_next pd (if_pos other)
  case lineDiscarded =>
    exact whileOn_next pd ((if_neg (Bool.eq_false_iff.1 accepted)).trans (packet_discarded unnamed))
  case lines => exact whileOn_next pd ((if_neg (Bool.eq_false_iff.1 accepted)).trans (packet_delivered named))
  case endDiscarded => exact whileOn_next pd (packet_discarded unnamed)
  case ends =>
    have delivered : frameEnd k vc s = closeArrival c s := by
      rw [frameEnd, packet_delivered (by simp [named]), named]
      rfl
    exact whileOn_next pd (delivered.trans (closeArrival_ends whole receiving))
  case unitStarts => exact whileOn_next pd ((unitStart_first ready rfl).trans (s.reach_inTick _ inTick))
  case unitWaits => exact whileOn_next pd ((unitStart_first ready rfl).trans (if_neg (Nat.not_lt.2 later)))
  case closes => exact whileOn_next pd (frameClose_closes oldest known inTick left)
  case unitDropped => exact whileOn_next pd (unitBegin_dropped due run idle noBuffer)
  case unitBegins => exact whileOn_next pd (unitBegin_starts due run idle buffer)
  case unitWhole => exact whileOn_next pd (unitEnd_whole coding closed buffer rfl whole)
  case unitCut => exact whileOn_next pd (unitEnd_cut coding closed buffer rfl cut)
  case writes => exact whileOn_next pd (settingsWrite_ends oldest due retried up)

end Sys2Proof.Machine
end

section
/-!
Statement about the ring operations of the image pipeline (R187, R192, R193, R201 to R203): what each does with a
descriptor that passes or fails its checks, a stop at its boundary, and IPL_CTL.
-/

namespace Sys2Proof.Machine

section
variable {c : OpRef} {s : State}

/-! ### CTX_LOAD (R201, R204) -/

/-- The context that a CTX_LOAD reads from its buffer. -/
def loadedCtx (c : OpRef) (s : State) : IplCtx := { cfg := maskWords iplCfgMask (leWords 32 (bufferOf c s)) }

/-- Context `y` as loaded into a slot that held `old`, with its defect list: its own settings, and what outlives a
load. -/
def IplCtx.loadedOver (y old : IplCtx) (defects : List Byte) : IplCtx :=
  { y with
    state := old.state
    set := { id := bitsOf (y.word 24) 15 0, exp := (y.word 22).toNat
             dgain := bitsOf (y.word 23) 31 16, again := bitsOf (y.word 23) 15 0 }
    defects := leWords y.defectN defects, rateF := old.rateF, rateNext := old.rateNext
    lastNo := old.lastNo, lastFlags := old.lastFlags, delivered := old.delivered, tune := old.tune }

/-- A configuration in range fills its slot, once its defect list has been read. -/
theorem iplCtxLoad_loads {k : Nat} (hk : k = bitsOf (c.op.word 6) 3 0) (length : c.op.len = 128)
    (notBeyond : (s.ictx k).state.beyond = false) (read : bufferOpen 0x21 false c.op.addr 128 s = true)
    {y : IplCtx} (hy : y = loadedCtx c s) (valid : iplFault y = none) {defects : Xfer}
    (listed : readEngine 0x21 (y.addr 12) (4 * y.defectN) s = (s, defects)) (whole : defects.status = 0) :
    iplCtxLoad c s = finishOp c stOk 128 (wordOf y.defectN) 0
      (setIplState k .loaded (s.setIctx k (y.loadedOver (s.ictx k) defects.bytes))) := by
  subst hk
  unfold loadedCtx at hy
  unfold iplCtxLoad
  rw [needBuffer_passes _ (by omega)]
  dsimp only
  rw [if_neg (not_not_intro length), notBeyond, if_neg Bool.false_ne_true, readWhole_open (length.symm ▸ read),
    ← hy, valid]
  dsimp only
  rw [listed]
  refine (if_neg (not_not_intro whole)).trans ?_
  subst hy
  rfl

/-! ### CTX_START and CTX_STOP (R187, R202) -/

/-- With IPL on and every context of the mask LOADED, a start is not BUSY. -/
theorem notBusy_of_loaded (on : s.ipl.en = true)
    (loaded : ∀ j ∈ maskCtxs (c.op.word 6), (s.ictx j).state = .loaded) :
    (!s.ipl.en || (maskCtxs (c.op.word 6)).any fun j => (s.ictx j).state != .loaded) = false := by
  simpa [on] using loaded

section
variable (inTime : c.op.word64 7 = 0 ∨ s.t < c.op.word64 7) (on : s.ipl.en = true)
  (loaded : ∀ j ∈ maskCtxs (c.op.word 6), (s.ictx j).state = .loaded)
include inTime on loaded

theorem iplCtxStart_starts (admits : admitFault (admitted (c.op.word 6) s) s = none) :
    let t0 := max (c.op.word64 7) (s.t + 1)
    iplCtxStart c s = finishOp c stOk 0 (wordOf t0) (wordOf (maskCtxs (c.op.word 6)).length)
      ((maskCtxs (c.op.word 6)).foldl (fun u j => iplStartCtx t0 j u) s) := by
  unfold iplCtxStart
  dsimp only
  rw [if_neg (by omega), notBusy_of_loaded on loaded, if_neg Bool.false_ne_true, admits]

/-- A start that breaks a limit of R187 is refused with that limit's reason. -/
theorem iplCtxStart_refused {reason : Nat} (breaks : admitFault (admitted (c.op.word 6) s) s = some reason) :
    iplCtxStart c s = failOp c stSchema 0 (iplErr c.op.opcode reason 0 0 s) := by
  unfold iplCtxStart
  dsimp only
  rw [if_neg (by omega), notBusy_of_loaded on loaded, if_neg Bool.false_ne_true, breaks]
  rfl

end

theorem iplCtxStop_stops (running : ∀ j ∈ maskCtxs (c.op.word 6), (s.ictx j).state.beyond = true) :
    iplCtxStop c s = finishStops (startOp c [s.t + 1, (maskCtxs (c.op.word 6)).length]
      ((maskCtxs (c.op.word 6)).foldl (fun u j => iplStopCtx j u) s)) :=
  if_neg (by simpa using running)

/-! ### EXPOSURE and TUNE_LOAD (R192, R193) -/

/-- Settings in range for a triggered context wait for the next boundary, in place of others that wait for it. -/
theorem exposure_waits {x : IplCtx} (hx : x = s.ictx (bitsOf (c.op.word 6) 3 0)) (held : x.state ≠ .empty)
    (triggered : x.free = false) (gain : bitsOf (c.op.word 9) 15 0 ≤ 16384)
    (fits : x.trigDelay + (c.op.word 8).toNat ≤ x.div * tickLen) : exposure c s =
      finishOp c stOk 0 (wordOf (s.t + 1)) 0 (s.setIctx (bitsOf (c.op.word 6) 3 0) { x with
        exps := (x.exps.filter fun e => e.boundary != s.t + 1) ++ [{
          set := { id := bitsOf (c.op.word 7) 15 0, exp := (c.op.word 8).toNat
                   dgain := bitsOf (c.op.word 9) 31 16, again := bitsOf (c.op.word 9) 15 0 }
          boundary := s.t + 1, order := x.orders }]
        orders := x.orders + 1 }) := by
  subst hx
  unfold exposure
  dsimp only
  rw [if_neg held, if_neg (Bool.eq_false_iff.1 triggered), if_neg (by simp [againOk, gain]),
    if_neg (Nat.not_lt.2 fits)]

/-- A block whose reserved bytes are 0 waits for the next boundary, in place of another that waits for it. -/
theorem tuneLoad_waits {x : IplCtx} (hx : x = s.ictx (bitsOf (c.op.word 6) 3 0)) (length : c.op.len = 2048)
    (held : x.state ≠ .empty) (read : bufferOpen 0x21 false c.op.addr 2048 s = true)
    (clear26 : ∀ b ∈ ((bufferOf c s).drop 26).take 6, b = 0)
    (clear546 : ∀ b ∈ ((bufferOf c s).drop 546).take 1502, b = 0) : tuneLoad c s =
      finishOp c stOk 2048 (wordOf (s.t + 1)) 0 (s.setIctx (bitsOf (c.op.word 6) 3 0) { x with
        tunes := (x.tunes.filter fun e => e.boundary != s.t + 1) ++ [{
          id := bitsOf (c.op.word 7) 15 0, boundary := s.t + 1, bytes := bufferOf c s, order := x.orders }]
        orders := x.orders + 1 }) := by
  subst hx
  have reserved : (!(((bufferOf c s).drop 26).take 6).all (fun b => b == 0) ||
      !(((bufferOf c s).drop 546).take 1502).all fun b => b == 0) = false := by
    rw [List.all_eq_true.2 fun b hb => beq_iff_eq.2 (clear26 b hb),
      List.all_eq_true.2 fun b hb => beq_iff_eq.2 (clear546 b hb)]
    rfl
  unfold tuneLoad
  rw [needBuffer_passes _ (by omega)]
  dsimp only
  rw [if_neg (not_not_intro length), if_neg held, readWhole_open (length.symm ▸ read), reserved,
    if_neg Bool.false_ne_true]

/-! ### CTX_READ (R203) -/

theorem iplCtxRead_stores {k : Nat} (hk : k = bitsOf (c.op.word 6) 3 0) (length : c.op.len = 64)
    (written : bufferOpen 0x21 true c.op.addr 64 s = true) : iplCtxRead c s =
      finishOp c stOk 64 (ctxStateWord (s.ictx k)) (wordOf (s.ictx k).delivered)
        (stored c ((List.range 64).map fun i => Config.ctxReadByte s.gts k i) s) := by
  subst hk
  have bytes : ((List.range 64).map fun i => Config.ctxReadByte s.gts (bitsOf (c.op.word 6) 3 0) i).length = 64 := by
    rw [List.length_map, List.length_range]
  unfold iplCtxRead
  rw [needBuffer_passes _ (by omega), if_neg (not_not_intro length)]
  refine (writeOut_open (bytes.symm ▸ written)).trans ?_
  rw [bytes]

/-! ### ENC_CFG (R203) -/

/-- The stream as ENC_CFG configures it. -/
def encConfigured (c : OpRef) (old : EncStream) : EncStream :=
  { old with
    cfg := [c.op.word 7 &&& (0x0000_010F : Word), c.op.word 8, c.op.word 9 &&& (0x01FF_0007 : Word),
      c.op.word 10 &&& (0x8000_FFFF : Word)] }

section
variable {i : Nat} (hi : i = bitsOf (c.op.word 6) 1 0)
include hi

theorem encCfg_turnsOff (off : bitOf (c.op.word 6) 31 = false)
    (valid : encFault i false (encConfigured c (s.stream i)) s = none) : encCfg c s =
      finishOp c stOk 0 0 0 (s.setStream i { s.stream i with st := .off, due := [], gop := 0, idrNext := false }) := by
  subst hi
  unfold encConfigured at valid
  simp only [encCfg, off, valid, Bool.not_false, if_true]

theorem encCfg_turnsOn (on : bitOf (c.op.word 6) 31 = true)
    (valid : encFault i true (encConfigured c (s.stream i)) s = none) :
    let st := if (s.stream i).st = .deferred then EncState.deferred else .run
    encCfg c s = finishOp c stOk 0 (wordOf st.code) 0 (s.setStream i { encConfigured c (s.stream i) with
      st := st, idrNext := true, due := if (s.stream i).st = .off then [] else (s.stream i).due }) := by
  subst hi
  unfold encConfigured at valid ⊢
  simp only [encCfg, on, valid, Bool.not_true, Bool.false_eq_true, if_false]

end

end

/-! ### A stop at its boundary (R202) -/

theorem iplStopped_stops {c : Nat} {s : State} (beyond : (s.ictx c).state.beyond = true)
    (due : (s.ictx c).stopped s.t = true) (closed : (s.ictx c).frames = []) :
    ((iplStopped c s).ictx c).state = .loaded ∧ ((iplStopped c s).ictx c).stopT = none := by
  have stops : iplStopped c s =
      setIplState c .loaded (s.setIctx c { s.ictx c with stopT := none, trig := none }) :=
    if_pos (by simp [beyond, due, closed])
  rw [stops, setIplState_ictx_self, State.setIctx_self]
  exact ⟨rfl, rfl⟩

/-- Settles O35: each ring operation by its lemma, then the stop at its boundary and IPL_CTL. -/
theorem imageOperationsFollowTheirChecks : Obligations.ImageOperationsFollowTheirChecks := by
  refine ⟨fun n c s hn =>
    ⟨fun defects taken length notBeyond read valid listed whole => ?load,
      fun taken inTime on loaded admits => ?start, fun reason taken inTime on loaded breaks => ?refused,
      fun taken running => ?stop, fun taken held triggered gain fits => ?exposure,
      fun taken length held read clear26 clear546 => ?tune, fun taken length written => ?read,
      fun taken => ⟨fun off valid => ?encOff, fun on valid => ?encOn⟩,
      fun taken => ?idr, fun taken => ?disp, fun taken => ?stat, fun taken => ?code⟩,
    fun s pd => ⟨whileOn_next pd rfl, fun c => iplStopped_stops⟩,
    fun a v s ho => congrArg Host.Outcome.next (gateWrite_open (blk := 6) (iplCtlWrite v) ho)⟩
  case load =>
    exact congrArg Host.Outcome.next ((takeOp_at iplCtxLoad n hn taken).trans
      (iplCtxLoad_loads rfl length notBeyond read rfl valid listed whole))
  case start =>
    exact congrArg Host.Outcome.next ((takeOp_at iplCtxStart n hn taken).trans
      (iplCtxStart_starts inTime on loaded admits))
  case refused =>
    exact congrArg Host.Outcome.next ((takeOp_at iplCtxStart n hn taken).trans
      (iplCtxStart_refused inTime on loaded breaks))
  case stop => exact congrArg Host.Outcome.next ((takeOp_at iplCtxStop n hn taken).trans (iplCtxStop_stops running))
  case exposure =>
    exact congrArg Host.Outcome.next ((takeOp_at exposure n hn taken).trans
      (exposure_waits rfl held triggered gain fits))
  case tune =>
    exact congrArg Host.Outcome.next ((takeOp_at tuneLoad n hn taken).trans
      (tuneLoad_waits rfl length held read clear26 clear546))
  case read =>
    exact congrArg Host.Outcome.next ((takeOp_at iplCtxRead n hn taken).trans
      (iplCtxRead_stores rfl length written))
  case encOff =>
    exact congrArg Host.Outcome.next ((takeOp_at encCfg n hn taken).trans (encCfg_turnsOff rfl off valid))
  case encOn =>
    exact congrArg Host.Outcome.next ((takeOp_at encCfg n hn taken).trans (encCfg_turnsOn rfl on valid))
  case idr => exact congrArg Host.Outcome.next (takeOp_at encIdr n hn taken)
  case disp => exact congrArg Host.Outcome.next (takeOp_at (fun c s => poolCheck (dispMax s) c s) n hn taken)
  case stat => exact congrArg Host.Outcome.next (takeOp_at (poolCheck 4096) n hn taken)
  case code => exact congrArg Host.Outcome.next (takeOp_at (poolCheck 4096) n hn taken)

end Sys2Proof.Machine
end

section
/-!
SUPPORT. What Lookout's work on its samples, epochs and inputs leaves alone: host memory, the rings, time, the load
switches, and the plan of its epochs.
-/

namespace Sys2Proof.Machine

/-! ### The frame -/

/-- Which epoch closes and which is released next, what a stop has left, and what the team has exchanged. -/
structure LkoPlan where
  state : LkoState
  nextClose : Nat
  nextRel : Nat
  tailE : Option Nat
  remoteOut : Option RemoteEnc
  replica : Option RelReplica

/-- The plan that a state of Lookout holds. -/
def Lko.plan (l : Lko) : LkoPlan := ⟨l.state, l.nextClose, l.nextRel, l.tailE, l.remoteOut, l.replica⟩

section
variable {l : Lko} {p : LkoPlan} (h : l.plan = p)
include h

theorem state_of_plan : l.state = p.state := congrArg LkoPlan.state h

theorem nextClose_of_plan : l.nextClose = p.nextClose := congrArg LkoPlan.nextClose h

theorem nextRel_of_plan : l.nextRel = p.nextRel := congrArg LkoPlan.nextRel h

theorem tailE_of_plan : l.tailE = p.tailE := congrArg LkoPlan.tailE h

theorem remoteOut_of_plan : l.remoteOut = p.remoteOut := congrArg LkoPlan.remoteOut h

theorem replica_of_plan : l.replica = p.replica := congrArg LkoPlan.replica h

end

/-- What work on samples, epochs and inputs leaves alone. -/
structure LkoFrame where
  plan : LkoPlan
  mem : List Host.Cell
  hri : Hri
  gts : Nat
  lsw : Lsw

/-- The frame of a state. -/
def State.lkoFrame (s : State) : LkoFrame := ⟨s.lko.plan, s.mem, s.hri, s.gts, s.lsw⟩

theorem plan_of_lkoFrame {s t : State} (h : t.lkoFrame = s.lkoFrame) : t.lko.plan = s.lko.plan :=
  congrArg LkoFrame.plan h

theorem mem_of_lkoFrame {s t : State} (h : t.lkoFrame = s.lkoFrame) : t.mem = s.mem :=
  congrArg LkoFrame.mem h

theorem hri_of_lkoFrame {s t : State} (h : t.lkoFrame = s.lkoFrame) : t.hri = s.hri :=
  congrArg LkoFrame.hri h

theorem gts_of_lkoFrame {s t : State} (h : t.lkoFrame = s.lkoFrame) : t.gts = s.gts :=
  congrArg LkoFrame.gts h

theorem lsw_of_lkoFrame {s t : State} (h : t.lkoFrame = s.lkoFrame) : t.lsw = s.lsw :=
  congrArg LkoFrame.lsw h

@[simp] theorem State.plan_epochs (s : State) (es : List LkoEpoch) :
    ({ s with lko.epochs := es } : State).lko.plan = s.lko.plan := rfl

/-- The inputs are Lookout's own. -/
theorem lin_of_lko {s t : State} (h : t.lko = s.lko) (n : Nat) : t.lin n = s.lin n := by
  unfold State.lin
  rw [h]

/-- What no step changes, the steps one after another do not change. -/
theorem foldl_keeps {α β : Type} (view : State → β) {f : State → α → State} (hf : ∀ s a, view (f s a) = view s) :
    ∀ (l : List α) (s : State), view (l.foldl f s) = view s
  | [], _ => rfl
  | a :: l, s => (foldl_keeps view hf l (f s a)).trans (hf s a)

@[simp] theorem State.setLin_lkoFrame (s : State) (n : Nat) (x : LkoInput) : (s.setLin n x).lkoFrame = s.lkoFrame := rfl

@[simp] theorem State.setEpoch_lkoFrame (s : State) (x : LkoEpoch) : (s.setEpoch x).lkoFrame = s.lkoFrame := rfl

@[simp] theorem markBuf_lkoFrame (c b : Nat) (used : Bool) (s : State) : (markBuf c b used s).lkoFrame = s.lkoFrame :=
  rfl

@[simp] theorem raiseAt_lkoFrame (g src code d : Nat) (s : State) : (raiseAt g src code d s).lkoFrame = s.lkoFrame := by
  simp [State.lkoFrame]

/-! ### Samples and epochs (R212, R216, R218) -/

@[simp] theorem dropSample_lkoFrame (e : Nat) (q : LkoSample) (s : State) :
    (dropSample e q s).lkoFrame = s.lkoFrame := by
  unfold dropSample freeSlot
  dsimp only
  split <;> simp

theorem dropUnaligned_lkoFrame (e : Nat) (s : State) : (dropUnaligned e s).lkoFrame = s.lkoFrame :=
  foldl_keeps State.lkoFrame (fun _ _ => dropSample_lkoFrame ..) _ s

theorem dropLate_lkoFrame (n k g : Nat) (s : State) : (dropLate n k g s).lkoFrame = s.lkoFrame := by
  unfold dropLate sampleEvent countLate
  split
  · rfl
  · exact raiseAt_lkoFrame ..

theorem noteCarried_lkoFrame (n k g : Nat) (s : State) : (noteCarried n k g s).lkoFrame = s.lkoFrame := by
  unfold noteCarried sampleEvent countCarried
  split
  · rfl
  · exact raiseAt_lkoFrame ..

/-! ### Clock models (R215) -/

theorem applyClock_lkoFrame (n g : Nat) (r : ClockModel × Option Nat) (s : State) :
    (applyClock n g r s).lkoFrame = s.lkoFrame := by
  unfold applyClock alignEvent
  dsimp only
  split
  · rfl
  · exact raiseAt_lkoFrame ..

theorem feedPair_lkoFrame (n g : Nat) (t : Rat) (a : Nat) (s : State) : (feedPair n g t a s).lkoFrame = s.lkoFrame :=
  applyClock_lkoFrame ..

theorem feedEarly_lkoFrame (n g : Nat) (t : Rat) (a : Nat) (r : Int) (s : State) :
    (feedEarly n g t a r s).lkoFrame = s.lkoFrame := by
  unfold feedEarly
  dsimp only
  split
  · rfl
  · exact applyClock_lkoFrame ..

/-! ### Scores (R224, R225) -/

theorem scoreInput_lkoFrame (p : LkoProducts) (s : State) (n : Nat) : (scoreInput p s n).lkoFrame = s.lkoFrame := by
  unfold scoreInput
  dsimp only
  split <;> rfl

theorem applyScore_lkoFrame (g : Nat) (s : State) (n : Nat) : (applyScore g s n).lkoFrame = s.lkoFrame := by
  unfold applyScore
  dsimp only
  split
  · rfl
  · split
    · rfl
    · exact raiseAt_lkoFrame ..

/-! ### Points of a lidar (R218, R219, R240) -/

theorem binPoint_lkoFrame (i e : Nat) (p : LidarPoint) (carried : Bool) (s : State) :
    (binPoint i e p carried s).1.lkoFrame = s.lkoFrame := by
  unfold binPoint
  dsimp only
  split <;> rfl

theorem placePoint_lkoFrame (i : Nat) (p : LidarPoint) (cap : Int) (r : State × Binned) :
    (placePoint i p cap r).1.lkoFrame = r.1.lkoFrame := by
  unfold placePoint
  dsimp only
  split
  · rfl
  · split
    · split <;> rfl
    · exact binPoint_lkoFrame ..
    · exact binPoint_lkoFrame ..

theorem oneIf_le (b : Bool) : oneIf b ≤ 1 := by
  cases b <;> decide

/-- A point is binned at most once. -/
theorem placePoint_binned_le (i : Nat) (p : LidarPoint) (cap : Int) (r : State × Binned) :
    (placePoint i p cap r).2.binned ≤ r.2.binned + 1 := by
  unfold placePoint
  dsimp only
  split
  · exact Nat.le_succ _
  · split
    · split <;> exact Nat.le_succ _
    · exact Nat.add_le_add_left (oneIf_le _) _
    · exact Nat.add_le_add_left (oneIf_le _) _

/-! ### What reaches host memory and the signal table (R227 to R229) -/

/-- The check of a transaction reaches the fences' capture and the events alone (R64). -/
theorem busCheck_frame (kind ini : Nat) (sec write quiet : Bool) (addr len : Nat) (s : State) :
    ∃ f y q, (busCheck kind ini sec write quiet addr len s).1 = { s with fen := f, sys := y, recorder := q } := by
  obtain ⟨f, captured⟩ : ∃ f, (if s.busVerdict ini sec write addr len = .refused then refuse ini sec write addr s
      else s) = { s with fen := f } := by
    split <;> exact ⟨_, rfl⟩
  unfold busCheck
  dsimp only
  rw [captured]
  split
  · exact ⟨f, s.sys, s.recorder, rfl⟩
  · split
    · exact ⟨f, s.sys, s.recorder, rfl⟩
    · obtain ⟨y, q, raised⟩ := raiseEv_frame _ { s with fen := f }
      exact ⟨f, y, q, raised⟩

/-- A write reaches host memory, the fences' capture and the events alone. -/
theorem busWrite_frame (kind ini : Nat) (sec quiet : Bool) (addr : Nat) (bs : List Byte) (s : State) :
    ∃ m f y q, (busWrite kind ini sec quiet addr bs s).1 = { s with mem := m, fen := f, sys := y, recorder := q } := by
  obtain ⟨f, y, q, checked⟩ := busCheck_frame kind ini sec true quiet addr bs.length s
  unfold busWrite
  dsimp only
  rw [checked]
  split <;> exact ⟨_, f, y, q, rfl⟩

theorem writePieces_frame (kind ini : Nat) : ∀ (ps : List (Nat × Nat)) (bs : List Byte) (x : Xfer) (s : State),
    ∃ m f y q, (writePieces kind ini ps bs x s).1 = { s with mem := m, fen := f, sys := y, recorder := q }
  | [], _, _, s => ⟨s.mem, s.fen, s.sys, s.recorder, rfl⟩
  | (a, n) :: ps, bs, x, s => by
    obtain ⟨m, f, y, q, written⟩ := busWrite_frame kind ini false false a (bs.take n) s
    unfold writePieces
    dsimp only
    rw [written]
    split
    · exact writePieces_frame kind ini ps ..
    · exact ⟨m, f, y, q, rfl⟩

/-- A pooled buffer that is filled, or is missing, leaves Lookout and time alone. -/
theorem poolOut_keeps (q opc code e g : Nat) (bs : List Byte) (s : State) :
    (poolOut q opc code e g bs s).lko = s.lko ∧ (poolOut q opc code e g bs s).gts = s.gts := by
  unfold poolOut
  split
  · exact ⟨raiseAt_lko .., raiseAt_gts ..⟩
  · next c _ =>
    obtain ⟨m, f, y, r, written⟩ := writePieces_frame 2 0x23 (pieces bs.length c.op.addr bs.length) bs
      { moved := 0, status := 0, bytes := [] } s
    unfold writeOut writeBuffer
    dsimp only
    rw [written]
    split <;> simp

@[simp] theorem poolOut_lko (q opc code e g : Nat) (bs : List Byte) (s : State) :
    (poolOut q opc code e g bs s).lko = s.lko := (poolOut_keeps ..).1

@[simp] theorem poolOut_gts (q opc code e g : Nat) (bs : List Byte) (s : State) :
    (poolOut q opc code e g bs s).gts = s.gts := (poolOut_keeps ..).2

/-- A trajectory reaches the control engine alone. -/
theorem installTraj_frame (ps : List Word) (stamp : Nat) (s : State) :
    ∃ b, installTraj ps stamp s = { s with bce := b } := by
  unfold installTraj settleTraj
  split
  · split <;> exact ⟨_, rfl⟩
  · exact ⟨_, rfl⟩

@[simp] theorem installTraj_lko (ps : List Word) (stamp : Nat) (s : State) : (installTraj ps stamp s).lko = s.lko := by
  obtain ⟨_, h⟩ := installTraj_frame ps stamp s
  rw [h]

@[simp] theorem installTraj_gts (ps : List Word) (stamp : Nat) (s : State) : (installTraj ps stamp s).gts = s.gts := by
  obtain ⟨_, h⟩ := installTraj_frame ps stamp s
  rw [h]

/-- Col taking up an invocation changes what Col runs alone. -/
theorem colStart_frame (s : State) : ∃ j, colStart s = { s with lko.col := j } := by
  unfold colStart
  split
  · exact ⟨_, rfl⟩
  · split <;> exact ⟨_, rfl⟩

end Sys2Proof.Machine
end

section
/-!
Statement about the epochs of Lookout (R209, R210, R220 to R222, R235): close and release instants, Col's invocations,
and what the lead and the second exchange.
-/

namespace Sys2Proof.Machine

/-! ### Closing (R209, R235) -/

section
variable {s : State} (upTo : s.lko.upTo s.lko.nextClose = true)
include upTo

theorem epochClose_closes (notShadow : s.lko.state ≠ .shadow) (fusing : s.lko.fusing = true)
    (inTick : s.lko.closeAt s.lko.nextClose < boundaryOf (s.t + 1)) :
    let e := s.lko.nextClose
    epochClose s = colStart (closeEpoch e (s.lko.closeAt e) false (s.advance (s.lko.closeAt e))) := by
  unfold epochClose
  dsimp only
  rw [upTo, if_neg (by decide), if_neg notShadow, if_pos fusing, State.reach_inTick _ inTick]

theorem epochClose_sends (shadow : s.lko.state = .shadow)
    (inTick : instantOf s.lko.nextClose < boundaryOf (s.t + 1)) :
    epochClose s = closeRemote s.lko.nextClose (s.advance (instantOf s.lko.nextClose)) := by
  unfold epochClose
  dsimp only
  rw [upTo, if_neg (by decide), if_pos shadow, State.reach_inTick _ inTick]

end

theorem epochClose_nothing {s : State}
    (h : s.lko.upTo s.lko.nextClose = false ∨ (s.lko.state ≠ .shadow ∧ s.lko.fusing = false)) : epochClose s = s := by
  unfold epochClose
  dsimp only
  rcases h with beyond | ⟨notShadow, notFusing⟩
  · rw [beyond, if_pos (by decide)]
  · rw [if_neg notShadow, notFusing, if_neg Bool.false_ne_true, ite_self]

theorem closeEpoch_plan (e g : Nat) (takeover : Bool) (s : State) :
    (closeEpoch e g takeover s).lko.plan = { s.lko.plan with nextClose := e + 1 } := by
  rw [← plan_of_lkoFrame (dropUnaligned_lkoFrame e s)]
  unfold closeEpoch
  generalize dropUnaligned e s = dropped
  dsimp only
  split
  · rw [raiseAt_lko]; rfl
  · rfl

/-- Closing an epoch is work within Lookout: memory and the rings are as before. -/
theorem closeEpoch_keeps (e g : Nat) (takeover : Bool) (s : State) :
    (closeEpoch e g takeover s).mem = s.mem ∧ (closeEpoch e g takeover s).hri = s.hri := by
  rw [← mem_of_lkoFrame (dropUnaligned_lkoFrame e s), ← hri_of_lkoFrame (dropUnaligned_lkoFrame e s)]
  unfold closeEpoch
  generalize dropUnaligned e s = dropped
  dsimp only
  split
  · exact ⟨raiseAt_mem .., raiseAt_hri ..⟩
  · exact ⟨rfl, rfl⟩

/-- Samples that leave an epoch one after another. -/
theorem foldl_dropSample_lkoFrame (e : Nat) (qs : List LkoSample) (s : State) :
    (qs.foldl (fun s q => dropSample e q s) s).lkoFrame = s.lkoFrame :=
  foldl_keeps State.lkoFrame (fun _ _ => dropSample_lkoFrame ..) _ _

/-- The samples of several epochs that leave them. -/
theorem foldl_dropSamples_lkoFrame (ys : List LkoEpoch) (s : State) :
    (ys.foldl (fun s y => y.samples.foldl (fun s q => dropSample y.num q s) s) s).lkoFrame = s.lkoFrame :=
  foldl_keeps State.lkoFrame (fun _ _ => foldl_dropSample_lkoFrame ..) _ _

/-- An epoch found by its number has it. -/
theorem Lko.epoch_num (l : Lko) (e : Nat) : (l.epoch e).num = e := by
  unfold Lko.epoch
  cases found : l.epochs.find? fun x => x.num == e with
  | none => rfl
  | some x => simpa using List.find?_some found

theorem closeRemote_plan (e : Nat) (s : State) : ∃ r, r.epoch = e ∧
    (closeRemote e s).lko.plan = { s.lko.plan with nextClose := e + 1, remoteOut := some r } := by
  rw [← plan_of_lkoFrame (dropUnaligned_lkoFrame e s)]
  unfold closeRemote
  dsimp only
  rw [State.plan_epochs, plan_of_lkoFrame (foldl_dropSamples_lkoFrame ..)]
  exact ⟨_, Lko.epoch_num .., rfl⟩

theorem closeRemote_sends (e : Nat) (s : State) :
    (closeRemote e s).lko.nextClose = e + 1 ∧ ∃ r, (closeRemote e s).lko.remoteOut = some r ∧ r.epoch = e := by
  obtain ⟨r, num, plan⟩ := closeRemote_plan e s
  exact ⟨nextClose_of_plan plan, r, remoteOut_of_plan plan, num⟩

/-! ### Release (R209, R210) -/

theorem foldl_scoreInput_lkoFrame (p : LkoProducts) (ns : List Nat) (s : State) :
    (ns.foldl (scoreInput p) s).lkoFrame = s.lkoFrame :=
  foldl_keeps State.lkoFrame (fun _ _ => scoreInput_lkoFrame ..) _ _

theorem foldl_applyScore_lkoFrame (g : Nat) (ns : List Nat) (s : State) :
    (ns.foldl (applyScore g) s).lkoFrame = s.lkoFrame :=
  foldl_keeps State.lkoFrame (fun _ _ => applyScore_lkoFrame ..) _ _

/-- Publishes reach the signal table alone. -/
theorem foldl_publishLate_lko {α : Type} {f : State → α → State}
    (publishes : ∀ s a, ∃ vis i v stamp, f s a = publishLate vis i v stamp s) (l : List α) (s : State) :
    (l.foldl f s).lko = s.lko :=
  foldl_keeps State.lko (fun s a => by obtain ⟨_, _, _, _, h⟩ := publishes s a; rw [h]; rfl) l s

theorem releaseWith_plan (e g : Nat) (x : LkoEpoch) (p : LkoProducts) (s : State) :
    (releaseWith e g x p s).lko.plan = s.lko.plan := by
  unfold releaseWith
  extract_lets scored h te entered healthy steered block replica _ sent pooled filled before counted
  have entries : entered.lko = scored.lko := foldl_publishLate_lko (fun _ _ => ⟨_, _, _, _, rfl⟩) _ _
  have health : healthy.lko = entered.lko := foldl_publishLate_lko (fun _ _ => ⟨_, _, _, _, rfl⟩) _ _
  have trajectory : steered.lko = healthy.lko := installTraj_lko ..
  clear_value steered
  have team : sent.lko.plan = steered.lko.plan := by
    unfold sent
    split <;> rfl
  have buffers : filled.lko = sent.lko := by
    unfold filled pooled
    rw [poolOut_lko, poolOut_lko]
  clear_value filled
  calc (x.withData.foldl (applyScore g) counted).lko.plan
      = counted.lko.plan := plan_of_lkoFrame (foldl_applyScore_lkoFrame ..)
    _ = filled.lko.plan := by simp only [Lko.plan, counted, before]
    _ = sent.lko.plan := congrArg Lko.plan buffers
    _ = steered.lko.plan := team
    _ = scored.lko.plan := congrArg Lko.plan (trajectory.trans (health.trans entries))
    _ = s.lko.plan := plan_of_lkoFrame (foldl_scoreInput_lkoFrame ..)

/-- Epochs up to `e` forgotten, the next one due. -/
def State.releasedTo (u : State) (e : Nat) : State :=
  { u with lko.epochs := u.lko.epochs.filter fun y => decide (e < y.num), lko.nextRel := e + 1 }

theorem State.releasedTo_epochs (u : State) (e : Nat) : ∀ y ∈ (u.releasedTo e).lko.epochs, e < y.num :=
  fun _ hy => of_decide_eq_true (List.mem_filter.1 hy).2

/-- However an epoch is judged, its release ends so: the epochs up to it are forgotten and the next one is due, a stop
that is over is finished, and Col takes up its next invocation. -/
theorem releaseEpoch_eq (e : Nat) (s : State) : ∃ (v : State) (j : Option (ColJob × Bool)),
    v.lko.tailE = s.lko.tailE ∧ v.lko.nextRel = e + 1 ∧ (∀ y ∈ v.lko.epochs, e < y.num) ∧
      releaseEpoch e s = { stopIfDone v with lko.col := j } := by
  unfold releaseEpoch
  extract_lets g closed x _ judged emptied _
  obtain ⟨j, started⟩ := colStart_frame (stopIfDone (emptied.releasedTo e))
  refine ⟨emptied.releasedTo e, j, ?_, rfl, emptied.releasedTo_epochs e, started⟩
  have close : closed.lko.tailE = s.lko.tailE := by
    unfold closed
    split
    · rfl
    · exact tailE_of_plan (closeEpoch_plan ..)
  clear_value closed
  have judge : judged.lko.plan = closed.lko.plan := by
    unfold judged
    split
    · exact releaseWith_plan ..
    · rw [raiseAt_lko]
      exact plan_of_lkoFrame ((foldl_applyScore_lkoFrame ..).trans (foldl_scoreInput_lkoFrame ..))
    · rw [raiseAt_lko]
      rfl
  have empty : emptied.lko.plan = judged.lko.plan := plan_of_lkoFrame (foldl_dropSample_lkoFrame ..)
  calc (emptied.releasedTo e).lko.tailE = emptied.lko.tailE := rfl
    _ = closed.lko.tailE := tailE_of_plan (empty.trans judge)
    _ = s.lko.tailE := close

/-- A stop that is over leaves the epochs as they are, or none. -/
theorem stopIfDone_epochs (s : State) :
    (stopIfDone s).lko.epochs = s.lko.epochs ∨ (stopIfDone s).lko.epochs = [] := by
  unfold stopIfDone
  split
  · split
    · left
      unfold finishTail
      dsimp only
      split
      · rfl
      · rw [finishOp_lko]
    · exact .inl rfl
  · split
    · right
      unfold finishStop
      dsimp only
      split
      · rfl
      · rw [finishOp_lko]
    · exact .inl rfl
  · exact .inl rfl

/-- A stop that no START has followed leaves the next release as it is. -/
theorem stopIfDone_nextRel {s : State} (noTail : s.lko.tailE = none) :
    (stopIfDone s).lko.nextRel = s.lko.nextRel := by
  unfold stopIfDone
  rw [noTail]
  split
  · contradiction
  · split
    · unfold finishStop
      extract_lets emptied _ stopped
      have rel : stopped.lko.nextRel = s.lko.nextRel :=
        nextRel_of_plan (plan_of_lkoFrame (foldl_dropSamples_lkoFrame ..))
      split
      · exact rel
      · rw [finishOp_lko, rel]
    · rfl
  · rfl

theorem releaseEpoch_epochs (e : Nat) (s : State) : ∀ y ∈ (releaseEpoch e s).lko.epochs, e < y.num := by
  obtain ⟨v, j, _, _, later, released⟩ := releaseEpoch_eq e s
  rw [released]
  intro y hy
  rcases stopIfDone_epochs v with kept | none
  · exact later y (kept ▸ hy)
  · exact absurd (none ▸ hy) List.not_mem_nil

theorem releaseEpoch_nextRel {e : Nat} {s : State} (noTail : s.lko.tailE = none) :
    (releaseEpoch e s).lko.nextRel = e + 1 := by
  obtain ⟨v, j, tail, next, _, released⟩ := releaseEpoch_eq e s
  rw [released]
  exact (stopIfDone_nextRel (tail.trans noTail)).trans next

section
variable {s : State}

theorem epochRelease_releases (fusing : s.lko.fusing = true) (upTo : s.lko.upTo s.lko.nextRel = true)
    (inTick : s.lko.relAt s.lko.nextRel < boundaryOf (s.t + 1)) :
    epochRelease s = releaseEpoch s.lko.nextRel (s.advance (s.lko.relAt s.lko.nextRel)) := by
  unfold epochRelease
  rw [if_pos ⟨fusing, upTo⟩, State.reach_inTick _ inTick]

theorem epochRelease_nothing (h : s.lko.fusing = false ∨ s.lko.upTo s.lko.nextRel = false ∨
    boundaryOf (s.t + 1) ≤ s.lko.relAt s.lko.nextRel) : epochRelease s = s := by
  unfold epochRelease
  dsimp only
  rcases h with notFusing | beyond | later
  · rw [if_neg (by simp [notFusing])]
  · rw [if_neg (by simp [beyond])]
  · unfold State.reach
    rw [if_neg (Nat.not_lt.2 later), ite_self]

end

/-! ### Col (R220 to R222) -/

section
variable {s : State} (on2 : s.pdOn 2 = true) (on6 : s.pdOn 6 = true) {e : Nat} {p : Bool}
include on2 on6

theorem colEnd_camera {cap : Nat} (c : Fin 12) (enc : Encoding) (runs : s.lko.col = some (.cam e c cap, p)) :
    colEnd (.camEnc c cap enc) s = colStart (endCamera e c cap p enc { s with lko.col := none }) := by
  simp [colEnd, on2, on6, runs]

theorem colEnd_lidar (i : Fin 2) (enc : Encoding) (runs : s.lko.col = some (.lidar e i, p)) :
    colEnd (.lidarEnc i enc) s = colStart (endLidar e i p enc { s with lko.col := none }) := by
  simp [colEnd, on2, on6, runs]

theorem colEnd_fuse (features : List Byte) (runs : s.lko.col = some (.fuse e, p)) :
    colEnd (.fuse features) s = colStart (endFuse e p features { s with lko.col := none }) := by
  simp [colEnd, on2, on6, runs]

theorem colEnd_head (cells : Tab Cell) (runs : s.lko.col = some (.head e, p)) :
    colEnd (.head cells) s = colStart (endHead e p cells { s with lko.col := none }) := by
  simp [colEnd, on2, on6, runs]

omit on2 on6 in
theorem colEnd_idle (idle : s.lko.col = none) (r : ColEnd) : colEnd r s = s := by
  simp [colEnd, idle]

omit on2 on6 in
theorem colEnd_off (off : s.pdOn 6 = false) (r : ColEnd) : colEnd r s = s := by
  simp [colEnd, off]

theorem colStart_next {j : ColJob} (idle : s.lko.col = none) (next : s.lko.nextJob = some j) :
    ∃ p, (colStart s).lko.col = some (j, p) := by
  unfold colStart
  rw [idle, on2, on6, next]
  exact ⟨_, rfl⟩

end

theorem endFuse_fuses {e : Nat} {int8 : Bool} {s v : State} (features : List Byte)
    (notYet : (s.lko.epoch e).fused = none) (sound : (s.lko.epoch e).failed = false)
    (streamed : streamWeights 2 int8 s = (v, true)) :
    let x := v.lko.epoch e
    endFuse e int8 features s = v.setEpoch { x with
      fused := some features, changed := precChanged v.lko x
      warps := x.samples.map fun q => (q.cam, poseDiff v.lko q.cap (instantOf e)) } := by
  unfold endFuse
  dsimp only
  rw [notYet, sound, streamed]
  rfl

theorem endHead_produces {e : Nat} {int8 : Bool} {s v : State} (cells : Tab Cell)
    (fused : (s.lko.epoch e).fused.isSome = true) (notYet : (s.lko.epoch e).products = none)
    (sound : (s.lko.epoch e).failed = false) (streamed : streamWeights 3 int8 s = (v, true)) :
    let x := v.lko.epoch e
    endHead e int8 cells s = v.setEpoch { x with
      products := some (productsOf v.lko e cells (distances x cells v)) } := by
  unfold endHead
  dsimp only
  rw [Option.isNone_eq_false_iff.2 fused, notYet, sound, streamed]
  rfl

/-! ### The rope team (R235, R236) -/

/-- The lead as the second's encoding arrives at `a`: time has come there, and it knows the cameras that take part. -/
def State.hearing (s : State) (r : RemoteEnc) (a : Nat) : State :=
  { s.advance a with lko.teamCams := orMask s.lko.teamCams (maskOf (r.cams.map fun p => p.1)) }

/-- An encoding that names cameras alone is taken as it is. -/
theorem cams_filter {r : RemoteEnc} (cameras : ∀ p ∈ r.cams, p.1 < 12) :
    r.cams.filter (fun p => decide (p.1 < 12)) = r.cams :=
  List.filter_eq_self.2 fun p hp => decide_eq_true (cameras p hp)

section
variable {r : RemoteEnc} {a : Nat} {s : State} (lead : s.rtl.role = .lead) (fusing : s.lko.fusing = true)
  (cameras : ∀ p ∈ r.cams, p.1 < 12)
include lead fusing cameras

theorem remoteArrival_joins (inTime : a ≤ s.lko.closeAt r.epoch) (collects : s.lko.collects r.epoch = true) :
    remoteArrival r a s = (s.hearing r a).setEpoch { (s.hearing r a).lko.epoch r.epoch with remote := some r } := by
  unfold remoteArrival State.hearing
  dsimp only
  rw [cams_filter cameras, if_neg (by simp [lead, fusing]), State.advance_lko, if_pos inTime, if_pos collects]
  rfl

theorem remoteArrival_late (late : s.lko.closeAt r.epoch < a) (later : s.lko.closeAt (r.epoch + 1) < a) :
    remoteArrival r a s = raiseAt a 346 3 (r.epoch % 2 ^ 32) (remoteSample 338 r.epoch a
      { s.hearing r a with lko.lateCnt := countUp s.lko.lateCnt max32 }) := by
  unfold remoteArrival State.hearing
  dsimp only
  rw [cams_filter cameras, if_neg (by simp [lead, fusing]), State.advance_lko, if_neg (Nat.not_le.2 late),
    if_neg (Nat.not_le.2 later)]

end

theorem remoteArrival_nothing {s : State} (h : s.rtl.role ≠ .lead ∨ s.lko.fusing = false) (r : RemoteEnc) (a : Nat) :
    remoteArrival r a s = s := by
  unfold remoteArrival
  dsimp only
  rw [if_pos (by simpa using h)]

theorem mem_sensorNumbers {n : Nat} : n ∈ sensorNumbers ↔ n < 14 := List.mem_range

/-- A second takes over the weight and the exclusion that the lead has sent for an input. -/
def takeOverInput (r : RelReplica) (s : State) (n : Nat) : State :=
  s.setLin n { s.lin n with
    weight := Tab.get (s.lin n).weight r.weights n, excluded := r.excluded.testBit n }

theorem foldl_takeOverInput_lkoFrame (r : RelReplica) (ns : List Nat) (s : State) :
    (ns.foldl (takeOverInput r) s).lkoFrame = s.lkoFrame :=
  foldl_keeps State.lkoFrame (fun _ _ => State.setLin_lkoFrame ..) _ _

theorem takeOverInput_excluded (r : RelReplica) (s : State) (n k : Nat) :
    ((takeOverInput r s n).lin k).excluded = if k = n then r.excluded.testBit n else (s.lin k).excluded := by
  unfold takeOverInput State.lin State.setLin
  rw [Tab.get_put]
  split <;> rfl

theorem foldl_takeOverInput_excluded (r : RelReplica) (k : Nat) : ∀ (ns : List Nat) (s : State),
    ((ns.foldl (takeOverInput r) s).lin k).excluded = if k ∈ ns then r.excluded.testBit k else (s.lin k).excluded
  | [], _ => by simp
  | n :: ns, s => by
    rw [List.foldl_cons, foldl_takeOverInput_excluded r k ns, takeOverInput_excluded]
    by_cases hk : k = n
    · simp [hk]
    · simp [hk]

theorem replicaArrival_ignored {s : State} (notShadow : s.lko.state ≠ .shadow) (r : RelReplica) :
    replicaArrival r s = s := if_pos notShadow

theorem replicaArrival_shadow {s : State} (shadow : s.lko.state = .shadow) (r : RelReplica) :
    let t := replicaArrival r s
    t.lko.replica = some r ∧ t.lko.state = .shadow ∧ (∀ n, n < 14 → (t.lin n).excluded = r.excluded.testBit n) ∧
      t.gts = s.gts := by
  unfold replicaArrival
  rw [if_neg (not_not_intro shadow)]
  extract_lets te cells _ known taken
  have inputs : taken = sensorNumbers.foldl (takeOverInput r) known := rfl
  have frame : taken.lkoFrame = known.lkoFrame := inputs ▸ foldl_takeOverInput_lkoFrame ..
  refine ⟨?_, ?_, fun n hn => ?_, ?_⟩
  · rw [poolOut_lko, installTraj_lko]
    exact replica_of_plan (plan_of_lkoFrame frame)
  · rw [poolOut_lko, installTraj_lko]
    exact (state_of_plan (plan_of_lkoFrame frame)).trans shadow
  · rw [lin_of_lko ((poolOut_lko ..).trans (installTraj_lko ..)), inputs, foldl_takeOverInput_excluded,
      if_pos (mem_sensorNumbers.2 hn)]
  · rw [poolOut_gts, installTraj_gts, gts_of_lkoFrame frame]

/-- Settles O36: each instant, invocation and arrival by its lemma. -/
theorem epochsCloseFuseAndRelease : Obligations.EpochsCloseFuseAndRelease := by
  refine ⟨fun s => ⟨fun notShadow fusing upTo inTick => ?closes, fun shadow upTo inTick => ?sends, fun h => ?stays⟩,
    fun e g takeover s => ?fixed,
    fun s => ⟨fun fusing upTo inTick => ?released, fun h => ?notReleased⟩,
    fun s on2 on6 => ⟨fun e c cap p enc runs => ?camera, fun e i p enc runs => ?lidar,
      fun e p features v runs notYet sound streamed => ?fuse,
      fun e p cells v runs fused notYet sound streamed => ?head, fun idle r => ?idle⟩,
    fun s r off => ?off, fun s idle on2 on6 j => colStart_next on2 on6 idle,
    fun r a s lead fusing cameras =>
      ⟨fun inTime collects => ?joins, fun late later => ?late⟩,
    fun r a s h => ?notLead, fun r s => ⟨fun shadow => ?replica, fun notShadow => ?noReplica⟩⟩
  case closes => exact congrArg Host.Outcome.next (epochClose_closes upTo notShadow fusing inTick)
  case sends => exact congrArg Host.Outcome.next (epochClose_sends upTo shadow inTick)
  case stays => exact congrArg Host.Outcome.next (epochClose_nothing h)
  case fixed =>
    obtain ⟨next, encoding⟩ := closeRemote_sends e s
    obtain ⟨mem, hri⟩ := closeEpoch_keeps e g takeover s
    exact ⟨nextClose_of_plan (closeEpoch_plan ..), next, encoding, mem, hri⟩
  case released =>
    exact ⟨_, congrArg Host.Outcome.next (epochRelease_releases fusing upTo inTick), rfl,
      fun noTail => releaseEpoch_nextRel (by rwa [State.advance_lko]), releaseEpoch_epochs _ _⟩
  case notReleased => exact congrArg Host.Outcome.next (epochRelease_nothing h)
  case camera => exact congrArg Host.Outcome.next (colEnd_camera on2 on6 c enc runs)
  case lidar => exact congrArg Host.Outcome.next (colEnd_lidar on2 on6 i enc runs)
  case fuse =>
    exact congrArg Host.Outcome.next ((colEnd_fuse on2 on6 features runs).trans
      (congrArg colStart (endFuse_fuses features notYet sound streamed)))
  case head =>
    exact congrArg Host.Outcome.next ((colEnd_head on2 on6 cells runs).trans
      (congrArg colStart (endHead_produces cells fused notYet sound streamed)))
  case idle => exact congrArg Host.Outcome.next (colEnd_idle idle r)
  case off => exact congrArg Host.Outcome.next (colEnd_off off r)
  case joins => exact congrArg Host.Outcome.next (remoteArrival_joins lead fusing cameras inTime collects)
  case late => exact congrArg Host.Outcome.next (remoteArrival_late lead fusing cameras late later)
  case notLead => exact congrArg Host.Outcome.next (remoteArrival_nothing h r a)
  case replica => exact ⟨_, rfl, replicaArrival_shadow shadow r⟩
  case noReplica => exact congrArg Host.Outcome.next (replicaArrival_ignored notShadow r)

end Sys2Proof.Machine
end

section
/-!
Statement about the ring operations of Lookout (R238 to R242): what each does with a descriptor that passes or fails
its checks, the points of a lidar batch, and LKO_CTL (R243).
-/

namespace Sys2Proof.Machine

section
variable {c : OpRef} {s : State}

/-! ### CFG_LOAD and SENSOR_CFG (R241, R242) -/

section
variable (length : c.op.len = 128) (read : bufferOpen 0x23 false c.op.addr 128 s = true)
include length read

section
variable (free : s.lko.state = .empty ∨ s.lko.state = .loaded) {ws : List Word}
  (hw : ws = maskWords lkoCfgMask (leWords 32 (bufferOf c s)))
include free hw

theorem lkoCfgLoad_eq : lkoCfgLoad c s = (cfgFault ws).elim
    (finishOp c stOk 128 0 0 (setLkoState .loaded { s with lko.cfg := ws })) (fun w => lkoSchema c 128 1 0 w s) := by
  subst hw
  unfold lkoCfgLoad
  rw [needBuffer_passes _ (by omega), if_neg (not_not_intro length),
    if_neg (by rintro ⟨notEmpty, notLoaded⟩; exact free.elim notEmpty notLoaded),
    readWhole_open (length.symm ▸ read)]
  dsimp only
  split <;> next fault => rw [fault]; rfl

theorem lkoCfgLoad_loads (valid : cfgFault ws = none) : lkoCfgLoad c s =
    finishOp c stOk 128 0 0 (setLkoState .loaded { s with lko.cfg := ws }) := by
  rw [lkoCfgLoad_eq length read free hw, valid]
  rfl

theorem lkoCfgLoad_refused {w : Nat} (out : cfgFault ws = some w) : lkoCfgLoad c s =
    failOp c stSchema 128 (lkoErr c.op.opcode 1 0 w s) := by
  rw [lkoCfgLoad_eq length read free hw, out]
  rfl

end

/-- Input `old` configured with the words `ws`: its model stays where it is ALIGNED and time base and PERIOD stay, and
an input that is turned on starts at full score and weight. -/
def LkoInput.configured (old : LkoInput) (ws : List Word) : LkoInput :=
  let y : LkoInput := { old with cfg := ws }
  let keep := old.clock.st == .aligned && old.timebase != 0 && old.timebase == y.timebase && old.period == y.period
  let y := if keep then y else { y with clock := {} }
  if y.en && !old.en then { y with score := 255, unscored := false, weight := 32768 } else y

theorem sensorCfg_configures {k : Nat} (hk : k = bitsOf (c.op.word 6) 3 0) (sensor : k < 14)
    (loaded : s.lko.state = .loaded) {ws : List Word} (hw : ws = maskWords sensorMask (leWords 32 (bufferOf c s)))
    (valid : sensorFault k ws = none) :
    let y := (s.lin k).configured ws
    sensorCfg c s = finishOp c stOk 128 (wordOf y.clockCode) 0 (s.setLin k y) := by
  subst hk hw
  unfold sensorCfg
  rw [needBuffer_passes _ (by omega)]
  dsimp only
  rw [if_neg (not_not_intro length), if_neg (not_not_intro loaded), if_neg (Nat.not_le.2 sensor),
    readWhole_open (length.symm ▸ read), valid]
  rfl

end

/-! ### MODEL_LOAD and MODEL_DROP (R221, R239) -/

/-- The image that a MODEL_LOAD finds in its buffer. -/
def loadedModel (c : OpRef) (s : State) : ColModel := { addr := c.op.addr, header := leWords 64 (bufferOf c s) }

section
variable (length : 256 ≤ c.op.len) (read : bufferOpen 0x23 false c.op.addr c.op.len s = true)
  {m : ColModel} (hm : m = loadedModel c s) {slot : Nat} (hs : slot = bitsOf (m.word 1) 23 16)
include length read hm hs

theorem modelLoad_refused (unsound : headerOk m.header c.op.len = false) : modelLoad c s =
    failOp c stSchema c.op.len (lkoErr c.op.opcode 3 (slot % 16) 0 s) := by
  subst hs hm
  unfold loadedModel at unsound
  unfold modelLoad
  rw [needBuffer_passes _ (by omega), if_neg (Nat.not_lt.2 length), readWhole_open read]
  dsimp only
  rw [unsound]
  rfl

/-- A sound image with the CRCs of its header fills its slot, unless it would replace a model in use. -/
theorem modelLoad_loads (sound : headerOk m.header c.op.len = true)
    (free : Tab.find s.lko.models slot = none ∨ s.lko.state.running = false)
    (crc16 : crc32 (((bufferOf c s).drop 256).take (m.size false)) = m.crc false)
    (crc8 : m.hasInt8 = true → crc32 (((bufferOf c s).drop (256 + m.size false)).take (m.size true)) = m.crc true) :
    modelLoad c s = finishOp c stOk c.op.len (wordOf slot) (wordOf (oneIf m.hasInt8 * 2))
      { s with lko.models := Tab.put s.lko.models slot m } := by
  have notInUse : ¬ ((Tab.find s.lko.models slot).isSome ∧ s.lko.state.running = true) := by
    rintro ⟨held, running⟩
    rcases free with none | stopped
    · simp [none] at held
    · simp [stopped] at running
  have matching : ¬ (crc32 (((bufferOf c s).drop 256).take (m.size false)) ≠ m.crc false ∨
      (m.hasInt8 = true ∧ crc32 (((bufferOf c s).drop (256 + m.size false)).take (m.size true)) ≠ m.crc true)) := by
    rintro (wrong | ⟨int8, wrong⟩)
    · exact wrong crc16
    · exact wrong (crc8 int8)
  subst hs hm
  unfold loadedModel at *
  unfold modelLoad
  rw [needBuffer_passes _ (by omega), if_neg (Nat.not_lt.2 length), readWhole_open read]
  dsimp only at *
  rw [sound, if_neg (by decide), if_neg notInUse, if_neg matching]

end

theorem modelDrop_drops (stopped : s.lko.state.running = false) :
    let slot := bitsOf (c.op.word 6) 1 0
    modelDrop c s = finishOp c stOk 0 (wordOf slot) 0 { s with lko.models := Tab.del s.lko.models slot } :=
  if_neg (Bool.eq_false_iff.1 stopped)

theorem modelDrop_busy (running : s.lko.state.running = true) : modelDrop c s = failOp c stBusy 0 s := if_pos running

/-! ### START and STOP (R223, R232, R234) -/

section
variable (inTime : c.op.word64 6 = 0 ∨ s.t < c.op.word64 6) (loaded : s.lko.state = .loaded) (on : s.lko.en = true)
include inTime loaded on

/-- A start in time on a loaded block goes on to the checks of R223 and R234. -/
theorem lkoStart_eq : lkoStart c s = (startFault s).elim
    (finishOp c stOk 0 (wordOf ((startTick s (c.op.word64 6) + 39) / 40 + 1)) (wordOf (openDiv (colBudget s).2 1000))
      (lkoBegin (startTick s (c.op.word64 6)) s)) (fun reason => lkoSchema c 0 reason 0 0 s) := by
  unfold lkoStart
  dsimp only
  rw [if_neg (by omega), if_neg (by simp [loaded, on])]
  split <;> next fault => rw [fault]; rfl

theorem lkoStart_starts (passes : startFault s = none) :
    let t0 := startTick s (c.op.word64 6)
    lkoStart c s = finishOp c stOk 0 (wordOf ((t0 + 39) / 40 + 1)) (wordOf (openDiv (colBudget s).2 1000))
      (lkoBegin t0 s) := by
  rw [lkoStart_eq inTime loaded on, passes]
  rfl

theorem lkoStart_refused {reason : Nat} (breaks : startFault s = some reason) :
    lkoStart c s = failOp c stSchema 0 (lkoErr c.op.opcode reason 0 0 s) := by
  rw [lkoStart_eq inTime loaded on, breaks]
  rfl

end

/-- A stop of a running block ends it at the next epoch instant, or at the one that an earlier stop has named. -/
theorem lkoStop_stops (running : s.lko.state.running = true) : lkoStop c s =
    startOp c [] { s with lko.lastE := some (s.lko.lastE.getD (s.gts / epochLen + 1)) } := by
  unfold lkoStop lkoStopNow
  rw [running]
  rfl

theorem lkoStop_busy (stopped : s.lko.state.running = false) : lkoStop c s = failOp c stBusy 0 s :=
  if_pos (by simp [stopped])

/-! ### HEALTH_READ (R239) -/

/-- The records of all inputs. -/
def healthBytes (s : State) : List Byte := inputNumbers.flatMap fun n => healthRecord (s.lin n)

theorem healthRead_stores (length : c.op.len = 544)
    (written : bufferOpen 0x23 true c.op.addr (healthBytes s).length s = true) : healthRead c s =
      finishOp c stOk (healthBytes s).length (wordOf s.lko.lastEpoch) 0 (stored c (healthBytes s) s) := by
  unfold healthRead
  rw [needBuffer_passes _ (by omega), if_neg (not_not_intro length)]
  exact writeOut_open written

/-! ### LIDAR_PUT (R240) -/

theorem lidarPoints_length : ∀ (n : Nat) (bs : List Byte), (lidarPoints n bs).length = n
  | 0, _ => rfl
  | n + 1, bs => congrArg (· + 1) (lidarPoints_length n (bs.drop 16))

/-- Points placed one after another: as many are binned at most as there are. -/
theorem foldl_binned_le {α : Type} {f : State × Binned → α → State × Binned}
    (hf : ∀ r a, (f r a).2.binned ≤ r.2.binned + 1) :
    ∀ (ps : List α) (r : State × Binned), (ps.foldl f r).2.binned ≤ r.2.binned + ps.length
  | [], _ => Nat.le_refl _
  | p :: ps, r => by
    have rest := foldl_binned_le hf ps (f r p)
    have one := hf r p
    rw [List.foldl_cons, List.length_cons]
    omega

theorem foldl_placed_lkoFrame {α : Type} {f : State × Binned → α → State × Binned}
    (hf : ∀ r a, (f r a).1.lkoFrame = r.1.lkoFrame) :
    ∀ (ps : List α) (r : State × Binned), (ps.foldl f r).1.lkoFrame = r.1.lkoFrame
  | [], _ => rfl
  | p :: ps, r => (foldl_placed_lkoFrame hf ps (f r p)).trans (hf r p)

section
variable (i : Nat) (t : Rat) (pts : List (Word × Word × Word × Nat × Nat)) (s : State)

theorem binBatch_lkoFrame : (binBatch i t pts s).1.lkoFrame = s.lkoFrame :=
  foldl_placed_lkoFrame (fun _ _ => placePoint_lkoFrame ..) pts (s, {})

theorem binBatch_binned_le : (binBatch i t pts s).2.binned ≤ pts.length :=
  (foldl_binned_le (fun _ _ => placePoint_binned_le ..) pts (s, {})).trans (Nat.zero_add _).le

end

/-- The sensor time of a batch in ns: seconds and nanoseconds of its header. -/
def batchTime (bs : List Byte) : Rat :=
  ((leNat ((bs.drop 0).take 6) * 1000000000 + leNat ((bs.drop 6).take 4) : Nat) : Rat)

/-- The arrival GTS of a batch, from its header. -/
def batchArrival (bs : List Byte) : Nat := leNat ((bs.drop 16).take 8)

/-- The batch `bs` of lidar `i` feeds its model, and its `p` points are placed where the model is ALIGNED before and
after. -/
def batchPlaced (i p : Nat) (bs : List Byte) (s : State) : State × Binned :=
  let u := feedPair (12 + i) s.gts (batchTime bs) (batchArrival bs) s
  if (s.lin (12 + i)).aligned && (u.lin (12 + i)).aligned then
    binBatch i (batchTime bs) (lidarPoints p (bs.drop 32)) u
  else (u, {})

/-- Points that lie ahead of their arrival feed the model, and late and carried ones are counted and reported. -/
def batchTold (i : Nat) (bs : List Byte) (r : State × Binned) : State :=
  let u := if 0 < r.2.lead then feedEarly (12 + i) r.1.gts (batchTime bs) (batchArrival bs) r.2.lead r.1 else r.1
  noteCarried (12 + i) r.2.carried u.gts (dropLate (12 + i) r.2.late u.gts u)

theorem batchPlaced_lkoFrame (i p : Nat) (bs : List Byte) (s : State) :
    (batchPlaced i p bs s).1.lkoFrame = s.lkoFrame := by
  unfold batchPlaced
  dsimp only
  split
  · exact (binBatch_lkoFrame ..).trans (feedPair_lkoFrame ..)
  · exact feedPair_lkoFrame ..

theorem batchPlaced_binned_le (i p : Nat) (bs : List Byte) (s : State) : (batchPlaced i p bs s).2.binned ≤ p := by
  unfold batchPlaced
  dsimp only
  split
  · exact (binBatch_binned_le ..).trans (lidarPoints_length ..).le
  · exact Nat.zero_le p

theorem batchTold_lkoFrame (i : Nat) (bs : List Byte) (r : State × Binned) :
    (batchTold i bs r).lkoFrame = r.1.lkoFrame := by
  unfold batchTold
  extract_lets u
  have early : u.lkoFrame = r.1.lkoFrame := by
    unfold u
    split
    · exact feedEarly_lkoFrame ..
    · rfl
  exact (noteCarried_lkoFrame ..).trans ((dropLate_lkoFrame ..).trans early)

/-- A batch moves nothing outside Lookout. -/
theorem batchTold_batchPlaced_lkoFrame (i p : Nat) (bs : List Byte) (s : State) :
    (batchTold i bs (batchPlaced i p bs s)).lkoFrame = s.lkoFrame :=
  (batchTold_lkoFrame ..).trans (batchPlaced_lkoFrame ..)

section
variable {bs : List Byte} (hb : bs = bufferOf c s) {p i : Nat} (hp : p = leNat ((bs.drop 10).take 2))
  (hi : i = leNat ((bs.drop 12).take 1)) (length : c.op.len = 32 + 16 * p) (nonempty : 0 < p) (lidar : i < 2)
  (enabled : (s.lin (12 + i)).en = true) (clear13 : leNat ((bs.drop 13).take 3) = 0)
  (clear24 : leNat ((bs.drop 24).take 8) = 0) (running : s.lko.state.running = true)
  (read : bufferOpen 0x23 false c.op.addr c.op.len s = true)
include hb hp hi length nonempty lidar enabled clear13 clear24 running read

/-- A sound batch of an enabled lidar, while LKO runs, is placed and told, and answers its points binned and not. -/
theorem lidarPut_bins :
    let r := batchPlaced i p bs s
    lidarPut c s = finishOp c stOk c.op.len (wordOf r.2.binned) (wordOf (p - r.2.binned)) (batchTold i bs r) := by
  have sound : ¬ (p = 0 ∨ 2 ≤ i ∨ (!(s.lin (12 + i)).en) = true ∨ leNat ((bs.drop 13).take 3) ≠ 0 ∨
      leNat ((bs.drop 24).take 8) ≠ 0) := by
    rw [enabled, clear13, clear24]
    simp only [Bool.not_true, Bool.false_eq_true, ne_eq, not_true_eq_false, or_false]
    omega
  unfold lidarPut
  rw [needBuffer_passes _ (by omega), if_neg (by omega), readWhole_open read, ← hb]
  dsimp only
  simp only [← hp, ← hi]
  rw [if_neg (not_not_intro length), if_neg sound, if_neg (by simp [running])]
  rfl

/-- The results of a batch split its points, and memory, time and the load switches are as before. -/
theorem lidarPut_splits (stands : (s.ring c.ring).ops[c.idx]? = some c.op) :
    ∃ b, b ≤ p ∧ endsOk c (wordOf b) (wordOf (p - b)) (lidarPut c s) ∧
      (lidarPut c s).mem = s.mem ∧ (lidarPut c s).gts = s.gts ∧ (lidarPut c s).lsw = s.lsw := by
  rw [lidarPut_bins hb hp hi length nonempty lidar enabled clear13 clear24 running read]
  have frame := batchTold_batchPlaced_lkoFrame i p bs s
  have stays : ((batchTold i bs (batchPlaced i p bs s)).ring c.ring).ops[c.idx]? = some c.op := by
    unfold State.ring
    rw [hri_of_lkoFrame frame]
    exact stands
  exact ⟨_, batchPlaced_binned_le i p bs s, finishOp_ends stays, by rw [finishOp_mem, mem_of_lkoFrame frame],
    by rw [finishOp_gts, gts_of_lkoFrame frame], by rw [finishOp_lsw, lsw_of_lkoFrame frame]⟩

end

end

/-- Settles O37: each ring operation by its lemma, and LKO_CTL. -/
theorem lookoutOperationsFollowTheirChecks : Obligations.LookoutOperationsFollowTheirChecks := by
  refine ⟨fun n c s hn =>
    ⟨fun taken length free read => ⟨fun valid => ?config, fun w out => ?configRefused⟩,
      fun taken length loaded sensor read valid => ?sensor,
      fun taken length read => ⟨fun sound free crc16 crc8 => ?model, fun unsound => ?modelRefused⟩,
      fun taken => ⟨fun stopped => ?drop, fun running => ?dropBusy⟩,
      fun taken inTime loaded on => ⟨fun passes => ?start, fun reason breaks => ?startRefused⟩,
      fun taken => ⟨fun running => ?stop, fun stopped => ?stopBusy⟩,
      fun taken length written => ?health,
      fun taken length nonempty lidar enabled clear13 clear24 running read => ?batch,
      fun taken => ?outBuf, fun taken => ?featBuf⟩,
    fun a v s ho => congrArg Host.Outcome.next (gateWrite_open (blk := 7) (lkoCtlWrite v) ho)⟩
  case config =>
    exact congrArg Host.Outcome.next ((takeOp_at lkoCfgLoad n hn taken).trans
      (lkoCfgLoad_loads length read free rfl valid))
  case configRefused =>
    exact congrArg Host.Outcome.next ((takeOp_at lkoCfgLoad n hn taken).trans
      (lkoCfgLoad_refused length read free rfl out))
  case sensor =>
    exact congrArg Host.Outcome.next ((takeOp_at sensorCfg n hn taken).trans
      (sensorCfg_configures length read rfl sensor loaded rfl valid))
  case model =>
    exact congrArg Host.Outcome.next ((takeOp_at modelLoad n hn taken).trans
      (modelLoad_loads length read rfl rfl sound free crc16 crc8))
  case modelRefused =>
    exact congrArg Host.Outcome.next ((takeOp_at modelLoad n hn taken).trans
      (modelLoad_refused length read rfl rfl unsound))
  case drop => exact congrArg Host.Outcome.next ((takeOp_at modelDrop n hn taken).trans (modelDrop_drops stopped))
  case dropBusy => exact congrArg Host.Outcome.next ((takeOp_at modelDrop n hn taken).trans (modelDrop_busy running))
  case start =>
    exact congrArg Host.Outcome.next ((takeOp_at lkoStart n hn taken).trans (lkoStart_starts inTime loaded on passes))
  case startRefused =>
    exact congrArg Host.Outcome.next ((takeOp_at lkoStart n hn taken).trans (lkoStart_refused inTime loaded on breaks))
  case stop => exact congrArg Host.Outcome.next ((takeOp_at lkoStop n hn taken).trans (lkoStop_stops running))
  case stopBusy => exact congrArg Host.Outcome.next ((takeOp_at lkoStop n hn taken).trans (lkoStop_busy stopped))
  case health =>
    exact congrArg Host.Outcome.next ((takeOp_at healthRead n hn taken).trans (healthRead_stores length written))
  case batch =>
    obtain ⟨b, atMost, ends, mem, gts, lsw⟩ := lidarPut_splits rfl rfl rfl length nonempty lidar enabled clear13 clear24
      running read (takes_at taken).1
    exact ⟨_, b, congrArg Host.Outcome.next (takeOp_at lidarPut n hn taken), atMost, ends, mem, gts, lsw⟩
  case outBuf => exact congrArg Host.Outcome.next (takeOp_at (poolCheck blockSize) n hn taken)
  case featBuf => exact congrArg Host.Outcome.next (takeOp_at (poolCheck 2621504) n hn taken)

end Sys2Proof.Machine
end

section
/-!
SUPPORT. The channels and antenna ports of the GNSS baseband (09, R246 to R249): what entering a state does to a
channel, when each transition takes place, and what a port reads.
-/

namespace Sys2Proof.Machine

/-! ### A channel put back -/

@[simp] theorem State.setGch_self (s : State) (c : Nat) (x : GnbCh) : (s.setGch c x).gch c = x := Tab.get_put_self ..

theorem State.setGch_ne (s : State) {c d : Nat} (x : GnbCh) (h : d ≠ c) : (s.setGch c x).gch d = s.gch d :=
  Tab.get_put_ne _ _ _ h

/-! ### Entry into a state (R249) -/

/-- That the first channel coasts, or none any more, is reported and no more. -/
theorem coastEvent_frame (was : Nat) (s : State) : ∃ y q, coastEvent was s = { s with sys := y, recorder := q } := by
  unfold coastEvent
  dsimp only
  split
  · exact raiseEv_frame _ s
  · split
    · exact raiseEv_frame _ s
    · exact ⟨s.sys, s.recorder, rfl⟩

/-- The channel as it enters a state at tick `t`. -/
def GnbCh.entering (x : GnbCh) (st : GnbChState) (t : Nat) : GnbCh := { x with st := st, since := t, run := 0 }

section
variable (c : Nat) (st : GnbChState) (s : State)

theorem setChState_frame : ∃ y q,
    setChState c st s = { s.setGch c ((s.gch c).entering st s.t) with sys := y, recorder := q } :=
  coastEvent_frame ..

@[simp] theorem setChState_gch : (setChState c st s).gch c = (s.gch c).entering st s.t := by
  obtain ⟨y, q, entered⟩ := setChState_frame c st s
  rw [entered]
  exact s.setGch_self ..

theorem setChState_gch_ne {d : Nat} (h : d ≠ c) : (setChState c st s).gch d = s.gch d := by
  obtain ⟨y, q, entered⟩ := setChState_frame c st s
  rw [entered]
  exact s.setGch_ne _ h

@[simp] theorem setChState_t : (setChState c st s).t = s.t := by
  obtain ⟨y, q, entered⟩ := setChState_frame c st s
  rw [entered]
  rfl

end

/-! ### When a transition takes place (R249) -/

section
variable {c : Nat} {s : State}

theorem chDue_iff {st : GnbChState} {n : Nat} :
    chDue c st n s = true ↔ s.gnb.state = .run ∧ (s.gch c).st = st ∧ (s.gch c).since + n ≤ s.t := by
  simp [chDue, and_assoc]

theorem chRun_iff {st : GnbChState} {n : Nat} :
    chRun c st n s = true ↔ s.gnb.state = .run ∧ (s.gch c).st = st ∧ n ≤ (s.gch c).run := by
  simp [chRun, and_assoc]

theorem not_chDue_of_st {st : GnbChState} (n : Nat) (h : (s.gch c).st ≠ st) : ¬ chDue c st n s = true := fun due =>
  have ⟨_, hst, _⟩ := chDue_iff.1 due
  h hst

theorem not_chRun_of_st {st : GnbChState} (n : Nat) (h : (s.gch c).st ≠ st) : ¬ chRun c st n s = true := fun runs =>
  have ⟨_, hst, _⟩ := chRun_iff.1 runs
  h hst

section
variable (run : s.gnb.state = .run)
include run

theorem channelDetection_found (st : (s.gch c).st = .search) (entered : (s.gch c).since ≤ s.t) (code : Nat)
    (dop : Int) : channelDetection c code dop s = setChState c .pullIn (s.setGch c { s.gch c with
      codeT := (code : Rat) / 1000, codeRate := 0, phase := 0, accel := 0, rate := (dop : Rat) / 1000
      loop := (dop : Rat) / 1000, aidWas := 0, aidNow := 0, aidSlope := 0 }) :=
  if_pos (chDue_iff.2 ⟨run, st, entered⟩)

theorem pullInLock_locks (st : (s.gch c).st = .pullIn) (locked : 200 ≤ (s.gch c).run) :
    let u := setChState c .track s
    pullInLock c s = u.setGch c { u.gch c with lockT := s.t, slip := false } := by
  unfold pullInLock
  rw [if_pos (chRun_iff.2 ⟨run, st, locked⟩)]
  dsimp only
  rw [setChState_t]

section
variable (st : (s.gch c).st = .coast) (back : 20 ≤ (s.gch c).run) (inTime : s.t ≤ (s.gch c).since + s.gnb.coastT)
include st back inTime

theorem coastReacquire_agrees {phase : Int} (agrees : carrierCheck (s.gch c) phase = true) :
    coastReacquire c phase s = setChState c .track s := by
  unfold coastReacquire
  rw [if_pos ⟨chRun_iff.2 ⟨run, st, back⟩, inTime⟩]
  exact if_pos agrees

/-- A carrier that has slipped is tracked from its measured phase, with lock time anew. -/
theorem coastReacquire_slips {phase : Int} (slipped : carrierCheck (s.gch c) phase = false) :
    let u := setChState c .track s
    coastReacquire c phase s = u.setGch c { u.gch c with
      lockT := s.t, slip := true
      phase := (phase : Rat) / 65536 + ((u.gch c).phase - (phase : Rat) / 65536).floor } := by
  unfold coastReacquire
  rw [if_pos ⟨chRun_iff.2 ⟨run, st, back⟩, inTime⟩]
  dsimp only
  rw [if_neg (Bool.eq_false_iff.1 slipped), setChState_t]

end

end

theorem coastReacquire_nothing (st : (s.gch c).st ≠ .coast) (phase : Int) : coastReacquire c phase s = s :=
  if_neg fun ⟨runs, _⟩ => not_chRun_of_st 20 st runs

theorem trackLoss_nothing (h : (s.gch c).st ≠ .track ∨ (s.gch c).run < 20) : trackLoss c s = s :=
  if_neg fun runs =>
    have ⟨_, st, long⟩ := chRun_iff.1 runs
    h.elim (· st) (Nat.not_lt.2 long)

end

/-! ### The runs of ticks (R249) -/

section
variable {x : GnbCh} (g : Gnb) (c : CorrOut)

theorem GnbCh.counted_pullIn (st : x.st = .pullIn) : (x.counted g c).run = if c.lock then x.run + 1 else 0 := by
  simp [GnbCh.counted, st]

theorem GnbCh.counted_track (st : x.st = .track) :
    (x.counted g c).run = if c.cn0 < g.cn0Loss * 100 then x.run + 1 else 0 := by
  simp [GnbCh.counted, st]

theorem GnbCh.counted_coast (st : x.st = .coast) :
    (x.counted g c).run = if (g.cn0Loss + 3) * 100 ≤ c.cn0 then x.run + 1 else 0 := by
  simp [GnbCh.counted, st]

end

/-! ### The candidates (R247) -/

/-- The channel tracks a satellite more than two degrees below the mask. -/
def GnbCh.belowMask (x : GnbCh) (cands : List Cand) (g : Gnb) : Bool :=
  cands.any fun q => x.holds q && decide (q.elev < ((g.elevMask : Int) - 2) * 10)

theorem reexamine_due {s : State} (run : s.gnb.state = .run) (due : ∀ t, s.gnb.examT = some t → t + 1000 ≤ s.t)
    (cands : List Cand) : reexamine cands s =
      ((cands.filter (isCandidate s.gnb)).foldr insertCand []).foldl allocate
        (sweepCh (fun x => x.belowMask cands s.gnb) .idle { s with gnb.examT := some s.t }) := by
  unfold reexamine
  dsimp only
  cases exam : s.gnb.examT with
  | none => exact if_neg (by simp [run])
  | some t => exact if_neg (by simp [run, due t exam])

theorem reexamine_early {s : State} {t : Nat} (exam : s.gnb.examT = some t) (early : s.t < t + 1000)
    (cands : List Cand) : reexamine cands s = s := by
  unfold reexamine
  dsimp only
  rw [exam]
  exact if_pos (.inr (by simpa using early))

/-! ### Antenna ports (R246) -/

section
variable {two : Bool} {s : State}

theorem antennaChange_current (on : (s.ant two).bias = true) (mA : Nat) : antennaChange two mA false s =
    antState two (if mA < 2 + (Config.antOpen two).val then 2 else 1)
      (s.setAnt two { s.ant two with mA := mA % 2 ^ 14 }) := by
  simp [antennaChange, on]

/-- A port at its limit reads SHORT, with its bias off. -/
theorem antennaChange_limit (on : (s.ant two).bias = true) (mA : Nat) : antennaChange two mA true s =
    antState two 3 (s.setAnt two { s.ant two with mA := mA % 2 ^ 14, bias := false, shortT := s.t }) := by
  simp [antennaChange, on]

theorem antennaRetry_tries (short : (s.ant two).st = 3) (off : (s.ant two).bias = false)
    (waited : (s.ant two).shortT + 1000 ≤ s.t) :
    antennaRetry two s = s.setAnt two { s.ant two with bias := true } :=
  if_pos ⟨short, by simp [off], waited⟩

theorem antennaRetry_waits (h : (s.ant two).st ≠ 3 ∨ (s.ant two).bias = true ∨ s.t < (s.ant two).shortT + 1000) :
    antennaRetry two s = s :=
  if_neg fun ⟨short, off, waited⟩ => by
    obtain notShort | on | early := h
    · exact notShort short
    · simp [on] at off
    · omega

end

end Sys2Proof.Machine
end

section
/-!
Statement about the receiver (09): the transitions of its channels and ports (R246 to R249), the measurement instant
and the navigation messages (R252 to R257), the instants of the time mapping (R261 to R265), and two of its registers.
-/

namespace Sys2Proof.Machine

/-! ### The measurement instant (R252, R256) -/

section
variable {s : State} (m : MeasIn)

section
variable (run : s.gnb.state = .run) (divides : 0 < s.gnb.measDiv) (instant : s.t % s.gnb.measDiv = 0)
  (once : s.gnb.measT ≠ some s.t)
include run divides instant once

theorem measurementInstant_eq :
    let u : State := { s with gnb.measT := some s.t }
    measurementInstant m s = navInstant (boundaryOf s.t)
      (if u.overruns .gnss then { u with gnb.solSkip := countUp u.gnb.solSkip max32 }
        else measWork m (boundaryOf s.t) u) := by
  refine if_neg ?_
  rintro (h | h | h | h)
  · exact h run
  · omega
  · exact h instant
  · exact once h

theorem measurementInstant_commits (inTime : s.overruns .gnss = false) :
    let g := boundaryOf s.t
    measurementInstant m s = navInstant g (measBegin (measOut g (tmapInstant m g (solve m g (corrCheck g
      { s with gnb.measT := some s.t }))))) :=
  (measurementInstant_eq m run divides instant once).trans
    (congrArg (navInstant _) (if_neg (Bool.eq_false_iff.1 inTime)))

/-- Work that overruns counts as a skipped solution. -/
theorem measurementInstant_skips (late : s.overruns .gnss = true) : measurementInstant m s =
    navInstant (boundaryOf s.t)
      { s with gnb.measT := some s.t, gnb.solSkip := min (s.gnb.solSkip + 1) max32 } :=
  (measurementInstant_eq m run divides instant once).trans (congrArg (navInstant _) (if_pos late))

end

theorem measurementInstant_nothing (h : s.gnb.state ≠ .run ∨ s.t % s.gnb.measDiv ≠ 0 ∨ s.gnb.measT = some s.t) :
    measurementInstant m s = s :=
  if_pos (h.imp_right .inr)

end

/-! ### Navigation messages (R254, R255) -/

section
variable {s : State} {m : NavIn}

/-- The failures of a message counted. -/
def State.navCounted (s : State) (m : NavIn) : State :=
  { s with gnb.navFail := min (s.gnb.navFail + navFailures (s.gch m.chan).sig m) max32 }

/-- A message counted, and what it carries put to use where it passes. -/
def State.navHeard (s : State) (m : NavIn) : State :=
  if navUsed (s.gch m.chan).sig m then navTake (s.gch m.chan) m (s.navCounted m) else s.navCounted m

/-- The record of a message goes to its buffer, and is dropped without one. -/
def navPut (x : GnbCh) (m : NavIn) (u : State) : State :=
  match navTarget u with
  | none => { u with gnb.navDrop := u.gnb.navDrop + 1 }
  | some c => navWrite c (navRecord x m) u

theorem navPut_dropped {x : GnbCh} {u : State} (noBuffer : navTarget u = none) :
    navPut x m u = { u with gnb.navDrop := u.gnb.navDrop + 1 } := by
  unfold navPut
  rw [noBuffer]

theorem navPut_written {x : GnbCh} {u : State} {c : OpRef} (buffer : navTarget u = some c) :
    navPut x m u = navWrite c (navRecord x m) u := by
  unfold navPut
  rw [buffer]

theorem navMessage_heard (run : s.gnb.state = .run)
    (tracked : (s.gch m.chan).st = .track ∨ (s.gch m.chan).st = .coast) :
    navMessage m s = navPut (s.gch m.chan) m (s.navHeard m) := by
  refine if_neg ?_
  rintro (notRun | ⟨notTrack, notCoast⟩)
  · exact notRun run
  · exact tracked.elim notTrack notCoast

theorem navMessage_unheard (notTrack : (s.gch m.chan).st ≠ .track) (notCoast : (s.gch m.chan).st ≠ .coast) :
    navMessage m s = s := by
  unfold navMessage
  extract_lets
  exact if_pos (.inr ⟨notTrack, notCoast⟩)

end

/-! ### What adopting the own mapping leaves alone (R265) -/

@[simp] theorem tmapEvent_gnb (code g : Nat) (s : State) : (tmapEvent code g s).gnb = s.gnb := raiseEv_gnb ..
@[simp] theorem tmapEvent_mem (code g : Nat) (s : State) : (tmapEvent code g s).mem = s.mem := raiseEv_mem ..

theorem adoptOwn_own {s : State} (own : s.gnb.tmap.lead = none) (g : Nat) : adoptOwn g s = s := by
  unfold adoptOwn
  rw [own]

theorem adoptOwn_mem (g : Nat) (s : State) : (adoptOwn g s).mem = s.mem := by
  unfold adoptOwn
  split
  · rfl
  · split
    · rfl
    · dsimp only
      split
      · exact raiseAt_mem ..
      · split
        · exact raiseAt_mem ..
        · split
          · exact (tmapEvent_mem ..).trans (raiseAt_mem ..)
          · exact raiseAt_mem ..

/-! ### The PPS edge (R263) -/

/-- A rising edge at `g`: the mapping is carried on from there, the module's own adopted where it is due, and the pulse
given. -/
def risingEdge (g : Nat) (s : State) : State :=
  ppsAt g (adoptOwn g { s with gnb.tmap := s.gnb.tmap.renew g })

theorem risingEdge_mem (g : Nat) (s : State) : (risingEdge g s).mem = s.mem := adoptOwn_mem ..

theorem risingEdge_own {s : State} (own : s.gnb.tmap.lead = none) (g : Nat) :
    risingEdge g s = ppsAt g { s with gnb.tmap := s.gnb.tmap.renew g } :=
  congrArg (ppsAt g) (adoptOwn_own (s := { s with gnb.tmap := s.gnb.tmap.renew g }) own g)

section
variable {s : State}

/-- The next second of the module's own mapping, and its count. -/
def State.ownSecond (s : State) : Nat × Int :=
  secondAfter s.gnb.tmap.g0 s.gnb.tmap.t0 s.gnb.tmap.pace s.gnb.ppsOfs (s.gnb.tmap.earliest s.gts)

/-- The next second of the lead's mapping, and its count. -/
def State.leadSecond (s : State) (q : LeadMap) : Nat × Int :=
  secondAfter q.g0 (leadT0 q) (paceOf q.rate) s.gnb.ppsOfs (s.gnb.tmap.earliest s.gts)

theorem ppsEdge_own (own : s.gnb.tmap.lead = none) (mapped : s.gnb.tmap.st ≠ .none') (noStep : s.gnb.tmap.step = none) :
    ppsEdge s = s.reach s.ownSecond.1 (risingEdge s.ownSecond.1) := by
  unfold ppsEdge
  dsimp only
  rw [own]
  dsimp only
  rw [if_neg (by simp [mapped, noStep])]
  rfl

theorem ppsEdge_none (own : s.gnb.tmap.lead = none) (h : s.gnb.tmap.st = .none' ∨ s.gnb.tmap.step.isSome = true) :
    ppsEdge s = s := by
  unfold ppsEdge
  dsimp only
  rw [own]
  dsimp only
  rw [if_pos h]

theorem ppsEdge_lead {q : LeadMap} (lead : s.gnb.tmap.lead = some q) (sounds : q.quiet = false) :
    ppsEdge s = s.reach (s.leadSecond q).1 (risingEdge (s.leadSecond q).1) := by
  unfold ppsEdge
  dsimp only
  rw [lead]
  dsimp only
  rw [if_neg (Bool.eq_false_iff.1 sounds)]
  rfl

theorem ppsEdge_quiet {q : LeadMap} (lead : s.gnb.tmap.lead = some q) (quiet : q.quiet = true) : ppsEdge s = s := by
  unfold ppsEdge
  dsimp only
  rw [lead]
  dsimp only
  rw [if_pos quiet]

/-! ### The end of a slew (R262) -/

/-- The count at which the residual of a slew has come to 0. -/
def Tmap.slewEnd (m : Tmap) : Nat := m.resAt + m.resid.natAbs * 4000000

theorem slewComplete_slew (slew : s.gnb.tmap.st = .slew) :
    let m := s.gnb.tmap
    slewComplete s = s.reach m.slewEnd fun s => tmapEvent 5 m.slewEnd { s with gnb.tmap := { m with
      st := .locked, g0 := m.slewEnd, t0 := m.timeAt m.slewEnd, resid := 0, steer := 0 } } :=
  if_neg (not_not_intro slew)

/-! ### A step (R263) -/

/-- The count of the step `p` to come, a second of the mapping to be, and its time. -/
def State.stepSecond (s : State) (p : TmapStep) : Nat × Int :=
  secondAfter p.at' p.trueNs (paceOf s.gnb.tmap.rate) s.gnb.ppsOfs
    (max p.at' (s.gnb.tmap.edge.elim p.at' fun e => e + halfSecond))

/-- The mapping `m` after its step `p` at the count and time `q`. -/
def Tmap.afterStep (m : Tmap) (p : TmapStep) (q : Nat × Int) : Tmap :=
  { m with
    st := if p.hold then .holdover else .locked
    g0 := q.1, t0 := q.2, resid := 0, resAt := q.1, unc := p.unc, uncAt := q.1, step := none, steer := 0 }

/-- The step made: the new mapping, and on it the pulse and the report where the module's own mapping is in use. -/
def makeStep (m : Tmap) (p : TmapStep) (q : Nat × Int) (s : State) : State :=
  let u : State := { s with gnb.stepped := true, gnb.tmap := m.afterStep p q }
  if m.lead.isSome then u
  else raiseEv {
    gts := q.1, src := 353, code := 1, data := wordOfInt (sat32 (roundRat (-(p.delta : Rat) / 100))) } (ppsAt q.1 u)

theorem timeStep_some {p : TmapStep} (step : s.gnb.tmap.step = some p) :
    timeStep s = s.reach (s.stepSecond p).1 (makeStep s.gnb.tmap p (s.stepSecond p)) := by
  have from' : (match s.gnb.tmap.edge with | none => p.at' | some e => max p.at' (e + halfSecond)) =
      max p.at' (s.gnb.tmap.edge.elim p.at' fun e => e + halfSecond) := by
    cases s.gnb.tmap.edge <;> simp
  unfold timeStep State.stepSecond
  dsimp only
  rw [step, ← from']
  rfl

theorem timeStep_none (noStep : s.gnb.tmap.step = none) : timeStep s = s := by
  unfold timeStep
  dsimp only
  rw [noStep]

/-- What a step comes to in the mapping. -/
theorem makeStep_maps (m : Tmap) (p : TmapStep) (q : Nat × Int) (s : State) :
    let x := (makeStep m p q s).gnb
    x.tmap.st = (if p.hold then .holdover else .locked) ∧ x.tmap.g0 = q.1 ∧ x.tmap.t0 = q.2 ∧ x.tmap.step = none ∧
      (m.lead = none → x.tmap.edge = some q.1) ∧ x.stepped = true := by
  unfold makeStep
  dsimp only
  split
  case isTrue second => exact ⟨rfl, rfl, rfl, rfl, fun own => by simp [own] at second, rfl⟩
  case isFalse =>
    rw [raiseEv_gnb]
    exact ⟨rfl, rfl, rfl, rfl, fun _ => rfl, rfl⟩

end

/-! ### Registers (R248, R268) -/

section
variable {k : Nat} {v : Word} {s : State}

theorem spacingWrite_fits (h : 1 ≤ bitsOf v 6 0 ∧ bitsOf v 6 0 ≤ 64 ∧ 2 ≤ bitsOf v 31 24 ∧ bitsOf v 31 24 ≤ 128 ∧
    bitsOf v 6 0 < bitsOf v 31 24) : spacingWrite k v s =
      { s with gnb.spacing := Tab.put s.gnb.spacing k (v &&& (0xFFFF_FF7F : Word)) } := if_pos h

theorem spacingWrite_refused (h : bitsOf v 6 0 = 0 ∨ 64 < bitsOf v 6 0 ∨ bitsOf v 31 24 < 2 ∨ 128 < bitsOf v 31 24 ∨
    bitsOf v 31 24 ≤ bitsOf v 6 0) : spacingWrite k v s = { s with gnb.errLast := wordOf (65536 + k) } :=
  if_neg (by omega)

theorem gnbCtlWrite_on (on : bitOf v 31 = true) : gnbCtlWrite v s = { s with gnb.en := true } := by
  simp [gnbCtlWrite, on]

/-- EN 0 stops a running receiver at the next boundary. -/
theorem gnbCtlWrite_off (off : bitOf v 31 = false) (run : s.gnb.state = .run) (noStop : s.gnb.stopT = none) :
    gnbCtlWrite v s = { s with gnb.en := false, gnb.stopT := some (s.t + 1) } := by
  simp [gnbCtlWrite, gnbStopNow, off, run, noStop, State.t]

end

/-- Settles O38: each transition, instant and register by its lemma. -/
theorem receiverFollowsItsStatesAndInstants : Obligations.ReceiverFollowsItsStatesAndInstants := by
  refine ⟨⟨fun c s pd run =>
      ⟨fun st entered code dop => ?detects, fun st timed => ?searchEnds, fun st locked => ?locks,
        fun st timed => ?pullInEnds, fun st low => ?loses,
        fun st back inTime phase => ⟨fun agrees => ?agrees, fun slipped => ?slips⟩, fun st timed => ?coastEnds,
        fun st => ⟨fun code dop => ?noDetection, ?noSearchEnd⟩, fun st => ⟨?noLock, ?noPullInEnd⟩, fun h => ?noLoss,
        fun st => ⟨?noCoastEnd, fun phase => ?noReacquire⟩⟩,
      fun x g c => ⟨GnbCh.counted_pullIn g c, GnbCh.counted_track g c, GnbCh.counted_coast g c⟩,
      fun c st s => ?entry,
      fun cands s pd run => ⟨fun due => ?examines, fun t exam early => ?examinesLater⟩,
      fun two mA s pd => ⟨fun on => ⟨?current, ?limit⟩, fun short off waited => ?retries, fun h => ?waits⟩⟩,
    fun m s pd => ⟨fun run divides instant once => ⟨fun inTime => ?commits, fun late => ?skips⟩, fun h => ?noInstant⟩,
    fun m s pd => ⟨fun run tracked => ⟨fun noBuffer => ?dropped, fun c buffer => ?written⟩,
      fun notTrack notCoast => ?unheard⟩,
    fun s pd => ⟨fun own mapped noStep => ⟨fun inTick => ?edge, fun later => ?edgeLater⟩, fun own h => ?noEdge,
      fun q lead sounds => ⟨fun inTick => ?leadEdge, fun later => ?leadEdgeLater⟩, fun q lead quiet => ?quiet,
      fun slew => ⟨fun inTick => ?slewEnds, fun later => ?slewGoesOn⟩, fun noSlew => ?noSlew,
      fun p step => ⟨fun inTick => ?step, fun later => ?stepLater⟩, fun noStep => ?noStep⟩,
    fun a v s ho => ⟨fun k => ⟨fun el el64 vel vel128 below => ?spacing, fun h => ?spacingRefused⟩,
      fun on => ?enables, fun off run noStop => ?stops⟩⟩
  case detects => exact whileOn_next pd (channelDetection_found run st entered code dop)
  case searchEnds => exact whileOn_next pd (if_pos (chDue_iff.2 ⟨run, st, timed⟩))
  case locks => exact whileOn_next pd (pullInLock_locks run st locked)
  case pullInEnds => exact whileOn_next pd (if_pos (chDue_iff.2 ⟨run, st, timed⟩))
  case loses => exact whileOn_next pd (if_pos (chRun_iff.2 ⟨run, st, low⟩))
  case agrees => exact whileOn_next pd (coastReacquire_agrees run st back inTime agrees)
  case slips =>
    exact ⟨_, whileOn_next pd (coastReacquire_slips run st back inTime slipped), by rw [setChState_gch]; rfl, rfl, rfl⟩
  case coastEnds => exact whileOn_next pd (if_pos (chDue_iff.2 ⟨run, st, timed⟩))
  case noDetection => exact whileOn_next pd (if_neg (not_chDue_of_st 0 st))
  case noSearchEnd => exact whileOn_next pd (if_neg (not_chDue_of_st 4000 st))
  case noLock => exact whileOn_next pd (if_neg (not_chRun_of_st 200 st))
  case noPullInEnd => exact whileOn_next pd (if_neg (not_chDue_of_st 1000 st))
  case noLoss => exact whileOn_next pd (trackLoss_nothing h)
  case noCoastEnd => exact whileOn_next pd (if_neg (not_chDue_of_st s.gnb.coastT st))
  case noReacquire => exact whileOn_next pd (coastReacquire_nothing st phase)
  case entry =>
    have own := setChState_gch c st s
    obtain ⟨y, q, entered⟩ := setChState_frame c st s
    refine ⟨congrArg GnbCh.st own, congrArg GnbCh.since own, congrArg GnbCh.run own,
      fun d => setChState_gch_ne c st s, ?_⟩
    rw [entered]
    exact ⟨rfl, rfl, rfl, rfl, rfl, rfl, rfl, rfl, rfl, rfl⟩
  case examines => exact whileOn_next pd (reexamine_due run due cands)
  case examinesLater => exact whileOn_next pd (reexamine_early exam early cands)
  case current => exact whileOn_next pd (antennaChange_current on mA)
  case limit => exact whileOn_next pd (antennaChange_limit on mA)
  case retries => exact whileOn_next pd (antennaRetry_tries short off waited)
  case waits => exact whileOn_next pd (antennaRetry_waits h)
  case commits => exact whileOn_next pd (measurementInstant_commits m run divides instant once inTime)
  case skips => exact whileOn_next pd (measurementInstant_skips m run divides instant once late)
  case noInstant => exact whileOn_next pd (measurementInstant_nothing m h)
  case dropped => exact whileOn_next pd ((navMessage_heard run tracked).trans (navPut_dropped noBuffer))
  case written => exact whileOn_next pd ((navMessage_heard run tracked).trans (navPut_written buffer))
  case unheard => exact whileOn_next pd (navMessage_unheard notTrack notCoast)
  case edge =>
    refine ⟨_, whileOn_next pd ((ppsEdge_own own mapped noStep).trans (s.reach_inTick _ inTick)), rfl, rfl, ?_, ?_⟩
    · rw [risingEdge_own (by simpa using own)]
      rfl
    · exact (risingEdge_mem ..).trans (State.advance_mem ..)
  case edgeLater =>
    exact whileOn_next pd ((ppsEdge_own own mapped noStep).trans (if_neg (Nat.not_lt.2 later)))
  case noEdge => exact whileOn_next pd (ppsEdge_none own h)
  case leadEdge =>
    exact ⟨_, whileOn_next pd ((ppsEdge_lead lead sounds).trans (s.reach_inTick _ inTick)), rfl, rfl,
      (risingEdge_mem ..).trans (State.advance_mem ..)⟩
  case leadEdgeLater => exact whileOn_next pd ((ppsEdge_lead lead sounds).trans (if_neg (Nat.not_lt.2 later)))
  case quiet => exact whileOn_next pd (ppsEdge_quiet lead quiet)
  case slewEnds =>
    exact ⟨_, whileOn_next pd ((slewComplete_slew slew).trans (s.reach_inTick _ inTick)),
      congrArg Gnb.tmap (tmapEvent_gnb ..)⟩
  case slewGoesOn => exact whileOn_next pd ((slewComplete_slew slew).trans (if_neg (Nat.not_lt.2 later)))
  case noSlew => exact whileOn_next pd (if_pos noSlew)
  case step =>
    exact ⟨_, whileOn_next pd ((timeStep_some step).trans (s.reach_inTick _ inTick)), makeStep_maps ..⟩
  case stepLater => exact whileOn_next pd ((timeStep_some step).trans (if_neg (Nat.not_lt.2 later)))
  case noStep => exact whileOn_next pd (timeStep_none noStep)
  case spacing =>
    exact congrArg Host.Outcome.next ((gateWrite_open (spacingWrite k v) ho).trans
      (spacingWrite_fits ⟨el, el64, vel, vel128, below⟩))
  case spacingRefused =>
    exact congrArg Host.Outcome.next ((gateWrite_open (spacingWrite k v) ho).trans (spacingWrite_refused h))
  case enables => exact congrArg Host.Outcome.next ((gateWrite_open (gnbCtlWrite v) ho).trans (gnbCtlWrite_on on))
  case stops =>
    exact congrArg Host.Outcome.next ((gateWrite_open (gnbCtlWrite v) ho).trans (gnbCtlWrite_off off run noStop))

end Sys2Proof.Machine
end

section
/-!
Statement about the ring operations of the GNSS baseband (09, R259, R268 to R271): the configuration, start and stop,
assistance, the snapshots and corrections, each with its checks.
-/

namespace Sys2Proof.Machine

section
variable {c : OpRef} {s : State}

/-! ### CFG_LOAD (R270, R271) -/

section
variable (length : c.op.len = 128)
include length

theorem gnbCfgLoad_busy (run : s.gnb.state = .run) : gnbCfgLoad c s = failOp c stBusy 0 s := by
  unfold gnbCfgLoad
  rw [needBuffer_passes _ (by omega), if_neg (not_not_intro length), if_pos run]

section
variable (notRun : s.gnb.state ≠ .run) (read : bufferOpen 0x25 false c.op.addr 128 s = true) {ws : List Word}
  (hw : ws = maskWords gnbCfgMask (leWords 32 (bufferOf c s)))
include notRun read hw

theorem gnbCfgLoad_eq : gnbCfgLoad c s = (gnbFault ws).elim
    (finishOp c stOk 128 0 0 { s with gnb.cfg := ws, gnb.state := .loaded })
    (fun e => gnbSchema c 128 e.1 e.2 s) := by
  subst hw
  unfold gnbCfgLoad
  rw [needBuffer_passes _ (by omega), if_neg (not_not_intro length), if_neg notRun,
    readWhole_open (length.symm ▸ read)]
  dsimp only
  split <;> next fault => rw [fault]; rfl

theorem gnbCfgLoad_loads (valid : gnbFault ws = none) : gnbCfgLoad c s =
    finishOp c stOk 128 0 0 { s with gnb.cfg := ws, gnb.state := .loaded } := by
  rw [gnbCfgLoad_eq length notRun read hw, valid]
  rfl

theorem gnbCfgLoad_refused {reason w : Nat} (out : gnbFault ws = some (reason, w)) : gnbCfgLoad c s =
    failOp c stSchema 128 (gnbErr c.op.opcode reason w s) := by
  rw [gnbCfgLoad_eq length notRun read hw, out]
  rfl

end

end

/-! ### START and STOP (R268, R270) -/

theorem gnbStart_late (named : c.op.word64 6 ≠ 0) (past : c.op.word64 6 ≤ s.t) :
    gnbStart c s = failOp c stLate 0 s := if_pos ⟨named, past⟩

section
variable (inTime : c.op.word64 6 = 0 ∨ s.t < c.op.word64 6)
include inTime

theorem gnbStart_inTime : gnbStart c s =
    if s.gnb.state ≠ .loaded ∨ !s.gnb.en then failOp c stBusy 0 s
    else finishOp c stOk 0 (wordOf (startTick s (c.op.word64 6))) 0
      { s with gnb.startT := some (startTick s (c.op.word64 6)) } := if_neg (by omega)

theorem gnbStart_busy (h : s.gnb.state ≠ .loaded ∨ s.gnb.en = false) : gnbStart c s = failOp c stBusy 0 s :=
  (gnbStart_inTime inTime).trans (if_pos (by simpa using h))

theorem gnbStart_starts (loaded : s.gnb.state = .loaded) (on : s.gnb.en = true) : gnbStart c s =
    finishOp c stOk 0 (wordOf (startTick s (c.op.word64 6))) 0
      { s with gnb.startT := some (startTick s (c.op.word64 6)) } :=
  (gnbStart_inTime inTime).trans (if_neg (by simp [loaded, on]))

end

/-- A stop takes effect at the next boundary, or at the one that an earlier stop has named. -/
theorem gnbStop_stops (run : s.gnb.state = .run) : gnbStop c s =
    startOp c [] { s with gnb.stopT := some (s.gnb.stopT.getD (s.t + 1)) } := by
  unfold gnbStop gnbStopNow
  rw [if_neg (not_not_intro run), if_pos run]

theorem gnbStop_busy (notRun : s.gnb.state ≠ .run) : gnbStop c s = failOp c stBusy 0 s := if_pos notRun

/-! ### ASSIST_PUT (R270) -/

/-- The reserved bytes of a record are 0. -/
def assistClear (r : List Byte) : Bool := (r.drop 3).take 5 == zeros 5

section
variable (whole : c.op.len % 64 = 0) (least : 64 ≤ c.op.len) (most : c.op.len ≤ 32768)
  (read : bufferOpen 0x25 false c.op.addr c.op.len s = true) {rs : List (List Byte)}
  (hr : rs = records64 (c.op.len / 64) (bufferOf c s))
include whole least most read hr

theorem assistPut_eq :
    let used := rs.filter assistKnown
    assistPut c s = if rs.any fun r => !assistClear r then gnbSchema c c.op.len 3 0 s
      else finishOp c stOk c.op.len (wordOf used.length) (wordOf (c.op.len / 64 - used.length))
        (used.foldl assistTake s) := by
  subst hr
  unfold assistPut
  rw [needBuffer_passes _ (by omega)]
  dsimp only
  rw [if_neg (by omega), readWhole_open read]
  rfl

theorem assistPut_takes (clear : ∀ r ∈ rs, (r.drop 3).take 5 = zeros 5) :
    let used := rs.filter assistKnown
    assistPut c s = finishOp c stOk c.op.len (wordOf used.length) (wordOf (c.op.len / 64 - used.length))
      (used.foldl assistTake s) :=
  (assistPut_eq whole least most read hr).trans (if_neg (by simpa [assistClear] using clear))

theorem assistPut_refused (marked : ∃ r ∈ rs, (r.drop 3).take 5 ≠ zeros 5) : assistPut c s =
    failOp c stSchema c.op.len (gnbErr c.op.opcode 3 0 s) :=
  (assistPut_eq whole least most read hr).trans (if_pos (by simpa [assistClear] using marked))

end

/-! ### SNAP_LIST and SNAP_READ (R267, R270) -/

/-- The list of the snapshot area, newest first. -/
def snapListBytes (s : State) : List Byte :=
  fitBytes 1024 (s.biv.area.reverse.flatMap fun x => leBytes 4 x.serial ++ leBytes 4 x.pcc)

theorem snapList_stores (length : c.op.len = 1024)
    (written : bufferOpen 0x25 true c.op.addr (snapListBytes s).length s = true) :
    let newest := s.biv.area.reverse
    snapList c s = finishOp c stOk (snapListBytes s).length (wordOf newest.length)
      ((newest.head?.map fun x => wordOf x.serial).getD Config.noSnapshot) (stored c (snapListBytes s) s) := by
  unfold snapList
  rw [needBuffer_passes _ (by omega), if_neg (not_not_intro length)]
  refine (writeOut_open written).trans ?_
  cases s.biv.area.reverse <;> rfl

/-- The snapshot that a SNAP_READ names. -/
def namedSnap (c : OpRef) (s : State) : Option Snap := s.biv.area.find? fun x => wordOf x.serial == c.op.word 6

section
variable (length : c.op.len = 32832)
include length

theorem snapRead_stores {x : Snap} (found : namedSnap c s = some x)
    (written : bufferOpen 0x25 true c.op.addr (fitBytes 32832 x.bytes).length s = true) : snapRead c s =
      finishOp c stOk (fitBytes 32832 x.bytes).length (c.op.word 6) 0 (stored c (fitBytes 32832 x.bytes) s) := by
  unfold namedSnap at found
  unfold snapRead
  rw [needBuffer_passes _ (by omega), if_neg (not_not_intro length), found]
  exact writeOut_open written

theorem snapRead_refused (unknown : namedSnap c s = none) : snapRead c s =
    failOp c stSchema 0 (gnbErr c.op.opcode 1 0 s) := by
  unfold namedSnap at unknown
  unfold snapRead
  rw [needBuffer_passes _ (by omega), if_neg (not_not_intro length), unknown]
  rfl

end

/-! ### CORR_PUT (R259, R270) -/

/-- The bytes of a part that is a whole frame and passed. -/
def Rtcm.passed : Rtcm → Option (List Byte)
  | .frame f => some f
  | .rejected | .loose => none

/-- The parts that count as rejected. -/
def rejectedParts (fs : List Rtcm) : List Rtcm := fs.filter fun x => x == .rejected || x == .loose

/-- Every part is a frame that passed or counts as rejected. -/
theorem passed_add_rejected : ∀ fs : List Rtcm,
    (fs.filterMap Rtcm.passed).length + (rejectedParts fs).length = fs.length
  | [] => rfl
  | .frame _ :: fs => by
    have rest := passed_add_rejected fs
    simp only [rejectedParts] at rest ⊢
    simp [Rtcm.passed, ← rest]
    omega
  | .rejected :: fs => congrArg (· + 1) (passed_add_rejected fs)
  | .loose :: fs => congrArg (· + 1) (passed_add_rejected fs)

/-- What a frame put to use leaves alone. -/
structure CorrFrame where
  corrOk : Nat
  corrBad : Nat
  ch : Tab GnbCh
  gts : Nat
  hri : Hri

/-- The frame of a state. -/
def State.corrFrame (s : State) : CorrFrame := ⟨s.gnb.corrOk, s.gnb.corrBad, s.gnb.ch, s.gts, s.hri⟩

@[simp] theorem raise_corrFrame (src code d : Nat) (s : State) : (raise src code d s).corrFrame = s.corrFrame := by
  simp [State.corrFrame]

theorem rtcmTake_corrFrame (s : State) (f : List Byte) : (rtcmTake s f).corrFrame = s.corrFrame := by
  unfold rtcmTake
  dsimp only
  split
  · rfl
  · split
    · rfl
    · split
      · rfl
      · split
        · exact raise_corrFrame ..
        · rfl

/-- The frames counted. -/
def State.corrCounted (s : State) (good bad : Nat) : State :=
  { s with gnb.corrOk := min (s.gnb.corrOk + good) 0xFFFF, gnb.corrBad := min (s.gnb.corrBad + bad) 0xFFFF }

section
variable (least : 6 ≤ c.op.len) (most : c.op.len ≤ 65536)
include least most

theorem corrPut_busy (notRun : s.gnb.state ≠ .run) : corrPut c s = failOp c stBusy 0 s := by
  unfold corrPut
  rw [needBuffer_passes _ (by omega), if_neg (by omega), if_pos notRun]

section
variable (run : s.gnb.state = .run) (read : bufferOpen 0x25 false c.op.addr c.op.len s = true) {fs : List Rtcm}
  (hf : fs = cutRtcm c.op.len (bufferOf c s))
include run read hf

theorem corrPut_eq :
    let good := fs.filterMap Rtcm.passed
    let bad := fs.length - good.length
    corrPut c s = finishOp c stOk c.op.len (wordOf good.length) (wordOf bad)
      (good.foldl rtcmTake (s.corrCounted good.length bad)) := by
  have bytes : (bufferOf c s).length = c.op.len := Memory.getMany_length ..
  subst hf
  unfold corrPut
  rw [needBuffer_passes _ (by omega), if_neg (by omega), if_neg (not_not_intro run), readWhole_open read, bytes]
  rfl

/-- The frames that pass are put to use, and both kinds are counted. -/
theorem corrPut_counts (stands : (s.ring c.ring).ops[c.idx]? = some c.op) {bad : Nat}
    (hb : bad = (rejectedParts fs).length) :
    endsOk c (wordOf (fs.length - bad)) (wordOf bad) (corrPut c s) ∧
      (corrPut c s).gnb.corrOk = min (s.gnb.corrOk + (fs.length - bad)) 0xFFFF ∧
      (corrPut c s).gnb.corrBad = min (s.gnb.corrBad + bad) 0xFFFF ∧
      (corrPut c s).gts = s.gts ∧ (corrPut c s).gnb.ch = s.gnb.ch := by
  have parts := passed_add_rejected fs
  have hg : (fs.filterMap Rtcm.passed).length = fs.length - bad := by omega
  have hn : fs.length - (fs.length - bad) = bad := by omega
  rw [corrPut_eq least most run read hf, hg, hn, finishOp_gnb, finishOp_gts]
  have frame := foldl_keeps State.corrFrame rtcmTake_corrFrame (fs.filterMap Rtcm.passed)
    (s.corrCounted (fs.length - bad) bad)
  generalize (fs.filterMap Rtcm.passed).foldl rtcmTake _ = u at frame ⊢
  have hri : u.hri = s.hri := congrArg CorrFrame.hri frame
  have stays : (u.ring c.ring).ops[c.idx]? = some c.op := by
    unfold State.ring
    rw [hri]
    exact stands
  exact ⟨finishOp_ends stays, congrArg CorrFrame.corrOk frame, congrArg CorrFrame.corrBad frame,
    congrArg CorrFrame.gts frame, congrArg CorrFrame.ch frame⟩

end

end

end

/-- Settles O39: each ring operation by its lemma. -/
theorem gnssOperationsFollowTheirChecks : Obligations.GnssOperationsFollowTheirChecks := by
  refine fun n c s hn =>
    ⟨fun taken length => ⟨fun run => ?configBusy,
        fun notRun read => ⟨fun valid => ?config, fun reason w out => ?configRefused⟩⟩,
      fun taken => ⟨fun named past => ?late, fun inTime h => ?startBusy, fun inTime loaded on => ?start⟩,
      fun taken => ⟨fun run => ?stop, fun notRun => ?stopBusy⟩,
      fun taken whole least most read => ⟨fun clear => ?assist, fun marked => ?assistRefused⟩,
      fun taken length written => ?list,
      fun taken length => ⟨fun x found written => ?read, fun unknown => ?readRefused⟩,
      fun taken least most => ⟨fun notRun => ?corrBusy, fun run read => ?corr⟩,
      fun taken => ?measBuf, fun taken => ?navBuf⟩
  case configBusy =>
    exact congrArg Host.Outcome.next ((takeOp_at gnbCfgLoad n hn taken).trans (gnbCfgLoad_busy length run))
  case config =>
    exact congrArg Host.Outcome.next ((takeOp_at gnbCfgLoad n hn taken).trans
      (gnbCfgLoad_loads length notRun read rfl valid))
  case configRefused =>
    exact congrArg Host.Outcome.next ((takeOp_at gnbCfgLoad n hn taken).trans
      (gnbCfgLoad_refused length notRun read rfl out))
  case late => exact congrArg Host.Outcome.next ((takeOp_at gnbStart n hn taken).trans (gnbStart_late named past))
  case startBusy => exact congrArg Host.Outcome.next ((takeOp_at gnbStart n hn taken).trans (gnbStart_busy inTime h))
  case start =>
    exact congrArg Host.Outcome.next ((takeOp_at gnbStart n hn taken).trans (gnbStart_starts inTime loaded on))
  case stop => exact congrArg Host.Outcome.next ((takeOp_at gnbStop n hn taken).trans (gnbStop_stops run))
  case stopBusy => exact congrArg Host.Outcome.next ((takeOp_at gnbStop n hn taken).trans (gnbStop_busy notRun))
  case assist =>
    exact congrArg Host.Outcome.next ((takeOp_at assistPut n hn taken).trans
      (assistPut_takes whole least most read rfl clear))
  case assistRefused =>
    exact congrArg Host.Outcome.next ((takeOp_at assistPut n hn taken).trans
      (assistPut_refused whole least most read rfl marked))
  case list =>
    exact congrArg Host.Outcome.next ((takeOp_at snapList n hn taken).trans (snapList_stores length written))
  case read =>
    exact congrArg Host.Outcome.next ((takeOp_at snapRead n hn taken).trans (snapRead_stores length found written))
  case readRefused =>
    exact congrArg Host.Outcome.next ((takeOp_at snapRead n hn taken).trans (snapRead_refused length unknown))
  case corrBusy =>
    exact congrArg Host.Outcome.next ((takeOp_at corrPut n hn taken).trans (corrPut_busy least most notRun))
  case corr =>
    exact ⟨_, congrArg Host.Outcome.next (takeOp_at corrPut n hn taken),
      corrPut_counts least most run read rfl (takes_at taken).1 rfl⟩
  case measBuf => exact congrArg Host.Outcome.next (takeOp_at (poolCheck 8256) n hn taken)
  case navBuf => exact congrArg Host.Outcome.next (takeOp_at (poolCheck 4096) n hn taken)

end Sys2Proof.Machine
end

section
/-!
SUPPORT. Tables by index: what a search finds, and tables that list each index once, in rising order.
-/

namespace Sys2Proof

section
variable {α β : Type} {t : Tab α}

theorem Tab.get_eq_find (d : α) (k : Nat) : ∀ t : Tab α, Tab.get d t k = (Tab.find t k).getD d
  | [] => rfl
  | (j, v) :: r => by
    by_cases h : k = j
    · simp [Tab.get, Tab.find, h]
    · simp [Tab.get, Tab.find, h, Tab.get_eq_find d k r]

theorem Tab.find_eq_none {k : Nat} (absent : ∀ e ∈ t, e.1 ≠ k) : Tab.find t k = none := by
  induction t with
  | nil => rfl
  | cons e r ih =>
    obtain ⟨head, tail⟩ := List.forall_mem_cons.1 absent
    exact (if_neg head.symm).trans (ih tail)

theorem Tab.find_put_self (k : Nat) (v : α) : ∀ t : Tab α, Tab.find (Tab.put t k v) k = some v
  | [] => if_pos rfl
  | (j, w) :: r => by
    unfold Tab.put
    split
    · exact if_pos rfl
    · next other =>
      split
      · exact if_pos rfl
      · exact (if_neg other).trans (Tab.find_put_self k v r)

theorem Tab.mem_put {k : Nat} {v : α} {e : Nat × α} : ∀ {t : Tab α}, e ∈ Tab.put t k v → e = (k, v) ∨ e ∈ t
  | [], h => .inl (List.mem_singleton.1 h)
  | (j, w) :: r, h => by
    unfold Tab.put at h
    split at h
    · exact (List.mem_cons.1 h).imp_right (List.mem_cons_of_mem _)
    · split at h
      · exact List.mem_cons.1 h
      · obtain rfl | h := List.mem_cons.1 h
        · exact .inr List.mem_cons_self
        · exact (Tab.mem_put h).imp_right (List.mem_cons_of_mem _)

/-- The table lists each index once, in rising order. -/
def Tab.Rising (t : Tab α) : Prop := t.Pairwise fun a b => a.1 < b.1

theorem Tab.Rising.filter (h : t.Rising) (p : Nat × α → Bool) : Tab.Rising (t.filter p) := List.Pairwise.filter p h

theorem Tab.Rising.map {f : Nat × α → Nat × β} (h : t.Rising) (keeps : ∀ e, (f e).1 = e.1) : Tab.Rising (t.map f) :=
  List.pairwise_map.2 (h.imp fun {a b} lt => by rw [keeps a, keeps b]; exact lt)

theorem Tab.Rising.put (h : t.Rising) (k : Nat) (v : α) : Tab.Rising (Tab.put t k v) := by
  induction t with
  | nil => exact List.pairwise_singleton ..
  | cons e r ih =>
    obtain ⟨above, rest⟩ := List.pairwise_cons.1 h
    unfold Tab.put
    split
    · next same => exact List.pairwise_cons.2 ⟨same ▸ above, rest⟩
    · next other =>
      split
      · next below =>
        refine List.pairwise_cons.2 ⟨fun x hx => ?_, h⟩
        obtain rfl | hx := List.mem_cons.1 hx
        · exact below
        · exact below.trans (above x hx)
      · next notBelow =>
        refine List.pairwise_cons.2 ⟨fun x hx => ?_, ih rest⟩
        obtain rfl | hx := Tab.mem_put hx
        · show e.1 < k
          omega
        · exact above x hx

theorem Tab.Rising.find_of_mem (h : t.Rising) {e : Nat × α} (listed : e ∈ t) : Tab.find t e.1 = some e.2 := by
  induction t with
  | nil => cases listed
  | cons x r ih =>
    obtain ⟨above, rest⟩ := List.pairwise_cons.1 h
    obtain rfl | listed := List.mem_cons.1 listed
    · exact if_pos rfl
    · exact (if_neg (above e listed).ne').trans (ih rest listed)

/-- An index tells the entry. -/
theorem Tab.Rising.entry_eq (h : t.Rising) {a b : Nat × α} (ha : a ∈ t) (hb : b ∈ t) (same : a.1 = b.1) : a = b :=
  Prod.ext same (Option.some.inj ((h.find_of_mem ha).symm.trans (same ▸ h.find_of_mem hb)))

end

end Sys2Proof
end

section
/-!
Statement about the attribution of the yield service (11, R295 and R296): what the mass of a step, divided over its
window, leaves in the cut history and in the totals.
-/

namespace Sys2Proof.Machine

section
variable {i : Nat} {q : Rat} {m : Option Rat} {slow : Bool} {y : Yld}

/-! ### The window of a sensed step -/

/-- Cut step `j` lies in the window of sensed step `i`. -/
def Yld.reaches (y : Yld) (i j : Nat) : Bool :=
  decide (j + y.delay ≤ i + y.spread) && decide (i ≤ j + y.delay + y.spread)

theorem Yld.reaches_iff {j : Nat} :
    y.reaches i j = true ↔ j + y.delay ≤ i + y.spread ∧ i ≤ j + y.delay + y.spread := by
  simp [Yld.reaches]

/-- h × c of a cut step. -/
def Yld.weight (y : Yld) (i : Nat) (e : Nat × YldStep) : Rat :=
  (kernel y.spread y.delay (i - e.1) : Rat) * e.2.c

/-- The sum of h × c over the window. -/
def Yld.cropSum (y : Yld) (i : Nat) : Rat := ((window y i).map fun e => e.2).sum

theorem Yld.cropSum_eq : y.cropSum i = ((y.hist.filter fun e => y.reaches i e.1).map (y.weight i)).sum := by
  unfold Yld.cropSum window
  rw [List.map_map]
  rfl

theorem window_find (rising : Tab.Rising y.hist) {e : Nat × YldStep} (cut : e ∈ y.hist) :
    Tab.find (window y i) e.1 = if y.reaches i e.1 then some (y.weight i e) else none := by
  have entries : Tab.Rising (window y i) := (rising.filter _).map fun _ => rfl
  split
  · next inside =>
    exact entries.find_of_mem (e := (e.1, y.weight i e)) (List.mem_map.2 ⟨e, List.mem_filter.2 ⟨cut, inside⟩, rfl⟩)
  · next outside =>
    refine Tab.find_eq_none fun x hx same => outside ?_
    obtain ⟨a, ha, rfl⟩ := List.mem_map.1 hx
    obtain ⟨listed, inside⟩ := List.mem_filter.1 ha
    exact rising.entry_eq listed cut same ▸ inside

/-! ### The totals -/

@[simp] theorem shareOut_sensed : (shareOut i q m slow y).sensed = y.sensed + q := by
  unfold shareOut; dsimp only; split <;> rfl

@[simp] theorem shareOut_tank : (shareOut i q m slow y).tank = y.tank + q := by
  unfold shareOut; dsimp only; split <;> rfl

@[simp] theorem shareOut_delay : (shareOut i q m slow y).delay = y.delay := by
  unfold shareOut; dsimp only; split <;> rfl

theorem shareOut_noCrop (none : y.cropSum i = 0) : shareOut i q m slow y =
    { y with
      sensed := y.sensed + q, tank := y.tank + q, unattrib := y.unattrib + q
      unattSec := some (y.unattSec.getD 0 + q) } :=
  if_pos none

theorem shareOut_attrib (crop : y.cropSum i ≠ 0) : (shareOut i q m slow y).attrib = y.attrib + q :=
  congrArg Yld.attrib (if_neg crop)

theorem shareOut_unattrib (crop : y.cropSum i ≠ 0) : (shareOut i q m slow y).unattrib = y.unattrib :=
  (congrArg Yld.unattrib (if_neg crop)).trans rfl

theorem shareOut_balanced (balanced : y.sensed = y.attrib + y.unattrib) :
    (shareOut i q m slow y).sensed = (shareOut i q m slow y).attrib + (shareOut i q m slow y).unattrib := by
  rw [shareOut_sensed, balanced]
  by_cases crop : y.cropSum i = 0
  · rw [shareOut_noCrop crop]
    ring
  · rw [shareOut_attrib crop, shareOut_unattrib crop]
    ring

/-! ### The cut history -/

/-- A cut step with its share of the mass of step `i`. -/
def Yld.shared (y : Yld) (i : Nat) (q : Rat) (m : Option Rat) (e : Nat × YldStep) : Nat × YldStep :=
  (e.1, if y.reaches i e.1 then takeShare e.2 (y.weight i e * q / y.cropSum i) m else e.2)

section
variable (rising : Tab.Rising y.hist)
include rising

theorem shareOut_hist (crop : y.cropSum i ≠ 0) : (shareOut i q m slow y).hist = y.hist.map (y.shared i q m) := by
  refine (congrArg Yld.hist (if_neg crop)).trans (List.map_congr_left fun e cut => ?_)
  unfold Yld.shared
  dsimp only
  rw [Tab.get_eq_find, window_find rising cut]
  split <;> rfl

theorem shareOut_rising : Tab.Rising (shareOut i q m slow y).hist := by
  by_cases crop : y.cropSum i = 0
  · rw [shareOut_noCrop crop]
    exact rising
  · rw [shareOut_hist rising crop]
    exact rising.map fun _ => rfl

theorem divideStep_rising (x : YldSensed) : Tab.Rising (divideStep i x y).hist :=
  ((shareOut_rising rising).filter _).put _ _

theorem shareOut_inside (crop : y.cropSum i ≠ 0) {e : Nat × YldStep} (cut : e ∈ y.hist)
    (inside : y.reaches i e.1 = true) : Tab.find (shareOut i q m slow y).hist e.1 =
      some (takeShare e.2 (y.weight i e * q / y.cropSum i) m) := by
  have listed : y.shared i q m e ∈ (shareOut i q m slow y).hist :=
    shareOut_hist rising crop ▸ List.mem_map_of_mem cut
  exact ((shareOut_rising rising).find_of_mem listed).trans (congrArg some (if_pos inside))

theorem shareOut_outside (crop : y.cropSum i ≠ 0) {e : Nat × YldStep} (cut : e ∈ y.hist)
    (outside : ¬ y.reaches i e.1 = true) : e ∈ (shareOut i q m slow y).hist := by
  rw [shareOut_hist rising crop]
  exact List.mem_map.2 ⟨e, cut, Prod.ext rfl (if_neg outside)⟩

/-- The shares over the window come to the whole mass. -/
theorem shareOut_attr_sum (crop : y.cropSum i ≠ 0) : ((shareOut i q m slow y).hist.map fun e => e.2.attr).sum =
    (y.hist.map fun e => e.2.attr).sum + q := by
  have share (e : Nat × YldStep) : (y.shared i q m e).2.attr =
      e.2.attr + if y.reaches i e.1 = true then y.weight i e * (q / y.cropSum i) else 0 := by
    unfold Yld.shared
    split
    · exact congrArg (e.2.attr + ·) (mul_div_assoc ..)
    · exact (add_zero _).symm
  have shares :
      (y.hist.map fun e => if y.reaches i e.1 = true then y.weight i e * (q / y.cropSum i) else 0).sum = q := by
    rw [List.sum_map_ite]
    simp only [List.sum_map_zero, add_zero, List.sum_map_mul_right, Bool.decide_eq_true, ← Yld.cropSum_eq]
    exact mul_div_cancel₀ q crop
  rw [shareOut_hist rising crop, List.map_map]
  simp only [Function.comp_def, share, List.sum_map_add, shares]

end

end

/-- Settles O40: the totals, the two sides of the sum over the window, and the balance of the totals. -/
theorem yieldMassIsSharedAndKept : Obligations.YieldMassIsSharedAndKept := by
  intro i q m slow x y rising
  refine ⟨shareOut_sensed, shareOut_tank, shareOut_delay, fun noCrop => ?_, fun crop =>
    ⟨shareOut_attrib crop, shareOut_unattrib crop, shareOut_attr_sum rising crop,
      fun e cut least most => shareOut_inside rising crop cut (Yld.reaches_iff.2 ⟨least, most⟩),
      fun e cut beyond => shareOut_outside rising crop cut fun inside => ?_⟩,
    fun balanced => ⟨shareOut_balanced balanced, shareOut_balanced balanced⟩, divideStep_rising rising x⟩
  · simp [shareOut_noCrop noCrop]
  · have := Yld.reaches_iff.1 inside
    omega

end Sys2Proof.Machine
end

section
/-!
Statement about the yield service in its ticks (11, R290 to R297, R300, R303): what a tick senses, what the end of a
step does, the estimate of the delay, and the seconds that close.
-/

namespace Sys2Proof.Machine

section
variable {s : State}

/-! ### Sensing (R290, R291) -/

theorem sensing_of_run (run : s.yld.state = .run) : sensing s = true := by
  rw [sensing, run]
  rfl

theorem sensing_of_second (loaded : s.yld.state = .loaded) (second : s.rtl.role = .second) : sensing s = true := by
  rw [sensing, loaded, second]
  rfl

/-- A phase of the present tick lies before the next boundary. -/
theorem phase_inTick (s : State) {k : Nat} (phase : k < 100) :
    boundaryOf s.t + k * phaseLen < boundaryOf (s.t + 1) := by
  unfold boundaryOf phaseLen tickLen
  omega

@[simp] theorem State.advance_overruns (s : State) (g : Nat) (w : TickWork) : (s.advance g).overruns w = s.overruns w
    := by
  unfold State.overruns
  rw [State.advance_tick]

theorem yieldSense_senses (running : s.tick.running = true) (senses : sensing s = true)
    (once : s.yld.sensedT ≠ some s.t) :
    let p := boundaryOf s.t + 50 * phaseLen
    let u := s.advance p
    let f := grainFlow u p
    yieldSense s = { u with
      yld.acc := if s.overruns .yieldService then s.yld.acc.add s.yld.acc.last false s.yld.acc.hdrUp none
        else s.yld.acc.add f.1 f.2 (headerUp u p) (tickMoisture u p f.1)
      yld.sensedT := some s.t } := by
  have due : ¬ ((!s.tick.running) = true ∨ (!sensing s) = true ∨ s.yld.sensedT = some s.t) := by
    simp [running, senses, once]
  refine (if_neg due).trans ((s.reach_inTick _ (phase_inTick s (by decide))).trans ?_)
  dsimp only
  rw [State.advance_overruns, State.advance_yld]

theorem yieldSense_nothing (h : sensing s = false ∨ s.yld.sensedT = some s.t) : yieldSense s = s :=
  if_pos (.inr (h.imp_left fun idle => by rw [idle]; rfl))

/-! ### The end of a step (R292, R295, R303) -/

/-- The step that ends at the present boundary, as sensed. -/
def State.endedStep (s : State) : YldSensed := {
  q := s.yld.acc.f / 1000
  moist := if s.yld.acc.moistF = 0 then none else some (s.yld.acc.moist / s.yld.acc.moistF)
  slow := s.yld.acc.slow
  cut := cutStep (s.t / 10 - 1) (boundaryOf s.t) s }

/-- The state with the sums of the next step begun. -/
def State.nextStepBegun (s : State) : State :=
  { s with yld.acc := { last := s.yld.acc.last, hdrUp := s.yld.acc.hdrUp } }

/-- The state with the ended step divided. -/
def State.stepDivided (s : State) : State :=
  { s.nextStepBegun with
    yld := { divideStep (s.t / 10 - 1) s.endedStep s.nextStepBegun.yld with lastQ := some (s.t, s.endedStep.q) } }

/-- The state with the ended step kept for a takeover. -/
def State.stepKept (s : State) : State :=
  { s.nextStepBegun with
    yld.nextStep := s.t / 10 - 1 + 1
    yld.qs := Tab.put (s.yld.qs.filter fun e => decide (s.t / 10 - 1 < e.1 + 6000)) (s.t / 10 - 1) s.endedStep.q
    yld.own := Tab.put (s.yld.own.filter fun e => decide (s.t / 10 - 1 < e.1 + 10)) (s.t / 10 - 1) s.endedStep }

section
variable (ends : s.t % 10 = 0) (started : 10 ≤ s.t) (next : s.yld.nextStep ≤ s.t / 10 - 1)
include ends started next

theorem yieldStepEnd_eq (senses : sensing s = true) : yieldStepEnd s =
    if s.yld.state = .run then stepDone (s.t / 10 - 1) s.stepDivided else s.stepKept :=
  if_neg (by simp [senses, ends, started, next])

theorem yieldStepEnd_divides (run : s.yld.state = .run) (midSecond : (s.t / 10 - 1) % 100 ≠ 99) :
    yieldStepEnd s = s.stepDivided :=
  (yieldStepEnd_eq ends started next (sensing_of_run run)).trans ((if_pos run).trans (if_neg midSecond))

theorem yieldStepEnd_endsSecond (run : s.yld.state = .run) (last : (s.t / 10 - 1) % 100 = 99) :
    yieldStepEnd s = reportUnattributed (boundaryOf s.t) s.stepDivided := by
  have boundary : 10 * (s.t / 10 - 1 + 1) = s.t := by omega
  refine (yieldStepEnd_eq ends started next (sensing_of_run run)).trans ((if_pos run).trans ((if_pos last).trans ?_))
  rw [boundary]

theorem yieldStepEnd_keeps (loaded : s.yld.state = .loaded) (second : s.rtl.role = .second) :
    yieldStepEnd s = s.stepKept :=
  (yieldStepEnd_eq ends started next (sensing_of_second loaded second)).trans (if_neg (by simp [loaded]))

end

theorem yieldStepEnd_midStep (midStep : s.t % 10 ≠ 0) : yieldStepEnd s = s := if_pos (.inr (.inl midStep))

/-! ### The delay (R294) -/

theorem delayEstimate_due (run : s.yld.state = .run) (due : s.yld.estDue = true) :
    let pk := corrPeak s.yld
    let g := boundaryOf (10 * s.yld.nextStep)
    let u : State := { s with yld.estDue := false, yld.rho := some pk.1, yld.held := decide (pk.1 < 1 / 2) }
    delayEstimate s = if pk.1 < 1 / 2 then raiseAt g 27 2 (rhoByte pk.1) u
      else if pk.2 = s.yld.delay then u
      else raiseAt g 27 1 pk.2 { u with yld.delay := pk.2 } :=
  if_neg (by simp [run, due])

theorem delayEstimate_notDue (notDue : s.yld.estDue = false) : delayEstimate s = s :=
  if_pos (.inr (by rw [notDue]; rfl))

/-! ### The records of a second's boundary (R297) -/

theorem yieldRecord_closes (run : s.yld.state = .run) (second : s.t % 1000 = 0)
    (divided : s.yld.nextStep * 10 = s.t) : yieldRecord s = settleTasks (s.t + 1)
      (closeSeconds (boundaryOf s.t) s.yld.nextSec (secondsDue s.yld s.t) false s) :=
  if_neg (by simp [run, second, divided])

theorem yieldRecord_nothing (h : s.yld.state ≠ .run ∨ s.t % 1000 ≠ 0) : yieldRecord s = s :=
  if_pos (h.imp_right .inl)

end

/-- Settles O41: each command of the service by its lemma, in PD2. -/
theorem yieldStepsRunInTheirTicks : Obligations.YieldStepsRunInTheirTicks :=
  fun _ pd =>
    ⟨fun running senses once => whileOn_next pd (yieldSense_senses running senses once),
      fun h => whileOn_next pd (yieldSense_nothing h),
      fun ends started next =>
        ⟨fun run midSecond => whileOn_next pd (yieldStepEnd_divides ends started next run midSecond),
          fun run last => whileOn_next pd (yieldStepEnd_endsSecond ends started next run last),
          fun loaded second => ⟨_, whileOn_next pd (yieldStepEnd_keeps ends started next loaded second), rfl,
            Tab.find_put_self .., rfl, rfl⟩⟩,
      fun midStep => whileOn_next pd (yieldStepEnd_midStep midStep),
      fun run due => whileOn_next pd (delayEstimate_due run due),
      fun notDue => whileOn_next pd (delayEstimate_notDue notDue),
      fun run second divided => whileOn_next pd (yieldRecord_closes run second divided),
      fun h => whileOn_next pd (yieldRecord_nothing h),
      whileOn_on _ pd⟩

end Sys2Proof.Machine
end

section
/-!
Statement about the ring operations of the yield service (11, R301, R303 to R305): the configuration, start and stop,
the status, the tank, the tasks and their TimeLogs, and the pool of record buffers.
-/

namespace Sys2Proof.Machine

/-- A descriptor that its queue takes next has the outcome of its operation. -/
theorem takeOp_next {blk q opc : Nat} {tk : Taking} {c : OpRef} {s t : State} {f : OpRef → State → State} (n : Fin 32)
    (hn : c.ring = n.val) (taken : takes blk q opc tk c s = true) (h : f c s = t) :
    (.next (takeOp blk q opc tk n.val f s) : Out) = .next t :=
  congrArg _ ((takeOp_at f n hn taken).trans h)

section
variable {c : OpRef} {s : State}

/-! ### YLD_CFG (R305) -/

section
variable (length : c.op.len = 128)
include length

theorem yldCfg_busy (run : s.yld.state = .run) : yldCfg c s = failOp c stBusy 0 s := by
  unfold yldCfg
  rw [needBuffer_passes _ (by omega), if_neg (not_not_intro length), if_pos run]

theorem yldCfg_loads (notRun : s.yld.state ≠ .run) (read : bufferOpen 0x2F false c.op.addr 128 s = true) :
    let ws := maskWords yldCfgMask (leWords 32 (bufferOf c s))
    yldCfg c s = if yldCfgOk { cfg := ws } then
        finishOp c stOk 128 0 0 { s with yld.cfg := ws, yld.state := .loaded }
      else failOp c stSchema 128 s := by
  unfold yldCfg
  rw [needBuffer_passes _ (by omega), if_neg (not_not_intro length), if_neg notRun,
    readWhole_open (length.symm ▸ read)]

end

/-! ### YLD_START and YLD_STOP -/

theorem yldStart_busy (notLoaded : s.yld.state ≠ .loaded) : yldStart c s = failOp c stBusy 0 s := if_pos notLoaded

section
variable (loaded : s.yld.state = .loaded)
include loaded

theorem yldStart_late (named : c.op.word64 6 ≠ 0) (past : c.op.word64 6 ≤ s.t) :
    yldStart c s = failOp c stLate 0 s :=
  (if_neg (not_not_intro loaded)).trans (if_pos ⟨named, past⟩)

theorem yldStart_starts (inTime : c.op.word64 6 = 0 ∨ s.t < c.op.word64 6) : yldStart c s =
    finishOp c stOk 0 (wordOf (startTick s (c.op.word64 6))) 0
      { s with yld.startT := some (startTick s (c.op.word64 6)) } :=
  (if_neg (not_not_intro loaded)).trans (if_neg (by omega))

end

theorem yldStop_eq : yldStop c s = if s.yld.state = .run then
    startOp c [] { s with yld.stopT := some (s.t + 1) } else failOp c stBusy 0 s := ite_not ..

/-! ### YLD_STATUS and TANK_SET (R303; log 193) -/

theorem yldStatus_waits (length : c.op.len = 64) : yldStatus c s = startOp c [] s := by
  unfold yldStatus
  rw [needBuffer_passes _ (by omega), if_neg (not_not_intro length)]

/-- The one snapshot asked for is written at the boundary. -/
theorem statusTick_writes (waiting : s.opsOf 0 0 (isStarted 4) = [c])
    (written : bufferOpen 0x2F true c.op.addr (yldStatusBytes s).length s = true) : statusTick s =
      finishOp c stOk (yldStatusBytes s).length (wordOf s.yld.state.code) (wordOf s.yld.delay)
        (stored c (yldStatusBytes s) s) := by
  unfold statusTick
  rw [waiting, List.foldl_cons, List.foldl_nil, writeOut_open written]

/-- The mass of a step that ended in the present tick comes after the level set. -/
theorem tankSet_sets {q : Rat} (hq : q = s.yld.lastQ.elim 0 fun e => if e.1 = s.t then e.2 else 0) :
    tankSet c s = finishOp c stOk 0 (wordOf (openRat (max 0 (s.yld.tank - q) / 1000))) 0
      { s with yld.tank := ((c.op.word 6).toNat * 1000 : Nat) + q } := by
  subst hq
  unfold tankSet
  cases s.yld.lastQ <;> rfl

/-! ### Tasks (R300, R304) -/

section
variable {id : Nat} (hid : id = (c.op.word 6).toNat)
include hid

theorem taskOpen_refused (unfit : id = 0 ∨ (s.yarea.tasks.any fun x => x.id == id) = true) :
    taskOpen c s = failOp c stSchema 0 s := by
  subst hid
  exact if_pos unfit

section
variable (named : id ≠ 0) (unknown : (s.yarea.tasks.any fun x => x.id == id) = false)
include named unknown

theorem taskOpen_eq : taskOpen c s =
    if c.op.word64 7 ≠ 0 ∧ c.op.word64 7 ≤ s.t then failOp c stLate 0 s
    else startOp c [id, startTick s (c.op.word64 7)] s := by
  subst hid
  exact if_neg (not_or.2 ⟨named, Bool.eq_false_iff.1 unknown⟩)

theorem taskOpen_late (timed : c.op.word64 7 ≠ 0) (past : c.op.word64 7 ≤ s.t) :
    taskOpen c s = failOp c stLate 0 s :=
  (taskOpen_eq hid named unknown).trans (if_pos ⟨timed, past⟩)

theorem taskOpen_waits (inTime : c.op.word64 7 = 0 ∨ s.t < c.op.word64 7) :
    taskOpen c s = startOp c [id, startTick s (c.op.word64 7)] s :=
  (taskOpen_eq hid named unknown).trans (if_neg (by omega))

end

end

theorem taskClose_eq : taskClose c s =
    if s.yarea.openTask = none then failOp c stBusy 0 s else startOp c [0, s.t + 1] s := by
  unfold taskClose
  simp only [Option.isNone_iff_eq_none]

/-- The bytes of TASK_LIST: ID and record count of each task, with bit 31 for the open one. -/
def taskListBytes (s : State) : List Byte :=
  s.yarea.tasks.flatMap fun x =>
    leBytes 4 x.id ++ leBytes 4 ((taskRecords s x).length + if s.yarea.openTask = some x.id then 2 ^ 31 else 0)

theorem taskList_stores (length : c.op.len = 8192)
    (written : bufferOpen 0x2F true c.op.addr (taskListBytes s).length s = true) : taskList c s =
      finishOp c stOk (taskListBytes s).length (wordOf s.yarea.tasks.length) 0 (stored c (taskListBytes s) s) := by
  have mark (id n : Nat) : oneIf (s.yarea.openTask == some id) * n = if s.yarea.openTask = some id then n else 0 := by
    simp only [oneIf, beq_iff_eq, ite_mul, one_mul, zero_mul]
  unfold taskList
  rw [needBuffer_passes _ (by omega), if_neg (not_not_intro length)]
  simp only [mark]
  exact writeOut_open written

/-! ### TASK_EXPORT (R301) -/

/-- The task that TASK_EXPORT names. -/
def namedTask (c : OpRef) (s : State) : Option YldTask := s.yarea.tasks.find? fun x => wordOf x.id == c.op.word 6

/-- The TimeLog pair of a task. -/
def exportBytes (leap : Nat) (x : YldTask) (s : State) : List Byte :=
  leBytes 4 (Config.exportHeader s.yld.ddis).length ++ Config.exportHeader s.yld.ddis ++
    (taskRecords s x).flatMap (logEntry s.yld.ddis leap)

section
variable (length : 4096 ≤ c.op.len)
include length

theorem taskExport_unknown (unknown : namedTask c s = none) : taskExport c s = failOp c stSchema 0 s := by
  unfold namedTask at unknown
  unfold taskExport
  rw [needBuffer_passes _ (by omega), if_neg (by omega), unknown]

section
variable {x : YldTask} (found : namedTask c s = some x)
include found

theorem taskExport_stale (undecoded : s.gnb.leap = none) : taskExport c s = failOp c stStale 0 s := by
  unfold namedTask at found
  unfold taskExport
  rw [needBuffer_passes _ (by omega), if_neg (by omega), found]
  dsimp only
  rw [undecoded]

section
variable {leap : Nat} (decoded : s.gnb.leap = some leap)
  (written : bufferOpen 0x2F true c.op.addr ((exportBytes leap x s).take c.op.len).length s = true)
include decoded written

/-- A pair that fits is stored whole; of one that does not, what the buffer holds. -/
theorem taskExport_stores : taskExport c s =
    if (exportBytes leap x s).length ≤ c.op.len then
      finishOp c stOk (exportBytes leap x s).length (wordOf (exportBytes leap x s).length)
        (wordOf (taskRecords s x).length) (stored c (exportBytes leap x s) s)
    else failOp c stIncomplete c.op.len (stored c ((exportBytes leap x s).take c.op.len) s) := by
  unfold namedTask at found
  unfold taskExport
  rw [needBuffer_passes _ (by omega), if_neg (by omega), found]
  dsimp only
  rw [decoded]
  refine ite_congr rfl (fun fits => ?_) (fun exceeds => ?_)
  · rw [List.take_of_length_le fits] at written
    exact writeOut_open written
  · unfold exportBytes at written exceeds ⊢
    rw [writeBuffer_open written]
    dsimp only
    rw [if_pos rfl, List.length_take_of_le (Nat.le_of_not_le exceeds)]
    rfl

end

end

end

end

/-- Settles O42: each ring operation by its lemma. -/
theorem yieldOperationsFollowTheirChecks : Obligations.YieldOperationsFollowTheirChecks :=
  fun n _ _ hn =>
    ⟨fun taken length =>
        ⟨fun run => takeOp_next n hn taken (yldCfg_busy length run),
          fun notRun read => takeOp_next n hn taken (yldCfg_loads length notRun read)⟩,
      fun taken =>
        ⟨fun notLoaded => takeOp_next n hn taken (yldStart_busy notLoaded),
          fun loaded named past => takeOp_next n hn taken (yldStart_late loaded named past),
          fun loaded inTime => takeOp_next n hn taken (yldStart_starts loaded inTime)⟩,
      fun taken => takeOp_next n hn taken yldStop_eq,
      fun taken length => takeOp_next n hn taken (yldStatus_waits length),
      statusTick_writes,
      fun taken => takeOp_next n hn taken (tankSet_sets rfl),
      fun taken =>
        ⟨fun unfit => takeOp_next n hn taken (taskOpen_refused rfl unfit),
          fun named unknown timed past => takeOp_next n hn taken (taskOpen_late rfl named unknown timed past),
          fun named unknown inTime => takeOp_next n hn taken (taskOpen_waits rfl named unknown inTime)⟩,
      fun taken => takeOp_next n hn taken taskClose_eq,
      fun taken length written => takeOp_next n hn taken (taskList_stores length written),
      fun taken length =>
        ⟨fun unknown => takeOp_next n hn taken (taskExport_unknown length unknown),
          fun _ found =>
            ⟨fun undecoded => takeOp_next n hn taken (taskExport_stale length found undecoded),
              fun _ decoded written => takeOp_next n hn taken (taskExport_stores length found decoded written)⟩⟩,
      fun taken => takeOp_next n hn taken rfl⟩

end Sys2Proof.Machine
end

section
/-!
Statement about the mode of the module: it moves along the rows of the mode transition table (R346).
-/

namespace Sys2Proof.Machine

/-! ### The mode transition table (R346) -/

@[simp] theorem modeMoves_self (m : Mode) : modeMoves m m = true := by cases m <;> rfl

@[simp] theorem modeMoves_to_cold (m : Mode) : modeMoves m .cold = true := by cases m <;> rfl

/-! ### The commands that leave the mode, or begin Descent -/

/-- What is claimed of the mode from `s` on: that it stays, or that a module in Run has begun Descent. -/
def modeFrom (s : State) : Keep := { queue := s.pending, canon := false, mode := some s.mode, down := true }

theorem modeFrom_kept (s : State) : Kept (modeFrom s) s := ⟨nofun, rfl, nofun, fun _ e => .inl (Option.some.inj e)⟩

theorem Kept.modeMoves {s t : State} (h : Kept (modeFrom s) t) : modeMoves s.mode t.mode = true := by
  obtain stays | ⟨-, run, descent⟩ := h.mode _ rfl
  · rw [stays, modeMoves_self]
  · rw [run, descent]
    rfl

/-- A command that does not move the mode by itself. -/
theorem exec_modeMoves {c : Instr} {s t : State} (hc : movesMode c = false) (h : exec c s = .next t) :
    modeMoves s.mode t.mode = true :=
  (exec_kept rfl (by simp [hc]) (fun _ => rfl) (modeFrom_kept s) t h).modeMoves

/-! ### Where the operations that move the mode go -/

@[simp] theorem modeEvent'_mode (m : Mode) (cause : Nat) (s : State) : (modeEvent' m cause s).mode = m := raise_mode ..

theorem runEntry_mode (wake : Nat) (e : Entry) (s : State) : (runEntry wake e s).mode = .run := raise_mode ..

theorem toCold_mode (s : State) : (toCold s).mode = .cold := modeEvent'_mode ..

theorem supplyLost_mode (s : State) : (supplyLost s).mode = .cold := toCold_mode _

theorem fixedRope_mode (cause : Nat) (s : State) : (fixedRope cause s).mode = .fixedRope := modeEvent'_mode ..

theorem bivouacBegin_mode (s : State) : (bivouacBegin s).mode = .bivouac := modeEvent'_mode ..

theorem descentEnd_mode (code : Nat) (s : State) :
    (descentEnd code s).mode = .run ∨ (descentEnd code s).mode = .bivouac ∨ (descentEnd code s).mode = .cold := by
  unfold descentEnd
  dsimp only
  split
  · exact .inl rfl
  · split
    · exact .inr (.inl (bivouacBegin_mode _))
    · exact .inr (.inr (toCold_mode _))

theorem descentEnd_modeMoves {s u : State} {code : Nat} (descent : s.mode = .descent) :
    modeMoves s.mode (descentEnd code u).mode = true := by
  rw [descent]
  obtain run | bivouac | cold := descentEnd_mode code u
  · rw [run]; rfl
  · rw [bivouac]; rfl
  · rw [cold]; rfl

/-- A capture that is over leaves Bivouac where the allowance has been spent meanwhile (R363). -/
theorem captureDone_modeMoves {s u : State} (kept : u.mode = s.mode) : modeMoves s.mode (captureDone u).mode = true := by
  unfold captureDone
  dsimp only
  split
  · rw [bivouacSpent, toCold_mode, modeMoves_to_cold]
  · exact kept ▸ modeMoves_self _

/-! ### The commands that move the mode -/

/-- The arming that a wake is held to: what the last Descent has left in PD0, nothing where PD0 was lost (R347). -/
def State.arming (s : State) (e : Entry) : Word := if e.pd0Lost then 0 else s.pwr.armed

section
variable (src : WakeSource) (e : Entry) {s : State}

theorem wakeNow_cold (cold : s.mode = .cold) : wakeNow src e s =
    if armedIn .cold (s.arming e) false src then runEntry (wakeCode (s.arming e) src) e s else s := by
  unfold wakeNow
  rw [cold]
  rfl

theorem wakeNow_bivouac (bivouac : s.mode = .bivouac) : wakeNow src e s =
    if armedIn .bivouac (s.arming e) (movementSeen s) src then
      runEntry (wakeCode (s.arming e) src) e { s with pwr.books := { s.pwr.books with how := .wake, ending := false } }
    else s := by
  unfold wakeNow
  rw [bivouac]
  rfl

theorem wakeNow_entry (run : s.mode = .run) (entry : s.start = .entry) : wakeNow src e s =
    runEntry (s.pwr.entryCause.getD (wakeCode (s.arming e) src)) e s := by
  unfold wakeNow
  rw [run, entry]
  rfl

theorem wakeNow_descent (descent : s.mode = .descent) : wakeNow src e s =
    if armedIn .descent s.pwr.ctl false src then { s with pwr.latched := true } else s := by
  unfold wakeNow
  rw [descent]

theorem wakeNow_nothing (h : s.mode = .fixedRope ∨ (s.mode = .run ∧ s.start ≠ .entry)) : wakeNow src e s = s := by
  unfold wakeNow
  obtain rope | ⟨run, notEntry⟩ := h
  · rw [rope]
  · rw [run]
    cases start : s.start with
    | entry => exact absurd start notEntry
    | timeBase | ready => rfl

theorem restartAfter_eq (mV : Nat) : restartAfter mV src e s =
    if s.mode = .cold ∧ 6000 ≤ mV ∧ armedIn .cold (s.arming e) false src then runEntry (wakeCode (s.arming e) src) e s
    else s := rfl

end

theorem wakeNow_modeMoves (src : WakeSource) (e : Entry) (s : State) :
    modeMoves s.mode (wakeNow src e s).mode = true := by
  cases mode : s.mode with
  | cold =>
    rw [wakeNow_cold src e mode, apply_ite State.mode, runEntry_mode, mode]
    split <;> rfl
  | bivouac =>
    rw [wakeNow_bivouac src e mode, apply_ite State.mode, runEntry_mode, mode]
    split <;> rfl
  | run =>
    by_cases entry : s.start = .entry
    · rw [wakeNow_entry src e mode entry, runEntry_mode]; rfl
    · rw [wakeNow_nothing src e (.inr ⟨mode, entry⟩), mode]; rfl
  | descent =>
    rw [wakeNow_descent src e mode, apply_ite State.mode, ite_self, mode]; rfl
  | fixedRope => rw [wakeNow_nothing src e (.inl mode), mode]; rfl

theorem restartAfter_modeMoves (mV : Nat) (src : WakeSource) (e : Entry) (s : State) :
    modeMoves s.mode (restartAfter mV src e s).mode = true := by
  rw [restartAfter_eq]
  split
  next h => rw [runEntry_mode, h.1]; rfl
  next => exact modeMoves_self _

theorem descentComplete_modeMoves (s : State) : modeMoves s.mode (descentComplete s).mode = true := by
  unfold descentComplete
  split
  next => exact modeMoves_self _
  next h => exact descentEnd_modeMoves (not_not.1 (not_or.1 h).1)

theorem descentLimit_modeMoves (s : State) : modeMoves s.mode (descentLimit s).mode = true := by
  unfold descentLimit
  split
  next => exact modeMoves_self _
  next h => exact descentEnd_modeMoves (not_not.1 (not_or.1 h).1)

theorem brownout_modeMoves (mV : Nat) (s : State) : modeMoves s.mode (brownout mV s).mode = true := by
  unfold brownout
  split
  · exact modeMoves_self _
  · rw [supplyLost_mode, modeMoves_to_cold]

theorem reverseBattery_modeMoves (s : State) : modeMoves s.mode (reverseBattery s).mode = true := by
  unfold reverseBattery
  dsimp only
  split
  · exact modeMoves_self _
  · rw [supplyLost_mode, modeMoves_to_cold]

theorem allowanceSpent_modeMoves (s : State) : modeMoves s.mode (allowanceSpent s).mode = true := by
  unfold allowanceSpent
  split
  · exact modeMoves_self _
  · split
    · exact modeMoves_self _
    · rw [bivouacSpent, toCold_mode, modeMoves_to_cold]

theorem bivFix_mode (sats distance gpsNs : Nat) (s : State) : (bivFix sats distance gpsNs s).mode = s.mode := by
  unfold bivFix
  simp only [apply_ite State.mode, raise_mode, raiseEv_mode, ite_self]

theorem bivouacBurst_modeMoves (sats distance gpsNs : Nat) (s : State) :
    modeMoves s.mode (bivouacBurst sats distance gpsNs s).mode = true := by
  unfold bivouacBurst
  split
  · exact modeMoves_self _
  · exact captureDone_modeMoves (bivFix_mode ..)

theorem snapshot_modeMoves (gpsNs tunc : Nat) (temp : Int) (samples : List Byte) (s : State) :
    modeMoves s.mode (snapshot gpsNs tunc temp samples s).mode = true := by
  unfold snapshot
  split
  · exact modeMoves_self _
  · exact captureDone_modeMoves (raise_mode ..)

/-- An entry into Fixed-rope is one of Run, or of the boundary at which Descent begins (R367). -/
theorem watchdogExpiry_mode (s : State) : modeMoves s.mode (watchdogExpiry s).mode = true ∨
    (descentStarts s = true ∧ (watchdogExpiry s).mode = .fixedRope) := by
  unfold watchdogExpiry
  split
  next => exact .inl (modeMoves_self _)
  next h =>
    dsimp only
    split
    · split
      next run => rw [run]; exact .inl rfl
      next => exact .inl (modeMoves_self _)
    · rw [fixedRope_mode]
      by_cases run : s.mode = .run
      · rw [run]; exact .inl rfl
      · refine .inr ⟨?_, rfl⟩
        by_contra notStarts
        exact h (.inl ⟨run, by simpa using notStarts⟩)

theorem fixropeRequest_mode (active : Bool) (s : State) : modeMoves s.mode (fixropeRequest active s).mode = true ∨
    (descentStarts s = true ∧ (fixropeRequest active s).mode = .fixedRope) := by
  unfold fixropeRequest
  split
  · exact .inl (modeMoves_self _)
  · dsimp only
    split
    next due =>
      rw [fixedRope_mode]
      simp only [Bool.and_eq_true, Bool.or_eq_true, beq_iff_eq] at due
      obtain starts | ⟨run, -⟩ := due.2
      · exact .inr ⟨starts, rfl⟩
      · rw [run]; exact .inl rfl
    next => exact .inl (modeMoves_self _)

/-- Whatever the command, the mode goes along a row of the table, or Fixed-rope takes the place of a Descent that has
begun at this boundary. -/
theorem exec_mode {c : Instr} {s t : State} (h : exec c s = .next t) :
    modeMoves s.mode t.mode = true ∨ (descentStarts s = true ∧ t.mode = .fixedRope) := by
  cases moves : movesMode c with
  | false => exact .inl (exec_modeMoves moves h)
  | true =>
    unfold movesMode at moves
    split at moves
    case h_12 => cases moves
    all_goals obtain rfl := Host.Outcome.next.inj h
    · exact .inl (wakeNow_modeMoves ..)
    · exact .inl (restartAfter_modeMoves ..)
    · exact .inl (descentComplete_modeMoves _)
    · exact .inl (descentLimit_modeMoves _)
    · exact .inl (reverseBattery_modeMoves _)
    · exact .inl (brownout_modeMoves ..)
    · exact .inl (allowanceSpent_modeMoves _)
    · exact .inl (snapshot_modeMoves ..)
    · exact .inl (bivouacBurst_modeMoves ..)
    · exact fixropeRequest_mode ..
    · exact watchdogExpiry_mode _

/-- Settles O5: the idle block keeps its mode, and a step is the command at the front of the queue. -/
theorem onlyTheModeTransitionsOfTheTable : Obligations.OnlyTheModeTransitionsOfTheTable := by
  intro s t h
  cases hq : s.pending with
  | nil =>
    rw [step_of_nil hq] at h
    exact .inl (Host.Outcome.next.inj h ▸ modeMoves_self _)
  | cons c rest =>
    rw [step_of_cons hq] at h
    exact exec_mode (s := { s with pending := rest }) h

end Sys2Proof.Machine
end

section
/-!
Statement about the CAN time model (R320): what a pair of network time and GTS makes of it.
-/

namespace Sys2Proof.Machine

/-! ### The rate (R319, R320) -/

theorem neg_milli_le_clampRho (r : Rat) : -(1 / 1000) ≤ clampRho r := le_max_left ..

theorem clampRho_le_milli (r : Rat) : clampRho r ≤ 1 / 1000 := max_le (by norm_num) (min_le_left ..)

/-- Over a span that is not empty the rate is the quotient. -/
theorem rateOf_span {span : Int} (counts div : Int) (h : span ≠ 0) :
    rateOf counts div span = (counts : Rat) / ((div * span : Int) : Rat) := if_neg h

theorem follow_rho {m r : Int} {x : TimeModel} (moved : m ≠ x.lastM) :
    (follow m r x).rho = clampRho (x.rho + (r : Rat) / ((256 * 40 * (m - x.lastM) : Int) : Rat)) :=
  congrArg (fun q => clampRho (x.rho + q)) (rateOf_span r (256 * 40) (sub_ne_zero.2 moved))

/-! ### A pair (R320) -/

/-- The residual within which a pair is followed: 400 counts while the model acquires, 4,000 once it has locked. -/
def TimeModel.bound (x : TimeModel) : Nat := if x.st = .acquiring then 400 else 4000

section
variable {x : TimeModel} {m : Int} {a : Nat}

theorem TimeModel.pair_seeds (first : x.pairs = 0) (acquiring : x.st = .acquiring) :
    x.pair m a = (seed m a x, none) := by
  unfold TimeModel.pair
  rw [if_pos first, if_pos acquiring]

theorem TimeModel.pair_rates (second : x.pairs = 1) (acquiring : x.st = .acquiring) : x.pair m a =
    ({ x with pairs := 2, rho := rateOf (a - x.o) 40 (m - x.m0) - 1, o := a, m0 := m, lastM := m }, none) := by
  unfold TimeModel.pair
  rw [if_neg (by omega), acquiring]
  exact if_pos second

section
variable {r : Int} (residual : r = a - x.mapped m) (rated : 1 < x.pairs)
include residual rated

theorem TimeModel.pair_reseeds (on : x.st ≠ .off) (beyond : x.bound < r.natAbs) :
    x.pair m a = (seed m a { x with res := r }, some 4) := by
  subst residual
  unfold TimeModel.bound at beyond
  unfold TimeModel.pair
  rw [if_neg (by omega)]
  cases st : x.st with
  | off => exact absurd st on
  | acquiring =>
    rw [if_pos st] at beyond
    dsimp only
    rw [if_neg (by omega), if_pos beyond]
  | locked | lost =>
    rw [if_neg (by simp [st])] at beyond
    exact if_pos beyond

theorem TimeModel.pair_acquiring (acquiring : x.st = .acquiring) (inside : r.natAbs ≤ 400) : x.pair m a =
    if 8 ≤ x.count + 1 then ({ follow m r x with count := x.count + 1, st := .locked }, some 2)
    else ({ follow m r x with count := x.count + 1 }, none) := by
  subst residual
  unfold TimeModel.pair
  rw [if_neg (by omega), acquiring]
  dsimp only
  rw [if_neg (by omega), if_neg (by omega)]

theorem TimeModel.pair_locked (locked : x.st = .locked) (inside : r.natAbs ≤ 4000) :
    x.pair m a = (follow m r x, none) := by
  subst residual
  unfold TimeModel.pair
  rw [if_neg (by omega), locked]
  exact if_neg (by omega)

theorem TimeModel.pair_lost (lost : x.st = .lost) (inside : r.natAbs ≤ 4000) :
    x.pair m a = ({ follow m r x with st := .locked }, some 2) := by
  subst residual
  unfold TimeModel.pair
  rw [if_neg (by omega), lost]
  exact if_neg (by omega)

end

end

/-- Settles O44, pair by pair. -/
theorem timeModelFollowsR320 : Obligations.TimeModelFollowsR320 := by
  refine fun x m a => ⟨TimeModel.pair_seeds, fun second acquiring moved => ?_, fun rated on moved inside => ?_,
    TimeModel.pair_reseeds rfl, neg_milli_le_clampRho _, clampRho_le_milli _⟩
  · refine ⟨_, TimeModel.pair_rates second acquiring, rfl, rfl, rfl, acquiring, ?_⟩
    dsimp only
    rw [rateOf_span _ _ (sub_ne_zero.2 moved), Int.cast_sub]
  · cases st : x.st with
    | off => exact absurd st on
    | acquiring =>
      rw [if_pos st] at inside
      have pair := TimeModel.pair_acquiring rfl rated st inside
      split at pair
      next eighth =>
        exact ⟨_, _, pair, rfl, rfl, rfl, follow_rho moved, fun _ => ⟨rfl, by rw [if_pos eighth]⟩, nofun, nofun⟩
      next fewer =>
        exact ⟨_, _, pair, rfl, rfl, rfl, follow_rho moved, fun _ => ⟨rfl, by rw [if_neg fewer]; exact congrArg (·, _) st⟩,
          nofun, nofun⟩
    | locked =>
      rw [if_neg (by simp [st])] at inside
      exact ⟨_, _, TimeModel.pair_locked rfl rated st inside, rfl, rfl, rfl, follow_rho moved, nofun,
        fun _ => ⟨st, rfl⟩, nofun⟩
    | lost =>
      rw [if_neg (by simp [st])] at inside
      exact ⟨_, _, TimeModel.pair_lost rfl rated st inside, rfl, rfl, rfl, follow_rho moved, nofun, nofun,
        fun _ => ⟨rfl, rfl⟩⟩

end Sys2Proof.Machine
end

section
/-!
Statements about the operator panel: its frames, bands, faults and fallback (R329 to R334, R340), and its ring
operations (R336, R337, R339, R342, R343).
-/

namespace Sys2Proof.Machine

theorem whileOn_off {d : Nat} {s : State} (k : State → State) (h : s.pdOn d = false) : whileOn d s k = .next s := by
  simp [whileOn, h]

/-! ### A buffer that is read -/

/-- Reading reaches the fences' capture and the events alone (R64). -/
theorem readPieces_frame (kind ini : Nat) : ∀ (ps : List (Nat × Nat)) (x : Xfer) (s : State),
    ∃ f y q, (readPieces kind ini ps x s).1 = { s with fen := f, sys := y, recorder := q }
  | [], _, s => ⟨s.fen, s.sys, s.recorder, rfl⟩
  | (a, n) :: ps, x, s => by
    obtain ⟨f, y, q, checked⟩ := busCheck_frame kind ini false false false a n s
    unfold readPieces busRead
    dsimp only
    rw [checked]
    split
    · exact readPieces_frame kind ini ps ..
    · exact ⟨f, y, q, rfl⟩

theorem readBuffer_frame (ini addr len : Nat) (s : State) :
    ∃ f y q, (readBuffer ini addr len s).1 = { s with fen := f, sys := y, recorder := q } := readPieces_frame ..

theorem readBuffer_open {ini addr len : Nat} {s : State}
    (h : ((pieces len addr len).all fun p => s.busVerdict ini false false p.1 p.2 == .ok) = true) :
    readBuffer ini addr len s = (s, { moved := len, status := 0, bytes := Memory.getMany s.mem addr len }) := by
  unfold readBuffer
  rw [readPieces_open 2 ini len addr len _ s (Nat.le_refl _) h, Nat.zero_add, List.nil_append]

/-! ### States (R340) -/

theorem pnlState_pnl (st : PnlState) (s : State) : (pnlState st s).pnl = { s.pnl with state := st } := by
  unfold pnlState
  split
  next same => rw [← same]
  next => rw [raise_pnl]

theorem pnlState_gts (st : PnlState) (s : State) : (pnlState st s).gts = s.gts := by
  unfold pnlState
  split
  · rfl
  · rw [raise_gts]

theorem pnlState_lsw (st : PnlState) (s : State) : (pnlState st s).lsw = s.lsw := by
  unfold pnlState
  split
  · rfl
  · rw [raise_lsw]

/-! ### What leaves the applied band alone (R332) -/

@[simp] theorem regionRun_band (key : Nat) (c : OpRef) (s : State) : (regionRun key c s).pnl.band = s.pnl.band := by
  obtain ⟨f, y, q, read⟩ := readBuffer_frame 0x28 c.op.addr c.op.len s
  unfold regionRun
  generalize readBuffer 0x28 c.op.addr c.op.len s = r at read
  obtain ⟨u, x⟩ := r
  obtain rfl := read
  dsimp only
  split <;> simp only [failOp_pnl, startRead_pnl]

theorem commitKey_band (b : Nat) (s : State) (key : Nat) : (commitKey b s key).pnl.band = s.pnl.band := by
  unfold commitKey
  split
  next => rfl
  next =>
    extract_lets +onlyGivenNames -merge -useContext src committed
    have kept : committed.pnl.band = s.pnl.band := rfl
    clear_value committed
    rw [← kept]
    extract_lets +onlyGivenNames -merge -useContext posted
    have kept' : posted.pnl = committed.pnl := by
      unfold posted
      split
      · exact finishAt_pnl ..
      · rfl
    clear_value posted
    rw [← kept']
    split
    · split <;> rfl
    · split
      · exact regionRun_band ..
      · rfl

@[simp] theorem commitAll_band (b : Nat) (s : State) : (commitAll b s).pnl.band = s.pnl.band := by
  unfold commitAll
  generalize List.range 32 = keys
  exact foldl_keeps (fun s => s.pnl.band) (commitKey_band b) keys s

@[simp] theorem pnlHalt_band (b : Nat) (s : State) : (pnlHalt b s).pnl.band = s.pnl.band := by
  unfold pnlHalt
  rw [foldl_keeps State.pnl (fun _ _ => finishAt_pnl ..), pnlState_pnl]
  rfl

/-! ### The page of a frame (R334) -/

/-- The fallback shows from the first frame start after the tick in which its timer has expired. -/
theorem pageChoose_pnl (t : Nat) (s : State) : (pageChoose t s).pnl = { s.pnl with
    fallback := s.pnl.expired.any fun u => decide (u < t)
    shown := (s.pnl.expired.any fun u => decide (u < t)) || s.pnl.page } := by
  unfold pageChoose
  dsimp only
  split <;> simp only [raiseAt_pnl]

/-- A band is applied only at a positive frame start strictly after its latch (R332). -/
theorem bandApply_band (t : Nat) (s : State) : (bandApply t s).pnl.band = s.pnl.band ∨
    (s.pnl.pos = true ∧ ∃ u, u < t ∧ s.pnl.pend = some ((bandApply t s).pnl.band, u)) := by
  unfold bandApply
  split
  next b u pending =>
    split
    next due =>
      obtain ⟨pos, later, -⟩ := due
      refine .inr ⟨pos, u, later, ?_⟩
      rw [pending, bandNote, raiseAt_pnl]
    next => exact .inl rfl
  next => exact .inl rfl

theorem pageChoose_band (t : Nat) (s : State) : (pageChoose t s).pnl.band = s.pnl.band := by rw [pageChoose_pnl]

theorem pictureTake_band (t : Nat) (s : State) : (pictureTake t s).pnl.band = s.pnl.band := rfl

theorem frameRun_band (t : Nat) (s : State) : (frameRun t s).pnl.band = (bandApply t s).pnl.band := by
  rw [frameRun, pictureTake_band, pageChoose_band, commitAll_band]

/-! ### A frame starts (R329 to R333, R337) -/

/-- The state as the frame of the present boundary has started, with its polarity (R329). -/
def State.atFrame (s : State) : State :=
  { s with pnl.frameT := some s.t, pnl.pos := s.t / s.pnl.frameLen % 2 == 0 }

/-- A frame starts at tick `t`. -/
def Pnl.startsAt (p : Pnl) (t : Nat) : Prop := 0 < p.frameLen ∧ t % p.frameLen = 0 ∧ p.frameT ≠ some t

section
variable {s : State}

theorem panelFrame_nothing (h : s.pnl.state = .empty ∨ s.t % s.pnl.frameLen ≠ 0 ∨ s.pnl.frameT = some s.t) :
    panelFrame s = s := by
  refine if_pos ?_
  obtain empty | between | started := h
  · exact .inl empty
  · exact .inr (.inr (.inl between))
  · exact .inr (.inr (.inr started))

section
variable (starts : s.pnl.startsAt s.t)
include starts

theorem panelFrame_starts (loaded : s.pnl.state ≠ .empty) : panelFrame s =
    if s.pnl.state ≠ .run then commitAll (boundaryOf s.t) s.atFrame
    else if s.pnl.stopping && s.atFrame.pnl.pos then pnlHalt (boundaryOf s.t) (commitAll (boundaryOf s.t) s.atFrame)
    else s.pnl.first.elim (frameRun s.t s.atFrame) fun t0 =>
      if s.atFrame.pnl.pos && decide (t0 ≤ s.t) then frameRun s.t { s.atFrame with pnl.first := none }
      else commitAll (boundaryOf s.t) s.atFrame := by
  obtain ⟨positive, divides, fresh⟩ := starts
  refine (if_neg (by simp [loaded, divides, fresh, positive.ne'])).trans (if_congr Iff.rfl rfl (if_congr Iff.rfl rfl ?_))
  have split (o : Option Nat) (f : Nat → State) (u : State) : (match o with | some t0 => f t0 | none => u) = o.elim u f := by
    cases o <;> rfl
  exact split ..

theorem panelFrame_dark (notRun : s.pnl.state ≠ .run) (loaded : s.pnl.state ≠ .empty) :
    panelFrame s = commitAll (boundaryOf s.t) s.atFrame :=
  (panelFrame_starts starts loaded).trans (if_pos notRun)

section
variable (run : s.pnl.state = .run)
include run

theorem panelFrame_run : panelFrame s =
    if s.pnl.stopping && s.atFrame.pnl.pos then pnlHalt (boundaryOf s.t) (commitAll (boundaryOf s.t) s.atFrame)
    else s.pnl.first.elim (frameRun s.t s.atFrame) fun t0 =>
      if s.atFrame.pnl.pos && decide (t0 ≤ s.t) then frameRun s.t { s.atFrame with pnl.first := none }
      else commitAll (boundaryOf s.t) s.atFrame :=
  (panelFrame_starts starts (by simp [run])).trans (if_neg (not_not_intro run))

theorem panelFrame_halts (stopping : s.pnl.stopping = true) (pos : s.atFrame.pnl.pos = true) :
    panelFrame s = pnlHalt (boundaryOf s.t) (commitAll (boundaryOf s.t) s.atFrame) :=
  (panelFrame_run starts run).trans (if_pos (by simp [stopping, pos]))

theorem panelFrame_goesOn (on : s.pnl.stopping = false ∨ s.atFrame.pnl.pos = false) : panelFrame s =
    s.pnl.first.elim (frameRun s.t s.atFrame) fun t0 =>
      if s.atFrame.pnl.pos && decide (t0 ≤ s.t) then frameRun s.t { s.atFrame with pnl.first := none }
      else commitAll (boundaryOf s.t) s.atFrame :=
  (panelFrame_run starts run).trans (if_neg (by simpa only [Bool.and_eq_true, not_and_or, Bool.not_eq_true] using on))

theorem panelFrame_inRun (on : s.pnl.stopping = false ∨ s.atFrame.pnl.pos = false) (first : s.pnl.first = none) :
    panelFrame s = frameRun s.t s.atFrame := by
  rw [panelFrame_goesOn starts run on, first]
  rfl

theorem panelFrame_first {t0 : Nat} (on : s.pnl.stopping = false ∨ s.atFrame.pnl.pos = false)
    (first : s.pnl.first = some t0) : panelFrame s =
      if s.atFrame.pnl.pos = true ∧ t0 ≤ s.t then frameRun s.t { s.atFrame with pnl.first := none }
      else commitAll (boundaryOf s.t) s.atFrame := by
  rw [panelFrame_goesOn starts run on, first]
  simp only [Option.elim, Bool.and_eq_true, decide_eq_true_eq]

end

end

/-- A frame of the run that applies a band. -/
theorem frameRun_applies {u : State} (pos : u.pnl.pos = s.atFrame.pnl.pos) (band : u.pnl.band = s.pnl.band)
    (pend : u.pnl.pend = s.pnl.pend) : (frameRun s.t u).pnl.band = s.pnl.band ∨
      (s.t / s.pnl.frameLen % 2 = 0 ∧ ∃ t, t < s.t ∧ s.pnl.pend = some ((frameRun s.t u).pnl.band, t)) := by
  rw [frameRun_band, ← band, ← pend]
  refine (bandApply_band s.t u).imp_right fun ⟨positive, latched⟩ => ⟨?_, latched⟩
  rw [pos] at positive
  exact beq_iff_eq.1 positive

theorem panelFrame_band : (panelFrame s).pnl.band = s.pnl.band ∨
    (s.t / s.pnl.frameLen % 2 = 0 ∧ ∃ t, t < s.t ∧ s.pnl.pend = some ((panelFrame s).pnl.band, t)) := by
  by_cases none' : s.pnl.state = .empty ∨ s.pnl.frameLen = 0 ∨ s.t % s.pnl.frameLen ≠ 0 ∨ s.pnl.frameT = some s.t
  · exact .inl (congrArg (fun u : State => u.pnl.band) (if_pos none'))
  obtain ⟨loaded, positive, divides, fresh⟩ : s.pnl.state ≠ .empty ∧ s.pnl.frameLen ≠ 0 ∧
      s.t % s.pnl.frameLen = 0 ∧ s.pnl.frameT ≠ some s.t := by simpa only [not_or, not_not] using none'
  rw [panelFrame_starts ⟨Nat.pos_of_ne_zero positive, divides, fresh⟩ loaded]
  split
  · exact .inl (commitAll_band ..)
  · split
    · exact .inl ((pnlHalt_band ..).trans (commitAll_band ..))
    · cases s.pnl.first with
      | none => exact frameRun_applies rfl rfl rfl
      | some t0 =>
        dsimp only [Option.elim]
        split
        · exact frameRun_applies rfl rfl rfl
        · exact .inl (commitAll_band ..)

/-! ### The fallback timer and the current limit (R334, R340) -/

theorem panelFallback_expires (on : s.pnl.fbTmo ≠ 0) (due : s.pnl.kickT + 10 * s.pnl.fbTmo ≤ s.t)
    (first : s.pnl.expired = none) : panelFallback s = { s with pnl.expired := some s.t } := if_pos ⟨on, due, first⟩

theorem panelFallback_nothing (h : s.pnl.fbTmo = 0 ∨ s.t < s.pnl.kickT + 10 * s.pnl.fbTmo ∨ s.pnl.expired ≠ none) :
    panelFallback s = s := by
  refine if_neg fun ⟨on, due, first⟩ => ?_
  obtain off | early | expired := h
  · exact on off
  · omega
  · exact expired first

theorem vlcdFault_faults (run : s.pnl.state = .run) (limit : 10 ≤ s.pnl.limitTicks) :
    ∃ v, vlcdFault s = v ∧ v.pnl.state = .fault ∧ v.pnl.glass = [] ∧ v.pnl.volt = 0 ∧ v.pnl.store = s.pnl.store ∧
      v.gts = s.gts ∧ v.lsw = s.lsw := by
  refine ⟨_, rfl, ?_⟩
  rw [vlcdFault, if_neg (by simp [run, limit])]
  dsimp only
  rw [foldl_keeps State.pnl (fun _ _ => finishOp_pnl ..), foldl_keeps State.gts (fun _ _ => finishOp_gts ..),
    foldl_keeps State.lsw (fun _ _ => finishOp_lsw ..), pnlState_pnl]
  rw [pnlState_gts, pnlState_lsw]
  refine ⟨rfl, rfl, rfl, ?_, raise_gts .., raise_lsw ..⟩
  change (raise 451 1 (s.pnl.vlcd.2 % 65536) s).pnl.store = s.pnl.store
  rw [raise_pnl]

theorem vlcdFault_nothing (h : s.pnl.state ≠ .run ∨ s.pnl.limitTicks < 10) : vlcdFault s = s := if_pos h

/-! ### PNL_CTL (R334, R341) -/

theorem pnlCtlWrite_on {v : Word} (on : bitOf v 31 = true) : pnlCtlWrite v s =
    { s with pnl.en := true, pnl.page := bitOf v 30, pnl.fbTmo := bitsOf v 23 16 } := by
  unfold pnlCtlWrite
  rw [if_pos on, on]

theorem pnlCtlWrite_off {v : Word} (off : bitOf v 31 = false) (run : s.pnl.state = .run) : pnlCtlWrite v s = { s with
    pnl.en := false, pnl.page := bitOf v 30, pnl.fbTmo := bitsOf v 23 16, pnl.stopping := true, pnl.pend := none } := by
  unfold pnlCtlWrite
  rw [if_neg (by simp [off]), off]
  exact if_pos run

end

/-- Settles O46: the frame starts by what the panel does, then the timer, the page, the fault and the register. -/
theorem panelFramesFollowTheirTicks : Obligations.PanelFramesFollowTheirTicks := by
  refine ⟨fun s on => ⟨fun positive divides fresh => ?_, fun h => ?_, fun tmo due first => ?_, fun h => ?_, ?_,
    fun run limit => ?_, fun h => ?_⟩, fun s v h changed => ?_, fun a v s access => ⟨?_, fun enabled => ?_,
    fun disabled run => ?_⟩⟩
  · have starts : s.pnl.startsAt s.t := ⟨positive, divides, fresh⟩
    exact ⟨fun notRun loaded => (whileOn_on _ on).trans (congrArg _ (panelFrame_dark starts notRun loaded)),
      fun run => ⟨fun stopping pos => (whileOn_on _ on).trans (congrArg _ (panelFrame_halts starts run stopping pos)),
        fun first goesOn => (whileOn_on _ on).trans (congrArg _ (panelFrame_inRun starts run goesOn first)),
        fun t0 first goesOn => (whileOn_on _ on).trans (congrArg _ (panelFrame_first starts run goesOn first))⟩⟩
  · exact (whileOn_on _ on).trans (congrArg _ (panelFrame_nothing h))
  · exact (whileOn_on _ on).trans (congrArg _ (panelFallback_expires tmo due first))
  · exact (whileOn_on _ on).trans (congrArg _ (panelFallback_nothing h))
  · rw [pageChoose_pnl]
    exact ⟨rfl, rfl⟩
  · obtain ⟨v, fault, facts⟩ := vlcdFault_faults run limit
    exact ⟨v, (whileOn_on _ on).trans (congrArg _ fault), facts⟩
  · exact (whileOn_on _ on).trans (congrArg _ (vlcdFault_nothing h))
  · cases on : s.pdOn 12 with
    | true =>
      obtain rfl := Host.Outcome.next.inj ((whileOn_on _ on).symm.trans h)
      exact panelFrame_band.resolve_left changed
    | false =>
      have off : exec .panelFrameStart s = .next s := whileOn_off _ on
      exact absurd (congrArg (fun u : State => u.pnl.band) (Host.Outcome.next.inj (h.symm.trans off))) changed
  · exact congrArg Host.Outcome.next (gateWrite_open _ access)
  · exact congrArg Host.Outcome.next ((gateWrite_open _ access).trans (pnlCtlWrite_on enabled))
  · exact congrArg Host.Outcome.next ((gateWrite_open _ access).trans (pnlCtlWrite_off disabled run))

end Sys2Proof.Machine
end

section
/-!
Statements about the operator panel: its ring operations (R336, R337, R339, R342, R343).
-/

namespace Sys2Proof.Machine

section
variable {c : OpRef} {s : State}

/-! ### CFG_LOAD (R343) -/

section
variable (length : c.op.len = 128)
include length

theorem pnlCfgLoad_busy (run : s.pnl.state = .run) : pnlCfgLoad c s = failOp c stBusy 0 s := by
  unfold pnlCfgLoad
  rw [needBuffer_passes _ (by omega), if_neg (not_not_intro length), if_pos run]

section
variable {ws : List Word} (words : ws = maskWords pnlCfgMask (leWords 32 (bufferOf c s)))
  (notRun : s.pnl.state ≠ .run) (read : bufferOpen 0x28 false c.op.addr 128 s = true)
include words notRun read

theorem pnlCfgLoad_checks : pnlCfgLoad c s = (pnlFault ws).elim
    (finishOp c stOk 128 0 0 (pnlState .loaded { s with pnl.cfg := ws })) fun e => pnlSchema c 128 e.1 e.2 s := by
  subst words
  rw [← length] at read
  unfold pnlCfgLoad
  rw [needBuffer_passes _ (by omega), if_neg (not_not_intro length), if_neg notRun, readWhole_open read]
  dsimp only
  cases pnlFault (maskWords pnlCfgMask (leWords 32 (bufferOf c s))) <;> rfl

theorem pnlCfgLoad_loads (sound : pnlFault ws = none) :
    pnlCfgLoad c s = finishOp c stOk 128 0 0 (pnlState .loaded { s with pnl.cfg := ws }) := by
  rw [pnlCfgLoad_checks length words notRun read, sound]
  rfl

theorem pnlCfgLoad_faulty {reason w : Nat} (faulty : pnlFault ws = some (reason, w)) :
    pnlCfgLoad c s = failOp c stSchema 128 (pnlErr c.op.opcode reason w s) := by
  rw [pnlCfgLoad_checks length words notRun read, faulty]
  rfl

end

end

/-! ### START (R331, R343) -/

theorem pnlStart_busy (h : s.pnl.state ≠ .loaded ∨ s.pnl.en = false) : pnlStart c s = failOp c stBusy 0 s :=
  if_pos (h.imp_right fun off => by rw [off]; rfl)

section
variable (loaded : s.pnl.state = .loaded) (enabled : s.pnl.en = true)
include loaded enabled

/-- The first band whose UPPER is not below the next one's refuses the start. -/
theorem pnlStart_schema {k : Nat} (band : k < 6) (fails : s.pnl.upper (k + 1) ≤ s.pnl.upper k)
    (below : ∀ j, j < k → s.pnl.upper j < s.pnl.upper (j + 1)) :
    pnlStart c s = failOp c stSchema 0 (pnlErr c.op.opcode 1 k s) := by
  have first : (List.range 6).find? (fun b => !decide (s.pnl.upper b < s.pnl.upper (b + 1))) = some k := by
    rw [List.find?_range_eq_some]
    simp only [Bool.not_eq_true', decide_eq_false_iff_not, Int.not_lt, List.mem_range, Bool.not_not, decide_eq_true_eq]
    exact ⟨fails, band, below⟩
  unfold pnlStart
  dsimp only
  rw [if_neg (by simp [loaded, enabled]), first]
  rfl

section
variable (ascending : ∀ k, k < 6 → s.pnl.upper k < s.pnl.upper (k + 1))
include ascending

theorem pnlStart_ascending : pnlStart c s =
    if c.op.word64 6 ≠ 0 ∧ c.op.word64 6 ≤ s.t then failOp c stLate 0 s
    else
      finishOp c stOk 0 (wordOf (firstFrame s.pnl (startTick s (c.op.word64 6)))) (wordOf (s.pnl.bandOf s.pnl.temp))
        (pnlState .run { s with pnl := { s.pnl with
          first := some (firstFrame s.pnl (startTick s (c.op.word64 6))), stopping := false
          band := s.pnl.bandOf s.pnl.temp, pend := none, limitTicks := 0 } }) := by
  have sound : (List.range 6).find? (fun b => !decide (s.pnl.upper b < s.pnl.upper (b + 1))) = none := by
    simpa [List.find?_eq_none] using ascending
  unfold pnlStart
  dsimp only
  rw [if_neg (by simp [loaded, enabled]), sound]

theorem pnlStart_late (named : c.op.word64 6 ≠ 0) (past : c.op.word64 6 ≤ s.t) : pnlStart c s = failOp c stLate 0 s :=
  (pnlStart_ascending loaded enabled ascending).trans (if_pos ⟨named, past⟩)

theorem pnlStart_starts (inTime : c.op.word64 6 = 0 ∨ s.t < c.op.word64 6) : pnlStart c s =
    finishOp c stOk 0 (wordOf (firstFrame s.pnl (startTick s (c.op.word64 6)))) (wordOf (s.pnl.bandOf s.pnl.temp))
      (pnlState .run { s with pnl := { s.pnl with
        first := some (firstFrame s.pnl (startTick s (c.op.word64 6))), stopping := false
        band := s.pnl.bandOf s.pnl.temp, pend := none, limitTicks := 0 } }) :=
  (pnlStart_ascending loaded enabled ascending).trans (if_neg (by omega))

end

end

/-! ### STOP -/

theorem pnlStop_stops (run : s.pnl.state = .run) :
    pnlStop c s = startOp c [] { s with pnl.stopping := true, pnl.pend := none } :=
  (if_neg (not_not_intro run)).trans (congrArg (startOp c []) (if_pos run))

theorem pnlStop_busy (notRun : s.pnl.state ≠ .run) : pnlStop c s = failOp c stBusy 0 s := if_pos notRun

/-! ### STRESS_LOAD and STRESS_READ (R339) -/

section
variable (length : c.op.len = 256)
include length

theorem stressLoad_busy (notLoaded : s.pnl.state ≠ .loaded) : stressLoad c s = failOp c stBusy 0 s := by
  unfold stressLoad
  rw [needBuffer_passes _ (by omega), if_neg (not_not_intro length), if_pos notLoaded]

theorem stressLoad_schema (loaded : s.pnl.state = .loaded) (lcd : s.pnl.oled = false) :
    stressLoad c s = failOp c stSchema 0 (pnlErr c.op.opcode 1 0 s) := by
  unfold stressLoad
  rw [needBuffer_passes _ (by omega), if_neg (not_not_intro length), if_neg (not_not_intro loaded), lcd]
  rfl

theorem stressLoad_loads (loaded : s.pnl.state = .loaded) (oled : s.pnl.oled = true)
    (read : bufferOpen 0x28 false c.op.addr 256 s = true) : stressLoad c s = finishOp c stOk 256 64 0 { s with
      pnl.stress := (leWords 64 (bufferOf c s)).zipIdx.map fun e => (e.2, e.1.toNat) } := by
  rw [← length] at read
  unfold stressLoad
  rw [needBuffer_passes _ (by omega), if_neg (not_not_intro length), if_neg (not_not_intro loaded), if_neg (by simp [oled]),
    readWhole_open read]

theorem stressRead_stores {bs : List Byte} (bytes : bs = stressRegions.flatMap fun r => leBytes 4 (Tab.get 0 s.pnl.stress r))
    (written : bufferOpen 0x28 true c.op.addr bs.length s = true) : stressRead c s =
      finishOp c stOk bs.length (wordOf s.pnl.minuteT) (wordOf (wearMax s.pnl)) (stored c bs s) := by
  subst bytes
  unfold stressRead
  rw [needBuffer_passes _ (by omega), if_neg (not_not_intro length), writeOut_open written]

end

/-! ### REGION_WRITE (R334 to R337) -/

section
variable (length : 0 < c.op.len)
include length

theorem regionWrite_busy (notRun : s.pnl.state ≠ .run) : regionWrite c s = failOp c stBusy 0 s := by
  unfold regionWrite
  rw [needBuffer_passes _ (by omega)]
  exact if_pos notRun

section
variable {r : Nat} {page : Bool} (region : r = bitsOf (c.op.word 6) 3 0) (paged : page = bitOf (c.op.word 6) 8)
  (run : s.pnl.state = .run)
include region paged run

theorem regionWrite_schema (fallback : page = true) (status : s.pnl.statEn = true) (its : r = s.pnl.statId) :
    regionWrite c s = failOp c stSchema 0 (pnlErr c.op.opcode 3 0 s) := by
  subst region paged
  unfold regionWrite
  rw [needBuffer_passes _ (by omega)]
  exact (if_neg (not_not_intro run)).trans (if_pos (by simp [fallback, status, its]))

section
variable (free : page = false ∨ s.pnl.statEn = false ∨ r ≠ s.pnl.statId)
include free

theorem regionWrite_checked : regionWrite c s =
    if c.op.len ≠ s.pnl.rw r * s.pnl.rh r then failOp c stLen 0 s
    else if (Tab.find s.pnl.shadow (2 * r + oneIf page)).isNone then regionRun (2 * r + oneIf page) c (pnlKick s)
    else startOp c [2 * r + oneIf page, 0] ((regionOp (pnlKick s) (2 * r + oneIf page) 0).elim (pnlKick s)
      fun w => failOp w stStale 0 (pnlKick s)) := by
  subst region paged
  unfold regionWrite
  rw [needBuffer_passes _ (by omega)]
  have open' : ¬(bitOf (c.op.word 6) 8 && s.pnl.statEn && bitsOf (c.op.word 6) 3 0 == s.pnl.statId) = true := by
    simpa only [Bool.and_eq_true, not_and_or, Bool.not_eq_true, beq_iff_eq, or_assoc] using free
  refine (if_neg (not_not_intro run)).trans ((if_neg open').trans (if_congr Iff.rfl rfl (if_congr Iff.rfl rfl ?_)))
  generalize regionOp (pnlKick s) _ 0 = waiting
  cases waiting <;> rfl

theorem regionWrite_length (wrong : c.op.len ≠ s.pnl.rw r * s.pnl.rh r) : regionWrite c s = failOp c stLen 0 s :=
  (regionWrite_checked length region paged run free).trans (if_pos wrong)

section
variable (exact' : c.op.len = s.pnl.rw r * s.pnl.rh r)
include exact'

theorem regionWrite_runs (idle : Tab.find s.pnl.shadow (2 * r + oneIf page) = none)
    (read : bufferOpen 0x28 false c.op.addr c.op.len s = true) : regionWrite c s =
      startRead c [2 * r + oneIf page, 1] { s with
        pnl.kickT := s.t, pnl.expired := none
        pnl.shadow := Tab.put s.pnl.shadow (2 * r + oneIf page) (bufferOf c s) } := by
  rw [regionWrite_checked length region paged run free, if_neg (not_not_intro exact'), if_pos (by simp [idle])]
  unfold regionRun
  rw [readBuffer_open (s := pnlKick s) read]
  rfl

section
variable (running : (Tab.find s.pnl.shadow (2 * r + oneIf page)).isSome = true)
include running

theorem regionWrite_waits : regionWrite c s =
    startOp c [2 * r + oneIf page, 0] ((regionOp (pnlKick s) (2 * r + oneIf page) 0).elim (pnlKick s)
      fun w => failOp w stStale 0 (pnlKick s)) := by
  rw [regionWrite_checked length region paged run free, if_neg (not_not_intro exact'),
    if_neg (by rw [Option.isNone_iff_eq_none, ← Option.not_isSome_iff_eq_none]; exact not_not_intro running)]

theorem regionWrite_first (first : regionOp (pnlKick s) (2 * r + oneIf page) 0 = none) :
    regionWrite c s = startOp c [2 * r + oneIf page, 0] (pnlKick s) := by
  rw [regionWrite_waits length region paged run free exact' running, first]
  rfl

/-- The update that waited before ends STALE (R337). -/
theorem regionWrite_second {w : OpRef} (second : regionOp (pnlKick s) (2 * r + oneIf page) 0 = some w) :
    regionWrite c s = startOp c [2 * r + oneIf page, 0] (failOp w stStale 0 (pnlKick s)) := by
  rw [regionWrite_waits length region paged run free exact' running, second]
  rfl

end

end

end

end

end

end

/-- Settles O47: each ring operation by its lemma. -/
theorem panelOperationsFollowTheirChecks : Obligations.PanelOperationsFollowTheirChecks :=
  fun n _ _ hn =>
    ⟨fun taken length =>
        ⟨fun run => takeOp_next n hn taken (pnlCfgLoad_busy length run),
          fun notRun read =>
            ⟨fun sound => takeOp_next n hn taken (pnlCfgLoad_loads length rfl notRun read sound),
              fun _ _ faulty => takeOp_next n hn taken (pnlCfgLoad_faulty length rfl notRun read faulty)⟩⟩,
      fun taken =>
        ⟨fun h => takeOp_next n hn taken (pnlStart_busy h),
          fun loaded enabled ascending =>
            ⟨fun named past => takeOp_next n hn taken (pnlStart_late loaded enabled ascending named past),
              fun inTime => takeOp_next n hn taken (pnlStart_starts loaded enabled ascending inTime)⟩,
          fun _ loaded enabled band fails below =>
            takeOp_next n hn taken (pnlStart_schema loaded enabled band fails below)⟩,
      fun taken =>
        ⟨fun run => takeOp_next n hn taken (pnlStop_stops run),
          fun notRun => takeOp_next n hn taken (pnlStop_busy notRun)⟩,
      fun taken length =>
        ⟨fun notLoaded => takeOp_next n hn taken (stressLoad_busy length notLoaded),
          fun loaded lcd => takeOp_next n hn taken (stressLoad_schema length loaded lcd),
          fun loaded oled read => takeOp_next n hn taken (stressLoad_loads length loaded oled read)⟩,
      fun taken length written => takeOp_next n hn taken (stressRead_stores length rfl written),
      fun taken length =>
        ⟨fun notRun => takeOp_next n hn taken (regionWrite_busy length notRun),
          fun run fallback status its =>
            takeOp_next n hn taken (regionWrite_schema length rfl rfl run fallback status its),
          fun run free =>
            ⟨fun wrong => takeOp_next n hn taken (regionWrite_length length rfl rfl run free wrong),
              fun exact' idle read =>
                takeOp_next n hn taken (regionWrite_runs length rfl rfl run free exact' idle read),
              fun exact' running =>
                ⟨fun first => takeOp_next n hn taken (regionWrite_first length rfl rfl run free exact' running first),
                  fun _ second =>
                    takeOp_next n hn taken (regionWrite_second length rfl rfl run free exact' running second)⟩⟩⟩⟩

end Sys2Proof.Machine
end

section
/-!
Statements about field update: its registers while an activation waits or runs (R414).
-/

namespace Sys2Proof.Machine

/-! ### What an access to UPD leaves alone -/

/-- UPD_CTL, UPD_QUIET and host memory are those of `s`. -/
def KeepsQuiet (s t : State) : Prop := t.upd.quiet = s.upd.quiet ∧ t.upd.quietMin = s.upd.quietMin ∧ t.mem = s.mem

theorem KeepsQuiet.rfl {s : State} : KeepsQuiet s s := ⟨Eq.refl _, Eq.refl _, Eq.refl _⟩

theorem KeepsQuiet.trans {s t u : State} (st : KeepsQuiet s t) (tu : KeepsQuiet t u) : KeepsQuiet s u :=
  ⟨tu.1.trans st.1, tu.2.1.trans st.2.1, tu.2.2.trans st.2.2⟩

theorem KeepsQuiet.raise (src code d : Nat) (s : State) : KeepsQuiet s (raise src code d s) := by
  simp only [KeepsQuiet, raise_upd, raise_mem, and_self]

theorem KeepsQuiet.updEvent (src code d : Nat) (s : State) : KeepsQuiet s (updEvent src code d s) := by
  simp only [KeepsQuiet, Machine.updEvent, raiseAt_upd, raiseAt_mem, and_self]

theorem KeepsQuiet.reply (a : Access) (r : Resp) (s : State) : KeepsQuiet s (s.reply a r) := by
  simp only [KeepsQuiet, State.reply_upd, State.reply_mem, and_self]

theorem KeepsQuiet.configDone (s : State) : KeepsQuiet s (configDone s) := by
  unfold Machine.configDone
  dsimp only
  split
  · exact .trans ⟨Eq.refl _, Eq.refl _, Eq.refl _⟩ (KeepsQuiet.updEvent ..)
  · exact ⟨Eq.refl _, Eq.refl _, Eq.refl _⟩

theorem KeepsQuiet.commitWrite (s : State) : KeepsQuiet s (commitWrite s) := by
  unfold Machine.commitWrite
  split
  · split
    · exact .rfl
    · exact ⟨Eq.refl _, Eq.refl _, Eq.refl _⟩
  · exact KeepsQuiet.updEvent ..

theorem KeepsQuiet.rejectWrite (s : State) : KeepsQuiet s (rejectWrite s) := by
  unfold Machine.rejectWrite
  split
  · exact ⟨Eq.refl _, Eq.refl _, Eq.refl _⟩
  · exact .rfl

/-- A step that is made or left out. -/
theorem KeepsQuiet.ite {p : Prop} [Decidable p] {s t u : State} (yes : KeepsQuiet s t) (no : KeepsQuiet s u) :
    KeepsQuiet s (if p then t else u) := by
  split
  · exact yes
  · exact no

theorem KeepsQuiet.updCmd (v : Word) (s : State) : KeepsQuiet s (updCmd v s) := by
  have first : KeepsQuiet s (if bitOf v 0 then Machine.configDone s else s) := .ite (.configDone s) .rfl
  have second := first.trans (.ite (p := bitOf v 1 = true) (.commitWrite _) .rfl)
  exact second.trans (.ite (.rejectWrite _) .rfl)

/-! ### Writes to the window (R414) -/

section
variable {s : State} (shut : s.boot.state = .waiting ∨ s.boot.state = .activating)
include shut

/-- While the registers are shut only UPD_CMD takes a write. -/
theorem updWrite_shut {off : Nat} (v : Word) (h : off ≠ 0x30) : updWrite off v s = s :=
  (if_neg h).trans (if_pos (by simpa using shut))

theorem updWrite_keepsQuiet (off : Nat) (v : Word) : KeepsQuiet s (updWrite off v s) := by
  by_cases cmd : off = 0x30
  · rw [updWrite, if_pos cmd]
    exact .updCmd v s
  · rw [updWrite_shut shut v cmd]
    exact .rfl

end

/-- No register stands at 0x34, beside UPD_CMD. -/
theorem updWrite_beside_cmd (v : Word) (s : State) : updWrite 0x34 v s = s := by
  unfold updWrite
  simp

/-- A 64-bit write is a write of its two halves. -/
theorem blockWriteWide_upd (a : Access) (off : Nat) (v : BitVec 64) (s : State) : blockWriteWide a 13 off v s =
    if refused (updWrite off (lo32 v) s) then updWrite off (lo32 v) s
    else updWrite (off + 4) (hi32 v) (updWrite off (lo32 v) s) := rfl

theorem blockWriteWide_keepsQuiet {a : Access} {off : Nat} {v : BitVec 64} {s : State}
    (shut : s.boot.state = .waiting ∨ s.boot.state = .activating) : KeepsQuiet s (blockWriteWide a 13 off v s) := by
  rw [blockWriteWide_upd]
  refine .ite (updWrite_keepsQuiet shut ..) ?_
  by_cases cmd : off = 0x30
  · rw [cmd, updWrite_beside_cmd]
    exact updWrite_keepsQuiet shut ..
  · rw [updWrite_shut shut _ cmd]
    exact updWrite_keepsQuiet shut ..

theorem gateWrite_keepsQuiet {a : Access} {blk dom : Nat} {s : State} {k : State → State}
    (kept : KeepsQuiet s (k (s.reply a .ok))) : KeepsQuiet s (gateWrite a blk dom s k) :=
  .ite ⟨rfl, rfl, rfl⟩ (.ite ((KeepsQuiet.raise ..).trans (.reply ..)) kept)

/-- Settles O58: a write to the window keeps both registers, through the gate, of 32 bits or of 64. -/
theorem quietRegistersHoldWhileActivationWaits : Obligations.QuietRegistersHoldWhileActivationWaits := by
  intro a addr wide v s upd shut
  have answered : (s.reply a .ok).boot.state = .waiting ∨ (s.reply a .ok).boot.state = .activating := by
    rwa [State.reply_boot]
  have written : registerWrite a addr wide v s = if wide then
        gateWrite a 13 (registerDomain 13 (addr % 0x1_0000 / 8 * 8)) s (blockWriteWide a 13 (addr % 0x1_0000 / 8 * 8) v)
      else gateWrite a 13 (registerDomain 13 (addr % 0x1_0000 / 4 * 4)) s
        (blockWrite a 13 (addr % 0x1_0000 / 4 * 4) (lo32 v)) := by
    unfold registerWrite
    rw [upd]
  have kept : KeepsQuiet s (registerWrite a addr wide v s) := by
    rw [written]
    exact .ite (gateWrite_keepsQuiet ((KeepsQuiet.reply ..).trans (blockWriteWide_keepsQuiet answered)))
      (gateWrite_keepsQuiet ((KeepsQuiet.reply ..).trans (updWrite_keepsQuiet answered ..)))
  obtain ⟨quiet, quietMin, mem⟩ := kept
  refine ⟨_, rfl, quiet, quietMin, mem, fun access named narrow => ?_⟩
  subst narrow
  rw [registerWrite_window upd]
  refine (gateWrite_open _ access).trans (updWrite_shut answered _ ?_)
  intro cmd
  rw [cmd] at named
  exact absurd named (by decide)

end Sys2Proof.Machine
end

section
/-!
Statements about the rope team: tick-line words and the wing (R374, R375, R377, R389).
-/

namespace Sys2Proof.Machine

/-! ### The 128 bits of a tick-line word (R374) -/

/-- The fields of a word as a number; its low 11 bits are 0. -/
def wordFields (w : TickWord) : Nat :=
  w.serial % 2 ^ 64 * 2 ^ 64 + w.tick % 2 ^ 46 * 2 ^ 18 + w.state % 8 * 2 ^ 15 + w.pos % 4 * 2 ^ 13 +
    oneIf w.tb * 2 ^ 12 + oneIf w.ready * 2 ^ 11

theorem oneIf_lt (b : Bool) : oneIf b < 2 := by cases b <;> decide

theorem wordFields_lt (w : TickWord) : wordFields w < 2 ^ 128 := by
  have tb := oneIf_lt w.tb
  have ready := oneIf_lt w.ready
  unfold wordFields
  omega

theorem wordFields_low (w : TickWord) : 2 ^ 11 * (wordFields w / 2 ^ 11) = wordFields w := by
  unfold wordFields
  omega

theorem wordBits_eq (w : TickWord) : wordBits w =
    BitVec.ofNat 128 (wordFields w) ||| (wordCrc (BitVec.ofNat 128 (wordFields w))).setWidth 128 := rfl

/-- The CRC is taken over bits 127:8 alone. -/
theorem wordCrc_or_low (v : BitVec 128) (c : Byte) : wordCrc (v ||| c.setWidth 128) = wordCrc v := by
  unfold wordCrc
  refine congrArg crc8 (List.map_congr_left fun i hi => ?_)
  have above : 8 ≤ 127 - i := by
    have := List.mem_range.1 hi
    omega
  rw [BitVec.getLsbD_or, BitVec.getLsbD_setWidth, BitVec.getLsbD_of_ge c _ above, Bool.and_false, Bool.or_false]

/-- The CRC stands below the fields. -/
theorem wordBits_toNat (w : TickWord) :
    ∃ c, c < 2 ^ 8 ∧ (wordCrc (wordBits w)).toNat = c ∧ (wordBits w).toNat = wordFields w + c := by
  refine ⟨_, (wordCrc (wordBits w)).isLt, rfl, ?_⟩
  have crc : wordCrc (wordBits w) = wordCrc (BitVec.ofNat 128 (wordFields w)) := wordCrc_or_low ..
  rw [crc, wordBits_eq]
  generalize wordCrc (BitVec.ofNat 128 (wordFields w)) = c
  have small : c.toNat < 2 ^ 11 := Nat.lt_trans c.isLt (by decide)
  rw [BitVec.toNat_or, BitVec.toNat_ofNat, Nat.mod_eq_of_lt (wordFields_lt w), BitVec.toNat_setWidth_of_le (by decide),
    ← wordFields_low w, ← Nat.two_pow_add_eq_or_of_lt small]

/-- A bit of a word from its number. -/
theorem getLsbD_eq_of_div {v : BitVec 128} {i : Nat} {b : Bool} (h : v.toNat / 2 ^ i % 2 = oneIf b) :
    v.getLsbD i = b := by
  rw [BitVec.getLsbD, Nat.testBit_eq_decide_div_mod_eq, h]
  cases b <;> rfl

section
variable {n t p st b r c : Nat} (pos : p < 4) (state : st < 8) (tb : b < 2) (ready : r < 2) (low : c < 256)

include ready low in
theorem fields_bit11 : (n * 2 ^ 64 + t * 2 ^ 18 + st * 2 ^ 15 + p * 2 ^ 13 + b * 2 ^ 12 + r * 2 ^ 11 + c) / 2 ^ 11 % 2 = r := by
  omega

include tb ready low

theorem fields_bit12 : (n * 2 ^ 64 + t * 2 ^ 18 + st * 2 ^ 15 + p * 2 ^ 13 + b * 2 ^ 12 + r * 2 ^ 11 + c) / 2 ^ 12 % 2 = b := by
  omega

include pos

theorem fields_pos : (n * 2 ^ 64 + t * 2 ^ 18 + st * 2 ^ 15 + p * 2 ^ 13 + b * 2 ^ 12 + r * 2 ^ 11 + c) / 2 ^ 13 % 2 ^ 2 = p := by
  omega

include state

theorem fields_state : (n * 2 ^ 64 + t * 2 ^ 18 + st * 2 ^ 15 + p * 2 ^ 13 + b * 2 ^ 12 + r * 2 ^ 11 + c) / 2 ^ 15 % 2 ^ 3 = st := by
  omega

theorem fields_tick (tick : t < 2 ^ 46) :
    (n * 2 ^ 64 + t * 2 ^ 18 + st * 2 ^ 15 + p * 2 ^ 13 + b * 2 ^ 12 + r * 2 ^ 11 + c) / 2 ^ 18 % 2 ^ 46 = t := by
  omega

theorem fields_serial (tick : t < 2 ^ 46) (serial : n < 2 ^ 64) :
    (n * 2 ^ 64 + t * 2 ^ 18 + st * 2 ^ 15 + p * 2 ^ 13 + b * 2 ^ 12 + r * 2 ^ 11 + c) / 2 ^ 64 % 2 ^ 64 = n := by
  omega

end

section
variable {w : TickWord} {c : Nat} (low : c < 256)
  (number : (wordBits w).toNat = w.serial * 2 ^ 64 + w.tick * 2 ^ 18 + w.state * 2 ^ 15 + w.pos * 2 ^ 13 +
    oneIf w.tb * 2 ^ 12 + oneIf w.ready * 2 ^ 11 + c)
include low number

theorem wordBits_ready : (wordBits w).getLsbD 11 = w.ready :=
  getLsbD_eq_of_div ((congrArg (· / 2 ^ 11 % 2) number).trans (fields_bit11 (oneIf_lt _) low))

theorem wordBits_tb : (wordBits w).getLsbD 12 = w.tb :=
  getLsbD_eq_of_div ((congrArg (· / 2 ^ 12 % 2) number).trans (fields_bit12 (oneIf_lt _) (oneIf_lt _) low))

/-- The CRC of the word's fields stands in its low byte. -/
theorem wordBits_crc (crc : (wordCrc (wordBits w)).toNat = c) : wordCrc (wordBits w) = (wordBits w).setWidth 8 := by
  refine BitVec.eq_of_toNat_eq ?_
  rw [crc, BitVec.toNat_setWidth, number]
  omega

section
variable (pos : w.pos < 4)
include pos

theorem wordBits_pos : ((wordBits w).extractLsb' 13 2).toNat = w.pos := by
  rw [BitVec.extractLsb'_toNat, number, Nat.shiftRight_eq_div_pow]
  exact fields_pos pos (oneIf_lt _) (oneIf_lt _) low

variable (state : w.state < 8)
include state

theorem wordBits_state : ((wordBits w).extractLsb' 15 3).toNat = w.state := by
  rw [BitVec.extractLsb'_toNat, number, Nat.shiftRight_eq_div_pow]
  exact fields_state pos state (oneIf_lt _) (oneIf_lt _) low

variable (tick : w.tick < 2 ^ 46)
include tick

theorem wordBits_tick : ((wordBits w).extractLsb' 18 46).toNat = w.tick := by
  rw [BitVec.extractLsb'_toNat, number, Nat.shiftRight_eq_div_pow]
  exact fields_tick pos state (oneIf_lt _) (oneIf_lt _) low tick

theorem wordBits_serial (serial : w.serial < 2 ^ 64) : ((wordBits w).extractLsb' 64 64).toNat = w.serial := by
  rw [BitVec.extractLsb'_toNat, number, Nat.shiftRight_eq_div_pow]
  exact fields_serial pos state (oneIf_lt _) (oneIf_lt _) low tick serial

end

end

theorem readWord_wordBits {w : TickWord} (serial : w.serial < 2 ^ 64) (tick : w.tick < 2 ^ 46) (state : w.state < 8)
    (pos : w.pos < 4) : readWord (wordBits w) = some w := by
  obtain ⟨c, low, crc, number⟩ := wordBits_toNat w
  rw [wordFields, Nat.mod_eq_of_lt serial, Nat.mod_eq_of_lt tick, Nat.mod_eq_of_lt state, Nat.mod_eq_of_lt pos] at number
  unfold readWord
  rw [if_neg (not_not_intro (wordBits_crc low number crc)), wordBits_serial low number pos state tick serial,
    wordBits_tick low number pos state tick, wordBits_state low number pos state, wordBits_pos low number pos,
    wordBits_tb low number, wordBits_ready low number]

/-! ### A word of the wing pair (R389) -/

/-- The module takes the word of another pair's lead. -/
def State.hearsWing (s : State) (w : TickWord) : Prop :=
  s.rtl.role = .lead ∧ s.rtl.left = false ∧ s.rtl.upWing = true ∧ s.pdOn 11 = true ∧ w.tb = true ∧
    (w.state = 3 ∨ w.state = 5)

section
variable {w : TickWord} {edge : Nat} {b : Int} {s : State}

theorem hearsWing_iff : s.hearsWing w ↔ ¬(s.rtl.role ≠ .lead ∨ s.rtl.left ∨ !s.rtl.upWing ∨ !s.pdOn 11 ∨ !w.tb ∨
    (w.state ≠ 3 ∧ w.state ≠ 5)) := by
  simp only [State.hearsWing, not_or, not_and_or, not_not, Bool.not_eq_true, Bool.not_eq_true', Bool.not_eq_false]

theorem wingWord_unheard (h : ¬s.hearsWing w) : wingWord w edge b s = s := if_pos (not_not.1 (mt hearsWing_iff.2 h))

theorem wingWord_lower (h : s.hearsWing w) (rank : outranks w s = false) :
    wingWord w edge b s = { s with rtl.wingB := some (w.tick, edge) } :=
  (if_neg (hearsWing_iff.1 h)).trans (if_pos (by rw [rank]; rfl))

theorem wingWord_higher (h : s.hearsWing w) (rank : outranks w s = true) :
    wingWord w edge b s = measureTheta w.tick edge b { s with rtl.wingT := some s.t } :=
  (if_neg (hearsWing_iff.1 h)).trans (if_neg (by rw [rank]; decide))

/-- The slew limit is reported, and the measurement stays. -/
theorem slewCheck_rtl (s : State) : (slewCheck s).rtl = s.rtl := by
  unfold slewCheck
  dsimp only
  split
  · rfl
  · rw [raise_rtl]

theorem slewCheck_gts (s : State) : (slewCheck s).gts = s.gts := by
  unfold slewCheck
  dsimp only
  split
  · rfl
  · rw [raise_gts]

/-- θ of a pair of stamps does not depend on the tick that they name. -/
theorem measureTheta_rtl (t a : Nat) (b : Int) (s : State) : (measureTheta t a b s).rtl = { s.rtl with
    theta := openHalf ((a : Int) - b + 64 * 200000), delay := (measureTheta t a b s).rtl.delay, measured := true } := by
  have difference : ((a : Int) - 64 * ((400000 * t : Nat) : Int)) - (b - 64 * ((400000 * t + 200000 : Nat) : Int)) =
      (a : Int) - b + 64 * 200000 := by
    push_cast
    ring
  unfold measureTheta
  dsimp only
  rw [slewCheck_rtl, difference]

theorem measureTheta_gts (t a : Nat) (b : Int) (s : State) : (measureTheta t a b s).gts = s.gts := slewCheck_gts _

end

/-- A word of the wing pair whose CRC is right, on a module with a time base. -/
theorem tickLineWord_wing {v : BitVec 128} {w : TickWord} {edge : Nat} {b : Int} {s : State} (word : readWord v = some w)
    (running : s.tick.running = true) (mode : s.mode = .run ∨ s.mode = .descent) :
    exec (.tickLineWord v edge (some b)) s = .next (wingWord w edge b s) := by
  refine (whileTeam_on _ running mode).trans (congrArg _ ?_)
  unfold tickLineWord
  rw [if_neg (by simp [running]), word]

theorem wingNow_eq (s : State) : wingNow s = if s.rtl.role = .lead ∧ s.rtl.upWing = true ∧ s.pdOn 11 = true then
    some (boundaryOf s.t + (if follows s then 200000 else 0), wordBits (wordOfTick s.t s), s.rtl.wingB) else none := rfl

/-- A lead follows the pair lead of higher rank that it has heard within 3 ticks. -/
theorem follows_lead {s : State} (lead : s.rtl.role = .lead) :
    follows s = true ↔ ∃ k, s.rtl.wingT = some k ∧ s.t ≤ k + 3 := by
  simp [follows, lead, Option.any_eq_true]

/-- Settles O54: the word reads back, and the wing's word is taken by rank. -/
theorem tickWordsAndTheWing : Obligations.TickWordsAndTheWing := by
  refine ⟨fun w => readWord_wordBits, fun v w edge b s word running mode => ?_⟩
  have taken := tickLineWord_wing (edge := edge) (b := b) word running mode
  refine ⟨fun deaf => taken.trans (congrArg _ (wingWord_unheard deaf)),
    fun hears rank => taken.trans (congrArg _ (wingWord_lower hears rank)), fun hears rank => ?_, wingNow_eq s,
    follows_lead⟩
  refine ⟨_, taken.trans (congrArg _ (wingWord_higher hears rank)), ?_⟩
  rw [measureTheta_rtl, measureTheta_gts]
  exact ⟨rfl, rfl, hears.1, rfl, rfl⟩

end Sys2Proof.Machine
end

section
/-!
Statements about the rope team: checkpoints and RTL_CTL (R391 to R393).
-/

namespace Sys2Proof.Machine

/-! ### CKPT_PUT and CKPT_BUF (R391) -/

/-- A lead or a second puts a checkpoint for which the twin has a buffer. -/
theorem ckpt_goes {e : CkptEnd} {s : State} (team : s.rtl.state = .lead ∨ s.rtl.state = .second) (buffer : e ≠ .noBuffer) :
    ¬((s.rtl.state ≠ .lead ∧ s.rtl.state ≠ .second) ∨ e = .noBuffer) := by
  simp only [not_or, not_and_or, not_not]
  exact ⟨team, buffer⟩

section
variable {e : CkptEnd} {c : OpRef} {s : State} (least : 1 ≤ c.op.len) (most : c.op.len ≤ 65536)
include least most

theorem ckptPut_busy (h : (s.rtl.state ≠ .lead ∧ s.rtl.state ≠ .second) ∨ e = .noBuffer) :
    ckptPut e c s = failOp c stBusy 0 s := by
  unfold ckptPut
  rw [if_neg (by omega), if_pos h]

section
variable (team : s.rtl.state = .lead ∨ s.rtl.state = .second)
  (read : bufferOpen 0x2A false c.op.addr c.op.len s = true)
include team read

/-- The checkpoint that leaves the module. -/
def ckptSent (c : OpRef) (s : State) : Ckpt :=
  { tag := bitsOf (c.op.word 6) 15 0, tick := s.t, gts := s.gts, payload := bufferOf c s }

theorem ckptPut_delivered (up : pairUp s = true) : ckptPut .delivered c s =
    finishOp c stOk c.op.len (wordOf s.t) 0 { s with rtl.ckptOut := some (ckptSent c s) } := by
  unfold ckptPut
  rw [if_neg (by omega), if_neg (ckpt_goes (e := .delivered) team nofun)]
  dsimp only
  rw [readWhole_open read, up]
  rfl

theorem ckptPut_lost {k : Nat} (up : pairUp s = true) : ckptPut (.lost k) c s =
    failOp c stIncomplete (min k c.op.len) { s with rtl.ckptOut := some (ckptSent c s) } := by
  unfold ckptPut
  rw [if_neg (by omega), if_neg (ckpt_goes (e := .lost k) team nofun)]
  dsimp only
  rw [readWhole_open read, up]
  rfl

theorem ckptPut_down (down : pairUp s = false) (buffer : e ≠ .noBuffer) :
    ckptPut e c s = failOp c stIncomplete 0 s := by
  unfold ckptPut
  rw [if_neg (by omega), if_neg (ckpt_goes team buffer)]
  dsimp only
  rw [readWhole_open read, down]

end

end

/-! ### CHECKPOINT_ARRIVAL (R392) -/

section
variable {tag tick g : Nat} {payload bs : List Byte} {c : OpRef} {s : State}

theorem checkpointArrival_stores
    (bytes : bs = leBytes 8 tick ++ leBytes 8 g ++ leBytes 4 payload.length ++ leBytes 2 tag ++ zeros 42 ++ payload)
    (up : pairUp s = true) (stays : s.rtl.left = false) (buffer : s.poolBuffer 12 2 0x20 = some c)
    (written : bufferOpen 0x2A true c.op.addr bs.length s = true) : checkpointArrival tag tick g payload s =
      finishOp c stOk bs.length (wordOf (tag % 65536)) (wordOf tick) (stored c bs s) := by
  subst bytes
  unfold checkpointArrival
  rw [if_neg (by simp [up, stays]), buffer]
  exact writeOut_open written

theorem checkpointArrival_drops (h : pairUp s = false ∨ s.poolBuffer 12 2 0x20 = none) :
    checkpointArrival tag tick g payload s = s := by
  unfold checkpointArrival
  split
  · rfl
  next up =>
    obtain down | none' := h
    · exact absurd (by simp [down]) up
    · rw [none']

end

/-! ### RTL_CTL (R393) -/

/-- A pair that is down stays down. -/
theorem pairChange_wing_down {s : State} (down : s.rtl.upWing = false) : pairChange 2 false s = s :=
  if_pos (by simp [down])

section
variable {v : Word} {s : State}

theorem rtlCtlWrite_enables (want : bitOf v 31 = true) (off : s.rtl.en = false) (wing : bitOf v 30 = s.rtl.wingEn)
    (down : s.rtl.upWing = false) :
    rtlCtlWrite v s = { s with rtl.en := enableFault s == 0, rtl.err := enableFault s } := by
  unfold rtlCtlWrite
  dsimp only
  rw [if_pos (by rw [off]; rfl), wing, want, pairChange_wing_down (s := { s with rtl.wingEn := s.rtl.wingEn }) down, ite_self,
    if_neg (by decide)]

section
variable (enabled : s.rtl.en = true)
include enabled

theorem rtlCtlWrite_wing (wing : bitOf v 30 ≠ s.rtl.wingEn) : rtlCtlWrite v s = { s with rtl.err := 3 } :=
  (if_neg (by simp [enabled])).trans (if_pos (by simpa using wing))

theorem rtlCtlWrite_disables (wing : bitOf v 30 = s.rtl.wingEn) (leave : bitOf v 31 = false) : rtlCtlWrite v s =
    if s.rtl.state = .off ∨ s.rtl.state = .seeking then { s with rtl.en := false } else { s with rtl.err := 3 } :=
  (if_neg (by simp [enabled])).trans ((if_neg (by simp [wing])).trans (if_neg (by simp [leave])))

end

/-- EN 1 is taken in OFF alone, with every witness controller enabled and fast enough. -/
theorem enableFault_zero_iff : enableFault s = 0 ↔
    s.rtl.state = .off ∧ ∀ k ∈ witnessCtrls s, (s.canCtl k).en = true ∧ rateOk (s.canCtl k) = true := by
  have all : ((∀ k ∈ witnessCtrls s, (s.canCtl k).en = true ∧ rateOk (s.canCtl k) = true) ↔
      ¬((witnessCtrls s).any fun k => !(s.canCtl k).en) = true ∧
        ¬((witnessCtrls s).any fun k => !rateOk (s.canCtl k)) = true) := by
    simp only [List.any_eq_true, Bool.not_eq_true', not_exists, not_and, Bool.not_eq_false]
    exact ⟨fun h => ⟨fun k hk => (h k hk).1, fun k hk => (h k hk).2⟩, fun h k hk => ⟨h.1 k hk, h.2 k hk⟩⟩
  rw [all]
  unfold enableFault
  dsimp only
  split
  next notOff => exact ⟨nofun, fun h => absurd h.1 notOff⟩
  next off =>
    split
    next disabled => exact ⟨nofun, fun h => absurd disabled h.2.1⟩
    next enabled =>
      split
      next slow => exact ⟨nofun, fun h => absurd slow h.2.2⟩
      next fast => exact ⟨fun _ => ⟨not_not.1 off, enabled, fast⟩, fun _ => rfl⟩

end

/-- Settles O56: each operation and each write by its lemma. -/
theorem checkpointsAndTeamControl : Obligations.CheckpointsAndTeamControl := by
  refine ⟨fun n e c s hn => ⟨fun taken least most => ⟨fun h => takeOp_next n hn taken (ckptPut_busy least most h),
      fun team read => ⟨fun up sent => ?_, fun k up lost => ?_, fun down buffer =>
        takeOp_next n hn taken (ckptPut_down least most team read down buffer)⟩⟩,
      fun taken => takeOp_next n hn taken rfl⟩,
    fun tag tick g payload s running mode => ⟨fun c up stays buffer written => ?_, fun h => ?_⟩, fun a v s access => ?_⟩
  · subst sent
    exact takeOp_next n hn taken (ckptPut_delivered least most team read up)
  · subst lost
    exact takeOp_next n hn taken (ckptPut_lost least most team read up)
  · exact (whileTeam_on _ running mode).trans
      (congrArg _ (checkpointArrival_stores rfl up stays buffer written))
  · exact (whileTeam_on _ running mode).trans (congrArg _ (checkpointArrival_drops h))
  · have written : exec (.rtlEnable a v) s = .next (rtlCtlWrite v (s.reply a .ok)) :=
      congrArg Host.Outcome.next (gateWrite_open _ access)
    exact ⟨fun want off wing down => written.trans (congrArg _ (rtlCtlWrite_enables want off wing down)),
      enableFault_zero_iff, fun enabled wing => written.trans (congrArg _ (rtlCtlWrite_wing enabled wing)),
      fun enabled wing leave => written.trans (congrArg _ (rtlCtlWrite_disables enabled wing leave))⟩

end Sys2Proof.Machine
end

section
/-!
Statements about the event recorder (R431 to R440).
-/

namespace Sys2Proof.Machine

/-! ### Flushes (R435 to R437) -/

section
variable {s : State}

section
variable (due : flushDue s = true) (kept : s.recorder.overwritten = 0) (staged : s.recorder.staging ≠ [])
include due kept staged

/-- Records of the staging SRAM that none has been written over. -/
theorem recFlush_due (ok : Bool) : recFlush ok s = if ok then
      s.recorder.staging.foldl (fun s rec => writeFlash rec s) { s with
        recorder.staging := [], recorder.failed := 0, recorder.hoursFlash := s.recorder.hours }
    else if s.recorder.failed = 0 then { s with recorder.failed := s.recorder.staging.length }
    else raise 480 3 s.recorder.failed { s with
      recorder.staging := s.recorder.staging.drop s.recorder.failed
      recorder.failed := s.recorder.staging.length - s.recorder.failed
      recorder.lost := satTo (s.recorder.lost + s.recorder.failed) max32 } := by
  have waiting : ¬(s.recorder.staging.isEmpty && s.recorder.overwritten == 0) = true := by
    simp [List.isEmpty_iff, staged]
  unfold recFlush flushRecorder
  rw [if_pos due]
  refine (if_neg waiting).trans (if_congr Iff.rfl ?_ rfl)
  rw [if_pos kept]

theorem recFlush_writes : recFlush true s = s.recorder.staging.foldl (fun s rec => writeFlash rec s) { s with
    recorder.staging := [], recorder.failed := 0, recorder.hoursFlash := s.recorder.hours } :=
  (recFlush_due due kept staged true).trans (if_pos rfl)

/-- Where the write fails the records stay for one more try (R437). -/
theorem recFlush_fails (first : s.recorder.failed = 0) :
    recFlush false s = { s with recorder.failed := s.recorder.staging.length } :=
  (recFlush_due due kept staged false).trans ((if_neg Bool.false_ne_true).trans (if_pos first))

end

theorem recFlush_early {ok : Bool} (early : flushDue s = false) : recFlush ok s = s := if_neg (by simp [early])

/-! ### The rate window (R434) and hours (R431) -/

/-- The boundary that ends the window before the present one. -/
def windowEnd (s : State) : Nat := windowOf s.gts * 1000 * tickLen

theorem rateWindowEnd_waits (earlier : ∃ e ∈ s.sys.merger, e.gts < windowEnd s) : rateWindowEnd s = s :=
  if_pos (by simpa [windowEnd] using earlier)

theorem rateWindowEnd_closes (none' : ∀ e ∈ s.sys.merger, windowEnd s ≤ e.gts) : rateWindowEnd s =
    raiseSuppressed (windowEnd s) (s.recorder.suppressed.filter fun e => e.1 / 512 < windowOf s.gts) { s with
      recorder.suppressed := s.recorder.suppressed.filter fun e => windowOf s.gts ≤ e.1 / 512
      recorder.inWindow := s.recorder.inWindow.filter fun e => windowOf s.gts ≤ e.1 / 512 } :=
  if_neg (by simpa [windowEnd] using none')

theorem hoursAdvance_counts (mode : s.mode = .run ∨ s.mode = .descent ∨ s.mode = .fixedRope) :
    hoursAdvance s = { s with recorder.hours := min (s.recorder.hours + 1) max32 } := by
  unfold hoursAdvance
  obtain run | descent | fixed := mode
  · rw [run]; rfl
  · rw [descent]; rfl
  · rw [fixed]; rfl

theorem hoursAdvance_stays (mode : s.mode = .cold ∨ s.mode = .bivouac) : hoursAdvance s = s := by
  unfold hoursAdvance
  obtain cold | bivouac := mode
  · rw [cold]
  · rw [bivouac]

/-! ### The end of a copy (R439) -/

section
variable {c : OpRef} (copy : s.opOf 15 0 (isStarted 1) = some c)
include copy

theorem recCopyComplete_ends : recCopyComplete s = finishOp c
    (if (c.op.aux.getD 1 0 * 32 == c.op.len && s.recorder.clears == c.op.aux.getD 2 0) = true then stOk
      else stIncomplete) c.op.xfer (wordOf (c.op.aux.getD 1 0)) (wordOf (c.op.aux.getD 0 0)) s := by
  unfold recCopyComplete
  rw [copy]

theorem recCopyComplete_whole (all : c.op.aux.getD 1 0 * 32 = c.op.len)
    (uncleared : s.recorder.clears = c.op.aux.getD 2 0) : recCopyComplete s =
      finishOp c stOk c.op.xfer (wordOf (c.op.aux.getD 1 0)) (wordOf (c.op.aux.getD 0 0)) s := by
  rw [recCopyComplete_ends copy, if_pos (by rw [all, uncleared, beq_self_eq_true, beq_self_eq_true, Bool.and_true])]

theorem recCopyComplete_short
    (short : c.op.aux.getD 1 0 * 32 ≠ c.op.len ∨ s.recorder.clears ≠ c.op.aux.getD 2 0) : recCopyComplete s =
      finishOp c stIncomplete c.op.xfer (wordOf (c.op.aux.getD 1 0)) (wordOf (c.op.aux.getD 0 0)) s := by
  rw [recCopyComplete_ends copy,
    if_neg (by rwa [Bool.and_eq_true, beq_iff_eq, beq_iff_eq, not_and_or])]

end

theorem recCopyComplete_nothing (h : s.opOf 15 0 (isStarted 1) = none) : recCopyComplete s = s := by
  unfold recCopyComplete
  rw [h]

end

/-! ### The window (R438) -/

/-- What a read of REC_WINDOW0 latches is what it shows. -/
theorem recRead_window0 (a : Access) (s : State) : recRead a 0x20 s =
    (((s.recorder.look (Tab.get false s.recorder.csel a.ini.id) (Tab.get 0 s.recorder.cursor a.ini.id)).1.getD 0 0),
      { s with
        recorder.window := Tab.put s.recorder.window a.ini.id
          (s.recorder.look (Tab.get false s.recorder.csel a.ini.id) (Tab.get 0 s.recorder.cursor a.ini.id)) }) := by
  have latched : windowOfIni a (latchWindow a s) =
      s.recorder.look (Tab.get false s.recorder.csel a.ini.id) (Tab.get 0 s.recorder.cursor a.ini.id) :=
    Tab.get_put_self ..
  have shown : recRead a 0x20 s = ((windowOfIni a (latchWindow a s)).1.getD 0 0, latchWindow a s) := rfl
  rw [shown, latched]
  rfl

theorem recRead_window7 (a : Access) (s : State) : recRead a 0x3C s =
    ((Tab.get ([], 2) s.recorder.window a.ini.id).1.getD 7 0,
      if (Tab.get ([], 2) s.recorder.window a.ini.id).2 = 2 then s else { s with
          recorder.cursor := Tab.put s.recorder.cursor a.ini.id (inc32 (Tab.get 0 s.recorder.cursor a.ini.id)) }) := rfl

/-! ### REC_CLEAR (R440) -/

section
variable {a : Access} {v : Word} {s : State}

theorem recClear_clears (key : secureOf a = true ∧ bitsOf v 31 16 = 0x5C3E ∧ bitOf v 0 = true) : recClear a v s =
    writeOwn 482 1 (sub32 s.recorder.next s.recorder.first % 2 ^ 24 * 256 + a.ini.id)
      { s with recorder.first := s.recorder.next, recorder.scree := [], recorder.clears := s.recorder.clears + 1 } :=
  if_pos (by simp [key])

theorem recClear_refused (key : ¬(secureOf a = true ∧ bitsOf v 31 16 = 0x5C3E ∧ bitOf v 0 = true)) :
    recClear a v s = raise 483 1 a.ini.id s :=
  if_neg (by simpa only [Bool.and_eq_true, beq_iff_eq, and_assoc] using key)

end

/-! ### REC_COPY (R439) -/

section
variable {c : OpRef} {s : State}

theorem recCopy_length (h : c.op.len = 0 ∨ c.op.len % 32 ≠ 0 ∨ 262144 < c.op.len) : recCopy c s = failOp c stLen 0 s := by
  unfold recCopy
  by_cases empty : c.op.len = 0
  · exact if_pos empty
  · rw [needBuffer_passes _ empty]
    exact if_pos (h.resolve_left empty)

/-- The records that a copy into the buffer of `c` takes. -/
def copied (c : OpRef) (s : State) : List (List Word) :=
  copyRecords s.recorder (bitOf (c.op.word 6) 0)
    (copyFrom s.recorder (bitOf (c.op.word 6) 0) (c.op.word 7).toNat) (c.op.len / 32)

theorem recCopy_starts {bs : List Byte}
    (bytes : bs = (copied c s).flatMap fun rec => wordBytes ((List.range 8).map fun i => rec.getD i 0))
    (some' : 0 < c.op.len) (whole : c.op.len % 32 = 0) (most : c.op.len ≤ 262144)
    (written : bufferOpen 0x2D true c.op.addr bs.length s = true) : recCopy c s = (stored c bs s).setOp c { c.op with
      stage := .started, xfer := bs.length
      aux := [copyFrom s.recorder (bitOf (c.op.word 6) 0) (c.op.word 7).toNat, (copied c s).length, s.recorder.clears] } := by
  subst bytes
  unfold copied at written ⊢
  unfold recCopy
  rw [needBuffer_passes _ (by omega), if_neg (by omega)]
  dsimp only
  rw [writeBuffer_open written]
  rfl

end

/-- Settles O60: each happening, read, write and operation by its lemma. -/
theorem recorderKeepsAndGivesItsRecords : Obligations.RecorderKeepsAndGivesItsRecords :=
  ⟨fun _ =>
      ⟨fun due kept staged =>
          ⟨congrArg _ (recFlush_writes due kept staged), fun first => congrArg _ (recFlush_fails due kept staged first)⟩,
        fun _ early => congrArg _ (recFlush_early early),
        ⟨fun earlier => congrArg _ (rateWindowEnd_waits earlier),
          fun none' => congrArg _ (rateWindowEnd_closes none')⟩,
        fun mode => congrArg _ (hoursAdvance_counts mode),
        fun mode => congrArg _ (hoursAdvance_stays mode),
        fun _ copy =>
          ⟨fun all uncleared => congrArg _ (recCopyComplete_whole copy all uncleared),
            fun short => congrArg _ (recCopyComplete_short copy short)⟩,
        fun nothing => congrArg _ (recCopyComplete_nothing nothing)⟩,
    fun a s access =>
      ⟨congrArg Host.Outcome.next ((gate_open _ access).trans
          (congrArg (fun x : Word × State => x.2.replyWord a x.1) (recRead_window0 a s))),
        congrArg Host.Outcome.next ((gate_open _ access).trans
          (congrArg (fun x : Word × State => x.2.replyWord a x.1) (recRead_window7 a s)))⟩,
    fun _ _ _ access =>
      ⟨fun key => congrArg Host.Outcome.next ((gateWrite_open _ access).trans (recClear_clears key)),
        fun key => congrArg Host.Outcome.next ((gateWrite_open _ access).trans (recClear_refused key))⟩,
    fun n _ _ hn taken =>
      ⟨fun wrong => takeOp_next n hn taken (recCopy_length wrong),
        fun some' whole most written => takeOp_next n hn taken (recCopy_starts rfl some' whole most written)⟩⟩

end Sys2Proof.Machine
end

section
/-!
Statements about the energy governor (R358 to R362, R367 to R369).
-/

namespace Sys2Proof.Machine

theorem Tab.find_put_ne {α : Type} {k j : Nat} (v : α) (other : j ≠ k) :
    ∀ t : Tab α, Tab.find (Tab.put t k v) j = Tab.find t j
  | [] => if_neg other
  | (i, w) :: r => by
    unfold Tab.put
    split
    next same =>
      subst same
      simp only [Tab.find, if_neg other]
    next =>
      split
      · simp only [Tab.find, if_neg other]
      · simp only [Tab.find, Tab.find_put_ne v other r]

/-! ### What a period's end leaves alone -/

/-- What the books say of the period that has ended: its end, P_allow, the mean and the ticks counted since. -/
def Gov.period (g : Gov) : Nat × Rat × Rat × Nat := (g.endT, g.pAllow, g.pMeas, g.ticks)

/-- A decision waits for the next boundary (R361): the work, and the books of the period, are those of `s`. -/
def KeepsWork (s t : State) : Prop := t.pwr.gov.period = s.pwr.gov.period ∧ t.gts = s.gts ∧ t.lsw = s.lsw ∧
  t.mem = s.mem ∧ t.ipl = s.ipl ∧ t.lko = s.lko ∧ t.gnb = s.gnb

theorem KeepsWork.trans {s t u : State} (st : KeepsWork s t) (tu : KeepsWork t u) : KeepsWork s u := by
  obtain ⟨p, g, l, m, i, k, n⟩ := st
  obtain ⟨p', g', l', m', i', k', n'⟩ := tu
  exact ⟨p'.trans p, g'.trans g, l'.trans l, m'.trans m, i'.trans i, k'.trans k, n'.trans n⟩

theorem KeepsWork.refl (s : State) : KeepsWork s s := ⟨rfl, rfl, rfl, rfl, rfl, rfl, rfl⟩

theorem KeepsWork.raise (src code d : Nat) (s : State) : KeepsWork s (raise src code d s) := by
  simp only [KeepsWork, raise_pwr, raise_gts, raise_lsw, raise_mem, raise_ipl, raise_lko, raise_gnb, and_self]

theorem KeepsWork.ladderJob (code : Nat) (x : Ladder) (s : State) : KeepsWork s (ladderJob code x s) := by
  unfold Machine.ladderJob
  split
  · split
    · exact .refl s
    · exact .raise ..
  · exact .refl s

@[simp] theorem ladderJob_pwr (code : Nat) (x : Ladder) (s : State) : (ladderJob code x s).pwr = s.pwr := by
  unfold ladderJob
  split
  · split
    · rfl
    · exact raise_pwr ..
  · rfl

/-! ### Deferring (R361) -/

/-- The governor's books replaced. -/
def State.setGov (s : State) (g : Gov) : State := { s with pwr.gov := g }

@[simp] theorem State.setGov_gov (s : State) (g : Gov) : (s.setGov g).pwr.gov = g := rfl

theorem KeepsWork.setGov {s : State} {g : Gov} (same : g.period = s.pwr.gov.period) : KeepsWork s (s.setGov g) :=
  ⟨same, rfl, rfl, rfl, rfl, rfl, rfl⟩

section
variable {p : Rat} {s : State}

section
variable {e : Ladder × Rat} (next : nextItem s = some e)
include next

theorem deferNext_item : ∃ n, deferNext p s = raise 24 1 n (ladderJob 1 e.1 (s.setGov { s.pwr.gov with
    qual := 0, ladder := e :: s.pwr.gov.ladder, spent := 0, pending := some (true, e.1) })) := by
  have same : nextItem { s with pwr.gov.qual := 0 } = some e := next
  unfold deferNext
  dsimp only
  rw [same]
  exact ⟨_, rfl⟩

theorem deferNext_gov : (deferNext p s).pwr.gov = { s.pwr.gov with
    qual := 0, ladder := e :: s.pwr.gov.ladder, spent := 0, pending := some (true, e.1) } := by
  obtain ⟨n, defer⟩ := deferNext_item (p := p) next
  rw [defer, raise_pwr, ladderJob_pwr, State.setGov_gov]

end

/-- With the ladder exhausted nothing is deferred. -/
theorem deferNext_exhausted (none' : nextItem s = none) : (deferNext p s).pwr.gov = { s.pwr.gov with
    qual := 0, spent := s.pwr.gov.spent + 1 } ∧ KeepsWork s (deferNext p s) := by
  have same : nextItem { s with pwr.gov.qual := 0 } = none := none'
  have kept : KeepsWork s (s.setGov { s.pwr.gov with qual := 0, spent := s.pwr.gov.spent + 1 }) := .setGov rfl
  unfold deferNext
  dsimp only
  rw [same]
  dsimp only
  split
  · rw [raise_pwr]
    exact ⟨rfl, kept.trans (.raise ..)⟩
  · exact ⟨rfl, kept⟩

theorem KeepsWork.deferNext : KeepsWork s (deferNext p s) := by
  cases next : nextItem s with
  | none => exact (deferNext_exhausted next).2
  | some e =>
    obtain ⟨n, defer⟩ := deferNext_item (p := p) next
    have kept : KeepsWork s (s.setGov { s.pwr.gov with
        qual := 0, ladder := e :: s.pwr.gov.ladder, spent := 0, pending := some (true, e.1) }) := .setGov rfl
    rw [defer]
    exact kept.trans ((KeepsWork.ladderJob ..).trans (.raise ..))

/-! ### Restoring (R361) -/

variable {allow : Rat}

theorem countPeriod_empty (empty : s.pwr.gov.ladder = []) :
    countPeriod p allow s = s.setGov { s.pwr.gov with spent := 0, qual := 0 } := by
  unfold countPeriod
  dsimp only
  rw [empty]
  rfl

section
variable {e : Ladder × Rat} {rest : List (Ladder × Rat)} (last : s.pwr.gov.ladder = e :: rest)
include last

theorem countPeriod_cons : ∃ n, countPeriod p allow s = if p + e.2 + 50 ≤ allow then
      if s.pwr.gov.qual + 1 < 10 then s.setGov { s.pwr.gov with spent := 0, qual := s.pwr.gov.qual + 1 }
      else raise 24 2 n (ladderJob 2 e.1 (s.setGov { s.pwr.gov with
        spent := 0, ladder := rest, qual := 0, pending := some (false, e.1) }))
    else s.setGov { s.pwr.gov with spent := 0, qual := 0 } := by
  unfold countPeriod
  dsimp only
  rw [last]
  exact ⟨_, rfl⟩

theorem countPeriod_short (short : allow < p + e.2 + 50) :
    (countPeriod p allow s).pwr.gov = { s.pwr.gov with spent := 0, qual := 0 } := by
  obtain ⟨n, count⟩ := countPeriod_cons (p := p) (allow := allow) last
  rw [count, if_neg (not_le.2 short), State.setGov_gov]

section
variable (spare : p + e.2 + 50 ≤ allow)
include spare

theorem countPeriod_counts (before : s.pwr.gov.qual + 1 < 10) :
    (countPeriod p allow s).pwr.gov = { s.pwr.gov with spent := 0, qual := s.pwr.gov.qual + 1 } := by
  obtain ⟨n, count⟩ := countPeriod_cons (p := p) (allow := allow) last
  rw [count, if_pos spare, if_pos before, State.setGov_gov]

/-- The tenth period in a row with 5 W to spare restores the last item. -/
theorem countPeriod_restores (tenth : 10 ≤ s.pwr.gov.qual + 1) : (countPeriod p allow s).pwr.gov = { s.pwr.gov with
    spent := 0, ladder := rest, qual := 0, pending := some (false, e.1) } := by
  obtain ⟨n, count⟩ := countPeriod_cons (p := p) (allow := allow) last
  rw [count, if_pos spare, if_neg (by omega), raise_pwr, ladderJob_pwr, State.setGov_gov]

end

end

theorem KeepsWork.countPeriod : KeepsWork s (countPeriod p allow s) := by
  cases last : s.pwr.gov.ladder with
  | nil =>
    rw [countPeriod_empty last]
    exact .setGov rfl
  | cons e rest =>
    obtain ⟨n, count⟩ := countPeriod_cons (p := p) (allow := allow) last
    have kept : KeepsWork s (s.setGov { s.pwr.gov with
        spent := 0, ladder := rest, qual := 0, pending := some (false, e.1) }) := .setGov rfl
    rw [count]
    split
    · split
      · exact .setGov rfl
      · exact kept.trans ((KeepsWork.ladderJob ..).trans (.raise ..))
    · exact .setGov rfl

end

/-! ### The end of a period (R359, R361, R369) -/

/-- The books as a period with mean `p` and allowance `allow` ends. -/
def Gov.ended (g : Gov) (t : Nat) (house plate : Int) (allow p : Rat) : Gov :=
  { g with endT := t, pAllow := allow, pMeas := p, house := house, plate := plate, temp := none, sum := 0, ticks := 0 }

section
variable {s : State} {allow p : Rat}

/-- The state in which the governor decides. -/
def State.periodEnded (s : State) (allow p : Rat) : State :=
  s.setGov (s.pwr.gov.ended s.t s.pwr.house s.pwr.plate allow p)

/-- The decision of a period's end. -/
def periodDecision (allow p : Rat) (s : State) : State :=
  if allow < p then deferNext p (s.periodEnded allow p) else countPeriod p allow (s.periodEnded allow p)

theorem governorPeriod_ends (run : s.mode = .run) (ready : s.start = .ready) (due : s.t % 100 = 0)
    (fresh : s.pwr.gov.endT ≠ s.t) (some' : s.pwr.gov.ticks ≠ 0)
    (allowance : allow = allowAt (s.pwr.gov.temp.getD 0)) (mean : p = (s.pwr.gov.sum : Rat) / (s.pwr.gov.ticks : Nat)) :
    governorPeriod s = (periodDecision allow p s).setGov { (periodDecision allow p s).pwr.gov with
      snap := govBooks (periodDecision allow p s) } := by
  subst allowance mean
  exact if_neg (by simp [run, ready, due, fresh, some'])

theorem governorPeriod_nothing (h : s.t % 100 ≠ 0 ∨ s.mode ≠ .run) : governorPeriod s = s :=
  if_pos (h.elim (fun between => .inr (.inr (.inl between))) .inl)

theorem periodDecision_keeps : KeepsWork (s.periodEnded allow p) (periodDecision allow p s) := by
  unfold periodDecision
  split
  · exact .deferNext
  · exact .countPeriod

/-- The books say what period has ended. -/
theorem periodDecision_period : (periodDecision allow p s).pwr.gov.period = (s.t, allow, p, 0) :=
  periodDecision_keeps.1

theorem periodDecision_above (above : allow < p) : periodDecision allow p s = deferNext p (s.periodEnded allow p) :=
  if_pos above

theorem periodDecision_within (within : p ≤ allow) :
    periodDecision allow p s = countPeriod p allow (s.periodEnded allow p) := if_neg (not_lt.2 within)

section
variable (high : allow < p)
include high

theorem periodDecision_defers {e : Ladder × Rat} (next : nextItem s = some e) :
    (periodDecision allow p s).pwr.gov.ladder = e :: s.pwr.gov.ladder ∧
      (periodDecision allow p s).pwr.gov.qual = 0 ∧ (periodDecision allow p s).pwr.gov.pending = some (true, e.1) := by
  rw [periodDecision_above high, deferNext_gov (s := s.periodEnded allow p) next]
  exact ⟨rfl, rfl, rfl⟩

theorem periodDecision_exhausted (none' : nextItem s = none) :
    (periodDecision allow p s).pwr.gov.ladder = s.pwr.gov.ladder := by
  rw [periodDecision_above high, (deferNext_exhausted (s := s.periodEnded allow p) none').1]
  rfl

end

section
variable (low : p ≤ allow) {e : Ladder × Rat} {rest : List (Ladder × Rat)} (last : s.pwr.gov.ladder = e :: rest)
include low last

theorem periodDecision_short (short : allow < p + e.2 + 50) :
    (periodDecision allow p s).pwr.gov.ladder = s.pwr.gov.ladder ∧ (periodDecision allow p s).pwr.gov.qual = 0 := by
  rw [periodDecision_within low, countPeriod_short (s := s.periodEnded allow p) last short]
  exact ⟨rfl, rfl⟩

variable (spare : p + e.2 + 50 ≤ allow)
include spare

theorem periodDecision_counts (before : s.pwr.gov.qual + 1 < 10) :
    (periodDecision allow p s).pwr.gov.ladder = s.pwr.gov.ladder ∧
      (periodDecision allow p s).pwr.gov.qual = s.pwr.gov.qual + 1 := by
  rw [periodDecision_within low, countPeriod_counts (s := s.periodEnded allow p) last spare before]
  exact ⟨rfl, rfl⟩

theorem periodDecision_restores (tenth : 10 ≤ s.pwr.gov.qual + 1) :
    (periodDecision allow p s).pwr.gov.ladder = rest ∧ (periodDecision allow p s).pwr.gov.qual = 0 ∧
      (periodDecision allow p s).pwr.gov.pending = some (false, e.1) := by
  rw [periodDecision_within low, countPeriod_restores (s := s.periodEnded allow p) last spare tenth]
  exact ⟨rfl, rfl, rfl⟩

end

end

/-! ### Banks (R362, R367) -/

section
variable {n : Nat} {bank : Bool} {f : GovJob → GovJob} {j : GovJob} {s : State}
  (found : Tab.find s.pwr.gov.jobs n = some j)
include found

theorem changeJob_jobs : (changeJob n bank f s).pwr.gov.jobs = Tab.put s.pwr.gov.jobs n (f j) := by
  unfold changeJob
  rw [found]
  dsimp only
  split
  · rfl
  · rw [jobEvent, raise_pwr]
    rfl

theorem changeJob_lsw : (changeJob n bank f s).lsw = s.lsw := by
  unfold changeJob
  rw [found]
  dsimp only
  split
  · rfl
  · rw [jobEvent, raise_lsw]
    rfl

end

/-- One job has changed, and no other and no channel. -/
def JobChanged (n : Nat) (j : GovJob) (s t : State) : Prop := Tab.find t.pwr.gov.jobs n = some j ∧
  (∀ m, m ≠ n → Tab.find t.pwr.gov.jobs m = Tab.find s.pwr.gov.jobs m) ∧ t.lsw = s.lsw

theorem JobChanged.of_put {n : Nat} {j : GovJob} {s t : State} (jobs : t.pwr.gov.jobs = Tab.put s.pwr.gov.jobs n j)
    (lsw : t.lsw = s.lsw) : JobChanged n j s t := by
  unfold JobChanged
  rw [jobs]
  exact ⟨Tab.find_put_self .., fun m other => Tab.find_put_ne _ other _, lsw⟩

/-- A bank's run of ticks over its budget starts anew. -/
def State.bankChecked (s : State) (b : Bool) : State :=
  if b then { s with pwr.gov.overB := 0 } else { s with pwr.gov.overA := 0 }

section
variable {b : Bool} {k : Nat} {j : GovJob} {s : State}

theorem bankChecked_facts : bankVictim b (s.bankChecked b) = bankVictim b s ∧
    (s.bankChecked b).pwr.gov.jobs = s.pwr.gov.jobs ∧ (s.bankChecked b).t = s.t ∧ (s.bankChecked b).lsw = s.lsw := by
  cases b <;> exact ⟨rfl, rfl, rfl, rfl⟩

/-- The deferral of a job by its bank: one that the ladder has deferred in this tick is told once (R367). -/
def bankDefer (f : GovJob → GovJob) (victim : Option Nat) (s : State) : State :=
  victim.elim s fun k =>
    if s.pwr.gov.pending = some (true, .job k) then (Tab.find s.pwr.gov.jobs k).elim s fun x => setJob k (f x) s
    else changeJob k true f s

theorem bankDefer_changes {f : GovJob → GovJob} (found : Tab.find s.pwr.gov.jobs k = some j) :
    JobChanged k (f j) s (bankDefer f (some k) s) := by
  unfold bankDefer
  rw [Option.elim_some, found]
  split
  · exact .of_put rfl rfl
  · exact .of_put (changeJob_jobs found) (changeJob_lsw found)

section
variable (beyond : 10 ≤ if b then s.pwr.gov.overB else s.pwr.gov.overA)
include beyond

theorem bankExceeded_decides : bankExceeded b s = bankDefer
    (fun x => { x with bankDef := true, room := 0, bankT := some (s.bankChecked b).t })
    (bankVictim b (s.bankChecked b)) (s.bankChecked b) := by
  have below : ¬(if b then s.pwr.gov.overB else s.pwr.gov.overA) < 10 := by omega
  unfold State.bankChecked bankDefer
  refine (if_neg below).trans ?_
  generalize (if b = true then { s with pwr.gov.overB := 0 } else { s with pwr.gov.overA := 0 } : State) = u
  cases bankVictim b u with
  | none => rfl
  | some k =>
    refine if_congr Iff.rfl ?_ rfl
    cases Tab.find u.pwr.gov.jobs k <;> rfl

theorem bankExceeded_defers (victim : bankVictim b s = some k) (found : Tab.find s.pwr.gov.jobs k = some j) :
    JobChanged k { j with bankDef := true, room := 0, bankT := some s.t } s (bankExceeded b s) := by
  obtain ⟨same, jobs, time, lsw⟩ := bankChecked_facts (b := b) (s := s)
  rw [bankExceeded_decides beyond, same, victim, time]
  obtain ⟨changed, others, channels⟩ := bankDefer_changes
    (f := fun x => { x with bankDef := true, room := 0, bankT := some s.t }) (jobs.symm ▸ found)
  exact ⟨changed, fun m other => (others m other).trans (by rw [jobs]), channels.trans lsw⟩

end

theorem bankExceeded_early (early : (if b then s.pwr.gov.overB else s.pwr.gov.overA) < 10) : bankExceeded b s = s :=
  if_pos early

section
variable (found : Tab.find s.pwr.gov.jobs k = some j)
include found

theorem bankRestore_restores (deferred : j.bankDef = true) (room : 1000 ≤ j.room) :
    JobChanged k { j with bankDef := false, room := 0 } s (bankRestore k s) := by
  have decided : bankRestore k s = changeJob k true (fun x => { x with bankDef := false, room := 0 }) s := by
    unfold bankRestore
    rw [found]
    exact if_pos ⟨deferred, room⟩
  rw [decided]
  exact .of_put (changeJob_jobs found) (changeJob_lsw found)

theorem bankRestore_nothing (h : j.bankDef = false ∨ j.room < 1000) : bankRestore k s = s := by
  unfold bankRestore
  rw [found]
  refine if_neg fun ⟨deferred, room⟩ => ?_
  obtain free | early := h
  · exact absurd deferred (by simp [free])
  · omega

end

end

/-! ### Ring operations (R362, R368, R369) -/

section
variable {c : OpRef} {s : State}

theorem govDeclare_schema (class0 : bitsOf (c.op.word 6) 9 8 = 0) : govDeclare c s = failOp c stSchema 0 s :=
  if_pos class0

section
variable (cls : bitsOf (c.op.word 6) 9 8 ≠ 0)
include cls

theorem govDeclare_busy (held : (Tab.find s.pwr.gov.jobs (bitsOf (c.op.word 6) 3 0)).isSome = true) :
    govDeclare c s = failOp c stBusy 0 s := (if_neg cls).trans (if_pos held)

section
variable {bank : Option Bool} (of : bank = if bitOf (c.op.word 6) 13 then some (bitOf (c.op.word 6) 12) else none)
  {warm fits : Bool} (heat : warm = decide (s.pwr.gov.pMeas + bitsOf (c.op.word 7) 15 0 + 50 ≤ s.pwr.gov.pAllow))
  (feeds : fits = bank.all fun b => feedFits b (bitsOf (c.op.word 8) 15 0) s)
include of heat feeds

/-- The job that a declaration names. -/
def declaredJob (c : OpRef) (bank : Option Bool) (warm fits : Bool) : GovJob :=
  { cls := bitsOf (c.op.word 6) 9 8, bank := bank, cost := bitsOf (c.op.word 7) 15 0
    feed := bitsOf (c.op.word 8) 15 0, ladder := !warm, bankDef := !fits }

omit cls of heat feeds in
theorem declaredJob_admitted : (declaredJob c bank warm fits).admitted = (warm && fits) := by
  simp [GovJob.admitted, declaredJob]

theorem govDeclare_declares (free : Tab.find s.pwr.gov.jobs (bitsOf (c.op.word 6) 3 0) = none) :
    ∃ u, govDeclare c s = finishOp c stOk 0 (wordOf (oneIf (warm && fits))) (wordOf (openRat s.pwr.gov.pAllow)) u ∧
      u.hri = s.hri ∧ u.pwr.gov.jobs =
        Tab.put s.pwr.gov.jobs (bitsOf (c.op.word 6) 3 0) (declaredJob c bank warm fits) := by
  have declared : govDeclare c s = finishOp c stOk 0 (wordOf (oneIf (declaredJob c bank warm fits).admitted))
      (wordOf (openRat s.pwr.gov.pAllow)) (if (declaredJob c bank warm fits).admitted then
          setJob (bitsOf (c.op.word 6) 3 0) (declaredJob c bank warm fits) s
        else jobEvent 1 (bitsOf (c.op.word 6) 3 0) (!fits)
          (setJob (bitsOf (c.op.word 6) 3 0) (declaredJob c bank warm fits) s)) := by
    subst heat feeds of
    exact (if_neg cls).trans (if_neg (by simp [free]))
  rw [declaredJob_admitted] at declared
  refine ⟨_, declared, ?_⟩
  split
  · exact ⟨rfl, rfl⟩
  · rw [jobEvent, raise_hri, raise_pwr]
    exact ⟨rfl, rfl⟩

end

end

theorem govRelease_schema (unknown : Tab.find s.pwr.gov.jobs (bitsOf (c.op.word 6) 3 0) = none) :
    govRelease c s = failOp c stSchema 0 s := if_pos (by simp [unknown])

theorem govRelease_releases (held : (Tab.find s.pwr.gov.jobs (bitsOf (c.op.word 6) 3 0)).isSome = true) :
    ∃ pending, govRelease c s = finishOp c stOk 0 (wordOf (bitsOf (c.op.word 6) 3 0)) 0 (s.setGov { s.pwr.gov with
      jobs := Tab.del s.pwr.gov.jobs (bitsOf (c.op.word 6) 3 0)
      ladder := s.pwr.gov.ladder.filter fun e => e.1 != .job (bitsOf (c.op.word 6) 3 0), pending := pending }) := by
  have known : ¬(Tab.find s.pwr.gov.jobs (bitsOf (c.op.word 6) 3 0)).isNone = true := by
    rw [Option.isNone_iff_eq_none, ← Option.not_isSome_iff_eq_none]
    exact not_not_intro held
  exact ⟨_, if_neg known⟩

theorem govRead_stores {bs : List Byte} (books : bs = if s.pwr.gov.snap = [] then govBooks s else s.pwr.gov.snap)
    (length : c.op.len = 256) (written : bufferOpen 0x29 true c.op.addr bs.length s = true) : govRead c s =
      finishOp c stOk bs.length (wordOf s.pwr.gov.ladder.length) (wordOf (boundaryOf s.pwr.gov.endT)) (stored c bs s) := by
  subst books
  unfold govRead
  simp only [← List.isEmpty_iff] at written ⊢
  exact (if_neg (not_not_intro length)).trans (writeOut_open written)

end

/-- Settles O52: the period's end by its decision, the banks and the ring operations by their lemmas. -/
theorem governorDefersAndRestores : Obligations.GovernorDefersAndRestores := by
  refine ⟨fun s run ready due fresh some' => ?_, fun s h => congrArg _ (governorPeriod_nothing h),
    fun bank s => ⟨fun k j beyond victim found => ⟨_, rfl, ?_⟩, fun early => ?_⟩,
    fun k j s found => ⟨fun deferred room => ⟨_, rfl, bankRestore_restores found deferred room⟩,
      fun h => congrArg _ (bankRestore_nothing found h)⟩,
    fun n c s hn => ⟨fun taken => ⟨fun class0 => takeOp_next n hn taken (govDeclare_schema class0),
        fun cls held => takeOp_next n hn taken (govDeclare_busy cls held), fun cls free => ?_⟩,
      fun taken => ⟨fun unknown => takeOp_next n hn taken (govRelease_schema unknown), fun held => ?_⟩,
      fun taken length written => takeOp_next n hn taken (govRead_stores rfl length written)⟩⟩
  · intro g allow p
    have ends := governorPeriod_ends (allow := allow) (p := p) run ready due fresh some' rfl rfl
    have defers (high : allow < p) (x : Ladder × Rat) := periodDecision_defers (s := s) (e := x) high
    have exhausted (high : allow < p) := periodDecision_exhausted (s := s) high
    have short (low : p ≤ allow) (x rest) := periodDecision_short (s := s) (e := x) (rest := rest) low
    have counts (low : p ≤ allow) (x rest) := periodDecision_counts (s := s) (e := x) (rest := rest) low
    have restores (low : p ≤ allow) (x rest) := periodDecision_restores (s := s) (e := x) (rest := rest) low
    have period := periodDecision_period (allow := allow) (p := p) (s := s)
    obtain ⟨-, gts, lsw, mem, ipl, lko, gnb⟩ := periodDecision_keeps (s := s) (allow := allow) (p := p)
    generalize periodDecision allow p s = d at *
    generalize govBooks d = books at ends
    obtain ⟨endT, pAllow, pMeas, ticks⟩ : _ ∧ _ ∧ _ ∧ _ := by simpa only [Gov.period, Prod.mk.injEq] using period
    refine ⟨_, congrArg Host.Outcome.next ends, endT, pAllow, pMeas,
      ticks, gts, lsw, mem, ipl, lko, gnb, defers, exhausted, fun low x rest last =>
        ⟨short low x rest last, counts low x rest last, restores low x rest last⟩⟩
  · refine bankExceeded_defers ?_ victim found
    cases bank <;> exact beyond
  · refine congrArg _ (bankExceeded_early ?_)
    cases bank <;> exact early
  · obtain ⟨u, declared, hri, jobs⟩ := govDeclare_declares cls rfl rfl rfl free
    have at' : (u.ring c.ring).ops[c.idx]? = some c.op := by
      rw [State.ring, hri]
      exact (takes_at taken).1
    refine ⟨_, takeOp_next n hn taken declared, finishOp_ends at', ?_⟩
    · rw [finishOp_pwr, jobs]
      exact Tab.find_put_self ..
  · obtain ⟨pending, released⟩ := govRelease_releases held
    refine ⟨_, takeOp_next n hn taken released, finishOp_ends (takes_at taken).1, ?_, ?_⟩
    · rw [finishOp_pwr]
      rfl
    · rw [finishOp_pwr]
      intro e kept
      exact bne_iff_ne.1 (List.mem_filter.1 kept).2

end Sys2Proof.Machine
end

section
/-!
Statements about optional domains (R353), core resets (R72, R82, R90) and the debug port (R454).
-/

namespace Sys2Proof.Machine

/-! ### PWR_PD_REQ and the optional domains (R353) -/

section
variable {n : Nat} {s : State}

theorem pdReqWrite_changes {v : Word} (changes : v &&& (0x0000_1B60 : Word) ≠ s.pwr.pdReq) : pdReqWrite v s =
    { s with pwr.pdReq := v &&& (0x0000_1B60 : Word), pwr.pdReqT := s.t } := if_neg changes

/-- A domain stays as it is where it is not optional, or at the tick of the change. -/
theorem domainSwitch_stays (h : n ∉ [5, 6, 8, 9, 11, 12] ∨ s.t ≤ s.pwr.pdReqT) : domainSwitch n s = s := by
  refine if_pos (.inr (.inr ?_))
  obtain fixed | early := h
  · exact .inl (by simpa [optional] using fixed)
  · exact .inr (.inl early)

section
variable (run : s.mode = .run) (ready : s.start = .ready) (named : n ∈ [5, 6, 8, 9, 11, 12])
  (later : s.pwr.pdReqT < s.t)
include run ready named later

theorem domainSwitch_switches (other : s.pdOn n ≠ bitOf s.pwr.pdReq n) :
    domainSwitch n s = if bitOf s.pwr.pdReq n then domainOn n s else domainOff n s := by
  have listed : n ∈ optional := named
  exact if_neg (by simp [run, ready, listed, other, later])

theorem domainSwitch_on (asked : bitOf s.pwr.pdReq n = true) (off : s.pdOn n = false) :
    domainSwitch n s = s.setPd n true := by
  have noCores : n ≠ 3 := by
    rintro rfl
    exact absurd named (by decide)
  rw [domainSwitch_switches run ready named later (by simp [asked, off]), if_pos asked]
  unfold domainOn
  rw [if_neg (by simp [off])]
  exact if_neg noCores

theorem domainSwitch_off (asked : bitOf s.pwr.pdReq n = false) (on : s.pdOn n = true) :
    domainSwitch n s = blocksOff n (s.setPd n false) := by
  rw [domainSwitch_switches run ready named later (by simp [asked, on]), if_neg (by simp [asked])]
  exact if_pos on

end

theorem optional_on_inRun (h : inRun s = true) (named : n ∈ [5, 6, 8, 9, 11, 12]) :
    s.mode = .run ∧ s.start = .ready ∧ s.pdOn n = true := by
  simp only [inRun, Bool.and_eq_true, beq_iff_eq] at h
  obtain ⟨⟨⟨-, run⟩, ready⟩, pd⟩ := h
  refine ⟨run, ready, ?_⟩
  rw [State.pdOn, pd]
  revert named
  revert n
  decide

end

/-! ### A core reset: epochs (R72) -/

theorem bumpEpochs_epoch (id i : Nat) (s : State) :
    (bumpEpochs [id] s).epoch i = if i = id then (s.epoch i + 1) % 256 else s.epoch i := by
  unfold State.epoch bumpEpochs
  dsimp only [List.foldl]
  rw [Tab.get_put]
  split
  next same => rw [same]
  next => rfl

/-! ### Mailboxes (R82) -/

/-- What flushing a mailbox leaves alone. -/
def State.besideBoxes (s : State) : Tab Nat × Tab Nat × List Host.Cell × Hri × Nat :=
  (s.mbx.epochs, s.mbx.pitons, s.mem, s.hri, s.gts)

theorem emptyBox_besideBoxes (m : Nat) (flushed off : Bool) (s : State) :
    (emptyBox m flushed off s).besideBoxes = s.besideBoxes := by
  unfold emptyBox State.besideBoxes
  rw [raise_mbx, raise_mem, raise_hri, raise_gts]
  rfl

/-- A mailbox is flushed where it is posted towards one of these. -/
def flushBox (ids : List Nat) (off : Bool) (s : State) (m : Nat) : State :=
  if (s.box m).posted && ids.contains (s.box m).receiver then emptyBox m true off s else s

theorem flushReceivers_eq (ids : List Nat) (off : Bool) (s : State) :
    flushReceivers ids off s = boxNumbers.foldl (flushBox ids off) s := rfl

theorem flushBox_besideBoxes (ids : List Nat) (off : Bool) (s : State) (m : Nat) :
    (flushBox ids off s m).besideBoxes = s.besideBoxes := by
  unfold flushBox
  split
  · exact emptyBox_besideBoxes ..
  · rfl

theorem flushReceivers_besideBoxes (ids : List Nat) (off : Bool) (s : State) :
    (flushReceivers ids off s).besideBoxes = s.besideBoxes :=
  foldl_keeps State.besideBoxes (flushBox_besideBoxes ids off) boxNumbers s

section
variable {ids : List Nat} {off : Bool} {m : Nat}

/-- Flushing mailbox `k` posts no mailbox, and gives none another receiver. -/
theorem flushBox_box (s : State) (k : Nat) : ((flushBox ids off s k).box m).receiver = (s.box m).receiver ∧
    ((s.box m).posted = false → ((flushBox ids off s k).box m).posted = false) := by
  unfold flushBox
  split
  · by_cases same : m = k
    · subst same
      rw [emptyBox_box_self]
      exact ⟨rfl, fun _ => rfl⟩
    · rw [emptyBox_box_ne _ _ _ same]
      exact ⟨rfl, id⟩
  · exact ⟨rfl, id⟩

theorem flushBox_self {s : State} (towards : (s.box m).receiver ∈ ids) : ((flushBox ids off s m).box m).posted = false := by
  unfold flushBox
  split
  · rw [emptyBox_box_self]
  next h => simpa [towards] using h

theorem foldl_flushBox {l : List Nat} : ∀ {s : State}, (s.box m).receiver ∈ ids →
    (s.box m).posted = false ∨ m ∈ l → ((l.foldl (flushBox ids off) s).box m).posted = false := by
  induction l with
  | nil => exact fun _ h => h.resolve_right List.not_mem_nil
  | cons k l ih =>
    intro s towards h
    obtain ⟨receiver, free⟩ := flushBox_box (ids := ids) (off := off) (m := m) s k
    refine ih (receiver ▸ towards) ?_
    obtain empty | named := h
    · exact .inl (free empty)
    · obtain rfl | rest := List.mem_cons.1 named
      · exact .inl (flushBox_self towards)
      · exact .inr rest

end

/-! ### Pitons (R90) -/

section
variable {α : Type} {d : α} {k : Nat} {v : α}

theorem Tab.mem_of_get_ne : ∀ {t : Tab α}, Tab.get d t k ≠ d → (k, Tab.get d t k) ∈ t
  | [], h => absurd rfl h
  | (j, w) :: r, h => by
    unfold Tab.get at h ⊢
    split
    next same =>
      subst same
      exact List.mem_cons_self
    next other =>
      rw [if_neg other] at h
      exact List.mem_cons_of_mem _ (Tab.mem_of_get_ne h)

theorem Tab.get_of_mem_nodup : ∀ {t : Tab α}, (t.map Prod.fst).Nodup → (k, v) ∈ t → Tab.get d t k = v
  | (j, w) :: r, nodup, listed => by
    obtain ⟨fresh, rest⟩ := List.nodup_cons.1 nodup
    obtain same | listed := List.mem_cons.1 listed
    · obtain ⟨rfl, rfl⟩ := Prod.mk.inj same
      exact if_pos rfl
    · have mapped : k ∈ r.map Prod.fst := List.mem_map.2 ⟨_, listed, rfl⟩
      have other : k ≠ j := fun same => fresh (same ▸ mapped)
      exact (if_neg other).trans (Tab.get_of_mem_nodup rest listed)

end

section
variable {id p : Nat} {s : State}

/-- The pitons that an initiator owns are freed, and no other. -/
theorem freePitons_piton : (freePitons [id] s).piton p =
    if p ∈ (s.mbx.pitons.filter fun e => e.2 != 0 && [id].contains e.2).map Prod.fst then 0 else s.piton p := by
  unfold State.piton freePitons
  dsimp only
  rw [← Tab.get_foldl_put 0 (fun _ => 0), List.foldl_map]

theorem freePitons_owned (owned : s.piton p = id) (core : id ≠ 0) : (freePitons [id] s).piton p = 0 := by
  have listed : (p, id) ∈ s.mbx.pitons := owned ▸ Tab.mem_of_get_ne (owned.trans_ne core)
  rw [freePitons_piton, if_pos]
  exact List.mem_map.2 ⟨(p, id), List.mem_filter.2 ⟨listed, by simp [core]⟩, rfl⟩

theorem freePitons_others (nodup : (s.mbx.pitons.map Prod.fst).Nodup) (other : s.piton p ≠ id) :
    (freePitons [id] s).piton p = s.piton p := by
  rw [freePitons_piton, if_neg]
  intro named
  obtain ⟨⟨q, o⟩, kept, rfl⟩ := List.mem_map.1 named
  obtain ⟨listed, owner⟩ := List.mem_filter.1 kept
  refine other ((Tab.get_of_mem_nodup nodup listed).trans ?_)
  simpa using (Bool.and_eq_true_iff.1 owner).2

end

/-! ### CORE_RESET -/

section
variable {k : Fin 8} {s : State} (pd2 : s.pdOn 2 = true) (pd1 : s.pdOn 1 = true)
include pd2 pd1

/-- The core's domain is on. -/
theorem resetIds_svc : (resetIds (.svc k)).filter (fun i => s.pdOn 2 && s.pdOn (endpointDomain i)) = [1 + k.val] := by
  have domain : endpointDomain (1 + k.val) = 2 ∨ endpointDomain (1 + k.val) = 1 := by
    revert k
    decide
  have on : s.pdOn (endpointDomain (1 + k.val)) = true := by
    obtain two | one := domain
    · rw [two, pd2]
    · rw [one, pd1]
  unfold resetIds
  rw [List.filter_cons_of_pos (by rw [pd2, on]; rfl)]
  rfl

theorem coreReset_svc : ∃ l, coreReset (.svc k) s = { resetEndpoints [1 + k.val] s with fen.low := l } := by
  unfold coreReset
  rw [resetIds_svc pd2 pd1]
  exact ⟨_, rfl⟩

theorem execCoreReset_svc : ∃ l,
    exec (.coreReset (.svc k)) s = .next { resetEndpoints [1 + k.val] s with fen.low := l } := by
  obtain ⟨l, reset⟩ := coreReset_svc (k := k) pd2 pd1
  exact ⟨l, congrArg Host.Outcome.next ((if_pos pd2).trans reset)⟩

end

/-- What the reset of one core does to the endpoints, the pitons and the mailboxes. -/
theorem resetEndpoints_facts {id : Nat} {s : State} (core : id ≠ 0) :
    (∀ i, (resetEndpoints [id] s).epoch i = if i = id then (s.epoch i + 1) % 256 else s.epoch i) ∧
      (∀ p, s.piton p = id → (resetEndpoints [id] s).piton p = 0) ∧
      ((s.mbx.pitons.map Prod.fst).Nodup → ∀ p, s.piton p ≠ id → (resetEndpoints [id] s).piton p = s.piton p) ∧
      (∀ m, m < 64 → (s.box m).receiver = id → ((resetEndpoints [id] s).box m).posted = false) ∧
      (resetEndpoints [id] s).mem = s.mem ∧ (resetEndpoints [id] s).hri = s.hri ∧ (resetEndpoints [id] s).gts = s.gts := by
  have beside := flushReceivers_besideBoxes [id] false (bumpEpochs [id] s)
  simp only [State.besideBoxes, Prod.mk.injEq] at beside
  obtain ⟨epochs, pitons, mem, hri, gts⟩ := beside
  have owners (p : Nat) : (flushReceivers [id] false (bumpEpochs [id] s)).piton p = s.piton p :=
    congrArg (fun t => Tab.get 0 t p) pitons
  have flushed (m : Nat) (number : m < 64) (towards : (s.box m).receiver = id) :
      ((flushReceivers [id] false (bumpEpochs [id] s)).box m).posted = false :=
    foldl_flushBox (s := bumpEpochs [id] s) (List.mem_singleton.2 towards) (.inr (List.mem_range.2 number))
  unfold resetEndpoints
  generalize flushReceivers [id] false (bumpEpochs [id] s) = u at *
  refine ⟨fun i => ?_, fun p owned => freePitons_owned ((owners p).trans owned) core, fun nodup p other => ?_,
    flushed, mem, hri, gts⟩
  · exact (congrArg (fun t => Tab.get 0 t i) epochs).trans (bumpEpochs_epoch id i s)
  · exact (freePitons_others (pitons ▸ nodup) ((owners p).trans_ne other)).trans (owners p)

/-- Settles O15: the request and the switch, the reset of a core, and the level of DBG_EN. -/
theorem domainsCoresAndDebugPort : Obligations.DomainsCoresAndDebugPort := by
  refine ⟨⟨fun a v s access changes => ?_, fun n s run named later asked => ?_,
    fun n s run ready named later asked off => congrArg _ (domainSwitch_on run ready named later asked off),
    fun n s h => congrArg _ (domainSwitch_stays h)⟩, fun k s pd2 pd1 => ?_, fun b sec s => ⟨rfl, rfl, rfl⟩⟩
  · exact congrArg Host.Outcome.next ((gateWrite_open _ access).trans (pdReqWrite_changes changes))
  · obtain ⟨mode, ready, on⟩ := optional_on_inRun run named
    exact congrArg Host.Outcome.next (domainSwitch_off mode ready named later asked on)
  · obtain ⟨l, reset⟩ := execCoreReset_svc (k := k) pd2 pd1
    have facts := resetEndpoints_facts (s := s) (id := 1 + k.val) (by omega)
    generalize resetEndpoints [1 + k.val] s = u at *
    exact ⟨_, reset, facts⟩

end Sys2Proof.Machine
end

section
/-!
Statements about the rope team: what a module takes from its twin (R373 to R380, R384).
-/

namespace Sys2Proof.Machine

/-! ### What leaves the team's registers alone -/

theorem bceStore_rtl (again : Bool) (c : Nat) (r : BceReplica) (s : State) : (bceStore again c r s).rtl = s.rtl := by
  unfold bceStore
  extract_lets x u newer
  have kept : u.rtl = s.rtl := State.setBctx_rtl ..
  clear_value u newer
  split
  · exact kept
  · split
    · rw [bceEvent, raiseAt_rtl, State.setBctx_rtl, kept]
    · split
      · split
        · rw [bceEvent, raiseAt_rtl]
          exact kept
        · exact kept
      · exact kept

theorem storeReplica_rtl (n : Nat) (r : ChanReplica) (s : State) : (storeReplica n r s).rtl = s.rtl := by
  unfold storeReplica
  dsimp only
  split
  · rfl
  · split
    · rfl
    · split
      · rfl
      · rw [chEvent, raiseAt_rtl, State.setCh_rtl]

theorem publishSig_rtl (i : Nat) (v : Word) (stamp : Nat) (s : State) : (publishSig i v stamp s).rtl = s.rtl := rfl

theorem leadMapping_rtl (q : LeadMap) (s : State) : (leadMapping q s).rtl = s.rtl := by
  unfold leadMapping
  dsimp only
  split
  · rfl
  · rw [raise_rtl]

theorem yldStore_rtl (r : Option YldReplica) (s : State) : (yldStore r s).rtl = s.rtl := by
  unfold yldStore
  split
  · rfl
  · split <;> rfl

theorem storeFrameParts_rtl (f : TickFrame) (s : State) : (storeFrameParts f s).rtl = s.rtl := by
  unfold storeFrameParts
  extract_lets contexts channels solution mapping
  have kept1 : contexts.rtl = s.rtl := foldl_keeps State.rtl (fun s (e : Nat × BceReplica) => bceStore_rtl false e.1 e.2 s) _ s
  have kept2 : channels.rtl = contexts.rtl := foldl_keeps State.rtl (fun s (e : Nat × ChanReplica) => storeReplica_rtl e.1 e.2 s) _ _
  have kept3 : solution.rtl = channels.rtl := foldl_keeps State.rtl (fun s (e : Nat × Word × Nat) => publishSig_rtl e.1 e.2.1 e.2.2 s) _ _
  have kept4 : mapping.rtl = solution.rtl := by
    unfold mapping
    split
    · split
      · exact leadMapping_rtl ..
      · rfl
    · rfl
  rw [yldStore_rtl, kept4, kept3, kept2, kept1]

theorem writeEngine_rtl (ini addr : Nat) (bs : List Byte) (s : State) : (writeEngine ini addr bs s).1.rtl = s.rtl := by
  obtain ⟨m, f, y, q, written⟩ := writePieces_frame 1 ini (pieces bs.length addr bs.length) bs
    { moved := 0, status := 0, bytes := [] } s
  unfold writeEngine
  rw [written]

/-! ### A hand-over that is cancelled (R384) -/

theorem cancelHandover_rtl (s : State) : ∃ confirmed commit, (cancelHandover s).rtl = { s.rtl with
    hoT := none, confirmed := confirmed, commit := commit } := by
  unfold cancelHandover endHandover
  split
  next none' =>
    refine ⟨s.rtl.confirmed, s.rtl.commit, ?_⟩
    rw [← none']
  next =>
    refine ⟨false, false, ?_⟩
    dsimp only
    rw [raiseAt_rtl]
    split
    · rw [finishAt_rtl]
    · rfl

/-! ### Words of the twin (R374, R375) -/

section
variable {s : State}

section
variable {w : TickWord} {edge : Nat}

theorem twinWord_rtl : ∃ a b, (twinWord w edge s).rtl = { s.rtl with
    twin := some w, wordT := if s.rtl.wordT.head? = some s.t then s.rtl.wordT else (s.t :: s.rtl.wordT).take 4
    stampA := a, stampB := b } ∧
      (w.tb = true → s.rtl.left = false → s.rtl.role = .second → a = Tab.put s.rtl.stampA w.tick edge) ∧
      (w.tb = true → s.rtl.left = false → s.rtl.role = .lead → b = some (w.tick, edge)) := by
  unfold twinWord
  dsimp only
  split
  next deaf =>
    refine ⟨s.rtl.stampA, s.rtl.stampB, rfl, fun tb left => ?_, fun tb left => ?_⟩ <;>
      exact absurd deaf (by simp [tb, left])
  · split
    next second => exact ⟨_, s.rtl.stampB, rfl, fun _ _ _ => rfl, fun _ _ lead => absurd (second.symm.trans lead) nofun⟩
    next notSecond =>
      split
      next => exact ⟨s.rtl.stampA, _, rfl, fun _ _ second => absurd second notSecond, fun _ _ _ => rfl⟩
      next notLead => exact ⟨s.rtl.stampA, s.rtl.stampB, rfl, fun _ _ second => absurd second notSecond,
        fun _ _ lead => absurd lead notLead⟩

/-- The tick of a word is remembered once. -/
theorem twinWord_head : (if s.rtl.wordT.head? = some s.t then s.rtl.wordT else (s.t :: s.rtl.wordT).take 4).head? =
    some s.t := by
  split
  next held => exact held
  next => rfl

end

theorem tickLineWord_bad {v : BitVec 128} {edge : Nat} {wing : Option Int} (bad : readWord v = none) :
    tickLineWord v edge wing s = s := by
  unfold tickLineWord
  rw [bad]
  exact ite_self s

theorem tickLineWord_good {v : BitVec 128} {w : TickWord} {edge : Nat} (running : s.tick.running = true)
    (good : readWord v = some w) : tickLineWord v edge none s = twinWord w edge s := by
  unfold tickLineWord
  rw [good]
  exact if_neg (by simp [running])

/-! ### Copies of a frame (R373) -/

section
variable {a b : Copy} {t : Nat}

/-- A pair that missed a frame is counted where the other has delivered it. -/
theorem noteCopies_rtl : (noteCopies a b t s).rtl = { s.rtl with
    missA := if a ≠ .good ∧ b = .good then min (s.rtl.missA + 1) 0xFFFF else s.rtl.missA
    missB := if b ≠ .good ∧ a = .good then min (s.rtl.missB + 1) 0xFFFF else s.rtl.missB } := by
  unfold noteCopies
  cases a <;> cases b <;> simp [rtlEvent, countUp, satTo]

theorem noteCopies_mem : (noteCopies a b t s).mem = s.mem := by
  unfold noteCopies
  cases a <;> cases b <;> simp [rtlEvent]

end

/-! ### The lead's tick frame (R373, R384) -/

/-- What a second has heard of its lead. -/
def Rtl.heard (r : Rtl) : Option TickFrame × TeamFacts × Option Nat × Nat × Nat × Role :=
  (r.frameIn, r.cur, r.replT, r.missA, r.missB, r.role)

/-- A frame with a good copy counts. -/
def frameCounts (f : TickFrame) (s : State) : State :=
  { s with
    rtl.cur := { s.rtl.cur with frame := true }, rtl.frameIn := some f
    rtl.replT := some (max f.tick (s.rtl.replT.getD 0)) }

/-- The stamp that a frame returns measures θ with the module's own of that tick (R377). -/
def frameStamps (f : TickFrame) (s : State) : State :=
  match f.stampB, Tab.find s.rtl.stampA f.tick with
  | some y, some x => measureTheta f.tick x y s
  | _, _ => s

/-- The parts of a frame that counts. -/
def frameParts (f : TickFrame) (s : State) : State :=
  takeHandover f (frameStamps f (storeFrameParts f (if f.late then rtlEvent 462 1 (f.tick % 2 ^ 24) s else s)))

theorem frameStamps_heard (f : TickFrame) (s : State) : (frameStamps f s).rtl.heard = s.rtl.heard := by
  unfold frameStamps
  split
  · rw [measureTheta_rtl]
    rfl
  · rfl

theorem takeHandover_heard (f : TickFrame) (s : State) : (takeHandover f s).rtl.heard = s.rtl.heard := by
  unfold takeHandover
  split
  · obtain ⟨confirmed, commit, cancelled⟩ := cancelHandover_rtl s
    rw [cancelled]
    rfl
  · rfl
  · split <;> rfl

theorem frameParts_heard (f : TickFrame) (s : State) : (frameParts f s).rtl.heard = s.rtl.heard := by
  unfold frameParts
  rw [takeHandover_heard, frameStamps_heard, storeFrameParts_rtl]
  split
  · rw [rtlEvent, raiseAt_rtl]
  · rfl

section
variable {a b : Copy} {f : TickFrame}

theorem tickFrameIn_nothing (h : s.pdOn 11 = false ∨ inTeam s = false ∨ s.rtl.role ≠ .second) :
    tickFrameIn a b f s = s := by
  refine if_pos ?_
  simpa only [Bool.or_eq_true, Bool.not_eq_true', bne_iff_ne, or_assoc] using h

section
variable (on : s.pdOn 11 = true) (team : inTeam s = true) (second : s.rtl.role = .second)
include on team second

theorem tickFrameIn_taken : tickFrameIn a b f s =
    if a != .good && b != .good then noteCopies a b f.tick s
    else (writeEngine 0x2A (frameParts f (frameCounts f (noteCopies a b f.tick s))).rtl.peerBase.toNat
      (peerBlock f (frameParts f (frameCounts f (noteCopies a b f.tick s))).gts)
      (frameParts f (frameCounts f (noteCopies a b f.tick s)))).1 := if_neg (by simp [on, team, second])

theorem tickFrameIn_good (good : a = .good ∨ b = .good) : (tickFrameIn a b f s).rtl.heard =
    (frameCounts f (noteCopies a b f.tick s)).rtl.heard := by
  have one : ¬(a != .good && b != .good) = true := by
    obtain rfl | rfl := good <;> simp
  rw [tickFrameIn_taken on team second, if_neg one, writeEngine_rtl, frameParts_heard]

theorem tickFrameIn_bad (badA : a ≠ .good) (badB : b ≠ .good) : tickFrameIn a b f s = noteCopies a b f.tick s :=
  (tickFrameIn_taken on team second).trans (if_pos (by simp [badA, badB]))

end

end

/-! ### The second's heartbeat (R373, R384) -/

section
variable {a b : Copy} {h : Heartbeat}

theorem heartbeatIn_nothing (other : s.pdOn 11 = false ∨ inTeam s = false ∨ s.rtl.role ≠ .lead) :
    heartbeatIn a b h s = s := by
  refine if_pos ?_
  simpa only [Bool.or_eq_true, Bool.not_eq_true', bne_iff_ne, or_assoc] using other

/-- The heartbeat as a lead has heard it. -/
def Rtl.beats (r : Rtl) (h : Heartbeat) : Rtl :=
  { r with
    cur := { r.cur with beat := true }, beatIn := some h
    confirmed := r.hoT.isSome && (r.confirmed || h.confirm) }

section
variable (on : s.pdOn 11 = true) (team : inTeam s = true) (lead : s.rtl.role = .lead) (good : a = .good ∨ b = .good)
include on team lead good

theorem heartbeatIn_taken : ∃ u, u.rtl = s.rtl.beats h ∧
    heartbeatIn a b h s = if h.aligned then u else cancelHandover u := by
  have one : ¬(a != .good && b != .good) = true := by
    obtain rfl | rfl := good <;> simp
  unfold heartbeatIn
  rw [if_neg (by simp [on, team, lead])]
  extract_lets noted
  have kept : noted.rtl = s.rtl := by
    unfold noted
    split
    · rw [rtlEvent, raiseAt_rtl]
    · rfl
  clear_value noted
  rw [if_neg one]
  refine ⟨{ noted with rtl := noted.rtl.beats h }, ?_, rfl⟩
  rw [kept]

end

end

/-! ### Witnesses (R380, R390) -/

section
variable {w : Witness} {k : Nat}

theorem witnessFrame_deaf (h : k ∉ witnessCtrls s ∨ (s.canCtl k).live = false) : witnessFrame w k s = s := by
  refine if_pos ?_
  simp only [Bool.or_eq_true, Bool.not_eq_true', List.contains_eq_mem, decide_eq_false_iff_not]
  exact h.imp_left .inr

section
variable (team : inTeam s = true) (listed : k ∈ witnessCtrls s) (live : (s.canCtl k).live = true)
include team listed live

theorem witnessFrame_heard : witnessFrame w k s =
    if w.tick = s.t % 2 ^ 32 then
      { s with rtl.cur := { s.rtl.cur with wit := some w, ctrls := k :: s.rtl.cur.ctrls } }
    else if s.gts = boundaryOf s.t ∧ 0 < s.t ∧ w.tick = (s.t - 1) % 2 ^ 32 then
      { s with rtl.last := { s.rtl.last with wit := some w, ctrls := k :: s.rtl.last.ctrls } }
    else s := if_neg (by simp [team, listed, live])

theorem witnessFrame_present (tick : w.tick = s.t % 2 ^ 32) : witnessFrame w k s =
    { s with rtl.cur := { s.rtl.cur with wit := some w, ctrls := k :: s.rtl.cur.ctrls } } :=
  (witnessFrame_heard team listed live).trans (if_pos tick)

/-- In the cycle of a boundary a witness of the tick just ended still counts. -/
theorem witnessFrame_ended (boundary : s.gts = boundaryOf s.t) (later : 0 < s.t)
    (tick : w.tick = (s.t - 1) % 2 ^ 32) (other : w.tick ≠ s.t % 2 ^ 32) : witnessFrame w k s =
    { s with rtl.last := { s.rtl.last with wit := some w, ctrls := k :: s.rtl.last.ctrls } } :=
  (witnessFrame_heard team listed live).trans ((if_neg other).trans (if_pos ⟨boundary, later, tick⟩))

end

end

/-- Time that goes on within the tick stays in it. -/
theorem State.advance_t {g : Nat} (inTick : g < boundaryOf (s.t + 1)) : (s.advance g).t = s.t := by
  unfold boundaryOf State.t at inTick
  unfold State.advance State.t
  split
  next =>
    dsimp only
    unfold tickLen at *
    omega
  next => rfl

theorem witnessAssembly_again (done : s.rtl.witT = some s.t) : witnessAssembly s = s := if_pos (by simp [done])

/-- The own witness is put up once a tick, at the phase of the role. -/
theorem witnessAssembly_puts (team : inTeam s = true) (paired : s.rtl.role ≠ .lone) (first : s.rtl.witT ≠ some s.t) :
    witnessAssembly s = (witnessCtrls s).foldl witnessPut
      { s.advance (boundaryOf s.t + (if s.rtl.role = .lead then 5 else 55) * phaseLen) with rtl.witT := some s.t } := by
  have inTick : boundaryOf s.t + (if s.rtl.role = .lead then 5 else 55) * phaseLen < boundaryOf (s.t + 1) :=
    phase_inTick s (by split <;> decide)
  unfold witnessAssembly
  rw [if_neg (by simp [team, paired, first])]
  dsimp only
  rw [State.reach_inTick _ inTick, State.advance_t inTick]
  have same : witnessCtrls (s.advance (boundaryOf s.t + (if s.rtl.role = .lead then 5 else 55) * phaseLen)) =
      witnessCtrls s := by
    unfold witnessCtrls
    rw [State.advance_rtl]
  rw [same]

/-! ### TWIN_UP (R375) -/

theorem disciplineSourceLost_rtl : (disciplineSourceLost s).rtl = s.rtl := by
  unfold disciplineSourceLost toHoldover setDisc
  split
  · dsimp only
    split
    · rfl
    · rw [raiseEv_rtl]
  · rfl

theorem twinUpNow_iff : twinUpNow s = true ↔
    3 ≤ s.t ∧ s.t - 1 ∈ s.rtl.wordT ∧ s.t - 2 ∈ s.rtl.wordT ∧ s.t - 3 ∈ s.rtl.wordT := by
  simp only [twinUpNow, Bool.and_eq_true, decide_eq_true_eq, List.contains_iff_mem, and_assoc]

theorem twinUpChange_same (same : twinUpNow s = s.rtl.twinUp) : twinUpChange s = s := if_pos same

theorem twinUpChange_rtl (other : twinUpNow s ≠ s.rtl.twinUp) :
    (twinUpChange s).rtl = { s.rtl with twinUp := twinUpNow s } := by
  unfold twinUpChange
  rw [if_neg other]
  extract_lets src noted
  have kept : noted.rtl = { s.rtl with twinUp := twinUpNow s } := raiseAt_rtl ..
  clear_value noted
  split
  · rw [disciplineSourceLost_rtl, kept]
  · exact kept

/-! ### The pairs (R372) -/

section
variable {up : Bool}

theorem pairChange_a (other : s.rtl.upA ≠ up) (allowed : up = true → s.pdOn 11 = true) :
    pairChange 0 up s = rtlEvent 458 (if up then 1 else 2) (low24T s) { s with rtl.upA := up } := by
  refine (if_neg (by cases up <;> simp_all)).trans ?_
  cases up <;> rfl

theorem pairChange_b (other : s.rtl.upB ≠ up) (allowed : up = true → s.pdOn 11 = true) :
    pairChange 1 up s = rtlEvent 458 (if up then 3 else 4) (low24T s) { s with rtl.upB := up } := by
  refine (if_neg (by cases up <;> simp_all)).trans ?_
  cases up <;> rfl

theorem pairChange_wing (other : s.rtl.upWing ≠ up) (allowed : up = true → s.pdOn 11 = true ∧ s.rtl.wingEn = true) :
    pairChange 2 up s = rtlEvent 458 (if up then 5 else 6) (low24T s) { s with rtl.upWing := up } := by
  refine (if_neg (by cases up <;> simp_all)).trans ?_
  cases up <;> rfl

end

/-! ### ALIGNED (R378, R384) -/

theorem alignedSet_sets (follow : follows s = true) (off : s.rtl.aligned = false) (run : 1000 ≤ s.rtl.inBound) :
    alignedSet s = rtlEvent 459 1 (thetaData s) { s with rtl.aligned := true } := if_pos (by simp [follow, off, run])

theorem alignedSet_nothing (h : follows s = false ∨ s.rtl.aligned = true ∨ s.rtl.inBound < 1000) : alignedSet s = s := by
  refine if_neg fun ⟨follow, off, run⟩ => ?_
  obtain alone | aligned | short := h
  · exact absurd follow (by simp [alone])
  · exact absurd off (by simp [aligned])
  · omega

theorem alignedClear_rtl (aligned : s.rtl.aligned = true) (lost : 10 ≤ s.rtl.outBound ∨ 10 ≤ s.rtl.unmeasured) :
    (alignedClear s).rtl.aligned = false ∧ (s.rtl.role = .second → (alignedClear s).rtl.hoT = none) ∧
      (alignedClear s).rtl.role = s.rtl.role := by
  unfold alignedClear
  rw [if_pos ⟨aligned, lost⟩]
  extract_lets src cleared
  have kept : cleared.rtl = { s.rtl with aligned := false } := raiseAt_rtl ..
  clear_value cleared
  split
  · obtain ⟨confirmed, commit, cancelled⟩ := cancelHandover_rtl cleared
    rw [cancelled, kept]
    exact ⟨rfl, fun _ => rfl, rfl⟩
  next notSecond =>
    rw [kept]
    exact ⟨rfl, fun second => absurd second notSecond, rfl⟩

theorem alignedClear_nothing (h : s.rtl.aligned = false ∨ (s.rtl.outBound < 10 ∧ s.rtl.unmeasured < 10)) :
    alignedClear s = s := by
  refine if_neg fun ⟨aligned, lost⟩ => ?_
  obtain off | ⟨bound, measured⟩ := h
  · exact absurd aligned (by simp [off])
  · omega

end

/-- Settles O53: each happening by its lemma. -/
theorem teamHearsItsTwin : Obligations.TeamHearsItsTwin := by
  intro s running mode
  have taken (k : State → State) : whileTeam s k = .next (k s) := whileTeam_on k running mode
  refine ⟨fun v edge => ⟨fun bad wing => (taken _).trans (congrArg _ (tickLineWord_bad bad)), fun w good => ?_⟩,
    fun a b f => ⟨fun on team second good => ?_, fun on team second badA badB => ?_,
      fun h => (taken _).trans (congrArg _ (tickFrameIn_nothing h))⟩,
    fun a b h => ⟨fun on team lead good => ?_, fun other => (taken _).trans (congrArg _ (heartbeatIn_nothing other))⟩,
    fun w k team listed live tick => (taken _).trans (congrArg _ (witnessFrame_present team listed live tick)),
    fun w k team listed live boundary later tick other =>
      (taken _).trans (congrArg _ (witnessFrame_ended team listed live boundary later tick other)),
    fun w k h => (taken _).trans (congrArg _ (witnessFrame_deaf h)),
    fun team paired first => (taken _).trans (congrArg _ (witnessAssembly_puts team paired first)),
    fun done => (taken _).trans (congrArg _ (witnessAssembly_again done)),
    fun same => (taken _).trans (congrArg _ (twinUpChange_same same)), fun other => ⟨_, taken _, ?_⟩, twinUpNow_iff,
    fun up other allowed => (taken _).trans (congrArg _ (pairChange_a other allowed)),
    fun up other allowed => (taken _).trans (congrArg _ (pairChange_b other allowed)),
    fun up other allowed => (taken _).trans (congrArg _ (pairChange_wing other allowed)),
    fun follow off run => (taken _).trans (congrArg _ (alignedSet_sets follow off run)),
    fun h => (taken _).trans (congrArg _ (alignedSet_nothing h)),
    fun aligned lost => ⟨_, taken _, alignedClear_rtl aligned lost⟩,
    fun h => (taken _).trans (congrArg _ (alignedClear_nothing h))⟩
  · obtain ⟨x, y, rtl, stampA, stampB⟩ := twinWord_rtl (w := w) (edge := edge) (s := s)
    refine ⟨_, (taken _).trans (congrArg _ (tickLineWord_good running good)), ?_⟩
    rw [rtl]
    exact ⟨rfl, twinWord_head, stampA, stampB⟩
  · refine ⟨_, taken _, ?_⟩
    have heard := tickFrameIn_good (f := f) on team second good
    have counted := noteCopies_rtl (a := a) (b := b) (t := f.tick) (s := s)
    generalize noteCopies a b f.tick s = u at *
    simp only [Rtl.heard, frameCounts, counted, Prod.mk.injEq] at heard
    obtain ⟨frameIn, cur, replT, missA, missB, role⟩ := heard
    refine ⟨frameIn, congrArg TeamFacts.frame cur, replT, ?_, ?_, role.trans second⟩
    · rw [missA]
      obtain rfl | rfl := good
      · rfl
      · by_cases goodA : a = .good <;> simp [goodA]
    · rw [missB]
      obtain rfl | rfl := good
      · by_cases goodB : b = .good <;> simp [goodB]
      · rfl
  · refine ⟨_, (taken _).trans (congrArg _ (tickFrameIn_bad on team second badA badB)), ?_, noteCopies_mem⟩
    rw [noteCopies_rtl, if_neg (fun h => badB h.2), if_neg (fun h => badA h.2)]
  · obtain ⟨u, rtl, beaten⟩ := heartbeatIn_taken (h := h) on team lead good
    refine ⟨_, (taken _).trans (congrArg _ beaten), ?_⟩
    cases h.aligned with
    | true =>
      rw [if_pos rfl, rtl]
      exact ⟨rfl, rfl, lead, nofun, fun _ => ⟨rfl, rfl⟩⟩
    | false =>
      obtain ⟨confirmed, commit, cancelled⟩ := cancelHandover_rtl u
      rw [if_neg Bool.false_ne_true, cancelled, rtl]
      exact ⟨rfl, rfl, lead, fun _ => rfl, nofun⟩
  · rw [twinUpChange_rtl other]
    exact ⟨rfl, rfl, rfl⟩

end Sys2Proof.Machine
end

section
/-!
SUPPORT. What the blocks' own happenings leave alone: time, mode, domains, the supply guard, the self-test and the
boot record. `State.guard` is that view of the state; the lemma `f_guard` of an operation `f` says what becomes of it.
-/

namespace Sys2Proof.Machine

/-- Time, mode, domains, PWR, DSC, the boot record, and what UPD has judged or announced. -/
structure Guard where
  gts : Nat
  mode : Mode
  start : Start
  pd : Word
  pwr : Pwr
  dsc : Dsc
  boot : Boot
  judged : Option (Nat × Nat)
  commitT : Option Nat

def State.guard (s : State) : Guard :=
  { gts := s.gts, mode := s.mode, start := s.start, pd := s.pd, pwr := s.pwr, dsc := s.dsc, boot := s.boot
    judged := s.upd.judged, commitT := s.upd.commitT }

/-! ### Events and completions -/

theorem raiseEv_guard (e : Ev) (s : State) : (raiseEv e s).guard = s.guard := by
  obtain ⟨y, q, raised⟩ := raiseEv_frame e s
  rw [raised]
  rfl

theorem raiseAt_guard (g src code d : Nat) (s : State) : (raiseAt g src code d s).guard = s.guard := raiseEv_guard ..

theorem raise_guard (src code d : Nat) (s : State) : (raise src code d s).guard = s.guard := raiseEv_guard ..

theorem writeOut_guard (ini : Nat) (c : OpRef) (bs : List Byte) (r0 r1 : Word) (s : State) :
    (writeOut ini c bs r0 r1 s).guard = s.guard := by
  obtain ⟨m, f, y, q, written⟩ := writePieces_frame 2 ini (pieces bs.length c.op.addr bs.length) bs
    { moved := 0, status := 0, bytes := [] } s
  unfold writeOut writeBuffer
  generalize writePieces 2 ini (pieces bs.length c.op.addr bs.length) bs { moved := 0, status := 0, bytes := [] } s = w at *
  obtain ⟨u, x⟩ := w
  obtain rfl := written
  dsimp only
  split <;> rfl

/-! ### The event queue and the recorder -/

theorem writeEntry_guard (e : Ev) (ooo : Bool) (s : State) : (writeEntry e ooo s).1.guard = s.guard := by
  unfold writeEntry
  dsimp only
  obtain ⟨m, f, y, q, written⟩ := busWrite_frame 4 0x2D false e.fromEvq
    (s.sys.evqBase.toNat / 16 * 16 + 16 * (s.sys.prod % s.sys.evqSize)) (evqBytes e ooo) s
  rw [written]
  split <;> rfl

theorem recordEvent_guard (e : Ev) (ooo : Bool) (s : State) : (recordEvent e ooo s).guard = s.guard := by
  obtain ⟨q, recorded⟩ := recordEvent_frame e ooo s
  rw [recorded]
  rfl

theorem writeOverflow_guard (s : State) : (writeOverflow s).guard = s.guard := by
  unfold writeOverflow
  extract_lets y e ooo
  split
  · have written := writeEntry_guard e ooo s
    generalize writeEntry e ooo s = w at *
    obtain ⟨u, done⟩ := w
    dsimp only at written ⊢
    split
    · rw [recordEvent_guard]
      exact written
    · exact written
  · rfl

theorem offer_guard (e : Ev) (ooo : Bool) (s : State) : (offer e ooo s).guard = s.guard := by
  unfold offer
  extract_lets y
  split
  · rfl
  · split
    · rfl
    · exact writeEntry_guard ..

theorem release_guard (e : Ev) (s : State) : (release e s).guard = s.guard := by
  unfold release
  extract_lets late u v
  have recorded : v.guard = s.guard := (recordEvent_guard ..).trans (writeOverflow_guard s)
  clear_value v
  rw [offer_guard]
  exact recorded

theorem drainMerger_guard (s : State) : (drainMerger s).guard = s.guard :=
  foldl_keeps State.guard (fun s e => release_guard e s) s.sys.merger { s with sys.merger := [] }

theorem raiseNoRec_guard (src code d : Nat) (s : State) : (raiseNoRec src code d s).guard = s.guard := by
  unfold raiseNoRec
  split
  · exact raiseEv_guard ..
  · rfl

theorem recorder_guard (q : Rec) (s : State) : ({ s with recorder := q } : State).guard = s.guard := rfl

theorem writeFlash_guard (rec : List Word) (s : State) : (writeFlash rec s).guard = s.guard := by
  unfold writeFlash
  extract_lets r held u src v
  have scree : u.guard = s.guard := recorder_guard ..
  have cairn : v.guard = u.guard := recorder_guard ..
  clear_value u v
  split
  · split
    · exact (raise_guard ..).trans ((recorder_guard ..).trans (cairn.trans scree))
    · exact cairn.trans scree
  · exact scree

theorem writeOwn_guard (src code d : Nat) (s : State) : (writeOwn src code d s).guard = s.guard :=
  (raiseNoRec_guard ..).trans (writeFlash_guard ..)

theorem flushRecorder_guard (ok : Bool) (s : State) : (flushRecorder ok s).guard = s.guard := by
  unfold flushRecorder
  extract_lets r u src v
  have lost : u.guard = s.guard := by
    unfold u
    split
    · rfl
    · rw [writeOwn_guard]
      rfl
  have cleared : v.guard = u.guard := rfl
  clear_value u v
  split
  · rfl
  · split
    · rw [foldl_keeps State.guard (fun s rec => writeFlash_guard rec s), cleared, lost]
    · split
      · rfl
      · rw [raise_guard]
        rfl

theorem closeRecorder_guard (s : State) : (closeRecorder s).guard = s.guard :=
  (flushRecorder_guard ..).trans (drainMerger_guard s)

/-! ### Load switches -/

theorem chEvent_guard (n code d g : Nat) (s : State) : (chEvent n code d g s).guard = s.guard := raiseAt_guard ..

theorem leaveOff_guard (n g : Nat) (s : State) : (leaveOff n g s).guard = s.guard := by
  unfold leaveOff
  dsimp only
  split
  · exact chEvent_guard ..
  · rfl

theorem chAdvance_guard (n g : Nat) (s : State) : (chAdvance n g s).guard = s.guard := by
  obtain same | ⟨x, set, -⟩ | ⟨p, enters⟩ := chAdvance_cases n g s
  · rw [same]
  · rw [set]
    rfl
  · obtain ⟨x, entered, -⟩ := enterOn_eq n p none true s
    rw [enters, entered]
    exact leaveOff_guard ..

theorem lswAdvance_guard (g : Nat) (s : State) : (lswAdvance g s).guard = s.guard := by
  unfold lswAdvance
  exact foldl_keeps State.guard (fun s n => chAdvance_guard n g s) _ s

theorem driveWithdraw_guard (planned : Bool) (s : State) : (driveWithdraw planned s).guard = s.guard := by
  unfold driveWithdraw
  extract_lets src u
  have advanced : u.guard = s.guard := lswAdvance_guard ..
  clear_value u
  rw [foldl_keeps State.guard, advanced]
  intro v n
  extract_lets x w z
  split
  · have stopped : w.guard = v.guard := leaveOff_guard ..
    exact (chEvent_guard ..).trans stopped
  · rfl

theorem endProfile_guard (n t status : Nat) (s : State) : (endProfile n t status s).guard = s.guard := by
  unfold endProfile
  split <;> rfl

theorem setBank_guard (bk : Bank) (b : LoadBank) (s : State) : (s.setBank bk b).guard = s.guard := by cases bk <;> rfl

theorem bankOff_guard (bk : Bank) (s : State) : (bankOff bk s).guard = s.guard := by
  unfold bankOff
  extract_lets u b v
  have ended : u.guard = s.guard := by
    refine foldl_keeps State.guard (fun s n => ?_) _ s
    split
    · exact endProfile_guard ..
    · rfl
  have set : v.guard = u.guard := setBank_guard ..
  exact set.trans ended

/-! ### Mailboxes and pitons -/

theorem emptyBox_guard (m : Nat) (flushed off : Bool) (s : State) : (emptyBox m flushed off s).guard = s.guard :=
  raise_guard ..

theorem flushReceivers_guard (ids : List Nat) (off : Bool) (s : State) : (flushReceivers ids off s).guard = s.guard := by
  unfold flushReceivers
  refine foldl_keeps State.guard (fun s m => ?_) _ s
  split
  · exact emptyBox_guard ..
  · rfl

theorem freePitons_guard (ids : List Nat) (s : State) : (freePitons ids s).guard = s.guard := rfl

theorem endpointsOff_guard (ids : List Nat) (s : State) : (endpointsOff ids s).guard = s.guard := by
  unfold endpointsOff
  rw [freePitons_guard, flushReceivers_guard]

theorem resetEndpoints_guard (ids : List Nat) (s : State) : (resetEndpoints ids s).guard = s.guard := by
  unfold resetEndpoints
  rw [freePitons_guard, flushReceivers_guard]
  rfl

theorem mbxPowerDown_guard (s : State) : (mbxPowerDown s).guard = s.guard := by
  unfold mbxPowerDown
  extract_lets u
  have flushed : u.guard = s.guard := by
    refine foldl_keeps State.guard (fun s m => ?_) _ s
    split
    · exact emptyBox_guard ..
    · rfl
  clear_value u
  exact flushed

/-! ### Image pipeline and Lookout -/

theorem idrOfContext_guard (c : Nat) (s : State) : (idrOfContext c s).guard = s.guard := by
  unfold idrOfContext
  refine foldl_keeps State.guard (fun s i => ?_) _ s
  dsimp only
  split <;> rfl

theorem setIplState_guard (c : Nat) (st : IplState) (s : State) : (setIplState c st s).guard = s.guard := by
  unfold setIplState
  extract_lets x u
  split
  · rfl
  · have idr : u.guard = s.guard := by
      unfold u
      split
      · exact idrOfContext_guard ..
      · rfl
    clear_value u
    exact (raise_guard ..).trans idr

theorem iplReset_guard (s : State) : (iplReset s).guard = s.guard := by
  unfold iplReset
  extract_lets emptied freed
  have first : emptied.guard = s.guard := foldl_keeps State.guard (fun s c => setIplState_guard c .empty s) _ s
  have second : freed.guard = emptied.guard := by
    refine foldl_keeps State.guard (fun s c => ?_) _ emptied
    refine foldl_keeps State.guard (fun s f => ?_) _ s
    split <;> rfl
  clear_value emptied freed
  exact second.trans first

theorem dropSample_guard (e : Nat) (q : LkoSample) (s : State) : (dropSample e q s).guard = s.guard := by
  unfold dropSample
  dsimp only
  split <;> rfl

theorem colOff_guard (s : State) : (colOff s).guard = s.guard := by
  unfold colOff
  refine (foldl_keeps State.guard (fun s x => ?_) _ _).trans rfl
  extract_lets u y
  have dropped : u.guard = s.guard := foldl_keeps State.guard (fun s q => dropSample_guard x.num q s) _ s
  clear_value u
  exact dropped

/-! ### The rope team -/

theorem setDisc_guard (d : Disc) (s : State) : (setDisc d s).guard = s.guard := by
  unfold setDisc
  split
  · rfl
  · exact raiseEv_guard ..

theorem disciplineSourceLost_guard (s : State) : (disciplineSourceLost s).guard = s.guard := by
  unfold disciplineSourceLost toHoldover
  split
  · exact setDisc_guard ..
  · rfl

theorem fitSource_guard (s : State) : (fitSource s).guard = s.guard := by
  unfold fitSource
  split
  · rfl
  · split
    · rfl
    · exact disciplineSourceLost_guard s

theorem pairChange_guard (pair : Nat) (up : Bool) (s : State) : (pairChange pair up s).guard = s.guard := by
  unfold pairChange
  extract_lets was src u
  split
  · rfl
  · have changed : u.guard = s.guard := by
      unfold u
      split
      · rfl
      · split <;> rfl
    clear_value u
    exact (raiseAt_guard ..).trans changed

theorem rtlOff_guard (s : State) : (rtlOff s).guard = s.guard :=
  (pairChange_guard 2 false _).trans ((pairChange_guard 1 false _).trans (pairChange_guard 0 false s))

theorem endHandover_guard (code status : Nat) (s : State) : (endHandover code status s).guard = s.guard := by
  unfold endHandover
  split
  · rfl
  · extract_lets src u v
    have ended : v.guard = s.guard := by
      unfold v
      split <;> rfl
    clear_value v
    exact (raiseAt_guard ..).trans ended

theorem teamDescent_guard (s : State) : (teamDescent s).guard = s.guard := by
  unfold teamDescent
  split
  · rfl
  · extract_lets src u
    have left : u.guard = s.guard := endHandover_guard ..
    clear_value u
    split
    · exact (driveWithdraw_guard ..).trans left
    · exact left

/-! ### Panel, yield and GNSS -/

theorem pnlState_guard (st : PnlState) (s : State) : (pnlState st s).guard = s.guard := by
  unfold pnlState
  split
  · rfl
  · exact raise_guard ..

theorem pnlReset_guard (s : State) : (pnlReset s).guard = s.guard := pnlState_guard .empty s

theorem pnlStopNow_guard (s : State) : (pnlStopNow s).guard = s.guard := by
  unfold pnlStopNow
  split <;> rfl

theorem makeRoom_guard (g : Nat) (s : State) : (makeRoom g s).guard = s.guard := by
  unfold makeRoom
  split <;> exact raiseAt_guard ..

theorem roomFor_guard (g : Nat) : ∀ (fuel : Nat) (s : State), (roomFor g fuel s).guard = s.guard
  | 0, _ => rfl
  | fuel + 1, s => by
    unfold roomFor
    split
    · rfl
    · split
      · exact makeRoom_guard g s
      · exact (roomFor_guard g fuel _).trans (makeRoom_guard g s)

theorem storeRecord_guard (g : Nat) (r : List Byte) (s : State) : (storeRecord g r s).guard = s.guard := by
  unfold storeRecord
  split
  · rfl
  · extract_lets u
    have room : u.guard = s.guard := roomFor_guard ..
    clear_value u
    split
    · exact room
    · exact room

theorem yieldDeliver_guard (k : Nat) (bs : List Byte) (s : State) : (yieldDeliver k bs s).1.guard = s.guard := by
  unfold yieldDeliver
  split
  · rfl
  · exact writeOut_guard ..

theorem closeSecond_guard (g : Nat) (early : Bool) (p : State × Nat) (k : Nat) :
    (closeSecond g early p k).1.guard = p.1.guard := by
  unfold closeSecond
  extract_lets bs u
  have stored : u.guard = p.1.guard := storeRecord_guard ..
  have delivered := yieldDeliver_guard k bs u
  clear_value u
  generalize yieldDeliver k bs u = w at *
  obtain ⟨v, ok⟩ := w
  exact Eq.trans delivered stored

theorem foldl_closeSecond_guard (g : Nat) (early : Bool) : ∀ (l : List Nat) (p : State × Nat),
    (l.foldl (closeSecond g early) p).1.guard = p.1.guard
  | [], _ => rfl
  | k :: l, p => (foldl_closeSecond_guard g early l _).trans (closeSecond_guard g early p k)

theorem closeSeconds_guard (g k n : Nat) (early : Bool) (s : State) : (closeSeconds g k n early s).guard = s.guard := by
  unfold closeSeconds
  have closed := foldl_closeSecond_guard g early ((List.range n).map fun i => k + i) (s, 0)
  generalize ((List.range n).map fun i => k + i).foldl (closeSecond g early) (s, 0) = w at *
  obtain ⟨v, drops⟩ := w
  dsimp only at closed ⊢
  split
  · exact closed
  · exact (raiseAt_guard ..).trans closed

theorem reportUnattributed_guard (b : Nat) (s : State) : (reportUnattributed b s).guard = s.guard := by
  unfold reportUnattributed
  split
  · rfl
  · exact raiseAt_guard ..

theorem yieldClose_guard (g : Nat) (s : State) : (yieldClose g s).guard = s.guard := by
  unfold yieldClose
  split
  · rfl
  · extract_lets y u
    have closed : u.guard = s.guard := (closeSeconds_guard ..).trans (reportUnattributed_guard ..)
    clear_value u
    exact closed

theorem gnbStore_guard (s : State) : (gnbStore s).guard = s.guard := rfl

theorem bceStopAll_guard (s : State) : (bceStopAll s).guard = s.guard := by
  unfold bceStopAll
  refine foldl_keeps State.guard (fun s c => ?_) _ s
  dsimp only
  split <;> rfl

/-! ### Domains (R13, R353) -/

theorem serviceOff_guard (blk : Nat) (s : State) : (serviceOff blk s).guard = s.guard := rfl

theorem blocksOff_guard (n : Nat) (s : State) : (blocksOff n s).guard = s.guard := by
  unfold blocksOff
  extract_lets u
  have freed : u.guard = s.guard := freePitons_guard ..
  clear_value u
  rw [← freed]
  split
  · exact endpointsOff_guard ..
  · rfl
  · exact (iplReset_guard _).trans (serviceOff_guard ..)
  · exact colOff_guard u
  · exact (fitSource_guard _).trans (serviceOff_guard 8 u)
  · refine (bankOff_guard ..).trans ?_
    split <;> rfl
  · refine (bankOff_guard ..).trans ?_
    split <;> rfl
  · exact serviceOff_guard 9 u
  · exact (rtlOff_guard _).trans (serviceOff_guard ..)
  · exact (pnlReset_guard _).trans (serviceOff_guard ..)
  · rfl

/-- A domain that is switched changes PWR_STATUS alone. -/
theorem domainOff_guard (n : Nat) (s : State) : (domainOff n s).guard =
    { s.guard with pd := if s.pdOn n then (s.setPd n false).pd else s.pd } := by
  unfold domainOff
  split
  · exact (blocksOff_guard ..).trans rfl
  · rfl

theorem domainOn_guard (n : Nat) (s : State) : (domainOn n s).guard =
    { s.guard with pd := if s.pdOn n then s.pd else (s.setPd n true).pd } := by
  unfold domainOn
  split
  · rfl
  · dsimp only
    split <;> rfl

/-! ### The boot record as a stage is cut (R399) -/

/-- A stage cut leaves IDLE. -/
def Boot.cut (b : Boot) : Boot := if b.state = .staging then { b with state := .idle } else b

theorem stageCut_guard (s : State) : (stageCut s).guard = { s.guard with boot := s.boot.cut } := by
  unfold stageCut
  split
  next other =>
    have same : s.boot.cut = s.boot := if_neg other
    rw [same]
    rfl
  next staging =>
    have idle : s.boot.cut = { s.boot with state := .idle } := if_pos (not_not.1 staging)
    rw [idle]
    dsimp only
    split
    · rfl
    · exact (raiseAt_guard ..).trans rfl

theorem updDescent_guard (s : State) : (updDescent s).guard = { s.guard with boot := s.boot.cut } := by
  unfold updDescent
  extract_lets u
  have cut : u.guard = { s.guard with boot := s.boot.cut } := stageCut_guard s
  clear_value u
  split
  · exact cut
  · exact cut

end Sys2Proof.Machine
end

section
/-!
Statements about the descent self-test (R416, R419 to R423).
-/

namespace Sys2Proof.Machine

/-! ### Domains switched -/

@[simp] theorem State.setPd_off_self (s : State) (n : Nat) : (s.setPd n false).pdOn n = false := by
  change bitOf (s.pd &&& ~~~wordOf (2 ^ n)) n = false
  unfold bitOf
  rw [BitVec.getLsbD_and, BitVec.getLsbD_not]
  have mask : (wordOf (2 ^ n)).getLsbD n = _ := bitOf_wordOf_pow n n
  simp [mask]

/-- A domain that is off stays off as another goes off. -/
theorem State.setPd_off_stays {s : State} {m : Nat} (n : Nat) (off : s.pdOn m = false) :
    (s.setPd n false).pdOn m = false := by
  change bitOf (s.pd &&& ~~~wordOf (2 ^ n)) m = false
  unfold State.pdOn bitOf at off
  unfold bitOf
  rw [BitVec.getLsbD_and, off, Bool.false_and]

theorem State.setPd_on_self (s : State) {n : Nat} (h : n < 32) : (s.setPd n true).pdOn n = true := by
  change bitOf (s.pd ||| wordOf (2 ^ n)) n = true
  unfold bitOf
  rw [BitVec.getLsbD_or]
  have mask : (wordOf (2 ^ n)).getLsbD n = _ := bitOf_wordOf_pow n n
  simp [mask, h]

theorem domainOff_pdOn (n : Nat) (s : State) : (domainOff n s).pdOn n = false := by
  have pd : (domainOff n s).pd = if s.pdOn n then (s.setPd n false).pd else s.pd := congrArg Guard.pd (domainOff_guard n s)
  unfold State.pdOn
  rw [pd]
  split
  · exact State.setPd_off_self s n
  next off => exact Bool.eq_false_iff.2 off

theorem domainOff_stays {s : State} {m : Nat} (n : Nat) (off : s.pdOn m = false) : (domainOff n s).pdOn m = false := by
  have pd : (domainOff n s).pd = if s.pdOn n then (s.setPd n false).pd else s.pd := congrArg Guard.pd (domainOff_guard n s)
  unfold State.pdOn
  rw [pd]
  split
  · exact State.setPd_off_stays n off
  · exact off

theorem domainOn_pdOn {n : Nat} (s : State) (h : n < 32) : (domainOn n s).pdOn n = true := by
  have pd : (domainOn n s).pd = if s.pdOn n then s.pd else (s.setPd n true).pd := congrArg Guard.pd (domainOn_guard n s)
  unfold State.pdOn
  rw [pd]
  split
  next on => exact on
  · exact State.setPd_on_self s h

/-- The domain that a pitch isolates is one of the module's. -/
theorem pitchDomain_lt {p x : Nat} (h : pitchDomain p = some x) : x < 32 := by
  unfold pitchDomain at h
  split at h <;> simp only [Option.some.injEq, reduceCtorEq] at h <;> omega

/-! ### KEY_ZEROISE (R419) -/

section
variable {s : State}

theorem keyZeroise_first (mode : s.mode = .descent) (first : s.dsc.step5 = some s.t) (keys : s.dsc.keysClear = false)
    (good : s.dsc.keyFail = false) (verified : Bool) : keyZeroise verified s =
      if verified then { s with dsc.keysClear := true } else { s with dsc.keyFail := true } :=
  if_neg (by simp [mode, first, keys, good])

theorem keyZeroise_later {ok : Bool} (h : s.mode ≠ .descent ∨ s.dsc.step5 ≠ some s.t ∨ s.dsc.keysClear = true ∨
    s.dsc.keyFail = true) : keyZeroise ok s = s := if_pos h

/-! ### A pitch starts (R420, R421) -/

theorem pitchReset_guard (p : Nat) (atEnd : Bool) (s : State) : (pitchReset p atEnd s).guard = s.guard := by
  unfold pitchReset
  split
  · split
    · have reset : (flushReceivers endpoints false (resetEndpoints serviceIds s)).guard = s.guard :=
        (flushReceivers_guard ..).trans (resetEndpoints_guard ..)
      generalize flushReceivers endpoints false (resetEndpoints serviceIds s) = u at *
      exact reset
    · rfl
  · rfl
  · rfl
  · rfl
  · rfl

section
variable {p : Nat}

/-- The entry of the pitch that starts. -/
def pitchBegun (p : Nat) (s : State) : State :=
  { s with dsc.entries := Tab.put s.dsc.entries p { running := true }, dsc.runs := some (p, s.t), dsc.next := p + 1 }

/-- Pitch `p` may start at this boundary. -/
def State.mayStart (s : State) (p : Nat) : Prop := s.mode = .descent ∧ s.pwr.dstep = 5 ∧ s.dsc.keysClear = true ∧
  s.dsc.runs = none ∧ s.dsc.freeT ≤ s.t ∧ s.gts = boundaryOf s.t ∧ nextPitch s s.t = some p

theorem mayStart_iff : s.mayStart p ↔ ¬(s.mode ≠ .descent ∨ s.pwr.dstep ≠ 5 ∨ !s.dsc.keysClear ∨ s.dsc.runs.isSome ∨
    s.t < s.dsc.freeT ∨ s.gts ≠ boundaryOf s.t ∨ nextPitch s s.t ≠ some p) := by
  simp only [State.mayStart, not_or, not_not, Bool.not_eq_true', Bool.not_eq_false, Bool.not_eq_true, Nat.not_lt,
    Option.isSome_eq_false_iff, Option.isNone_iff_eq_none]

theorem pitchStart_nothing (h : ¬s.mayStart p) : pitchStart p s = s := if_pos (not_not.1 (mt mayStart_iff.2 h))

section
variable (starts : s.mayStart p)
include starts

theorem pitchStart_starts : pitchStart p s = (pitchDomain p).elim (pitchReset p false (pitchBegun p s)) fun d =>
    domainOff d { pitchBegun p s with dsc.wasOn := (pitchBegun p s).pdOn d } := by
  refine (if_neg (mayStart_iff.1 starts)).trans ?_
  unfold pitchBegun
  generalize pitchDomain p = domain
  cases domain with
  | none => rfl
  | some d => rfl

/-- The self-test's registers say which pitch runs; time and mode stay. -/
theorem pitchStart_guard : ∃ wasOn pd, (pitchStart p s).guard =
    { s.guard with dsc := { (pitchBegun p s).dsc with wasOn := wasOn }, pd := pd } := by
  rw [pitchStart_starts starts]
  cases pitchDomain p with
  | none =>
    exact ⟨s.dsc.wasOn, s.pd, (pitchReset_guard p false (pitchBegun p s)).trans rfl⟩
  | some d => exact ⟨_, _, domainOff_guard ..⟩

theorem pitchStart_isolates {x : Nat} (domain : pitchDomain p = some x) : (pitchStart p s).pdOn x = false := by
  rw [pitchStart_starts starts, domain]
  exact domainOff_pdOn ..

end

/-- What may start next is enabled, not yet passed over, and ends before T_d + 5,700. -/
theorem nextPitch_sound {t : Nat} (h : nextPitch s t = some p) :
    s.dsc.next ≤ p ∧ bitOf s.dsc.maskD p = true ∧ t + pitchBudget p ≤ s.dsc.td + 5700 := by
  have fits := List.find?_some h
  simpa only [Bool.and_eq_true, decide_eq_true_eq, and_assoc] using fits

/-! ### A pitch ends (R421 to R423) -/

section
variable {t0 endT : Nat} {r : PitchResult}

/-- The entry of the pitch that ends. -/
def pitchEnded (p t0 endT : Nat) (r : PitchResult) (s : State) : State :=
  { s with
    dsc.entries := Tab.put s.dsc.entries p {
      result := r, running := false, ticks := satTo (endT - t0) 65535, seconds := s.dsc.seconds }
    dsc.runs := none, dsc.freeT := endT }

theorem endPitch_eq : endPitch p t0 endT r s = (pitchDomain p).elim (pitchReset p true (pitchEnded p t0 endT r s))
    fun d => if s.dsc.wasOn then domainOn d (pitchEnded p t0 endT r s) else pitchEnded p t0 endT r s := by
  unfold endPitch pitchEnded
  generalize pitchDomain p = domain
  cases domain with
  | none => rfl
  | some d => rfl

theorem endPitch_guard : ∃ pd, (endPitch p t0 endT r s).guard =
    { s.guard with dsc := (pitchEnded p t0 endT r s).dsc, pd := pd } := by
  rw [endPitch_eq]
  cases pitchDomain p with
  | none =>
    exact ⟨s.pd, (pitchReset_guard p true (pitchEnded p t0 endT r s)).trans rfl⟩
  | some d =>
    rw [Option.elim_some]
    split
    · exact ⟨_, domainOn_guard ..⟩
    · exact ⟨s.pd, rfl⟩

theorem endPitch_dsc : (endPitch p t0 endT r s).dsc = (pitchEnded p t0 endT r s).dsc := by
  obtain ⟨pd, guard⟩ := endPitch_guard (p := p) (t0 := t0) (endT := endT) (r := r) (s := s)
  exact congrArg Guard.dsc guard

theorem endPitch_pitch : (endPitch p t0 endT r s).pitch p =
    { result := r, running := false, ticks := satTo (endT - t0) 65535, seconds := s.dsc.seconds } := by
  unfold State.pitch
  rw [endPitch_dsc]
  exact Tab.get_put_self ..

theorem endPitch_restores {x : Nat} (domain : pitchDomain p = some x) (was : s.dsc.wasOn = true) :
    (endPitch p t0 endT r s).pdOn x = true := by
  rw [endPitch_eq, domain, Option.elim_some, if_pos was]
  exact domainOn_pdOn _ (pitchDomain_lt domain)

/-- What a pitch's end leaves: its entry, no pitch that runs, and the domain that it had found on. -/
theorem endPitch_facts : (endPitch p t0 endT r s).dsc.runs = none ∧
    (∀ x, pitchDomain p = some x → s.dsc.wasOn = true → (endPitch p t0 endT r s).pdOn x = true) ∧
    (endPitch p t0 endT r s).pitch p =
      { result := r, running := false, ticks := satTo (endT - t0) 65535, seconds := s.dsc.seconds } :=
  ⟨congrArg Dsc.runs endPitch_dsc, fun _ => endPitch_restores, endPitch_pitch⟩

end

/-- A budget fits the entry's count of ticks. -/
theorem pitchBudget_fits (h : p < 12) : pitchBudget p ≤ 65535 := by
  revert h
  revert p
  decide

section
variable {t0 : Nat} (runs : s.dsc.runs = some (p, t0))
include runs

theorem pitchEnd_ends (o : PitchOutcome) (within : s.gts ≤ boundaryOf (t0 + pitchBudget p)) :
    pitchEnd o s = endPitch p t0 ((s.gts + tickLen - 1) / tickLen) (outcomeResult o) s := by
  unfold pitchEnd
  rw [runs]
  exact if_neg (Nat.not_lt.2 within)

theorem pitchEnd_late (o : PitchOutcome) (late : boundaryOf (t0 + pitchBudget p) < s.gts) : pitchEnd o s = s := by
  unfold pitchEnd
  rw [runs]
  exact if_pos late

theorem pitchExpiry_cuts (spent : t0 + pitchBudget p ≤ s.t) :
    pitchExpiry s = endPitch p t0 (t0 + pitchBudget p) .incomplete s := by
  unfold pitchExpiry
  rw [runs]
  exact if_neg (Nat.not_lt.2 spent)

theorem pitchExpiry_early (early : s.t < t0 + pitchBudget p) : pitchExpiry s = s := by
  unfold pitchExpiry
  rw [runs]
  exact if_pos early

end

theorem pitchEnd_idle (o : PitchOutcome) (idle : s.dsc.runs = none) : pitchEnd o s = s := by
  unfold pitchEnd
  rw [idle]

theorem pitchExpiry_idle (idle : s.dsc.runs = none) : pitchExpiry s = s := by
  unfold pitchExpiry
  rw [idle]

end

end

/-- Settles O59: the keys, the start, the end and the end of the budget, each by its lemma. -/
theorem pitchesRunInOrderWithinBudget : Obligations.PitchesRunInOrderWithinBudget := by
  intro s on
  have taken (k : State → State) : whileOn 2 s k = .next (k s) := whileOn_on k on
  refine ⟨fun mode first keys good => ?_, fun ok h => (taken _).trans (congrArg _ (keyZeroise_later h)),
    fun p => ⟨fun here => ?_, fun h => (taken _).trans (congrArg _ (pitchStart_nothing h)), nextPitch_sound⟩,
    fun p t0 number runs => ⟨fun o within => ?_, fun o late => (taken _).trans (congrArg _ (pitchEnd_late runs o late)),
      fun spent => ?_, fun early => (taken _).trans (congrArg _ (pitchExpiry_early runs early))⟩,
    fun idle => ⟨fun o => (taken _).trans (congrArg _ (pitchEnd_idle o idle)),
      (taken _).trans (congrArg _ (pitchExpiry_idle idle))⟩⟩
  · have zeroised := keyZeroise_first mode first keys good
    exact ⟨(taken _).trans (congrArg _ (zeroised true)), (taken _).trans (congrArg _ (zeroised false))⟩
  · obtain ⟨wasOn, pd, guard⟩ := pitchStart_guard here
    have dsc : (pitchStart p.val s).dsc = _ := congrArg Guard.dsc guard
    refine ⟨_, taken _, ?_, congrArg Dsc.runs dsc, congrArg Dsc.next dsc, fun x => pitchStart_isolates here,
      (congrArg Guard.mode guard).trans here.1, congrArg Guard.gts guard⟩
    unfold State.pitch
    rw [dsc]
    exact Tab.get_put_self ..
  · obtain ⟨idle, back, entry⟩ := endPitch_facts (p := p) (t0 := t0) (endT := (s.gts + tickLen - 1) / tickLen)
      (r := outcomeResult o) (s := s)
    exact ⟨_, (taken _).trans (congrArg _ (pitchEnd_ends runs o within)), idle, back, entry⟩
  · obtain ⟨idle, back, entry⟩ := endPitch_facts (p := p) (t0 := t0) (endT := t0 + pitchBudget p)
      (r := .incomplete) (s := s)
    rw [Nat.add_sub_cancel_left, satTo, min_eq_left (pitchBudget_fits number)] at entry
    exact ⟨_, (taken _).trans (congrArg _ (pitchExpiry_cuts runs spent)), idle, back, entry⟩

end Sys2Proof.Machine
end

section
/-!
Statement about the steps of Descent (R346, R349, R350).
-/

namespace Sys2Proof.Machine

/-! ### PWR_CMD (R349, R350) -/

section
variable {v : Word} {s : State}

theorem pwrCmd_descend (bit : bitOf v 0 = true) (run : s.mode = .run) (ready : s.start = .ready) :
    pwrCmd v s = { s with pwr.descT := some (s.t + 1) } := by
  unfold pwrCmd
  simp only [bit, run, ready, BEq.rfl, Bool.and_self, if_true]
  exact if_neg (by simp)

theorem pwrCmd_hostDone (bit : bitOf v 1 = true) (descent : s.mode = .descent) (step : s.pwr.dstep = 4) :
    pwrCmd v s = { s with pwr.graceEnd := some (true, s.t + 1) } := by
  unfold pwrCmd
  simp [bit, descent, step]

theorem pwrCmd_nothing (run : s.mode ≠ .run) (step : s.mode ≠ .descent ∨ s.pwr.dstep ≠ 4) : pwrCmd v s = s := by
  have noStep : ¬(s.mode = .descent ∧ s.pwr.dstep = 4) := not_and_or.2 step
  unfold pwrCmd
  simp only [beq_eq_false_iff_ne.2 run, Bool.and_false, Bool.false_and, Bool.false_eq_true, if_false]
  refine if_neg fun h => noStep ?_
  simp only [Bool.and_eq_true, beq_iff_eq] at h
  exact ⟨h.1.2, h.2⟩

end

/-! ### Descent begins (R349, R350) -/

/-- The self-test's registers as Descent begins. -/
def Dsc.begun (d : Dsc) (t : Nat) : Dsc :=
  { d with maskD := d.mask, td := t, step5 := none, keysClear := false, next := 0, runs := none, freeT := 0 }

/-- A module in Run goes to step 1 of Descent; its time and its domains stay. -/
theorem descentBegin_guard {s : State} (run : s.mode = .run) (ready : s.start = .ready) : (descentBegin s).guard =
    { s.guard with
      mode := .descent, pwr := { s.pwr with descT := none, dstep := 1, graceEnd := none }, dsc := s.dsc.begun s.t
      boot := s.boot.cut } := by
  have begins : descentBegin s = _ := if_neg (not_or.2 ⟨not_not.2 run, not_not.2 ready⟩)
  rw [begins]
  have event : (modeEvent' .descent 0 s).guard = { s.guard with mode := .descent } := raise_guard ..
  generalize modeEvent' .descent 0 s = e at *
  extract_lets srcA srcB u v
  have stepped : u.guard = { e.guard with pwr := { e.guard.pwr with descT := none, dstep := 1, graceEnd := none } } := rfl
  have cut : (updDescent (teamDescent u)).guard = { u.guard with boot := u.guard.boot.cut } := by
    rw [updDescent_guard, ← teamDescent_guard u]
    rfl
  have tested : v.guard = { (updDescent (teamDescent u)).guard with
      dsc := (updDescent (teamDescent u)).guard.dsc.begun ((updDescent (teamDescent u)).guard.gts / tickLen) } := rfl
  clear_value u v
  rw [bceStopAll_guard, pnlStopNow_guard, yieldClose_guard, gnbStore_guard, tested, cut, stepped, event]
  rfl

theorem descentBegin_facts {s : State} (run : s.mode = .run) (ready : s.start = .ready) :
    (descentBegin s).mode = .descent ∧ (descentBegin s).pwr.dstep = 1 ∧ (descentBegin s).dsc.td = s.t ∧
      (descentBegin s).gts = s.gts ∧ (descentBegin s).pd = s.pd := by
  have guard := descentBegin_guard run ready
  generalize descentBegin s = t at *
  exact ⟨congrArg Guard.mode guard, congrArg (fun g => g.pwr.dstep) guard, congrArg (fun g => g.dsc.td) guard,
    congrArg Guard.gts guard, congrArg Guard.pd guard⟩

section
variable {s : State}

/-- Run's inputs have been inactive for long enough, and no HOLD forbids the Descent. -/
theorem ignitionOff_met (run : s.mode = .run) (ready : s.start = .ready) (free : s.pwr.hold = false)
    (idle : inputsIdle s = true) (long : s.pwr.ignDeb * 10 < s.pwr.idleTicks) : ignitionOff s =
      if s.gts = boundaryOf s.t then descentBegin s else { s with pwr.descT := some (s.t + 1) } :=
  if_neg (by simp [run, ready, free, idle, long])

theorem ignitionOff_nothing (h : s.pwr.hold = true ∨ inputsIdle s = false ∨ s.pwr.idleTicks ≤ s.pwr.ignDeb * 10) :
    ignitionOff s = s :=
  if_pos (by
    obtain held | active | short := h
    · exact .inr (.inr (.inl held))
    · exact .inr (.inr (.inr (.inl (by rw [active]; rfl))))
    · exact .inr (.inr (.inr (.inr short))))

theorem holdExpiry_due (held : s.pwr.wakeHold = true) (due : s.pwr.holdT + 600000 ≤ s.t) :
    holdExpiry s = { s with pwr.wakeHold := false, pwr.ctl := setBit s.pwr.ctl 29 false } := if_pos ⟨held, due⟩

theorem holdExpiry_nothing (h : s.pwr.wakeHold = false ∨ s.t < s.pwr.holdT + 600000) : holdExpiry s = s :=
  if_neg fun ⟨held, due⟩ => h.elim (fun free => Bool.false_ne_true (free.symm.trans held)) (Nat.not_lt.2 due)

/-! ### Step 5 (R350, R419) -/

theorem graceExpiry_met (descent : s.mode = .descent) (step : s.pwr.dstep = 4) (waits : s.pwr.graceEnd = none)
    (due : s.dsc.td + graceTicks s.pwr ≤ s.t) : graceExpiry s =
      if s.gts = boundaryOf s.t then descentStep5 false s else { s with pwr.graceEnd := some (false, s.t + 1) } :=
  if_neg (by simp [descent, step, waits, due])

theorem graceExpiry_nothing (h : s.t < s.dsc.td + graceTicks s.pwr ∨ s.pwr.graceEnd ≠ none) : graceExpiry s = s :=
  if_pos (by
    obtain early | ended := h
    · exact .inr (.inr (.inr early))
    · exact .inr (.inr (.inl (Option.isSome_iff_ne_none.2 ended))))

end

/-- Every domain that is switched in turn is off in the end, and one that was off is. -/
theorem foldl_domainOff_off {m : Nat} : ∀ (l : List Nat) {s : State}, s.pdOn m = false ∨ m ∈ l →
    (l.foldl (fun s n => domainOff n s) s).pdOn m = false
  | [], _, h => h.elim id nofun
  | n :: l, s, h => foldl_domainOff_off l <| by
    obtain off | here := h
    · exact .inl (domainOff_stays n off)
    · obtain rfl | later := List.mem_cons.1 here
      · exact .inl (domainOff_pdOn m s)
      · exact .inr later

theorem foldl_domainOff_gts (l : List Nat) (s : State) : (l.foldl (fun s n => domainOff n s) s).gts = s.gts :=
  foldl_keeps State.gts (fun s n => congrArg Guard.gts (domainOff_guard n s)) l s

theorem descentStep5_facts (host : Bool) (s : State) : (descentStep5 host s).pwr.dstep = 5 ∧
    (descentStep5 host s).dsc.step5 = some s.t ∧
    ∀ n ∈ [3, 5, 6, 7, 11, 12], (descentStep5 host s).pdOn n = false := by
  unfold descentStep5
  generalize [3, 5, 6, 7, 11, 12] = l
  extract_lets srcA u v srcB
  have gts : v.gts = s.gts := (foldl_domainOff_gts l u).trans (raise_gts ..)
  have off : ∀ n ∈ l, v.pdOn n = false := fun n here => foldl_domainOff_off l (.inr here)
  clear_value v
  exact ⟨rfl, congrArg (fun g => some (g / tickLen)) gts, off⟩

/-! ### Steps 6 and 7 (R346, R350) -/

/-- What is left of a module whose domains but PD0 and PD1 have gone off. -/
def Guard.allOff (g : Guard) : Guard :=
  { g with gts := 0, start := .entry, pd := 3, boot := g.boot.cut, judged := none, commitT := none }

theorem allOff_guard (s : State) : (allOff s).guard = s.guard.allOff := by
  unfold Machine.allOff
  extract_lets srcA u v srcB
  have posted : u.guard = { s.guard with gts := 0, pd := 3 } := mbxPowerDown_guard ..
  have cut : v.guard = { u.guard with boot := u.guard.boot.cut } := by
    unfold v
    clear_value u
    rw [bankOff_guard, bankOff_guard, stageCut_guard]
    rfl
  clear_value v
  change ({ v.guard with start := .entry, judged := none, commitT := none } : Guard) = _
  rw [cut, posted]
  rfl

theorem allOff_tick (s : State) : (allOff s).tick.running = false := by
  unfold Machine.allOff
  extract_lets srcA u v srcB
  rfl

theorem updEvent_guard (src code data : Nat) (s : State) : (updEvent src code data s).guard = s.guard := raiseAt_guard ..

theorem toNewSet_guard (s : State) : (toNewSet s).guard = { s.guard with boot := (toNewSet s).boot } := rfl

theorem updStep7_guard (s : State) : ∃ b, (updStep7 s).guard = { s.guard with boot := b } := by
  unfold updStep7
  split
  · exact ⟨s.boot, rfl⟩
  · have flipped := toNewSet_guard s
    generalize toNewSet s = u at *
    rw [updEvent_guard]
    exact ⟨{ u.boot with state := .activating, step := oneIf s.boot.team },
      congrArg (fun g => { g with boot := { u.boot with state := .activating, step := oneIf s.boot.team } }) flipped⟩

/-- Step 6 leaves the supply guard and the self-test's record, no time base, and PD0 and PD1 on. -/
theorem descentStep6_facts (s : State) : (descentStep6 s).tick.running = false ∧ (descentStep6 s).gts = 0 ∧
    (descentStep6 s).pd = 3 ∧ (descentStep6 s).pwr = { s.pwr with dstep := 6 } ∧ (descentStep6 s).dsc = s.dsc := by
  obtain ⟨b, step7⟩ := updStep7_guard s
  have tick := allOff_tick (closeRecorder { updStep7 s with pwr.dstep := 6 })
  have guard : (descentStep6 s).guard = _ := allOff_guard (closeRecorder { updStep7 s with pwr.dstep := 6 })
  rw [closeRecorder_guard] at guard
  unfold descentStep6 at guard ⊢
  generalize updStep7 s = u at *
  generalize allOff _ = t at *
  refine ⟨tick, congrArg Guard.gts guard, congrArg Guard.pd guard, (congrArg Guard.pwr guard).trans ?_,
    (congrArg Guard.dsc guard).trans (congrArg Guard.dsc step7)⟩
  have pwr : u.pwr = s.pwr := congrArg Guard.pwr step7
  rw [← pwr]
  rfl

theorem modeEvent'_guard (m : Mode) (cause : Nat) (s : State) :
    (modeEvent' m cause s).guard = { s.guard with mode := m } := raise_guard ..

theorem modeEvent'_tick (m : Mode) (cause : Nat) (s : State) : (modeEvent' m cause s).tick = s.tick := raise_tick ..

/-- What step 7 leaves of a module that step 6 has prepared. -/
theorem descentEnd_facts (code : Nat) {u : State} (tick : u.tick.running = false) (gts : u.gts = 0) (pd : u.pd = 3) :
    (descentEnd code u).tick.running = false ∧ (descentEnd code u).pwr.armed = u.pwr.ctl ∧
    (descentEnd code u).gts = 0 ∧
    (descentEnd code u).mode = (if u.pwr.latched then .run
      else if u.pwr.bivEn && decide (0 < u.pwr.bivAllow) then .bivouac else .cold) ∧
    (descentEnd code u).pd = (if u.pwr.latched || (u.pwr.bivEn && decide (0 < u.pwr.bivAllow)) then 3 else 1) ∧
    (descentEnd code u).dsc = u.dsc := by
  unfold descentEnd
  extract_lets srcA v srcB w
  have guard : w.guard = { u.guard with pwr := { u.pwr with dstep := 0, armed := u.pwr.ctl } } := by
    have event : v.guard = { u.guard with pwr := { u.pwr with dstep := 7, armed := u.pwr.ctl } } := raise_guard ..
    change ({ v.guard with pwr := { v.guard.pwr with dstep := 0 } } : Guard) = _
    rw [event]
  have same : w.tick = u.tick := raise_tick ..
  clear_value w
  have pwr : w.pwr = { u.pwr with dstep := 0, armed := u.pwr.ctl } := congrArg Guard.pwr guard
  have latched : w.pwr.latched = u.pwr.latched := by rw [pwr]
  have bivouac : (w.pwr.bivEn && decide (0 < w.pwr.bivAllow)) = (u.pwr.bivEn && decide (0 < u.pwr.bivAllow)) := by
    rw [pwr]
    rfl
  have armed : w.pwr.armed = u.pwr.ctl := by rw [pwr]
  have time : w.gts = 0 := (congrArg Guard.gts guard).trans gts
  have on : w.pd = 3 := (congrArg Guard.pd guard).trans pd
  have dsc : w.dsc = u.dsc := congrArg Guard.dsc guard
  rw [latched, bivouac]
  generalize (u.pwr.bivEn && decide (0 < u.pwr.bivAllow)) = b
  cases u.pwr.latched with
  | true => exact ⟨(congrArg Tick.running same).trans tick, armed, time, rfl, on, dsc⟩
  | false =>
    cases b with
    | true =>
      have begun := modeEvent'_guard .bivouac 0
        (bivBegin { w with pwr.books := { allow := w.pwr.bivAllow, beacon := w.pwr.beaconT } })
      have running := modeEvent'_tick .bivouac 0
        (bivBegin { w with pwr.books := { allow := w.pwr.bivAllow, beacon := w.pwr.beaconT } })
      change (bivouacBegin w).guard = _ at begun
      change (bivouacBegin w).tick = w.tick at running
      simp only [Bool.false_eq_true, if_false, if_true, Bool.false_or]
      generalize bivouacBegin w = t at *
      exact ⟨(congrArg Tick.running (running.trans same)).trans tick, (congrArg (fun g => g.pwr.armed) begun).trans armed,
        (congrArg Guard.gts begun).trans time, congrArg Guard.mode begun, (congrArg Guard.pd begun).trans on,
        (congrArg Guard.dsc begun).trans dsc⟩
    | false =>
      have cold : (toCold w).guard = { w.guard with mode := .cold, pd := 1, gts := 0 } := modeEvent'_guard ..
      have stopped : (toCold w).tick.running = false := congrArg Tick.running (modeEvent'_tick ..)
      simp only [Bool.false_eq_true, if_false, Bool.false_or]
      generalize toCold w = t at *
      exact ⟨stopped, (congrArg (fun g => g.pwr.armed) cold).trans armed, congrArg Guard.gts cold,
        congrArg Guard.mode cold, congrArg Guard.pd cold, (congrArg Guard.dsc cold).trans dsc⟩

/-- Steps 6 and 7 from any state of a Descent (R346, R350). -/
theorem descentEnd_descentStep6 (code : Nat) (s : State) :
    ((descentEnd code (descentStep6 s)).tick.running = false ∧
      (descentEnd code (descentStep6 s)).pwr.armed = s.pwr.ctl ∧ (descentEnd code (descentStep6 s)).gts = 0 ∧
      (descentEnd code (descentStep6 s)).mode = (if s.pwr.latched then .run
        else if s.pwr.bivEn && decide (0 < s.pwr.bivAllow) then .bivouac else .cold) ∧
      (descentEnd code (descentStep6 s)).pd =
        (if s.pwr.latched || (s.pwr.bivEn && decide (0 < s.pwr.bivAllow)) then 3 else 1)) ∧
    (descentEnd code (descentStep6 s)).dsc = s.dsc := by
  obtain ⟨tick, gts, pd, pwr, dsc⟩ := descentStep6_facts s
  generalize descentStep6 s = u at *
  obtain ⟨stopped, armed, time, mode, on, kept⟩ := descentEnd_facts code tick gts pd
  generalize descentEnd code u = t at *
  rw [pwr] at armed mode on
  exact ⟨⟨stopped, armed, time, mode, on⟩, kept.trans dsc⟩

/-- The limit cuts the pitch that runs as INCOMPLETE, and leaves the supply guard (R350, R422). -/
theorem dscCut_facts (s : State) : (dscCut s).pwr = s.pwr ∧
    ∀ q, s.dsc.runs = some q → ((dscCut s).pitch q.1).result = .incomplete := by
  unfold dscCut
  cases runs : s.dsc.runs with
  | none => exact ⟨rfl, nofun⟩
  | some q =>
    obtain ⟨p, t0⟩ := q
    obtain ⟨pd, guard⟩ := endPitch_guard (p := p) (t0 := t0) (endT := s.t) (r := .incomplete) (s := s)
    have entry := endPitch_pitch (p := p) (t0 := t0) (endT := s.t) (r := .incomplete) (s := s)
    refine ⟨congrArg Guard.pwr guard, fun q same => ?_⟩
    obtain rfl := Option.some.inj same
    exact congrArg PitchEntry.result entry

section
variable {s : State}

theorem descentComplete_ends (descent : s.mode = .descent) (step : s.pwr.dstep = 5) (ended : pitchesLeft s = false) :
    descentComplete s = descentEnd 3 (descentStep6 s) :=
  if_neg (by simp [descent, step, ended])

theorem descentComplete_nothing (h : s.pwr.dstep ≠ 5 ∨ pitchesLeft s = true) : descentComplete s = s := if_pos (.inr h)

theorem descentLimit_ends (descent : s.mode = .descent) (due : s.dsc.td + 6000 ≤ s.t) :
    descentLimit s = descentEnd 4 (descentStep6 (dscCut s)) :=
  if_neg (not_or.2 ⟨not_not.2 descent, Nat.not_lt.2 due⟩)

theorem descentLimit_nothing (h : s.mode ≠ .descent ∨ s.t < s.dsc.td + 6000) : descentLimit s = s := if_pos h

end

/-- Settles O49: PWR_CMD, the beginning, HOLD, step 5 and the two ways into steps 6 and 7, each by its lemma. -/
theorem descentRunsInItsSteps : Obligations.DescentRunsInItsSteps := by
  refine ⟨fun a v s access => ?_, fun s => ?_⟩
  · have written : ∀ k : State → State, gateWrite a 11 1 s k = k (s.reply a .ok) := fun k => gateWrite_open k access
    refine ⟨fun bit run ready => ?_, fun bit descent step => ?_, fun run step => ?_⟩
    · exact congrArg Host.Outcome.next ((written _).trans (pwrCmd_descend bit run ready))
    · exact congrArg Host.Outcome.next ((written _).trans (pwrCmd_hostDone bit descent step))
    · have nothing : gateWrite a 11 1 s (pwrCmd v) = s.reply a .ok := (written _).trans (pwrCmd_nothing run step)
      exact ⟨congrArg Host.Outcome.next nothing, congrArg Host.Outcome.next nothing⟩
  · intro p after
    refine ⟨fun run ready free idle long => ?_, fun h => congrArg Host.Outcome.next (ignitionOff_nothing h),
      fun run held due => ?_, fun h => ?_, fun descent step waits due => ?_,
      fun h => congrArg Host.Outcome.next (graceExpiry_nothing h), fun descent step ended => ?_,
      fun h => congrArg Host.Outcome.next (descentComplete_nothing h), fun descent due => ?_,
      fun h => congrArg Host.Outcome.next (descentLimit_nothing h)⟩
    · have met := ignitionOff_met run ready free idle long
      exact ⟨fun between => congrArg Host.Outcome.next (met.trans (if_neg between)), fun boundary =>
        ⟨descentBegin s, congrArg Host.Outcome.next (met.trans (if_pos boundary)), descentBegin_facts run ready⟩⟩
    · exact congrArg Host.Outcome.next ((if_pos run).trans (holdExpiry_due held due))
    · refine congrArg Host.Outcome.next ?_
      rw [holdExpiry_nothing h, ite_self]
    · have met := graceExpiry_met descent step waits due
      exact ⟨fun between => congrArg Host.Outcome.next (met.trans (if_neg between)), fun boundary =>
        ⟨descentStep5 false s, congrArg Host.Outcome.next (met.trans (if_pos boundary)), descentStep5_facts false s⟩⟩
    · exact ⟨_, congrArg Host.Outcome.next (descentComplete_ends descent step ended),
        (descentEnd_descentStep6 3 s).1⟩
    · obtain ⟨pwr, cut⟩ := dscCut_facts s
      have limit := descentLimit_ends descent due
      generalize dscCut s = u at *
      obtain ⟨facts, dsc⟩ := descentEnd_descentStep6 4 u
      generalize descentEnd 4 (descentStep6 u) = t at *
      rw [pwr] at facts
      refine ⟨t, congrArg Host.Outcome.next limit, facts, fun q runs => ?_⟩
      unfold State.pitch
      rw [dsc]
      exact cut q runs

end Sys2Proof.Machine
end

section
/-!
Statement about waking and Run entry (R347, R348, R351, R356, R370).
-/

namespace Sys2Proof.Machine

/-! ### Run entry begins (R22, R348, R357, R376) -/

section
variable {s : State} {e : Entry}

/-- The power-cycle count that Run entry goes on from: flash's where PD0 was lost (R357). -/
def State.cyclesBefore (s : State) (e : Entry) : Nat := if e.pd0Lost then s.tick.pccFlash else s.tick.pcc

theorem updRunEntry_tick (s : State) : (updRunEntry s).tick = s.tick := by
  unfold updRunEntry
  extract_lets src u fell v
  have idle : u.tick = s.tick := by
    unfold u
    split <;> rfl
  have old : v.tick = u.tick := by
    unfold v toOldSet flipLetter
    split
    · dsimp only
      split <;> rfl
    · rfl
  exact old.trans idle

/-- Step 1 of Run entry: PD0's loss, the MODE record, and fresh blocks in PD2 and above. -/
def entryBlocks (wake : Nat) (e : Entry) (s : State) : State :=
  let u := stageEvent 16 (Mode.run.code + 1) (wordOf wake) { (if e.pd0Lost then pd0Loss s else s) with mode := .run, pd := 3 }
  updRunEntry (freshBlocks { u with dsc.seconds := u.dsc.seconds + e.slept })

theorem entryBlocks_pcc (wake : Nat) (e : Entry) (s : State) : (entryBlocks wake e s).tick.pcc = s.cyclesBefore e := by
  unfold entryBlocks
  extract_lets srcA u srcB
  have staged : u.tick.pcc = s.cyclesBefore e := by
    unfold u
    rw [stageEvent_tick]
    unfold srcA State.cyclesBefore
    split <;> rfl
  clear_value u
  rw [updRunEntry_tick]
  exact staged

/-- Steps 2 to 4 of Run entry: mode, domains, time base, count and the PWR registers. -/
def entryStarted (wake : Nat) (e : Entry) (s : State) : State :=
  let pcc := countUp s.tick.pcc max32
  let u := { s with
    mode := .run, start := .timeBase, pd := 0x49F, gts := (timeBaseFrom e).getD 0
    ropePos := if wake = 6 then s.ropePos else e.pos.val
    tick := { running := true, pcc := pcc, pccFlash := pcc }
    sys.tbLoaded := (timeBaseFrom e).isSome, pwr := pwrRunEntry wake e.pd0Lost s.pwr }
  lineStart e { u with pwr.beatT := u.t, pwr.holdT := u.t, biv.phase := .idle }

theorem runEntry_eq (wake : Nat) (e : Entry) (s : State) : runEntry wake e s =
    raise 8 (if (timeBaseFrom e).isSome then 2 else 1) (countUp (entryBlocks wake e s).tick.pcc max32)
      (entryStarted wake e (entryBlocks wake e s)) := rfl

/-- Run entry from step 2 on: mode, domains, time base, count and the PWR registers. -/
theorem runEntry_enters (wake : Nat) (e : Entry) (s : State) :
    (runEntry wake e s).mode = .run ∧ (runEntry wake e s).start = .timeBase ∧ (runEntry wake e s).pd = (0x49F : Word) ∧
    (runEntry wake e s).gts = (timeBaseFrom e).getD 0 ∧
    (runEntry wake e s).tick = { running := true, pcc := countUp (s.cyclesBefore e) max32
                                 pccFlash := countUp (s.cyclesBefore e) max32 } ∧
    ∃ p t, (runEntry wake e s).pwr = { pwrRunEntry wake e.pd0Lost p with beatT := t, holdT := t } := by
  have count := entryBlocks_pcc wake e s
  rw [runEntry_eq, ← count]
  generalize entryBlocks wake e s = u
  simp only [raise_mode, raise_start, raise_pd, raise_gts, raise_tick, raise_pwr]
  exact ⟨rfl, rfl, rfl, rfl, rfl, u.pwr, ((timeBaseFrom e).getD 0) / tickLen, rfl⟩

/-- What a wake that begins Run entry leaves (R22, R347, R348, R357, R370). -/
theorem runEntry_entered (wake : Nat) (e : Entry) {s t : State} (enters : runEntry wake e s = t) :
    t.mode = .run ∧ t.start = .timeBase ∧ t.pd = (0x49F : Word) ∧ t.tick.running = true ∧
    t.tick.pcc = countUp (s.cyclesBefore e) max32 ∧ t.tick.pccFlash = t.tick.pcc ∧ t.gts = (timeBaseFrom e).getD 0 ∧
    t.pwr.pdReq = 0 ∧ t.pwr.bivAllow = 0 ∧ t.pwr.wdog = 0x14 ∧ t.pwr.desc = 0x1F4 ∧ t.pwr.budget = 0 ∧
    t.pwr.gov = {} ∧ t.pwr.wake = wake ∧ t.pwr.pd0Lost = e.pd0Lost ∧
    t.pwr.ctl = if t.pwr.wake = 3 ∨ t.pwr.wake = 4 then 0x2000_000A else 0xA := by
  obtain ⟨mode, start, pd, gts, tick, p, began, pwr⟩ := runEntry_enters wake e s
  rw [enters] at mode start pd gts tick pwr
  rw [tick, pwr]
  exact ⟨mode, start, pd, rfl, rfl, rfl, gts, rfl, rfl, rfl, rfl, rfl, rfl, rfl, rfl, rfl⟩

/-! ### CTRL_READY (R348, R424, R429, R441) -/

/-- Time, mode, domains and PWR, and what SYS shows of the end of Run entry. -/
def State.entryView (s : State) : Nat × Mode × Start × Word × Pwr × Bool × Bool :=
  (s.gts, s.mode, s.start, s.pd, s.pwr, s.sys.ctrlReady, s.sys.postRan)

theorem raiseEv_entryView (e : Ev) (s : State) : (raiseEv e s).entryView = s.entryView := by
  have sys : (raiseEv e s).sys.ctrlReady = s.sys.ctrlReady ∧ (raiseEv e s).sys.postRan = s.sys.postRan := by
    rw [raiseEv_sys]
    split <;> exact ⟨rfl, rfl⟩
  unfold State.entryView
  rw [raiseEv_gts, raiseEv_mode, raiseEv_start, raiseEv_pd, raiseEv_pwr, sys.1, sys.2]

theorem raise_entryView (src code d : Nat) (s : State) : (raise src code d s).entryView = s.entryView :=
  raiseEv_entryView ..

theorem updEvent_entryView (src code d : Nat) (s : State) : (updEvent src code d s).entryView = s.entryView :=
  raiseEv_entryView ..

theorem setBoot_entryView (b : Boot) (s : State) : ({ s with boot := b } : State).entryView = s.entryView := rfl

theorem dscEvents_entryView (bad : Tab Bool) (s : State) : (dscEvents bad s).entryView = s.entryView := by
  unfold dscEvents
  extract_lets m u v w x
  have results : u.entryView = s.entryView := by
    refine foldl_keeps State.entryView (fun s p => ?_) _ s
    extract_lets x
    split
    · rfl
    · exact raise_entryView ..
  have tests : w.entryView = u.entryView := by
    refine (foldl_keeps State.entryView (fun s p => ?_) _ v).trans (raise_entryView ..)
    split
    · exact raise_entryView ..
    · rfl
  have keys : x.entryView = w.entryView := by
    unfold x
    split
    · exact raise_entryView ..
    · rfl
  clear_value u v w x
  rw [← results, ← tests, ← keys]
  split
  · exact raise_entryView ..
  · rfl

theorem setDsc_entryView (d : Dsc) (s : State) : ({ s with dsc := d } : State).entryView = s.entryView := rfl

theorem dscLoad_entryView (bad : Tab Bool) (s : State) : (dscLoad bad s).entryView = s.entryView := by
  unfold dscLoad
  extract_lets m failed
  exact setDsc_entryView ..

theorem dscReady_entryView (bad : Tab Bool) (s : State) : (dscReady bad s).entryView = s.entryView := by
  unfold dscReady
  rw [dscEvents_entryView, dscLoad_entryView]

theorem trialBegin_entryView (s : State) : (trialBegin s).entryView = s.entryView := by
  unfold trialBegin
  extract_lets b joined u
  have begun : u.entryView = s.entryView := setBoot_entryView ..
  clear_value u
  rw [raise_entryView, updEvent_entryView]
  exact begun

theorem updReady_entryView (s : State) : (updReady s).entryView = s.entryView := by
  unfold updReady
  split
  · exact trialBegin_entryView s
  · split
    · extract_lets src u
      rw [raise_entryView, updEvent_entryView]
      exact setBoot_entryView ..
    · split
      · extract_lets src u
        rw [raise_entryView]
        unfold u
        split
        · exact setBoot_entryView ..
        · rfl
      · rfl

theorem writeFlash_tick (rec : List Word) (s : State) : (writeFlash rec s).tick = s.tick := by
  unfold writeFlash
  extract_lets r held u v
  split
  · split
    · exact raise_tick ..
    · rfl
  · rfl

theorem raiseNoRec_tick (src code d : Nat) (s : State) : (raiseNoRec src code d s).tick = s.tick := by
  unfold raiseNoRec
  split
  · exact raiseEv_tick ..
  · rfl

theorem writeOwn_tick (src code d : Nat) (s : State) : (writeOwn src code d s).tick = s.tick :=
  (raiseNoRec_tick ..).trans (writeFlash_tick ..)

theorem flushRecorder_tick (ok : Bool) (s : State) : (flushRecorder ok s).tick = s.tick := by
  unfold flushRecorder
  extract_lets r u src v
  have lost : v.tick = s.tick := by
    change u.tick = s.tick
    unfold u
    split
    · rfl
    · exact writeOwn_tick ..
  clear_value v
  split
  · rfl
  · split
    · exact (foldl_keeps State.tick (fun s rec => writeFlash_tick rec s) _ v).trans lost
    · split
      · rfl
      · exact raise_tick ..

/-- The groups that run their power-on test follow from the self-test's record and the power-cycle count (R424). -/
theorem postMask_congr {s t : State} (dsc : t.dsc = s.dsc) (pwr : t.pwr = s.pwr) (tick : t.tick = s.tick) :
    postMask t = postMask s := by
  unfold postMask entryValid pccMatch entryFresh State.pitch
  rw [dsc, pwr, tick]

/-- A module whose Run entry ends: the registers, before any event (R348). -/
def entryEnded (s : State) : State :=
  { s with start := .ready, sys.ctrlReady := true, sys.postRan := postMask s != 0, pwr.revLatch := false }

/-- The events of SYS, PWR and the recorder at CTRL_READY (R371, R441). -/
def readyEvents (n : Nat) (s : State) : State :=
  let u := raise 0 1 n s
  let v := raise 17 u.pwr.wake (bitsOf u.wk 3 0) u
  let w := if v.pwr.rev then raise 20 1 0 v else v
  if w.pwr.pd0Lost then raise 485 1 w.recorder.hours (raise 480 2 (Config.pd0Records w.tick.pcc) w) else w

theorem readyEvents_entryView (n : Nat) (s : State) : (readyEvents n s).entryView = s.entryView := by
  unfold readyEvents
  extract_lets u v w
  have raised : v.entryView = s.entryView := (raise_entryView ..).trans (raise_entryView ..)
  have reverse : w.entryView = v.entryView := by
    unfold w
    split
    · exact raise_entryView ..
    · rfl
  clear_value v w
  rw [← raised, ← reverse]
  split
  · rw [raise_entryView, raise_entryView]
  · rfl

section
variable {bad : Tab Bool} {n : Nat} {s : State}

theorem ctrlReady_ends (run : s.mode = .run) (start : s.start = .timeBase) : ctrlReady bad n s =
    updReady (dscReady bad (readyEvents n (entryEnded (flushRecorder true s)))) :=
  if_neg (not_or.2 ⟨not_not.2 run, not_not.2 start⟩)

theorem entryEnded_entryView (s : State) : (entryEnded s).entryView =
    (s.gts, s.mode, .ready, s.pd, { s.pwr with revLatch := false }, true, postMask s != 0) := rfl

theorem ctrlReady_entryView (run : s.mode = .run) (start : s.start = .timeBase) : (ctrlReady bad n s).entryView =
    (s.gts, .run, .ready, s.pd, { s.pwr with revLatch := false }, true, postMask s != 0) := by
  have guard := flushRecorder_guard true s
  have mask := postMask_congr (congrArg Guard.dsc guard) (congrArg Guard.pwr guard) (flushRecorder_tick true s)
  have gts : (flushRecorder true s).gts = s.gts := congrArg Guard.gts guard
  have mode : (flushRecorder true s).mode = s.mode := congrArg Guard.mode guard
  have pd : (flushRecorder true s).pd = s.pd := congrArg Guard.pd guard
  have pwr : (flushRecorder true s).pwr = s.pwr := congrArg Guard.pwr guard
  rw [ctrlReady_ends run start, updReady_entryView, dscReady_entryView, readyEvents_entryView, entryEnded_entryView,
    mask, gts, mode, pd, pwr, run]

/-- CTRL_READY ends Run entry and leaves time, mode and domains (R348). -/
theorem ctrlReady_facts {t : State} (run : s.mode = .run) (start : s.start = .timeBase) (ends : ctrlReady bad n s = t) :
    t.start = .ready ∧ t.sys.ctrlReady = true ∧ t.sys.postRan = (postMask s != 0) ∧ t.pwr.revLatch = false ∧
      t.mode = .run ∧ t.gts = s.gts ∧ t.pd = s.pd := by
  have view := ctrlReady_entryView (bad := bad) (n := n) run start
  rw [ends] at view
  simp only [State.entryView, Prod.mk.injEq] at view
  obtain ⟨gts, mode, ready, pd, pwr, control, post⟩ := view
  exact ⟨ready, control, post, congrArg Pwr.revLatch pwr, mode, gts, pd⟩

theorem ctrlReady_nothing (start : s.start ≠ .timeBase) : ctrlReady bad n s = s := if_pos (.inr start)

end

end

/-! ### A source qualifies (R346, R347, R351, R356) -/

/-- Movement wakes from Bivouac alone, so that what has been seen of it does not count in Cold. -/
theorem armedIn_cold (ctl : Word) (moved : Bool) (src : WakeSource) :
    armedIn .cold ctl moved src = armedIn .cold ctl false src := by
  cases src <;> rfl

/-- Settles O48: a wake in each mode by the branch it takes, then CTRL_READY. -/
theorem wakingEntersRun : Obligations.WakingEntersRun := by
  refine ⟨fun src e s => ?_, fun bad n s => ⟨fun run start =>
    ⟨ctrlReady bad n s, rfl, ctrlReady_facts run start rfl⟩,
    fun start => congrArg Host.Outcome.next (ctrlReady_nothing start)⟩⟩
  intro ctl old entered
  have enters {u : State} (same : u.cyclesBefore e = old) : entered (runEntry (wakeCode ctl src) e u) := by
    have facts := runEntry_entered (wakeCode ctl src) e (s := u) rfl
    rw [same] at facts
    exact facts
  refine ⟨fun mode armed => ?_, fun mode unarmed => ?_, fun descent => congrArg Host.Outcome.next
      (wakeNow_descent src e descent), fun h => congrArg Host.Outcome.next (wakeNow_nothing src e h),
    fun mV cold supply armed => ⟨_, congrArg Host.Outcome.next ((restartAfter_eq src e mV).trans
      (if_pos ⟨cold, supply, armed⟩)), enters rfl⟩,
    fun mV h => congrArg Host.Outcome.next ((restartAfter_eq src e mV).trans (if_neg ?_))⟩
  · obtain cold | bivouac := mode
    · rw [cold, armedIn_cold] at armed
      exact ⟨_, congrArg Host.Outcome.next ((wakeNow_cold src e cold).trans (if_pos armed)), enters rfl⟩
    · rw [bivouac] at armed
      exact ⟨_, congrArg Host.Outcome.next ((wakeNow_bivouac src e bivouac).trans (if_pos armed)), enters rfl⟩
  · obtain cold | bivouac := mode
    · rw [cold, armedIn_cold] at unarmed
      exact congrArg Host.Outcome.next ((wakeNow_cold src e cold).trans (if_neg (Bool.eq_false_iff.1 unarmed)))
    · rw [bivouac] at unarmed
      exact congrArg Host.Outcome.next ((wakeNow_bivouac src e bivouac).trans (if_neg (Bool.eq_false_iff.1 unarmed)))
  · rintro ⟨cold, supply, -⟩
    exact h.elim (fun other => other cold) (Nat.not_lt.2 supply)

end Sys2Proof.Machine
end

section
/-!
Statements about the field update, first part: packages, staging and scheduling (R397 to R402).
-/

namespace Sys2Proof.Machine

/-! ### STAGE: the checks (R397 to R399) -/

section
variable {c : OpRef} {s : State}

theorem stage_length (short : c.op.len < 512) : stage c s = failOp c stLen 0 s := if_pos (.inl short)

section
variable (long : 512 ≤ c.op.len) (fits : c.op.len ≤ 2 ^ 32 - 2)
include long fits

theorem stage_busy (notIdle : s.boot.state ≠ .idle) (notStaged : s.boot.state ≠ .staged) :
    stage c s = failOp c stBusy 0 s :=
  (if_neg (not_or.2 ⟨Nat.not_lt.2 long, Nat.not_lt.2 fits⟩)).trans (if_pos ⟨notIdle, notStaged⟩)

section
variable (free : s.boot.state = .idle ∨ s.boot.state = .staged) (read : bufferOpen 0x2B false c.op.addr 256 s = true)
include free read

/-- A header and a part table that the package does not hold are refused after the header. -/
theorem stage_header (h : ¬(pkgHeaderOk (Memory.getMany s.mem c.op.addr 256) = true ∧
    256 + 64 * recNat (Memory.getMany s.mem c.op.addr 256) 11 1 ≤ c.op.len)) :
    stage c s = updEvent 464 2 (recNat (Memory.getMany s.mem c.op.addr 256) 4 4) (failOp c stSchema 256 s) := by
  unfold stage
  rw [if_neg (not_or.2 ⟨Nat.not_lt.2 long, Nat.not_lt.2 fits⟩), if_neg (not_and_or.2 (free.imp not_not.2 not_not.2)),
    readBuffer_open read]
  generalize Memory.getMany s.mem c.op.addr 256 = head at *
  refine (if_neg (not_not.2 rfl)).trans (if_pos ?_)
  simpa [Decidable.imp_iff_not_or] using h

/-- The signature, the part table and the team decide of a package whose header passes. -/
theorem stage_table (head : pkgHeaderOk (Memory.getMany s.mem c.op.addr 256) = true)
    (holds : 256 + 64 * recNat (Memory.getMany s.mem c.op.addr 256) 11 1 ≤ c.op.len)
    (table : bufferOpen 0x2B false (c.op.addr + 256) (64 * recNat (Memory.getMany s.mem c.op.addr 256) 11 1) s = true) :
    stage c s =
      let h := Memory.getMany s.mem c.op.addr 256
      let k := recNat h 11 1
      let bs := Memory.getMany s.mem (c.op.addr + 256) (64 * k)
      if sigOk h bs && tableOk c.op.len s.ropePos (partTable k bs) && teamFits h s then stageBegin c h bs s
      else updEvent 464 2 (recNat h 4 4) (failOp c stSchema (256 + 64 * k) s) := by
  unfold stage
  rw [if_neg (not_or.2 ⟨Nat.not_lt.2 long, Nat.not_lt.2 fits⟩), if_neg (not_and_or.2 (free.imp not_not.2 not_not.2)),
    readBuffer_open read]
  generalize Memory.getMany s.mem c.op.addr 256 = h at *
  refine (if_neg (not_not.2 rfl)).trans ((if_neg (by simp [head, holds])).trans ?_)
  rw [readBuffer_open table]
  refine (if_neg (not_not.2 rfl)).trans ?_
  dsimp only
  rw [← Bool.not_and, ← Bool.not_and]
  cases sigOk h _ && tableOk _ _ _ && teamFits h s <;> rfl

end
end

/-! ### SCHEDULE and CANCEL (R401, R402) -/

theorem schedule_busy (h : s.boot.state ≠ .staged ∨ s.rtl.role = .second) : schedule c s = failOp c stBusy 0 s := by
  have fault : scheduleFault c s = some stBusy := if_pos h
  unfold schedule
  rw [fault]

/-- What SCHEDULE asks of the package, the mask and the twin. -/
def schedulable (c : OpRef) (s : State) : Prop := (c.op.word 8).toNat = s.boot.pkgOther ∧ s.upd.quiet ≠ 0 ∧
  (s.rtl.role = .lead → s.rtl.state = .lead ∧ twinStaged s = true)

theorem schedulable_iff : schedulable c s ↔ ¬((c.op.word 8).toNat ≠ s.boot.pkgOther ∨
    (s.rtl.role = .lead ∧ !(s.rtl.state == .lead && twinStaged s)) ∨ s.upd.quiet = 0) := by
  unfold schedulable
  simp only [not_or, not_not, not_and, Bool.not_eq_true', Bool.not_eq_false, Bool.and_eq_true, beq_iff_eq, ne_eq]
  tauto

section
variable (staged : s.boot.state = .staged) (notSecond : s.rtl.role ≠ .second)
include staged notSecond

theorem scheduleFault_staged : scheduleFault c s =
    if (c.op.word 8).toNat ≠ s.boot.pkgOther ∨ (s.rtl.role = .lead ∧ !(s.rtl.state == .lead && twinStaged s)) ∨
      s.upd.quiet = 0 then some stSchema
    else if (s.gtsOf (c.op.word64 6)).isNone then some stStale else none :=
  if_neg (not_or.2 ⟨not_not.2 staged, notSecond⟩)

theorem schedule_schema (bad : ¬schedulable c s) : schedule c s = failOp c stSchema 0 s := by
  have fault : scheduleFault c s = some stSchema :=
    (scheduleFault_staged staged notSecond).trans (if_pos (not_not.1 (mt schedulable_iff.2 bad)))
  unfold schedule
  rw [fault]

section
variable (good : schedulable c s)
include good

theorem schedule_stale (unmapped : s.gtsOf (c.op.word64 6) = none) : schedule c s = failOp c stStale 0 s := by
  have fault : scheduleFault c s = some stStale := by
    rw [scheduleFault_staged staged notSecond, if_neg (schedulable_iff.1 good), unmapped]
    rfl
  unfold schedule
  rw [fault]

theorem schedule_schedules {g : Nat} (mapped : s.gtsOf (c.op.word64 6) = some g) : schedule c s =
    updEvent 465 1 (low24T s) (finishOp c stOk 0 (wordOf g) 0 { s with
      boot.state := .scheduled, boot.instant := c.op.word64 6, boot.team := s.rtl.role == .lead, boot.step := 0
      boot.moved := false, upd.when' := g }) := by
  have fault : scheduleFault c s = none := by
    rw [scheduleFault_staged staged notSecond, if_neg (schedulable_iff.1 good), mapped]
    rfl
  unfold schedule
  rw [fault, mapped]

end

end

theorem cancel_busy (notScheduled : s.boot.state ≠ .scheduled) (notWaiting : s.boot.state ≠ .waiting) :
    cancel c s = failOp c stBusy 0 s := if_pos ⟨notScheduled, notWaiting⟩

theorem cancel_cancels (h : s.boot.state = .scheduled ∨ s.boot.state = .waiting) : cancel c s =
    updEvent 465 3 (low24T s) (finishOp c stOk 0 (wordOf s.boot.state.code) 0 { s with
      boot.state := .staged, boot.team := false, boot.step := 0 }) :=
  if_neg (not_and_or.2 (h.imp not_not.2 not_not.2))

end

/-! ### STAGE_COMPLETE (R399, R400) -/

section
variable {c : OpRef} {s : State}

/-- The part table that a running stage keeps. -/
def stagedTable (c : OpRef) : List Byte := (c.op.aux.drop 3).map fun n => BitVec.ofNat 8 n

/-- The entries for this position. -/
def ownParts (c : OpRef) (s : State) : List PkgPart :=
  partKinds.filterMap fun k => partFor (partTable ((stagedTable c).length / 64) (stagedTable c)) s.ropePos k

/-- Those with an image of their own. -/
def ownImages (c : OpRef) (s : State) : List PkgPart := (ownParts c s).filter fun p => p.mode == 0

/-- Every image has its digest. -/
def imagesGood (c : OpRef) (s : State) : Bool :=
  (ownImages c s).all fun p => sha256 (imageOf (bufferOf c s) p) == p.digest

theorem stageComplete_idle (none' : stageOp s = none) : stageComplete s = s := by
  unfold stageComplete
  rw [none']

theorem stageComplete_read (runs : stageOp s = some c) (read : bufferOpen 0x2B false c.op.addr c.op.len s = true) :
    stageComplete s = if imagesGood c s then
        updEvent 464 1 (c.op.aux.getD 1 0) (finishOp c stOk c.op.len (wordOf (ownImages c s).length)
          (wordOf (c.op.aux.getD 1 0)) { s with
            boot.state := .staged, boot.otherOk := true, boot.pkgOther := c.op.aux.getD 1 0
            boot.schemaOther := c.op.aux.getD 2 0
            boot.partsOther := (ownParts c s).map fun p => (p.kind, partBytes (bufferOf c s) s p) })
      else updEvent 464 2 (c.op.aux.getD 1 0) (failOp c stSchema c.op.len { s with boot.state := .idle }) := by
  unfold stageComplete
  rw [runs]
  dsimp only
  rw [readBuffer_open read]
  exact if_neg (not_not.2 rfl)

end

/-! ### SCHEDULE_INSTANT_REACHED (R402) -/

section
variable {g : Nat} {s : State}

theorem instantReached_nothing (h : s.boot.state ≠ .scheduled ∨ s.rtl.role = .second) : instantReached s = s := if_pos h

section
variable (scheduled : s.boot.state = .scheduled) (notSecond : s.rtl.role ≠ .second) (instant : instantAt s = some g)
include scheduled notSecond instant

theorem instantReached_reach : instantReached s =
    s.reach g fun s => updEvent 465 2 (low24T s) { s with boot.state := .waiting } := by
  unfold instantReached
  rw [if_neg (not_or.2 ⟨not_not.2 scheduled, notSecond⟩), instant]

theorem instantReached_waits (inTick : g < boundaryOf (s.t + 1)) :
    instantReached s = updEvent 465 2 (low24T s) { s.advance g with boot.state := .waiting } := by
  rw [instantReached_reach scheduled notSecond instant, State.reach_inTick _ inTick]
  unfold low24T
  rw [State.advance_t inTick]

theorem instantReached_early (early : boundaryOf (s.t + 1) ≤ g) : instantReached s = s :=
  (instantReached_reach scheduled notSecond instant).trans (if_neg (Nat.not_lt.2 early))

end

end

end Sys2Proof.Machine
end

section
/-!
Statements about the field update, second part: activation, trial, commit and reversion (R402 to R409, R412).
-/

namespace Sys2Proof.Machine

/-! ### The live letter (R395, R404, R408) -/

/-- The boot record with live and other set in each other's place. -/
def Boot.flip (b : Boot) : Boot :=
  { b with
    liveB := !b.liveB, otherOk := true, pkgLive := b.pkgOther, pkgOther := b.pkgLive
    schemaLive := b.schemaOther, schemaOther := b.schemaLive, partsLive := b.partsOther, partsOther := b.partsLive }

theorem toNewSet_boot (s : State) : (toNewSet s).boot = { s.boot.flip with moved := true, act := true } := rfl

/-- The letter goes back where it has moved. -/
theorem toOldSet_eq (s : State) : toOldSet s =
    { s with boot := { (if s.boot.moved then s.boot.flip else s.boot) with moved := false, act := false } } := by
  unfold toOldSet
  dsimp only
  split <;> rfl

/-! ### A Descent for the update (R404, R409) -/

/-- What a latched wake and a Descent that begins leave. -/
def Guard.descended (g : Guard) : Guard :=
  { g with
    mode := .descent, pwr := { g.pwr with latched := true, descT := none, dstep := 1, graceEnd := none }
    dsc := g.dsc.begun (g.gts / tickLen), boot := g.boot.cut }

section
variable {s : State} (run : s.mode = .run) (ready : s.start = .ready)
include run ready

theorem descendInto_guard : (descendInto s).guard = s.guard.descended :=
  descentBegin_guard (s := { s with pwr.latched := true }) run ready

theorem activateHere_guard (k : Nat) : (activateHere k s).guard =
    Guard.descended { s.guard with boot := { s.boot.flip with moved := true, act := true, step := k } } := by
  unfold activateHere
  extract_lets srcA srcB u
  have flipped : (updEvent 466 1 (low24T u) u).guard =
      { s.guard with boot := { s.boot.flip with moved := true, act := true, step := k } } :=
    (updEvent_guard ..).trans (congrArg (fun b : Boot => { s.guard with boot := { b with step := k } }) (toNewSet_boot s))
  generalize updEvent 466 1 (low24T u) u = v at *
  have mode : v.mode = .run := (congrArg Guard.mode flipped).trans run
  have start : v.start = .ready := (congrArg Guard.start flipped).trans ready
  rw [descendInto_guard mode start, flipped]

/-- A module in Run that activates: the live letter is the new set's, and it descends to start again (R404). -/
theorem activateHere_facts (k : Nat) {t : State} (activates : activateHere k { s with boot.state := .activating } = t) :
    t.boot.liveB = !s.boot.liveB ∧ t.boot.moved = true ∧ t.boot.act = true ∧ t.boot.pkgLive = s.boot.pkgOther ∧
    t.boot.pkgOther = s.boot.pkgLive ∧ t.boot.state = .activating ∧ t.boot.step = k ∧ t.mode = .descent ∧
    t.dsc.td = s.t ∧ t.pwr.latched = true := by
  have guard := activateHere_guard (s := { s with boot.state := .activating }) run ready k
  rw [activates] at guard
  have boot : t.boot = { s.boot.flip with state := .activating, moved := true, act := true, step := k } :=
    congrArg Guard.boot guard
  have td : t.dsc.td = s.t := congrArg (fun g => g.dsc.td) guard
  have latched : t.pwr.latched = true := congrArg (fun g => g.pwr.latched) guard
  have mode : t.mode = .descent := congrArg Guard.mode guard
  rw [boot]
  exact ⟨rfl, rfl, rfl, rfl, rfl, rfl, rfl, mode, td, latched⟩

end

/-! ### ACTIVATION (R402, R406) -/

section
variable {s : State}

/-- A module in Run at a boundary. -/
def State.atBoundary (s : State) : Prop := s.mode = .run ∧ s.start = .ready ∧ s.gts = boundaryOf s.t

/-- The instant is past, and a quiet point holds. -/
def State.activates (s : State) : Prop := s.boot.state = .waiting ∧ instantPast s = true ∧ quiet s = true

theorem activationDue_iff : activationDue s = true ↔ s.activates := by
  simp [activationDue, State.activates, and_assoc]

theorem activation_elsewhere (h : ¬s.atBoundary) : activation s = s :=
  if_pos (by simpa only [State.atBoundary, Classical.not_and_iff_not_or_not] using h)

section
variable (here : s.atBoundary)
include here

theorem atBoundary_not : ¬(s.mode ≠ .run ∨ s.start ≠ .ready ∨ s.gts ≠ boundaryOf s.t) := by
  obtain ⟨run, ready, boundary⟩ := here
  exact not_or.2 ⟨not_not.2 run, not_or.2 ⟨not_not.2 ready, not_not.2 boundary⟩⟩

theorem activation_lone (due : s.activates) (lone : s.rtl.role = .lone) (alone : s.boot.team = false) :
    activation s = activateHere 0 { s with boot.state := .activating } := by
  unfold activation
  rw [if_neg (atBoundary_not here), lone]
  exact if_pos (by rw [activationDue_iff.2 due, alone]; rfl)

theorem activation_lead (due : s.activates) (lead : s.rtl.role = .lead) (leads : s.rtl.state = .lead)
    (team : s.boot.team = true ∨ twinStaged s = true) :
    activation s = { s with boot.state := .activating, boot.team := true, boot.step := 1 } := by
  unfold activation
  rw [if_neg (atBoundary_not here), lead]
  exact if_pos (by rw [activationDue_iff.2 due, leads, Bool.or_eq_true_iff.2 team]; rfl)

theorem activation_second (second : s.rtl.role = .second) (follows : (s.activates ∧ s.boot.team = true) ∨
    (s.boot.state = .activating ∧ s.boot.step = 1 ∧ s.boot.moved = false)) :
    activation s = activateHere 1 { s with boot.state := .activating } := by
  unfold activation
  rw [if_neg (atBoundary_not here), second]
  refine if_pos ?_
  obtain ⟨due, team⟩ | ⟨activating, step, moved⟩ := follows
  · rw [activationDue_iff.2 due, team]
    rfl
  · rw [activating, step, moved]
    exact Bool.or_true _

end

theorem activation_nothing (h : ¬s.atBoundary ∨ (s.rtl.role ≠ .second ∧ ¬s.activates)) : activation s = s := by
  by_cases here : s.atBoundary
  · obtain elsewhere | ⟨notSecond, notDue⟩ := h
    · exact absurd here elsewhere
    have idle : activationDue s = false := Bool.eq_false_iff.2 (mt activationDue_iff.1 notDue)
    unfold activation
    rw [if_neg (atBoundary_not here)]
    cases role : s.rtl.role with
    | lone => exact if_neg (by rw [idle]; exact Bool.false_ne_true)
    | lead => exact if_neg (by rw [idle]; exact Bool.false_ne_true)
    | second => exact absurd role notSecond
  · exact activation_elsewhere here

end

/-! ### COMMIT_EFFECT (R407) -/

section
variable {s : State}

/-- The lead's frame of the tick just ended has told a second of the team this. -/
def State.told (s : State) (f : TickFrame) : Prop := s.rtl.role = .second ∧ s.boot.team = true ∧
  s.rtl.last.frame = true ∧ s.rtl.frameIn = some f

theorem commitEffect_nothing (h : s.boot.state ≠ .trial ∨ (s.rtl.role ≠ .second ∧ s.upd.commitT = none)) :
    commitEffect s = s := by
  refine if_pos ?_
  unfold commitDue
  obtain noTrial | ⟨notSecond, none'⟩ := h
  · rw [beq_eq_false_iff_ne.2 noTrial]
    rfl
  · rw [if_neg notSecond, none', Option.any_none, Bool.and_false, Bool.and_false]
    rfl

theorem commitEffect_commits (trial : s.boot.state = .trial)
    (h : (∃ k, s.rtl.role ≠ .second ∧ s.upd.judged = none ∧ s.upd.commitT = some k ∧ k + 2 ≤ s.t) ∨
      ∃ f, s.told f ∧ (f.upd.notice = 5 ∨ f.upd.state = 0)) : commitEffect s =
    updEvent 467 3 (low24T s) { s with
      boot.state := .idle, boot.team := false, boot.step := 0, boot.moved := false, upd.commitT := none
      upd.late := false, upd.schemaSeen := false, upd.reject := false, upd.report := 0 } := by
  have due : commitDue s = true := by
    unfold commitDue
    rw [trial]
    obtain ⟨k, notSecond, unjudged, commit, past⟩ | ⟨f, ⟨second, team, frame, sent⟩, notice⟩ := h
    · rw [if_neg notSecond, unjudged, commit]
      simp [past]
    · rw [if_pos second, team, frame, sent]
      simpa using notice
  exact if_neg (by rw [due]; exact Bool.false_ne_true)

/-! ### TRIAL_DEADLINE (R408) -/

theorem trialDeadline_nothing (h : s.boot.state ≠ .trial ∨ boundaryOf (s.t + 1) ≤ s.boot.deadline) :
    trialDeadline s = s := by
  by_cases trial : s.boot.state = .trial
  · exact (if_neg (not_not.2 trial)).trans (if_neg (Nat.not_lt.2 (h.resolve_left (not_not.2 trial))))
  · exact if_pos trial

/-- A cause that shows where none has been judged and no COMMIT stands is judged (R408). -/
theorem judge_judges {u : State} {k : Nat} (trial : u.boot.state = .trial) (notSecond : u.rtl.role ≠ .second)
    (unjudged : u.upd.judged = none) (uncommitted : u.upd.commitT = none) (cause : causeNow u = k) (some' : k ≠ 0) :
    judge u = judgeCause k u := by
  unfold judge
  rw [if_neg (by simp [trial, notSecond, unjudged]), cause, uncommitted]
  exact if_neg (by simp [some'])

theorem causeNow_late {u : State} (lone : u.rtl.role = .lone) (own : causeSeen u = 0) (late : u.upd.late = true) :
    causeNow u = 2 := by
  unfold causeNow
  simp [own, lone, late]

section
variable (trial : s.boot.state = .trial) (inTick : s.boot.deadline < boundaryOf (s.t + 1))
include trial inTick

theorem trialDeadline_late : trialDeadline s =
    if (s.advance s.boot.deadline).gts = boundaryOf s.t then judge { s.advance s.boot.deadline with upd.late := true }
    else { s.advance s.boot.deadline with upd.late := true } := by
  refine (if_neg (not_not.2 trial)).trans ((State.reach_inTick _ inTick).trans ?_)
  have same := State.advance_t inTick
  generalize s.advance s.boot.deadline = u at *
  rw [← same]
  rfl

end

theorem judgeCause_lone {u : State} (k : Nat) (alone : u.boot.team = false) (uncommitted : u.upd.commitT = none) :
    judgeCause k u = { u with upd.judged := some (k, u.t + 1) } := by
  unfold judgeCause
  rw [alone, ← uncommitted]
  rfl

/-- The deadline that meets a boundary of a lone module is judged there as cause 2. -/
theorem trialDeadline_judges (trial : s.boot.state = .trial) (inTick : s.boot.deadline < boundaryOf (s.t + 1))
    (boundary : (s.advance s.boot.deadline).gts = boundaryOf s.t) (lone : s.rtl.role = .lone)
    (unjudged : s.upd.judged = none) (uncommitted : s.upd.commitT = none) (own : causeSeen s = 0)
    (alone : s.boot.team = false) : trialDeadline s =
    { s.advance s.boot.deadline with upd.late := true, upd.judged := some (2, s.t + 1) } := by
  rw [trialDeadline_late trial inTick, if_pos boundary]
  have t := State.advance_t inTick
  have boot := State.advance_boot s s.boot.deadline
  have rtl := State.advance_rtl s s.boot.deadline
  have upd := State.advance_upd s s.boot.deadline
  generalize s.advance s.boot.deadline = u at *
  have late : causeNow { u with upd.late := true } = 2 := by
    refine causeNow_late ((congrArg Rtl.role rtl).trans lone) ?_ rfl
    unfold causeSeen at own ⊢
    rw [← upd] at own
    exact own
  have committed : u.upd.commitT = none := (congrArg Upd.commitT upd).trans uncommitted
  have judges : judge { u with upd.late := true } = judgeCause 2 { u with upd.late := true } :=
    judge_judges ((congrArg Boot.state boot).trans trial)
      (fun second => nomatch ((congrArg Rtl.role rtl).trans lone).symm.trans second)
      ((congrArg Upd.judged upd).trans unjudged) committed late (by decide)
  have cause : judgeCause 2 { u with upd.late := true } = _ :=
    judgeCause_lone 2 ((congrArg Boot.team boot).trans alone) committed
  rw [judges, cause, ← t]
  rfl

/-! ### REVERSION (R408, R409) -/

theorem reversion_nothing (h : s.boot.state ≠ .trial ∨ (s.rtl.role ≠ .second ∧ s.upd.judged = none)) :
    reversion s = s := by
  have none' : reversionDue s = none := by
    unfold reversionDue
    by_cases trial : s.boot.state = .trial
    · obtain ⟨notSecond, unjudged⟩ := h.resolve_left (not_not.2 trial)
      rw [if_neg (not_not.2 trial), if_neg notSecond, unjudged]
    · exact if_pos trial
  unfold reversion
  rw [none']

/-- The cause that has been judged here, or that the lead has announced. -/
theorem reversionDue_of {k : Nat} (trial : s.boot.state = .trial)
    (h : (∃ tr, s.rtl.role ≠ .second ∧ s.upd.judged = some (k, tr) ∧ tr ≤ s.t) ∨
      ∃ f, s.told f ∧ 1 ≤ k ∧ k ≤ 4 ∧ f.upd.notice = k) : reversionDue s = some k := by
  unfold reversionDue
  rw [if_neg (not_not.2 trial)]
  obtain ⟨tr, notSecond, cause, past⟩ | ⟨f, ⟨second, team, frame, sent⟩, least, most, rfl⟩ := h
  · rw [if_neg notSecond, cause]
    exact if_pos past
  · rw [if_pos second, frame, team, sent]
    exact (if_neg (by decide)).trans (if_pos ⟨least, most⟩)

/-- The boot record as the letter goes back. -/
def Boot.reverted (b : Boot) (k t : Nat) : Boot :=
  { (if b.moved then b.flip else b) with
    moved := false, act := false, state := .reverting, step := 0, lastCause := k, lastT := t }

theorem Boot.reverted_liveB (b : Boot) (k t : Nat) :
    (b.reverted k t).liveB = if b.moved then !b.liveB else b.liveB := by
  change (if b.moved then b.flip else b).liveB = _
  split <;> rfl

theorem revert_guard (k : Nat) (s : State) : (revert k s).guard =
    { s.guard with boot := s.boot.reverted k s.t, judged := none, commitT := none } := by
  unfold revert
  rw [toOldSet_eq, updEvent_guard]
  rfl

/-- A restart is owed where the images that run are not those of the set that is live again. -/
theorem revert_restart (k : Nat) (s : State) : (revert k s).upd.restart =
    if s.upd.runB ≠ (s.boot.reverted k s.t).liveB then some k else none := by
  unfold revert
  rw [toOldSet_eq]
  refine (congrArg Upd.restart (raiseEv_upd ..)).trans ?_
  simp only [wrongSet, bne_iff_ne]
  rfl

/-- What a restart that is not yet due, or that is, leaves of the reversion's record. -/
def Guard.reversion (g : Guard) : Bool × Bool × Bool × Nat × Nat × Option (Nat × Nat) × Option Nat :=
  (g.boot.liveB, g.boot.moved, g.boot.act, g.boot.lastCause, g.boot.lastT, g.judged, g.commitT)

theorem Boot.cut_of_reverting {b : Boot} (reverting : b.state = .reverting) : b.cut = b :=
  if_neg (c := b.state = .staging) fun staging => nomatch reverting.symm.trans staging

theorem restartDue_inRun {alone : Bool} (due : restartDue alone s = true) : s.mode = .run ∧ s.start = .ready := by
  unfold restartDue at due
  simp only [Bool.and_eq_true, beq_iff_eq] at due
  exact due.1

/-- The restart of a reversion descends where it is due, and leaves the boot record but for the mark of the last. -/
theorem restartNow_guard (alone : Bool) (s : State) : (restartNow alone s).guard = if restartDue alone s then
    Guard.descended { s.guard with boot := { s.boot with final := lastToRestart s } } else s.guard := by
  unfold restartNow
  by_cases due : restartDue alone s = true
  · obtain ⟨run, ready⟩ := restartDue_inRun due
    rw [if_neg (by simp [due]), if_pos due]
    exact descendInto_guard (s := { s with boot.final := lastToRestart s, upd.restart := none }) run ready
  · rw [if_pos (by simpa using due), if_neg due]

theorem backToStaged_reversion (s : State) : (backToStaged s).guard.reversion = s.guard.reversion := rfl

theorem Guard.descended_reversion {g : Guard} (reverting : g.boot.state = .reverting) :
    g.descended.reversion = g.reversion ∧ g.descended.boot.state = .reverting := by
  have boot : g.descended.boot = g.boot := Boot.cut_of_reverting reverting
  unfold Guard.reversion
  rw [boot]
  exact ⟨rfl, reverting⟩

theorem restartNow_reversion (alone : Bool) (reverting : s.boot.state = .reverting) :
    (restartNow alone s).guard.reversion = s.guard.reversion ∧ (restartNow alone s).boot.state = .reverting := by
  have guard := restartNow_guard alone s
  generalize restartNow alone s = t at *
  split at guard
  next =>
    obtain ⟨kept, state⟩ := Guard.descended_reversion
      (g := { s.guard with boot := { s.boot with final := lastToRestart s } }) reverting
    exact ⟨(congrArg Guard.reversion guard).trans kept, (congrArg (fun g => g.boot.state) guard).trans state⟩
  next => exact ⟨congrArg Guard.reversion guard, (congrArg (fun g => g.boot.state) guard).trans reverting⟩

/-- No twin is left to wait for. -/
def State.twinGone (s : State) : Bool := s.rtl.role == .lone || s.rtl.state == .alone

section
variable {k : Nat} (due : reversionDue s = some k)
include due

theorem reversion_eq : reversion s =
    if (revert k s).upd.restart.isNone && ((revert k s).twinGone || !(revert k s).boot.team) then
      backToStaged (revert k s)
    else restartNow (revert k s).twinGone (revert k s) := by
  unfold reversion
  rw [due]
  rfl

/-- The letter is back, and cause and tick are recorded (R408). -/
theorem reversion_reversion : (reversion s).guard.reversion =
    ((s.boot.reverted k s.t).liveB, false, false, k, s.t, none, none) := by
  have guard := revert_guard k s
  have reverting : (revert k s).boot.state = .reverting := congrArg (fun g => g.boot.state) guard
  have reverted : (revert k s).guard.reversion = _ := congrArg Guard.reversion guard
  rw [reversion_eq due]
  generalize revert k s = v at *
  refine Eq.trans ?_ reverted
  split
  · exact backToStaged_reversion v
  · exact (restartNow_reversion v.twinGone reverting).1

theorem reversion_record : (reversion s).boot.liveB = (s.boot.reverted k s.t).liveB ∧ (reversion s).boot.moved = false ∧
    (reversion s).boot.act = false ∧ (reversion s).boot.lastCause = k ∧ (reversion s).boot.lastT = s.t ∧
    (reversion s).upd.judged = none ∧ (reversion s).upd.commitT = none := by
  have record := reversion_reversion due
  simp only [Guard.reversion, Prod.mk.injEq] at record
  exact record

section
variable (other : s.upd.runB ≠ (s.boot.reverted k s.t).liveB)
include other

/-- A module that runs other images than the live set's owes a restart, and is REVERTING (R409). -/
theorem reversion_restarts : reversion s = restartNow (revert k s).twinGone (revert k s) := by
  rw [reversion_eq due, revert_restart, if_pos other]
  rfl

theorem reversion_state : (reversion s).boot.state = .reverting := by
  rw [reversion_restarts due other]
  exact (restartNow_reversion _ (congrArg (fun g => g.boot.state) (revert_guard k s))).2

/-- A lone module restarts at once for causes 1 and 3 (R409). -/
theorem reversion_descends (alone : s.boot.team = false) (cause : k = 1 ∨ k = 3) (run : s.mode = .run)
    (ready : s.start = .ready) : (reversion s).mode = .descent ∧ (reversion s).pwr.latched = true := by
  have guard := revert_guard k s
  have restart := revert_restart k s
  rw [if_pos other] at restart
  rw [reversion_restarts due other]
  generalize revert k s = v at *
  have team : v.boot.team = false := by
    refine (congrArg (fun g => g.boot.team) guard).trans (Eq.trans ?_ alone)
    change (if s.boot.moved then s.boot.flip else s.boot).team = s.boot.team
    split <;> rfl
  have mode : v.mode = .run := (congrArg Guard.mode guard).trans run
  have start : v.start = .ready := (congrArg Guard.start guard).trans ready
  have begins : restartDue v.twinGone v = true := by
    unfold restartDue
    rw [mode, start, restart, team]
    obtain rfl | rfl := cause <;> rfl
  have descends := restartNow_guard v.twinGone v
  rw [if_pos begins] at descends
  exact ⟨congrArg Guard.mode descends, congrArg (fun g => g.pwr.latched) descends⟩

end

end

end

/-! ### UPD_CMD (R405, R407, R408) -/

section
variable {s : State}

theorem commitOk_iff : commitOk s = true ↔ s.boot.state = .trial ∧ s.rtl.role ≠ .second ∧ s.upd.done = true ∧
    runsOld s = false ∧ s.boot.moved = true ∧
    (twinCounts s = true → s.upd.twinDone = true ∧ s.upd.twinOld = false) := by
  unfold commitOk
  simp only [Bool.and_eq_true, beq_iff_eq, bne_iff_ne, Bool.not_eq_true', Bool.or_eq_true, and_assoc,
    ← Bool.not_eq_true, ← imp_iff_not_or]

end

/-- Settles O57: the ring operations with their completions, the happenings at a boundary, then UPD_CMD. -/
theorem updatesAreStagedActivatedAndJudged : Obligations.UpdatesAreStagedActivatedAndJudged := by
  refine ⟨⟨fun n c s hn => ⟨fun taken => ?_, fun taken => ?_, fun taken => ?_⟩, fun s on => ?_⟩, fun s on running => ?_,
    fun a v s access => ?_⟩
  case refine_1 =>
    exact ⟨fun short => takeOp_next n hn taken (stage_length short), fun long fits =>
      ⟨fun notIdle notStaged => takeOp_next n hn taken (stage_busy long fits notIdle notStaged), fun free read =>
        ⟨fun unfit => takeOp_next n hn taken (stage_header long fits free read unfit), fun ⟨head, holds⟩ table =>
          takeOp_next n hn taken (stage_table long fits free read head holds table)⟩⟩⟩
  case refine_2 =>
    exact ⟨fun busy => takeOp_next n hn taken (schedule_busy busy), fun staged notSecond =>
      ⟨fun bad => takeOp_next n hn taken (schedule_schema staged notSecond bad),
        fun good unmapped => takeOp_next n hn taken (schedule_stale staged notSecond good unmapped),
        fun g good mapped => takeOp_next n hn taken (schedule_schedules staged notSecond good mapped)⟩⟩
  case refine_3 =>
    exact ⟨fun notScheduled notWaiting => takeOp_next n hn taken (cancel_busy notScheduled notWaiting),
      fun h => takeOp_next n hn taken (cancel_cancels h)⟩
  case refine_4 =>
    have acts (k : State → State) : (.next (if s.pdOn 2 then k s else s) : Out) = .next (k s) :=
      congrArg Host.Outcome.next (if_pos on)
    refine ⟨fun c runs read => ?_, fun idle => (acts _).trans (congrArg Host.Outcome.next (stageComplete_idle idle)),
      fun g scheduled notSecond instant => ⟨fun inTick => (acts _).trans (congrArg Host.Outcome.next
          (instantReached_waits scheduled notSecond instant inTick)),
        fun early => (acts _).trans (congrArg Host.Outcome.next
          (instantReached_early scheduled notSecond instant early))⟩,
      fun h => (acts _).trans (congrArg Host.Outcome.next (instantReached_nothing h))⟩
    have complete := stageComplete_read runs read
    exact ⟨fun good => (acts _).trans (congrArg Host.Outcome.next (complete.trans (if_pos good))),
      fun bad => (acts _).trans (congrArg Host.Outcome.next (complete.trans (if_neg (Bool.eq_false_iff.1 bad))))⟩
  case refine_5 =>
    have acts (k : State → State) : whileUpd s k = .next (k s) := whileUpd_on k on running
    refine ⟨fun here due lone alone => ?_, fun here due lead leads team => ?_,
      fun here second activating step moved => ?_, fun here due second team => ?_,
      fun h => (acts _).trans (congrArg _ (activation_nothing h)), ⟨fun trial h => ?_, fun k trial h => ?_⟩,
      fun h => (acts _).trans (congrArg _ (commitEffect_nothing h)), fun trial inTick => ⟨fun between => ?_, ?_⟩,
      fun h => (acts _).trans (congrArg _ (trialDeadline_nothing h)),
      fun h => (acts _).trans (congrArg _ (reversion_nothing h))⟩
    · exact ⟨_, (acts _).trans (congrArg _ (activation_lone here due lone alone)),
        activateHere_facts here.1 here.2.1 0 rfl⟩
    · exact (acts _).trans (congrArg _ (activation_lead here due lead leads team))
    · exact ⟨_, (acts _).trans (congrArg _ (activation_second here second (.inr ⟨activating, step, moved⟩))),
        activateHere_facts here.1 here.2.1 1 rfl⟩
    · exact ⟨_, (acts _).trans (congrArg _ (activation_second here second (.inl ⟨due, team⟩))),
        activateHere_facts here.1 here.2.1 1 rfl⟩
    · exact (acts _).trans (congrArg _ (commitEffect_commits trial h))
    · have due := reversionDue_of trial h
      obtain ⟨letter, moved, act, cause, tick, judged, commit⟩ := reversion_record due
      refine ⟨reversion s, acts _, letter.trans (Boot.reverted_liveB ..), moved, act, cause, tick, judged, commit,
        fun other => reversion_state due (letter ▸ other), fun _ other alone cause run ready =>
          reversion_descends due (letter ▸ other) alone cause run ready⟩
    · exact (acts _).trans (congrArg _ ((trialDeadline_late trial inTick).trans (if_neg between)))
    · exact fun boundary lone unjudged uncommitted own alone => (acts _).trans (congrArg _
        (trialDeadline_judges trial inTick boundary lone unjudged uncommitted own alone))
  case refine_6 =>
    have written (k : State → State) : (.next (gateWrite a 13 2 s k) : Out) = .next (k (s.reply a .ok)) :=
      congrArg Host.Outcome.next (gateWrite_open k access)
    refine ⟨?_, ?_, commitOk_iff, ?_⟩
    · rintro rfl
      exact written (updCmd 1)
    · rintro rfl
      exact written (updWrite 0x30 2)
    · rintro rfl
      exact written (updCmd 4)

end Sys2Proof.Machine
end
